-- ==== Sys2Proof/Word.lean ====
section
/-! DEFINITION. The word types of the machine (R12, R18) and their plainest arithmetic. -/

namespace Sys2Proof

/-- A byte of memory. -/
abbrev Byte := BitVec 8
/-- A 32-bit register (R17). -/
abbrev Word := BitVec 32
/-- A 64-bit register pair, pointer or management register. -/
abbrev DWord := BitVec 64

/-- A sparse table: keys strictly rising, one entry per key. -/
abbrev Tab (α : Type) := List (Nat × α)

end Sys2Proof
end

