-- ==== Sys2Proof/Config.lean ====
section
/-! DEFINITION. What is fixed for the device (figures of R1 to R4, R257, R305) and the free values:
opaque constants that no proof can see into. -/

namespace Sys2Proof.Config

/-- Compute dies 0 to 7 (R1). -/
def dies : Nat := 8
/-- Cores of die `d`: 96 on Rime dies 0 to 3, 128 on Firn dies 4 to 7 (R1). -/
def coresOf (d : Nat) : Nat := if d < 4 then 96 else 128
/-- `%dietype`: 0 Rime, 1 Firn (R4). -/
def dieType (d : Nat) : Nat := if d < 4 then 0 else 1
/-- DCAP of die `d`: bit 0 the base set, bit 4 eight-component algebras on Firn only (R305). -/
def dcap (d : Nat) : BitVec 128 := if d < 4 then 0x1#128 else 0x11#128
/-- Grantable die scratchpad of die `d` in bytes: 86 MiB on Rime, 72 MiB on Firn (R263). -/
def dieGrant (d : Nat) : Nat := if d < 4 then 86 * 1048576 else 72 * 1048576
/-- Unit scratchpad bytes per core (R257). -/
def unitBytes : Nat := 524288
/-- Cluster scratchpad bytes (R257). -/
def clusBytes : Nat := 4194304
/-- Die scratchpad bytes (R257). -/
def dieBytes : Nat := 134217728
/-- Arithmetic cycles in a microsecond at 1.8 GHz (R12). -/
def cyclesPerUs : Nat := 1800

/-- FREE VALUE: cycles of a die that pass before a step, by step and die; die 8 is the collective die (log 3). -/
opaque elapsed : Nat → Nat → Nat
/-- FREE VALUE: a word the spec leaves unspecified, one per draw (log 4). -/
opaque freeWord : Nat → BitVec 32
/-- FREE VALUE: the walk of a load with a lookahead window that meets a page fault ends after the load has issued (R64, log 43). -/
opaque lateWalk : Nat → Bool
/-- FREE VALUE: a fenced die that the host resets passes power-up (R405, log 51). -/
opaque diePasses : Nat → Bool
/-- FREE VALUE: the memory shell of a die that the host resets works (R405, R414, log 51). -/
opaque shellWorks : Nat → Bool
/-- FREE VALUE: a byte of host memory that nothing has written (log 7). -/
opaque hostByte : Nat → BitVec 8
/-- IMPLEMENTATION: ML-DSA-65 verification of signature, key and message (R423, log 9). -/
opaque mldsaVerify : List (BitVec 8) → List (BitVec 8) → List (BitVec 8) → Bool
/-- IMPLEMENTATION: the code under which a requester offers ML-DSA-65 (R425 gives none, log 9). -/
opaque mldsaCode : BitVec 16
/-- IMPLEMENTATION: ML-DSA-65 signature by the identity key over a message (R425, log 9). -/
opaque mldsaSign : List (BitVec 8) → List (BitVec 8)
/-- IMPLEMENTATION: the factory certificate chain of slot 0 (R425, log 9). -/
opaque certChain : List (BitVec 8)
/-- IMPLEMENTATION: the vendor key digest fused in the collective die (R423, log 9). -/
opaque fusedKeyDigest : BitVec 512
/-- IMPLEMENTATION: REPLCTL's selection, 0 off, 1 record, 2 replay (R377 gives no field layout, log 10). -/
opaque replMode : BitVec 64 → Nat
/-- IMPLEMENTATION: bytes of one replay buffer, by REPLCTL and die (R377 gives no size, log 10). -/
opaque replCapacity : BitVec 64 → Nat → Nat
/-- IMPLEMENTATION: physical address of the n-th issue entry of an issue slot, by REPLCTL, issue slot and n (R377, log 10). -/
opaque replIssueAt : BitVec 64 → Nat → Nat → Nat
/-- IMPLEMENTATION: physical address of the n-th event record of a die, by REPLCTL, die and n (R377, log 10). -/
opaque replEventAt : BitVec 64 → Nat → Nat → Nat
/-- IMPLEMENTATION: physical page of the device-side alias of a context's aperture page (R302 gives no address, log 17). -/
opaque aliasPage : Nat → Nat
/-- IMPLEMENTATION: the ECC syndrome of an inverted bit position (R409 gives no code, log 11). -/
opaque syndrome : Nat → BitVec 32
/-- IMPLEMENTATION: an image's SVN is below the fused SVN of its kind in FWSVN (R423 gives no layout, log 9). -/
opaque svnLow : BitVec 64 → List (BitVec 8) → Bool
/-- IMPLEMENTATION: FWSVN with the SVN of an image's kind raised to the image's (R423, log 9). -/
opaque svnOver : BitVec 64 → List (BitVec 8) → BitVec 64
/-- IMPLEMENTATION: the collective boot ROM (R424, log 9). -/
opaque bootRom : List (BitVec 8)
/-- IMPLEMENTATION: the bytes of the fused configuration: key digest, SVNs, ALMPOL default, key-store state (R424, log 9). -/
opaque fusedBytes : BitVec 64 → Bool → List (BitVec 8)
/-- IMPLEMENTATION: the parts of a firmware image: header, key, signature, body (R423, log 9). -/
opaque imageParts : List (BitVec 8) → List (BitVec 8) × List (BitVec 8) × List (BitVec 8) × List (BitVec 8)

/-- IMPLEMENTATION: vendor and device number, class and revision, and the page requests that the function can have outstanding (R415 gives
none, log 68). -/
opaque pciId : BitVec 32
opaque pciClass : BitVec 32
opaque priCapacity : BitVec 32
/-- IMPLEMENTATION: the syndrome that the log shows for a flit whose CRC does not match (R409 gives no code, log 11). -/
opaque linkSyndrome : BitVec 32

end Sys2Proof.Config
end

