-- ==== Sys2Proof/Syntax.lean ====
section
/-! DEFINITION. The instructions of Tlamas 3 (one constructor per row 0 to 147 of the table) and the events of the
package (one constructor per row 148 to 262), with their operands as data. -/

namespace Sys2Proof

/-- A core: die and core within the die (R4). -/
structure CoreId where
  die : Nat
  core : Nat
deriving DecidableEq, Repr, Inhabited

/-- An issue slot of a core (R4). -/
structure SlotId where
  die : Nat
  core : Nat
  islot : Nat
deriving DecidableEq, Repr, Inhabited

/-- A floe slot of an issue slot (R4, R248). -/
structure FloeId where
  die : Nat
  core : Nat
  islot : Nat
  fslot : Nat
deriving DecidableEq, Repr, Inhabited

/-- Guard and lookahead fields of a slot (R47, R48, R63). -/
structure Head where
  neg : Bool
  pred : BitVec 3
  la : BitVec 4
deriving DecidableEq, Repr, Inhabited

/-- Forms of R54. -/
inductive Form where
  | r | i | k | ki
deriving DecidableEq, Repr, Inhabited

/-- Integer types of R75, in code order. -/
inductive IntTy where
  | s32 | z32 | s64 | z64 | s16 | z16 | s8 | z8
deriving DecidableEq, Repr, Inhabited

/-- Conditions of R74, in code order. -/
inductive Cond where
  | eq | ne | lt | le | gt | ge
deriving DecidableEq, Repr, Inhabited

/-- Rounding modes of R25, in the code order of R101. -/
inductive Rnd where
  | rne | rna | rz | rdn | rup | sr
deriving DecidableEq, Repr, Inhabited

/-- Float types of R102, in code order. -/
inductive FpTy where
  | f32 | f16 | bf16 | f16x2 | bf16x2
deriving DecidableEq, Repr, Inhabited

/-- `cvt` formats of R120, in code order. -/
inductive CFmt where
  | f32 | f16 | bf16 | e4m3 | e5m2 | lns6 | s8 | z8 | s16 | z16 | s32 | z32 | s64 | z64
deriving DecidableEq, Repr, Inhabited

/-- Memory spaces of R52. -/
inductive Space where
  | glob | unit | clus | die
deriving DecidableEq, Repr, Inhabited

/-- Scopes of R52. -/
inductive Scope where
  | blk | drf | die | dev | sys
deriving DecidableEq, Repr, Inhabited

/-- Orders of R52. -/
inductive Order where
  | rlx | acq | rel | ar | sc
deriving DecidableEq, Repr, Inhabited

/-- Operands of opcodes 0x01 to 0x1B (R74). `imm` is bits 43:12 of the slot in every form. -/
structure IntOps where
  h : Head
  form : Form
  d : BitVec 8
  a : BitVec 8
  b : BitVec 8
  c : BitVec 8
  imm : BitVec 32
  opx : BitVec 4
  cond : Cond
  sat : Bool
  ty : IntTy
deriving DecidableEq, Repr, Inhabited

/-- Operands of opcodes 0x20 to 0x34 but `cvt` (R101). -/
structure FpOps where
  h : Head
  isImm : Bool
  d : BitVec 8
  a : BitVec 8
  b : BitVec 8
  c : BitVec 8
  imm : BitVec 32
  rnd : Rnd
  ovf : Bool
  ty : FpTy
  opx : BitVec 4
deriving DecidableEq, Repr, Inhabited

/-- Operands of `cvt` (R119). -/
structure CvtOps where
  h : Head
  d : BitVec 8
  a : BitVec 8
  mrg : Bool
  sel : BitVec 2
  del : BitVec 2
  sfmt : CFmt
  dfmt : CFmt
  rnd : Rnd
  ovf : Bool
deriving DecidableEq, Repr, Inhabited

/-- Operands of opcodes 0x41 to 0x46 (R134). `dim` is the DIM code 0 to 2. -/
structure AlgOps where
  h : Head
  d : BitVec 8
  a : BitVec 8
  b : BitVec 8
  c : BitVec 8
  dim : BitVec 2
  rnd : Rnd
  ovf : Bool
  tslot : BitVec 4
deriving DecidableEq, Repr, Inhabited

/-- Operands of opcodes 0x50 to 0x59 (R163). `lo` is bits 11:0. -/
structure LaneOps where
  h : Head
  func : BitVec 4
  d : BitVec 8
  a : BitVec 8
  b : BitVec 8
  c : BitVec 8
  lo : BitVec 12
deriving DecidableEq, Repr, Inhabited

/-- Operands of `spawn` (R151). -/
structure SpawnOps where
  h : Head
  d : BitVec 8
  a : BitVec 8
  succ : BitVec 28
  argn : BitVec 4
  tp : BitVec 4
  rs : Bool
  try_ : Bool
deriving DecidableEq, Repr, Inhabited

/-- Operands of the four `bar` forms (R156). -/
structure BarOps where
  h : Head
  d : BitVec 8
  b : BitVec 8
  scope : Scope
  slot : BitVec 4
deriving DecidableEq, Repr, Inhabited

/-- Operands of an M-class slot (R52). -/
structure MemOps where
  h : Head
  d : BitVec 8
  a : BitVec 8
  b : BitVec 8
  c : BitVec 8
  disp : BitVec 24
  idx : Bool
  scale : BitVec 3
  space : Space
  scope : Scope
  order : Order
  opmod : BitVec 7
deriving DecidableEq, Repr, Inhabited

/-- Operands of an R-class slot without modifiers (R50); `mod` is bits 43:0. -/
structure RegOps where
  h : Head
  d : BitVec 8
  a : BitVec 8
  b : BitVec 8
  c : BitVec 8
deriving DecidableEq, Repr, Inhabited

/-- Operands of an X-class slot: descriptor address, second register, space and bits 2:0 (R129, R198, R223). -/
structure DescOps where
  h : Head
  a : BitVec 8
  b : BitVec 8
  space : Space
  lo : BitVec 3
deriving DecidableEq, Repr, Inhabited

/-- Operands of `satt` (R192). -/
structure SattOps where
  h : Head
  port : BitVec 8
  a : BitVec 8
  b : BitVec 8
  ofs : Bool
  space : Space
deriving DecidableEq, Repr, Inhabited

/-- The host's answer to a page request group (R333). -/
inductive PrgResp where
  | success | invalid | failure
deriving DecidableEq, Repr, Inhabited

/-- Host and remote memory accesses (R397, R398, R416). -/
inductive ExtOp where
  | read (n : Nat)
  | write (data : List (BitVec 8))
  | atomic (op : BitVec 4) (ty : BitVec 3) (v : BitVec 64) (cmp : BitVec 64)
  | send (data : List (BitVec 8))
deriving DecidableEq, Repr, Inhabited

/-- A scale-out port and the reliable-connected queue pair on which a request comes (R398). -/
structure RocePort where
  port : Nat
  qp : Nat
deriving DecidableEq, Repr, Inhabited

/-- One record of a name-directory command of the driver (R352, R358). A zero pointer unbinds. -/
structure BindRec where
  name : BitVec 64
  ptr : BitVec 64
  size : BitVec 48
  fmt : BitVec 8
  rsv1 : BitVec 8
  version : BitVec 32
  rsv2 : BitVec 32
deriving DecidableEq, Repr, Inhabited

/-- The table's rows: 0 to 147 are Tlamas instructions, 148 to 262 are events of the package's agents. -/
inductive Instr where
  | nop
  | mov (o : IntOps)
  | movi (o : IntOps)
  | movs (o : IntOps)
  | movkToLane (o : IntOps)
  | movkToUniform (o : IntOps)
  | iadd (o : IntOps)
  | iaddc (o : IntOps)
  | isub (o : IntOps)
  | imul (o : IntOps)
  | imulh (o : IntOps)
  | imad (o : IntOps)
  | imadw (o : IntOps)
  | idiv (o : IntOps)
  | irem (o : IntOps)
  | imin (o : IntOps)
  | imax (o : IntOps)
  | iabs (o : IntOps)
  | ineg (o : IntOps)
  | and (o : IntOps)
  | or (o : IntOps)
  | xor (o : IntOps)
  | not (o : IntOps)
  | shl (o : IntOps)
  | shr (o : IntOps)
  | sar (o : IntOps)
  | rol (o : IntOps)
  | bfe (o : IntOps)
  | bfi (o : IntOps)
  | popc (o : IntOps)
  | clz (o : IntOps)
  | ctz (o : IntOps)
  | brev (o : IntOps)
  | prm (o : IntOps)
  | icmp (o : IntOps)
  | sel (o : IntOps)
  | plop (o : IntOps)
  | padd (o : IntOps)
  | psub (o : IntOps)
  | pcmp (o : IntOps)
  | pbnd (o : IntOps)
  | fadd (o : FpOps)
  | fsub (o : FpOps)
  | fmul (o : FpOps)
  | ffma (o : FpOps)
  | fmin (o : FpOps)
  | fmax (o : FpOps)
  | fabs (o : FpOps)
  | fneg (o : FpOps)
  | fcmp (o : FpOps)
  | fdiv (o : FpOps)
  | fsqrt (o : FpOps)
  | frcp (o : FpOps)
  | frsq (o : FpOps)
  | fex2 (o : FpOps)
  | flg2 (o : FpOps)
  | fsin (o : FpOps)
  | fcos (o : FpOps)
  | frnd (o : FpOps)
  | fclass (o : FpOps)
  | cvt (o : CvtOps)
  | idp4 (o : FpOps)
  | idp8 (o : FpOps)
  | fdp2 (o : FpOps)
  | atab (o : DescOps)
  | amul (o : AlgOps)
  | amac (o : AlgOps)
  | aconj (o : AlgOps)
  | anorm (o : AlgOps)
  | aadd (o : AlgOps)
  | ascl (o : AlgOps)
  | qswp (o : LaneOps)
  | qdx (o : LaneOps)
  | qdy (o : LaneOps)
  | vote (o : LaneOps)
  | shfl (o : LaneOps)
  | redi (o : LaneOps)
  | redf (o : LaneOps)
  | scan (o : LaneOps)
  | matchAny (o : LaneOps)
  | elect (o : LaneOps)
  | next (succ : BitVec 28)
  | nexti (a : BitVec 8)
  | brv (p : BitVec 8) (t : BitVec 28) (n : BitVec 28)
  | call (d : BitVec 8) (f : BitVec 28) (r : BitVec 28)
  | ret (a : BitVec 8)
  | spawn (o : SpawnOps)
  | exit
  | yield (succ : BitVec 28)
  | barArw (o : BarOps)
  | barArv (o : BarOps)
  | barWt (o : BarOps)
  | barExp (o : BarOps)
  | barinit (h : Head) (a : BitVec 8) (b : BitVec 8) (slot : BitVec 4)
  | trap (h : Head) (code : BitVec 16)
  | featq (h : Head) (d : BitVec 8) (w : BitVec 2)
  | featqBit (h : Head) (d : BitVec 8) (n : BitVec 7)
  | ld (o : MemOps)
  | st (o : MemOps)
  | lds (o : MemOps)
  | sts (o : MemOps)
  | satt (o : SattOps)
  | sdet (port : BitVec 8)
  | atom (o : MemOps)
  | red (o : MemOps)
  | lr (o : MemOps)
  | sc (o : MemOps)
  | fence (h : Head) (scope : Scope) (order : Order)
  | commit
  | stag (o : MemOps)
  | ldtag (o : MemOps)
  | mma (o : DescOps)
  | mwait
  | mfence
  | aalloc (o : RegOps)
  | afree (o : RegOps)
  | accr (o : RegOps)
  | accw (o : RegOps)
  | accz (o : RegOps)
  | accst (o : MemOps)
  | accld (o : MemOps)
  | cpbox (o : DescOps)
  | cpred (o : DescOps)
  | tmov (o : DescOps)
  | mapr (o : DescOps)
  | wback (h : Head) (map : BitVec 3) (slot : BitVec 4)
  | unmapr (h : Head) (map : BitVec 3) (slot : BitVec 4)
  | cbinit (o : DescOps)
  | cbacq (h : Head) (d : BitVec 8) (buf : BitVec 4)
  | cbrel (h : Head) (buf : BitVec 4)
  | dopen (o : RegOps)
  | dopenW (o : RegOps)
  | dclose (o : RegOps)
  | dbind (o : MemOps)
  | dunbind (o : RegOps)
  | dptr (o : RegOps)
  | dquery (o : RegOps) (sel : BitVec 3)
  | csrr (h : Head) (d : BitVec 8) (csr : BitVec 12)
  | csrw (h : Head) (a : BitVec 8) (csr : BitVec 12)
  | csrwSet (h : Head) (a : BitVec 8) (csr : BitVec 12)
  | csrwClr (h : Head) (a : BitVec 8) (csr : BitVec 12)
  | eret (h : Head)
  | haltGrid (h : Head)
  | haltCtx (h : Head)
  | brk (h : Head) (code : BitVec 16) (act : BitVec 2)
  | prog (h : Head) (n : BitVec 3)
  | mark (h : Head) (code : BitVec 16)
  | markValue (h : Head) (a : BitVec 8) (code : BitVec 16)
  -- events
  | resultWrite (f : FloeId) (n : Nat)
  | bankService (level : Space) (inst : Nat) (bank : Nat) (engine : Bool)
  | homeAccess (r : Nat)
  | writeAcknowledgement (r : Nat)
  | streamElementArrival (f : FloeId) (port : Nat) (lane : Nat)
  | barrierCompletionMulticast (n : Nat)
  | binTimerExpire (q : SlotId) (b : Nat)
  | floeLaunch (q : SlotId)
  | floeDemote (q : SlotId)
  | floeExhaustion (q : SlotId)
  | spawnResume (f : FloeId)
  | reservationHoldExpire (q : SlotId)
  | arbiterGrant (die : Nat) (cluster : Nat)
  | mmaPassEnd (op : Nat)
  | mmaComplete (op : Nat)
  | mmaRetry (op : Nat)
  | copySlotClaim (c : CoreId) (buf : Nat)
  | copyComplete (op : Nat)
  | mapFillComplete (fill : Nat)
  | writebackComplete (op : Nat)
  | dopenTimeout (f : FloeId) (lane : Nat)
  | gridStop (gid : Nat) (c : CoreId)
  | tlbWalkComplete (c : CoreId) (ctx : Nat) (va : Nat) (write : Bool)
  | pageRequestGroupSend (die : Nat) (ctx : Nat)
  | prgResponse (pasid : BitVec 20) (prg : Nat) (resp : PrgResp)
  | taskReplace (n : Nat)
  | atsTranslationCompletion (c : CoreId) (ctx : Nat) (va : Nat) (frame : Nat) (size : Nat) (read : Bool) (write : Bool)
  | atsInvalidateRequest (pasid : BitVec 20) (va : Nat) (size : Nat)
  | invalidationComplete (n : Nat)
  | segmentRequest (f : FloeId)
  | segmentDelivery (die : Nat) (ctx : Nat) (code : Nat) (seg : Nat)
  | launchRecord (page : Nat) (pasid : BitVec 20) (size : Nat) (data : BitVec 512)
  | deviceSideLaunch (n : Nat)
  | driftDistribution (gid : Nat)
  | blockPlace (gid : Nat) (die : Nat)
  | shareScrubComplete (n : Nat)
  | gridEnd (gid : Nat)
  | contextPreempt (ctx : Nat)
  | contextResume (ctx : Nat)
  | preempt (ctx : Nat) (value : BitVec 64)
  | stopBlock (issuer : CoreId)
  | haltGridCommand (issuer : CoreId)
  | haltContext (issuer : CoreId)
  | resume (issuer : CoreId)
  | step (issuer : CoreId)
  | stepTimeout (issuer : CoreId)
  | dump (issuer : CoreId)
  | dumpEnd (issuer : CoreId)
  | debugRecall (issuer : CoreId)
  | remoteWrite (issuer : CoreId)
  | remoteRead (issuer : CoreId)
  | sample (q : SlotId)
  | boundsWrite (c : CoreId)
  | boundsRead (c : CoreId)
  | boundsClear (c : CoreId)
  | tlbInvalidatePage (c : CoreId)
  | tlbInvalidateContext (c : CoreId)
  | recallSegment
  | invalidatePage
  | invalidateContext
  | writeBoundsEntry
  | loadLinkSchedule
  | checkpoint
  | restore
  | resetDie
  | loadFirmwareImage (image : List (BitVec 8))
  | errorLogRead (c : CoreId)
  | errorLogClear (c : CoreId)
  | errorLogOverflowRead (c : CoreId)
  | injectionArm (c : CoreId)
  | eccError (die : Nat) (core : Nat) (array : BitVec 4) (addr : BitVec 64) (synd : BitVec 32) (ue : Bool)
  | patrolScrub (channel : Nat)
  | hmapWrite (value : BitVec 64)
  | fwsvnWrite (value : BitVec 64)
  | reclgetWrite (ctx : Nat) (value : BitVec 64)
  | reclbaseWrite (ctx : Nat) (value : BitVec 64)
  | linkTestCorrupt (die : Nat) (dst : Nat) (value : BitVec 64)
  | rcRegisterRead (off : Nat) (size : Nat)
  | registerWrite (off : Nat) (size : Nat) (value : BitVec 64)
  | collectiveCommand (page : Nat) (size : Nat) (data : BitVec 512)
  | collectiveOperationEnd (op : Nat) (contributions : List (List (BitVec 32)))
  | bar2Access (off : Nat) (op : ExtOp)
  | configurationRequest (write : Bool) (off : Nat) (value : BitVec 32)
  | ualinkRequest (addr : Nat) (op : ExtOp)
  | roceRequest (port : RocePort) (addr : Nat) (op : ExtOp)
  | flitReceive (src : Nat) (dst : Nat) (cls : BitVec 4) (crcGood : Bool)
  | scheduleSwitch (die : Nat)
  | heartbeatSend (die : Nat)
  | heartbeatReceive (n : Nat)
  | dieSilent (die : Nat)
  | fenceAcknowledge (die : Nat)
  | fenceTimeout (die : Nat)
  | powerOn
  | powerUpStep (pass : BitVec 8) (images : List (List (BitVec 8)))
  | s1Entry (die : Nat)
  | s2Entry
  | s3Entry
  | wakeEvent
  | throttleStep (die : Nat) (temps : List Nat) (power : Nat)
  | dramHot (die : Nat) (layer : Nat) (temp : Nat)
  | coreAvoidance (c : CoreId) (temp : Nat)
  | droopEvent (c : CoreId)
  | avoidanceExpire (c : CoreId)
  | securityAlarm (sources : BitVec 4)
  | getVersion (requester : Nat)
  | getCapabilities (requester : Nat)
  | negotiateAlgorithms (requester : Nat) (offered : List (BitVec 16))
  | getDigests (requester : Nat)
  | getCertificate (requester : Nat) (slot : Nat)
  | challenge (requester : Nat) (nonce : List (BitVec 8))
  | getMeasurements (requester : Nat) (index : Nat)
  | gridEndByHost (gid : Nat)
  | shellPowerFault (die : Nat)
  | codeObjectUnload (ctx : Nat) (code : Nat)
  | driverDirectoryCommand (ctx : Nat) (recs : List BindRec)
deriving DecidableEq, Repr, Inhabited

end Sys2Proof
end

