-- ==== Sys2Proof/WellFormed.lean ====
section
/-! DEFINITION. The operand descriptors of every instruction and the slot checks of validation that look at one slot alone:
R55, R56, R63, R76, R104, R121, R136, R145, R151, R156, R163, R174, R192, R198, R213, R223, R235, R240, R315, R354, R367. -/

namespace Sys2Proof

/-- Validation reasons of R66 that one slot can fail. -/
inductive Reject where
  | reservedBit | reservedCode | lookahead | register | guarded | nullSucc
deriving DecidableEq, Repr, Inhabited

/-- The reason code of R66. -/
def Reject.code : Reject → Nat
  | .reservedBit => 0x02 | .reservedCode => 0x04 | .lookahead => 0x05
  | .register => 0x06 | .guarded => 0x0A | .nullSucc => 0x0B

/-- An operand: `n` consecutive lane registers (`port`: a queue port may stand there), a predicate, a uniform register. -/
inductive Opd where
  | reg (f : BitVec 8) (n : Nat) (port : Bool)
  | pred (f : BitVec 8)
  | ureg (f : BitVec 8)
deriving DecidableEq, Repr, Inhabited

def IntTy.signed : IntTy → Bool
  | .s32 | .s64 | .s16 | .s8 => true
  | .z32 | .z64 | .z16 | .z8 => false

def IntTy.width : IntTy → Nat
  | .s32 | .z32 => 32 | .s64 | .z64 => 64 | .s16 | .z16 => 16 | .s8 | .z8 => 8

/-- Registers an operand of the type takes (R76). -/
def IntTy.regs (t : IntTy) : Nat := if t.width = 64 then 2 else 1

def IntTy.n : List IntTy := [.s16, .z16, .s8, .z8]
def IntTy.t32 : List IntTy := [.s32, .z32]
def IntTy.t64 : List IntTy := [.s64, .z64]
def IntTy.all : List IntTy := n ++ t32 ++ t64
def IntTy.t3264 : List IntTy := t32 ++ t64

def Form.isImm : Form → Bool
  | .i | .ki => true
  | .r | .k => false

def Form.isK : Form → Bool
  | .k | .ki => true
  | .r | .i => false

def Form.rk : List Form := [.r, .k]
def Form.all : List Form := [.r, .i, .k, .ki]

/-- Whether `.sat` may be written (R79). -/
inductive SatUse where
  | no | yes | signedOnly
deriving DecidableEq, Repr

/-- The row of R79 for an integer-class instruction: major opcode, variant, forms, types, `.sat`, whether COND and
OPX are used, and the meaning of the four register fields. -/
structure IntRow where
  opc : BitVec 8
  var : BitVec 2
  forms : List Form
  tys : List IntTy
  sat : SatUse := .no
  cond : Bool := false
  opx : Bool := false
deriving DecidableEq, Repr

/-- Rows of R79. -/
def intRow : Instr → Option (IntRow × IntOps)
  | .mov o => some (⟨0x01, 0, Form.rk, IntTy.t3264, .no, false, false⟩, o)
  | .movi o => some (⟨0x02, 0, [.i, .ki], IntTy.t3264, .no, false, false⟩, o)
  | .movs o => some (⟨0x03, 0, Form.rk, [.s32], .no, false, false⟩, o)
  | .movkToLane o => some (⟨0x04, 0, [.r], [.s32], .no, false, false⟩, o)
  | .movkToUniform o => some (⟨0x04, 1, [.r], [.s32], .no, false, false⟩, o)
  | .iadd o => some (⟨0x05, 0, Form.all, IntTy.all, .yes, false, false⟩, o)
  | .iaddc o => some (⟨0x06, 0, Form.rk, [.z32], .no, false, false⟩, o)
  | .isub o => some (⟨0x07, 0, Form.all, IntTy.all, .yes, false, false⟩, o)
  | .imul o => some (⟨0x08, 0, Form.all, IntTy.all, .yes, false, false⟩, o)
  | .imulh o => some (⟨0x09, 0, Form.all, IntTy.t3264, .no, false, false⟩, o)
  | .imad o => some (⟨0x0A, 0, Form.all, IntTy.all, .yes, false, false⟩, o)
  | .imadw o => some (⟨0x0B, 0, [.r, .i], IntTy.t32, .yes, false, false⟩, o)
  | .idiv o => some (⟨0x0C, 0, Form.all, IntTy.t3264, .signedOnly, false, false⟩, o)
  | .irem o => some (⟨0x0D, 0, Form.all, IntTy.t3264, .no, false, false⟩, o)
  | .imin o => some (⟨0x0E, 0, Form.all, IntTy.all, .no, false, false⟩, o)
  | .imax o => some (⟨0x0E, 1, Form.all, IntTy.all, .no, false, false⟩, o)
  | .iabs o => some (⟨0x0F, 0, Form.rk, IntTy.all, .yes, false, false⟩, o)
  | .ineg o => some (⟨0x0F, 1, Form.rk, IntTy.all, .yes, false, false⟩, o)
  | .and o => some (⟨0x10, 0, Form.all, IntTy.t3264, .no, false, false⟩, o)
  | .or o => some (⟨0x10, 1, Form.all, IntTy.t3264, .no, false, false⟩, o)
  | .xor o => some (⟨0x10, 2, Form.all, IntTy.t3264, .no, false, false⟩, o)
  | .not o => some (⟨0x10, 3, Form.rk, IntTy.t3264, .no, false, false⟩, o)
  | .shl o => some (⟨0x11, 0, Form.all, IntTy.t3264, .no, false, false⟩, o)
  | .shr o => some (⟨0x11, 1, Form.all, IntTy.t3264, .no, false, false⟩, o)
  | .sar o => some (⟨0x11, 2, Form.all, IntTy.t3264, .no, false, false⟩, o)
  | .rol o => some (⟨0x11, 3, Form.all, IntTy.t3264, .no, false, false⟩, o)
  | .bfe o => some (⟨0x12, 0, Form.all, IntTy.t3264, .no, false, false⟩, o)
  | .bfi o => some (⟨0x12, 1, Form.all, IntTy.t3264, .no, false, false⟩, o)
  | .popc o => some (⟨0x13, 0, Form.rk, IntTy.t3264, .no, false, false⟩, o)
  | .clz o => some (⟨0x13, 1, Form.rk, IntTy.t3264, .no, false, false⟩, o)
  | .ctz o => some (⟨0x13, 2, Form.rk, IntTy.t3264, .no, false, false⟩, o)
  | .brev o => some (⟨0x13, 3, Form.rk, IntTy.t3264, .no, false, false⟩, o)
  | .prm o => some (⟨0x14, 0, [.r, .i], [.s32], .no, false, false⟩, o)
  | .icmp o => some (⟨0x15, 0, Form.all, IntTy.all, .no, true, false⟩, o)
  | .sel o => some (⟨0x16, 0, Form.rk, IntTy.t3264, .no, false, false⟩, o)
  | .plop o => some (⟨0x17, 0, [.r], [.s32], .no, false, false⟩, o)
  | .padd o => some (⟨0x18, 0, [.r, .i], [.s32, .z32, .s64], .no, false, false⟩, o)
  | .psub o => some (⟨0x19, 0, [.r], [.s32], .no, false, false⟩, o)
  | .pcmp o => some (⟨0x1A, 0, [.r], [.s32], .no, true, false⟩, o)
  | .pbnd o => some (⟨0x1B, 0, [.r, .i], [.s32], .no, false, true⟩, o)
  | _ => none

/-- The row of R103: major opcode, variant, forms, types, rounding (0 none, 1 all six, 2 all but `.sr`), `.sat`. -/
structure FpRow where
  opc : BitVec 8
  var : BitVec 2
  imm : Bool
  tys : List FpTy
  rnd : Nat
  sat : Bool
deriving DecidableEq, Repr

def FpTy.five : List FpTy := [.f32, .f16, .bf16, .f16x2, .bf16x2]
def FpTy.three : List FpTy := [.f32, .f16, .bf16]

/-- Rows of R103 but `cvt`. -/
def fpRow : Instr → Option (FpRow × FpOps)
  | .fadd o => some (⟨0x20, 0, true, FpTy.five, 1, true⟩, o)
  | .fsub o => some (⟨0x21, 0, true, FpTy.five, 1, true⟩, o)
  | .fmul o => some (⟨0x22, 0, true, FpTy.five, 1, true⟩, o)
  | .ffma o => some (⟨0x23, 0, true, FpTy.five, 1, true⟩, o)
  | .fmin o => some (⟨0x24, 0, true, FpTy.five, 0, false⟩, o)
  | .fmax o => some (⟨0x24, 1, true, FpTy.five, 0, false⟩, o)
  | .fabs o => some (⟨0x25, 0, false, FpTy.five, 0, false⟩, o)
  | .fneg o => some (⟨0x25, 1, false, FpTy.five, 0, false⟩, o)
  | .fcmp o => some (⟨0x26, 0, true, FpTy.three, 0, false⟩, o)
  | .fdiv o => some (⟨0x27, 0, false, FpTy.three, 1, true⟩, o)
  | .fsqrt o => some (⟨0x28, 0, false, FpTy.three, 1, true⟩, o)
  | .frcp o => some (⟨0x29, 0, false, FpTy.three, 1, true⟩, o)
  | .frsq o => some (⟨0x2A, 0, false, FpTy.three, 1, true⟩, o)
  | .fex2 o => some (⟨0x2B, 0, false, FpTy.three, 0, false⟩, o)
  | .flg2 o => some (⟨0x2C, 0, false, FpTy.three, 0, false⟩, o)
  | .fsin o => some (⟨0x2D, 0, false, FpTy.three, 0, false⟩, o)
  | .fcos o => some (⟨0x2E, 0, false, FpTy.three, 0, false⟩, o)
  | .frnd o => some (⟨0x2F, 0, false, FpTy.five, 2, false⟩, o)
  | .fclass o => some (⟨0x30, 0, false, FpTy.three, 0, false⟩, o)
  | .idp4 o => some (⟨0x32, 0, false, [.f32], 0, true⟩, o)
  | .idp8 o => some (⟨0x33, 0, false, [.f32], 0, true⟩, o)
  | .fdp2 o => some (⟨0x34, 0, false, [.f16x2, .bf16x2], 1, true⟩, o)
  | _ => none

/-- Rows of R135: opcode, uses a table, rounding allowed; and the element sizes of d, a, b, c (0 unused, 1 one register). -/
def algRow : Instr → Option (BitVec 8 × Bool × Bool × AlgOps)
  | .amul o => some (0x41, true, true, o)
  | .amac o => some (0x42, true, true, o)
  | .aconj o => some (0x43, true, false, o)
  | .anorm o => some (0x44, true, true, o)
  | .aadd o => some (0x45, false, true, o)
  | .ascl o => some (0x46, false, true, o)
  | _ => none

/-- Opcodes of R163. -/
def laneRow : Instr → Option (BitVec 8 × LaneOps)
  | .qswp o => some (0x50, o)
  | .qdx o => some (0x51, o)
  | .qdy o => some (0x52, o)
  | .vote o => some (0x53, o)
  | .shfl o => some (0x54, o)
  | .redi o => some (0x55, o)
  | .redf o => some (0x56, o)
  | .scan o => some (0x57, o)
  | .matchAny o => some (0x58, o)
  | .elect o => some (0x59, o)
  | _ => none

/-- Opcodes of the M class (R173, R213, R354). -/
def memRow : Instr → Option (BitVec 8 × MemOps)
  | .ld o => some (0x70, o)
  | .st o => some (0x71, o)
  | .lds o => some (0x72, o)
  | .sts o => some (0x73, o)
  | .atom o => some (0x76, o)
  | .red o => some (0x77, o)
  | .lr o => some (0x78, o)
  | .sc o => some (0x79, o)
  | .stag o => some (0x7C, o)
  | .ldtag o => some (0x7D, o)
  | .accst o => some (0x98, o)
  | .accld o => some (0x99, o)
  | .dbind o => some (0xB2, o)
  | _ => none

/-- R-class rows without modifiers: opcode, FUNC, which of d, a, b, c are used. -/
def regRow : Instr → Option (BitVec 8 × BitVec 4 × RegOps)
  | .aalloc o => some (0x93, 0, o)
  | .afree o => some (0x94, 0, o)
  | .accr o => some (0x95, 0, o)
  | .accw o => some (0x96, 0, o)
  | .accz o => some (0x97, 0, o)
  | .dopen o => some (0xB0, 0, o)
  | .dopenW o => some (0xB0, 1, o)
  | .dclose o => some (0xB1, 0, o)
  | .dunbind o => some (0xB3, 0, o)
  | .dptr o => some (0xB4, 0, o)
  | .dquery o _ => some (0xB5, 0, o)
  | _ => none

/-- X-class rows with a descriptor (R129, R198, R223, R233, R237). -/
def descRow : Instr → Option (BitVec 8 × DescOps)
  | .atab o => some (0x40, o)
  | .mma o => some (0x90, o)
  | .cpbox o => some (0xA0, o)
  | .cpred o => some (0xA1, o)
  | .tmov o => some (0xA2, o)
  | .mapr o => some (0xA3, o)
  | .cbinit o => some (0xA6, o)
  | _ => none

/-- Code of a type in bits 3:0 of OPMOD (R75). -/
def IntTy.ofCode : Nat → Option IntTy
  | 0 => some .s32 | 1 => some .z32 | 2 => some .s64 | 3 => some .z64
  | 4 => some .s16 | 5 => some .z16 | 6 => some .s8 | 7 => some .z8
  | _ => none

/-- The type OPMOD names for `ld`, `st`, `lds`, `sts`, `lr`, `sc` (R173). -/
def MemOps.ty? (o : MemOps) : Option IntTy :=
  if o.opmod.extractLsb' 4 3 = 0#3 then IntTy.ofCode (o.opmod.extractLsb' 0 4).toNat else none

def MemOps.ty (o : MemOps) : IntTy := o.ty?.getD .s32

/-- Atomic operation code, bits 6:3 of OPMOD (R185). -/
def MemOps.aop (o : MemOps) : Nat := (o.opmod.extractLsb' 3 4).toNat

/-- Atomic type code, bits 2:0 of OPMOD (R185); 4 is `.f32`. -/
def MemOps.aty (o : MemOps) : Nat := (o.opmod.extractLsb' 0 3).toNat

/-- Registers of an atomic operand. -/
def MemOps.aregs (o : MemOps) : Nat := if o.aty = 2 ∨ o.aty = 3 then 2 else 1

/-- OP and TYPE of R185 fit each other. -/
def MemOps.atomOk (o : MemOps) : Bool :=
  (o.aop ≤ 5 && decide (o.aty ≤ 3)) || ((o.aop = 6 || o.aop = 7) && decide (o.aty ≤ 4)) ||
    (decide (8 ≤ o.aop ∧ o.aop ≤ 10) && o.aty == 4)

def AlgOps.d' (o : AlgOps) : Nat := 2 ^ (o.dim.toNat + 1)

/-- The address operands of an M-class slot (R52). -/
def MemOps.addrOpds (o : MemOps) : List Opd :=
  [.reg o.a (if o.space = .glob then 2 else 1) false] ++ (if o.idx then [.reg o.b 1 false] else [])

/-- Source b of an integer or float operand record: nothing when it is the immediate. -/
def immOpd (isImm : Bool) (o : Opd) : List Opd := if isImm then [] else [o]

/-- A lane register or, in the K forms, a uniform register; `n` registers. -/
def intOpd (f : Form) (x : BitVec 8) (n : Nat) : Opd := if f.isK then .ureg x else .reg x n (n == 1)

/-- The source operands, in the order source A, source B, source C (R56). -/
def Instr.srcs : Instr → List Opd
  | .nop => []
  | .mov o => [intOpd o.form o.a o.ty.regs]
  | .movi _ => []
  | .movs _ => []
  | .movkToLane o => [.ureg o.a]
  | .movkToUniform o => [.reg o.a 1 true]
  | .iadd o | .isub o | .imul o | .imulh o | .idiv o | .irem o | .imin o | .imax o | .and o | .or o | .xor o | .icmp o =>
    [intOpd o.form o.a o.ty.regs] ++ immOpd o.form.isImm (intOpd o.form o.b o.ty.regs)
  | .iaddc o => [intOpd o.form o.a 1, intOpd o.form o.b 1, .pred o.c]
  | .imad o => [intOpd o.form o.a o.ty.regs] ++ immOpd o.form.isImm (intOpd o.form o.b o.ty.regs) ++ [intOpd o.form o.c o.ty.regs]
  | .imadw o => [.reg o.a 1 true] ++ immOpd o.form.isImm (.reg o.b 1 true) ++ [.reg o.c 2 false]
  | .iabs o | .ineg o | .not o | .popc o | .clz o | .ctz o | .brev o => [intOpd o.form o.a o.ty.regs]
  | .shl o | .shr o | .sar o | .rol o | .bfe o =>
    [intOpd o.form o.a o.ty.regs] ++ immOpd o.form.isImm (intOpd o.form o.b 1)
  | .bfi o => [intOpd o.form o.a o.ty.regs] ++ immOpd o.form.isImm (intOpd o.form o.b 1) ++ [intOpd o.form o.c o.ty.regs]
  | .prm o => [.reg o.a 1 true] ++ immOpd o.form.isImm (.reg o.b 1 true) ++ [.reg o.c 1 true]
  | .sel o => [intOpd o.form o.a o.ty.regs, intOpd o.form o.b o.ty.regs, .pred o.c]
  | .plop o => [.pred o.a, .pred o.b, .pred o.c]
  | .padd o => [.reg o.a 2 false] ++ immOpd o.form.isImm (.reg o.b o.ty.regs (o.ty.regs == 1))
  | .psub o | .pcmp o => [.reg o.a 2 false, .reg o.b 2 false]
  | .pbnd o => [.reg o.a 2 false] ++ immOpd o.form.isImm (.reg o.b 1 true)
  | .fadd o | .fsub o | .fmul o | .fmin o | .fmax o | .fcmp o => [.reg o.a 1 true] ++ immOpd o.isImm (.reg o.b 1 true)
  | .ffma o => [.reg o.a 1 true] ++ immOpd o.isImm (.reg o.b 1 true) ++ [.reg o.c 1 true]
  | .fdiv o => [.reg o.a 1 true, .reg o.b 1 true]
  | .fabs o | .fneg o | .fsqrt o | .frcp o | .frsq o | .fex2 o | .flg2 o | .fsin o | .fcos o | .frnd o | .fclass o =>
    [.reg o.a 1 true]
  | .cvt o => [.reg o.a (if o.sfmt = .s64 ∨ o.sfmt = .z64 then 2 else 1) (o.sfmt ≠ .s64 ∧ o.sfmt ≠ .z64)] ++
      (if o.mrg then [.reg o.d 1 true] else [])
  | .idp4 o | .idp8 o | .fdp2 o => [.reg o.a 1 true, .reg o.b 1 true, .reg o.c 1 true]
  | .atab o => [.reg o.a 1 false]
  | .amul o | .aadd o => [.reg o.a o.d' false, .reg o.b o.d' false]
  | .amac o => [.reg o.a o.d' false, .reg o.b o.d' false, .reg o.c o.d' false]
  | .aconj o | .anorm o => [.reg o.a o.d' false]
  | .ascl o => [.reg o.a o.d' false, .reg o.b 1 false]
  | .qswp o | .qdx o | .qdy o | .redi o | .redf o | .scan o | .matchAny o => [.reg o.a 1 false]
  | .shfl o => [.reg o.a 1 false, .reg o.b 1 false]
  | .vote o => [.pred o.a]
  | .elect _ => []
  | .next _ | .yield _ | .exit => []
  | .nexti a => [.reg a 1 false]
  | .brv p _ _ => [.pred p]
  | .call _ _ _ => []
  | .ret a => [.reg a 2 false]
  | .spawn o => (if o.rs then [.reg o.d 1 false] else []) ++
      (List.range o.argn.toNat).map fun i => .reg (o.a + BitVec.ofNat 8 i) 1 false
  | .barArw _ | .barArv _ => []
  | .barWt o | .barExp o => [.reg o.b 1 true]
  | .barinit _ a b _ => [.reg a 1 true, .reg b 1 true]
  | .trap _ _ | .featq _ _ _ | .featqBit _ _ _ => []
  | .ld o | .lds o | .lr o | .ldtag o => o.addrOpds
  | .st o | .sts o | .sc o => o.addrOpds ++ [.reg o.c o.ty.regs (o.ty.regs == 1)]
  | .atom o => [.reg o.a (if o.space = .glob then 2 else 1) false] ++
      (if o.aop = 7 then [.reg o.b o.aregs (o.aregs == 1)] else if o.idx then [.reg o.b 1 false] else []) ++
      [.reg o.c o.aregs (o.aregs == 1)]
  | .red o => o.addrOpds ++ [.reg o.c o.aregs (o.aregs == 1)]
  | .stag o => o.addrOpds ++ [.reg o.c 1 true]
  | .satt o => [.reg o.a 1 false] ++ (if o.ofs then [.reg o.b 1 false] else [])
  | .sdet _ | .fence _ _ _ | .commit | .mwait | .mfence => []
  | .mma o => [.reg o.a 1 false, .reg o.b 1 false]
  | .aalloc o => [.reg o.a 1 true]
  | .afree o | .accz o => [.reg o.a 1 true]
  | .accr o => [.reg o.a 1 true, .reg o.b 1 true]
  | .accw o => [.reg o.a 1 true, .reg o.b 1 true, .reg o.c 1 true]
  | .accst o | .accld o => [.reg o.a (if o.space = .glob then 2 else 1) false, .reg o.b 1 true, .reg o.c 1 true]
  | .cpbox o | .cpred o | .tmov o => [.reg o.a 1 false, .reg o.b 1 false]
  | .mapr o | .cbinit o => [.reg o.a 1 false]
  | .wback _ _ _ | .unmapr _ _ _ | .cbacq _ _ _ | .cbrel _ _ => []
  | .dopen o => [.reg o.a 2 false]
  | .dopenW o => [.reg o.a 2 false, .reg o.b 1 false]
  | .dclose o => [.reg o.a 1 false]
  | .dbind o => [.reg o.a 2 false, .reg o.c 1 false]
  | .dunbind o => [.reg o.a 2 false]
  | .dptr o => [.reg o.a 1 false]
  | .dquery o _ => [.reg o.a 1 false]
  | .csrr _ _ _ => []
  | .csrw _ a _ | .csrwSet _ a _ | .csrwClr _ a _ => [.reg a 1 false]
  | .markValue _ a _ => [.reg a 1 true]
  | _ => []

/-- The destination operands. -/
def Instr.dsts : Instr → List Opd
  | .mov o | .movi o | .iadd o | .isub o | .imul o | .imulh o | .imad o | .idiv o | .irem o | .imin o | .imax o
  | .iabs o | .ineg o | .and o | .or o | .xor o | .not o | .shl o | .shr o | .sar o | .rol o | .bfe o | .bfi o | .brev o
  | .sel o => [intOpd o.form o.d o.ty.regs]
  | .movs o => [intOpd o.form o.d (if o.a = 0x13#8 then 2 else 1)] ++
      (if o.form.isK ∧ o.a = 0x13#8 then [.ureg (o.d + 1)] else [])
  | .movkToLane o => [.reg o.d 1 true]
  | .movkToUniform o => [.ureg o.d]
  | .iaddc o => [intOpd o.form o.d 1, .pred o.c]
  | .imadw o => [.reg o.d 2 false]
  | .popc o | .clz o | .ctz o => [intOpd o.form o.d 1]
  | .prm o => [.reg o.d 1 true]
  | .icmp o | .plop o | .pcmp o | .pbnd o => [.pred o.d]
  | .padd o | .psub o => [.reg o.d 2 false]
  | .fadd o | .fsub o | .fmul o | .ffma o | .fmin o | .fmax o | .fabs o | .fneg o | .fdiv o | .fsqrt o | .frcp o | .frsq o
  | .fex2 o | .flg2 o | .fsin o | .fcos o | .frnd o | .fclass o | .idp4 o | .idp8 o | .fdp2 o => [.reg o.d 1 true]
  | .fcmp o => [.pred o.d]
  | .cvt o => [.reg o.d (if o.dfmt = .s64 ∨ o.dfmt = .z64 then 2 else 1) (o.dfmt ≠ .s64 ∧ o.dfmt ≠ .z64)]
  | .amul o | .amac o | .aconj o | .aadd o | .ascl o => [.reg o.d o.d' false]
  | .anorm o => [.reg o.d 1 false]
  | .qswp o | .qdx o | .qdy o | .shfl o | .redi o | .redf o | .scan o => [.reg o.d 1 false]
  | .vote o => if o.func = 3 then [.reg o.d 1 false] else [.pred o.d]
  | .matchAny o => [.reg o.d 1 false] ++ (if o.func = 1 then [.pred o.c] else [])
  | .elect o => [.pred o.d]
  | .call d _ _ => [.reg d 2 false]
  | .spawn o => if o.try_ then [.pred (o.tp.zeroExtend 8)] else []
  | .barArv o => [.reg o.d 1 true]
  | .featq _ d _ => [.reg d 1 true]
  | .featqBit _ d _ => [.pred d]
  | .ld o | .lds o | .lr o => [.reg o.d o.ty.regs (o.ty.regs == 1)]
  | .ldtag o => [.reg o.d 1 true]
  | .atom o => [.reg o.d o.aregs (o.aregs == 1)]
  | .sc o => [.pred o.d]
  | .aalloc o => [.reg o.d 1 true, .pred o.c]
  | .accr o => [.reg o.d 1 true]
  | .accld o => [.reg o.d 1 true]
  | .cbacq _ d _ => [.reg d 1 true]
  | .dopen o | .dopenW o => [.reg o.d 1 false, .pred o.c]
  | .dclose o | .dunbind o => [.pred o.d]
  | .dbind o => [.reg o.d 1 false]
  | .dptr o => [.reg o.d 2 false]
  | .dquery o _ => [.reg o.d 1 false]
  | .csrr _ d _ => [.reg d 1 false]
  | _ => []

/-- R55, R56, R132: an operand names registers that exist, pairs and elements stand aligned, ports only where allowed. -/
def Opd.ok (cvtPort : Bool) : Opd → Bool
  | .reg f n port =>
    if n = 1 then decide (f.toNat < 248) || (port && cvtPort) else decide (f.toNat % n = 0 ∧ f.toNat + n ≤ 248)
  | .pred f => decide (f.toNat < 8)
  | .ureg f => decide (f.toNat < 64)

/-- The highest lane register an operand names plus one, 0 for none. -/
def Opd.regTop : Opd → Nat
  | .reg f n _ => if f.toNat < 248 then f.toNat + n else 0
  | _ => 0

/-- The highest uniform register an operand names plus one. -/
def Opd.uregTop : Opd → Nat
  | .ureg f => f.toNat + 1
  | _ => 0

/-- Guard and lookahead of an instruction; terminators and the fixed-guard instructions carry p7 (R60, R183). -/
def Instr.head : Instr → Head
  | .mov o | .movi o | .movs o | .movkToLane o | .movkToUniform o | .iadd o | .iaddc o | .isub o | .imul o | .imulh o
  | .imad o | .imadw o | .idiv o | .irem o | .imin o | .imax o | .iabs o | .ineg o | .and o | .or o | .xor o | .not o
  | .shl o | .shr o | .sar o | .rol o | .bfe o | .bfi o | .popc o | .clz o | .ctz o | .brev o | .prm o | .icmp o | .sel o
  | .plop o | .padd o | .psub o | .pcmp o | .pbnd o => o.h
  | .fadd o | .fsub o | .fmul o | .ffma o | .fmin o | .fmax o | .fabs o | .fneg o | .fcmp o | .fdiv o | .fsqrt o | .frcp o
  | .frsq o | .fex2 o | .flg2 o | .fsin o | .fcos o | .frnd o | .fclass o | .idp4 o | .idp8 o | .fdp2 o => o.h
  | .cvt o => o.h
  | .atab o | .mma o | .cpbox o | .cpred o | .tmov o | .mapr o | .cbinit o => o.h
  | .amul o | .amac o | .aconj o | .anorm o | .aadd o | .ascl o => o.h
  | .qswp o | .qdx o | .qdy o | .vote o | .shfl o | .redi o | .redf o | .scan o | .matchAny o | .elect o => o.h
  | .spawn o => o.h
  | .barArw o | .barArv o | .barWt o | .barExp o => o.h
  | .barinit h _ _ _ | .trap h _ | .featq h _ _ | .featqBit h _ _ => h
  | .ld o | .st o | .lds o | .sts o | .atom o | .red o | .lr o | .sc o | .stag o | .ldtag o | .accst o | .accld o
  | .dbind o => o.h
  | .satt o => o.h
  | .fence h _ _ => h
  | .aalloc o | .afree o | .accr o | .accw o | .accz o | .dopen o | .dopenW o | .dclose o | .dunbind o | .dptr o => o.h
  | .dquery o _ => o.h
  | .wback h _ _ | .unmapr h _ _ | .cbacq h _ _ | .cbrel h _ => h
  | .csrr h _ _ | .csrw h _ _ | .csrwSet h _ _ | .csrwClr h _ _ => h
  | .eret h | .haltGrid h | .haltCtx h | .brk h _ _ | .prog h _ | .mark h _ | .markValue h _ _ => h
  | _ => ⟨false, 7, 0⟩

/-- The instructions of R63's table, which alone may carry a nonzero lookahead. -/
def Instr.mayLook : Instr → Bool
  | .ld _ | .lds _ | .atom _ | .lr _ | .sc _ | .ldtag _ | .accld _ | .idiv _ | .irem _ | .fdiv _ | .fsqrt _ | .frcp _
  | .frsq _ | .fex2 _ | .flg2 _ | .fsin _ | .fcos _ | .accr _ | .dopen _ | .dopenW _ | .dptr _ | .dquery _ _ => true
  | _ => false

/-- R60: the seven terminators. -/
def Instr.isTerm : Instr → Bool
  | .next _ | .nexti _ | .brv _ _ _ | .call _ _ _ | .ret _ | .exit | .yield _ => true
  | _ => false

/-- Scopes no wider than the space allows (R174). -/
def Space.allows : Space → Scope → Bool
  | .glob, _ => true
  | .unit, .blk => true
  | .clus, .blk | .clus, .drf => true
  | .die, .blk | .die, .drf | .die, .die => true
  | _, _ => false

/-- CSR numbers that exist: R314, R326, R364, R411. -/
def csrExists (n : Nat) : Bool :=
  decide (n ≤ 0x007) || decide (0x010 ≤ n ∧ n ≤ 0x012) || decide (0x020 ≤ n ∧ n ≤ 0x027) || decide (0x200 ≤ n ∧ n ≤ 0x209) ||
  decide (0x210 ≤ n ∧ n ≤ 0x213) || decide (0x300 ≤ n ∧ n ≤ 0x305) || decide (0x310 ≤ n ∧ n ≤ 0x314) ||
  decide (0x318 ≤ n ∧ n ≤ 0x31C) || decide (0x320 ≤ n ∧ n ≤ 0x325) || decide (0x330 ≤ n ∧ n ≤ 0x37F) || decide (0x380 ≤ n ∧ n ≤ 0x38D)

/-- Read-only CSRs, which `csrw` may not name (R315). -/
def csrReadOnly (n : Nat) : Bool :=
  decide (0x001 ≤ n ∧ n ≤ 0x007) || decide (0x010 ≤ n ∧ n ≤ 0x011) || decide (0x020 ≤ n ∧ n ≤ 0x027) || n == 0x213 || n == 0x302 ||
  n == 0x324 || n == 0x325 || decide (0x382 ≤ n ∧ n ≤ 0x389)

/-- What R74 to R100 ask of an integer-class slot; the booleans are the failures of reasons 0x02, 0x04 and 0x06. -/
def intCheck (i : Instr) (r : IntRow) (o : IntOps) : Bool × Bool × Bool :=
  let usesImm := o.form.isImm
  let narrowImm : Bool := match i with
    | .bfe _ | .bfi _ | .prm _ => if usesImm then decide (o.imm.toNat ≥ 65536) else o.imm ≠ 0
    | .plop _ => decide (o.imm.toNat ≥ 256)
    | _ => !usesImm && o.imm ≠ 0
  let useD : Bool := true
  let useA : Bool := match i with | .movi _ => false | _ => true
  let useB : Bool := !usesImm && (match i with
    | .mov _ | .movi _ | .movs _ | .movkToLane _ | .movkToUniform _ | .iabs _ | .ineg _ | .not _ | .popc _ | .clz _ | .ctz _
    | .brev _ => false
    | _ => true)
  let useC : Bool := match i with
    | .iaddc _ | .imad _ | .imadw _ | .bfi _ | .prm _ | .sel _ | .plop _ => true
    | _ => false
  let b02 := narrowImm || (!useD && o.d ≠ 0) || (!useA && o.a ≠ 0) || (!useB && o.b ≠ 0) || (!useC && o.c ≠ 0) ||
    (!r.opx && o.opx ≠ 0) || (!r.cond && o.cond ≠ .eq) || (o.sat && r.sat == .no) ||
    (o.sat && r.sat == .signedOnly && !o.ty.signed)
  let b04 := !r.forms.contains o.form || !r.tys.contains o.ty || (o.form.isK && o.ty.width ≠ 32) ||
    (o.form.isK && (o.h.neg || o.h.pred ≠ 7)) ||
    (match i with | .padd _ => usesImm && o.ty == .s64 | _ => false)
  let b06 : Bool := match i with
    | .movs _ => decide (o.a.toNat > 0x13) || (o.form.isK && !(decide (3 ≤ o.a.toNat ∧ o.a.toNat ≤ 8) || o.a == 0x13#8)) ||
        (o.form.isK && o.a == 0x13#8 && decide (o.d.toNat % 2 = 1))
    | _ => false
  (b02, b04, b06)

/-- What R101 to R124 ask of a float-class slot. -/
def fpCheck (i : Instr) (r : FpRow) (o : FpOps) : Bool × Bool :=
  let useB : Bool := !o.isImm && (match i with
    | .fadd _ | .fsub _ | .fmul _ | .ffma _ | .fmin _ | .fmax _ | .fcmp _ | .fdiv _ | .idp4 _ | .idp8 _ | .fdp2 _ => true
    | _ => false)
  let useC : Bool := match i with | .ffma _ | .idp4 _ | .idp8 _ | .fdp2 _ => true | _ => false
  let opxBad02 : Bool := match i with
    | .fcmp _ => false
    | .idp4 _ | .idp8 _ => decide (o.opx.toNat ≥ 4)
    | _ => o.opx ≠ 0
  let b02 := (!useB && o.b ≠ 0) || (!useC && o.c ≠ 0) || (!o.isImm && o.imm ≠ 0) || opxBad02 || (o.ovf && !r.sat) ||
    (r.rnd == 0 && o.rnd ≠ .rne) || (o.isImm && (o.ty == .f16 || o.ty == .bf16) && decide (o.imm.toNat ≥ 65536))
  let b04 := (o.isImm && !r.imm) || !r.tys.contains o.ty || (r.rnd == 2 && o.rnd == .sr) ||
    (match i with | .fcmp _ => decide (o.opx.toNat ≥ 8) | _ => false)
  (b02, b04)

/-- Width of a `cvt` format (R120). -/
def CFmt.width : CFmt → Nat
  | .f32 | .s32 | .z32 => 32 | .f16 | .bf16 | .s16 | .z16 => 16 | .e4m3 | .e5m2 | .lns6 | .s8 | .z8 => 8 | .s64 | .z64 => 64

/-- Elements a selector may name (R121). -/
def CFmt.elems (f : CFmt) : Nat := if f.width = 8 then 4 else if f.width = 16 then 2 else 1

/-- R121. -/
def cvtCheck04 (o : CvtOps) : Bool :=
  decide (o.sel.toNat ≥ o.sfmt.elems) || decide (o.del.toNat ≥ o.dfmt.elems) || (o.mrg && decide (o.dfmt.width > 16))

/-- R136. -/
def algCheck (i : Instr) (table rounds : Bool) (o : AlgOps) : Bool × Bool :=
  let useB : Bool := match i with | .amul _ | .amac _ | .aadd _ | .ascl _ => true | _ => false
  let useC : Bool := match i with | .amac _ => true | _ => false
  ((!table && o.tslot ≠ 0) || (!rounds && (o.rnd ≠ .rne || o.ovf)),
   decide (o.dim = 3) || (table && !decide (1 ≤ o.tslot.toNat ∧ o.tslot.toNat ≤ 4)) || (!useB && false) || (!useC && false))

/-- R136: unused register fields of the algebra class are rejected with reason 0x06. -/
def algCheck06 (i : Instr) (o : AlgOps) : Bool :=
  let useB : Bool := match i with | .amul _ | .amac _ | .aadd _ | .ascl _ => true | _ => false
  let useC : Bool := match i with | .amac _ => true | _ => false
  (!useB && o.b ≠ 0) || (!useC && o.c ≠ 0)

/-- R163: FUNC and bits 11:0 of the cross-lane class. -/
def laneCheck (i : Instr) (o : LaneOps) : Bool × Bool :=
  let useB : Bool := match i with | .shfl _ => true | _ => false
  let useC : Bool := match i with | .matchAny _ => o.func == 1 | _ => false
  let useA : Bool := match i with | .elect _ => false | _ => true
  let func : Bool := match i with
    | .qswp _ => decide (o.func.toNat < 3)
    | .qdx _ | .qdy _ | .matchAny _ => decide (o.func.toNat < 2)
    | .vote _ | .shfl _ => decide (o.func.toNat < 4)
    | .redi _ => decide (o.func.toNat < 6)
    | .redf _ => decide (o.func.toNat < 3)
    | .scan _ => decide (o.func.toNat % 8 < 6)
    | _ => decide (o.func.toNat = 0)
  let rnd := (o.lo.extractLsb' 9 3).toNat
  let lo02 : Bool := match i with
    | .qdx _ | .qdy _ => o.lo.extractLsb' 0 4 ≠ 0#4
    | .redf _ => o.lo.extractLsb' 0 4 ≠ 0#4 || (o.func ≠ 0 && o.lo.extractLsb' 8 4 ≠ 0#4)
    | .redi _ | .scan _ => o.lo.extractLsb' 5 7 ≠ 0#7 || (o.lo.getLsbD 4 && o.func.extractLsb' 0 3 ≠ 0#3)
    | _ => o.lo ≠ 0
  let lo04 : Bool := match i with
    | .qdx _ | .qdy _ => decide (rnd > 5) || o.lo.extractLsb' 4 4 ≠ 0#4
    | .redf _ => decide (rnd > 4) || o.lo.extractLsb' 4 4 ≠ 0#4
    | .redi _ | .scan _ => decide ((o.lo.extractLsb' 0 4).toNat > 1)
    | _ => false
  ((!useA && o.a ≠ 0) || (!useB && o.b ≠ 0) || (!useC && o.c ≠ 0) || lo02, !func || lo04)

/-- R173, R174, R213, R354. -/
def memCheck (i : Instr) (o : MemOps) : Bool × Bool × Bool :=
  let useD : Bool := match i with | .st _ | .sts _ | .red _ | .stag _ | .accst _ => false | _ => true
  let useC : Bool := match i with | .ld _ | .lds _ | .lr _ | .ldtag _ => false | _ => true
  let bIsData : Bool := match i with | .atom o => o.aop == 7 | .accst _ | .accld _ => true | _ => false
  let spaceOk : Bool := match i with
    | .ld _ | .st _ | .lr _ | .sc _ | .stag _ | .ldtag _ | .dbind _ => o.space == .glob
    | .lds _ | .sts _ => o.space ≠ .glob
    | _ => true
  let orderOk : Bool := match i with
    | .ld _ | .lds _ => o.order == .rlx || o.order == .acq || o.order == .sc
    | .st _ | .sts _ => o.order == .rlx || o.order == .rel || o.order == .sc
    | .atom _ => true
    | .red _ | .sc _ => o.order == .rlx || o.order == .rel
    | .lr _ => o.order == .rlx || o.order == .acq
    | .dbind _ => true
    | _ => o.order == .rlx
  let opmodOk : Bool := match i with
    | .ld _ | .st _ | .lds _ | .sts _ => decide ((o.opmod.extractLsb' 0 4).toNat ≤ 7)
    | .lr _ | .sc _ => decide ((o.opmod.extractLsb' 0 4).toNat ≤ 3)
    | .atom _ => o.atomOk
    | .red _ => o.atomOk && o.aop ≠ 6 && o.aop ≠ 7
    | _ => true
  let opmod02 : Bool := match i with
    | .stag _ | .ldtag _ | .accst _ | .accld _ | .dbind _ => o.opmod ≠ 0
    | .ld _ | .st _ | .lds _ | .sts _ | .lr _ | .sc _ => o.opmod.extractLsb' 4 3 ≠ 0#3
    | _ => false
  let isAcc : Bool := match i with | .accst _ | .accld _ => true | _ => false
  let isDbind : Bool := match i with | .dbind _ => true | _ => false
  let scope02 := o.order == .rlx && o.scope ≠ .blk && !isAcc
  let b02 := (!useD && o.d ≠ 0) || (!useC && o.c ≠ 0) || (!bIsData && !o.idx && o.b ≠ 0) || (!o.idx && o.scale ≠ 0) || opmod02 ||
    scope02 || (isAcc && (o.idx || o.scale ≠ 0)) || (isDbind && (o.idx || o.order ≠ .rlx || o.space ≠ .glob))
  let b04 := (!spaceOk && !isDbind) || !orderOk || !opmodOk || decide (o.scale.toNat > 4) || !o.space.allows o.scope ||
    (isAcc && o.scope ≠ .blk)
  let b06 : Bool := match i with | .atom o => o.aop == 7 && o.idx | _ => false
  (b02, b04, b06)

/-- Which of d, a, b, c an R-class row without modifiers uses (R213, R354). -/
def regUses : Instr → Bool × Bool × Bool × Bool
  | .aalloc _ => (true, true, false, true)
  | .afree _ | .accz _ => (false, true, false, false)
  | .accr _ => (true, true, true, false)
  | .accw _ => (false, true, true, true)
  | .dopen _ => (true, true, false, true)
  | .dopenW _ => (true, true, true, true)
  | .dclose _ | .dunbind _ | .dptr _ | .dquery _ _ => (true, true, false, false)
  | _ => (true, true, true, true)

def regCheck02 (i : Instr) (o : RegOps) : Bool :=
  let u := regUses i
  (!u.1 && o.d ≠ 0) || (!u.2.1 && o.a ≠ 0) || (!u.2.2.1 && o.b ≠ 0) || (!u.2.2.2 && o.c ≠ 0)

/-- R129, R198, R223, R233, R237. A lookahead on `atab` is a nonzero field that R129 shows as zero, reason 0x02. -/
def descCheck (i : Instr) (o : DescOps) : Bool × Bool :=
  let useB : Bool := match i with | .mma _ | .cpbox _ | .cpred _ | .tmov _ => true | _ => false
  let isAtab : Bool := match i with | .atab _ => true | _ => false
  ((!useB && o.b ≠ 0) || (!isAtab && o.lo ≠ 0) || (isAtab && o.h.la ≠ 0),
   !(o.space == .unit || o.space == .clus) || (isAtab && !decide (1 ≤ o.lo.toNat ∧ o.lo.toNat ≤ 4)))

/-- A successor field with segment id 0 (R53): bits 31:12 of the word are bits 27:8 of the field. -/
def nullSucc (s : BitVec 28) : Bool := s.extractLsb' 8 20 = 0#20

/-- The failures of each reason for one instruction: (0x02, 0x04, 0x05, 0x06, 0x0B). -/
def Instr.fails (i : Instr) : Bool × Bool × Bool × Bool × Bool :=
  let opdBad := (i.srcs ++ i.dsts).any fun o => !o.ok true
  let laBad := i.head.la ≠ 0 && !i.mayLook
  let portDst := i.head.la ≠ 0 && (i.dsts.any fun o => match o with | .reg f _ _ => decide (f.toNat ≥ 248) | _ => false)
  let b06 := opdBad || portDst
  match intRow i with
  | some (r, o) => let c := intCheck i r o; (c.1, c.2.1, laBad, b06 || c.2.2, false)
  | none =>
  match fpRow i with
  | some (r, o) => let c := fpCheck i r o; (c.1, c.2, laBad, b06, false)
  | none =>
  match algRow i with
  | some (_, t, r, o) => let c := algCheck i t r o; (c.1, c.2, laBad, b06 || algCheck06 i o, false)
  | none =>
  match laneRow i with
  | some (_, o) => let c := laneCheck i o; (c.1, c.2, laBad, b06, false)
  | none =>
  match memRow i with
  | some (_, o) => let c := memCheck i o; (c.1, c.2.1, laBad, b06 || c.2.2, false)
  | none =>
  match regRow i with
  | some (_, _, o) => (regCheck02 i o, (match i with | .dquery _ s => s == 7 | _ => false), laBad, b06, false)
  | none =>
  match descRow i with
  | some (_, o) => let c := descCheck i o; (c.1, c.2, laBad, b06, false)
  | none =>
  match i with
  | .cvt o => (false, cvtCheck04 o, laBad, b06, false)
  | .next s | .yield s => (false, false, false, b06, nullSucc s)
  | .brv _ t n => (false, false, false, b06, nullSucc t || nullSucc n)
  | .call _ f r => (false, false, false, b06, nullSucc f || nullSucc r)
  | .spawn o => ((!o.rs && o.d ≠ 0) || (o.rs && o.succ ≠ 0) || (o.argn == 0 && o.a ≠ 0) || (!o.try_ && o.tp ≠ 0),
      decide (o.argn.toNat > 8), laBad,
      b06 || (o.try_ && decide (o.tp.toNat > 7)) || decide (o.a.toNat + o.argn.toNat > 248), !o.rs && nullSucc o.succ)
  | .barArw o => (o.d ≠ 0 || o.b ≠ 0, o.scope == .sys, laBad, b06, false)
  | .barArv o => (o.b ≠ 0, o.scope == .sys, laBad, b06, false)
  | .barWt o => (o.d ≠ 0, o.scope == .sys, laBad, b06, false)
  | .barExp o => (o.d ≠ 0 || o.scope ≠ .blk, false, laBad, b06, false)
  | .satt o => (!o.ofs && o.b ≠ 0, !(o.space == .unit || o.space == .clus), laBad, b06 || decide (o.port.toNat < 248), false)
  | .sdet p => (false, false, false, decide (p.toNat < 248), false)
  | .fence _ _ ord => (false, ord == .rlx, laBad, b06, false)
  | .csrr _ _ n => (false, !csrExists n.toNat, laBad, b06, false)
  | .csrw _ _ n | .csrwSet _ _ n | .csrwClr _ _ n => (false, !csrExists n.toNat || csrReadOnly n.toNat, laBad, b06, false)
  | .brk _ _ act => (false, act == 3, laBad, b06, false)
  | _ => (false, false, laBad, b06, false)

/-- The lowest reason of R66 that the slot fails on its own. -/
def Instr.check (i : Instr) : Option Reject :=
  let f := i.fails
  if f.1 then some .reservedBit
  else if f.2.1 then some .reservedCode
  else if f.2.2.1 then some .lookahead
  else if f.2.2.2.1 then some .register
  else if f.2.2.2.2 then some .nullSucc
  else none

/-- An instruction that validation of its own slot accepts. -/
def Instr.wf (i : Instr) : Bool := i.check == none

end Sys2Proof
end

