-- ==== Sys2Proof/Decode.lean ====
section
/-! DEFINITION. The 96-bit instruction slot (R47 to R55, R69, R74, R101, R119, R134, R145, R151, R156, R163, R173, R192, R198, R223):
the decoder, total on any bits and rejecting by reason, and after it the encoder. -/

namespace Sys2Proof

/-- The fields of R47. -/
structure Slot where
  opc : BitVec 8
  func : BitVec 4
  la : BitVec 4
  neg : BitVec 1
  pred : BitVec 3
  d : BitVec 8
  a : BitVec 8
  b : BitVec 8
  c : BitVec 8
  mod : BitVec 44
deriving DecidableEq, Repr, Inhabited

/-- R47: the fields of a slot's bits. -/
def Slot.ofBits (w : BitVec 96) : Slot where
  opc := w.extractLsb' 88 8
  func := w.extractLsb' 84 4
  la := w.extractLsb' 80 4
  neg := w.extractLsb' 79 1
  pred := w.extractLsb' 76 3
  d := w.extractLsb' 68 8
  a := w.extractLsb' 60 8
  b := w.extractLsb' 52 8
  c := w.extractLsb' 44 8
  mod := w.extractLsb' 0 44

/-- R47: the bits of a slot's fields. -/
def Slot.bits (s : Slot) : BitVec 96 :=
  s.opc ++ s.func ++ s.la ++ s.neg ++ s.pred ++ s.d ++ s.a ++ s.b ++ s.c ++ s.mod

def Slot.head (s : Slot) : Head := ⟨s.neg == 1#1, s.pred, s.la⟩

def Head.neg1 (h : Head) : BitVec 1 := if h.neg then 1#1 else 0#1

/-- R54: form codes. -/
def Form.ofCode (c : BitVec 2) : Form :=
  if c = 0 then .r else if c = 1 then .i else if c = 2 then .k else .ki

def Form.bits : Form → BitVec 2
  | .r => 0 | .i => 1 | .k => 2 | .ki => 3

def IntTy.bits : IntTy → BitVec 4
  | .s32 => 0 | .z32 => 1 | .s64 => 2 | .z64 => 3 | .s16 => 4 | .z16 => 5 | .s8 => 6 | .z8 => 7

def Cond.bits : Cond → BitVec 3
  | .eq => 0 | .ne => 1 | .lt => 2 | .le => 3 | .gt => 4 | .ge => 5

def Cond.ofBits (b : BitVec 3) : Option Cond :=
  match b.toNat with
  | 0 => some .eq | 1 => some .ne | 2 => some .lt | 3 => some .le | 4 => some .gt | 5 => some .ge | _ => none

def Rnd.bits : Rnd → BitVec 3
  | .rne => 0 | .rna => 1 | .rz => 2 | .rdn => 3 | .rup => 4 | .sr => 5

def Rnd.ofBits (b : BitVec 3) : Option Rnd :=
  match b.toNat with
  | 0 => some .rne | 1 => some .rna | 2 => some .rz | 3 => some .rdn | 4 => some .rup | 5 => some .sr | _ => none

def FpTy.bits : FpTy → BitVec 4
  | .f32 => 0 | .f16 => 1 | .bf16 => 2 | .f16x2 => 3 | .bf16x2 => 4

def FpTy.ofBits (b : BitVec 4) : Option FpTy :=
  match b.toNat with
  | 0 => some .f32 | 1 => some .f16 | 2 => some .bf16 | 3 => some .f16x2 | 4 => some .bf16x2 | _ => none

def CFmt.bits : CFmt → BitVec 4
  | .f32 => 0 | .f16 => 1 | .bf16 => 2 | .e4m3 => 3 | .e5m2 => 4 | .lns6 => 5 | .s8 => 6 | .z8 => 7 | .s16 => 8 | .z16 => 9
  | .s32 => 10 | .z32 => 11 | .s64 => 12 | .z64 => 13

def CFmt.ofBits (b : BitVec 4) : Option CFmt :=
  match b.toNat with
  | 0 => some .f32 | 1 => some .f16 | 2 => some .bf16 | 3 => some .e4m3 | 4 => some .e5m2 | 5 => some .lns6 | 6 => some .s8
  | 7 => some .z8 | 8 => some .s16 | 9 => some .z16 | 10 => some .s32 | 11 => some .z32 | 12 => some .s64 | 13 => some .z64
  | _ => none

def Space.bits : Space → BitVec 3
  | .glob => 0 | .unit => 1 | .clus => 2 | .die => 3

def Space.ofBits (b : BitVec 3) : Option Space :=
  match b.toNat with
  | 0 => some .glob | 1 => some .unit | 2 => some .clus | 3 => some .die | _ => none

def Scope.bits : Scope → BitVec 3
  | .blk => 0 | .drf => 1 | .die => 2 | .dev => 3 | .sys => 4

def Scope.ofBits (b : BitVec 3) : Option Scope :=
  match b.toNat with
  | 0 => some .blk | 1 => some .drf | 2 => some .die | 3 => some .dev | 4 => some .sys | _ => none

def Order.bits : Order → BitVec 3
  | .rlx => 0 | .acq => 1 | .rel => 2 | .ar => 3 | .sc => 4

def Order.ofBits (b : BitVec 3) : Option Order :=
  match b.toNat with
  | 0 => some .rlx | 1 => some .acq | 2 => some .rel | 3 => some .ar | 4 => some .sc | _ => none

def boolBit (b : Bool) : BitVec 1 := if b then 1#1 else 0#1

/-- R74: operands of an integer-class slot. -/
def Slot.int (s : Slot) : Option IntOps := do
  let cond ← Cond.ofBits (s.mod.extractLsb' 5 3)
  let ty ← IntTy.ofCode (s.mod.extractLsb' 0 4).toNat
  some { h := s.head, form := Form.ofCode (s.func.extractLsb' 2 2), d := s.d, a := s.a, b := s.b, c := s.c,
         imm := s.mod.extractLsb' 12 32, opx := s.mod.extractLsb' 8 4, cond := cond, sat := s.mod.getLsbD 4, ty := ty }

/-- R101: operands of a float-class slot; FUNC bit 3 would be a K form, which no opcode of the class has. -/
def Slot.fp (s : Slot) : Option FpOps := do
  let rnd ← Rnd.ofBits (s.mod.extractLsb' 9 3)
  let ty ← FpTy.ofBits (s.mod.extractLsb' 4 4)
  if s.func.getLsbD 3 then none else
  some { h := s.head, isImm := s.func.getLsbD 2, d := s.d, a := s.a, b := s.b, c := s.c, imm := s.mod.extractLsb' 12 32,
         rnd := rnd, ovf := s.mod.getLsbD 8, ty := ty, opx := s.mod.extractLsb' 0 4 }

/-- R119. -/
def Slot.cvt (s : Slot) : Option CvtOps := do
  let rnd ← Rnd.ofBits (s.mod.extractLsb' 9 3)
  let sf ← CFmt.ofBits (s.mod.extractLsb' 16 4)
  let df ← CFmt.ofBits (s.mod.extractLsb' 12 4)
  some { h := s.head, d := s.d, a := s.a, mrg := s.mod.getLsbD 24, sel := s.mod.extractLsb' 22 2, del := s.mod.extractLsb' 20 2,
         sfmt := sf, dfmt := df, rnd := rnd, ovf := s.mod.getLsbD 8 }

/-- R134. -/
def Slot.alg (s : Slot) : Option AlgOps := do
  let rnd ← Rnd.ofBits (s.mod.extractLsb' 9 3)
  if s.mod.extractLsb' 4 4 ≠ 0#4 then none else
  some { h := s.head, d := s.d, a := s.a, b := s.b, c := s.c, dim := s.mod.extractLsb' 12 2, rnd := rnd, ovf := s.mod.getLsbD 8,
         tslot := s.mod.extractLsb' 0 4 }

/-- R163. -/
def Slot.lane (s : Slot) : LaneOps :=
  { h := s.head, func := s.func, d := s.d, a := s.a, b := s.b, c := s.c, lo := s.mod.extractLsb' 0 12 }

/-- R52. -/
def Slot.mem (s : Slot) : Option MemOps := do
  let sp ← Space.ofBits (s.mod.extractLsb' 13 3)
  let sc ← Scope.ofBits (s.mod.extractLsb' 10 3)
  let od ← Order.ofBits (s.mod.extractLsb' 7 3)
  some { h := s.head, d := s.d, a := s.a, b := s.b, c := s.c, disp := s.mod.extractLsb' 20 24, idx := s.mod.getLsbD 19,
         scale := s.mod.extractLsb' 16 3, space := sp, scope := sc, order := od, opmod := s.mod.extractLsb' 0 7 }

def Slot.reg (s : Slot) : RegOps := { h := s.head, d := s.d, a := s.a, b := s.b, c := s.c }

/-- R223. -/
def Slot.desc (s : Slot) : Option DescOps := do
  let sp ← Space.ofBits (s.mod.extractLsb' 3 3)
  some { h := s.head, a := s.a, b := s.b, space := sp, lo := s.mod.extractLsb' 0 3 }

/-- R156. -/
def Slot.bar (s : Slot) : Option BarOps := do
  let sc ← Scope.ofBits (s.mod.extractLsb' 4 3)
  some { h := s.head, d := s.d, b := s.b, scope := sc, slot := s.mod.extractLsb' 0 4 }

/-- R53: SUCC0, bits 59:32 of the slot. -/
def Slot.succ0 (s : Slot) : BitVec 28 := s.b ++ s.c ++ s.mod.extractLsb' 32 12
/-- R53: SUCC1, bits 31:4. -/
def Slot.succ1 (s : Slot) : BitVec 28 := s.mod.extractLsb' 4 28

/-- R151. -/
def Slot.spawn (s : Slot) : SpawnOps :=
  { h := s.head, d := s.d, a := s.a, succ := s.succ0, argn := s.mod.extractLsb' 8 4, tp := s.mod.extractLsb' 4 4,
    rs := s.mod.getLsbD 1, try_ := s.mod.getLsbD 0 }

/-- The integer-class instruction of an opcode and variant (R69, R79). -/
def intOf (opc var : Nat) (o : IntOps) : Option Instr :=
  match opc, var with
  | 0x01, 0 => some (.mov o) | 0x02, 0 => some (.movi o) | 0x03, 0 => some (.movs o)
  | 0x04, 0 => some (.movkToLane o) | 0x04, 1 => some (.movkToUniform o)
  | 0x05, 0 => some (.iadd o) | 0x06, 0 => some (.iaddc o) | 0x07, 0 => some (.isub o) | 0x08, 0 => some (.imul o)
  | 0x09, 0 => some (.imulh o) | 0x0A, 0 => some (.imad o) | 0x0B, 0 => some (.imadw o) | 0x0C, 0 => some (.idiv o)
  | 0x0D, 0 => some (.irem o) | 0x0E, 0 => some (.imin o) | 0x0E, 1 => some (.imax o) | 0x0F, 0 => some (.iabs o)
  | 0x0F, 1 => some (.ineg o) | 0x10, 0 => some (.and o) | 0x10, 1 => some (.or o) | 0x10, 2 => some (.xor o)
  | 0x10, 3 => some (.not o) | 0x11, 0 => some (.shl o) | 0x11, 1 => some (.shr o) | 0x11, 2 => some (.sar o)
  | 0x11, 3 => some (.rol o) | 0x12, 0 => some (.bfe o) | 0x12, 1 => some (.bfi o) | 0x13, 0 => some (.popc o)
  | 0x13, 1 => some (.clz o) | 0x13, 2 => some (.ctz o) | 0x13, 3 => some (.brev o) | 0x14, 0 => some (.prm o)
  | 0x15, 0 => some (.icmp o) | 0x16, 0 => some (.sel o) | 0x17, 0 => some (.plop o) | 0x18, 0 => some (.padd o)
  | 0x19, 0 => some (.psub o) | 0x1A, 0 => some (.pcmp o) | 0x1B, 0 => some (.pbnd o)
  | _, _ => none

/-- The float-class instruction of an opcode and variant (R69, R103). -/
def fpOf (opc var : Nat) (o : FpOps) : Option Instr :=
  match opc, var with
  | 0x20, 0 => some (.fadd o) | 0x21, 0 => some (.fsub o) | 0x22, 0 => some (.fmul o) | 0x23, 0 => some (.ffma o)
  | 0x24, 0 => some (.fmin o) | 0x24, 1 => some (.fmax o) | 0x25, 0 => some (.fabs o) | 0x25, 1 => some (.fneg o)
  | 0x26, 0 => some (.fcmp o) | 0x27, 0 => some (.fdiv o) | 0x28, 0 => some (.fsqrt o) | 0x29, 0 => some (.frcp o)
  | 0x2A, 0 => some (.frsq o) | 0x2B, 0 => some (.fex2 o) | 0x2C, 0 => some (.flg2 o) | 0x2D, 0 => some (.fsin o)
  | 0x2E, 0 => some (.fcos o) | 0x2F, 0 => some (.frnd o) | 0x30, 0 => some (.fclass o) | 0x32, 0 => some (.idp4 o)
  | 0x33, 0 => some (.idp8 o) | 0x34, 0 => some (.fdp2 o)
  | _, _ => none

/-- Opcodes whose FUNC must be zero: algebra, X class, M class, R class without modifiers (R69). -/
def plainOf (s : Slot) : Option Instr :=
  match s.opc.toNat with
  | 0x31 => s.cvt.map .cvt
  | 0x40 => s.desc.map .atab
  | 0x41 => s.alg.map .amul | 0x42 => s.alg.map .amac | 0x43 => s.alg.map .aconj
  | 0x44 => s.alg.map .anorm | 0x45 => s.alg.map .aadd | 0x46 => s.alg.map .ascl
  | 0x60 => some (.next s.succ0) | 0x61 => some (.nexti s.a)
  | 0x62 => some (.brv s.a s.succ0 s.succ1)
  | 0x63 => some (.call s.d s.succ0 s.succ1) | 0x64 => some (.ret s.a) | 0x65 => some (.spawn s.spawn)
  | 0x66 => some .exit | 0x67 => some (.yield s.succ0)
  | 0x69 => some (.barinit s.head s.a s.b (s.mod.extractLsb' 0 4))
  | 0x6A => some (.trap s.head (s.mod.extractLsb' 12 16))
  | 0x70 => s.mem.map .ld | 0x71 => s.mem.map .st | 0x72 => s.mem.map .lds | 0x73 => s.mem.map .sts
  | 0x74 => (Space.ofBits (s.mod.extractLsb' 3 3)).map fun sp =>
      .satt { h := s.head, port := s.d, a := s.a, b := s.b, ofs := s.mod.getLsbD 6, space := sp }
  | 0x75 => some (.sdet s.d)
  | 0x76 => s.mem.map .atom | 0x77 => s.mem.map .red | 0x78 => s.mem.map .lr | 0x79 => s.mem.map .sc
  | 0x7A => do
      let sc ← Scope.ofBits (s.mod.extractLsb' 10 3)
      let od ← Order.ofBits (s.mod.extractLsb' 7 3)
      some (.fence s.head sc od)
  | 0x7B => some .commit
  | 0x7C => s.mem.map .stag | 0x7D => s.mem.map .ldtag
  | 0x90 => s.desc.map .mma | 0x91 => some .mwait | 0x92 => some .mfence
  | 0x93 => some (.aalloc s.reg) | 0x94 => some (.afree s.reg) | 0x95 => some (.accr s.reg) | 0x96 => some (.accw s.reg)
  | 0x97 => some (.accz s.reg) | 0x98 => s.mem.map .accst | 0x99 => s.mem.map .accld
  | 0xA0 => s.desc.map .cpbox | 0xA1 => s.desc.map .cpred | 0xA2 => s.desc.map .tmov | 0xA3 => s.desc.map .mapr
  | 0xA4 => some (.wback s.head (s.mod.extractLsb' 4 3) (s.mod.extractLsb' 0 4))
  | 0xA5 => some (.unmapr s.head (s.mod.extractLsb' 4 3) (s.mod.extractLsb' 0 4))
  | 0xA6 => s.desc.map .cbinit
  | 0xA7 => some (.cbacq s.head s.d (s.mod.extractLsb' 0 4)) | 0xA8 => some (.cbrel s.head (s.mod.extractLsb' 0 4))
  | 0xB1 => some (.dclose s.reg) | 0xB2 => s.mem.map .dbind | 0xB3 => some (.dunbind s.reg) | 0xB4 => some (.dptr s.reg)
  | 0xB5 => some (.dquery s.reg (s.mod.extractLsb' 0 3))
  | 0xB8 => some (.csrr s.head s.d (s.mod.extractLsb' 12 12))
  | 0xBA => some (.eret s.head)
  | 0xBC => some (.brk s.head (s.mod.extractLsb' 12 16) (s.mod.extractLsb' 28 2))
  | 0xBD => some (.prog s.head (s.mod.extractLsb' 12 3))
  | _ => none

/-- Opcodes whose FUNC names a variant in its own way (R156, R161, R163, R315, R317, R354, R380). -/
def funcOf (s : Slot) : Option Instr :=
  match s.opc.toNat, s.func.toNat with
  | 0x50, _ => some (.qswp s.lane) | 0x51, _ => some (.qdx s.lane) | 0x52, _ => some (.qdy s.lane) | 0x53, _ => some (.vote s.lane)
  | 0x54, _ => some (.shfl s.lane) | 0x55, _ => some (.redi s.lane) | 0x56, _ => some (.redf s.lane) | 0x57, _ => some (.scan s.lane)
  | 0x58, _ => some (.matchAny s.lane) | 0x59, _ => some (.elect s.lane)
  | 0x68, 0 => s.bar.map .barArw | 0x68, 1 => s.bar.map .barArv | 0x68, 2 => s.bar.map .barWt | 0x68, 3 => s.bar.map .barExp
  | 0x6B, 0 => some (.featq s.head s.d (s.mod.extractLsb' 0 2)) | 0x6B, 1 => some (.featqBit s.head s.d (s.mod.extractLsb' 0 7))
  | 0xB0, 0 => some (.dopen s.reg) | 0xB0, 1 => some (.dopenW s.reg)
  | 0xB9, 0 => some (.csrw s.head s.a (s.mod.extractLsb' 12 12)) | 0xB9, 1 => some (.csrwSet s.head s.a (s.mod.extractLsb' 12 12))
  | 0xB9, 2 => some (.csrwClr s.head s.a (s.mod.extractLsb' 12 12))
  | 0xBB, 0 => some (.haltGrid s.head) | 0xBB, 1 => some (.haltCtx s.head)
  | 0xBE, 0 => some (.mark s.head (s.mod.extractLsb' 12 16)) | 0xBE, 1 => some (.markValue s.head s.a (s.mod.extractLsb' 12 16))
  | _, _ => none

/-- The instruction a slot's codes name, before its unused bits and its operands are checked. -/
def Slot.instr (s : Slot) : Option Instr :=
  if s.opc = 0#8 then (if s.func = 0#4 then some .nop else none)
  else if decide (s.opc.toNat ≤ 0x1B) then s.int.bind (intOf s.opc.toNat (s.func.extractLsb' 0 2).toNat)
  else if decide (0x20 ≤ s.opc.toNat ∧ s.opc.toNat ≤ 0x34) && s.opc ≠ 0x31#8 then
    s.fp.bind (fpOf s.opc.toNat (s.func.extractLsb' 0 2).toNat)
  else match funcOf s with
    | some i => some i
    | none => if s.func = 0#4 then plainOf s else none

/-! The encoder: the slot of an instruction, from the same tables. -/

def slotOf (opc : BitVec 8) (func : BitVec 4) (h : Head) (d a b c : BitVec 8) (mod : BitVec 44) : Slot :=
  { opc := opc, func := func, la := h.la, neg := h.neg1, pred := h.pred, d := d, a := a, b := b, c := c, mod := mod }

def IntOps.slot (opc : BitVec 8) (var : BitVec 2) (o : IntOps) : Slot :=
  slotOf opc (o.form.bits ++ var) o.h o.d o.a o.b o.c (o.imm ++ o.opx ++ o.cond.bits ++ boolBit o.sat ++ o.ty.bits)

def FpOps.slot (opc : BitVec 8) (var : BitVec 2) (o : FpOps) : Slot :=
  slotOf opc (0#1 ++ boolBit o.isImm ++ var) o.h o.d o.a o.b o.c (o.imm ++ o.rnd.bits ++ boolBit o.ovf ++ o.ty.bits ++ o.opx)

def CvtOps.slot (o : CvtOps) : Slot :=
  slotOf 0x31 0 o.h o.d o.a 0 0
    (0#19 ++ boolBit o.mrg ++ o.sel ++ o.del ++ o.sfmt.bits ++ o.dfmt.bits ++ o.rnd.bits ++ boolBit o.ovf ++ 0#8)

def AlgOps.slot (opc : BitVec 8) (o : AlgOps) : Slot :=
  slotOf opc 0 o.h o.d o.a o.b o.c (0#30 ++ o.dim ++ o.rnd.bits ++ boolBit o.ovf ++ 0#4 ++ o.tslot)

def LaneOps.slot (opc : BitVec 8) (o : LaneOps) : Slot :=
  slotOf opc o.func o.h o.d o.a o.b o.c (0#32 ++ o.lo)

def MemOps.slot (opc : BitVec 8) (o : MemOps) : Slot :=
  slotOf opc 0 o.h o.d o.a o.b o.c
    (o.disp ++ boolBit o.idx ++ o.scale ++ o.space.bits ++ o.scope.bits ++ o.order.bits ++ o.opmod)

def RegOps.slot (opc : BitVec 8) (func : BitVec 4) (o : RegOps) (mod : BitVec 44) : Slot :=
  slotOf opc func o.h o.d o.a o.b o.c mod

def DescOps.slot (opc : BitVec 8) (o : DescOps) : Slot :=
  slotOf opc 0 o.h 0 o.a o.b 0 (0#38 ++ o.space.bits ++ o.lo)

def BarOps.toSlot (func : BitVec 4) (o : BarOps) : Slot :=
  slotOf 0x68 func o.h o.d 0 o.b 0 (0#37 ++ o.scope.bits ++ o.slot)

/-- Guard and lookahead of a terminator or fixed-guard instruction (R60, R183). -/
def fixedHead : Head := ⟨false, 7, 0⟩

/-- R53: an S-class slot. -/
def succSlot (opc d a : BitVec 8) (h : Head) (s0 s1 : BitVec 28) (low : BitVec 4) : Slot :=
  slotOf opc 0 h d a (s0.extractLsb' 20 8) (s0.extractLsb' 12 8) (s0.extractLsb' 0 12 ++ s1 ++ low)

/-- The slot of an instruction; an event has none. -/
def Instr.slot? (i : Instr) : Option Slot :=
  match intRow i with
  | some (r, o) => some (o.slot r.opc r.var)
  | none =>
  match fpRow i with
  | some (r, o) => some (o.slot r.opc r.var)
  | none =>
  match algRow i with
  | some (opc, _, _, o) => some (o.slot opc)
  | none =>
  match laneRow i with
  | some (opc, o) => some (o.slot opc)
  | none =>
  match memRow i with
  | some (opc, o) => some (o.slot opc)
  | none =>
  match regRow i with
  | some (opc, func, o) => some (o.slot opc func (match i with | .dquery _ s => 0#41 ++ s | _ => 0#44))
  | none =>
  match descRow i with
  | some (opc, o) => some (o.slot opc)
  | none =>
  match i with
  | .nop => some ⟨0, 0, 0, 0, 0, 0, 0, 0, 0, 0⟩
  | .cvt o => some o.slot
  | .next s => some (succSlot 0x60 0 0 fixedHead s 0 0)
  | .nexti a => some (succSlot 0x61 0 a fixedHead 0 0 0)
  | .brv p t n => some (succSlot 0x62 0 p fixedHead t n 0)
  | .call d f r => some (succSlot 0x63 d 0 fixedHead f r 0)
  | .ret a => some (succSlot 0x64 0 a fixedHead 0 0 0)
  | .spawn o => some (succSlot 0x65 o.d o.a o.h o.succ (0#20 ++ o.argn ++ o.tp) (0#2 ++ boolBit o.rs ++ boolBit o.try_))
  | .exit => some (succSlot 0x66 0 0 fixedHead 0 0 0)
  | .yield s => some (succSlot 0x67 0 0 fixedHead s 0 0)
  | .barArw o => some (o.toSlot 0)
  | .barArv o => some (o.toSlot 1)
  | .barWt o => some (o.toSlot 2)
  | .barExp o => some (o.toSlot 3)
  | .barinit h a b s => some (slotOf 0x69 0 h 0 a b 0 (0#40 ++ s))
  | .trap h c => some (slotOf 0x6A 0 h 0 0 0 0 (0#16 ++ c ++ 0#12))
  | .featq h d w => some (slotOf 0x6B 0 h d 0 0 0 (0#42 ++ w))
  | .featqBit h d n => some (slotOf 0x6B 1 h d 0 0 0 (0#37 ++ n))
  | .satt o => some (slotOf 0x74 0 o.h o.port o.a o.b 0 (0#37 ++ boolBit o.ofs ++ o.space.bits ++ 0#3))
  | .sdet p => some (slotOf 0x75 0 fixedHead p 0 0 0 0)
  | .fence h scp od => some (slotOf 0x7A 0 h 0 0 0 0 (0#31 ++ scp.bits ++ od.bits ++ 0#7))
  | .commit => some (slotOf 0x7B 0 fixedHead 0 0 0 0 0)
  | .mwait => some (slotOf 0x91 0 fixedHead 0 0 0 0 0)
  | .mfence => some (slotOf 0x92 0 fixedHead 0 0 0 0 0)
  | .wback h m s => some (slotOf 0xA4 0 h 0 0 0 0 (0#37 ++ m ++ s))
  | .unmapr h m s => some (slotOf 0xA5 0 h 0 0 0 0 (0#37 ++ m ++ s))
  | .cbacq h d b => some (slotOf 0xA7 0 h d 0 0 0 (0#40 ++ b))
  | .cbrel h b => some (slotOf 0xA8 0 h 0 0 0 0 (0#40 ++ b))
  | .csrr h d n => some (slotOf 0xB8 0 h d 0 0 0 (0#20 ++ n ++ 0#12))
  | .csrw h a n => some (slotOf 0xB9 0 h 0 a 0 0 (0#20 ++ n ++ 0#12))
  | .csrwSet h a n => some (slotOf 0xB9 1 h 0 a 0 0 (0#20 ++ n ++ 0#12))
  | .csrwClr h a n => some (slotOf 0xB9 2 h 0 a 0 0 (0#20 ++ n ++ 0#12))
  | .eret h => some (slotOf 0xBA 0 h 0 0 0 0 0)
  | .haltGrid h => some (slotOf 0xBB 0 h 0 0 0 0 0)
  | .haltCtx h => some (slotOf 0xBB 1 h 0 0 0 0 0)
  | .brk h c a => some (slotOf 0xBC 0 h 0 0 0 0 (0#14 ++ a ++ c ++ 0#12))
  | .prog h n => some (slotOf 0xBD 0 h 0 0 0 0 (0#29 ++ n ++ 0#12))
  | .mark h c => some (slotOf 0xBE 0 h 0 0 0 0 (0#16 ++ c ++ 0#12))
  | .markValue h a c => some (slotOf 0xBE 1 h 0 a 0 0 (0#16 ++ c ++ 0#12))
  | _ => none

/-- The 96 bits of an instruction; an event of the package has no encoding. -/
def encode (i : Instr) : Option (BitVec 96) := i.slot?.map Slot.bits

/-- A Tlamas instruction (rows 0 to 147), as against an event. -/
def Instr.isSlot (i : Instr) : Bool := i.slot?.isSome

/-- R60, R183, R194, R213: a guard on a terminator is reason 0x0A, on `commit`, `sdet`, `mwait` and `mfence` reason 0x04. -/
def Slot.guardReject (s : Slot) (i : Instr) : Option Reject :=
  if s.neg = 0#1 ∧ s.pred = 7#3 then none
  else if i.isTerm then some .guarded
  else match i with
    | .sdet _ | .commit | .mwait | .mfence => some .reservedCode
    | _ => none

/-- R183: a lookahead on `commit` is a nonzero bit, reason 0x02. -/
def Instr.laZero (i : Instr) : Bool := i == .commit

/-- R63: a lookahead on an instruction whose record keeps none. -/
def Slot.laReject (s : Slot) (i : Instr) : Option Reject :=
  if s.la ≠ i.head.la then some .lookahead else none

/-- The slot with the guard and lookahead that the instruction's record holds, for comparing the remaining bits (R14). -/
def Slot.withHeadOf (s t : Slot) : Slot := { s with la := t.la, neg := t.neg, pred := t.pred }

/-- A bit that the instruction read from the slot does not hold is nonzero (R14, R50, reason 0x02). -/
def Slot.extraBit (s : Slot) (i : Instr) (t : Slot) : Bool :=
  decide ((if i = .nop then s else s.withHeadOf t) ≠ t) || (i.laZero && decide (s.la ≠ 0))

/-- The slot fails reason 0x02 as what its codes name. -/
def Slot.fails02 (s : Slot) : Bool :=
  match s.instr with
  | none => false
  | some i =>
    match i.slot? with
    | none => false
    | some t => s.extraBit i t || i.check == some .reservedBit

/-- The fields of bits 43:0 that hold a code, by opcode: lowest bit, width, highest defined code (R52, R74, R75, R101, R102, R119, R120, R134,
R156, R184, R192, R223). -/
def codeFields (opc : Nat) : List (Nat × Nat × Nat) :=
  if opc ≤ 0x1B then [(5, 3, 5), (0, 4, 7)]
  else if opc = 0x31 then [(9, 3, 5), (16, 4, 13), (12, 4, 13)]
  else if opc ≤ 0x34 then [(9, 3, 5), (4, 4, 4)]
  else if decide (0x41 ≤ opc ∧ opc ≤ 0x46) then [(9, 3, 5), (4, 4, 0)]
  else match opc with
    | 0x40 | 0x90 | 0xA0 | 0xA1 | 0xA2 | 0xA3 | 0xA6 | 0x74 => [(3, 3, 3)]
    | 0x68 => [(4, 3, 4)]
    | 0x7A => [(10, 3, 4), (7, 3, 4)]
    | 0x70 | 0x71 | 0x72 | 0x73 | 0x76 | 0x77 | 0x78 | 0x79 | 0x7C | 0x7D | 0x98 | 0x99 | 0xB2 => [(13, 3, 3), (10, 3, 4), (7, 3, 4)]
    | _ => []

/-- Bits 43:0 with a field replaced. -/
def putField (m : BitVec 44) (lo w v : Nat) : BitVec 44 :=
  BitVec.ofNat 44 (m.toNat / 2 ^ (lo + w) * 2 ^ (lo + w) + v % 2 ^ w * 2 ^ lo + m.toNat % 2 ^ lo)

/-- The slots that have a defined nonzero code (0 where that is the only one) in place of each reserved code. -/
def Slot.mended (s : Slot) : List Slot :=
  (codeFields s.opc.toNat).foldl (fun ss e =>
    let v := s.mod.toNat / 2 ^ e.1 % 2 ^ e.2.1
    if v ≤ e.2.2 then ss
    else ss.flatMap fun t => (List.range (e.2.2 + 1)).filterMap fun c =>
      if c = 0 ∧ 0 < e.2.2 then none else some { t with mod := putField t.mod e.1 e.2.1 c }) [s]

/-- The slots that have a defined FUNC too, where the slot's own is reserved: one of the form that FUNC bits 3:2 select, where that form has any
(R54). -/
def Slot.mendedFunc (s : Slot) : List Slot :=
  let m := s.mended
  if m.any fun t => t.instr.isSome then m
  else
    let all := (List.range 16).flatMap fun f => (m.map fun t => { t with func := BitVec.ofNat 4 f }).filter fun t => t.instr.isSome
    let same := all.filter fun t => t.func.extractLsb' 2 2 == s.func.extractLsb' 2 2
    if decide (s.opc.toNat ≤ 0x34) && same ≠ [] then same else all

/-- R66: a slot with a reserved code fails reason 0x02 too when a bit is nonzero that every instruction its defined codes could name
requires zero: the lower reason is reported. `nop`'s slot is R71's (log 20). -/
def Slot.lowReason (s : Slot) : Reject :=
  let m := s.mendedFunc
  if s.opc ≠ 0#8 ∧ m ≠ [] ∧ m.all Slot.fails02 then .reservedBit else .reservedCode

/-- Decode 96 bits. A bit that the instruction does not hold is a nonzero reserved bit (R14, R50, reason 0x02). -/
def decode (w : BitVec 96) : Except Reject Instr :=
  let s := Slot.ofBits w
  match s.instr with
  | none => .error s.lowReason
  | some i =>
    match i.slot? with
    | none => .error .reservedCode
    | some t =>
      if s.extraBit i t then .error .reservedBit
      else match i.check with
        | some .reservedBit => .error .reservedBit
        | some .reservedCode => .error .reservedCode
        | some .lookahead => .error .lookahead
        | r => match s.laReject i, r, s.guardReject i with
          | _, _, some .reservedCode => .error .reservedCode
          | some e, _, _ => .error e
          | none, some .register, _ => .error .register
          | none, _, some e => .error e
          | none, some e, none => .error e
          | none, none, none => .ok i

/-- R12: bytes of a slot, least significant first. -/
def slotBytes (w : BitVec 96) : List (BitVec 8) :=
  (List.range 12).map fun i => w.extractLsb' (8 * i) 8

/-- R12, R43: the number a list of bytes stands for, least significant first. -/
def leNat : List (BitVec 8) → Nat
  | [] => 0
  | b :: rest => b.toNat + 256 * leNat rest

/-- Decode the twelve bytes of a slot. -/
def decodeBytes (bs : List (BitVec 8)) : Except Reject Instr := decode (BitVec.ofNat 96 (leNat (bs.take 12)))

/-- What the decoder reads from a slot whose bits are `w`; a Tlamas slot is 96 bits, and the bits above `nbits` are zero. -/
def decodeTableWord (nbits w : Nat) : Option Instr :=
  match decodeBytes (slotBytes (BitVec.ofNat 96 (w % 2 ^ nbits))) with
  | .ok i => some i
  | .error _ => none

end Sys2Proof
end

