-- ==== Sys2Proof/Machine/Num.lean ====
section
/-! DEFINITION. Number formats, rounding, conversion and exact sums (R17 to R39, R105 to R112). Codes are natural numbers below
2^width; exact values are integers times powers of two. -/

namespace Sys2Proof.Machine

/-! Sticky flags as a 5-bit mask: NV 16, DZ 8, OF 4, UF 2, NX 1 (R40). -/

abbrev Fl := BitVec 5
def flNV : Fl := 0x10
def flDZ : Fl := 0x08
def flOF : Fl := 0x04
def flUF : Fl := 0x02
def flNX : Fl := 0x01

def flIf (b : Bool) (f : Fl) : Fl := if b then f else 0

/-- Bits h:l of x as an unsigned integer (R16). -/
def bits (x h l : Nat) : Nat := (x / 2 ^ l) % 2 ^ (h + 1 - l)

/-- The low n bits of x as a two's-complement integer (R16). -/
def sext (x n : Nat) : Int :=
  let w := x % 2 ^ n
  if n ≠ 0 ∧ 2 ^ (n - 1) ≤ w then (w : Int) - 2 ^ n else w

/-- v modulo 2^n (R16). -/
def wrap (v : Int) (n : Nat) : Nat := (v % (2 ^ n : Int)).toNat

/-- A floating-point format (R19, R26). -/
structure Fmt where
  width : Nat
  fbits : Nat
  bias : Int
  emin : Int
  /-- Largest finite magnitude is `maxM * 2^maxE`. -/
  maxM : Nat
  maxE : Int
  hasInf : Bool
  /-- Canonical NaN. -/
  nan : Nat
  /-- NaNs may signal (R20). -/
  snan : Bool
deriving DecidableEq, Repr

namespace Fmt
def f32 : Fmt := ⟨32, 23, 127, -126, 0xFFFFFF, 104, true, 0x7FC00000, true⟩
def f16 : Fmt := ⟨16, 10, 15, -14, 0x7FF, 5, true, 0x7E00, true⟩
def bf16 : Fmt := ⟨16, 7, 127, -126, 0xFF, 120, true, 0x7FC0, true⟩
def e4m3 : Fmt := ⟨8, 3, 7, -6, 14, 5, false, 0x7F, false⟩
def e5m2 : Fmt := ⟨8, 2, 15, -14, 7, 13, true, 0x7E, false⟩
/-- Significand precision p (R26). -/
def p (f : Fmt) : Nat := f.fbits + 1
def ebits (f : Fmt) : Nat := f.width - 1 - f.fbits
def signBit (f : Fmt) : Nat := 2 ^ (f.width - 1)
def infCode (f : Fmt) : Nat := (2 ^ f.ebits - 1) * 2 ^ f.fbits
/-- Code of the largest finite value. -/
def maxCode (f : Fmt) : Nat := if f.hasInf then f.infCode - 1 else f.nan - 1
end Fmt

/-- The value of a code: a NaN (signalling or not), an infinity, a zero, or a nonzero finite `m * 2^e`. -/
inductive FVal where
  | nan (sig : Bool)
  | inf (neg : Bool)
  | zero (neg : Bool)
  | fin (neg : Bool) (m : Nat) (e : Int)
deriving DecidableEq, Repr, Inhabited

/-- R20: the value of a floating-point code. -/
def Fmt.val (f : Fmt) (code : Nat) : FVal :=
  let s := decide (code / f.signBit % 2 = 1)
  let ex := code / 2 ^ f.fbits % 2 ^ f.ebits
  let fr := code % 2 ^ f.fbits
  if ex = 0 then
    if fr = 0 then .zero s else .fin s fr (1 - f.bias - f.fbits)
  else if ex = 2 ^ f.ebits - 1 ∧ f.hasInf then
    if fr = 0 then .inf s else .nan (f.snan && decide (fr < 2 ^ (f.fbits - 1)))
  else if !f.hasInf ∧ ex = 2 ^ f.ebits - 1 ∧ fr = 2 ^ f.fbits - 1 then .nan false
  else .fin s (2 ^ f.fbits + fr) ((ex : Int) - f.bias - f.fbits)

/-- R22: the significand table T. -/
def lnsT (f : Nat) : Nat :=
  match f with
  | 0 => 0x10000 | 1 => 0x13070 | 2 => 0x16A0A | _ => 0x1AE8A

/-- R21, R22: the value of an LNS6 code. -/
def lnsVal (code : Nat) : FVal :=
  let l := sext code 5
  let s := decide (code / 32 % 2 = 1)
  if l = -16 then (if s then .nan false else .zero false)
  else .fin s (lnsT (l % 4).toNat) (l / 4 - 16)

/-- An operand of a lane: the code's sign. -/
def FVal.neg? : FVal → Bool
  | .nan _ => false | .inf s => s | .zero s => s | .fin s _ _ => s

def FVal.negate : FVal → FVal
  | .nan q => .nan q | .inf s => .inf !s | .zero s => .zero !s | .fin s m e => .fin (!s) m e

def FVal.isNan : FVal → Bool
  | .nan _ => true | _ => false

def FVal.isSnan : FVal → Bool
  | .nan s => s | _ => false

/-- Signed significand of a finite value. -/
def FVal.mant : FVal → Int
  | .fin s m _ => if s then -(m : Int) else m
  | _ => 0

def FVal.exp : FVal → Int
  | .fin _ _ e => e
  | _ => 0

/-- `choose` of R26 on the fraction `rem / den` of a step, with `st` for a nonzero rest below `rem`; true for hi.
`odd` says that lo is odd, `neg` that the value is negative. -/
def chooseHi (rnd : Rnd) (draw : Nat) (neg odd : Bool) (rem den : Nat) (st : Bool) : Bool :=
  match rnd with
  | .rne => decide (den < 2 * rem) || (decide (2 * rem = den) && (st || odd))
  | .rna => decide (den ≤ 2 * rem)
  | .rz => false
  | .rup => !neg
  | .rdn => neg
  | .sr => decide (2 ^ 16 ≤ rem * 2 ^ 16 / den + draw)

/-- The significand bits of `m * 2^e` cut at weight `2^q`: (lo, remainder, denominator). -/
def cutAt (m : Nat) (e q : Int) : Nat × Nat × Nat :=
  if q ≤ e then (m * 2 ^ (e - q).toNat, 0, 1)
  else let d := 2 ^ (q - e).toNat; (m / d, m % d, d)

/-- Round `m * 2^e` (plus a rest when `st`) to a multiple of `2^q`: the multiple and whether it is inexact. -/
def roundStep (rnd : Rnd) (draw : Nat) (neg : Bool) (m : Nat) (e q : Int) (st : Bool) : Nat × Bool :=
  let c := cutAt m e q
  if c.2.1 = 0 ∧ !st then (c.1, false)
  else (if chooseHi rnd draw neg (decide (c.1 % 2 = 1)) c.2.1 c.2.2 st then c.1 + 1 else c.1, true)

/-- `a * 2^x < b * 2^y`. -/
def scaledLt (a : Nat) (x : Int) (b : Nat) (y : Int) : Bool :=
  if x ≤ y then decide (a < b * 2 ^ (y - x).toNat) else decide (a * 2 ^ (x - y).toNat < b)

/-- R27: the code of an overflow. -/
def overflowCode (f : Fmt) (rnd : Rnd) (sat neg : Bool) : Nat :=
  let toMax : Bool := sat || (match rnd with
    | .rne | .rna | .sr => false
    | .rz => true
    | .rup => neg
    | .rdn => !neg)
  let mag := if toMax then f.maxCode else if f.hasInf then f.infCode else f.nan
  if neg ∧ (toMax ∨ f.hasInf) then f.signBit + mag else mag

/-- R26: round a nonzero `(-1)^neg * m * 2^e` (plus a rest below when `st`) into a format: code and flags. -/
def roundTo (f : Fmt) (rnd : Rnd) (sat : Bool) (draw : Nat) (neg : Bool) (m : Nat) (e : Int) (st : Bool) : Nat × Fl :=
  let top := (Nat.log2 m : Int) + e
  let q := max top f.emin - (f.p - 1 : Nat)
  let r := roundStep rnd draw neg m e q st
  let sgn := if neg then f.signBit else 0
  if scaledLt f.maxM f.maxE r.1 q then (overflowCode f rnd sat neg, flOF ||| flNX)
  else
    let code :=
      if r.1 < 2 ^ f.fbits then r.1
      else
        let k := if r.1 = 2 ^ f.p then 2 ^ f.fbits else r.1
        let q' := if r.1 = 2 ^ f.p then q + 1 else q
        (q' + f.fbits + f.bias).toNat * 2 ^ f.fbits + (k - 2 ^ f.fbits)
    let tiny : Bool :=
      if f.emin ≤ top then false
      else
        let q0 := top - (f.p - 1 : Nat)
        let u := roundStep rnd draw neg m e q0 st
        scaledLt u.1 q0 1 f.emin
    (sgn + code, flIf r.2 flNX ||| flIf (r.2 && tiny) flUF)

/-- R28: V(L) in units of 2^-20 for L = i - 15, i from 0 to 31; index 31 is V(16). -/
def lnsV (i : Nat) : Nat :=
  if i = 31 then 16 * 2 ^ 20 else lnsT ((i + 1) % 4) * 2 ^ ((i + 1) / 4)

/-- The number of members V(L), L from -15 up, at or below `a` in units of `2^-20 / den`. -/
def lnsCount (a den : Nat) : Nat := ((List.range 32).filter fun i => decide (lnsV i * den ≤ a)).length

/-- R28: round a nonzero value into LNS6. -/
def roundLns (rnd : Rnd) (sat : Bool) (draw : Nat) (neg : Bool) (m : Nat) (e : Int) (st : Bool) : Nat × Fl :=
  let a := if -20 ≤ e then m * 2 ^ (e + 20).toNat else m
  let den := if -20 ≤ e then 1 else 2 ^ (-20 - e).toNat
  let n := lnsCount a den
  let ovf : Nat × Fl := (if sat then (if neg then 0x2F else 0x0F) else 0x30, flOF ||| flNX)
  if 32 ≤ n then ovf
  else
    let lo := if n = 0 then 0 else lnsV (n - 1) * den
    let hi := lnsV n * den
    let inexact := decide (lo ≠ a) || st
    -- lo is L = n - 16; zero counts as L = -16
    let up := inexact && chooseHi rnd draw neg (decide (n % 2 = 1)) (a - lo) (hi - lo) st
    let n' := if up then n + 1 else n
    if 32 ≤ n' then ovf
    else
      let uf := inexact && decide (n = 0)
      let code := if n' = 0 then 0x10 else (if neg then 32 else 0) + wrap ((n' : Int) - 16) 5
      (code, flIf inexact flNX ||| flIf uf flUF)

/-- R29: round a finite real into an integer range with saturation. -/
def roundInt (rnd : Rnd) (draw : Nat) (lo hi : Int) (neg : Bool) (m : Nat) (e : Int) : Int × Fl :=
  let r := roundStep rnd draw neg m e 0 false
  let v : Int := if neg then -(r.1 : Int) else r.1
  if v < lo then (lo, flNV) else if hi < v then (hi, flNV) else (v, flIf r.2 flNX)

/-! ## Exact sums (R35 to R37, R107, R108) -/

/-- The exact product of two values and whether it is infinity times zero. -/
def FVal.mul : FVal → FVal → FVal × Bool
  | .nan _, _ => (.nan false, false)
  | _, .nan _ => (.nan false, false)
  | .inf _, .zero _ => (.nan false, true)
  | .zero _, .inf _ => (.nan false, true)
  | .inf s, y => (.inf (s != y.neg?), false)
  | x, .inf s => (.inf (x.neg? != s), false)
  | .zero s, y => (.zero (s != y.neg?), false)
  | x, .zero s => (.zero (x.neg? != s), false)
  | .fin s m e, .fin s' m' e' => (.fin (s != s') (m * m') (e + e'), false)

/-- Exact sum of finite terms: an integer times `2^e` with the lowest exponent that occurs. -/
def sumExact (ts : List FVal) : Int × Int :=
  let e := ts.foldl (fun acc t => match t with | .fin _ _ x => min acc x | _ => acc) (1000 : Int)
  (ts.foldl (fun acc t => match t with | .fin _ _ x => acc + t.mant * 2 ^ (x - e).toNat | _ => acc) 0, e)

/-- R37: the sum of terms as a value; an exact zero takes the sign the rule gives. -/
def sumVal (rnd : Rnd) (ts : List FVal) : FVal :=
  if ts.any FVal.isNan then .nan false
  else
    let pinf := ts.any fun t => t == .inf false
    let ninf := ts.any fun t => t == .inf true
    if pinf && ninf then .nan false
    else if pinf then .inf false
    else if ninf then .inf true
    else
      let s := sumExact ts
      if s.1 = 0 then
        -- no term at all: +0 (log 12)
        .zero (if ts = [] then false else if ts.all (· == .zero true) then true else if ts.all (· == .zero false) then false else rnd == .rdn)
      else .fin (decide (s.1 < 0)) s.1.natAbs s.2

/-- Deliver a value in a format: canonical NaN, infinity, signed zero, or one rounding (R108). -/
def deliver (f : Fmt) (rnd : Rnd) (sat : Bool) (draw : Nat) : FVal → Nat × Fl
  | .nan _ => (f.nan, 0)
  | .inf s => ((if s then f.signBit else 0) + f.infCode, 0)
  | .zero s => (if s then f.signBit else 0, 0)
  | .fin s m e => roundTo f rnd sat draw s m e false

/-- R108 over operands `ops` (for the NaN rows), products already formed as `terms` with their invalid marks. DESIGN CHOICE
(log 39): beside a quiet NaN operand NV is set when any term is infinity times zero, in `amul` and `amac` as in `ffma`. -/
def r108 (f : Fmt) (rnd : Rnd) (sat : Bool) (draw : Nat) (ops : List FVal) (terms : List (FVal × Bool)) : Nat × Fl :=
  let bad := terms.any (·.2)
  if ops.any FVal.isNan then (f.nan, flIf (ops.any FVal.isSnan || bad) flNV)
  else
    let v := sumVal rnd (terms.map (·.1))
    let d := deliver f rnd sat draw v
    (d.1, d.2 ||| flIf v.isNan flNV)

/-- R107: `fadd`. -/
def fAdd (f : Fmt) (rnd : Rnd) (sat : Bool) (draw : Nat) (a b : Nat) : Nat × Fl :=
  r108 f rnd sat draw [f.val a, f.val b] [(f.val a, false), (f.val b, false)]

/-- R107: `fsub`. -/
def fSub (f : Fmt) (rnd : Rnd) (sat : Bool) (draw : Nat) (a b : Nat) : Nat × Fl :=
  r108 f rnd sat draw [f.val a, f.val b] [(f.val a, false), ((f.val b).negate, false)]

/-- R107: `fmul`. -/
def fMul (f : Fmt) (rnd : Rnd) (sat : Bool) (draw : Nat) (a b : Nat) : Nat × Fl :=
  r108 f rnd sat draw [f.val a, f.val b] [(f.val a).mul (f.val b)]

/-- R107, R35: `ffma`. -/
def fFma (f : Fmt) (rnd : Rnd) (sat : Bool) (draw : Nat) (a b c : Nat) : Nat × Fl :=
  r108 f rnd sat draw [f.val a, f.val b, f.val c] [(f.val a).mul (f.val b), (f.val c, false)]

/-- Integer square root by binary digits, `fuel` pairs of bits. -/
def isqrtGo : Nat → Nat → Nat → Nat
  | 0, _, r => r
  | fuel + 1, n, r =>
    let c := r + 2 ^ fuel
    isqrtGo fuel n (if c * c ≤ n then c else r)

def isqrt (n : Nat) : Nat := isqrtGo (Nat.log2 n / 2 + 1) n 0

/-- Extra quotient bits that leave every rounding of R26 exact. -/
def guardBits : Nat := 96

/-- R109: `fdiv`. -/
def fDiv (f : Fmt) (rnd : Rnd) (sat : Bool) (draw : Nat) (a b : Nat) : Nat × Fl :=
  let x := f.val a
  let y := f.val b
  let s := x.neg? != y.neg?
  let sg := if s then f.signBit else 0
  match x, y with
  | .nan p, y => (f.nan, flIf (p || y.isSnan) flNV)
  | _, .nan q => (f.nan, flIf q flNV)
  | .zero _, .zero _ => (f.nan, flNV)
  | .inf _, .inf _ => (f.nan, flNV)
  | .inf _, _ => (sg + f.infCode, 0)
  | _, .inf _ => (sg, 0)
  | .zero _, _ => (sg, 0)
  | _, .zero _ => (sg + f.infCode, flDZ)
  | .fin _ m e, .fin _ m' e' =>
    let n := m * 2 ^ guardBits
    roundTo f rnd sat draw s (n / m') (e - e' - guardBits) (decide (n % m' ≠ 0))

/-- R109: `fsqrt`. -/
def fSqrt (f : Fmt) (rnd : Rnd) (sat : Bool) (draw : Nat) (a : Nat) : Nat × Fl :=
  match f.val a with
  | .nan p => (f.nan, flIf p flNV)
  | .zero _ => (a, 0)
  | .inf false => (a, 0)
  | .inf true => (f.nan, flNV)
  | .fin true _ _ => (f.nan, flNV)
  | .fin false m e =>
    let m1 := if e % 2 = 0 then m else 2 * m
    let e1 := if e % 2 = 0 then e else e - 1
    let n := m1 * 2 ^ (2 * guardBits)
    let r := isqrt n
    roundTo f rnd sat draw false r (e1 / 2 - guardBits) (decide (r * r ≠ n))

/-- R109: `frcp`. -/
def fRcp (f : Fmt) (rnd : Rnd) (sat : Bool) (draw : Nat) (a : Nat) : Nat × Fl :=
  match f.val a with
  | .nan p => (f.nan, flIf p flNV)
  | .zero s => ((if s then f.signBit else 0) + f.infCode, flDZ)
  | .inf s => (if s then f.signBit else 0, 0)
  | .fin s m e =>
    let n := 2 ^ (2 * guardBits)
    roundTo f rnd sat draw s (n / m) (-e - 2 * guardBits) (decide (n % m ≠ 0))

/-- R109: `frsq`. -/
def fRsq (f : Fmt) (rnd : Rnd) (sat : Bool) (draw : Nat) (a : Nat) : Nat × Fl :=
  match f.val a with
  | .nan p => (f.nan, flIf p flNV)
  | .zero s => ((if s then f.signBit else 0) + f.infCode, flDZ)
  | .inf false => (0, 0)
  | .inf true => (f.nan, flNV)
  | .fin true _ _ => (f.nan, flNV)
  | .fin false m e =>
    let m1 := if e % 2 = 0 then m else 2 * m
    let e1 := if e % 2 = 0 then e else e - 1
    let n := 2 ^ (4 * guardBits)
    let r := isqrt (n / m1)
    roundTo f rnd sat draw false r (-(e1 / 2) - 2 * guardBits) (decide (r * r * m1 ≠ n))

/-- Order of two values that are no NaN; -0 equals +0. -/
def FVal.lt (x y : FVal) : Bool :=
  match x, y with
  | .nan _, _ => false
  | _, .nan _ => false
  | .inf true, .inf true => false
  | .inf true, _ => true
  | _, .inf true => false
  | .inf false, _ => false
  | _, .inf false => true
  | x, y => let s := sumExact [x, y.negate]; decide (s.1 < 0)

/-- R110: `fmin` (`mx` false) and `fmax` (`mx` true), -0 below +0; the code returned and the flags. -/
def fMinMax (f : Fmt) (mx : Bool) (a b : Nat) : Nat × Fl :=
  let x := f.val a
  let y := f.val b
  let nv := flIf (x.isSnan || y.isSnan) flNV
  if x.isNan && y.isNan then (f.nan, nv)
  else if x.isNan then (b, nv)
  else if y.isNan then (a, nv)
  else
    let less : Bool := x.lt y || (!y.lt x && x.neg? && !y.neg?)
    (if mx then (if less then b else a) else (if less then a else b), nv)

/-- R112: `frnd`. -/
def fRnd (f : Fmt) (rnd : Rnd) (a : Nat) : Nat × Fl :=
  match f.val a with
  | .nan p => (f.nan, flIf p flNV)
  | .inf _ => (a, 0)
  | .zero _ => (a, 0)
  | .fin s m e =>
    if 0 ≤ (Nat.log2 m : Int) + e - f.fbits then (a, 0)
    else
      let r := roundStep rnd 0 s m e 0 false
      let nx := flIf r.2 flNX
      if r.1 = 0 then (if s then f.signBit else 0, nx)
      else ((roundTo f .rne false 0 s r.1 0 false).1, nx)

/-- R113: the condition of OPX. -/
def fCmp (f : Fmt) (opx : Nat) (a b : Nat) : Bool × Fl :=
  let x := f.val a
  let y := f.val b
  let un := x.isNan || y.isNan
  let nv := flIf (x.isSnan || y.isSnan) flNV
  let lt := x.lt y
  let gt := y.lt x
  let r : Bool := match opx with
    | 0 => !un && !lt && !gt
    | 1 => un || lt || gt
    | 2 => !un && lt
    | 3 => !un && !gt
    | 4 => !un && gt
    | 5 => !un && !lt
    | 6 => un
    | _ => !un
  (r, nv)

/-- R114. -/
def fClass (f : Fmt) (a : Nat) : Nat :=
  match f.val a with
  | .inf true => 1
  | .fin true m _ => if m < 2 ^ f.fbits then 4 else 2
  | .zero true => 8
  | .zero false => 16
  | .fin false m _ => if m < 2 ^ f.fbits then 32 else 64
  | .inf false => 128
  | .nan true => 256
  | .nan false => 512

/-! ## Conversions (R31) -/

/-- A source or destination of `cvt`. -/
inductive NumFmt where
  | flt (f : Fmt)
  | lns
  | int (width : Nat) (signed : Bool)
deriving DecidableEq, Repr

def cfmtNum : CFmt → NumFmt
  | .f32 => .flt .f32 | .f16 => .flt .f16 | .bf16 => .flt .bf16 | .e4m3 => .flt .e4m3 | .e5m2 => .flt .e5m2 | .lns6 => .lns
  | .s8 => .int 8 true | .z8 => .int 8 false | .s16 => .int 16 true | .z16 => .int 16 false
  | .s32 => .int 32 true | .z32 => .int 32 false | .s64 => .int 64 true | .z64 => .int 64 false

/-- Ends of an integer range (R17). -/
def intLo (w : Nat) (signed : Bool) : Int := if signed then -(2 ^ (w - 1)) else 0
def intHi (w : Nat) (signed : Bool) : Int := if signed then 2 ^ (w - 1) - 1 else 2 ^ w - 1

/-- The integer a code stands for. -/
def intOfCode (x w : Nat) (signed : Bool) : Int := if signed then sext x w else (x % 2 ^ w : Nat)

def intVal (v : Int) : FVal := if v = 0 then .zero false else .fin (decide (v < 0)) v.natAbs 0

/-- R31: convert the code `x` from `src` to `dst`. -/
def convert (src dst : NumFmt) (rnd : Rnd) (sat : Bool) (draw : Nat) (x : Nat) : Nat × Fl :=
  match src, dst with
  | .int w s, .int w' s' =>
    let v := intOfCode x w s
    (wrap (if sat then min (max v (intLo w' s')) (intHi w' s') else v) w', 0)
  | src, dst =>
    let v : FVal := match src with
      | .flt f => f.val x
      | .lns => lnsVal x
      | .int w s => intVal (intOfCode x w s)
    match dst with
    | .flt f =>
      if (match src with | .flt g => g == f | _ => false) && !v.isNan then (x % 2 ^ f.width, 0)
      else match v with
        | .nan p => (f.nan, flIf p flNV)
        | .zero s => (if s then f.signBit else 0, 0)
        | .inf s =>
          if f.hasInf then ((if s then f.signBit else 0) + f.infCode, 0)
          else if sat then ((if s then f.signBit else 0) + f.maxCode, flOF ||| flNX) else (f.nan, flNV)
        | .fin s m e => roundTo f rnd sat draw s m e false
    | .lns => match v with
        | .nan p => (0x30, flIf p flNV)
        | .zero _ => (0x10, 0)
        | .inf s => if sat then (if s then 0x2F else 0x0F, flOF ||| flNX) else (0x30, flNV)
        | .fin s m e => roundLns rnd sat draw s m e false
    | .int w s => match v with
        | .nan _ => (0, flNV)
        | .zero _ => (0, 0)
        | .inf n => (wrap (if n then intLo w s else intHi w s) w, flNV)
        | .fin n m e => let r := roundInt rnd draw (intLo w s) (intHi w s) n m e; (wrap r.1 w, r.2)

/-! ## Stochastic rounding (R32 to R34) -/

/-- R32. -/
def lfsrStep (s : Word) : Word :=
  let h := s >>> 1
  if s.getLsbD 0 then h ^^^ 0x80200003#32 else h

/-- R34: the draw of element `e` of lane `l` from state `s`. -/
def drawOf (s : Word) (l e : Nat) : Nat := (s.rotateLeft ((5 * l + 8 * e) % 32)).toNat % 65536

end Sys2Proof.Machine
end

