-- ==== Sys2Proof/Machine/Map.lean ====
section
/-! DEFINITION. Sparse tables and byte memories as sorted lists in one canonical form. -/

namespace Sys2Proof.Machine

variable {α : Type}

/-- The entry under a key. -/
def look : Tab α → Nat → Option α
  | [], _ => none
  | (k, v) :: t, i => if i = k then some v else look t i

/-- Replace or insert the entry under a key, in place. -/
def put : Tab α → Nat → α → Tab α
  | [], i, x => [(i, x)]
  | (k, v) :: t, i, x =>
    if i < k then (i, x) :: (k, v) :: t
    else if i = k then (k, x) :: t
    else (k, v) :: put t i x

/-- Remove the entry under a key. -/
def del : Tab α → Nat → Tab α
  | [], _ => []
  | (k, v) :: t, i => if i = k then del t i else (k, v) :: del t i

/-- The entry under a key, or what an absent one stands for. -/
def lookD (d : α) (t : Tab α) (i : Nat) : α := (look t i).getD d

/-- Store a value under a key; storing what an absent entry stands for removes the entry. -/
def putD [DecidableEq α] (d : α) (t : Tab α) (i : Nat) (x : α) : Tab α :=
  if x = d then del t i else put t i x

/-- Keys from `lo` below `hi`, with their entries. -/
def slice (t : Tab α) (lo hi : Nat) : Tab α := t.filter fun e => decide (lo ≤ e.1 ∧ e.1 < hi)

/-- The table without its keys from `lo` below `hi`. -/
def cut (t : Tab α) (lo hi : Nat) : Tab α := t.filter fun e => !decide (lo ≤ e.1 ∧ e.1 < hi)

/-- Keys rise strictly. -/
def sortedKeys : Tab α → Bool
  | [] => true
  | [_] => true
  | (k, _) :: (j, y) :: t => decide (k < j) && sortedKeys ((j, y) :: t)

/-! ## Byte memories: an unlisted address reads as zero (R259, R414) -/

/-- Canonical form of a byte memory: addresses strictly rising, no zero byte listed. -/
def Memory.wf (m : List Host.Cell) : Bool := sortedKeys m && m.all fun c => decide (c.2 ≠ 0#8)

/-- The byte at an address. -/
def getB (m : List Host.Cell) (a : Nat) : Byte := lookD 0#8 m a

/-- Write one byte. -/
def setB (m : List Host.Cell) (a : Nat) (b : Byte) : List Host.Cell := putD 0#8 m a b

/-- Write bytes from an address up. -/
def setBs (m : List Host.Cell) (a : Nat) : List Byte → List Host.Cell
  | [] => m
  | b :: bs => setBs (setB m a b) (a + 1) bs

/-- The `n` bytes from an address up. -/
def getBs (m : List Host.Cell) (a n : Nat) : List Byte := (List.range n).map fun i => getB m (a + i)

/-- Little-endian value of bytes (R12). -/
def leVal : List Byte → Nat
  | [] => 0
  | b :: bs => b.toNat + 256 * leVal bs

/-- The `n` little-endian bytes of a value (R12). -/
def leBytes (v n : Nat) : List Byte := (List.range n).map fun i => BitVec.ofNat 8 (v / 2 ^ (8 * i))

/-- The `n`-byte little-endian value at an address. -/
def getN (m : List Host.Cell) (a n : Nat) : Nat := leVal (getBs m a n)

/-- Store an `n`-byte little-endian value. -/
def setN (m : List Host.Cell) (a n v : Nat) : List Host.Cell := setBs m a (leBytes v n)

/-- Clear the bytes of a range. -/
def clrBs (m : List Host.Cell) (a n : Nat) : List Host.Cell := cut m a (a + n)

/-! Small helpers on sorted lists of numbers. -/

def insNat : List Nat → Nat → List Nat
  | [], x => [x]
  | y :: t, x => if x < y then x :: y :: t else if x = y then y :: t else y :: insNat t x

def bitOf (w : Nat) (i : Nat) : Bool := decide (w / 2 ^ i % 2 = 1)

/-- The mask of a list of lanes. -/
def maskOf (ls : List Nat) : BitVec 32 := ls.foldl (fun m l => m ||| (1#32 <<< l)) 0#32

end Sys2Proof.Machine
end

