-- ==== Sys2Proof/Machine/State.lean ====
section
/-! DEFINITION. The state of the whole package as plain data, and the state right after power-on reset.
Tables are sparse: an absent entry stands for the reset value. Keys: core = 128 * die + core; issue slot = 4 * core + slot;
floe = 32 * issue slot + floe slot; lane = 32 * issue slot + lane; thread = 32 * lane + thread slot; block = 32 * core + number. -/

namespace Sys2Proof.Machine

/-- Reasons a step stops with a fault. -/
inductive Fault where
  /-- `exec` of an instruction while the floe slot whose turn it is holds no floe: no machine issues it.
  Raised by `exec` alone, never by `step`. Safe. -/
  | noFloe
deriving DecidableEq, Repr, Inhabited

/-- Reasons a step is refused. -/
inductive Refusal where
  /-- Raised by an arm of the dispatch that has no meaning yet. Safe. -/
  | notModelled (mnemonic : String)
deriving DecidableEq, Repr, Inhabited

/-- The model's own: whose turn is next. -/
inductive Turn where
  | issue (q : SlotId)
  | event (e : Instr)
deriving DecidableEq, Repr, Inhabited

/-- An `lr` reservation (R188, R189): physical granule, in system memory or not, written since, value returned, and the serial of the pending
result of the `lr` that set it. -/
structure Resv where
  gran : Nat
  sys : Bool
  broken : Bool
  live : Bool
  n : Nat := 0
deriving DecidableEq, Repr, Inhabited

/-- A block as a scope's instance sees it (R272): its key, grid, index and drift. -/
structure Who where
  block : Nat := 0
  grid : Nat := 0
  index : Nat := 0
  drift : Nat := 0
deriving DecidableEq, Repr, Inhabited

/-- The model's own: which release a later read of a unit synchronises with (R274). -/
structure SyncMark where
  srec : Nat
  scope : Scope
  who : Who
deriving DecidableEq, Repr, Inhabited

/-- A thread slot with its thread: the continuation record of R244, predicates and status (R48, R65), handler registers (R314),
reservation (R188), barrier enrolment (R158). `st` is STATE of R244; a slot with `st = 0` keeps its last `exit` (R361, state 8). -/
structure Thread where
  cont : Word := 0
  wbase : Nat := 0
  win : Nat := 0
  blkr : Nat := 0
  tid : Nat := 0
  st : Nat := 0
  bin : Nat := 0
  parkt : Nat := 0
  ovf : Bool := false
  strt : Bool := false
  save : Nat := 0
  preds : BitVec 8 := 0x80#8
  status : Word := 0
  epc : Word := 0
  ecause : Word := 0
  eaddr : DWord := 0
  eseq : Word := 0
  inHandler : Bool := false
  resv : Option Resv := none
  enrolled : BitVec 16 := 0
  arrived : BitVec 16 := 0
  exitAt : Word := 0
  /-- Context of the exited thread, for samples (R361, R363). -/
  exitCtx : Nat := 0
  /-- Floe save it returns to from its handler (R316). -/
  home : Option Nat := none
  /-- Sync record its regrouping terminator published (R287). -/
  srec : Option Nat := none
  /-- Sync records and scopes of its release fences, the last at each scope (R274). -/
  rel : List (Nat × Scope) := []
  /-- Releases that its relaxed reads met, for a later acquire fence (R274). -/
  seen : List SyncMark := []
deriving DecidableEq, Repr, Inhabited

/-- A pending result (R63): destination registers, predicate or uniform register, window left, values per lane, lanes still awaited. -/
structure Pend where
  n : Nat
  reg : Nat := 0
  cnt : Nat := 0
  pred : Option Nat := none
  /-- Uniform destination of a K form with its value (R63, R78). -/
  ureg : Option (Nat × Word) := none
  left : Nat := 0
  vals : List (Nat × List Word) := []
  pvals : List (Nat × Bool) := []
  flags : List (Nat × BitVec 5) := []
  need : List Nat := []
  /-- A load or returning atomic (R184, R276). -/
  load : Bool := false
  /-- The pending read is an acquire (R179) at this scope. -/
  acq : Option Scope := none
  coord : Word := 0
  /-- An `mfence` after it has completed: engine reads see it although its window is open (R210). -/
  fenced : Bool := false
  /-- Its load had issued when its walk was still to end: nothing after its window issues until it completes (R64). -/
  replay : Bool := false
deriving DecidableEq, Repr, Inhabited

/-- A translated byte range: physical address, in system memory (R324) or device memory. -/
structure Place where
  pa : Nat
  sys : Bool := false
deriving DecidableEq, Repr, Inhabited

/-- Marks of an access for race detection and synchronisation (R272, R285). -/
structure Mark where
  marked : Bool := false
  scope : Scope := .blk
  rel : Bool := false
  srec : Option Nat := none
  /-- The value-changing step of an atomic keeps SYNC (R286). -/
  keep : Bool := false
  /-- Records and scopes of the thread's release fences, which any later write carries (R274). -/
  fence : List (Nat × Scope) := []
deriving DecidableEq, Repr, Inhabited

/-- A load that has issued with its walk still to end (R64): the first of the serials kept for its requests, the lanes with pointers and
addresses, bytes, type, mark, pending result and coordinate. -/
structure Late where
  id : Nat
  reqs : List (Nat × Nat × Nat)
  n : Nat
  ty : IntTy
  mark : Mark
  pend : Nat
  coord : Word
  /-- The floe is suspended on its page fault. -/
  waits : Bool := false
deriving DecidableEq, Repr, Inhabited

/-- One lane of a logged store or reduction (R180, R264). -/
structure LAcc where
  lane : Nat
  va : Nat
  place : Place
  n : Nat
  data : Nat
  watched : Bool := false
  /-- Base of the page, when it carries the migration hint (R320). -/
  mig : Option Nat := none
  /-- A stream's element: the instruction that wrote it, which shares it with the elements of one turn (R271). -/
  turn : Nat := 0
deriving DecidableEq, Repr, Inhabited

/-- A store-log entry (R180, R264): a store or reduction with its lanes, or a deferred operation. -/
inductive LogEnt where
  | store (accs : List LAcc)
  | red (accs : List LAcc) (op ty : Nat)
  /-- A global store stream: its port, tag and bounds index, the `satt`'s coordinate, and the elements not yet handed on. -/
  | stream (port hi : Nat) (coord : Word) (accs : List LAcc)
  | copy (id : Nat)
  | wback (id : Nat)
  /-- A global `accst`: `next` is the element to go on from (R336). -/
  | accst (core first cnt n ctx ptr va : Nat) (coord : Word) (next : Nat)
deriving DecidableEq, Repr, Inhabited

/-- A stream attached to a port (R191 to R193). -/
structure Stream where
  store : Bool
  space : Space
  ty : IntTy
  count : Nat
  stride : Int
  bidx : Nat
  tag : Nat
  /-- Per lane: start, position read or written, elements fetched ahead, pending writes. -/
  lanes : List (Nat × Int)
  pos : Tab Nat := []
  fetched : Tab (List Nat) := []
deriving DecidableEq, Repr, Inhabited

/-- What a floe waits for (R253, R361). -/
inductive Wait where
  | none
  /-- The scoreboard or a lookahead destination holds the next instruction (R63); tried again at its next turn. -/
  | score
  /-- Tried and found waiting: port, table, acknowledgement, `spawn`; tried again at its next turn. -/
  | stall
  | mwait
  | cbacq (buf : Nat)
  | bar (slot : Nat) (parity : Bool) (scope : Scope)
  | seg (cont : Word)
  /-- Suspended on a page fault (R335): lanes with their addresses and page bases; the pages awaited; met by an entry of its store log
  (R336). -/
  | page (vas : List (Nat × Nat × Nat)) (pages : List (Nat × Nat × Bool)) (entry : Bool)
  /-- A precise trap, recorded, waits for the floe's earlier results before its handler takes over (R310). -/
  | trap
  /-- `dopen.w` (R355): lanes still waiting with their name and the clock of their timeout; lanes decided with value, success and the
  release record that an open met. -/
  | dopen (want : List (Nat × Nat × Nat)) (found : List (Nat × Word × Bool × Option Nat))
deriving DecidableEq, Repr, Inhabited

/-- A precise trap whose record is written and whose handler has not taken over yet (R308, R310): code, lanes, ADDR, COORD, index of the
record, the floe save kept for it, and HANDLER. -/
structure TrapDue where
  code : Nat
  lanes : List Nat
  addr : Nat
  coord : Nat
  idx : Nat
  save : Nat
  handler : Word
deriving DecidableEq, Repr, Inhabited

/-- A floe in a floe slot or a floe save (R248, R249). -/
structure Floe where
  fid : Nat := 0
  blkr : Nat := 0
  /-- Present lanes with their thread slots, ascending lane. -/
  lanes : List (Nat × Nat) := []
  /-- Resident copy it is positioned in, line, slot. -/
  copy : Nat := 0
  segid : Nat := 0
  line : Nat := 0
  slot : Nat := 0
  uregs : Tab Word := []
  pend : List Pend := []
  late : List Late := []
  log : List LogEnt := []
  ports : Tab Stream := []
  wait : Wait := .none
  waitSince : Nat := 0
  /-- The phase it waits for completed while its block was stopped: it is released on resumption, with these records (R371). -/
  freed : Option (List SyncMark) := none
  /-- Knowledge table, oldest first: identity and region (R287). -/
  know : List (Nat × Nat) := []
  fold : Bool := false
  start : Nat := 0
  /-- Lanes inactive for the next issue only (R309). -/
  mute : BitVec 32 := 0
  /-- Breakpoints, and watches, that have matched the next issue (R366, R368, R369). -/
  bpHits : List Nat := []
  watchHits : List Nat := []
  /-- Lanes an interrupted `spawn` has served, and the record that it published (R152, R287). -/
  served : List Nat := []
  spawnRec : Option Nat := none
  /-- Occupied slots of its line, kept while it waits and its copy may be evicted (R347, R386). -/
  occ : Nat := 5
  /-- A port write of an instruction that had issued was found to race: lanes, address, coordinate (R284, R290). -/
  raced : Option (List Nat × Nat × Word) := none
  /-- Matrix operations issued and not yet waited on (R206). -/
  ops : List Nat := []
  /-- Serial of the next pending result. -/
  npend : Nat := 0
  hold : Option Nat := none
  lastIssue : Nat := 0
  /-- Clock and coordinate of its last issue (R361). -/
  issued : Option (Nat × Word) := none
  /-- The floe waits for a trap handler's threads (R309): lanes still in the handler, lanes that trapped. `past`: the trap is of an instruction
  that had issued (R64). -/
  trap : Option TrapDue := none
  past : Bool := false
  handler : List Nat := []
  trapped : List Nat := []
  /-- Coordinate of its own precise trap, while that has it stopped (R383). -/
  trapAt : Option Nat := none
  /-- In a floe save (R249, R309): clock of the save. -/
  demoted : Option Nat := none
  /-- 1: the slot at its position is the second of a pair whose first has issued; 2: it issues alone (R61, R366). -/
  second : Nat := 0
  /-- Wait for a directory or bounds command to take effect (R326). -/
  cmd : Option Nat := none
deriving DecidableEq, Repr, Inhabited

/-- A bin (R245, R246). -/
structure Bin where
  blkr : Nat
  cont : Word
  lanes : List (Nat × Nat)
  opened : Nat
  ready : Option Nat := none
  timer : Nat := 64
deriving DecidableEq, Repr, Inhabited

/-- A starting floe (R242, R248). -/
structure Starting where
  order : Nat
  blkr : Nat
  cont : Word
  lanes : List (Nat × Nat)
  since : Nat
  /-- Records of an aborted execution, merged at launch (R280). -/
  recs : List Nat := []
deriving DecidableEq, Repr, Inhabited

/-- Issue-slot scheduler and sampler state (R253, R363). -/
structure Sched where
  last : Nat := 32
  /-- Serial of the floe issued last (R253), and clock of the last floe launch (R248). -/
  lastFid : Nat := 0
  launchAt : Option Nat := none
  count : Nat := 0
  /-- Clock of its last issue: one floe in a cycle (R253). -/
  lastAt : Option Nat := none
  /-- First clock at which it issues again after an issue that a trial delays (R381). -/
  holdTo : Nat := 0
  issues : Nat := 0
  samples : Nat := 0
  lastTs : Tab Nat := []
  sampled : Nat := 0
deriving DecidableEq, Repr, Inhabited

/-- A resident copy of a segment in a core's segment store (R347, R348). -/
structure SegCopy where
  core : Nat
  ctx : Nat
  code : Nat
  seg : Nat
  lines : List (BitVec 512)
  /-- First of its lines in the store. -/
  base : Nat := 0
  stale : Bool := false
  entered : Nat := 0
deriving DecidableEq, Repr, Inhabited

/-- A barrier slot (R153, R154): state of R153, owner, sync records gathered, floors staged, an event seen in the phase. -/
structure Bar where
  owner : Nat := 0
  ph : Bool := false
  val : Bool := false
  blk : Bool := false
  expt : Nat := 0
  arr : Nat := 0
  early : Nat := 0
  expa : Nat := 0
  pend : Nat := 0
  /-- Releases counted in the phase (R274, R287), those of the completions credited to EARLY, oldest first, and those of the phase that
  completed last. -/
  recs : List SyncMark := []
  ahead : List (List SyncMark) := []
  last : List SyncMark := []
  staged : List (Nat × Nat) := []
  event : Bool := false
deriving DecidableEq, Repr, Inhabited

/-- A circular buffer (R236): state, owner and the filled slots. -/
structure CBuf where
  owner : Nat := 0
  base : Nat := 0
  ssz : Nat := 0
  val : Bool := false
  lvl : Nat := 0
  nslot : Nat := 0
  free : Nat := 0
  filled : Nat := 0
  claim : Nat := 0
  acq : Nat := 0
  rel : Nat := 0
  held : Nat := 0
  /-- Filled slots beyond the unbroken run; the completion record of each slot's last fill (R238, R274), and under `64 + slot` the record
  of the `cbrel` that returned it (log 36). -/
  full : List Nat := []
  recs : Tab Nat := []
deriving DecidableEq, Repr, Inhabited

/-- An accumulator allocation (R208, R211). -/
structure Alloc where
  block : Nat
  first : Nat
  cnt : Nat
  /-- Held for an operation after its block ended (R442). -/
  orphan : Option Nat := none
deriving DecidableEq, Repr, Inhabited

/-- An imprecise fault to take (R307): block, its uid, code, ADDR, COORD; code 0 is an abort for the pages named (R231, R334). -/
structure Due where
  block : Nat
  uid : Nat
  code : Nat
  addr : Nat := 0
  coord : Nat := 0
  pages : List (Nat × Nat × Bool) := []
deriving DecidableEq, Repr, Inhabited

/-- A resident block (R241). -/
structure Block where
  uid : Nat := 0
  grid : Nat := 0
  index : Nat := 0
  drift : Nat := 0
  drf : Nat := 0
  unitBase : Nat := 0
  clusBase : Nat := 0
  committed : Bool := false
  /-- Stops that hold the block: 1 debug stop, 2 grid halt, 3 context halt, 4 stop-grid policy, 5 preemption (R374). -/
  stops : List Nat := []
  /-- Clock at which the oldest of them began, and at which each took effect. -/
  stoppedAt : Nat := 0
  stopClk : Tab Nat := []
  /-- Issuer whose command asked for the debug stop (R371): a core, or `1024 +` a core for the host's copy of its registers. -/
  stopper : Option Nat := none
  floor : Tab Nat := []
  /-- A step in progress: issuer core and the clock at which it times out (R373). -/
  stepping : Option (Nat × Nat) := none
  /-- Stops that a step in progress suspends (R373). -/
  heldStops : List Nat := []
  /-- A trap was recorded while it was stopped: the policy is applied on resumption (R372). -/
  trapDue : Bool := false
deriving DecidableEq, Repr, Inhabited

/-- A live slot of a grid's handle table (R350). -/
structure Handle where
  entry : Nat
  count : Nat
deriving DecidableEq, Repr, Inhabited

/-- A range of drifts handed to a die (R303): next to place, end. -/
structure Range where
  die : Nat
  nxt : Nat
  stop : Nat
deriving DecidableEq, Repr, Inhabited

/-- A grid: its launch record and progress (R298, R301, R303). -/
structure Grid where
  ctx : Nat := 0
  lrec : BitVec 512 := 0
  order : Nat := 0
  /-- STATE of R301. -/
  state : Nat := 0
  dies : BitVec 8 := 0
  mask : BitVec 128 := 0
  ntrap : Nat := 0
  dropped : Nat := 0
  killed : Nat := 0
  handed : Nat := 0
  ranges : List Range := []
  started : Option Nat := none
  /-- Blocks ended, by `exit` or kill. -/
  done : Nat := 0
  dieBase : Tab Nat := []
  handles : Tab Handle := []
  gens : Tab Nat := []
  /-- Drifts to place again after a fence (R403). -/
  again : List Nat := []
  /-- Drifts with a block that has begun a commit, and the drift of each block killed (R312, R403). -/
  cdrifts : List Nat := []
  fallen : List Nat := []
  /-- Clock of the master's die at which the last condition of its end was found to hold (R301). -/
  doneAt : Option Nat := none
  /-- The host has ended it (R309). -/
  retired : Bool := false
  diverged : Bool := false
  /-- Cause (R374) of its last stop or halt. -/
  cause : Nat := 0
  /-- Stopped otherwise than by a halt or its trap policy: not resumed (R182, R365, R378, R404, R406). -/
  fatal : Bool := false
  /-- A stop or halt on its way (R309, R317, R371): the cause of R374 and the STATE to take once every block is stopped and drained. -/
  stopping : Option (Nat × Nat) := none
deriving DecidableEq, Repr, Inhabited

/-- A task record (R334): an aborted block held for its pages, on its core; or a drift member to place again. -/
structure Task where
  grid : Nat
  index : Nat
  drift : Nat
  drf : Nat
  core : Nat
  pages : List (Nat × Nat × Bool)
  /-- Faulting addresses with their page bases (R337). -/
  vas : List (Nat × Nat) := []
  /-- Its pages are to be walked and requested again: answered with Response Failure under stop grid, held until the grid resumes (R337); or
  the fault unit was full (R331). -/
  failed : Bool := false
  /-- A kill that met a stop: it waits for the resumption (R372). -/
  doomed : Bool := false
  recs : List Nat := []
  /-- Physical base of the drift's cluster share, which outlives the block (R294). -/
  clusBase : Nat := 0
  /-- Not retried: the requeue of R216 waits until these operations have freed what they hold (R442). -/
  ops : List Nat := []
  /-- Post-commit partners of its cancelled matrix operations, with uid and COORD: they take gang-cancel when the task cannot issue them
  anew (R217, R441). -/
  gang : List (Nat × Nat × Nat) := []
deriving DecidableEq, Repr, Inhabited

/-- What a request does at its home (R269, R270). -/
inductive Req.Kind where
  | load | store | atom (op ty : Nat) (ret : Bool) | lr | sc | stag | ldtag
  /-- A word of an `accld`, for a bank word of the issuing core (R215). -/
  | bank (word : Nat)
deriving DecidableEq, Repr, Inhabited

/-- A request in the network (R269, R271): issuer, lane, what it does, where, its data, and the pending result it fills. -/
structure Req where
  floe : Nat
  fid : Nat
  /-- Thread it acts for, and the threads whose later accesses come after it in floe order and program order (R273). -/
  thread : Option Nat := none
  order : List Nat := []
  /-- A store with the acquire half, or `stag`: later accesses of the thread wait for it (R179, R190). -/
  hold : Bool := false
  block : Nat
  uid : Nat
  grid : Nat
  ctx : Nat
  lane : Nat
  kind : Req.Kind
  va : Nat
  place : Place
  n : Nat
  data : Nat := 0
  cmp : Nat := 0
  signed : Option IntTy := none
  pend : Option Nat := none
  mark : Mark := {}
  region : Nat := 0
  watched : Bool := false
  performed : Bool := false
  coord : Word := 0
  /-- `sc`: the reservation it uses (R188). -/
  resv : Option Resv := none
  /-- Serial that the requests of one instruction share: those in one granule travel as one (R271). -/
  group : Nat := 0
  /-- The page is watched, or its tags are checked: the floe issues nothing until the home has answered (R176, R290). -/
  ask : Bool := false
  /-- START, knowledge and FOLD of the floe when a logged write was handed on, for the check at its home (log 22). -/
  start : Nat := 0
  know : List (Nat × Nat) := []
  fold : Bool := false
  /-- Bytes forwarded from the thread's own log, by offset (R180). -/
  fwd : List (Nat × Byte) := []
  /-- Base of the page, when it carries the migration hint (R320). -/
  mig : Option Nat := none
  /-- The issuing block as scopes see it, though it may have ended (R272). -/
  who : Who := {}
deriving DecidableEq, Repr, Inhabited

/-- A request queued at a scratchpad bank (R260, R261). -/
structure Token where
  level : Space
  inst : Nat
  bank : Nat
  /-- Consecutive banks that the access occupies (R261). -/
  span : Nat
  engine : Bool
  floe : Nat
  fid : Nat
  lane : Nat
  pend : Option Nat
  /-- Engine operation that waits for it (R260): copy, write-back or matrix operation by serial. -/
  op : Option Nat
deriving DecidableEq, Repr, Inhabited

/-- A copy-engine entry (R224). `kind` 0 `cpbox`, 1 `cpred`, 2 `tmov`. -/
structure Copy where
  core : Nat
  block : Nat
  uid : Nat
  grid : Nat
  ctx : Nat
  floe : Nat
  fid : Nat
  kind : Nat
  desc : BitVec 1024
  orig : List Word
  begun : Bool
  serial : Nat
  /-- Entry of the core's copy engine, 0 to 31 (R285). -/
  entry : Nat
  claimed : Option Nat := none
  /-- Elements performed (R231). -/
  next : Nat := 0
  held : List (Nat × Nat × Bool) := []
  /-- The fault unit had no room for its page (R331). -/
  full : Bool := false
  fva : Nat := 0
  know : List (Nat × Nat) := []
  fold : Bool := false
  start : Nat := 0
  coord : Word := 0
  /-- Receiving blocks with uids, and physical addresses of offset 0 of the share at SLVL of each; the same at FARLVL (R225). -/
  targets : List (Nat × Nat) := []
  near : List Nat := []
  far : Nat := 0
  /-- The issuing block as scopes see it (R272, R274). -/
  who : Who := {}
  /-- Thread keys of the issuing floe, and the serial that its earlier requests lie below: the copy's reads come after them (R281). -/
  threads : List Nat := []
  after : Nat := 0
deriving DecidableEq, Repr, Inhabited

/-- A write-back or unmap in progress (R235). -/
structure WBack where
  core : Nat
  block : Nat
  uid : Nat
  grid : Nat
  ctx : Nat
  floe : Nat
  map : Nat
  slot : Nat
  unmap : Bool
  begun : Bool := false
  held : List (Nat × Nat × Bool) := []
  /-- The fault unit had no room for its page (R331). -/
  full : Bool := false
  fva : Nat := 0
  coord : Word := 0
  fid : Nat := 0
  /-- The issuing floe as it stood at issue: START, knowledge, FOLD, and its block as scopes see it (R274, R289); its region as it began (R286). -/
  start : Nat := 0
  know : List (Nat × Nat) := []
  fold : Bool := false
  region : Nat := 0
  who : Who := {}
  /-- First chunk not yet done (R235, R336). -/
  next : Nat := 0
deriving DecidableEq, Repr, Inhabited

/-- An open map (R233), under key `8 * block + index`. -/
structure SMap where
  saddr : Nat
  size : Nat
  ptr : DWord
  wr : Bool
  lvl : Nat
deriving DecidableEq, Repr, Inhabited

/-- A first-touch fill in flight (R234): map key, chunk offset within the region, and the toucher. -/
structure Fill where
  map : Nat
  off : Nat
  ctx : Nat
  floe : Nat
  fid : Nat
deriving DecidableEq, Repr, Inhabited

/-- A participant of a matrix operation (R200, R203). -/
structure Part where
  p : Nat
  block : Nat
  uid : Nat
  aaddr : Nat
  first : Nat
  cnt : Nat
  slot : Nat
  aBase : Nat
  shareSz : Nat
  requeued : Bool := false
  ended : Bool := false
deriving DecidableEq, Repr, Inhabited

/-- A reservation-table entry and its operation (R199, R204, R255). -/
structure Mma where
  die : Nat
  cluster : Nat
  block : Nat
  uid : Nat
  grid : Nat
  ctx : Nat
  floe : Nat
  fid : Nat
  pb : BitVec 512
  fw : Word
  tab : BitVec 512
  sr : Word
  prio : Nat
  posted : Nat
  serial : Nat
  /-- Entry of the reservation table, 0 to 31 (R255, R285). -/
  entry : Nat
  parts : List Part
  /-- Thread keys of each holder, by lane. -/
  holders : List (List Nat)
  chunk : Nat := 0
  /-- Partial results from the first pass on, word by word per participant (R204). -/
  acc : List (List Word) := []
  granted : Bool := false
  /-- Cancelled and waiting to be retried (R216); the faulting address. -/
  waiting : Bool := false
  fva : Nat := 0
  pages : List (Nat × Nat × Bool) := []
  /-- The fault unit had no room for its pages (R331). -/
  full : Bool := false
  done : Bool := false
  know : List (Nat × Nat) := []
  fold : Bool := false
  start : Nat := 0
  coord : Word := 0
  unitBase : Nat := 0
  /-- Holder threads whose block has ended: they lend nothing more (R206, log 27). -/
  gone : List Nat := []
  who : Who := {}
deriving DecidableEq, Repr, Inhabited

/-- A TLB entry (R322): leaf of a page. -/
structure TlbEnt where
  ctx : Nat
  base : Nat
  size : Nat
  leaf : BitVec 64
deriving DecidableEq, Repr, Inhabited

/-- An invalidation in progress (R323): context, the addresses from `lo` to below `hi` or the whole context, who waits. -/
structure Inval where
  ctx : Nat
  range : Option (Nat × Nat)
  floe : Option Nat := none
  host : Bool := false
  ats : Bool := false
deriving DecidableEq, Repr, Inhabited

/-- A pending page of a fault unit (R331), under its die. -/
structure FPage where
  die : Nat
  ctx : Nat
  base : Nat
  write : Bool
  since : Nat
  /-- PRG index once sent (R332). -/
  prg : Option Nat := none
deriving DecidableEq, Repr, Inhabited

/-- A completion multicast on its way (R155, R207, R228). -/
structure MCast where
  core : Nat
  slot : Nat
  uid : Nat
  recs : List SyncMark := []
  /-- Bank run of a partner that is lent until the completion arrives (R206). -/
  lent : Option (Nat × Nat) := none
deriving DecidableEq, Repr, Inhabited

/-- A kept result of a die's segment service (R68, R344): the form, or the fault with its trap code and ADDR. -/
structure Form where
  die : Nat
  ctx : Nat
  code : Nat
  seg : Nat
  lines : List (BitVec 512)
  fault : Option (Nat × DWord) := none
deriving DecidableEq, Repr, Inhabited

/-- An outstanding segment request of a core (R344). -/
structure SegReq where
  die : Nat
  core : Nat
  ctx : Nat
  code : Nat
  seg : Nat
deriving DecidableEq, Repr, Inhabited

/-- A supervisor or debug command that a core or the host has started (R326, R365, R411). -/
structure Cmd where
  /-- CSR number written: 0x209 BCMD, 0x212 TINVCMD, 0x301 DCMD, 0x381 ELCMD, 0x38D EICTL. -/
  csr : Nat
  val : Word
  core : Nat
  ctx : Nat
  floe : Option Nat
  /-- CSR values taken when the command started. -/
  args : List Word := []
deriving DecidableEq, Repr, Inhabited

/-- A dump in progress (R374). -/
structure Dump where
  issuer : Nat
  block : Nat
  addr : Nat
  bytes : List Byte
  nested : Bool
deriving DecidableEq, Repr, Inhabited

/-- An armed injection (R411, R412): array, core or die, address, mode, bit. -/
structure Arm where
  core : Nat
  array : Nat
  addr : Nat
  mode : Nat
  bit : Nat
deriving DecidableEq, Repr, Inhabited

/-- A sync record (R287): identity, region, table, FOLD; the publisher's block and scope. -/
structure SyncRec where
  ident : Nat
  region : Nat
  know : List (Nat × Nat)
  fold : Bool
deriving DecidableEq, Repr, Inhabited

/-- An SPDM response (R424, R425). -/
inductive SpdmResp where
  /-- The SPDM version, in tenths. -/
  | version (v : Nat)
  | capabilities
  /-- ML-DSA-65 is selected. -/
  | algorithms
  | digests (d : BitVec 512)
  | certificate (chain : List Byte)
  | challengeAuth (signature : List Byte)
  | measurements (l : List (Nat × BitVec 512))
  | error
deriving DecidableEq, Repr, Inhabited

/-- A message to the world outside the package. -/
inductive Msg where
  /-- A PCI Express ATS Translation Request: PASID and 4 KiB page (R324). -/
  | translationRequest (pasid : BitVec 20) (page : Nat)
  | pageRequest (pasid : BitVec 20) (page : Nat) (write : Bool) (prg : Nat) (last : Bool)
  | invalidateCompletion (pasid : BitVec 20)
  | readData (value : Nat)
  | retry
  /-- A UALink write has been performed (R397); a RoCE queue pair acknowledges a request (R398). -/
  | writeResponse
  | qpAck (qp : Nat)
  /-- Data of a read that met a poisoned granule (R408). -/
  | poisoned
  | spdm (requester : Nat) (r : SpdmResp)
  /-- A checkpoint record sent on a queue pair (R413): address, HMAP, poisoned granules, CRC-32C, data. -/
  | record (qp addr hmap : Nat) (poison : List Nat) (crc : Word) (data : List Byte)
  /-- A receiver asks for a replay of a flit (R392). -/
  | replay (src dst cls : Nat)
deriving DecidableEq, Repr, Inhabited

/-- A replay-log record (R377): the kind, the place, SEQ, MASK, WORD, VALUE; kind 0 is one issue of an issue slot. `die` is the die whose
buffer holds it, when that is not its own: kind 6 records stand in order in their home's. -/
structure RRec where
  ctx : Nat
  kind : Nat
  pos : Nat
  seq : Nat
  mask : Word := 0
  word : Word := 0
  value : DWord := 0
  die : Option Nat := none
deriving DecidableEq, Repr, Inhabited

/-- A collective operation in progress (R396, R417). -/
structure Coll where
  ctx : Nat
  op : Nat
  fmt : Nat
  count : Nat
  src : Nat
  dst : Nat
  comp : Nat
  group : Nat
deriving DecidableEq, Repr, Inhabited

/-- A link direction (R392, R417): clocks of its replays in the last millisecond, retired, the next flit is to be corrupted. -/
structure Link where
  times : List Nat := []
  retired : Bool := false
  corrupt : Bool := false
deriving DecidableEq, Repr, Inhabited

/-- A heartbeat on its way (R399): from, to, sequence numbers with their clocks. -/
structure Beat where
  src : Nat
  dst : Nat
  seqs : List (Nat × Nat)
deriving DecidableEq, Repr, Inhabited

/-- Package-level registers and mechanisms (R388, R414 to R427). -/
structure Pkg where
  live : BitVec 8 := 0
  fenced : BitVec 8 := 0
  shlost : BitVec 8 := 0
  master : Nat := 0
  hmap : BitVec 8 := 0
  memwBase : DWord := 0
  pcap : Nat := 4800
  waketol : Nat := 0
  ready : Bool := false
  pst : Nat := 0
  thr : BitVec 8 := 0
  freq : Tab Nat := []
  almstat : BitVec 4 := 0
  almpol : BitVec 4 := 7
  launched : Bool := false
  boot : Nat := 0
  bootPass : BitVec 8 := 0xFF
  recovery : Bool := false
  alarm : Bool := false
  erased : Bool := false
  meas : Tab (BitVec 512) := []
  svn : DWord := 0
  ranSvn : DWord := 0
  fw : Tab (List Byte) := []
  /-- CMDARG registers, and what they held when CMDOP was written (R418). -/
  cmdArg : Tab DWord := []
  cmdRun : Tab DWord := []
  cmdOp : Option Nat := none
  cmdErr : Nat := 0
  gated : BitVec 8 := 0
  idleSince : Tab Nat := []
  idle : Nat := 0
  cfg : Tab Word := []
  spdm : Tab Nat := []
  /-- Requesters with an exchange in progress (R425). -/
  spdmBusy : List Nat := []
  /-- Messages received on a RoCE queue pair (R398), oldest first. -/
  qps : Tab (List (List Byte)) := []
  fencing : Tab Nat := []
  /-- The PRI page request interface stopped by a Response Failure (R333). -/
  priStop : Bool := false
  /-- Die served last by page request groups (R332). -/
  priLast : Nat := 7
  /-- Stops of every grid after a lost shell: no launch is served (R404). -/
  rebuild : Bool := false
  dramHot : Tab Nat := []
  governing : Tab Nat := []
  power : Nat := 0
  /-- Dies that reached 105 °C and are not yet back at 103 °C, and dies that the power cap slowed and that wait for 95 % of it (R422). -/
  hotDies : BitVec 8 := 0
  capDies : BitVec 8 := 0
  /-- Dies slowed for heat and not yet back at full clock, and the clock of each die's last throttle step (R422). -/
  heatDies : BitVec 8 := 0
  stepAt : Tab Nat := []
deriving DecidableEq, Repr, Inhabited

/-- The control state of a preempted context (R312 step 4, R313), under the keys it had; registers, scratchpads and accumulators are in
the save area. `states` holds the STATE of its grids. -/
structure Saved where
  ctx : Nat
  states : List (Nat × Nat) := []
  blocks : Tab Block := []
  threads : Tab Thread := []
  floes : Tab Floe := []
  saves : Tab Floe := []
  bins : Tab Bin := []
  starting : List (Nat × Starting) := []
  bars : Tab Bar := []
  cbufs : Tab CBuf := []
  tables : Tab (BitVec 512 × Nat) := []
  allocs : List (Nat × Alloc) := []
  banks : Tab Nat := []
  maps : Tab SMap := []
  track : Tab Nat := []
  race : Tab (BitVec 128) := []
  raceBy : Tab Who := []
  syncs : Tab (List SyncMark) := []
  copies : Tab Copy := []
  wbs : Tab WBack := []
  mmas : Tab Mma := []
  lfsr : Tab Word := []
  /-- Answers of the host to its pages, to be met at its resumption (R333): die, pages, the trap code and the imprecise fault's, 0 for
  Success. -/
  answers : List (Nat × List (Nat × Nat × Bool) × Nat × Nat) := []
deriving DecidableEq, Repr, Inhabited

/-- The machine. -/
structure State where
  /-- MODEL: turns chosen from outside (log 2). -/
  agenda : List Turn := []
  /-- MODEL: counter the free cycle counts are drawn with (log 3). -/
  steps : Nat := 0
  /-- MODEL: counter the free values are drawn with (log 4). -/
  fresh : Nat := 0
  /-- MODEL: serial numbers of requests, operations and floes (log 4). -/
  nextId : Nat := 1
  /-- MODEL: the floe whose turn it is (log 2). -/
  cur : FloeId := ⟨0, 0, 0, 0⟩
  /-- MODEL: the last move has its cycle to itself (log 21). -/
  lone : Bool := false
  /-- MODEL: messages sent outside the package, newest first (log 5). -/
  outbox : List Msg := []
  /-- `%clock` per die (R92). -/
  clocks : Tab Nat := []
  /-- Lane banks (R241): key `2048 * lane + word`. -/
  regs : Tab Word := []
  threads : Tab Thread := []
  floes : Tab Floe := []
  /-- Key `64 * issue slot + save`. -/
  saves : Tab Floe := []
  /-- Key `16 * issue slot + bin`. -/
  bins : Tab Bin := []
  starting : List (Nat × Starting) := []
  sched : Tab Sched := []
  /-- Generator states per issue slot (R32); absent reads 1. -/
  lfsr : Tab Word := []
  /-- Region counters per floe slot (R286). -/
  regions : Tab Nat := []
  /-- MODEL: uid of the block of each floe launched into a floe slot, key `2^48 * floe + START` (R288). -/
  starts : Tab Nat := []
  blocks : Tab Block := []
  /-- Key `16 * core + slot`. -/
  bars : Tab Bar := []
  cbufs : Tab CBuf := []
  /-- Key `8 * core + slot`: image and owning grid (R128). -/
  tables : Tab (BitVec 512 × Nat) := []
  /-- Key `65536 * core + 512 * bank + word`: written words. -/
  accs : Tab Word := []
  allocs : List (Nat × Alloc) := []
  /-- Key `128 * core + bank`, the bank's last allocation: `256 * serial + 4 * context`, bit 1 written since, bit 0 its unlisted words
  read as zero (R211, R266). -/
  bankCtx : Tab Nat := []
  /-- Address `2^19 * core + a`. -/
  unit : List Host.Cell := []
  /-- Address `2^22 * (32 * die + cluster) + a`. -/
  clus : List Host.Cell := []
  /-- Address `2^27 * die + a`. -/
  dmem : List Host.Cell := []
  /-- Race words (R285), key `2^50 * level + granule`. -/
  race : Tab (BitVec 128) := []
  /-- MODEL: the block of a marked write that a race word records; scopes ask for it after the block has ended (R272, R289). Keys as
  `race`; `2^60 + 2^48 * context + granule` for a watched global granule. -/
  raceBy : Tab Who := []
  /-- V and D bits (R234), key `2^50 * level + chunk`: bit 0 V, bit 1 D. -/
  track : Tab Nat := []
  maps : Tab SMap := []
  fills : List Fill := []
  /-- Sync records (R287), by index; index `262144 * die + i`. -/
  recs : Tab SyncRec := []
  recNext : Tab Nat := []
  syncs : Tab (List SyncMark) := []
  rfold : Tab Nat := []
  grids : Tab Grid := []
  tasks : List Task := []
  /-- Contexts whose preemption has begun (R312). -/
  preempting : List Nat := []
  /-- What preempted contexts left (R312, R313). -/
  saved : List Saved := []
  copies : Tab Copy := []
  wbs : Tab WBack := []
  mmas : Tab Mma := []
  /-- Arrays in use, key `core`: operation; and reserved for. -/
  arrays : Tab Nat := []
  reserved : Tab Nat := []
  net : Tab Req := []
  tokens : List Token := []
  /-- Imprecise faults to take (R307). -/
  due : List Due := []
  mcasts : List MCast := []
  /-- Device memory (R268). -/
  mem : List Host.Cell := []
  /-- Tags per granule (R327). -/
  tags : Tab (BitVec 4) := []
  /-- Poisoned granules (R408). -/
  poison : Tab Bool := []
  /-- System memory bytes that were written (R324). -/
  hostMem : Tab Byte := []
  ctxTab : Tab (BitVec 512) := []
  /-- Key `32 * context + offset / 8` of R417. -/
  ctxRegs : Tab DWord := []
  /-- Key `4096 * die + offset / 8` of R417. -/
  dieRegs : Tab DWord := []
  /-- Key `4096 * core + number`; core `1024 + core` holds the host's copy of R364's command registers, `1024 + die` its copy of R411. -/
  csrs : Tab Word := []
  cmds : List Cmd := []
  dumps : List Dump := []
  tlb : List (Nat × TlbEnt) := []
  invals : List Inval := []
  /-- ATS Translation Requests that have not been answered (R324): core, context, 4 KiB page. -/
  atsOut : List (Nat × Nat × Nat) := []
  /-- Device writes to host pages that wait for their translation (R301, R324): context, address, bytes. -/
  devWait : List (Nat × Nat × List Byte) := []
  fpages : List FPage := []
  segs : Tab SegCopy := []
  segReqs : List SegReq := []
  forms : List Form := []
  /-- Link resolutions (R346): die, context, code, external index, entry. -/
  links : List (Nat × Nat × Nat × Nat × Nat) := []
  recalls : List (Nat × Nat × Nat × Option Nat) := []
  dir : Tab (BitVec 256) := []
  /-- Release record of the `dbind` that created an entry (R352), by entry. -/
  dirRecs : Tab Nat := []
  /-- Records withheld from a context's reclamation ring, oldest first, with their entries (R351), by context. -/
  withheld : Tab (List (Nat × BitVec 256)) := []
  /-- Lines that copies wrote to a device-side alias (R302): context of the alias, record, writing block with its uid and COORD. -/
  launches : List (Nat × BitVec 512 × Nat × Nat × Nat) := []
  /-- What a copy has written to a device-side alias so far (R302), by copy: context of the alias, physical address, 16-byte element. -/
  lines : Tab (List (Nat × Nat × Nat)) := []
  /-- Physical pages of the device-side aliases with their contexts (R302); the spec gives no address (log 17). -/
  aliases : Tab Nat := []
  /-- Scrubs of newly granted shares in progress (R259): level, physical base, bytes, the block that waits. -/
  scrubs : List (Nat × Nat × Nat × Nat) := []
  /-- Key `64 * context + id` (R393). -/
  schedules : Tab (List Byte) := []
  /-- Key `16 * source die + destination`. -/
  linkDirs : Tab Link := []
  /-- Key `16 * holder + die`: sequence and clock heard (R399). -/
  beats : Tab (Nat × Nat) := []
  beatNet : List Beat := []
  /-- Key `64 * (16 * die + array) + entry` (R409). -/
  errlog : Tab (BitVec 256) := []
  errOver : Tab Nat := []
  latent : List Arm := []
  patrol : Tab Nat := []
  /-- Accesses from other dies to pages with the migration hint (R320), key `2^48 * context + page base`. -/
  migs : Tab Nat := []
  temps : Tab Nat := []
  /-- Avoided cores (R304): bit 0 for heat, the rest the clock at which droop avoidance ends. -/
  avoid : Tab Nat := []
  droops : Tab (List Nat) := []
  /-- The replay logs as they stand in the dies' buffers (R377). -/
  rlog : List RRec := []
  /-- Contexts whose recording a full buffer has ended (R377). -/
  rlogFull : List Nat := []
  /-- MODEL: `%clock` at each recorded issue: context, issue slot, issue count, clock (R378, log 10). -/
  rclocks : List (Nat × Nat × Nat × Nat) := []
  /-- Events of the log that a replay has not met yet (R378). -/
  rpend : List RRec := []
  colls : Tab Coll := []
  ckpt : Option (Nat × Nat) := none
  pkg : Pkg := {}
deriving DecidableEq, Repr, Inhabited

/-- The machine right after power-on reset: every table empty, registers at the values of the register maps (R13). -/
def State.reset : State := {}

end Sys2Proof.Machine
end

