-- ==== Sys2Proof/Machine/Addr.lean ====
section
/-! DEFINITION. Names of places, launch-record fields, registers, on-chip memories, global memory, translation and bounds. -/

namespace Sys2Proof.Machine

/-! ## Keys -/

def coreKey (die core : Nat) : Nat := 128 * die + core
def CoreId.key (c : CoreId) : Nat := coreKey c.die c.core
def SlotId.key (q : SlotId) : Nat := 4 * coreKey q.die q.core + q.islot
def FloeId.key (f : FloeId) : Nat := 32 * (4 * coreKey f.die f.core + f.islot) + f.fslot
def coreOfFloe (k : Nat) : Nat := k / 128
def islotOfFloe (k : Nat) : Nat := k / 32
def dieOf (core : Nat) : Nat := core / 128
def clusterOf (core : Nat) : Nat := core % 128 / 4
/-- Cluster key, `32 * die + cluster`. -/
def clKey (core : Nat) : Nat := 32 * dieOf core + clusterOf core
def threadKey (islot lane w : Nat) : Nat := 32 * (32 * islot + lane) + w
def islotOfThread (t : Nat) : Nat := t / 1024
def laneOfThread (t : Nat) : Nat := t / 32 % 32
def blockKey (core n : Nat) : Nat := 32 * core + n

/-! ## Read access to the tables -/

def State.clock (s : State) (die : Nat) : Nat := lookD 0 s.clocks die
def State.floe? (s : State) (k : Nat) : Option Floe := look s.floes k
def State.thread (s : State) (k : Nat) : Thread := lookD {} s.threads k
def State.block (s : State) (k : Nat) : Block := lookD {} s.blocks k
def State.block? (s : State) (k : Nat) : Option Block := look s.blocks k
def State.grid (s : State) (g : Nat) : Grid := lookD {} s.grids g
def State.csr (s : State) (core n : Nat) : Word := lookD 0 s.csrs (4096 * core + n)
def State.setCsr (s : State) (core n : Nat) (v : Word) : State := { s with csrs := putD 0 s.csrs (4096 * core + n) v }
def State.setThread (s : State) (k : Nat) (t : Thread) : State := { s with threads := put s.threads k t }
def State.setFloe (s : State) (k : Nat) (f : Floe) : State := { s with floes := put s.floes k f }
def State.setBlock (s : State) (k : Nat) (b : Block) : State := { s with blocks := put s.blocks k b }
def State.setGrid (s : State) (g : Nat) (x : Grid) : State := { s with grids := put s.grids g x }
/-- Change a floe, if it is there. -/
def State.modFloe (s : State) (k : Nat) (f : Floe → Floe) : State :=
  match look s.floes k with
  | some x => s.setFloe k (f x)
  | none => s
def State.modThread (s : State) (k : Nat) (f : Thread → Thread) : State := s.setThread k (f (s.thread k))
def State.modBlock (s : State) (k : Nat) (f : Block → Block) : State :=
  match look s.blocks k with
  | some x => s.setBlock k (f x)
  | none => s
def State.modGrid (s : State) (g : Nat) (f : Grid → Grid) : State :=
  match look s.grids g with
  | some x => s.setGrid g (f x)
  | none => s
/-- A fresh serial number. -/
def State.newId (s : State) : Nat × State := (s.nextId, { s with nextId := s.nextId + 1 })
/-- A fresh free word (log 4). -/
def State.freeW (s : State) : Word × State := (Config.freeWord s.fresh, { s with fresh := s.fresh + 1 })
def State.send (s : State) (m : Msg) : State := { s with outbox := m :: s.outbox }

/-! ## Launch-record fields (R299) -/

/-- Bits h:l of word Wn of the launch record. -/
def Grid.w (g : Grid) (n h l : Nat) : Nat := bits g.lrec.toNat (32 * n + h) (32 * n + l)
def Grid.code (g : Grid) : Nat := g.w 0 31 16
def Grid.tpol (g : Grid) : Nat := g.w 0 9 8
def Grid.prio (g : Grid) : Nat := g.w 0 7 6
def Grid.ver (g : Grid) : Bool := g.w 0 5 5 == 1
def Grid.coRes (g : Grid) : Bool := g.w 0 4 4 == 1
/-- Blocks per drift. -/
def Grid.drf (g : Grid) : Nat := g.w 0 3 2 + 1
def Grid.ser (g : Grid) : Bool := g.w 0 1 1 == 1
def Grid.entry (g : Grid) : Word := BitVec.ofNat 32 (g.w 1 31 0)
def Grid.arg (g : Grid) : Nat := bits g.lrec.toNat 255 192
def Grid.stat (g : Grid) : Nat := bits g.lrec.toNat 319 256
def Grid.nbx (g : Grid) : Nat := g.w 10 15 0
def Grid.nby (g : Grid) : Nat := g.w 10 23 16
def Grid.nbz (g : Grid) : Nat := g.w 10 31 24
def Grid.bx (g : Grid) : Nat := g.w 11 9 0 + 1
def Grid.by' (g : Grid) : Nat := g.w 11 19 10 + 1
def Grid.bz (g : Grid) : Nat := g.w 11 29 20 + 1
def Grid.blocks (g : Grid) : Nat := g.nbx * g.nby * g.nbz
def Grid.threads (g : Grid) : Nat := g.bx * g.by' * g.bz
def Grid.unitSz (g : Grid) : Nat := 256 * g.w 12 11 0
def Grid.clusSz (g : Grid) : Nat := 256 * g.w 12 26 12
def Grid.dieSz (g : Grid) : Nat := 256 * g.w 13 18 0
def Grid.accN (g : Grid) : Nat := g.w 13 26 19
def Grid.lsid (g : Grid) : Nat := g.w 14 31 26
def Grid.bint (g : Grid) : Nat := g.w 14 25 16
def Grid.place (g : Grid) : Nat := g.w 14 15 8
def Grid.nregs (g : Grid) : Nat := g.w 14 7 0
def Grid.seed (g : Grid) : Word := BitVec.ofNat 32 (g.w 15 31 0)
/-- Register window size (R241). -/
def Grid.win (g : Grid) : Nat := (g.nregs + 7) / 8 * 8
def Block.x (b : Block) (g : Grid) : Nat := b.index % g.nbx
def Block.y (b : Block) (g : Grid) : Nat := b.index / g.nbx % g.nby
def Block.z (b : Block) (g : Grid) : Nat := b.index / g.nbx / g.nby

/-! ## Floes and their lanes -/

def Floe.present (f : Floe) : BitVec 32 := maskOf (f.lanes.map (·.1))
/-- Thread key of a present lane. -/
def Floe.tkey (f : Floe) (k lane : Nat) : Option Nat :=
  (f.lanes.find? (·.1 == lane)).map fun e => threadKey (islotOfFloe k) lane e.2
def Floe.tkeys (f : Floe) (k : Nat) : List Nat := f.lanes.map fun e => threadKey (islotOfFloe k) e.1 e.2
def Floe.bkey (f : Floe) (k : Nat) : Nat := blockKey (coreOfFloe k) f.blkr
/-- Code coordinate of a position (R8). -/
def coordOf (seg line slot : Nat) : Word := BitVec.ofNat 32 (seg % 2 ^ 20 * 2 ^ 12 + line % 256 * 16 + slot % 8 * 2)
def Floe.coord (f : Floe) : Word := coordOf f.segid f.line f.slot
/-- R9: a word that names an instruction. -/
def coordOk (w : Word) : Bool :=
  decide (bits w.toNat 31 12 ≠ 0 ∧ bits w.toNat 11 4 ≠ 0 ∧ bits w.toNat 3 1 ≤ 4 ∧ w.toNat % 2 = 0)

/-! ## Registers (R241) -/

/-- Bank word key of register `n` of a thread. -/
def regKey (t : Nat) (th : Thread) (n : Nat) : Nat := 2048 * (t / 32) + th.wbase + n
def State.vreg (s : State) (t n : Nat) : Word := lookD 0 s.regs (regKey t (s.thread t) n)
/-- p7 always reads true (R48). -/
def State.predOf (s : State) (t p : Nat) : Bool := if p = 7 then true else (s.thread t).preds.getLsbD p
def setBit {w : Nat} (x : BitVec w) (i : Nat) (b : Bool) : BitVec w :=
  if b then x ||| (1#w <<< i) else x &&& ~~~(1#w <<< i)
/-- A write to p7 is discarded (R57). -/
def State.setPred (s : State) (t p : Nat) (b : Bool) : State :=
  if p = 7 then s else s.modThread t fun th => { th with preds := setBit th.preds p b }
/-- OR flags into the status word (R41). -/
def State.orFlags (s : State) (t : Nat) (f : Fl) : State :=
  if f = 0 then s else s.modThread t fun th => { th with status := th.status ||| f.zeroExtend 32 }
/-- The generator of an issue slot, never zero (R32). -/
def State.lfsrOf (s : State) (islot : Nat) : Word := lookD 1 s.lfsr islot
def State.setLfsr (s : State) (islot : Nat) (w : Word) : State :=
  { s with lfsr := putD 1 s.lfsr islot (if w = 0 then 1 else w) }

/-! ## Scratchpads (R257, R258) -/

def lvlCode : Space → Nat
  | .glob => 0 | .unit => 1 | .clus => 2 | .die => 3
def lvlOf : Nat → Space
  | 1 => .unit | 2 => .clus | 3 => .die | _ => .glob

/-- Bytes of a level's memory. -/
def State.lvl (s : State) : Space → List Host.Cell
  | .unit => s.unit | .clus => s.clus | .die => s.dmem | .glob => s.mem
def State.setLvl (s : State) (l : Space) (m : List Host.Cell) : State :=
  match l with
  | .unit => { s with unit := m } | .clus => { s with clus := m } | .die => { s with dmem := m } | .glob => { s with mem := m }

/-- Physical address of offset 0 of a block's share at a level (R175). -/
def State.shareBase (s : State) (bk : Nat) (l : Space) : Nat :=
  let b := s.block bk
  let core := bk / 32
  match l with
  | .unit => 2 ^ 19 * core + b.unitBase
  | .clus => 2 ^ 22 * clKey core + b.clusBase
  | .die => 2 ^ 27 * dieOf core + lookD 0 (s.grid b.grid).dieBase (dieOf core)
  | .glob => 0
/-- The share size that R175 checks. -/
def State.shareSize (s : State) (bk : Nat) (l : Space) : Nat :=
  let g := s.grid (s.block bk).grid
  match l with
  | .unit => g.unitSz | .clus => g.clusSz | .die => g.dieSz | .glob => 0
/-- Bank of an address (R257), and the level's memory it lies in. -/
def bankOf (l : Space) (a : Nat) : Nat :=
  match l with
  | .unit => bits a 6 2 | .clus => bits a 9 4 | .die => bits a 12 5 | .glob => 0
def instOf (l : Space) (a : Nat) : Nat :=
  match l with
  | .unit => a / 2 ^ 19 | .clus => a / 2 ^ 22 | .die => a / 2 ^ 27 | .glob => 0
/-- Depth of a bank's queue (R257). -/
def queueDepth : Space → Nat
  | .unit => 8 | .clus => 16 | _ => 32
def raceKey (l : Space) (a : Nat) : Nat := 2 ^ 50 * lvlCode l + a / 32

/-! ## Maps (R233, R234) -/

/-- The open map whose region holds a byte of a level (R233). -/
def State.mapAt (s : State) (l : Space) (pa : Nat) : Option (Nat × SMap) :=
  s.maps.find? fun e => e.2.lvl == lvlCode l &&
    decide (s.shareBase (e.1 / 8) l + e.2.saddr ≤ pa ∧ pa < s.shareBase (e.1 / 8) l + e.2.saddr + e.2.size)

def trackKey (l : Space) (pa : Nat) : Nat := 2 ^ 50 * lvlCode l + pa / 256
/-- V and D of the chunk that holds a byte (R234). -/
def State.chunkV (s : State) (l : Space) (pa : Nat) : Bool := lookD 0 s.track (trackKey l pa) % 2 == 1
def State.chunkD (s : State) (l : Space) (pa : Nat) : Bool := lookD 0 s.track (trackKey l pa) / 2 % 2 == 1
def State.setTrack (s : State) (l : Space) (pa v : Nat) : State := { s with track := putD 0 s.track (trackKey l pa) v }
/-! ## Homes of global memory (R268, R414) -/

def chan (a : Nat) : Nat := bits a 16 8 ^^^ bits a 25 17 ^^^ bits a 34 26 ^^^ bits a 43 35 ^^^ bits a 47 44
def choff (a : Nat) : Nat := bits a 39 17 * 256 + bits a 7 0

/-- Channels of the dies in a mask, ascending. -/
def liveChans (m : BitVec 8) : List Nat :=
  ((List.range 8).filter m.getLsbD).flatMap fun d => (List.range 64).map (64 * d + ·)

def chanDeg (m : BitVec 8) (a : Nat) : Nat :=
  let live := liveChans m
  let l := live.length
  let n := a / 256
  let q := n / l
  let h := (bits q 8 0 ^^^ bits q 17 9 ^^^ bits q 22 18) % l
  live.getD ((n % l + h) % l) 0
def choffDeg (m : BitVec 8) (a : Nat) : Nat := a / 256 / (liveChans m).length * 256 + bits a 7 0

def State.homeChan (s : State) (a : Nat) : Nat :=
  if s.pkg.hmap = 0xFF ∨ s.pkg.hmap = 0 then chan a else chanDeg s.pkg.hmap a
def State.homeDie (s : State) (a : Nat) : Nat := s.homeChan a / 64
/-- First physical address the hash does not map. -/
def State.memTop (s : State) : Nat :=
  if s.pkg.hmap = 0xFF ∨ s.pkg.hmap = 0 then 2 ^ 40 else (liveChans s.pkg.hmap).length * 2 ^ 31
/-- Whether the home's memory shell answers (R404). -/
def State.shellUp (s : State) (a : Nat) : Bool := !s.pkg.shlost.getLsbD (s.homeDie a)

/-! ## Reads and writes at a home -/

def State.readPlace (s : State) (p : Place) (n : Nat) : Nat :=
  if p.sys then leVal ((List.range n).map fun i => (look s.hostMem (p.pa + i)).getD (Config.hostByte (p.pa + i)))
  else getN s.mem p.pa n

def putBytes (t : Tab Byte) (a : Nat) : List Byte → Tab Byte
  | [] => t
  | b :: bs => putBytes (put t a b) (a + 1) bs

/-- A write breaks every reservation on the granules it touches (R188). -/
def breakResv (ts : Tab Thread) (sys : Bool) (lo hi : Nat) : Tab Thread :=
  ts.map fun e => match e.2.resv with
    | some r => if r.sys == sys && decide (lo ≤ r.gran ∧ r.gran ≤ hi) then (e.1, { e.2 with resv := some { r with broken := true } }) else e
    | none => e

/-- The same for reservations that an `sc` in the network uses. -/
def breakNet (ts : Tab Req) (sys : Bool) (lo hi : Nat) : Tab Req :=
  if ts.all fun e => e.2.resv.isNone then ts else
  ts.map fun e => match e.2.resv with
    | some r => if r.sys == sys && decide (lo ≤ r.gran ∧ r.gran ≤ hi) then (e.1, { e.2 with resv := some { r with broken := true } }) else e
    | none => e

/-- Granules wholly covered by a write. -/
def fullGrans (a n : Nat) : List Nat :=
  (List.range (n / 32 + 1)).map (fun i => (a + 31) / 32 + i) |>.filter fun g => decide (a ≤ 32 * g ∧ 32 * g + 32 ≤ a + n)

def delAll {α : Type} (t : Tab α) : List Nat → Tab α
  | [] => t
  | k :: ks => delAll (del t k) ks

/-! ## Injected errors (R406, R412) -/

/-- Whether an array at a place is what an injection armed on core `k`, or through the host's copy of die `k - 1024`, names. The place is a
core, a cluster for array 2, a die for arrays 3, 8 and 9. -/
def armPlace (array k place : Nat) : Bool :=
  if 1024 ≤ k then
    (if array = 2 then place / 32 else if array = 3 ∨ array = 8 ∨ array = 9 then place else if array = 10 then k - 1024 else place / 128) == k - 1024
  else (if array = 2 then clKey k else if array = 3 ∨ array = 8 ∨ array = 9 then dieOf k else if array = 10 then place else k) == place

/-- Bytes of a word of an array: what its error-correction bits cover (R257, R406). Spawn memory by the record, the directory by the entry;
an address of a TLB is the number of an entry (log 11). -/
def arrWord : Nat → Nat
  | 2 | 6 => 16
  | 3 | 8 | 9 | 10 => 32
  | 5 => 8
  | 7 => 1
  | _ => 4

/-- The word of an array that holds an address meets a range. -/
def wordMeets (array addr a n : Nat) : Bool :=
  decide (a < addr / arrWord array * arrWord array + arrWord array ∧ addr / arrWord array * arrWord array < a + n)
/-- It lies in a range. -/
def wordWithin (array addr a n : Nat) : Bool :=
  decide (a ≤ addr / arrWord array * arrWord array ∧ addr / arrWord array * arrWord array + arrWord array ≤ a + n)

def State.armAddr (s : State) (k : Nat) : Nat := (s.csr k 0x38B).toNat + 2 ^ 32 * (s.csr k 0x38C).toNat

/-- The registers whose armed injection a write to `[a, a + n)` of an array meets. -/
def State.armed? (s : State) (array place a n : Nat) : Option Nat :=
  (s.csrs.find? fun e => decide (e.1 % 4096 = 0x38D) && e.2.getLsbD 0 && bits e.2.toNat 2 1 != 3 &&
    (s.csr (e.1 / 4096) 0x38A).toNat % 16 == array && armPlace array (e.1 / 4096) place && wordMeets array (s.armAddr (e.1 / 4096)) a n).map (·.1 / 4096)

/-- An uncorrectable error stands in a range of an array. -/
def State.ueIn (s : State) (array place a n : Nat) : Bool :=
  s.latent.any fun r => r.mode != 0 && r.array == array && r.core == place && wordMeets array r.addr a n

/-- A write to a range of an array: it ends the errors of the words that it covers, and an armed injection takes effect (R412). -/
def State.takeInjection (s : State) (array place a n : Nat) : State :=
  let s := if s.latent = [] then s else { s with latent := s.latent.filter fun r =>
    !(r.array == array && r.core == place && wordWithin array r.addr a n) }
  match s.armed? array place a n with
  | none => s
  | some k =>
    let ctl := s.csr k 0x38D
    let arm : Arm := ⟨place, array, s.armAddr k, bits ctl.toNat 2 1, bits ctl.toNat 15 8⟩
    let s := s.setCsr k 0x38D (ctl &&& ~~~1#32)
    let s := { s with latent := arm :: s.latent }
    if (array = 8 ∨ array = 9) ∧ arm.mode ≠ 0 then { s with poison := put s.poison (arm.addr / 32) true } else s

/-- Address of a register's bank word in a core's register file: 8 KiB per lane, as R313 lays a save out. -/
def regAddr (k : Nat) : Nat := 8192 * (k / 2048 % 128) + 4 * (k % 2048)
/-- Write register `n` of a thread. -/
def State.setVreg (s : State) (t n : Nat) (v : Word) : State :=
  let k := regKey t (s.thread t) n
  ({ s with regs := putD 0 s.regs k v }).takeInjection 0 (k / 2048 / 128) (regAddr k) 4
/-- An uncorrectable error stands in registers `n` to `n + c - 1` of a thread. -/
def State.ueRegs (s : State) (t n c : Nat) : Bool :=
  let k := regKey t (s.thread t) n
  s.ueIn 0 (k / 2048 / 128) (regAddr k) (4 * c)

/-- Write bytes at their home: data, reservations, poison, injection. -/
def State.writePlace (s : State) (p : Place) (bs : List Byte) : State :=
  let n := bs.length
  if n = 0 then s else
  let ts := breakResv s.threads p.sys (p.pa / 32) ((p.pa + n - 1) / 32)
  let s := { s with net := breakNet s.net p.sys (p.pa / 32) ((p.pa + n - 1) / 32) }
  if p.sys then { s with hostMem := putBytes s.hostMem p.pa bs, threads := ts }
  else
    ({ s with mem := setBs s.mem p.pa bs, threads := ts, poison := delAll s.poison (fullGrans p.pa n) }).takeInjection
      8 (s.homeDie p.pa) p.pa n

def State.writeN (s : State) (p : Place) (n v : Nat) : State := s.writePlace p (leBytes v n)

/-- R408: a granule of the range is poisoned. -/
def State.poisoned (s : State) (p : Place) (n : Nat) : Bool :=
  !p.sys && (List.range (n / 32 + 2)).any fun i =>
    let g := p.pa / 32 + i
    decide (32 * g < p.pa + n) && (look s.poison g).isSome

/-- Write bytes of a scratchpad level at a physical address of the level. -/
def State.writeLvl (s : State) (l : Space) (a : Nat) (bs : List Byte) : State :=
  let s' := s.setLvl l (setBs (s.lvl l) a bs)
  let sz := match l with | .unit => 2 ^ 19 | .clus => 2 ^ 22 | _ => 2 ^ 27
  match l with
  | .unit => s'.takeInjection 1 (a / sz) (a % sz) bs.length
  | .clus => s'.takeInjection 2 (a / sz) (a % sz) bs.length
  | _ => s'.takeInjection 3 (a / sz) (a % sz) bs.length

/-- An uncorrectable error stands in bytes of a scratchpad level. -/
def State.uePad (s : State) (l : Space) (pa n : Nat) : Bool :=
  match l with
  | .unit => s.ueIn 1 (pa / 2 ^ 19) (pa % 2 ^ 19) n
  | .clus => s.ueIn 2 (pa / 2 ^ 22) (pa % 2 ^ 22) n
  | _ => s.ueIn 3 (pa / 2 ^ 27) (pa % 2 ^ 27) n

/-! ## Contexts, bounds and the page table (R295, R318 to R325) -/

def State.ctxEnt (s : State) (c : Nat) : Nat := (lookD 0 s.ctxTab c).toNat
def State.ctxVal (s : State) (c : Nat) : Bool := bits (s.ctxEnt c) 31 31 == 1
def State.ctxPri (s : State) (c : Nat) : Nat := bits (s.ctxEnt c) 30 28
def State.ctxSup (s : State) (c : Nat) : Bool := bits (s.ctxEnt c) 27 27 == 1
def State.ctxPasid (s : State) (c : Nat) : BitVec 20 := BitVec.ofNat 20 (s.ctxEnt c)
def State.ctxAllow (s : State) (c : Nat) : Nat := bits (s.ctxEnt c) 39 32
def State.btab (s : State) (c : Nat) : Nat := bits (s.ctxEnt c) (128 + 167) (128 + 145) * 2 ^ 17
def State.root (s : State) (c : Nat) : Nat := bits (s.ctxEnt c) (128 + 103) (128 + 76) * 2 ^ 12
def State.ctxReg (s : State) (c off : Nat) : DWord := lookD 0 s.ctxRegs (32 * c + off / 8)
def State.setCtxReg (s : State) (c off : Nat) (v : DWord) : State :=
  { s with ctxRegs := putD 0 s.ctxRegs (32 * c + off / 8) v }

/-- A register of a die's block of the management window, by its offset (R417). -/
def State.dieReg (s : State) (die off : Nat) : DWord := lookD 0 s.dieRegs (4096 * die + off / 8)
def State.setDieReg (s : State) (die off : Nat) (v : DWord) : State := { s with dieRegs := putD 0 s.dieRegs (4096 * die + off / 8) v }

/-- The bounds entry of an index (R325). -/
def State.bent (s : State) (ctx bidx : Nat) : Nat := getN s.mem (s.btab ctx + 32 * (bidx % 4096)) 32
/-- A read of it would meet a poisoned granule (R408). -/
def State.bentPoison (s : State) (ctx bidx : Nat) : Bool := s.poisoned ⟨s.btab ctx + 32 * (bidx % 4096), false⟩ 32
/-- VAL set and no reserved bit (R325). -/
def bentOk (e : Nat) : Bool :=
  decide (bits e 63 63 = 1 ∧ bits e 255 112 = 0 ∧ bits e 62 56 = 0 ∧ bits e 50 48 = 0)
def bentBase (e : Nat) : Nat := bits e 47 0
def bentLimit (e : Nat) : Nat := bits e 111 64
def bentR (e : Nat) : Bool := bits e 51 51 == 1
def bentW (e : Nat) : Bool := bits e 52 52 == 1
def bentA (e : Nat) : Bool := bits e 53 53 == 1
def bentB (e : Nat) : Bool := bits e 54 54 == 1
def bentTce (e : Nat) : Bool := bits e 55 55 == 1
/-- R176 check 2: valid and bytes `va` to `va + n - 1` within the range. -/
def State.inBounds (s : State) (ctx bidx va n : Nat) : Bool :=
  let e := s.bent ctx bidx
  bentOk e && decide (bentBase e ≤ va ∧ va + n ≤ bentLimit e)

/-- What a translation gives. -/
inductive XRes where
  | ok (leaf size : Nat)
  | absent
  /-- The leaf is not writable; its page size. -/
  | absentWrite (size : Nat)
  | malformed
  /-- A host page whose ATS completion has not come (R324). -/
  | ats
  /-- A table read met a poisoned granule (R408). -/
  | poison
deriving DecidableEq, Repr, Inhabited

/-- Page size of a leaf at a level (R318). -/
def leafSize (lvl : Nat) : Nat := if lvl = 2 then 2 ^ 30 else if lvl = 3 then 2 ^ 21 else 2 ^ 16
def levelIndex (va lvl : Nat) : Nat :=
  match lvl with
  | 1 => bits va 47 39 | 2 => bits va 38 30 | 3 => bits va 29 21 | _ => bits va 20 16

/-- R320, R321: an entry of level `lvl` that is malformed. -/
def entBad (s : State) (e lvl va : Nat) : Bool :=
  let leaf := bits e 1 1 == 1
  let frame := bits e 39 8 * 256
  let resv := decide (bits e 62 40 ≠ 0 ∨ bits e 2 2 ≠ 0)
  let lev := (lvl == 4 && !leaf) || (lvl == 1 && leaf)
  let ptr := !leaf && decide (bits e 63 63 ≠ 0 ∨ bits e 7 3 ≠ 0)
  let align := if leaf then decide (frame % leafSize lvl ≠ 0) else decide (frame % (if lvl = 3 then 256 else 4096) ≠ 0)
  let sysb := bits e 63 63 == 1 && (bits e 4 4 == 1 || bits e 5 5 == 1)
  let shad := bits e 5 5 == 1 && decide (2 ^ 47 ≤ va)
  let top := bits e 63 63 == 0 && decide (s.memTop ≤ frame)
  resv || lev || ptr || align || (leaf && sysb) || (leaf && shad) || (bits e 0 0 == 1 && top)

/-- R321, with the levels left as fuel; a table that the hash does not map, the root as well, is malformed (R414). -/
def walkGo (s : State) (va : Nat) (write : Bool) : Nat → Nat → Nat → XRes
  | 0, _, _ => .malformed
  | fuel + 1, lvl, node =>
    let a := node + 8 * levelIndex va lvl
    let e := getN s.mem a 8
    if s.memTop ≤ node then .malformed
    else if s.poisoned ⟨a, false⟩ 8 then .poison
    else if entBad s e lvl va then .malformed
    else if bits e 0 0 = 0 then .absent
    else if bits e 1 1 = 1 then
      if write && bits e 3 3 == 0 then .absentWrite (leafSize lvl)
      else if bits e 63 63 = 1 then .ats
      else .ok e (leafSize lvl)
    else walkGo s va write fuel (lvl + 1) (bits e 39 8 * 256)

/-- Bytes that one entry maps at the level where a walk of an address ends, whatever the entry there holds; a level 1 entry maps no leaf. -/
def walkSpan (s : State) (va : Nat) : Nat → Nat → Nat → Nat
  | 0, _, _ => 2 ^ 16
  | fuel + 1, lvl, node =>
    let e := getN s.mem (node + 8 * levelIndex va lvl) 8
    if s.memTop ≤ node ∨ bits e 0 0 = 0 ∨ bits e 1 1 = 1 then leafSize (max lvl 2) else walkSpan s va fuel (lvl + 1) (bits e 39 8 * 256)

def State.walk (s : State) (ctx va : Nat) (write : Bool) : XRes := walkGo s va write 4 1 (s.root ctx)

/-- A TLB of the core holds a leaf for the page (R322). -/
def State.tlbHit (s : State) (core ctx va : Nat) (write : Bool) : Option TlbEnt :=
  (s.tlb.find? fun e => decide (e.1 = core ∨ e.1 = 1024 + dieOf core) && e.2.ctx == ctx &&
    decide (e.2.base ≤ va ∧ va < e.2.base + e.2.size) && bits e.2.leaf.toNat 0 0 == 1 && (!write || bits e.2.leaf.toNat 3 3 == 1)).map (·.2)

/-- The cached ATS completion for an address, whatever it grants (R324). -/
def State.atsEnt (s : State) (core ctx va : Nat) : Option TlbEnt :=
  (s.tlb.find? fun e => decide (e.1 = core ∨ e.1 = 1024 + dieOf core) && e.2.ctx == ctx &&
    decide (e.2.base ≤ va ∧ va < e.2.base + e.2.size) && bits e.2.leaf.toNat 63 63 == 1).map (·.2)

/-- Translate through the TLBs of a core (R321, R322); an ATS completion that denies the access is absent or absent-write (R324). -/
def State.xlat (s : State) (core ctx va : Nat) (write : Bool) : XRes :=
  match s.tlbHit core ctx va write with
  | some e => .ok e.leaf.toNat e.size
  | none =>
    match s.walk ctx va write with
    | .ats => (match s.atsEnt core ctx va with
      | some e => if bits e.leaf.toNat 0 0 = 0 then .absent else .absentWrite e.size
      | none => .ats)
    | r => r

/-- Physical place of an address under a leaf; a cached ATS completion holds a bus address (R324). -/
def leafPlace (leaf size va : Nat) : Place :=
  if bits leaf 63 63 = 1 then ⟨bits leaf 62 8 * 256 + va % size, true⟩ else ⟨bits leaf 39 8 * 256 + va % size, false⟩
def leafTage (leaf : Nat) : Bool := bits leaf 4 4 == 1
def leafWatch (leaf : Nat) : Bool := bits leaf 5 5 == 1
/-- Base of the page, when its leaf carries the migration hint (R320). -/
def leafMig (leaf size va : Nat) : Option Nat := if bits leaf 7 7 = 1 then some (va / size * size) else none

/-- Make room for one entry among those under a key: the oldest leaves, a core's for the die's second-level TLB (R322). -/
def tlbRoom (key cap : Nat) (t : List (Nat × TlbEnt)) : List (Nat × TlbEnt) :=
  if (t.filter (·.1 == key)).length < cap then t
  else match t.find? (·.1 == key) with
    | some e => if key < 1024 then (t.erase e) ++ [(1024 + dieOf key, e.2)] else t.erase e
    | none => t

/-- Write an entry into the core's TLB, where an armed injection meets it (R322, R412). -/
def State.tlbPut (s : State) (core : Nat) (e : TlbEnt) : State :=
  let n := min 511 (s.tlb.filter fun e => e.1 == core).length
  State.takeInjection { s with tlb := tlbRoom (1024 + dieOf core) 16385 (tlbRoom core 512 s.tlb) ++ [(core, e)] } 7 core n 1

/-- Fill the core's TLB with a leaf. -/
def State.tlbFill (s : State) (core ctx va leaf size : Nat) : State :=
  if (s.tlbHit core ctx va (bits leaf 3 3 == 1)).isSome then s
  else s.tlbPut core ⟨ctx, va / size * size, size, BitVec.ofNat 64 leaf⟩

/-- Ask for a host page's translation on behalf of a core, unless it has been asked for (R324). -/
def State.askAts (s : State) (core ctx va : Nat) : State :=
  if s.atsOut.contains (core, ctx, va / 4096) then s
  else { s with atsOut := s.atsOut ++ [(core, ctx, va / 4096)] }.send (.translationRequest (s.ctxPasid ctx) (va / 4096))

/-- The core whose TLB holds what the device itself asks for: core 0 of the master's die (log 31). -/
def State.devCore (s : State) : Nat := 128 * s.pkg.master

/-- The device's own translation through a context's table (R301, R329); a host page through a completion that any TLB holds (R324). -/
def State.xlatDev (s : State) (ctx va : Nat) (write : Bool) : XRes :=
  match s.walk ctx va write with
  | .ats =>
    match s.tlb.find? fun e => e.2.ctx == ctx && decide (e.2.base ≤ va ∧ va < e.2.base + e.2.size) && bits e.2.leaf.toNat 63 63 == 1 with
    | some e =>
      if bits e.2.leaf.toNat 0 0 = 0 then .absent
      else if write && bits e.2.leaf.toNat 3 3 == 0 then .absentWrite e.2.size
      else .ok e.2.leaf.toNat e.2.size
    | none => .ats
  | r => r
/-- The bytes' place, or nothing. -/
def State.devPlace (s : State) (ctx va : Nat) (write : Bool) : Option Place :=
  match s.xlatDev ctx va write with
  | .ok leaf size => some (leafPlace leaf size va)
  | _ => none
/-- A device write; one to a host page waits for its translation, and later ones of the context behind it. -/
def State.devWrite (s : State) (ctx va : Nat) (bs : List Byte) : State :=
  if s.devWait.any (·.1 == ctx) then { s with devWait := s.devWait ++ [(ctx, va, bs)] }
  else match s.xlatDev ctx va true with
  | .ok leaf size => s.writePlace (leafPlace leaf size va) bs
  | .ats => { s with devWait := s.devWait ++ [(ctx, va, bs)] }.askAts s.devCore ctx va
  | _ => s
def State.devRead (s : State) (ctx va n : Nat) : Option Nat :=
  (s.devPlace ctx va false).map fun p => s.readPlace p n

/-- Make the device writes that wait, in order, those of a context up to the first that still waits. -/
def State.flushDev (s : State) : State :=
  s.devWait.foldl (fun s w => s.devWrite w.1 w.2.1 w.2.2) { s with devWait := [] }

/-! ## Status block (R301) -/

def State.statWrite (s : State) (g : Nat) (off n v : Nat) : State :=
  let x := s.grid g
  s.devWrite x.ctx (bits x.stat 47 0 + off) (leBytes v n)

/-- A grid takes a STATE, in its record and in its status block. -/
def State.setGState (s : State) (g st : Nat) : State :=
  (s.modGrid g fun x => { x with state := st }).statWrite g 0 4 st

/-- Address of HANDLER of the status block. -/
def State.handlerVa (s : State) (g : Nat) : Nat := bits (s.grid g).stat 47 0 + 8
def State.handlerOf (s : State) (g : Nat) : Word := BitVec.ofNat 32 ((s.devRead (s.grid g).ctx (s.handlerVa g) 4).getD 0)
/-- The policy asks for a handler, and HANDLER lies in a host page that has no translation yet (R324). -/
def State.handlerWaits (s : State) (g : Nat) : Bool := (s.grid g).tpol == 2 && s.xlatDev (s.grid g).ctx (s.handlerVa g) false == .ats

/-! ## Code objects (R338 to R340) and continuation words (R11) -/

/-- Entry of a code object handle when it is good; a nonzero reserved bit makes it not good (log 29). -/
def State.codeEnt (s : State) (ctx h : Nat) : Option Nat :=
  let t := (s.ctxReg ctx 0x00).toNat
  if 1 ≤ h ∧ h < bits t 63 48 then
    let e := getN s.mem (bits t 39 12 * 2 ^ 12 + 16 * h) 16
    if bits e 63 63 = 1 ∧ bits e 127 64 = 0 ∧ bits e 62 60 = 0 then some e else none
  else none
def codeHdr (e : Nat) : Nat := bits e 47 0
def codeBidx (e : Nat) : Nat := bits e 59 48

/-- A device read of a code object: under its bounds entry with r, through the table. Reasons 0x0C and 0x0D of R345. -/
def State.codeRead (s : State) (ctx bidx va n : Nat) : Except Nat Nat :=
  if !(s.inBounds ctx bidx va n && bentR (s.bent ctx bidx)) then .error 0x0C
  else match s.devRead ctx va n with
    | some v => .ok v
    | none => .error 0x0D

/-- Header of a code object and the segment table entry of a segment id, when it is bound (R340). -/
def State.segRow (s : State) (ctx e seg : Nat) : Except Nat (Nat × Option Nat) :=
  match s.codeRead ctx (codeBidx e) (codeHdr e) 64 with
  | .error r => .error r
  | .ok h =>
    if seg = 0 ∨ bits h 63 32 < seg then .ok (h, none)
    else match s.codeRead ctx (codeBidx e) (codeHdr e + bits h 95 64 + 16 * (seg - 1)) 16 with
      | .error r => .error r
      | .ok t => .ok (h, if bits t 63 63 = 1 then some t else none)

/-- The segment table entry that a delivery goes by (R339, R340, R345). Nonzero bits that R339 and R340 show as zero fail as a wrong VER
does (log 29). -/
def State.segEnt (s : State) (ctx code seg : Nat) : Except Nat Nat :=
  match s.codeEnt ctx code with
  | none => .error 0x0C
  | some e => match s.segRow ctx e seg with
    | .error r => .error r
    | .ok (_, none) => .error 0x0C
    | .ok (h, some t) =>
      if bits h 31 0 ≠ 3 ∨ bits h 511 224 ≠ 0 ∨ bits t 127 112 ≠ 0 ∨ bits t 62 32 ≠ 0 then .error 0x0C else .ok t

/-- The entry of a continuation word lies in the entry table of a bound segment, by a resident copy or the image header. Where a read that
would tell cannot be made, it passes: the segment-load fault of the delivery decides (DESIGN CHOICE, log 30). -/
def State.entOk (s : State) (ctx code seg ent : Nat) : Bool :=
  match s.segs.find? fun e => e.2.ctx == ctx && e.2.code == code && e.2.seg == seg && !e.2.stale with
  | some c => decide (ent < bits ((c.2.lines.getD 0 0).toNat) 50 45)
  | none => match s.codeEnt ctx code with
    | none => false
    | some e => match s.segRow ctx e seg with
      | .error _ => true
      | .ok (_, none) => false
      | .ok (_, some t) => match s.codeRead ctx (codeBidx e) (codeHdr e + bits t 31 0) 64 with
        | .ok l => decide (ent < bits l 50 45)
        | .error _ => true

/-- R11: a continuation word a program may use. -/
def State.contOk (s : State) (ctx code : Nat) (w : Word) : Bool :=
  let n := w.toNat
  decide (n ≠ 0 ∧ n % 16 = 0) && s.entOk ctx code (bits n 31 12) (bits n 11 4)

/-- What a delivery reads of a code object under its bounds entry, as far as the reads before tell: addresses and bytes (R344). -/
def State.codeReads (s : State) (ctx code seg : Nat) : List (Nat × Nat) :=
  match s.codeEnt ctx code with
  | none => []
  | some e =>
    let hd := codeHdr e
    (hd, 64) :: (match s.codeRead ctx (codeBidx e) hd 64 with
    | .error _ => []
    | .ok h =>
      let row := hd + bits h 95 64 + 16 * (seg - 1)
      (row, 16) :: (match s.codeRead ctx (codeBidx e) row 16 with
      | .error _ => []
      | .ok t =>
        let img := hd + bits t 31 0
        let n := match s.codeRead ctx (codeBidx e) img 64 with
          | .ok l => bits l 27 20
          | .error _ => 0
        let site (i : Nat) : Nat := hd + bits h 223 192 + 8 * (bits t 95 64 + i)
        (List.range (n + 1)).map (fun i => (img + 64 * i, 64)) ++ (List.range (bits t 111 96)).flatMap fun i => (site i, 8) ::
          (match s.codeRead ctx (codeBidx e) (site i) 8 with
          | .ok x => [(hd + bits h 159 128 + 8 * bits x 47 32, 8)]
          | .error _ => [])))

/-- First host page of a code object whose translation a delivery waits for (R324). -/
def State.codeWait (s : State) (ctx code seg : Nat) : Option Nat :=
  ((s.codeReads ctx code seg).find? fun r => s.xlatDev ctx r.1 false == .ats).map (·.1)

/-- A delivery would read a poisoned granule, of the code or of a table (R408). -/
def State.codePoison (s : State) (ctx code seg : Nat) : Bool :=
  s.poisoned ⟨bits (s.ctxReg ctx 0x00).toNat 39 12 * 2 ^ 12 + 16 * code, false⟩ 16 ||
  (match s.codeEnt ctx code with
    | some e => s.bentPoison ctx (codeBidx e)
    | none => false) ||
  (s.codeReads ctx code seg).any fun r => match s.xlatDev ctx r.1 false with
    | .poison => true
    | .ok leaf size => s.poisoned (leafPlace leaf size r.1) r.2
    | _ => false

/-- The fresh resident copy of a segment on a core. -/
def State.copyOf (s : State) (core ctx code seg : Nat) : Option (Nat × SegCopy) :=
  s.segs.find? fun e => e.2.core == core && e.2.ctx == ctx && e.2.code == code && e.2.seg == seg && !e.2.stale

/-- The copy a floe is positioned in; when it was evicted while the floe waited, a fresh one (R347). -/
def State.floeCopy (s : State) (k : Nat) (f : Floe) : Option SegCopy :=
  match look s.segs f.copy with
  | some c => some c
  | none =>
    let g := s.grid (s.block (f.bkey k)).grid
    (s.copyOf (coreOfFloe k) g.ctx g.code f.segid).map (·.2)

/-- Header fields (R58). -/
def hdrOf (c : SegCopy) : Nat := (c.lines.getD 0 0).toNat
def hdrRegs (h : Nat) : Nat := bits h 35 28
def hdrKregs (h : Nat) : Nat := bits h 42 36
def hdrQuad (h : Nat) : Bool := bits h 43 43 == 1
/-- Line and slot of entry `e`. -/
def hdrEntry (h e : Nat) : Nat × Nat := (bits h (96 + 12 * e + 11) (96 + 12 * e + 4), bits h (96 + 12 * e + 3) (96 + 12 * e + 1))
def lineOcc (l : BitVec 512) : Nat := bits l.toNat (480 + 14) (480 + 12)
/-- PAIR bit of a slot (R47, R61). -/
def linePair (l : BitVec 512) (i : Nat) : Bool := decide (i ≤ 3) && bitOf (bits l.toNat (480 + 18) (480 + 15)) i
def lineSlot (l : BitVec 512) (n : Nat) : BitVec 96 := BitVec.ofNat 96 (l.toNat / 2 ^ (96 * n))

end Sys2Proof.Machine
end

