-- ==== Sys2Proof/Machine/Race.lean ====
section
/-! DEFINITION. Scopes, sync records, knowledge tables and the race detector (R272 to R291). -/

namespace Sys2Proof.Machine

/-- An agent that accesses memory (R272, R289): identity of R286, START, knowledge, FOLD, block, marks, region recorded. -/
structure Agent where
  ident : Nat
  eng : Bool
  /-- Identity of the floe, or of the floe that issued the operation. -/
  own : Nat
  start : Nat
  know : List (Nat × Nat)
  fold : Bool
  block : Nat
  region : Nat
  mark : Mark
  who : Who := {}
deriving DecidableEq, Repr, Inhabited

/-- Identity of a floe slot (R286): bits 18:1 of the race word. -/
def identFloe (k : Nat) : Nat :=
  let core := coreOfFloe k
  dieOf core * 2 ^ 15 + core % 128 * 2 ^ 8 + k / 32 % 4 * 2 ^ 5 + k % 32
/-- Identity of an engine operation (R285): copy engine 0, matrix engine 1; its entry. -/
def identEng (core : Nat) (mma : Bool) (entry : Nat) : Nat :=
  dieOf core * 2 ^ 15 + core % 128 * 2 ^ 8 + 2 ^ 7 + (if mma then 2 ^ 5 else 0) + entry % 32

def regionMax : Nat := 2 ^ 48 - 1
def State.region (s : State) (fk : Nat) : Nat := lookD 0 s.regions fk
def State.addRfold (s : State) (core n : Nat) : State :=
  if n = 0 then s else { s with rfold := put s.rfold core (min (lookD 0 s.rfold core + n) (2 ^ 32 - 1)) }
/-- The region counter rises by 1; reaching the end counts one fold, once (R286). -/
def State.bumpRegion (s : State) (fk : Nat) : State :=
  let r := s.region fk
  if regionMax ≤ r then s
  else
    let s := { s with regions := put s.regions fk (r + 1) }
    if r + 1 = regionMax then s.addRfold (coreOfFloe fk) 1 else s

/-- A floe of a block is launched into a floe slot: its START names the block until it ends (R286, R288). -/
def State.markStart (s : State) (fk bk : Nat) : State :=
  { s with starts := put s.starts (2 ^ 48 * fk + s.region fk) (s.block bk).uid }

/-- Uid of the block whose floe a floe slot held in a region. -/
def State.regionUid (s : State) (fk region : Nat) : Option Nat :=
  (((slice s.starts (2 ^ 48 * fk) (2 ^ 48 * fk + region + 1)).getLast?).map (·.2))

/-! ## Scopes (R272) -/

/-- A block as scopes see it. -/
def State.who (s : State) (bk : Nat) : Who := ⟨bk, (s.block bk).grid, (s.block bk).index, (s.block bk).drift⟩

/-- Whether the scope taken from block `a` includes an agent of block `b`; a block placed again is the same block. -/
def includes (sc : Scope) (a b : Who) : Bool :=
  match sc with
  | .blk => a.grid == b.grid && a.index == b.index
  | .drf => a.grid == b.grid && a.drift == b.drift
  | .die => a.block / 4096 == b.block / 4096
  | .dev | .sys => true

def scopeCode : Scope → Nat
  | .blk => 0 | .drf => 1 | .die => 2 | .dev => 3 | .sys => 4
def scopeOf : Nat → Scope
  | 0 => .blk | 1 => .drf | 2 => .die | 3 => .dev | _ => .sys

/-! ## Knowledge (R287) -/

/-- Merge one entry: the larger region is kept; a new identity goes last. An entry whose region rises keeps its age (DESIGN CHOICE: R287
does not say which entry is then the oldest, log 52). -/
def mergeOne (t : List (Nat × Nat)) (e : Nat × Nat) : List (Nat × Nat) :=
  if t.any (·.1 == e.1) then t.map fun x => if x.1 = e.1 then (x.1, max x.2 e.2) else x else t ++ [e]

/-- A floe with a record's identities in its table: past 16 the oldest go, FOLD is set, and how many went is counted. -/
def Floe.learn (f : Floe) (es : List (Nat × Nat)) (fold : Bool) : Floe × Nat :=
  let t := es.foldl mergeOne f.know
  let n := t.length - 16
  ({ f with know := t.drop n, fold := f.fold || fold || decide (0 < n) }, n)

/-- Merge a record's identities into a floe's table. -/
def State.mergeInto (s : State) (fk : Nat) (es : List (Nat × Nat)) (fold : Bool) : State :=
  match s.floe? fk with
  | none => s
  | some f =>
    let r := f.learn es fold
    (s.setFloe fk r.1).addRfold (coreOfFloe fk) r.2

/-- An acquire merges a record, or folds when the record was reused (R287). -/
def State.mergeRec (s : State) (fk : Nat) (r : Nat) : State :=
  match look s.recs r with
  | some x => s.mergeInto fk (mergeOne x.know (x.ident, x.region)) x.fold
  | none => (s.modFloe fk fun f => { f with fold := true }).addRfold (coreOfFloe fk) 1

/-- Merge records into a floe that is not in its slot: the floe, and the folds to count. -/
def mergeAway (recs : Tab SyncRec) (f : Floe) (rs : List Nat) : Floe × Nat :=
  rs.foldl (fun (a : Floe × Nat) r => match look recs r with
    | some x =>
      let r := a.1.learn (mergeOne x.know (x.ident, x.region)) x.fold
      (r.1, a.2 + r.2)
    | none => ({ a.1 with fold := true }, a.2 + 1)) (f, 0)

def State.mergeRecs (s : State) (fk : Nat) (rs : List Nat) : State := rs.foldl (fun s r => s.mergeRec fk r) s

/-- Records of one die's store (R287). -/
def recStore : Nat := 262144

/-- Store a sync record in a die's store, reusing the oldest place: its serial and the state. -/
def State.storeRec (s : State) (die : Nat) (x : SyncRec) : Nat × State :=
  let n := lookD 0 s.recNext die
  let id := 2 ^ 40 * die + n
  let old := if recStore ≤ n then del s.recs (id - recStore) else s.recs
  (id, { s with recs := put old id x, recNext := put s.recNext die (n + 1) })

/-- R287: a floe publishes its record, and its region counter rises (R286). -/
def State.publish (s : State) (fk : Nat) : Nat × State :=
  match s.floe? fk with
  | none => (0, s)
  | some f =>
    let r := s.storeRec (dieOf (coreOfFloe fk)) ⟨identFloe fk, s.region fk, f.know, f.fold⟩
    (r.1, r.2.bumpRegion fk)

def State.agentOf (s : State) (fk : Nat) (f : Floe) (m : Mark) : Agent :=
  ⟨identFloe fk, false, identFloe fk, f.start, f.know, f.fold, f.bkey fk, s.region fk, m, s.who (f.bkey fk)⟩

/-! ## Race words (R285, R286, R289) -/

/-- Where a granule's race word lies: a scratchpad granule, or a watched global granule of a context (R329). -/
inductive RLoc where
  | pad (l : Space) (a : Nat)
  | glob (ctx va : Nat)
deriving DecidableEq, Repr, Inhabited

/-- VA of the shadow of a watched granule (R329). -/
def shadowVa (va : Nat) : Nat := 2 ^ 47 + va / 32 * 16

def State.raceWord (s : State) : RLoc → Nat
  | .pad l a => (lookD 0 s.race (raceKey l a)).toNat
  | .glob ctx va => (s.devRead ctx (shadowVa va) 16).getD 0

/-- Key of a granule in the table of writers' blocks. -/
def whoKey : RLoc → Nat
  | .pad l a => raceKey l a
  | .glob ctx va => 2 ^ 60 + 2 ^ 48 * ctx + va / 32

def State.setRaceWord (s : State) (r : RLoc) (v : Nat) : State :=
  match r with
  | .pad l a => { s with race := putD 0 s.race (raceKey l a) (BitVec.ofNat 128 v) }
  | .glob ctx va => s.devWrite ctx (shadowVa va) (leBytes v 16)

/-- The bytes of granule `g` that `[a, a + n)` touches, as a 32-bit mask. -/
def granMask (g a n : Nat) : Nat :=
  let lo := max a (32 * g) - 32 * g
  let hi := min (a + n) (32 * g + 32) - 32 * g
  if lo < hi then (2 ^ (hi - lo) - 1) * 2 ^ lo else 0

/-- R289: whether an access with byte mask `m` passes against a race word. -/
def State.racePass (s : State) (ag : Agent) (r : RLoc) (w m : Nat) : Bool :=
  let ident := bits w 18 1
  let region := bits w 95 48
  let eng := bits w 8 8 == 1
  let core := coreKey (bits w 18 16) (bits w 15 9)
  let wblk := blockKey core (bits w 23 19)
  decide (bits w 47 47 = 0) || (bits w 127 96 &&& m) == 0 ||
  (ident == ag.own && decide (ag.start ≤ region)) ||
  (ag.eng && ident == ag.ident && region == ag.region) ||
  (ag.know.any fun e => e.1 == ident && decide (region ≤ e.2)) ||
  (!eng && wblk == ag.block && decide (region < lookD 0 (s.block ag.block).floor (bits w 7 1))) ||
  (bits w 46 46 == 1 && ag.mark.marked && includes (scopeOf (bits w 45 43)) (lookD {} s.raceBy (whoKey r)) ag.who &&
    includes ag.mark.scope ag.who (lookD {} s.raceBy (whoKey r))) ||
  (ag.fold && !(ag.know.any (·.1 == ident)))

/-- A race word records the writer itself: a further write adds its bytes (R286). -/
def raceSame (ag : Agent) (w : Nat) : Bool := decide (bits w 47 47 = 1) && bits w 18 1 == ag.ident && bits w 95 48 == ag.region

/-- R286: the race word after a write. -/
def raceUpd (ag : Agent) (w m : Nat) : Nat :=
  let same := raceSame ag w
  let who := if same then bits w 46 43 * 2 ^ 43 + bits w 23 19 * 2 ^ 19
    else (if ag.mark.marked then 2 ^ 46 + scopeCode ag.mark.scope * 2 ^ 43 else 0) + ag.block % 32 * 2 ^ 19
  let bytes := if same then bits w 127 96 ||| m else m
  let sync : Bool × Nat :=
    if ag.mark.rel then (true, (ag.mark.srec.getD 0) % recStore)
    else if ag.mark.keep then (bits w 42 42 == 1, bits w 41 24) else (false, 0)
  bytes * 2 ^ 96 + ag.region % 2 ^ 48 * 2 ^ 48 + 2 ^ 47 + who + (if sync.1 then 2 ^ 42 else 0) + sync.2 * 2 ^ 24 + ag.ident * 2

/-- Granules a range touches. -/
def gransOf (a n : Nat) : List Nat := if n = 0 then [] else (List.range ((a + n - 1) / 32 - a / 32 + 1)).map (a / 32 + ·)

def rlocAt (r : RLoc) (g : Nat) : RLoc :=
  match r with
  | .pad l _ => .pad l (32 * g)
  | .glob c _ => .glob c (32 * g)

def rlocAddr : RLoc → Nat
  | .pad _ a => a
  | .glob _ va => va

/-- R289 over a byte range. -/
def State.raceOk (s : State) (ag : Agent) (r : RLoc) (n : Nat) : Bool :=
  (gransOf (rlocAddr r) n).all fun g => s.racePass ag (rlocAt r g) (s.raceWord (rlocAt r g)) (granMask g (rlocAddr r) n)

/-- R286 over a byte range. -/
def State.raceWrite (s : State) (ag : Agent) (r : RLoc) (n : Nat) : State :=
  (gransOf (rlocAddr r) n).foldl
    (fun s g =>
      let s := if ag.mark.marked ∧ !raceSame ag (s.raceWord (rlocAt r g)) then { s with raceBy := put s.raceBy (whoKey (rlocAt r g)) ag.who } else s
      s.setRaceWord (rlocAt r g) (raceUpd ag (s.raceWord (rlocAt r g)) (granMask g (rlocAddr r) n))) s

/-! ## Which release a read synchronises with (R274) -/

/-- Key of a byte of a level or of global memory. -/
def syncKey (l : Space) (sys : Bool) (a : Nat) : Nat := 2 ^ 60 * lvlCode l + (if sys then 2 ^ 58 else 0) + a

/-- The bytes of a range. -/
def bytesOf (a n : Nat) : List Nat := (List.range n).map (a + ·)

/-- The releases that a write carries: its own, and its thread's release fences (R274). -/
def Mark.releases (m : Mark) (w : Who) : List SyncMark :=
  m.srec.toList.map (fun r => ⟨r, m.scope, w⟩) ++ m.fence.map fun e => ⟨e.1, e.2, w⟩

/-- A write leaves the releases it carries; an atomic keeps those present beside its own (R274); any other write clears them. -/
def State.syncWrite (s : State) (l : Space) (sys : Bool) (a n : Nat) (m : Mark) (w : Who) : State :=
  let xs := m.releases w
  if xs = [] ∧ (m.keep ∨ s.syncs = []) then s
  else { s with syncs := (bytesOf a n).foldl (fun t u =>
    putD [] t (syncKey l sys u) (if m.keep then lookD [] t (syncKey l sys u) ++ xs else xs)) s.syncs }

/-- The releases that a read of a block meets and whose scope includes it. -/
def State.syncRead (s : State) (l : Space) (sys : Bool) (a n : Nat) (w : Who) : List SyncMark :=
  if s.syncs = [] then [] else
  (((bytesOf a n).flatMap fun u => lookD [] s.syncs (syncKey l sys u)).filter fun x => includes x.scope x.who w).dedup

def addSeen (l : List SyncMark) (xs : List SyncMark) : List SyncMark := xs.foldl (fun l x => if l.contains x then l else l ++ [x]) l

/-- A read by a lane of a floe: an acquire merges the records of the releases within its scope; its thread remembers the others for a
later acquire fence (R274). -/
def State.readSync (s : State) (fk : Nat) (f : Floe) (lane : Nat) (l : Space) (sys : Bool) (a n : Nat) (acq : Option Scope) : State :=
  let me := s.who (f.bkey fk)
  let rs := s.syncRead l sys a n me
  if rs = [] then s else
  let now (x : SyncMark) : Bool := match acq with
    | some sc => includes sc me x.who
    | none => false
  let s := s.mergeRecs fk ((rs.filter now).map (·.srec)).dedup
  match rs.filter (fun x => !now x), f.tkey fk lane with
  | [], _ => s
  | xs, some t => s.modThread t fun th => { th with seen := addSeen th.seen xs }
  | _, none => s

/-- A store to chunks of open maps sets their D bits (R234). -/
def State.setDirty (s : State) (l : Space) (pa n : Nat) : State :=
  if s.maps = [] then s else
  ((List.range (n / 256 + 2)).map fun i => (pa / 256 + i) * 256).foldl (fun s ch =>
    if ch < pa + n ∧ (s.mapAt l ch).isSome then s.setTrack l ch (lookD 0 s.track (trackKey l ch) % 2 + 2) else s) s

/-- A thread's write of a level: the bytes, the chunk's D bit, the race word, the release it carries. -/
def State.writePad (s : State) (ag : Agent) (l : Space) (pa : Nat) (bs : List Byte) : State :=
  let s := s.writeLvl l pa bs
  let s := s.setDirty l pa bs.length
  (s.raceWrite ag (.pad l pa) bs.length).syncWrite l false pa bs.length ag.mark ag.who

end Sys2Proof.Machine
end

