-- ==== Sys2Proof/Machine/Ops.lean ====
section
/-! DEFINITION. The named operations that the meanings share: trace records, bins, barrier phases, store-log commits, pending
results, loans, stops, the end of a block, taking an exception and returning from one, page faults. -/

namespace Sys2Proof.Machine

/-! ## Trace records (R360, R362) -/

/-- Write a 32-byte record to the trace ring of a context, if one is set. -/
def State.traceRec (s : State) (ctx : Nat) (r : Nat) : State :=
  let base := (s.ctxReg ctx 0x20).toNat
  let ts := bits base 3 0
  if bits base 39 12 = 0 ∨ 12 < ts then s
  else
    let size := 2 ^ (ts + 7)
    let put' := s.ctxReg ctx 0x28
    if size ≤ (put' - s.ctxReg ctx 0x30).toNat then s.setCtxReg ctx 0x38 (s.ctxReg ctx 0x38 + 1)
    else
      (s.writeN ⟨bits base 39 12 * 2 ^ 12 + 32 * (put'.toNat % size), false⟩ 32 r).setCtxReg ctx 0x28 (put' + 1)

/-- Fields of R360 for a floe's lanes. -/
def State.traceBits (s : State) (k : Nat) (f : Floe) (kind value coord : Nat) (lanes : List Nat) : Nat :=
  let core := coreOfFloe k
  let l := lanes.headD 0
  let ts := ((f.lanes.find? (·.1 == l)).map (·.2)).getD 0
  s.clock (dieOf core) % 2 ^ 64 * 2 ^ 192 + value % 2 ^ 64 * 2 ^ 128 + coord * 2 ^ 96 + (maskOf lanes).toNat * 2 ^ 64 +
    kind * 2 ^ 56 + (s.grid (s.block (f.bkey k)).grid).ctx * 2 ^ 46 + dieOf core * 2 ^ 43 + core % 128 * 2 ^ 36 +
    k / 32 % 4 * 2 ^ 34 + k % 32 * 2 ^ 29 + f.blkr * 2 ^ 24 + l * 2 ^ 19 + ts * 2 ^ 14

def State.traceFloe (s : State) (k : Nat) (f : Floe) (kind value coord : Nat) (lanes : List Nat) : State :=
  s.traceRec (s.grid (s.block (f.bkey k)).grid).ctx (s.traceBits k f kind value coord lanes)

/-! ## The replay log (R377, R378) -/

/-- R377: whether a context records (1) or replays (2). -/
def State.replMode (s : State) (ctx : Nat) : Nat :=
  if s.ctxReg ctx 0x40 = 0 then 0 else Config.replMode (s.ctxReg ctx 0x40)

def replPos (k blkr : Nat) : Nat :=
  dieOf (coreOfFloe k) * 2 ^ 45 + coreOfFloe k % 128 * 2 ^ 38 + k / 32 % 4 * 2 ^ 36 + k % 32 * 2 ^ 31 + blkr * 2 ^ 26

/-- An event record (R377). -/
def RRec.image (r : RRec) : Nat :=
  r.value.toNat * 2 ^ 192 + r.word.toNat * 2 ^ 160 + r.mask.toNat * 2 ^ 128 + r.seq % 2 ^ 64 * 2 ^ 64 + r.kind * 2 ^ 56 + r.pos
def RRec.ofImage (ctx die n : Nat) : RRec :=
  { ctx := ctx, kind := bits n 63 56, pos := bits n 47 26 * 2 ^ 26, seq := bits n 127 64, mask := BitVec.ofNat 32 (n / 2 ^ 128), word := BitVec.ofNat 32 (n / 2 ^ 160)
    value := BitVec.ofNat 64 (n / 2 ^ 192), die := some die }
/-- The die whose buffer holds a record. -/
def RRec.home (r : RRec) : Nat := r.die.getD (r.pos / 2 ^ 45)

/-- The issue entries of a list of floe slots that issued: runs of one slot, of at most 2,047 (R377). -/
def runsOf (ks : List Nat) : List (Nat × Nat) :=
  (ks.foldl (fun rs k => match rs with
    | (x, n) :: t => if x = k ∧ n < 2047 then (x, n + 1) :: t else (k, 1) :: rs
    | [] => [(k, 1)]) ([] : List (Nat × Nat))).reverse

/-- Issue entries of an issue slot, and event records of a die, in a context's log. -/
def State.replRuns (s : State) (ctx q : Nat) : List (Nat × Nat) :=
  runsOf ((s.rlog.filter fun r => r.ctx == ctx && r.kind == 0 && r.pos / 2 ^ 36 == q).map fun r => r.pos / 2 ^ 31 % 32)
def State.replEvents (s : State) (ctx die : Nat) : List RRec := s.rlog.filter fun r => r.ctx == ctx && r.kind != 0 && r.home == die

/-- Bytes of a die's buffer that a context's log takes. -/
def State.replUsed (s : State) (ctx die : Nat) : Nat :=
  32 * (s.replEvents ctx die).length + ((List.range 512).foldl (fun n i => n + 2 * (s.replRuns ctx (512 * die + i)).length) 0)

/-- Write a record that was appended, with an empty entry behind it. -/
def State.replStore (s : State) (r : RRec) : State :=
  let reg := s.ctxReg r.ctx 0x40
  if r.kind = 0 then
    let q := r.pos / 2 ^ 36
    let rs := s.replRuns r.ctx q
    let e := (rs.getLast?).getD (0, 0)
    (s.writeN ⟨Config.replIssueAt reg q (rs.length - 1), false⟩ 2 (e.1 * 2 ^ 11 + e.2)).writeN ⟨Config.replIssueAt reg q rs.length, false⟩ 2 0
  else
    let n := (s.replEvents r.ctx r.home).length
    (s.writeN ⟨Config.replEventAt reg r.home (n - 1), false⟩ 32 r.image).writeN ⟨Config.replEventAt reg r.home n, false⟩ 32 0

/-- R377: append a record to the log, and to its die's buffer, unless a buffer of the context has filled; an issue's clock is kept beside it. -/
def State.replLog (s : State) (r : RRec) : State :=
  if s.ctxReg r.ctx 0x40 = 0 then s
  else if s.replMode r.ctx ≠ 1 ∨ s.rlogFull.contains r.ctx then s
  else
    let s' := { s with rlog := s.rlog ++ [r] }
    if Config.replCapacity (s.ctxReg r.ctx 0x40) r.home < s'.replUsed r.ctx r.home then { s with rlogFull := r.ctx :: s.rlogFull }
    else
      let s' := if r.kind = 0 then { s' with rclocks := s'.rclocks ++ [(r.ctx, r.pos / 2 ^ 36, r.seq, s.clock (r.pos / 2 ^ 45))] } else s'
      s'.replStore r

/-- Read the issue entries of an issue slot, from the n-th on. -/
def State.readIssues (s : State) (reg : DWord) (ctx q : Nat) : Nat → Nat → Nat → List RRec
  | 0, _, _ => []
  | fuel + 1, n, seq =>
    let e := getN s.mem (Config.replIssueAt reg q n) 2
    if e % 2048 = 0 then []
    else (List.range (e % 2048)).map (fun i => { ctx := ctx, kind := 0, pos := q * 2 ^ 36 + e / 2048 % 32 * 2 ^ 31, seq := seq + i : RRec }) ++
      s.readIssues reg ctx q fuel (n + 1) (seq + e % 2048)
/-- Read the event records of a die, from the n-th on. -/
def State.readEvents (s : State) (reg : DWord) (ctx die : Nat) : Nat → Nat → List RRec
  | 0, _ => []
  | fuel + 1, n =>
    let v := getN s.mem (Config.replEventAt reg die n) 32
    if bits v 63 56 = 0 then [] else RRec.ofImage ctx die v :: s.readEvents reg ctx die fuel (n + 1)
/-- A context's log as its buffers hold it (R378). -/
def State.readLog (s : State) (ctx : Nat) : List RRec :=
  let reg := s.ctxReg ctx 0x40
  (List.range 8).flatMap fun d => s.readEvents reg ctx d (Config.replCapacity reg d) 0 ++
    (List.range 512).flatMap fun i => s.readIssues reg ctx (512 * d + i) (Config.replCapacity reg d) 0 0

/-- `%clock` as a floe reads it: in a replay, what it was at the same issue of the recorded run (R378). -/
def State.seenClock (s : State) (ctx k : Nat) : Nat :=
  let now := s.clock (dieOf (coreOfFloe k))
  if s.ctxReg ctx 0x40 = 0 then now
  else if s.replMode ctx ≠ 2 then now
  else
    let n := (lookD (default : Sched) s.sched (k / 32)).issues - (if ((s.floe? k).map (·.second)) = some 1 then 1 else 0)
    ((s.rclocks.find? fun c => c.1 == ctx && c.2.1 == k / 32 && c.2.2.1 == n).map (·.2.2.2)).getD now

/-- R378: the record that an event of a replay meets: the first not yet met of its kind, place, lane and word. -/
def State.replMeet (s : State) (r : RRec) : Option RRec :=
  s.rpend.find? fun x => x.ctx == r.ctx && x.kind == r.kind && x.pos == r.pos && x.mask == r.mask && x.word == r.word

/-- The issue entry that a floe's issue slot has reached in a replay. -/
def State.replEntry (s : State) (ctx k : Nat) : Option RRec :=
  let n := (lookD (default : Sched) s.sched (k / 32)).issues
  s.rlog.find? fun r => r.ctx == ctx && r.kind == 0 && r.pos / 2 ^ 36 == replPos k 0 / 2 ^ 36 && r.seq == n

/-- Replay drives an issue slot's picks by the issue entries. -/
def State.replTurn (s : State) (ctx k : Nat) : Bool :=
  s.replMode ctx != 2 || (match s.replEntry ctx k with
    | some r => r.pos / 2 ^ 31 % 32 == k % 32
    | none => true)

/-- Home combinations are held to the order of the kind 6 records of their home. -/
def State.replOrder (s : State) (r : RRec) : Bool :=
  s.replMode r.ctx != 2 || (match s.rpend.find? fun x => x.ctx == r.ctx && x.kind == 6 && x.home == r.home with
    | some x => x.pos == r.pos && x.mask == r.mask && x.word == r.word
    | none => true)

/-- A combination is logged, or its record is met. -/
def State.replCombine (s : State) (r : RRec) : State :=
  if s.replMode r.ctx = 2 then { s with rpend := match s.replMeet r with
    | some x => s.rpend.erase x
    | none => s.rpend } else s.replLog r

/-- The continuation record of a thread slot (R244). -/
def Thread.record (th : Thread) : Nat :=
  th.cont.toNat * 2 ^ 96 + th.wbase * 2 ^ 85 + th.blkr * 2 ^ 80 + th.tid * 2 ^ 70 + th.st * 2 ^ 68 + th.bin * 2 ^ 64 +
    th.parkt % 2 ^ 32 * 2 ^ 32 + (if th.ovf then 2 ^ 31 else 0) + (if th.strt then 2 ^ 30 else 0) + th.save * 2 ^ 16

/-! ## Bins (R245 to R247) -/

/-- Lowest free bin of an issue slot. -/
def State.freeBin (s : State) (islot : Nat) : Option Nat := (List.range 16).find? fun b => (look s.bins (16 * islot + b)).isNone

def State.bintOf (s : State) (core blkr : Nat) : Nat := (s.grid (s.block (blockKey core blkr)).grid).bint

/-- A thread opens a bin under its key (R246), or parks in overflow. -/
def State.openBin (s : State) (tk : Nat) : State :=
  let islot := islotOfThread tk
  let th := s.thread tk
  let now := s.clock (dieOf (islot / 4))
  match s.freeBin islot with
  | some b =>
    let t := s.bintOf (islot / 4) th.blkr
    let bin : Bin := ⟨th.blkr, th.cont, [(laneOfThread tk, tk % 32)], now, none, t⟩
    { s.setThread tk { th with st := 2, bin := b, ovf := false, parkt := now } with bins := put s.bins (16 * islot + b) bin }
  | none => s.setThread tk { th with st := 2, bin := 0, ovf := true, parkt := now }

/-- The clock at which a bin is ready: when it filled or collided, or when its timer has run (R246). -/
def Bin.readyAt (x : Bin) : Nat := x.ready.getD (x.opened + x.timer)
/-- Threads of its key still enter the bin: its timer runs, or with T 0 the cycle of its first entry lasts (R246). -/
def Bin.filling (x : Bin) (now : Nat) : Bool := x.ready.isNone && decide (now < x.opened + x.timer ∨ now = x.opened)

/-- A parked thread enters the bin of its key (R245); an occupied position makes the bin ready (R246). -/
def State.enterBin (s : State) (tk : Nat) : State :=
  let islot := islotOfThread tk
  let th := s.thread tk
  let lane := laneOfThread tk
  let now := s.clock (dieOf (islot / 4))
  match (List.range 16).find? fun b => match look s.bins (16 * islot + b) with
      | some x => x.blkr == th.blkr && x.cont == th.cont && x.filling now
      | none => false with
  | none => s.openBin tk
  | some b =>
    match look s.bins (16 * islot + b) with
    | none => s
    | some x =>
      if x.lanes.any (·.1 == lane) then
        ({ s with bins := put s.bins (16 * islot + b) { x with ready := some now } }).openBin tk
      else
        let ls := (x.lanes.filter (·.1 < lane)) ++ [(lane, tk % 32)] ++ (x.lanes.filter (lane < ·.1))
        let x := { x with lanes := ls, ready := if ls.length = 32 then some now else none }
        { s.setThread tk { th with st := 2, bin := b, ovf := false, parkt := now } with bins := put s.bins (16 * islot + b) x }

/-- The least of a list by a key; the first among equals. -/
def leastBy {α : Type} (key : α → Nat) (l : List α) : Option α :=
  l.foldl (fun b x => match b with
    | none => some x
    | some y => if key x < key y then some x else some y) none

/-- Threads of overflow that enter a freed bin: for each lane the oldest of the key (R247). -/
def oldestByLane (ts : List (Nat × Thread)) : List (Nat × Thread) :=
  (List.range 32).filterMap fun l => leastBy (fun (e : Nat × Thread) => e.2.parkt) (ts.filter fun e => laneOfThread e.1 == l)

/-- A freed bin opens for the oldest overflow key (R247). -/
def State.openOverflow (s : State) (q b : Nat) : State :=
  let ts := (slice s.threads (1024 * q) (1024 * q + 1024)).filter fun e => e.2.st == 2 && e.2.ovf
  match leastBy (fun (e : Nat × Thread) => e.2.parkt) ts with
  | none => s
  | some o =>
    let es := oldestByLane (ts.filter fun e => e.2.blkr == o.2.blkr && e.2.cont == o.2.cont)
    let now := s.clock (dieOf (q / 4))
    let t := s.bintOf (q / 4) o.2.blkr
    let lanes := es.map fun e => (laneOfThread e.1, e.1 % 32)
    let x : Bin := ⟨o.2.blkr, o.2.cont, lanes, now, if lanes.length = 32 then some now else none, t⟩
    es.foldl (fun s e => s.modThread e.1 fun th => { th with bin := b, ovf := false }) { s with bins := put s.bins (16 * q + b) x }

/-- Every free bin of an issue slot opens for overflow threads while there are any (R247). -/
def State.fillBins (s : State) (q : Nat) : State :=
  if (slice s.threads (1024 * q) (1024 * q + 1024)).any (fun e => e.2.st == 2 && e.2.ovf) then
    (List.range 16).foldl (fun s b => if (look s.bins (16 * q + b)).isNone then s.openOverflow q b else s) s
  else s

/-- The records of threads in spawn memory have been written (R244, R412). -/
def State.recordsWritten (s : State) (tks : List Nat) : State := tks.foldl (fun s t => s.takeInjection 6 (t / 4096) (16 * (t % 4096)) 16) s

/-- R143: a thread writes its continuation record and regroups. -/
def State.park (s : State) (tk : Nat) (cont : Word) (srec : Option Nat) : State :=
  ((s.modThread tk fun th => { th with cont := cont, srec := srec, resv := none }).recordsWritten [tk]).enterBin tk

/-! ## Pending results (R42, R61, R63, R64) -/

/-- A result is ready when no lane is awaited. -/
def Pend.ready (p : Pend) : Bool := p.need.isEmpty

def portNo (r : BitVec 8) : Nat := r.toNat - 248

/-- Address of element `n` of a lane of a stream. -/
def Stream.addr (st : Stream) (lane n : Nat) : Int :=
  ((st.lanes.find? (·.1 == lane)).map (·.2)).getD 0 + st.stride * n

/-- Records and scopes of the release fences of a lane's thread (R274). -/
def State.relOf (s : State) (k : Nat) (f : Floe) (lane : Nat) : List (Nat × Scope) := ((f.tkey k lane).map fun t => (s.thread t).rel).getD []

/-! ### Bank ports (R257, R260, R261) -/

/-- Bytes of a bank word, and banks, of a level (R257). -/
def bankBytes : Space → Nat
  | .unit => 4 | .clus => 16 | _ => 32
def bankCount : Space → Nat
  | .unit => 32 | .clus => 64 | _ => 256

/-- R261: consecutive banks that an access of `n` bytes from `pa` occupies. -/
def bankSpan (l : Space) (pa n : Nat) : Nat :=
  if n = 0 then 1 else min (bankCount l) ((pa + n - 1) / bankBytes l - pa / bankBytes l + 1)

/-- A token is at a bank; banks past the last go on from the first. -/
def Token.at (t : Token) (l : Space) (inst bank : Nat) (engine : Bool) : Bool :=
  t.level == l && t.inst == inst && t.engine == engine && decide ((bank + bankCount l - t.bank) % bankCount l < t.span)

/-- Banks that a token is at. -/
def Token.banks (t : Token) : List Nat := (List.range t.span).map fun i => (t.bank + i) % bankCount t.level

/-- A thread-port request (R260). -/
def threadToken (k fid lane : Nat) (l : Space) (pa n : Nat) (pend : Option Nat) : Token :=
  ⟨l, instOf l pa, bankOf l pa, bankSpan l pa n, false, k, fid, lane, pend, none⟩

/-- An engine-port request (R260). -/
def engineToken (l : Space) (pa n : Nat) (op : Option Nat) : Token := ⟨l, instOf l pa, bankOf l pa, bankSpan l pa n, true, 0, 0, 0, none, op⟩

/-- Enter one lane's request of `n` bytes at its banks. -/
def State.enterBank (s : State) (k fid lane : Nat) (l : Space) (pa n : Nat) (pend : Option Nat) : State :=
  { s with tokens := s.tokens ++ [threadToken k fid lane l pa n pend] }

/-- An engine operation enters a request of `n` bytes. -/
def State.enterEngine (s : State) (l : Space) (pa n : Nat) (op : Option Nat) : State := { s with tokens := s.tokens ++ [engineToken l pa n op] }

/-- A request of an engine operation has not been served. -/
def State.engineBusy (s : State) (op : Nat) : Bool := s.tokens.any (·.op == some op)

/-- A lane's port write of an instruction that has issued races: its floe takes the trap before it issues again (R284, R290, log 22). -/
def Floe.race (f : Floe) (lane addr : Nat) (w : Word) : Floe :=
  { f with raced := match f.raced with
      | some (ls, a, x) => some (if x = w then ls ++ [lane] else ls, a, x)
      | none => some ([lane], addr, w) }

/-- A port write of the instruction at a coordinate: the element goes to its scratchpad place, unless the write races as that place stands
now, or into the stream's log entry (R193, R284). -/
def State.pushPort (s : State) (k : Nat) (w : Word) (p : Nat) (lane : Nat) (v : Word) : State :=
  match s.floe? k with
  | none => s
  | some f =>
    match look f.ports p with
    | none => s
    | some st =>
      let n := lookD 0 st.pos lane
      let n' := st.ty.width / 8
      let a := st.addr lane n
      let f := { f with ports := put f.ports p { st with pos := put st.pos lane (n + 1) } }
      if st.space = .glob then
        let acc : LAcc := { lane := lane, va := wrap a 48, place := ⟨0, false⟩, n := n', data := v.toNat % 2 ^ (8 * n'), turn := 2 ^ 32 * s.steps + w.toNat }
        s.setFloe k { f with log := f.log.map fun e => match e with
          | .stream q hi w as => if q = p then .stream q hi w (as ++ [acc]) else e
          | e => e }
      else
        let pa := s.shareBase (f.bkey k) st.space + a.toNat
        let ag := s.agentOf k f { fence := s.relOf k f lane }
        if s.raceOk ag (.pad st.space pa) n' then
          ((s.setFloe k f).writePad ag st.space pa (leBytes v.toNat n')).enterBank k f.fid lane st.space pa n' none
        else s.setFloe k (f.race lane (wrap a 64) w)

def State.setUreg (s : State) (k : Nat) (r : Nat) (w : Word) : State :=
  s.modFloe k fun f => { f with uregs := putD 0 f.uregs r w }

/-- Write a result: registers or a queue port, a uniform register, predicates and flags of its lanes. -/
def State.writePend (s : State) (k : Nat) (f : Floe) (p : Pend) : State :=
  let s := p.vals.foldl (fun s e => match f.tkey k e.1 with
    | some t =>
      if 248 ≤ p.reg then s.pushPort k p.coord (p.reg - 248) e.1 (e.2.headD 0)
      else (e.2.zipIdx).foldl (fun s w => s.setVreg t (p.reg + w.2) w.1) s
    | none => s) s
  let s := match p.ureg with
    | some (r, v) => s.setUreg k r v
    | none => s
  let s := match p.pred with
    | some q => p.pvals.foldl (fun s e => match f.tkey k e.1 with
      | some t => s.setPred t q e.2
      | none => s) s
    | none => s
  p.flags.foldl (fun s e => match f.tkey k e.1 with
    | some t => s.orFlags t e.2
    | none => s) s

/-- Write every ready result whose window has ended, in order. -/
def State.settle (s : State) (k : Nat) : State :=
  match s.floe? k with
  | none => s
  | some f =>
    let done := f.pend.filter fun p => p.ready && p.left == 0
    if done = [] then s else
    (done.foldl (fun s p => s.writePend k f p) s).modFloe k fun f => { f with pend := f.pend.filter fun p => !(p.ready && p.left == 0) }

/-- End every window (R310 step 1). -/
def State.endWindows (s : State) (k : Nat) : State :=
  (s.modFloe k fun f => { f with pend := f.pend.map fun p => { p with left := 0 } }).settle k

/-! ## Store log and commits (R180 to R182, R264) -/

/-- A request that the accesses of a floe come after: its own, and one that a thread of it follows in floe order and program order,
whichever floe the thread was in then (R273, R275). -/
def Req.ofFloe (r : Req) (k : Nat) (f : Floe) : Bool := r.fid == f.fid || r.order.any (f.tkeys k).contains

/-- Threads go on together in one floe: what comes before one of them comes before all (R275). -/
def Req.orderWith (ts : List Nat) (r : Req) : Req := if r.order.any ts.contains then { r with order := r.order ++ ts.filter fun t => !r.order.contains t } else r
def State.orderWith (s : State) (ts : List Nat) : State :=
  if s.net = [] then s else { s with net := s.net.map fun e => (e.1, e.2.orderWith ts) }

/-- Writes of a floe and its threads handed to the network and not yet acknowledged. -/
def State.writesOut (s : State) (k : Nat) (f : Floe) : Bool :=
  s.net.any fun e => e.2.ofFloe k f && (match e.2.kind with
    | .load | .lr | .ldtag | .bank _ => false
    | .atom _ _ ret => !ret || e.2.performed
    | _ => true)

/-- A request that writes. -/
def Req.isWrite (r : Req) : Bool :=
  match r.kind with
  | .load | .lr | .ldtag | .bank _ => false
  | _ => true

/-- Loads and returning atomics of a floe that have not returned (R276). -/
def Floe.loadsOut (f : Floe) : Bool := f.pend.any fun p => p.load && !p.ready

def State.addReq (s : State) (r : Req) : State :=
  let n := s.newId
  { n.2 with net := put n.2.net n.1 r }

/-- A request template of a lane of a floe. -/
def State.reqOf (s : State) (k : Nat) (f : Floe) (lane : Nat) (m : Mark) : Req :=
  let bk := f.bkey k
  let b := s.block bk
  { floe := k, fid := f.fid, thread := f.tkey k lane, order := f.tkeys k, block := bk, uid := b.uid, grid := b.grid, ctx := (s.grid b.grid).ctx, lane := lane, kind := .store,
    va := 0, place := ⟨0, false⟩, n := 0, mark := m, region := s.region k, coord := f.coord, who := s.who bk }

/-- R320: one access in 4,096 from another die to a page with the migration hint is recorded in the ring of the home's die. `mig` is the
base of the page. -/
def State.migTouch (s : State) (core ctx : Nat) (mig : Option Nat) (p : Place) : State :=
  match mig with
  | none => s
  | some base =>
    let die := s.homeDie p.pa
    let from' := dieOf core
    if p.sys ∨ die = from' then s
    else
      let key := 2 ^ 48 * ctx + base
      let n := lookD 0 s.migs key + 1
      let s := { s with migs := put s.migs key n }
      if n % 4096 ≠ 0 then s
      else
        let b := (s.dieReg die 0x18).toNat
        let put' := (s.dieReg die 0x20).toNat
        let size := 2 ^ (bits b 3 0 + 8)
        if bits b 39 12 = 0 ∨ size ≤ wrap ((put' : Int) - (s.dieReg die 0x28).toNat) 64 then s
        else
          let v := base + ctx * 2 ^ 48 + from' * 2 ^ 56 + s.clock die % 2 ^ 64 * 2 ^ 64
          (s.writeN ⟨bits b 39 12 * 2 ^ 12 + 16 * (put' % size), false⟩ 16 v).setDieReg die 0x20 (BitVec.ofNat 64 (put' + 1))

/-- Pages of a byte range that do not translate for a write. -/
def State.badPage (s : State) (core ctx va n : Nat) (write : Bool) : Option (Nat × XRes) :=
  let first := va
  let pages := first :: ((List.range (n / 65536 + 1)).map fun i => (va / 65536 + 1 + i) * 65536).filter (fun a => decide (a < va + n))
  pages.findSome? fun a => match s.xlat core ctx a write with
    | .ok _ _ => none
    | r => some (a, r)

/-- Word `w` of a bank run on a core: what was written, 0 when another context held the bank last, else a free value (R211, R266). -/
def State.accWord (s : State) (core first w : Nat) : Word :=
  match look s.accs (65536 * core + 512 * first + w) with
  | some v => v
  | none =>
    let m := lookD 0 s.bankCtx (128 * core + first + w / 512)
    if m % 2 = 1 then 0 else Config.freeWord (2 ^ 64 + m / 4 * 65536 + 512 * first + w)

/-- An imprecise fault of a block, to be taken under its trap policy (R307). -/
def State.addDue (s : State) (bk code addr coord : Nat) : State :=
  match s.block? bk with
  | some b => { s with due := s.due ++ [{ block := bk, uid := b.uid, code := code, addr := addr, coord := coord }] }
  | none => s

/-- An imprecise fault of the block that issued an operation, unless one of its code is already due (R302). -/
def State.addDueOnce (s : State) (bk uid code coord : Nat) : State :=
  if (s.block bk).uid ≠ uid ∨ s.due.any fun d => d.block == bk && d.uid == uid && d.code == code then s else s.addDue bk code 0 coord

/-- The context of a device-side alias that a device address lies in (R302). -/
def State.aliasOf (s : State) (p : Place) : Option Nat := if p.sys then none else look s.aliases (p.pa / 4096)

/-- The translation of the shadow of a watched granule, as a write; a shadow leaf that is watched itself is malformed (R329). -/
def State.shadow (s : State) (core ctx va : Nat) : XRes :=
  match s.xlat core ctx (shadowVa va) true with
  | .ok leaf size => if leafWatch leaf then .malformed else .ok leaf size
  | r => r

/-- The requests of one instruction, one a lane (R271). -/
def addReqs (rs : List Req) (s : State) : State :=
  let g := s.nextId
  rs.foldl (fun s r => s.addReq { r with group := g }) s

/-- One element of a deferred entry (R231, R290, R329, R336). -/
structure Elem where
  lane : Nat
  va : Nat
  n : Nat
  data : Nat
  turn : Nat := 0
deriving DecidableEq, Repr, Inhabited

/-- What an element of a deferred entry comes to: its request, a fault of its page or of its shadow's, or an imprecise fault (log 15). -/
inductive ElemRes where
  | go (r : Req)
  | fault (va : Nat) (x : XRes)
  | bad (code addr : Nat)
deriving Repr

/-- Translate and check an element. `hi` is the pointer's tag and bounds index. -/
def State.element (s : State) (k : Nat) (f : Floe) (hi : Nat) (coord : Word) (e : Elem) : ElemRes :=
  let core := coreOfFloe k
  let ctx := (s.grid (s.block (f.bkey k)).grid).ctx
  match s.xlat core ctx e.va true with
  | .ok leaf size =>
    let m : Mark := { fence := s.relOf k f e.lane }
    let pl := leafPlace leaf size e.va
    if leafTage leaf && bentTce (s.bent ctx (hi % 4096)) && decide ((lookD 0 s.tags (pl.pa / 32)).toNat ≠ hi / 4096 % 16) then
      .bad 0x8004 (e.va / 32 * 32)
    else
      let req : Req := { s.reqOf k f e.lane m with
        va := e.va, place := pl, n := e.n, data := e.data, coord := coord, mig := leafMig leaf size e.va
        watched := leafWatch leaf, start := f.start, know := f.know, fold := f.fold }
      if leafWatch leaf then
        match s.shadow core ctx e.va with
        | .ok _ _ => if s.raceOk (s.agentOf k f m) (.glob ctx e.va) e.n then .go req else .bad 0x8005 0
        | r => .fault (shadowVa e.va) r
      else .go req
  | r => .fault e.va r

/-- The elements of a deferred entry in order, each handed on as its checks pass: how many were, the state, and the fault that the next
one meets (R336). An element that fails a check cancels the rest of the entry with an imprecise fault. Those of one instruction (`turn`)
share the serial `g`: in one granule they travel as one (R271). -/
def State.handElems (k : Nat) (f : Floe) (hi : Nat) (coord : Word) (g turn : Nat) : List Elem → Nat → State → Nat × State × Option (Nat × XRes)
  | [], n, s => (n, s, none)
  | e :: es, n, s =>
    match s.element k f hi coord e with
    | .go r =>
      let g := if e.turn = turn then g else s.nextId
      handElems k f hi coord g e.turn es (n + 1) (s.addReq { r with group := g })
    | .fault va x => (n, s, some (va, x))
    | .bad code addr => (n + 1 + es.length, s.addDue (f.bkey k) code addr coord.toNat, none)

/-- Hand one entry to the network (R181, R215, R226, R235): the state, what is left of the entry, and the address that does not translate.
The completion of a write-back is a release (R274): its writes are in the floe's region as it begins, which ends there (R286). -/
def State.handEntry (s : State) (k : Nat) (f : Floe) : LogEnt → State × Option (LogEnt × Nat × XRes)
  | .store accs => (addReqs (accs.map fun a => { s.reqOf k f a.lane { fence := s.relOf k f a.lane } with
      va := a.va, place := a.place, n := a.n, data := a.data, watched := a.watched, mig := a.mig
      start := f.start, know := f.know, fold := f.fold }) s, none)
  | .red accs op ty => (addReqs (accs.map fun a => { s.reqOf k f a.lane { marked := true, scope := .sys, keep := true, fence := s.relOf k f a.lane } with
      va := a.va, place := a.place, n := a.n, data := a.data, kind := .atom op ty false, watched := a.watched, mig := a.mig
      start := f.start, know := f.know, fold := f.fold }) s, none)
  | .stream p hi w accs =>
    let r := State.handElems k f hi w s.nextId 0 (accs.map fun a => ⟨a.lane, a.va, a.n, a.data, a.turn⟩) 0 s
    (r.2.1, r.2.2.map fun x => (.stream p hi w (accs.drop r.1), x))
  | .copy id => ({ s with copies := match look s.copies id with
      | some c => put s.copies id { c with begun := true, after := s.nextId }
      | none => s.copies }, none)
  | .wback id => ({ s with wbs := match look s.wbs id with
      | some c => put s.wbs id { c with begun := true, region := s.region k }
      | none => s.wbs }.bumpRegion k, none)
  | .accst core first cnt n ctx ptr va w next =>
    let es := ((List.range (n / 4)).drop next).map fun i => ⟨0, va + 4 * i, 4, (s.accWord core first i).toNat, 0⟩
    let r := State.handElems k f (ptr / 2 ^ 48) w s.nextId 0 es 0 s
    (r.2.1, r.2.2.map fun x => (.accst core first cnt n ctx ptr va w (next + r.1), x))

/-- Coordinate of the instruction that logged an entry (R441). -/
def LogEnt.coordOr (e : LogEnt) (w : Word) : Word :=
  match e with
  | .accst _ _ _ _ _ _ _ w _ => w
  | .stream _ _ w _ => w
  | _ => w

/-- Hand the entries in order, until one cannot go on; what is left of the log. An entry whose walk is malformed is cancelled (R441). -/
def handAll (k : Nat) (f : Floe) : List LogEnt → State → State × List LogEnt × Option (Nat × XRes)
  | [], s => (s, [], none)
  | e :: es, s =>
    match s.handEntry k f e with
    | (s', none) => handAll k f es s'
    | (s', some (e', va, .malformed)) => handAll k f es (s'.addDue (f.bkey k) 0x8008 va (e'.coordOr f.coord).toNat)
    | (s', some (e', r)) => (s', e' :: es, some r)

/-- Entries that outlive a commit: those of the global store streams that are attached, for elements written later (R193). -/
def keptEntries (log left : List LogEnt) : List LogEnt :=
  log.filterMap fun e => match e with
    | .stream p hi w _ => if left.any (fun x => match x with | .stream q _ _ _ => q == p | _ => false) then none else some (.stream p hi w [])
    | _ => none

/-- A block begins a commit: it and its drift are committed (R181, R334, R403). -/
def State.beginCommit (s : State) (bk : Nat) : State :=
  if (s.block bk).committed then s
  else (s.modBlock bk fun b => { b with committed := true }).modGrid (s.block bk).grid fun x => { x with
    cdrifts := if x.cdrifts.contains (s.block bk).drift then x.cdrifts else (s.block bk).drift :: x.cdrifts }

/-- R181: a commit. The address that a deferred entry could not translate, if any (R336). -/
def State.commit (s : State) (k : Nat) : State × Option (Nat × XRes) :=
  match s.floe? k with
  | none => (s, none)
  | some f =>
    let s := s.beginCommit (f.bkey k)
    let r := handAll k f f.log s
    ((r.1.modFloe k fun x => { x with log := r.2.1 ++ keptEntries f.log r.2.1 }), r.2.2)

/-! ## Matrix loans (R206) -/

/-- Dimension of the operation's algebra (R201). -/
def Mma.dim (m : Mma) : Nat := if bits m.fw.toNat 12 10 = 0 then 1 else bits m.tab.toNat 7 0
/-- Element width of a format code in bits (R24, R201). -/
def fmtBits (c : Nat) : Nat := if c ≤ 1 then 16 else if c ≤ 6 then 8 else 4
/-- Registers of the B run in a holder thread (R202). -/
def bRun (pb fw dim : Nat) : Nat :=
  let kk := bits pb 23 16
  let n := 8 * bits pb 15 8
  let g := 2 ^ bits pb (8 * 40 + 1) (8 * 40)
  kk * (n / g * dim * fmtBits (bits fw 7 4) / 32)
def Mma.breg (m : Mma) : Nat := bits m.pb.toNat (8 * 40 + 15) (8 * 40 + 8)

/-- Lent register runs of a thread: first and count. A holder whose block has ended lends nothing (log 27). -/
def State.lentRuns (s : State) (t : Nat) : List (Nat × Nat) :=
  s.mmas.filterMap fun e => if e.2.holders.any (·.contains t) && !e.2.gone.contains t then some (e.2.breg, bRun e.2.pb.toNat e.2.fw.toNat e.2.dim) else none

/-- Lent bank runs of a core: on the issuing core until `mwait`, on a partner core until the completion reaches it; a requeued
participant's were freed with its block (R216). -/
def State.lentBanks (s : State) (core : Nat) : List (Nat × Nat) :=
  (s.mmas.flatMap fun e => e.2.parts.filterMap fun p =>
    if p.block / 32 = core ∧ (p.block = e.2.block ∨ !e.2.done) ∧ !(e.2.waiting && p.requeued) then some (p.first, p.cnt) else none) ++
  s.mcasts.filterMap fun m => if m.core = core ∧ (slice s.blocks (32 * core) (32 * core + 32)).any (·.2.uid == m.uid) then m.lent else none

def runsMeet (a b : Nat × Nat) : Bool := decide (a.1 < b.1 + b.2 ∧ b.1 < a.1 + a.2)

/-! ## Imprecise faults and stops -/

/-- Blocks of a grid that are resident. -/
def State.blocksOf (s : State) (g : Nat) : List Nat := (s.blocks.filter (·.2.grid == g)).map (·.1)

/-- Drop the reservations of a floe's threads (R189). -/
def State.dropResv (s : State) (k : Nat) : State :=
  match s.floe? k with
  | none => s
  | some f =>
    let s := (f.tkeys k).foldl (fun s t => if (s.thread t).resv.isSome then s.modThread t fun th => { th with resv := none } else s) s
    if f.hold.isSome then s.modFloe k fun f => { f with hold := none } else s

/-- The resident block of a block's drift with a `%drf` index. -/
def State.mate (s : State) (bk p : Nat) : Option Nat :=
  let b := s.block bk
  (s.blocks.find? fun e => e.2.grid == b.grid && e.2.drift == b.drift && e.2.drf == p).map (·.1)

/-- Floe slots of a block, and its floe saves. -/
def State.floesOf (s : State) (bk : Nat) : List Nat :=
  ((slice s.floes (128 * (bk / 32)) (128 * (bk / 32) + 128)).filter (·.2.blkr == bk % 32)).map (·.1)
def State.savesOf (s : State) (bk : Nat) : List Nat :=
  ((slice s.saves (256 * (bk / 32)) (256 * (bk / 32) + 256)).filter (·.2.blkr == bk % 32)).map (·.1)

/-- R217: every post-commit partner of a cancelled operation takes gang-cancel. -/
def State.gangCancel (s : State) (m : Mma) : State :=
  m.parts.foldl (fun s p =>
    if p.block ≠ m.block ∧ (s.block p.block).uid = p.uid ∧ (s.block p.block).committed ∧ (s.block? p.block).isSome then
      s.addDue p.block 0x8002 0 m.coord.toNat else s) s

/-- Free what an operation held for participants that ended (R442), and its arrays (R255). -/
def State.freeMma (s : State) (id : Nat) (m : Mma) : State :=
  let cores := (List.range 4).map fun i => coreKey m.die (4 * m.cluster + i)
  { s with
    allocs := s.allocs.filter fun a => a.2.orphan ≠ some id
    arrays := s.arrays.filter fun e => !(cores.contains e.1 && e.2 == id)
    reserved := s.reserved.filter fun e => !(cores.contains e.1 && e.2 == id)
    tasks := s.tasks.map fun t => { t with ops := t.ops.filter (· ≠ id) } }

/-- R216: cancel an operation with no retry: no bank is written, the loans end; with no reissue to come, partners take gang-cancel. -/
def State.cancelMma (s : State) (id : Nat) (gang : Bool) : State :=
  match look s.mmas id with
  | none => s
  | some m =>
    let s := s.freeMma id m
    let s := if gang then s.gangCancel m else s
    let s := { s with mmas := del s.mmas id }
    s.modFloe m.floe fun f => if f.fid = m.fid then { f with ops := f.ops.filter (· ≠ id) } else f

/-- R371 step 4: operations that await a fault's service or a requeued participant are cancelled by a stop; their loans last until the
floe's `mwait` (R206). -/
def State.cancelWaiting (s : State) (bk : Nat) : State :=
  (s.mmas.filter fun e => e.2.block == bk && e.2.waiting && !e.2.done).foldl (fun s e =>
    ({ s with mmas := put s.mmas e.1 { e.2 with done := true, waiting := false, pages := [] } }.freeMma e.1 e.2).gangCancel e.2) s

/-- R371: a stop of one block for a reason. -/
def State.stopBlk (s : State) (bk cause : Nat) : State :=
  let s := s.modBlock bk fun b => { b with
    stoppedAt := if b.stops = [] then s.clock (dieOf (bk / 32)) else b.stoppedAt
    stopClk := if b.stops.contains cause then b.stopClk else put b.stopClk cause (s.clock (dieOf (bk / 32)))
    stops := if b.stops.contains cause then b.stops else b.stops ++ [cause] }
  let s := (s.floesOf bk).foldl (fun s k => s.dropResv k) s
  if cause = 5 then s else s.cancelWaiting bk

/-- Set or clear bits of a block's stopper's DSTAT (R364). -/
def State.dstat (s : State) (core : Nat) (set clr : Word) : State :=
  s.setCsr core 0x302 ((s.csr core 0x302 &&& ~~~clr) ||| set)

/-- A halt that meets a step ends it, and the command, with STEPDONE clear (R365, R372). -/
def State.endStepByHalt (s : State) (bk : Nat) : State :=
  match (s.block bk).stepping with
  | none => s
  | some (core, _) => (((s.block bk).heldStops.foldl (fun s c => s.stopBlk bk c) s).modBlock bk fun b => {
      b with stepping := none, heldStops := [] }).dstat core 0 0x1

/-- Nothing is left that a stop of the block drains (R371 steps 3 and 4). A copy that still waits for a free slot of its buffer counts as
begun (R226), and is drained like any (DESIGN CHOICE, log 56). -/
def State.quiet (s : State) (bk : Nat) : Bool :=
  !(s.copies.any fun e => e.2.block == bk && e.2.uid == (s.block bk).uid && e.2.begun) &&
  !(s.wbs.any fun e => e.2.block == bk && e.2.begun) &&
  !(s.mmas.any fun e => e.2.block == bk && !e.2.done && !e.2.waiting)

/-- A stop or halt of a grid reaches one core: its blocks there stop (R371). -/
def State.stopOnCore (s : State) (g cause core : Nat) : State :=
  ((s.blocksOf g).filter (· / 32 == core)).foldl (fun s bk => (s.endStepByHalt bk).stopBlk bk cause) s

/-- A halt of a grid whose context is being preempted takes effect once the grid resumes (R312). -/
def State.haltWaits (s : State) (g cause : Nat) : Bool := s.preempting.contains (s.grid g).ctx && (cause == 2 || cause == 3)

/-- A stop or halt of a grid begins (R309, R317): at once on the core where it arose, by GRID_STOP on the others. -/
def State.stopGridAs (s : State) (g cause st : Nat) (core : Option Nat) : State :=
  let s := s.modGrid g fun x => { x with stopping := some (cause, st), cause := cause }
  if s.haltWaits g cause then s else
  match core with
  | some c => s.stopOnCore g cause c
  | none => s

/-- The grid is neither stopped nor on its way to a stop, and has not ended. -/
def State.runs (s : State) (g : Nat) : Bool :=
  (look s.grids g).isSome && decide ((s.grid g).state ≤ 1 ∨ (s.grid g).state = 6) && (s.grid g).stopping.isNone

/-- Steps of the blocks of a grid that is stopped already end by a halt (R372). -/
def State.endSteps (s : State) (g : Nat) : State := (s.blocksOf g).foldl (fun s bk => s.endStepByHalt bk) s

/-- The stop-grid policy (R309). -/
def State.stopGrid (s : State) (g : Nat) (core : Option Nat) : State := if s.runs g then s.stopGridAs g 4 3 core else s.endSteps g

/-- A halt: a grid already halted, stopped or ended takes no further effect (R317), but a step ends (R372). -/
def State.haltGrid (s : State) (g : Nat) (core : Option Nat) : State := if s.runs g then s.stopGridAs g 2 4 core else s.endSteps g

def State.haltContext (s : State) (ctx : Nat) (core : Option Nat) : State :=
  ((s.grids.filter fun e => e.2.ctx == ctx).map (·.1)).foldl (fun s g => if s.runs g then s.stopGridAs g 3 4 core else s.endSteps g) s

/-- R182, R406, R408: a grid stops with STATE 3 whatever its policy, a halt in effect or not (R372). -/
def State.fatalStop (s : State) (g : Nat) (core : Option Nat) : State :=
  let st := (s.grid g).state
  if (look s.grids g).isNone ∨ st = 2 ∨ st = 5 then s
  else
    let s := s.modGrid g fun x => { x with fatal := true }
    if st = 3 then s else s.stopGridAs g 4 3 core

/-- A replay that has parted from its log stops the grid with STATE 3 and sets DIVERGED (R378). -/
def State.diverge (s : State) (g core : Nat) : State :=
  (((s.modGrid g fun x => { x with diverged := true }).fatalStop g (some core)).dstat core 0x20 0).dstat (1024 + core) 0x20 0

/-- The stop of a grid is complete: its blocks are stopped and drained, and STATE is written (R371 step 6). -/
def State.settleStop (s : State) (g : Nat) : State :=
  match (s.grid g).stopping with
  | none => s
  | some (cause, st) =>
    if s.preempting.contains (s.grid g).ctx ∨ (s.grid g).state = 6 then s
    else if (s.blocksOf g).all fun bk => (s.block bk).stops.contains cause && s.quiet bk then
      (s.modGrid g fun x => { x with stopping := none }).setGState g st
    else s

/-- Every grid whose stop is complete takes its STATE. -/
def State.settleStops (s : State) : State :=
  (s.grids.filter (·.2.stopping.isSome)).foldl (fun s e => s.settleStop e.1) s

/-! ## Barrier phases (R155, R158) -/

def State.bar (s : State) (core slot : Nat) : Bar := lookD {} s.bars (16 * core + slot)
def State.setBar (s : State) (core slot : Nat) (b : Bar) : State := { s with bars := put s.bars (16 * core + slot) b }

/-- Position after the current slot (R46); a waiting floe whose copy has been evicted keeps its line's OCC (R347, R386). -/
def State.nextPos (s : State) (k : Nat) (f : Floe) : Nat × Nat :=
  let occ := match s.floeCopy k f with
    | some c => lineOcc (c.lines.getD f.line 0)
    | none => f.occ
  if f.slot + 1 < occ then (f.line, f.slot + 1) else (f.line + 1, 0)

def State.advance (s : State) (k : Nat) (f : Floe) : Floe :=
  let p := s.nextPos k f
  { f with line := p.1, slot := p.2 }

/-- The slot and parity that a floe waits for, and its scope, unless it has been released already. -/
def waitsOn (f : Floe) (slot : Nat) : Option (Bool × Scope) :=
  match f.wait with
  | .bar n par sc => if n = slot ∧ f.freed.isNone then some (par, sc) else none
  | _ => none

/-- Of the releases gathered, those that a wait at a scope synchronises with: each side's scope includes the other (R159, R274). -/
def marksFor (me : Who) (sc : Scope) (ms : List SyncMark) : List Nat :=
  ((ms.filter fun m => includes m.scope m.who me && includes sc me m.who).map (·.srec)).dedup

/-- A floe in a floe slot goes on after its barrier instruction: an acquire (R159, R287). -/
def State.freeFloeAt (s : State) (k : Nat) (f : Floe) (sc : Scope) (ms : List SyncMark) : State :=
  (s.setFloe k { s.advance k f with wait := .none, freed := none }).mergeRecs k (marksFor (s.who (f.bkey k)) sc ms)

/-- The same for a floe in a floe save. -/
def State.freeSaveAt (s : State) (i : Nat) (f : Floe) (sc : Scope) (ms : List SyncMark) : State :=
  let k := 32 * (i / 64)
  let m := mergeAway s.recs { s.advance k f with wait := .none, freed := none } (marksFor (s.who (f.bkey k)) sc ms)
  ({ s with saves := put s.saves i m.1 }).addRfold (coreOfFloe k) m.2

/-- Release the floes of a core that wait on a slot whose parity is no longer theirs, in floe slots and saves; those of a stopped block go on
when it resumes (R371). -/
def State.releaseBar (s : State) (core slot : Nat) (ms : List SyncMark) : State :=
  let ph := (s.bar core slot).ph
  let run (f : Floe) : Bool := (s.block (blockKey core f.blkr)).stops == []
  let out (t : Tab Floe) : List (Nat × Floe × Scope) := t.filterMap fun e => match waitsOn e.2 slot with
    | some (par, sc) => if par ≠ ph then some (e.1, e.2, sc) else none
    | none => none
  let s' := (out (slice s.floes (128 * core) (128 * core + 128))).foldl (fun s e =>
    if run e.2.1 then s.freeFloeAt e.1 e.2.1 e.2.2 ms else s.setFloe e.1 { e.2.1 with freed := some ms }) s
  (out (slice s.saves (256 * core) (256 * core + 256))).foldl (fun s e =>
    if run e.2.1 then s.freeSaveAt e.1 e.2.1 e.2.2 ms else { s with saves := put s.saves e.1 { e.2.1 with freed := some ms } }) s'

/-- The scope of a floe's barrier wait. -/
def Wait.barScope : Wait → Scope
  | .bar _ _ sc => sc
  | _ => .blk

/-- The floes of a block that phases released while it was stopped go on (R371). -/
def State.releaseFreed (s : State) (bk : Nat) : State :=
  let core := bk / 32
  let s := ((slice s.floes (128 * core) (128 * core + 128)).filter fun e => e.2.blkr == bk % 32).foldl (fun s e => match e.2.freed with
    | some ms => s.freeFloeAt e.1 e.2 e.2.wait.barScope ms
    | none => s) s
  ((slice s.saves (256 * core) (256 * core + 256)).filter fun e => e.2.blkr == bk % 32).foldl (fun s e => match e.2.freed with
    | some ms => s.freeSaveAt e.1 e.2 e.2.wait.barScope ms
    | none => s) s

/-- Insert a released floe by its next coordinate, then its slot (R386). -/
def stepInsert (x : Nat × Floe) : List (Nat × Floe) → List (Nat × Floe)
  | [] => [x]
  | y :: t => if x.2.coord.toNat < y.2.coord.toNat ∨ (x.2.coord = y.2.coord ∧ x.1 < y.1) then x :: y :: t else y :: stepInsert x t

/-- Floes of a block, in floe slots and saves, by floe key (a save counts as slot 0 of its issue slot, log 25) and serial. -/
def State.standing (s : State) (bk : Nat) : List (Nat × Floe) :=
  let core := bk / 32
  ((slice s.floes (128 * core) (128 * core + 128)) ++ (slice s.saves (256 * core) (256 * core + 256)).map fun (e : Nat × Floe) => (32 * (e.1 / 64), e.2)).filter
    fun (e : Nat × Floe) => e.2.blkr == bk % 32

/-- The KIND 6 records of a step: one for each floe that the completion released (R373, R386). -/
def State.stepRecords (s : State) (bk slot : Nat) (was : List (Nat × Floe)) : State :=
  let out := (s.standing bk).filter fun e => e.2.wait == .none && was.any (·.2.fid == e.2.fid)
  (out.foldl (fun l e => stepInsert e l) []).foldl (fun s e => s.traceFloe e.1 e.2 6 slot e.2.coord.toNat (e.2.lanes.map (·.1))) s

/-- R373: the step of a block ends: it stops again; STEPDONE (or STEPTO too) in the issuer's DSTAT, whose BUSY clears. -/
def State.endStep (s : State) (bk : Nat) (timeout : Bool) : State :=
  match (s.block bk).stepping with
  | none => s
  | some (core, _) =>
    let s := (s.block bk).heldStops.foldl (fun s c => s.stopBlk bk c) s
    let s := s.modBlock bk fun b => { b with stepping := none, heldStops := [] }
    s.dstat core (if timeout then 0xC#32 else 0x4#32) 0x1

/-- R155: complete the phase of a slot when its three conditions hold. Completions credited to EARLY that step 4 uses count in the next
phase, with their releases. -/
def State.phase (s : State) (core slot : Nat) : State :=
  let b := s.bar core slot
  if b.event ∧ b.expt ≤ b.arr ∧ b.pend = 0 ∧ b.val then
    let pend := b.expa - b.early
    let used := b.expa - pend
    let b' := { b with
      ph := !b.ph, arr := 0, pend := pend, early := b.early - used, recs := (b.ahead.take used).flatten, ahead := b.ahead.drop used
      staged := [], event := false, last := b.recs }
    let waiting := (s.standing b.owner).filter fun e => (waitsOn e.2 slot).isSome
    let s := s.setBar core slot b'
    let s := if b.blk then s.modBlock b.owner fun x => { x with
        floor := b.staged.foldl (fun t e => put t e.1 (max (lookD 0 t e.1) e.2)) x.floor } else s
    let s : State := { s with threads := s.threads.map fun (e : Nat × Thread) =>
        if e.1 / 4096 = core ∧ e.2.arrived.getLsbD slot then (e.1, { e.2 with arrived := setBit e.2.arrived slot false }) else e }
    let s := s.releaseBar core slot b.recs
    match (s.block b.owner).stepping with
    | some _ => (s.stepRecords b.owner slot waiting).endStep b.owner false
    | none => s
  else s

/-- An operation issued on this core raises PEND (R155). The spec names a trap for `bar.exp` alone: past 65,535 the count goes on
(DESIGN CHOICE, log 24). -/
def State.raisePend (s : State) (core slot : Nat) : State :=
  let b := s.bar core slot
  s.setBar core slot { b with pend := b.pend + 1 }

/-- The release that an engine operation's completion carries, seen from its issuing block (R274). -/
def opMark (srec : Option Nat) (who : Who) : List SyncMark := srec.toList.map fun r => ⟨r, .sys, who⟩

/-- A completion on the issuing core: PEND falls by 1. When a far completion has taken it to 0 already, nothing changes: no event, no record
(DESIGN CHOICE, log 24). -/
def State.completeOwn (s : State) (core slot uid : Nat) (ms : List SyncMark) : State :=
  let b := s.bar core slot
  if b.val ∧ (s.block b.owner).uid = uid ∧ 0 < b.pend then
    (s.setBar core slot { b with pend := b.pend - 1, event := true, recs := b.recs ++ ms }).phase core slot
  else s

/-- A completion multicast from another core (R155): PEND falls, or EARLY rises; past 127 the block faults. -/
def State.completeFar (s : State) (core slot uid : Nat) (ms : List SyncMark) : State :=
  let b := s.bar core slot
  if b.val ∧ (s.block b.owner).uid = uid then
    if 0 < b.pend then
      (s.setBar core slot { b with pend := b.pend - 1, event := true, recs := b.recs ++ ms }).phase core slot
    else if b.early = 127 then s.addDue b.owner 0x8001 slot 0
    else s.setBar core slot { b with early := b.early + 1, ahead := b.ahead ++ [ms] }
  else s

/-- R288: what a floe stages in a block-mode slot: its own slot's region, and what it knows of floes of its block on its core. -/
def State.stageOf (s : State) (k : Nat) (f : Floe) : List (Nat × Nat) :=
  let uid := (s.block (f.bkey k)).uid
  (k % 128, s.region k) :: (f.know.filter fun e => e.1 / 128 == identFloe k / 128 &&
    s.regionUid (128 * coreOfFloe k + e.1 % 128) e.2 == some uid).map fun e => (e.1 % 128, e.2)

/-- R158: an exiting thread leaves the slots that it is enrolled in, before any phase is tested; its floe's record is gathered (R274, R288).
In count mode EXPT stays 0 when it is 0 already (DESIGN CHOICE, log 24). -/
def State.exitBars (s : State) (core : Nat) (rec : SyncMark) (staged : List (Nat × Nat)) (tk : Nat) : State :=
  let th := s.thread tk
  (List.range 16).foldl (fun s n =>
    let b := s.bar core n
    if th.enrolled.getLsbD n ∧ b.val ∧ b.owner = blockKey core th.blkr then
      s.setBar core n { b with
        expt := b.expt - 1
        arr := if th.arrived.getLsbD n then b.arr - 1 else b.arr
        event := true
        recs := if b.recs.contains rec then b.recs else b.recs ++ [rec]
        staged := if b.blk then b.staged ++ staged else b.staged }
    else s) s

/-! ## The end of a block (R150, R309) -/

/-- Live threads of a block. -/
def State.liveThreads (s : State) (bk : Nat) : List Nat :=
  ((slice s.threads (4096 * (bk / 32)) (4096 * (bk / 32) + 4096)).filter fun e => e.2.st ≠ 0 && e.2.blkr == bk % 32).map (·.1)

/-- Every block of a grid has ended, nothing of it is in flight, and every write of it is acknowledged (R301). -/
def State.gridDone (s : State) (gid : Nat) : Bool :=
  let g := s.grid gid
  decide (g.blocks ≤ g.done) && s.blocksOf gid == [] && !(s.tasks.any fun t => t.grid == gid) &&
  !(s.copies.any fun e => e.2.grid == gid) && !(s.wbs.any fun e => e.2.grid == gid) &&
  !(s.net.any fun e => e.2.grid == gid && e.2.isWrite)

/-- TEND is the master die's clock when the last of those conditions comes to hold (R301). -/
def State.noteDone (s : State) : State :=
  { s with grids := s.grids.map fun e =>
      if e.2.doneAt.isNone ∧ e.2.blocks ≤ e.2.done ∧ s.gridDone e.1 then (e.1, { e.2 with doneAt := some (s.clock s.pkg.master) }) else e }

/-- How a block ends: by its last `exit`, by a kill, or by an abort for pages (R334). -/
inductive Ending where
  | exit
  | kill
  | abort (pages : List (Nat × Nat × Bool))
deriving DecidableEq, Repr, Inhabited

/-- What the other blocks that a copy's MCAST names come to when it is cancelled: post-commit ones take copy-cancel, and with `abort`
pre-commit ones are aborted for its pages (R231, R441). -/
def State.dropPartners (s : State) (c : Copy) (abort : Option (List (Nat × Nat × Bool))) : State :=
  c.targets.foldl (fun s t =>
    if t.1 = c.block ∧ t.2 = c.uid then s
    else match s.block? t.1 with
      | none => s
      | some b =>
        if b.uid ≠ t.2 then s
        else if b.committed then s.addDue t.1 0x8003 0 c.coord.toNat
        else match abort with
          | some ps => { s with due := s.due ++ [{ block := t.1, uid := t.2, code := 0, pages := ps }] }
          | none => s) s

/-- What a copy wrote to device-side aliases (R302): each aligned line written whole, with the copy's context in CTX, is one record, in
ascending address; whether anything is left, which is discarded. -/
def State.takeLines (s : State) (id : Nat) (c : Copy) : State × Bool :=
  let es := (look s.lines id).getD []
  let at' (a : Nat) : Option Nat := (es.reverse.find? fun e => e.2.1 == a).map (·.2.2)
  let line (a : Nat) : Option Nat := match at' a, at' (a + 16), at' (a + 32), at' (a + 48) with
    | some w, some x, some y, some z =>
      let r := w % 2 ^ 128 + x % 2 ^ 128 * 2 ^ 128 + y % 2 ^ 128 * 2 ^ 256 + z % 2 ^ 128 * 2 ^ 384
      if bits r 15 10 = c.ctx then some r else none
    | _, _, _, _ => none
  let as := (es.foldl (fun l e => insNat l (e.2.1 / 64)) []).map (64 * ·)
  let rs := as.filterMap fun a => (line a).map fun r => (((es.find? fun e => e.2.1 / 64 * 64 == a).map (·.1)).getD 0, BitVec.ofNat 512 r, c.block, c.uid, c.coord.toNat)
  ({ s with lines := del s.lines id, launches := s.launches ++ rs }, rs.length != as.length)

/-- Cancel a copy; a circular-buffer slot that it claimed stays claimed (log 13). -/
def State.cancelCopy (s : State) (id : Nat) (abort : Option (List (Nat × Nat × Bool))) : State :=
  match look s.copies id with
  | none => s
  | some c => { (s.takeLines id c).1 with copies := del s.copies id }.dropPartners c abort

/-- Whether a grid has a block on a core besides one. -/
def State.gridOnCore (s : State) (g core bk : Nat) : Bool :=
  (slice s.blocks (32 * core) (32 * core + 32)).any fun e => e.1 ≠ bk && e.2.grid == g

/-- An allocation freed with its block, unless an operation in flight still holds the banks (R442). -/
def State.freeAllocs (s : State) (bk : Nat) : State :=
  let held (a : Nat × Alloc) : Option Nat := (s.mmas.find? fun (e : Nat × Mma) => !e.2.done && !e.2.waiting && decide (e.2.block ≠ bk) &&
    e.2.parts.any fun p => p.block == bk && p.first == a.2.first && p.cnt == a.2.cnt).map (·.1)
  { s with allocs := s.allocs.filterMap fun a =>
      if a.2.block = bk ∧ a.2.orphan = none then (held a).map fun id => (a.1, { a.2 with orphan := some id }) else some a }

/-- Release everything a block holds on its core and remove it. Its matrix operations are cancelled, and its copies but for those begun
before an ordinary end, which complete unless they fill a buffer, which goes with the block (R216, R217, R231, R236, log 14). -/
def State.releaseBlock (s : State) (bk : Nat) (why : Ending) : State :=
  let core := bk / 32
  let n := bk % 32
  let b := s.block bk
  let gang : Bool := match why with
    | .abort _ => false
    | _ => true
  let s := ((s.mmas.filter fun e => e.2.block == bk).map (·.1)).foldl (fun s id =>
    match look s.mmas id with
    | some m => if m.done then { s.freeMma id m with mmas := del s.mmas id } else s.cancelMma id gang
    | none => s) s
  let mine := s.copies.filter fun (e : Nat × Copy) => e.2.block == bk && e.2.uid == b.uid
  let s : State := match why with
    | .exit => { s with copies := s.copies.filter fun (e : Nat × Copy) => !(e.2.block == bk && e.2.uid == b.uid && e.2.desc.getLsbD 23) }
    | .kill => (mine.map (·.1)).foldl (fun s id => s.cancelCopy id (some [])) s
    | .abort ps => (mine.map (·.1)).foldl (fun s id => s.cancelCopy id (some ps)) s
  let s := s.freeAllocs bk
  let s : State := { s with
    mmas := s.mmas.map fun e => (e.1, { e.2 with
      parts := e.2.parts.map fun p => if p.block = bk ∧ p.uid = b.uid then { p with ended := true, requeued := p.requeued || !gang } else p
      gone := e.2.gone ++ (e.2.holders.flatten.filter fun t => t / 4096 == core && (s.thread t).blkr == n && (s.thread t).st ≠ 0) })
    wbs := s.wbs.filter fun e => e.2.block ≠ bk
    fills := s.fills.filter fun e => e.map / 8 ≠ bk
    track := s.maps.foldl (fun t e => if e.1 / 8 = bk then cut t (2 ^ 50 * e.2.lvl + (s.shareBase bk (lvlOf e.2.lvl) + e.2.saddr) / 256)
      (2 ^ 50 * e.2.lvl + (s.shareBase bk (lvlOf e.2.lvl) + e.2.saddr + e.2.size) / 256) else t) s.track
    maps := s.maps.filter fun e => e.1 / 8 ≠ bk
    bars := s.bars.filter fun e => !(e.1 / 16 == core && e.2.owner == bk)
    cbufs := s.cbufs.filter fun e => !(e.1 / 16 == core && e.2.owner == bk)
    tables := if s.gridOnCore b.grid core bk then s.tables else s.tables.filter fun e => !(e.1 / 8 == core && e.2.2 == b.grid)
    floes := s.floes.filter fun e => !(e.1 / 128 == core && e.2.blkr == n)
    saves := s.saves.filter fun e => !(e.1 / 256 == core && e.2.blkr == n)
    bins := s.bins.filter fun e => !(e.1 / 64 == core && e.2.blkr == n)
    starting := s.starting.filter fun e => !(e.1 / 4 == core && e.2.blkr == n)
    threads := s.threads.map fun e => if e.1 / 4096 = core ∧ e.2.blkr = n ∧ e.2.st ≠ 0 then (e.1, { (default : Thread) with exitAt := e.2.exitAt, blkr := n, wbase := e.2.wbase, preds := 0x80 }) else e
    net := s.net.map fun e => if e.2.block = bk ∧ e.2.uid = b.uid then (e.1, { e.2 with pend := none }) else e
    cmds := s.cmds.map fun c => match c.floe with
      | some k => if k / 128 = core ∧ ((look s.floes k).map (·.blkr)) = some n then { c with floe := none } else c
      | none => c
    blocks := del s.blocks bk }
  (List.range 4).foldl (fun s i => s.fillBins (4 * core + i)) s

/-- A block's stop ended with it: STOPPED clears in its stopper's DSTAT, and a step ends done (R365, R373). -/
def State.blockGone (s : State) (bk : Nat) : State :=
  let b := s.block bk
  let s := match b.stepping with
    | some (core, _) => s.dstat core 0x4 0x1
    | none => s
  match b.stopper with
  | some i => s.dstat i 0 0x2
  | none => s

/-- R150: a block with no live thread ends. -/
def State.endIfEmpty (s : State) (bk : Nat) : State :=
  if (s.block? bk).isSome ∧ s.liveThreads bk = [] then
    let g := (s.block bk).grid
    (((s.blockGone bk).releaseBlock bk .exit).modGrid g fun x => { x with done := x.done + 1 }).noteDone
  else s

/-- R309: kill block. -/
def State.killBlock (s : State) (bk : Nat) : State :=
  match s.block? bk with
  | none => s
  | some b =>
    let s := (s.blockGone bk).releaseBlock bk .kill
    let s := s.modGrid b.grid fun x => { x with done := x.done + 1, killed := x.killed + 1, fallen := b.drift :: x.fallen }
    s.noteDone.statWrite b.grid 20 4 (s.grid b.grid).killed

/-- A stop or halt of the block is in effect or on its way (R371, R372). A preemption is none (R312). -/
def State.stopMet (s : State) (bk : Nat) : Bool :=
  let b := s.block bk
  b.stops.any (· ≠ 5) || (match (s.grid b.grid).stopping with
    | some x => !s.haltWaits b.grid x.1
    | none => false)

/-- The stop that holds the grid of a block is the stop-grid policy's own. -/
def State.stopByPolicy (s : State) (bk : Nat) : Bool :=
  let b := s.block bk
  b.stops.contains 4 || b.heldStops.contains 4 || (match (s.grid b.grid).stopping with
    | some x => x.1 == 4
    | none => false)

/-- A trap meets a stop or halt that is on its way from another core: it has reached the block's core (DESIGN CHOICE, log 57), and the floe
that trapped stands at its instruction (R372, R383). -/
def State.meetStop (s : State) (bk : Nat) : State :=
  match (s.grid (s.block bk).grid).stopping with
  | some x => if (s.block bk).stops.any (· ≠ 5) ∨ s.haltWaits (s.block bk).grid x.1 then s else s.stopOnCore (s.block bk).grid x.1 (bk / 32)
  | none => s

/-- The policy of a trap that meets a stop is applied on resumption (R372). Under a stop by the stop-grid policy nothing of that policy is
left to apply (DESIGN CHOICE, log 34). -/
def State.deferTrap (s : State) (bk pol : Nat) : State :=
  if pol = 0 ∧ s.stopByPolicy bk then (s.meetStop bk).endSteps (s.block bk).grid
  else (s.meetStop bk).modBlock bk fun b => { b with trapDue := true }

/-- The stop-grid policy of a trap that meets no stop; one raised in a step of a halted grid waits for the resumption (R309, R372). -/
def State.stopByTrap (s : State) (bk : Nat) : State :=
  let g := (s.block bk).grid
  if s.runs g ∨ s.stopByPolicy bk then s.stopGrid g (some (bk / 32)) else (s.endSteps g).modBlock bk fun b => { b with trapDue := true }

/-- R334: abort a pre-commit block and hold its task record until its pages are answered. Its floes publish sync records (R280). An
operation in flight that names it goes on with its share and banks, and the task waits for it (R442). With `again` the fault unit had no
room: the pages are requested later (R331). The post-commit partners of the operations that it had issued are kept with the task (R217). -/
def State.abortBlock (s : State) (bk : Nat) (pages : List (Nat × Nat × Bool)) (vas : List (Nat × Nat)) (again : Bool) : State :=
  match s.block? bk with
  | none => s
  | some b =>
    let pubs := (s.floesOf bk).foldl (fun a k => let p := a.2.publish k; (a.1 ++ [p.1], p.2)) (([] : List Nat), s)
    let s := pubs.2
    let ops := (s.mmas.filter fun (e : Nat × Mma) => !e.2.done && !e.2.waiting && decide (e.2.block ≠ bk) &&
      e.2.parts.any fun p => p.block == bk && p.uid == b.uid).map (·.1)
    let gang := (s.mmas.filter fun (e : Nat × Mma) => e.2.block == bk && !e.2.done).flatMap fun e => e.2.parts.filterMap fun p =>
      if p.block ≠ bk ∧ (s.block? p.block).isSome ∧ (s.block p.block).uid = p.uid ∧ (s.block p.block).committed then some (p.block, p.uid, e.2.coord.toNat) else none
    let t : Task := {
      grid := b.grid, index := b.index, drift := b.drift, drf := b.drf, core := bk / 32, pages := pages, vas := vas, recs := pubs.1
      clusBase := b.clusBase, ops := ops, failed := again, gang := gang }
    let s := s.replLog { ctx := (s.grid b.grid).ctx, kind := 7, pos := replPos (128 * (bk / 32)) (bk % 32)
                         seq := (lookD (default : Sched) s.sched (4 * (bk / 32))).issues, word := BitVec.ofNat 32 b.index }
    let s := (s.blockGone bk).releaseBlock bk (.abort pages)
    { s with tasks := s.tasks ++ [t] }

/-! ## Taking an exception (R306 to R310) -/

/-- A trap record (R306). -/
def State.trapBits (s : State) (bk : Nat) (k : Option (Nat × Floe)) (code mask addr coord pol : Nat) : Nat :=
  let b := s.block bk
  let g := s.grid b.grid
  let core := bk / 32
  let ts := match k with
    | some (_, f) => f.lanes.foldl (fun a e => a + e.2 * 2 ^ (5 * e.1)) 0
    | none => 0
  let pos := match k with
    | some (k, _) => k % 32 + k / 32 % 4 * 2 ^ 11
    | none => 0
  coord + mask * 2 ^ 32 + addr % 2 ^ 64 * 2 ^ 64 + code * 2 ^ 128 + (pos + pol * 2 ^ 6 + dieOf core * 2 ^ 8) * 2 ^ 144 +
    core % 128 * 2 ^ 160 + (b.z g * 2 ^ 24 + b.y g * 2 ^ 16 + b.x g) * 2 ^ 192 + ts * 2 ^ 256 +
    s.clock (dieOf core) % 2 ^ 64 * 2 ^ 448

/-- Write a trap record, or count it as dropped (R308): its index in the trap area. -/
def State.trapRecord (s : State) (g : Nat) (r : Nat) : Nat × State :=
  let x := s.grid g
  if x.ntrap < 255 then
    let s := s.statWrite g (64 + 64 * x.ntrap) 64 r
    let s := s.modGrid g fun x => { x with ntrap := x.ntrap + 1 }
    (x.ntrap, s.statWrite g 12 4 (x.ntrap + 1))
  else
    let s := s.modGrid g fun x => { x with dropped := x.dropped + 1 }
    (0xFFFFFFFF, s.statWrite g 16 4 (x.dropped + 1))

/-- Lowest floe save of an issue slot that is free and not kept for a trapping floe (R249, R309). -/
def State.freeSave (s : State) (islot : Nat) : Option Nat :=
  (List.range 64).find? fun i => (look s.saves (64 * islot + i)).isNone &&
    !((slice s.floes (32 * islot) (32 * islot + 32)).any fun e => match e.2.trap with
      | some t => t.save == i
      | none => false)

/-- The policy a precise trap takes: TPOL, with the cases in which the handler policy acts as kill block (R309). -/
def State.policyOf (s : State) (k : Nat) (f : Floe) (lanes : List Nat) : Nat :=
  let g := s.grid (s.block (f.bkey k)).grid
  let inH := (lanes.filterMap fun l => f.tkey k l).any fun t => (s.thread t).inHandler
  let h := s.handlerOf (s.block (f.bkey k)).grid
  if g.tpol = 2 then
    (if inH ∨ !s.contOk g.ctx g.code h ∨ (s.freeSave (islotOfFloe k)).isNone then 1 else 2)
  else g.tpol

/-- Detach every stream of a floe whose log is committed (R194). -/
def State.detachAll (s : State) (k : Nat) : State :=
  match s.floe? k with
  | none => s
  | some f =>
    if f.ports = [] then s else
    s.modFloe k fun f => { f with ports := [], log := f.log.filter fun e => match e with | .stream _ _ _ _ => false | _ => true }

/-- A trapping thread regroups at HANDLER, with its handler registers set (R309, R314). -/
def State.callHandler (s : State) (t save : Nat) (h : Word) (code addr coord idx : Nat) (rec : Nat) : State :=
  (s.modThread t fun th => { th with
    inHandler := true, epc := BitVec.ofNat 32 coord, ecause := BitVec.ofNat 32 code
    eaddr := BitVec.ofNat 64 addr, eseq := BitVec.ofNat 32 idx, home := some save }).park t h (some rec)

/-- R309: the floe goes to the floe save kept for it, and the trapping threads regroup at HANDLER. PARKT of the threads that the save holds
stays as it was, and so it does in `eretThreads`: R244 names only the cycle parked or demoted (DESIGN CHOICE, log 58). -/
def State.toHandler (s : State) (k : Nat) (d : TrapDue) : State :=
  let islot := islotOfFloe k
  match s.floe? k with
  | none => s
  | some f =>
    let h := d.handler
    let own := f.learn [(identFloe k, s.region k)] false
    let pub := s.publish k
    let s := pub.2.addRfold (coreOfFloe k) own.2
    let s := { s with saves := put s.saves (64 * islot + d.save) { own.1 with
      handler := d.lanes, trapped := if f.past then [] else d.lanes, past := false, demoted := some (s.clock (dieOf (coreOfFloe k))), trap := none, second := 0
      waitSince := s.clock (dieOf (coreOfFloe k)), raced := none
      wait := match f.wait with | .seg c => .seg c | .bar n p sc => .bar n p sc | _ => .none }, floes := del s.floes k }
    f.lanes.foldl (fun s e =>
      let t := threadKey islot e.1 e.2
      if d.lanes.contains e.1 then s.callHandler t (64 * islot + d.save) h d.code d.addr d.coord d.idx pub.1
      else (s.modThread t fun th => { th with st := 3, save := d.save }).recordsWritten [t]) s

/-! ### Page faults (R330 to R335) -/

/-- Page size of the leaf that a faulting access found, 64 KiB when none (R331). -/
def faultSize : XRes → Nat
  | .absentWrite n => n
  | _ => 65536

/-- Base of the page that a faulting access names. -/
def pageBase (va : Nat) (x : XRes) : Nat := va / faultSize x * faultSize x

/-- Join or open a pending page (R331): its key, or nothing while the unit is full. -/
def State.openPage (s : State) (die ctx va : Nat) (x : XRes) (write : Bool) : Option (Nat × Nat × Bool) × State :=
  let base := pageBase va x
  match s.fpages.find? fun p => p.die == die && p.ctx == ctx && p.base == base && (p.write || !write) with
  | some p => (some (ctx, base, p.write), s)
  | none =>
    if 1024 ≤ (s.fpages.filter (·.die == die)).length then (none, s)
    else (some (ctx, base, write), { s with fpages := s.fpages ++ [⟨die, ctx, base, write, s.clock die, none⟩] })

/-- Join or open the pages of several faults; nothing when the unit is full. -/
def State.openPages (die ctx : Nat) (write : Bool) : List (Nat × XRes) → List (Nat × Nat × Bool) → State → Option (List (Nat × Nat × Bool)) × State
  | [], ps, s => (some ps, s)
  | (va, x) :: fs, ps, s =>
    match s.openPage die ctx va x write with
    | (some p, s) => openPages die ctx write fs (if ps.contains p then ps else ps ++ [p]) s
    | (none, s) => (none, s)

/-- A thread access, or an entry of the floe's log, meets page faults: the block is aborted, or the floe is suspended (R334, R335); while the
fault unit is full the work waits in the same way, with no page named yet (R331). -/
def State.pageFault (s : State) (k : Nat) (fs : List (Nat × Nat × XRes)) (write entry : Bool) : State :=
  match s.floe? k with
  | none => s
  | some f =>
    let bk := f.bkey k
    let ctx := (s.grid (s.block bk).grid).ctx
    let r := State.openPages (dieOf (coreOfFloe k)) ctx write (fs.map (·.2)) [] s
    let vas := fs.map fun e => (e.1, e.2.1, pageBase e.2.1 e.2.2)
    if (s.block bk).committed then
      (r.2.dropResv k).modFloe k fun f => { f with wait := .page vas (r.1.getD []) entry, waitSince := s.clock (dieOf (coreOfFloe k)) }
    else match r.1 with
      | some ps => r.2.abortBlock bk ps (vas.map (·.2)) false
      | none => r.2.abortBlock bk (vas.map fun v => (ctx, v.2.2, write)) (vas.map (·.2)) true

/-- What a failed commit comes to outside an instruction: the floe is suspended, its grid stops, or it waits for a translation (R336, R408). -/
def State.commitFailed (s : State) (k : Nat) (va : Nat) (x : XRes) : State :=
  match s.floe? k, x with
  | none, _ => s
  | some f, .ats => s.askAts (coreOfFloe k) (s.grid (s.block (f.bkey k)).grid).ctx va
  | some f, .poison => s.fatalStop (s.block (f.bkey k)).grid (some (coreOfFloe k))
  | some _, x => s.pageFault k [(0, va, x)] true true

/-- Deferred entries that a floe's commits began, or any of its block: copies that write global memory and write-backs. They suspend the
committing floe on a page fault, and read the block's shares and maps (R235, R336). A regrouping terminator, the entry of a handler and
`exit` let them end first (DESIGN CHOICE, log 28). -/
def State.deferredOut (s : State) (bk fid : Nat) (all : Bool) : Bool :=
  let uid := (s.block bk).uid
  (s.wbs.any fun e => e.2.block == bk && e.2.uid == uid && e.2.begun && (all || e.2.fid == fid)) ||
  s.copies.any fun e => e.2.block == bk && e.2.uid == uid && e.2.begun && e.2.kind != 2 && e.2.desc.getLsbD 1 && (all || e.2.fid == fid)

/-- What a floe waits for while its handler has not taken over: it stays at its barrier, or at its segment, when the trap is of an instruction
that had issued. -/
def Wait.trapped : Wait → Wait → Wait
  | .seg c, _ => .seg c
  | .bar n p sc, _ => .bar n p sc
  | _, w => w

/-- Prepare a trapping floe for its handler once its earlier results are written (R310): its windows end, its log is committed, its streams
detach and its reservations drop; then the handler takes over. A commit that cannot go on suspends the floe first (R336). -/
def State.enterHandler (s : State) (k : Nat) : State :=
  match s.floe? k with
  | none => s
  | some f =>
    match f.trap with
    | none => s
    | some d =>
      if f.pend.any (fun p => !p.ready) then s.modFloe k fun f => { f with wait := f.wait.trapped .trap }
      else
        let r := (s.endWindows k).commit k
        match r.2 with
        | some (va, x) => (r.1.modFloe k fun f => { f with wait := f.wait.trapped .trap }).commitFailed k va x
        | none =>
          if r.1.deferredOut (f.bkey k) f.fid false then r.1.modFloe k fun f => { f with wait := f.wait.trapped .trap }
          else ((r.1.detachAll k).dropResv k).toHandler k d

/-- TAKING A PRECISE EXCEPTION (R308, R309) at an instruction's coordinate: the record first, then the policy. While HANDLER lies in a host
page whose translation has not come, the floe waits and meets the trap again (R324). -/
def State.takeTrapAt (s : State) (k : Nat) (code : Nat) (lanes : List Nat) (addr coord : Nat) : State :=
  match s.floe? k with
  | none => s
  | some f =>
    let bk := f.bkey k
    let g := (s.block bk).grid
    if s.handlerWaits g then
      (s.askAts (coreOfFloe k) (s.grid g).ctx (s.handlerVa g)).modFloe k fun f => { f with wait := f.wait.trapped .stall }
    else
    let pol := s.policyOf k f lanes
    let r := s.trapRecord g (s.trapBits bk (some (k, f)) code (maskOf lanes).toNat addr coord pol)
    match pol, s.freeSave (islotOfFloe k) with
    | 0, _ =>
      let s' := r.2.modFloe k fun f => { f with past := false, trapAt := some coord }
      if s.stopMet bk then s'.deferTrap bk 0 else s'.stopByTrap bk
    | 2, some sv =>
      let s' := r.2.modFloe k fun f => { f with trap := some ⟨code, lanes, addr, coord, r.1, sv, s.handlerOf g⟩ }
      if s.stopMet bk then (s'.meetStop bk).modFloe k fun f => { f with wait := f.wait.trapped .trap } else s'.enterHandler k
    | _, _ =>
      let s' := r.2.modFloe k fun f => { f with past := false }
      if s.stopMet bk then s'.deferTrap bk pol else s'.killBlock bk

/-- A precise trap of an instruction that had issued, in every thread of a floe that has been demoted since (R216, R249): its save stays as it
is while the threads are in the handler. -/
def State.takeTrapSave (s : State) (i code addr coord : Nat) : State :=
  match look s.saves i with
  | none => s
  | some f =>
    let k := 32 * (i / 64)
    let bk := f.bkey k
    let g := (s.block bk).grid
    let lanes := f.lanes.map (·.1)
    let pol := s.policyOf k f lanes
    let r := s.trapRecord g (s.trapBits bk (some (k, f)) code (maskOf lanes).toNat addr coord pol)
    if pol = 0 then (if s.stopMet bk then r.2.deferTrap bk 0 else r.2.stopByTrap bk)
    else if pol = 1 then (if s.stopMet bk then r.2.deferTrap bk 1 else r.2.killBlock bk)
    else
      let pub := r.2.publish k
      let s := { pub.2 with saves := put pub.2.saves i { f with handler := lanes, trapped := [] } }
      f.lanes.foldl (fun s e => s.callHandler (threadKey (i / 64) e.1 e.2) i (s.handlerOf g) code addr coord r.1 pub.1) s

/-- A precise trap of the instruction at the floe's position. -/
def State.takeTrap (s : State) (k : Nat) (code : Nat) (lanes : List Nat) (addr : Nat) : State :=
  s.takeTrapAt k code lanes addr (((s.floe? k).map fun f => f.coord.toNat).getD 0)

/-- An imprecise fault (R307): MASK 0, COORD of the operation; a fatal code stops the grid whatever its policy. -/
def State.takeImprecise (s : State) (bk uid code addr coord : Nat) : State :=
  match s.block? bk with
  | none => s
  | some b =>
    if b.uid ≠ uid then s else
    let tp := (s.grid b.grid).tpol
    let pol := if code = 0xC001 then 0 else if tp = 0 then 0 else 1
    let r := s.trapRecord b.grid (s.trapBits bk none code 0 addr coord pol)
    if code = 0xC001 then r.2.fatalStop b.grid (some (bk / 32))
    else if s.stopMet bk then r.2.deferTrap bk pol
    else if pol = 0 then r.2.stopByTrap bk
    else r.2.killBlock bk

/-- A task is killed with its block. -/
def State.killTask (s : State) (t : Task) : State :=
  let s := s.modGrid t.grid fun x => { x with done := x.done + 1, killed := x.killed + 1, fallen := t.drift :: x.fallen }
  s.noteDone.statWrite t.grid 20 4 (s.grid t.grid).killed

/-- An aborted task meets a cause that no page request serves, or no frame: a trap record with no instruction to blame, then stop grid, or
kill (R337, R441), which waits for the resumption of a grid that is stopped (R372). The post-commit partners of its cancelled matrix operations take gang-cancel (R217). -/
def State.pageBadTask (s : State) (t : Task) (code va : Nat) : State :=
  let g := s.grid t.grid
  let pol := if g.tpol = 0 then 0 else 1
  let b : Block := { grid := t.grid, index := t.index }
  let r := (b.z g * 2 ^ 24 + b.y g * 2 ^ 16 + b.x g) * 2 ^ 192 + s.clock (dieOf t.core) % 2 ^ 64 * 2 ^ 448 + t.core % 128 * 2 ^ 160 +
    (pol * 2 ^ 6 + dieOf t.core * 2 ^ 8) * 2 ^ 144 + code * 2 ^ 128 + va % 2 ^ 64 * 2 ^ 64
  let s := (s.trapRecord t.grid r).2
  let s := t.gang.foldl (fun s p => if (s.block? p.1).isSome ∧ (s.block p.1).uid = p.2.1 ∧ (s.block p.1).committed then
    s.addDue p.1 0x8002 0 p.2.2 else s) s
  if pol = 0 ∨ !s.runs t.grid then
    let s := { s with tasks := s.tasks.map fun x => if x = t then { x with failed := true, gang := [], doomed := pol ≠ 0 } else x }
    if pol = 0 then s.stopGrid t.grid (some t.core) else s
  else { s with tasks := s.tasks.erase t }.killTask t

/-- One fault or abort that is due. -/
def State.takeDue (s : State) (d : Due) : State :=
  if d.code = 0 then (if (s.block d.block).uid = d.uid then s.abortBlock d.block d.pages [] false else s)
  else s.takeImprecise d.block d.uid d.code d.addr d.coord

/-- Take the imprecise faults that are due, and those they bring about; stops that are complete then take effect. -/
def State.settleDue : Nat → State → State
  | 0, s => s
  | n + 1, s =>
    match s.due with
    | [] => s.settleStops
    | d :: ds => State.settleDue n ({ s with due := ds }.takeDue d)

/-- A fatal fault of a floe (R182): an imprecise record, with MASK 0 (R307), and the grid stops whatever its policy. -/
def State.takeFatal (s : State) (k : Nat) : State :=
  match s.floe? k with
  | none => s
  | some f =>
    let bk := f.bkey k
    let g := (s.block bk).grid
    let r := s.trapRecord g (s.trapBits bk (some (k, f)) 0xC001 0 0 f.coord.toNat 0)
    r.2.fatalStop g (some (bk / 32))

/-! ## Returning from an exception (R309, R316) -/

/-- A handler thread is done with its handler: it returned (`gone` false) or exited. -/
def State.leaveHandler (s : State) (tk : Nat) (gone : Bool) : State :=
  match (s.thread tk).home with
  | none => s
  | some h =>
    { s with saves := match look s.saves h with
      | some f => put s.saves h { f with
          handler := f.handler.filter (· ≠ laneOfThread tk)
          lanes := if gone then f.lanes.filter (·.1 ≠ laneOfThread tk) else f.lanes
          trapped := if gone then f.trapped.filter (· ≠ laneOfThread tk) else f.trapped }
      | none => s.saves }

/-- RETURNING FROM AN EXCEPTION: the threads leave the floe and are held in their floe save (R316). -/
def State.eretThreads (s : State) (k : Nat) (lanes : List Nat) : State :=
  match s.floe? k with
  | none => s
  | some f =>
    let s := lanes.foldl (fun s l => match f.tkey k l with
      | some t =>
        let sv := (s.thread t).home.getD 0 % 64
        ((s.leaveHandler t false).modThread t fun th => { th with
          st := 3, save := sv, cont := 0, inHandler := false, epc := 0, ecause := 0
          eaddr := 0, eseq := 0, home := none, resv := none }).recordsWritten [t]
      | none => s) s
    let rest := f.lanes.filter fun e => !lanes.contains e.1
    if rest = [] then { s with floes := del s.floes k } else s.modFloe k fun f => { f with lanes := rest }

end Sys2Proof.Machine
end

