-- ==== Sys2Proof/Machine/ErrLog.lean ====
section
/-! DEFINITION. The error log, and the uncorrectable errors that a read meets (R406, R409, R410). -/

namespace Sys2Proof.Machine

def elKey (die array entry : Nat) : Nat := 64 * (16 * die + array) + entry

/-- An error to log. -/
structure ErrRec where
  die : Nat
  core : Nat
  array : Nat
  addr : Nat
  synd : Nat
  ctx : Option Nat
  inj : Bool
  ue : Bool
deriving DecidableEq, Repr, Inhabited

/-- A log entry (R409). -/
def ErrRec.entry (e : ErrRec) (time count : Nat) : BitVec 256 :=
  BitVec.ofNat 256 (time % 2 ^ 64 * 2 ^ 192 + e.addr % 2 ^ 64 * 2 ^ 128 + count * 2 ^ 96 + e.synd % 2 ^ 32 * 2 ^ 64 + e.ctx.getD 0 % 64 * 2 ^ 58 +
    (if e.ctx.isSome then 2 ^ 57 else 0) + (if e.inj then 2 ^ 56 else 0) + (if e.ue then 2 ^ 55 else 0) + 2 ^ 54 + e.die % 8 * 2 ^ 51 +
    e.core % 128 * 2 ^ 44 + e.array % 16 * 2 ^ 40)

/-- The valid entries of a log, ascending. -/
def State.elEntries (s : State) (die array : Nat) : List (Nat × Nat) :=
  (slice s.errlog (elKey die array 0) (elKey die array 64)).map fun e => (e.1, e.2.toNat)

/-- R410: count an error in its entry, in the lowest free entry (DESIGN CHOICE, log 60), in place of the oldest corrected one, or in the
overflow counter. -/
def State.logErr (s : State) (e : ErrRec) : State :=
  let es := s.elEntries e.die e.array
  let now := s.clock e.die
  match es.find? fun x => bits x.2 191 128 == e.addr % 2 ^ 64 && bits x.2 95 64 == e.synd % 2 ^ 32 with
  | some x =>
    let n := min (bits x.2 127 96 + 1) 0xFFFFFFFF
    let v := x.2 - bits x.2 255 192 * 2 ^ 192 - bits x.2 127 96 * 2 ^ 96 + now % 2 ^ 64 * 2 ^ 192 + n * 2 ^ 96
    { s with errlog := put s.errlog x.1 (BitVec.ofNat 256 v) }
  | none =>
    let free := ((List.range 64).map (elKey e.die e.array)).find? fun k => (look s.errlog k).isNone
    let oldest := (leastBy (fun (x : Nat × Nat) => bits x.2 255 192) (es.filter fun x => !bitOf x.2 55)).map (·.1)
    match [free, oldest].findSome? id with
    | some k => { s with errlog := put s.errlog k (e.entry now 1) }
    | none =>
      let k := 16 * e.die + e.array
      { s with errOver := put s.errOver k ((lookD 0 s.errOver k + 1) % 2 ^ 32) }

/-! ## Uncorrectable errors that a read meets (R406): stored errors are those of injections, and are logged as such (R412) -/

/-- Die, and core, of a place of an array; a core only where the array belongs to one (R409). -/
def arrDie (array place : Nat) : Nat :=
  if array = 2 then place / 32 else if array = 3 ∨ array = 8 ∨ array = 9 then place else if array = 10 then 0 else place / 128
def arrCore (array place : Nat) : Nat := if array ≤ 7 ∧ array ≠ 2 ∧ array ≠ 3 then place % 128 else 0

/-- The log entry of a stored error. -/
def Arm.record (r : Arm) (ctx : Option Nat) : ErrRec :=
  { die := arrDie r.array r.core, core := arrCore r.array r.core, array := r.array, addr := if r.array = 8 ∨ r.array = 9 then r.addr / 32 * 32 else r.addr
    synd := (Config.syndrome r.bit).toNat, ctx := ctx, inj := true, ue := r.mode != 0 }

/-- Log the uncorrectable errors in a range of an array that a grid's read meets; the entry names its context. -/
def State.logUes (s : State) (array place a n ctx : Nat) : State :=
  (s.latent.filter fun r => r.mode != 0 && r.array == array && r.core == place && wordMeets array r.addr a n).foldl (fun s r => s.logErr (r.record (some ctx))) s

/-- The same in registers of a thread. -/
def State.logRegs (s : State) (t n c ctx : Nat) : State :=
  let k := regKey t (s.thread t) n
  s.logUes 0 (k / 2048 / 128) (regAddr k) (4 * c) ctx

/-- The same in bytes of a scratchpad level. -/
def State.logPad (s : State) (l : Space) (pa n ctx : Nat) : State :=
  match l with
  | .unit => s.logUes 1 (pa / 2 ^ 19) (pa % 2 ^ 19) n ctx
  | .clus => s.logUes 2 (pa / 2 ^ 22) (pa % 2 ^ 22) n ctx
  | _ => s.logUes 3 (pa / 2 ^ 27) (pa % 2 ^ 27) n ctx

end Sys2Proof.Machine
end

