-- ==== Sys2Proof/Machine/Operands.lean ====
section
/-! DEFINITION. Operands of an issuing floe: every register form, queue ports (R56, R193), uniform registers, helper lanes (R162),
immediates (R51, R77), and what an instruction's own part answers. -/

namespace Sys2Proof.Machine

/-- What an instruction's meaning sees of the issuing floe. -/
structure Ctx where
  s : State
  k : Nat
  f : Floe
  /-- Active lanes, ascending. -/
  act : List Nat
  core : Nat
  bk : Nat
  g : Grid
  quad : Bool
  /-- Values popped from queue ports: operand position (0 A, 1 B, 2 C), lane, word. -/
  popped : List (Nat × Nat × Word)
deriving Repr

/-- What an instruction's own part answers. -/
inductive Res where
  /-- Effect applied; the floe goes on with the next slot. -/
  | done (s : State)
  /-- Effect applied; the position is already set, or the floe waits or is gone. -/
  | jump (s : State)
  /-- A precise trap of lanes with its ADDR; nothing is written. -/
  | trap (code : Nat) (lanes : List Nat) (addr : Nat)
  /-- The lookahead-verify trap, which also sets LVH (R65). -/
  | verify (lanes : List Nat)
  /-- The floe waits here and tries again; what it has done so far. -/
  | stall (s : State)
  /-- The same, with what it waits for. -/
  | hold (s : State) (w : Wait)
  /-- Page faults (R330): what was done before them, the lanes and addresses, their kind; `entry`: met by an entry of the log (R336). -/
  | page (s : State) (fs : List (Nat × Nat × XRes)) (write entry : Bool)
  /-- The fatal region-overflow fault (R182). -/
  | fatal
  /-- A poisoned granule was read (R408). -/
  | poison
  /-- A word with an uncorrectable error was read, and is logged (R406). -/
  | uncorrectable (s : State)
deriving Repr

def Ctx.islot (c : Ctx) : Nat := islotOfFloe c.k
def Ctx.die (c : Ctx) : Nat := dieOf c.core
/-- Thread key of a lane of the floe. -/
def Ctx.t (c : Ctx) (lane : Nat) : Nat := (c.f.tkey c.k lane).getD 0
def Ctx.low (c : Ctx) : Nat := c.act.headD 0

/-! ## Reading -/

/-- A single-register operand at a position, in a lane: a queue port's popped element or a lane register (R55, R193). -/
def Ctx.rd1 (c : Ctx) (pos : Nat) (r : BitVec 8) (lane : Nat) : Word :=
  if 248 ≤ r.toNat then ((c.popped.find? fun e => e.1 == pos && e.2.1 == lane).map (·.2.2)).getD 0
  else c.s.vreg (c.t lane) r.toNat

/-- A 64-bit pair (R18). -/
def Ctx.rdPair (c : Ctx) (r : BitVec 8) (lane : Nat) : Nat :=
  (c.s.vreg (c.t lane) r.toNat).toNat + 2 ^ 32 * (c.s.vreg (c.t lane) (r.toNat + 1)).toNat

def Ctx.ureg (c : Ctx) (r : BitVec 8) : Word := lookD 0 c.f.uregs r.toNat

/-- `rd` of R77 on a raw word or pair. -/
def rdVal (t : IntTy) (w : Nat) : Int := if t.signed then sext w t.width else (w % 2 ^ t.width : Nat)

/-- The 32-bit immediate widened as R77 states. -/
def immVal (t : IntTy) (imm : BitVec 32) : Nat :=
  if t.width = 64 then (if t.signed then wrap (sext imm.toNat 32) 64 else imm.toNat) else imm.toNat

/-- `rd(f, T)` of R77 for a lane-register operand. -/
def Ctx.rdT (c : Ctx) (pos : Nat) (r : BitVec 8) (t : IntTy) (lane : Nat) : Int :=
  rdVal t (if t.width = 64 then c.rdPair r lane else (c.rd1 pos r lane).toNat)

/-- `fit` of R77. -/
def fit (v : Int) (t : IntTy) (sat : Bool) : Int :=
  if sat then min (max v (intLo t.width t.signed)) (intHi t.width t.signed)
  else
    let w := wrap v t.width
    if t.signed then sext w t.width else w

/-- Registers that `wr` of R77 writes. -/
def wrWords (t : IntTy) (x : Int) : List Word :=
  if t.width = 64 then [BitVec.ofInt 32 x, BitVec.ofNat 32 (wrap x 64 / 2 ^ 32)] else [BitVec.ofInt 32 x]

/-- R162: the present lane that stands for a lane: itself, or for a helper lane the lowest of its quad. -/
def Floe.srcLane (f : Floe) (quad : Bool) (lane : Nat) : Option Nat :=
  if f.lanes.any (·.1 == lane) then some lane
  else if quad then ((List.range 4).map (lane / 4 * 4 + ·)).find? fun m => f.lanes.any (·.1 == m)
  else none

/-- R162: the source of a lane, present, a helper, or absent. -/
def Ctx.srcval (c : Ctx) (r : BitVec 8) (lane : Nat) : Word :=
  match c.f.tkey c.k lane with
  | some t => c.s.vreg t r.toNat
  | none =>
    if c.quad then
      match (List.range 4).findSome? fun i => c.f.tkey c.k (lane / 4 * 4 + i) with
      | some t => c.s.vreg t r.toNat
      | none => 0
    else 0

/-- R166: the lane read by lane `l`. -/
def shflLane (func : BitVec 4) (l b : Nat) : Nat :=
  if func = 0 then b % 32
  else if func = 1 then (if b ≤ l then l - b else l)
  else if func = 2 then (if l + b ≤ 31 then l + b else l)
  else l ^^^ (b % 32)

/-- R164: the lanes that `qdx` and `qdy` subtract, the first minus the second. -/
def quadX (func : BitVec 4) (l : Nat) : Nat × Nat := if func = 0 then (l ||| 1, l &&& 30) else (l / 4 * 4 + 1, l / 4 * 4)
def quadY (func : BitVec 4) (l : Nat) : Nat × Nat := if func = 0 then (l ||| 2, l &&& 29) else (l / 4 * 4 + 2, l / 4 * 4)

/-! ## Queue ports (R56, R191 to R195) -/

/-- Port operands in the order A, B, C, with their position (R56). -/
def portSrcs (i : Instr) : List (Nat × BitVec 8) :=
  let shifted : Bool := match i with
    | .imad o | .imadw o | .prm o | .bfi o => o.form.isImm
    | .ffma o => o.isImm
    | _ => false
  let isMem := (memRow i).isSome
  let n := i.srcs.length
  i.srcs.zipIdx.filterMap fun e => match e.1 with
    | .reg f 1 _ => if 248 ≤ f.toNat then some (if isMem ∧ e.2 + 1 = n then 2 else if shifted ∧ e.2 = 1 then 2 else e.2, f) else none
    | _ => none

def portDsts (i : Instr) : List (BitVec 8) :=
  i.dsts.filterMap fun o => match o with
    | .reg f 1 _ => if 248 ≤ f.toNat then some f else none
    | _ => none

/-- Lanes of a list that fail a test. -/
def failing (ls : List Nat) (ok : Nat → Bool) : List Nat := ls.filter fun l => !ok l

/-! ## Writing -/

/-- A single-register destination (R55). -/
def Ctx.wr1 (c : Ctx) (s : State) (r : BitVec 8) (lane : Nat) (w : Word) : State :=
  if 248 ≤ r.toNat then s.pushPort c.k c.f.coord (portNo r) lane w else s.setVreg (c.t lane) r.toNat w

/-- Consecutive registers from a field. -/
def Ctx.wrRegs (c : Ctx) (s : State) (r : BitVec 8) (lane : Nat) (ws : List Word) : State :=
  match ws with
  | [w] => c.wr1 s r lane w
  | ws => ws.zipIdx.foldl (fun s e => s.setVreg (c.t lane) (r.toNat + e.2) e.1) s

def Ctx.wrPred (c : Ctx) (s : State) (p : BitVec 8) (lane : Nat) (b : Bool) : State := s.setPred (c.t lane) p.toNat b

/-- Write one result per active lane, at once, or as a pending result when the instruction carries a lookahead (R63).
`rs` gives, per active lane, the words, predicate results and flags. -/
def Ctx.deliver (c : Ctx) (s : State) (la : Nat) (r : BitVec 8) (res : List (Nat × List Word × Fl)) : State :=
  if la = 0 then
    res.foldl (fun s e => (c.wrRegs s r e.1 e.2.1).orFlags (c.t e.1) e.2.2) s
  else if res = [] then s
  else
    s.modFloe c.k fun f => { f with
      npend := f.npend + 1
      pend := f.pend ++ [{ n := f.npend, reg := r.toNat, cnt := (res.headD (0, [], 0)).2.1.length, left := la,
                           vals := res.map fun e => (e.1, e.2.1), flags := res.map fun e => (e.1, e.2.2), coord := f.coord }] }

/-- One generator step for an instruction that rounds stochastically (R34): the new state word and the machine. -/
def Ctx.srStep (c : Ctx) (rnd : Rnd) : Word × State :=
  if rnd = .sr then
    let w := lfsrStep (c.s.lfsrOf c.islot)
    (w, c.s.setLfsr c.islot w)
  else (0, c.s)

end Sys2Proof.Machine
end

