-- ==== Sys2Proof/Machine/Flags.lean ====
section
/-! DEFINITION. The status word (R40 to R42, R65, R315): reads, writes with its RW, W1C and RO fields, and the bits of the sticky flags. -/

namespace Sys2Proof.Machine

/-- The RW field of the status word: NV, DZ, OF, UF, NX. -/
def statusRw : Word := 0x1F
/-- The W1C field: LVH. -/
def statusW1c : Word := 0x40

/-- What `csrw`'s three forms make of an RW field: plain, `.set`, `.clr` (R315). -/
inductive WOp where
  | plain | set | clr
deriving DecidableEq, Repr, Inhabited

def WOp.app (o : WOp) (old v : Word) : Word :=
  match o with
  | .plain => v
  | .set => old ||| v
  | .clr => old &&& ~~~v

/-- A write of the status word: RW fields by the form, LVH cleared where `v` holds 1, the rest kept. -/
def statusWrite (o : WOp) (old v : Word) : Word :=
  (o.app old v &&& statusRw) ||| ((old &&& statusW1c) &&& ~~~v) ||| (old &&& ~~~(statusRw ||| statusW1c))

/-- R65: a lookahead-verify trap leaves LVH set. -/
def State.setLvh (s : State) (t : Nat) : State := s.modThread t fun th => { th with status := th.status ||| statusW1c }

/-- R42: a STATUS access waits for every earlier result whose window does not hold it. -/
def Floe.statusWaits (f : Floe) : Bool := f.pend.any fun p => p.left == 0

/-- The initial status word of a thread: zero, with LVE as the launch sets it (R41, R65). -/
def initStatus (g : Grid) : Word := if g.ver then 0x20 else 0

end Sys2Proof.Machine
end

