-- ==== Sys2Proof/Machine/Access.lean ====
section
/-! DEFINITION. Checks of memory accesses (R172, R175, R176, R234, R289, R329, R369), stops at an instruction (R366, R371), streams'
elements (R193), and the pending results of accesses. -/

namespace Sys2Proof.Machine

/-! ## Stops that an instruction asks for (R364, R366, R369) -/

/-- A debug stop of a block (R364, R371). DSTAT's STOPPED reports only stops made by a command (R383). -/
def State.debugStop (s : State) (bk : Nat) : State := s.stopBlk bk 1

/-- The strongest of several ACT codes. -/
def strongest (acts : List Nat) : Nat := if acts.contains 2 then 2 else if acts.contains 1 then 1 else 0

/-- Apply ACT 1 or 2 to a floe's block. -/
def State.actStop (s : State) (k bk act : Nat) : State :=
  if act = 2 then s.haltGrid (s.block bk).grid (some (coreOfFloe k)) else if act = 1 then s.debugStop bk else s

/-! ## Global accesses -/

/-- One lane's access: lane, pointer (its bounds index and tag), address. -/
structure GReq where
  lane : Nat
  ptr : Nat
  va : Nat
deriving DecidableEq, Repr, Inhabited

/-- A checked access with its translation. -/
structure GAcc where
  lane : Nat
  ptr : Nat
  va : Nat
  leaf : Nat
  size : Nat
deriving DecidableEq, Repr, Inhabited

def GAcc.place (a : GAcc) : Place := leafPlace a.leaf a.size a.va

/-- A precise trap of the lanes that fail a check, with the lowest one's address. -/
def trapAt (code : Nat) (bad : List (Nat × Nat)) : Res := .trap code (bad.map (·.1)) ((bad.headD (0, 0)).2)

/-- Checks 1 to 3 of R176: alignment to `n`, the bounds entry's validity and range, its permission. A poisoned bounds entry stops the grid
when it is read (R408). -/
def Ctx.checkBounds (c : Ctx) (qs : List GReq) (n : Nat) (perm : Nat → Bool) : Option Res :=
  let at' (l : List GReq) : List (Nat × Nat) := l.map fun q => (q.lane, q.va)
  let odd := qs.filter fun q => decide (q.va % n ≠ 0)
  let out := qs.filter fun q => !c.s.inBounds c.g.ctx ((q.ptr / 2 ^ 48) % 4096) q.va n
  let no := qs.filter fun q => !perm (c.s.bent c.g.ctx ((q.ptr / 2 ^ 48) % 4096))
  if odd ≠ [] then some (trapAt 0x0010 (at' odd))
  else if qs.any (fun q => c.s.bentPoison c.g.ctx ((q.ptr / 2 ^ 48) % 4096)) then some .poison
  else if out ≠ [] then some (trapAt 0x0011 (at' out))
  else if no ≠ [] then some (trapAt 0x0011 (at' no))
  else none

/-- What failed translations come to (R321, R324, R330, R408): lane, address, result. Host pages not yet translated are asked for. -/
def xfail (s : State) (core ctx : Nat) (ts : List (Nat × Nat × XRes)) (write : Bool) : Option Res :=
  let bad (p : XRes → Bool) : List (Nat × Nat × XRes) := ts.filter fun t => p t.2.2
  let mal := bad (· == .malformed)
  let gone := bad fun x => match x with | .absent | .absentWrite _ => true | _ => false
  if mal ≠ [] then some (trapAt 0x001B (mal.map fun t => (t.1, t.2.1)))
  else if bad (· == .poison) ≠ [] then some .poison
  else if gone ≠ [] then some (.page s gone write false)
  else match bad (· == .ats) with
    | [] => none
    | ats => some (.stall (ats.foldl (fun s t => s.askAts core ctx t.2.1) s))

/-- The granules of an access carry the pointer's tag, where tags are checked (check 5 of R176, R327). -/
def State.tagOk (s : State) (ctx : Nat) (a : GAcc) (n : Nat) : Bool :=
  !(leafTage a.leaf && bentTce (s.bent ctx ((a.ptr / 2 ^ 48) % 4096))) ||
  (gransOf a.place.pa n).all fun g => (lookD 0 s.tags g).toNat == a.ptr / 2 ^ 60 % 16

/-- The lowest granule of a range whose tag does not match the pointer's, where tags are checked. -/
def State.badTag (s : State) (ctx : Nat) (a : GAcc) (n : Nat) : Option Nat :=
  (gransOf a.va n).findSome? fun g => if s.tagOk ctx { a with va := 32 * g } 32 then none else some (32 * g)

/-- The floe issues nothing more until the home of an access has answered: a watched page, or one whose tags are checked (R176, R290). -/
def State.asks (s : State) (ctx : Nat) (a : GAcc) : Bool :=
  leafWatch a.leaf || (leafTage a.leaf && bentTce (s.bent ctx ((a.ptr / 2 ^ 48) % 4096)))

/-- An earlier request of the floe to the same bytes has not been performed: the home answers this access after it (R178). -/
def Ctx.homeBehind (c : Ctx) (p : Place) (n : Nat) : Bool :=
  c.s.net.any fun e => e.2.ofFloe c.k c.f && !e.2.performed && e.2.place.sys == p.sys && runsMeet (e.2.place.pa, e.2.n) (p.pa, n)

/-- Check 4 of R176 (translation); for `data`, check 5 (tags) and the race check on watched pages (R289, R329), both made as their home
stands once the floe's earlier accesses to the bytes are performed. -/
def Ctx.checkHome (c : Ctx) (qs : List GReq) (n : Nat) (write data : Bool) (m : Mark) : Except Res (State × List GAcc) :=
  let ts := qs.map fun q => (q, c.s.xlat c.core c.g.ctx q.va write)
  match xfail c.s c.core c.g.ctx (ts.map fun t => (t.1.lane, t.1.va, t.2)) write with
  | some r => .error r
  | none =>
    let accs : List GAcc := ts.filterMap fun t => match t.2 with
      | .ok leaf size => some ⟨t.1.lane, t.1.ptr, t.1.va, leaf, size⟩
      | _ => none
    let s := accs.foldl (fun s a => s.tlbFill c.core c.g.ctx a.va a.leaf a.size) c.s
    let bad := if data then accs.filter fun a => !s.tagOk c.g.ctx a n else []
    if data && accs.any (fun a => s.asks c.g.ctx a && c.homeBehind a.place n) then .error (.stall s)
    else if bad ≠ [] then .error (trapAt 0x0013 (bad.map fun a => (a.lane, a.va)))
    else
      let w := accs.filter fun a => data && leafWatch a.leaf
      match xfail s c.core c.g.ctx (w.map fun a => (a.lane, shadowVa a.va, s.shadow c.core c.g.ctx a.va)) true with
      | some r => .error r
      | none =>
        let racing := w.filter fun a => !s.raceOk (s.agentOf c.k c.f m) (.glob c.g.ctx a.va) n
        if racing ≠ [] then .error (trapAt 0x0019 (racing.map fun a => (a.lane, a.va)))
        else .ok (s, accs)

/-! ## Scratchpad accesses -/

/-- A scratchpad address as trap records hold it (R176). -/
def padAddr (a : Int) : Nat := wrap a 64

/-- First bytes of the chunks a range touches. -/
def chunksOf (a n : Nat) : List Nat := if n = 0 then [] else (List.range ((a + n - 1) / 256 - a / 256 + 1)).map fun i => (a / 256 + i) * 256

/-- A chunk to fill: map, chunk address, its global address and pointer. -/
structure ChunkReq where
  lane : Nat
  map : Nat
  ctx : Nat
  off : Nat
  va : Nat
  ptr : Nat
deriving DecidableEq, Repr, Inhabited

/-- Invalid chunks of open maps that a range touches (R234). -/
def State.invalidChunks (s : State) (l : Space) (lane pa n : Nat) : List ChunkReq :=
  if s.maps = [] then [] else
  (chunksOf pa n).filterMap fun ch =>
    if s.chunkV l ch then none
    else (s.mapAt l ch).map fun e =>
      let off := ch - (s.shareBase (e.1 / 8) l + e.2.saddr)
      ⟨lane, e.1, (s.grid (s.block (e.1 / 8)).grid).ctx, off, wrap (e.2.ptr.toNat % 2 ^ 48 + off : Nat) 48, e.2.ptr.toNat⟩

/-- A byte of a range lies in a map that may not be written (R234). -/
def State.readOnly (s : State) (l : Space) (pa n : Nat) : Bool :=
  s.maps ≠ [] && (chunksOf pa n).any fun ch => match s.mapAt l ch with
    | some e => !e.2.wr
    | none => false

/-- Begin the fills of chunks that none is in flight for. -/
def State.startFills (s : State) (k fid : Nat) (cs : List ChunkReq) : State :=
  cs.foldl (fun s q => if s.fills.any fun f => f.map == q.map && f.off == q.off then s
    else { s with fills := s.fills ++ [⟨q.map, q.off, q.ctx, k, fid⟩] }) s

/-- R234: map-readonly, then first-touch fills under checks 4 and 5 of R176. Accesses are (lane, trap address, physical address). -/
def Ctx.touch (c : Ctx) (s : State) (l : Space) (accs : List (Nat × Nat × Nat)) (n : Nat) (write : Bool) : Except Res State :=
  let ro := if write then accs.filter fun a => s.readOnly l a.2.2 n else []
  if ro ≠ [] then .error (trapAt 0x0017 (ro.map fun a => (a.1, a.2.1)))
  else
    let cs := accs.flatMap fun a => s.invalidChunks l a.1 a.2.2 n
    if cs = [] then .ok s
    else
      let ts := cs.map fun q => (q, s.xlat c.core q.ctx q.va false)
      match xfail s c.core ((cs.headD default).ctx) (ts.map fun t => (t.1.lane, t.1.va, t.2)) false with
      | some r => .error r
      | none =>
        let bad := ts.filter fun t => match t.2 with
          | .ok leaf size => !s.tagOk t.1.ctx ⟨0, t.1.ptr, t.1.va, leaf, size⟩ 256
          | _ => false
        if bad ≠ [] then .error (trapAt 0x0013 (bad.map fun t => (t.1.lane, t.1.va)))
        else .error (.stall (s.startFills c.k c.f.fid cs))

/-- Watches that an access at the unit level matches: number, lanes, lowest lane's address, ACT (R369). -/
def State.watchHits (s : State) (core : Nat) (accs : List (Nat × Nat × Nat)) (n : Nat) (rd wr : Bool) : List (Nat × List Nat × Nat × Nat) :=
  let ctl := (s.csr core 0x31C).toNat
  if ctl = 0 then [] else
  (List.range 2).filterMap fun i =>
    let w := bits ctl (8 * i + 4) (8 * i)
    let lo := (s.csr core (0x318 + 2 * i)).toNat
    let hi := (s.csr core (0x319 + 2 * i)).toNat
    let hit := accs.filter fun a => decide (a.2.2 % 2 ^ 19 ≤ hi ∧ lo < a.2.2 % 2 ^ 19 + n)
    if bitOf w 0 ∧ (rd ∧ bitOf w 1 ∨ wr ∧ bitOf w 2) ∧ hit ≠ [] then
      some (i, hit.map (·.1), (hit.headD (0, 0, 0)).2.2 % 2 ^ 19, bits w 4 3)
    else none

/-- The watch test of R369: records, and a stop before the instruction. -/
def Ctx.watch (c : Ctx) (s : State) (l : Space) (accs : List (Nat × Nat × Nat)) (n : Nat) (rd wr : Bool) : Except Res State :=
  if l ≠ .unit then .ok s
  else
    let hs := (s.watchHits c.core accs n rd wr).filter fun h => !c.f.watchHits.contains h.1
    if hs = [] then .ok s
    else
      let s := hs.foldl (fun s h => s.traceFloe c.k c.f 5 h.2.2.1 c.f.coord.toNat h.2.1) s
      let s := s.modFloe c.k fun f => { f with watchHits := f.watchHits ++ hs.map (·.1) }
      let a := strongest (hs.map (·.2.2.2))
      if a = 0 then .ok s else .error (.stall (s.actStop c.k c.bk a))

/-- Lanes whose access races (R289). -/
def Ctx.racePad (c : Ctx) (s : State) (l : Space) (accs : List (Nat × Nat × Nat)) (n : Nat) (m : Mark) : Option Res :=
  let ag := s.agentOf c.k ((s.floe? c.k).getD c.f) m
  let bad := accs.filter fun a => !s.raceOk ag (.pad l a.2.2) n
  if bad ≠ [] then some (trapAt 0x0019 (bad.map fun a => (a.1, a.2.1))) else none

/-- Checks 1 and 2 of R176 for scratchpad accesses (R175): alignment to `al`, and wholly inside the share. -/
def Ctx.padRange (c : Ctx) (l : Space) (qs : List (Nat × Int)) (al n : Nat) : Option Res :=
  let odd := qs.filter fun q => decide (q.2 % (al : Int) ≠ 0)
  let out := qs.filter fun q => decide (q.2 < 0 ∨ (c.s.shareSize c.bk l : Int) < q.2 + n)
  if odd ≠ [] then some (trapAt 0x0010 (odd.map fun q => (q.1, padAddr q.2)))
  else if out ≠ [] then some (trapAt 0x0012 (out.map fun q => (q.1, padAddr q.2)))
  else none

/-- All checks of scratchpad accesses of `n` bytes aligned to `al` (R175, R176, R234, R289, R369); the physical addresses by lane. -/
def Ctx.checkPad (c : Ctx) (s : State) (l : Space) (qs : List (Nat × Int)) (al n : Nat) (rd wr watched : Bool) (m : Mark) :
    Except Res (State × List (Nat × Nat)) :=
  match c.padRange l qs al n with
  | some r => .error r
  | none =>
    let accs := qs.map fun q => (q.1, padAddr q.2, s.shareBase c.bk l + q.2.toNat)
    match (if watched then c.watch s l accs n rd wr else .ok s) with
    | .error r => .error r
    | .ok s =>
      match c.touch s l accs n wr with
      | .error r => .error r
      | .ok s =>
        match c.racePad s l accs n m with
        | some r => .error r
        | none =>
          if rd && s.latent != [] && accs.any (fun a => s.uePad l a.2.2 n) then
            .error (.uncorrectable (accs.foldl (fun s a => s.logPad l a.2.2 n c.g.ctx) s))
          else .ok (s, accs.map fun a => (a.1, a.2.2))

/-- A thread's read of a level: the bytes, and what it synchronises with (R274). -/
def Ctx.readPad (c : Ctx) (s : State) (lane : Nat) (l : Space) (pa n : Nat) (acq : Option Scope) : Nat × State :=
  (getN (s.lvl l) pa n, match s.floe? c.k with
    | some f => s.readSync c.k f lane l false pa n acq
    | none => s)

/-- The issue slot has a request waiting for room in a bank queue of a level (R260). -/
def State.bankBusy (s : State) (q : Nat) (l : Space) : Bool :=
  if s.tokens = [] then false else
  (s.tokens.zipIdx).any fun e =>
    e.1.level == l && !e.1.engine && e.1.floe / 32 == q &&
    e.1.banks.any fun b => decide (queueDepth l ≤ ((s.tokens.take e.2).filter fun x => x.at l e.1.inst b false).length)

/-- A port of the floe's scratchpad store streams awaits an element of an earlier instruction (R130, R178). -/
def Floe.portsOut (f : Floe) : Bool := f.pend.any fun p => decide (248 ≤ p.reg) && (match look f.ports (p.reg - 248) with
  | some st => st.space != .glob
  | none => false)

/-- A descriptor or image of `n` bytes at one address for the whole floe, read as `lds` reads (R129, R224, R233): its value.
`addr` is what ADDR holds when the address is misaligned or out of the share (R440). It is read after the floe's earlier stores, those of
its ports too (R130). -/
def Ctx.readDesc (c : Ctx) (l : Space) (va : Nat) (al n addr : Nat) : Except Res (State × Nat) :=
  if c.f.portsOut ∨ c.s.bankBusy c.islot l then .error (.stall c.s)
  else if va % al ≠ 0 then .error (.trap 0x0010 c.act addr)
  else if c.s.shareSize c.bk l < va + n then .error (.trap 0x0012 c.act addr)
  else match c.checkPad c.s l (c.act.map fun x => (x, (va : Int))) al n true false false {} with
  | .error r => .error r
  | .ok (s, ps) =>
    let pa := (ps.headD (0, 0)).2
    let r := c.readPad s c.low l pa n none
    .ok (r.2.enterBank c.k c.f.fid c.low l pa n none, r.1)

/-! ## Pending results of accesses -/

/-- Open a pending result that lanes are awaited for: its serial. -/
def Ctx.await (c : Ctx) (s : State) (la : Nat) (p : Pend) : Nat × State :=
  match s.floe? c.k with
  | none => (0, s)
  | some f => (f.npend, s.setFloe c.k { f with npend := f.npend + 1, pend := f.pend ++ [{ p with n := f.npend, left := la, coord := f.coord }] })

/-- Where a floe stands: its slot or its save. -/
inductive Where where
  | slot (k : Nat)
  | save (i : Nat)
  | gone
deriving DecidableEq, Repr, Inhabited

/-- Find a floe by its serial, first in the slot it issued from (R249). -/
def State.whereIs (s : State) (k fid : Nat) : Where :=
  if ((s.floe? k).map (·.fid)) = some fid then .slot k
  else
    let q := islotOfFloe k
    match (slice s.floes (32 * q) (32 * q + 32)).find? (·.2.fid == fid) with
    | some e => .slot e.1
    | none => match (slice s.saves (64 * q) (64 * q + 64)).find? (·.2.fid == fid) with
      | some e => .save e.1
      | none => .gone

def State.floeBy (s : State) (k fid : Nat) : Option (Nat × Floe) :=
  match s.whereIs k fid with
  | .slot k => (s.floe? k).map fun f => (k, f)
  | .save i => (look s.saves i).map fun f => (32 * (i / 64), f)
  | .gone => none

/-- A precise trap, in every thread of a floe, of an engine operation that it had issued (R216). -/
def State.opTrap (s : State) (k fid code addr coord : Nat) : State :=
  match s.whereIs k fid with
  | .slot k => match s.floe? k with
    | some f => (s.modFloe k fun f => { f with past := true }).takeTrapAt k code (f.lanes.map (·.1)) addr coord
    | none => s
  | .save i => s.takeTrapSave i code addr coord
  | .gone => s

def State.modFid (s : State) (k fid : Nat) (f : Floe → Floe) : State :=
  match s.whereIs k fid with
  | .slot k => s.modFloe k f
  | .save i => { s with saves := match look s.saves i with
      | some x => put s.saves i (f x)
      | none => s.saves }
  | .gone => s

/-- A lane's value: values stand in ascending lane, as an instruction's elements reach a port (R178). -/
def Pend.arrive (p : Pend) (lane : Nat) (ws : List Word) (b : Option Bool) : Pend :=
  { p with
    vals := if ws = [] then p.vals else p.vals.filter (·.1 < lane) ++ (lane, ws) :: p.vals.filter (lane < ·.1)
    pvals := p.pvals ++ (b.toList.map fun b => (lane, b))
    need := p.need.filter (· ≠ lane) }

/-- A lane's value arrives for a pending result. -/
def State.arrivePend (s : State) (k fid n lane : Nat) (ws : List Word) (b : Option Bool) : State :=
  s.modFid k fid fun f => { f with pend := f.pend.map fun p => if p.n = n then p.arrive lane ws b else p }

/-! ## Port elements (R193) -/

/-- Translate and check elements of lanes of a load stream, or find them in their scratchpad: their bytes by lane. A fetch follows the
floe's earlier accesses to the bytes (R178). -/
def Ctx.elements (c : Ctx) (st : Stream) (es : List (Nat × Nat)) : Except Res (State × List (Nat × Nat)) :=
  let w := st.ty.width / 8
  if st.space = .glob then
    match c.checkHome (es.map fun e => ⟨e.1, st.tag * 2 ^ 60 + st.bidx * 2 ^ 48, wrap (st.addr e.1 e.2) 48⟩) w false true {} with
    | .error r => .error r
    | .ok (s, accs) =>
      if accs.any fun a => c.homeBehind a.place w then .error (.stall s)
      else if accs.any fun a => s.poisoned a.place w then .error .poison
      else .ok (accs.foldl (fun s a => (s.readSync c.k c.f a.lane .glob a.place.sys a.place.pa w none).migTouch c.core c.g.ctx
          (leafMig a.leaf a.size a.va) a.place) s,
        accs.map fun a => (a.lane, s.readPlace a.place w))
  else if c.s.bankBusy c.islot st.space then .error (.stall c.s)
  else
    match c.checkPad c.s st.space (es.map fun e => (e.1, st.addr e.1 e.2)) w w true false false {} with
    | .error r => .error r
    | .ok (s, ps) => .ok (ps.foldl (fun s p => (c.readPad s p.1 st.space p.2 w none).2.enterBank c.k c.f.fid p.1 st.space p.2 w none) s,
        ps.map fun p => (p.1, getN (s.lvl st.space) p.2 w))

/-- Why elements that have not arrived cannot: the answer of the checks that they fail; a stall when they are only on their way. -/
def Ctx.missing (c : Ctx) (st : Stream) (lanes : List Nat) : Res :=
  match c.elements st (lanes.map fun l => (l, lookD 0 st.pos l)) with
  | .error r => r
  | .ok _ => .stall c.s

/-- Pop the sources of an instruction (R56, R193, R195). When some lanes meet code 3 and others code 2, code 3 is raised and names its lanes
alone: the spec gives no order (DESIGN CHOICE, log 23). -/
def Ctx.popPorts (c : Ctx) : List (Nat × BitVec 8) → Floe → List (Nat × Nat × Word) → Except Res (Floe × List (Nat × Nat × Word))
  | [], f, acc => .ok (f, acc)
  | (pos, r) :: rest, f, acc =>
    match look f.ports (portNo r) with
    | none => .error (.trap 0x0014 c.act 0)
    | some st =>
      let off := failing c.act fun l => st.lanes.any (·.1 == l)
      let past := failing c.act fun l => decide (lookD 0 st.pos l < st.count)
      let late := c.act.filter fun l => (lookD [] st.fetched l).isEmpty
      if st.store then .error (.trap 0x0014 c.act 0)
      else if off ≠ [] then .error (.trap 0x0014 off 3)
      else if past ≠ [] then .error (.trap 0x0014 past 2)
      else if late ≠ [] then .error (c.missing st late)
      else
        let vals := c.act.map fun l => (pos, l, BitVec.ofInt 32 (rdVal st.ty ((lookD [] st.fetched l).headD 0)))
        let st' := { st with
          pos := c.act.foldl (fun t l => put t l (lookD 0 t l + 1)) st.pos
          fetched := c.act.foldl (fun t l => put t l ((lookD [] t l).drop 1)) st.fetched }
        c.popPorts rest { f with ports := put f.ports (portNo r) st' } (acc ++ vals)

/-- The checks of R176 and R289 that a home makes, for writes which reach it at a later commit: elements by lane and address, of `n` bytes,
under a pointer's tag and bounds index. Where the page does not translate now, they are left to the commit (R336). -/
def Ctx.elemChecks (c : Ctx) (hi : Nat) (es : List (Nat × Nat)) (n : Nat) : Option Res :=
  let accs : List GAcc := es.filterMap fun e => match c.s.xlat c.core c.g.ctx e.2 true with
    | .ok leaf size => some ⟨e.1, 2 ^ 48 * hi, e.2, leaf, size⟩
    | _ => none
  let bad := accs.filter fun a => !c.s.tagOk c.g.ctx a n
  let racing := accs.filter fun a => leafWatch a.leaf && (match c.s.shadow c.core c.g.ctx a.va with
    | .ok _ _ => !c.s.raceOk (c.s.agentOf c.k c.f {}) (.glob c.g.ctx a.va) n
    | _ => false)
  if accs.any fun a => c.s.asks c.g.ctx a && c.homeBehind a.place n then some (.stall c.s)
  else if bad ≠ [] then some (trapAt 0x0013 (bad.map fun a => (a.lane, a.va)))
  else if racing ≠ [] then some (trapAt 0x0019 (racing.map fun a => (a.lane, a.va)))
  else none

/-- Checks of a destination port before the instruction runs (R195), and of the places it would write. -/
def Ctx.dstPort (c : Ctx) (f : Floe) (r : BitVec 8) : Option Res :=
  match look f.ports (portNo r) with
  | none => some (.trap 0x0014 c.act 0)
  | some st =>
    let off := failing c.act fun l => st.lanes.any (·.1 == l)
    let past := failing c.act fun l => decide (lookD 0 st.pos l < st.count)
    if !st.store then some (.trap 0x0014 c.act 0)
    else if off ≠ [] then some (.trap 0x0014 off 3)
    else if past ≠ [] then some (.trap 0x0014 past 2)
    else
      let w := st.ty.width / 8
      if st.space = .glob then
        c.elemChecks (2 ^ 12 * st.tag + st.bidx) (c.act.map fun l => (l, wrap (st.addr l (lookD 0 st.pos l)) 48)) w
      else
      if c.s.bankBusy c.islot st.space then some (.stall c.s) else
      match c.checkPad c.s st.space (c.act.map fun l => (l, st.addr l (lookD 0 st.pos l))) w w false true false {} with
      | .error r => some r
      | .ok _ => none

end Sys2Proof.Machine
end

