-- ==== Sys2Proof/Machine/Issue.lean ====
section
/-! DEFINITION. Issue: what every Tlamas instruction goes through before and after its own part (R46 to R49, R56, R63 to R65, R189, R206,
R243, R253, R366, R381), and segment entry (R93, R142, R143). -/

namespace Sys2Proof.Machine

/-! ## Segment entry -/

/-- Position a floe at the entry a continuation word names in a resident copy; its uniform registers are zero (R93). -/
def State.enterCopy (s : State) (k cid : Nat) (c : SegCopy) (cont : Word) : State :=
  let h := hdrOf c
  let e := bits cont.toNat 11 4
  match s.floe? k with
  | none => s
  | some f =>
    if cont.toNat % 16 ≠ 0 ∨ bits h 50 45 ≤ e then s.takeTrap k 0x0005 (f.lanes.map (·.1)) cont.toNat
    else
      let p := hdrEntry h e
      { s.setFloe k { f with
        copy := cid, segid := c.seg, line := p.1, slot := p.2, wait := .none, uregs := [], second := 0
        pend := f.pend.map fun p => { p with ureg := none } } with
        segs := put s.segs cid { c with entered := s.clock (dieOf (coreOfFloe k)) } }

/-- A floe that waits for its segment enters it when a fresh copy is resident (R344, R348). -/
def State.tryEnter (s : State) (k : Nat) : State :=
  match s.floe? k with
  | none => s
  | some f =>
    match f.wait with
    | .seg cont =>
      let g := s.grid (s.block (f.bkey k)).grid
      match s.copyOf (coreOfFloe k) g.ctx g.code (bits cont.toNat 31 12) with
      | some (cid, c) => s.enterCopy k cid c cont
      | none => s
    | _ => s

/-- Intact continuation (R143): streams detach (R194), the reservation drops (R189), and the floe enters or waits for the segment. -/
def State.contIntact (s : State) (k : Nat) (cont : Word) : State :=
  let s := (s.detachAll k).dropResv k
  (s.modFloe k fun f => { f with wait := .seg cont, waitSince := s.clock (dieOf (coreOfFloe k)), mute := 0, bpHits := [], watchHits := [] }).tryEnter k

/-! ## Debug stops at issue (R366) -/

/-- Breakpoints that match a coordinate, with their ACT. -/
def State.breakpoints (s : State) (core ctx : Nat) (w : Word) : List (Nat × Nat) :=
  let ctl := (s.csr core 0x314).toNat
  if ctl % 16 = 0 then [] else
  (List.range 4).filterMap fun n =>
    if bitOf ctl n ∧ s.csr core (0x310 + n) = w ∧ coordOk w ∧ (!bitOf ctl 22 ∨ bits ctl 21 16 = ctx) then
      some (n, bits ctl (9 + 2 * n) (8 + 2 * n)) else none

/-! ## Hazards -/

/-- An operand meets a pending result's destination. -/
def Pend.meets (p : Pend) (os : List Opd) : Bool := os.any fun o => match o with
  | .reg f n _ => p.cnt ≠ 0 && runsMeet (f.toNat, n) (p.reg, p.cnt)
  | .pred q => q ≠ 7#8 && p.pred == some q.toNat
  | .ureg u => (p.ureg.map (·.1)) == some u.toNat

/-- Instructions that access memory, or hand a descriptor to an engine, and those that write a queue port: an acquire in flight holds them
(R179, R272). -/
def Instr.isAccess (i : Instr) : Bool := portDsts i ≠ [] || match i with
  | .ld _ | .st _ | .lds _ | .sts _ | .atom _ | .red _ | .lr _ | .sc _ | .stag _ | .ldtag _ | .accst _ | .accld _ | .dbind _
  | .dunbind _ | .satt _ | .atab _ | .mma _ | .cpbox _ | .cpred _ | .tmov _ | .mapr _ | .cbinit _ | .fence _ _ _ => true
  | _ => false

/-- An earlier acquire access that has not returned, or a store with the acquire half, or `stag`, not yet performed (R179, R190). -/
def State.held (s : State) (k : Nat) (f : Floe) : Bool :=
  f.pend.any (fun p => p.acq.isSome && !p.ready) || s.net.any fun e => e.2.hold && !e.2.performed && e.2.ofFloe k f

/-- The home of an access to a watched page, or one whose tags it checks, has not answered yet (R176, R290). -/
def State.asked (s : State) (fid : Nat) : Bool := s.net.any fun e => e.2.ask && !e.2.performed && e.2.fid == fid

/-- The thread holds a live reservation. -/
def Thread.liveResv (t : Thread) : Bool :=
  match t.resv with
  | some r => r.live
  | none => false

/-- Drop live reservations of the other floes of the issue slot (R189, R253). -/
def State.dropOthers (s : State) (k : Nat) (mine : List Nat) : State :=
  let q := islotOfFloe k
  let lo := threadKey q 0 0
  if (slice s.threads lo (lo + 1024)).any fun e => !mine.contains e.1 && e.2.liveResv then
    { s with threads := s.threads.map fun (e : Nat × Thread) =>
        if lo ≤ e.1 ∧ e.1 < lo + 1024 ∧ !mine.contains e.1 ∧ e.2.liveResv then
          (e.1, { e.2 with resv := none }) else e }
  else s

/-- A reservation hold of a floe lasts: 64 cycles, which stand still while its block is stopped (R253, R371). -/
def Floe.holds (f : Floe) (now : Nat) : Bool := match f.hold with
  | some t => decide (now < t + 64)
  | none => false

/-- Another floe of the issue slot holds a reservation hold (R253). Of two floes that hold one at once, which R253 does not foresee, neither
issues until a hold ends (DESIGN CHOICE, log 59). -/
def State.heldByOther (s : State) (k : Nat) : Bool :=
  let q := islotOfFloe k
  (slice s.floes (32 * q) (32 * q + 32)).any fun e => e.1 ≠ k && e.2.holds (s.clock (q / 512))

/-- A deferred entry or a matrix operation of the floe awaits a page's service (R216, R331, R336). A floe leaves its slot with no deferred
entry of it under way (log 28), so none is met by threads that have regrouped. -/
def State.suspended (s : State) (fid : Nat) : Bool :=
  (s.copies.any fun e => e.2.fid == fid && e.2.begun && (e.2.full || e.2.held ≠ []) && e.2.kind != 2 && e.2.desc.getLsbD 1) ||
  (s.wbs.any fun e => e.2.fid == fid && e.2.begun && (e.2.full || e.2.held ≠ [])) ||
  (s.mmas.any fun e => e.2.fid == fid && e.2.waiting)

/-- A load that issued with its walk still to end has not completed, and its window is over (R64). -/
def Floe.replays (f : Floe) : Bool := f.pend.any fun p => p.replay && p.left == 0 && !p.ready

/-- The fault unit of a die has room for another pending page (R331). -/
def State.pageRoom (s : State) (die : Nat) : Bool := decide ((s.fpages.filter (·.die == die)).length < 1024)

/-- Whether a floe may take its turn at all. The second of a pair is part of the issue that its first was (R61, R378). -/
def State.mayIssue (s : State) (k : Nat) (f : Floe) : Bool :=
  (f.second == 1 || s.replTurn (s.grid (s.block (f.bkey k)).grid).ctx k) && (s.block (f.bkey k)).stops == [] && f.cmd.isNone && !s.suspended f.fid &&
  !s.asked f.fid && !s.heldByOther k && !f.replays &&
  (match f.wait with
   | .page _ [] _ => s.pageRoom (dieOf (coreOfFloe k))
   | .bar _ _ _ => f.trap.isSome
   | .seg _ | .page _ _ _ => false
   | _ => true)

/-- A trial runs on the core (R381). -/
def State.inTrial (s : State) (core : Nat) : Bool := (s.csr core 0x323).getLsbD 31

/-- A coordinate in the trial's range, which is empty unless its ends name coordinates of one segment (R381). -/
def State.inRange (s : State) (core : Nat) (w : Word) : Bool :=
  let lo := s.csr core 0x321
  let hi := s.csr core 0x322
  coordOk lo && coordOk hi && bits lo.toNat 31 12 == bits hi.toNat 31 12 && decide (lo.toNat ≤ w.toNat ∧ w.toNat ≤ hi.toNat)

/-- R381: count an issue in TRIN or TROUT. -/
def State.trial (s : State) (core : Nat) (w : Word) : State :=
  if s.inTrial core then
    let n := if s.inRange core w then 0x324 else 0x325
    s.setCsr core n (s.csr core n + 1)
  else s

/-- The issue slot counts an issue of a floe at a coordinate (R253); an issue outside a trial's range holds it for D cycles (R381). -/
def State.countSched (s : State) (k fid : Nat) (w : Word) : State :=
  let sc : Sched := lookD {} s.sched (islotOfFloe k)
  let core := coreOfFloe k
  let now := s.clock (dieOf core)
  { s with sched := put s.sched (islotOfFloe k) { sc with
      last := k % 32, lastFid := fid, count := if sc.last = k % 32 ∧ sc.lastFid = fid then sc.count + 1 else 1, issues := sc.issues + 1, lastAt := some now
      holdTo := if s.inTrial core ∧ s.inRange core w = false then now + 1 + bits (s.csr core 0x323).toNat 7 0 else sc.holdTo } }

/-- The floe that issued notes when, and where it was (R253, R361); `f` is the floe as it stood. -/
def State.noteIssue (s : State) (k : Nat) (f : Floe) : State :=
  let now := s.clock (dieOf (coreOfFloe k))
  s.modFloe k fun x => if x.fid = f.fid then { x with lastIssue := now, issued := if f.second = 1 then x.issued else some (now, f.coord) } else x

/-- The context that a floe runs in; its block may have ended with an `exit`, which its threads note. -/
def State.floeCtx (s : State) (k : Nat) (f : Floe) : Nat :=
  match s.block? (f.bkey k) with
  | some b => (s.grid b.grid).ctx
  | none => (s.thread ((f.tkeys k).headD 0)).exitCtx

/-- What an issue leaves behind besides the instruction's own effect. A pair is one issue, counted with its first instruction (R61, R377). -/
def State.afterIssue (s : State) (k : Nat) (f : Floe) : State :=
  if f.second = 1 then s.noteIssue k f
  else ((((s.countSched k f.fid f.coord).noteIssue k f).trial (coreOfFloe k) f.coord).dropOthers k (f.tkeys k)).replLog {
    ctx := s.floeCtx k f, kind := 0, pos := replPos k f.blkr, seq := (lookD ({} : Sched) s.sched (islotOfFloe k)).issues }

/-- The windows of the results that were pending before this issue move on by one instruction (R63). -/
def State.countWindows (s : State) (k np : Nat) : State :=
  s.modFloe k fun f => { f with pend := f.pend.map fun p => if p.n < np ∧ 0 < p.left then { p with left := p.left - 1 } else p }

/-- The slot at a floe's position is the first of a pair (R61). -/
def State.pairFirst (s : State) (k : Nat) (f : Floe) : Bool :=
  f.second == 0 && (match s.floeCopy k f with
    | some c => linePair (c.lines.getD f.line 0) f.slot
    | none => false)

/-- The floe goes on with the next slot: after the first of a pair, with its second (R61). -/
def State.goOn (s : State) (k : Nat) : State :=
  s.modFloe k fun f => { s.advance k f with
    mute := 0, bpHits := [], watchHits := [], wait := .none, served := [], spawnRec := none, second := if s.pairFirst k f then 1 else 0 }

/-- A wait goes on when the instruction is tried again and waits in the same way; a wait at a barrier or `cbacq` begins when it does
(R249). -/
def Wait.goesOn : Wait → Wait → Bool
  | .none, _ => false
  | .bar a b c, .bar x y z => decide (a = x ∧ b = y ∧ c = z)
  | _, .bar _ _ _ => false
  | .cbacq a, .cbacq x => a == x
  | _, .cbacq _ => false
  | _, _ => true

/-- The floe waits here and tries again. -/
def State.waitHere (s : State) (k : Nat) (w : Wait) : State :=
  s.modFloe k fun f => { f with
    wait := w
    waitSince := if f.wait.goesOn w then f.waitSince else s.clock (dieOf (coreOfFloe k))
    occ := match s.floeCopy k f with
      | some c => lineOcc (c.lines.getD f.line 0)
      | none => f.occ }

/-- The lookahead-verify trap (R65): LVH is set in the trapping threads. -/
def State.takeVerify (s : State) (k : Nat) (f : Floe) (lanes : List Nat) : State :=
  (lanes.foldl (fun s l => match f.tkey k l with | some t => s.setLvh t | none => s) s).takeTrap k 0x0006 lanes 0

/-- Finish an issue by what the instruction's own part answered; `s0` is the state before it popped its ports. -/
def finish (s0 : State) (k : Nat) (f : Floe) (bk : Nat) : Res → State
  | .done s => ((s.countWindows k f.npend).goOn k).afterIssue k f
  | .jump s => (s.countWindows k f.npend).afterIssue k f
  | .trap code lanes addr => (s0.modFloe k fun x => { x with bpHits := [], watchHits := [] }).takeTrap k code lanes addr
  | .verify lanes => (s0.modFloe k fun x => { x with bpHits := [], watchHits := [] }).takeVerify k f lanes
  | .stall s => (s.modFloe k fun x => { x with ports := f.ports }).waitHere k .stall
  | .hold s w => (s.modFloe k fun x => { x with ports := f.ports }).waitHere k w
  | .page s fs w entry => (s.modFloe k fun x => { x with ports := f.ports }).pageFault k fs w entry
  | .fatal => s0.takeFatal k
  | .poison => s0.fatalStop (s0.block bk).grid (some (coreOfFloe k))
  | .uncorrectable s => s.fatalStop (s0.block bk).grid (some (coreOfFloe k))

/-- The guard, which a terminator does not have (R60). -/
def Instr.guard (i : Instr) : List Opd := if i.isTerm ∨ i.head.pred = 7 then [] else [.pred (i.head.pred.zeroExtend 8)]

/-- Operands that an instruction reads. -/
def Instr.readOpds (i : Instr) : List Opd := Instr.guard i ++ i.srcs

/-- R63, R42: a result that has no window left and is not written yet meets an operand; a terminator waits for results at ports. -/
def Floe.scoreHolds (f : Floe) (i : Instr) : Bool :=
  f.pend.any fun p => (p.left == 0 && p.meets (Instr.readOpds i ++ i.dsts)) || (i.isTerm && decide (248 ≤ p.reg))

/-- Instructions that run once per floe and do nothing when no lane is active (R49); `mark` with a value is one by its own rule (R380). -/
def Instr.oncePerFloe : Instr → Bool
  | .movkToUniform _ | .atab _ | .barWt _ | .barExp _ | .barinit _ _ _ _ | .satt _ | .aalloc _ | .afree _ | .accz _ | .accst _ | .accld _
  | .cpbox _ | .cpred _ | .tmov _ | .mapr _ | .wback _ _ _ | .unmapr _ _ _ | .cbinit _ | .cbacq _ _ _ | .cbrel _ _ | .dbind _ | .dunbind _
  | .markValue _ _ _ => true
  | _ => false

/-- The guard waits for a result (R63). -/
def Floe.guardHolds (f : Floe) (i : Instr) : Bool := f.pend.any fun p => p.left == 0 && p.meets (Instr.guard i)

/-- An access waits while an element of an earlier instruction has not come to a scratchpad store stream (R178). -/
def Instr.holdsPorts (i : Instr) (f : Floe) : Bool := Instr.isAccess i && f.portsOut

/-- The floe after the issue of one more instruction, for the second of a pair (R61, R63). -/
def Floe.afterOne (f : Floe) : Floe :=
  { f with pend := (f.pend.map fun p => { p with left := p.left - 1 }).filter fun p => !(p.ready && p.left == 0) }

/-- R48, R309: lanes whose guard is true and that are not muted; every present lane of a terminator (R60). -/
def State.actLanes (s : State) (i : Instr) (k : Nat) (f : Floe) : List Nat :=
  (f.lanes.map (·.1)).filter fun l =>
    i.isTerm || (((f.tkey k l).map fun t => s.predOf t i.head.pred.toNat != i.head.neg).getD false && !f.mute.getLsbD l)

/-- Lanes that a lane's instruction reads its source A in through `srcval` (R162, R164, R166); nothing for one that reads its own. -/
def State.crossReads (s : State) (i : Instr) (k : Nat) (f : Floe) (l : Nat) : Option (List Nat) :=
  match i with
  | .shfl o => some [shflLane o.func l (s.vreg ((f.tkey k l).getD 0) o.b.toNat).toNat]
  | .qswp o => some [l ^^^ (o.func.toNat + 1)]
  | .qdx o => some [(quadX o.func l).1, (quadX o.func l).2]
  | .qdy o => some [(quadY o.func l).1, (quadY o.func l).2]
  | _ => none

/-- The resident segment is quad-sensitive (R58). -/
def State.quadOf (s : State) (k : Nat) (f : Floe) : Bool := match s.floeCopy k f with
  | some c => hdrQuad (hdrOf c)
  | none => false

/-- A result that is pending has a value, or will have one, in a lane. -/
def Pend.inLane (p : Pend) (l : Nat) : Bool := p.ureg.isSome || p.need.contains l || p.vals.any (·.1 == l) || p.pvals.any (·.1 == l)

/-- R65: lanes in which the instruction reads a result inside its window, of their own or of a lane that they read (R162). -/
def State.earlyLanes (s : State) (i : Instr) (k : Nat) (f : Floe) (act : List Nat) : List Nat :=
  let early := f.pend.filter fun p => decide (0 < p.left)
  if early = [] then [] else
  (f.lanes.map (·.1)).filter fun l => early.any fun p =>
    (p.meets (Instr.guard i) && p.inLane l) ||
    (act.contains l && (match s.crossReads i k f l with
      | none => p.meets i.srcs && p.inLane l
      | some ms => (p.meets (i.srcs.drop 1) && p.inLane l) ||
          (p.meets (i.srcs.take 1) && ms.any fun m => ((f.srcLane (s.quadOf k f) m).map p.inLane).getD false)))

/-- R206: lanes in which an operand names a lent register. -/
def State.lentLanes (s : State) (i : Instr) (k : Nat) (f : Floe) (act : List Nat) : List Nat :=
  if s.mmas = [] then [] else act.filter fun l => match f.tkey k l with
    | some t => (s.lentRuns t).any fun r => (Instr.readOpds i ++ i.dsts).any fun o => match o with
      | .reg x n _ => decide (x.toNat < 248) && runsMeet (x.toNat, n) r
      | _ => false
    | none => false

/-- R406: a source register holds an uncorrectable error. -/
def State.ueReads (s : State) (i : Instr) (k : Nat) (f : Floe) (act : List Nat) : Bool :=
  s.latent != [] && act.any (fun l => ((f.tkey k l).map fun t => (Instr.readOpds i).any fun o => match o with
    | .reg x n _ => decide (x.toNat < 248) && s.ueRegs t x.toNat n
    | _ => false).getD false)

/-- The same errors logged. -/
def State.logReads (s : State) (i : Instr) (k : Nat) (f : Floe) (act : List Nat) : State :=
  let ctx := (s.grid (s.block (f.bkey k)).grid).ctx
  act.foldl (fun s l => match f.tkey k l with
    | some t => (Instr.readOpds i).foldl (fun s o => match o with
      | .reg x n _ => if x.toNat < 248 then s.logRegs t x.toNat n ctx else s
      | _ => s) s
    | none => s) s

/-- What an instruction sees of its floe before it pops its ports. -/
def issueCtx (i : Instr) (s : State) (k : Nat) (f : Floe) : Ctx :=
  ⟨s, k, f, s.actLanes i k f, coreOfFloe k, f.bkey k, s.grid (s.block (f.bkey k)).grid, s.quadOf k f, []⟩

/-- R56, R193, R195: the source ports are popped and the destination ports checked; with no active lane nothing is. -/
def Ctx.ports (c : Ctx) (i : Instr) : Except Res Ctx :=
  match (if c.act = [] then .ok (c.f, []) else c.popPorts (portSrcs i) c.f []) with
  | .error r => .error r
  | .ok (f, popped) =>
    match (if c.act = [] then none else (portDsts i).findSome? (c.dstPort f)) with
    | some r => .error r
    | none => .ok { c with s := if popped = [] then c.s else c.s.setFloe c.k f, f := f, popped := popped }

/-! ## Structure tables (R128, R137) -/

def tabDim (t : Nat) : Nat := t % 256

/-- Feature bit 4 of a die (R305). -/
def hasEight (die : Nat) : Bool := (Config.dcap die).getLsbD 4

/-- The table of a slot when the grid owns it. -/
def State.tableOf (s : State) (core slot grid : Nat) : Option Nat :=
  match look s.tables (8 * core + slot) with
  | some (t, g) => if g = grid then some t.toNat else none
  | none => none

/-- R137: the checks before any lane reads an operand: trap code and ADDR, or the table. -/
def Ctx.tabCheck (c : Ctx) (o : AlgOps) : Except (Nat × Nat) Nat :=
  let d := AlgOps.d' o
  if o.dim = 2 ∧ !hasEight c.die then .error (0x0037, 4)
  else if o.tslot = 0 then .ok 0
  else
    let held := match look c.s.tables (8 * c.core + o.tslot.toNat) with | some (t, _) => tabDim t.toNat | none => 0
    match c.s.tableOf c.core o.tslot.toNat (c.s.block c.bk).grid with
    | some t => if tabDim t = d then .ok t else .error (0x0038, o.tslot.toNat + 256 * tabDim t)
    | none => .error (0x0038, o.tslot.toNat + 256 * held)

/-- The traps that come before any operand is read (R137). -/
def Ctx.preTrap (c : Ctx) (i : Instr) : Option (Nat × Nat) :=
  match (if c.act = [] then none else algRow i) with
  | some (_, _, _, o) => (match c.tabCheck o with
    | .error e => some e
    | .ok _ => none)
  | none => none

/-! ## The slot at a floe's position -/

/-- The slot at a floe's position, decoded (R46); nothing when the floe is in no resident copy. -/
def State.fetchAt (s : State) (k : Nat) (f : Floe) : Option (Except Reject Instr) :=
  match s.floeCopy k f with
  | none => none
  | some c => if f.line = 0 then none else some (decode (lineSlot (c.lines.getD f.line 0) f.slot))

/-- The slot that a floe in a floe slot has come to. -/
def State.fetch (s : State) (k : Nat) : Option (Except Reject Instr) := (s.floe? k).bind fun f => s.fetchAt k f

/-- The bank queue that a scratchpad access would enter is full for its issue slot (R260). -/
def State.bankHolds (s : State) (i : Instr) (k : Nat) : Bool := match memRow i with
  | some (_, o) => o.space != .glob && s.bankBusy (islotOfFloe k) o.space
  | none => false

/-- The second of the pair that a floe is about to issue has to wait, for a result, an acquire, a port or a bank: the pair waits (R61). One
that waits for what its own part begins, a release or a commit, counts as issued with the pair (DESIGN CHOICE, log 53). -/
def State.mateHolds (s : State) (k : Nat) (f : Floe) : Bool :=
  s.pairFirst k f && (match s.fetchAt k (s.advance k f) with
    | some (.ok j) =>
      let g := f.afterOne
      if s.actLanes j k g = [] ∧ Instr.oncePerFloe j then g.guardHolds j
      else g.scoreHolds j || (Instr.isAccess j && s.held k g) || Instr.holdsPorts j g || (s.actLanes j k g != [] && s.bankHolds j k) ||
        (match (issueCtx j s k g).ports j with
        | .error (.stall _) => true
        | _ => false)
    | _ => false)

/-! ## Issue -/

/-- The instruction waits at the scoreboard (R63), for an earlier acquire (R179), or with its pair (R61). -/
def State.scoreWait (s : State) (i : Instr) (k : Nat) (f : Floe) : Bool :=
  f.scoreHolds i || (Instr.isAccess i && s.held k f) || Instr.holdsPorts i f || s.mateHolds k f

/-- R63, R65, R137, R206, R56: the checks between the breakpoint and the instruction's own part, then that part. A once-per-floe instruction
with no active lane whose guard reads an in-window result takes the verify trap: R49 says it takes no trap, R65 that any read traps (DESIGN
CHOICE, log 54). -/
def issueBody (i : Instr) (s : State) (k : Nat) (f : Floe) (body : Ctx → Res) : State :=
  let c := issueCtx i s k f
  let early := s.earlyLanes i k f c.act
  let lent := s.lentLanes i k f c.act
  if f.guardHolds i then s.waitHere k .score
  else if c.act = [] ∧ Instr.oncePerFloe i then
    (if c.g.ver ∧ early ≠ [] then s.takeVerify k f early else finish s k f c.bk (.done s))
  else if s.scoreWait i k f then s.waitHere k .score
  else match c.preTrap i with
  | some (code, addr) => finish s k f c.bk (.trap code c.act addr)
  | none =>
    if c.g.ver ∧ early ≠ [] then s.takeVerify k f early
    else if lent ≠ [] then s.takeTrap k 0x0034 lent 0
    else if s.ueReads i k f c.act then finish s k f c.bk (.uncorrectable (s.logReads i k f c.act))
    else match c.ports i with
      | .error r => finish s k f c.bk r
      | .ok c => finish s k f c.bk (body c)

/-- The registers that a floe's resident segment asks for (R59); none before the segment is resident. -/
def State.segRegs (s : State) (k : Nat) (f : Floe) : Nat :=
  match s.floeCopy k f with
  | some c => hdrRegs (hdrOf c)
  | none => 0

/-- What comes before an issue: results whose window has ended are written, a trap that is under way goes on, port writes found to race trap,
replay and the register count are checked, then the breakpoints (R63, R310, R366, R378, R243). -/
def State.beforeIssue (s : State) (k : Nat) (go : State → Floe → State) : State :=
  let s := s.settle k
  match s.floe? k with
  | none => s
  | some f =>
    if !s.mayIssue k f then s
    else if f.trap.isSome then s.enterHandler k
    else match f.raced with
    | some (ls, a, w) =>
      let u := if s.handlerWaits (s.block (f.bkey k)).grid then s else s.modFloe k fun f => { f with raced := none, past := true }
      u.takeTrapAt k 0x0019 ls a w.toNat
    | none =>
      let bk := f.bkey k
      let g := s.grid (s.block bk).grid
      let hits := (s.breakpoints (coreOfFloe k) g.ctx f.coord).filter fun h => !f.bpHits.contains h.1
      let a := strongest (hits.map (·.2))
      if f.second ≠ 1 ∧ s.replMode g.ctx = 2 ∧ (s.replEntry g.ctx k).isNone then s.diverge (s.block bk).grid (coreOfFloe k)
      else if g.nregs < s.segRegs k f then s.takeTrap k 0x0004 (f.lanes.map (·.1)) 0
      else if hits = [] then go s f
      else
        let s := hits.foldl (fun s h => s.traceFloe k f 4 h.1 f.coord.toNat (f.lanes.map (·.1))) s
        let f := { f with bpHits := f.bpHits ++ hits.map (·.1) }
        if a = 0 then go (s.setFloe k f) f
        else (s.setFloe k { f with second := if f.second = 1 then 2 else f.second }).actStop k bk a

/-- Issue instruction `i` for floe `k`. -/
def issueAt (i : Instr) (s : State) (k : Nat) (body : Ctx → Res) : State := s.beforeIssue k fun s f => issueBody i s k f body

/-- R70: bits that reach issue and are no instruction, after the breakpoints (R366). -/
def State.illegal (s : State) (k : Nat) : State :=
  s.beforeIssue k fun s _ => s.takeTrap k 0x0001 (((s.floe? k).map fun f => f.lanes.map (·.1)).getD []) 0

/-- Every Tlamas instruction: the floe whose turn it is issues it; imprecise faults that arose are then taken. -/
def issue (i : Instr) (s : State) (body : Ctx → Res) : Host.Outcome State Fault Refusal :=
  match s.floe? (FloeId.key s.cur) with
  | none => .fault .noFloe
  | some _ => .next ((issueAt i s (FloeId.key s.cur) body).settleDue 64)

end Sys2Proof.Machine
end

