-- ==== Sys2Proof/Machine/Int.lean ====
section
/-! DEFINITION. Integer, logic, move, predicate and pointer instructions (R71, R74 to R100). -/

namespace Sys2Proof.Machine

/-- The raw bits of an integer operand at a position: immediate, uniform register, pair or register (R51, R77, R78). -/
def Ctx.intRaw (c : Ctx) (o : IntOps) (pos : Nat) (r : BitVec 8) (t : IntTy) (lane : Nat) : Nat :=
  if pos = 1 ∧ o.form.isImm then immVal t o.imm
  else if o.form.isK then (c.ureg r).toNat
  else if t.width = 64 then c.rdPair r lane
  else (c.rd1 pos r lane).toNat

/-- `rd(SRCA, T)`, `rd(SRCB or immediate, T)`, `rd(SRCC, T)` of R77. -/
def Ctx.intA (c : Ctx) (o : IntOps) (lane : Nat) : Int := rdVal o.ty (c.intRaw o 0 o.a o.ty lane)
def Ctx.intB (c : Ctx) (o : IntOps) (lane : Nat) : Int := rdVal o.ty (c.intRaw o 1 o.b o.ty lane)
def Ctx.intC (c : Ctx) (o : IntOps) (lane : Nat) : Int := rdVal o.ty (c.intRaw o 2 o.c o.ty lane)
/-- The words of R86 to R89 on n(T) bits. -/
def Ctx.wordA (c : Ctx) (o : IntOps) (lane : Nat) : Nat := wrap (c.intA o lane) o.ty.width
def Ctx.wordB (c : Ctx) (o : IntOps) (lane : Nat) : Nat := wrap (c.intB o lane) o.ty.width
def Ctx.wordC (c : Ctx) (o : IntOps) (lane : Nat) : Nat := wrap (c.intC o lane) o.ty.width
/-- SRCB, or the immediate, read as .z32 whatever the type (R87, R88, R90). -/
def Ctx.z32B (c : Ctx) (o : IntOps) (lane : Nat) : Nat := c.intRaw o 1 o.b .z32 lane
/-- The lane whose predicates a K form reads (R78). -/
def Ctx.lowPresent (c : Ctx) : Nat := ((c.f.lanes.map (·.1)).headD 0)

/-- Write a uniform register, at once or as a pending result of every present lane when the instruction carries a lookahead (R63, R78). -/
def Ctx.uregOut (c : Ctx) (s : State) (la r : Nat) (w : Word) : State :=
  if la = 0 then s.setUreg c.k r w
  else s.modFloe c.k fun f => { f with
    npend := f.npend + 1, pend := f.pend ++ [{ n := f.npend, ureg := some (r, w), left := la, coord := f.coord }] }

/-- Write per-lane words to DST, or one word to a uniform register in a K form. -/
def Ctx.intOut (c : Ctx) (s : State) (o : IntOps) (f : Nat → List Word) : State :=
  if o.form.isK then c.uregOut s o.h.la.toNat o.d.toNat ((f c.lowPresent).headD 0)
  else c.deliver s o.h.la.toNat o.d (c.act.map fun l => (l, f l, 0))

/-- Write a predicate result per active lane, or to every present lane in a K form (R78). -/
def Ctx.predOut (c : Ctx) (s : State) (o : IntOps) (p : BitVec 8) (f : Nat → Bool) : State :=
  if o.form.isK then (c.f.lanes.map (·.1)).foldl (fun s l => c.wrPred s p l (f c.lowPresent)) s
  else c.act.foldl (fun s l => c.wrPred s p l (f l)) s

/-- The predicate an instruction reads in a lane; the lowest present lane's in a K form. -/
def Ctx.predIn (c : Ctx) (o : IntOps) (p : BitVec 8) (lane : Nat) : Bool :=
  c.s.predOf (c.t (if o.form.isK then c.lowPresent else lane)) p.toNat

/-- R81: compute exactly, fit once, write. -/
def arith (o : IntOps) (f : Int → Int → Int → Int) (c : Ctx) : Res :=
  .done (c.intOut c.s o fun l => wrWords o.ty (fit (f (c.intA o l) (c.intB o l) (c.intC o l)) o.ty o.sat))

/-- R86 to R90: a word of n(T) bits from the operand words. -/
def logic (o : IntOps) (f : Nat → Nat → Nat) (c : Ctx) : Res :=
  .done (c.intOut c.s o fun l => wrWords o.ty (f (c.wordA o l) (c.wordB o l) : Nat))

/-- R89: a count, always one 32-bit register. -/
def count (o : IntOps) (f : Nat → Nat → Nat) (c : Ctx) : Res :=
  .done (c.intOut c.s o fun l => [BitVec.ofNat 32 (f o.ty.width (c.wordA o l))])

def execNop (s : State) : Host.Outcome State Fault Refusal := issue .nop s fun c => .done c.s

def execMov (o : IntOps) (s : State) : Host.Outcome State Fault Refusal :=
  issue (.mov o) s fun c => .done (c.intOut c.s o fun l => wrWords o.ty (c.wordA o l : Nat))

def execMovi (o : IntOps) (s : State) : Host.Outcome State Fault Refusal :=
  issue (.movi o) s fun c => .done (c.intOut c.s o fun l => wrWords o.ty (rdVal o.ty (c.intRaw o 1 o.b o.ty l)))

/-- R92: the words of a special register in a lane. -/
def Ctx.special (c : Ctx) (code lane : Nat) : List Word :=
  let b := c.s.block c.bk
  let tid := (c.s.thread (c.t lane)).tid
  let one (n : Nat) : List Word := [BitVec.ofNat 32 n]
  match code with
  | 0x00 => one tid
  | 0x01 => one lane
  | 0x02 => one (lane / 4)
  | 0x03 => one (c.k % 32)
  | 0x04 => one (c.k / 32 % 4)
  | 0x05 => one (c.core % 128)
  | 0x06 => one (clusterOf c.core)
  | 0x07 => one c.die
  | 0x08 => one (Config.dieType c.die)
  | 0x09 => one (b.x c.g)
  | 0x0A => one (b.y c.g)
  | 0x0B => one (b.z c.g)
  | 0x0C => one c.g.nbx
  | 0x0D => one c.g.nby
  | 0x0E => one c.g.nbz
  | 0x0F => one b.drf
  | 0x10 => one (b.x c.g * c.g.bx + tid % c.g.bx)
  | 0x11 => one (b.y c.g * c.g.by' + tid / c.g.bx % c.g.by')
  | 0x12 => one (b.z c.g * c.g.bz + tid / c.g.bx / c.g.by')
  | _ => let n := c.s.seenClock c.g.ctx c.k; [BitVec.ofNat 32 n, BitVec.ofNat 32 (n / 2 ^ 32)]

def execMovs (o : IntOps) (s : State) : Host.Outcome State Fault Refusal :=
  issue (.movs o) s fun c =>
    if o.form.isK then
      let ws := c.special o.a.toNat c.lowPresent
      .done ((ws.zipIdx).foldl (fun s e => s.setUreg c.k (o.d.toNat + e.2) e.1) c.s)
    else .done (c.intOut c.s o fun l => c.special o.a.toNat l)

/-- R94, variant 0. -/
def execMovkToLane (o : IntOps) (s : State) : Host.Outcome State Fault Refusal :=
  issue (.movkToLane o) s fun c => .done (c.intOut c.s o fun _ => [c.ureg o.a])

/-- R94, variant 1. -/
def execMovkToUniform (o : IntOps) (s : State) : Host.Outcome State Fault Refusal :=
  issue (.movkToUniform o) s fun c =>
    .done (if c.act = [] then c.s else c.s.setUreg c.k o.d.toNat (c.rd1 0 o.a c.low))

def execIadd (o : IntOps) (s : State) : Host.Outcome State Fault Refusal := issue (.iadd o) s (arith o fun a b _ => a + b)
def execIsub (o : IntOps) (s : State) : Host.Outcome State Fault Refusal := issue (.isub o) s (arith o fun a b _ => a - b)
def execImul (o : IntOps) (s : State) : Host.Outcome State Fault Refusal := issue (.imul o) s (arith o fun a b _ => a * b)
def execImad (o : IntOps) (s : State) : Host.Outcome State Fault Refusal := issue (.imad o) s (arith o fun a b c => a * b + c)
def execImin (o : IntOps) (s : State) : Host.Outcome State Fault Refusal := issue (.imin o) s (arith o fun a b _ => min a b)
def execImax (o : IntOps) (s : State) : Host.Outcome State Fault Refusal := issue (.imax o) s (arith o fun a b _ => max a b)
def execIabs (o : IntOps) (s : State) : Host.Outcome State Fault Refusal := issue (.iabs o) s (arith o fun a _ _ => if a < 0 then -a else a)
def execIneg (o : IntOps) (s : State) : Host.Outcome State Fault Refusal := issue (.ineg o) s (arith o fun a _ _ => -a)

/-- R84. -/
def execIaddc (o : IntOps) (s : State) : Host.Outcome State Fault Refusal :=
  issue (.iaddc o) s fun c =>
    let sum (l : Nat) : Nat := c.wordA o l + c.wordB o l + (if c.predIn o o.c l then 1 else 0)
    .done (c.predOut (c.intOut c.s o fun l => [BitVec.ofNat 32 (sum l)]) o o.c fun l => decide (2 ^ 32 ≤ sum l))

/-- R82. -/
def execImulh (o : IntOps) (s : State) : Host.Outcome State Fault Refusal :=
  issue (.imulh o) s fun c =>
    .done (c.intOut c.s o fun l => wrWords o.ty (fit (c.intA o l * c.intB o l / 2 ^ o.ty.width) o.ty false))

/-- The 64-bit type of the same signedness. -/
def IntTy.wide (t : IntTy) : IntTy := if t.signed then .s64 else .z64

/-- R83. -/
def execImadw (o : IntOps) (s : State) : Host.Outcome State Fault Refusal :=
  issue (.imadw o) s fun c =>
    let w := IntTy.wide o.ty
    .done (c.intOut c.s o fun l => wrWords w (fit (c.intA o l * c.intB o l + rdVal w (c.rdPair o.c l)) w o.sat))

/-- R85: quotient and remainder. -/
def divide (t : IntTy) (sat : Bool) (a b : Int) : Int × Int :=
  if b = 0 then (if t.signed then -1 else 2 ^ t.width - 1, a)
  else if t.signed ∧ a = intLo t.width true ∧ b = -1 then (if sat then intHi t.width true else intLo t.width true, 0)
  else (a.tdiv b, a.tmod b)

def execIdiv (o : IntOps) (s : State) : Host.Outcome State Fault Refusal :=
  issue (.idiv o) s fun c => .done (c.intOut c.s o fun l => wrWords o.ty (divide o.ty o.sat (c.intA o l) (c.intB o l)).1)

def execIrem (o : IntOps) (s : State) : Host.Outcome State Fault Refusal :=
  issue (.irem o) s fun c => .done (c.intOut c.s o fun l => wrWords o.ty (divide o.ty o.sat (c.intA o l) (c.intB o l)).2)

def execAnd (o : IntOps) (s : State) : Host.Outcome State Fault Refusal := issue (.and o) s (logic o fun a b => a &&& b)
def execOr (o : IntOps) (s : State) : Host.Outcome State Fault Refusal := issue (.or o) s (logic o fun a b => a ||| b)
def execXor (o : IntOps) (s : State) : Host.Outcome State Fault Refusal := issue (.xor o) s (logic o fun a b => a ^^^ b)
def execNot (o : IntOps) (s : State) : Host.Outcome State Fault Refusal :=
  issue (.not o) s (logic o fun a _ => 2 ^ o.ty.width - 1 - a)

/-- R87: a shift of the word of SRCA by the whole of SRCB or the immediate. -/
def shift (o : IntOps) (f : Nat → Nat → Nat → Nat) (c : Ctx) : Res :=
  .done (c.intOut c.s o fun l => wrWords o.ty (f o.ty.width (c.wordA o l) (c.z32B o l) : Nat))

def shlF (w a s : Nat) : Nat := if s < w then a * 2 ^ s % 2 ^ w else 0
def shrF (w a s : Nat) : Nat := if s < w then a / 2 ^ s else 0
def sarF (w a s : Nat) : Nat := wrap (sext a w / 2 ^ (min s w)) w
def rolF (w a s : Nat) : Nat := let r := s % w; (a * 2 ^ r + a / 2 ^ (w - r)) % 2 ^ w

def execShl (o : IntOps) (s : State) : Host.Outcome State Fault Refusal := issue (.shl o) s (shift o shlF)
def execShr (o : IntOps) (s : State) : Host.Outcome State Fault Refusal := issue (.shr o) s (shift o shrF)
def execSar (o : IntOps) (s : State) : Host.Outcome State Fault Refusal := issue (.sar o) s (shift o sarF)
def execRol (o : IntOps) (s : State) : Host.Outcome State Fault Refusal := issue (.rol o) s (shift o rolF)

/-- R88: the clamped field of a descriptor: position and length. -/
def fieldOf (w d : Nat) : Nat × Nat :=
  let pos := min (d % 256) w
  (pos, min (d / 256 % 256) (w - pos))

def execBfe (o : IntOps) (s : State) : Host.Outcome State Fault Refusal :=
  issue (.bfe o) s fun c => .done (c.intOut c.s o fun l =>
    let p := fieldOf o.ty.width (c.z32B o l)
    let x := c.wordA o l / 2 ^ p.1 % 2 ^ p.2
    wrWords o.ty (if o.ty.signed then sext x p.2 else x))

def execBfi (o : IntOps) (s : State) : Host.Outcome State Fault Refusal :=
  issue (.bfi o) s fun c => .done (c.intOut c.s o fun l =>
    let p := fieldOf o.ty.width (c.z32B o l)
    let base := c.wordC o l
    let old := base / 2 ^ p.1 % 2 ^ p.2
    wrWords o.ty ((base - old * 2 ^ p.1 + c.wordA o l % 2 ^ p.2 * 2 ^ p.1 : Nat) : Int))

def onesOf (w a : Nat) : Nat := ((List.range w).filter fun i => bitOf a i).length
def clzOf (w a : Nat) : Nat := if a = 0 then w else w - 1 - Nat.log2 a
def ctzOf (w a : Nat) : Nat := ((List.range w).find? fun i => bitOf a i).getD w
def brevOf (w a : Nat) : Nat := (List.range w).foldl (fun acc i => if bitOf a i then acc + 2 ^ (w - 1 - i) else acc) 0

def execPopc (o : IntOps) (s : State) : Host.Outcome State Fault Refusal := issue (.popc o) s (count o onesOf)
def execClz (o : IntOps) (s : State) : Host.Outcome State Fault Refusal := issue (.clz o) s (count o clzOf)
def execCtz (o : IntOps) (s : State) : Host.Outcome State Fault Refusal := issue (.ctz o) s (count o ctzOf)
def execBrev (o : IntOps) (s : State) : Host.Outcome State Fault Refusal :=
  issue (.brev o) s (logic o fun a _ => brevOf o.ty.width a)

/-- R90: byte `i` of the destination by its selector nibble. -/
def prmByte (src sel i : Nat) : Nat :=
  let n := sel / 16 ^ i % 16
  let b := src / 256 ^ (n % 8) % 256
  if n < 8 then b else if 128 ≤ b then 255 else 0

def execPrm (o : IntOps) (s : State) : Host.Outcome State Fault Refusal :=
  issue (.prm o) s fun c => .done (c.intOut c.s o fun l =>
    let src := c.wordA o l + 2 ^ 32 * c.wordC o l
    let sel := c.z32B o l
    [BitVec.ofNat 32 ((List.range 4).foldl (fun acc i => acc + prmByte src sel i * 256 ^ i) 0)])

/-- A comparison under a condition (R74). -/
def condHolds (k : Cond) (a b : Int) : Bool :=
  match k with
  | .eq => a == b | .ne => a != b | .lt => decide (a < b) | .le => decide (a ≤ b) | .gt => decide (b < a) | .ge => decide (b ≤ a)

def execIcmp (o : IntOps) (s : State) : Host.Outcome State Fault Refusal :=
  issue (.icmp o) s fun c => .done (c.predOut c.s o o.d fun l => condHolds o.cond (c.intA o l) (c.intB o l))

def execSel (o : IntOps) (s : State) : Host.Outcome State Fault Refusal :=
  issue (.sel o) s fun c => .done (c.intOut c.s o fun l =>
    wrWords o.ty (if c.predIn o o.c l then c.wordA o l else c.wordB o l : Nat))

def execPlop (o : IntOps) (s : State) : Host.Outcome State Fault Refusal :=
  issue (.plop o) s fun c => .done (c.predOut c.s o o.d fun l =>
    let n (p : BitVec 8) : Nat := if c.predIn o p l then 1 else 0
    bitOf o.imm.toNat (4 * n o.a + 2 * n o.b + n o.c))

/-! ## Pointers (R98 to R100) -/

def ptrVa (p : Nat) : Nat := p % 2 ^ 48
def ptrBidx (p : Nat) : Nat := bits p 59 48
def ptrTag (p : Nat) : Nat := bits p 63 60

def execPadd (o : IntOps) (s : State) : Host.Outcome State Fault Refusal :=
  issue (.padd o) s fun c => .done (c.intOut c.s o fun l =>
    let p := c.rdPair o.a l
    wrWords .z64 (p / 2 ^ 48 * 2 ^ 48 + wrap (ptrVa p + c.intB o l) 48 : Nat))

def execPsub (o : IntOps) (s : State) : Host.Outcome State Fault Refusal :=
  issue (.psub o) s fun c => .done (c.intOut c.s o fun l =>
    wrWords .s64 ((ptrVa (c.rdPair o.a l) : Int) - ptrVa (c.rdPair o.b l)))

def execPcmp (o : IntOps) (s : State) : Host.Outcome State Fault Refusal :=
  issue (.pcmp o) s fun c => .done (c.predOut c.s o o.d fun l => condHolds o.cond (ptrVa (c.rdPair o.a l)) (ptrVa (c.rdPair o.b l)))

/-- R100: validity, range and the permissions OPX names. -/
def State.pbnd (s : State) (ctx p size : Nat) (perm : BitVec 4) : Bool :=
  let e := s.bent ctx (ptrBidx p)
  bentOk e && decide (bentBase e ≤ ptrVa p ∧ ptrVa p + size ≤ bentLimit e) &&
    (!perm.getLsbD 0 || bentR e) && (!perm.getLsbD 1 || bentW e) && (!perm.getLsbD 2 || bentA e) && (!perm.getLsbD 3 || bentB e)

def execPbnd (o : IntOps) (s : State) : Host.Outcome State Fault Refusal :=
  issue (.pbnd o) s fun c => .done (c.predOut c.s o o.d fun l => c.s.pbnd c.g.ctx (c.rdPair o.a l) (c.z32B o l) o.opx)

end Sys2Proof.Machine
end

