-- ==== Sys2Proof/Machine/Fp.lean ====
section
/-! DEFINITION. Floating-point arithmetic, functions, conversion and packed dot products (R101 to R124). -/

namespace Sys2Proof.Machine

/-! ## Operands (R102, R105) -/

def fpFmt : FpTy → Fmt
  | .f32 => .f32
  | .f16 | .f16x2 => .f16
  | .bf16 | .bf16x2 => .bf16

def fpElems : FpTy → Nat
  | .f16x2 | .bf16x2 => 2
  | _ => 1

/-- The raw register or immediate of a float operand. -/
def Ctx.fpRaw (c : Ctx) (o : FpOps) (pos : Nat) (r : BitVec 8) (lane : Nat) : Nat :=
  if pos = 1 ∧ o.isImm then o.imm.toNat else (c.rd1 pos r lane).toNat

/-- `fget`. -/
def fget (t : FpTy) (w e : Nat) : Nat :=
  match t with
  | .f32 => w
  | .f16 | .bf16 => w % 2 ^ 16
  | .f16x2 | .bf16x2 => bits w (16 * e + 15) (16 * e)

/-- The elements' results in one register, their flags ORed. -/
def packElems (t : FpTy) (g : Nat → Nat × Fl) : Nat × Fl :=
  (List.range (fpElems t)).foldl (fun acc e => let r := g e; (acc.1 + r.1 * 2 ^ (16 * e), acc.2 ||| r.2)) (0, 0)

/-- Write one register and flags per active lane. -/
def Ctx.fpOut (c : Ctx) (s : State) (la : Nat) (d : BitVec 8) (f : Nat → Nat × Fl) : State :=
  c.deliver s la d (c.act.map fun l => let r := f l; (l, [BitVec.ofNat 32 r.1], r.2))

/-- Element by element over a format operation that takes the draw and the operand codes; the generator advances under `.sr` (R34). -/
def fpLanes (o : FpOps) (g : Nat → Nat → Nat → Nat → Nat × Fl) (c : Ctx) : Res :=
  let sr := c.srStep o.rnd
  .done (c.fpOut sr.2 o.h.la.toNat o.d fun l =>
    let a := c.fpRaw o 0 o.a l
    let b := c.fpRaw o 1 o.b l
    let x := c.fpRaw o 2 o.c l
    packElems o.ty fun e => g (drawOf sr.1 l e) (fget o.ty a e) (fget o.ty b e) (fget o.ty x e))

def execFadd (o : FpOps) (s : State) : Host.Outcome State Fault Refusal :=
  issue (.fadd o) s (fpLanes o fun d a b _ => fAdd (fpFmt o.ty) o.rnd o.ovf d a b)
def execFsub (o : FpOps) (s : State) : Host.Outcome State Fault Refusal :=
  issue (.fsub o) s (fpLanes o fun d a b _ => fSub (fpFmt o.ty) o.rnd o.ovf d a b)
def execFmul (o : FpOps) (s : State) : Host.Outcome State Fault Refusal :=
  issue (.fmul o) s (fpLanes o fun d a b _ => fMul (fpFmt o.ty) o.rnd o.ovf d a b)
def execFfma (o : FpOps) (s : State) : Host.Outcome State Fault Refusal :=
  issue (.ffma o) s (fpLanes o fun d a b x => fFma (fpFmt o.ty) o.rnd o.ovf d a b x)
def execFmin (o : FpOps) (s : State) : Host.Outcome State Fault Refusal :=
  issue (.fmin o) s (fpLanes o fun _ a b _ => fMinMax (fpFmt o.ty) false a b)
def execFmax (o : FpOps) (s : State) : Host.Outcome State Fault Refusal :=
  issue (.fmax o) s (fpLanes o fun _ a b _ => fMinMax (fpFmt o.ty) true a b)
/-- R111. -/
def execFabs (o : FpOps) (s : State) : Host.Outcome State Fault Refusal :=
  issue (.fabs o) s (fpLanes o fun _ a _ _ => (a % (fpFmt o.ty).signBit, 0))
def execFneg (o : FpOps) (s : State) : Host.Outcome State Fault Refusal :=
  issue (.fneg o) s (fpLanes o fun _ a _ _ => (a ^^^ (fpFmt o.ty).signBit, 0))
def execFdiv (o : FpOps) (s : State) : Host.Outcome State Fault Refusal :=
  issue (.fdiv o) s (fpLanes o fun d a b _ => fDiv (fpFmt o.ty) o.rnd o.ovf d a b)
def execFsqrt (o : FpOps) (s : State) : Host.Outcome State Fault Refusal :=
  issue (.fsqrt o) s (fpLanes o fun d a _ _ => fSqrt (fpFmt o.ty) o.rnd o.ovf d a)
def execFrcp (o : FpOps) (s : State) : Host.Outcome State Fault Refusal :=
  issue (.frcp o) s (fpLanes o fun d a _ _ => fRcp (fpFmt o.ty) o.rnd o.ovf d a)
def execFrsq (o : FpOps) (s : State) : Host.Outcome State Fault Refusal :=
  issue (.frsq o) s (fpLanes o fun d a _ _ => fRsq (fpFmt o.ty) o.rnd o.ovf d a)
def execFrnd (o : FpOps) (s : State) : Host.Outcome State Fault Refusal :=
  issue (.frnd o) s (fpLanes o fun _ a _ _ => fRnd (fpFmt o.ty) o.rnd a)
def execFclass (o : FpOps) (s : State) : Host.Outcome State Fault Refusal :=
  issue (.fclass o) s (fpLanes o fun _ a _ _ => (fClass (fpFmt o.ty) a, 0))

/-- R113. -/
def execFcmp (o : FpOps) (s : State) : Host.Outcome State Fault Refusal :=
  issue (.fcmp o) s fun c => .done (c.act.foldl (fun s l =>
    let r := fCmp (fpFmt o.ty) o.opx.toNat (fget o.ty (c.fpRaw o 0 o.a l) 0) (fget o.ty (c.fpRaw o 1 o.b l) 0)
    (c.wrPred s o.d l r.1).orFlags (c.t l) r.2) c.s)

/-! ## Functions (R115 to R118), on FP32 codes -/

def stMul (a b : Nat) : Nat := (fMul .f32 .rne false 0 a b).1
def stAdd (a b : Nat) : Nat := (fAdd .f32 .rne false 0 a b).1
def stSub (a b : Nat) : Nat := (fSub .f32 .rne false 0 a b).1
def stDiv (a b : Nat) : Nat := (fDiv .f32 .rne false 0 a b).1
def stFma (a b c : Nat) : Nat := (fFma .f32 .rne false 0 a b c).1
/-- An integer as an FP32 code. -/
def stInt (n : Int) : Nat := (deliver .f32 .rne false 0 (intVal n)).1

/-- R115: nonzero, and below the smallest normal of the format once rounded with an unbounded exponent range. -/
def tinyVal (f : Fmt) : FVal → Bool
  | .fin s m e =>
    let top := (Nat.log2 m : Int) + e
    if f.emin ≤ top then false
    else
      let q := top - (f.p - 1 : Nat)
      scaledLt (roundStep .rne 0 s m e q false).1 q 1 f.emin
  | _ => false

/-- The exact value that an `fma` step rounds. -/
def fmaVal (a b c : Nat) : FVal := sumVal .rne [((Fmt.f32.val a).mul (Fmt.f32.val b)).1, Fmt.f32.val c]

/-- What an algorithm gives: FP32 code, flags it states, whether the mathematical value is met, whether its final step is tiny,
whether UF is set whatever the final step. -/
structure FnRes where
  code : Nat
  flags : Fl := 0
  exact : Bool := false
  tiny : Bool := false
  row : Bool := false
deriving DecidableEq, Repr

/-- Value at least `2^k` in magnitude. -/
def magGe (m : Nat) (e : Int) (k : Int) : Bool := decide (k ≤ (Nat.log2 m : Int) + e)

/-- R116. -/
def fnEx2 (x : Nat) : FnRes :=
  match Fmt.f32.val x with
  | .nan _ => ⟨0x7FC00000, 0, true, false, false⟩
  | .inf s => ⟨if s then 0 else 0x7F800000, 0, true, false, false⟩
  | v =>
    let n : Int := match v with
      | .fin s m e => let r := (roundStep .rne 0 s m e 0 false).1; if s then -(r : Int) else r
      | _ => 0
    if (match v with | .fin _ m e => magGe m e 8 | _ => false) then
      (if v.neg? then ⟨0, flUF ||| flNX, false, false, true⟩ else ⟨0x7F800000, flOF ||| flNX, false, false, true⟩)
    else
      let f := stSub x (stInt n)
      let y := stMul f 0x3F317218
      let p := stFma y 0x39500D01 0x3AB60B61
      let p := [0x3C088889, 0x3D2AAAAB, 0x3E2AAAAB, 0x3F000000, 0x3F800000].foldl (fun p k => stFma y p k) p
      let g : FVal := match Fmt.f32.val (stFma y p 0x3F800000) with
        | .fin s m e => .fin s m (e + n)
        | v => v
      let r := deliver .f32 .rne false 0 g
      ⟨r.1, r.2 &&& ~~~flUF, decide (f % 2 ^ 31 = 0), tinyVal .f32 g, false⟩

/-- R117. -/
def fnLg2 (x : Nat) : FnRes :=
  match Fmt.f32.val x with
  | .nan _ => ⟨0x7FC00000, 0, true, false, false⟩
  | .zero _ => ⟨0xFF800000, flDZ, true, false, false⟩
  | .inf true | .fin true _ _ => ⟨0x7FC00000, flNV, true, false, false⟩
  | .inf false => ⟨0x7F800000, 0, true, false, false⟩
  | .fin false m e =>
    let k : Int := (Nat.log2 m : Int) + e
    let m1 := (deliver .f32 .rne false 0 (.fin false m (e - k))).1
    let big := decide (0x3FB504F3 < m1)
    let m2 := if big then m1 - 0x800000 else m1
    let kc := stInt (if big then k + 1 else k)
    let u := stDiv (stSub m2 0x3F800000) (stAdd m2 0x3F800000)
    let s := stMul u u
    let p := stFma s 0x3DE38E39 0x3E124925
    let p := stFma s p 0x3E4CCCCD
    let p := stFma s p 0x3EAAAAAB
    let w := stFma (stMul u s) p u
    ⟨stFma w 0x4038AA3B kc, 0, decide (m = 2 ^ Nat.log2 m), tinyVal .f32 (fmaVal w 0x4038AA3B kc), false⟩

/-- floor(pi * 2^256). -/
def piBits : Nat := 0x3243f6a8885a308d313198a2e03707344a4093822299f31d0082efa98ec4e6c89

/-- R118: the reduced argument and the quadrant count. -/
def reduceArg (x : Nat) (s : Bool) (m : Nat) (e : Int) : Int × Nat :=
  let xx : Int := (if s then -(m : Int) else m) * 2 ^ (e + 257).toNat
  let n : Int := (2 * xx + piBits) / (2 * piBits)
  let d := xx - n * piBits
  (n, if n = 0 then x else (roundTo .f32 .rne false 0 (decide (d < 0)) d.natAbs (-257) true).1)

/-- R118; `cos` picks `fcos`. -/
def fnSinCos (cos : Bool) (x : Nat) : FnRes :=
  match Fmt.f32.val x with
  | .nan _ => ⟨0x7FC00000, 0, true, false, false⟩
  | .inf _ => ⟨0x7FC00000, flNV, true, false, false⟩
  | .zero _ => ⟨if cos then 0x3F800000 else x, 0, true, false, false⟩
  | .fin sg m e =>
    if scaledLt 1 20 m e then ⟨0x7FC00000, flNV, true, false, false⟩
    else
      let r := reduceArg x sg m e
      let t := r.2
      let s := stMul t t
      let p := stFma s 0x3638EF1D 0xB9500D01
      let p := stFma s p 0x3C088889
      let p := stFma s p 0xBE2AAAAB
      let ts := stMul t s
      let sn := stFma ts p t
      let tsn := tinyVal .f32 (fmaVal ts p t)
      let c := stFma s 0x37D00D01 0xBAB60B61
      let c := stFma s c 0x3D2AAAAB
      let c := stFma s c 0xBF000000
      let cs := stFma s c 0x3F800000
      let tcs := tinyVal .f32 (fmaVal s c 0x3F800000)
      let q := ((if cos then r.1 + 1 else r.1) % 4).toNat
      let neg (v : Nat) : Nat := v ^^^ 0x80000000
      match q with
      | 0 => ⟨sn, 0, false, tsn, false⟩
      | 1 => ⟨cs, 0, false, tcs, false⟩
      | 2 => ⟨neg sn, 0, false, tsn, false⟩
      | _ => ⟨neg cs, 0, false, tcs, false⟩

/-- R115: widen, run, narrow; the flags. OF and UF come of the final step alone, for a narrow type the rounding into it. -/
def fnApply (f : Fmt) (g : Nat → FnRes) (a : Nat) : Nat × Fl :=
  match f.val a with
  | .nan sig => (f.nan, flIf sig flNV)
  | v =>
    let x := if f = Fmt.f32 then a else (deliver .f32 .rne false 0 v).1
    let r := g x
    let fin : Nat × Fl × Bool :=
      if f = Fmt.f32 then (r.code, r.flags, r.tiny)
      else
        let w := Fmt.f32.val r.code
        let d := deliver f .rne false 0 w
        (d.1, (if r.row then r.flags else r.flags &&& ~~~flOF) ||| (d.2 &&& ~~~flUF), tinyVal f w)
    let fl := fin.2.1 ||| flIf (!r.exact) flNX
    (fin.1, fl ||| flIf (fin.2.2 && fl.getLsbD 0) flUF)

def execFex2 (o : FpOps) (s : State) : Host.Outcome State Fault Refusal :=
  issue (.fex2 o) s (fpLanes o fun _ a _ _ => fnApply (fpFmt o.ty) fnEx2 a)
def execFlg2 (o : FpOps) (s : State) : Host.Outcome State Fault Refusal :=
  issue (.flg2 o) s (fpLanes o fun _ a _ _ => fnApply (fpFmt o.ty) fnLg2 a)
def execFsin (o : FpOps) (s : State) : Host.Outcome State Fault Refusal :=
  issue (.fsin o) s (fpLanes o fun _ a _ _ => fnApply (fpFmt o.ty) (fnSinCos false) a)
def execFcos (o : FpOps) (s : State) : Host.Outcome State Fault Refusal :=
  issue (.fcos o) s (fpLanes o fun _ a _ _ => fnApply (fpFmt o.ty) (fnSinCos true) a)

/-! ## Conversion (R119 to R122) -/

def cfmtSigned : CFmt → Bool
  | .s8 | .s16 | .s32 | .s64 => true
  | _ => false

/-- Width of the element a format takes in a register (R18, R120). -/
def cfmtW (f : CFmt) : Nat := CFmt.width f

/-- R122: the destination's bits for a converted element `y`. -/
def cvtPlace (o : CvtOps) (old y : Nat) : Nat :=
  let w := cfmtW o.dfmt
  let at' := w * o.del.toNat
  if o.mrg then old - bits old (at' + w - 1) at' * 2 ^ at' + y * 2 ^ at'
  else
    let total := if w = 64 then 64 else 32
    let sign := cfmtSigned o.dfmt && bitOf y (w - 1)
    y * 2 ^ at' + (if sign then 2 ^ total - 2 ^ (at' + w) else 0)

/-- R119 to R122. DESIGN CHOICE (log 38): a conversion under `.sr` that rounds nothing (integer to integer, one float format to itself) counts as
rounding stochastically in R34: it is accepted and steps the generator. -/
def execCvt (o : CvtOps) (s : State) : Host.Outcome State Fault Refusal :=
  issue (.cvt o) s fun c =>
    let sr := c.srStep o.rnd
    .done (c.deliver sr.2 0 o.d (c.act.map fun l =>
      let w := if cfmtW o.sfmt = 64 then c.rdPair o.a l else (c.rd1 0 o.a l).toNat
      let sw := cfmtW o.sfmt
      let x := bits w (sw * o.sel.toNat + sw - 1) (sw * o.sel.toNat)
      let r := convert (cfmtNum o.sfmt) (cfmtNum o.dfmt) o.rnd o.ovf (drawOf sr.1 l o.del.toNat) x
      let v := cvtPlace o (if o.mrg then (c.rd1 1 o.d l).toNat else 0) r.1
      (l, if cfmtW o.dfmt = 64 then [BitVec.ofNat 32 v, BitVec.ofNat 32 (v / 2 ^ 32)] else [BitVec.ofNat 32 v], r.2)))

/-! ## Dot products (R123, R124) -/

/-- R123 over `n` elements of `w` bits. -/
def dotInt (n w : Nat) (sa sb sat : Bool) (a b x : Nat) : Nat :=
  let el (signed : Bool) (v e : Nat) : Int := intOfCode (bits v (w * e + w - 1) (w * e)) w signed
  let sum := (List.range n).foldl (fun acc e => acc + el sa a e * el sb b e) (sext x 32)
  wrap (fit sum .s32 sat) 32

def execIdp4 (o : FpOps) (s : State) : Host.Outcome State Fault Refusal :=
  issue (.idp4 o) s fun c => .done (c.fpOut c.s 0 o.d fun l =>
    (dotInt 4 8 (o.opx.getLsbD 1) (o.opx.getLsbD 0) o.ovf (c.fpRaw o 0 o.a l) (c.fpRaw o 1 o.b l) (c.fpRaw o 2 o.c l), 0))

def execIdp8 (o : FpOps) (s : State) : Host.Outcome State Fault Refusal :=
  issue (.idp8 o) s fun c => .done (c.fpOut c.s 0 o.d fun l =>
    (dotInt 8 4 (o.opx.getLsbD 1) (o.opx.getLsbD 0) o.ovf (c.fpRaw o 0 o.a l) (c.fpRaw o 1 o.b l) (c.fpRaw o 2 o.c l), 0))

/-- R124. -/
def fDp2 (f : Fmt) (rnd : Rnd) (sat : Bool) (draw a b x : Nat) : Nat × Fl :=
  let v (w e : Nat) : FVal := f.val (bits w (16 * e + 15) (16 * e))
  r108 .f32 rnd sat draw [v a 0, v a 1, v b 0, v b 1, Fmt.f32.val x]
    [(v a 0).mul (v b 0), (v a 1).mul (v b 1), (Fmt.f32.val x, false)]

def execFdp2 (o : FpOps) (s : State) : Host.Outcome State Fault Refusal :=
  issue (.fdp2 o) s fun c =>
    let sr := c.srStep o.rnd
    .done (c.fpOut sr.2 0 o.d fun l =>
      fDp2 (fpFmt o.ty) o.rnd o.ovf (drawOf sr.1 l 0) (c.fpRaw o 0 o.a l) (c.fpRaw o 1 o.b l) (c.fpRaw o 2 o.c l))

end Sys2Proof.Machine
end

