-- ==== Sys2Proof/Machine/Algebra.lean ====
section
/-! DEFINITION. Algebra elements: structure tables and the six lane instructions (R125 to R140). -/

namespace Sys2Proof.Machine

def tabConj (t : Nat) : Nat := bits t 15 8
/-- Entry (i, j): sign code and k (R126). -/
def tabEnt (t i j : Nat) : Nat × Nat := let e := bits t (68 + 5 * (8 * i + j)) (64 + 5 * (8 * i + j)); (e / 8, e % 8)

/-- R127. -/
def tabOk (t : Nat) : Bool :=
  let d := tabDim t
  (d == 2 || d == 4 || d == 8) && decide (bits t 511 384 = 0 ∧ bits t 63 16 = 0 ∧ tabConj t < 2 ^ d) &&
    (List.range 8).all fun i => (List.range 8).all fun j =>
      let e := tabEnt t i j
      if i < d ∧ j < d then decide (e.1 ≠ 3 ∧ e.2 < d ∧ (e.1 = 2 → e.2 = 0)) else decide (e = (0, 0))

/-- Component `m` of an element operand. -/
def Ctx.comp (c : Ctx) (r : BitVec 8) (m lane : Nat) : Nat := (c.s.vreg (c.t lane) (r.toNat + m)).toNat

def Ctx.comps (c : Ctx) (r : BitVec 8) (d lane : Nat) : List FVal := (List.range d).map fun m => Fmt.f32.val (c.comp r m lane)

/-- Write an element per active lane. -/
def Ctx.algOut (c : Ctx) (s : State) (o : AlgOps) (n : Nat) (f : Nat → Nat → Nat × Fl) : State :=
  c.deliver s 0 o.d (c.act.map fun l =>
    let rs := (List.range n).map fun m => f l m
    (l, rs.map fun r => BitVec.ofNat 32 r.1, rs.foldl (fun a r => a ||| r.2) 0))

/-- An algebra instruction with its checks; with no active lane only the generator moves. -/
def algRun (o : AlgOps) (g : Nat → Word → State → Ctx → State) (c : Ctx) : Res :=
  let sr := c.srStep o.rnd
  if c.act = [] then .done sr.2
  else match c.tabCheck o with
    | .error e => .trap e.1 c.act e.2
    | .ok t => .done (g t sr.1 sr.2 c)

/-- Pairs (i, j) of dimension `d` whose product lies on `e_k`, with the sign (R125). -/
def tabPairs (t d k : Nat) : List (Nat × Nat × Bool) :=
  (List.range d).flatMap fun i => (List.range d).filterMap fun j =>
    let e := tabEnt t i j
    if e.2 = k ∧ e.1 ≠ 2 then some (i, j, decide (e.1 = 1)) else none

/-- R138: component `k` of the product, plus the addend's component when there is one. -/
def algProd (t d k : Nat) (rnd : Rnd) (sat : Bool) (draw : Nat) (a b add : List FVal) : Nat × Fl :=
  let ps := tabPairs t d k
  let term (p : Nat × Nat × Bool) : FVal × Bool :=
    let x := (a.getD p.1 (.zero false)).mul (b.getD p.2.1 (.zero false))
    (if p.2.2 then x.1.negate else x.1, x.2)
  let ops := ps.flatMap fun p => [a.getD p.1 (.zero false), b.getD p.2.1 (.zero false)]
  let c := (add.drop k).take 1
  let r := r108 .f32 rnd sat draw (ops ++ c) (ps.map term ++ c.map fun x => (x, false))
  (r.1, r.2 ||| flIf ((a ++ b ++ add).any FVal.isSnan) flNV)

def execAmul (o : AlgOps) (s : State) : Host.Outcome State Fault Refusal :=
  issue (.amul o) s (algRun o fun t w s c =>
    let d := AlgOps.d' o
    c.algOut s o d fun l k => algProd t d k o.rnd o.ovf (drawOf w l k) (c.comps o.a d l) (c.comps o.b d l) [])

def execAmac (o : AlgOps) (s : State) : Host.Outcome State Fault Refusal :=
  issue (.amac o) s (algRun o fun t w s c =>
    let d := AlgOps.d' o
    c.algOut s o d fun l k => algProd t d k o.rnd o.ovf (drawOf w l k) (c.comps o.a d l) (c.comps o.b d l) (c.comps o.c d l))

/-- R139. -/
def execAconj (o : AlgOps) (s : State) : Host.Outcome State Fault Refusal :=
  issue (.aconj o) s (algRun o fun t _ s c =>
    c.algOut s o (AlgOps.d' o) fun l m => (if bitOf (tabConj t) m then c.comp o.a m l ^^^ 2 ^ 31 else c.comp o.a m l, 0))

/-- R139: the chain of fused steps. -/
def algNorm (t d : Nat) (rnd : Rnd) (sat : Bool) (draw : Nat → Nat) (a : Nat → Nat) : Nat × Fl :=
  let conj (m : Nat) : Nat := if bitOf (tabConj t) m then a m ^^^ 2 ^ 31 else a m
  let r := (tabPairs t d 0).foldl (fun (acc : Nat × Fl × Nat) p =>
    let x := if p.2.2 then a p.1 ^^^ 2 ^ 31 else a p.1
    let y := fFma .f32 rnd sat (draw acc.2.2) x (conj p.2.1) acc.1
    (y.1, acc.2.1 ||| y.2, acc.2.2 + 1)) (0, 0, 0)
  (r.1, r.2.1)

def execAnorm (o : AlgOps) (s : State) : Host.Outcome State Fault Refusal :=
  issue (.anorm o) s (algRun o fun t w s c =>
    c.algOut s o 1 fun l _ => algNorm t (AlgOps.d' o) o.rnd o.ovf (drawOf w l) fun m => c.comp o.a m l)

/-- R140. -/
def execAadd (o : AlgOps) (s : State) : Host.Outcome State Fault Refusal :=
  issue (.aadd o) s (algRun o fun _ w s c =>
    c.algOut s o (AlgOps.d' o) fun l m => fAdd .f32 o.rnd o.ovf (drawOf w l m) (c.comp o.a m l) (c.comp o.b m l))

def execAscl (o : AlgOps) (s : State) : Host.Outcome State Fault Refusal :=
  issue (.ascl o) s (algRun o fun _ w s c =>
    c.algOut s o (AlgOps.d' o) fun l m => fMul .f32 o.rnd o.ovf (drawOf w l m) (c.comp o.a m l) (c.s.vreg (c.t l) o.b.toNat).toNat)

/-- R129, R131: load a table slot from an image. -/
def execAtab (o : DescOps) (s : State) : Host.Outcome State Fault Refusal :=
  issue (.atab o) s fun c =>
    let va := (c.s.vreg (c.t c.low) o.a.toNat).toNat
    if c.act = [] then .done c.s
    else match c.readDesc o.space va 64 64 va with
    | .error (.trap code _ _) => .trap code c.act va
    | .error r => r
    | .ok (s, img) =>
      if !tabOk img then .trap 0x0039 c.act va
      else if tabDim img = 8 ∧ !hasEight c.die then .trap 0x0037 c.act va
      else .done { s with tables := put s.tables (8 * c.core + o.lo.toNat) (BitVec.ofNat 512 img, (s.block c.bk).grid) }

end Sys2Proof.Machine
end

