-- ==== Sys2Proof/Machine/Order.lean ====
section
/-! DEFINITION. Commits and releases as an instruction makes them (R159, R181, R276, R287). -/

namespace Sys2Proof.Machine

/-- Commit the floe's log, then go on; an entry that cannot begin suspends the floe (R336). -/
def Ctx.commitThen (c : Ctx) (s : State) (go : State → Res) : Res :=
  let r := s.commit c.k
  match r.2 with
  | some (va, .ats) => .stall (r.1.askAts c.core c.g.ctx va)
  | some (_, .poison) => .poison
  | some (va, x) => .page r.1 [(0, va, x)] true true
  | none => go r.1

/-- A release (R276): earlier loads have returned, the log is committed and every earlier write is performed; then go on. -/
def Ctx.releaseThen (c : Ctx) (go : State → Res) : Res :=
  if c.f.loadsOut then .stall c.s
  else c.commitThen c.s fun s => if s.writesOut c.k c.f then .stall s else go s

/-- An intact continuation: a store stream's detach commits first (R194). -/
def Ctx.goIntact (c : Ctx) (s : State) (w : Word) : Res :=
  if c.f.ports.any (·.2.store) then c.commitThen s fun s => .jump (s.contIntact c.k w) else .jump (s.contIntact c.k w)

/-- An acquire at a scope merges the records of the releases it synchronises with (R159, R287). -/
def Ctx.acquire (c : Ctx) (s : State) (sc : Scope) (ms : List SyncMark) : State := s.mergeRecs c.k (marksFor (s.who c.bk) sc ms)

/-- R274: an acquire fence synchronises with the releases within its scope whose writes earlier reads of its threads saw. -/
def Ctx.acquireSeen (c : Ctx) (s : State) (scope : Scope) : State :=
  let me := s.who c.bk
  c.act.foldl (fun s l =>
    let th := s.thread (c.t l)
    let now := th.seen.filter fun x => includes scope me x.who
    if now = [] then s
    else (s.mergeRecs c.k (now.map (·.srec)).dedup).modThread (c.t l) fun th => { th with
      seen := th.seen.filter fun x => !includes scope me x.who }) s

end Sys2Proof.Machine
end

