-- ==== Sys2Proof/Machine/Control.lean ====
section
/-! DEFINITION. Terminators, `spawn`, barriers, `trap` and `featq` (R142 to R161). -/

namespace Sys2Proof.Machine

/-- The continuation word of a successor field (R53). -/
def succWord (x : BitVec 28) : Word := x ++ 0#4

def Ctx.lanes (c : Ctx) : List Nat := c.f.lanes.map (·.1)

/-! ## Regrouping (R143) -/

/-- Whether some thread of the floe lends registers: it waits at a regrouping terminator or `exit` (R206). -/
def Ctx.lending (c : Ctx) : Bool := (c.f.tkeys c.k).any fun t => c.s.lentRuns t ≠ []

/-- Regroup lanes at their words; the others continue intact at `stay`, or none do. It waits until every earlier result is there (R251); a
lookahead window that holds the terminator ends with it, and the result is written then: R63 would write it after the terminator has
issued, R251 before (DESIGN CHOICE, log 26). What its commits began ends first (log 28). When the whole floe goes, so does its list of
matrix operations: their loans on its core last until they or the block end, and no `mwait` waits for them (DESIGN CHOICE, log 61). The log is committed (R181), and the floe publishes the record its threads' new floes merge (R287). -/
def Ctx.regroup (c : Ctx) (leave : List (Nat × Word)) (stay : Option Word) : Res :=
  if c.f.pend.any (!·.ready) ∨ c.lending then .stall c.s
  else c.commitThen c.s fun s =>
    if s.deferredOut c.bk c.f.fid false then .stall s else
    let p := (((s.endWindows c.k).detachAll c.k).dropResv c.k).publish c.k
    let gone := leave.map (·.1)
    let s := match stay with
      | some _ => p.2.modFloe c.k fun f => { f with lanes := f.lanes.filter fun e => !gone.contains e.1 }
      | none => { p.2 with floes := del p.2.floes c.k }
    let s := leave.foldl (fun s e => s.park (c.t e.1) e.2 (some p.1)) s
    match stay with
    | some w => .jump (s.contIntact c.k w)
    | none => .jump s

/-- R146. -/
def execNext (succ : BitVec 28) (s : State) : Host.Outcome State Fault Refusal :=
  issue (.next succ) s fun c => c.goIntact c.s (succWord succ)

def execYield (succ : BitVec 28) (s : State) : Host.Outcome State Fault Refusal :=
  issue (.yield succ) s fun c => c.regroup (c.lanes.map fun l => (l, succWord succ)) none

/-- The largest group of lanes by word; among equal sizes, the numerically lowest word (R147). -/
def largestGroup (ws : List (Nat × Word)) : Word :=
  ws.foldl (fun best e =>
    let n (w : Word) : Nat := (ws.filter (·.2 == w)).length
    if n best < n e.2 ∨ (n best = n e.2 ∧ e.2.toNat < best.toNat) then e.2 else best) ((ws.headD (0, 0)).2)

/-- R147: transfer every present lane to its word. -/
def Ctx.goWords (c : Ctx) (word : Nat → Word) : Res :=
  let ws := c.lanes.map fun l => (l, word l)
  let bad := ws.filter fun e => !c.s.contOk c.g.ctx c.g.code e.2
  if bad ≠ [] then .trap 0x0005 (bad.map (·.1)) ((bad.headD (0, 0)).2).toNat
  else
    let w := largestGroup ws
    if ws.all (·.2 == w) then c.goIntact c.s w
    else c.regroup (ws.filter (·.2 ≠ w)) (some w)

def execNexti (a : BitVec 8) (s : State) : Host.Outcome State Fault Refusal :=
  issue (.nexti a) s fun c => c.goWords fun l => c.s.vreg (c.t l) a.toNat

def execRet (a : BitVec 8) (s : State) : Host.Outcome State Fault Refusal :=
  issue (.ret a) s fun c => c.goWords fun l => c.s.vreg (c.t l) a.toNat

/-- R148. -/
def execBrv (p : BitVec 8) (t n : BitVec 28) (s : State) : Host.Outcome State Fault Refusal :=
  issue (.brv p t n) s fun c =>
    let yes := c.lanes.filter fun l => c.s.predOf (c.t l) p.toNat
    let no := c.lanes.filter fun l => !c.s.predOf (c.t l) p.toNat
    if no = [] then c.goIntact c.s (succWord t)
    else if yes = [] then c.goIntact c.s (succWord n)
    else if no.length < yes.length then c.regroup (no.map fun l => (l, succWord n)) (some (succWord t))
    else c.regroup (yes.map fun l => (l, succWord t)) (some (succWord n))

/-- R149. -/
def execCall (d : BitVec 8) (f r : BitVec 28) (s : State) : Host.Outcome State Fault Refusal :=
  issue (.call d f r) s fun c =>
    let s := c.lanes.foldl (fun s l => (s.setVreg (c.t l) d.toNat (succWord r)).setVreg (c.t l) (d.toNat + 1) c.f.coord) c.s
    c.goIntact s (succWord f)

/-! ## exit (R150) -/

/-- The handle of a block's lowest-numbered allocation (R208, R212). -/
def State.lowAlloc (s : State) (bk : Nat) : Option Nat :=
  (s.allocs.filter fun a => a.2.block == bk && a.2.orphan.isNone).foldl (fun (b : Option Nat) a =>
    match b with
    | some h => some (if a.2.first < h % 128 then a.2.cnt * 256 + a.2.first else h)
    | none => some (a.2.cnt * 256 + a.2.first)) none

/-- Free a thread: its handler's floe told (R309), slot, window and record freed. -/
def State.exitThread (s : State) (core : Nat) (coord : Word) (tk : Nat) : State :=
  let s := s.leaveHandler tk true
  let s := { s with saves := match (s.thread tk).home with
    | some h => (match look s.saves h with
      | some f => if f.lanes = [] then del s.saves h else s.saves
      | none => s.saves)
    | none => s.saves }
  let th := s.thread tk
  (s.setThread tk { (default : Thread) with
    blkr := th.blkr, wbase := th.wbase, exitAt := coord, exitCtx := (s.grid (s.block (blockKey core th.blkr)).grid).ctx, preds := th.preds
    status := th.status }).recordsWritten [tk]

/-- The threads of a floe exit: every slot's adjustments are counted, the threads freed, and then the phases tested (R150, R155, R158). -/
def State.exitThreads (s : State) (core bk : Nat) (coord : Word) (srec : Nat) (staged : List (Nat × Nat)) (tks : List Nat) : State :=
  let m : SyncMark := ⟨srec, .sys, s.who bk⟩
  let s := tks.foldl (fun s t => s.exitBars core m staged t) s
  let s := tks.foldl (fun s t => s.exitThread core coord t) s
  (List.range 16).foldl (fun s n => s.phase core n) s

/-- `exit` (R150, R206): results first; then the lent-register trap of an issuing floe, the wait of a lending one, the held banks. A window
that holds the `exit` ends with it (log 26). The exit of an enrolled thread is a release (R155, R274). -/
def execExit (s : State) : Host.Outcome State Fault Refusal :=
  issue .exit s fun c =>
    if c.f.pend.any (!·.ready) then .stall c.s
    else if c.f.ops ≠ [] then .trap 0x0034 c.lanes 0
    else if c.lending then .stall c.s
    else match c.s.lowAlloc c.bk with
      | some h => .trap 0x0036 c.lanes h
      | none =>
        c.commitThen c.s fun s =>
          let enrolled := (c.f.tkeys c.k).any fun t => (s.thread t).enrolled ≠ 0
          let last := (s.liveThreads c.bk).all (c.f.tkeys c.k).contains
          if (enrolled ∧ s.writesOut c.k c.f) ∨ s.deferredOut c.bk c.f.fid last then .stall s
          else
            let s := ((s.endWindows c.k).detachAll c.k).dropResv c.k
            let p := if enrolled then s.publish c.k else (0, s)
            let s := { p.2 with floes := del p.2.floes c.k }.exitThreads c.core c.bk c.f.coord p.1 (p.2.stageOf c.k c.f) (c.f.tkeys c.k)
            .jump (s.endIfEmpty c.bk)

/-! ## spawn (R151, R152) -/

/-- Lowest free thread slot of a lane, and the lowest free base at which a window fits (R241). -/
def State.freeWindow (s : State) (islot lane win : Nat) : Option (Nat × Nat) :=
  let lo := threadKey islot lane 0
  let live := (slice s.threads lo (lo + 32)).filter fun e => e.2.st ≠ 0
  let slots := (List.range 32).find? fun w => !live.any (·.1 == lo + w)
  let fits (b : Nat) : Bool := decide (b + win ≤ 2048) && live.all fun e => !runsMeet (b, win) (e.2.wbase, e.2.win)
  let bases := (0 :: live.map fun e => e.2.wbase + e.2.win).filter fits
  match slots, bases with
  | some w, b :: bs => some (w, bs.foldl min b)
  | _, _ => none

/-- The place of a new thread: the home lane's number on the issue slots from `islot` on (R152). -/
def State.placeThread (s : State) (islot lane win : Nat) : Option (Nat × Nat × Nat) :=
  (List.range 4).findSome? fun i =>
    let q := islot / 4 * 4 + (islot % 4 + i) % 4
    (s.freeWindow q lane win).map fun r => (q, r.1, r.2)

/-- Lowest `%tid` no live thread of the block has. -/
def State.freeTid (s : State) (bk : Nat) : Nat :=
  let used := (s.liveThreads bk).map fun t => (s.thread t).tid
  ((List.range 1024).find? fun n => !used.contains n).getD 0

/-- Slots in block mode that a block owns. -/
def State.blockBars (s : State) (bk : Nat) : List Nat :=
  (List.range 16).filter fun n => let b := s.bar (bk / 32) n; b.val && b.blk && b.owner == bk

/-- A new thread of a block, with zero registers, in its lane bank (R242, R152); block-mode slots expect it (R158). -/
def State.makeThread (s : State) (bk q lane w base : Nat) (args : List Word) : State :=
  let g := s.grid (s.block bk).grid
  let tid := s.freeTid bk
  let bars := s.blockBars bk
  let en := bars.foldl (fun (m : BitVec 16) n => setBit m n true) 0
  let tk := threadKey q lane w
  let lo := 2048 * (32 * q + lane) + base
  let s := bars.foldl (fun s n => let b := s.bar (bk / 32) n; s.setBar (bk / 32) n { b with expt := b.expt + 1 }) s
  let th : Thread := { wbase := base, win := g.win, blkr := bk % 32, tid := tid, st := 2, status := initStatus g, enrolled := en }
  let s := { s.setThread tk th with regs := cut s.regs lo (lo + g.win) }
  (args.zipIdx).foldl (fun s e => s.setVreg tk e.2 e.1) s

/-- R152 for the lanes not yet served, in order. -/
def Ctx.spawnLanes (c : Ctx) (o : SpawnOps) (cont : Nat → Word) (srec : Nat) : List Nat → State → Res
  | [], s => .done s
  | l :: ls, s =>
    let place := if (s.liveThreads c.bk).length < 1024 then s.placeThread c.islot l c.g.win else none
    let served (s : State) : State := s.modFloe c.k fun f => { f with served := f.served ++ [l] }
    match place with
    | some (q, w, base) =>
      let args := (List.range o.argn.toNat).map fun i => c.s.vreg (c.t l) (o.a.toNat + i)
      let s := (s.makeThread c.bk q l w base args).park (threadKey q l w) (cont l) (some srec)
      c.spawnLanes o cont srec ls (served (if o.try_ then s.setPred (c.t l) o.tp.toNat true else s))
    | none =>
      if o.try_ then c.spawnLanes o cont srec ls (served (s.setPred (c.t l) o.tp.toNat false))
      else .stall s

/-- The continuation word of a lane's new thread. -/
def spawnWord (c : Ctx) (o : SpawnOps) (l : Nat) : Word := if o.rs then c.s.vreg (c.t l) o.d.toNat else succWord o.succ

/-- A floe of the core in a lower floe or issue slot has a stalled `spawn` whose next thread could be placed now: it wins the place (R152). -/
def Ctx.spawnBehind (c : Ctx) (s : State) : Bool :=
  (slice s.floes (128 * c.core) c.k).any fun e =>
    e.2.wait == .stall && s.mayIssue e.1 e.2 && (match s.fetchAt e.1 e.2 with
      | some (.ok (.spawn o)) =>
        let todo := (s.actLanes (.spawn o) e.1 e.2).filter fun l => !e.2.served.contains l
        let g := s.grid (s.block (e.2.bkey e.1)).grid
        !e.2.loadsOut && !s.writesOut e.1 e.2 && decide ((s.liveThreads (e.2.bkey e.1)).length < 1024) &&
          (match todo with
           | l :: _ => (s.placeThread (islotOfFloe e.1) l g.win).isSome
           | [] => false)
      | _ => false)

/-- `spawn` (R152). The traps come before any thread: when some lanes fail R11 and ARGN exceeds the launch's registers too, bad-continuation is
raised, for the lanes that fail alone (DESIGN CHOICE, log 24). A stalled `spawn` publishes once (R286, R287). -/
def execSpawn (o : SpawnOps) (s : State) : Host.Outcome State Fault Refusal :=
  issue (.spawn o) s fun c =>
    let cont := spawnWord c o
    let todo := c.act.filter fun l => !c.f.served.contains l
    let bad := todo.filter fun l => !c.s.contOk c.g.ctx c.g.code (cont l)
    if todo = [] then .done c.s
    else if bad ≠ [] then .trap 0x0005 bad (cont (bad.headD 0)).toNat
    else if c.g.nregs < o.argn.toNat then .trap 0x0020 todo o.argn.toNat
    else c.releaseThen fun s =>
      if c.spawnBehind s then .stall s
      else
        let p := match c.f.spawnRec with
          | some r => (r, s)
          | none => let p := s.publish c.k; (p.1, p.2.modFloe c.k fun f => { f with spawnRec := some p.1 })
        c.spawnLanes o cont p.1 todo p.2

/-! ## Barriers (R153 to R159) -/

/-- R154: the slot's owner is another resident block, or VAL is 0: the trap code. -/
def Ctx.barBad (c : Ctx) (slot : Nat) : Option Nat :=
  let b := c.s.bar c.core slot
  if b.val ∧ b.owner ≠ c.bk then some 0x0021 else if !b.val then some 0x0022 else none

/-- Arrivals of lanes: counted, enrolled on a first arrival in count mode (R158), record and floor staged (R287, R288). The spec bounds ARR
by no trap: past 2,047 the count goes on, and a dump's word shows it so (DESIGN CHOICE, log 24). -/
def Ctx.arrive (c : Ctx) (s : State) (slot : Nat) (rec : SyncMark) : State :=
  let b := s.bar c.core slot
  let ts := c.act.map c.t
  let new := ts.filter fun t => !b.blk && !(s.thread t).enrolled.getLsbD slot
  let s := ts.foldl (fun s t => s.modThread t fun th => { th with
    enrolled := if new.contains t then setBit th.enrolled slot true else th.enrolled
    arrived := setBit th.arrived slot true }) s
  s.setBar c.core slot { b with
    arr := b.arr + ts.length
    event := b.event || ts ≠ []
    recs := if b.recs.contains rec then b.recs else b.recs ++ [rec]
    staged := if b.blk then b.staged ++ s.stageOf c.k c.f else b.staged }

/-- `bar.arw`. With no active lane the floe waits on a slot that passes R154 and goes on past one that does not: no lane takes a trap, and a
slot with VAL 0 or of another block has no phase to wait for (DESIGN CHOICE, log 24). -/
def execBarArw (o : BarOps) (s : State) : Host.Outcome State Fault Refusal :=
  issue (.barArw o) s fun c =>
    match c.barBad o.slot.toNat with
    | some code => if c.act = [] then .done c.s else .trap code c.act o.slot.toNat
    | none =>
      let wait (s : State) : State := (s.waitHere c.k (.bar o.slot.toNat (s.bar c.core o.slot.toNat).ph o.scope)).modFloe c.k fun f =>
        { f with mute := 0, bpHits := [], watchHits := [] }
      if c.act = [] then .jump (wait c.s)
      else c.releaseThen fun s =>
        let p := s.publish c.k
        .jump (((wait (c.arrive p.2 o.slot.toNat ⟨p.1, o.scope, p.2.who c.bk⟩))).phase c.core o.slot.toNat)

def execBarArv (o : BarOps) (s : State) : Host.Outcome State Fault Refusal :=
  issue (.barArv o) s fun c =>
    if c.act = [] then .done c.s
    else match c.barBad o.slot.toNat with
    | some code => .trap code c.act o.slot.toNat
    | none => c.releaseThen fun s =>
        let p := s.publish c.k
        let ph := (p.2.bar c.core o.slot.toNat).ph
        let s := c.act.foldl (fun s l => c.wr1 s o.d l (if ph then 1 else 0)) p.2
        .done ((c.arrive s o.slot.toNat ⟨p.1, o.scope, p.2.who c.bk⟩).phase c.core o.slot.toNat)

def execBarWt (o : BarOps) (s : State) : Host.Outcome State Fault Refusal :=
  issue (.barWt o) s fun c =>
    if c.act = [] then .done c.s
    else match c.barBad o.slot.toNat with
    | some code => .trap code c.act o.slot.toNat
    | none =>
      let b := c.s.bar c.core o.slot.toNat
      let par := (c.rd1 0 o.b c.low).getLsbD 0
      if b.ph ≠ par then .done (c.acquire c.s o.scope b.last)
      else .jump ((c.s.waitHere c.k (.bar o.slot.toNat par o.scope)).modFloe c.k fun f => { f with mute := 0, bpHits := [], watchHits := [] })

def execBarExp (o : BarOps) (s : State) : Host.Outcome State Fault Refusal :=
  issue (.barExp o) s fun c =>
    if c.act = [] then .done c.s
    else match c.barBad o.slot.toNat with
    | some code => .trap code c.act o.slot.toNat
    | none =>
      let b := c.s.bar c.core o.slot.toNat
      let v := (c.rd1 0 o.b c.low).toNat
      let n := min b.early v
      if 65535 < b.pend + (v - n) then .trap 0x0024 c.act o.slot.toNat
      else .done (c.s.setBar c.core o.slot.toNat { b with
        early := b.early - n, pend := b.pend + (v - n), recs := b.recs ++ (b.ahead.take n).flatten, ahead := b.ahead.drop n })

/-- R157: a floe waits on the slot. -/
def State.waitedOn (s : State) (core slot : Nat) : Bool :=
  ((slice s.floes (128 * core) (128 * core + 128)).any fun e => (waitsOn e.2 slot).isSome) ||
  ((slice s.saves (256 * core) (256 * core + 256)).any fun e => (waitsOn e.2 slot).isSome)

def execBarinit (h : Head) (a b : BitVec 8) (slot : BitVec 4) (s : State) : Host.Outcome State Fault Refusal :=
  issue (.barinit h a b slot) s fun c =>
    if c.act = [] then .done c.s
    else
      let n := slot.toNat
      let x := c.s.bar c.core n
      let va := (c.rd1 0 a c.low).toNat
      let vb := (c.rd1 1 b c.low).toNat
      if x.val ∧ x.owner ≠ c.bk then .trap 0x0021 c.act n
      else if (1024 < va ∧ va ≠ 0xFFFFFFFF) ∨ 65535 < vb then .trap 0x0022 c.act n
      else if c.s.waitedOn c.core n ∨ x.arr ≠ 0 ∨ x.pend ≠ 0 then .trap 0x0023 c.act n
      else
        let blk := decide (va = 0xFFFFFFFF)
        let live := c.s.liveThreads c.bk
        let s : State := { c.s with threads := c.s.threads.map fun (e : Nat × Thread) =>
          if e.1 / 4096 = c.core then
            (e.1, { e.2 with enrolled := setBit e.2.enrolled n (blk && live.contains e.1), arrived := setBit e.2.arrived n false }) else e }
        .done (s.setBar c.core n { owner := c.bk, val := true, blk := blk, expt := if blk then live.length else va, expa := vb, pend := vb })

/-! ## trap and featq -/

def execTrap (h : Head) (code : BitVec 16) (s : State) : Host.Outcome State Fault Refusal :=
  issue (.trap h code) s fun c => if c.act = [] then .done c.s else .trap 0x0007 c.act code.toNat

def execFeatq (h : Head) (d : BitVec 8) (w : BitVec 2) (s : State) : Host.Outcome State Fault Refusal :=
  issue (.featq h d w) s fun c =>
    .done (c.act.foldl (fun s l => c.wr1 s d l (c.g.mask.extractLsb' (32 * w.toNat) 32)) c.s)

def execFeatqBit (h : Head) (d : BitVec 8) (n : BitVec 7) (s : State) : Host.Outcome State Fault Refusal :=
  issue (.featqBit h d n) s fun c => .done (c.act.foldl (fun s l => c.wrPred s d l (c.g.mask.getLsbD n.toNat)) c.s)

end Sys2Proof.Machine
end

