-- ==== Sys2Proof/Machine/Mem.lean ====
section
/-! DEFINITION. Loads, stores, atomics, reductions, `lr` and `sc`, fences, `commit` and tag instructions (R172 to R190). -/

namespace Sys2Proof.Machine

def isRel (o : Order) : Bool := o == .rel || o == .ar || o == .sc
def isAcq (o : Order) : Bool := o == .acq || o == .ar || o == .sc

/-- R172: the offset of a lane. -/
def Ctx.memOff (c : Ctx) (o : MemOps) (l : Nat) : Int :=
  sext o.disp.toNat 24 + (if o.idx then sext (c.s.vreg (c.t l) o.b.toNat).toNat 32 * 2 ^ o.scale.toNat else 0)

/-- R172: global addresses of the active lanes. -/
def Ctx.globReqs (c : Ctx) (o : MemOps) : List GReq :=
  c.act.map fun l => let p := c.rdPair o.a l; ⟨l, p, wrap ((ptrVa p : Int) + c.memOff o l) 48⟩

/-- R172: scratchpad addresses of the active lanes, exact. -/
def Ctx.padReqs (c : Ctx) (o : MemOps) : List (Nat × Int) :=
  c.act.map fun l => (l, ((c.s.vreg (c.t l) o.a.toNat).toNat : Int) + c.memOff o l)

/-- The low `n` bytes of the data register or pair in a lane (R177). -/
def Ctx.memData (c : Ctx) (o : MemOps) (n l : Nat) : Nat :=
  if n = 8 then c.rdPair o.c l else (c.rd1 2 o.c l).toNat % 2 ^ (8 * n)

/-- R272: how an ordinary access is marked. -/
def memMark (o : MemOps) : Mark := { marked := o.order ≠ .rlx, scope := o.scope }
/-- R272: how an atomic, `lr` or `sc` is marked; its value-changing step keeps SYNC (R286). -/
def memAmark (o : MemOps) : Mark := { marked := true, scope := if o.order = .rlx then .sys else o.scope, keep := true }

/-- The scope at which an access acquires. -/
def memAcq (o : MemOps) : Option Scope := if isAcq o.order then some o.scope else none

/-- A release waits and publishes (R276, R287); a commit point commits (R181); then go on with the record published, if any. -/
def Ctx.ordered (c : Ctx) (rel commits : Bool) (go : State → Option Nat → Res) : Res :=
  if rel then c.releaseThen fun s => let p := s.publish c.k; go p.2 (some p.1)
  else if commits then c.commitThen c.s fun s => go s none
  else go c.s none

/-- The mark of a lane's write with the releases that it carries: its own, and its thread's release fences (R274). -/
def Ctx.carry (c : Ctx) (m : Mark) (own : Option Nat) (lane : Nat) : Mark :=
  { m with rel := own.isSome, srec := own, fence := c.s.relOf c.k c.f lane }

/-- Bytes of a lane's own logged stores within a range, by offset; the youngest entry wins (R180). -/
def forwarded (log : List LogEnt) (lane : Nat) (p : Place) (n : Nat) : List (Nat × Byte) :=
  (List.range n).filterMap fun i =>
    log.foldl (fun (b : Option (Nat × Byte)) e => match e with
      | .store accs => accs.foldl (fun b a =>
          if a.lane = lane ∧ a.place.sys = p.sys ∧ a.place.pa ≤ p.pa + i ∧ p.pa + i < a.place.pa + a.n then
            some (i, BitVec.ofNat 8 (a.data / 2 ^ (8 * (p.pa + i - a.place.pa)))) else b) b
      | _ => b) none

/-- The request of a checked access. -/
def Ctx.req (c : Ctx) (a : GAcc) (n : Nat) (kind : Req.Kind) (m : Mark) : Req :=
  { c.s.reqOf c.k c.f a.lane m with
    kind := kind, va := a.va, place := a.place, n := n
    watched := leafWatch a.leaf, mig := leafMig a.leaf a.size a.va, ask := c.s.asks c.g.ctx a }

/-- The request of a checked write, with the releases that it carries. -/
def Ctx.wreq (c : Ctx) (a : GAcc) (n : Nat) (kind : Req.Kind) (m : Mark) (own : Option Nat) : Req := c.req a n kind (c.carry m own a.lane)

/-- Sign or zero extension by `wr` of R77. -/
def loadWords (t : IntTy) (v : Nat) : List Word := wrWords t (rdVal t v)

/-- R377: log or compare a value returned at a kind 3, 4 or 5 event; a value that differs on replay stops the grid (R378). -/
def State.replValue (s : State) (k blkr : Nat) (kind lane : Nat) (coord : Word) (v : Nat) : State :=
  let core := coreOfFloe k
  let g := (s.block (blockKey core blkr)).grid
  let ctx := (s.grid g).ctx
  if s.ctxReg ctx 0x40 = 0 then s else
  let r : RRec := {
    ctx := ctx, kind := kind, pos := replPos k blkr, seq := (lookD {} s.sched (islotOfFloe k)).issues
    mask := 1#32 <<< lane, word := coord, value := BitVec.ofNat 64 v }
  if s.replMode ctx = 2 then
    match s.replMeet r with
    | none => s.diverge g core
    | some x =>
      let s := { s with rpend := s.rpend.erase x }
      if x.value = r.value then s else s.diverge g core
  else s.replLog r

/-! ## Global loads -/

/-- A page fault of an `ld` with a lookahead window may be met after it has issued (R64): the walk ends later, at TLB_WALK_COMPLETE. -/
def Ctx.lateLoad (c : Ctx) (o : MemOps) (qs : List GReq) (n : Nat) (r : Res) : Res :=
  match r with
  | .page s _ false _ =>
    if o.h.la = 0 ∨ !Config.lateWalk s.fresh then r
    else ({ c with s := { s with fresh := s.fresh + 1 } } : Ctx).ordered (isRel o.order) false fun s _ =>
      let p := c.await s o.h.la.toNat { n := 0, reg := o.d.toNat, cnt := o.ty.regs, need := c.act, load := true, acq := memAcq o, replay := true }
      let l : Late := {
        id := p.2.nextId, reqs := qs.map fun q => (q.lane, q.ptr, q.va), n := n, ty := o.ty, mark := memMark o, pend := p.1, coord := c.f.coord }
      .done ({ p.2 with nextId := p.2.nextId + qs.length }.modFloe c.k fun f => { f with late := f.late ++ [l] })
  | r => r

/-- `ld` and `lr`: the checks, the order, then one request a lane; `lr` sets its thread's reservation (R177, R188). -/
def Ctx.load (c : Ctx) (o : MemOps) (lr : Bool) : Res :=
  let n := o.ty.width / 8
  let qs := c.globReqs o
  let m := if lr then (memAmark o) else (memMark o)
  if c.act = [] then .done c.s
  else match c.checkBounds qs n bentR with
  | some r => r
  | none =>
    match c.checkHome qs n false true m with
    | .error r => if lr then r else c.lateLoad o qs n r
    | .ok (s, accs) =>
      let c := { c with s := s }
      c.ordered (isRel o.order) false fun s _ =>
        let p := c.await s o.h.la.toNat { n := 0, reg := o.d.toNat, cnt := o.ty.regs, need := c.act, load := true, acq := (memAcq o) }
        let s := addReqs (accs.map fun a => { c.req a n (if lr then .lr else .load) m with
          signed := some o.ty, pend := some p.1, fwd := forwarded c.f.log a.lane a.place n }) p.2
        .done (if lr then accs.foldl (fun s a => s.modThread (c.t a.lane) fun th =>
          { th with resv := some ⟨a.place.pa / 32, a.place.sys, false, false, p.1⟩ }) s else s)

def execLd (o : MemOps) (s : State) : Host.Outcome State Fault Refusal := issue (.ld o) s fun c => c.load o false

def execLr (o : MemOps) (s : State) : Host.Outcome State Fault Refusal := issue (.lr o) s fun c => c.load o true

/-! ## Global stores -/

def Ctx.lacc (c : Ctx) (o : MemOps) (n : Nat) (a : GAcc) : LAcc :=
  { lane := a.lane, va := a.va, place := a.place, n := n, data := c.memData o n a.lane, watched := leafWatch a.leaf, mig := leafMig a.leaf a.size a.va }

/-- Take one store-log entry, or the fatal fault of R182. -/
def Ctx.logEntry (c : Ctx) (s : State) (e : LogEnt) : Res :=
  if 256 ≤ c.f.log.length then .fatal else .done (s.modFloe c.k fun f => { f with log := f.log ++ [e] })

/-- R177, R180: logged when relaxed; else performed at the home after the release's waits. The acquire half holds later accesses until the
store is performed (R179). -/
def execSt (o : MemOps) (s : State) : Host.Outcome State Fault Refusal :=
  issue (.st o) s fun c =>
    let n := o.ty.width / 8
    let qs := c.globReqs o
    if c.act = [] then .done c.s
    else match c.checkBounds qs n bentW with
    | some r => r
    | none =>
      match c.checkHome qs n true true (memMark o) with
      | .error r => r
      | .ok (s, accs) =>
        let c := { c with s := s }
        if isRel o.order then
          c.ordered true true fun s r => .done (addReqs (accs.map fun a =>
            { c.wreq a n .store (memMark o) r with data := c.memData o n a.lane, hold := isAcq o.order }) s)
        else c.logEntry s (.store (accs.map (c.lacc o n)))

/-! ## Atomics and reductions at the home (R185 to R187) -/

def atomBytes (ty : Nat) : Nat := if ty = 2 ∨ ty = 3 then 8 else 4

/-- R185: the new value at the location. -/
def atomNew (op ty old v cmp : Nat) : Nat :=
  let w := 8 * atomBytes ty
  let x (a : Nat) : Int := if ty % 2 = 0 then sext a w else a
  match op with
  | 0 => (old + v) % 2 ^ w
  | 1 => if x v < x old then v else old
  | 2 => if x old < x v then v else old
  | 3 => old &&& v
  | 4 => old ||| v
  | 5 => old ^^^ v
  | 6 => v
  | 7 => if old = cmp then v else old
  | 8 => (fAdd Fmt.f32 .rne false 0 old v).1
  | 9 => (fMinMax Fmt.f32 false old v).1
  | _ => (fMinMax Fmt.f32 true old v).1

/-- Words of a returned old value. -/
def atomWords (ty v : Nat) : List Word :=
  if atomBytes ty = 8 then [BitVec.ofNat 32 v, BitVec.ofNat 32 (v / 2 ^ 32)] else [BitVec.ofNat 32 v]

/-- The compare operand of `.cas` in a lane. -/
def Ctx.cmpData (c : Ctx) (o : MemOps) (l : Nat) : Nat :=
  if o.aop ≠ 7 then 0 else if atomBytes o.aty = 8 then c.rdPair o.b l else (c.rd1 1 o.b l).toNat

/-- A global `atom`, or a global `red` that is not logged: commit or release, then one request a lane in ascending order. -/
def Ctx.atomGlob (c : Ctx) (o : MemOps) (ret : Bool) : Res :=
  let n := atomBytes o.aty
  let qs := c.globReqs o
  match c.checkBounds qs n bentA with
  | some r => r
  | none =>
    match c.checkHome qs n true true (memAmark o) with
    | .error r => r
    | .ok (s, accs) =>
      let c := { c with s := s }
      if !ret ∧ o.order = .rlx then
        c.logEntry s (.red (accs.map (c.lacc o n)) o.aop o.aty)
      else
        c.ordered (isRel o.order) true fun s r =>
          let p := if ret then c.await s o.h.la.toNat { n := 0, reg := o.d.toNat, cnt := o.aregs, need := c.act, load := true, acq := (memAcq o) }
            else (0, s)
          .done (addReqs (accs.map fun a => { c.wreq a n (.atom o.aop o.aty ret) (memAmark o) r with
            data := c.memData o n a.lane, cmp := c.cmpData o a.lane, pend := if ret then some p.1 else none }) p.2)

/-- A scratchpad `atom` or `red`: performed at its bank when it issues, lane by lane (R186, R187, R262). -/
def Ctx.atomPad (c : Ctx) (o : MemOps) (ret : Bool) : Res :=
  let n := atomBytes o.aty
  if c.s.bankBusy c.islot o.space then .stall c.s
  else match c.checkPad c.s o.space (c.padReqs o) n n true true true (memAmark o) with
  | .error r => r
  | .ok (s, ps) =>
    let region := s.region c.k
    let c := { c with s := s }
    c.ordered (isRel o.order) ret fun s r =>
      let out := ps.foldl (fun (a : List (Nat × Nat) × State) p =>
        let rd := c.readPad a.2 p.1 o.space p.2 n (memAcq o)
        let new := atomNew o.aop o.aty rd.1 (c.memData o n p.1) (c.cmpData o p.1)
        let ag := { rd.2.agentOf c.k ((rd.2.floe? c.k).getD c.f) (c.carry (memAmark o) r p.1) with region := region }
        let s := rd.2.writePad ag o.space p.2 (leBytes new n)
        (a.1 ++ [(p.1, rd.1)], if ret then s.replValue c.k c.f.blkr 3 p.1 c.f.coord rd.1 else s)) (([] : List (Nat × Nat)), s)
      if ret then
        let p := c.await out.2 o.h.la.toNat { n := 0, reg := o.d.toNat, cnt := o.aregs, need := c.act, load := true, acq := (memAcq o), vals := out.1.map fun e => (e.1, atomWords o.aty e.2) }
        .done (ps.foldl (fun s e => s.enterBank c.k c.f.fid e.1 o.space e.2 n (some p.1)) p.2)
      else .done (ps.foldl (fun s e => s.enterBank c.k c.f.fid e.1 o.space e.2 n none) out.2)

def execAtom (o : MemOps) (s : State) : Host.Outcome State Fault Refusal :=
  issue (.atom o) s fun c =>
    if c.act = [] then .done c.s else if o.space = .glob then c.atomGlob o true else c.atomPad o true

def execRed (o : MemOps) (s : State) : Host.Outcome State Fault Refusal :=
  issue (.red o) s fun c =>
    if c.act = [] then .done c.s else if o.space = .glob then c.atomGlob o false else c.atomPad o false

/-- R188: commit, then store where the reservation still holds. -/
def execSc (o : MemOps) (s : State) : Host.Outcome State Fault Refusal :=
  issue (.sc o) s fun c =>
    let n := o.ty.width / 8
    let qs := c.globReqs o
    if c.act = [] then .done c.s
    else match c.checkBounds qs n bentW with
    | some r => r
    | none =>
      match c.checkHome qs n true true (memAmark o) with
      | .error r => r
      | .ok (s, accs) =>
        let c := { c with s := s }
        c.ordered (isRel o.order) true fun s r =>
          let p := c.await s o.h.la.toNat { n := 0, reg := 0, cnt := 0, pred := some o.d.toNat, need := c.act, load := true }
          let s := addReqs (accs.map fun a => { c.wreq a n .sc (memAmark o) r with
            data := c.memData o n a.lane, pend := some p.1, resv := (c.s.thread (c.t a.lane)).resv }) p.2
          let s := c.act.foldl (fun s l => s.modThread (c.t l) fun th => { th with resv := none }) s
          .done (s.modFloe c.k fun f => { f with hold := none })

/-! ## Scratchpad loads and stores (R177) -/

def execLds (o : MemOps) (s : State) : Host.Outcome State Fault Refusal :=
  issue (.lds o) s fun c =>
    let n := o.ty.width / 8
    if c.act = [] then .done c.s
    else if c.s.bankBusy c.islot o.space then .stall c.s
    else match c.checkPad c.s o.space (c.padReqs o) n n true false true (memMark o) with
    | .error r => r
    | .ok (s, ps) =>
      let c := { c with s := s }
      c.ordered (isRel o.order) false fun s _ =>
        let out := ps.foldl (fun (a : List (Nat × Nat) × State) p =>
          let rd := c.readPad a.2 p.1 o.space p.2 n (memAcq o)
          (a.1 ++ [(p.1, rd.1)], if isAcq o.order then rd.2.replValue c.k c.f.blkr 4 p.1 c.f.coord rd.1 else rd.2)) (([] : List (Nat × Nat)), s)
        let p := c.await out.2 o.h.la.toNat { n := 0, reg := o.d.toNat, cnt := o.ty.regs, need := c.act, load := true, acq := (memAcq o), vals := out.1.map fun e => (e.1, loadWords o.ty e.2) }
        .done (ps.foldl (fun s e => s.enterBank c.k c.f.fid e.1 o.space e.2 n (some p.1)) p.2)

def execSts (o : MemOps) (s : State) : Host.Outcome State Fault Refusal :=
  issue (.sts o) s fun c =>
    let n := o.ty.width / 8
    if c.act = [] then .done c.s
    else if c.s.bankBusy c.islot o.space then .stall c.s
    else match c.checkPad c.s o.space (c.padReqs o) n n false true true (memMark o) with
    | .error r => r
    | .ok (s, ps) =>
      let region := s.region c.k
      let c := { c with s := s }
      c.ordered (isRel o.order) false fun s r =>
        let ag (l : Nat) : Agent := { s.agentOf c.k ((s.floe? c.k).getD c.f) (c.carry (memMark o) r l) with region := region }
        let s := ps.foldl (fun s p => s.writePad (ag p.1) o.space p.2 (leBytes (c.memData o n p.1) n)) s
        .done (ps.foldl (fun s e => s.enterBank c.k c.f.fid e.1 o.space e.2 n none) s)

/-! ## Fences and commit (R183, R184) -/

def execFence (h : Head) (scope : Scope) (order : Order) (s : State) : Host.Outcome State Fault Refusal :=
  issue (.fence h scope order) s fun c =>
    if c.act = [] then .done c.s
    else if isAcq order ∧ c.f.loadsOut then .stall c.s
    else if isRel order then
      c.releaseThen fun s =>
        let p := s.publish c.k
        let s := c.act.foldl (fun s l => s.modThread (c.t l) fun th => { th with rel := th.rel.filter (·.2 ≠ scope) ++ [(p.1, scope)] }) p.2
        .done (if isAcq order then c.acquireSeen s scope else s)
    else .done (c.acquireSeen c.s scope)

def execCommit (s : State) : Host.Outcome State Fault Refusal :=
  issue .commit s fun c => if c.act = [] then .done c.s else c.commitThen c.s .done

/-! ## Tags (R190) -/

def execStag (o : MemOps) (s : State) : Host.Outcome State Fault Refusal :=
  issue (.stag o) s fun c =>
    let qs := c.globReqs o
    if c.act = [] then .done c.s
    else match c.checkBounds qs 32 bentW with
    | some r => r
    | none =>
      match c.checkHome qs 32 true false {} with
      | .error r => r
      | .ok (s, accs) =>
        let bad := accs.filter fun a => !leafTage a.leaf
        if bad ≠ [] then trapAt 0x0013 (bad.map fun a => (a.lane, a.va))
        else
          let c := { c with s := s }
          c.commitThen s fun s =>
            if s.writesOut c.k c.f then .stall s
            else .done (addReqs (accs.map fun a =>
              { c.req a 32 .stag {} with data := (c.rd1 2 o.c a.lane).toNat % 16, ask := false, hold := true }) s)

def execLdtag (o : MemOps) (s : State) : Host.Outcome State Fault Refusal :=
  issue (.ldtag o) s fun c =>
    let qs := c.globReqs o
    if c.act = [] then .done c.s
    else match c.checkBounds qs 32 bentR with
    | some r => r
    | none =>
      match c.checkHome qs 32 false false {} with
      | .error r => r
      | .ok (s, accs) =>
        let c := { c with s := s }
        let p := c.await s o.h.la.toNat { n := 0, reg := o.d.toNat, cnt := 1, need := c.act, load := true }
        .done (addReqs (accs.map fun a => { c.req a 32 .ldtag {} with
          ask := false, data := if leafTage a.leaf then 1 else 0, pend := some p.1 }) p.2)

end Sys2Proof.Machine
end

