-- ==== Sys2Proof/Machine/Matrix.lean ====
section
/-! DEFINITION. The matrix engine (R36 to R39, R141, R196 to R218, R255, R441, R442): `mma` with its checks, the arbiter and the passes,
completion, faults and retry; `mwait`, `mfence` and the accumulator instructions. -/

namespace Sys2Proof.Machine

/-! ## Format word (R196, R197) and element codes (R24) -/

def fwA (fw : Nat) : Nat := bits fw 3 0
def fwB (fw : Nat) : Nat := bits fw 7 4
def fwAlg (fw : Nat) : Nat := bits fw 12 10
def fwSat (fw : Nat) : Bool := bits fw 13 13 == 1
def fwSro (fw : Nat) : Bool := bits fw 14 14 == 1
def fwAt (fw : Nat) : Bool := bits fw 15 15 == 1
def fwBt (fw : Nat) : Bool := bits fw 16 16 == 1
def fwAsc (fw : Nat) : Bool := bits fw 18 17 == 1
def fwBsc (fw : Nat) : Bool := bits fw 20 19 == 1
def isIntFmt (c : Nat) : Bool := decide (5 ≤ c)

/-- R197. -/
def fwOk (fw : Nat) : Bool :=
  let a := fwA fw
  let b := fwB fw
  let scaled := fwAsc fw || fwBsc fw
  let mayScale (c : Nat) : Bool := c == 2 || c == 3 || isIntFmt c
  decide (bits fw 31 21 = 0 ∧ a ≤ 8 ∧ b ≤ 8 ∧ bits fw 9 8 ≤ 1 ∧ fwAlg fw ≤ 4 ∧ bits fw 18 17 ≤ 1 ∧ bits fw 20 19 ≤ 1) &&
    ((a == b && (a == 0 || a == 1 || a == 4)) || ((a == 2 || a == 3) && (b == 2 || b == 3)) || (isIntFmt a && isIntFmt b)) &&
    (bits fw 9 8 == if isIntFmt a && !scaled then 1 else 0) &&
    (!fwAsc fw || mayScale a) && (!fwBsc fw || mayScale b) && (!fwSro fw || bits fw 9 8 == 0)

/-- The value of an element code (R19 to R24); LNS6 products are formed apart (R39). -/
def elemVal (fmt code : Nat) : FVal :=
  match fmt with
  | 0 => Fmt.f16.val code
  | 1 => Fmt.bf16.val code
  | 2 => Fmt.e4m3.val code
  | 3 => Fmt.e5m2.val code
  | 4 => lnsVal code
  | 5 => intVal (intOfCode code 8 true)
  | 6 => intVal (intOfCode code 8 false)
  | 7 => intVal (intOfCode code 4 true)
  | _ => intVal (intOfCode code 4 false)

/-- R23: a value times an E8M0 scale. -/
def scaleVal (v : FVal) (e : Nat) : FVal :=
  if e = 0xFF then .nan false
  else match v with
    | .fin s m x => .fin s m (x + e - 127)
    | v => v

/-- R39: the product of two LNS6 codes. -/
def lnsMul (a b : Nat) : FVal :=
  match lnsVal a, lnsVal b with
  | .nan _, _ | _, .nan _ => .nan false
  | .zero _, _ | _, .zero _ => .zero false
  | _, _ =>
    let l := sext a 5 + sext b 5
    .fin (decide (a / 32 % 2 ≠ b / 32 % 2)) (lnsT (l % 4).toNat) (l / 4 - 16)

/-! ## The parameter block (R200 to R203) -/

/-- Word `i` of the block. -/
def pbW (pb i : Nat) : Nat := bits pb (32 * i + 31) (32 * i)
def pbGang (pb p : Nat) : Bool := bitOf (pbW pb 0) (24 + p)
def pbKK (pb : Nat) : Nat := bits pb 23 16
def pbM (pb : Nat) : Nat := 16 * bits pb 7 0
def pbN (pb : Nat) : Nat := 8 * bits pb 15 8
def pbAstr (pb : Nat) : Nat := pbW pb 1
def pbAaddr (pb p : Nat) : Nat := pbW pb (2 + p)
def pbAcc (pb p : Nat) : Nat := pbW pb (6 + p)
def pbBreg (pb : Nat) : Nat := bits (pbW pb 10) 15 8
def pbG (pb : Nat) : Nat := 2 ^ (pbW pb 10 % 4)
def pbHold (pb h : Nat) : Nat := bits pb (8 * 44 + 16 * h + 15) (8 * 44 + 16 * h)
def pbSlot (pb p : Nat) : Nat := bits (pbW pb 13) (4 * p + 3) (4 * p)
def pbAscoff (pb : Nat) : Int := sext (pbW pb 14) 32
def pbBsc (pb : Nat) : Nat := pbW pb 15

/-- End of an A tile, in bits from AADDR (R201). -/
def tileBits (pb fw d : Nat) : Nat :=
  let b := fmtBits (fwA fw)
  if fwAt fw then (32 * pbKK pb - 1) * pbAstr pb * 8 + pbM pb * d * b else (pbM pb - 1) * pbAstr pb * 8 + 32 * pbKK pb * d * b

/-- R208: a good handle of a block: first bank and count. -/
def State.handleOk (s : State) (bk h : Nat) : Option (Nat × Nat) :=
  let first := h % 128
  let cnt := h / 256
  if h % 256 = first ∧ 1 ≤ cnt ∧ cnt ≤ 128 ∧ first + cnt ≤ 128 ∧
      s.allocs.any (fun a => a.1 == bk / 32 && a.2.block == bk && a.2.first == first && a.2.cnt == cnt && a.2.orphan.isNone) then
    some (first, cnt)
  else none

/-- The holder floe a halfword names, when it meets R202: its thread keys by lane. -/
def State.holderOf (s : State) (k : Nat) (f : Floe) (bk h : Nat) : Option (List Nat) :=
  let whole (k : Nat) (f : Floe) : Option (List Nat) := if f.lanes.length = 32 then some (f.tkeys k) else none
  if h = 0xFFFF then whole k f
  else match s.mate bk (h % 4) with
    | none => none
    | some b =>
      let hk := 128 * (b / 32) + 32 * bits h 3 2 + bits h 8 4
      match s.floe? hk with
      | some x => if x.blkr = b % 32 then whole hk x else none
      | none => none

/-- The participants' `%drf` indexes. -/
def gangOf (pb : Nat) : List Nat := (List.range 4).filter (pbGang pb)

/-- The first failing participant of a code (R203). -/
def failP (code : Nat) (ps : List Nat) (bad : Nat → Bool) : Option Nat := (ps.find? bad).map fun p => p * 256 + code

def failIf (code : Nat) (bad : Bool) : Option Nat := if bad then some code else none

/-- R200 to R203: ADDR of the failure reported, if any: the lowest code; of a code a block-wide failure first, then the lowest index.
DESIGN CHOICE (log 40): bits 31:16 of the parameter block's word 13, in which R200 names no field, are not looked at.
DESIGN CHOICE (log 62): a holder's failure of code 0x02 reports its h, after those that report a p. -/
def State.paramBad (s : State) (k : Nat) (f : Floe) (bk pb fw d : Nat) : Option Nat :=
  let g := s.grid (s.block bk).grid
  let gs := pbG pb
  let n := pbN pb
  let b := fmtBits (fwB fw)
  let ng := n / gs
  let run := bRun pb fw d
  let ps := gangOf pb
  let mate (p : Nat) : Nat := (s.mate bk p).getD 0
  let w0 := pbW pb 0
  let w10 := pbW pb 10
  let hc := w10 % 4
  [failIf 1 (decide (pbM pb < 16 ∨ 128 < pbM pb ∨ n < 8 ∨ 256 < n ∨ pbKK pb < 1 ∨ 8 < pbKK pb)),
   failIf 2 (decide (bits w0 31 28 ≠ 0 ∨ bits w10 31 16 ≠ 0 ∨ bits w10 7 2 ≠ 0)),
   failP 2 (List.range 4) fun p => !pbGang pb p && decide (pbAaddr pb p ≠ 0 ∨ pbAcc pb p ≠ 0 ∨ pbSlot pb p ≠ 0),
   failP 2 (List.range 4) fun h => let x := pbHold pb h
      if hc = 3 ∨ h < gs then decide (x ≠ 0xFFFF ∧ bits x 15 9 ≠ 0) else decide (x ≠ 0),
   failIf 3 (!pbGang pb (s.block bk).drf),
   failP 3 ps fun p => (s.mate bk p).isNone,
   failIf 4 (decide (hc = 3 ∨ n % gs ≠ 0 ∨ ng * d * b % 32 ≠ 0) || (fwBt fw && decide (ng % 32 ≠ 0))),
   failP 4 (List.range gs) fun h => (s.holderOf k f bk (pbHold pb h)).isNone,
   failIf 5 (decide (248 < pbBreg pb + run ∨ g.nregs < pbBreg pb + run)),
   failP 6 ps fun p => let x := s.bar (mate p / 32) (pbSlot pb p); !(x.val && x.owner == mate p),
   failIf 7 (decide (pbAstr pb % 16 ≠ 0)),
   failP 7 ps fun p =>
      let a := pbAaddr pb p
      decide (a % 16 ≠ 0 ∨ 8 * g.unitSz < 8 * a + tileBits pb fw d) ||
        (fwAsc fw && decide ((a : Int) + pbAscoff pb < 0 ∨ (g.unitSz : Int) < a + pbAscoff pb + pbM pb * pbKK pb)),
   failP 8 ps fun p => match s.handleOk (mate p) (pbAcc pb p) with
      | some h => decide (2048 * h.2 < pbM pb * n * d * 4)
      | none => true,
   failIf 9 (fwBsc fw && decide (g.unitSz < pbBsc pb + n * pbKK pb))].findSome? id

/-- The participants of a block that passes R200 to R203. -/
def State.partsOf (s : State) (bk pb : Nat) : List Part :=
  (gangOf pb).map fun p =>
    let b := (s.mate bk p).getD 0
    let h := (s.handleOk b (pbAcc pb p)).getD (0, 0)
    { p := p, block := b, uid := (s.block b).uid, aaddr := pbAaddr pb p, first := h.1, cnt := h.2, slot := pbSlot pb p
      aBase := s.shareBase b .unit, shareSz := s.shareSize b .unit }

def State.holdersOf (s : State) (k : Nat) (f : Floe) (bk pb : Nat) : List (List Nat) :=
  (List.range (pbG pb)).map fun h => (s.holderOf k f bk (pbHold pb h)).getD []

/-- Check 7 of R199: a bank named is lent to another operation. -/
def State.banksLent (s : State) (ps : List Part) (except : Option Nat) : Bool :=
  let s := match except with
    | some id => { s with mmas := del s.mmas id }
    | none => s
  ps.any fun p => (s.lentBanks (p.block / 32)).any fun r => runsMeet r (p.first, p.cnt)

/-! ## `mma` (R198, R199) -/

/-- Operations that hold an entry of a cluster's reservation table (R255). -/
def State.tableOps (s : State) (die cl : Nat) : List (Nat × Mma) :=
  s.mmas.filter fun e => e.2.die == die && e.2.cluster == cl && !e.2.done && !e.2.waiting

/-- Lowest entry of a cluster's table that is free (R255, R285). -/
def State.freeEntry (s : State) (die cl : Nat) : Option Nat :=
  (List.range 32).find? fun i => !(s.tableOps die cl).any fun e => e.2.entry == i

/-- The table that a format word names: trap code and ADDR, or the image and d (R141). -/
def Ctx.mmaTable (c : Ctx) (fw : Nat) : Except (Nat × Nat) (Nat × Nat) :=
  let n := fwAlg fw
  if n = 0 then .ok (0, 1)
  else match look c.s.tables (8 * c.core + n) with
    | none => .error (0x0038, n)
    | some (t, g) =>
      if g ≠ (c.s.block c.bk).grid then .error (0x0038, n + 256 * tabDim t.toNat)
      else if tabDim t.toNat = 8 ∧ !hasEight c.die then .error (0x0037, 4)
      else .ok (t.toNat, tabDim t.toNat)

/-- A global `accld` of the floe into banks that the operation starts from is in flight: the engine reads after the issuer's writes (R210). -/
def Ctx.accComing (c : Ctx) (ps : List Part) : Bool :=
  ps.any fun p => p.block == c.bk && c.s.net.any fun e => e.2.ofFloe c.k c.f && !e.2.performed && (match e.2.kind with
    | .bank w => decide (65536 * c.core + 512 * p.first ≤ w ∧ w < 65536 * c.core + 512 * (p.first + p.cnt))
    | _ => false)

/-- A result pending in the floe's own B run: the engine reads after the issuer's writes (R210). -/
def Ctx.bPending (c : Ctx) (pb fw d : Nat) : List Pend :=
  if (List.range (pbG pb)).any fun h => pbHold pb h == 0xFFFF || c.s.holderOf c.k c.f c.bk (pbHold pb h) == some (c.f.tkeys c.k) then
    c.f.pend.filter fun p => p.cnt ≠ 0 && runsMeet (p.reg, p.cnt) (pbBreg pb, bRun pb fw d)
  else []

/-- The issue of an operation that passed every check (R199, R205, R206). -/
def Ctx.postMma (c : Ctx) (s : State) (pb fw tab entry : Nat) (late : List Pend) : State :=
  let parts := s.partsOf c.bk pb
  let holders := s.holdersOf c.k c.f c.bk pb
  let sr := if fwSro fw then { c with s := s }.srStep .sr else (0, s)
  let n := sr.2.newId
  let op : Mma := {
    die := c.die, cluster := clusterOf c.core, block := c.bk, uid := (s.block c.bk).uid, grid := (s.block c.bk).grid, ctx := c.g.ctx
    floe := c.k, fid := c.f.fid, pb := BitVec.ofNat 512 pb, fw := BitVec.ofNat 32 fw, tab := BitVec.ofNat 512 tab, sr := sr.1
    prio := c.g.prio, posted := s.clock c.die, serial := n.1, entry := entry, parts := parts, holders := holders
    know := c.f.know, fold := c.f.fold, start := c.f.start, coord := c.f.coord, unitBase := s.shareBase c.bk .unit
    who := s.who c.bk }
  let s := { n.2 with mmas := put n.2.mmas n.1 op }
  let s := s.modFloe c.k fun f => { f with
    ops := f.ops ++ [n.1]
    pend := f.pend.map fun p => if late.any (·.n == p.n) then { p with fenced := true } else p }
  s.raisePend c.core (pbSlot pb (s.block c.bk).drf)

def execMma (o : DescOps) (s : State) : Host.Outcome State Fault Refusal :=
  issue (.mma o) s fun c =>
    let all := c.f.lanes.map (·.1)
    let fw := (c.s.vreg (c.t 0) o.b.toNat).toNat
    match c.s.freeEntry c.die (clusterOf c.core) with
    | none => .stall c.s
    | some entry =>
      if c.act.length < 32 then .trap 0x0030 all 0
      else if c.act.any (fun l => c.s.vreg (c.t l) o.b.toNat ≠ BitVec.ofNat 32 fw) then .trap 0x0031 all 0
      else if !fwOk fw then .trap 0x0032 all 0
      else match c.mmaTable fw with
      | .error e => .trap e.1 all e.2
      | .ok (tab, d) =>
        match c.readDesc o.space (c.s.vreg (c.t 0) o.a.toNat).toNat 64 64 0 with
        | .error r => r
        | .ok (s, pb) =>
          match s.paramBad c.k c.f c.bk pb fw d with
          | some e => .trap 0x0033 all e
          | none =>
            if s.banksLent (s.partsOf c.bk pb) none then .trap 0x0034 all 0
            else
              let late := c.bPending pb fw d
              if late.any (fun p => !p.ready) ∨ c.accComing (s.partsOf c.bk pb) then .stall s
              else .done (c.postMma s pb fw tab entry late)

/-! ## A pass (R204, R218, R255) -/

def Mma.m (o : Mma) : Nat := pbM o.pb.toNat
def Mma.n (o : Mma) : Nat := pbN o.pb.toNat
def Mma.kk (o : Mma) : Nat := pbKK o.pb.toNat

/-- Byte ranges of a participant's A elements and scales that chunk `c` reads: physical address and length (R201, R204). -/
def Mma.aReads (o : Mma) (p : Part) (c : Nat) : List (Nat × Nat) :=
  let pb := o.pb.toNat
  let fw := o.fw.toNat
  let b := fmtBits (fwA fw)
  let base := p.aBase + p.aaddr
  let tile := if fwAt fw then
      (List.range 32).map fun i => (base + (32 * c + i) * pbAstr pb, (o.m * o.dim * b + 7) / 8)
    else (List.range o.m).map fun i => (base + i * pbAstr pb + 4 * c * o.dim * b, 4 * o.dim * b)
  let scales := if fwAsc fw then (List.range o.m).map fun i => (((base : Int) + pbAscoff pb).toNat + i * o.kk + c, 1) else []
  tile ++ scales

/-- B scales that chunk `c` reads, in the issuing block's share. -/
def Mma.bReads (o : Mma) (c : Nat) : List (Nat × Nat) :=
  if fwBsc o.fw.toNat then (List.range o.n).map fun j => (o.unitBase + pbBsc o.pb.toNat + j * o.kk + c, 1) else []

/-- Every read of chunk `c`, with the block whose share it lies in. -/
def Mma.reads (o : Mma) (c : Nat) : List (Nat × Nat × Nat) :=
  (o.parts.flatMap fun p => (o.aReads p c).map fun r => (p.block, r)) ++ (o.bReads c).map fun r => (o.block, r)

/-- Component `m` of A[i][k] (R201). -/
def State.aElem (s : State) (o : Mma) (p : Part) (i k m : Nat) : Nat :=
  let fw := o.fw.toNat
  let b := fmtBits (fwA fw)
  let x := if fwAt fw then k else i
  let y := if fwAt fw then i else k
  let bit := (y * o.dim + m) * b
  getN s.unit (p.aBase + p.aaddr + x * pbAstr o.pb.toNat + bit / 8) 2 / 2 ^ (bit % 8) % 2 ^ b

/-- A lent B register as the engine reads it: a fenced result still in its window counts (R210). -/
def State.bReg (s : State) (t r : Nat) : Nat :=
  let q := islotOfThread t
  let lane := laneOfThread t
  let p := (slice s.floes (32 * q) (32 * q + 32)).findSome? fun e =>
    if e.2.lanes.contains (lane, t % 32) then
      (e.2.pend.filter fun p => p.fenced && decide (p.reg ≤ r ∧ r < p.reg + p.cnt)).findSome? fun p =>
        (p.vals.find? (·.1 == lane)).map fun v => v.2.getD (r - p.reg) 0
    else none
  (p.getD (s.vreg t r)).toNat

/-- Component `m` of B[k][j] (R202). The registers of a holder whose block has ended are free: the spec states no value (log 27). -/
def State.bElem (s : State) (o : Mma) (k j m : Nat) : Nat :=
  let pb := o.pb.toNat
  let fw := o.fw.toNat
  let b := fmtBits (fwB fw)
  let d := o.dim
  let ng := o.n / pbG pb
  let w := ng * d * b / 32
  let j' := j % ng
  let lane := if fwBt fw then j' % 32 else k % 32
  let x := if fwBt fw then j' / 32 * (32 * o.kk) * d + k * d + m else k / 32 * (w * 32 / b) + j' * d + m
  let t := ((o.holders.getD (j / ng) []).getD lane) 0
  let r := pbBreg pb + x * b / 32
  (if o.gone.contains t then (Config.freeWord (2 ^ 80 + 2 ^ 48 * o.serial + 256 * t + r)).toNat else s.bReg t r) / 2 ^ (x * b % 32) % 2 ^ b

/-- One real product of elements with their scales (R23, R36, R39). -/
def State.mmaTerm (s : State) (o : Mma) (p : Part) (c i j k ci cj : Nat) (neg : Bool) : FVal :=
  let fw := o.fw.toNat
  let a := s.aElem o p i k ci
  let b := s.bElem o k j cj
  let v : FVal :=
    if fwA fw = 4 then lnsMul a b
    else
      let x := elemVal (fwA fw) a
      let y := elemVal (fwB fw) b
      let x := if fwAsc fw then scaleVal x (getB s.unit (((p.aBase + p.aaddr : Nat) + pbAscoff o.pb.toNat).toNat + i * o.kk + c)).toNat else x
      let y := if fwBsc fw then scaleVal y (getB s.unit (o.unitBase + pbBsc o.pb.toNat + j * o.kk + c)).toNat else y
      (x.mul y).1
  if neg then v.negate else v

/-- R36, R38: an accumulator word after one chunk. -/
def chunkStep (fw : Nat) (sr : Word) (x c acc : Nat) (ts : List FVal) : Nat :=
  if bits fw 9 8 = 1 then
    let sum := sumExact ts
    let v := sext acc 32 + sum.1 * 2 ^ sum.2.toNat
    wrap (if fwSat fw then min (max v (-2 ^ 31)) (2 ^ 31 - 1) else v) 32
  else
    let v := sumVal .rne ts
    let v := match v with
      | .zero z => if fwA fw = 4 then .zero false else .zero z
      | v => v
    let sc := (deliver .f32 .rne (fwSat fw) 0 v).1
    (fAdd .f32 (if fwSro fw then .sr else .rne) (fwSat fw) (drawOf sr x c) acc sc).1

/-- Products that contribute to component `m` (R125, R141). -/
def Mma.pairs (o : Mma) (m : Nat) : List (Nat × Nat × Bool) :=
  if fwAlg o.fw.toNat = 0 then [(0, 0, false)] else tabPairs o.tab.toNat o.dim m

/-- A participant's words after chunk `c`. -/
def State.chunkPart (s : State) (o : Mma) (p : Part) (acc : List Word) (c : Nat) : List Word :=
  acc.zipIdx.map fun w =>
    let m := w.2 % o.dim
    let j := w.2 / o.dim % o.n
    let i := w.2 / o.dim / o.n
    let ts := (List.range 32).flatMap fun k => (o.pairs m).map fun q => s.mmaTerm o p c i j (32 * c + k) q.1 q.2.1 q.2.2
    BitVec.ofNat 32 (chunkStep o.fw.toNat o.sr w.2 c w.1.toNat ts)

/-- The words of every participant before chunk `c`: the banks at the first pass (R204). -/
def State.mmaAcc (s : State) (o : Mma) : List (List Word) :=
  if o.chunk = 0 then o.parts.map fun p => (List.range (o.m * o.n * o.dim)).map fun w => s.accWord (p.block / 32) p.first w
  else o.acc

/-- The operation as an agent (R286, R289). -/
def State.mmaAgent (o : Mma) (_ : State) : Agent :=
  ⟨identEng (coreOfFloe o.floe) true o.entry, true, identFloe o.floe, o.start, o.know, o.fold, o.block, o.serial, {}, {}⟩

/-! ## Faults of an operation (R216, R217, R441) -/

/-- An operation is cancelled for good: an imprecise fault of its issuing block, gang-cancel for its post-commit partners (R217, R441). -/
def State.mmaGiveUp (s : State) (id code addr : Nat) : State :=
  match look s.mmas id with
  | none => s
  | some o => (s.cancelMma id true).addDue o.block code addr o.coord.toNat

/-- The participants of an operation, but for the issuing block, that have not committed (R216). -/
def State.mmaPre (s : State) (o : Mma) : List Part :=
  o.parts.filter fun p => decide (p.block ≠ o.block) && decide ((s.block p.block).uid = p.uid) && (s.block? p.block).isSome && !(s.block p.block).committed

/-- An operation meets a fault that no page request serves: it is given up, and its pre-commit partners are killed and requeued; after a
malformed walk they are handled as R337 handles an aborted task (R216, R290, R441). -/
def State.mmaLost (s : State) (id code addr : Nat) : State :=
  match look s.mmas id with
  | none => s
  | some o =>
    (s.mmaPre o).foldl (fun s p =>
      let s := s.abortBlock p.block [] [] false
      match code, s.tasks.getLast? with
      | 0x8008, some t => s.pageBadTask t 0x001B addr
      | _, _ => s) (s.mmaGiveUp id code addr)

/-- A page fault of an operand read: the participants are classed, pre-commit ones aborted, a post-commit issuer retries (R216). A stop
that has begun cancels the operation instead (R371). With `full` the fault unit had no room: the pages are requested later (R331). -/
def State.mmaFault (s : State) (id : Nat) (o : Mma) (va : Nat) (pages : List (Nat × Nat × Bool)) (full : Bool) : State :=
  let pre := s.mmaPre o
  let vas := [(va, ((pages.headD (0, 0, false)).2.1))]
  let drop (s : State) : State := pre.foldl (fun s p => s.abortBlock p.block pages vas full) s
  if (s.block o.block).committed then
    let s := drop ({ s with mmas := put s.mmas id { o with
      waiting := true, pages := if full then [] else pages, full := full, fva := va, granted := false, chunk := 0, acc := [],
      parts := o.parts.map fun (p : Part) => if pre.any (fun (x : Part) => x.p == p.p) then { p with requeued := true } else p } }.freeMma id o)
    if (s.block o.block).stops.all (· == 5) then s else s.cancelWaiting o.block
  else drop (s.abortBlock o.block pages vas full)

/-- First-touch fills that the reads of a chunk need (R234): nothing when there are none, else the state with them begun or the fault taken. -/
def State.mmaFills (s : State) (id : Nat) (o : Mma) : Option State :=
  let cs := (o.reads o.chunk).flatMap fun r => s.invalidChunks .unit 0 r.2.1 r.2.2
  if cs = [] then none
  else
    let core := coreOfFloe o.floe
    let ts := cs.map fun q => (q, s.xlat core q.ctx q.va false)
    match xfail s core o.ctx (ts.map fun t => (0, t.1.va, t.2)) false with
    | some (.trap _ _ a) => some (s.mmaLost id 0x8008 a)
    | some .poison => some ((s.cancelMma id false).fatalStop o.grid (some (o.block / 32)))
    | some (.page _ fs _ _) =>
      let r := State.openPages o.die o.ctx false (fs.map (·.2)) [] s
      some (r.2.mmaFault id o (fs.headD (0, 0, .absent)).2.1 (r.1.getD (fs.map fun e => (o.ctx, pageBase e.2.1 e.2.2, false))) r.1.isNone)
    | some (.stall s) => some s
    | some _ => some s
    | none => match ts.findSome? fun t => match t.2 with
        | .ok leaf size => s.badTag t.1.ctx ⟨0, t.1.ptr, t.1.va, leaf, size⟩ 256
        | _ => none with
      | some g => some (s.mmaLost id 0x8004 g)
      | none => some (s.startFills o.floe o.fid cs)

/-! ## Events of the engine -/

/-- Effective priority (R255). -/
def Mma.eff (o : Mma) (now : Nat) : Nat := min 3 (o.prio + (now - o.posted) / 64)

/-- Order of the arbiter's visit (R255). -/
def arbBefore (now : Nat) (a b : Nat × Mma) : Bool :=
  let x := a.2.eff now
  let y := b.2.eff now
  decide (y < x) || (x == y && (decide (a.2.posted < b.2.posted) || (a.2.posted == b.2.posted && (decide (a.2.floe < b.2.floe) || (a.2.floe == b.2.floe && decide (a.1 < b.1))))))

/-- Insert into a list in the arbiter's order. -/
def arbInsert (now : Nat) (x : Nat × Mma) : List (Nat × Mma) → List (Nat × Mma)
  | [] => [x]
  | y :: t => if arbBefore now x y then x :: y :: t else y :: arbInsert now x t

/-- The reads of a pass enter the engine ports of their banks (R260). -/
def State.mmaPorts (s : State) (id : Nat) (o : Mma) : State :=
  { s with tokens := s.tokens ++ (o.reads o.chunk).map fun r => engineToken .unit r.2.1 r.2.2 (some id) }

/-- One entry of the visit: its next pass is granted, or its free arrays are reserved (R255). -/
def arbVisit (s : State) (e : Nat × Mma) : State :=
  let cores := e.2.parts.map fun p => p.block / 32
  let free (c : Nat) : Bool := (look s.arrays c).isNone && (match look s.reserved c with | some id => id == e.1 | none => true)
  if cores.all free then
    { s with
      arrays := cores.foldl (fun t c => put t c e.1) s.arrays
      reserved := cores.foldl (fun t c => del t c) s.reserved
      mmas := put s.mmas e.1 { e.2 with granted := true } }.mmaPorts e.1 e.2
  else { s with reserved := cores.foldl (fun t c => if free c then put t c e.1 else t) s.reserved }

/-- ARBITER_GRANT: the visit of R255 to the entries that await a pass, first passes 40 cycles after issue (R218). -/
def execArbiterGrant (die cluster : Nat) (s : State) : Host.Outcome State Fault Refusal :=
  let now := s.clock die
  let es := (s.tableOps die cluster).filter fun e => !e.2.granted && decide (e.2.chunk < e.2.kk ∧ e.2.posted + 40 ≤ now)
  .next ((es.foldl (fun l e => arbInsert now e l) []).foldl arbVisit s)

/-- MMA_PASS_END: chunks that the pass touches first are filled (R234); once its reads are served the chunk is summed and the arrays are free
(R204, R255, R260). A read that races cancels the operation (R290). -/
def execMmaPassEnd (op : Nat) (s : State) : Host.Outcome State Fault Refusal :=
  match look s.mmas op with
  | none => .next s
  | some o =>
    if !o.granted then .next s
    else match s.mmaFills op o with
    | some s => .next (s.settleDue 64)
    | none =>
      if s.engineBusy op then .next s
      else if s.latent ≠ [] ∧ ((o.reads o.chunk).any fun r => s.uePad .unit r.2.1 r.2.2) then
        let t := (o.reads o.chunk).foldl (fun s r => s.logPad .unit r.2.1 r.2.2 o.ctx) s
        .next (((t.cancelMma op false).fatalStop o.grid (some (o.block / 32))).settleDue 64)
      else if !((o.reads o.chunk).all fun r => s.raceOk (s.mmaAgent o) (.pad .unit r.2.1) r.2.2) then
        .next ((s.mmaLost op 0x8005 0).settleDue 64)
      else
        let acc := (o.parts.zip (s.mmaAcc o)).map fun e => s.chunkPart o e.1 e.2 o.chunk
        .next { s with
          mmas := put s.mmas op { o with granted := false, chunk := o.chunk + 1, acc := acc }
          arrays := s.arrays.filter fun e => e.2 ≠ op }

/-- A bank has been written since it was allocated (R266). -/
def State.markBanks (s : State) (core first cnt : Nat) : State :=
  { s with bankCtx := (List.range cnt).foldl (fun t i =>
      let b := 128 * core + first + i
      let v := lookD 0 t b
      put t b (v / 4 * 4 + 2 + v % 2)) s.bankCtx }

/-- Write bank words of a core from word `w` of a run. -/
def State.setAcc (s : State) (core first w : Nat) (v : Word) : State :=
  ({ s with accs := put s.accs (65536 * core + 512 * first + w) v }).takeInjection 4 core (2048 * first + 4 * w) 4

/-- Banks that a number of words from the start of a run covers. -/
def banksOf (words : Nat) : Nat := (words + 511) / 512

/-- MMA_COMPLETE: every participant's banks are written, the slots count the completion (R207); ended participants' holdings are freed (R442). -/
def execMmaComplete (op : Nat) (s : State) : Host.Outcome State Fault Refusal :=
  match look s.mmas op with
  | none => .next s
  | some o =>
    if o.done ∨ o.waiting ∨ o.granted ∨ o.chunk < o.kk then .next s
    else
      let s := (o.parts.zip o.acc).foldl (fun s e =>
        let core := e.1.block / 32
        (e.2.zipIdx.foldl (fun s w => s.setAcc core e.1.first w.2 w.1) s).markBanks core e.1.first (banksOf e.2.length)) s
      let s := { s with mmas := put s.mmas op { o with done := true } }.freeMma op o
      let r := s.storeRec o.die ⟨identEng (coreOfFloe o.floe) true o.entry, o.serial, o.know, o.fold⟩
      let own := (o.parts.find? (·.block == o.block)).map (·.slot)
      let ms := opMark (some r.1) o.who
      let s := r.2.completeOwn (o.block / 32) (own.getD 0) o.uid ms
      let s : State := { s with mcasts := s.mcasts ++ (o.parts.filter fun p => p.block ≠ o.block && !p.ended).map fun p =>
        { core := p.block / 32, slot := p.slot, uid := p.uid, recs := ms, lent := some (p.first, p.cnt) } }
      .next (s.settleDue 64)

/-- MMA_RETRY: once its pages are answered and every requeued participant is resident again with its slot expecting it, checks 6 and 7
of R199 are made again, and the operation is posted anew or the issuing floe traps (R216). -/
def execMmaRetry (op : Nat) (s : State) : Host.Outcome State Fault Refusal :=
  match look s.mmas op with
  | none => .next s
  | some o =>
    let pb := o.pb.toNat
    let ready := o.parts.all fun p => !p.requeued || match s.mate o.block p.p with
      | some b => let x := s.bar (b / 32) p.slot; x.val && x.owner == b && decide (0 < x.pend)
      | none => false
    match s.floeBy o.floe o.fid, s.freeEntry o.die o.cluster with
    | some (k, f), some entry =>
      let parts := s.partsOf o.block pb
      let bad : Option (Nat × Nat) := ((s.paramBad k f o.block pb o.fw.toNat o.dim).map fun e => (0x0033, e)).or
        (if s.banksLent parts (some op) then some (0x0034, 0) else none)
      if !o.waiting ∨ o.pages ≠ [] ∨ (o.full ∧ !s.pageRoom o.die) ∨ !ready ∨ (s.block o.block).stops ≠ [] then .next s
      else match bad with
        | some e =>
          if f.handler ≠ [] ∨ f.trap.isSome then .next s
          else if s.handlerWaits o.grid then .next (s.askAts (coreOfFloe o.floe) o.ctx (s.handlerVa o.grid))
          else .next (((s.cancelMma op true).opTrap o.floe o.fid e.1 e.2 o.coord.toNat).settleDue 64)
        | none => .next { s with mmas := put s.mmas op { o with
            waiting := false, full := false, posted := s.clock o.die, entry := entry, parts := parts, holders := s.holdersOf k f o.block pb, gone := [] } }
    | _, _ => .next s

/-! ## `mwait`, `mfence` (R209, R210) -/

def execMwait (s : State) : Host.Outcome State Fault Refusal :=
  issue .mwait s fun c =>
    let out := c.f.ops.any fun id => match look c.s.mmas id with
      | some o => !o.done
      | none => false
    if c.act = [] then .done c.s
    else if out then .hold c.s .mwait
    else .done ({ c.s with mmas := delAll c.s.mmas c.f.ops }.modFloe c.k fun f => { f with ops := [] })

def execMfence (s : State) : Host.Outcome State Fault Refusal :=
  issue .mfence s fun c =>
    if c.act = [] then .done c.s
    else if c.f.pend.any (fun p => !p.ready) ∨ c.s.writesOut c.k c.f then .stall c.s
    else .done (c.s.modFloe c.k fun f => { f with pend := f.pend.map fun p => { p with fenced := true } })

/-! ## Accumulator instructions (R208, R211 to R215) -/

/-- Lowest run of `n` free banks on a core. -/
def State.freeRun (s : State) (core n : Nat) : Option Nat :=
  (List.range (129 - n)).find? fun b => !(s.allocs.any fun a => a.1 == core && runsMeet (b, n) (a.2.first, a.2.cnt))

/-- A bank's record when a context is given it (R211, R266). -/
def bankGiven (old serial ctx : Nat) : Nat :=
  let away := decide (old ≠ 0 ∧ old / 4 % 64 ≠ ctx)
  let zero := away || (old % 2 == 1 && old / 2 % 2 == 0)
  serial * 256 + ctx * 4 + (if zero then 1 else 0)

/-- Give a block a run of banks. -/
def State.giveBanks (s : State) (bk ctx first n : Nat) : State :=
  let core := bk / 32
  let id := s.newId
  { id.2 with
    allocs := s.allocs ++ [(core, { block := bk, first := first, cnt := n })]
    accs := cut s.accs (65536 * core + 512 * first) (65536 * core + 512 * (first + n))
    bankCtx := (List.range n).foldl (fun t i => put t (128 * core + first + i) (bankGiven (lookD 0 t (128 * core + first + i)) id.1 ctx)) s.bankCtx }

def execAalloc (o : RegOps) (s : State) : Host.Outcome State Fault Refusal :=
  issue (.aalloc o) s fun c =>
    let n := (c.rd1 0 o.a c.low).toNat
    let put' (s : State) (v : Word) (b : Bool) : State :=
      c.act.foldl (fun s l => c.wrPred (c.wr1 s o.d l v) o.c l b) s
    let held := ((c.s.allocs.filter fun a => a.2.block == c.bk && a.2.orphan.isNone).map (·.2.cnt)).foldl (· + ·) 0
    if c.act = [] then .done c.s
    else if n = 0 ∨ 128 < n then .trap 0x0035 c.act (n * 2 ^ 32)
    else match (if held + n ≤ c.g.accN then c.s.freeRun c.core n else none) with
      | some b => .done (put' (c.s.giveBanks c.bk c.g.ctx b n) (BitVec.ofNat 32 (256 * n + b)) true)
      | none => .done (put' c.s 0xFFFFFFFF false)

/-- The banks a good handle names are lent (R206). -/
def Ctx.bankLent (c : Ctx) (r : Nat × Nat) : Bool := (c.s.lentBanks c.core).any fun x => runsMeet x r

/-- A handle given to an instruction that runs once: bad-accumulator and lent-register traps, or the run. -/
def Ctx.oneHandle (c : Ctx) (h : Nat) : Except Res (Nat × Nat) :=
  match c.s.handleOk c.bk h with
  | none => .error (.trap 0x0035 c.act h)
  | some r => if c.bankLent r then .error (.trap 0x0034 c.act 0) else .ok r

/-- A logged `accst` names banks of a run. -/
def namesBanks (r : Nat × Nat) : LogEnt → Bool
  | .accst _ first cnt _ _ _ _ _ _ => runsMeet (first, cnt) r
  | _ => false

/-- R212. -/
def execAfree (o : RegOps) (s : State) : Host.Outcome State Fault Refusal :=
  issue (.afree o) s fun c =>
    if c.act = [] then .done c.s
    else match c.oneHandle (c.rd1 0 o.a c.low).toNat with
      | .error r => r
      | .ok r =>
        let lo := 65536 * c.core + 512 * r.1
        let loading := c.s.net.any fun e => e.2.fid == c.f.fid && (match e.2.kind with
          | .bank w => decide (lo ≤ w ∧ w < lo + 512 * r.2)
          | _ => false)
        let free (s : State) : Res := .done { s with allocs := s.allocs.filter fun a =>
          !(a.1 == c.core && a.2.block == c.bk && a.2.first == r.1 && a.2.orphan.isNone) }
        if loading then .stall c.s
        else if c.f.log.any (namesBanks r) then c.commitThen c.s free else free c.s

/-- Handles and offsets of the active lanes of `accr` and `accw`: the trap of the lanes concerned, those with a bad handle and those with a bad
offset in one record (R214), or lane, first bank and word. Bad-accumulator comes before lent-register, where R206 and R214 give no order
(DESIGN CHOICE, log 63). -/
def Ctx.accLanes (c : Ctx) (h off : Nat → Nat) : Except Res (List (Nat × Nat × Nat)) :=
  let run (l : Nat) : Nat × Nat := (c.s.handleOk c.bk (h l)).getD (0, 0)
  let bad (l : Nat) : Bool := (c.s.handleOk c.bk (h l)).isNone
  let fails := c.act.filter fun l => bad l || decide (off l % 4 ≠ 0 ∨ 2048 * (run l).2 ≤ off l)
  let low := fails.headD 0
  let lent := c.act.filter fun l => c.bankLent (run l)
  if fails ≠ [] then .error (.trap 0x0035 fails (h low + if bad low then 0 else off low * 2 ^ 32))
  else if lent ≠ [] then .error (.trap 0x0034 lent 0)
  else .ok (c.act.map fun l => (l, (run l).1, off l / 4))

/-- R214. -/
def execAccr (o : RegOps) (s : State) : Host.Outcome State Fault Refusal :=
  issue (.accr o) s fun c =>
    match c.accLanes (fun l => (c.rd1 0 o.a l).toNat) (fun l => (c.rd1 1 o.b l).toNat) with
    | .error r => r
    | .ok ls => .done (c.deliver c.s o.h.la.toNat o.d (ls.map fun e => (e.1, [c.s.accWord c.core e.2.1 e.2.2], 0)))

def execAccw (o : RegOps) (s : State) : Host.Outcome State Fault Refusal :=
  issue (.accw o) s fun c =>
    match c.accLanes (fun l => (c.rd1 0 o.a l).toNat) (fun l => (c.rd1 1 o.b l).toNat) with
    | .error r => r
    | .ok ls => .done (ls.foldl (fun s e =>
        (s.setAcc c.core e.2.1 e.2.2 (c.rd1 2 o.c e.1)).markBanks c.core (e.2.1 + e.2.2 / 512) 1) c.s)

/-- Every word of a run becomes zero: none is listed, and its banks' unlisted words read as zero. -/
def State.zeroBanks (s : State) (core : Nat) (r : Nat × Nat) : State :=
  { s with
    accs := cut s.accs (65536 * core + 512 * r.1) (65536 * core + 512 * (r.1 + r.2))
    bankCtx := (List.range r.2).foldl (fun t i =>
      let b := 128 * core + r.1 + i
      put t b (lookD 0 t b / 4 * 4 + 3)) s.bankCtx }

def execAccz (o : RegOps) (s : State) : Host.Outcome State Fault Refusal :=
  issue (.accz o) s fun c =>
    if c.act = [] then .done c.s
    else match c.oneHandle (c.rd1 0 o.a c.low).toNat with
      | .error r => r
      | .ok r => .done (c.s.zeroBanks c.core r)

/-- Handle and byte count of `accst` and `accld`, from the lowest active lane (R215): the run and n. Bad-accumulator comes before
lent-register (DESIGN CHOICE, log 63). -/
def Ctx.accRun (c : Ctx) (o : MemOps) : Except Res ((Nat × Nat) × Nat) :=
  let h := (c.rd1 2 o.c c.low).toNat
  let n := (c.rd1 1 o.b c.low).toNat
  match c.s.handleOk c.bk h with
  | none => .error (.trap 0x0035 c.act h)
  | some r =>
    if n % 4 ≠ 0 ∨ n = 0 ∨ 2048 * r.2 < n then .error (.trap 0x0035 c.act (h + n * 2 ^ 32))
    else if c.bankLent r then .error (.trap 0x0034 c.act 0)
    else .ok (r, n)

/-- The one access of n bytes, aligned as 4, that `accst` and `accld` make, for every active lane's trap record (R176, R215). -/
def Ctx.accReq (c : Ctx) (o : MemOps) : GReq :=
  let p := c.rdPair o.a c.low
  ⟨c.low, p, wrap ((ptrVa p : Int) + sext o.disp.toNat 24) 48⟩

/-- Checks 1 to 3 of R176 for it. -/
def Ctx.accBounds (c : Ctx) (q : GReq) (n : Nat) (perm : Nat → Bool) : Option Res :=
  let b := q.ptr / 2 ^ 48 % 4096
  if q.va % 4 ≠ 0 then some (.trap 0x0010 c.act q.va)
  else if c.s.bentPoison c.g.ctx b then some .poison
  else if !c.s.inBounds c.g.ctx b q.va n || !perm (c.s.bent c.g.ctx b) then some (.trap 0x0011 c.act q.va)
  else none

/-- What the home checks of a global `accst`, made at issue: the tag trap and the race trap are precise (R176, R215, R290). -/
def Ctx.accHome (c : Ctx) (q : GReq) (n : Nat) : Option Res :=
  (c.elemChecks (q.ptr / 2 ^ 48) ((List.range (n / 4)).map fun i => (c.low, q.va + 4 * i)) 4).map fun r => match r with
    | .trap code _ a => .trap code c.act a
    | r => r

/-- The scratchpad address of `accst` and `accld`, in the lowest active lane. -/
def Ctx.accPad (c : Ctx) (o : MemOps) : List (Nat × Int) :=
  let a : Int := ((c.s.vreg (c.t c.low) o.a.toNat).toNat : Int) + sext o.disp.toNat 24
  c.act.map fun l => (l, a)

def execAccst (o : MemOps) (s : State) : Host.Outcome State Fault Refusal :=
  issue (.accst o) s fun c =>
    if c.act = [] then .done c.s
    else match c.accRun o with
    | .error r => r
    | .ok (r, n) =>
      if o.space = .glob then
        let q := c.accReq o
        match (c.accBounds q n bentW).or (c.accHome q n) with
        | some r => r
        | none => c.logEntry c.s (.accst c.core r.1 r.2 n c.g.ctx q.ptr q.va c.f.coord 0)
      else if c.s.bankBusy c.islot o.space then .stall c.s
      else match c.checkPad c.s o.space (c.accPad o) 4 n false true true {} with
        | .error r => r
        | .ok (s, ps) =>
          let pa := (ps.headD (0, 0)).2
          let bs := (List.range (n / 4)).flatMap fun i => leBytes (s.accWord c.core r.1 i).toNat 4
          .done ((s.writePad (s.agentOf c.k ((s.floe? c.k).getD c.f) (c.carry {} none c.low)) o.space pa bs).enterBank c.k c.f.fid c.low o.space pa n none)

/-- Words of a bank run from bytes. -/
def State.loadBanks (s : State) (core first n v : Nat) : State :=
  ((List.range (n / 4)).foldl (fun s i => s.setAcc core first i (BitVec.ofNat 32 (v / 2 ^ (32 * i)))) s).markBanks core first (banksOf (n / 4))

def execAccld (o : MemOps) (s : State) : Host.Outcome State Fault Refusal :=
  issue (.accld o) s fun c =>
    if c.act = [] then .done c.s
    else match c.accRun o with
    | .error r => r
    | .ok (r, n) =>
      let out : Pend := {
        n := 0, reg := o.d.toNat, cnt := 1, load := true, vals := c.act.map fun l => (l, [c.rd1 2 o.c l]) }
      if o.space = .glob then
        let q := c.accReq o
        match c.accBounds q n bentR with
        | some r => r
        | none =>
          match c.checkHome ((List.range (n / 4)).map fun i => ⟨c.low, q.ptr, q.va + 4 * i⟩) 4 false true {} with
          | .error (.trap code _ a) => .trap code c.act a
          | .error r => r
          | .ok (s, accs) =>
            let c := { c with s := s }
            let p := c.await s o.h.la.toNat { out with need := List.range (n / 4) }
            .done (addReqs (accs.zipIdx.map fun e => { c.req e.1 4 (.bank (65536 * c.core + 512 * r.1 + e.2)) {} with
              lane := e.2, pend := some p.1 }) p.2)
      else if c.s.bankBusy c.islot o.space then .stall c.s
      else match c.checkPad c.s o.space (c.accPad o) 4 n true false true {} with
        | .error r => r
        | .ok (s, ps) =>
          let pa := (ps.headD (0, 0)).2
          let rd := c.readPad s c.low o.space pa n none
          let p := c.await (rd.2.loadBanks c.core r.1 n rd.1) o.h.la.toNat { out with need := [c.low] }
          .done (p.2.enterBank c.k c.f.fid c.low o.space pa n (some p.1))

end Sys2Proof.Machine
end

