-- ==== Sys2Proof/Machine/Copy.lean ====
section
/-! DEFINITION. Tensor copies: box descriptors, the issue checks, the walk, completion and faults (R219 to R232, R441). -/

namespace Sys2Proof.Machine

/-! ## The box descriptor (R219 to R221) -/

def cpW (d i : Nat) : Nat := bits d (32 * i + 31) (32 * i)
def cpMcast (d p : Nat) : Bool := bitOf d (28 + p)
def cpSel (d : Nat) : Nat := bits d 27 24
def cpCmode (d : Nat) : Bool := bitOf d 23
def cpFill (d : Nat) : Nat := bits d 22 21
def cpRed (d : Nat) : Nat := bits d 20 19
def cpFmt (d : Nat) : Nat := bits d 18 15
def cpSwz (d : Nat) : Nat := bits d 14 12
def cpSlvl (d : Nat) : Space := lvlOf (bits d 11 10)
def cpFlvl (d : Nat) : Space := lvlOf (bits d 9 8)
def cpNdim (d : Nat) : Nat := bits d 7 5
def cpE (d : Nat) : Nat := 2 ^ bits d 4 2
def cpDir (d : Nat) : Bool := bitOf d 1
def cpNear (d : Nat) : Nat := cpW d 1
def cpFar (d : Nat) : Nat := bits d 127 64
/-- STR[i]; STR[0] is the element size. -/
def cpStr (d i : Nat) : Int := if i = 0 then cpE d else sext (bits d (64 * (i + 1) + 63) (64 * (i + 1))) 64
def cpExt (d i : Nat) : Nat := cpW d (16 + i)
/-- Box size of a dimension. -/
def cpBox (d i : Nat) : Nat := bits d (8 * (92 + i) + 7) (8 * (92 + i)) + 1
def cpPstr (d : Nat) : Nat := cpW d 25
def cpDims (d : Nat) : List Nat := List.range (cpNdim d)
def cpCount (d : Nat) : Nat := (cpDims d).foldl (fun n i => n * cpBox d i) 1
/-- Offset of the far side's first byte: the VA of a pointer, or the offset in a share. -/
def cpFarBase (d : Nat) : Nat := if cpFlvl d = .glob then cpFar d % 2 ^ 48 else cpFar d % 2 ^ 32

/-- Width of a `cvt` format code (R120). -/
def cvtWidth (c : Nat) : Nat :=
  match c with
  | 0 => 32 | 1 | 2 => 16 | 3 | 4 | 5 | 6 | 7 => 8 | 8 | 9 => 16 | 10 | 11 => 32 | _ => 64

/-- Coordinates of element `n` of a box, dimension 0 first. -/
def boxCoords (d : Nat) : List Nat → Nat → List Nat
  | [], _ => []
  | i :: is, n => n % cpBox d i :: boxCoords d is (n / cpBox d i)

/-- `nearoff` of R221. -/
def nearOff (d n : Nat) : Nat :=
  let e := cpE d
  let b0 := cpBox d 0
  let x := n * e
  if cpSwz d = 5 then n % b0 * cpPstr d + n / b0 * e
  else if cpSwz d = 0 then x
  else
    let m := 2 ^ cpSwz d
    x ^^^ (x / (b0 * e) % m * 16)

/-- Far offset of element `n`, if it lies in the tensor; for a global far side an address modulo 2^48 (R221). -/
def farOff (d : Nat) (orig : List Int) (n : Nat) : Option Int :=
  let cs := boxCoords d (cpDims d) n
  let g (i : Nat) : Int := orig.getD i 0 + cs.getD i 0
  if (cpDims d).all fun i => decide (0 ≤ g i ∧ g i < cpExt d i) then
    let a := (cpDims d).foldl (fun a i => a + g i * cpStr d i) (cpFarBase d : Int)
    some (if cpFlvl d = .glob then (wrap a 48 : Nat) else a)
  else none

/-- The value stored for an element outside the tensor (R221). -/
def fillVal (d : Nat) : Nat :=
  if cpFill d ≠ 1 then 0
  else match cpFmt d with
    | 0 => Fmt.f32.nan | 1 => Fmt.f16.nan | 2 => Fmt.bf16.nan | 3 => Fmt.e4m3.nan | 4 => Fmt.e5m2.nan | _ => 0x30

/-! ## Checks at issue (R222, R225) -/

/-- Receiving blocks: those MCAST names, or the issuing block (R229). -/
def State.cpTargets (s : State) (bk d : Nat) : List Nat :=
  if bits d 31 28 = 0 then [bk] else ((List.range 4).filter (cpMcast d)).filterMap fun p => s.mate bk p

def failD (code : Nat) (ds : List Nat) (bad : Nat → Bool) : Option Nat := (ds.find? bad).map fun i => i * 256 + code

/-- R222: ADDR of the first failing row. DESIGN CHOICE (log 37): FMT is read as R220 and R222 say, an R120 code whose reserved values are
row 0x01's bad-descriptor trap, and not by R24's table with its bad-format trap. DESIGN CHOICE (log 64): of a row that fails in several ways
a failure of the whole descriptor (0) is named first, then the lowest dimension or `%drf` index. `kind` 0 `cpbox`, 1 `cpred`, 2 `tmov`; `run` is SRCB, `regs` the segment's REGS. -/
def Ctx.boxBad (c : Ctx) (kind d run regs : Nat) (o0 : Int) : Option Nat :=
  let e := cpE d
  let nd := cpNdim d
  let w := 8 * e
  let fmt := cpFmt d
  let b0 := cpBox d 0
  let s16 := 16 * 2 ^ cpSwz d
  let past := (List.range 7).filter (nd ≤ ·)
  let glob := cpFlvl d == .glob
  [failIf 1 (decide (d % 2 = 1 ∨ bits d 799 792 ≠ 0 ∨ bits d 1023 832 ≠ 0 ∨ cpFill d = 3 ∨ 5 < cpSwz d ∨ bits d 11 10 = 0 ∨ nd = 0 ∨
      4 < bits d 4 2 ∨ 13 < fmt ∨ (cpSwz d ≠ 5 ∧ cpPstr d ≠ 0)) || (!glob && decide (bits d 127 96 ≠ 0))),
   failD 1 past fun i => (i != 0 && cpStr d i != 0) || cpExt d i != 0 || cpBox d i != 1,
   failD 2 (cpDims d) fun i => cpExt d i == 0,
   failIf 2 (decide (2 ^ 20 < cpCount d * e)),
   failIf 3 (if cpFill d = 1 ∨ cpRed d ≠ 0 then
      (cpFill d == 1 && decide (5 < fmt)) || (cpRed d != 0 && !(fmt == 0 || fmt == 2 || fmt == 10 || fmt == 11)) || cvtWidth fmt != w
      else fmt != 0),
   failIf 4 (if cpSwz d = 5 then
      decide ((b0 ≠ 2 ∧ b0 ≠ 4 ∧ b0 ≠ 8) ∨ cpExt d 0 ≠ b0 ∨ o0 ≠ 0 ∨ cpPstr d % 16 ≠ 0 ∨ cpPstr d < cpCount d / b0 * e)
      else cpSwz d != 0 && decide (b0 * e % s16 ≠ 0 ∨ cpNear d % s16 ≠ 0)),
   failIf 5 (decide (regs < run + nd)),
   failIf 6 (bits d 31 28 != 0 && !(cpMcast d (c.s.block c.bk).drf && kind == 0 && !cpDir d && cpSlvl d == .unit && !cpCmode d)),
   failD 6 ((List.range 4).filter (cpMcast d)) fun p => (c.s.mate c.bk p).isNone,
   failIf 7 (cpCmode d && !(!cpDir d && cpNear d == 0 && (match look c.s.cbufs (16 * c.core + cpSel d) with
      | some b => b.val && b.owner == c.bk && b.lvl == lvlCode (cpSlvl d) && decide (cpCount d * e ≤ 256 * b.ssz)
      | none => false))),
   failIf 8 (!(match kind with
      | 0 => glob && cpRed d == 0
      | 1 => glob && cpDir d && cpRed d != 0
      | _ => !glob && cpRed d == 0)),
   failIf 9 (cpFarBase d % e != 0),
   failD 9 (cpDims d) fun i => decide (cpStr d i % e ≠ 0)].findSome? id

/-- R225 check 3: the slots of the issuing block and of every block named. -/
def Ctx.boxBars (c : Ctx) (d : Nat) (targets : List Nat) : Option (Nat × Nat) :=
  if cpCmode d then none
  else (c.bk :: targets).findSome? fun b =>
    let x := c.s.bar (b / 32) (cpSel d)
    let addr := cpSel d + 256 * (c.s.block b).drf
    if x.val ∧ x.owner ≠ b then some (0x0021, addr) else if !x.val then some (0x0022, addr) else none

/-- The lowest byte outside `[lo, hi)` of elements of `e` bytes. -/
def outside (as : List Int) (e lo hi : Int) : Option Int :=
  as.foldl (fun b a =>
    if a < lo ∨ hi < a + e then
      let x := if a < lo then a else max a hi
      match b with
      | some y => some (min x y)
      | none => some x
    else b) none

/-- Offsets that the near side of a copy may start at: NEAR, or the first and the last slot of its buffer. -/
def Ctx.nearStarts (c : Ctx) (d : Nat) : List Nat :=
  if cpCmode d then
    match look c.s.cbufs (16 * c.core + cpSel d) with
    | some b => [b.base, b.base + 256 * b.ssz * (b.nslot - 1)]
    | none => []
  else [cpNear d]

/-- R225 checks 4 to 6: trap code and ADDR. -/
def Ctx.boxRange (c : Ctx) (kind d : Nat) (orig : List Int) (targets : List Nat) : Option (Nat × Nat) :=
  let e : Int := cpE d
  let ns := List.range (cpCount d)
  let fars := ns.filterMap (farOff d orig)
  let dim := (cpDims d).find? fun i => decide (orig.getD i 0 < 0 ∨ (cpExt d i : Int) < orig.getD i 0 + cpBox d i)
  let near := (c.nearStarts d).flatMap fun b => ns.map fun n => ((b + nearOff d n : Nat) : Int)
  let outs := (targets.filterMap fun t => outside near e 0 (c.s.shareSize t (cpSlvl d))) ++
    (if cpFlvl d = .glob then [] else (outside fars e 0 (c.s.shareSize c.bk (cpFlvl d))).toList)
  let bent := c.s.bent c.g.ctx (bits (cpFar d) 59 48)
  let perm := if kind = 1 then bentA bent else if cpDir d then bentW bent else bentR bent
  if cpFill d = 2 ∧ dim.isSome then some (0x0016, dim.getD 0)
  else match outs with
    | x :: xs => some (0x0012, padAddr (xs.foldl min x))
    | [] =>
      if cpFlvl d ≠ .glob then none
      else if !bentOk bent || !perm then some (0x0011, cpFarBase d)
      else (outside fars e (bentBase bent) (bentLimit bent)).map fun a => (0x0011, a.toNat)

/-- The scoreboard, verify mode and loans over a run of registers that a descriptor sizes (R63, R65, R206). -/
def Ctx.runBad (c : Ctx) (r n : Nat) : Option Res :=
  let meets (p : Pend) : Bool := p.cnt ≠ 0 && runsMeet (r, n) (p.reg, p.cnt)
  let early := c.f.pend.filter fun p => decide (0 < p.left) && meets p
  let lent := c.act.filter fun l => (c.s.lentRuns (c.t l)).any fun x => runsMeet (r, n) x
  if c.f.pend.any fun p => p.left == 0 && meets p then some (.hold c.s .score)
  else if c.g.ver ∧ early ≠ [] then some (.verify c.act)
  else if lent ≠ [] then some (.trap 0x0034 lent 0)
  else none

/-- Lowest free entry of a core's copy engine (R224, R285). -/
def State.freeCopy (s : State) (core : Nat) : Option Nat :=
  (List.range 32).find? fun i => !(s.copies.any fun e => e.2.core == core && e.2.entry == i)

/-- Issue a copy that passed every check (R226, R228). -/
def Ctx.postCopy (c : Ctx) (s : State) (kind d entry : Nat) (orig : List Word) (targets : List Nat) : Res :=
  let later := kind != 2 && cpDir d
  let n := s.newId
  let cp : Copy := {
    core := c.core, block := c.bk, uid := (s.block c.bk).uid, grid := (s.block c.bk).grid, ctx := c.g.ctx, floe := c.k, fid := c.f.fid
    kind := kind, desc := BitVec.ofNat 1024 d, orig := orig, begun := !later, serial := n.1, entry := entry
    know := c.f.know, fold := c.f.fold, start := c.f.start, coord := c.f.coord
    targets := targets.map fun t => (t, (s.block t).uid), near := targets.map fun t => s.shareBase t (cpSlvl d)
    far := s.shareBase c.bk (cpFlvl d), who := s.who c.bk, threads := c.f.tkeys c.k, after := n.1 }
  let s := { n.2 with copies := put n.2.copies n.1 cp }
  let s := if cpCmode d then s else s.raisePend c.core (cpSel d)
  if later then { c with s := s }.logEntry s (.copy n.1) else .done s

/-- R224, R225: `cpbox`, `cpred` and `tmov`. -/
def Ctx.copyIssue (c : Ctx) (o : DescOps) (kind : Nat) : Res :=
  if c.act = [] then .done c.s
  else match c.s.freeCopy c.core with
  | none => .stall c.s
  | some entry =>
    match c.readDesc o.space (c.s.vreg (c.t c.low) o.a.toNat).toNat 128 128 0 with
    | .error r => r
    | .ok (s, d) =>
      let c := { c with s := s }
      let regs := match s.floeCopy c.k c.f with | some x => hdrRegs (hdrOf x) | none => 0
      match c.runBad o.b.toNat (min (cpNdim d) (regs - o.b.toNat)) with
      | some r => r
      | none =>
        let orig := (List.range 7).map fun i => if i < cpNdim d ∧ o.b.toNat + i < regs then s.vreg (c.t c.low) (o.b.toNat + i) else 0
        let os := orig.map fun w => sext w.toNat 32
        let targets := s.cpTargets c.bk d
        match c.boxBad kind d o.b.toNat regs (os.getD 0 0) with
        | some a => .trap 0x0015 c.act a
        | none =>
          -- Check 6 reads the bounds entry (R408).
          let hurt := cpFlvl d == .glob && s.bentPoison c.g.ctx (bits (cpFar d) 59 48)
          match (c.boxBars d targets).or (c.boxRange kind d os targets) with
          | some e => if e.1 = 0x0011 ∧ hurt then .poison else .trap e.1 c.act e.2
          | none => if hurt then .poison else c.postCopy s kind d entry orig targets

def execCpbox (o : DescOps) (s : State) : Host.Outcome State Fault Refusal := issue (.cpbox o) s fun c => c.copyIssue o 0
def execCpred (o : DescOps) (s : State) : Host.Outcome State Fault Refusal := issue (.cpred o) s fun c => c.copyIssue o 1
def execTmov (o : DescOps) (s : State) : Host.Outcome State Fault Refusal := issue (.tmov o) s fun c => c.copyIssue o 2

/-! ## Performing a copy (R221, R227, R229, R231) -/

/-- What stops a copy at an element. -/
inductive Halt where
  /-- Waits for a first-touch fill, an earlier write or a shell. -/
  | wait
  /-- Waits for the translation of a host page (R324). -/
  | ats (va : Nat)
  | page (va : Nat) (x : XRes) (write : Bool)
  /-- Cancelled with an imprecise fault (R231, R290, R441). -/
  | lost (code addr : Nat)
  | poison
deriving DecidableEq, Repr, Inhabited

def Copy.agent (c : Copy) : Agent :=
  ⟨identEng c.core false c.entry, true, identFloe c.floe, c.start, c.know, c.fold, c.block, c.serial, {}, c.who⟩

/-- An earlier write of the issuing floe to the bytes has not been performed: the copy's read comes after it (R281). -/
def State.copyBehind (s : State) (cp : Copy) (p : Place) (n : Nat) : Bool :=
  s.net.any fun e => decide (e.1 < cp.after) && !e.2.performed && e.2.isWrite && e.2.place.sys == p.sys && runsMeet (e.2.place.pa, e.2.n) (p.pa, n) &&
    (e.2.fid == cp.fid || (match e.2.thread with
      | some t => cp.threads.contains t
      | none => false))

/-- A failed translation of an engine's access. -/
def haltOf (va : Nat) (write : Bool) : XRes → Halt
  | .malformed => .lost 0x8008 va
  | .poison => .poison
  | .ats => .ats va
  | x => .page va x write

/-- Bytes of a level that an engine is about to access: first touch, read-only maps, races, its bank port (R234, R260, R289, R441). `base` is
where the share begins: ADDR of a read-only chunk is its offset. -/
def State.padTouch (s : State) (cp : Copy) (l : Space) (base pa n : Nat) (write : Bool) : Except (State × Halt) State :=
  if write ∧ s.readOnly l pa n then .error (s, .lost 0x800A (pa / 256 * 256 - base))
  else
    match s.invalidChunks l 0 pa n with
    | q :: qs =>
      match (q :: qs).findSome? fun q => match s.xlat cp.core q.ctx q.va false with
        | .ok leaf size => (s.badTag q.ctx ⟨0, q.ptr, q.va, leaf, size⟩ 256).map (Halt.lost 0x8004)
        | r => some (haltOf q.va false r) with
      | some h => .error (s, h)
      | none => .error (s.startFills cp.floe cp.fid (q :: qs), .wait)
    | [] => if s.raceOk cp.agent (.pad l pa) n then .ok (s.enterEngine l pa n (some cp.serial)) else .error (s, .lost 0x8005 0)

/-- What a failed check of a watched page's shadow comes to (R329), or a race (R290). -/
def State.shadowHalt (s : State) (core ctx va n leaf : Nat) (ag : Agent) : Option Halt :=
  if !leafWatch leaf then none
  else match s.shadow core ctx va with
    | .ok _ _ => if s.raceOk ag (.glob ctx va) n then none else some (.lost 0x8005 0)
    | r => some (haltOf (shadowVa va) true r)

/-- An engine's access to global memory: translation, tags, a shell, the race word of a watched page; the place. -/
def State.globTouch (s : State) (cp : Copy) (va n : Nat) (write : Bool) : Except (State × Halt) (State × Place × Bool) :=
  match s.xlat cp.core cp.ctx va write with
  | .ok leaf size =>
    let p := leafPlace leaf size va
    if !s.tagOk cp.ctx ⟨0, bits cp.desc.toNat 127 64, va, leaf, size⟩ n then .error (s, .lost 0x8004 (va / 32 * 32))
    else if (!p.sys && !s.shellUp p.pa) || s.copyBehind cp p n then .error (s, .wait)
    else match s.shadowHalt cp.core cp.ctx va n leaf cp.agent with
    | some h => .error (s, h)
    | none => .ok ((s.tlbFill cp.core cp.ctx va leaf size).migTouch cp.core cp.ctx (leafMig leaf size va) p, p, leafWatch leaf)
  | r => .error (s, haltOf va write r)

/-- An engine's write of a level. -/
def State.padPut (s : State) (cp : Copy) (l : Space) (pa e v : Nat) : State := s.writePad cp.agent l pa (leBytes v e)

/-- The format of a combination is a float format. -/
def redFloat (d : Nat) : Bool := cpFmt d == 0 || cpFmt d == 2

/-- R227: the new value at the home. -/
def redNew (d old v : Nat) : Nat :=
  let w := 8 * cpE d
  let f : Fmt := if cpFmt d = 2 then .bf16 else .f32
  let flt := cpFmt d = 0 ∨ cpFmt d = 2
  let x (a : Nat) : Int := if cpFmt d = 10 then sext a w else a
  match cpRed d with
  | 1 => if flt then (fAdd f .rne false 0 old v).1 else (old + v) % 2 ^ w
  | 2 => if flt then (fMinMax f false old v).1 else if x v < x old then v else old
  | _ => if flt then (fMinMax f true old v).1 else if x old < x v then v else old

/-- The far value of an element that lies in the tensor. -/
def State.farRead (s : State) (cp : Copy) (a : Int) : Except (State × Halt) (State × Nat) :=
  let d := cp.desc.toNat
  let e := cpE d
  if cpFlvl d = .glob then
    match s.globTouch cp a.toNat e false with
    | .error x => .error x
    | .ok (s, p, _) => if s.poisoned p e then .error (s, .poison) else .ok (s, s.readPlace p e)
  else match s.padTouch cp (cpFlvl d) cp.far (cp.far + a.toNat) e false with
    | .error x => .error x
    | .ok s =>
      if s.uePad (cpFlvl d) (cp.far + a.toNat) e then .error (s.logPad (cpFlvl d) (cp.far + a.toNat) e cp.ctx, .poison)
      else .ok (s, getN (s.lvl (cpFlvl d)) (cp.far + a.toNat) e)

/-- An element written to a device-side alias (R302): `cpbox` with ESZ 16 and boxes of whole lines gathers records, taken when the copy is
complete; anything else is discarded with the launch-write fault. -/
def State.aliasWrite (s : State) (cp : Copy) (actx pa v : Nat) : State :=
  let d := cp.desc.toNat
  if cp.kind ≠ 0 ∨ cpE d ≠ 16 ∨ cpBox d 0 % 4 ≠ 0 then s.addDueOnce cp.block cp.uid 0x8007 cp.coord.toNat
  else { s with lines := put s.lines cp.serial (lookD [] s.lines cp.serial ++ [(actx, pa, v)]) }

/-- Write an element's far side, or reduce into it. -/
def State.farWrite (s : State) (cp : Copy) (a : Int) (v : Nat) : Except (State × Halt) State :=
  let d := cp.desc.toNat
  let e := cpE d
  if cpFlvl d = .glob then
    match s.globTouch cp a.toNat e true with
    | .error x => .error x
    | .ok (s, p, watched) =>
      match s.aliasOf p with
      | some actx => .ok (s.aliasWrite cp actx p.pa v)
      | none =>
      let comb : RRec := { ctx := cp.ctx, kind := 6, pos := replPos cp.floe (cp.block % 32), word := cp.coord
                           die := if p.sys then none else some (s.homeDie p.pa)
                           seq := (lookD (default : Sched) s.sched (islotOfFloe cp.floe)).issues }
      if cp.kind = 1 ∧ s.poisoned p e then .error (s, .poison)
      else if cp.kind = 1 ∧ redFloat d ∧ !s.replOrder comb then .error (s, .wait)
      else
        let v := if cp.kind = 1 then redNew d (s.readPlace p e) v else v
        let s := if cp.kind = 1 ∧ redFloat d then s.replCombine comb else s
        let s := (s.writeN p e v).syncWrite .glob p.sys p.pa e {} {}
        .ok (if watched then s.raceWrite cp.agent (.glob cp.ctx a.toNat) e else s)
  else match s.padTouch cp (cpFlvl d) cp.far (cp.far + a.toNat) e true with
    | .error x => .error x
    | .ok s => .ok (s.padPut cp (cpFlvl d) (cp.far + a.toNat) e v)

/-- Each receiving share: where it begins, and the near address of offset 0 of the box. -/
def State.nearBases (s : State) (cp : Copy) : List (Nat × Nat) :=
  let d := cp.desc.toNat
  let off := if cpCmode d then
      match look s.cbufs (16 * cp.core + cpSel d) with
      | some b => b.base + 256 * b.ssz * cp.claimed.getD 0
      | none => 0
    else cpNear d
  (cp.near.zip cp.targets).filterMap fun x =>
    if x.2.1 = cp.block ∨ (s.block x.2.1).uid = x.2.2 then some (x.1, x.1 + off) else none

/-- Write an element to every receiving share. -/
def State.nearWrite (cp : Copy) (n v : Nat) : List (Nat × Nat) → State → Except (State × Halt) State
  | [], s => .ok s
  | b :: bs, s =>
    let d := cp.desc.toNat
    match s.padTouch cp (cpSlvl d) b.1 (b.2 + nearOff d n) (cpE d) true with
    | .error x => .error x
    | .ok s => State.nearWrite cp n v bs (s.padPut cp (cpSlvl d) (b.2 + nearOff d n) (cpE d) v)

/-- Perform element `n`. -/
def State.copyElement (s : State) (cp : Copy) (n : Nat) : Except (State × Halt) State :=
  let d := cp.desc.toNat
  let fo := farOff d (cp.orig.map fun w => sext w.toNat 32) n
  let bases := s.nearBases cp
  if cpDir d then
    match fo with
    | none => .ok s
    | some a =>
      let b := bases.headD (0, 0)
      let pa := b.2 + nearOff d n
      match s.padTouch cp (cpSlvl d) b.1 pa (cpE d) false with
      | .error x => .error x
      | .ok s =>
        if s.uePad (cpSlvl d) pa (cpE d) then .error (s.logPad (cpSlvl d) pa (cpE d) cp.ctx, .poison)
        else s.farWrite cp a (getN (s.lvl (cpSlvl d)) pa (cpE d))
  else match (match fo with
      | none => .ok (s, fillVal d)
      | some a => s.farRead cp a : Except (State × Halt) (State × Nat)) with
    | .error x => .error x
    | .ok (s, v) => State.nearWrite cp n v bases s

/-- Perform elements in ascending index, an order that R221 and R227 leave open (DESIGN CHOICE, log 65), until one stops: the state, elements left, what stopped it. -/
def State.copyElements (cp : Copy) : List Nat → State → State × List Nat × Option Halt
  | [], s => (s, [], none)
  | n :: ns, s =>
    match s.copyElement cp n with
    | .ok s => State.copyElements cp ns s
    | .error (s, h) => (s, n :: ns, some h)

/-- R238: a filled slot counts, and FILLED grows over an unbroken run from ACQ onward. -/
def fillRun : Nat → CBuf → CBuf
  | 0, b => b
  | fuel + 1, b =>
    let n := (b.acq + b.filled) % b.nslot
    if b.full.contains n then fillRun fuel { b with filled := b.filled + 1, full := b.full.filter (· ≠ n) } else b

/-- R228, R238: a copy is complete. -/
def State.copyDone (s : State) (id : Nat) (cp : Copy) : State :=
  let d := cp.desc.toNat
  let r := s.storeRec (dieOf cp.core) ⟨identEng cp.core false cp.entry, cp.serial, cp.know, cp.fold⟩
  let l := r.2.takeLines id cp
  let s := if l.2 then l.1.addDueOnce cp.block cp.uid 0x8007 cp.coord.toNat else l.1
  let s := { s with copies := del s.copies id }
  if cpCmode d then
    let key := 16 * cp.core + cpSel d
    match look s.cbufs key, cp.claimed with
    | some b, some n =>
      if b.owner = cp.block ∧ (s.block cp.block).uid = cp.uid then
        { s with cbufs := put s.cbufs key (fillRun 64 { b with full := insNat b.full n, recs := put b.recs n r.1 }) }
      else s
    | _, _ => s
  else
    let ms := opMark (some r.1) cp.who
    let s := s.completeOwn cp.core (cpSel d) cp.uid ms
    { s with mcasts := s.mcasts ++ (cp.targets.filter fun t => t.1 ≠ cp.block && (s.block t.1).uid == t.2).map fun t =>
      { core := t.1 / 32, slot := cpSel d, uid := t.2, recs := ms } }

/-- A copy is cancelled with an imprecise fault of its issuing block (R231, R290, R441). -/
def State.copyLost (s : State) (id : Nat) (cp : Copy) (code addr : Nat) : State :=
  let s := s.cancelCopy id none
  if (s.block cp.block).uid = cp.uid then s.addDue cp.block code addr cp.coord.toNat else s

/-- A copy meets a page fault: held at its element when its block has committed, else the block is aborted (R231, R336); while the fault unit is
full it waits in the same way, with no page named yet (R331). -/
def State.copyFault (s : State) (id : Nat) (cp : Copy) (va : Nat) (x : XRes) (write : Bool) : State :=
  let r := State.openPages (dieOf cp.core) cp.ctx write [(va, x)] [] s
  let b := r.2.block cp.block
  if b.uid = cp.uid ∧ !b.committed ∧ (r.2.block? cp.block).isSome then
    r.2.abortBlock cp.block (r.1.getD [(cp.ctx, pageBase va x, write)]) [(va, pageBase va x)] r.1.isNone
  else { r.2 with copies := put r.2.copies id { cp with held := r.1.getD [], full := r.1.isNone, fva := va } }

/-! ## Events -/

/-- Whether a copy may go on: begun, not held, and holding a slot when it fills a buffer. -/
def Copy.runs (c : Copy) : Bool := c.begun && c.held == [] && (!cpCmode c.desc.toNat || c.claimed.isSome)

/-- COPY_COMPLETE: the elements left are performed; once its bank ports have served them the copy completes, or it is held, cancelled, or waits
(R221, R228, R231, R260). -/
def execCopyComplete (op : Nat) (s : State) : Host.Outcome State Fault Refusal :=
  match look s.copies op with
  | none => .next s
  | some cp =>
    if !cp.runs then .next s
    else
      let r := State.copyElements cp ((List.range (cpCount cp.desc.toNat)).drop cp.next) s
      let cp := { cp with next := cpCount cp.desc.toNat - r.2.1.length, full := false }
      let s := { r.1 with copies := put r.1.copies op cp }
      .next ((match r.2.2 with
        | none => if s.engineBusy cp.serial then s else s.copyDone op cp
        | some .wait => s
        | some (.ats va) => s.askAts cp.core cp.ctx va
        | some (.page va x w) => s.copyFault op cp va x w
        | some (.lost code addr) => s.copyLost op cp code addr
        | some .poison => (s.cancelCopy op none).fatalStop cp.grid (some cp.core)).noteDone.settleDue 64)

/-- A copy that claims a slot knows the slot's last fill and the `cbrel` that returned it (log 36): the copy, and the folds to count. -/
def Copy.learn (c : Copy) (recs : Tab SyncRec) (rs : List Nat) : Copy × Nat :=
  let r := mergeAway recs { know := c.know, fold := c.fold } rs
  ({ c with know := r.1.know, fold := r.1.fold }, r.2)

/-- COPY_SLOT_CLAIM: the oldest copy of a buffer's owner that waits for a slot claims the next one (R238). -/
def execCopySlotClaim (c : CoreId) (buf : Nat) (s : State) : Host.Outcome State Fault Refusal :=
  let core := CoreId.key c
  let key := 16 * core + buf
  match look s.cbufs key with
  | none => .next s
  | some b =>
    match s.copies.find? fun e => e.2.core == core && e.2.block == b.owner && e.2.uid == (s.block b.owner).uid && cpCmode e.2.desc.toNat &&
        cpSel e.2.desc.toNat == buf && e.2.claimed.isNone with
    | none => .next s
    | some e =>
      if b.free = 0 then .next s
      else
        let c := e.2.learn s.recs ((look b.recs b.claim).toList ++ (look b.recs (64 + b.claim)).toList)
        .next { s.addRfold core c.2 with
        copies := put s.copies e.1 { c.1 with claimed := some b.claim }
        cbufs := put s.cbufs key { b with claim := (b.claim + 1) % b.nslot, free := b.free - 1 } }

end Sys2Proof.Machine
end

