-- ==== Sys2Proof/Machine/Directory.lean ====
section
/-! DEFINITION. The name directory (R349 to R359): entries, handle tables, reclamation, `dopen`, `dopen.w`, `dclose`, `dbind`, `dunbind`,
`dptr`, `dquery`, and the directory's events. -/

namespace Sys2Proof.Machine

/-! ## Entries (R349) -/

def entPtr (e : Nat) : Nat := bits e 255 192
def entName (e : Nat) : Nat := bits e 191 128
def entVersion (e : Nat) : Nat := bits e 127 96
def entFmt (e : Nat) : Nat := bits e 95 88
def entSize (e : Nat) : Nat := bits e 87 40
def entVal (e : Nat) : Bool := bits e 39 39 == 1
def entBound (e : Nat) : Bool := bits e 38 38 == 1
def entCtx (e : Nat) : Nat := bits e 37 32
def entRefs (e : Nat) : Nat := bits e 31 0

def mkEnt (ptr name version fmt size : Nat) (bound : Bool) (ctx refs : Nat) : BitVec 256 :=
  BitVec.ofNat 256 (ptr % 2 ^ 64 * 2 ^ 192 + name % 2 ^ 64 * 2 ^ 128 + version % 2 ^ 32 * 2 ^ 96 + fmt % 2 ^ 8 * 2 ^ 88 +
    size % 2 ^ 48 * 2 ^ 40 + 2 ^ 39 + (if bound then 2 ^ 38 else 0) + ctx % 2 ^ 6 * 2 ^ 32 + refs % 2 ^ 32)

def State.dirEnt (s : State) (e : Nat) : Nat := (lookD 0 s.dir e).toNat

/-- The same entry with other BOUND and REFS. -/
def entWith (e : Nat) (bound : Bool) (refs : Nat) : BitVec 256 :=
  mkEnt (entPtr e) (entName e) (entVersion e) (entFmt e) (entSize e) bound (entCtx e) refs

/-- The entry a name designates in a context (R349). -/
def State.bound (s : State) (ctx name : Nat) : Option Nat :=
  (s.dir.find? fun e => entVal e.2.toNat && entBound e.2.toNat && entCtx e.2.toNat == ctx && entName e.2.toNat == name).map (·.1)

/-- Lowest free entries. -/
def State.freeEnts (s : State) : Nat := 65536 - s.dir.length
def State.freeEnt (s : State) : Option Nat := (List.range 65536).find? fun i => (look s.dir i).isNone

/-! ## Reclamation (R351, R353) -/

/-- Room in a context's reclamation ring: the record's address. -/
def State.reclRoom (s : State) (ctx : Nat) : Option Nat :=
  let b := (s.ctxReg ctx 0x08).toNat
  let rs := bits b 3 0
  let base := bits b 39 12 * 2 ^ 12
  let put' := (s.ctxReg ctx 0x10).toNat
  if base = 0 ∨ 8 < rs then none
  else if 2 ^ (rs + 7) ≤ (s.ctxReg ctx 0x10 - s.ctxReg ctx 0x18).toNat then none
  else some (base + 32 * (put' % 2 ^ (rs + 7)))

/-- Write withheld records as far as room allows; each entry becomes free when its record is written. -/
def State.flushRecl (ctx : Nat) : List (Nat × BitVec 256) → State → State
  | [], s => { s with withheld := del s.withheld ctx }
  | (e, r) :: rest, s =>
    match s.reclRoom ctx with
    | none => { s with withheld := put s.withheld ctx ((e, r) :: rest) }
    | some a => State.flushRecl ctx rest
        { (s.writeN ⟨a, false⟩ 32 r.toNat).setCtxReg ctx 0x10 (s.ctxReg ctx 0x10 + 1) with dir := del s.dir e, dirRecs := del s.dirRecs e }

def State.drainRecl (s : State) (ctx : Nat) : State :=
  match look s.withheld ctx with
  | some rs => State.flushRecl ctx rs s
  | none => s

/-- Write a directory entry. -/
def State.putDir (s : State) (e : Nat) (v : BitVec 256) : State := ({ s with dir := put s.dir e v }).takeInjection 10 0 (32 * e) 32

/-- R353: an entry that is unbound with no reference is reclaimed. -/
def State.reclaim (s : State) (e : Nat) : State :=
  let x := s.dirEnt e
  if !entVal x || entBound x || entRefs x != 0 then s
  else
    let ctx := entCtx x
    { s with withheld := put s.withheld ctx (lookD [] s.withheld ctx ++ [(e, BitVec.ofNat 256 x)]) }.drainRecl ctx

def State.setRefs (s : State) (e refs : Nat) : State :=
  s.putDir e (entWith (s.dirEnt e) (entBound (s.dirEnt e)) refs)

/-- Clear BOUND of the entry a name designates; whether there was one. -/
def State.unbindName (s : State) (ctx name : Nat) : State × Bool :=
  match s.bound ctx name with
  | some e => ((s.putDir e (entWith (s.dirEnt e) false (entRefs (s.dirEnt e)))).reclaim e, true)
  | none => (s, false)

/-! ## Handle tables (R350) -/

/-- The live slot a good handle names. -/
def Grid.handle (g : Grid) (h : Nat) : Option (Nat × Handle) :=
  match look g.handles (h % 256) with
  | some x => if h < 65536 ∧ lookD 0 g.gens (h % 256) = h / 256 then some (h % 256, x) else none
  | none => none

/-- R355: open an entry for a grid: the handle and true, or status 2 and false. -/
def State.openEnt (s : State) (g e : Nat) : Word × Bool × State :=
  let x := s.grid g
  match x.handles.find? fun h => h.2.entry == e with
  | some h =>
    if h.2.count = 0xFFFFFFFF then (2, false, s)
    else (BitVec.ofNat 32 (256 * lookD 0 x.gens h.1 + h.1), true,
      s.modGrid g fun x => { x with handles := put x.handles h.1 { h.2 with count := h.2.count + 1 } })
  | none =>
    match (List.range 256).find? fun i => (look x.handles i).isNone with
    | none => (2, false, s)
    | some i =>
      let gen := lookD 0 x.gens i % 255 + 1
      (BitVec.ofNat 32 (256 * gen + i), true,
        (s.modGrid g fun x => { x with handles := put x.handles i ⟨e, 1⟩, gens := put x.gens i gen }).setRefs e (entRefs (s.dirEnt e) + 1))

/-- R357: close once; at count 0 the slot is free and the entry loses a reference. -/
def State.closeHandle (s : State) (g i : Nat) (h : Handle) : State :=
  if 1 < h.count then s.modGrid g fun x => { x with handles := put x.handles i { h with count := h.count - 1 } }
  else ((s.modGrid g fun x => { x with handles := del x.handles i }).setRefs h.entry (entRefs (s.dirEnt h.entry) - 1)).reclaim h.entry

/-- R350: every live slot of a grid is closed at its end. -/
def State.closeHandles (s : State) (g : Nat) : State :=
  (s.grid g).handles.foldl (fun s h => s.closeHandle g h.1 { h.2 with count := 1 }) s

/-! ## `dopen` (R355) -/

/-- A lane that is decided: value, success, the release record met. -/
abbrev Opened := Nat × Word × Bool × Option Nat

/-- One lane: decided, or waiting until a clock. -/
def Ctx.openLane (c : Ctx) (s : State) (wait : Bool) (l name until' : Nat) : State × Option Opened :=
  if name = 0 then (s, some (l, 4, false, none))
  else match s.bound c.g.ctx name with
    | some e => let r := s.openEnt (s.block c.bk).grid e; (r.2.2, some (l, r.1, r.2.1, if r.2.1 then look s.dirRecs e else none))
    | none => if wait ∧ s.clock c.die < until' then (s, none) else (s, some (l, if wait then 3 else 1, false, none))

/-- Deliver handles and predicates, at once or behind a window (R63, R354); opens are acquires of their binds at .sys (R352). -/
def Ctx.openOut (c : Ctx) (s : State) (o : RegOps) (rs : List Opened) : State :=
  let s := s.mergeRecs c.k (rs.filterMap fun r => r.2.2.2).dedup
  if o.h.la = 0 then rs.foldl (fun s r => c.wrPred (c.wr1 s o.d r.1 r.2.1) o.c r.1 r.2.2.1) s
  else (c.await s o.h.la.toNat {
    n := 0, reg := o.d.toNat, cnt := 1, pred := some o.c.toNat
    vals := rs.map fun r => (r.1, [r.2.1]), pvals := rs.map fun r => (r.1, r.2.2.1) }).2

/-- Every lane in ascending order: the lanes decided and those that wait. -/
def Ctx.openAll (c : Ctx) (o : RegOps) (wait : Bool) : State × List Opened × List (Nat × Nat × Nat) :=
  c.act.foldl (fun (a : State × List Opened × List (Nat × Nat × Nat)) l =>
    let n := c.rdPair o.a l
    let t := c.s.clock c.die + (c.rd1 1 o.b l).toNat
    let r := c.openLane a.1 wait l n t
    match r.2 with
    | some x => (r.1, a.2.1 ++ [x], a.2.2)
    | none => (r.1, a.2.1, a.2.2 ++ [(l, n, t)])) (c.s, [], [])

def execDopen (o : RegOps) (s : State) : Host.Outcome State Fault Refusal :=
  issue (.dopen o) s fun c =>
    if c.act = [] then .done c.s
    else let r := c.openAll o false; .done (c.openOut r.1 o r.2.1)

def execDopenW (o : RegOps) (s : State) : Host.Outcome State Fault Refusal :=
  issue (.dopenW o) s fun c =>
    if c.act = [] then .done c.s
    else match c.f.wait with
      | .dopen [] found => .done (c.openOut c.s o found)
      | .dopen want found => .hold c.s (.dopen want found)
      | _ =>
        let r := c.openAll o true
        if r.2.2 = [] then .done (c.openOut r.1 o r.2.1) else .hold r.1 (.dopen r.2.2 r.2.1)

/-- A lane of a waiting `dopen.w` is decided. -/
def decideWait (x : Opened) : Wait → Wait
  | .dopen want found => .dopen (want.filter (·.1 ≠ x.1)) (found ++ [x])
  | w => w

/-- DOPEN_TIMEOUT: a lane of `dopen.w` whose time has passed is decided with status 3 (R355). -/
def execDopenTimeout (f : FloeId) (lane : Nat) (s : State) : Host.Outcome State Fault Refusal :=
  let k := FloeId.key f
  let late : Bool := match s.floe? k with
    | some x => (match x.wait with
      | .dopen want _ => want.any fun w => w.1 == lane && decide (w.2.2 ≤ s.clock (dieOf (coreOfFloe k)))
      | _ => false)
    | none => false
  .next (if late then s.modFloe k fun f => { f with wait := decideWait (lane, 3, false, none) f.wait } else s)

/-- The lanes of a wait that an entry bound now decides, for a grid on a die (R355). -/
def State.wakeOne (s : State) (ctx name e die gid : Nat) (w : Wait) : State × Wait :=
  match w with
  | .dopen want _ =>
    if (s.grid gid).ctx ≠ ctx then (s, w)
    else want.foldl (fun (a : State × Wait) q =>
      if q.2.1 = name ∧ s.clock die ≤ q.2.2 then
        let r := a.1.openEnt gid e
        (r.2.2, decideWait (q.1, r.1, r.2.1, if r.2.1 then look s.dirRecs e else none) a.2)
      else a) (s, w)
  | _ => (s, w)

/-- The same for each floe of a table. `key` gives a floe's key, `grid` the grid of a block's key. -/
def State.wakeTab (s : State) (ctx name e : Nat) (key : Nat → Nat) (grid : Nat → Nat) (t : Tab Floe) : State × Tab Floe :=
  t.foldl (fun (a : State × Tab Floe) x =>
    let k := key x.1
    let r := a.1.wakeOne ctx name e (dieOf (coreOfFloe k)) (grid (x.2.bkey k)) x.2.wait
    (r.1, a.2 ++ [(x.1, { x.2 with wait := r.2 })])) (s, [])

/-- A bind of a name decides the lanes that wait for it, floe by floe and lane by lane: in floe slots, in floe saves and in what preempted
contexts left (R355). -/
def State.wakeOpens (s : State) (ctx name e : Nat) : State :=
  let r := s.wakeTab ctx name e id (fun bk => (s.block bk).grid) s.floes
  let s := { r.1 with floes := r.2 }
  let r := s.wakeTab ctx name e (fun i => 32 * (i / 64)) (fun bk => (s.block bk).grid) s.saves
  let s := { r.1 with saves := r.2 }
  let r := s.saved.foldl (fun (a : State × List Saved) x =>
    let grid (bk : Nat) : Nat := (lookD ({} : Block) x.blocks bk).grid
    let f := a.1.wakeTab ctx name e id grid x.floes
    let v := f.1.wakeTab ctx name e (fun i => 32 * (i / 64)) grid x.saves
    (v.1, a.2 ++ [{ x with floes := f.2, saves := v.2 }])) (s, [])
  { r.1 with saved := r.2 }

/-! ## `dclose`, `dptr`, `dquery` (R356, R357) -/

def execDclose (o : RegOps) (s : State) : Host.Outcome State Fault Refusal :=
  issue (.dclose o) s fun c =>
    let g := (c.s.block c.bk).grid
    .done (c.act.foldl (fun s l =>
      match (s.grid g).handle (c.rd1 0 o.a l).toNat with
      | some h => c.wrPred (s.closeHandle g h.1 h.2) o.d l true
      | none => c.wrPred s o.d l false) c.s)

def execDptr (o : RegOps) (s : State) : Host.Outcome State Fault Refusal :=
  issue (.dptr o) s fun c =>
    .done (c.deliver c.s o.h.la.toNat o.d (c.act.map fun l =>
      let p := match (c.s.grid (c.s.block c.bk).grid).handle (c.rd1 0 o.a l).toNat with
        | some h => entPtr (c.s.dirEnt h.2.entry)
        | none => 0
      (l, [BitVec.ofNat 32 p, BitVec.ofNat 32 (p / 2 ^ 32)], 0)))

/-- The field a selector chooses. -/
def entField (e sel : Nat) : Nat :=
  match sel with
  | 0 => entVersion e | 1 => entFmt e | 2 => entSize e % 2 ^ 32 | 3 => entSize e / 2 ^ 32
  | 4 => if entBound e then 1 else 0 | 5 => entName e % 2 ^ 32 | _ => entName e / 2 ^ 32

def execDquery (o : RegOps) (sel : BitVec 3) (s : State) : Host.Outcome State Fault Refusal :=
  issue (.dquery o sel) s fun c =>
    .done (c.deliver c.s o.h.la.toNat o.d (c.act.map fun l =>
      let v := match (c.s.grid (c.s.block c.bk).grid).handle (c.rd1 0 o.a l).toNat with
        | some h => entField (c.s.dirEnt h.2.entry) sel.toNat
        | none => 0xFFFFFFFF
      (l, [BitVec.ofNat 32 v], 0)))

/-! ## `dbind` and `dunbind` (R358, R359) -/

/-- A record of a bind list. -/
structure BRec where
  name : Nat
  ptr : Nat
  size : Nat
  fmt : Nat
  rsv : Bool
  version : Nat
deriving DecidableEq, Repr, Inhabited

def bRec (r : Nat) : BRec :=
  ⟨bits r 63 0, bits r 127 64, bits r 175 128, bits r 183 176, decide (bits r 191 184 ≠ 0 ∨ bits r 255 224 ≠ 0), bits r 223 192⟩

/-- Rows 3 to 5 of R358 over the records in order: the status of the first that fails. -/
def State.recBad (s : State) (ctx : Nat) : List BRec → List Nat → Option Nat
  | [], _ => none
  | r :: rs, seen =>
    if seen.contains r.name then some 3
    else if r.name = 0 || r.rsv || (r.ptr != 0 && decide (r.size = 0 ∨ r.version = 0xFFFFFFFF)) then some 4
    else if r.ptr ≠ 0 && !(s.inBounds ctx (bits r.ptr 59 48) (r.ptr % 2 ^ 48) r.size && bentR (s.bent ctx (bits r.ptr 59 48))) then some 5
    else s.recBad ctx rs (seen ++ [r.name])

/-- The status of a list of records. -/
def State.bindStatus (s : State) (ctx : Nat) (rs : List BRec) : Nat :=
  if rs.length = 0 ∨ 16 < rs.length then 1
  else match s.recBad ctx rs [] with
    | some n => n
    | none => if s.freeEnts < (rs.filter (·.ptr ≠ 0)).length then 2 else 0

/-- One record of the directory operation. -/
def State.bindRec (s : State) (ctx : Nat) (srec : Option Nat) (r : BRec) : State :=
  let s := (s.unbindName ctx r.name).1
  if r.ptr = 0 then s
  else match s.freeEnt with
    | none => s
    | some e =>
      let s := s.putDir e (mkEnt r.ptr r.name r.version r.fmt r.size true ctx 0)
      let s := { s with
        dirRecs := match srec with
          | some x => put s.dirRecs e x
          | none => del s.dirRecs e }
      s.wakeOpens ctx r.name e

/-- R358 as one directory operation. -/
def State.bindRecs (s : State) (ctx : Nat) (srec : Option Nat) (rs : List BRec) : State :=
  rs.foldl (fun s r => s.bindRec ctx srec r) s

/-- Checks 1 to 3 of R176 at one address for the whole floe, with permissions r and b, then the translation; the places of `n` units of
`al` bytes. -/
def Ctx.bindRead (c : Ctx) (s : State) (ptr va n al : Nat) : Except Res (List Place) :=
  let b := ptr / 2 ^ 48 % 4096
  let e := s.bent c.g.ctx b
  if va % al ≠ 0 then .error (.trap 0x0010 c.act va)
  else if s.bentPoison c.g.ctx b then .error .poison
  else if !s.inBounds c.g.ctx b va (n * al) || !(bentR e && bentB e) then .error (.trap 0x0011 c.act va)
  else
    let ts := (List.range n).map fun i => (va + al * i, s.xlat c.core c.g.ctx (va + al * i) false)
    match xfail s c.core c.g.ctx (ts.map fun t => (c.low, t.1, t.2)) false with
    | some (.trap code _ a) => .error (.trap code c.act a)
    | some r => .error r
    | none =>
      let ps := ts.filterMap fun t => match t.2 with
        | .ok leaf size => some (leafPlace leaf size t.1)
        | _ => none
      if ps.any fun p => s.poisoned p al then .error .poison
      else if ps.any fun p => !p.sys && !s.shellUp p.pa then .error (.stall s)
      else .ok ps

def execDbind (o : MemOps) (s : State) : Host.Outcome State Fault Refusal :=
  issue (.dbind o) s fun c =>
    if c.act = [] then .done c.s
    else c.releaseThen fun s =>
      let p := c.rdPair o.a c.low
      let n := (c.rd1 2 o.c c.low).toNat
      match c.bindRead s p (wrap ((ptrVa p : Int) + sext o.disp.toNat 24) 48) n 32 with
      | .error r => r
      | .ok ps =>
        let rs := ps.map fun p => bRec (s.readPlace p 32)
        if n ≤ 16 ∧ rs.any (fun r => r.ptr != 0 && s.bentPoison c.g.ctx (bits r.ptr 59 48)) then .poison else
        let st := if n = 0 ∨ 16 < n then 1 else s.bindStatus c.g.ctx rs
        let pub := s.publish c.k
        let s := if st = 0 then pub.2.bindRecs c.g.ctx (some pub.1) rs else pub.2
        .done (c.act.foldl (fun s l => c.wr1 s o.d l (BitVec.ofNat 32 st)) s)

def execDunbind (o : RegOps) (s : State) : Host.Outcome State Fault Refusal :=
  issue (.dunbind o) s fun c =>
    if c.act = [] then .done c.s
    else c.releaseThen fun s =>
      let p := c.rdPair o.a c.low
      match c.bindRead s p (ptrVa p) 1 8 with
      | .error r => r
      | .ok ps =>
        let name := match ps with
          | p :: _ => s.readPlace p 8
          | [] => 0
        let r := (s.publish c.k).2.unbindName c.g.ctx name
        .done (c.act.foldl (fun s l => c.wrPred s o.d l r.2) r.1)

end Sys2Proof.Machine
end

