-- ==== Sys2Proof/Machine/Place.lean ====
section
/-! DEFINITION. Room and placement: shares, cores, clusters, and the start of a block (R33, R241, R242, R257 to R259, R303, R304, R384). -/

namespace Sys2Proof.Machine

/-! ## Availability and power states (R415, R420, R423, R427) -/

/-- The window answers: the collective firmware has been verified, no recovery, no alarm. -/
def State.windowOn (s : State) : Bool := decide (2 ≤ s.pkg.boot) && !s.pkg.recovery && !s.pkg.alarm

/-- A wake event of S2 and S3 returns the package to S0, every compute domain powered; S1 is left by a placement alone (R420). -/
def State.wake (s : State) : State :=
  if s.pkg.pst < 2 then { s with pkg := { s.pkg with idle := 0 } }
  else { s with pkg := { s.pkg with pst := 0, idle := 0, gated := 0, idleSince := [] } }

/-- A placement ends a die's idleness: its clocks run, and S1 is left with the last die that was gated (R420). -/
def State.wakeDie (s : State) (die : Nat) : State :=
  { s with pkg := { s.pkg with
      gated := setBit s.pkg.gated die false, pst := if s.pkg.pst = 1 ∧ setBit s.pkg.gated die false = 0 then 0 else s.pkg.pst
      idleSince := del s.pkg.idleSince die, idle := 0 } }

/-! ## Shares -/

/-- Share granule of a level (R257). -/
def granule : Space → Nat
  | .unit => 4096 | .clus => 16384 | _ => 65536

def roundUp (n g : Nat) : Nat := (n + g - 1) / g * g

/-- Bytes of one memory of a level in its physical address. -/
def levelSpan : Space → Nat
  | .unit => 2 ^ 19 | .clus => 2 ^ 22 | _ => 2 ^ 27

/-- Bytes of a level that launches can be granted (R257, R263). -/
def levelLimit (l : Space) (i : Nat) : Nat :=
  match l with
  | .unit => Config.unitBytes | .clus => Config.clusBytes | _ => Config.dieGrant i

/-- Bytes of a grid's share of a level, in whole granules (R258). -/
def Grid.shareSz (g : Grid) (l : Space) : Nat :=
  roundUp (match l with | .unit => g.unitSz | .clus => g.clusSz | .die => g.dieSz | .glob => 0) (granule l)

/-- A grid holds its shares: it has not ended and is not preempted. -/
def Grid.holds (g : Grid) : Bool := decide (g.state ≠ 2 ∧ g.state ≠ 5 ∧ g.state ≠ 6)

/-- Runs of one memory of a level that are taken: resident blocks', drifts' and grids' shares, and those that copies and matrix
operations in flight still use (R230, R442). -/
def State.padUsed (s : State) (l : Space) (i : Nat) : List (Nat × Nat) :=
  let span := levelSpan l
  let here (pa n : Nat) : Option (Nat × Nat) := if pa / span = i ∧ n ≠ 0 then some (pa % span, n) else none
  let own : List (Nat × Nat) := match l with
    | .unit => (slice s.blocks (32 * i) (32 * i + 32)).map fun e => (e.2.unitBase, (s.grid e.2.grid).shareSz .unit)
    | .clus => (s.blocks.filter fun e => clKey (e.1 / 32) == i).map (fun e => (e.2.clusBase, (s.grid e.2.grid).shareSz .clus)) ++
        (s.tasks.filter fun t => clKey t.core == i && (s.grid t.grid).holds).map fun t => (t.clusBase, (s.grid t.grid).shareSz .clus)
    | _ => s.grids.filterMap fun e => if e.2.holds then (look e.2.dieBase i).map fun b => (b, e.2.shareSz .die) else none
  let copies := s.copies.flatMap fun e =>
    let g := s.grid e.2.grid
    let lv (x : Nat) : Space := lvlOf x
    (if lv (bits e.2.desc.toNat 11 10) = l then e.2.near.filterMap fun pa => here pa (g.shareSz l) else []) ++
    (if lv (bits e.2.desc.toNat 9 8) = l then (here e.2.far (g.shareSz l)).toList else [])
  let mmas := if l = .unit then (s.mmas.filter fun e => !e.2.done && !e.2.waiting).flatMap fun e =>
    e.2.parts.filterMap fun p => here p.aBase (roundUp p.shareSz 4096) else []
  (own.filter (·.2 ≠ 0)) ++ copies ++ mmas

/-- Lowest base, a multiple of the granule, at which a share fits (R384). -/
def lowestBase (used : List (Nat × Nat)) (size limit : Nat) : Option Nat :=
  if size = 0 then some 0
  else
    let cs := (0 :: used.map fun e => e.1 + e.2).filter fun b => decide (b + size ≤ limit) && used.all fun e => !runsMeet (b, size) e
    match cs with
    | [] => none
    | b :: bs => some (bs.foldl min b)

def State.freeShare (s : State) (g : Grid) (l : Space) (i : Nat) : Option Nat :=
  lowestBase (s.padUsed l i) (g.shareSz l) (levelLimit l i)

/-- The array of R406 that a level is. -/
def padArray : Space → Nat
  | .unit => 1 | .clus => 2 | _ => 3

/-- Scrub a newly granted share: its bytes, their error-correction bits, race words, release marks and tracking bits; the block that waits
for the scrub (R259, R287). -/
def State.scrub (s : State) (l : Space) (pa n bk : Nat) : State :=
  if n = 0 then s
  else
    let lo := pa
    { (s.setLvl l (clrBs (s.lvl l) lo n)) with
      race := cut s.race (raceKey l lo) (raceKey l (lo + n))
      raceBy := cut s.raceBy (raceKey l lo) (raceKey l (lo + n))
      track := cut s.track (trackKey l lo) (trackKey l (lo + n))
      syncs := cut s.syncs (syncKey l false lo) (syncKey l false (lo + n))
      latent := s.latent.filter fun r => !(r.array == padArray l && r.core == lo / levelSpan l && wordMeets (padArray l) r.addr (lo % levelSpan l) n)
      scrubs := s.scrubs ++ [(lvlCode l, lo, n, bk)] }

/-! ## Cores -/

/-- A core that distribution does not choose (R304). -/
def State.avoided (s : State) (core : Nat) : Bool := lookD 0 s.avoid core ≠ 0

/-- Free thread slots of an issue slot. -/
def State.freeSlots (s : State) (q : Nat) : Nat :=
  1024 - ((slice s.threads (1024 * q) (1024 * q + 1024)).filter fun e => e.2.st ≠ 0).length

def State.freeSlotsOn (s : State) (core : Nat) : Nat := (List.range 4).foldl (fun n i => n + s.freeSlots (4 * core + i)) 0

/-- The issue slot with the most free thread slots, lowest on a tie (R242). -/
def State.firstSlot (s : State) (core : Nat) : Nat :=
  (List.range 4).foldl (fun b i => if s.freeSlots (4 * core + b) < s.freeSlots (4 * core + i) then i else b) 0

/-- Give threads their home lanes, thread slots and windows (R241, R242): the keys, or nothing when one does not fit. -/
def assignThreads (core s0 win blkr : Nat) : List Nat → State → List Nat → Option (State × List Nat)
  | [], s, ks => some (s, ks)
  | t :: ts, s, ks =>
    let q := 4 * core + (s0 + t / 32) % 4
    match s.freeWindow q (t % 32) win with
    | none => none
    | some (w, base) =>
      let tk := threadKey q (t % 32) w
      assignThreads core s0 win blkr ts (s.setThread tk { wbase := base, win := win, blkr := blkr, tid := t, st := 2 }) (ks ++ [tk])

/-- Lowest resident block number free on a core (R384). -/
def State.freeBlock (s : State) (core : Nat) : Option Nat := (List.range 32).find? fun n => (s.block? (32 * core + n)).isNone

/-- Accumulator banks granted on a core, and those held after their block ended. -/
def State.banksTaken (s : State) (core : Nat) : Nat :=
  (slice s.blocks (32 * core) (32 * core + 32)).foldl (fun n e => n + (s.grid e.2.grid).accN) 0 +
  (s.allocs.filter fun a => a.1 == core && a.2.orphan.isSome).foldl (fun n a => n + a.2.cnt) 0

/-- A core has room for one block of a launch (R304): block number, banks, unit share, thread slots and windows. -/
def State.roomOn (s : State) (g : Grid) (core : Nat) : Bool :=
  (s.freeBlock core).isSome && decide (s.banksTaken core + g.accN ≤ 128) && (s.freeShare g .unit core).isSome &&
  (assignThreads core (s.firstSlot core) g.win 0 (List.range g.threads) s []).isSome

/-! ## The start of a block (R33, R242, R248) -/

/-- The generator of an issue slot as a block finds it on an idle core (R33). -/
def seedWord (g : Grid) (core slot : Nat) : Word := g.seed ^^^ BitVec.ofNat 32 (dieOf core * 0x10000 + core % 128 * 0x10 + slot)

/-- Start a block on a core that has room: its threads wait as starting floes at the entry. -/
def State.startBlock (s : State) (gid core index drift drf clusBase : Nat) (recs : List Nat) : Option (State × Nat) :=
  let g := s.grid gid
  let now := s.clock (dieOf core)
  match s.freeBlock core, s.freeShare g .unit core with
  | some n, some base =>
    let bk := 32 * core + n
    let idle := slice s.blocks (32 * core) (32 * core + 32) == []
    match assignThreads core (s.firstSlot core) g.win n (List.range g.threads) s [] with
    | none => none
    | some (s, ks) =>
      let id := s.newId
      let s := id.2
      let s := if idle then (List.range 4).foldl (fun s i => s.setLfsr (4 * core + i) (seedWord g core i)) s else s
      let s := s.setBlock bk { uid := id.1, grid := gid, index := index, drift := drift, drf := drf, unitBase := base, clusBase := clusBase }
      let s := ks.foldl (fun s t =>
        let th := s.thread t
        let lo := 2048 * (t / 32) + th.wbase
        { s.setThread t { th with strt := true, cont := g.entry, parkt := now, status := initStatus g } with
          regs := cut s.regs lo (lo + th.win) }) s
      let s := s.recordsWritten ks
      let floes := (List.range ((g.threads + 31) / 32)).map fun f =>
        let ts := (ks.drop (32 * f)).take 32
        (islotOfThread (ts.headD 0), { order := 64 * id.1 + f, blkr := n, cont := g.entry, lanes := ts.map fun t => (laneOfThread t, t % 32)
                                       since := now, recs := recs : Starting })
      let s := { s with starting := s.starting ++ floes }
      let s := s.scrub .unit (2 ^ 19 * core + base) (g.shareSz .unit) bk
      let r : RRec := { ctx := g.ctx, kind := 2, pos := replPos (128 * core) n, seq := (lookD (default : Sched) s.sched (4 * core)).issues
                        word := BitVec.ofNat 32 index }
      some (s.wakeDie (dieOf core) |>.replCombine r, bk)
  | _, _ => none

/-- The first block of a grid starts: TSTART and STATE 1 (R301). -/
def State.gridStarted (s : State) (gid die : Nat) : State :=
  if (s.grid gid).started.isSome then s
  else
    let now := s.clock die
    ((s.modGrid gid fun x => { x with started := some now }).statWrite gid 24 8 (now % 2 ^ 64)).setGState gid 1

/-! ## Placing a drift (R304) -/

/-- A core with its free thread slots and temperature. -/
structure Cand4 where
  core : Nat
  free : Nat
  temp : Nat
deriving DecidableEq, Repr, Inhabited

def coreBefore (a b : Cand4) : Bool :=
  decide (b.free < a.free) || (a.free == b.free && (decide (a.temp < b.temp) || (a.temp == b.temp && decide (a.core < b.core))))

def coreInsert (x : Cand4) : List Cand4 → List Cand4
  | [] => [x]
  | y :: t => if coreBefore x y then x :: y :: t else y :: coreInsert x t

/-- The cores of a cluster that a drift of `k` blocks would take, if it has room. -/
def State.clusterPick (s : State) (g : Grid) (cl k : Nat) : Option (List Cand4) :=
  let cs := (List.range 4).filterMap fun i =>
    let core := 128 * (cl / 32) + 4 * (cl % 32) + i
    if !s.avoided core && s.roomOn g core then some ⟨core, s.freeSlotsOn core, lookD 0 s.temps core⟩ else none
  let cs := (cs.foldl (fun l c => coreInsert c l) []).take k
  if cs.length = k ∧ (s.freeShare g .clus cl).isSome then some cs else none

/-- Most free thread slots in all, then the cooler hottest core, then the lower cluster. -/
def pickBefore (a b : Nat × List Cand4) : Bool :=
  let f (x : List Cand4) : Nat := x.foldl (fun n c => n + c.free) 0
  let h (x : List Cand4) : Nat := x.foldl (fun n c => max n c.temp) 0
  decide (f b.2 < f a.2) || (f a.2 == f b.2 && decide (h a.2 < h b.2))

/-- The cluster and cores for a drift on a die. -/
def State.pickCluster (s : State) (g : Grid) (die k : Nat) : Option (Nat × List Cand4) :=
  (List.range (Config.coresOf die / 4)).foldl (fun (b : Option (Nat × List Cand4)) i =>
    match s.clusterPick g (32 * die + i) k with
    | none => b
    | some cs => match b with
      | none => some (32 * die + i, cs)
      | some x => if pickBefore (32 * die + i, cs) x then some (32 * die + i, cs) else b) none

/-- The die share of a grid on a die, granted with its first block there (R257). -/
def State.grantDie (s : State) (gid die : Nat) : Option (State × Bool) :=
  let g := s.grid gid
  if (look g.dieBase die).isSome then some (s, false)
  else (s.freeShare g .die die).map fun b => (s.modGrid gid fun x => { x with dieBase := put x.dieBase die b }, true)

/-- Start the blocks of a drift on their cores, `%drf` in ascending core position (R242). -/
def startDrift (gid drift clusBase : Nat) : List (Nat × Nat) → State → List Nat → Option (State × List Nat)
  | [], s, bks => some (s, bks)
  | (p, core) :: cs, s, bks =>
    match s.startBlock gid core (drift * (s.grid gid).drf + p) drift p clusBase [] with
    | none => none
    | some (s, bk) => startDrift gid drift clusBase cs s (bks ++ [bk])

/-- The core that a replay's log records for the next placement of a block (R378). -/
def State.replCore (s : State) (ctx index : Nat) : Option Nat :=
  (s.rpend.find? fun r => r.ctx == ctx && r.kind == 2 && r.word == BitVec.ofNat 32 index).map fun r => 128 * (r.pos / 2 ^ 45) + r.pos / 2 ^ 38 % 128

/-- The cores that a replay's log records for a drift, in one cluster. -/
def State.replCluster (s : State) (g : Grid) (die drift : Nat) : Option (Nat × List Cand4) :=
  match (List.range g.drf).map fun p => s.replCore g.ctx (drift * g.drf + p) with
  | some c :: cs =>
    let cores := c :: cs.filterMap id
    if dieOf c = die ∧ cores.length = g.drf ∧ cores.all (s.roomOn g) then some (clKey c, cores.map fun c => ⟨c, 0, 0⟩) else none
  | _ => none

/-- Place one drift on a die, if there is room. -/
def State.placeDrift (s : State) (gid die drift : Nat) : Option State :=
  match s.grantDie gid die with
  | none => none
  | some (s, fresh) =>
    let g := s.grid gid
    match (if s.replMode g.ctx = 2 then s.replCluster g die drift else s.pickCluster g die g.drf) with
    | none => none
    | some (cl, cs) =>
      match s.freeShare g .clus cl with
      | none => none
      | some cb =>
        let cores := (cs.map (·.core)).foldl insNat []
        match startDrift gid drift cb (cores.zipIdx.map fun e => (e.2, e.1)) s [] with
        | none => none
        | some (s, bks) =>
          let b := bks.headD 0
          let s := s.scrub .clus (2 ^ 22 * cl + cb) (g.shareSz .clus) b
          let s := if fresh then s.scrub .die (2 ^ 27 * die + lookD 0 g.dieBase die) (g.shareSz .die) b else s
          some (s.gridStarted gid die)

/-- Drifts of a grid. -/
def Grid.drifts (g : Grid) : Nat := g.blocks / g.drf

/-- Dies that may take a launch now: live, with a log spill area (R264, R296, R305). -/
def State.placeable (s : State) (die : Nat) : Bool := s.pkg.live.getLsbD die && s.dieReg die 0x10 ≠ 0

/-- Free cores of a die for a launch (R303). -/
def State.freeCores (s : State) (gid die : Nat) : Nat :=
  let g := s.grid gid
  if (s.grantDie gid die).isNone then 0
  else ((List.range (Config.coresOf die)).filter fun c => !s.avoided (128 * die + c) && s.roomOn g (128 * die + c)).length

/-- A die still has drifts of its range to place. -/
def Grid.busyDie (g : Grid) (die : Nat) : Bool := g.ranges.any fun r => r.die == die && decide (r.nxt < r.stop)

/-- Insert by remainder, largest first; ties to the lower die, which comes first. -/
def remInsert (x : Nat × Nat) : List (Nat × Nat) → List (Nat × Nat)
  | [] => [x]
  | y :: t => if y.2 < x.2 then x :: y :: t else y :: remInsert x t

/-- Shares of `take` drifts among dies with their free cores: largest remainder, capped at 64 (R303). -/
def shareOut (take : Nat) (fs : List (Nat × Nat)) : List (Nat × Nat) :=
  let tot := fs.foldl (fun n e => n + e.2) 0
  let base := fs.map fun e => (e.1, take * e.2 / tot)
  let left := take - base.foldl (fun n e => n + e.2) 0
  let order := fs.foldl (fun l e => remInsert (e.1, take * e.2 % tot) l) []
  let lucky := (order.take left).map (·.1)
  base.map fun e => (e.1, min 64 (e.2 + if lucky.contains e.1 then 1 else 0))

/-- Cut consecutive ranges for the shares. -/
def cutRanges : List (Nat × Nat) → Nat → List Range
  | [], _ => []
  | (d, n) :: t, at' => if n = 0 then cutRanges t at' else ⟨d, at', at' + n⟩ :: cutRanges t (at' + n)

/-- One round of the master (R303): the ranges it hands out; drifts to place again after a fence go first, one by one (R403). -/
def State.round (s : State) (gid : Nat) (busy : Bool) : Option State :=
  let g := s.grid gid
  if g.again = [] ∧ g.drifts ≤ g.handed then none else
  let dies := (List.range 8).filter fun d => g.dies.getLsbD d && s.placeable d && !(busy && g.busyDie d)
  let fs := (dies.map fun d => (d, s.freeCores gid d)).filter (·.2 ≠ 0)
  if s.replMode g.ctx = 2 then
    let d := g.again.headD g.handed
    match s.replCore g.ctx (d * g.drf) with
    | none => none
    | some c =>
      some (s.modGrid gid fun x => { x with
        again := x.again.drop 1, handed := if x.again = [] then d + 1 else x.handed, ranges := x.ranges ++ [⟨dieOf c, d, d + 1⟩] })
  else match g.again, fs with
  | _, [] => none
  | d :: rest, f :: _ => some (s.modGrid gid fun x => { x with again := rest, ranges := x.ranges ++ [⟨f.1, d, d + 1⟩] })
  | [], _ :: _ =>
    let take := min (64 * fs.length) (g.drifts - g.handed)
    if take = 0 then none
    else
      let rs := cutRanges (shareOut take fs) g.handed
      if rs = [] then none
      else some (s.modGrid gid fun x => { x with
        handed := rs.foldl (fun n r => max n r.stop) x.handed
        ranges := (x.ranges.filter fun r => decide (r.nxt < r.stop)) ++ rs })

/-- The next drift of a die's ranges. -/
def Grid.nextDrift (g : Grid) (die : Nat) : Option Nat := (g.ranges.find? fun r => r.die == die && decide (r.nxt < r.stop)).map (·.nxt)

/-- That drift is placed. -/
def Grid.advanceDie (g : Grid) (die drift : Nat) : Grid :=
  { g with ranges := g.ranges.map fun r => if r.die = die ∧ r.nxt = drift ∧ drift < r.stop then { r with nxt := drift + 1 } else r }

/-- A die's distributor places its next drift, if there is room. -/
def State.placeNext (s : State) (gid die : Nat) : Option State :=
  match (s.grid gid).nextDrift die with
  | none => none
  | some d => (s.placeDrift gid die d).map fun s => s.modGrid gid fun x => x.advanceDie die d

/-- Place every drift handed out, as far as there is room. -/
def State.placeAll (gid : Nat) : Nat → State → State
  | 0, s => s
  | n + 1, s =>
    match (List.range 8).findSome? fun d => s.placeNext gid d with
    | some s => State.placeAll gid n s
    | none => s

/-- Drifts that the rounds left over, each on the lowest eligible die that takes it. -/
def State.placeLeft (gid : Nat) : List Nat → State → Option State
  | [], s => some s
  | d :: ds, s =>
    match (List.range 8).findSome? fun die => if (s.grid gid).dies.getLsbD die && s.placeable die then s.placeDrift gid die d else none with
    | some s => State.placeLeft gid ds s
    | none => none

/-- Rounds planned in turn, then the drifts that are left; the state when every block fits, else nothing (R303). -/
def State.placeTogether (gid : Nat) : Nat → State → Option State
  | 0, _ => none
  | n + 1, s =>
    match s.round gid false with
    | some s' => State.placeTogether gid n (State.placeAll gid (s.grid gid).drifts s')
    | none =>
      let g := s.grid gid
      let left := g.again ++ g.ranges.flatMap (fun r => (List.range (r.stop - r.nxt)).map (r.nxt + ·)) ++
        (List.range (g.drifts - g.handed)).map (g.handed + ·)
      State.placeLeft gid left (s.modGrid gid fun x => { x with again := [], ranges := [], handed := x.drifts })

/-- A co-resident launch placed in one step: the state when every block fits on the eligible dies together (R303). -/
def State.together (s : State) (gid : Nat) : Option State := State.placeTogether gid (2 * (s.grid gid).drifts + 1) s

end Sys2Proof.Machine
end

