-- ==== Sys2Proof/Machine/Launch.lean ====
section
/-! DEFINITION. Launch records, distribution, the end of a grid, preemption and resumption (R295 to R305, R309, R311 to R313). -/

namespace Sys2Proof.Machine

/-! ## The launch store (R297, R298) -/

/-- A grid's record keeps its place until STATE 2 or 5, or until the host ends it in STATE 3 or 4. -/
def Grid.placed (g : Grid) : Bool := decide (g.state ≠ 2 ∧ g.state ≠ 5) && !g.retired

/-- Places a context holds: its LHELD register. -/
def State.placesHeld (s : State) (ctx : Nat) : Nat := (s.grids.filter fun e => e.2.ctx == ctx && e.2.placed).length

/-- The launch store has a place for a context. -/
def State.hasPlace (s : State) (ctx : Nat) : Bool :=
  decide ((s.grids.filter fun e => e.2.placed).length < 4096 ∧ s.placesHeld ctx < 256)

/-- A write to an aperture page is discarded and counted. -/
def State.dropLaunch (s : State) (ctx : Nat) : State :=
  s.setCtxReg ctx 0x48 (BitVec.ofNat 64 (((s.ctxReg ctx 0x48).toNat + 1) % 2 ^ 32))

/-- Another valid entry binds the same PASID (R295). -/
def State.pasidTwice (s : State) (ctx : Nat) : Bool :=
  (List.range 64).any fun c => c ≠ ctx && s.ctxVal c && s.ctxPasid c == s.ctxPasid ctx

/-! ## The checks of an accepted record (R300, R305) -/

/-- STAT: its bounds entry with w covers the 16 KiB block at a multiple of 64. -/
def State.statOk (s : State) (g : Grid) : Bool :=
  let va := bits g.stat 47 0
  s.inBounds g.ctx (bits g.stat 59 48) va 16384 && bentW (s.bent g.ctx (bits g.stat 59 48)) && decide (va % 64 = 0)

/-- Dies the launch may use: live, in PLACE and in ALLOW, with a spill area. -/
def State.launchDies (s : State) (g : Grid) : List Nat :=
  (List.range 8).filter fun d => s.placeable d && bitOf g.place d && bitOf (s.ctxAllow g.ctx) d

/-- The AND of DCAP over dies. -/
def capOf (ds : List Nat) : BitVec 128 := ds.foldl (fun m d => m &&& Config.dcap d) (BitVec.allOnes 128)

def Grid.feat (g : Grid) : BitVec 128 := BitVec.ofNat 128 (bits g.lrec.toNat 191 64)

/-- Row 0x01: reserved bits and codes, extents and limits. Bits 31:27 of W12, which R299 neither lists nor shows as zero, are taken as
reserved (DESIGN CHOICE, log 55). -/
def Grid.malformed (g : Grid) : Bool :=
  decide (g.w 0 0 0 ≠ 0 ∨ g.tpol = 3 ∨ g.w 11 31 30 ≠ 0 ∨ g.w 12 31 27 ≠ 0 ∨ g.w 13 31 27 ≠ 0 ∨ g.blocks = 0 ∨
    g.nregs = 0 ∨ 248 < g.nregs ∨ 2048 < g.w 12 11 0 ∨ 16384 < g.w 12 26 12 ∨ 128 < g.accN ∨ g.place = 0)

/-- A die with no other block could hold one drift: register windows of the fullest lane and the die share (R241, R257). No core holds a
block of more than the 1,024 threads that R299 allows (log 33). -/
def Grid.fitsDie (g : Grid) (die : Nat) : Bool :=
  decide (g.threads ≤ 1024 ∧ ((g.threads + 31) / 32 + 3) / 4 * g.win ≤ 2048 ∧ g.shareSz .die ≤ Config.dieGrant die)

/-- The machine without what the blocks, tasks and operations of some grids hold. -/
def State.cleared (s : State) (out : Nat → Bool) : State :=
  let gone (bk : Nat) : Bool := out (s.block bk).grid
  { s with
    blocks := s.blocks.filter fun e => !out e.2.grid
    threads := s.threads.filter fun e => !gone (blockKey (e.1 / 4096) e.2.blkr)
    tasks := s.tasks.filter fun t => !out t.grid
    copies := s.copies.filter fun e => !out e.2.grid
    mmas := s.mmas.filter fun e => !out e.2.grid
    allocs := s.allocs.filter fun a => !gone a.2.block
    grids := s.grids.map fun e => if out e.1 then (e.1, { e.2 with dieBase := [] }) else e }

/-- The machine as a launch would find it with no other block on any die. -/
def State.emptied (s : State) (gid : Nat) : State := { s.cleared (· ≠ gid) with avoid := [] }

/-- Code of the first row that fails, 0 when none does. -/
def State.launchFail (s : State) (gid page : Nat) : Nat :=
  let g := s.grid gid
  let ds := s.launchDies g
  if g.malformed then 0x01
  else if g.w 0 15 10 ≠ page then 0x02
  else if (s.codeEnt g.ctx g.code).isNone then 0x03
  else if !s.contOk g.ctx g.code g.entry then 0x04
  else if ds = [] ∨ g.feat &&& ~~~capOf ds ≠ 0 then 0x05
  else if !ds.any g.fitsDie then 0x06
  else if g.blocks % g.drf ≠ 0 then 0x07
  else if g.coRes ∧ ((s.emptied gid).together gid).isNone then 0x08
  else if g.lsid ≠ 0 ∧ (look s.schedules (64 * g.ctx + g.lsid)).isNone then 0x09
  else 0

/-- A record on a page of the aperture (R297, R298, R300, R301): dropped, failed or accepted. -/
def State.acceptLaunch (s : State) (ctx : Nat) (r : BitVec 512) : State :=
  if !s.hasPlace ctx then s.dropLaunch ctx
  else
    let n := s.newId
    let g : Grid := { ctx := ctx, lrec := r, order := n.1 }
    if !s.statOk g then s.dropLaunch ctx
    else
      let gid := n.1
      let s := n.2.setGrid gid g
      let s := ((s.statWrite gid 4 4 0).statWrite gid 12 52 0).setGState gid 0
      let ds := s.launchDies g
      let s := s.modGrid gid fun x => { x with dies := BitVec.ofNat 8 (ds.foldl (fun n d => n + 2 ^ d) 0), mask := capOf ds }
      let s := { s with pkg := { s.pkg with launched := true } }
      let code := s.launchFail gid ctx
      if code = 0 then s else (s.statWrite gid 4 4 code).setGState gid 5

/-- LAUNCH_RECORD: a write to page `page` of the aperture (R295, R297, R419), which wakes the package (R420). -/
def execLaunchRecord (page : Nat) (pasid : BitVec 20) (size : Nat) (data : BitVec 512) (s : State) : Host.Outcome State Fault Refusal :=
  if 64 ≤ page then .next s
  else if size ≠ 64 ∨ !s.ctxVal page ∨ s.ctxPasid page ≠ pasid ∨ s.pasidTwice page ∨ !s.pkg.ready then .next (s.wake.dropLaunch page)
  else .next (s.wake.acceptLaunch page data)

/-- DEVICE_SIDE_LAUNCH: a line that a copy wrote to an alias is taken as a record, after the earlier lines of its context (R302). With no
place it is counted as dropped and the block faults (R298). -/
def execDeviceSideLaunch (n : Nat) (s : State) : Host.Outcome State Fault Refusal :=
  match s.launches[n]? with
  | none => .next s
  | some (ctx, r, bk, uid, coord) =>
    if (s.launches.take n).any (·.1 == ctx) then .next s else
    let s := { s with launches := s.launches.eraseIdx n }
    if !s.ctxVal ctx ∨ s.pasidTwice ctx then .next (s.dropLaunch ctx)
    else if !s.hasPlace ctx then .next (((s.dropLaunch ctx).addDueOnce bk uid 0x8007 coord).settleDue 64)
    else .next (s.acceptLaunch ctx r)

/-! ## Distribution (R303, R304) -/

/-- Blocks of the grid may be placed now: it is not stopped, preempted or ended, and the package places launches (R404, R420). -/
def State.mayPlace (s : State) (gid : Nat) : Bool :=
  let g := s.grid gid
  s.runs gid && decide (g.state ≤ 1) && !s.preempting.contains g.ctx && !(s.saved.any fun x => x.ctx == g.ctx) && !s.pkg.rebuild &&
  decide (s.pkg.pst ≤ 1)

/-- SER: an earlier launch of the context has not reached STATE 2, 3, 4 or 5. -/
def State.serHeld (s : State) (gid : Nat) : Bool :=
  (s.grid gid).ser && s.grids.any fun e => e.2.ctx == (s.grid gid).ctx && decide (e.2.order < (s.grid gid).order) &&
    !decide (2 ≤ e.2.state ∧ e.2.state ≤ 5)

/-- An earlier launch of the context could be handed a round now: it is served first (R297). -/
def State.earlierFirst (s : State) (gid : Nat) : Bool :=
  s.grids.any fun e => e.2.ctx == (s.grid gid).ctx && decide (e.2.order < (s.grid gid).order) && !e.2.coRes &&
    s.mayPlace e.1 && !s.serHeld e.1 && (s.round e.1 true).isSome

/-- DRIFT_DISTRIBUTION: one round of the master, or the whole of a co-resident launch. -/
def execDriftDistribution (gid : Nat) (s : State) : Host.Outcome State Fault Refusal :=
  let g := s.grid gid
  if !s.mayPlace gid || s.serHeld gid || s.earlierFirst gid then .next s
  else if g.coRes then .next ((s.together gid).getD s)
  else .next ((s.round gid true).getD s)

/-- BLOCK_PLACE: a die's distributor places its next drift. -/
def execBlockPlace (gid die : Nat) (s : State) : Host.Outcome State Fault Refusal :=
  if s.mayPlace gid && !(s.grid gid).coRes && s.placeable die then .next ((s.placeNext gid die).getD s) else .next s

/-- SHARE_SCRUB_COMPLETE: the scrub of a granted share is over (R259); with its last one a block's floes wait as candidates (R249). -/
def execShareScrubComplete (n : Nat) (s : State) : Host.Outcome State Fault Refusal :=
  match s.scrubs[n]? with
  | none => .next s
  | some (_, _, _, bk) =>
    let t : State := { s with scrubs := s.scrubs.eraseIdx n }
    if t.scrubs.any (·.2.2.2 == bk) then .next t
    else .next { t with
      starting := t.starting.map fun e => if blockKey (e.1 / 4) e.2.blkr = bk then (e.1, { e.2 with since := s.clock (bk / 4096) }) else e }

/-! ## The end of a grid (R301, R309, R350) -/

/-- GRID_END: TEND, then STATE 2; its handles close and its shares and place are free. -/
def execGridEnd (gid : Nat) (s : State) : Host.Outcome State Fault Refusal :=
  let g := s.grid gid
  if (look s.grids gid).isNone ∨ !s.gridDone gid ∨ !(g.state = 1 ∧ g.stopping.isNone ∨ g.retired ∧ (g.state = 3 ∨ g.state = 4)) then .next s
  else
    let s := (s.closeHandles gid).statWrite gid 32 8 (g.doneAt.getD (s.clock s.pkg.master) % 2 ^ 64)
    .next ((s.modGrid gid fun x => { x with ranges := [], again := [], dieBase := [] }).setGState gid 2)

/-- GRID_END_BY_HOST: the host ends a grid in STATE 3 or 4: its blocks end with their logs discarded, its tasks and drifts are dropped, and
GRID_END follows (R298, R309). -/
def execGridEndByHost (gid : Nat) (s : State) : Host.Outcome State Fault Refusal :=
  let g := s.grid gid
  if (look s.grids gid).isNone ∨ (g.state ≠ 3 ∧ g.state ≠ 4) ∨ g.retired then .next s
  else
    let s := (s.blocksOf gid).foldl (fun s bk => (s.blockGone bk).releaseBlock bk .kill) s
    let s := { s with tasks := s.tasks.filter fun t => t.grid ≠ gid }
    .next ((s.modGrid gid fun x => { x with retired := true, ranges := [], again := [], handed := x.drifts, done := x.blocks }).noteDone.settleDue 64)

/-! ## Preemption (R311, R312) -/

/-- Resident blocks and held tasks of a context. -/
def State.blocksOfCtx (s : State) (ctx : Nat) : List (Nat × Block) := s.blocks.filter fun e => (s.grid e.2.grid).ctx == ctx

/-- A launch of the context waits for room: it has drifts to place and neither the master nor a die can place one. -/
def State.waitsForRoom (s : State) (e : Nat × Grid) : Bool :=
  s.mayPlace e.1 && !s.serHeld e.1 &&
  (if e.2.coRes then (decide (e.2.handed < e.2.drifts) || e.2.again ≠ []) && (s.together e.1).isNone
   else (decide (e.2.handed < e.2.drifts) || e.2.again ≠ [] || (List.range 8).any e.2.busyDie) &&
     (s.round e.1 true).isNone && (List.range 8).all fun d => (s.placeNext e.1 d).isNone)

/-- The block placed most recently of a context. -/
def State.lastPlaced (s : State) (ctx : Nat) : Nat := (s.blocksOfCtx ctx).foldl (fun n e => max n e.2.uid) 0

/-- A context holds resources on some dies: a resident block, the share of a task, or a die share. -/
def State.holdsOn (s : State) (c : Nat) (dies : BitVec 8) : Bool :=
  ((s.blocksOfCtx c).any fun b => dies.getLsbD (b.1 / 4096)) ||
  (s.tasks.any fun t => (s.grid t.grid).ctx == c && dies.getLsbD (dieOf t.core)) ||
  s.grids.any fun x => x.2.ctx == c && x.2.holds && x.2.dieBase.any fun d => dies.getLsbD d.1

/-- Contexts of lower CPRI than a launch's that hold resources on its dies: lowest CPRI first, and among equals the one placed most
recently. -/
def State.lowerCtxs (s : State) (e : Nat × Grid) : List Nat :=
  let cs := (List.range 64).filter fun c => decide (s.ctxPri c < s.ctxPri e.2.ctx) && s.holdsOn c e.2.dies
  let before (a b : Nat) : Bool := decide (s.ctxPri a < s.ctxPri b) || (s.ctxPri a == s.ctxPri b && decide (s.lastPlaced b ≤ s.lastPlaced a))
  cs.foldr (fun c l => l.takeWhile (fun x => before x c) ++ [c] ++ l.dropWhile (fun x => before x c)) []

/-- The launch could be placed if these contexts held nothing. -/
def State.roomWithout (s : State) (e : Nat × Grid) (cs : List Nat) : Bool :=
  !(s.cleared fun g => cs.contains (s.grid g).ctx).waitsForRoom e

/-- R311: the contexts that a waiting launch of higher CPRI cannot be placed without: those of lowest CPRI that make room together, without
any whose resources it does not need. -/
def State.victims (s : State) (e : Nat × Grid) : List Nat :=
  let cs := s.lowerCtxs e
  match (List.range (cs.length + 1)).find? fun n => s.roomWithout e (cs.take n) with
  | none => []
  | some n => (cs.take n).foldr (fun c l => if s.roomWithout e (l.filter (· ≠ c)) then l.filter (· ≠ c) else l) (cs.take n)

/-- R311: the context is the victim of a waiting launch. -/
def State.victim (s : State) (ctx : Nat) : Bool :=
  s.grids.any fun e => s.waitsForRoom e && (s.victims e).head? == some ctx

/-- Step 1: issue stops in every block of the context. -/
def State.beginPreempt (s : State) (ctx : Nat) : State :=
  ((s.blocksOfCtx ctx).map (·.1)).foldl (fun s bk => s.stopBlk bk 5) { s with preempting := insNat s.preempting ctx }

/-- Step 2 is over for a block: nothing that it issued is on its way, and a stop by its grid's trap policy has reached it. -/
def State.drained (s : State) (bk : Nat) : Bool :=
  let uid := (s.block bk).uid
  (match (s.grid (s.block bk).grid).stopping with
    | some x => x.1 != 4 || (s.block bk).stops.contains 4
    | none => true) &&
  s.quiet bk && !(s.net.any fun e => e.2.block == bk && e.2.uid == uid) && !(s.tokens.any fun t => (s.floesOf bk).contains t.floe) &&
  !(s.mcasts.any fun m => m.uid == uid) && !(s.dumps.any fun d => d.block == bk) && !(s.due.any fun d => d.block == bk) &&
  ((s.floesOf bk).all fun k => ((s.floe? k).map (·.cmd.isNone)).getD true)

/-- Step 3: the block has no commit in its drift, its grid is not co-resident and no stop holds it: it is requeued as its task (R372). -/
def State.requeues (s : State) (bk : Nat) : Bool :=
  let b := s.block bk
  !(s.grid b.grid).coRes && b.stops.all (· == 5) && !(s.grid b.grid).cdrifts.contains b.drift

/-! ### The save area (R313) -/

/-- Base of a core's record, of a cluster's and of a die's scratchpad in the save area. -/
def State.saveBase (s : State) (ctx die : Nat) : Nat := bits (s.ctxEnt ctx) 127 64 / 2 ^ 20 * 2 ^ 20 + 512 * 2 ^ 20 * die
def State.saveCore (s : State) (ctx core : Nat) : Nat := s.saveBase ctx (dieOf core) + 2 ^ 21 * (core % 128)
def State.saveClus (s : State) (ctx cl : Nat) : Nat := s.saveBase ctx (cl / 32) + 2 ^ 28 + 2 ^ 22 * (cl % 32)
def State.saveDie (s : State) (ctx die : Nat) : Nat := s.saveBase ctx die + 384 * 2 ^ 20 + (128 * 2 ^ 20 - Config.dieGrant die)

/-- A piece of a save: its address in the save area, its source in the machine. -/
inductive SavePiece where
  /-- Bank words `n` of a lane from a word. -/
  | regs (lane word n : Nat)
  | pad (l : Space) (pa n : Nat)
  /-- Words of accumulator banks of a core. -/
  | banks (core first cnt : Nat)
  /-- A thread's continuation record in spawn memory (R244). -/
  | spawn (t : Nat)
  /-- A core's control state, and its part of the system region, whose layout the spec does not give (log 32). -/
  | control (core : Nat)
  | region (core : Nat)
deriving DecidableEq, Repr, Inhabited

/-- Where a piece lies in the save area. -/
def State.saveAddr (s : State) (ctx : Nat) : SavePiece → Nat
  | .regs lane word _ => s.saveCore ctx (lane / 128) + 8192 * (lane % 128) + 4 * word
  | .pad .unit pa _ => s.saveCore ctx (pa / 2 ^ 19) + 0x100000 + pa % 2 ^ 19
  | .pad .clus pa _ => s.saveClus ctx (pa / 2 ^ 22) + pa % 2 ^ 22
  | .pad _ pa _ => s.saveDie ctx (pa / 2 ^ 27) + pa % 2 ^ 27
  | .banks core first _ => s.saveCore ctx core + 0x180000 + 2048 * first
  | .spawn t => s.saveCore ctx (t / 4096) + 0x1C0000 + 16 * (t % 4096)
  | .control core => s.saveCore ctx core + 0x1D0000
  | .region core => s.saveBase ctx (dieOf core) + 384 * 2 ^ 20 + 448 * 1024 * (core % 128)

def SavePiece.size : SavePiece → Nat
  | .regs _ _ n => 4 * n
  | .pad _ _ n => n
  | .banks _ _ cnt => 2048 * cnt
  | .spawn _ => 16
  | .control _ => 0x30000
  | .region _ => 448 * 1024

/-- Bytes whose layout the spec does not give: free words from a place of the piece (log 32). -/
def State.openBytes (s : State) (at' n : Nat) : List Byte :=
  (List.range (n / 4)).flatMap fun i => leBytes (Config.freeWord (s.fresh + at' / 4 + i)).toNat 4

/-- Bytes of a piece; the region of a core holds its debug mailbox (R370). -/
def State.pieceBytes (s : State) : SavePiece → List Byte
  | .regs lane word n => (List.range n).flatMap fun i => leBytes (lookD 0 s.regs (2048 * lane + word + i)).toNat 4
  | .pad l pa n => getBs (s.lvl l) pa n
  | .banks core first cnt => (List.range (512 * cnt)).flatMap fun i => leBytes (s.accWord core first i).toNat 4
  | .spawn t => leBytes (s.thread t).record 16
  | .control _ => s.openBytes 0 0x30000
  | .region core => s.openBytes 0 0x60000 ++ (List.range 64).flatMap (fun i => leBytes (s.csr core (0x340 + i)).toNat 4) ++
      s.openBytes 0x60100 0xFF00

def State.savePiece (s : State) (ctx : Nat) (p : SavePiece) : State :=
  let s' := s.writePlace ⟨s.saveAddr ctx p, false⟩ (s.pieceBytes p)
  { s' with fresh := s'.fresh + p.size / 4 }

/-- A thread with the fields of a continuation record (R244). -/
def Thread.ofRecord (th : Thread) (r : Nat) : Thread :=
  { th with
    cont := BitVec.ofNat 32 (bits r 127 96), wbase := bits r 95 85, blkr := bits r 84 80, tid := bits r 79 70, st := bits r 69 68
    bin := bits r 67 64, parkt := th.parkt / 2 ^ 32 * 2 ^ 32 + bits r 63 32, ovf := bitOf r 31, strt := bitOf r 30, save := bits r 21 16 }

/-- Read a piece back into the machine. -/
def State.loadPiece (s : State) (ctx : Nat) (p : SavePiece) : State :=
  let v := getBs s.mem (s.saveAddr ctx p) p.size
  match p with
  | .regs lane word n => { s with regs := (List.range n).foldl (fun t i =>
      putD 0 t (2048 * lane + word + i) (BitVec.ofNat 32 (leVal ((v.drop (4 * i)).take 4)))) s.regs }
  | .pad l pa _ => s.setLvl l (setBs (s.lvl l) pa v)
  | .banks core first cnt => { s with accs := (List.range (512 * cnt)).foldl (fun t i =>
      put t (65536 * core + 512 * first + i) (BitVec.ofNat 32 (leVal ((v.drop (4 * i)).take 4)))) s.accs }
  | .spawn t => s.modThread t fun th => th.ofRecord (leVal v)
  | _ => s

/-- The pieces of a context: of its resident blocks, of its tasks' cluster shares and of its grids' die shares. -/
def ctxPieces (s : State) (ctx : Nat) (blocks : Tab Block) (threads : Tab Thread) (allocs : List (Nat × Alloc)) : List SavePiece :=
  let regs := threads.filterMap fun e => if e.2.st ≠ 0 then some (.regs (e.1 / 32) e.2.wbase e.2.win) else none
  let units := blocks.map fun e => .pad .unit (2 ^ 19 * (e.1 / 32) + e.2.unitBase) ((s.grid e.2.grid).shareSz .unit)
  let clus := (blocks.map fun e => (clKey (e.1 / 32), e.2.clusBase, (s.grid e.2.grid).shareSz .clus)) ++
    (s.tasks.filter fun t => (s.grid t.grid).ctx == ctx).map fun t => (clKey t.core, t.clusBase, (s.grid t.grid).shareSz .clus)
  let dies := (s.grids.filter fun e => e.2.ctx == ctx && e.2.placed).flatMap fun e =>
    e.2.dieBase.map fun d => .pad .die (2 ^ 27 * d.1 + d.2) (e.2.shareSz .die)
  let cores := (blocks.map (·.1 / 32)).dedup
  let spawn := threads.filterMap fun e => if e.2.st ≠ 0 then some (.spawn e.1) else none
  regs ++ spawn ++ cores.map .control ++ cores.map .region ++ units ++ (clus.dedup.map fun c => .pad .clus (2 ^ 22 * c.1 + c.2.1) c.2.2) ++ dies ++
    allocs.map fun a => .banks a.1 a.2.first a.2.cnt

/-- Entries of a table whose key falls, by a divisor, on one of the cores with one of the block numbers. -/
def ofBlocks {α : Type} (t : Tab α) (d : Nat) (blkr : α → Nat) (bks : List Nat) : Tab α :=
  t.filter fun e => bks.contains (blockKey (e.1 / d) (blkr e.2))

/-- Keys of a sparse table of scratchpad granules or chunks of `g` bytes that lie in a piece. -/
def inPieces (ps : List SavePiece) (g key : Nat) : Bool :=
  ps.any fun p => match p with
    | .pad l pa n => decide (2 ^ 50 * lvlCode l + pa / g ≤ key ∧ key < 2 ^ 50 * lvlCode l + (pa + n) / g)
    | _ => false

def syncInPieces (ps : List SavePiece) (key : Nat) : Bool :=
  ps.any fun p => match p with
    | .pad l pa n => decide (syncKey l false pa ≤ key ∧ key < syncKey l false (pa + n))
    | _ => false

/-- Steps 3 to 5 of R312: requeue or save every block of a drained context, and free its resources. -/
def State.finishPreempt (s : State) (ctx : Nat) : State :=
  let bks := (s.blocksOfCtx ctx).map (·.1)
  let s := (bks.filter s.requeues).foldl (fun s bk => s.abortBlock bk [] [] false) s
  let blocks := s.blocksOfCtx ctx
  let bks := blocks.map (·.1)
  let cores := (bks.map (· / 32)).dedup
  let gids := (s.grids.filter fun e => e.2.ctx == ctx && e.2.placed).map (·.1)
  let threads := ofBlocks s.threads 4096 (·.blkr) bks
  let allocs := s.allocs.filter fun a => bks.contains a.2.block && a.2.orphan.isNone
  let ps := ctxPieces s ctx blocks threads allocs
  let s := ps.foldl (fun s p => s.savePiece ctx p) s
  let owns (e : Nat × BitVec 512 × Nat) : Bool := cores.contains (e.1 / 8) && gids.contains e.2.2
  let sv : Saved := {
    ctx := ctx
    states := gids.map fun g => (g, (s.grid g).state)
    blocks := blocks
    threads := threads
    floes := ofBlocks s.floes 128 (·.blkr) bks
    saves := ofBlocks s.saves 256 (·.blkr) bks
    bins := ofBlocks s.bins 64 (·.blkr) bks
    starting := s.starting.filter fun e => bks.contains (blockKey (e.1 / 4) e.2.blkr)
    bars := s.bars.filter fun e => cores.contains (e.1 / 16) && bks.contains e.2.owner
    cbufs := s.cbufs.filter fun e => cores.contains (e.1 / 16) && bks.contains e.2.owner
    tables := s.tables.filter owns
    allocs := allocs
    maps := s.maps.filter fun e => bks.contains (e.1 / 8)
    track := s.track.filter fun e => inPieces ps 256 e.1
    race := s.race.filter fun e => inPieces ps 32 e.1
    raceBy := s.raceBy.filter fun e => inPieces ps 32 e.1
    syncs := s.syncs.filter fun e => syncInPieces ps e.1
    copies := s.copies.filter fun e => bks.contains e.2.block && (s.block e.2.block).uid == e.2.uid
    wbs := s.wbs.filter fun e => bks.contains e.2.block
    mmas := s.mmas.filter fun e => bks.contains e.2.block
    lfsr := cores.flatMap fun c => (List.range 4).map fun i => (4 * c + i, s.lfsrOf (4 * c + i)) }
  let gone {α : Type} (t big : Tab α) : Tab α := big.filter fun e => (look t e.1).isNone
  let s := { s with
    preempting := s.preempting.filter (· ≠ ctx)
    saved := s.saved ++ [sv]
    blocks := gone sv.blocks s.blocks
    threads := gone sv.threads s.threads
    floes := gone sv.floes s.floes
    saves := gone sv.saves s.saves
    bins := gone sv.bins s.bins
    starting := s.starting.filter fun e => !bks.contains (blockKey (e.1 / 4) e.2.blkr)
    bars := gone sv.bars s.bars
    cbufs := gone sv.cbufs s.cbufs
    tables := gone sv.tables s.tables
    allocs := s.allocs.filter fun a => !(bks.contains a.2.block && a.2.orphan.isNone)
    maps := gone sv.maps s.maps
    fills := s.fills.filter fun f => !bks.contains (f.map / 8)
    track := gone sv.track s.track
    race := gone sv.race s.race
    raceBy := gone sv.raceBy s.raceBy
    syncs := gone sv.syncs s.syncs
    copies := gone sv.copies s.copies
    wbs := gone sv.wbs s.wbs
    mmas := gone sv.mmas s.mmas }
  let s := gids.foldl (fun s g => s.setGState g 6) s
  cores.foldl (fun s c => (List.range 4).foldl (fun s i => s.fillBins (4 * c + i)) s) s

/-- CONTEXT_PREEMPT: a victim's preemption begins, or a drained one is saved (R311, R312). -/
def execContextPreempt (ctx : Nat) (s : State) : Host.Outcome State Fault Refusal :=
  if s.preempting.contains ctx then
    (if (s.blocksOfCtx ctx).all fun e => s.drained e.1 then .next ((s.finishPreempt ctx).settleDue 64) else .next s)
  else if s.saved.any (·.ctx == ctx) ∨ !s.victim ctx then .next s
  else .next (s.beginPreempt ctx)

/-- PREEMPT: a host write of 1 to a context's PREEMPT register preempts it (R311, R417). -/
def execPreempt (ctx : Nat) (value : BitVec 64) (s : State) : Host.Outcome State Fault Refusal :=
  if !s.windowOn ∨ value.toNat % 2 ^ 32 ≠ 1 ∨ 64 ≤ ctx ∨ s.preempting.contains ctx ∨ s.saved.any (·.ctx == ctx) then .next s else .next (s.beginPreempt ctx)

/-! ## Resumption (R311, R313) -/

/-- A floe that was stopped and whose copy is stale continues at its coordinate in a fresh one (R368). -/
def State.dropStale (s : State) (bk : Nat) : State :=
  let fresh (f : Floe) : Floe := match look s.segs f.copy with
    | some c => if c.stale then { f with copy := 2 ^ 64 } else f
    | none => f
  { s with
    floes := s.floes.map fun e => if e.2.bkey e.1 = bk then (e.1, fresh e.2) else e
    saves := s.saves.map fun e => if blockKey (e.1 / 256) e.2.blkr = bk then (e.1, fresh e.2) else e }

/-- The timers of a block go on after a stop that lasted `d` cycles (R371): of its bins, its starting floes, its floes' turns and holds. -/
def State.shiftTimers (s : State) (bk d : Nat) : State :=
  { s with
    bins := s.bins.map fun (e : Nat × Bin) => if e.1 / 64 = bk / 32 ∧ e.2.blkr = bk % 32 then (e.1, { e.2 with opened := e.2.opened + d }) else e
    starting := s.starting.map fun (e : Nat × Starting) =>
      if e.1 / 4 = bk / 32 ∧ e.2.blkr = bk % 32 then (e.1, { e.2 with since := e.2.since + d }) else e
    floes := s.floes.map fun (e : Nat × Floe) =>
      if e.2.bkey e.1 = bk then (e.1, { e.2 with lastIssue := e.2.lastIssue + d, hold := e.2.hold.map (· + d) }) else e }

/-- Nothing stops a block any more: its timers go on, waiters are released, and a policy that waited is applied; stop grid waits on while the
block only steps in a grid that is stopped already (R371, R372). -/
def State.goAgain (s : State) (bk : Nat) : State :=
  match s.block? bk with
  | none => s
  | some b =>
    let s := ((s.shiftTimers bk (s.clock (dieOf (bk / 32)) - b.stoppedAt)).dropStale bk).releaseFreed bk
    let s := (s.floesOf bk).foldl (fun s k => s.modFloe k fun f => { f with trapAt := none }) s
    if b.trapDue ∧ (s.runs b.grid ∨ (s.grid b.grid).tpol ≠ 0) then
      let s := s.modBlock bk fun b => { b with trapDue := false }
      if (s.grid b.grid).tpol = 0 then s.stopGrid b.grid (some (bk / 32)) else s.killBlock bk
    else s

/-- Stops of a block end (R365, R371); with none left it goes on. -/
def State.unstop (s : State) (bk : Nat) (ends : List Nat) : State :=
  match s.block? bk with
  | none => s
  | some b =>
    let left := b.stops.filter fun c => !ends.contains c
    if left.length = b.stops.length then s
    else
      let s := s.setBlock bk { b with stops := left, stopper := if left.contains 1 then b.stopper else none }
      let s := match b.stopper with
        | some i => if left.contains 1 then s else s.dstat i 0 0x2
        | none => s
      if left ≠ [] then s else s.goAgain bk

end Sys2Proof.Machine
end

