-- ==== Sys2Proof/Machine/Pci.lean ====
section
/-! DEFINITION. The function's configuration space: header, BARs and the capabilities of R415, with the registers that R332, R333 and R416
rest on. Their layouts are those of PCI Express (PRESUMED), their offsets and the size of BAR2 before any write the model's (DESIGN CHOICE, log 68). -/

namespace Sys2Proof.Machine

/-- Offsets of the extended capabilities. -/
def aerBase : Nat := 0x100
def atsBase : Nat := 0x150
def priBase : Nat := 0x160
def pasidBase : Nat := 0x170
def rbarBase : Nat := 0x180
def doeBase : Nat := 0x190

/-- Header of an extended capability: its id, version and the offset of the next. -/
def capHead (id ver next : Nat) : Word := BitVec.ofNat 32 (next * 2 ^ 20 + ver * 2 ^ 16 + id)

/-- The dwords of configuration space, by offset: the value before any write, and the bits that a write changes. Others read 0. -/
def cfgTable : Tab (Word × Word) :=
  [(0x00, Config.pciId, 0), (0x04, 0x00100000, 0x00000546), (0x08, Config.pciClass, 0), (0x0C, 0, 0xFF),
   (0x10, 0x4, 0xFC000000), (0x14, 0, 0xFFFFFFFF), (0x18, 0xC, 0), (0x1C, 0, 0), (0x20, 0x4, 0xFFFC0000), (0x24, 0, 0xFFFFFFFF),
   (0x34, 0x40, 0), (0x3C, 0, 0xFF), (0x40, 0x00020010, 0)] ++
  [(aerBase, capHead 0x01 2 atsBase, 0), (aerBase + 8, 0, 0xFFFFFFFF), (aerBase + 12, 0, 0xFFFFFFFF), (aerBase + 20, 0, 0xFFFFFFFF),
   (atsBase, capHead 0x0F 1 priBase, 0), (atsBase + 4, 0x20, 0x801F0000),
   (priBase, capHead 0x13 1 pasidBase, 0), (priBase + 4, 0x80000000, 0x1), (priBase + 8, Config.priCapacity, 0), (priBase + 12, 0, 0xFFFFFFFF)] ++
  [(pasidBase, capHead 0x1B 1 rbarBase, 0), (pasidBase + 4, 0x1400, 0x10000),
   (rbarBase, capHead 0x15 1 doeBase, 0), (rbarBase + 4, 0x01FFC000, 0), (rbarBase + 8, 0x00000A22, 0x3F00),
   (doeBase, capHead 0x2E 1 0, 0), (doeBase + 8, 0, 0x2)]

/-- A dword as written, the status bits that the device sets apart. -/
def State.cfgReg (s : State) (off : Nat) : Word := lookD (lookD (0, 0) cfgTable off).1 s.pkg.cfg (off / 4)

/-- Binary logarithm of the BAR2 size, from the Resizable BAR control register: 30 to 40 (R416). -/
def State.bar2Log (s : State) : Nat := 20 + bits (s.cfgReg (rbarBase + 8)).toNat 13 8
def State.bar2Size (s : State) : Nat := 2 ^ s.bar2Log

/-- The bits that a write of a dword changes; those of BAR2 follow its size. -/
def State.cfgMask (s : State) (off : Nat) : Word :=
  if off = 0x18 then BitVec.ofNat 32 (2 ^ 64 - s.bar2Size)
  else if off = 0x1C then BitVec.ofNat 32 ((2 ^ 64 - s.bar2Size) / 2 ^ 32)
  else (lookD (0, 0) cfgTable off).2

/-- Read a dword: bit 16 of PRI's is the Response Failure that stopped page requests (R333). -/
def State.readCfg (s : State) (off : Nat) : Word :=
  if off = priBase + 4 ∧ s.pkg.priStop then s.cfgReg off ||| 0x10000 else s.cfgReg off

/-- Write a dword: the Reset bit of PRI lets page requests go on (R333); a BAR2 size that is not offered changes nothing. -/
def State.writeCfg (s : State) (off : Nat) (v : Word) : State :=
  let m := s.cfgMask off
  let new := (s.cfgReg off &&& ~~~m) ||| (v &&& m)
  if off = rbarBase + 8 ∧ (bits v.toNat 13 8 < 10 ∨ 20 < bits v.toNat 13 8) then s
  else
    { s with pkg := { s.pkg with
        cfg := if m = 0 then s.pkg.cfg else put s.pkg.cfg (off / 4) new
        priStop := s.pkg.priStop && !(off == priBase + 4 && v.getLsbD 1) } }

/-- The Outstanding Page Request Allocation (R332). -/
def State.priAlloc (s : State) : Nat := (s.cfgReg (priBase + 12)).toNat

/-- MEMWBASE as a multiple of the BAR2 size (R416). -/
def State.memwBase (s : State) : Nat := s.pkg.memwBase.toNat / s.bar2Size * s.bar2Size

end Sys2Proof.Machine
end

