-- ==== Sys2Proof/Machine/Fault.lean ====
section
/-! DEFINITION. Page requests and their answers, requeued tasks, ATS, invalidations and bounds entries (R322 to R326, R330 to R337, R441). -/

namespace Sys2Proof.Machine

/-! ## Walks and page request groups (R321, R322, R331, R332) -/

/-- A load of a core's floes that has issued and waits for the walk of an address: the floe's key, and the load (R64). -/
def State.lateAt (s : State) (core ctx va : Nat) : Option (Nat × Late) :=
  (slice s.floes (128 * core) (128 * core + 128)).findSome? fun e =>
    if (s.grid (s.block (e.2.bkey e.1)).grid).ctx = ctx then (e.2.late.find? fun l => l.reqs.any (·.2.2 == va)).map fun l => (e.1, l) else none

/-- A precise trap of a load that had issued (R64), at its coordinate. A handler takes over with the load going on in its other lanes; under
another policy the load stays as it is, to be met again. -/
def State.lateTrap (s : State) (k : Nat) (l : Late) (code : Nat) (lanes : List Nat) (addr : Nat) : State :=
  match s.floe? k with
  | none => s
  | some f =>
    let handled := s.policyOf k f lanes = 2 ∧ (s.freeSave (islotOfFloe k)).isSome ∧ !s.handlerWaits (s.block (f.bkey k)).grid
    let rest := l.reqs.filter fun q => !lanes.contains q.1
    let s := if handled then s.modFloe k fun f => { f with
        past := true
        late := (f.late.erase l) ++ if rest = [] then [] else [{ l with reqs := rest, waits := false }]
        pend := f.pend.map fun p => if p.n = l.pend then { p with need := p.need.filter fun x => !lanes.contains x } else p }
      else s
    s.takeTrapAt k code lanes addr l.coord.toNat

/-- A floe that can be suspended where it stands: what it waits for is tried again. -/
def Wait.retried : Wait → Bool
  | .none | .score | .stall | .mwait | .cbacq _ | .trap => true
  | _ => false

/-- The walk of a load that has issued ends (R64): its requests go to their homes; a page fault suspends the floe, or aborts its block, with what
the window's instructions have done since; the load is replayed after a Success. While its block is stopped it waits (R371). -/
def State.walkLate (s : State) (k : Nat) (l : Late) : State :=
  match s.floe? k with
  | none => s
  | some f =>
    let bk := f.bkey k
    let c : Ctx := ⟨s, k, f, l.reqs.map (·.1), coreOfFloe k, bk, s.grid (s.block bk).grid, false, []⟩
    if (s.block bk).stops ≠ [] ∨ s.stopMet bk ∨ !f.wait.retried then s
    else match c.checkHome (l.reqs.map fun q => ⟨q.1, q.2.1, q.2.2⟩) l.n false true l.mark with
    | .ok (s, accs) =>
      let c := { c with s := s }
      let rs : List (Nat × Req) := accs.zipIdx.map fun a => (l.id + a.2, { c.req a.1 l.n .load l.mark with
        signed := some l.ty, pend := some l.pend, coord := l.coord, group := l.id })
      { s.modFloe k fun f => { f with late := f.late.erase l } with net := rs.foldl (fun t r => put t r.1 r.2) s.net }
    | .error (.page s fs w _) =>
      let t := (s.modFloe k fun f => { f with late := f.late.map fun x => if x = l then { x with waits := true } else x }).pageFault k fs w false
      -- While the fault unit is full the walk is made again later (R331).
      (match ((t.floe? k).map fun f => f.wait : Option Wait) with
        | some (.page _ [] _) => s
        | _ => t)
    | .error (.stall s) => s
    | .error (.trap code lanes addr) => s.lateTrap k l code lanes addr
    | .error .poison => s.fatalStop (s.block bk).grid (some (coreOfFloe k))
    | .error _ => s

/-- TLB_WALK_COMPLETE: a leaf goes into the core's TLB, and a load that has issued and waits for the walk goes on (R64, R330). -/
def execTlbWalkComplete (c : CoreId) (ctx va : Nat) (write : Bool) (s : State) : Host.Outcome State Fault Refusal :=
  let core := CoreId.key c
  let t := match s.walk ctx va write with
    | .ok leaf size => s.tlbFill core ctx va leaf size
    | _ => s
  match (if write then none else s.lateAt core ctx va) with
  | none => .next t
  | some (k, l) => .next ((t.walkLate k l).settleDue 64)

/-- Pages of a die and context not yet sent, oldest first. -/
def State.newPages (s : State) (die ctx : Nat) : List FPage := s.fpages.filter fun p => p.die == die && p.ctx == ctx && p.prg.isNone

/-- The pages of the group that a die and context would send, when it is due (R332). -/
def State.dueGroup (s : State) (die ctx : Nat) : List FPage :=
  let ps := s.newPages die ctx
  let cap := min 32 s.priAlloc
  match ps with
  | [] => []
  | p :: _ => if 32 ≤ ps.length ∨ cap ≤ ps.length ∨ p.since + 256 ≤ s.clock die then ps.take cap else []

/-- The group fits beside the requests outstanding. -/
def State.groupFits (s : State) (g : List FPage) : Bool :=
  g ≠ [] && decide ((s.fpages.filter fun p => p.prg.isSome).length + g.length ≤ s.priAlloc)

/-- Another die comes first: it has a group due and is nearer after the die served last. -/
def State.dieBehind (s : State) (die : Nat) : Bool :=
  let pos (d : Nat) : Nat := (d + 16 - s.pkg.priLast - 1) % 8
  (List.range 8).any fun d => decide (pos d < pos die) && (List.range 64).any fun c => s.groupFits (s.dueGroup d c)

/-- PAGE_REQUEST_GROUP_SEND (R332). -/
def execPageRequestGroupSend (die ctx : Nat) (s : State) : Host.Outcome State Fault Refusal :=
  let g := s.dueGroup die ctx
  if s.pkg.priStop ∨ 8 ≤ die ∨ 64 ≤ ctx ∨ !s.groupFits g ∨ s.dieBehind die then .next s
  else
    let pasid := s.ctxPasid ctx
    let used := s.fpages.filterMap fun p => if s.ctxPasid p.ctx = pasid then p.prg else none
    match (List.range 512).find? fun i => !used.contains i with
    | none => .next s
    | some prg =>
      let s := g.zipIdx.foldl (fun s e => s.send (.pageRequest pasid (e.1.base / 4096) e.1.write prg (decide (e.2 + 1 = g.length)))) s
      .next { s with
        fpages := s.fpages.map fun p => if g.contains p then { p with prg := some prg } else p
        pkg := { s.pkg with priLast := die } }

/-! ## The host's answer (R333, R337, R441) -/

/-- A page that was answered: context, base, kind. -/
abbrev PKey := Nat × Nat × Bool

def without (ps ans : List PKey) : List PKey := ps.filter fun p => !ans.contains p
def meetsAny (ps ans : List PKey) : Bool := ps.any ans.contains

/-- A suspended floe meets its answer: an entry of its log is cancelled with an imprecise fault, an instruction traps in the lanes of the
answered pages (R333, R336, R441). -/
def State.pageBadFloe (s : State) (k : Nat) (code ecode : Nat) (vas : List (Nat × Nat × Nat)) (ans : List PKey) (entry : Bool) : State :=
  match s.floe? k with
  | none => s
  | some f =>
    let l := f.late.find? (·.waits)
    let hit := vas.filter fun v => ans.any fun a => a.2.1 == v.2.2
    let va := (hit.headD (0, (ans.headD (0, 0, false)).2.1, 0)).2.1
    let s := s.modFloe k fun f => { f with
      wait := if f.trap.isSome then .trap else .none, late := f.late.map fun l => { l with waits := false } }
    if entry then
      match f.log with
      | [] => s
      | e :: es =>
        let kept := (keptEntries [e] es).filter fun x => match x with
          | .stream p _ _ _ => (look f.ports p).isSome
          | _ => false
        (s.modFloe k fun f => { f with log := kept ++ es }).addDue (f.bkey k) ecode va (e.coordOr f.coord).toNat
    else match l with
      | some l => s.lateTrap k { l with waits := false } code (hit.map (·.1)) va
      | none => s.takeTrap k code (hit.map (·.1)) va

/-- Success for the floes, copies, write-backs and matrix operations of a die. -/
def State.workGood (s : State) (die : Nat) (ans : List PKey) : State :=
  let mine (core : Nat) : Bool := dieOf core == die
  { s with
    floes := s.floes.map fun e => match e.2.wait with
      | .page vas ps en =>
        if mine (coreOfFloe e.1) && meetsAny ps ans then
          (e.1, { e.2 with
            wait := if without ps ans ≠ [] then .page vas (without ps ans) en else if e.2.trap.isSome then .trap else .none
            late := if without ps ans ≠ [] then e.2.late else e.2.late.map fun l => { l with waits := false } })
        else e
      | _ => e
    copies := s.copies.map fun e => if mine e.2.core then (e.1, { e.2 with held := without e.2.held ans }) else e
    wbs := s.wbs.map fun e => if mine e.2.core then (e.1, { e.2 with held := without e.2.held ans }) else e
    mmas := s.mmas.map fun e => if e.2.die = die then (e.1, { e.2 with pages := without e.2.pages ans }) else e }

/-- Success: the work of a die that waits for the pages goes on, and denied host pages are asked for again. -/
def State.pagesGood (s : State) (die : Nat) (ans : List PKey) : State :=
  { s.workGood die ans with
    tasks := s.tasks.map fun t => if dieOf t.core = die then { t with pages := without t.pages ans } else t
    tlb := s.tlb.filter fun e => !(bits e.2.leaf.toNat 63 63 == 1 && ans.any fun a => a.1 == e.2.ctx &&
      decide (e.2.base ≤ a.2.1 ∧ a.2.1 < e.2.base + e.2.size) && (bits e.2.leaf.toNat 0 0 == 0 || bits e.2.leaf.toNat 3 3 == 0)) }

/-- Invalid Request or Response Failure for the floes, copies, write-backs and matrix operations of a die: each faults. -/
def State.workBad (s : State) (die : Nat) (ans : List PKey) (code ecode : Nat) : State :=
  let floes := s.floes.filterMap fun e => match e.2.wait with
    | .page vas ps en => if dieOf (coreOfFloe e.1) = die ∧ meetsAny ps ans then some (e.1, vas, en) else none
    | _ => none
  let copies := s.copies.filter fun e => dieOf e.2.core == die && meetsAny e.2.held ans
  let wbs := s.wbs.filter fun e => dieOf e.2.core == die && meetsAny e.2.held ans
  let mmas := s.mmas.filter fun e => e.2.die == die && meetsAny e.2.pages ans
  let s := copies.foldl (fun s e => s.copyLost e.1 e.2 ecode e.2.fva) s
  let s := wbs.foldl (fun s e => { s with wbs := del s.wbs e.1 }.addDue e.2.block ecode e.2.fva e.2.coord.toNat) s
  let s := mmas.foldl (fun s e => s.mmaGiveUp e.1 ecode e.2.fva) s
  floes.foldl (fun s e => s.pageBadFloe e.1 code ecode e.2.1 ans e.2.2) s

/-- The address of a task's fault on an answered page. -/
def Task.badVa (t : Task) (ans : List PKey) : Nat :=
  match t.vas.find? fun v => ans.any fun a => a.2.1 == v.2 with
  | some v => v.1
  | none => ((t.pages.find? ans.contains).map (·.2.1)).getD 0

/-- Invalid Request or Response Failure: every piece of work that waits for the pages faults. -/
def State.pagesBad (s : State) (die : Nat) (ans : List PKey) (code ecode : Nat) : State :=
  let tasks := s.tasks.filter fun t => dieOf t.core == die && meetsAny t.pages ans
  tasks.foldl (fun s t => s.pageBadTask t code (t.badVa ans)) (s.workBad die ans code ecode)

/-- A preempted context meets the answer when it is resumed (R333, R312). -/
def State.keepAnswer (s : State) (ctx die : Nat) (ans : List PKey) (code ecode : Nat) : State :=
  { s with saved := s.saved.map fun x => if x.ctx = ctx then { x with answers := x.answers ++ [(die, ans, code, ecode)] } else x }

/-- PRG_RESPONSE: the answer applies to every page of the group (R333). -/
def execPrgResponse (pasid : BitVec 20) (prg : Nat) (resp : PrgResp) (s : State) : Host.Outcome State Fault Refusal :=
  let mine (p : FPage) : Bool := p.prg == some prg && s.ctxPasid p.ctx == pasid
  match s.fpages.filter mine with
  | [] => .next s
  | p :: ps =>
    let ans : List PKey := (p :: ps).map fun p => (p.ctx, p.base, p.write)
    let s := { s with fpages := s.fpages.filter fun p => !mine p }
    .next ((match resp with
      | .success => (s.pagesGood p.die ans).keepAnswer p.ctx p.die ans 0 0
      | .invalid => (s.pagesBad p.die ans 0x001B 0x8008).keepAnswer p.ctx p.die ans 0x001B 0x8008
      | .failure => ({ s with pkg := { s.pkg with priStop := true } }.pagesBad p.die ans 0x001A 0x8009).keepAnswer p.ctx p.die ans 0x001A 0x8009
      ).noteDone.settleDue 64)

/-- A task held after a Response Failure goes on with its grid: its pages are walked again, and requested again where still absent (R337);
it stays held while the fault unit is full or a host page's translation has not come. -/
def State.retryTask (s : State) (t : Task) : State :=
  let ctx := (s.grid t.grid).ctx
  let ws := t.pages.map fun p =>
    let va := ((t.vas.find? fun v => v.2 == p.2.1).map (·.1)).getD p.2.1
    (va, s.xlat t.core ctx va p.2.2, p.2.2)
  match ws.find? (·.2.1 == .malformed), ws.find? (·.2.1 == .poison), ws.find? (·.2.1 == .ats) with
  | some w, _, _ => s.pageBadTask t 0x001B w.1
  | _, some _, _ => s.fatalStop t.grid (some t.core)
  | _, _, some w => s.askAts t.core ctx w.1
  | _, _, _ =>
    let need := ws.filter fun w => match w.2.1 with
      | .ok _ _ => false
      | _ => true
    let r := need.foldl (fun (a : Option (List PKey) × State) q => match a.1 with
      | none => a
      | some ps => match a.2.openPage (dieOf t.core) ctx q.1 q.2.1 q.2.2 with
        | (some p, s) => (some (if ps.contains p then ps else ps ++ [p]), s)
        | (none, s) => (none, s)) (some [], s)
    match r.1 with
    | none => r.2
    | some ps => { r.2 with tasks := r.2.tasks.map fun x => if x = t then { x with pages := ps, failed := false } else x }

/-- TASK_REPLACE: an aborted task whose pages are answered and whose operations are over is placed again on its core (R334, R442). -/
def execTaskReplace (n : Nat) (s : State) : Host.Outcome State Fault Refusal :=
  match s.tasks[n]? with
  | none => .next s
  | some t =>
    if t.doomed then .next (if s.runs t.grid then { s with tasks := s.tasks.eraseIdx n }.killTask t else s)
    else if t.failed then .next ((if s.mayPlace t.grid then s.retryTask t else s).settleDue 64)
    else if t.pages ≠ [] ∨ t.ops ≠ [] ∨ !s.mayPlace t.grid ∨ !s.pkg.live.getLsbD (dieOf t.core) ∨ !s.roomOn (s.grid t.grid) t.core then .next s
    else
      match { s with tasks := s.tasks.eraseIdx n }.startBlock t.grid t.core t.index t.drift t.drf t.clusBase t.recs with
      | some (s, _) => .next s
      | none => .next s

/-! ## ATS (R324) -/

/-- ATS_TRANSLATION_COMPLETION: the answer to a Translation Request of a core is cached like a leaf; one that grants no read denies every
access. The device's own writes that waited for it are made. -/
def execAtsTranslationCompletion (c : CoreId) (ctx va frame size : Nat) (read write : Bool) (s : State) : Host.Outcome State Fault Refusal :=
  let core := CoreId.key c
  if size = 0 then .next s else
  let base := va / size * size
  let mine (q : Nat × Nat × Nat) : Bool := q.1 == core && q.2.1 == ctx && decide (base < 4096 * q.2.2 + 4096 ∧ 4096 * q.2.2 < base + size)
  if !s.atsOut.any mine then .next s
  else
    let leaf := 2 ^ 63 + bits frame 62 8 * 256 + (if write then 8 else 0) + 2 + (if read then 1 else 0)
    let s := { s with atsOut := s.atsOut.filter fun q => !mine q }
    match s.walk ctx va false with
    | .ats =>
      .next (s.tlbPut core ⟨ctx, base, size, BitVec.ofNat 64 leaf⟩).flushDev
    | _ => .next s.flushDev

/-- ATS_INVALIDATE_REQUEST: an invalidation of the context that the PASID names. -/
def execAtsInvalidateRequest (pasid : BitVec 20) (va size : Nat) (s : State) : Host.Outcome State Fault Refusal :=
  match (List.range 64).find? fun c => s.ctxVal c && s.ctxPasid c == pasid with
  | none => .next (s.send (.invalidateCompletion pasid))
  | some c => .next { s with invals := s.invals ++ [{ ctx := c, range := some (va, va + size), ats := true }] }

/-! ## Invalidation (R323) -/

/-- The range that an invalidation of one address covers: its page at whatever size it is mapped or held, or was mapped by the leaf that
has been cleared where the walk ends (DEDUCED, log 71). -/
def State.pageRange (s : State) (ctx va : Nat) : Nat × Nat :=
  let held := (s.tlb.filter fun e => e.2.ctx == ctx && decide (e.2.base ≤ va ∧ va < e.2.base + e.2.size)).map (·.2.size)
  let n := held.foldl max (walkSpan s va 4 1 (s.root ctx))
  (va / n * n, va / n * n + n)

def inRange (r : Option (Nat × Nat)) (va n : Nat) : Bool :=
  match r with
  | none => true
  | some (lo, hi) => decide (va < hi ∧ lo < va + n)

/-- A logged entry that carries a translation of the range (R323). -/
def LogEnt.covered (r : Option (Nat × Nat)) : LogEnt → Bool
  | .store as | .red as _ _ | .stream _ _ _ as => as.any fun a => inRange r a.va a.n
  | _ => false

/-- A floe of the context whose log must be committed. -/
def State.coveredFloe (s : State) (ctx : Nat) (r : Option (Nat × Nat)) (e : Nat × Floe) : Bool :=
  (s.grid (s.block (e.2.bkey e.1)).grid).ctx == ctx && e.2.log.any (·.covered r)

/-- The device commits a log itself; an entry that cannot begin suspends the floe (R323, R336). -/
def State.commitByDevice (s : State) (k : Nat) : State :=
  let r := s.commit k
  match r.2 with
  | some (va, x) => r.1.commitFailed k va x
  | none => r.1

/-- Run an operation on the blocks, threads, floes, engines and accumulators that a preempted context left (R312). -/
def State.within (s : State) (x : Saved) (op : State → State) : State :=
  let u : State := { s with blocks := x.blocks, threads := x.threads, floes := x.floes, copies := x.copies, wbs := x.wbs }
  let t := op (x.allocs.foldl (fun u a => u.loadPiece x.ctx (.banks a.1 a.2.first a.2.cnt)) u)
  { t with
    blocks := s.blocks, threads := s.threads, floes := s.floes, copies := s.copies, wbs := s.wbs, accs := s.accs
    saved := t.saved.map fun y => if y.ctx = x.ctx then
      { y with blocks := t.blocks, threads := t.threads, floes := t.floes, copies := t.copies, wbs := t.wbs } else y }

/-- Logs of the context that hold an entry of a range are committed, those of a preempted one too. -/
def State.commitCovered (s : State) (ctx : Nat) (r : Option (Nat × Nat)) : State :=
  let go (s : State) : State := ((s.floes.filter (s.coveredFloe ctx r)).map (·.1)).foldl (fun s k => s.commitByDevice k) s
  (s.saved.filter (·.ctx == ctx)).foldl (fun s x => s.within x go) (go s)

/-- One command that held a floe is over (R326, R385). -/
def State.releaseCmd (s : State) (k : Option Nat) : State :=
  match k with
  | some k => s.modFloe k fun f => { f with cmd := match f.cmd with
      | some n => if n ≤ 1 then none else some (n - 1)
      | none => none }
  | none => s

/-- The host's command in progress ends (R418). -/
def State.endHostCmd (s : State) (err : Nat) : State := { s with pkg := { s.pkg with cmdOp := none, cmdErr := err } }

/-- A log of the context, a preempted one's too, still holds an entry of a range. -/
def State.logsCovered (s : State) (ctx : Nat) (r : Option (Nat × Nat)) : Bool :=
  (s.floes.any (s.coveredFloe ctx r)) || s.saved.any fun x => x.ctx == ctx && x.floes.any fun e => e.2.log.any (·.covered r)

/-- INVALIDATION_COMPLETE: the TLBs drop the leaf and covered logs are committed; once every access under it is performed, it ends. -/
def execInvalidationComplete (n : Nat) (s : State) : Host.Outcome State Fault Refusal :=
  match s.invals[n]? with
  | none => .next s
  | some i =>
    let r := i.range
    let s := { s with tlb := s.tlb.filter fun e => !(e.2.ctx == i.ctx && inRange r e.2.base e.2.size) }.commitCovered i.ctx r
    if s.logsCovered i.ctx r || (s.net.any fun e => e.2.ctx == i.ctx && !e.2.performed && inRange r e.2.va e.2.n) then
      .next (s.settleDue 64)
    else
      let s := { s with invals := s.invals.eraseIdx n }.releaseCmd i.floe
      let s := if i.host then s.endHostCmd 0 else s
      .next ((if i.ats then s.send (.invalidateCompletion (s.ctxPasid i.ctx)) else s).settleDue 64)

/-! ## Commands of supervisor code (R326) -/

/-- The command that a core started first among those of a register still to be performed, if it has this value; the state without it. -/
def State.takeCmd (s : State) (core csr : Nat) (val : Word) : Option (Cmd × State) :=
  match s.cmds.find? fun c => c.core == core && c.csr == csr with
  | some c => if c.val = val then some (c, { s with cmds := s.cmds.erase c }) else none
  | none => none

/-- A register that a command took when it was written. -/
def Cmd.arg (c : Cmd) (i : Nat) : Nat := (c.args.getD i 0).toNat

/-- The place of a bounds entry in memory (R325). -/
def State.bentAddr (s : State) (ctx i : Nat) : Nat := s.btab ctx + 32 * (i % 4096)

def State.setBent (s : State) (ctx i v : Nat) : State := s.writeN ⟨s.bentAddr ctx i, false⟩ 32 v

/-- The staged entry BENT0 to BENT7 that a command took. -/
def Cmd.staged (c : Cmd) : Nat := (List.range 8).foldl (fun n i => n + c.arg (1 + i) * 2 ^ (32 * i)) 0

/-- BOUNDS_WRITE: BCMD 1. -/
def execBoundsWrite (c : CoreId) (s : State) : Host.Outcome State Fault Refusal :=
  match s.takeCmd (CoreId.key c) 0x209 1 with
  | none => .next s
  | some (x, s) => .next ((s.setBent x.ctx (x.arg 0) x.staged).releaseCmd x.floe)

/-- BOUNDS_READ: BCMD 2. -/
def execBoundsRead (c : CoreId) (s : State) : Host.Outcome State Fault Refusal :=
  let core := CoreId.key c
  match s.takeCmd core 0x209 2 with
  | none => .next s
  | some (x, s) =>
    let e := s.bent x.ctx (x.arg 0)
    .next (((List.range 8).foldl (fun s i => s.setCsr core (0x201 + i) (BitVec.ofNat 32 (e / 2 ^ (32 * i)))) s).releaseCmd x.floe)

/-- BOUNDS_CLEAR: BCMD 3. -/
def execBoundsClear (c : CoreId) (s : State) : Host.Outcome State Fault Refusal :=
  match s.takeCmd (CoreId.key c) 0x209 3 with
  | none => .next s
  | some (x, s) =>
    let i := x.arg 0
    let e := s.bent x.ctx i
    .next ((s.setBent x.ctx i (e - bits e 63 63 * 2 ^ 63)).releaseCmd x.floe)

/-- TLB_INVALIDATE_PAGE: TINVCMD 1 starts an invalidation that holds the floe until it completes. -/
def execTlbInvalidatePage (c : CoreId) (s : State) : Host.Outcome State Fault Refusal :=
  match s.takeCmd (CoreId.key c) 0x212 1 with
  | none => .next s
  | some (x, s) =>
    .next { s with invals := s.invals ++ [{ ctx := x.ctx, range := some (s.pageRange x.ctx (x.arg 0 + x.arg 1 % 65536 * 2 ^ 32)), floe := x.floe }] }

/-- TLB_INVALIDATE_CONTEXT: TINVCMD 2. -/
def execTlbInvalidateContext (c : CoreId) (s : State) : Host.Outcome State Fault Refusal :=
  match s.takeCmd (CoreId.key c) 0x212 2 with
  | none => .next s
  | some (x, s) => .next { s with invals := s.invals ++ [{ ctx := x.ctx, range := none, floe := x.floe }] }

/-! ## Commands of the host (R418) -/

/-- An argument of the command that runs: what the register held when CMDOP was written. -/
def State.cmdArg (s : State) (i : Nat) : Nat := (lookD 0 s.pkg.cmdRun i).toNat

/-- A host command `op` that has started and not begun to wait. -/
def State.hostCmd (s : State) (op : Nat) : Bool := s.pkg.cmdOp == some op && !(s.invals.any (·.host))

/-- INVALIDATE_PAGE: CMDOP 2. -/
def execInvalidatePage (s : State) : Host.Outcome State Fault Refusal :=
  if !s.hostCmd 2 then .next s
  else if 64 ≤ s.cmdArg 0 ∨ 2 ^ 48 ≤ s.cmdArg 1 then .next (s.endHostCmd 1)
  else .next { s with invals := s.invals ++ [{ ctx := s.cmdArg 0, range := some (s.pageRange (s.cmdArg 0) (s.cmdArg 1)), host := true }] }

/-- INVALIDATE_CONTEXT: CMDOP 3. -/
def execInvalidateContext (s : State) : Host.Outcome State Fault Refusal :=
  if !s.hostCmd 3 then .next s
  else if 64 ≤ s.cmdArg 0 then .next (s.endHostCmd 1)
  else .next { s with invals := s.invals ++ [{ ctx := s.cmdArg 0, range := none, host := true }] }

/-- WRITE_BOUNDS_ENTRY: CMDOP 4. -/
def execWriteBoundsEntry (s : State) : Host.Outcome State Fault Refusal :=
  if !s.hostCmd 4 then .next s
  else if 64 ≤ s.cmdArg 0 ∨ 4096 ≤ s.cmdArg 1 ∨ s.memTop < s.cmdArg 2 + 32 then .next (s.endHostCmd 1)
  else .next ((s.setBent (s.cmdArg 0) (s.cmdArg 1) (getN s.mem (s.cmdArg 2) 32)).endHostCmd 0)

/-! ## Resumption (R311, R313) -/

/-- A floe of a save takes up its place again: what it wrote before is its own knowledge (R249, R286). -/
def State.resumeFloe (s : State) (k : Nat) (f : Floe) : State :=
  let own := f.learn [(identFloe k, s.region k)] false
  let s := (s.bumpRegion k).addRfold (coreOfFloe k) own.2
  (s.setFloe k { own.1 with start := s.region k, lastIssue := s.clock (dieOf (coreOfFloe k)) }).markStart k (f.bkey k)

/-- Ranges that a resumption needs: level, memory and run. -/
def SavePiece.range : SavePiece → Option (Space × Nat × Nat × Nat)
  | .pad l pa n => if n = 0 then none else some (l, pa / levelSpan l, pa % levelSpan l, n)
  | _ => none

/-- The cores of a saved context have no resident block and its shares are free. -/
def State.roomToResume (s : State) (sv : Saved) : Bool :=
  let tasks := s.tasks.filter fun t => (s.grid t.grid).ctx == sv.ctx
  ((sv.blocks.map (fun (e : Nat × Block) => e.1 / 32) ++ tasks.map (fun (t : Task) => t.core)).all fun c =>
    slice s.blocks (32 * c) (32 * c + 32) == [] && s.pkg.live.getLsbD (dieOf c)) &&
  (ctxPieces s sv.ctx sv.blocks sv.threads sv.allocs).all fun p => match p.range with
    | some (l, i, a, n) => (s.padUsed l i).all fun u => !runsMeet u (a, n)
    | none => true

def mergeTab {α : Type} (a b : Tab α) : Tab α := a.foldl (fun t e => put t e.1 e.2) b

/-- Put a saved context back. -/
def State.restoreCtx (s : State) (sv : Saved) : State :=
  let s := { s with saved := s.saved.filter fun x => x.ctx ≠ sv.ctx }
  let s := { s with
    blocks := mergeTab sv.blocks s.blocks
    threads := mergeTab sv.threads s.threads }
  let s := (ctxPieces s sv.ctx sv.blocks sv.threads sv.allocs).foldl (fun s p => s.loadPiece sv.ctx p) s
  let s := { s with
    saves := mergeTab sv.saves s.saves
    bins := mergeTab sv.bins s.bins
    starting := s.starting ++ sv.starting
    bars := mergeTab sv.bars s.bars
    cbufs := mergeTab sv.cbufs s.cbufs
    tables := mergeTab sv.tables s.tables
    allocs := s.allocs ++ sv.allocs
    maps := mergeTab sv.maps s.maps
    track := mergeTab sv.track s.track
    race := mergeTab sv.race s.race
    raceBy := mergeTab sv.raceBy s.raceBy
    syncs := mergeTab sv.syncs s.syncs
    copies := mergeTab sv.copies s.copies
    wbs := mergeTab sv.wbs s.wbs
    mmas := mergeTab sv.mmas s.mmas }
  let s := sv.allocs.foldl (fun s a => { s with bankCtx := (List.range a.2.cnt).foldl (fun t i =>
    put t (128 * a.1 + a.2.first + i) (256 * s.nextId + 4 * sv.ctx + 2)) s.bankCtx }) s
  let s := sv.lfsr.foldl (fun s e => s.setLfsr e.1 e.2) s
  let s := sv.floes.foldl (fun s e => s.resumeFloe e.1 e.2) s
  let s := sv.states.foldl (fun s e => s.setGState e.1 e.2) s
  let s := sv.answers.foldl (fun s a => if a.2.2.1 = 0 then s.workGood a.1 a.2.1 else s.workBad a.1 a.2.1 a.2.2.1 a.2.2.2) s
  let s := (sv.blocks.map (·.1)).foldl (fun s bk => s.unstop bk [5]) s
  -- Free bins are opened for threads in overflow (R247), and the dies of the blocks leave S1 (R420).
  (sv.blocks.map (·.1 / 32)).dedup.foldl (fun s c => ((List.range 4).foldl (fun s i => s.fillBins (4 * c + i)) s).wakeDie (dieOf c)) s

/-- CONTEXT_RESUME: the cores are free and no context of higher CPRI waits (R311, R313). -/
def execContextResume (ctx : Nat) (s : State) : Host.Outcome State Fault Refusal :=
  match s.saved.find? (·.ctx == ctx) with
  | none => .next s
  | some sv =>
    if !s.roomToResume sv || s.grids.any (fun e => decide (s.ctxPri ctx < s.ctxPri e.2.ctx) && s.waitsForRoom e) then .next s
    else .next ((s.restoreCtx sv).settleDue 64)

end Sys2Proof.Machine
end

