-- ==== Sys2Proof/Machine/Validate.lean ====
section
/-! DEFINITION. Validation of a segment image before it is installed (R43 to R46, R55, R58 to R60, R62, R63, R66). -/

namespace Sys2Proof.Machine

/-- A check that fails: line, order within the line, reason, POS (R66, R67). -/
structure VFail where
  line : Nat
  ord : Nat
  reason : Nat
  pos : Nat
deriving DecidableEq, Repr, Inhabited

def VFail.rank (f : VFail) : Nat := f.line * 2 ^ 16 + f.ord * 2 ^ 12 + f.reason

/-- The lowest position, and there the lowest reason. -/
def lowestFail (fs : List VFail) : Option VFail :=
  fs.foldl (fun b f => match b with
    | none => some f
    | some x => if f.rank < x.rank then some f else b) none

/-! ## Lines -/

def lineWord (l : BitVec 512) : Nat := bits l.toNat 511 480
def occBad (l : BitVec 512) : Bool := lineOcc l == 0 || decide (5 < lineOcc l)
/-- Occupied slots; a line with a bad OCC counts as having none (R66). -/
def lineSlots (l : BitVec 512) : Nat := if occBad l then 0 else lineOcc l

/-- R45: a chunk's parity bit disagrees. -/
def parityBad (l : BitVec 512) : Bool :=
  (List.range 8).any fun c => (List.range 60).foldl (fun b i => b != l.getLsbD (60 * c + i)) false != l.getLsbD (504 + c)

/-- Every occupied slot of an image in the order of R46: line, slot, its bits. -/
def imageSlots (ls : List (BitVec 512)) : List (Nat × Nat × BitVec 96) :=
  (ls.zipIdx.drop 1).flatMap fun e => (List.range (lineSlots e.1)).map fun n => (e.2, n, lineSlot e.1 n)

def slotInstr (w : BitVec 96) : Option Instr := (Slot.ofBits w).instr

/-! ## Operands -/

/-- Two operands share a register or a predicate; a write of p7 is discarded (R57). -/
def opdMeet : Opd → Opd → Bool
  | .reg a n _, .reg b m _ => decide (a.toNat < 248 ∧ b.toNat < 248 ∧ a.toNat < b.toNat + m ∧ b.toNat < a.toNat + n)
  | .pred a, .pred b => a == b && a != 7#8
  | .ureg a, .ureg b => a == b
  | _, _ => false

def opdsMeet (as bs : List Opd) : Bool := as.any fun a => bs.any (opdMeet a)

/-- What an instruction reads, its guard predicate included. -/
def Instr.reads (i : Instr) : List Opd :=
  (if i.isTerm || i == .nop then [] else [.pred (i.head.pred.zeroExtend 8)]) ++ i.srcs

/-- X-class (R69). -/
def Instr.xClass : Instr → Bool
  | .atab _ | .satt _ | .mma _ | .cpbox _ | .cpred _ | .tmov _ | .mapr _ | .cbinit _ => true
  | _ => false

/-- I-class (R50, R69). -/
def Instr.iClass (i : Instr) : Bool :=
  (match intRow i with
    | some (_, o) => o.form == .i
    | none => false) ||
  (match fpRow i with
    | some (_, o) => o.isImm
    | none => false) ||
  (match i with
    | .trap _ _ | .csrr _ _ _ | .csrw _ _ _ | .csrwSet _ _ _ | .csrwClr _ _ _ | .brk _ _ _ | .prog _ _ | .mark _ _ | .markValue _ _ _ => true
    | _ => false)

/-- Instructions that no pair may hold (R62). -/
def Instr.alone (i : Instr) : Bool :=
  i.isTerm || Instr.xClass i ||
  (match i with
    | .spawn _ | .barArw _ | .barArv _ | .barWt _ | .barExp _ | .barinit _ _ _ _ | .trap _ _ | .fence _ _ _ | .commit | .mfence | .mwait
    | .csrr _ _ _ | .csrw _ _ _ | .csrwSet _ _ _ | .csrwClr _ _ _ | .eret _ | .haltGrid _ | .haltCtx _ | .brk _ _ _ => true
    | _ => false)

/-- The instruction names a queue port. -/
def Instr.namesPort (i : Instr) : Bool :=
  (match i with
    | .satt _ | .sdet _ => true
    | _ => false) ||
  (i.srcs ++ i.dsts).any fun o => match o with
    | .reg f _ _ => decide (248 ≤ f.toNat)
    | _ => false

/-- R62: slots `i` and `i + 1` may not issue together. -/
def pairBad (a b : Option Instr) : Bool :=
  match a, b with
  | some x, some y =>
    Instr.alone x || Instr.alone y || opdsMeet x.dsts (Instr.reads y) || opdsMeet y.dsts (Instr.reads x ++ x.dsts) ||
    ((memRow x).isSome && (memRow y).isSome) || (Instr.namesPort x && Instr.namesPort y)
  | _, _ => true

/-! ## Checks -/

/-- A slot's own contents and its lookahead: `rest` are the slots after it, `last` whether the terminator stands here. -/
def slotFails (regs kregs : Nat) (line n : Nat) (w : BitVec 96) (last : Bool) (rest : List (BitVec 96)) : List VFail :=
  let f (r : Nat) : VFail := ⟨line, n, r, n⟩
  (match decode w with
    | .error r => [f r.code]
    | .ok _ => []) ++
  match slotInstr w with
  | none => []
  | some i =>
    let os := i.srcs ++ i.dsts
    let la := (Slot.ofBits w).la.toNat
    (if os.any fun o => decide (regs < o.regTop ∨ kregs < o.uregTop) then [f 0x06] else []) ++
    (if i.isTerm ∧ !last then [f 0x0A] else []) ++
    (if 0 < la ∧ i.mayLook ∧ (rest.length < la ∨ (rest.take la).any fun x => match slotInstr x with
        | some j => opdsMeet i.dsts j.dsts
        | none => false) then [f 0x05] else [])

/-- The line word of an instruction line, and unoccupied slots that hold a bit. -/
def lineFails (line : Nat) (l : BitVec 512) : List VFail :=
  let w := lineWord l
  let f (r : Nat) : VFail := ⟨line, 5, r, 5⟩
  let occ := lineSlots l
  (if parityBad l then [f 0x01] else []) ++ (if bits w 11 0 ≠ 0 then [f 0x02] else []) ++ (if occBad l then [f 0x03] else []) ++
  (if (List.range 5).any fun n => bitOf w (19 + n) && decide (occ ≤ n) then [f 0x08] else []) ++
  (if (List.range 4).any fun i => bitOf w (15 + i) && (decide (occ ≤ i + 1) || pairBad (slotInstr (lineSlot l i)) (slotInstr (lineSlot l (i + 1))))
    then [f 0x07] else []) ++
  (if occBad l then [] else ((List.range 5).filter fun n => decide (occ ≤ n ∧ lineSlot l n ≠ 0)).map fun n => ⟨line, n, 0x03, n⟩)

/-- The header and its line word (R58, R59). -/
def headerFails (segid : Nat) (ls : List (BitVec 512)) : List VFail :=
  let l := ls.getD 0 0
  let h := l.toNat
  let f (r : Nat) : VFail := ⟨0, 0, r, 6⟩
  let w (r : Nat) : VFail := ⟨0, 1, r, 5⟩
  let cnt := bits h 50 45
  let ent (e : Nat) : Nat := bits h (96 + 12 * e + 11) (96 + 12 * e)
  let below := (List.range 32).filter (· < cnt)
  (if bits h 95 51 ≠ 0 ∨ bits h 44 44 ≠ 0 ∨ (below.any fun e => ent e % 2 ≠ 0) ∨
    ((List.range 32).filter (cnt ≤ ·)).any fun e => ent e ≠ 0 then [f 0x02] else []) ++
  (if (below.any fun e =>
      let line := ent e / 16
      let slot := ent e / 2 % 8
      let x := ls.getD line 0
      line == 0 || decide (bits h 27 20 < line ∨ lineSlots x ≤ slot) || !bitOf (lineWord x) (19 + slot)) then [f 0x08] else []) ++
  (if cnt = 0 ∨ 32 < cnt ∨ 64 < bits h 42 36 ∨ bits h 35 28 = 0 ∨ 248 < bits h 35 28 ∨ bits h 27 20 = 0 ∨ bits h 19 0 ≠ segid
    then [f 0x09] else []) ++
  (if parityBad l then [w 0x01] else []) ++ (if bits (lineWord l) 23 0 ≠ 0 then [w 0x02] else [])

/-- The slots of an image, each with what follows it. -/
def allSlotFails (regs kregs : Nat) (lastLine : Nat) (lastSlot : Nat) : List (Nat × Nat × BitVec 96) → List VFail
  | [] => []
  | (line, n, w) :: rest =>
    slotFails regs kregs line n w (decide (line = lastLine ∧ n = lastSlot)) (rest.map (·.2.2)) ++ allSlotFails regs kregs lastLine lastSlot rest

/-- R66: the fault of a segment image requested under an id, if it fails a check. -/
def validate (segid : Nat) (ls : List (BitVec 512)) : Option VFail :=
  let h := (ls.getD 0 0).toNat
  let n := bits h 27 20
  let lastOcc := lineSlots (ls.getD n 0)
  let term := match slotInstr (lineSlot (ls.getD n 0) (lastOcc - 1)) with
    | some i => decide (0 < lastOcc) && i.isTerm
    | none => false
  lowestFail (headerFails segid ls ++ ((ls.zipIdx.drop 1).flatMap fun e => lineFails e.2 e.1) ++
    allSlotFails (bits h 35 28) (bits h 42 36) n (lastOcc - 1) (imageSlots ls) ++
    (if n ≠ 0 ∧ !term then [⟨n, 5, 0x0A, 5⟩] else []))

/-! ## Patching and parity -/

/-- The line with parity recomputed (R45). -/
def withParity (l : BitVec 512) : BitVec 512 :=
  let p := (List.range 8).foldl (fun n c =>
    n + if (List.range 60).foldl (fun b i => b != l.getLsbD (60 * c + i)) false then 2 ^ (504 + c) else 0) 0
  BitVec.ofNat 512 (bits l.toNat 503 0 + p)

/-- The line with a word in the immediate of a slot (R341). -/
def patchSlot (l : BitVec 512) (slot : Nat) (w : Nat) : BitVec 512 := withParity (l ||| BitVec.ofNat 512 (w % 2 ^ 32 * 2 ^ (96 * slot + 12)))

end Sys2Proof.Machine
end

