-- ==== Sys2Proof/Machine/Segment.lean ====
section
/-! DEFINITION. The segment service: requests, delivery, links, eviction, recall, unloading; and the driver's directory events (R66 to R68,
R338 to R348, R351, R353). -/

namespace Sys2Proof.Machine

/-! ## Requests (R344, R347) -/

/-- The key of the segment that a floe needs and has not: it waits at an entry, or its copy was evicted or recalled. -/
def State.needsSeg (s : State) (k : Nat) (f : Floe) : Option (Nat × Nat × Nat) :=
  let g := s.grid (s.block (f.bkey k)).grid
  match f.wait with
  | .seg cont => some (g.ctx, g.code, bits cont.toNat 31 12)
  | .bar _ _ _ | .cbacq _ | .mwait | .dopen _ _ => none
  | _ => if (s.floeCopy k f).isNone then some (g.ctx, g.code, f.segid) else none

/-- SEGMENT_REQUEST: a floe asks its die's service; a request outstanding for its core is joined. -/
def execSegmentRequest (f : FloeId) (s : State) : Host.Outcome State Fault Refusal :=
  let k := FloeId.key f
  let core := coreOfFloe k
  match s.floe? k with
  | none => .next s
  | some x =>
    match s.needsSeg k x with
    | none => .next s
    | some (ctx, code, seg) =>
      if (s.block (x.bkey k)).stops ≠ [] then .next s
      else if (s.copyOf core ctx code seg).isSome then .next ((s.tryEnter k).settleDue 64)
      else
        let r : SegReq := ⟨dieOf core, core, ctx, code, seg⟩
        .next { s with segReqs := if s.segReqs.contains r then s.segReqs else s.segReqs ++ [r] }

/-! ## Fetch, validation and links (R345, R346) -/

/-- A fault of the service: trap code, ADDR, and whether it is kept (R68). -/
abbrev SvcFault := Nat × Nat × Bool

/-- The validation word (R67). -/
def validationWord (reason seg line pos : Nat) : Nat := reason * 2 ^ 32 + seg % 2 ^ 20 * 2 ^ 12 + line % 256 * 16 + pos * 2

/-- Read the lines of an image from one on; the first that cannot be read with its reason. -/
def readLines (s : State) (ctx bidx va : Nat) : List Nat → Except (Nat × Nat) (List (BitVec 512))
  | [] => .ok []
  | n :: ns =>
    match s.codeRead ctx bidx (va + 64 * n) 64 with
    | .error r => .error (n, r)
    | .ok l => match readLines s ctx bidx va ns with
      | .error e => .error e
      | .ok ls => .ok (BitVec.ofNat 512 l :: ls)

/-- Steps 1 to 3 of R344: the image and its segment entry, or the fault with the header line when it was read. -/
def State.fetchSeg (s : State) (ctx code seg : Nat) : Except (SvcFault × List (BitVec 512)) (Nat × List (BitVec 512)) :=
  match s.codeEnt ctx code, s.segEnt ctx code seg with
  | some e, .ok t =>
    let va := codeHdr e + bits t 31 0
    match readLines s ctx (codeBidx e) va [0] with
    | .error (n, r) => .error ((0x0002, validationWord r seg n 7, true), [])
    | .ok h =>
      match readLines s ctx (codeBidx e) va ((List.range (bits (h.getD 0 0).toNat 27 20)).map (· + 1)) with
      | .error (n, r) => .error ((0x0002, validationWord r seg n 7, true), h)
      | .ok ls => match validate seg (h ++ ls) with
        | some f => .error ((0x0002, validationWord f.reason seg f.line f.pos, true), h)
        | none => .ok (t, h ++ ls)
  | _, .error r => .error ((0x0002, validationWord r seg 0 7, true), [])
  | none, _ => .error ((0x0002, validationWord 0x0C seg 0 7, true), [])

/-- The link sites of a segment, read from the site table (R341). -/
def State.linkSites (s : State) (ctx code t : Nat) : Except Nat (List Nat) :=
  match s.codeEnt ctx code with
  | none => .error 0x0C
  | some e =>
    match s.codeRead ctx (codeBidx e) (codeHdr e) 64 with
    | .error r => .error r
    | .ok h =>
      ((List.range (bits t 111 96)).map (bits t 95 64 + ·)).foldl (fun (a : Except Nat (List Nat)) i => match a with
        | .error r => .error r
        | .ok xs => match s.codeRead ctx (codeBidx e) (codeHdr e + bits h 223 192 + 8 * i) 8 with
          | .error r => .error r
          | .ok x => .ok (xs ++ [x])) (.ok [])

/-- A site names no patchable place: the validation word of reason 0x0E (R345). Nonzero bits that R341 shows as zero fail alike (log 29). -/
def siteBad (seg next : Nat) (ls : List (BitVec 512)) (x : Nat) : Option Nat :=
  let line := bits x 7 0
  let slot := bits x 10 8
  let l := ls.getD line 0
  let inside := decide (1 ≤ line ∧ line < ls.length ∧ slot < lineSlots l)
  let w := lineSlot l slot
  let isI := match slotInstr w with
    | some i => Instr.iClass i
    | none => false
  if inside && isI && decide (bits x 47 32 < next ∧ bits w.toNat 43 12 = 0 ∧ bits x 63 48 = 0 ∧ bits x 31 12 = 0) then none
  else some (if inside then validationWord 0x0E seg line slot else validationWord 0x0E seg 0 7)

/-- Resolve external symbol `x` on a die: its entry and the record of its `dbind`, which a kept resolution has too (R346, R352); the name when it
is unbound, or the reason of a failed read. -/
def State.resolveLink (s : State) (die ctx code x : Nat) : Except (Nat × Bool) (Nat × Option Nat × State) :=
  match s.links.find? fun l => l.1 == die && l.2.1 == ctx && l.2.2.1 == code && l.2.2.2.1 == x with
  | some l => .ok (l.2.2.2.2, look s.dirRecs l.2.2.2.2, s)
  | none =>
    match s.codeEnt ctx code with
    | none => .error (0x0C, true)
    | some e =>
      match s.codeRead ctx (codeBidx e) (codeHdr e) 64 with
      | .error r => .error (r, true)
      | .ok h => match s.codeRead ctx (codeBidx e) (codeHdr e + bits h 159 128 + 8 * x) 8 with
        | .error r => .error (r, true)
        | .ok name => match s.bound ctx name with
          | none => .error (name, false)
          | some d => .ok (d, look s.dirRecs d, { s.setRefs d (entRefs (s.dirEnt d) + 1) with links := s.links ++ [(die, ctx, code, x, d)] })

/-- Patch the sites in order: the image, the release records met, the state; or the fault, with the records that the sites before it met. -/
def patchSites (die ctx code seg : Nat) : List Nat → List (BitVec 512) → List Nat → State →
    Except (SvcFault × List Nat × State) (List (BitVec 512) × List Nat × State)
  | [], ls, rs, s => .ok (ls, rs, s)
  | x :: xs, ls, rs, s =>
    match s.resolveLink die ctx code (bits x 47 32) with
    | .error (r, true) => .error ((0x0002, validationWord r seg 0 7, true), rs, s)
    | .error (name, false) => .error ((0x0003, name, false), rs, s)
    | .ok (d, rec', s) =>
      let p := entPtr (s.dirEnt d)
      let line := bits x 7 0
      let l := patchSlot (ls.getD line 0) (bits x 10 8) (if bitOf x 11 then p / 2 ^ 32 else p)
      patchSites die ctx code seg xs (ls.set line l) (rs ++ rec'.toList) s

/-- Steps 1 to 4 of R344: the form or the fault, kept on the die where R68 and R344 keep it; release records that the links met. -/
def State.serve (s : State) (die ctx code seg : Nat) : (Except SvcFault (List (BitVec 512))) × List (BitVec 512) × List Nat × State :=
  let keep (s : State) (ls : List (BitVec 512)) (f : Option (Nat × DWord)) : State :=
    { s with forms := s.forms ++ [{ die := die, ctx := ctx, code := code, seg := seg, lines := ls, fault := f }] }
  let fail (s : State) (f : SvcFault) (h : List (BitVec 512)) (rs : List Nat) : (Except SvcFault (List (BitVec 512))) × List (BitVec 512) × List Nat × State :=
    (.error f, h, rs, if f.2.2 then keep s h (some (f.1, BitVec.ofNat 64 f.2.1)) else s)
  match s.forms.find? fun f => f.die == die && f.ctx == ctx && f.code == code && f.seg == seg with
  | some f => match f.fault with
    | some (c, a) => (.error (c, a.toNat, true), f.lines, [], s)
    | none => (.ok f.lines, f.lines, [], s)
  | none =>
    match s.fetchSeg ctx code seg with
    | .error (f, h) => fail s f h []
    | .ok (t, ls) =>
      let next := match s.codeEnt ctx code with
        | some e => match s.codeRead ctx (codeBidx e) (codeHdr e) 64 with
          | .ok h => bits h 127 96
          | .error _ => 0
        | none => 0
      match s.linkSites ctx code t with
      | .error r => fail s (0x0002, validationWord r seg 0 7, true) ls []
      | .ok sites =>
        match sites.findSome? (siteBad seg next ls) with
        | some w => fail s (0x0002, w, true) ls []
        | none => match patchSites die ctx code seg sites ls [] s with
          | .error (f, rs, s) => fail s f ls rs
          | .ok (ls, rs, s) => (.ok ls, ls, rs, keep s ls none)

/-! ## Shipping (R344, R347) -/

/-- A floe is at a position that it does not leave while it waits (R347). -/
def Floe.keepsCode (f : Floe) : Bool :=
  match f.wait with
  | .seg _ | .bar _ _ _ | .cbacq _ | .mwait | .dopen _ _ => false
  | _ => true

/-- A copy is held: a floe of its core, in a floe slot or a floe save, is positioned in it and does not wait where a copy may leave. -/
def State.copyHeld (s : State) (cid : Nat) (c : SegCopy) : Bool :=
  let on (k : Nat) (f : Floe) : Bool :=
    let g := s.grid (s.block (f.bkey k)).grid
    f.keepsCode && (f.copy == cid || ((look s.segs f.copy).isNone && !c.stale && g.ctx == c.ctx && g.code == c.code && f.segid == c.seg))
  (slice s.floes (128 * c.core) (128 * c.core + 128)).any (fun e => on e.1 e.2) ||
  (slice s.saves (256 * c.core) (256 * c.core + 256)).any fun e => on (32 * (e.1 / 64)) e.2

/-- Lowest line from which `n` consecutive lines of a core's store are free. -/
def State.freeLines (s : State) (core n : Nat) : Option Nat :=
  lowestBase ((s.segs.filter fun e => e.2.core == core).map fun e => (e.2.base, e.2.lines.length)) n 1024

/-- Evict unheld copies, least recently entered first, until `n` consecutive lines are free: the first line. -/
def evictFor (core n : Nat) : Nat → State → Option (Nat × State)
  | 0, _ => none
  | fuel + 1, s =>
    match s.freeLines core n with
    | some b => some (b, s)
    | none =>
      match leastBy (fun (e : Nat × SegCopy) => e.2.entered) (s.segs.filter fun e => e.2.core == core && !s.copyHeld e.1 e.2) with
      | none => none
      | some e => evictFor core n fuel { s with segs := del s.segs e.1 }

/-- Floes of a core that need a key. -/
def State.waiters (s : State) (core ctx code seg : Nat) : List (Nat × Floe) :=
  (slice s.floes (128 * core) (128 * core + 128)).filter fun e => s.needsSeg e.1 e.2 == some (ctx, code, seg)

/-- Ship a form to a core, if it fits: every waiting floe is released. -/
def State.ship (s : State) (core ctx code seg : Nat) (ls : List (BitVec 512)) : State :=
  match evictFor core ls.length 1025 s with
  | none => s
  | some (base, s) =>
    let ws := s.waiters core ctx code seg
    let n := s.newId
    let now := s.clock (dieOf core)
    let c : SegCopy := { core := core, ctx := ctx, code := code, seg := seg, lines := ls, base := base, entered := now }
    let s := { n.2 with
      segs := put n.2.segs n.1 c
      segReqs := s.segReqs.filter fun r => !(r.core == core && r.ctx == ctx && r.code == code && r.seg == seg) }
    -- The store's lines are written (R412).
    let s := s.takeInjection 5 core (64 * base) (64 * ls.length)
    ws.foldl (fun s e => match e.2.wait with
      | .seg _ => s.tryEnter e.1
      | _ => s.modFloe e.1 fun f => { f with copy := n.1 }) s

/-- COORD of a floe whose segment failed (R67): the entry it waited for, when the request read the entry table and it names a position; 0 for a
floe that asks again for a segment in whose midst it stands. -/
def entryCoord (h : List (BitVec 512)) (seg : Nat) (f : Floe) : Nat :=
  match f.wait with
  | .seg cont =>
    match h with
    | [] => 0
    | l :: _ =>
      let e := bits cont.toNat 11 4
      let p := hdrEntry l.toNat e
      if e < bits l.toNat 50 45 ∧ 1 ≤ p.1 ∧ p.2 ≤ 4 then (coordOf seg p.1 p.2).toNat else 0
  | _ => 0

/-- The service's fault in every floe of a core that waits for the key. -/
def State.svcFault (s : State) (core ctx code seg : Nat) (f : SvcFault) (h : List (BitVec 512)) : State :=
  let ws := s.waiters core ctx code seg
  let s := { s with segReqs := s.segReqs.filter fun r => !(r.core == core && r.ctx == ctx && r.code == code && r.seg == seg) }
  ws.foldl (fun s e => match s.floe? e.1 with
    | some x => if x.fid = e.2.fid ∧ (s.block (x.bkey e.1)).stops = [] then
        s.takeTrapAt e.1 f.1 (x.lanes.map (·.1)) f.2.1 (entryCoord h seg x) else s
    | none => s) s

/-- A result is kept, so that a delivery fetches nothing. -/
def State.formKept (s : State) (die ctx code seg : Nat) : Bool :=
  s.forms.any fun f => f.die == die && f.ctx == ctx && f.code == code && f.seg == seg

/-- SEGMENT_DELIVERY: the service of a die serves a key for every core that waits. It waits for the translation of host pages (R324); a
poisoned granule stops the grids that wait (R408). The links that it resolves are acquires of the waiting floes (R352). -/
def execSegmentDelivery (die ctx code seg : Nat) (s : State) : Host.Outcome State Fault Refusal :=
  let cores := (s.segReqs.filter fun r => r.die == die && r.ctx == ctx && r.code == code && r.seg == seg).map (·.core)
  let ws := cores.flatMap fun c => s.waiters c ctx code seg
  let fetch := !s.formKept die ctx code seg
  if cores = [] then .next s
  else match (if fetch then s.codeWait ctx code seg else none) with
  | some va => .next (s.askAts (cores.headD 0) ctx va)
  | none =>
    if fetch && s.codePoison ctx code seg then
      .next (((ws.map fun e => ((s.block (e.2.bkey e.1)).grid, coreOfFloe e.1)).dedup.foldl (fun (s : State) g => s.fatalStop g.1 (some g.2)) s).settleDue 64)
    else
    let r := s.serve die ctx code seg
    let s := ws.foldl (fun (s : State) e => s.mergeRecs e.1 r.2.2.1) r.2.2.2
    .next ((match r.1 with
      | .error f => cores.foldl (fun (s : State) c => s.svcFault c ctx code seg f r.2.1) s
      | .ok ls => cores.foldl (fun (s : State) c => s.ship c ctx code seg ls) s).settleDue 64)

/-! ## Recall (R348) -/

/-- A recall is accepted: forms are dropped and resident copies are stale. -/
def State.beginRecall (s : State) (ctx code seg : Nat) : State :=
  { s with
    forms := s.forms.filter fun f => !(f.ctx == ctx && f.code == code && f.seg == seg)
    segs := s.segs.map fun e => if e.2.ctx = ctx ∧ e.2.code = code ∧ e.2.seg = seg then (e.1, { e.2 with stale := true }) else e }

/-- A floe of a block that runs, in a floe slot or a floe save, is positioned in a stale copy of the segment. -/
def State.inStale (s : State) (ctx code seg : Nat) : Bool :=
  let on (k : Nat) (f : Floe) : Bool :=
    (s.block (f.bkey k)).stops == [] &&
    (match f.wait with
      | .seg _ => false
      | _ => true) &&
    (match look s.segs f.copy with
      | some c => c.stale && c.core == coreOfFloe k && c.ctx == ctx && c.code == code && c.seg == seg
      | none => false)
  s.floes.any (fun e => on e.1 e.2) || s.saves.any fun e => on (32 * (e.1 / 64)) e.2

/-- A recall ends: stale copies leave the stores. -/
def State.endRecall (s : State) (ctx code seg : Nat) (who : Option Nat) : State :=
  { s with
    segs := s.segs.filter fun e => !(e.2.stale && e.2.ctx == ctx && e.2.code == code && e.2.seg == seg)
    recalls := s.recalls.erase (ctx, code, seg, who) }

/-- A recall for an issuer makes its next move: it begins, or ends once its conditions hold; whether it has ended. -/
def State.recallMove (s : State) (ctx code seg : Nat) (who : Option Nat) : State × Bool :=
  if !s.recalls.contains (ctx, code, seg, who) then
    ({ s.beginRecall ctx code seg with recalls := s.recalls ++ [(ctx, code, seg, who)] }, false)
  else if s.inStale ctx code seg then (s, false)
  else (s.endRecall ctx code seg who, true)

/-- RECALL: CMDOP 1. -/
def execRecall (s : State) : Host.Outcome State Fault Refusal :=
  if !s.hostCmd 1 then .next s
  else if 64 ≤ s.cmdArg 0 ∨ 65536 ≤ s.cmdArg 1 ∨ 2 ^ 20 ≤ s.cmdArg 2 then .next (s.endHostCmd 1)
  else
    let r := s.recallMove (s.cmdArg 0) (s.cmdArg 1) (s.cmdArg 2) none
    .next (if r.2 then r.1.endHostCmd 0 else r.1)

/-! ## Unloading, and the driver's directory events -/

/-- CODE_OBJECT_UNLOAD: with no launch of the object left, forms, faults, copies and link resolutions go and their references are released
(R342, R346). -/
def execCodeObjectUnload (ctx code : Nat) (s : State) : Host.Outcome State Fault Refusal :=
  if s.grids.any fun e => e.2.ctx == ctx && e.2.code == code && e.2.placed then .next s
  else
    let mine (l : Nat × Nat × Nat × Nat × Nat) : Bool := l.2.1 == ctx && l.2.2.1 == code
    let refs := (s.links.filter mine).map (·.2.2.2.2)
    let s := { s with
      forms := s.forms.filter fun f => !(f.ctx == ctx && f.code == code)
      segs := s.segs.filter fun e => !(e.2.ctx == ctx && e.2.code == code)
      links := s.links.filter fun l => !mine l }
    .next (refs.foldl (fun s e => (s.setRefs e (entRefs (s.dirEnt e) - 1)).reclaim e) s)

def BindRec.raw (r : BindRec) : BRec :=
  ⟨r.name.toNat, r.ptr.toNat, r.size.toNat, r.fmt.toNat, decide (r.rsv1 ≠ 0 ∨ r.rsv2 ≠ 0), r.version.toNat⟩

/-- DRIVER_DIRECTORY_COMMAND: the driver's records as one directory operation, under the checks of `dbind` (R342, R352, R358); its status is
answered. -/
def execDriverDirectoryCommand (ctx : Nat) (recs : List BindRec) (s : State) : Host.Outcome State Fault Refusal :=
  let rs := recs.map BindRec.raw
  let st := s.bindStatus ctx rs
  .next ((if st = 0 then s.bindRecs ctx none rs else s).send (.readData st))

/-- RECLGET_WRITE (R351). -/
def execReclgetWrite (ctx : Nat) (value : BitVec 64) (s : State) : Host.Outcome State Fault Refusal :=
  if 64 ≤ ctx then .next s else .next ((s.setCtxReg ctx 0x18 value).drainRecl ctx)

/-- RECLBASE_WRITE (R351). -/
def execReclbaseWrite (ctx : Nat) (value : BitVec 64) (s : State) : Host.Outcome State Fault Refusal :=
  if 64 ≤ ctx then .next s else .next ((s.setCtxReg ctx 0x08 (value &&& 0xFFFFFFF00F)).drainRecl ctx)

end Sys2Proof.Machine
end

