-- ==== Sys2Proof/Machine/System.lean ====
section
/-! DEFINITION. Control and status registers, `eret` and `halt` (R314 to R317, R326, R364, R365, R385, R411). -/

namespace Sys2Proof.Machine

/-! ## Registers -/

/-- The common mask at the time of reading (R305). -/
def State.cmask (s : State) : BitVec 128 :=
  (List.range 8).foldl (fun m d => if s.pkg.live.getLsbD d then m &&& Config.dcap d else m) (BitVec.allOnes 128)

/-- A register that a context without SUP may not name (R314, R326, R364, R411). -/
def csrSuper (n : Nat) (write : Bool) : Bool :=
  decide (0x020 ≤ n ∧ n ≤ 0x027) || (decide (0x200 ≤ n) && (write || !decide (0x330 ≤ n ∧ n ≤ 0x33F)))

/-- Command registers: write-only, they read as zero (R13). -/
def csrCommand (n : Nat) : Bool := n == 0x209 || n == 0x212 || n == 0x301 || n == 0x381

/-- Bits of a core register that a write changes; the others are reserved and ignore writes (R14, R326, R364, R411). -/
def csrMask (n : Nat) : Word :=
  if n = 0x200 then 0xFFF else if n = 0x211 then 0xFFFF else if n = 0x300 then 0x1FFFFF
  else if n = 0x314 then 0x7FFF0F else if n = 0x31C then 0x1F1F else if n = 0x323 then 0x800000FF
  else if n = 0x380 then 0x3FF else if n = 0x38A then 0xF else if n = 0x38D then 0xFF07
  else if csrReadOnly n || csrCommand n || !csrExists n then 0 else 0xFFFFFFFF

/-- Page requests of a die and context sent and not yet answered. -/
def State.prqOut (s : State) (die ctx : Nat) : Nat :=
  (s.fpages.filter fun p => p.die == die && p.ctx == ctx && p.prg.isSome).length

/-- What a core's register reads. -/
def State.coreCsr (s : State) (core ctx n : Nat) : Word :=
  if csrCommand n then 0
  else if n = 0x011 then BitVec.ofNat 32 (lookD 0 s.rfold core)
  else if n = 0x213 then BitVec.ofNat 32 (s.prqOut (dieOf core) ctx)
  else if 0x020 ≤ n ∧ n ≤ 0x023 then (Config.dcap (dieOf core)).extractLsb' (32 * (n - 0x020)) 32
  else if 0x024 ≤ n ∧ n ≤ 0x027 then s.cmask.extractLsb' (32 * (n - 0x024)) 32
  else s.csr core n

/-- Registers that a command takes as they stand when it is written (R326, R411). -/
def cmdRegs (n : Nat) : List Nat :=
  if n = 0x209 then (List.range 9).map (0x200 + ·) else if n = 0x212 then [0x210, 0x211] else if n = 0x381 then [0x380] else []

/-- Queue a command for the unit that performs it (R326, R365, R411), with the floe it holds. -/
def State.queueCmd (s : State) (core ctx n : Nat) (v : Word) (floe : Option Nat) : State :=
  { s with cmds := s.cmds ++ [{ csr := n, val := v, core := core, ctx := ctx, floe := floe, args := (cmdRegs n).map (s.csr core) }] }

/-- Hold a floe for one more command. -/
def State.holdCmd (s : State) (k : Option Nat) : State :=
  match k with
  | some k => s.modFloe k fun f => { f with cmd := some (f.cmd.getD 0 + 1) }
  | none => s

/-- A write of DCMD: it starts a command with its target and arguments, or is ignored with ERR 4 while BUSY; another value sets ERR 3 (R365); commands 8 and 9 hold the writing floe (R385). -/
def State.writeDcmd (s : State) (core ctx : Nat) (v : Word) (floe : Option Nat) : State :=
  if (s.csr core 0x302).getLsbD 0 then s.dstat core 0x400 0xFF00
  else if v = 0 ∨ 9 < v.toNat then s.dstat core 0x300 0xFF3C
  else
    let k := if v = 8 ∨ v = 9 then floe else none
    let args := [0x300, 0x303, 0x304, 0x305].map (s.csr core)
    let s := s.dstat core 0x1 0xFF3C
    let x : Cmd := { csr := 0x301, val := v, core := core, ctx := ctx, floe := k, args := args }
    State.holdCmd { s with cmds := s.cmds ++ [x] } k

/-- A write of a core's register by supervisor code, or by the host through its window (R326, R364, R365, R381, R411). -/
def State.writeCsr (s : State) (core ctx n : Nat) (v : Word) (floe : Option Nat) : State :=
  if n = 0x301 then s.writeDcmd core ctx v floe
  else if n = 0x209 then (if 1 ≤ v.toNat ∧ v.toNat ≤ 3 then (s.queueCmd core ctx n v floe).holdCmd floe else s)
  else if n = 0x212 then (if 1 ≤ v.toNat ∧ v.toNat ≤ 2 then (s.queueCmd core ctx n v floe).holdCmd floe else s)
  else if n = 0x381 then (if 1 ≤ v.toNat ∧ v.toNat ≤ 3 then (s.queueCmd core ctx n v floe).holdCmd floe else s)
  else if n = 0x38D then
    (if v.getLsbD 0 then ((s.setCsr core n (v &&& 0xFF06)).queueCmd core ctx n v floe).holdCmd floe else s.setCsr core n (v &&& 0xFF06))
  else if n = 0x323 then
    let s := if v.getLsbD 31 ∧ !(s.csr core n).getLsbD 31 then (s.setCsr core 0x324 0).setCsr core 0x325 0 else s
    s.setCsr core n (v &&& csrMask n)
  else if n = 0x320 then
    -- Sampling counts its periods from here on (R363).
    let now := s.clock (dieOf (core % 1024))
    { s.setCsr core n v with sched := (List.range 4).foldl (fun t i =>
        put t (4 * core + i) { lookD ({} : Sched) t (4 * core + i) with sampled := now }) s.sched }
  else if csrReadOnly n then s
  else s.setCsr core n (v &&& csrMask n)

/-- What lane `l` of a floe reads from a register (R314). -/
def Ctx.csrVal (c : Ctx) (s : State) (l n : Nat) : Word :=
  let th := s.thread (c.t l)
  if n = 0 then th.status
  else if n = 1 then th.epc
  else if n = 2 then th.ecause
  else if n = 3 then th.eaddr.truncate 32
  else if n = 4 then th.eaddr.extractLsb' 32 32
  else if n = 5 then th.eseq
  else if n = 6 then BitVec.ofNat 32 c.g.arg
  else if n = 7 then BitVec.ofNat 32 (c.g.arg / 2 ^ 32)
  else if n = 0x010 then BitVec.ofNat 32 (c.g.ctx + if s.ctxSup c.g.ctx then 256 else 0)
  else if n = 0x012 then s.lfsrOf c.islot
  else s.coreCsr c.core c.g.ctx n

/-- What a lane writes (R315). -/
def Ctx.csrPut (c : Ctx) (s : State) (l n : Nat) (o : WOp) (v : Word) : State :=
  if n = 0 then s.modThread (c.t l) fun th => { th with status := statusWrite o th.status v }
  else
    let w := o.app (c.csrVal s l n) v
    if n = 0x012 then s.setLfsr c.islot w else s.writeCsr c.core c.g.ctx n w (some c.k)

/-- The privileged trap (R315) and the wait of a STATUS access (R42) come first. -/
def Ctx.csrGate (c : Ctx) (n : Nat) (write : Bool) (go : Res) : Res :=
  if c.act = [] then .done c.s
  else if csrSuper n write ∧ !c.s.ctxSup c.g.ctx then .trap 0x0008 c.act n
  else if n = 0 ∧ c.f.statusWaits then .hold c.s .score
  else go

/-! ## `csrr` and `csrw` (R315) -/

def execCsrr (h : Head) (d : BitVec 8) (csr : BitVec 12) (s : State) : Host.Outcome State Fault Refusal :=
  issue (.csrr h d csr) s fun c =>
    c.csrGate csr.toNat false (.done (c.act.foldl (fun s l => s.setVreg (c.t l) d.toNat (c.csrVal c.s l csr.toNat)) c.s))

/-- The three forms of `csrw`, lane by lane in ascending order. -/
def Ctx.csrWrite (c : Ctx) (a : BitVec 8) (n : Nat) (o : WOp) : Res :=
  c.csrGate n true (.done (c.act.foldl (fun s l => c.csrPut s l n o (c.s.vreg (c.t l) a.toNat)) c.s))

def execCsrw (h : Head) (a : BitVec 8) (csr : BitVec 12) (s : State) : Host.Outcome State Fault Refusal :=
  issue (.csrw h a csr) s fun c => c.csrWrite a csr.toNat .plain

def execCsrwSet (h : Head) (a : BitVec 8) (csr : BitVec 12) (s : State) : Host.Outcome State Fault Refusal :=
  issue (.csrwSet h a csr) s fun c => c.csrWrite a csr.toNat .set

def execCsrwClr (h : Head) (a : BitVec 8) (csr : BitVec 12) (s : State) : Host.Outcome State Fault Refusal :=
  issue (.csrwClr h a csr) s fun c => c.csrWrite a csr.toNat .clr

/-! ## `eret` and `halt` (R316, R317) -/

/-- Write the results of lanes that leave the floe at once, whatever their windows. -/
def State.settleLanes (s : State) (k : Nat) (lanes : List Nat) : State :=
  match s.floe? k with
  | none => s
  | some f =>
    let mine (p : Pend) : Pend := { p with
      ureg := none
      vals := p.vals.filter (lanes.contains ·.1), pvals := p.pvals.filter (lanes.contains ·.1), flags := p.flags.filter (lanes.contains ·.1) }
    let rest (p : Pend) : Pend := { p with
      vals := p.vals.filter (!lanes.contains ·.1), pvals := p.pvals.filter (!lanes.contains ·.1), flags := p.flags.filter (!lanes.contains ·.1) }
    (f.pend.foldl (fun s p => s.writePend k f (mine p)) s).modFloe k fun f => { f with pend := f.pend.map rest }

def execEret (h : Head) (s : State) : Host.Outcome State Fault Refusal :=
  issue (.eret h) s fun c =>
    if c.act = [] then .done c.s
    else if c.act.any fun l => !(c.s.thread (c.t l)).inHandler then .trap 0x0009 c.act 0
    else if c.f.pend.any fun p => p.need.any c.act.contains then .hold c.s .score
    else c.commitThen c.s fun s =>
      let p := (s.settleLanes c.k c.act).publish c.k
      let s := c.act.foldl (fun s l => s.modThread (c.t l) fun th => { th with srec := some p.1 }) p.2
      .done (s.eretThreads c.k c.act)

def execHaltGrid (h : Head) (s : State) : Host.Outcome State Fault Refusal :=
  issue (.haltGrid h) s fun c =>
    if c.act = [] then .done c.s else .done (c.s.haltGrid (c.s.block c.bk).grid (some c.core))

def execHaltCtx (h : Head) (s : State) : Host.Outcome State Fault Refusal :=
  issue (.haltCtx h) s fun c =>
    if c.act = [] then .done c.s
    else if !c.s.ctxSup c.g.ctx then .trap 0x0008 c.act 0
    else .done (c.s.haltContext c.g.ctx (some c.core))

/-! ## `brk`, `prog` and `mark` (R367, R379, R380) -/

def execBrk (h : Head) (code : BitVec 16) (act : BitVec 2) (s : State) : Host.Outcome State Fault Refusal :=
  issue (.brk h code act) s fun c =>
    if c.act = [] then .done c.s
    else .done ((c.s.traceFloe c.k c.f 3 code.toNat c.f.coord.toNat c.act).actStop c.k c.bk act.toNat)

def execProg (h : Head) (n : BitVec 3) (s : State) : Host.Outcome State Fault Refusal :=
  issue (.prog h n) s fun c =>
    let lo := 0x330 + 2 * n.toNat
    let v := (c.s.csr c.core lo).toNat + 2 ^ 32 * (c.s.csr c.core (lo + 1)).toNat + c.act.length
    .done ((c.s.setCsr c.core lo (BitVec.ofNat 32 v)).setCsr c.core (lo + 1) (BitVec.ofNat 32 (v / 2 ^ 32)))

def execMark (h : Head) (code : BitVec 16) (s : State) : Host.Outcome State Fault Refusal :=
  issue (.mark h code) s fun c =>
    if c.act = [] then .done c.s else .done (c.s.traceFloe c.k c.f 2 code.toNat c.f.coord.toNat c.act)

def execMarkValue (h : Head) (a : BitVec 8) (code : BitVec 16) (s : State) : Host.Outcome State Fault Refusal :=
  issue (.markValue h a code) s fun c =>
    if c.act = [] then .done c.s
    else .done (c.s.traceFloe c.k c.f 2 (code.toNat + 2 ^ 32 * (c.rd1 0 a c.low).toNat) c.f.coord.toNat c.act)

end Sys2Proof.Machine
end

