-- ==== Sys2Proof/Machine/Debug.lean ====
section
/-! DEFINITION. Debug commands, steps, dumps and samples (R361, R363 to R365, R371 to R376, R382, R383, R385). -/

namespace Sys2Proof.Machine

/-! ## Commands (R364, R365) -/

/-! A command's copy of DTGT, DARGLO, DARGHI and DLIM (`arg` 0 to 3), and what it noted when it began (`arg` 4). -/

def Cmd.tctx (x : Cmd) : Nat := bits (x.arg 0) 20 15
def Cmd.tcore (x : Cmd) : Nat := coreKey (bits (x.arg 0) 14 12) (bits (x.arg 0) 11 5)
def Cmd.tblk (x : Cmd) : Nat := blockKey x.tcore (bits (x.arg 0) 4 0)
def Cmd.lim (x : Cmd) : Nat := if x.arg 3 = 0 then 2 ^ 32 - 1 else x.arg 3
def Cmd.begun (x : Cmd) : Bool := decide (4 < x.args.length)

/-- The core that DTGT names exists. -/
def Cmd.coreOk (x : Cmd) : Bool := decide (bits (x.arg 0) 11 5 < Config.coresOf (bits (x.arg 0) 14 12))

/-- The resident block that DTGT names. -/
def State.target (s : State) (x : Cmd) : Option Block :=
  match s.block? x.tblk with
  | some b => if (s.grid b.grid).ctx = x.tctx then some b else none
  | none => none

/-- A command ends: BUSY clears and ERR is written. -/
def State.endDcmd (s : State) (x : Cmd) (err : Nat) (set : Word) : State :=
  (State.dstat { s with cmds := s.cmds.erase x } x.core (BitVec.ofNat 32 (256 * err) ||| set) 0xFF01).releaseCmd x.floe

/-- A command has begun and waits; `n` is what it waits for. -/
def State.beginDcmd (s : State) (x : Cmd) (n : Nat) : State :=
  { s with cmds := s.cmds.map fun y => if y = x then { x with args := x.args ++ [BitVec.ofNat 32 n] } else y }

/-- A block is stopped by a command, a halt or the stop-grid policy, and drained (R371, R383). -/
def State.isStopped (s : State) (bk : Nat) : Bool := (s.block bk).stops.any (· ≠ 5) && s.quiet bk

/-- A command that has begun and cannot end yet (R348, R365, R371). -/
def State.dcmdWaits (s : State) (x : Cmd) : Bool :=
  match x.val.toNat with
  | 1 => x.begun && decide ((s.block x.tblk).uid % 2 ^ 32 = x.arg 4) && (s.block x.tblk).stops.contains 1 && !s.quiet x.tblk
  | 2 => x.begun && (s.grid (x.arg 4)).stopping.isSome
  | 3 => x.begun && s.grids.any fun e => e.2.ctx == x.tctx && e.2.stopping.isSome
  | 7 => s.recalls.contains (x.tctx, x.arg 2 % 2 ^ 16, x.arg 1 % 2 ^ 20, some x.core) && s.inStale x.tctx (x.arg 2 % 2 ^ 16) (x.arg 1 % 2 ^ 20)
  | _ => false

/-- The command of a value of DCMD that moves next: started by a core or through the host's copy of its registers. The two act independently,
so one that waits is passed over (R365). -/
def State.dcmd (s : State) (c : CoreId) (v : Word) : Option Cmd :=
  let mine (x : Cmd) : Bool := x.csr == 0x301 && x.val == v && (x.core == CoreId.key c || x.core == 1024 + CoreId.key c)
  (s.cmds.find? fun x => mine x && !s.dcmdWaits x).or (s.cmds.find? mine)

/-! ## Stops and halts -/

/-- STOP_BLOCK: DCMD 1. It ends with STOPPED set once the block is drained. -/
def execStopBlock (issuer : CoreId) (s : State) : Host.Outcome State Fault Refusal :=
  match s.dcmd issuer 1 with
  | none => .next s
  | some x =>
    if x.begun then
      let b := s.block x.tblk
      if b.uid % 2 ^ 32 ≠ x.arg 4 ∨ !b.stops.contains 1 then .next (s.endDcmd x 0 0)
      else if s.quiet x.tblk then .next ((s.modBlock x.tblk fun b => { b with stopper := some x.core }).endDcmd x 0 0x2)
      else .next s
    else match s.target x with
    | none => .next (s.endDcmd x 1 0)
    | some b =>
      if b.stops.contains 1 then .next (s.endDcmd x 0 0)
      else .next (((s.endStep x.tblk false).stopBlk x.tblk 1).beginDcmd x b.uid |>.settleDue 64)

/-- HALT_GRID_COMMAND: DCMD 2. -/
def execHaltGridCommand (issuer : CoreId) (s : State) : Host.Outcome State Fault Refusal :=
  match s.dcmd issuer 2 with
  | none => .next s
  | some x =>
    if x.begun then .next (if (s.grid (x.arg 4)).stopping.isNone then s.endDcmd x 0 0 else s)
    else match s.target x with
    | none => .next (s.endDcmd x 1 0)
    | some b => .next (((s.haltGrid b.grid none).beginDcmd x b.grid).settleDue 64)

/-- HALT_CONTEXT: DCMD 3. -/
def execHaltContext (issuer : CoreId) (s : State) : Host.Outcome State Fault Refusal :=
  match s.dcmd issuer 3 with
  | none => .next s
  | some x =>
    if x.begun then .next (if s.grids.any fun e => e.2.ctx == x.tctx && e.2.stopping.isSome then s else s.endDcmd x 0 0)
    else .next (((s.haltContext x.tctx none).beginDcmd x 0).settleDue 64)

/-! ## Resumption -/

/-- A step is cancelled by a Resume: the block holds its stops again for the Resume to end (R365, R373). -/
def State.cancelStep (s : State) (bk : Nat) : State :=
  match (s.block bk).stepping with
  | none => s
  | some (core, _) =>
    (s.modBlock bk fun b => { b with
      stepping := none, stops := b.heldStops ++ b.stops.filter fun c => !b.heldStops.contains c, heldStops := []
      stoppedAt := if b.stops = [] then s.clock (dieOf (bk / 32)) else b.stoppedAt }).dstat core 0x4 0x1

/-- A halt or stop of a grid ends as a whole: STATE 1, and held tasks ask for their pages again (R337, R365). -/
def State.resumeGrid (s : State) (g cause : Nat) : State :=
  let x := s.grid g
  if x.fatal then s
  else
    let s := s.modGrid g fun x => { x with stopping := match x.stopping with
      | some (c, st) => if c = cause then none else some (c, st)
      | none => none }
    let s := if (x.state = 3 ∨ x.state = 4) ∧ x.cause = cause ∧ !x.retired then s.setGState g 1 else s
    let s := (s.blocksOf g).foldl (fun (s : State) bk => (s.cancelStep bk).unstop bk [cause]) s
    (s.tasks.filter fun t => t.grid == g && t.failed).foldl (fun (s : State) t => s.retryTask t) s

/-- RESUME: DCMD 4. -/
def execResume (issuer : CoreId) (s : State) : Host.Outcome State Fault Refusal :=
  match s.dcmd issuer 4 with
  | none => .next s
  | some x =>
    match s.target x with
    | none => .next (s.endDcmd x 1 0)
    | some b =>
      let s := s.cancelStep x.tblk
      let stops := (s.block x.tblk).stops
      let s := if stops.contains 2 then s.resumeGrid b.grid 2 else s
      let s := if stops.contains 4 then s.resumeGrid b.grid 4 else s
      let s := if stops.contains 3 then
          ((s.grids.filter fun e => e.2.ctx == x.tctx && e.2.cause == 3).map (·.1)).foldl (fun (s : State) g => s.resumeGrid g 3) s
        else s
      .next (((s.unstop x.tblk [1]).endDcmd x 0 0).settleDue 64)

/-! ## Steps (R373) -/

/-- STEP: DCMD 5. The command ends with the step. -/
def execStep (issuer : CoreId) (s : State) : Host.Outcome State Fault Refusal :=
  match s.dcmd issuer 5 with
  | none => .next s
  | some x =>
    match s.target x with
    | none => .next (s.endDcmd x 1 0)
    | some _ =>
      if !s.isStopped x.tblk then .next (s.endDcmd x 2 0)
      else
        let s : State := { s with cmds := s.cmds.erase x }
        let s := s.modBlock x.tblk fun b => { b with
          stepping := some (x.core, s.clock (dieOf x.tcore) + x.lim)
          heldStops := b.stops.filter (· ≠ 5), stops := b.stops.filter (· = 5) }
        .next ((if (s.block x.tblk).stops = [] then s.goAgain x.tblk else s).settleDue 64)

/-- STEP_TIMEOUT: DLIM cycles have passed. -/
def execStepTimeout (issuer : CoreId) (s : State) : Host.Outcome State Fault Refusal :=
  match s.blocks.find? fun e => match e.2.stepping with
      | some (i, t) => (i == CoreId.key issuer || i == 1024 + CoreId.key issuer) && decide (t ≤ s.clock (dieOf (e.1 / 32)))
      | none => false with
  | none => .next s
  | some e => .next ((s.endStep e.1 true).settleDue 64)

/-! ## What a thread slot shows (R361, R383) -/

/-- A thread slot as samples and dumps show it. -/
structure View where
  state : Nat
  coord : Nat := 0
  value : Nat := 0
  fslot : Nat := 0
  save : Nat := 0
deriving DecidableEq, Repr, Inhabited

/-- The copy a floe stands in has left while it waited, and no fresh one is resident: it asks for its segment again (R347, R348). -/
def State.asksAgain (s : State) (core : Nat) (f : Floe) : Bool :=
  let g := s.grid (s.block (blockKey core f.blkr)).grid
  (look s.segs f.copy).isNone && (s.copyOf core g.ctx g.code f.segid).isNone

/-- Next instruction of a floe. One stopped by its own precise trap shows the trapping one (R383); one that awaits a segment the entry it will
take, once its die's service has read the header, and 0 where it asks again for a segment in whose midst it stands (log 72). -/
def State.awaited (s : State) (core : Nat) (f : Floe) : Nat :=
  let g := s.grid (s.block (blockKey core f.blkr)).grid
  match f.trapAt, f.wait with
  | some c, _ => c
  | none, .seg cont =>
    let seg := bits cont.toNat 31 12
    match s.forms.find? fun x => x.die == dieOf core && x.ctx == g.ctx && x.code == g.code && x.seg == seg with
    | some x => entryCoord x.lines seg f
    | none => 0
  | none, _ => f.coord.toNat

/-- Coordinate of the entry of a continuation, if its segment is resident on the core. -/
def State.entryAt (s : State) (core : Nat) (g : Grid) (cont : Word) : Nat :=
  let seg := bits cont.toNat 31 12
  match s.copyOf core g.ctx g.code seg with
  | some (_, c) => let p := hdrEntry (hdrOf c) (bits cont.toNat 11 4); (coordOf seg p.1 p.2).toNat
  | none => 0

/-- The next instruction of a floe waits on the scoreboard, a lookahead destination, or the results before its handler. -/
def State.onScore (s : State) (k : Nat) (f : Floe) : Bool :=
  f.trap.isSome || (match s.fetchAt k f with
    | some (.ok i) => f.scoreHolds i
    | _ => false)

/-- STATE of a thread in a floe that is neither suspended, stopped, nor without its segment (R361). -/
def State.floeState (s : State) (k : Nat) (f : Floe) : Nat :=
  match f.wait with
  | .none | .score => if s.onScore k f then 2 else 1
  | .trap => 2
  | _ => 3

/-- A thread slot at a clock (R361): a floe without its copy awaits delivery, with no continuation word (DESIGN CHOICE, log 72). -/
def State.view (s : State) (t : Nat) (th : Thread) (now : Nat) : View :=
  let q := islotOfThread t
  let core := q / 4
  let here := (laneOfThread t, t % 32)
  match th.st with
  | 0 => { state := 8, coord := th.exitAt.toNat }
  | 1 =>
    match (slice s.floes (32 * q) (32 * q + 32)).find? fun e => e.2.lanes.contains here with
    | none => { state := 1 }
    | some (k, f) =>
      let v : View := { state := 1, coord := f.coord.toNat, fslot := k % 32 }
      let stopped := (s.block (blockKey core f.blkr)).stops.any (· ≠ 5)
      match f.trapAt, f.wait with
      | _, .page vas _ _ => { v with state := 9, value := ((vas.find? fun x => x.1 == here.1).map (·.2.1)).getD ((vas.headD (0, 0, 0)).2.1) }
      | some c, _ => { v with state := 7, coord := c }
      | none, .seg c => { v with state := 4, coord := s.awaited core f, value := c.toNat }
      | none, w =>
        if (w == .none || w == .score) && s.asksAgain core f then { v with state := 4, coord := 0 }
        else if stopped then { v with state := 7 }
        else match f.issued with
        | some (n, c) => if n = now then { v with state := 0, coord := c.toNat } else { v with state := s.floeState k f }
        | none => { v with state := s.floeState k f }
  | 2 => { state := 5, coord := s.entryAt core (s.grid (s.block (blockKey core th.blkr)).grid) th.cont, value := th.cont.toNat }
  | _ => { state := 6, save := th.save, coord := match look s.saves (64 * q + th.save) with
      | some f => s.awaited core f
      | none => 0 }

/-! ## Dumps (R374 to R376, R382) -/

/-- Section 1: a live thread (R375). -/
def State.dumpThread (s : State) (g : Grid) (t : Nat) (th : Thread) : List Byte :=
  let q := islotOfThread t
  let v := s.view t th (s.clock (dieOf (q / 4)))
  let lent := (s.lentRuns t).foldl (fun n r => n ||| ((2 ^ r.2 - 1) * 2 ^ r.1)) 0
  leBytes v.coord 4 ++ leBytes th.tid 2 ++ leBytes (laneOfThread t + 32 * (q % 4)) 1 ++ leBytes (t % 32) 1 ++ leBytes th.status.toNat 4 ++
    leBytes (th.preds.toNat % 128) 1 ++ leBytes v.state 1 ++ leBytes 0 2 ++ leBytes lent 32 ++
    (List.range g.nregs).flatMap fun n => leBytes (s.vreg t n).toNat 4

/-- Helper lanes of a floe (R162): absent lanes of partly present quads in a quad-sensitive segment. -/
def State.helpers (s : State) (k : Nat) (f : Floe) : BitVec 32 :=
  match s.floeCopy k f with
  | some c =>
    if hdrQuad (hdrOf c) then
      maskOf ((List.range 32).filter fun l => !f.present.getLsbD l && (List.range 4).any fun i => f.present.getLsbD (l / 4 * 4 + i))
    else 0
  | none => 0

/-- Section 2: a floe slot, or a floe save with its index. -/
def State.dumpFloe (s : State) (q : Nat) (slot : Nat) (save : Option Nat) (f : Floe) : List Byte :=
  leBytes (s.awaited (q / 4) f) 4 ++ leBytes f.present.toNat 4 ++ leBytes (s.helpers (32 * q + slot) f).toNat 4 ++
    leBytes (slot + 32 * (q % 4)) 1 ++ leBytes (if save.isSome then 1 else 0) 1 ++ leBytes (save.getD 0) 1 ++ leBytes 0 1 ++
    (List.range 64).flatMap fun n => leBytes (lookD 0 f.uregs n).toNat 4

/-- State of a barrier slot (R153). -/
def Bar.word (b : Bar) : Nat :=
  (if b.ph then 2 ^ 63 else 0) + (if b.val then 2 ^ 62 else 0) + (if b.blk then 2 ^ 61 else 0) + b.expt * 2 ^ 50 + b.arr * 2 ^ 39 +
    b.early * 2 ^ 32 + b.expa * 2 ^ 16 + b.pend

/-- State of a circular buffer (R236). -/
def CBuf.word (b : CBuf) : Nat :=
  b.base * 2 ^ 96 + b.ssz * 2 ^ 80 + (if b.val then 2 ^ 79 else 0) + b.lvl * 2 ^ 77 + b.nslot * 2 ^ 70 + b.free * 2 ^ 63 + b.filled * 2 ^ 56 +
    b.claim * 2 ^ 49 + b.acq * 2 ^ 42 + b.rel * 2 ^ 35 + b.held * 2 ^ 28

/-- Live threads of a block in `%tid` order. -/
def State.threadsByTid (s : State) (bk : Nat) : List (Nat × Thread) :=
  let ts := (s.liveThreads bk).map fun t => (t, s.thread t)
  (List.range 1024).filterMap fun i => ts.find? fun e => e.2.tid == i

/-- Trap records of a block, in trap-area order. -/
def State.trapsOf (s : State) (bk : Nat) : List (List Byte) :=
  let b := s.block bk
  let g := s.grid b.grid
  let blk := b.z g * 2 ^ 24 + b.y g * 2 ^ 16 + b.x g
  (List.range g.ntrap).filterMap fun i =>
    let r := (s.devRead g.ctx (bits g.stat 47 0 + 64 + 64 * i) 64).getD 0
    if bits r 154 152 = dieOf (bk / 32) ∧ bits r 166 160 = bk / 32 % 128 ∧ bits r 223 192 = blk then some (leBytes r 64) else none

/-- Address of a floe save in the system region of its die's scratchpad (R263): the region lies above what launches can be granted (log 35). -/
def saveByte (i : Nat) : Nat :=
  let core := i / 256
  Config.dieGrant (dieOf core) + 448 * 1024 * (core % 128) + 512 * (i % 256)

/-- The first poisoned granule that reading the trap area of a block's grid meets (R408). -/
def State.trapPoison (s : State) (bk : Nat) : Option Nat :=
  let g := s.grid (s.block bk).grid
  (List.range g.ntrap).findSome? fun i => match s.devPlace g.ctx (bits g.stat 47 0 + 64 + 64 * i) false with
    | some p => if p.sys then none else [p.pa / 32, p.pa / 32 + 1].findSome? fun n => if (look s.poison n).isSome then some (32 * n) else none
    | none => none

/-- The sections of a dump, each with the address of an uncorrectable error that it reads (R375, R376). Barriers and copies are held in no
array of R406. -/
def State.sections (s : State) (bk : Nat) : List (List Byte × Option Nat) :=
  let b := s.block bk
  let g := s.grid b.grid
  let core := bk / 32
  let ts := s.threadsByTid bk
  let bad (array : Nat) (f : Nat → Bool) : Option Nat :=
    (s.latent.find? fun r => r.mode != 0 && r.array == array && r.core == core && f (r.addr / arrWord array * arrWord array)).map (·.addr)
  let slots := (List.range 4).map (4 * core + ·)
  let allocs := s.allocs.filter fun a => a.2.block == bk && a.2.orphan.isNone
  let byFirst := (List.range 128).filterMap fun n => allocs.find? fun a => a.2.first == n
  [ (ts.flatMap fun e => s.dumpThread g e.1 e.2,
      bad 0 fun a => ts.any fun e => a / 8192 == e.1 / 32 % 128 && decide (e.2.wbase ≤ a % 8192 / 4 ∧ a % 8192 / 4 < e.2.wbase + g.nregs)),
    (slots.flatMap fun q =>
      ((slice s.floes (32 * q) (32 * q + 32)).filter (·.2.blkr == bk % 32)).flatMap (fun e => s.dumpFloe q (e.1 % 32) none e.2) ++
      ((slice s.saves (64 * q) (64 * q + 64)).filter (·.2.blkr == bk % 32)).flatMap (fun e => s.dumpFloe q 0 (some (e.1 % 64)) e.2),
      (s.latent.find? fun r => r.mode != 0 && r.array == 3 && r.core == dieOf core && (s.savesOf bk).any fun i =>
        wordMeets 3 r.addr (saveByte i) 512).map (·.addr)),
    (getBs s.unit (2 ^ 19 * core + b.unitBase) (g.shareSz .unit), bad 1 fun a => decide (b.unitBase ≤ a ∧ a < b.unitBase + g.shareSz .unit)),
    (byFirst.flatMap fun a => leBytes (a.2.cnt * 256 + a.2.first) 4 ++ leBytes 0 4 ++ s.pieceBytes (.banks core a.2.first a.2.cnt),
      bad 4 fun x => byFirst.any fun a => decide (2048 * a.2.first ≤ x ∧ x < 2048 * (a.2.first + a.2.cnt))),
    (((slice s.bars (16 * core) (16 * core + 16)).filter fun e => e.2.val && e.2.owner == bk).flatMap fun e =>
      leBytes (e.1 % 16) 8 ++ leBytes e.2.word 8, none),
    (((slice s.bins (64 * core) (64 * core + 64)).filter (·.2.blkr == bk % 32)).flatMap (fun e =>
        leBytes (e.1 / 16 % 4) 1 ++ leBytes (e.1 % 16) 1 ++ leBytes 0 2 ++ leBytes e.2.cont.toNat 4 ++
          leBytes (maskOf (e.2.lanes.map (·.1))).toNat 4 ++ leBytes 0 4) ++
      (s.liveThreads bk).flatMap fun t => leBytes (s.thread t).record 16,
      bad 6 fun a => (s.liveThreads bk).any fun t => a / 16 == t % 4096),
    (((List.range 32).filterMap fun n => s.copies.find? fun e => e.2.entry == n && e.2.core == core && e.2.block == bk && e.2.uid == b.uid).flatMap
        (fun e => leBytes e.2.desc.toNat 128 ++ ((List.range 7).flatMap fun i => leBytes (e.2.orig.getD i 0).toNat 4) ++
          leBytes ((if e.2.begun then 1 else 0) + if e.2.held = [] then 0 else 2) 4) ++
      ((slice s.cbufs (16 * core) (16 * core + 16)).filter fun e => e.2.val && e.2.owner == bk).flatMap fun e => leBytes e.2.word 16, none),
    ((s.trapsOf bk).flatten, s.trapPoison bk) ]

/-- A dump being laid out (R382): bytes after the header, end of the last section, section table, nested faults as code, section, NADDR. -/
structure Layout where
  body : List Byte := []
  off : Nat := 256
  total : Nat := 256
  table : List Byte := []
  nested : List (Nat × Nat × Nat) := []
deriving DecidableEq, Repr, Inhabited

/-- Lay out one section. -/
def Layout.add (lim n : Nat) (d : Layout) (x : List Byte × Option Nat) : Layout :=
  let off := (d.off + 63) / 64 * 64
  let len := x.1.length
  let fits := decide (off + len ≤ lim)
  let fault : Option (Nat × Nat × Nat) := if !fits then some (2, n, off) else x.2.map fun a => (1, n, a)
  let entry := leBytes off 8 ++ leBytes len 4 ++ leBytes (if fault.isSome then 2 else 1) 4
  { body := if fits then d.body ++ List.replicate (off - 256 - d.body.length) 0 ++ (if fault.isSome then List.replicate len 0 else x.1) else d.body
    off := off + len
    total := if fits then off + len else d.total
    table := d.table ++ entry
    nested := d.nested ++ fault.toList }

/-- CAUSE: the stop that took effect first, the lowest code among those of one cycle (R374). -/
def Block.firstStop (b : Block) : Option Nat := leastBy (fun c => 8 * lookD 0 b.stopClk c + c) (b.stops.filter (· ≠ 5))

/-- The bytes of a dump, none beyond DLIM, and whether a nested fault occurred. -/
def State.dumpOf (s : State) (bk lim : Nat) : List Byte × Bool :=
  let b := s.block bk
  let g := s.grid b.grid
  let d := (s.sections bk).zipIdx.foldl (fun (d : Layout) x => d.add lim (x.2 + 1) x.1) {}
  let f := d.nested.headD (0, 0, 0)
  let blk := b.z g * 2 ^ 24 + b.y g * 2 ^ 16 + b.x g
  let core := bk / 32
  let head := leBytes 1 4 ++ leBytes d.total 4 ++ leBytes g.ctx 4 ++ leBytes (bk % 32 * 2 ^ 16 + core % 128 * 2 ^ 8 + dieOf core) 4 ++ leBytes blk 4 ++
    leBytes g.nregs 4 ++ leBytes (s.liveThreads bk).length 4 ++ leBytes ((s.floesOf bk).length + (s.savesOf bk).length) 4 ++
    leBytes (s.clock (dieOf core)) 8 ++ leBytes (b.firstStop.getD 0) 4 ++ leBytes f.1 4 ++ leBytes f.2.1 4 ++
    leBytes d.nested.length 4 ++ leBytes f.2.2 8 ++ leBytes 0 64
  ((head ++ d.table ++ d.body).take lim, d.nested ≠ [])

/-- DUMP: DCMD 6. What it writes is taken when it begins. -/
def execDump (issuer : CoreId) (s : State) : Host.Outcome State Fault Refusal :=
  match s.dcmd issuer 6 with
  | none => .next s
  | some x =>
    let addr := x.arg 2 * 2 ^ 32 + x.arg 1
    match s.target x with
    | none => .next (s.endDcmd x 1 0)
    | some _ =>
      if !s.isStopped x.tblk then .next (s.endDcmd x 2 0)
      else if addr % 256 ≠ 0 then .next (s.endDcmd x 3 0)
      else if s.dumps.any fun d => d.block == x.tblk then .next (s.endDcmd x 4 0)
      else
        let r := s.dumpOf x.tblk x.lim
        if s.memTop < addr + r.1.length then .next (s.endDcmd x 3 0)
        else .next { s with
          cmds := s.cmds.erase x, dumps := s.dumps ++ [{ issuer := x.core, block := x.tblk, addr := addr, bytes := r.1, nested := r.2 }] }

/-- DUMP_END: every byte has been written. -/
def execDumpEnd (issuer : CoreId) (s : State) : Host.Outcome State Fault Refusal :=
  match s.dumps.find? fun d => d.issuer == CoreId.key issuer || d.issuer == 1024 + CoreId.key issuer with
  | none => .next s
  | some d => .next ((State.writePlace { s with dumps := s.dumps.erase d } ⟨d.addr, false⟩ d.bytes).dstat d.issuer (if d.nested then 0x10 else 0) 0xFF01)

/-! ## Recall, remote access -/

/-- DEBUG_RECALL: DCMD 7. -/
def execDebugRecall (issuer : CoreId) (s : State) : Host.Outcome State Fault Refusal :=
  match s.dcmd issuer 7 with
  | none => .next s
  | some x =>
    let r := s.recallMove x.tctx (x.arg 2 % 2 ^ 16) (x.arg 1 % 2 ^ 20) (some x.core)
    .next (if r.2 then r.1.endDcmd x 0 0 else r.1)

/-- Registers that remote commands reach. -/
def Cmd.remoteOk (x : Cmd) : Bool :=
  let n := x.arg 1 % 4096
  x.coreOk && decide ((0x310 ≤ n ∧ n ≤ 0x325) ∨ (0x330 ≤ n ∧ n ≤ 0x37F))

/-- REMOTE_WRITE: DCMD 8. -/
def execRemoteWrite (issuer : CoreId) (s : State) : Host.Outcome State Fault Refusal :=
  match s.dcmd issuer 8 with
  | none => .next s
  | some x =>
    if !x.remoteOk then .next (s.endDcmd x 3 0)
    else .next ((s.writeCsr x.tcore x.ctx (x.arg 1 % 4096) (x.args.getD 2 0) none).endDcmd x 0 0)

/-- REMOTE_READ: DCMD 9. -/
def execRemoteRead (issuer : CoreId) (s : State) : Host.Outcome State Fault Refusal :=
  match s.dcmd issuer 9 with
  | none => .next s
  | some x =>
    if !x.remoteOk then .next (s.endDcmd x 3 0)
    else .next ((s.setCsr x.core 0x304 (s.coreCsr x.tcore x.ctx (x.arg 1 % 4096))).endDcmd x 0 0)

/-! ## Samples (R363) -/

/-- The trace ring of a context is set (R362). -/
def State.ringSet (s : State) (ctx : Nat) : Bool :=
  let base := (s.ctxReg ctx 0x20).toNat
  decide (bits base 39 12 ≠ 0 ∧ bits base 3 0 ≤ 12)

/-- The record of a sample of thread slot `t`, taken at a clock. -/
def sampleBits (t : Nat) (v : View) (th : Thread) (ctx now : Nat) : Nat :=
  let q := islotOfThread t
  let core := q / 4
  now % 2 ^ 64 * 2 ^ 192 + v.value % 2 ^ 64 * 2 ^ 128 + v.coord * 2 ^ 96 + 2 ^ laneOfThread t * 2 ^ 64 + 2 ^ 56 + v.state * 2 ^ 52 +
    ctx * 2 ^ 46 + dieOf core * 2 ^ 43 + core % 128 * 2 ^ 36 + q % 4 * 2 ^ 34 + v.fslot * 2 ^ 29 + th.blkr * 2 ^ 24 + laneOfThread t * 2 ^ 19 +
    t % 32 * 2 ^ 14 + v.save * 2 ^ 8

/-- The sampling period of an issue slot's core, 0 when off (R363). -/
def State.samplePeriod (s : State) (q : Nat) : Nat :=
  let sper := (s.csr (q / 4) 0x320).toNat
  if sper = 0 then 0 else max 256 sper

/-- The next clock at which an issue slot samples. -/
def State.sampleAt (s : State) (q : Nat) : Nat :=
  let p := s.samplePeriod q
  ((lookD (default : Sched) s.sched q).sampled / p + 1) * p

/-- SAMPLE: an issue slot writes the sample of the period that has passed; a clock that has run over several periods owes one for each. -/
def execSample (q : SlotId) (s : State) : Host.Outcome State Fault Refusal :=
  let q := SlotId.key q
  let sc : Sched := lookD default s.sched q
  let at' := s.sampleAt q
  if s.samplePeriod q = 0 ∨ s.clock (q / 512) < at' then .next s
  else
    let lane := sc.samples % 32
    let last := lookD 31 sc.lastTs lane
    let ts := ((List.range 32).map fun i => (last + 1 + i) % 32).find? fun w => (look s.threads (threadKey q lane w)).isSome
    let sc := { sc with samples := sc.samples + 1, sampled := at' }
    match ts with
    | none => .next { s with sched := put s.sched q sc }
    | some w =>
      let t := threadKey q lane w
      let th := s.thread t
      let ctx := if th.st = 0 then th.exitCtx else (s.grid (s.block (blockKey (q / 4) th.blkr)).grid).ctx
      let s : State := { s with sched := put s.sched q { sc with lastTs := put sc.lastTs lane w } }
      if !s.ringSet ctx ∨ (th.st = 0 ∧ th.exitAt = 0) then .next s
      else .next (s.traceRec ctx (sampleBits t (s.view t th at') th ctx at'))

end Sys2Proof.Machine
end

