-- ==== Sys2Proof/Machine/Kernel.lean ====
section
/-! DEFINITION. Events of the issue slots: results, bank ports, stream elements, barrier completions, bins, floe launches, demotion,
exhaustion, reservation holds, and the stop of a grid reaching a core (R63, R155, R193, R245 to R253, R261, R309). -/

namespace Sys2Proof.Machine

/-! ## Results and bank ports -/

/-- RESULT_WRITE: a ready result whose window has ended is written (R42, R63). -/
def execResultWrite (f : FloeId) (n : Nat) (s : State) : Host.Outcome State Fault Refusal :=
  let k := FloeId.key f
  match s.floe? k with
  | none => .next s
  | some x =>
    match x.pend.find? fun p => p.n == n && p.ready && p.left == 0 with
    | none => .next s
    | some p => .next ((s.writePend k x p).modFloe k fun f => { f with pend := f.pend.filter fun q => q.n ≠ n })

/-- The oldest request at a bank's port. -/
def State.bankHead (s : State) (level : Space) (inst bank : Nat) (engine : Bool) : Option Token := s.tokens.find? fun t => t.at level inst bank engine

/-- BANK_SERVICE: a bank port serves its oldest request, at all its banks at once; the lane counts down its instruction (R260, R261). -/
def execBankService (level : Space) (inst bank : Nat) (engine : Bool) (s : State) : Host.Outcome State Fault Refusal :=
  match s.bankHead level inst bank engine with
  | none => .next s
  | some t =>
    if !(t.banks.all fun b => s.bankHead level inst b engine == some t) then .next s else
    let s := { s with tokens := s.tokens.erase t }
    .next (match t.pend with
      | some n => s.arrivePend t.floe t.fid n t.lane [] none
      | none => s)

/-- STREAM_ELEMENT_ARRIVAL: one more element of a lane, at most 8 ahead of the position (R193). One that fails a check faults when it is
read; a poisoned one stops the grid (R408). -/
def execStreamElementArrival (f : FloeId) (port lane : Nat) (s : State) : Host.Outcome State Fault Refusal :=
  let k := FloeId.key f
  match s.floe? k with
  | none => .next s
  | some x =>
    match look x.ports port with
    | none => .next s
    | some st =>
      let ahead := (lookD [] st.fetched lane).length
      let n := lookD 0 st.pos lane + ahead
      if st.store ∨ !(st.lanes.any (·.1 == lane)) ∨ 8 ≤ ahead ∨ st.count ≤ n then .next s
      else
        let bk := x.bkey k
        let c : Ctx := ⟨s, k, x, [lane], coreOfFloe k, bk, s.grid (s.block bk).grid, false, []⟩
        match c.elements st [(lane, n)] with
        | .ok (s, vs) => .next (s.modFloe k fun f => { f with ports := match look f.ports port with
            | some st => put f.ports port { st with fetched := put st.fetched lane (lookD [] st.fetched lane ++ vs.map (·.2)) }
            | none => f.ports })
        | .error (.stall s) => .next s
        | .error (.uncorrectable s) => .next ((s.fatalStop (s.block bk).grid (some (coreOfFloe k))).settleDue 64)
        | .error .poison => .next ((s.fatalStop (s.block bk).grid (some (coreOfFloe k))).settleDue 64)
        | .error _ => .next s

/-- BARRIER_COMPLETION_MULTICAST: a completion from another core reaches its slot (R155). -/
def execBarrierCompletionMulticast (n : Nat) (s : State) : Host.Outcome State Fault Refusal :=
  match s.mcasts[n]? with
  | none => .next s
  | some m => .next (({ s with mcasts := s.mcasts.eraseIdx n }.completeFar m.core m.slot m.uid m.recs).settleDue 64)

/-! ## Bins and floe launches -/

/-- The block of a floe or bin of a core is not stopped. -/
def State.live (s : State) (core blkr : Nat) : Bool := (s.block (blockKey core blkr)).stops == []

/-- BIN_TIMER_EXPIRE: the bin became ready when its timer ran out (R246). -/
def execBinTimerExpire (q : SlotId) (b : Nat) (s : State) : Host.Outcome State Fault Refusal :=
  let key := 16 * SlotId.key q + b
  match (if b < 16 then look s.bins key else none) with
  | none => .next s
  | some x =>
    let now := s.clock q.die
    if x.ready.isSome ∨ now < x.opened + x.timer ∨ !s.live (SlotId.key q / 4) x.blkr then .next s
    else .next { s with bins := put s.bins key { x with ready := some (x.opened + x.timer) } }

/-- What an issue slot may launch into a free floe slot (R248). -/
inductive Cand where
  | save (i : Nat) (f : Floe)
  | start (x : Starting)
  | bin (b : Nat) (x : Bin)
deriving DecidableEq, Repr, Inhabited

/-- A floe save whose wait is over: a demoted floe released (R249), or a trapped floe whose threads are back from the handler (R309). -/
def State.waitOver (s : State) (core : Nat) (f : Floe) : Bool :=
  f.handler == [] && (match f.wait with
    | .none | .seg _ => true
    | .cbacq b => let x := lookD {} s.cbufs (16 * core + b); decide (0 < x.filled) || !x.val
    | _ => false)

/-- Lowest free floe slot of an issue slot. -/
def State.freeFloe (s : State) (q : Nat) : Option Nat := (List.range 32).find? fun w => (look s.floes (32 * q + w)).isNone

/-- The kind 1 record that the next bin launch of an issue slot meets in a replay (R377, R378). -/
def State.binRecord (s : State) (q ctx : Nat) : Option RRec := s.rpend.find? fun r => r.ctx == ctx && r.kind == 1 && r.pos / 2 ^ 36 == q

/-- The floe slot that a bin launches into: the lowest free one. In a replay the next kind 1 record names the bin, the slot, and the issue
count before which it does not launch (R378). -/
def State.binSlot (s : State) (q : Nat) (x : Bin) : Option Nat :=
  let ctx := (s.grid (s.block (blockKey (q / 4) x.blkr)).grid).ctx
  if s.replMode ctx ≠ 2 then s.freeFloe q
  else match s.binRecord q ctx with
    | none => none
    | some r =>
      let w := r.pos / 2 ^ 31 % 32
      if r.seq ≤ (lookD ({} : Sched) s.sched q).issues ∧ r.word = x.cont ∧ r.mask = maskOf (x.lanes.map (·.1)) ∧
        r.pos = replPos (32 * q + w) x.blkr ∧ (look s.floes (32 * q + w)).isNone then some w else none

/-- The candidate that R248 takes first. -/
def State.candidate (s : State) (q : Nat) : Option Cand :=
  let core := q / 4
  let saves := (slice s.saves (64 * q) (64 * q + 64)).filter fun e => s.live core e.2.blkr && s.waitOver core e.2
  match leastBy (fun (e : Nat × Floe) => e.2.demoted.getD 0) saves with
  | some e => some (.save (e.1 % 64) e.2)
  | none =>
    match leastBy (fun (x : Starting) => x.order) ((s.starting.filter fun e =>
        e.1 == q && s.live core e.2.blkr && !(s.scrubs.any fun x => x.2.2.2 == blockKey core e.2.blkr)).map (·.2)) with
    | some x => some (.start x)
    | none =>
      let bins := (slice s.bins (16 * q) (16 * q + 16)).filter fun e =>
        decide (e.2.readyAt ≤ s.clock (dieOf core)) && s.live core e.2.blkr && (s.binSlot q e.2).isSome
      (leastBy (fun (e : Nat × Bin) => e.2.readyAt) bins).map fun e => .bin (e.1 % 16) e.2

/-- Merge what the threads' regrouping terminators, `spawn` or `eret` published (R287). -/
def State.mergeThreads (s : State) (k : Nat) (tks : List Nat) : State :=
  let rs := (tks.filterMap fun t => (s.thread t).srec).dedup
  (tks.foldl (fun s t => s.modThread t fun th => { th with srec := none }) s).mergeRecs k rs

/-- A new floe in a floe slot (R248, R286, R287): its threads leave their bin, and it enters the segment or waits for it. Each of its threads
comes after what came before any of them (R275). PARKT of a thread in a floe reads 0, which R244 leaves open (DESIGN CHOICE, log 58). -/
def State.newFloe (s : State) (k blkr : Nat) (cont : Word) (lanes : List (Nat × Nat)) (recs : List Nat) : State :=
  let n := s.newId
  let now := s.clock (dieOf (coreOfFloe k))
  let s := n.2.bumpRegion k
  let f : Floe := { fid := n.1, blkr := blkr, lanes := lanes, wait := .seg cont, waitSince := now, lastIssue := now, start := s.region k }
  let s := (s.setFloe k f).markStart k (f.bkey k)
  let tks := f.tkeys k
  let s := tks.foldl (fun s t => s.modThread t fun th => { th with
    st := 1, bin := 0, ovf := false, strt := false, cont := 0, parkt := 0 }) s
  ((((s.recordsWritten tks).orderWith tks).mergeThreads k tks).mergeRecs k recs).tryEnter k

/-- A floe save goes back to a floe slot: the same floe at the same point (R249, R309); the lanes that trapped are inactive for one issue. -/
def State.restoreFloe (s : State) (k q i : Nat) (f : Floe) : State :=
  let s := s.bumpRegion k
  let s := ({ s with saves := del s.saves (64 * q + i) }).setFloe k { f with
    demoted := none, handler := [], trapped := [], mute := f.mute ||| maskOf f.trapped, start := s.region k
    wait := match f.wait with | .seg c => .seg c | _ => .none, lastIssue := s.clock (dieOf (coreOfFloe k)) }
  let s := s.markStart k (f.bkey k)
  let tks := f.tkeys k
  let s := (tks.foldl (fun s t => s.modThread t fun th => { th with st := 1, save := 0, parkt := 0 }) s).recordsWritten tks
  ((s.orderWith tks).mergeThreads k tks).tryEnter k

/-- What a launch of a candidate comes to, given the lowest free floe slot (R247, R248, R377, R378). -/
def State.launchFloe (s : State) (q w : Nat) : Cand → State
  | .save i f => s.restoreFloe (32 * q + w) q i f
  | .start x => ({ s with starting := s.starting.filter fun e => !(e.1 == q && e.2 == x) }).newFloe (32 * q + w) x.blkr x.cont x.lanes x.recs
  | .bin b x =>
    let k := 32 * q + (s.binSlot q x).getD w
    let ctx := (s.grid (s.block (blockKey (q / 4) x.blkr)).grid).ctx
    let s : State := if s.replMode ctx = 2 then { s with rpend := match s.binRecord q ctx with
      | some r => s.rpend.erase r
      | none => s.rpend } else s
    let s := ({ s with bins := del s.bins (16 * q + b) }.newFloe k x.blkr x.cont x.lanes []).openOverflow q b
    s.replLog { ctx := ctx, kind := 1, pos := replPos k x.blkr, seq := (lookD (default : Sched) s.sched q).issues
                mask := maskOf (x.lanes.map fun (e : Nat × Nat) => e.1), word := x.cont }

/-- The issue slot has launched a floe in this cycle (R248). -/
def State.launchedNow (s : State) (q : Nat) : Bool := (lookD ({} : Sched) s.sched q).launchAt == some (s.clock (q / 512))

/-- FLOE_LAUNCH: at most one in a cycle (R247, R248). -/
def execFloeLaunch (q : SlotId) (s : State) : Host.Outcome State Fault Refusal :=
  let q := SlotId.key q
  match s.freeFloe q, s.candidate q with
  | some w, some c =>
    if s.launchedNow q then .next s
    else
      let s := { s with sched := put s.sched q { lookD ({} : Sched) s.sched q with launchAt := some (s.clock (q / 512)) } }
      .next ((s.launchFloe q w c).settleDue 64)
  | _, _ => .next s

/-- A candidate has waited 64 cycles while no floe slot is free (R249, R250). -/
def State.crowded (s : State) (q : Nat) (starting : Bool) : Bool :=
  let now := s.clock (dieOf (q / 4))
  (s.freeFloe q).isNone &&
  (((slice s.bins (16 * q) (16 * q + 16)).any fun e => decide (e.2.readyAt + 64 ≤ now) && s.live (q / 4) e.2.blkr) ||
   (starting && s.starting.any fun e => e.1 == q && decide (e.2.since + 64 ≤ now) && s.live (q / 4) e.2.blkr &&
     !(s.scrubs.any fun x => x.2.2.2 == blockKey (q / 4) e.2.blkr)))

/-- The floe to demote: waiting longest at a barrier or a `cbacq` whose buffer is still empty, with no window, result or stream (R249). -/
def State.demotable (s : State) (q : Nat) : Option (Nat × Floe) :=
  leastBy (fun (e : Nat × Floe) => e.2.waitSince) ((slice s.floes (32 * q) (32 * q + 32)).filter fun e =>
    (match e.2.wait with | .bar _ _ _ | .cbacq _ => true | _ => false) && !s.waitOver (q / 4) e.2 && e.2.pend == [] && e.2.ports == [] && s.live (q / 4) e.2.blkr)

/-- R249: a floe goes to a floe save. -/
def State.demote (s : State) (k sv : Nat) : State :=
  match s.floe? k with
  | none => s
  | some f =>
    let now := s.clock (dieOf (coreOfFloe k))
    let own := f.learn [(identFloe k, s.region k)] false
    let s := s.addRfold (coreOfFloe k) own.2
    let s : State := { s with
      saves := put s.saves (64 * islotOfFloe k + sv) { own.1 with demoted := some now }
      floes := del s.floes k }
    ((f.tkeys k).foldl (fun s t => s.modThread t fun th => { th with st := 3, save := sv, parkt := now }) s).recordsWritten (f.tkeys k)

/-- FLOE_DEMOTE (R249). A log entry that cannot begin suspends the floe instead (R336). -/
def execFloeDemote (q : SlotId) (s : State) : Host.Outcome State Fault Refusal :=
  let q := SlotId.key q
  match s.demotable q, s.freeSave q with
  | some (k, _), some sv =>
    if !s.crowded q true then .next s
    else
      let r := s.commit k
      match r.2 with
      | some (va, x) => .next ((r.1.commitFailed k va x).settleDue 64)
      | none => .next (((r.1.dropResv k).demote k sv).settleDue 64)
  | _, _ => .next s

/-- FLOE_EXHAUSTION: the floe that has waited longest on the issue slot, in a floe slot or in a floe save, and still waits (R250). -/
def execFloeExhaustion (q : SlotId) (s : State) : Host.Outcome State Fault Refusal :=
  let q := SlotId.key q
  if !s.crowded q false ∨ (s.demotable q).isSome ∨ (s.freeSave q).isSome then .next s
  else
    let fs := (slice s.floes (32 * q) (32 * q + 32)).filter (fun e => e.2.wait ≠ .none) ++
      (slice s.saves (64 * q) (64 * q + 64)).filter fun e => !s.waitOver (q / 4) e.2
    match leastBy (fun (e : Nat × Floe) => e.2.waitSince) fs with
    | none => .next s
    | some e => .next ((s.addDue (blockKey (q / 4) e.2.blkr) 0x8006 0 0).settleDue 64)

/-- The issue slot may issue in this cycle: no trial holds it (R381), and it has not issued (R253). -/
def State.slotFree (s : State) (q : Nat) : Bool :=
  let sc : Sched := lookD {} s.sched q
  decide (sc.holdTo ≤ s.clock (q / 512)) && sc.lastAt != some (s.clock (q / 512))

/-- SPAWN_RESUME: a stalled `spawn` is tried again, as an issue of its slot (R152, R253, R381). -/
def execSpawnResume (f : FloeId) (s : State) : Host.Outcome State Fault Refusal :=
  match s.floe? (FloeId.key f), s.fetch (FloeId.key f) with
  | some x, some (.ok (.spawn o)) => if x.wait = .stall ∧ s.slotFree (FloeId.key f / 32) then execSpawn o { s with cur := f } else .next s
  | _, _ => .next s

/-- RESERVATION_HOLD_EXPIRE (R253); the holds of a stopped block stand still (R371). -/
def execReservationHoldExpire (q : SlotId) (s : State) : Host.Outcome State Fault Refusal :=
  let k := SlotId.key q
  let now := s.clock q.die
  .next { s with floes := s.floes.map fun (e : Nat × Floe) => match e.2.hold with
    | some t => if e.1 / 32 = k ∧ t + 64 ≤ now ∧ s.live (k / 4) e.2.blkr then (e.1, { e.2 with hold := none }) else e
    | none => e }

/-- GRID_STOP: a stop or halt of a grid reaches a core (R309, R371). -/
def execGridStop (gid : Nat) (c : CoreId) (s : State) : Host.Outcome State Fault Refusal :=
  match (s.grid gid).stopping with
  | none => .next s
  | some (cause, _) => if s.haltWaits gid cause then .next s else .next ((s.stopOnCore gid cause (CoreId.key c)).settleDue 64)

end Sys2Proof.Machine
end

