-- ==== Sys2Proof/Machine/Errors.lean ====
section
/-! DEFINITION. The commands of the error log, injection and the effects of memory errors (R406 to R412). -/

namespace Sys2Proof.Machine

/-! ## Commands of the log and of injection (R411) -/

/-- The command of an error register that a core, or the host through its die's copy, started first of those still to be performed, if it
is the one meant. -/
def State.errCmd (s : State) (c : CoreId) (csr : Nat) (p : Word → Bool) : Option (Cmd × State) :=
  match s.cmds.find? fun x => x.csr == csr && (x.core == CoreId.key c || x.core == 1024 + c.die) with
  | some x => if p x.val then some (x, { s with cmds := s.cmds.erase x }) else none
  | none => none

def Cmd.die (x : Cmd) : Nat := if 1024 ≤ x.core then x.core - 1024 else dieOf x.core

/-- Key of the entry that ELSEL named when the command was written. -/
def Cmd.elSel (x : Cmd) : Nat := elKey x.die (bits (x.arg 0) 3 0) (bits (x.arg 0) 9 4)

/-- ERROR_LOG_READ: ELCMD 1. -/
def execErrorLogRead (c : CoreId) (s : State) : Host.Outcome State Fault Refusal :=
  match s.errCmd c 0x381 (· == 1) with
  | none => .next s
  | some (x, s) =>
    let e := lookD 0 s.errlog x.elSel
    .next (((List.range 8).foldl (fun s i => s.setCsr x.core (0x382 + i) (e.extractLsb' (32 * i) 32)) s).releaseCmd x.floe)

/-- ERROR_LOG_CLEAR: ELCMD 2. -/
def execErrorLogClear (c : CoreId) (s : State) : Host.Outcome State Fault Refusal :=
  match s.errCmd c 0x381 (· == 2) with
  | none => .next s
  | some (x, s) => .next (State.releaseCmd { s with errlog := del s.errlog x.elSel } x.floe)

/-- ERROR_LOG_OVERFLOW_READ: ELCMD 3. -/
def execErrorLogOverflowRead (c : CoreId) (s : State) : Host.Outcome State Fault Refusal :=
  match s.errCmd c 0x381 (· == 3) with
  | none => .next s
  | some (x, s) =>
    let n := lookD 0 s.errOver (16 * x.die + bits (x.arg 0) 3 0)
    .next ((s.setCsr x.core 0x382 (BitVec.ofNat 32 n)).releaseCmd x.floe)

/-- INJECTION_ARM: a write of EICTL with ARM (R412). -/
def execInjectionArm (c : CoreId) (s : State) : Host.Outcome State Fault Refusal :=
  match s.errCmd c 0x38D (fun v => v.getLsbD 0) with
  | none => .next s
  | some (x, s) => .next ((s.setCsr x.core 0x38D (x.val &&& csrMask 0x38D)).releaseCmd x.floe)

/-! ## Errors (R406 to R408) -/

/-- Place of an array that a core or die names (R412). -/
def errPlace (array die core : Nat) : Nat :=
  if array = 2 then 32 * die + core / 4 else if array = 3 ∨ array = 8 ∨ array = 9 then die else if array = 10 then 0 else coreKey die core

/-- The grid that owns a word of an array (R406). -/
def State.ownerOf (s : State) (array place a : Nat) : Option Nat :=
  let ofShare (l : Space) (pa : Nat) (bs : List (Nat × Block)) : Option Nat :=
    (bs.find? fun e => decide (s.shareBase e.1 l ≤ pa ∧ pa < s.shareBase e.1 l + (s.grid e.2.grid).shareSz l)).map (·.2.grid)
  match array with
  | 0 => (s.threads.find? fun e => e.2.st ≠ 0 && e.1 / 32 == 128 * place + a / 8192 && decide (e.2.wbase ≤ a % 8192 / 4 ∧ a % 8192 / 4 < e.2.wbase + e.2.win)).map
      fun e => (s.block (blockKey place e.2.blkr)).grid
  | 1 => ofShare .unit (2 ^ 19 * place + a) s.blocks
  | 2 => ofShare .clus (2 ^ 22 * place + a) s.blocks
  | 3 => match s.saves.find? fun e => dieOf (e.1 / 256) == place && decide (saveByte e.1 ≤ a ∧ a < saveByte e.1 + 512) with
    | some e => some (s.block (blockKey (e.1 / 256) e.2.blkr)).grid
    | none => (s.grids.find? fun e => e.2.placed && match look e.2.dieBase place with
      | some b => decide (b ≤ a ∧ a < b + e.2.shareSz .die)
      | none => false).map (·.1)
  | 4 => (s.allocs.find? fun e => e.1 == place && decide (e.2.first ≤ a / 2048 ∧ a / 2048 < e.2.first + e.2.cnt)).map fun e => (s.block e.2.block).grid
  | 6 => let th := s.thread (4096 * place + a / 16)
      if th.st ≠ 0 then some (s.block (blockKey place th.blkr)).grid else none
  | _ => none

/-- The stored errors of a word are gone. -/
def State.clearWord (s : State) (array place a : Nat) : State :=
  { s with latent := s.latent.filter fun r => !(r.array == array && r.core == place && wordMeets array r.addr a 1) }

/-- Storage that no grid owns is scrubbed to zero, by the word that its error-correction bits cover. -/
def State.scrubWord (s : State) (array place a : Nat) : State :=
  let s := s.clearWord array place a
  let n := arrWord array
  let w := a / n * n
  match array with
  | 0 => { s with regs := del s.regs (2048 * (128 * place + a / 8192) + a % 8192 / 4) }
  | 1 => s.setLvl .unit (clrBs s.unit (2 ^ 19 * place + w) n)
  | 2 => s.setLvl .clus (clrBs s.clus (2 ^ 22 * place + w) n)
  | 3 => s.setLvl .die (clrBs s.dmem (2 ^ 27 * place + w) n)
  | 4 => { s with accs := put s.accs (65536 * place + a / 4) 0 }
  | 6 => { s with threads := del s.threads (4096 * place + a / 16) }
  | _ => s

/-- The resident copy that holds a byte of a core's segment store, and the entry of a TLB by its number. -/
def State.copyAt (s : State) (core a : Nat) : Option (Nat × SegCopy) :=
  s.segs.find? fun e => e.2.core == core && decide (e.2.base ≤ a / 64 ∧ a / 64 < e.2.base + e.2.lines.length)
def State.tlbAt (s : State) (core n : Nat) : Option (Nat × TlbEnt) := (s.tlb.filter fun e => e.1 == core)[n]?

/-- The context that owns a word of an array (R409). -/
def State.ctxOwner (s : State) (array place a : Nat) : Option Nat :=
  match array with
  | 5 => (s.copyAt place a).map (·.2.ctx)
  | 7 => (s.tlbAt place a).map (·.2.ctx)
  | 10 => if (look s.dir (a / 32)).isSome then some (entCtx (s.dirEnt (a / 32))) else none
  | _ => (s.ownerOf array place a).map fun g => (s.grid g).ctx

/-- What an uncorrectable error does. -/
def State.uncorrected (s : State) (e : ErrRec) : State :=
  let place := errPlace e.array e.die e.core
  if e.array ≤ 4 ∨ e.array = 6 then
    match s.ownerOf e.array place e.addr with
    | some g => s.fatalStop g none
    | none => s.scrubWord e.array place e.addr
  else if e.array = 5 then
    -- A fresh copy is discarded, and its floes ask for it again; a stale one goes with its recall.
    let s := s.clearWord 5 place e.addr
    match s.copyAt place e.addr with
    | some (i, c) => if c.stale then s else { s with segs := del s.segs i }
    | none => s
  else if e.array = 7 then
    let s := s.clearWord 7 place e.addr
    match s.tlbAt place e.addr with
    | some x => { s with tlb := s.tlb.erase x }
    | none => s
  else if e.array = 8 ∨ e.array = 9 then { s with poison := put s.poison (e.addr / 32) true }
  else if e.array = 10 then
    if (look s.dir (e.addr / 32)).isNone then s
    else ((s.grids.filter fun x => x.2.ctx == entCtx (s.dirEnt (e.addr / 32))).map (·.1)).foldl (fun (s : State) g => s.fatalStop g none) s
  else s

/-- ECC_ERROR: an error is found in an array; one that an injection stored is logged as such, with its own severity and syndrome (R412). -/
def execEccError (die core : Nat) (array : BitVec 4) (addr : BitVec 64) (synd : BitVec 32) (ue : Bool) (s : State) :
    Host.Outcome State Fault Refusal :=
  let a := array.toNat
  if 12 ≤ a ∨ 8 ≤ die ∨ Config.coresOf die ≤ core then .next s
  else
    let arm := s.latent.find? fun r => r.array == a && r.core == errPlace a die core && wordMeets a r.addr addr.toNat 1
    let u : Bool := match arm with
      | some r => r.mode != 0
      | none => ue && a != 11
    let e : ErrRec := { die := die, core := arrCore a core, array := a, addr := if a = 8 ∨ a = 9 then addr.toNat / 32 * 32 else addr.toNat
                        synd := match arm with | some r => (Config.syndrome r.bit).toNat | none => synd.toNat
                        ctx := s.ctxOwner a (errPlace a die core) addr.toNat, inj := arm.isSome, ue := u }
    let s := s.logErr e
    .next ((if u then s.uncorrected e else s).settleDue 64)

/-- PATROL_SCRUB: a channel's granules are read, and corrected ones are written back (R407). -/
def execPatrolScrub (channel : Nat) (s : State) : Host.Outcome State Fault Refusal :=
  if 512 ≤ channel then .next s
  else
    let die := channel / 64
    let mine (r : Arm) : Bool := (r.array == 8 || r.array == 9) && s.homeChan r.addr == channel
    let s := (s.latent.filter mine).foldl (fun (s : State) r => s.logErr (r.record none)) s
    .next { s with latent := s.latent.filter (fun r => !(mine r && r.mode == 0)), patrol := put s.patrol channel (s.clock die) }

end Sys2Proof.Machine
end

