-- ==== Sys2Proof/Machine/Lanes.lean ====
section
/-! DEFINITION. Cross-lane instructions (R162 to R169). -/

namespace Sys2Proof.Machine

/-- One register and flags per active lane. -/
def Ctx.laneOut (c : Ctx) (s : State) (d : BitVec 8) (f : Nat → Nat × Fl) : State := c.fpOut s 0 d f

def laneRnd (o : LaneOps) : Rnd := (Rnd.ofBits (o.lo.extractLsb' 9 3)).getD .rne
def laneSat (o : LaneOps) : Bool := o.lo.getLsbD 8

/-- R164: `qswp`. -/
def execQswp (o : LaneOps) (s : State) : Host.Outcome State Fault Refusal :=
  issue (.qswp o) s fun c => .done (c.laneOut c.s o.d fun l => ((c.srcval o.a (l ^^^ (o.func.toNat + 1))).toNat, 0))

/-- R164: a difference of two lanes of the quad. -/
def quadDiff (o : LaneOps) (pair : Nat → Nat × Nat) (c : Ctx) : Res :=
  let sr := c.srStep (laneRnd o)
  .done (c.laneOut sr.2 o.d fun l =>
    fSub .f32 (laneRnd o) (laneSat o) (drawOf sr.1 l 0) (c.srcval o.a (pair l).1).toNat (c.srcval o.a (pair l).2).toNat)

def execQdx (o : LaneOps) (s : State) : Host.Outcome State Fault Refusal :=
  issue (.qdx o) s (quadDiff o (quadX o.func))

def execQdy (o : LaneOps) (s : State) : Host.Outcome State Fault Refusal :=
  issue (.qdy o) s (quadDiff o (quadY o.func))

/-- R165. -/
def execVote (o : LaneOps) (s : State) : Host.Outcome State Fault Refusal :=
  issue (.vote o) s fun c =>
    let p (l : Nat) : Bool := c.s.predOf (c.t l) o.a.toNat
    let yes := c.act.filter p
    if o.func = 3 then .done (c.laneOut c.s o.d fun _ => ((maskOf yes).toNat, 0))
    else
      let r : Bool := if o.func = 0 then yes ≠ [] else if o.func = 1 then yes.length = c.act.length
        else yes = [] ∨ yes.length = c.act.length
      .done (c.act.foldl (fun s l => c.wrPred s o.d l r) c.s)

/-- R166. -/
def execShfl (o : LaneOps) (s : State) : Host.Outcome State Fault Refusal :=
  issue (.shfl o) s fun c => .done (c.laneOut c.s o.d fun l =>
    ((c.srcval o.a (shflLane o.func l (c.s.vreg (c.t l) o.b.toNat).toNat)).toNat, 0))

/-- The type of `redi` and `scan`. -/
def laneTy (o : LaneOps) : IntTy := if o.lo.extractLsb' 0 4 = 1#4 then .z32 else .s32

/-- R167: the operation over values of a type; the identity where there is none. -/
def redOp (op : Nat) (t : IntTy) (sat : Bool) (xs : List Int) : Int :=
  let word (f : Nat → Nat → Nat) (z : Nat) : Int := (xs.foldl (fun a x => f a (wrap x 32)) z : Nat)
  match op with
  | 0 => fit (xs.foldl (· + ·) 0) t sat
  | 1 => xs.foldl min (intHi 32 t.signed)
  | 2 => xs.foldl max (intLo 32 t.signed)
  | 3 => word (· &&& ·) (2 ^ 32 - 1)
  | 4 => word (· ||| ·) 0
  | _ => word (· ^^^ ·) 0

def execRedi (o : LaneOps) (s : State) : Host.Outcome State Fault Refusal :=
  issue (.redi o) s fun c =>
    let xs := c.act.map fun l => rdVal (laneTy o) (c.s.vreg (c.t l) o.a.toNat).toNat
    .done (c.laneOut c.s o.d fun _ => (wrap (redOp o.func.toNat (laneTy o) (o.lo.getLsbD 4) xs) 32, 0))

def execScan (o : LaneOps) (s : State) : Host.Outcome State Fault Refusal :=
  issue (.scan o) s fun c =>
    .done (c.laneOut c.s o.d fun l =>
      let ls := c.act.filter fun m => if o.func.getLsbD 3 then decide (m < l) else decide (m ≤ l)
      let xs := ls.map fun m => rdVal (laneTy o) (c.s.vreg (c.t m) o.a.toNat).toNat
      (wrap (redOp (o.func.toNat % 8) (laneTy o) (o.lo.getLsbD 4) xs) 32, 0))

/-- R169: one combination of the tree. -/
def combTree (g : Nat → Nat → Nat × Fl) : Option Nat × Fl → Option Nat × Fl → Option Nat × Fl
  | (some u, f), (some v, f') => let r := g u v; (some r.1, f ||| f' ||| r.2)
  | (none, f), (v, f') => (v, f ||| f')
  | (u, f), (none, f') => (u, f ||| f')

/-- Adjacent entries combined. -/
def combPairs (g : Nat → Nat → Nat × Fl) : List (Option Nat × Fl) → List (Option Nat × Fl)
  | x :: y :: t => combTree g x y :: combPairs g t
  | t => t

/-- R169: five levels over 32 lanes. -/
def redTree (g : Nat → Nat → Nat × Fl) (xs : List (Option Nat × Fl)) : Nat × Fl :=
  let r := (combPairs g (combPairs g (combPairs g (combPairs g (combPairs g xs))))).headD (none, 0)
  (r.1.getD 0, r.2)

def execRedf (o : LaneOps) (s : State) : Host.Outcome State Fault Refusal :=
  issue (.redf o) s fun c =>
    let g : Nat → Nat → Nat × Fl := if o.func = 0 then fAdd .f32 (laneRnd o) (laneSat o) 0 else fMinMax .f32 (o.func == 2)
    let r := redTree g ((List.range 32).map fun l =>
      (if c.act.contains l then some (c.s.vreg (c.t l) o.a.toNat).toNat else none, 0))
    .done (c.laneOut c.s o.d fun _ => r)

/-- R168. -/
def execMatchAny (o : LaneOps) (s : State) : Host.Outcome State Fault Refusal :=
  issue (.matchAny o) s fun c =>
    let v (l : Nat) : Word := c.s.vreg (c.t l) o.a.toNat
    if o.func = 0 then .done (c.laneOut c.s o.d fun l => ((maskOf (c.act.filter fun m => v m == v l)).toNat, 0))
    else
      let same := c.act.all fun m => v m == v c.low
      let s := c.laneOut c.s o.d fun _ => (if same then (maskOf c.act).toNat else 0, 0)
      .done (c.act.foldl (fun s l => c.wrPred s o.c l same) s)

def execElect (o : LaneOps) (s : State) : Host.Outcome State Fault Refusal :=
  issue (.elect o) s fun c => .done (c.act.foldl (fun s l => c.wrPred s o.d l (l == c.low)) c.s)

end Sys2Proof.Machine
end

