-- ==== Sys2Proof/Machine/Keccak.lean ====
section
/-! DEFINITION. SHAKE256, the digest of R423 and R424: the function of that name (FIPS 202), with 64 bytes of output (log 9). -/

namespace Sys2Proof.Machine

/-- Rotation offsets of the lanes, lane `x + 5 * y`. -/
def rhoOff : List Nat := [0, 1, 62, 28, 27, 36, 44, 6, 55, 20, 3, 10, 43, 25, 39, 41, 45, 15, 21, 8, 18, 2, 61, 56, 14]

/-- Round constants. -/
def roundConst : List DWord :=
  [0x0000000000000001, 0x0000000000008082, 0x800000000000808A, 0x8000000080008000, 0x000000000000808B, 0x0000000080000001,
   0x8000000080008081, 0x8000000000008009, 0x000000000000008A, 0x0000000000000088, 0x0000000080008009, 0x000000008000000A] ++
  [0x000000008000808B, 0x800000000000008B, 0x8000000000008089, 0x8000000000008003, 0x8000000000008002, 0x8000000000000080,
   0x000000000000800A, 0x800000008000000A, 0x8000000080008081, 0x8000000000008080, 0x0000000080000001, 0x8000000080008008]

/-- Theta: every lane with the parities of two columns. -/
def theta (a : List DWord) : List DWord :=
  let c := (List.range 5).map fun x => (List.range 5).foldl (fun v y => v ^^^ a.getD (x + 5 * y) 0) 0
  let d := (List.range 5).map fun x => c.getD ((x + 4) % 5) 0 ^^^ (c.getD ((x + 1) % 5) 0).rotateLeft 1
  a.zipIdx.map fun e => e.1 ^^^ d.getD (e.2 % 5) 0

/-- Rho and pi: lane `(x, y)` rotated goes to `(y, 2 x + 3 y)`. -/
def rhoPi (a : List DWord) : List DWord :=
  (List.range 25).map fun i =>
    let j := (i % 5 + 3 * (i / 5)) % 5 + 5 * (i % 5)
    (a.getD j 0).rotateLeft (rhoOff.getD j 0)

/-- Chi: each lane with the two that follow it in its row. -/
def chi (b : List DWord) : List DWord :=
  b.zipIdx.map fun e => e.1 ^^^ (~~~(b.getD ((e.2 % 5 + 1) % 5 + e.2 / 5 * 5) 0) &&& b.getD ((e.2 % 5 + 2) % 5 + e.2 / 5 * 5) 0)

/-- Iota: the round constant. -/
def iota (rc : DWord) : List DWord → List DWord
  | [] => []
  | x :: t => (x ^^^ rc) :: t

/-- Keccak-f[1600] on 25 lanes. -/
def keccakF (a : List DWord) : List DWord := roundConst.foldl (fun a rc => iota rc (chi (rhoPi (theta a)))) a

/-- Bytes of a block that a permutation absorbs. -/
def shakeRate : Nat := 136

/-- A lane from its bytes, the least significant first. -/
def laneOf (bs : List Byte) : DWord := BitVec.ofNat 64 (bs.foldr (fun b n => b.toNat + 256 * n) 0)

/-- The message with its suffix, padded to whole blocks. -/
def shakePad (m : List Byte) : List Byte :=
  let gap := shakeRate - m.length % shakeRate
  if gap = 1 then m ++ [0x9F] else m ++ [0x1F] ++ List.replicate (gap - 2) 0 ++ [0x80]

/-- Absorb a number of blocks. -/
def absorb : Nat → List Byte → List DWord → List DWord
  | 0, _, a => a
  | n + 1, m, a =>
    absorb n (m.drop shakeRate) (keccakF (a.zipIdx.map fun e => e.1 ^^^ laneOf (((m.take shakeRate).drop (8 * e.2)).take 8)))

/-- The digest's lanes. -/
def shakeLanes (m : List Byte) : List DWord :=
  let p := shakePad m
  (absorb (p.length / shakeRate) p (List.replicate 25 0)).take 8

/-- SHAKE256 with 64 bytes of output; byte `i` of the digest is bits `8 i + 7` to `8 i`. -/
def shake256 (m : List Byte) : BitVec 512 := BitVec.ofNat 512 ((shakeLanes m).foldr (fun l n => l.toNat + 2 ^ 64 * n) 0)

end Sys2Proof.Machine
end

