-- ==== Sys2Proof/Machine/Net.lean ====
section
/-! DEFINITION. A request performed at its home, and the acknowledgement of a write (R178, R185 to R190, R268 to R271, R320, R408). -/

namespace Sys2Proof.Machine

/-- Bytes of its home that a request orders against: whole granules for `lr`, `sc` and tags. -/
def Req.range (r : Req) : Nat × Nat :=
  match r.kind with
  | .lr | .sc | .stag | .ldtag => (r.place.pa / 32 * 32, 32)
  | _ => (r.place.pa, r.n)

/-- A request that a later one follows in floe order and program order: of one floe, or the later one's thread comes after it (R273,
R275). -/
def Req.sameOrder (r q : Req) : Bool := r.fid == q.fid || q.thread.any r.order.contains

/-- An earlier load of the request's floe still waits for its walk (R64). -/
def State.lateFirst (s : State) (id : Nat) (r : Req) : Bool := match s.floeBy r.floe r.fid with
  | some (_, f) => f.late.any fun l => decide (l.id < id)
  | none => false

/-- An earlier request of the floe or thread to one of the same bytes has not been performed (R178, R273); those that travel with it are
performed with it. -/
def State.behind (s : State) (id : Nat) (r : Req) : Bool :=
  s.lateFirst id r || s.net.any fun e => decide (e.1 < id) && e.2.sameOrder r && e.2.group != r.group && !e.2.performed && e.2.place.sys == r.place.sys &&
    runsMeet e.2.range r.range

/-- The requests that travel with one: those of its instruction in its granule, in order of lanes (R271). -/
def State.travel (s : State) (r : Req) : List (Nat × Req) :=
  s.net.filter fun e => e.2.group == r.group && !e.2.performed && e.2.place.sys == r.place.sys && e.2.place.pa / 32 == r.place.pa / 32

/-- The region that a request's write is recorded with: its slot's counter as the write is performed, or, once its floe has left the
slot, the counter as the write was handed on (R286; DEDUCED, log 74). -/
def State.reqRegion (s : State) (r : Req) : Nat := match s.floe? r.floe with
  | some f => if f.fid == r.fid then s.region r.floe else r.region
  | none => r.region

/-- Agent of a request for the race words (R286). -/
def State.reqAgent (s : State) (r : Req) : Agent :=
  ⟨identFloe r.floe, false, identFloe r.floe, r.start, r.know, r.fold, r.block, s.reqRegion r, r.mark, r.who⟩

/-- A logged write to a watched page that races as its home stands now: the spec checks it when it issues, and a write that came between
is met here (DESIGN CHOICE, log 22). -/
def State.lateRace (s : State) (r : Req) : Bool := r.watched && r.isWrite && !r.ask && !s.raceOk (s.reqAgent r) (.glob r.ctx r.va) r.n

/-- A write at the home: bytes, race word on a watched page, the release it carries; to a device-side alias it is discarded with the
launch-write fault (R302). -/
def State.homeWrite (s : State) (r : Req) (v : Nat) : State :=
  if (s.aliasOf r.place).isSome then s.addDueOnce r.block r.uid 0x8007 r.coord.toNat else
  let s := s.writeN r.place r.n v
  let s := if r.watched then s.raceWrite (s.reqAgent r) (.glob r.ctx r.va) r.n else s
  s.syncWrite .glob r.place.sys r.place.pa r.n r.mark r.who

/-- The value that a read returns: memory, with the bytes of the thread's own log over it (R180). -/
def State.homeRead (s : State) (r : Req) : Nat :=
  leVal ((leBytes (s.readPlace r.place r.n) r.n).mapIdx fun i b => match r.fwd.find? (·.1 == i) with
    | some e => e.2
    | none => b)

/-- The read synchronises with the releases it sees, and its value is logged or compared when it acquires (R274, R377). -/
def State.readAt (s : State) (r : Req) : State :=
  match s.floeBy r.floe r.fid with
  | none => s
  | some (k, f) =>
    let acq := (f.pend.find? fun p => some p.n == r.pend).bind (·.acq)
    match s.whereIs r.floe r.fid with
    | .slot _ => s.readSync k f r.lane .glob r.place.sys r.place.pa r.n acq
    | _ => s

def State.answer (s : State) (r : Req) (ws : List Word) (b : Option Bool) : State :=
  match r.pend with
  | some n => s.arrivePend r.floe r.fid n r.lane ws b
  | none => s

/-- The reservation that an `lr` set, by the serial of its pending result. -/
def Resv.isOf (v : Resv) (r : Req) : Bool := v.gran == r.place.pa / 32 && v.sys == r.place.sys && some v.n == r.pend

/-- `lr` returns: its reservation is live, where its thread still holds it, for which the hold of R253 begins, or where an `sc` that has
issued uses it (R188). -/
def State.lrLive (s : State) (r : Req) : State :=
  let live (v : Resv) : Resv := { v with live := true, broken := false }
  let s : State := { s with net := s.net.map fun e => match e.2.resv with
    | some v => if e.2.thread = r.thread ∧ v.isOf r then (e.1, { e.2 with resv := some (live v) }) else e
    | none => e }
  match s.floeBy r.floe r.fid with
  | none => s
  | some (k, f) =>
    match f.tkey k r.lane with
    | none => s
    | some t => match (s.thread t).resv with
      | some v => if v.isOf r then
          (s.modThread t fun th => { th with resv := some (live v) }).modFid r.floe r.fid fun f => { f with hold := some (s.clock (dieOf (coreOfFloe k))) }
          else s
      | none => s

/-- `sc` stores: its reservation is live, not broken, and on this granule (R188). -/
def Req.holds (r : Req) : Bool :=
  match r.resv with
  | some v => v.live && !v.broken && v.gran == r.place.pa / 32 && v.sys == r.place.sys
  | none => false

def Req.blkr (r : Req) : Nat := r.block % 32

/-- The request is performed; `drop` also removes it, its answer given. -/
def State.performed (s : State) (id : Nat) (drop : Bool) : State :=
  { s with net := if drop then del s.net id else match look s.net id with
    | some r => put s.net id { r with performed := true }
    | none => s.net }

/-- A granule that the request would read is poisoned (R408). -/
def State.readsPoison (s : State) (r : Req) : Bool :=
  (match r.kind with
    | .load | .bank _ => decide (r.fwd.length < r.n)
    | .lr | .atom _ _ _ | .ldtag => true
    | _ => false) && s.poisoned r.place r.n

/-- The kind 6 record of a float reduction (R377). -/
def State.combRec (s : State) (r : Req) : RRec :=
  { ctx := r.ctx, kind := 6, pos := replPos r.floe r.blkr, seq := (lookD (default : Sched) s.sched (islotOfFloe r.floe)).issues
    mask := 1#32 <<< r.lane, word := r.coord, die := if r.place.sys then none else some (s.homeDie r.place.pa) }

/-- A float reduction that replay holds back. -/
def State.replHeld (s : State) (r : Req) : Bool :=
  match r.kind with
  | .atom op _ false => decide (8 ≤ op) && !s.replOrder (s.combRec r)
  | _ => false

/-- The value of an acquire load is a kind 4 event (R377). -/
def State.acqValue (s : State) (r : Req) (v : Nat) : State :=
  match s.floeBy r.floe r.fid with
  | some (_, f) => if ((f.pend.find? fun p => some p.n == r.pend).bind (·.acq)).isSome then s.replValue r.floe r.blkr 4 r.lane r.coord v else s
  | none => s

/-- What each kind of request does at its home. -/
def State.perform (s : State) (id : Nat) (r : Req) : State :=
  match r.kind with
  | .load =>
    let v := s.homeRead r
    (((s.readAt r).acqValue r v).answer r (loadWords (r.signed.getD .z32) v) none).performed id true
  | .lr =>
    let v := s.homeRead r
    ((((s.readAt r).acqValue r v).answer r (loadWords (r.signed.getD .z32) v) none).lrLive r).performed id true
  | .store => (s.homeWrite r r.data).performed id false
  | .atom op ty ret =>
    let old := s.readPlace r.place r.n
    let s := ((s.readAt r).homeWrite r (atomNew op ty old r.data r.cmp))
    if ret then ((s.answer r (atomWords ty old) none).replValue r.floe r.blkr 3 r.lane r.coord old).performed id true
    else
      (if 8 ≤ op then s.replCombine (s.combRec r) else s).performed id false
  | .sc =>
    let ok := r.holds
    let s := if ok then s.homeWrite r r.data else s
    ((s.answer r [] (some ok)).replValue r.floe r.blkr 5 r.lane r.coord (if ok then 1 else 0)).performed id true
  | .stag => ({ s with tags := putD 0 s.tags (r.place.pa / 32) (BitVec.ofNat 4 r.data) }.takeInjection 9 (s.homeDie r.place.pa)
      (r.place.pa / 32 * 32) 32).performed id false
  | .ldtag =>
    (s.answer r [BitVec.ofNat 32 (if r.data = 1 then (lookD 0 s.tags (r.place.pa / 32)).toNat else 0)] none).performed id true
  | .bank w =>
    let s := s.setAcc 0 0 w (BitVec.ofNat 32 (s.readPlace r.place r.n))
    ((s.markBanks (w / 65536) (w % 65536 / 512) 1).answer r [] none).performed id true

/-- A request comes to its turn at its home: it is performed, or it meets poison (R408) or a late race (log 22). -/
def State.serveReq (s : State) (id : Nat) : State :=
  match look s.net id with
  | none => s
  | some q =>
    if s.readsPoison q then { s with net := del s.net id }.fatalStop q.grid (some (coreOfFloe q.floe))
    else if s.lateRace q then
      let s := s.performed id false
      if (s.block q.block).uid = q.uid then s.addDue q.block 0x8005 0 q.coord.toNat else s
    else (s.migTouch (coreOfFloe q.floe) q.ctx q.mig q.place).perform id q

/-- A request and those that travel with it, at their home, once earlier ones to the same bytes are performed (R178, R269, R271, R404). -/
def State.atHome (s : State) (id : Nat) : State :=
  match look s.net id with
  | none => s
  | some q =>
    let rs := s.travel q
    if q.performed ∨ ((rs.head?).map fun e => s.replHeld e.2) = some true ∨ (rs.any fun e => s.behind e.1 e.2) ∨
        (!q.place.sys ∧ !s.shellUp q.place.pa) then s
    else rs.foldl (fun s e => s.serveReq e.1) s

/-- HOME_ACCESS: a request is performed at its home. -/
def execHomeAccess (r : Nat) (s : State) : Host.Outcome State Fault Refusal := .next ((s.atHome r).settleDue 64).noteDone

/-- The homes of watched pages, and of those whose tags are checked, answer a floe's access before it issues again (R176, R290). -/
def State.homeAnswers (s : State) : State :=
  let rs := s.net.filter fun e => e.2.ask && !e.2.performed
  if rs = [] then s else (rs.foldl (fun s e => s.atHome e.1) s).settleDue 64

/-- WRITE_ACKNOWLEDGEMENT: the acknowledgement returns to the issuing floe (R271, R276). -/
def execWriteAcknowledgement (r : Nat) (s : State) : Host.Outcome State Fault Refusal :=
  match look s.net r with
  | none => .next s
  | some q => if q.performed then .next { s with net := del s.net r }.noteDone else .next s

end Sys2Proof.Machine
end

