-- ==== Sys2Proof/Machine/Scratch.lean ====
section
/-! DEFINITION. Mapped regions and circular buffers (R233 to R240): `mapr`, `wback`, `unmapr`, `cbinit`, `cbacq`, `cbrel`, with the
events that fill chunks and complete write-backs. -/

namespace Sys2Proof.Machine

/-! ## `mapr` (R233) -/

/-- R233 check 2: ADDR of the failure. -/
def State.mapBad (s : State) (bk d : Nat) : Option Nat :=
  let saddr := bits d 31 0
  let size := bits d 63 32
  let ctl := bits d 159 128
  let lvl := bits ctl 5 4
  let mine := s.maps.filter fun e => e.1 / 8 == bk
  [failIf 1 (decide (bits ctl 31 9 ≠ 0 ∨ bits ctl 7 6 ≠ 0 ∨ bits ctl 3 3 ≠ 0 ∨ lvl = 0 ∨ bits d 255 160 ≠ 0)),
   failIf 0x0A (mine.any fun e => e.1 % 8 == ctl % 8),
   failIf 0x0B (decide (saddr % 256 ≠ 0 ∨ size % 256 ≠ 0 ∨ size = 0 ∨ bits d (64 + 47) 64 % 256 ≠ 0) ||
      mine.any fun e => e.2.lvl == lvl && runsMeet (saddr, size) (e.2.saddr, e.2.size))].findSome? id

def execMapr (o : DescOps) (s : State) : Host.Outcome State Fault Refusal :=
  issue (.mapr o) s fun c =>
    if c.act = [] then .done c.s
    else match c.readDesc o.space (c.s.vreg (c.t c.low) o.a.toNat).toNat 32 32 0 with
    | .error r => r
    | .ok (s, d) =>
      match s.mapBad c.bk d with
      | some a => .trap 0x0015 c.act a
      | none =>
        let saddr := bits d 31 0
        let size := bits d 63 32
        let lvl := bits d 133 132
        let ptr := bits d 127 64
        let wr := bits d 136 136 == 1
        let ent := s.bent c.g.ctx (bits ptr 59 48)
        if s.shareSize c.bk (lvlOf lvl) < saddr + size then .trap 0x0012 c.act 0
        else if s.bentPoison c.g.ctx (bits ptr 59 48) then .poison
        else if !s.inBounds c.g.ctx (bits ptr 59 48) (ptr % 2 ^ 48) size || !bentR ent || (wr && !bentW ent) then .trap 0x0011 c.act 0
        else
          let pa := s.shareBase c.bk (lvlOf lvl) + saddr
          .done { s with
            maps := put s.maps (8 * c.bk + bits d 130 128) ⟨saddr, size, BitVec.ofNat 64 ptr, wr, lvl⟩
            track := cut s.track (trackKey (lvlOf lvl) pa) (trackKey (lvlOf lvl) pa + size / 256) }

/-! ## `wback` and `unmapr` (R235) -/

def Ctx.wbIssue (c : Ctx) (map : BitVec 3) (slot : BitVec 4) (unmap : Bool) : Res :=
  if c.act = [] then .done c.s
  else if (look c.s.maps (8 * c.bk + map.toNat)).isNone then .trap 0x0018 c.act map.toNat
  else match c.barBad slot.toNat with
  | some code => .trap code c.act slot.toNat
  | none =>
    let n := c.s.newId
    let w : WBack := {
      core := c.core, block := c.bk, uid := (c.s.block c.bk).uid, grid := (c.s.block c.bk).grid, ctx := c.g.ctx, floe := c.k, fid := c.f.fid
      map := map.toNat, slot := slot.toNat, unmap := unmap, coord := c.f.coord, start := c.f.start, know := c.f.know, fold := c.f.fold
      region := c.s.region c.k, who := c.s.who c.bk }
    c.logEntry ({ n.2 with wbs := put n.2.wbs n.1 w }.raisePend c.core slot.toNat) (.wback n.1)

def execWback (h : Head) (map : BitVec 3) (slot : BitVec 4) (s : State) : Host.Outcome State Fault Refusal :=
  issue (.wback h map slot) s fun c => c.wbIssue map slot false

def execUnmapr (h : Head) (map : BitVec 3) (slot : BitVec 4) (s : State) : Host.Outcome State Fault Refusal :=
  issue (.unmapr h map slot) s fun c => c.wbIssue map slot true

/-- A write-back as an agent: the floe as it stood at issue (R289). -/
def WBack.agent (w : WBack) : Agent := ⟨identFloe w.floe, false, identFloe w.floe, w.start, w.know, w.fold, w.block, w.region, {}, w.who⟩

/-- Write one dirty chunk to its home (R235): checks 2 to 5 of R176 with permission w; a range or permission that is gone cancels it (log 16). -/
def State.wbChunk (s : State) (id : Nat) (w : WBack) (m : SMap) (ch : Nat) : Except Halt State :=
  let l := lvlOf m.lvl
  let va := wrap (m.ptr.toNat % 2 ^ 48 + (ch - (s.shareBase w.block l + m.saddr)) : Nat) 48
  let b := bits m.ptr.toNat 59 48
  if s.bentPoison w.ctx b then .error .poison
  else if !s.inBounds w.ctx b va 256 || !bentW (s.bent w.ctx b) then .error (.lost 0x8008 va)
  else match s.xlat w.core w.ctx va true with
  | .ok leaf size =>
    let p := leafPlace leaf size va
    match s.badTag w.ctx ⟨0, m.ptr.toNat, va, leaf, size⟩ 256 with
    | some g => .error (.lost 0x8004 g)
    | none =>
    match s.shadowHalt w.core w.ctx va 256 leaf w.agent with
    | some h => .error h
    | none =>
    if !p.sys && !s.shellUp p.pa then .error .wait
    else if s.uePad l ch 256 then .error .poison
    else
      let s := s.setTrack l ch (lookD 0 s.track (trackKey l ch) % 2)
      if (s.aliasOf p).isSome then .ok (s.addDueOnce w.block w.uid 0x8007 w.coord.toNat) else
      let bs := getBs (s.lvl l) ch 256
      let s := ((s.writePlace p bs).syncWrite .glob p.sys p.pa 256 {} {}).enterEngine l ch 256 (some id)
      let s := s.migTouch w.core w.ctx (leafMig leaf size va) p
      .ok (if leafWatch leaf then s.raceWrite w.agent (.glob w.ctx va) 256 else s)
  | x => .error (haltOf va true x)

/-- Write the dirty chunks of a list in order until one stops; how many of the list are done. -/
def State.wbChunks (id : Nat) (w : WBack) (m : SMap) : List Nat → Nat → State → State × Nat × Option Halt
  | [], n, s => (s, n, none)
  | ch :: cs, n, s =>
    if !s.chunkD (lvlOf m.lvl) ch then State.wbChunks id w m cs (n + 1) s
    else match s.wbChunk id w m ch with
      | .ok s => State.wbChunks id w m cs (n + 1) s
      | .error h => (s, n, some h)

/-- The chunks of a map, ascending. -/
def State.mapChunks (s : State) (block : Nat) (m : SMap) : List Nat :=
  (List.range (m.size / 256)).map fun i => s.shareBase block (lvlOf m.lvl) + m.saddr + 256 * i

/-- Close a map: V and D of its chunks clear, its fills stop (R235). -/
def State.closeMap (s : State) (key : Nat) : State :=
  match look s.maps key with
  | none => s
  | some m =>
    let lo := trackKey (lvlOf m.lvl) (s.shareBase (key / 8) (lvlOf m.lvl) + m.saddr)
    { s with
      maps := del s.maps key
      track := cut s.track lo (lo + m.size / 256)
      fills := s.fills.filter (·.map ≠ key) }

/-- R228, R235: a write-back is complete; `unmapr` closes the map. Its record names the region that ended as it began (R287). -/
def State.wbDone (s : State) (id : Nat) (w : WBack) : State :=
  let r := s.storeRec (dieOf w.core) ⟨identFloe w.floe, w.region, w.know, w.fold⟩
  let s := { r.2 with wbs := del r.2.wbs id }
  let s := if w.unmap then s.closeMap (8 * w.block + w.map) else s
  s.completeOwn w.core w.slot w.uid (opMark (some r.1) w.who)

/-- WRITEBACK_COMPLETE (R235, R260, R336, R441). -/
def execWritebackComplete (op : Nat) (s : State) : Host.Outcome State Fault Refusal :=
  match look s.wbs op with
  | none => .next s
  | some w =>
    if !w.begun ∨ w.held ≠ [] then .next s
    else match look s.maps (8 * w.block + w.map) with
    | none => .next ((s.wbDone op w).noteDone.settleDue 64)
    | some m =>
      let cs := s.mapChunks w.block m
      let r := State.wbChunks op w m (cs.drop w.next) 0 s
      let w := { w with next := w.next + r.2.1, full := false }
      let t : State := { r.1 with wbs := put r.1.wbs op w }
      .next ((match r.2.2 with
        | none => if t.engineBusy op then t else t.wbDone op w
        | some (.lost code addr) => { t with wbs := del t.wbs op }.addDue w.block code addr w.coord.toNat
        | some .poison =>
          ({ t with wbs := del t.wbs op }.logPad (lvlOf m.lvl) ((cs.drop w.next).headD 0) 256 w.ctx).fatalStop w.grid (some w.core)
        | some .wait => t
        | some (.ats va) => t.askAts w.core w.ctx va
        | some (.page va x _) =>
          let q := State.openPages (dieOf w.core) w.ctx true [(va, x)] [] t
          { q.2 with wbs := put q.2.wbs op { w with held := q.1.getD [], full := q.1.isNone, fva := va } }).noteDone.settleDue 64)

/-- MAP_FILL_COMPLETE: the chunk's 256 bytes arrive from their home, through the bank's engine port, and it is valid (R234, R260). A fill whose page is gone stops; its toucher
asks again. -/
def execMapFillComplete (fill : Nat) (s : State) : Host.Outcome State Fault Refusal :=
  match s.fills[fill]? with
  | none => .next s
  | some x =>
    let gone : State := { s with fills := s.fills.eraseIdx fill }
    match look s.maps x.map with
    | none => .next gone
    | some m =>
      let l := lvlOf m.lvl
      let ch := s.shareBase (x.map / 8) l + m.saddr + x.off
      let va := wrap (m.ptr.toNat % 2 ^ 48 + x.off : Nat) 48
      match s.xlat (coreOfFloe x.floe) x.ctx va false with
      | .ok leaf size =>
        let p := leafPlace leaf size va
        if !p.sys && !s.shellUp p.pa then .next s
        else if s.poisoned p 256 then .next ((gone.fatalStop (s.block (x.map / 8)).grid (some (x.map / 256))).settleDue 64)
        else .next ((((gone.writeLvl l ch (leBytes (s.readPlace p 256) 256)).setTrack l ch 1).enterEngine l ch 256 none).migTouch
          (coreOfFloe x.floe) x.ctx (leafMig leaf size va) p)
      | _ => .next gone

/-! ## Circular buffers (R236 to R239) -/

def State.cbuf (s : State) (core n : Nat) : CBuf := lookD {} s.cbufs (16 * core + n)
def State.setCbuf (s : State) (core n : Nat) (b : CBuf) : State := { s with cbufs := put s.cbufs (16 * core + n) b }

/-- Slots claimed and not yet filled, filled beyond the run, or filled (R236). -/
def CBuf.busy (b : CBuf) : Bool := b.free ≠ b.nslot

def execCbinit (o : DescOps) (s : State) : Host.Outcome State Fault Refusal :=
  issue (.cbinit o) s fun c =>
    if c.act = [] then .done c.s
    else match c.readDesc o.space (c.s.vreg (c.t c.low) o.a.toNat).toNat 16 16 0 with
    | .error r => r
    | .ok (s, d) =>
      let base := bits d 31 0
      let size := bits d 63 32
      let w := bits d 95 64
      let ns := bits w 6 0
      let lvl := bits w 9 8
      let n := bits w 19 16
      let b := s.cbuf c.core n
      if bits w 7 7 ≠ 0 ∨ bits w 15 10 ≠ 0 ∨ bits w 31 20 ≠ 0 ∨ bits d 127 96 ≠ 0 ∨ lvl = 0 ∨ lvl = 3 ∨ ns < 2 ∨ 64 < ns then
        .trap 0x0015 c.act 0x01
      else if base % 256 ≠ 0 ∨ size % 256 ≠ 0 ∨ size = 0 ∨ 2 ^ 22 < size then .trap 0x0015 c.act 0x0B
      else if b.val ∧ b.owner ≠ c.bk then .trap 0x0026 c.act n
      else if b.val && b.busy then .trap 0x0027 c.act n
      else if s.shareSize c.bk (lvlOf lvl) < base + ns * size then .trap 0x0012 c.act 0
      else .done (s.setCbuf c.core n { owner := c.bk, base := base, ssz := size / 256, val := true, lvl := lvl, nslot := ns, free := ns })

/-- R239: the buffer is not valid and owned by the block. -/
def Ctx.cbBad (c : Ctx) (n : Nat) : Bool := let b := c.s.cbuf c.core n; !(b.val && b.owner == c.bk)

def execCbacq (h : Head) (d : BitVec 8) (buf : BitVec 4) (s : State) : Host.Outcome State Fault Refusal :=
  issue (.cbacq h d buf) s fun c =>
    let n := buf.toNat
    let b := c.s.cbuf c.core n
    if c.act = [] then .done c.s
    else if c.cbBad n then .trap 0x0025 c.act n
    else if b.filled = 0 then .hold c.s (.cbacq n)
    else
      let v := BitVec.ofNat 32 (b.base + b.acq * 256 * b.ssz)
      let s := c.act.foldl (fun s l => c.wr1 s d l v) c.s
      let s := s.mergeRecs c.k (look b.recs b.acq).toList
      .done (s.setCbuf c.core n { b with
        acq := (b.acq + 1) % b.nslot, filled := b.filled - 1, held := b.held + 1 })

/-- `cbrel`: the oldest held slot is free, and the copy that claims it next comes after this (R239, log 36). -/
def execCbrel (h : Head) (buf : BitVec 4) (s : State) : Host.Outcome State Fault Refusal :=
  issue (.cbrel h buf) s fun c =>
    let n := buf.toNat
    let b := c.s.cbuf c.core n
    if c.act = [] then .done c.s
    else if c.cbBad n || b.held == 0 then .trap 0x0025 c.act n
    else if c.f.loadsOut ∨ c.s.writesOut c.k c.f then .stall c.s
    else
      let r := c.s.publish c.k
      .done (r.2.setCbuf c.core n { b with
        rel := (b.rel + 1) % b.nslot, held := b.held - 1, free := b.free + 1, recs := put b.recs (64 + b.rel) r.1 })

end Sys2Proof.Machine
end

