-- ==== Sys2Proof/Machine/Window.lean ====
section
/-! DEFINITION. The management window, its commands and the outside ports (R393, R396 to R398, R413 to R418, R421, R423). -/

namespace Sys2Proof.Machine

/-! ## Firmware images (R423) -/

/-- The body's digest. -/
def imageDigest (im : List Byte) : BitVec 512 := shake256 (Config.imageParts im).2.2.2

/-- Checks 1 to 3 of an image, which carries a key of 1,952 bytes and a signature of 3,309. -/
def State.imageOk (s : State) (im : List Byte) : Bool :=
  let p := Config.imageParts im
  decide (p.2.1.length = 1952 ∧ p.2.2.1.length = 3309 ∧ shake256 p.2.1 = Config.fusedKeyDigest) &&
  Config.mldsaVerify p.2.1 p.2.2.1 (p.1 ++ leBytes (imageDigest im).toNat 64) && !Config.svnLow s.pkg.svn im

/-! ## HMAP, FWSVN, REPLCTL -/

/-- A write of HMAP (R414): memory is scrubbed to zero under the new hash; 0 is ignored. -/
def State.setHmap (s : State) (v : BitVec 8) : State :=
  if v = 0 then s
  else { s with
    pkg := { s.pkg with hmap := v, rebuild := false }, mem := [], tags := [], poison := []
    latent := s.latent.filter fun r => !(r.array == 8 || r.array == 9)
    threads := breakResv s.threads false 0 (2 ^ 40), net := breakNet s.net false 0 (2 ^ 40) }

/-- A write of FWSVN: it takes the value that the images which passed carry, and no other (R423). -/
def State.setFwsvn (s : State) (v : DWord) : State :=
  if v = s.pkg.ranSvn then { s with pkg := { s.pkg with svn := v } } else s

/-- A write of REPLCTL: a recording starts with an empty log, a replay at the beginning of the log that the buffers hold; both count issues
from zero (R377, R378, log 10). -/
def State.setReplctl (s : State) (ctx : Nat) (v : DWord) : State :=
  let s := s.setCtxReg ctx 0x40 v
  let zero (t : Tab Sched) : Tab Sched := t.map fun e => (e.1, { e.2 with issues := 0 })
  let others := s.rlog.filter fun r => r.ctx ≠ ctx
  if s.replMode ctx = 1 then
    { s with rlog := others, rclocks := s.rclocks.filter (fun c => c.1 ≠ ctx), rlogFull := s.rlogFull.filter (· ≠ ctx), sched := zero s.sched }
  else if s.replMode ctx = 2 then
    let l := s.readLog ctx
    { s with
      rlog := others ++ l, rpend := (s.rpend.filter fun r => r.ctx ≠ ctx) ++ l.filter fun r => 1 ≤ r.kind && r.kind ≤ 6, sched := zero s.sched }
  else { s with rpend := s.rpend.filter fun r => r.ctx ≠ ctx }

/-- HMAP_WRITE: no wake event of R420. -/
def execHmapWrite (value : BitVec 64) (s : State) : Host.Outcome State Fault Refusal :=
  .next (if s.windowOn then s.setHmap (value.truncate 8) else s)

/-- FWSVN_WRITE: it works in recovery too. -/
def execFwsvnWrite (value : BitVec 64) (s : State) : Host.Outcome State Fault Refusal :=
  .next (if (s.windowOn || s.pkg.recovery || s.pkg.alarm) && decide (1 ≤ s.pkg.boot) then s.setFwsvn value else s)

/-- LINK_TEST_CORRUPT: bit 0 of LTCTL corrupts the next flit of a link direction (R417). -/
def State.corruptLink (s : State) (die dst : Nat) (v : DWord) : State :=
  if v.getLsbD 0 ∧ die < 8 ∧ dst ≤ 8 ∧ die ≠ dst then
    { s with linkDirs := put s.linkDirs (16 * die + dst) { lookD (default : Link) s.linkDirs (16 * die + dst) with corrupt := true } }
  else s

def execLinkTestCorrupt (die dst : Nat) (value : BitVec 64) (s : State) : Host.Outcome State Fault Refusal :=
  .next (if s.windowOn then s.wake.corruptLink die dst value else s)

/-! ## The registers (R417, R421) -/

/-- What register a window offset names. -/
inductive WReg where
  | glob (off : Nat)
  | ctxEnt (ctx word : Nat)
  | ctx (ctx off : Nat)
  | die (die off : Nat)
  | cmd (off : Nat)
  /-- A pair of 32-bit registers: core key or 1024 + die, number of the low one. -/
  | csrs (core n : Nat)
  | none
deriving DecidableEq, Repr, Inhabited

/-- The register at an offset that is a multiple of 8. -/
def wreg (off : Nat) : WReg :=
  if off < 0x1000 then .glob off
  else if 0x10000 ≤ off ∧ off < 0x11000 then .ctxEnt ((off - 0x10000) / 64) (off % 64 / 8)
  else if 0x20000 ≤ off ∧ off < 0x24000 then .ctx ((off - 0x20000) / 256) (off % 256)
  else if 0x40000 ≤ off ∧ off < 0xC0000 then
    let d := (off - 0x40000) / 0x10000
    let o := off % 0x10000
    if 0x1000 ≤ o ∧ o < 0x1038 then .csrs (1024 + d) (0x380 + (o - 0x1000) / 4) else .die d o
  else if 0x100000 ≤ off ∧ off < 0x200000 then
    let c := (off - 0x100000) / 0x400
    let n := 0x300 + off % 0x400 / 4
    if c % 128 < Config.coresOf (c / 128) ∧ n < 0x380 then .csrs c n else .none
  else if 0x200000 ≤ off ∧ off < 0x200040 then .cmd (off % 64)
  else .none

/-- Whether a register answers now: in recovery only FWSVN and the command registers, in an alarm only the global page. -/
def State.answers (s : State) (r : WReg) : Bool :=
  s.windowOn || (s.pkg.recovery && !s.pkg.alarm && (match r with
    | .glob o => o == 0x40
    | .cmd _ => true
    | _ => false)) || (s.pkg.alarm && (match r with
    | .glob _ => true
    | _ => false))

/-- Hottest of a list of temperatures, the lower number first. -/
def hottest (l : List (Nat × Nat)) : Nat × Nat := l.foldl (fun b x => if b.2 < x.2 then x else b) (0, 0)

/-- Temperature of a die's hottest core (R421, R422). -/
def State.dieTemp (s : State) (die : Nat) : Nat := (slice s.temps (128 * die) (128 * die + 128)).foldl (fun m e => max m e.2) 0

/-- THERM; the coolant's inlet temperature is a free value. -/
def State.therm (s : State) : Nat :=
  let d := hottest ((List.range 8).map fun d => (d, s.dieTemp d))
  let m := (s.pkg.dramHot.map (·.2)).foldl max 0
  let f := (List.range 8).foldl (fun n d => min n (lookD 16 s.pkg.freq d)) 16
  (Config.freeWord s.fresh).toNat % 256 * 2 ^ 40 + m % 256 * 2 ^ 32 + d.1 * 2 ^ 24 + d.2 % 256 * 2 ^ 16 + f % 256 * 2 ^ 8

/-- A 32-bit register as the host reads it: its own copies of the debug command and error registers, the core's others. -/
def State.hostCsr (s : State) (core n : Nat) : Word :=
  if 1024 ≤ core then (if csrCommand n then 0 else s.csr core n)
  else if n ≤ 0x305 then (if csrCommand n then 0 else s.csr (1024 + core) n)
  else if csrExists n then s.coreCsr core 0 n else 0

def State.readReg (s : State) (r : WReg) : DWord :=
  match r with
  | .glob o =>
    let p := s.pkg
    if o = 0 then BitVec.ofNat 64 (p.master * 2 ^ 24 + p.shlost.toNat * 2 ^ 16 + p.fenced.toNat * 2 ^ 8 + p.live.toNat)
    else if o = 0x08 then p.hmap.zeroExtend 64
    else if o = 0x10 then BitVec.ofNat 64 s.memwBase
    else if o = 0x18 then BitVec.ofNat 64 (p.pcap * 2 ^ 32 + p.waketol)
    else if o = 0x20 then BitVec.ofNat 64 (p.thr.toNat * 2 ^ 8 + (if p.ready then 4 else 0) + p.pst)
    else if o = 0x28 then BitVec.ofNat 64 s.therm
    else if o = 0x30 then p.almstat.zeroExtend 64
    else if o = 0x38 then p.almpol.zeroExtend 64
    else if o = 0x40 then p.svn
    else 0
  | .ctxEnt c w => BitVec.ofNat 64 (s.ctxEnt c / 2 ^ (64 * w))
  | .ctx c o =>
    if o = 0x58 then BitVec.ofNat 64 (s.placesHeld c)
    else if o ≤ 0x48 then s.ctxReg c o else 0
  | .die d o =>
    if o = 0 then (Config.dcap d).truncate 64
    else if o = 8 then (Config.dcap d).extractLsb' 64 64
    else if o = 0x10 ∨ o = 0x18 ∨ o = 0x20 ∨ o = 0x28 then s.dieReg d o
    else 0
  | .cmd o =>
    if 0x08 ≤ o ∧ o ≤ 0x20 then lookD 0 s.pkg.cmdArg ((o - 8) / 8)
    else if o = 0x28 then BitVec.ofNat 64 ((if s.pkg.cmdOp.isSome then 1 else 0) + s.pkg.cmdErr * 2 ^ 8)
    else 0
  | .csrs c n => s.hostCsr c (n + 1) ++ s.hostCsr c n
  | .none => 0

/-- The value read with its access size, in place: all of it, or one half; 1 and 2 bytes read zero. -/
def sized (off size : Nat) (v : DWord) : Option Nat :=
  if size = 8 ∧ off % 8 = 0 then some v.toNat
  else if size = 4 ∧ off % 4 = 0 then some (if off % 8 = 0 then v.toNat % 2 ^ 32 else v.toNat / 2 ^ 32)
  else none

/-- RC_REGISTER_READ: a read of the window; TRDROP and LDROP clear (R297, R362, R417). -/
def execRcRegisterRead (off size : Nat) (s : State) : Host.Outcome State Fault Refusal :=
  let r := wreg (off / 8 * 8)
  if !s.answers r then .next s
  else match sized off size (s.readReg r) with
  | none => .next (s.send (.readData 0))
  | some v =>
    let s := s.send (.readData v)
    .next (match r with
      | .ctx c o => if o = 0x38 ∨ o = 0x48 then s.setCtxReg c o 0 else s
      | .glob o => if o = 0x28 then { s with fresh := s.fresh + 1 } else s
      | _ => s)

/-- The bits of `new` that a write covers (`m`) and a register lets change (`w`). -/
def merged (old new m w : DWord) : DWord := (old &&& ~~~(m &&& w)) ||| (new &&& m &&& w)

/-- The bits of a word of a context table entry that a write changes (R295, R319). -/
def ctxEntMask (word : Nat) : DWord :=
  if word = 0 then 0x000000FFF80FFFFF else if word = 1 then 0x000000FFFFF00000
  else if word = 3 then 0x000000FFFFFFF000 else if word = 4 then 0x000000FFFFFE0000 else 0

def State.writeGlob (s : State) (o : Nat) (v m : DWord) : State :=
  let p := s.pkg
  if o = 0x08 then (if m.getLsbD 0 then s.setHmap (v.truncate 8) else s)
  else if o = 0x10 then { s with pkg := { p with memwBase := merged p.memwBase v m (BitVec.ofNat 64 (2 ^ 56 - s.bar2Size)) } }
  else if o = 0x18 then { s with pkg := { p with
    pcap := if m.getLsbD 32 then max 2400 (min 4800 (bits v.toNat 47 32)) else p.pcap
    waketol := if m.getLsbD 0 then bits v.toNat 31 0 else p.waketol } }
  else if o = 0x30 then { s with pkg := { p with almstat := p.almstat &&& ~~~((v &&& m).truncate 4) } }
  else if o = 0x38 then (if p.launched ∨ !m.getLsbD 0 then s else { s with pkg := { p with almpol := v.truncate 4 } })
  else if o = 0x40 then s.setFwsvn (merged p.svn v m (BitVec.allOnes 64))
  else s

def State.writeCtx (s : State) (c o : Nat) (v m : DWord) : State :=
  let upd (w : DWord) : State := s.setCtxReg c o (merged (s.ctxReg c o) v m w)
  if o = 0x00 then upd 0xFFFF00FFFFFFF000
  else if o = 0x08 then (upd 0xFFFFFFF00F).drainRecl c
  else if o = 0x18 then (upd (BitVec.allOnes 64)).drainRecl c
  else if o = 0x20 then upd 0xFFFFFFF00F
  else if o = 0x30 then upd (BitVec.allOnes 64)
  else if o = 0x40 then s.setReplctl c (merged (s.ctxReg c o) v m (BitVec.allOnes 64))
  else if o = 0x50 then
    (if m.getLsbD 0 ∧ v.toNat % 2 ^ 32 = 1 ∧ !s.preempting.contains c ∧ !(s.saved.any fun x => x.ctx == c) then s.beginPreempt c else s)
  else s

def State.writeDie (s : State) (d o : Nat) (v m : DWord) : State :=
  let upd (w : DWord) : State := s.setDieReg d o (merged (s.dieReg d o) v m w)
  if o = 0x10 then upd 0xFFFFF00000
  else if o = 0x18 then upd 0xFFFFFFF00F
  else if o = 0x28 then upd (BitVec.allOnes 64)
  else if 0x2000 ≤ o ∧ o < 0x2048 then s.corruptLink d ((o - 0x2000) / 8) (v &&& m)
  else s

/-- A write of CMDOP, which takes the arguments, or of an argument (R418, R423). -/
def State.writeCmd (s : State) (o : Nat) (v m : DWord) : State :=
  let p := s.pkg
  if 0x08 ≤ o ∧ o ≤ 0x20 then { s with pkg := { p with cmdArg := put p.cmdArg ((o - 8) / 8) (merged (lookD 0 p.cmdArg ((o - 8) / 8)) v m (BitVec.allOnes 64)) } }
  else if o = 0 ∧ m.getLsbD 0 then
    let op := v.toNat % 2 ^ 32
    if p.cmdOp.isSome then { s with pkg := { p with cmdErr := 2 } }
    else if op = 0 ∨ 9 < op ∨ (p.recovery ∧ op ≠ 9) then { s with pkg := { p with cmdErr := 1 } }
    else { s.wake with pkg := { s.wake.pkg with cmdOp := some op, cmdErr := 0, cmdRun := p.cmdArg } }
  else s

/-- A host write of a 32-bit register is a supervisor write. -/
def State.hostWriteCsr (s : State) (core n : Nat) (v : Word) : State :=
  s.writeCsr (if core < 1024 ∧ n ≤ 0x305 then 1024 + core else core) 0 n v none

def State.writeReg (s : State) (r : WReg) (v m : DWord) : State :=
  match r with
  | .glob o => s.writeGlob o v m
  | .ctxEnt c w =>
    let old := BitVec.ofNat 64 (s.ctxEnt c / 2 ^ (64 * w))
    let new := merged old v m (ctxEntMask w)
    let t := put s.ctxTab c (BitVec.ofNat 512 (s.ctxEnt c - old.toNat * 2 ^ (64 * w) + new.toNat * 2 ^ (64 * w)))
    -- A context that is destroyed loses its schedules (R393); a valid one has its device-side alias (R302, log 17).
    { s with
      ctxTab := t
      schedules := if s.ctxVal c ∧ !bitOf (lookD 0 t c).toNat 31 then s.schedules.filter (fun e => e.1 / 64 ≠ c) else s.schedules
      aliases := ((List.range 64).filter fun c => bits (lookD 0 t c).toNat 31 31 == 1).foldl (fun a c => put a (Config.aliasPage c) c) [] }
  | .ctx c o => s.writeCtx c o v m
  | .die d o => s.wake.writeDie d o v m
  | .cmd o => s.writeCmd o v m
  | .csrs c n =>
    let s := s.wake
    let s := if m.getLsbD 0 ∧ csrExists n then s.hostWriteCsr c n (v.truncate 32) else s
    if m.getLsbD 32 ∧ csrExists (n + 1) then s.hostWriteCsr c (n + 1) (v.extractLsb' 32 32) else s
  | .none => s

/-- REGISTER_WRITE: 8 bytes, or 4 at either half; narrower writes are ignored. -/
def execRegisterWrite (off size : Nat) (value : BitVec 64) (s : State) : Host.Outcome State Fault Refusal :=
  let r := wreg (off / 8 * 8)
  if !s.answers r then .next s
  else if size = 8 ∧ off % 8 = 0 then .next (s.writeReg r value (BitVec.allOnes 64))
  else if size = 4 ∧ off % 8 = 0 then .next (s.writeReg r (value &&& 0xFFFFFFFF) 0xFFFFFFFF)
  else if size = 4 ∧ off % 8 = 4 then .next (s.writeReg r (value <<< 32) 0xFFFFFFFF00000000)
  else .next s

/-- Every home of a range of device memory has its shell: an access to a lost one never completes (R404). -/
def State.shellsUp (s : State) (a n : Nat) : Bool := (List.range ((a % 256 + n + 255) / 256)).all fun i => s.shellUp (a + 256 * i)

/-! ## Link schedules (R393) -/

/-- Classes of a table of 128 bytes. -/
def classesOf (t : List Byte) : List Nat := t.flatMap fun b => [b.toNat % 16, b.toNat / 16]

def tableOk (t : List Byte) : Bool :=
  (classesOf t).all (· < 12) && decide (16 ≤ ((classesOf t).filter (· == 0)).length)

/-- An image's nine tables keep the rules; the table for the own number of some compute die is zero (log 49). -/
def imageTablesOk (im : List Byte) : Bool :=
  let ts := (List.range 9).map fun d => (im.drop (128 * d)).take 128
  ts.all tableOk && (ts.take 8).any fun t => t.all (· == 0)

/-- LOAD_LINK_SCHEDULE: CMDOP 5. -/
def execLoadLinkSchedule (s : State) : Host.Outcome State Fault Refusal :=
  if !s.hostCmd 5 then .next s
  else
    let c := s.cmdArg 0
    let i := s.cmdArg 1
    let pa := s.cmdArg 2
    if 64 ≤ c ∨ i = 0 ∨ 64 ≤ i ∨ s.memTop < pa + 1152 then .next (s.endHostCmd 1)
    else
      let im := getBs s.mem pa 1152
      if !s.shellsUp pa 1152 then .next s
      else if !imageTablesOk im then .next (s.endHostCmd 3)
      else .next (State.endHostCmd { s with schedules := put s.schedules (64 * c + i) im } 0)

/-! ## Checkpoint and restore (R413) -/

/-- CRC-32C of bytes. -/
def crcBit (c : Word) : Word := if c.getLsbD 0 then (c >>> 1) ^^^ 0x82F63B78 else c >>> 1
def crcByte (c : Word) (b : Byte) : Word := (List.range 8).foldl (fun c _ => crcBit c) (c ^^^ b.zeroExtend 32)
def crc32c (bs : List Byte) : Word := ~~~(bs.foldl crcByte 0xFFFFFFFF)

/-- Insert a range by its address, after those of the same address. -/
def rangeInsert (x : Nat × Nat) : List (Nat × Nat) → List (Nat × Nat)
  | [] => [x]
  | y :: t => if x.1 < y.1 then x :: y :: t else y :: rangeInsert x t

/-- The ranges of a command in ascending address: all of memory when the count is 0, else a list of 16-byte records of base and length (log
19). -/
def State.ckptRanges (s : State) : List (Nat × Nat) :=
  if s.cmdArg 1 = 0 then [(0, s.memTop)]
  else ((List.range (s.cmdArg 1)).map fun i => (getN s.mem (s.cmdArg 0 + 16 * i) 8, getN s.mem (s.cmdArg 0 + 16 * i + 8) 8)).foldl
    (fun l r => rangeInsert r l) []

/-- Piece `n` of range `i`: its address and length, at most 64 KiB. -/
def pieceOf (rs : List (Nat × Nat)) (i n : Nat) : Option (Nat × Nat) :=
  match rs[i]? with
  | some (a, len) => if 65536 * n < len then some (a + 65536 * n, min 65536 (len - 65536 * n)) else none
  | none => none

/-- CHECKPOINT: CMDOP 6. One record in ascending address, or the end. -/
def execCheckpoint (s : State) : Host.Outcome State Fault Refusal :=
  if !s.hostCmd 6 then .next s
  else
    let rs := s.ckptRanges
    if rs.any fun r => decide (s.memTop < r.1 + r.2) then .next (State.endHostCmd { s with ckpt := none } 1)
    else
      let (i, n) := s.ckpt.getD (0, 0)
      match pieceOf rs i n with
      | some (a, len) =>
        if !s.shellsUp a len then .next s else
        let bs := getBs s.mem a len
        let bad := (List.range ((len + 31) / 32)).filter fun g => (look s.poison (a / 32 + g)).isSome
        .next { s.send (.record (s.cmdArg 2) a s.pkg.hmap.toNat bad (crc32c bs) bs) with ckpt := some (i, n + 1) }
      | none =>
        if i + 1 < rs.length then .next { s with ckpt := some (i + 1, 0) }
        else .next (State.endHostCmd { s with ckpt := none } 0)

/-- The records that the package sent to the safe tier on a queue pair, oldest first: address, poisoned granules, data. -/
def State.tierRecords (s : State) (qp : Nat) : List (Nat × List Nat × List Byte) :=
  s.outbox.reverse.filterMap fun m => match m with
    | .record q pa _ bad _ data => if q = qp then some (pa, bad, data) else none
    | _ => none

/-- Write the part of a record that lies in `[a, a + n)`, with its poison. -/
def State.restoreFrom (s : State) (a n : Nat) (r : Nat × List Nat × List Byte) : State :=
  let lo := max a r.1
  let hi := min (a + n) (r.1 + r.2.2.length)
  if hi ≤ lo then s
  else
    let s := s.writePlace ⟨lo, false⟩ ((r.2.2.drop (lo - r.1)).take (hi - lo))
    { s with poison := (r.2.1.map (r.1 / 32 + ·)).foldl (fun t g => if 32 * g < hi ∧ lo < 32 * g + 32 then put t g true else t) s.poison }

/-- RESTORE: CMDOP 7. A piece of a range comes back from the tier, the newest record of each byte last, poison where it was marked; or the
end. -/
def execRestore (s : State) : Host.Outcome State Fault Refusal :=
  if !s.hostCmd 7 then .next s
  else
    let rs := s.ckptRanges
    if rs.any fun r => decide (s.memTop < r.1 + r.2) then .next (State.endHostCmd { s with ckpt := none } 1)
    else
      let (i, n) := s.ckpt.getD (0, 0)
      match pieceOf rs i n with
      | some (a, len) =>
        if !s.shellsUp a len then .next s
        else .next ((s.tierRecords (s.cmdArg 2)).foldl (fun s r => s.restoreFrom a len r) { s with ckpt := some (i, n + 1) })
      | none =>
        if i + 1 < rs.length then .next { s with ckpt := some (i + 1, 0) }
        else .next (State.endHostCmd { s with ckpt := none } 0)

/-! ## Loading firmware (R418) -/

/-- LOAD_FIRMWARE_IMAGE: CMDOP 9, with the bytes read from host memory. Kinds are numbered as their measurements (log 9). -/
def execLoadFirmwareImage (image : List (BitVec 8)) (s : State) : Host.Outcome State Fault Refusal :=
  if s.pkg.cmdOp ≠ some 9 then .next s
  else if 16 * 1048576 < s.cmdArg 1 ∨ image.length ≠ s.cmdArg 1 ∨ s.cmdArg 2 < 2 ∨ 5 < s.cmdArg 2 then .next (s.endHostCmd 1)
  else if !s.imageOk image then .next (s.endHostCmd 3)
  else .next (State.endHostCmd { s with pkg := { s.pkg with fw := put s.pkg.fw (s.cmdArg 2) image } } 0)

/-! ## Collective operations (R396, R417) -/

/-- The fields of a collective record, when no reserved value stands in it. -/
def collOf (ctx : Nat) (r : Nat) : Option Coll :=
  let op := bits r 7 0
  let f := bits r 11 8
  if op = 0 ∨ 3 < op ∨ bits r 31 12 ≠ 0 ∨ !(f == 0 || f == 2 || f == 10 || f == 11) ∨ bits r 255 224 ≠ 0 ∨ bits r 511 320 ≠ 0 then none
  else some { ctx := ctx, op := op, fmt := f, count := bits r 63 32, src := bits r 127 64, dst := bits r 191 128, comp := bits r 319 256
              group := bits r 223 192 }

/-- COLLECTIVE_COMMAND: a record written whole to its context's page; one with a reserved value is dropped and counted. -/
def execCollectiveCommand (page size : Nat) (data : BitVec 512) (s : State) : Host.Outcome State Fault Refusal :=
  if 64 ≤ page ∨ !s.windowOn then .next s
  else match (if size = 64 then collOf page data.toNat else none) with
  | none => .next (s.dropLaunch page)
  | some c =>
    let n := s.wake.newId
    .next { n.2 with colls := put n.2.colls n.1 c }

/-- Combine an element (R227). -/
def Coll.combine (c : Coll) (a b : Nat) : Nat :=
  let f : Fmt := if c.fmt = 2 then .bf16 else .f32
  let flt := c.fmt == 0 || c.fmt == 2
  let x (v : Nat) : Int := if c.fmt = 10 then sext v 32 else v
  match c.op with
  | 1 => if flt then (fAdd f .rne false 0 a b).1 else (a + b) % 2 ^ 32
  | 2 => if flt then (fMinMax f false a b).1 else if x b < x a then b else a
  | _ => if flt then (fMinMax f true a b).1 else if x a < x b then b else a

/-- COLLECTIVE_OPERATION_END: the contributions of the pod's other packages are combined with the source, in the order given (log 66); then
the completion word is written. -/
def execCollectiveOperationEnd (op : Nat) (contributions : List (List (BitVec 32))) (s : State) : Host.Outcome State Fault Refusal :=
  match look s.colls op with
  | none => .next s
  | some c =>
    let e := if c.fmt = 2 then 2 else 4
    if contributions.any (fun l => l.length ≠ c.count) ∨ !s.shellsUp c.src (e * c.count) ∨ !s.shellsUp c.dst (e * c.count) ∨ !s.shellsUp c.comp 4 then .next s
    else
      let out := (List.range c.count).map fun i =>
        contributions.foldl (fun v l => c.combine v ((l.getD i 0).toNat % 2 ^ (8 * e))) (getN s.mem (c.src + e * i) e)
      let s := State.writePlace { s with colls := del s.colls op } ⟨c.dst, false⟩ (out.flatMap fun v => leBytes v e)
      .next (s.writeN ⟨c.comp, false⟩ 4 1)

/-! ## Accesses from outside (R397, R398, R416) -/

/-- An access of an agent at .sys to physical memory, performed at its home: reads answer, and what else is answered is `ack`. An address that
the hash does not map reads as all ones and drops writes; an access to a lost shell never completes (R404). -/
def State.outside (s : State) (pa : Nat) (op : ExtOp) (atomics : Bool) (ack : Option Msg) : State :=
  let answer (s : State) : State := match ack with
    | some m => s.send m
    | none => s
  let get (n : Nat) (f : State → State) : State :=
    if s.memTop < pa + n then s.send (.readData (2 ^ (8 * n) - 1))
    else if !s.shellsUp pa n then s
    else if s.poisoned ⟨pa, false⟩ n then s.send .poisoned
    else f (s.send (.readData (getN s.mem pa n)))
  match op with
  | .read n => get n id
  | .write d =>
    if s.memTop < pa + d.length then answer s
    else if !s.shellsUp pa d.length then s
    else answer ((s.writePlace ⟨pa, false⟩ d).syncWrite .glob false pa d.length {} {})
  | .atomic op ty v cmp =>
    let n := if ty.getLsbD 1 then 8 else 4
    if !atomics then s
    else get n fun t => (t.writeN ⟨pa, false⟩ n (atomNew op.toNat ty.toNat (getN s.mem pa n) v.toNat cmp.toNat)).syncWrite .glob false pa n { keep := true } {}
  | .send _ => answer s

/-- BAR2_ACCESS: an offset of the BAR, whose size is the host's choice (R416). In S3 it completes after the wake. -/
def execBar2Access (off : Nat) (op : ExtOp) (s : State) : Host.Outcome State Fault Refusal :=
  if !s.windowOn ∨ s.bar2Size ≤ off then .next s
  else
    let s := if s.pkg.pst = 3 then s.wake else s
    .next (s.outside (s.memwBase + off) op false none)

/-- UALINK_REQUEST (R397): reads, writes and atomics from the pod, each with its response. -/
def execUalinkRequest (addr : Nat) (op : ExtOp) (s : State) : Host.Outcome State Fault Refusal :=
  .next (if s.windowOn then s.outside addr op true (some .writeResponse) else s)

/-- ROCE_REQUEST (R398): RDMA writes, reads and sends on a reliable-connected queue pair, which acknowledges them; atomics are not supported. A
send's message joins those that the queue pair has received (log 67). -/
def execRoceRequest (port : RocePort) (addr : Nat) (op : ExtOp) (s : State) : Host.Outcome State Fault Refusal :=
  if !s.windowOn || decide (8 ≤ port.port) then .next s
  else
    let s := match op with
      | .send d => { s with pkg := { s.pkg with qps := put s.pkg.qps port.qp (lookD [] s.pkg.qps port.qp ++ [d]) } }
      | _ => s
    .next (s.outside addr op false (some (.qpAck port.qp)))

/-- CONFIGURATION_REQUEST (R415): Request Retry until the collective firmware is verified; then a dword is read or written. -/
def execConfigurationRequest (write : Bool) (off : Nat) (value : BitVec 32) (s : State) : Host.Outcome State Fault Refusal :=
  if s.pkg.boot < 2 ∧ !s.pkg.recovery ∧ !s.pkg.alarm then .next (s.send .retry)
  else if write then .next (s.writeCfg (off / 4 * 4) value)
  else .next (s.send (.readData (s.readCfg (off / 4 * 4)).toNat))

end Sys2Proof.Machine
end

