-- ==== Sys2Proof/Machine/Links.lean ====
section
/-! DEFINITION. Links, heartbeats, fencing and lost shells (R392, R395, R399 to R405). -/

namespace Sys2Proof.Machine

/-! ## Links (R392, R395) -/

def State.link (s : State) (src dst : Nat) : Link := lookD default s.linkDirs (16 * src + dst)

/-- FLIT_RECEIVE: a CRC mismatch asks for a replay; a direction that replays more than 64 times in a millisecond is retired. -/
def execFlitReceive (src dst : Nat) (cls : BitVec 4) (crcGood : Bool) (s : State) : Host.Outcome State Fault Refusal :=
  let l := s.link src dst
  if 8 < src ∨ 8 < dst ∨ src = dst ∨ l.retired then .next s
  else if crcGood && !l.corrupt then .next s
  else
    let now := s.clock 8
    let times := now :: l.times.filter fun t => decide (now < t + 1000 * Config.cyclesPerUs)
    -- The receiving die logs the error (R406); the collective die keeps no log. A corrupted flit counts as injected (R412).
    let s := if dst < 8 then s.logErr { die := dst, core := 0, array := 11, addr := src, synd := Config.linkSyndrome.toNat, ctx := none, inj := l.corrupt, ue := false } else s
    let l := { l with corrupt := false, times := times, retired := decide (64 < times.length) }
    .next { s.send (.replay src dst cls.toNat) with linkDirs := put s.linkDirs (16 * src + dst) l }

/-- The schedule that governs a die: of the grids with an LSID and a block on the die, the one that started last names it; 0 is the default
table. -/
def State.schedOf (s : State) (die : Nat) : Nat :=
  let gs := s.grids.filter fun e => e.2.lsid ≠ 0 && s.blocks.any fun b => b.2.grid == e.1 && b.1 / 4096 == die
  match gs.foldl (fun (b : Option (Nat × Nat)) e => match b with
    | some x => if x.1 ≤ e.2.started.getD 0 then some (e.2.started.getD 0, 64 * e.2.ctx + e.2.lsid) else b
    | none => some (e.2.started.getD 0, 64 * e.2.ctx + e.2.lsid)) none with
  | some x => x.2
  | none => 0

/-- SCHEDULE_SWITCH: at a frame boundary every outgoing direction of a die takes the schedule that governs it (log 50). -/
def execScheduleSwitch (die : Nat) (s : State) : Host.Outcome State Fault Refusal :=
  if 8 ≤ die then .next s
  else .next { s with pkg := { s.pkg with governing := putD 0 s.pkg.governing die (s.schedOf die) } }

/-! ## Heartbeats (R399) -/

def State.beat (s : State) (holder die : Nat) : Nat × Nat := lookD (0, 0) s.beats (16 * holder + die)

/-- HEARTBEAT_SEND: every 10 µs a live die sends its number, and the newest that it holds of the others, to every other compute die. -/
def execHeartbeatSend (die : Nat) (s : State) : Host.Outcome State Fault Refusal :=
  let now := s.clock 8
  let own := s.beat die die
  if 8 ≤ die ∨ !s.pkg.live.getLsbD die ∨ now < own.2 + 10 * Config.cyclesPerUs then .next s
  else
    let s : State := { s with beats := put s.beats (16 * die + die) (own.1 + 1, now) }
    let held := (List.range 8).map (s.beat die)
    .next { s with beatNet := s.beatNet ++ ((List.range 8).filter (· ≠ die)).map fun d => { src := die, dst := d, seqs := held } }

/-- HEARTBEAT_RECEIVE: a die keeps the newest number of every die. -/
def execHeartbeatReceive (n : Nat) (s : State) : Host.Outcome State Fault Refusal :=
  match s.beatNet[n]? with
  | none => .next s
  | some b => .next { s with
      beatNet := s.beatNet.eraseIdx n
      beats := b.seqs.zipIdx.foldl (fun t e => if (lookD (0, 0) t (16 * b.dst + e.2)).1 < e.1.1 then put t (16 * b.dst + e.2) e.1 else t) s.beats }

/-- No live die holds a number of the die younger than 30 µs. -/
def State.silent (s : State) (die : Nat) : Bool :=
  (List.range 8).all fun h => h == die || !s.pkg.live.getLsbD h || decide ((s.beat h die).2 + 30 * Config.cyclesPerUs ≤ s.clock 8)

/-- DIE_SILENT: the master, or the lowest live die that is not silent, fences a silent die (R400). -/
def execDieSilent (die : Nat) (s : State) : Host.Outcome State Fault Refusal :=
  if 8 ≤ die ∨ !s.pkg.live.getLsbD die ∨ (look s.pkg.fencing die).isSome ∨ !s.silent die then .next s
  else match (List.range 8).find? fun d => d ≠ die && s.pkg.live.getLsbD d && !s.silent d with
  | none => .next s
  | some d =>
    let m := if s.pkg.live.getLsbD s.pkg.master && !s.silent s.pkg.master then s.pkg.master else d
    .next { s with pkg := { s.pkg with master := m, fencing := put s.pkg.fencing die (s.clock 8 + 100 * Config.cyclesPerUs) } }

/-! ## What a fenced die loses (R401) -/

/-- The scratchpads of a die. -/
def diePieces (d : Nat) : List SavePiece :=
  [.pad .unit (2 ^ 26 * d) (2 ^ 26), .pad .clus (2 ^ 27 * d) (2 ^ 27), .pad .die (2 ^ 27 * d) (2 ^ 27)]

/-- A table without its keys of a die, `per` keys a die. -/
def offDie {α : Type} (d per : Nat) (t : Tab α) : Tab α := cut t (per * d) (per * d + per)

/-- The compute domain of a die is reset: its blocks, its stores and its services are gone; what it handed to the network stays there. -/
def State.loseDie (s : State) (d : Nat) : State :=
  let s := ((s.blocks.filter fun e => e.1 / 4096 == d).map (·.1)).foldl (fun (s : State) bk => (s.blockGone bk).releaseBlock bk .kill) s
  let on (core : Nat) : Bool := dieOf core == d
  let refs := (s.links.filter (·.1 == d)).map (·.2.2.2.2)
  let s : State := { s with
    regs := offDie d (2 ^ 25) s.regs, threads := offDie d (2 ^ 19) s.threads, floes := offDie d (2 ^ 14) s.floes
    saves := offDie d (2 ^ 15) s.saves, bins := offDie d (2 ^ 13) s.bins, starting := s.starting.filter fun e => !on (e.1 / 4)
    sched := offDie d 512 s.sched, lfsr := offDie d 512 s.lfsr, bars := offDie d 2048 s.bars, cbufs := offDie d 2048 s.cbufs
    tables := offDie d 1024 s.tables, accs := offDie d (2 ^ 23) s.accs, allocs := s.allocs.filter fun a => !on a.1
    bankCtx := offDie d (2 ^ 14) s.bankCtx, unit := offDie d (2 ^ 26) s.unit, clus := offDie d (2 ^ 27) s.clus
    dmem := offDie d (2 ^ 27) s.dmem, race := s.race.filter fun e => !inPieces (diePieces d) 32 e.1
    raceBy := s.raceBy.filter fun e => 2 ^ 60 ≤ e.1 || !inPieces (diePieces d) 32 e.1, regions := offDie d (2 ^ 14) s.regions
    starts := offDie d (2 ^ 62) s.starts, atsOut := s.atsOut.filter fun x => !on x.1
    arrays := s.arrays.filter fun e => !on e.1, reserved := s.reserved.filter fun e => !on e.1
    track := s.track.filter fun e => !inPieces (diePieces d) 256 e.1, syncs := s.syncs.filter fun e => !syncInPieces (diePieces d) e.1
    copies := s.copies.filter fun e => !on e.2.core, wbs := s.wbs.filter fun e => !on e.2.core, mmas := s.mmas.filter fun e => e.2.die ≠ d
    csrs := del (cut s.csrs (4096 * 128 * d) (4096 * 128 * (d + 1))) (4096 * (1024 + d) + 0x38D)
    tokens := s.tokens.filter fun t => !on (t.floe / 128), mcasts := s.mcasts.filter fun m => !on m.core
    due := s.due.filter fun x => !on (x.block / 32), scrubs := s.scrubs.filter fun x => !on (x.2.2.2 / 32)
    cmds := s.cmds.filter fun c => !on c.core, dumps := s.dumps.filter fun x => !on (x.block / 32)
    tlb := s.tlb.filter fun e => !(on e.1 || e.1 == 1024 + d), fpages := s.fpages.filter fun p => p.die ≠ d
    segs := s.segs.filter fun e => !on e.2.core, segReqs := s.segReqs.filter fun r => r.die ≠ d, forms := s.forms.filter fun f => f.die ≠ d
    links := s.links.filter fun l => l.1 ≠ d, latent := s.latent.filter fun r => !(r.array ≤ 7 && (if r.array = 2 then r.core / 32 else
      if r.array = 3 then r.core else dieOf r.core) == d) }
  refs.foldl (fun s e => (s.setRefs e (entRefs (s.dirEnt e) - 1)).reclaim e) s

/-! ## Recovery of grids (R403) -/

/-- Drifts of a grid with a block, or an aborted task, on a die. -/
def State.lostDrifts (s : State) (g d : Nat) : List Nat :=
  (((s.blocks.filter fun e => e.2.grid == g && e.1 / 4096 == d).map (·.2.drift)) ++
    (s.tasks.filter fun t => t.grid == g && dieOf t.core == d).map (·.drift)).dedup

/-- Members of a drift that the die held. -/
def State.lostOf (s : State) (g d drift : Nat) : Nat :=
  (s.blocks.filter fun e => e.2.grid == g && e.1 / 4096 == d && e.2.drift == drift).length +
  (s.tasks.filter fun t => t.grid == g && dieOf t.core == d && t.drift == drift).length

/-- A drift none of whose blocks has begun a commit, one that has ended included. -/
def State.precommit (s : State) (g drift : Nat) : Bool := !(s.grid g).cdrifts.contains drift

/-- What becomes of a grid's drifts on a fenced die. A drift placed again runs whole: its killed members no longer count as ended. -/
def State.recoverGrid (s : State) (d g : Nat) : State :=
  let x := s.grid g
  let ds := s.lostDrifts g d
  let unplaced := (x.ranges.filter fun r => r.die == d).flatMap fun r => (List.range (r.stop - r.nxt)).map (r.nxt + ·)
  let back := ds.filter fun n => !x.coRes && s.precommit g n
  let gone := ds.filter fun n => !(!x.coRes && s.precommit g n)
  let n := gone.foldl (fun n i => n + s.lostOf g d i) 0
  let s := s.modGrid g fun x => { x with
    ranges := x.ranges.filter fun r => r.die ≠ d, again := x.again ++ unplaced ++ back
    done := x.done + n - (x.fallen.filter back.contains).length, fallen := x.fallen.filter fun i => !back.contains i
    killed := if x.tpol = 0 then x.killed else x.killed + n, dieBase := del x.dieBase d }
  let s := { s with tasks := s.tasks.filter fun t => !(t.grid == g && dieOf t.core == d) }
  let s := if gone = [] then s else if x.tpol = 0 then s.stopGrid g none else s.noteDone.statWrite g 20 4 (s.grid g).killed
  if x.dies.getLsbD d && !((List.range 8).any fun i => x.dies.getLsbD i && s.pkg.live.getLsbD i) && !s.gridDone g then s.fatalStop g none else s

/-! ## Fences and shells (R400, R404) -/

/-- The lowest-numbered live die. -/
def lowestLive (m : BitVec 8) : Nat := ((List.range 8).find? m.getLsbD).getD 0

/-- A lost shell: every grid of every context stops with STATE 3, and no launch is served until the hash is rebuilt (R404). -/
def State.loseShell (s : State) (d : Nat) : State :=
  let s := { s with pkg := { s.pkg with shlost := setBit s.pkg.shlost d true, rebuild := true } }
  let s := ((s.blocks).map (·.1)).foldl (fun (s : State) bk => (s.endStepByHalt bk).stopBlk bk 4) s
  ((s.grids.filter (·.2.placed)).map (·.1)).foldl (fun (s : State) g =>
    (s.modGrid g fun x => { x with fatal := true, stopping := none, cause := 4 }).setGState g 3) s

/-- A fence completes: the die leaves LIVE, its compute domain is lost, and the master recovers its grids. -/
def State.completeFence (s : State) (d : Nat) (shell : Bool) : State :=
  let live := setBit s.pkg.live d false
  let s := { s with pkg := { s.pkg with
    live := live, fenced := setBit s.pkg.fenced d true, fencing := del s.pkg.fencing d, master := lowestLive live } }
  let s := ((s.grids.filter (·.2.placed)).map (·.1)).foldl (fun (s : State) g => s.recoverGrid d g) s
  let s := s.loseDie d
  if shell then s.loseShell d else s

/-- FENCE_ACKNOWLEDGE: one that comes after the 100 µs finds the shell treated as lost. -/
def execFenceAcknowledge (die : Nat) (s : State) : Host.Outcome State Fault Refusal :=
  match look s.pkg.fencing die with
  | none => .next s
  | some t => .next ((s.completeFence die (decide (t < s.clock 8))).settleDue 64)

/-- FENCE_TIMEOUT: 100 µs without an acknowledgement. -/
def execFenceTimeout (die : Nat) (s : State) : Host.Outcome State Fault Refusal :=
  match look s.pkg.fencing die with
  | none => .next s
  | some t => if s.clock 8 < t then .next s else .next ((s.completeFence die true).settleDue 64)

/-- SHELL_POWER_FAULT (R404). -/
def execShellPowerFault (die : Nat) (s : State) : Host.Outcome State Fault Refusal :=
  if 8 ≤ die ∨ s.pkg.shlost.getLsbD die then .next s else .next ((s.loseShell die).settleDue 64)

/-- RESET_DIE: CMDOP 8. A fenced die whose compute domain passes power-up is live again for later launches; its links are back; SHLOST clears
when its shell works too (R392, R405, R414). Both outcomes are free values (log 51). -/
def execResetDie (s : State) : Host.Outcome State Fault Refusal :=
  if !s.hostCmd 8 then .next s
  else
    let d := s.cmdArg 0
    if 8 ≤ d ∨ !s.pkg.fenced.getLsbD d then .next (s.endHostCmd 1)
    else if !Config.diePasses s.fresh then .next (State.endHostCmd { s with fresh := s.fresh + 1 } 0)
    else
      let shell := Config.shellWorks s.fresh
      let live := setBit s.pkg.live d true
      let now := s.clock 8
      .next (State.endHostCmd { s with
        fresh := s.fresh + 1
        pkg := { s.pkg with live := live, fenced := setBit s.pkg.fenced d false, shlost := setBit s.pkg.shlost d (s.pkg.shlost.getLsbD d && !shell), master := lowestLive live }
        clocks := put s.clocks d 0
        csrs := cut s.csrs (4096 * 128 * d) (4096 * 128 * (d + 1))
        linkDirs := s.linkDirs.filter fun e => e.1 / 16 ≠ d && e.1 % 16 ≠ d
        beats := (List.range 8).foldl (fun t h => put (put t (16 * h + d) ((s.beat h d).1, now)) (16 * d + h) ((s.beat d h).1, now)) s.beats } 0)

end Sys2Proof.Machine
end

