-- ==== Sys2Proof/Machine/Power.lean ====
section
/-! DEFINITION. Power-up, power states, throttling, avoidance, the alarm and SPDM (R304, R419 to R427). -/

namespace Sys2Proof.Machine

/-! ## Power-up (R419, R423, R424) -/

/-- What outlives a power cycle: the firmware store, the fuses, the key store, the world outside; the model's own counters go on. -/
def State.afterPower (s : State) (p : Pkg) : State :=
  { State.reset with
    agenda := s.agenda, steps := s.steps, fresh := s.fresh, nextId := s.nextId, outbox := s.outbox, hostMem := s.hostMem
    pkg := { p with fw := s.pkg.fw, svn := s.pkg.svn, erased := s.pkg.erased } }

/-- POWER_ON: the collective die starts, and nothing else is powered. -/
def execPowerOn (s : State) : Host.Outcome State Fault Refusal := .next (s.afterPower {})

/-- The image of a kind in the firmware store: what CMDOP 9 wrote, or what the store held before. -/
def State.storeImage (s : State) (kind : Nat) (images : List (List Byte)) : List Byte :=
  (look s.pkg.fw kind).getD (images.getD (kind - 2) [])

/-- An image is checked and measured before it runs; one that fails holds the function in recovery. -/
def State.runImage (s : State) (kind : Nat) (images : List (List Byte)) : State × Bool :=
  let im := s.storeImage kind images
  if s.imageOk im then
    ({ s with pkg := { s.pkg with meas := put s.pkg.meas kind (imageDigest im), ranSvn := Config.svnOver s.pkg.ranSvn im } }, true)
  else ({ s with pkg := { s.pkg with recovery := true } }, false)

/-- Dies whose step fails: out of LIVE, with FENCED set; a shell that fails sets SHLOST too. -/
def State.failDies (s : State) (bad : BitVec 8) (shell : Bool) : State :=
  { s with pkg := { s.pkg with
    bootPass := s.pkg.bootPass &&& ~~~bad, fenced := s.pkg.fenced ||| bad, shlost := if shell then s.pkg.shlost ||| bad else s.pkg.shlost } }

def State.booted (s : State) (n : Nat) : State := { s with pkg := { s.pkg with boot := n } }

/-- The cores of every compute die leave reset: their clocks count from here (R92). -/
def State.coresReset (s : State) : State := { s with clocks := (List.range 8).foldl (fun t d => put t d 0) s.clocks }

/-- POWER_UP_STEP: the step after the last that passed. `pass` holds the dies that pass their own checks in it; `images` is what the firmware
store holds of kinds 2 to 5 where CMDOP 9 has not written it. -/
def execPowerUpStep (pass : BitVec 8) (images : List (List (BitVec 8))) (s : State) : Host.Outcome State Fault Refusal :=
  if s.pkg.recovery ∨ s.pkg.alarm then .next s
  else match s.pkg.boot with
  | 0 => .next (State.booted { s with pkg := { s.pkg with
      ranSvn := s.pkg.svn
      meas := put (put s.pkg.meas 1 (shake256 Config.bootRom)) 6 (shake256 (Config.fusedBytes s.pkg.svn s.pkg.erased)) } } 1)
  | 1 => let r := s.runImage 2 images
    .next (if r.2 then r.1.booted 2 else r.1)
  | 2 => .next ((s.failDies (~~~pass) true).booted 3)
  | 3 => let r := s.runImage 3 images
    if !r.2 then .next r.1
    else
      let s := r.1.failDies (~~~pass) true
      .next (State.booted { s with pkg := { s.pkg with hmap := ~~~s.pkg.shlost } } 4)
  | 4 => let r := s.runImage 4 images
    if !r.2 then .next r.1
    else
      let r := r.1.runImage 5 images
      if !r.2 then .next r.1 else .next (State.coresReset ((r.1.failDies (~~~pass) false).booted 5))
  | 5 =>
    let live := s.pkg.bootPass
    .next (State.booted { s with
      pkg := { s.pkg with live := live, ready := true, master := lowestLive live }
      beats := (List.range 8).foldl (fun t h => (List.range 8).foldl (fun t d => put t (16 * h + d) (0, s.clock 8)) t) [] } 6)
  | _ => .next s

/-! ## Power states (R420) -/

/-- S1_ENTRY: a live die with no resident block for 10 µs gates its arithmetic clocks. The time runs from the event's first occurrence. -/
def execS1Entry (die : Nat) (s : State) : Host.Outcome State Fault Refusal :=
  let now := s.clock 8
  if 8 ≤ die ∨ !s.pkg.live.getLsbD die ∨ (s.blocks.any fun b => b.1 / 4096 == die) then .next s
  else match look s.pkg.idleSince die with
  | none => .next { s with pkg := { s.pkg with idleSince := put s.pkg.idleSince die now } }
  | some t =>
    if t + 10 * Config.cyclesPerUs ≤ now ∧ 2 ≤ s.pkg.waketol then
      .next { s with pkg := { s.pkg with gated := setBit s.pkg.gated die true, pst := max s.pkg.pst 1 } }
    else .next s

/-- A grid has drifts that are not placed: not handed out, to place again, or waiting on a die. -/
def Grid.toPlace (g : Grid) : Bool := decide (g.handed < g.drifts) || g.again ≠ [] || (List.range 8).any g.busyDie

/-- No resident block, no accepted launch not yet placed, no outstanding page request, no command busy. An aborted task and a preempted
context count as not yet placed (DEDUCED, log 70). -/
def State.idleAll (s : State) : Bool :=
  s.blocks == [] && s.tasks == [] && s.saved == [] && (s.grids.all fun e => !e.2.placed || !e.2.toPlace) && s.fpages == [] &&
  s.pkg.cmdOp.isNone && s.cmds == [] && s.dumps == []

/-- An entry of S2 or S3 whose condition has held long enough; the time runs from the event's first occurrence. -/
def State.enterDeep (s : State) (pst us : Nat) : State :=
  let now := s.clock 8
  if s.pkg.idle = 0 then { s with pkg := { s.pkg with idle := now + 1 } }
  else if s.pkg.idle + us * Config.cyclesPerUs ≤ now + 1 then
    { s with pkg := { s.pkg with pst := pst }, forms := [], tlb := [], segs := [] }
  else s

/-- The link resolutions that the compute domains lose give up their references. -/
def State.dropLinks (s : State) : State :=
  let refs := s.links.map (·.2.2.2.2)
  refs.foldl (fun s e => (s.setRefs e (entRefs (s.dirEnt e) - 1)).reclaim e) { s with links := [] }

/-- S2_ENTRY. -/
def execS2Entry (s : State) : Host.Outcome State Fault Refusal :=
  if !s.pkg.ready ∨ s.pkg.waketol < 350 ∨ 2 ≤ s.pkg.pst then .next s
  else if !s.idleAll then .next { s with pkg := { s.pkg with idle := 0 } }
  else
    let t := s.enterDeep 2 1000
    .next (if t.pkg.pst = 2 then t.dropLinks else t)

/-- S3_ENTRY: not while a checkpoint, a collective operation or an SPDM exchange is in progress. -/
def execS3Entry (s : State) : Host.Outcome State Fault Refusal :=
  if !s.pkg.ready ∨ s.pkg.waketol < 2000 ∨ s.pkg.pst = 3 ∨ s.ckpt.isSome ∨ s.colls ≠ [] ∨ s.pkg.spdmBusy ≠ [] then .next s
  else if !s.idleAll then .next { s with pkg := { s.pkg with idle := 0 } }
  else
    let t := s.enterDeep 3 100000
    .next (if t.pkg.pst = 3 then t.dropLinks else t)

/-- WAKE_EVENT: back to S0 from S2 or S3, where something waits for it. A launch write, a command, a write to a die or core block and a
BAR2 access in S3 wake the package themselves. -/
def execWakeEvent (s : State) : Host.Outcome State Fault Refusal := .next (if 2 ≤ s.pkg.pst ∧ !s.idleAll then s.wake else s)

/-! ## The security alarm (R426, R427) -/

/-- An alarm: keys are erased where a source's ALMPOL bit asks for it; every domain is held in reset and memory is lost; the collective die
keeps the host link. -/
def State.raiseAlarm (s : State) (sources : BitVec 4) : State :=
  let p := s.pkg
  let t := s.afterPower { p with
    almstat := p.almstat ||| sources, alarm := true, ready := false, live := 0, pst := 0, gated := 0, thr := 0, hotDies := 0, capDies := 0
    heatDies := 0, stepAt := [], freq := [], cmdOp := none, spdmBusy := [], fencing := [], idleSince := [], idle := 0, governing := [] }
  { t with pkg := { t.pkg with erased := p.erased || (p.almpol &&& sources) != 0 } }

/-- SECURITY_ALARM. -/
def execSecurityAlarm (sources : BitVec 4) (s : State) : Host.Outcome State Fault Refusal :=
  if sources = 0 then .next s else .next (s.raiseAlarm sources)

/-! ## Throttling and avoidance (R304, R422) -/

/-- A die whose hottest core has reached 105 °C and is not yet at 103 °C or below: its clock falls. -/
def State.tooHot (s : State) (die : Nat) : Bool := decide (105 ≤ s.dieTemp die) || (s.pkg.hotDies.getLsbD die && decide (103 < s.dieTemp die))

/-- A die is slowed for power from an average above the cap until the average is at least 5 % below it. -/
def State.capped (s : State) (die power : Nat) : Bool :=
  decide (s.pkg.pcap < power) || (s.pkg.capDies.getLsbD die && decide (95 * s.pkg.pcap < 100 * power))

/-- A die is slowed for heat from 105 °C until its clock is full again. -/
def State.heated (s : State) (die : Nat) : Bool := s.tooHot die || s.pkg.heatDies.getLsbD die

/-- A millisecond's step of a clock in units of 112.5 MHz, from 16 down to 8: down while too hot or above the cap; up while neither cause holds
it, a die slowed for heat only at or below 103 °C. -/
def State.nextFreq (s : State) (die power : Nat) : Nat :=
  let f := lookD 16 s.pkg.freq die
  if s.tooHot die = true ∨ s.pkg.pcap < power then max 8 (f - 1)
  else if (s.heated die = true → s.dieTemp die ≤ 103) ∧ s.capped die power = false then min 16 (f + 1) else f

/-- A millisecond has not passed since a die's last step. -/
def State.stepSoon (s : State) (die : Nat) : Bool :=
  match look s.pkg.stepAt die with
  | some t => decide (s.clock 8 < t + 1000 * Config.cyclesPerUs)
  | none => false

/-- A core's temperature as its sensor reads: the core is avoided from 98 °C until it is at 92 °C or below (R304). -/
def State.coreRead (s : State) (core temp : Nat) : State :=
  let a := lookD 0 s.avoid core
  let heat := if 98 ≤ temp then 1 else if temp ≤ 92 then 0 else a % 2
  { s with temps := put s.temps core temp, avoid := putD 0 s.avoid core (a / 2 * 2 + heat) }

/-- Readings of a die's cores, from its core 0 on. -/
def State.coresRead (s : State) (die : Nat) (temps : List Nat) : State :=
  ((temps.take (Config.coresOf die)).zipIdx 0).foldl (fun (s : State) e => s.coreRead (128 * die + e.2) e.1) s

/-- THROTTLE_STEP: a step of a die's arithmetic clock, at most one in a millisecond, by its hottest core, whose readings come with the event,
and by the package's average power; at 115 °C the alarm is raised (R426). -/
def execThrottleStep (die : Nat) (temps : List Nat) (power : Nat) (s : State) : Host.Outcome State Fault Refusal :=
  if 8 ≤ die ∨ s.stepSoon die then .next s
  else if (temps.take (Config.coresOf die)).any fun t => decide (115 ≤ t) then .next ((s.coresRead die temps).raiseAlarm 8)
  else
    let s := s.coresRead die temps
    let f := s.nextFreq die power
    .next { s with pkg := { s.pkg with
        freq := putD 16 s.pkg.freq die f, thr := setBit s.pkg.thr die (decide (f < 16)), power := power, stepAt := put s.pkg.stepAt die (s.clock 8)
        hotDies := setBit s.pkg.hotDies die (s.tooHot die), heatDies := setBit s.pkg.heatDies die (s.heated die && decide (f < 16))
        capDies := setBit s.pkg.capDies die (s.capped die power) } }

/-- DRAM_HOT: the temperature of a layer; at 95 °C its refresh rate doubles, which no value shows; at 110 °C the alarm is raised (R426). -/
def execDramHot (die layer temp : Nat) (s : State) : Host.Outcome State Fault Refusal :=
  if 8 ≤ die ∨ 4 ≤ layer then .next s
  else
    let s := { s with pkg := { s.pkg with dramHot := put s.pkg.dramHot (4 * die + layer) temp } }
    .next (if 110 ≤ temp then s.raiseAlarm 8 else s)

/-- CORE_AVOIDANCE: a core is avoided from 98 °C until it is at 92 °C or below; at 115 °C the alarm is raised (R426). -/
def execCoreAvoidance (c : CoreId) (temp : Nat) (s : State) : Host.Outcome State Fault Refusal :=
  let s := s.coreRead (CoreId.key c) temp
  .next (if 115 ≤ temp then s.raiseAlarm 8 else s)

/-- DROOP_EVENT: the fourth in 100 µs avoids the core for a millisecond, and each further one restarts it. -/
def execDroopEvent (c : CoreId) (s : State) : Host.Outcome State Fault Refusal :=
  let core := CoreId.key c
  let now := s.clock 8
  let ds := now :: (lookD [] s.droops core).filter fun t => decide (now < t + 100 * Config.cyclesPerUs)
  let a := lookD 0 s.avoid core
  let s : State := { s with droops := put s.droops core ds }
  if 4 ≤ ds.length ∨ 2 ≤ a then .next { s with avoid := put s.avoid core ((now + 1000 * Config.cyclesPerUs) * 2 + a % 2) } else .next s

/-- AVOIDANCE_EXPIRE: the millisecond is over. -/
def execAvoidanceExpire (c : CoreId) (s : State) : Host.Outcome State Fault Refusal :=
  let core := CoreId.key c
  let a := lookD 0 s.avoid core
  if a / 2 = 0 ∨ s.clock 8 < a / 2 then .next s else .next { s with avoid := putD 0 s.avoid core (a % 2) }

/-! ## SPDM (R425) -/

/-- Requests are answered in every power state, once the collective firmware runs and no alarm holds the package. -/
def State.spdmOn (s : State) : Bool := decide (2 ≤ s.pkg.boot) && !s.pkg.recovery && !s.pkg.alarm

/-- Answer a requester, who is then at a stage: 1 version, 2 capabilities, 3 algorithms. An exchange is in progress until the algorithms are
agreed and a request after them has been answered. The frames of the DOE mailbox are the event's (log 69). -/
def State.spdmAnswer (s : State) (r stage : Nat) (m : SpdmResp) (busy : Bool) : State :=
  { s.send (.spdm r m) with pkg := { s.pkg with spdm := put s.pkg.spdm r stage, spdmBusy := if busy then insNat s.pkg.spdmBusy r else s.pkg.spdmBusy.filter (· ≠ r) } }

/-- A request that needs a stage: else an error is answered. -/
def State.spdmAt (s : State) (r need next : Nat) (m : SpdmResp) (busy : Bool) : State :=
  if !s.spdmOn then s
  else if lookD 0 s.pkg.spdm r < need then s.send (.spdm r .error)
  else s.spdmAnswer r next m busy

/-- GET_VERSION: SPDM 1.4. -/
def execGetVersion (requester : Nat) (s : State) : Host.Outcome State Fault Refusal :=
  .next (s.spdmAt requester 0 1 (.version 14) true)

/-- GET_CAPABILITIES. -/
def execGetCapabilities (requester : Nat) (s : State) : Host.Outcome State Fault Refusal :=
  .next (s.spdmAt requester 1 2 .capabilities true)

/-- NEGOTIATE_ALGORITHMS: ML-DSA-65 is selected when it is offered. -/
def execNegotiateAlgorithms (requester : Nat) (offered : List (BitVec 16)) (s : State) : Host.Outcome State Fault Refusal :=
  .next (if offered.contains Config.mldsaCode then s.spdmAt requester 2 3 .algorithms true else s.spdmAt requester 2 2 .error true)

/-- GET_DIGESTS: of the chain in slot 0. -/
def execGetDigests (requester : Nat) (s : State) : Host.Outcome State Fault Refusal :=
  .next (s.spdmAt requester 3 3 (.digests (shake256 Config.certChain)) false)

/-- GET_CERTIFICATE: the chain of slot 0; an error after an erasure (R427). -/
def execGetCertificate (requester slot : Nat) (s : State) : Host.Outcome State Fault Refusal :=
  .next (s.spdmAt requester 3 3 (if slot = 0 ∧ !s.pkg.erased then .certificate Config.certChain else .error) false)

/-- The measurements of all indexes that have run. -/
def State.measList (s : State) : List (Nat × BitVec 512) := s.pkg.meas

/-- CHALLENGE: the identity key signs the measurements and the nonce; an error after an erasure (R427). -/
def execChallenge (requester : Nat) (nonce : List (BitVec 8)) (s : State) : Host.Outcome State Fault Refusal :=
  let bytes := s.measList.flatMap (fun e => leBytes e.2.toNat 64) ++ nonce
  .next (s.spdmAt requester 3 3 (if s.pkg.erased then .error else .challengeAuth (Config.mldsaSign bytes)) false)

/-- GET_MEASUREMENTS: one index as its 64-byte digest, or all of them (0xFF). -/
def execGetMeasurements (requester index : Nat) (s : State) : Host.Outcome State Fault Refusal :=
  .next (s.spdmAt requester 3 3 (if index = 0xFF then .measurements s.measList
    else match look s.pkg.meas index with
    | some d => .measurements [(index, d)]
    | none => .error) false)

end Sys2Proof.Machine
end

