-- ==== Sys2Proof/Machine/Stream.lean ====
section
/-! DEFINITION. Queue-port streams: `satt` and `sdet` (R191 to R195). -/

namespace Sys2Proof.Machine

/-- R191: a well-formed stream descriptor. -/
def streamOk (d : Nat) : Bool :=
  let ty := bits d 3 0
  let sp := bits d 6 4
  let w := match ty with | 0 | 1 => 4 | 4 | 5 => 2 | _ => 1
  decide (bits d 191 160 ≠ 0 ∧ sp ≤ 3 ∧ bits d 127 8 = 0 ∧ (sp ≠ 0 → bits d 255 224 = 0) ∧ sext (bits d 159 128) 32 % w = 0) &&
    (ty == 0 || ty == 1 || decide (4 ≤ ty ∧ ty ≤ 7))

/-- The stream a descriptor describes, with each lane's start. -/
def streamOf (d : Nat) (starts : List (Nat × Int)) : Stream :=
  { store := bits d 7 7 == 1, space := lvlOf (bits d 6 4), ty := (IntTy.ofCode (bits d 3 0)).getD .s32
    count := bits d 191 160, stride := sext (bits d 159 128) 32
    bidx := bits d (192 + 59) (192 + 48), tag := bits d (192 + 63) (192 + 60), lanes := starts }

/-- R192: checks 1 to 3 of R176 on the first and the last element of every lane. -/
def Ctx.streamBad (c : Ctx) (st : Stream) : Option Res :=
  let w := st.ty.width / 8
  let ends := st.lanes.flatMap fun e => [(e.1, st.addr e.1 0), (e.1, st.addr e.1 (st.count - 1))]
  if st.space = .glob then
    c.checkBounds (ends.map fun e => ⟨e.1, st.tag * 2 ^ 60 + st.bidx * 2 ^ 48, wrap e.2 48⟩) w (if st.store then bentW else bentR)
  else c.padRange st.space ends w w

def execSatt (o : SattOps) (s : State) : Host.Outcome State Fault Refusal :=
  issue (.satt o) s fun c =>
    let va := (c.s.vreg (c.t c.low) o.a.toNat).toNat
    if c.act = [] then .done c.s
    else if va % 32 ≠ 0 then .trap 0x0010 c.act 0
    else if (look c.f.ports (portNo o.port)).isSome then .trap 0x0014 c.act 1
    else match c.readDesc o.space va 32 32 0 with
    | .error r => r
    | .ok (s, d) =>
      if !streamOk d then .trap 0x0015 c.act 0
      else
        let base : Int := if bits d 6 4 = 0 then (bits d (192 + 47) 192 : Nat) else (bits d (192 + 31) 192 : Nat)
        let st := streamOf d (c.act.map fun l =>
          (l, base + (if o.ofs then sext (c.s.vreg (c.t l) o.b.toNat).toNat 32 else 0)))
        match c.streamBad st with
        | some r => r
        | none =>
          let s := s.modFloe c.k fun f => { f with ports := put f.ports (portNo o.port) st }
          if st.store ∧ st.space = .glob then { c with s := s }.logEntry s (.stream (portNo o.port) (st.tag * 2 ^ 12 + st.bidx) c.f.coord []) else .done s

/-- R194: a load stream's unread elements are discarded; a store stream's detach commits. -/
def execSdet (port : BitVec 8) (s : State) : Host.Outcome State Fault Refusal :=
  issue (.sdet port) s fun c =>
    let off (s : State) : Res := .done (s.modFloe c.k fun f => { f with
      ports := del f.ports (portNo port)
      log := f.log.filter fun e => match e with
        | .stream q _ _ _ => q != portNo port
        | _ => true })
    if c.act = [] then .done c.s
    else match look c.f.ports (portNo port) with
    | none => .done c.s
    | some st =>
      if st.store then
        (if c.f.pend.any (fun p => p.reg == port.toNat) then .stall c.s else c.commitThen c.s off)
      else off c.s

end Sys2Proof.Machine
end

