-- ==== Sys2Proof/Machine/Dispatch.lean ====
section
/-! DEFINITION. The dispatch: one arm per constructor, in the order of the table. -/

namespace Sys2Proof.Machine

def exec (i : Instr) (s : State) : Host.Outcome State Fault Refusal :=
  match i with
  | .nop => Sys2Proof.Machine.execNop s
  | .mov o => Sys2Proof.Machine.execMov o s
  | .movi o => Sys2Proof.Machine.execMovi o s
  | .movs o => Sys2Proof.Machine.execMovs o s
  | .movkToLane o => Sys2Proof.Machine.execMovkToLane o s
  | .movkToUniform o => Sys2Proof.Machine.execMovkToUniform o s
  | .iadd o => Sys2Proof.Machine.execIadd o s
  | .iaddc o => Sys2Proof.Machine.execIaddc o s
  | .isub o => Sys2Proof.Machine.execIsub o s
  | .imul o => Sys2Proof.Machine.execImul o s
  | .imulh o => Sys2Proof.Machine.execImulh o s
  | .imad o => Sys2Proof.Machine.execImad o s
  | .imadw o => Sys2Proof.Machine.execImadw o s
  | .idiv o => Sys2Proof.Machine.execIdiv o s
  | .irem o => Sys2Proof.Machine.execIrem o s
  | .imin o => Sys2Proof.Machine.execImin o s
  | .imax o => Sys2Proof.Machine.execImax o s
  | .iabs o => Sys2Proof.Machine.execIabs o s
  | .ineg o => Sys2Proof.Machine.execIneg o s
  | .and o => Sys2Proof.Machine.execAnd o s
  | .or o => Sys2Proof.Machine.execOr o s
  | .xor o => Sys2Proof.Machine.execXor o s
  | .not o => Sys2Proof.Machine.execNot o s
  | .shl o => Sys2Proof.Machine.execShl o s
  | .shr o => Sys2Proof.Machine.execShr o s
  | .sar o => Sys2Proof.Machine.execSar o s
  | .rol o => Sys2Proof.Machine.execRol o s
  | .bfe o => Sys2Proof.Machine.execBfe o s
  | .bfi o => Sys2Proof.Machine.execBfi o s
  | .popc o => Sys2Proof.Machine.execPopc o s
  | .clz o => Sys2Proof.Machine.execClz o s
  | .ctz o => Sys2Proof.Machine.execCtz o s
  | .brev o => Sys2Proof.Machine.execBrev o s
  | .prm o => Sys2Proof.Machine.execPrm o s
  | .icmp o => Sys2Proof.Machine.execIcmp o s
  | .sel o => Sys2Proof.Machine.execSel o s
  | .plop o => Sys2Proof.Machine.execPlop o s
  | .padd o => Sys2Proof.Machine.execPadd o s
  | .psub o => Sys2Proof.Machine.execPsub o s
  | .pcmp o => Sys2Proof.Machine.execPcmp o s
  | .pbnd o => Sys2Proof.Machine.execPbnd o s
  | .fadd o => Sys2Proof.Machine.execFadd o s
  | .fsub o => Sys2Proof.Machine.execFsub o s
  | .fmul o => Sys2Proof.Machine.execFmul o s
  | .ffma o => Sys2Proof.Machine.execFfma o s
  | .fmin o => Sys2Proof.Machine.execFmin o s
  | .fmax o => Sys2Proof.Machine.execFmax o s
  | .fabs o => Sys2Proof.Machine.execFabs o s
  | .fneg o => Sys2Proof.Machine.execFneg o s
  | .fcmp o => Sys2Proof.Machine.execFcmp o s
  | .fdiv o => Sys2Proof.Machine.execFdiv o s
  | .fsqrt o => Sys2Proof.Machine.execFsqrt o s
  | .frcp o => Sys2Proof.Machine.execFrcp o s
  | .frsq o => Sys2Proof.Machine.execFrsq o s
  | .fex2 o => Sys2Proof.Machine.execFex2 o s
  | .flg2 o => Sys2Proof.Machine.execFlg2 o s
  | .fsin o => Sys2Proof.Machine.execFsin o s
  | .fcos o => Sys2Proof.Machine.execFcos o s
  | .frnd o => Sys2Proof.Machine.execFrnd o s
  | .fclass o => Sys2Proof.Machine.execFclass o s
  | .cvt o => Sys2Proof.Machine.execCvt o s
  | .idp4 o => Sys2Proof.Machine.execIdp4 o s
  | .idp8 o => Sys2Proof.Machine.execIdp8 o s
  | .fdp2 o => Sys2Proof.Machine.execFdp2 o s
  | .atab o => Sys2Proof.Machine.execAtab o s
  | .amul o => Sys2Proof.Machine.execAmul o s
  | .amac o => Sys2Proof.Machine.execAmac o s
  | .aconj o => Sys2Proof.Machine.execAconj o s
  | .anorm o => Sys2Proof.Machine.execAnorm o s
  | .aadd o => Sys2Proof.Machine.execAadd o s
  | .ascl o => Sys2Proof.Machine.execAscl o s
  | .qswp o => Sys2Proof.Machine.execQswp o s
  | .qdx o => Sys2Proof.Machine.execQdx o s
  | .qdy o => Sys2Proof.Machine.execQdy o s
  | .vote o => Sys2Proof.Machine.execVote o s
  | .shfl o => Sys2Proof.Machine.execShfl o s
  | .redi o => Sys2Proof.Machine.execRedi o s
  | .redf o => Sys2Proof.Machine.execRedf o s
  | .scan o => Sys2Proof.Machine.execScan o s
  | .matchAny o => Sys2Proof.Machine.execMatchAny o s
  | .elect o => Sys2Proof.Machine.execElect o s
  | .next succ => Sys2Proof.Machine.execNext succ s
  | .nexti a => Sys2Proof.Machine.execNexti a s
  | .brv p t n => Sys2Proof.Machine.execBrv p t n s
  | .call d f r => Sys2Proof.Machine.execCall d f r s
  | .ret a => Sys2Proof.Machine.execRet a s
  | .spawn o => Sys2Proof.Machine.execSpawn o s
  | .exit => Sys2Proof.Machine.execExit s
  | .yield succ => Sys2Proof.Machine.execYield succ s
  | .barArw o => Sys2Proof.Machine.execBarArw o s
  | .barArv o => Sys2Proof.Machine.execBarArv o s
  | .barWt o => Sys2Proof.Machine.execBarWt o s
  | .barExp o => Sys2Proof.Machine.execBarExp o s
  | .barinit h a b slot => Sys2Proof.Machine.execBarinit h a b slot s
  | .trap h code => Sys2Proof.Machine.execTrap h code s
  | .featq h d w => Sys2Proof.Machine.execFeatq h d w s
  | .featqBit h d n => Sys2Proof.Machine.execFeatqBit h d n s
  | .ld o => Sys2Proof.Machine.execLd o s
  | .st o => Sys2Proof.Machine.execSt o s
  | .lds o => Sys2Proof.Machine.execLds o s
  | .sts o => Sys2Proof.Machine.execSts o s
  | .satt o => Sys2Proof.Machine.execSatt o s
  | .sdet port => Sys2Proof.Machine.execSdet port s
  | .atom o => Sys2Proof.Machine.execAtom o s
  | .red o => Sys2Proof.Machine.execRed o s
  | .lr o => Sys2Proof.Machine.execLr o s
  | .sc o => Sys2Proof.Machine.execSc o s
  | .fence h scope order => Sys2Proof.Machine.execFence h scope order s
  | .commit => Sys2Proof.Machine.execCommit s
  | .stag o => Sys2Proof.Machine.execStag o s
  | .ldtag o => Sys2Proof.Machine.execLdtag o s
  | .mma o => Sys2Proof.Machine.execMma o s
  | .mwait => Sys2Proof.Machine.execMwait s
  | .mfence => Sys2Proof.Machine.execMfence s
  | .aalloc o => Sys2Proof.Machine.execAalloc o s
  | .afree o => Sys2Proof.Machine.execAfree o s
  | .accr o => Sys2Proof.Machine.execAccr o s
  | .accw o => Sys2Proof.Machine.execAccw o s
  | .accz o => Sys2Proof.Machine.execAccz o s
  | .accst o => Sys2Proof.Machine.execAccst o s
  | .accld o => Sys2Proof.Machine.execAccld o s
  | .cpbox o => Sys2Proof.Machine.execCpbox o s
  | .cpred o => Sys2Proof.Machine.execCpred o s
  | .tmov o => Sys2Proof.Machine.execTmov o s
  | .mapr o => Sys2Proof.Machine.execMapr o s
  | .wback h map slot => Sys2Proof.Machine.execWback h map slot s
  | .unmapr h map slot => Sys2Proof.Machine.execUnmapr h map slot s
  | .cbinit o => Sys2Proof.Machine.execCbinit o s
  | .cbacq h d buf => Sys2Proof.Machine.execCbacq h d buf s
  | .cbrel h buf => Sys2Proof.Machine.execCbrel h buf s
  | .dopen o => Sys2Proof.Machine.execDopen o s
  | .dopenW o => Sys2Proof.Machine.execDopenW o s
  | .dclose o => Sys2Proof.Machine.execDclose o s
  | .dbind o => Sys2Proof.Machine.execDbind o s
  | .dunbind o => Sys2Proof.Machine.execDunbind o s
  | .dptr o => Sys2Proof.Machine.execDptr o s
  | .dquery o sel => Sys2Proof.Machine.execDquery o sel s
  | .csrr h d csr => Sys2Proof.Machine.execCsrr h d csr s
  | .csrw h a csr => Sys2Proof.Machine.execCsrw h a csr s
  | .csrwSet h a csr => Sys2Proof.Machine.execCsrwSet h a csr s
  | .csrwClr h a csr => Sys2Proof.Machine.execCsrwClr h a csr s
  | .eret h => Sys2Proof.Machine.execEret h s
  | .haltGrid h => Sys2Proof.Machine.execHaltGrid h s
  | .haltCtx h => Sys2Proof.Machine.execHaltCtx h s
  | .brk h code act => Sys2Proof.Machine.execBrk h code act s
  | .prog h n => Sys2Proof.Machine.execProg h n s
  | .mark h code => Sys2Proof.Machine.execMark h code s
  | .markValue h a code => Sys2Proof.Machine.execMarkValue h a code s
  | .resultWrite f n => Sys2Proof.Machine.execResultWrite f n s
  | .bankService level inst bank engine => Sys2Proof.Machine.execBankService level inst bank engine s
  | .homeAccess r => Sys2Proof.Machine.execHomeAccess r s
  | .writeAcknowledgement r => Sys2Proof.Machine.execWriteAcknowledgement r s
  | .streamElementArrival f port lane => Sys2Proof.Machine.execStreamElementArrival f port lane s
  | .barrierCompletionMulticast n => Sys2Proof.Machine.execBarrierCompletionMulticast n s
  | .binTimerExpire q b => Sys2Proof.Machine.execBinTimerExpire q b s
  | .floeLaunch q => Sys2Proof.Machine.execFloeLaunch q s
  | .floeDemote q => Sys2Proof.Machine.execFloeDemote q s
  | .floeExhaustion q => Sys2Proof.Machine.execFloeExhaustion q s
  | .spawnResume f => Sys2Proof.Machine.execSpawnResume f s
  | .reservationHoldExpire q => Sys2Proof.Machine.execReservationHoldExpire q s
  | .arbiterGrant die cluster => Sys2Proof.Machine.execArbiterGrant die cluster s
  | .mmaPassEnd op => Sys2Proof.Machine.execMmaPassEnd op s
  | .mmaComplete op => Sys2Proof.Machine.execMmaComplete op s
  | .mmaRetry op => Sys2Proof.Machine.execMmaRetry op s
  | .copySlotClaim c buf => Sys2Proof.Machine.execCopySlotClaim c buf s
  | .copyComplete op => Sys2Proof.Machine.execCopyComplete op s
  | .mapFillComplete fill => Sys2Proof.Machine.execMapFillComplete fill s
  | .writebackComplete op => Sys2Proof.Machine.execWritebackComplete op s
  | .dopenTimeout f lane => Sys2Proof.Machine.execDopenTimeout f lane s
  | .gridStop gid c => Sys2Proof.Machine.execGridStop gid c s
  | .tlbWalkComplete c ctx va write => Sys2Proof.Machine.execTlbWalkComplete c ctx va write s
  | .pageRequestGroupSend die ctx => Sys2Proof.Machine.execPageRequestGroupSend die ctx s
  | .prgResponse pasid prg resp => Sys2Proof.Machine.execPrgResponse pasid prg resp s
  | .taskReplace n => Sys2Proof.Machine.execTaskReplace n s
  | .atsTranslationCompletion c ctx va frame size read write => Sys2Proof.Machine.execAtsTranslationCompletion c ctx va frame size read write s
  | .atsInvalidateRequest pasid va size => Sys2Proof.Machine.execAtsInvalidateRequest pasid va size s
  | .invalidationComplete n => Sys2Proof.Machine.execInvalidationComplete n s
  | .segmentRequest f => Sys2Proof.Machine.execSegmentRequest f s
  | .segmentDelivery die ctx code seg => Sys2Proof.Machine.execSegmentDelivery die ctx code seg s
  | .launchRecord page pasid size data => Sys2Proof.Machine.execLaunchRecord page pasid size data s
  | .deviceSideLaunch n => Sys2Proof.Machine.execDeviceSideLaunch n s
  | .driftDistribution gid => Sys2Proof.Machine.execDriftDistribution gid s
  | .blockPlace gid die => Sys2Proof.Machine.execBlockPlace gid die s
  | .shareScrubComplete n => Sys2Proof.Machine.execShareScrubComplete n s
  | .gridEnd gid => Sys2Proof.Machine.execGridEnd gid s
  | .contextPreempt ctx => Sys2Proof.Machine.execContextPreempt ctx s
  | .contextResume ctx => Sys2Proof.Machine.execContextResume ctx s
  | .preempt ctx value => Sys2Proof.Machine.execPreempt ctx value s
  | .stopBlock issuer => Sys2Proof.Machine.execStopBlock issuer s
  | .haltGridCommand issuer => Sys2Proof.Machine.execHaltGridCommand issuer s
  | .haltContext issuer => Sys2Proof.Machine.execHaltContext issuer s
  | .resume issuer => Sys2Proof.Machine.execResume issuer s
  | .step issuer => Sys2Proof.Machine.execStep issuer s
  | .stepTimeout issuer => Sys2Proof.Machine.execStepTimeout issuer s
  | .dump issuer => Sys2Proof.Machine.execDump issuer s
  | .dumpEnd issuer => Sys2Proof.Machine.execDumpEnd issuer s
  | .debugRecall issuer => Sys2Proof.Machine.execDebugRecall issuer s
  | .remoteWrite issuer => Sys2Proof.Machine.execRemoteWrite issuer s
  | .remoteRead issuer => Sys2Proof.Machine.execRemoteRead issuer s
  | .sample q => Sys2Proof.Machine.execSample q s
  | .boundsWrite c => Sys2Proof.Machine.execBoundsWrite c s
  | .boundsRead c => Sys2Proof.Machine.execBoundsRead c s
  | .boundsClear c => Sys2Proof.Machine.execBoundsClear c s
  | .tlbInvalidatePage c => Sys2Proof.Machine.execTlbInvalidatePage c s
  | .tlbInvalidateContext c => Sys2Proof.Machine.execTlbInvalidateContext c s
  | .recallSegment => Sys2Proof.Machine.execRecall s
  | .invalidatePage => Sys2Proof.Machine.execInvalidatePage s
  | .invalidateContext => Sys2Proof.Machine.execInvalidateContext s
  | .writeBoundsEntry => Sys2Proof.Machine.execWriteBoundsEntry s
  | .loadLinkSchedule => Sys2Proof.Machine.execLoadLinkSchedule s
  | .checkpoint => Sys2Proof.Machine.execCheckpoint s
  | .restore => Sys2Proof.Machine.execRestore s
  | .resetDie => Sys2Proof.Machine.execResetDie s
  | .loadFirmwareImage image => Sys2Proof.Machine.execLoadFirmwareImage image s
  | .errorLogRead c => Sys2Proof.Machine.execErrorLogRead c s
  | .errorLogClear c => Sys2Proof.Machine.execErrorLogClear c s
  | .errorLogOverflowRead c => Sys2Proof.Machine.execErrorLogOverflowRead c s
  | .injectionArm c => Sys2Proof.Machine.execInjectionArm c s
  | .eccError die core array addr synd ue => Sys2Proof.Machine.execEccError die core array addr synd ue s
  | .patrolScrub channel => Sys2Proof.Machine.execPatrolScrub channel s
  | .hmapWrite value => Sys2Proof.Machine.execHmapWrite value s
  | .fwsvnWrite value => Sys2Proof.Machine.execFwsvnWrite value s
  | .reclgetWrite ctx value => Sys2Proof.Machine.execReclgetWrite ctx value s
  | .reclbaseWrite ctx value => Sys2Proof.Machine.execReclbaseWrite ctx value s
  | .linkTestCorrupt die dst value => Sys2Proof.Machine.execLinkTestCorrupt die dst value s
  | .rcRegisterRead off size => Sys2Proof.Machine.execRcRegisterRead off size s
  | .registerWrite off size value => Sys2Proof.Machine.execRegisterWrite off size value s
  | .collectiveCommand page size data => Sys2Proof.Machine.execCollectiveCommand page size data s
  | .collectiveOperationEnd op contributions => Sys2Proof.Machine.execCollectiveOperationEnd op contributions s
  | .bar2Access off op => Sys2Proof.Machine.execBar2Access off op s
  | .configurationRequest write off value => Sys2Proof.Machine.execConfigurationRequest write off value s
  | .ualinkRequest addr op => Sys2Proof.Machine.execUalinkRequest addr op s
  | .roceRequest port addr op => Sys2Proof.Machine.execRoceRequest port addr op s
  | .flitReceive src dst cls crcGood => Sys2Proof.Machine.execFlitReceive src dst cls crcGood s
  | .scheduleSwitch die => Sys2Proof.Machine.execScheduleSwitch die s
  | .heartbeatSend die => Sys2Proof.Machine.execHeartbeatSend die s
  | .heartbeatReceive n => Sys2Proof.Machine.execHeartbeatReceive n s
  | .dieSilent die => Sys2Proof.Machine.execDieSilent die s
  | .fenceAcknowledge die => Sys2Proof.Machine.execFenceAcknowledge die s
  | .fenceTimeout die => Sys2Proof.Machine.execFenceTimeout die s
  | .powerOn => Sys2Proof.Machine.execPowerOn s
  | .powerUpStep pass images => Sys2Proof.Machine.execPowerUpStep pass images s
  | .s1Entry die => Sys2Proof.Machine.execS1Entry die s
  | .s2Entry => Sys2Proof.Machine.execS2Entry s
  | .s3Entry => Sys2Proof.Machine.execS3Entry s
  | .wakeEvent => Sys2Proof.Machine.execWakeEvent s
  | .throttleStep die temps power => Sys2Proof.Machine.execThrottleStep die temps power s
  | .dramHot die layer temp => Sys2Proof.Machine.execDramHot die layer temp s
  | .coreAvoidance c temp => Sys2Proof.Machine.execCoreAvoidance c temp s
  | .droopEvent c => Sys2Proof.Machine.execDroopEvent c s
  | .avoidanceExpire c => Sys2Proof.Machine.execAvoidanceExpire c s
  | .securityAlarm sources => Sys2Proof.Machine.execSecurityAlarm sources s
  | .getVersion requester => Sys2Proof.Machine.execGetVersion requester s
  | .getCapabilities requester => Sys2Proof.Machine.execGetCapabilities requester s
  | .negotiateAlgorithms requester offered => Sys2Proof.Machine.execNegotiateAlgorithms requester offered s
  | .getDigests requester => Sys2Proof.Machine.execGetDigests requester s
  | .getCertificate requester slot => Sys2Proof.Machine.execGetCertificate requester slot s
  | .challenge requester nonce => Sys2Proof.Machine.execChallenge requester nonce s
  | .getMeasurements requester index => Sys2Proof.Machine.execGetMeasurements requester index s
  | .gridEndByHost gid => Sys2Proof.Machine.execGridEndByHost gid s
  | .shellPowerFault die => Sys2Proof.Machine.execShellPowerFault die s
  | .codeObjectUnload ctx code => Sys2Proof.Machine.execCodeObjectUnload ctx code s
  | .driverDirectoryCommand ctx recs => Sys2Proof.Machine.execDriverDirectoryCommand ctx recs s

end Sys2Proof.Machine
end

