-- ==== Sys2Proof/Machine/Sched.lean ====
section
/-! DEFINITION. Whose turn it is: time, the floe that an issue slot picks, its turn, and the default order of moves (log 2). -/

namespace Sys2Proof.Machine

/-! ## Time (R92) -/

/-- The arithmetic clock of a die runs: not gated, and its domain is powered (R420). Number 8 is the collective die, which times the package. -/
def State.clocked (s : State) (d : Nat) : Bool := d == 8 || (!s.pkg.gated.getLsbD d && decide (s.pkg.pst < 2))

/-- Cycles pass, by die. -/
def State.pass (s : State) (n : Nat → Nat) : State :=
  { s with clocks := (List.range 9).foldl (fun t d => if s.clocked d then put t d (lookD 0 t d + n d) else t) s.clocks }

/-- Time passes before a step: on each die a free number of cycles of its own, since the dies' counters are not synchronised (R92, log 3). -/
def State.tick (s : State) : State := { s.pass (Config.elapsed s.steps) with steps := s.steps + 1 }

/-- A die has had no cycle since the step before. -/
def State.noTime (s : State) : Bool := (List.range 9).any fun d => Config.elapsed (s.steps - 1) d == 0

/-- An event of the table, not an instruction that a slot encodes. -/
def Instr.isEvent (i : Instr) : Bool := i.slot?.isNone

def floeIdOf (k : Nat) : FloeId := ⟨k / 16384, k / 128 % 128, k / 32 % 4, k % 32⟩
def coreIdOf (c : Nat) : CoreId := ⟨c / 128, c % 128⟩
def slotIdOf (q : Nat) : SlotId := ⟨q / 512, q / 4 % 128, q % 4⟩

/-! ## A floe's turn -/

/-- The slot at a floe's position is fetched, decoded and issued; bits that are no instruction take the illegal-instruction trap (R70). -/
def State.issueNext (s : State) (k : Nat) : Host.Outcome State Fault Refusal :=
  let s := { s with cur := floeIdOf k }
  match s.fetch k with
  | none => .next s
  | some (.error _) => .next ((s.illegal k).settleDue 64)
  | some (.ok i) => exec i s

/-- The floe has issued the first of a pair and may issue its second in the same cycle (R61). -/
def State.pairGoes (s : State) (k : Nat) : Bool :=
  match s.floe? k with
  | some f => f.second == 1 && f.wait == .none && s.mayIssue k f
  | none => false

/-- A floe's turn: the next slot, or the pair (R61, R253), and the homes that it asked answer (R176, R290). -/
def State.turnFloe (s : State) (k : Nat) : Host.Outcome State Fault Refusal :=
  match s.issueNext k with
  | .next t =>
    if t.pairGoes k then
      match t.issueNext k with
      | .next u => .next u.homeAnswers
      | r => r
    else .next t.homeAnswers
  | r => r

/-! ## The floe that an issue slot picks (R253) -/

def Wait.kind : Wait → Nat
  | .none => 0 | .score => 1 | .stall => 2 | .mwait => 3 | .cbacq _ => 4 | .bar _ _ _ => 5 | .seg _ => 6 | .page _ _ _ => 7 | .trap => 8
  | .dopen _ _ => 9

/-- A waiting floe's instruction, tried now, does more than wait. -/
def State.progress (s : State) (k : Nat) (f : Floe) : Bool :=
  match s.turnFloe k with
  | .next t => (match t.floe? k with
    | none => true
    | some g => g.fid != f.fid || g.wait.kind != f.wait.kind || (g.segid, g.line, g.slot) != (f.segid, f.line, f.slot) ||
        g.served != f.served || g.log.length != f.log.length)
  | _ => false

/-- A floe that the issue slot may pick: not waiting, or waiting for something that has come. -/
def State.ready (s : State) (k : Nat) (f : Floe) : Bool :=
  s.mayIssue k f && (s.fetchAt k f).isSome && (f.wait == .none || s.progress k f)

/-- R253: the floe that an issue slot picks; a lone ready floe is the one in every case. A slot that a trial holds picks none (R381). -/
def State.pick (s : State) (q : Nat) : Option Nat :=
  if s.clock (q / 512) < (lookD ({} : Sched) s.sched q).holdTo then none else
  let fs := slice s.floes (32 * q) (32 * q + 32)
  let now := s.clock (q / 512)
  match fs.filter fun e => s.ready e.1 e.2 && (e.2.holds now || !(fs.any (·.2.holds now))) with
  | [] => none
  | [e] => some e.1
  | ready =>
    match ready.find? fun e => decide (3968 ≤ now - e.2.lastIssue) with
    | some e => some e.1
    | none =>
      let sc : Sched := lookD {} s.sched q
      if ready.any (fun e => e.1 % 32 == sc.last && e.2.fid == sc.lastFid) ∧ sc.count < 32 then some (32 * q + sc.last)
      else match ready.find? fun e => decide (sc.last < e.1 % 32) with
        | some e => some e.1
        | none => (ready.head?).map (·.1)

/-! ## Moves that have a cycle to themselves (R131, R152, R155, R308, R366, log 21) -/

/-- Moves for which the spec orders or gathers what happens in one cycle. -/
def Instr.sameCycle : Instr → Bool
  | .atab _ | .spawn _ | .exit | .barArw _ | .barArv _ | .barExp _ | .barinit _ _ _ _ | .copyComplete _ | .mmaComplete _ | .writebackComplete _
  | .barrierCompletionMulticast _ => true
  | _ => false

/-- Trap records made so far, written or dropped. -/
def State.trapCount (s : State) : Nat := s.grids.foldl (fun n e => n + e.2.ntrap + e.2.dropped) 0

/-- A floe's turn makes a trap record (R308), or matches a breakpoint (R366). -/
def State.reports (s : State) (k : Nat) : Bool :=
  (match s.floe? k with
    | some f => s.breakpoints (coreOfFloe k) (s.floeCtx k f) f.coord != []
    | none => false) ||
  (match s.turnFloe k with
    | .next t => t.trapCount != s.trapCount
    | _ => false)

def State.lonely (s : State) : Turn → Bool
  | .event e => Instr.sameCycle e
  | .issue q => match s.pick (SlotId.key q) with
    | none => false
    | some k => (match s.fetch k with
      | some (.ok i) => Instr.sameCycle i
      | _ => false) || s.reports k

/-- An issue slot has issued in this cycle (R253). -/
def State.slotUsed (s : State) (q : Nat) : Bool := (lookD ({} : Sched) s.sched q).lastAt == some (s.clock (q / 512))

/-- The issue slot has issued in this cycle (R253), or launched a floe (R248). -/
def State.issuedNow (s : State) : Turn → Bool
  | .event (.spawnResume f) => s.slotUsed (FloeId.key f / 32)
  | .event (.floeLaunch q) => s.launchedNow (SlotId.key q)
  | .event _ => false
  | .issue q => s.slotUsed (SlotId.key q)

/-- One more cycle passes before a move that may not share the last move's cycle. -/
def State.pace (s : State) (t : Turn) : State :=
  let l := s.lonely t
  { s.pass (fun _ => if ((l || s.lone) && s.noTime) || s.issuedNow t then 1 else 0) with lone := l }

/-! ## The default order of moves (log 2) -/

def commandEvent (c : Cmd) : List Instr :=
  let id := coreIdOf (c.core % 1024)
  let die : CoreId := if 1024 ≤ c.core then ⟨c.core - 1024, 0⟩ else coreIdOf c.core
  if c.csr = 0x209 then [.boundsWrite id, .boundsRead id, .boundsClear id]
  else if c.csr = 0x212 then [.tlbInvalidatePage id, .tlbInvalidateContext id]
  else if c.csr = 0x381 then [.errorLogRead die, .errorLogClear die, .errorLogOverflowRead die]
  else if c.csr = 0x38D then [.injectionArm die]
  else
    let id := if 1024 ≤ c.core then coreIdOf (c.core - 1024) else coreIdOf c.core
    [.stopBlock id, .haltGridCommand id, .haltContext id, .resume id, .step id, .dump id, .debugRecall id, .remoteWrite id, .remoteRead id]

def hostEvent : Nat → List Instr
  | 1 => [.recallSegment]
  | 2 => [.invalidatePage]
  | 3 => [.invalidateContext]
  | 4 => [.writeBoundsEntry]
  | 5 => [.loadLinkSchedule]
  | 6 => [.checkpoint]
  | 7 => [.restore]
  | 8 => [.resetDie]
  | _ => []

/-- Events that a floe may be due. -/
def State.floeEvents (s : State) (e : Nat × Floe) : List Instr :=
  let f := floeIdOf e.1
  let w : List Instr := match e.2.wait with
    | .seg _ => [Instr.segmentRequest f]
    | .stall => (if s.pick (e.1 / 32) = some e.1 then [Instr.spawnResume f] else []) ++ [Instr.segmentRequest f]
    | .dopen want _ => want.map fun (w : Nat × Nat × Nat) => Instr.dopenTimeout f w.1
    | _ => [Instr.segmentRequest f]
  let r : List Instr := e.2.pend.filterMap fun (p : Pend) => if p.need = [] ∧ p.left = 0 then some (Instr.resultWrite f p.n) else none
  let p : List Instr := e.2.ports.flatMap fun (p : Nat × Stream) => p.2.lanes.map fun (l : Nat × Int) => Instr.streamElementArrival f p.1 l.1
  List.flatten [w, r, p]

/-- One event for each index of a list. -/
def indexed (n : Nat) (f : Nat → Instr) : List Instr := (List.range n).map f

/-- Events of the memory system and the scratchpads that may be due. -/
def State.memEvents (s : State) : List Instr :=
  let n : List Instr := s.net.map fun (e : Nat × Req) => if e.2.performed then Instr.writeAcknowledgement e.1 else Instr.homeAccess e.1
  let t : List Instr := s.tokens.map fun (t : Token) => Instr.bankService t.level t.inst t.bank t.engine
  List.flatten [n, t, indexed s.mcasts.length Instr.barrierCompletionMulticast, indexed s.fills.length Instr.mapFillComplete]

/-- Events of an issue slot. -/
def slotEvent (q : SlotId) : List Instr :=
  [Instr.floeLaunch q, Instr.floeDemote q, Instr.floeExhaustion q, Instr.reservationHoldExpire q]

/-- Walks that loads of a floe which have issued wait for (R64). -/
def State.walkEvents (s : State) (e : Nat × Floe) : List Instr :=
  e.2.late.flatMap fun l => l.reqs.map fun q => Instr.tlbWalkComplete (coreIdOf (coreOfFloe e.1)) (s.grid (s.block (e.2.bkey e.1)).grid).ctx q.2.2 false

/-- Events of the issue slots and the segment service that may be due. -/
def State.slotEvents (s : State) : List Instr :=
  let slots := (s.starting.map (fun (e : Nat × Starting) => e.1) ++ s.bins.map (fun (e : Nat × Bin) => e.1 / 16) ++
    s.floes.map (fun (e : Nat × Floe) => e.1 / 32) ++ s.saves.map fun (e : Nat × Floe) => e.1 / 64).dedup
  let f : List Instr := s.floes.flatMap fun e => s.floeEvents e ++ s.walkEvents e
  let r : List Instr := s.segReqs.map fun (r : SegReq) => Instr.segmentDelivery r.die r.ctx r.code r.seg
  let q : List Instr := slots.flatMap fun (q : Nat) => slotEvent (slotIdOf q)
  let b : List Instr := s.bins.map fun (e : Nat × Bin) => Instr.binTimerExpire (slotIdOf (e.1 / 16)) (e.1 % 16)
  List.flatten [f, r, q, b]

/-- Events of the engines that may be due. -/
def State.engineEvents (s : State) : List Instr :=
  let a : List Instr := s.mmas.map fun (e : Nat × Mma) => Instr.arbiterGrant e.2.die e.2.cluster
  let m : List Instr := s.mmas.flatMap fun (e : Nat × Mma) => [Instr.mmaPassEnd e.1, Instr.mmaComplete e.1, Instr.mmaRetry e.1]
  let c : List Instr := s.copies.flatMap fun (e : Nat × Copy) =>
    [Instr.copySlotClaim (coreIdOf e.2.core) (cpSel e.2.desc.toNat), Instr.copyComplete e.1]
  let w : List Instr := s.wbs.map fun (e : Nat × WBack) => Instr.writebackComplete e.1
  List.flatten [a, m, c, w]

/-- Events of a grid that is being stopped, on the cores that hold blocks. -/
def State.stopEvents (s : State) : List Instr :=
  let cores := (s.blocks.map fun (e : Nat × Block) => e.1 / 32).dedup
  (s.grids.filter fun (e : Nat × Grid) => e.2.stopping.isSome).flatMap fun (g : Nat × Grid) =>
    cores.map fun (c : Nat) => Instr.gridStop g.1 (coreIdOf c)

/-- Events of grids and contexts that may be due. -/
def State.gridEvents (s : State) : List Instr :=
  let ctxs := (s.preempting ++ s.saved.map (fun (x : Saved) => x.ctx) ++ s.grids.map fun (e : Nat × Grid) => e.2.ctx).dedup
  let p : List Instr := s.fpages.map fun (p : FPage) => Instr.pageRequestGroupSend p.die p.ctx
  let g : List Instr := s.grids.flatMap fun (g : Nat × Grid) =>
    List.flatten [[Instr.driftDistribution g.1, Instr.gridEnd g.1], indexed 8 (Instr.blockPlace g.1)]
  let c : List Instr := ctxs.flatMap fun (c : Nat) => [Instr.contextPreempt c, Instr.contextResume c]
  List.flatten [s.stopEvents, p, indexed s.tasks.length Instr.taskReplace, indexed s.invals.length Instr.invalidationComplete,
    indexed s.launches.length Instr.deviceSideLaunch, indexed s.scrubs.length Instr.shareScrubComplete, g, c]

/-- Issue slots of the cores whose sampling period is set, where their sample is due (R363). -/
def State.sampleEvents (s : State) : List Instr :=
  let cores := (s.csrs.filter fun (e : Nat × Word) => e.1 % 4096 == 0x320).map fun e => e.1 / 4096
  (cores.flatMap fun c => (List.range 4).map (4 * c + ·)).filterMap fun q =>
    if s.samplePeriod q = 0 ∨ s.clock (q / 512) < s.sampleAt q then none else some (Instr.sample (slotIdOf q))

/-- Events of commands, steps and heartbeats that may be due. -/
def State.cmdEvents (s : State) : List Instr :=
  let c : List Instr := s.cmds.flatMap commandEvent
  let d : List Instr := s.dumps.map fun (d : Dump) => Instr.dumpEnd (coreIdOf (d.issuer % 1024))
  let t : List Instr := s.blocks.filterMap fun (e : Nat × Block) => e.2.stepping.map fun (x : Nat × Nat) => Instr.stepTimeout (coreIdOf (x.1 % 1024))
  let h : List Instr := match s.pkg.cmdOp with
    | some n => hostEvent n
    | none => []
  List.flatten [c, d, t, h, indexed s.beatNet.length Instr.heartbeatReceive, s.sampleEvents]

/-- Events of the machine's own that may be due; one whose condition does not hold changes nothing. -/
def State.events (s : State) : List Instr := List.flatten [s.memEvents, s.slotEvents, s.engineEvents, s.gridEvents, s.cmdEvents]

/-- The default order of moves: an issue and an event of the machine by turns, each kind in rotation. -/
def State.nextMove (s : State) : Option Turn :=
  let n := s.steps / 2
  let slots := (s.floes.map fun e => e.1 / 32).dedup
  let r := n % (slots.length + 1)
  let issue : Option Turn := ((slots.drop r ++ slots.take r).find? fun q => (s.pick q).isSome).map fun q => .issue (slotIdOf q)
  let es := s.events
  let event : Option Turn := es[n % es.length]?.map .event
  if s.steps % 2 = 0 ∨ issue.isNone then event.or issue else issue

/-! ## A program placed from outside (`withFetchWord`) -/

/-- A header line of one instruction line with one entry, line 1 slot 0, and 248 registers (R58). -/
def bootHeader : BitVec 512 :=
  0x10000000000000240F80100001#512

/-- A launch record of one block of 32 threads with 248 registers (R299). -/
def bootRecord : BitVec 512 :=
  0x4001F800000000000000000000001F0101000100000000000000000000000000000000000000000000000000000000000000000000100000010000#512

/-- Code placed on core 0 of die 0: a resident segment of one line whose slot 0 is the word, its other slots `nop`. -/
def bootSeg (w : Nat) : SegCopy :=
  { core := 0, ctx := 0, code := 1, seg := 1, lines := [bootHeader, 0x00085000#32 ++ 0#384 ++ BitVec.ofNat 96 w] }

/-- A floe of 32 threads of one resident block at line 1, slot 0 of the placed segment, whose turn is next. -/
def State.boot (s : State) (w : Nat) : State :=
  { s with
    agenda := .issue ⟨0, 0, 0⟩ :: s.agenda
    segs := put s.segs 0 (bootSeg w)
    grids := put s.grids 0 { lrec := bootRecord, state := 1, dies := 1, handed := 1 }
    blocks := put s.blocks 0 { uid := 1, grid := 0 }
    threads := (List.range 32).foldl (fun t l => put t (32 * l) { st := 1, tid := l, win := 248 }) s.threads
    floes := put s.floes 0 { fid := 1, lanes := (List.range 32).map fun l => (l, 0), copy := 0, segid := 1, line := 1, slot := 0 }
    nextId := s.nextId + 2 }

end Sys2Proof.Machine
end

