-- ==== Sys2Proof/Machine/Step.lean ====
section
/-! DEFINITION. One step of the machine: time passes, and the agent whose turn it is makes one move of the table. -/

namespace Sys2Proof.Machine

/-- A turn of an issue slot, whose pick issues, or of an event. -/
def stepTurn (t : Turn) (s : State) : Host.Outcome State Fault Refusal :=
  let s := s.pace t
  match t with
  | .issue q => match s.pick (SlotId.key q) with
    | some k => s.turnFloe k
    | none => .next s
  | .event e => if Instr.isEvent e then exec e s else .next s

/-- One step: the head of the agenda, or the default move; with nothing to do the machine idles. -/
def step (s : State) : Host.Outcome State Fault Refusal :=
  let s := s.tick
  match s.agenda with
  | t :: rest => stepTurn t { s with agenda := rest }
  | [] => match s.nextMove with
    | some t => stepTurn t s
    | none => .next s

/-- `s` with the slot of bits `w` placed as the next instruction of a floe whose turn is next (log 8). -/
def State.withFetchWord (s : State) (nbits w : Nat) : State := s.boot (w % 2 ^ nbits)

end Sys2Proof.Machine
end

