-- ==== Sys2Proof/Safety.lean ====
section
/-! DEFINITION. What counts as a safe run, and the terms claims are stated in: an instruction that issues with nothing before it, and
what is left once its own part is done. -/

namespace Sys2Proof

/-- A step that answers a next state. -/
def StepSafe (s : Machine.State) : Prop := ∃ t, Machine.step s = .next t

/-- `n` steps from a state all answer next states. -/
def SafeRun : Nat → Machine.State → Prop
  | 0, _ => True
  | n + 1, s => ∃ t, Machine.step s = .next t ∧ SafeRun n t

namespace Machine

/-- Nothing comes before a floe's issue, whatever its instruction is. No result is due to be written (R63); the floe's block is not stopped, no
command, page, home or other floe's reservation holds it (R253, R290, R326, R330, R371), no trap is under way (R310), no earlier port write has raced (R284), a replay has an entry for
it (R378), the launch grants the segment's registers (R59), no breakpoint is hit that has not been (R366). -/
def State.opens (s : State) (k : Nat) (f : Floe) : Bool :=
  let g := s.grid (s.block (f.bkey k)).grid
  !(f.pend.any fun p => p.ready && p.left == 0) && s.mayIssue k f && f.trap.isNone && f.raced.isNone &&
  !(f.second != 1 && s.replMode g.ctx == 2 && (s.replEntry g.ctx k).isNone) && decide (s.segRegs k f ≤ g.nregs) &&
  ((s.breakpoints (coreOfFloe k) g.ctx f.coord).filter fun h => !f.bpHits.contains h.1) == []

/-- Nothing comes before the instruction's own part. Beside the above, no result or acquire is waited for by it or by its pair (R61, R63, R178,
R179), verify mode finds nothing (R65), and no register is lent (R206) or in error (R406). -/
def State.clear (s : State) (i : Instr) (k : Nat) (f : Floe) (c : Ctx) : Bool :=
  s.opens k f && !f.guardHolds i && !s.scoreWait i k f &&
  !(c.g.ver && s.earlyLanes i k f c.act != []) && s.lentLanes i k f c.act == [] && !s.ueReads i k f c.act

/-- The floe whose turn it is issues `i` with nothing before the instruction's own part, and its queue ports give and take what it needs
(R56, R193, R195): the floe as it stands, and what that part sees. -/
def issuing (i : Instr) (s : State) : Option (Floe × Ctx) :=
  match s.floe? (FloeId.key s.cur) with
  | none => none
  | some f =>
    let c := issueCtx i s (FloeId.key s.cur) f
    if s.clear i (FloeId.key s.cur) f c then
      match c.ports i with
      | .error _ => none
      | .ok c => some (f, c)
    else none

/-- The machine once an instruction's own part has left `u` and its floe goes on with the next slot (R46, R63); the imprecise faults that
are due are taken (R307). -/
def State.completed (u : State) (k : Nat) (f : Floe) : State :=
  (((u.countWindows k f.npend).goOn k).afterIssue k f).settleDue 64

/-- The same for an instruction that sets its floe's position itself, or after which the floe waits or is gone (R60, R156). -/
def State.moved (u : State) (k : Nat) (f : Floe) : State := ((u.countWindows k f.npend).afterIssue k f).settleDue 64

/-- The machine once the instruction at the floe's position has taken a precise trap (R308, R309). -/
def State.trapped (s : State) (k code : Nat) (lanes : List Nat) (addr : Nat) : State :=
  ((s.modFloe k fun x => { x with bpHits := [], watchHits := [] }).takeTrap k code lanes addr).settleDue 64

/-- No imprecise fault is due (R307), no stop or halt is under way (R371), and no context records its issues (R377). -/
def State.still (s : State) : Bool :=
  s.due == [] && s.grids.all (fun e => e.2.stopping.isNone) &&
  s.ctxRegs.all fun e => !(decide (e.1 % 32 = 8) && e.2 != 0 && Config.replMode e.2 == 1)

/-- The same, and no injection is armed and no stored error stands (R412). -/
def State.calm (s : State) : Bool :=
  s.still && s.latent == [] && s.csrs.all fun e => !(decide (e.1 % 4096 = 0x38D) && e.2.getLsbD 0)

/-- The threads of the active lanes stand in their own lane banks, with `top` registers of their windows inside (R241). -/
def Ctx.inBanks (c : Ctx) (top : Nat) : Bool :=
  c.act.all fun l => match c.f.tkey c.k l with
    | some t => decide (t / 32 = 32 * c.islot + l ∧ (c.s.thread t).wbase + top ≤ 2048)
    | none => false

/-- The words of every active lane stand in its registers from `d` on. -/
def Ctx.inRegs (c : Ctx) (t : State) (d : BitVec 8) (val : Nat → List Word) : Prop :=
  ∀ l ∈ c.act, ∀ i w, (val l)[i]? = some w → t.vreg (c.t l) (d.toNat + i) = w

/-- The words of every active lane stand in a result of the floe that waits, with `la` instructions of its window left (R63). -/
def Ctx.inWindow (c : Ctx) (t : State) (la : Nat) (d : BitVec 8) (val : Nat → List Word) : Prop :=
  ∃ x, t.floe? c.k = some x ∧ ∃ p ∈ x.pend, p.n = c.f.npend ∧ p.reg = d.toNat ∧ p.left = la ∧ p.ready = true ∧
    ∀ l ∈ c.act, (l, val l) ∈ p.vals

/-- A uniform register of the floe holds a word (R78). -/
def Ctx.inUreg (c : Ctx) (t : State) (d : BitVec 8) (w : Word) : Prop := ∃ x, t.floe? c.k = some x ∧ lookD 0 x.uregs d.toNat = w

/-- A word for a uniform register stands in a result of the floe that waits (R63, R85). -/
def Ctx.inUregWindow (c : Ctx) (t : State) (la : Nat) (d : BitVec 8) (w : Word) : Prop :=
  ∃ x, t.floe? c.k = some x ∧ ∃ p ∈ x.pend, p.n = c.f.npend ∧ p.ureg = some (d.toNat, w) ∧ p.left = la

/-- Where an integer instruction's result is after it: in the uniform register, in the registers, or in a window; an element for a queue
port (registers 248 and up) is the port's. -/
def Ctx.gives (c : Ctx) (t : State) (o : IntOps) (val : Nat → List Word) : Prop :=
  if o.form.isK then
    (if o.h.la = 0 then c.inUreg t o.d ((val c.lowPresent).headD 0) else c.inUregWindow t o.h.la.toNat o.d ((val c.lowPresent).headD 0))
  else if o.h.la = 0 then o.d.toNat < 248 → (∀ l, (val l).length ≤ 2) → c.inBanks (o.d.toNat + 2) = true → c.inRegs t o.d val
  else c.act ≠ [] → c.inWindow t o.h.la.toNat o.d val

/-- A predicate that an integer instruction writes reads so after it, in every active lane, or in every present lane of a K form (R78). -/
def Ctx.givesPred (c : Ctx) (t : State) (o : IntOps) (p : BitVec 8) (val : Nat → Bool) : Prop :=
  p.toNat < 7 → c.inBanks 0 = true →
    if o.form.isK then ∀ l ∈ c.f.lanes.map (·.1), t.predOf (c.t l) p.toNat = val c.lowPresent
    else ∀ l ∈ c.act, t.predOf (c.t l) p.toNat = val l

/-- Where a float instruction's word and sticky flags are after it: in the register and status word of every active lane, or in a window;
an element for a queue port is the port's (R41, R42, R63). -/
def Ctx.givesFp (c : Ctx) (t : State) (la : BitVec 4) (d : BitVec 8) (val : Nat → Word) (fl : Nat → Fl) : Prop :=
  if la = 0 then d.toNat < 248 → c.inBanks (d.toNat + 1) = true →
    c.inRegs t d (fun l => [val l]) ∧ ∀ l ∈ c.act, (t.thread (c.t l)).status = (c.s.thread (c.t l)).status ||| (fl l).zeroExtend 32
  else c.act ≠ [] → c.inWindow t la.toNat d (fun l => [val l]) ∧
    ∃ x, t.floe? c.k = some x ∧ ∃ p ∈ x.pend, p.n = c.f.npend ∧ ∀ l ∈ c.act, (l, fl l) ∈ p.flags

/-- `t` agrees with `s` but for registers, threads, floes, generators, and what an issue counts: all of memory, every block, grid, barrier,
bank, directory entry and package register is as before. -/
def State.sameRest (s t : State) : Prop :=
  t = { s with regs := t.regs, threads := t.threads, floes := t.floes, lfsr := t.lfsr, csrs := t.csrs, sched := t.sched }

/-- Every byte of memory and of the scratchpads reads as before. -/
def State.sameBytes (s t : State) : Prop :=
  (∀ a, getB t.mem a = getB s.mem a) ∧ (∀ a, look t.hostMem a = look s.hostMem a) ∧ (∀ a, getB t.unit a = getB s.unit a) ∧
  (∀ a, getB t.clus a = getB s.clus a) ∧ ∀ a, getB t.dmem a = getB s.dmem a

/-- Every core register but the two trial counters is as before (R381). -/
def State.sameCsrs (s t : State) : Prop := ∀ core n, n ≠ 0x324 → n ≠ 0x325 → n < 4096 → t.csr core n = s.csr core n

/-- A thread's record is as before but for predicates and status word, or its reservation is gone as well (R189). -/
def Thread.same (x y : Thread) : Prop :=
  y = { x with preds := y.preds, status := y.status } ∨ y = { x with preds := y.preds, status := y.status, resv := none }

/-- The bank words of lane `l` that `n` registers from `d` take (R241). -/
def Ctx.spot (c : Ctx) (u : State) (d n l a : Nat) : Prop := regKey (c.t l) (u.thread (c.t l)) d ≤ a ∧ a < regKey (c.t l) (u.thread (c.t l)) d + n

/-- What an instruction whose effect is on registers leaves as it was, from the state `s` before to the state `t` after. Every byte of memory,
every core register, every other floe, the generators of other issue slots; every bank word outside the destination registers of active
lanes; every predicate that is no destination, and those of threads outside the floe; status words, but for the sticky flags of an instruction
that sets flags; of the floe, its lanes, its store log, and every uniform register that is no destination. -/
def Ctx.frame (c : Ctx) (i : Instr) (flags : Bool) (s t : State) : Prop :=
  s.sameRest t ∧ s.sameBytes t ∧ s.sameCsrs t ∧ (∀ j, j ≠ c.k → t.floe? j = s.floe? j) ∧ (∀ q, q ≠ c.islot → t.lfsrOf q = s.lfsrOf q) ∧
  (∀ u, Thread.same (s.thread u) (t.thread u)) ∧
  (∀ u p, p < 8 → (Opd.pred (BitVec.ofNat 8 p) ∉ i.dsts ∨ ∀ l ∈ c.f.lanes.map (·.1), c.t l ≠ u) → t.predOf u p = s.predOf u p) ∧
  (∀ u, ((flags = false ∨ ∀ l ∈ c.act, c.t l ≠ u) → (t.thread u).status = (s.thread u).status) ∧
    ∃ fl : Fl, (t.thread u).status = (s.thread u).status ||| fl.zeroExtend 32) ∧
  (∀ a, (∀ l ∈ c.act, ∀ d n b, Opd.reg d n b ∈ i.dsts → ¬ c.spot s d.toNat n l a) → lookD 0 t.regs a = lookD 0 s.regs a) ∧
  ∀ x, s.floe? c.k = some x → ∃ y, t.floe? c.k = some y ∧ y.lanes = x.lanes ∧ y.log = x.log ∧ y.blkr = x.blkr ∧
    ∀ r : BitVec 8, Opd.ureg r ∉ i.dsts → lookD 0 y.uregs r.toNat = lookD 0 x.uregs r.toNat

end Machine

end Sys2Proof
end

