-- ==== Sys2Proof/Certificates/Slice0/Obligations.lean ====
section
/-! DEFINITION. Obligations: what is stated of the machine for the provers, in the order of OBLIGATIONS.json, with the tables and terms
that the statements share. -/

namespace Sys2Proof.Said

open Sys2Proof Sys2Proof.Machine

/-! ## Terms -/

/-- An instruction whose result is one word sequence in DST, or one uniform register in a K form: it completes so in every state in which
it issues, and its result stands where it belongs. -/
def intGives (i : Instr) (o : IntOps) (val : Ctx → Nat → List Word) : Prop :=
  ∀ s f c, issuing i s = some (f, c) →
    exec i s = .next ((c.intOut c.s o (val c)).completed c.k f) ∧
    (s.calm = true → c.gives ((c.intOut c.s o (val c)).completed c.k f) o (val c))

/-- An instruction whose result is a predicate. -/
def predGives (i : Instr) (o : IntOps) (p : BitVec 8) (val : Ctx → Nat → Bool) : Prop :=
  ∀ s f c, issuing i s = some (f, c) →
    exec i s = .next ((c.predOut c.s o p (val c)).completed c.k f) ∧
    (s.calm = true → c.givesPred ((c.predOut c.s o p (val c)).completed c.k f) o p (val c))

/-- An instruction whose result is one word with sticky flags per active lane; `sr` says whether its generator moves (R34). -/
def fpGives (i : Instr) (la : BitVec 4) (d : BitVec 8) (rnd : Rnd) (val : Word → Ctx → Nat → Nat × Fl) : Prop :=
  ∀ s f c, issuing i s = some (f, c) →
    let sr := c.srStep rnd
    let t := (c.fpOut sr.2 la.toNat d (val sr.1 c)).completed c.k f
    exec i s = .next t ∧ (s.calm = true → c.givesFp t la d (fun l => BitVec.ofNat 32 (val sr.1 c l).1) fun l => (val sr.1 c l).2)

/-- Words of 96 bits with the instruction that the encoding tables give them. -/
def words : List (BitVec 96 × Instr) :=
  [-- R71: `nop` is a slot of zeros.
   (0x0#96, .nop),
   -- R69, R74: `movi v2, 0x12345678` under the default guard; OPC 0x02, form I, DST 2.
   (0x024070200000012345678000#96, .movi ⟨⟨false, 7, 0⟩, .i, 2, 0, 0, 0, 0x12345678, 0, .eq, false, .s32⟩),
   -- R74: `@!p2 iadd.z64.sat v4:v5, v6:v7, v8:v9`; OPC 0x05, GNEG 1, GPRED 2, SAT bit 4, TYPE 3.
   (0x0500A0406080000000000013#96, .iadd ⟨⟨true, 2, 0⟩, .r, 4, 6, 8, 0, 0, 0, .eq, true, .z64⟩),
   -- R101, R102: `ffma.bf16x2.rup`; OPC 0x23, RND 4, TYPE 4.
   (0x230070102030000000000840#96, .ffma ⟨⟨false, 7, 0⟩, false, 1, 2, 3, 0, 0, .rup, false, .bf16x2, 0⟩),
   -- R52, R177: `ld.s64` from v4:v5 into v6:v7 with L = 3; TYPE 2 in OPMOD.
   (0x700370604000000000000002#96, .ld ⟨⟨false, 7, 3⟩, 6, 4, 0, 0, 0, false, 0, .glob, .blk, .rlx, 2⟩),
   -- R53, R60: `brv p4` with two successors, segment 0x50 and segment 6.
   (0x620070004000050000006000#96, .brv 4 0x0000500 0x0000600),
   -- R60: `exit`.
   (0x660070000000000000000000#96, .exit),
   -- R156: `bar.arw b0`.
   (0x680070000000000000000000#96, .barArw ⟨⟨false, 7, 0⟩, 0, 0, .blk, 0⟩),
   -- R315: `@p3 csrw 0x301, v6`.
   (0xB90030006000000000301000#96, .csrw ⟨false, 3, 0⟩ 6 0x301),
   -- R354: `dquery v7, v2, 0` guarded by nothing.
   (0xB50070702000000000000000#96, .dquery ⟨⟨false, 7, 0⟩, 7, 2, 0, 0⟩ 0)]

/-- Every byte memory of the machine stands in its canonical form. -/
def memoriesCanonical (s : State) : Prop :=
  Memory.wf s.mem = true ∧ Memory.wf s.unit = true ∧ Memory.wf s.clus = true ∧ Memory.wf s.dmem = true

/-- The instructions whose effect is on registers, predicates and flags alone; whether they set sticky flags. -/
def onRegisters : Instr → Option Bool
  | .nop | .mov _ | .movi _ | .movs _ | .movkToLane _ | .movkToUniform _ | .iadd _ | .iaddc _ | .isub _ | .imul _ | .imulh _ | .imad _ | .imadw _
  | .idiv _ | .irem _ | .imin _ | .imax _ | .iabs _ | .ineg _ | .and _ | .or _ | .xor _ | .not _ | .shl _ | .shr _ | .sar _ | .rol _ | .bfe _
  | .bfi _ | .popc _ | .clz _ | .ctz _ | .brev _ | .prm _ | .icmp _ | .sel _ | .plop _ | .padd _ | .psub _ | .pcmp _ | .pbnd _ | .idp4 _ | .idp8 _
  | .aconj _ | .qswp _ | .vote _ | .shfl _ | .redi _ | .scan _ | .matchAny _ | .elect _ | .featq _ _ _ | .featqBit _ _ _ | .dptr _ | .dquery _ _
  | .accr _ => some false
  | .fadd _ | .fsub _ | .fmul _ | .ffma _ | .fmin _ | .fmax _ | .fabs _ | .fneg _ | .fcmp _ | .fdiv _ | .fsqrt _ | .frcp _ | .frsq _ | .fex2 _
  | .flg2 _ | .fsin _ | .fcos _ | .frnd _ | .fclass _ | .cvt _ | .fdp2 _ | .amul _ | .amac _ | .anorm _ | .aadd _ | .ascl _ | .qdx _ | .qdy _
  | .redf _ => some true
  | _ => none

/-- A word of `w` bits. -/
abbrev Bits (w : Nat) (n : Nat) : BitVec w := BitVec.ofNat w n

end Sys2Proof.Said

open Sys2Proof Sys2Proof.Machine Sys2Proof.Said

/-! ## Encoding and the step -/

/-- Sample words of the encoding tables (R47 to R54, R69, R74, R101) decode to the instructions they stand for. -/
def Obligations.DecodeSpecWords : Prop := ∀ e ∈ Said.words, decode e.1 = .ok e.2

/-- No bit of an encoding is dropped: every well-formed instruction decodes from its own encoding (R47 to R54, R69). -/
def Obligations.EncodeThenDecode : Prop := ∀ (i : Instr) (w : BitVec 96), i.wf = true → encode i = some w → decode w = .ok i

/-- Every word that decodes is the encoding of what it decodes to: a reserved bit, a reserved code or an unused field is never accepted
(R14, R50, R70). -/
def Obligations.DecodeThenEncode : Prop := ∀ (w : BitVec 96) (i : Instr), decode w = .ok i → encode i = some w ∧ i.wf = true

/-- A turn of an issue slot runs the decoded slot of the floe that it picks, on the state in which time has passed, the turn is taken from the
agenda and the floe is current; then, where that slot is the first of a pair, the second; and the homes that were asked answer (R46, R61,
R253; the agenda is the model's own, log 2). The floe picked is one of the issue slot's that may issue. -/
def Obligations.StepRunsDecodedSlot : Prop :=
  (∀ (s : State) (q : SlotId) (rest : List Turn) (i : Instr) (k : Nat), s.agenda = .issue q :: rest →
    let u := State.pace { s.tick with agenda := rest } (.issue q)
    let v : State := { u with cur := floeIdOf k }
    u.pick (SlotId.key q) = some k → v.fetch k = some (.ok i) →
      (∀ t, exec i v = .next t → t.pairGoes k = false → step s = .next t.homeAnswers) ∧
      (∀ t j, exec i v = .next t → t.pairGoes k = true → State.fetch { t with cur := floeIdOf k } k = some (.ok j) →
        (∀ w, exec j { t with cur := floeIdOf k } = .next w → step s = .next w.homeAnswers) ∧
        ((∀ w, exec j { t with cur := floeIdOf k } ≠ .next w) → step s = exec j { t with cur := floeIdOf k })) ∧
      ((∀ t, exec i v ≠ .next t) → step s = exec i v)) ∧
  (∀ (s : State) (q k : Nat), s.pick q = some k → ∃ f, (k, f) ∈ s.floes ∧ 32 * q ≤ k ∧ k < 32 * q + 32 ∧ s.ready k f = true) ∧
  ∀ (t : State), (∀ e ∈ t.net, e.2.ask = true → e.2.performed = true) → t.homeAnswers = t

/-- A turn of an issue slot whose picked floe's slot is no instruction takes the precise illegal-instruction trap, code 0x0001, in every lane, and
nothing else, where nothing comes before the floe's issue (R70; that such a word reaches issue at all is possible only past validation). -/
def Obligations.IllegalBitsTrap : Prop := ∀ (s : State) (q : SlotId) (rest : List Turn) (r : Reject) (k : Nat) (f : Floe),
  s.agenda = .issue q :: rest →
    let u := State.pace { s.tick with agenda := rest } (.issue q)
    let v : State := { u with cur := floeIdOf k }
    let t := (v.takeTrap k 0x0001 (f.lanes.map (·.1)) 0).settleDue 64
    u.pick (SlotId.key q) = some k → v.fetch k = some (.error r) → v.floe? k = some f → v.opens k f = true → t.pairGoes k = false →
      step s = .next t.homeAnswers

/-! ## Reset, memory, and what no instruction can change -/

/-- After power-on reset no die is live, fenced or lost and the package is not ready, no grid, block, floe or thread exists, every core register
(R13) and every context register reads 0, the power cap is 4,800 W and WAKETOL 0 (R421), every generator reads 1 (R32), and every memory
stands in canonical form with every byte reading zero. That device memory reads zero is the model's choice (log 6), and so are the values of what the
spec gives no reset value: the context registers, the scratchpads' bytes and the generators (log 1). -/
def Obligations.PowerOnReset : Prop :=
  State.reset.pkg.ready = false ∧ State.reset.pkg.live = 0 ∧ State.reset.pkg.fenced = 0 ∧ State.reset.pkg.shlost = 0 ∧
  State.reset.grids = [] ∧ State.reset.blocks = [] ∧ State.reset.floes = [] ∧ State.reset.threads = [] ∧
  (∀ core n, State.reset.csr core n = 0) ∧ (∀ ctx off, State.reset.ctxReg ctx off = 0) ∧ (∀ q, State.reset.lfsrOf q = 1) ∧
  State.reset.pkg.pcap = 4800 ∧ State.reset.pkg.waketol = 0 ∧ Said.memoriesCanonical State.reset ∧
  ∀ a, getB State.reset.mem a = 0 ∧ getB State.reset.unit a = 0 ∧ getB State.reset.clus a = 0 ∧ getB State.reset.dmem a = 0

/-- Every step keeps device memory and the three scratchpad levels in their canonical form, whatever agent makes the move. -/
def Obligations.StepKeepsMemoryCanonical : Prop := ∀ s t : State, Said.memoriesCanonical s → step s = .next t → Said.memoriesCanonical t

/-- A byte memory reads what was written last: inside the bytes written, those bytes; outside, what it read before; as a little-endian number,
the number written, cut to its bytes (R12). -/
def Obligations.MemoryReadsWhatWasWritten : Prop := ∀ (m : List Host.Cell) (a : Nat),
  (∀ (bs : List Byte) (i : Nat), getB (setBs m a bs) i = if a ≤ i ∧ i < a + bs.length then bs.getD (i - a) 0 else getB m i) ∧
  ∀ n v : Nat, getN (setN m a n v) a n = v % 2 ^ (8 * n)

/-- R32: the stochastic-rounding generator: its step, which never gives zero from a nonzero state; its seed, where zero is replaced by 1 and no other
generator changes; and from a state in which no generator is zero, no step of the machine leaves one at zero. -/
def Obligations.GeneratorStep : Prop :=
  (∀ x : Word, lfsrStep x = if x.getLsbD 0 then (x >>> 1) ^^^ 0x80200003#32 else x >>> 1) ∧
  (∀ x : Word, x ≠ 0 → lfsrStep x ≠ 0) ∧
  ∀ (s : State) (q : Nat) (seed : Word), (s.setLfsr q seed).lfsrOf q = (if seed = 0 then 1#32 else seed) ∧
    (∀ p, p ≠ q → (s.setLfsr q seed).lfsrOf p = s.lfsrOf p) ∧
    ∀ t, (∀ p, s.lfsrOf p ≠ 0) → step s = .next t → ∀ p, t.lfsrOf p ≠ 0

/-- R57: p7 reads true before and after any write, and a write to it changes nothing. -/
def Obligations.PredicateSeven : Prop := ∀ (s : State) (t u : Nat) (b : Bool),
  s.setPred t 7 b = s ∧ s.predOf u 7 = true ∧ ∀ q : Nat, q < 7 → (s.setPred t q b).predOf t q = b ∧ (s.setPred t q b).predOf u 7 = true

/-! ## Frames -/

/-- What going on from a slot to the next leaves as it was, whatever the instruction, while no fault is due, nothing stops and no issue is recorded:
registers, generators, core registers but the trial counters, blocks, grids, memory; of other floes everything; of threads all but
reservations; of the floe itself, its position is the next occupied slot (R46), each earlier window is one instruction shorter (R63), and its
uniform registers, log, ports and lanes are kept. -/
def Obligations.GoingOnFrame : Prop := ∀ (u : State) (k : Nat) (f y : Floe), u.still = true → u.floe? k = some y →
    let t := u.completed k f
    u.sameRest t ∧ u.sameBytes t ∧ u.sameCsrs t ∧ t.regs = u.regs ∧ t.lfsr = u.lfsr ∧ (∀ j, j ≠ k → t.floe? j = u.floe? j) ∧
    (∀ n, t.thread n = u.thread n ∨ t.thread n = { u.thread n with resv := none }) ∧
    ∃ z, t.floe? k = some z ∧ (z.line, z.slot) = u.nextPos k y ∧ z.uregs = y.uregs ∧ z.log = y.log ∧ z.ports = y.ports ∧ z.lanes = y.lanes ∧
      z.pend = y.pend.map fun p => if p.n < f.npend ∧ 0 < p.left then { p with left := p.left - 1 } else p

/-- The integer, pointer, predicate, move, float, conversion, algebra, lane and query instructions change nothing but their destinations, the
sticky flags of the float and algebra ones, the generator of their issue slot, and what going on changes; none of them touches a byte of memory. -/
def Obligations.RegisterFrame : Prop := ∀ (i : Instr) (flags : Bool), Said.onRegisters i = some flags → i.wf = true →
  ∀ s f c t, issuing i s = some (f, c) → s.calm = true → portDsts i = [] → exec i s = .next t →
    (∃ code lanes addr, t = s.trapped c.k code lanes addr) ∨ c.frame i flags s t

/-! ## Integer, logic, move, predicate and pointer instructions -/

/-- R77: `rd`, `fit` and `wr`. An operand is the immediate, a uniform register (R78), a pair, or a register, read under its type; a value is
fitted to its type; a result is one word, or two with bits 31:0 first. -/
def Obligations.OperandsReadAndFitted : Prop :=
  (∀ (c : Ctx) (o : IntOps) (l : Nat) (ty : IntTy),
    (∀ pos r, (pos = 1 ∧ o.form.isImm = true) ∨ o.form.isK = true ∨ ty.width = 64 ∨ r.toNat < 248 →
      c.intRaw o pos r ty l =
        (if pos = 1 ∧ o.form.isImm = true then
          (if ty.width = 64 ∧ ty.signed = true then (BitVec.signExtend 64 o.imm).toNat else o.imm.toNat)
        else if o.form.isK = true then (c.ureg r).toNat
        else if ty.width = 64 then ((c.s.vreg (c.t l) (r.toNat + 1)) ++ (c.s.vreg (c.t l) r.toNat)).toNat
        else (c.s.vreg (c.t l) r.toNat).toNat))) ∧
  (∀ (ty : IntTy) (w : Nat), rdVal ty w = if ty.signed = true then (BitVec.ofNat ty.width w).toInt else ((BitVec.ofNat ty.width w).toNat : Int)) ∧
  (∀ (v : Int) (ty : IntTy), fit v ty true = min (max v (intLo ty.width ty.signed)) (intHi ty.width ty.signed) ∧
    fit v ty false = if ty.signed = true then (BitVec.ofInt ty.width v).toInt else ((BitVec.ofInt ty.width v).toNat : Int)) ∧
  ∀ (ty : IntTy) (x : Int), wrWords ty x = if ty.width = 64 then
    [(BitVec.ofInt 64 x).extractLsb' 0 32, (BitVec.ofInt 64 x).extractLsb' 32 32] else [BitVec.ofInt 32 x]

/-- `mov` copies its register or pair unchanged, `movi` writes rd(immediate, T), in K forms to a uniform register (R91); `movk` moves a word
between a uniform register and lane registers (R94); `movs` reads a special register (R92), whose values are those of R92's table over the numbering of R4: the
thread's number, its lane and quad, the floe slot, issue slot, core, cluster, die and die type, the block's index and the grid's extent in blocks, the
block's number in its drift, the thread's place in the grid, and as a pair the die's clock, which a replay records (R378); `nop` does nothing (R71). -/
def Obligations.MovesAndNop : Prop :=
  (∀ o : IntOps, Said.intGives (.mov o) o fun c l => wrWords o.ty (wrap (rdVal o.ty (c.intRaw o 0 o.a o.ty l)) o.ty.width : Nat)) ∧
  (∀ o : IntOps, Said.intGives (.movi o) o fun c l => wrWords o.ty (rdVal o.ty (c.intRaw o 1 o.b o.ty l))) ∧
  (∀ o : IntOps, Said.intGives (.movkToLane o) o fun c _ => [lookD 0 c.f.uregs o.a.toNat]) ∧
  (∀ o s f c, issuing (.movkToUniform o) s = some (f, c) → ∃ t, exec (.movkToUniform o) s = .next t ∧
    t = (if c.act = [] then c.s else c.s.setUreg c.k o.d.toNat (c.rd1 0 o.a (c.act.headD 0))).completed c.k f ∧
    (s.calm = true → c.act ≠ [] → c.inUreg t o.d (c.rd1 0 o.a (c.act.headD 0)))) ∧
  (∀ o : IntOps, o.form.isK = false → Said.intGives (.movs o) o fun c l => c.special o.a.toNat l) ∧
  (∀ o s f c, issuing (.movs o) s = some (f, c) → o.form.isK = true → ∃ t, exec (.movs o) s = .next t ∧
    (s.calm = true → ∀ i w, (c.special o.a.toNat c.lowPresent)[i]? = some w →
      ∃ x, t.floe? c.k = some x ∧ lookD 0 x.uregs (o.d.toNat + i) = w)) ∧
  (∀ (c : Ctx) (l : Nat), let b := c.s.block c.bk
    ∀ p ∈ [(0x00, (c.s.thread (c.t l)).tid), (0x01, l), (0x02, l / 4), (0x03, c.k % 32), (0x04, c.k / 32 % 4), (0x05, c.k / 128 % 128),
        (0x06, c.k / 128 % 128 / 4), (0x07, c.k / 16384), (0x08, if c.k / 16384 < 4 then 0 else 1), (0x09, b.index % c.g.nbx),
        (0x0A, b.index / c.g.nbx % c.g.nby), (0x0B, b.index / c.g.nbx / c.g.nby), (0x0C, c.g.nbx), (0x0D, c.g.nby), (0x0E, c.g.nbz), (0x0F, b.drf)],
      c.special p.1 l = [BitVec.ofNat 32 p.2]) ∧
  (∀ (c : Ctx) (l x y z : Nat), x < c.g.bx → y < c.g.by' → (c.s.thread (c.t l)).tid = x + c.g.bx * (y + c.g.by' * z) →
    c.special 0x10 l = [BitVec.ofNat 32 ((c.s.block c.bk).x c.g * c.g.bx + x)] ∧
    c.special 0x11 l = [BitVec.ofNat 32 ((c.s.block c.bk).y c.g * c.g.by' + y)] ∧
    c.special 0x12 l = [BitVec.ofNat 32 ((c.s.block c.bk).z c.g * c.g.bz + z)]) ∧
  (∀ (c : Ctx) (l : Nat), c.s.replMode c.g.ctx ≠ 2 →
    c.special 0x13 l = [BitVec.ofNat 32 (c.s.clock (c.k / 16384)), BitVec.ofNat 32 (c.s.clock (c.k / 16384) / 2 ^ 32)]) ∧
  ∀ s f c, issuing .nop s = some (f, c) → exec .nop s = .next (c.s.completed c.k f)

/-- R81: one exact function of the operands, fitted once. -/
def Obligations.ArithmeticResults : Prop :=
  (∀ o : IntOps, Said.intGives (.iadd o) o fun c l => wrWords o.ty (fit (c.intA o l + c.intB o l) o.ty o.sat)) ∧
  (∀ o : IntOps, Said.intGives (.isub o) o fun c l => wrWords o.ty (fit (c.intA o l - c.intB o l) o.ty o.sat)) ∧
  (∀ o : IntOps, Said.intGives (.imul o) o fun c l => wrWords o.ty (fit (c.intA o l * c.intB o l) o.ty o.sat)) ∧
  (∀ o : IntOps, Said.intGives (.imad o) o fun c l => wrWords o.ty (fit (c.intA o l * c.intB o l + c.intC o l) o.ty o.sat)) ∧
  (∀ o : IntOps, Said.intGives (.imin o) o fun c l => wrWords o.ty (fit (min (c.intA o l) (c.intB o l)) o.ty o.sat)) ∧
  (∀ o : IntOps, Said.intGives (.imax o) o fun c l => wrWords o.ty (fit (max (c.intA o l) (c.intB o l)) o.ty o.sat)) ∧
  (∀ o : IntOps, Said.intGives (.iabs o) o fun c l => wrWords o.ty (fit |c.intA o l| o.ty o.sat)) ∧
  (∀ o : IntOps, Said.intGives (.ineg o) o fun c l => wrWords o.ty (fit (-c.intA o l) o.ty o.sat))

/-- `imulh` writes the high half of the exact product (R82), `imadw` adds a pair to a product of words (R83), and `iaddc` the carry in, with the carry out in
its place, and nothing in its place when it is p7 (R84). -/
def Obligations.WideProductsAndCarry : Prop :=
  (∀ o : IntOps,
     Said.intGives (.imulh o) o fun c l => wrWords o.ty (fit (Int.fdiv (c.intA o l * c.intB o l) (2 ^ o.ty.width)) o.ty false)) ∧
  (∀ o : IntOps, o.ty.width = 32 →
     Said.intGives (.imadw o) o fun c l =>
       let w : IntTy := if o.ty.signed = true then .s64 else .z64
       wrWords w (fit (c.intA o l * c.intB o l + rdVal w (c.rdPair o.c l)) w o.sat)) ∧
  (∀ o : IntOps, o.ty = .z32 → ∀ s f c, issuing (.iaddc o) s = some (f, c) →
     let sum (l : Nat) : Nat := (rdVal .z32 (c.intRaw o 0 o.a .z32 l)).toNat + (rdVal .z32 (c.intRaw o 1 o.b .z32 l)).toNat +
       if c.s.predOf (c.t (if o.form.isK then c.lowPresent else l)) o.c.toNat then 1 else 0
     ∃ t, exec (.iaddc o) s = .next t ∧
       t = (c.predOut (c.intOut c.s o fun l => [BitVec.ofNat 32 (sum l)]) o o.c fun l => decide (2 ^ 32 ≤ sum l)).completed c.k f ∧
       (s.calm = true → (o.form.isK = false → o.d.toNat < 248) →
         c.gives t o (fun l => [BitVec.ofNat 32 (sum l)]) ∧ c.givesPred t o o.c (fun l => decide (2 ^ 32 ≤ sum l)) ∧
         (o.c = 7 → ∀ u p, p < 8 → t.predOf u p = s.predOf u p)))

/-- R85: the quotient and the remainder, for every divisor. -/
def Said.quotRem (ty : IntTy) (sat : Bool) (a b : Int) : Int × Int :=
  if b = 0 then (if ty.signed = true then -1 else 2 ^ ty.width - 1, a)
  else if ty.signed = true ∧ a = intLo ty.width true ∧ b = -1 then (if sat then intHi ty.width true else intLo ty.width true, 0)
  else (Int.tdiv a b, a - Int.tdiv a b * b)

/-- R85: `idiv` gives the quotient and `irem` the remainder. -/
def Obligations.DivisionResults : Prop :=
  (∀ o : IntOps, Said.intGives (.idiv o) o fun c l => wrWords o.ty (Said.quotRem o.ty o.sat (c.intA o l) (c.intB o l)).1) ∧
  (∀ o : IntOps, Said.intGives (.irem o) o fun c l => wrWords o.ty (Said.quotRem o.ty o.sat (c.intA o l) (c.intB o l)).2)

/-- Bit by bit on words of n(T) bits (R86); the shifts by the whole register or immediate (R87). -/
def Obligations.BitwiseAndShiftResults : Prop :=
  ((∀ o : IntOps, Said.intGives (.and o) o fun c l => wrWords o.ty (Said.Bits o.ty.width (c.wordA o l) &&& Said.Bits o.ty.width (c.wordB o l)).toNat) ∧
     (∀ o : IntOps, Said.intGives (.or o) o fun c l => wrWords o.ty (Said.Bits o.ty.width (c.wordA o l) ||| Said.Bits o.ty.width (c.wordB o l)).toNat) ∧
     (∀ o : IntOps, Said.intGives (.xor o) o fun c l => wrWords o.ty (Said.Bits o.ty.width (c.wordA o l) ^^^ Said.Bits o.ty.width (c.wordB o l)).toNat) ∧
     (∀ o : IntOps, Said.intGives (.not o) o fun c l => wrWords o.ty (~~~ Said.Bits o.ty.width (c.wordA o l)).toNat)) ∧
  ((∀ o : IntOps, Said.intGives (.shl o) o fun c l => wrWords o.ty (Said.Bits o.ty.width (c.wordA o l) <<< c.z32B o l).toNat) ∧
     (∀ o : IntOps, Said.intGives (.shr o) o fun c l => wrWords o.ty (Said.Bits o.ty.width (c.wordA o l) >>> c.z32B o l).toNat) ∧
     (∀ o : IntOps, Said.intGives (.sar o) o fun c l => wrWords o.ty ((Said.Bits o.ty.width (c.wordA o l)).sshiftRight (c.z32B o l)).toNat) ∧
     (∀ o : IntOps, Said.intGives (.rol o) o fun c l => wrWords o.ty ((Said.Bits o.ty.width (c.wordA o l)).rotateLeft (c.z32B o l)).toNat) ∧
     ∀ (c : Ctx) (o : IntOps) (l : Nat), c.z32B o l = c.intRaw o 1 o.b .z32 l)

/-- Each count by what it counts, and the reversed word bit by bit (R89); `bfe` and `bfi` take and put the clamped field (R88); `prm` chooses bytes by selector
nibbles (R90). -/
def Obligations.CountAndFieldResults : Prop :=
  ((∀ o : IntOps, Said.intGives (.popc o) o fun c l => [BitVec.ofNat 32 ((List.range o.ty.width).countP fun i => (c.wordA o l).testBit i)]) ∧
     (∀ o : IntOps, ∃ n : Ctx → Nat → Nat, Said.intGives (.clz o) o (fun c l => [BitVec.ofNat 32 (n c l)]) ∧
       ∀ c l, n c l ≤ o.ty.width ∧ c.wordA o l < 2 ^ (o.ty.width - n c l) ∧ (n c l < o.ty.width → 2 ^ (o.ty.width - 1 - n c l) ≤ c.wordA o l)) ∧
     (∀ o : IntOps, ∃ n : Ctx → Nat → Nat, Said.intGives (.ctz o) o (fun c l => [BitVec.ofNat 32 (n c l)]) ∧
       ∀ c l, n c l ≤ o.ty.width ∧ (∀ i, i < n c l → (c.wordA o l).testBit i = false) ∧ (n c l < o.ty.width → (c.wordA o l).testBit (n c l) = true)) ∧
     (∀ o : IntOps, ∃ r : Ctx → Nat → Nat, Said.intGives (.brev o) o (fun c l => wrWords o.ty (r c l : Nat)) ∧
       ∀ c l i, (r c l).testBit i = (decide (i < o.ty.width) && (c.wordA o l).testBit (o.ty.width - 1 - i)))) ∧
  ((∀ o : IntOps, Said.intGives (.bfe o) o fun c l =>
       let pos := min (c.z32B o l % 256) o.ty.width
       let len := min (c.z32B o l / 256 % 256) (o.ty.width - pos)
       wrWords o.ty (if len = 0 then 0 else if o.ty.signed = true then ((Said.Bits o.ty.width (c.wordA o l)).extractLsb' pos len).toInt
         else ((Said.Bits o.ty.width (c.wordA o l)).extractLsb' pos len).toNat)) ∧
     (∀ o : IntOps, ∃ r : Ctx → Nat → Nat, Said.intGives (.bfi o) o (fun c l => wrWords o.ty (r c l : Nat)) ∧
       ∀ c l i, i < o.ty.width →
         let pos := min (c.z32B o l % 256) o.ty.width
         let len := min (c.z32B o l / 256 % 256) (o.ty.width - pos)
         (r c l).testBit i = if pos ≤ i ∧ i < pos + len then (c.wordA o l).testBit (i - pos) else (c.wordC o l).testBit i) ∧
     (∀ o : IntOps, o.ty.width = 32 → ∃ r : Ctx → Nat → Word, Said.intGives (.prm o) o (fun c l => [r c l]) ∧
       ∀ c l i, i < 4 →
         let n := (BitVec.ofNat 32 (c.z32B o l)).extractLsb' (4 * i) 4
         let b := (BitVec.ofNat 64 (c.wordA o l + 2 ^ 32 * c.wordC o l)).extractLsb' (8 * (n.toNat % 8)) 8
         (r c l).extractLsb' (8 * i) 8 = if n.getLsbD 3 = false then b else if b.getLsbD 7 = true then 0xFF#8 else 0#8))

/-- `icmp` compares under T (R95), `sel` chooses by a predicate (R96), `plop` reads a bit of its table (R97); `padd` moves the address and keeps tag and index,
`psub` and `pcmp` see only addresses (R98, R99); `pbnd` tests validity, range and the permissions it names (R100). -/
def Obligations.CompareAndPointerResults : Prop :=
  ((∀ o : IntOps, Said.predGives (.icmp o) o o.d fun c l => match o.cond with
       | .eq => decide (c.intA o l = c.intB o l)
       | .ne => decide (c.intA o l ≠ c.intB o l)
       | .lt => decide (c.intA o l < c.intB o l)
       | .le => decide (c.intA o l ≤ c.intB o l)
       | .gt => decide (c.intA o l > c.intB o l)
       | .ge => decide (c.intA o l ≥ c.intB o l)) ∧
     (∀ o : IntOps, Said.intGives (.sel o) o fun c l =>
       wrWords o.ty (if c.s.predOf (c.t (if o.form.isK then c.lowPresent else l)) o.c.toNat = true then c.wordA o l else c.wordB o l : Nat)) ∧
     ∀ o : IntOps, Said.predGives (.plop o) o o.d fun c l =>
       let p (r : BitVec 8) : Nat := if c.s.predOf (c.t (if o.form.isK then c.lowPresent else l)) r.toNat = true then 1 else 0
       o.imm.getLsbD (4 * p o.a + 2 * p o.b + p o.c)) ∧
  ((∀ o : IntOps, o.form.isK = false → Said.intGives (.padd o) o fun c l =>
       let p : BitVec 64 := BitVec.ofNat 64 (c.rdPair o.a l)
       let q : BitVec 64 := p.extractLsb' 48 16 ++ BitVec.ofInt 48 ((p.extractLsb' 0 48).toNat + c.intB o l)
       [q.extractLsb' 0 32, q.extractLsb' 32 32]) ∧
     (∀ o : IntOps, o.form.isK = false → Said.intGives (.psub o) o fun c l =>
       wrWords .s64 (((BitVec.ofNat 48 (c.rdPair o.a l)).toNat : Int) - (BitVec.ofNat 48 (c.rdPair o.b l)).toNat)) ∧
     (∀ o : IntOps, o.form.isK = false → Said.predGives (.pcmp o) o o.d fun c l =>
       let a := (BitVec.ofNat 48 (c.rdPair o.a l)).toNat
       let b := (BitVec.ofNat 48 (c.rdPair o.b l)).toNat
       match o.cond with
       | .eq => decide (a = b) | .ne => decide (a ≠ b) | .lt => decide (a < b) | .le => decide (a ≤ b) | .gt => decide (a > b) | .ge => decide (a ≥ b)) ∧
     ∀ o : IntOps, o.form.isK = false → Said.predGives (.pbnd o) o o.d fun c l =>
       let p := c.rdPair o.a l
       let e := c.s.bent c.g.ctx (p / 2 ^ 48 % 4096)
       let va := p % 2 ^ 48
       bentOk e && decide (bentBase e ≤ va ∧ va + c.z32B o l ≤ bentLimit e) && (!o.opx.getLsbD 0 || bentR e) && (!o.opx.getLsbD 1 || bentW e) &&
         (!o.opx.getLsbD 2 || bentA e) && (!o.opx.getLsbD 3 || bentB e))

/-! ## Floating point, conversion, dot products and algebra elements -/

/-- R105: one element, or the two elements of a packed type, each with its own draw (R34), their flags ORed. -/
def Said.each (o : FpOps) (g : Nat → Nat → Nat → Nat → Nat × Fl) (w : Word) (c : Ctx) (l : Nat) : Nat × Fl :=
  let a := c.fpRaw o 0 o.a l
  let b := c.fpRaw o 1 o.b l
  let x := c.fpRaw o 2 o.c l
  let draw (e : Nat) : Nat := (w.rotateLeft (5 * l + 8 * e)).toNat % 2 ^ 16
  let half (v e : Nat) : Nat := v / 2 ^ (16 * e) % 2 ^ 16
  match o.ty with
  | .f32 => g (draw 0) a b x
  | .f16 | .bf16 => g (draw 0) (half a 0) (half b 0) (half x 0)
  | .f16x2 | .bf16x2 =>
    let lo := g (draw 0) (half a 0) (half b 0) (half x 0)
    let hi := g (draw 1) (half a 1) (half b 1) (half x 1)
    (lo.1 + hi.1 * 2 ^ 16, lo.2 ||| hi.2)

/-- The value of the codes of a float type's elements (R102). -/
def Said.fmt : FpTy → Fmt
  | .f32 => .f32
  | .f16 | .f16x2 => .f16
  | .bf16 | .bf16x2 => .bf16

/-- R107: an exact sum of terms rounded once, the terms given by the operands' values; invalid terms and signalling NaNs set NV. -/
def Said.sum (o : FpOps) (ops : Nat → Nat → Nat → List FVal) (terms : Nat → Nat → Nat → List (FVal × Bool)) (d a b x : Nat) : Nat × Fl :=
  let vs := ops a b x
  let ts := terms a b x
  if vs.any FVal.isNan = true then ((Said.fmt o.ty).nan, if vs.any FVal.isSnan || ts.any (·.2) then flNV else 0)
  else
    let v := sumVal o.rnd (ts.map (·.1))
    let r := Machine.deliver (Said.fmt o.ty) o.rnd o.ovf d v
    (r.1, r.2 ||| if v.isNan then flNV else 0)

/-- `fadd`, `fsub`, `fmul` and `ffma` round one exact sum or product once (R107, R108). -/
def Obligations.FloatSums : Prop :=
  (∀ o : FpOps, Said.fpGives (.fadd o) o.h.la o.d o.rnd (Said.each o (Said.sum o
    (fun a b _ => [(Said.fmt o.ty).val a, (Said.fmt o.ty).val b]) (fun a b _ => [((Said.fmt o.ty).val a, false), ((Said.fmt o.ty).val b, false)])))) ∧
  (∀ o : FpOps, Said.fpGives (.fsub o) o.h.la o.d o.rnd (Said.each o (Said.sum o
    (fun a b _ => [(Said.fmt o.ty).val a, (Said.fmt o.ty).val b]) (fun a b _ => [((Said.fmt o.ty).val a, false), (((Said.fmt o.ty).val b).negate, false)])))) ∧
  (∀ o : FpOps, Said.fpGives (.fmul o) o.h.la o.d o.rnd (Said.each o (Said.sum o
    (fun a b _ => [(Said.fmt o.ty).val a, (Said.fmt o.ty).val b]) (fun a b _ => [((Said.fmt o.ty).val a).mul ((Said.fmt o.ty).val b)])))) ∧
  (∀ o : FpOps, Said.fpGives (.ffma o) o.h.la o.d o.rnd (Said.each o (Said.sum o
    (fun a b x => [(Said.fmt o.ty).val a, (Said.fmt o.ty).val b, (Said.fmt o.ty).val x])
    (fun a b x => [((Said.fmt o.ty).val a).mul ((Said.fmt o.ty).val b), ((Said.fmt o.ty).val x, false)]))))

/-- The other float instructions give the format's result element by element (R109 to R118), `fcmp` its condition and flags (R113), and `fabs` and `fneg` change
only sign bits and set no flag (R111). -/
def Obligations.FloatElementResults : Prop :=
  ((∀ o : FpOps, Said.fpGives (.fdiv o) o.h.la o.d o.rnd (Said.each o fun d a b _ => fDiv (Said.fmt o.ty) o.rnd o.ovf d a b)) ∧
     (∀ o : FpOps, Said.fpGives (.fsqrt o) o.h.la o.d o.rnd (Said.each o fun d a _ _ => fSqrt (Said.fmt o.ty) o.rnd o.ovf d a)) ∧
     (∀ o : FpOps, Said.fpGives (.frcp o) o.h.la o.d o.rnd (Said.each o fun d a _ _ => fRcp (Said.fmt o.ty) o.rnd o.ovf d a)) ∧
     (∀ o : FpOps, Said.fpGives (.frsq o) o.h.la o.d o.rnd (Said.each o fun d a _ _ => fRsq (Said.fmt o.ty) o.rnd o.ovf d a)) ∧
     (∀ o : FpOps, Said.fpGives (.fmin o) o.h.la o.d o.rnd (Said.each o fun _ a b _ => fMinMax (Said.fmt o.ty) false a b)) ∧
     (∀ o : FpOps, Said.fpGives (.fmax o) o.h.la o.d o.rnd (Said.each o fun _ a b _ => fMinMax (Said.fmt o.ty) true a b)) ∧
     (∀ o : FpOps, Said.fpGives (.frnd o) o.h.la o.d o.rnd (Said.each o fun _ a _ _ => fRnd (Said.fmt o.ty) o.rnd a)) ∧
     (∀ o : FpOps, Said.fpGives (.fclass o) o.h.la o.d o.rnd (Said.each o fun _ a _ _ => (fClass (Said.fmt o.ty) a, 0))) ∧
     (∀ o : FpOps, Said.fpGives (.fex2 o) o.h.la o.d o.rnd (Said.each o fun _ a _ _ => fnApply (Said.fmt o.ty) fnEx2 a)) ∧
     (∀ o : FpOps, Said.fpGives (.flg2 o) o.h.la o.d o.rnd (Said.each o fun _ a _ _ => fnApply (Said.fmt o.ty) fnLg2 a)) ∧
     (∀ o : FpOps, Said.fpGives (.fsin o) o.h.la o.d o.rnd (Said.each o fun _ a _ _ => fnApply (Said.fmt o.ty) (fnSinCos false) a)) ∧
     (∀ o : FpOps, Said.fpGives (.fcos o) o.h.la o.d o.rnd (Said.each o fun _ a _ _ => fnApply (Said.fmt o.ty) (fnSinCos true) a)) ∧
     ∀ (o : FpOps) (s : State) (f : Floe) (c : Ctx), issuing (.fcmp o) s = some (f, c) →
       let r (l : Nat) : Bool × Fl :=
         fCmp (Said.fmt o.ty) o.opx.toNat (fget o.ty (c.fpRaw o 0 o.a l) 0) (fget o.ty (c.fpRaw o 1 o.b l) 0)
       ∃ t, exec (.fcmp o) s = .next t ∧ (s.calm = true → o.d.toNat < 7 → c.inBanks 0 = true → ∀ l ∈ c.act,
         t.predOf (c.t l) o.d.toNat = (r l).1 ∧
         (t.thread (c.t l)).status = (c.s.thread (c.t l)).status ||| BitVec.zeroExtend 32 (r l).2)) ∧
  ((∀ o : FpOps, Said.fpGives (.fabs o) o.h.la o.d o.rnd (Said.each o fun _ a _ _ =>
       (if o.ty = .f32 then (BitVec.ofNat 32 a &&& 0x7FFFFFFF#32).toNat else (BitVec.ofNat 16 a &&& 0x7FFF#16).toNat, 0))) ∧
     (∀ o : FpOps, Said.fpGives (.fneg o) o.h.la o.d o.rnd (Said.each o fun _ a _ _ =>
       (if o.ty = .f32 then (BitVec.ofNat 32 a ^^^ 0x80000000#32).toNat else (BitVec.ofNat 16 a ^^^ 0x8000#16).toNat, 0))))

/-- Where NaNs, infinities, zeros and empty ranges go, in the three register formats, at every rounding mode and draw: division (R109), roots
(R109), minimum and maximum (R110), comparison (R113). -/
def Obligations.FloatSpecialCases : Prop := ∀ (ty : FpTy) (rnd : Rnd) (sat : Bool) (d a b : Nat),
  let f := Said.fmt ty
  let x := f.val a
  let y := f.val b
  let sg : Nat := if (x.neg? != y.neg?) = true then f.signBit else 0
  (x.isNan = true ∨ y.isNan = true → (fDiv f rnd sat d a b).1 = f.nan ∧
    (fDiv f rnd sat d a b).2 = (if x.isSnan || y.isSnan then flNV else 0) ∧
    (fCmp f 6 a b).1 = true ∧ (fCmp f 1 a b).1 = true ∧ ∀ n ∈ [0, 2, 3, 4, 5, 7], (fCmp f n a b).1 = false) ∧
  ((∃ p q, x = .zero p ∧ y = .zero q) ∨ (∃ p q, x = .inf p ∧ y = .inf q) → fDiv f rnd sat d a b = (f.nan, flNV)) ∧
  ((∃ p m e q, x = .fin p m e ∧ y = .zero q) → fDiv f rnd sat d a b = (sg + f.infCode, flDZ)) ∧
  ((∃ p q, x = .inf p ∧ y = .zero q) → fDiv f rnd sat d a b = (sg + f.infCode, 0)) ∧
  ((∃ m e, x = .fin true m e) → fSqrt f rnd sat d a = (f.nan, flNV) ∧ fRsq f rnd sat d a = (f.nan, flNV)) ∧
  ((∃ q, x = .zero q) → fSqrt f rnd sat d a = (a, 0)) ∧
  ((x.isNan = true ∧ y.isNan = false) → (fMinMax f false a b).1 = b ∧ (fMinMax f true a b).1 = b) ∧
  (x.isNan = false ∧ y.isNan = true → (fMinMax f false a b).1 = a ∧ (fMinMax f true a b).1 = a) ∧
  (x = .zero true → y = .zero false → (fMinMax f false a b).1 = a ∧ (fMinMax f true a b).1 = b ∧ (fCmp f 0 a b).1 = true)

/-- The rational number that a value stands for; 0 for a NaN or an infinity. -/
def Said.rat : FVal → ℚ
  | .fin s m e => (if s then -1 else 1) * (m * 2 ^ e)
  | _ => 0

/-- Rounding to a multiple of `2^q` (R26): a value on the grid is kept and is exact; otherwise the result is one of its two neighbours, the one that the mode asks
for, and under `.sr` the upper one exactly if the draw reaches it. The sums that are rounded are exact sums of exact products (R35 to R37). -/
def Obligations.RoundingAndExactSums : Prop :=
  (∀ (rnd : Rnd) (draw : Nat) (neg : Bool) (m : Nat) (e q : Int), draw < 2 ^ 16 →
     let v : ℚ := m * 2 ^ (e - q)
     let lo : ℕ := ⌊v⌋.toNat
     let r := roundStep rnd draw neg m e q false
     (r.2 = true ↔ (lo : ℚ) ≠ v) ∧ ((lo : ℚ) = v → r.1 = lo) ∧ ((lo : ℚ) ≠ v →
       (r.1 = lo ∨ r.1 = lo + 1) ∧
       (rnd = .rz → r.1 = lo) ∧ (rnd = .rup → r.1 = if neg = true then lo else lo + 1) ∧ (rnd = .rdn → r.1 = if neg = true then lo + 1 else lo) ∧
       (rnd = .rne ∨ rnd = .rna → |(r.1 : ℚ) - v| ≤ 1 / 2) ∧
       (v - lo = 1 / 2 → (rnd = .rne → r.1 % 2 = 0) ∧ (rnd = .rna → r.1 = lo + 1)) ∧
       (rnd = .sr → (r.1 = lo + 1 ↔ 2 ^ 16 ≤ ⌊(v - lo) * 2 ^ 16⌋ + (draw : Int))))) ∧
  ((∀ (rnd : Rnd) (ts : List FVal), (∀ t ∈ ts, t.isNan = false ∧ ∀ s, t ≠ .inf s) → Said.rat (sumVal rnd ts) = (ts.map Said.rat).sum) ∧
     (∀ x y : FVal, x.isNan = false → y.isNan = false → (∀ s, x ≠ .inf s) → (∀ s, y ≠ .inf s) →
       (x.mul y).2 = false ∧ Said.rat (x.mul y).1 = Said.rat x * Said.rat y) ∧
     ∀ x y : FVal, x.isNan = false → y.isNan = false → (∀ s, x ≠ .inf s) → (∀ s, y ≠ .inf s) →
       (x.lt y = true ↔ Said.rat x < Said.rat y))

/-- `cvt` reads the element that SEL names, converts it once, and places it at DEL, alone or merged into the old register (R119 to R122); `idp4` and `idp8` add the
exact products of packed integers to the third operand and fit the sum once (R123); `fdp2` adds two products and an FP32 operand exactly and rounds once (R124). Under
`.sr` the draws are R34's; that a `cvt` under `.sr` that rounds nothing also moves the generator is the model's choice (log 38). -/
def Obligations.ConversionsAndDotProducts : Prop :=
  (∀ (o : CvtOps) (s : State) (f : Floe) (c : Ctx), issuing (.cvt o) s = some (f, c) →
     let sw := CFmt.width o.sfmt
     let dw := CFmt.width o.dfmt
     let sr := c.srStep o.rnd
     let res (l : Nat) : Nat × Fl := convert (cfmtNum o.sfmt) (cfmtNum o.dfmt) o.rnd o.ovf ((sr.1.rotateLeft (5 * l + 8 * o.del.toNat)).toNat % 2 ^ 16)
       ((if sw = 64 then c.rdPair o.a l else (c.rd1 0 o.a l).toNat) / 2 ^ (sw * o.sel.toNat) % 2 ^ sw)
     ∃ v : Nat → Nat,
       (∀ l i, i < (if dw = 64 then 64 else 32) → (res l).1 < 2 ^ dw → (v l).testBit i =
         if dw * o.del.toNat ≤ i ∧ i < dw * o.del.toNat + dw then (res l).1.testBit (i - dw * o.del.toNat)
         else if o.mrg = true then (c.rd1 1 o.d l).toNat.testBit i
         else decide (dw * o.del.toNat + dw ≤ i) && decide (o.dfmt = .s8 ∨ o.dfmt = .s16 ∨ o.dfmt = .s32 ∨ o.dfmt = .s64) && (res l).1.testBit (dw - 1)) ∧
       let words (l : Nat) : List Word := if dw = 64 then [BitVec.ofNat 32 (v l), BitVec.ofNat 32 (v l / 2 ^ 32)] else [BitVec.ofNat 32 (v l)]
       let t := (c.deliver sr.2 0 o.d (c.act.map fun l => (l, words l, (res l).2))).completed c.k f
       exec (.cvt o) s = .next t ∧ (s.calm = true → o.d.toNat < 248 → c.inBanks (o.d.toNat + 2) = true → c.inRegs t o.d words)) ∧
  (let el (signed : Bool) (w v e : Nat) : Int :=
       if signed = true then (BitVec.ofNat w (v / 2 ^ (w * e))).toInt else ((BitVec.ofNat w (v / 2 ^ (w * e))).toNat : Int)
     let dot (n w : Nat) (o : FpOps) (c : Ctx) (l : Nat) : Int :=
       (BitVec.ofNat 32 (c.fpRaw o 2 o.c l)).toInt +
         ((List.range n).map fun e => el (o.opx.getLsbD 1) w (c.fpRaw o 0 o.a l) e * el (o.opx.getLsbD 0) w (c.fpRaw o 1 o.b l) e).sum
     (∀ o : FpOps, Said.fpGives (.idp4 o) 0 o.d .rne fun _ c l => ((BitVec.ofInt 32 (fit (dot 4 8 o c l) .s32 o.ovf)).toNat, 0)) ∧
     (∀ o : FpOps, Said.fpGives (.idp8 o) 0 o.d .rne fun _ c l => ((BitVec.ofInt 32 (fit (dot 8 4 o c l) .s32 o.ovf)).toNat, 0)) ∧
     ∀ o : FpOps, Said.fpGives (.fdp2 o) 0 o.d o.rnd fun w c l =>
       let half (v e : Nat) : FVal := (Said.fmt o.ty).val (v / 2 ^ (16 * e) % 2 ^ 16)
       let a := c.fpRaw o 0 o.a l
       let b := c.fpRaw o 1 o.b l
       let x := Fmt.f32.val (c.fpRaw o 2 o.c l)
       r108 .f32 o.rnd o.ovf ((w.rotateLeft (5 * l)).toNat % 2 ^ 16) [half a 0, half a 1, half b 0, half b 1, x]
         [(half a 0).mul (half b 0), (half a 1).mul (half b 1), (x, false)])

/-- An algebra instruction whose table check passes (R137) gives `n` components per active lane; when it fails it traps in the active lanes; with
no active lane only the generator moves. -/
def Said.algGives (i : Instr) (o : AlgOps) (n : Nat) (val : Nat → (Nat → Nat) → Ctx → Nat → Nat → Nat × Fl) : Prop :=
  ∀ s f c, issuing i s = some (f, c) →
    let sr := c.srStep o.rnd
    let draw (l m : Nat) : Nat := (sr.1.rotateLeft (5 * l + 8 * m)).toNat % 2 ^ 16
    (c.act = [] → exec i s = .next (sr.2.completed c.k f)) ∧
    (∀ e, c.act ≠ [] → c.tabCheck o = .error e → exec i s = .next (s.trapped c.k e.1 c.act e.2)) ∧
    ∀ t, c.act ≠ [] → c.tabCheck o = .ok t → ∃ u, exec i s = .next u ∧
      (s.calm = true → o.d.toNat < 248 → c.inBanks (o.d.toNat + n) = true →
        c.inRegs u o.d (fun l => (List.range n).map fun m => BitVec.ofNat 32 (val t (draw l) c l m).1) ∧
        ∀ l ∈ c.act, (u.thread (c.t l)).status = (c.s.thread (c.t l)).status |||
          BitVec.zeroExtend 32 ((List.range n).foldl (fun fl m => fl ||| (val t (draw l) c l m).2) 0))

/-- The structure-table checks (R137), and products, conjugates, norms, sums and multiples by component (R138 to R140). The pairs that a table forms on a
component stand in the order of R139. A component of a product is the exact sum of the products of its pairs, and of the addend's component, rounded once
(R138); a NaN operand gives the NaN, and NV is set by a signalling NaN, by infinity times zero and by an invalid sum, beside a quiet NaN too (log 39); a sum
with no term is +0 (log 12). The norm is the chain of fused steps over the pairs on `e_0` (R139). -/
def Obligations.AlgebraResults : Prop :=
  (∀ o : AlgOps, Said.algGives (.amul o) o (AlgOps.d' o) fun t dr c l k =>
    algProd t (AlgOps.d' o) k o.rnd o.ovf (dr k) (c.comps o.a (AlgOps.d' o) l) (c.comps o.b (AlgOps.d' o) l) []) ∧
  (∀ o : AlgOps, Said.algGives (.amac o) o (AlgOps.d' o) fun t dr c l k =>
    algProd t (AlgOps.d' o) k o.rnd o.ovf (dr k) (c.comps o.a (AlgOps.d' o) l) (c.comps o.b (AlgOps.d' o) l) (c.comps o.c (AlgOps.d' o) l)) ∧
  (∀ o : AlgOps, Said.algGives (.aconj o) o (AlgOps.d' o) fun t _ c l m =>
    (if t.testBit (8 + m) = true ∧ m < 8 then c.comp o.a m l ^^^ 2 ^ 31 else c.comp o.a m l, 0)) ∧
  (∀ o : AlgOps, Said.algGives (.anorm o) o 1 fun t dr c l _ => algNorm t (AlgOps.d' o) o.rnd o.ovf dr fun m => c.comp o.a m l) ∧
  (∀ o : AlgOps, Said.algGives (.aadd o) o (AlgOps.d' o) fun _ dr c l m => fAdd .f32 o.rnd o.ovf (dr m) (c.comp o.a m l) (c.comp o.b m l)) ∧
  (∀ o : AlgOps, Said.algGives (.ascl o) o (AlgOps.d' o) fun _ dr c l m => fMul .f32 o.rnd o.ovf (dr m) (c.comp o.a m l) (c.comp o.b 0 l)) ∧
  (∀ (t d k i j : Nat) (neg : Bool), (i, j, neg) ∈ tabPairs t d k ↔
    i < d ∧ j < d ∧ (let e := t / 2 ^ (64 + 5 * (8 * i + j)) % 2 ^ 5
      e % 8 = k ∧ e / 8 ≠ 2 ∧ neg = decide (e / 8 = 1))) ∧
  (∀ t d k : Nat, (tabPairs t d k).Pairwise fun p q => p.1 < q.1 ∨ (p.1 = q.1 ∧ p.2.1 < q.2.1)) ∧
  (∀ (t d k draw : Nat) (rnd : Rnd) (sat : Bool) (a b add : List FVal),
    let el (l : List FVal) (n : Nat) : FVal := l.getD n (.zero false)
    let ps := tabPairs t d k
    let plus := (add.drop k).take 1
    let ops := (ps.flatMap fun p => [el a p.1, el b p.2.1]) ++ plus
    let x (p : Nat × Nat × Bool) : FVal := if p.2.2 then ((el a p.1).mul (el b p.2.1)).1.negate else ((el a p.1).mul (el b p.2.1)).1
    let v := sumVal rnd (ps.map x ++ plus)
    let r := algProd t d k rnd sat draw a b add
    let nan : Bool := ops.any FVal.isNan
    let invalid : Bool := (ps.any fun p => ((el a p.1).mul (el b p.2.1)).2) || (!nan && v.isNan)
    (nan = true → r.1 = Fmt.f32.nan) ∧ (nan = false → r.1 = (Machine.deliver .f32 rnd sat draw v).1) ∧
    r.2 = ((if nan then 0 else (Machine.deliver .f32 rnd sat draw v).2) ||| if invalid || (a ++ b ++ add).any FVal.isSnan then flNV else 0) ∧
    ((∀ y ∈ ops, y.isNan = false ∧ ∀ neg, y ≠ .inf neg) → Said.rat v =
      (ps.map fun p => (if p.2.2 then -1 else 1) * Said.rat (el a p.1) * Said.rat (el b p.2.1)).sum + (plus.map Said.rat).sum)) ∧
  ∀ (t d : Nat) (rnd : Rnd) (sat : Bool) (draw a : Nat → Nat), ∃ st : Nat → Nat × Fl, st 0 = (0, 0) ∧
    algNorm t d rnd sat draw a = st (tabPairs t d 0).length ∧
    ∀ n p, (tabPairs t d 0)[n]? = some p →
      let y := fFma .f32 rnd sat (draw n) (if p.2.2 then a p.1 ^^^ 2 ^ 31 else a p.1)
        (if t.testBit (8 + p.2.1) = true ∧ p.2.1 < 8 then a p.2.1 ^^^ 2 ^ 31 else a p.2.1) (st n).1
      st (n + 1) = (y.1, (st n).2 ||| y.2)

/-! ## Lanes -/

/-- R167: the reduction of `redi` and `scan` over the values of a type, in the op order of R163; the identity over none. -/
def Said.reduce (op : Nat) (ty : IntTy) (sat : Bool) (xs : List Int) : Word :=
  let ws := xs.map (BitVec.ofInt 32)
  match op with
  | 0 => BitVec.ofInt 32 (fit xs.sum ty sat)
  | 1 => BitVec.ofInt 32 (xs.foldr min (intHi 32 ty.signed))
  | 2 => BitVec.ofInt 32 (xs.foldr max (intLo 32 ty.signed))
  | 3 => ws.foldr (· &&& ·) (BitVec.allOnes 32)
  | 4 => ws.foldr (· ||| ·) 0
  | _ => ws.foldr (· ^^^ ·) 0

/-- R169: level `n` of the tree at lane `i`: x[i] after the rounds with w below 2^n. -/
def Said.treeAt (g : Nat → Nat → Nat × Fl) (leaf : Nat → Option Nat) : Nat → Nat → Option Nat × Fl
  | 0, i => (leaf i, 0)
  | n + 1, i =>
    let u := Said.treeAt g leaf n i
    let v := Said.treeAt g leaf n (i + 2 ^ n)
    match u.1, v.1 with
    | some a, some b => (some (g a b).1, u.2 ||| v.2 ||| (g a b).2)
    | some a, none => (some a, u.2 ||| v.2)
    | none, b => (b, u.2 ||| v.2)

/-- Quad exchanges and differences read their source lanes through `srcval` (R162, R164), shuffles choose theirs (R166), votes and matches compare over the active
lanes, and `elect` picks the lowest (R165, R168). -/
def Obligations.LaneExchanges : Prop :=
  ((∀ (c : Ctx) (r : BitVec 8) (m : Nat), c.srcval r m =
       match c.f.tkey c.k m with
       | some t => c.s.vreg t r.toNat
       | none => match (if c.quad = true then (List.range 4).findSome? (fun i => c.f.tkey c.k (4 * (m / 4) + i)) else none) with
         | some t => c.s.vreg t r.toNat
         | none => 0) ∧
     (∀ o : LaneOps, Said.fpGives (.qswp o) 0 o.d .rne fun _ c l => ((c.srcval o.a (l ^^^ (o.func.toNat + 1))).toNat, 0)) ∧
     (∀ o : LaneOps, Said.fpGives (.qdx o) 0 o.d (laneRnd o) fun w c l =>
       let p := if o.func = 0 then (l ||| 1, l &&& 30) else (l - l % 4 + 1, l - l % 4)
       fSub .f32 (laneRnd o) (laneSat o) ((w.rotateLeft (5 * l)).toNat % 2 ^ 16) (c.srcval o.a p.1).toNat (c.srcval o.a p.2).toNat) ∧
     (∀ o : LaneOps, Said.fpGives (.qdy o) 0 o.d (laneRnd o) fun w c l =>
       let p := if o.func = 0 then (l ||| 2, l &&& 29) else (l - l % 4 + 2, l - l % 4)
       fSub .f32 (laneRnd o) (laneSat o) ((w.rotateLeft (5 * l)).toNat % 2 ^ 16) (c.srcval o.a p.1).toNat (c.srcval o.a p.2).toNat) ∧
     ∀ o : LaneOps, Said.fpGives (.shfl o) 0 o.d .rne fun _ c l =>
       let b := (c.s.vreg (c.t l) o.b.toNat).toNat
       let j : Int := if o.func = 0 then (b % 32 : Nat) else if o.func = 1 then (if (l : Int) - b < 0 then (l : Int) else l - b)
         else if o.func = 2 then (if (31 : Int) < l + b then (l : Int) else l + b) else (l ^^^ (b % 32) : Nat)
       ((c.srcval o.a j.toNat).toNat, 0)) ∧
  ((∀ (o : LaneOps) (s : State) (f : Floe) (c : Ctx), issuing (.vote o) s = some (f, c) → o.func ≠ 3 →
       let p (l : Nat) : Bool := c.s.predOf (c.t l) o.a.toNat
       ∃ t, exec (.vote o) s = .next t ∧ (s.calm = true → o.d.toNat < 7 → c.inBanks 0 = true → ∀ l ∈ c.act,
         (o.func = 0 → (t.predOf (c.t l) o.d.toNat = true ↔ ∃ m ∈ c.act, p m = true)) ∧
         (o.func = 1 → (t.predOf (c.t l) o.d.toNat = true ↔ ∀ m ∈ c.act, p m = true)) ∧
         (o.func = 2 → (t.predOf (c.t l) o.d.toNat = true ↔ ∀ m ∈ c.act, ∀ n ∈ c.act, p m = p n)))) ∧
     (∀ o : LaneOps, o.func = 3 → ∃ w : Ctx → Nat, Said.fpGives (.vote o) 0 o.d .rne (fun _ c _ => (w c, 0)) ∧
       ∀ c m, m < 32 → ((w c).testBit m = true ↔ m ∈ c.act ∧ c.s.predOf (c.t m) o.a.toNat = true)) ∧
     (∀ (o : LaneOps) (s : State) (f : Floe) (c : Ctx), issuing (.elect o) s = some (f, c) → ∃ t, exec (.elect o) s = .next t ∧
       (s.calm = true → o.d.toNat < 7 → c.inBanks 0 = true → c.act.Pairwise (· < ·) → ∀ l ∈ c.act,
         (t.predOf (c.t l) o.d.toNat = true ↔ ∀ m ∈ c.act, l ≤ m))) ∧
     (∀ o : LaneOps, o.func = 0 → ∃ w : Ctx → Nat → Nat, Said.fpGives (.matchAny o) 0 o.d .rne (fun _ c l => (w c l, 0)) ∧
       ∀ c l m, m < 32 → ((w c l).testBit m = true ↔ m ∈ c.act ∧ c.s.vreg (c.t m) o.a.toNat = c.s.vreg (c.t l) o.a.toNat)) ∧
     ∀ (o : LaneOps) (s : State) (f : Floe) (c : Ctx), issuing (.matchAny o) s = some (f, c) → o.func ≠ 0 →
       ∃ t, exec (.matchAny o) s = .next t ∧ (s.calm = true → o.c.toNat < 7 → o.d.toNat < 248 → c.inBanks (o.d.toNat + 1) = true → ∀ l ∈ c.act,
         let same : Prop := ∀ m ∈ c.act, ∀ n ∈ c.act, c.s.vreg (c.t m) o.a.toNat = c.s.vreg (c.t n) o.a.toNat
         (t.predOf (c.t l) o.c.toNat = true ↔ same) ∧ (¬ same → t.vreg (c.t l) o.d.toNat = 0) ∧
         (same → ∀ m, m < 32 → ((t.vreg (c.t l) o.d.toNat).getLsbD m = true ↔ m ∈ c.act))))

/-- Reductions and scans over the active lanes (R167), and the fixed tree of `redf` (R169). -/
def Obligations.ReductionsAndScans : Prop :=
  (∀ o : LaneOps, Said.fpGives (.redi o) 0 o.d .rne fun _ c _ =>
    let ty : IntTy := if o.lo.extractLsb' 0 4 = 1#4 then .z32 else .s32
    ((Said.reduce o.func.toNat ty (o.lo.getLsbD 4) (c.act.map fun m => rdVal ty (c.s.vreg (c.t m) o.a.toNat).toNat)).toNat, 0)) ∧
  (∀ o : LaneOps, Said.fpGives (.scan o) 0 o.d .rne fun _ c l =>
    let ty : IntTy := if o.lo.extractLsb' 0 4 = 1#4 then .z32 else .s32
    let ms := c.act.filter fun m => decide (m < l ∨ (m = l ∧ o.func.getLsbD 3 = false))
    ((Said.reduce (o.func.toNat % 8) ty (o.lo.getLsbD 4) (ms.map fun m => rdVal ty (c.s.vreg (c.t m) o.a.toNat).toNat)).toNat, 0)) ∧
  ∀ o : LaneOps, Said.fpGives (.redf o) 0 o.d .rne fun _ c _ =>
    let g : Nat → Nat → Nat × Fl := if o.func = 0 then fAdd .f32 (laneRnd o) (laneSat o) 0 else fMinMax .f32 (decide (o.func = 2))
    let r := Said.treeAt g (fun l => if l ∈ c.act then some (c.s.vreg (c.t l) o.a.toNat).toNat else none) 5 0
    (r.1.getD 0, r.2)

/-! ## Control -/

/-- R143: some lanes regroup at words of their own, and the others go on at `stay`, or none do. -/
def Said.regrouped (c : Ctx) (s : State) (leave : List (Nat × Word)) (stay : Option Word) : State :=
  let p := ((((s.commit c.k).1.endWindows c.k).detachAll c.k).dropResv c.k).publish c.k
  let here : State := match stay with
    | some _ => p.2.modFloe c.k fun f => { f with lanes := f.lanes.filter fun e => !(leave.map (·.1)).contains e.1 }
    | none => { p.2 with floes := del p.2.floes c.k }
  let gone := leave.foldl (fun s e => s.park (c.t e.1) e.2 (some p.1)) here
  match stay with
  | some w => gone.contIntact c.k w
  | none => gone

/-- Nothing holds a regrouping: earlier results are there, no register is lent, the store log begins whole (R181, R206, R251), and nothing that the floe's commits
began is out (log 28). -/
def Said.free (c : Ctx) : Prop := c.f.pend.any (!·.ready) = false ∧ c.lending = false ∧ (c.s.commit c.k).2 = none ∧
  (c.s.commit c.k).1.deferredOut c.bk c.f.fid false = false

/-- Terminators transfer control: `next`, `call`, `yield`, and by its vote `brv` (R143, R146, R148, R149); `next` enters a resident segment at its entry, with
uniform registers at zero and its lanes kept (R93, R142). `nexti` and `ret` check every present lane's word first, then keep the largest group, the lowest word
among equals, and regroup the others (R11, R147). Where a
terminator stands in an earlier window, that window ends with it: the model's choice between R63 and R251 (log 26). -/
def Obligations.ControlTransfers : Prop :=
  ((∀ (n : BitVec 28) (s : State) (f : Floe) (c : Ctx), issuing (.next n) s = some (f, c) → c.f.ports.any (·.2.store) = false →
       exec (.next n) s = .next ((c.s.contIntact c.k (n ++ 0#4)).moved c.k f) ∧
       ∀ cid cp, s.calm = true → s.copyOf c.core c.g.ctx c.g.code (n.toNat / 2 ^ 8) = some (cid, cp) → n.toNat % 2 ^ 8 < bits (hdrOf cp) 50 45 →
         ∃ y, ((c.s.contIntact c.k (n ++ 0#4)).moved c.k f).floe? c.k = some y ∧ y.copy = cid ∧ (y.line, y.slot) = hdrEntry (hdrOf cp) (n.toNat % 2 ^ 8) ∧
           y.uregs = [] ∧ y.lanes = c.f.lanes ∧ y.wait = .none) ∧
     (∀ (d : BitVec 8) (dst back : BitVec 28) (s : State) (f : Floe) (c : Ctx), issuing (.call d dst back) s = some (f, c) →
       c.f.ports.any (·.2.store) = false →
       let u := (c.f.lanes.map (·.1)).foldl (fun s l => (s.setVreg (c.t l) d.toNat (back ++ 0#4)).setVreg (c.t l) (d.toNat + 1) c.f.coord) c.s
       exec (.call d dst back) s = .next ((u.contIntact c.k (dst ++ 0#4)).moved c.k f)) ∧
     (∀ (n : BitVec 28) (s : State) (f : Floe) (c : Ctx), issuing (.yield n) s = some (f, c) → Said.free c →
       exec (.yield n) s = .next ((Said.regrouped c c.s (c.f.lanes.map fun e => (e.1, n ++ 0#4)) none).moved c.k f)) ∧
     ∀ (p : BitVec 8) (a b : BitVec 28) (s : State) (f : Floe) (c : Ctx), issuing (.brv p a b) s = some (f, c) →
       c.f.ports.any (·.2.store) = false → Said.free c →
       let all := c.f.lanes.map (·.1)
       let yes := all.filter fun l => c.s.predOf (c.t l) p.toNat
       let no := all.filter fun l => !c.s.predOf (c.t l) p.toNat
       (yes.length = all.length → exec (.brv p a b) s = .next ((c.s.contIntact c.k (a ++ 0#4)).moved c.k f)) ∧
       (yes.length = 0 → all ≠ [] → exec (.brv p a b) s = .next ((c.s.contIntact c.k (b ++ 0#4)).moved c.k f)) ∧
       (0 < yes.length → yes.length < all.length → all.length < 2 * yes.length →
         exec (.brv p a b) s = .next ((Said.regrouped c c.s (no.map fun l => (l, b ++ 0#4)) (some (a ++ 0#4))).moved c.k f)) ∧
       (0 < yes.length → 2 * yes.length ≤ all.length →
         exec (.brv p a b) s = .next ((Said.regrouped c c.s (yes.map fun l => (l, a ++ 0#4)) (some (b ++ 0#4))).moved c.k f))) ∧
  (∀ (i : Instr) (a : BitVec 8), (i = .nexti a ∨ i = .ret a) → ∀ s f c, issuing i s = some (f, c) →
     let word (l : Nat) : Word := c.s.vreg (c.t l) a.toNat
     let all := c.f.lanes.map (·.1)
     let bad := all.filter fun l => !c.s.contOk c.g.ctx c.g.code (word l)
     let size (w : Word) : Nat := (all.filter fun l => word l == w).length
     (∀ l ls, bad = l :: ls → exec i s = .next (s.trapped c.k 0x0005 bad (word l).toNat)) ∧
     (bad = [] → c.f.ports.any (·.2.store) = false → Said.free c → all ≠ [] → ∃ w ∈ all.map word,
       (∀ v ∈ all.map word, size v < size w ∨ (size v = size w ∧ w.toNat ≤ v.toNat)) ∧
       exec i s = .next (if size w = all.length then (c.s.contIntact c.k w).moved c.k f
         else (Said.regrouped c c.s ((all.filter fun l => word l ≠ w).map fun l => (l, word l)) (some w)).moved c.k f)))

/-- `exit`: once every earlier result is there, it traps with a matrix operation not waited on, else, when no thread lends registers, with accumulator banks held;
otherwise, with nothing deferred left (log 28) and, where a thread is enrolled, its writes performed, it commits, leaves the barrier slots, frees the threads of the present lanes and ends the block if
it has no thread left (R150, R158, R206). `spawn` traps before any thread is made (R152); under `.try` it completes in every other case in which no
lower floe's stalled `spawn` can be placed first; without `.try` a lane that
finds a place completes; a lane that finds none gets false under `.try`; a new thread has zeroed registers but for its arguments, and false predicates (R152). That a failing
word raises bad-continuation in its lanes whatever ARGN is, is the model's choice (log 24); that `exit` ends open windows is log 26's. -/
def Obligations.ThreadsEndAndBegin : Prop :=
  (∀ s f c, issuing .exit s = some (f, c) → c.f.pend.any (!·.ready) = false →
     (c.f.ops ≠ [] → exec .exit s = .next (s.trapped c.k 0x0034 (c.f.lanes.map (·.1)) 0)) ∧
     (∀ h, c.f.ops = [] → c.lending = false → c.s.lowAlloc c.bk = some h → exec .exit s = .next (s.trapped c.k 0x0036 (c.f.lanes.map (·.1)) h)) ∧
     (c.f.ops = [] → c.lending = false → c.s.lowAlloc c.bk = none → (c.s.commit c.k).2 = none →
       let v := (c.s.commit c.k).1
       let enrolled : Prop := ∃ t ∈ c.f.tkeys c.k, (v.thread t).enrolled ≠ 0
       let w := ((v.endWindows c.k).detachAll c.k).dropResv c.k
       (enrolled → v.writesOut c.k c.f = false) → v.deferredOut c.bk c.f.fid ((v.liveThreads c.bk).all (c.f.tkeys c.k).contains) = false →
       ∀ p, (enrolled → p = w.publish c.k) → (¬ enrolled → p = (0, w)) →
       let u := { p.2 with floes := del p.2.floes c.k }.exitThreads c.core c.bk c.f.coord p.1 (p.2.stageOf c.k c.f) (c.f.tkeys c.k)
       exec .exit s = .next ((u.endIfEmpty c.bk).moved c.k f))) ∧
  (∀ (u : State) (core : Nat) (w : Word) (ts : List Nat), ∀ t ∈ ts, ((ts.foldl (fun s t => s.exitThread core w t) u).thread t).st = 0) ∧
  (∀ (u : State) (bk : Nat), (u.liveThreads bk ≠ [] → u.endIfEmpty bk = u) ∧
     ((u.block? bk).isSome = true → u.liveThreads bk = [] → u.endIfEmpty bk =
       (((u.blockGone bk).releaseBlock bk .exit).modGrid (u.block bk).grid fun x => { x with done := x.done + 1 }).noteDone)) ∧
  (∀ (o : SpawnOps) (s : State) (f : Floe) (c : Ctx), issuing (.spawn o) s = some (f, c) →
     let cont (l : Nat) : Word := if o.rs = true then c.s.vreg (c.t l) o.d.toNat else o.succ ++ 0#4
     let todo := c.act.filter fun l => !c.f.served.contains l
     let bad := todo.filter fun l => !c.s.contOk c.g.ctx c.g.code (cont l)
     let v := (c.s.commit c.k).1
     let p : Nat × State := match c.f.spawnRec with
       | some r => (r, v)
       | none => ((v.publish c.k).1, (v.publish c.k).2.modFloe c.k fun f => { f with spawnRec := some (v.publish c.k).1 })
     (todo = [] → exec (.spawn o) s = .next (c.s.completed c.k f)) ∧
     (∀ l ls, bad = l :: ls → exec (.spawn o) s = .next (s.trapped c.k 0x0005 bad (cont l).toNat)) ∧
     (todo ≠ [] → bad = [] → c.g.nregs < o.argn.toNat → exec (.spawn o) s = .next (s.trapped c.k 0x0020 todo o.argn.toNat)) ∧
     (todo ≠ [] → bad = [] → o.argn.toNat ≤ c.g.nregs → c.f.loadsOut = false → (c.s.commit c.k).2 = none → v.writesOut c.k c.f = false → c.spawnBehind v = false →
       (o.try_ = true → ∃ u, c.spawnLanes o cont p.1 todo p.2 = .done u ∧ exec (.spawn o) s = .next (u.completed c.k f)) ∧
       (o.try_ = false → ∀ l q w base, todo = [l] → (p.2.liveThreads c.bk).length < 1024 →
         p.2.placeThread c.islot l c.g.win = some (q, w, base) →
         let args := (List.range o.argn.toNat).map fun i => c.s.vreg (c.t l) (o.a.toNat + i)
         exec (.spawn o) s = .next ((((p.2.makeThread c.bk q l w base args).park (threadKey q l w) (cont l) (some p.1)).modFloe c.k fun f =>
           { f with served := f.served ++ [l] }).completed c.k f))) ∧
     ∀ (r l : Nat) (ls : List Nat) (u : State), o.try_ = true → 1024 ≤ (u.liveThreads c.bk).length ∨ u.placeThread c.islot l c.g.win = none →
       c.spawnLanes o cont r (l :: ls) u =
         c.spawnLanes o cont r ls ((u.setPred (c.t l) o.tp.toNat false).modFloe c.k fun f => { f with served := f.served ++ [l] })) ∧
  ∀ (s : State) (bk q lane w base n : Nat) (args : List Word), lane < 32 → w < 32 → s.calm = true → n < (s.grid (s.block bk).grid).win →
     base + (s.grid (s.block bk).grid).win ≤ 2048 →
     let t := s.makeThread bk q lane w base args
     let k := threadKey q lane w
     t.vreg k n = args.getD n 0 ∧ (t.thread k).tid = s.freeTid bk ∧ (t.thread k).blkr = bk % 32 ∧ (t.thread k).wbase = base ∧
     ∀ p, p < 7 → t.predOf k p = false

/-- The owner and validity checks of R154 trap in the active lanes; then `bar.arw` and `bar.arv` count arrivals, with a release at the bar's scope, `bar.wt` goes
on with an acquire or waits, and `bar.exp` takes credits of EARLY and raises PEND (R153, R155, R156, R159). With no active lane `bar.arw` waits on a slot of its
block and the others do nothing (R156); on a slot that fails R154 it does nothing (the model's choice, log 24). -/
def Obligations.BarrierInstructions : Prop := ∀ (o : BarOps) (s : State) (f : Floe) (c : Ctx),
  let n := o.slot.toNat
  let b := c.s.bar c.core n
  let ready : Prop := c.f.loadsOut = false ∧ (c.s.commit c.k).2 = none ∧ (c.s.commit c.k).1.writesOut c.k c.f = false
  let p := (c.s.commit c.k).1.publish c.k
  let m : SyncMark := ⟨p.1, o.scope, p.2.who c.bk⟩
  let wait (u : State) (par : Bool) : State := (u.waitHere c.k (.bar n par o.scope)).modFloe c.k fun f =>
    { f with mute := 0, bpHits := [], watchHits := [] }
  (∀ i ∈ [Instr.barArw o, .barArv o, .barWt o, .barExp o], issuing i s = some (f, c) → c.act ≠ [] →
    (b.val = true → b.owner ≠ c.bk → exec i s = .next (s.trapped c.k 0x0021 c.act n)) ∧
    (b.val = false → exec i s = .next (s.trapped c.k 0x0022 c.act n))) ∧
  (issuing (.barArw o) s = some (f, c) → c.act = [] → b.val = false ∨ b.owner ≠ c.bk → exec (.barArw o) s = .next (c.s.completed c.k f)) ∧
  (∀ i ∈ [Instr.barArv o, .barWt o, .barExp o], issuing i s = some (f, c) → c.act = [] → exec i s = .next (c.s.completed c.k f)) ∧
  (b.val = true → b.owner = c.bk →
    (issuing (.barArw o) s = some (f, c) → c.act ≠ [] → ready →
      let u := c.arrive p.2 n m
      exec (.barArw o) s = .next (((wait u (u.bar c.core n).ph).phase c.core n).moved c.k f)) ∧
    (issuing (.barArw o) s = some (f, c) → c.act = [] → exec (.barArw o) s = .next ((wait c.s b.ph).moved c.k f)) ∧
    (issuing (.barArv o) s = some (f, c) → c.act ≠ [] → ready →
      let u := c.act.foldl (fun s l => c.wr1 s o.d l (if (p.2.bar c.core n).ph = true then 1 else 0)) p.2
      exec (.barArv o) s = .next (((c.arrive u n m).phase c.core n).completed c.k f)) ∧
    (issuing (.barWt o) s = some (f, c) → c.act ≠ [] →
      let par := (c.rd1 0 o.b c.low).getLsbD 0
      exec (.barWt o) s = .next (if b.ph = par then (wait c.s par).moved c.k f else (c.acquire c.s o.scope b.last).completed c.k f)) ∧
    (issuing (.barExp o) s = some (f, c) → c.act ≠ [] →
      let v := (c.rd1 0 o.b c.low).toNat
      let e := min b.early v
      (65535 < b.pend + (v - e) → exec (.barExp o) s = .next (s.trapped c.k 0x0024 c.act n)) ∧
      (b.pend + (v - e) ≤ 65535 →
        exec (.barExp o) s = .next ((c.s.setBar c.core n { b with
        early := b.early - e, pend := b.pend + (v - e), recs := b.recs ++ (b.ahead.take e).flatten, ahead := b.ahead.drop e }).completed c.k f))))

/-- A phase with an event, enough arrivals and nothing awaited completes: the parity inverts, arrivals go to 0, and the credits of EARLY pay the next phase; without
the three conditions nothing changes (R155). `barinit` checks owner, counts and use in order, and then sets the slot (R157). -/
def Obligations.BarrierPhasesAndInit : Prop :=
  (∀ (s : State) (core n : Nat),
     let b := s.bar core n
     let x := (s.phase core n).bar core n
     (¬ (b.event = true ∧ b.expt ≤ b.arr ∧ b.pend = 0 ∧ b.val = true) → s.phase core n = s) ∧
     (b.event = true → b.expt ≤ b.arr → b.pend = 0 → b.val = true → (s.block b.owner).stepping = none →
       x.ph = !b.ph ∧ x.arr = 0 ∧ x.pend = (if b.expa < b.early then 0 else b.expa - b.early) ∧ x.early = b.early - (b.expa - x.pend) ∧
       x.expt = b.expt ∧ x.expa = b.expa ∧ x.owner = b.owner ∧ x.val = true ∧ ∀ m, m < 16 → m ≠ n → (s.phase core n).bar core m = s.bar core m)) ∧
  (∀ (h : Head) (ra rb : BitVec 8) (slot : BitVec 4) (s : State) (f : Floe) (c : Ctx),
     issuing (.barinit h ra rb slot) s = some (f, c) →
     let n := slot.toNat
     let b := c.s.bar c.core n
     let va := (c.rd1 0 ra c.low).toNat
     let vb := (c.rd1 1 rb c.low).toNat
     let trap (code : Nat) : Prop := exec (.barinit h ra rb slot) s = .next (s.trapped c.k code c.act n)
     let mine : Prop := b.val = false ∨ b.owner = c.bk
     let fits : Prop := (va ≤ 1024 ∨ va = 0xFFFFFFFF) ∧ vb ≤ 65535
     let idle : Prop := c.s.waitedOn c.core n = false ∧ b.arr = 0 ∧ b.pend = 0
     (c.act = [] → exec (.barinit h ra rb slot) s = .next (c.s.completed c.k f)) ∧
     (c.act ≠ [] → ¬ mine → trap 0x0021) ∧ (c.act ≠ [] → mine → ¬ fits → trap 0x0022) ∧ (c.act ≠ [] → mine → fits → ¬ idle → trap 0x0023) ∧
     (c.act ≠ [] → mine → fits → idle → ∃ t, exec (.barinit h ra rb slot) s = .next t ∧ (s.calm = true →
       t.bar c.core n = { owner := c.bk, val := true, blk := decide (va = 0xFFFFFFFF), expt := if va = 0xFFFFFFFF then (c.s.liveThreads c.bk).length else va,
                          expa := vb, pend := vb } ∧
       ∀ u, u / 4096 = c.core → (t.thread u).arrived.getLsbD n = false ∧
         ((t.thread u).enrolled.getLsbD n = true → va = 0xFFFFFFFF ∧ u ∈ c.s.liveThreads c.bk))))

/-! ## Memory -/

/-- The waits that an access's order asks for find nothing to wait for: a release has no load out, its log begins whole and every earlier write is
performed; a commit point's log begins whole (R181, R276). -/
def Said.ready (c : Ctx) (u : State) (rel commits : Bool) : Prop :=
  (rel = true → c.f.loadsOut = false ∧ (u.commit c.k).2 = none ∧ (u.commit c.k).1.writesOut c.k c.f = false) ∧
  (rel = false → commits = true → (u.commit c.k).2 = none)

/-- The machine after those waits, and the record that a release publishes (R287). -/
def Said.after (c : Ctx) (u : State) (rel commits : Bool) : State × Option Nat :=
  if rel = true then (((u.commit c.k).1.publish c.k).2, some ((u.commit c.k).1.publish c.k).1)
  else if commits = true then ((u.commit c.k).1, none) else (u, none)

/-- Bytes that an access of a type moves (R177). -/
def Said.size (o : MemOps) : Nat := o.ty.width / 8

/-- R172: the address of a global access in a lane: the pointer's address, the displacement and the scaled index, modulo 2^48. -/
def Said.va (c : Ctx) (o : MemOps) (l : Nat) : Nat :=
  (BitVec.ofNat 48 (c.rdPair o.a l) + BitVec.signExtend 48 o.disp +
    (if o.idx = true then BitVec.signExtend 48 (c.s.vreg (c.t l) o.b.toNat) <<< o.scale.toNat else 0)).toNat

/-- Checks 1 to 3 of R176 for global accesses of `n` bytes: the first that fails in some active lane traps in the lanes in which it fails, with the
lowest one's address; a poisoned bounds entry stops the grid when check 2 reads it (R408). -/
def Said.boundsTraps (i : Instr) (o : MemOps) (n : Nat) (perm : Nat → Bool) : Prop := ∀ s f c, issuing i s = some (f, c) →
  let bidx (l : Nat) : Nat := c.rdPair o.a l / 2 ^ 48 % 4096
  let odd := c.act.filter fun l => decide (Said.va c o l % n ≠ 0)
  let out := c.act.filter fun l => !c.s.inBounds c.g.ctx (bidx l) (Said.va c o l) n
  let no := c.act.filter fun l => !perm (c.s.bent c.g.ctx (bidx l))
  let hurt : Prop := ∃ l ∈ c.act, c.s.bentPoison c.g.ctx (bidx l) = true
  (odd ≠ [] → exec i s = .next (s.trapped c.k 0x0010 odd (Said.va c o (odd.headD 0)))) ∧
  (odd = [] → hurt → exec i s = .next ((s.fatalStop (s.block c.bk).grid (some c.core)).settleDue 64)) ∧
  (odd = [] → ¬ hurt → out ≠ [] → exec i s = .next (s.trapped c.k 0x0011 out (Said.va c o (out.headD 0)))) ∧
  (odd = [] → ¬ hurt → out = [] → no ≠ [] → exec i s = .next (s.trapped c.k 0x0011 no (Said.va c o (no.headD 0))))

/-- A request of the floe stands at the network for an access (R178). -/
def Said.asked (t : State) (c : Ctx) (a : GAcc) (n : Nat) (kind : Req.Kind) : Prop :=
  ∃ id r, look t.net id = some r ∧ r.floe = c.k ∧ r.fid = c.f.fid ∧ r.lane = a.lane ∧ r.va = a.va ∧ r.place = a.place ∧ r.n = n ∧ r.kind = kind ∧
    r.performed = false

/-- `ld`, `lr` and `ldtag` check their addresses (R172, R176), open one result for the active lanes, and ask each lane's home for its bytes, a load with
the bytes of the thread's own log over them (R177, R178, R180); `lr` sets its threads' reservations (R188). -/
def Obligations.GlobalLoads : Prop :=
  (∀ (c : Ctx) (o : MemOps), c.globReqs o = c.act.map fun l => ⟨l, c.rdPair o.a l, Said.va c o l⟩) ∧
  (∀ o : MemOps, Said.boundsTraps (.ld o) o (Said.size o) bentR ∧ Said.boundsTraps (.lr o) o (Said.size o) bentR ∧
    Said.boundsTraps (.ldtag o) o 32 bentR) ∧
  (∀ o : MemOps, ∀ i ∈ [Instr.ld o, .lr o, .ldtag o], ∀ s f c, issuing i s = some (f, c) → c.act = [] → exec i s = .next (c.s.completed c.k f)) ∧
  (∀ (o : MemOps) (b : Bool) (s : State) (f : Floe) (c : Ctx) (u : State) (as : List GAcc), issuing (if b then .lr o else .ld o) s = some (f, c) → c.act ≠ [] →
    let m : Mark := if b then memAmark o else memMark o
    let w : Ctx := { c with s := u }
    let q := Said.after c u (isRel o.order) false
    c.checkBounds (c.globReqs o) (Said.size o) bentR = none → c.checkHome (c.globReqs o) (Said.size o) false true m = .ok (u, as) →
    Said.ready c u (isRel o.order) false →
    let p := w.await q.1 o.h.la.toNat { n := 0, reg := o.d.toNat, cnt := o.ty.regs, need := c.act, load := true, acq := memAcq o }
    let v := addReqs (as.map fun a => { w.req a (Said.size o) (if b then .lr else .load) m with
      signed := some o.ty, pend := some p.1, fwd := forwarded c.f.log a.lane a.place (Said.size o) }) p.2
    let x := if b then as.foldl (fun s a => s.modThread (c.t a.lane) fun th => { th with resv := some ⟨a.place.pa / 32, a.place.sys, false, false, p.1⟩ }) v else v
    exec (if b then .lr o else .ld o) s = .next (x.completed c.k f) ∧
    (u.due = [] → s.calm = true → isRel o.order = false →
      (∀ a ∈ as, Said.asked (x.completed c.k f) c a (Said.size o) (if b then .lr else .load)) ∧
      ∃ y, (x.completed c.k f).floe? c.k = some y ∧ ∃ z ∈ y.pend, z.n = p.1 ∧ z.reg = o.d.toNat ∧ z.need = c.act ∧ z.left = o.h.la.toNat)) ∧
  ∀ (o : MemOps) (s : State) (f : Floe) (c : Ctx) (u : State) (as : List GAcc), issuing (.ldtag o) s = some (f, c) → c.act ≠ [] →
    c.checkBounds (c.globReqs o) 32 bentR = none → c.checkHome (c.globReqs o) 32 false false {} = .ok (u, as) →
    let w : Ctx := { c with s := u }
    let p := w.await u o.h.la.toNat { n := 0, reg := o.d.toNat, cnt := 1, need := c.act, load := true }
    exec (.ldtag o) s = .next ((addReqs (as.map fun a => { w.req a 32 .ldtag {} with
      ask := false, data := if leafTage a.leaf then 1 else 0, pend := some p.1 }) p.2).completed c.k f)

/-- `st`, `sc`, `stag`, and global `atom` and `red`, make checks 1 to 3 of R176. When the other checks find nothing, a relaxed `st` and a relaxed global `red`
take one log entry and change no byte of memory (R177, R180, R187), and a relaxed `st` with 256 entries in the log is fatal (R182); the other writes send one
request a lane to its home, after the waits of their order (R177, R181, R185, R188, R190). With no active lane none of them does anything (R49). -/
def Obligations.GlobalStores : Prop :=
  (∀ o : MemOps, Said.boundsTraps (.st o) o (Said.size o) bentW ∧ Said.boundsTraps (.sc o) o (Said.size o) bentW ∧ Said.boundsTraps (.stag o) o 32 bentW ∧
    (o.space = .glob → Said.boundsTraps (.atom o) o (atomBytes o.aty) bentA ∧ Said.boundsTraps (.red o) o (atomBytes o.aty) bentA)) ∧
  (∀ o : MemOps, ∀ i ∈ [Instr.st o, .atom o, .red o, .sc o, .stag o], ∀ s f c, issuing i s = some (f, c) → c.act = [] →
    exec i s = .next (c.s.completed c.k f)) ∧
  (∀ (o : MemOps) (s : State) (f : Floe) (c : Ctx) (u : State) (as : List GAcc), c.act ≠ [] →
    let w : Ctx := { c with s := u }
    let n := Said.size o
    let e := atomBytes o.aty
    let rel := isRel o.order
    let q := Said.after c u rel true
    (issuing (.st o) s = some (f, c) → c.checkBounds (c.globReqs o) n bentW = none → c.checkHome (c.globReqs o) n true true (memMark o) = .ok (u, as) →
      (rel = false → c.f.log.length < 256 →
        let t := (u.modFloe c.k fun f => { f with log := f.log ++ [.store (as.map (w.lacc o n))] }).completed c.k f
        exec (.st o) s = .next t ∧ (s.calm = true → u.due = [] → u.sameBytes t ∧ ∃ y, t.floe? c.k = some y ∧ y.log = c.f.log ++ [.store (as.map (w.lacc o n))])) ∧
      (rel = false → 256 ≤ c.f.log.length → exec (.st o) s = .next ((s.takeFatal c.k).settleDue 64)) ∧
      (rel = true → Said.ready c u rel true → exec (.st o) s = .next ((addReqs (as.map fun a =>
        { w.wreq a n .store (memMark o) q.2 with data := w.memData o n a.lane, hold := isAcq o.order }) q.1).completed c.k f))) ∧
    (issuing (.red o) s = some (f, c) → o.space = .glob → c.checkBounds (c.globReqs o) e bentA = none →
      c.checkHome (c.globReqs o) e true true (memAmark o) = .ok (u, as) →
      (o.order = .rlx → c.f.log.length < 256 →
        let t := (u.modFloe c.k fun f => { f with log := f.log ++ [.red (as.map (w.lacc o e)) o.aop o.aty] }).completed c.k f
        exec (.red o) s = .next t ∧ (s.calm = true → u.due = [] → u.sameBytes t)) ∧
      (o.order ≠ .rlx → Said.ready c u rel true → exec (.red o) s = .next ((addReqs (as.map fun a =>
        { w.wreq a e (.atom o.aop o.aty false) (memAmark o) q.2 with data := w.memData o e a.lane, cmp := w.cmpData o a.lane, pend := none }) q.1).completed c.k f))) ∧
    (issuing (.atom o) s = some (f, c) → o.space = .glob → c.checkBounds (c.globReqs o) e bentA = none →
      c.checkHome (c.globReqs o) e true true (memAmark o) = .ok (u, as) → Said.ready c u rel true →
      let p := w.await q.1 o.h.la.toNat { n := 0, reg := o.d.toNat, cnt := o.aregs, need := c.act, load := true, acq := memAcq o }
      exec (.atom o) s = .next ((addReqs (as.map fun a => { w.wreq a e (.atom o.aop o.aty true) (memAmark o) q.2 with
        data := w.memData o e a.lane, cmp := w.cmpData o a.lane, pend := some p.1 }) p.2).completed c.k f)) ∧
    (issuing (.sc o) s = some (f, c) → c.checkBounds (c.globReqs o) n bentW = none → c.checkHome (c.globReqs o) n true true (memAmark o) = .ok (u, as) →
      Said.ready c u rel true →
      let p := w.await q.1 o.h.la.toNat { n := 0, reg := 0, cnt := 0, pred := some o.d.toNat, need := c.act, load := true }
      let v := addReqs (as.map fun a => { w.wreq a n .sc (memAmark o) q.2 with
        data := w.memData o n a.lane, pend := some p.1, resv := (u.thread (c.t a.lane)).resv }) p.2
      exec (.sc o) s = .next (((c.act.foldl (fun s l => s.modThread (c.t l) fun th => { th with resv := none }) v).modFloe c.k fun f =>
        { f with hold := none }).completed c.k f)) ∧
    (issuing (.stag o) s = some (f, c) → c.checkBounds (c.globReqs o) 32 bentW = none → c.checkHome (c.globReqs o) 32 true false {} = .ok (u, as) →
      (∀ a ∈ as, leafTage a.leaf = true) → (u.commit c.k).2 = none → (u.commit c.k).1.writesOut c.k c.f = false →
      exec (.stag o) s = .next ((addReqs (as.map fun a => { w.req a 32 .stag {} with
        data := (w.rd1 2 o.c a.lane).toNat % 16, ask := false, hold := true }) (u.commit c.k).1).completed c.k f)))

/-- The bytes that lanes store, each at its own address, cover one byte once at most. -/
def Said.apart (ps : List (Nat × Nat)) (n : Nat) : Prop := ps.Pairwise fun p q => p.2 + n ≤ q.2 ∨ q.2 + n ≤ p.2

/-- The scratchpad instructions complete when the checks of R175 and R176 find nothing and what their order waits for is there. Their addresses are the register plus
the displacement and the scaled index (R172). `sts`, `atom` and `red` change no byte outside the addresses of their lanes, and where those are apart, store the
data or the operation's result there (R177, R186, R187); a relaxed `lds` changes no byte; the words that a relaxed `lds`, and an `atom` whose lanes are apart, bring back are
those that stood at their lanes' addresses (R177, R186). Misaligned addresses trap before those outside the share (R176). That the bytes move at issue, the
bank ports holding back only results, is the model's choice (log 45). -/
def Obligations.ScratchpadAccesses : Prop :=
  (∀ (c : Ctx) (o : MemOps), c.padReqs o = c.act.map fun l => (l, ((c.s.vreg (c.t l) o.a.toNat).toNat : Int) + (BitVec.toInt o.disp +
    if o.idx = true then (c.s.vreg (c.t l) o.b.toNat).toInt * 2 ^ o.scale.toNat else 0))) ∧
  (∀ (o : MemOps) (s : State) (f : Floe) (c : Ctx) (u : State) (ps : List (Nat × Nat)), issuing (.sts o) s = some (f, c) → c.act ≠ [] →
    c.s.bankBusy c.islot o.space = false → c.checkPad c.s o.space (c.padReqs o) (Said.size o) (Said.size o) false true true (memMark o) = .ok (u, ps) →
    Said.ready c u (isRel o.order) false →
    let q := (Said.after c u (isRel o.order) false).1
    ∃ v : State, let t := v.completed c.k f; exec (.sts o) s = .next t ∧ (s.calm = true → q.due = [] → o.space ≠ .glob →
      (∀ a, (∀ p ∈ ps, ¬ (p.2 ≤ a ∧ a < p.2 + Said.size o)) → getB (t.lvl o.space) a = getB (q.lvl o.space) a) ∧
      (∀ l, l ≠ o.space → l ≠ .glob → ∀ a, getB (t.lvl l) a = getB (q.lvl l) a) ∧ t.mem = q.mem ∧ t.regs = q.regs ∧
      (Said.apart ps (Said.size o) → ∀ p ∈ ps, getN (t.lvl o.space) p.2 (Said.size o) = c.memData o (Said.size o) p.1))) ∧
  (∀ (o : MemOps) (s : State) (f : Floe) (c : Ctx) (u : State) (ps : List (Nat × Nat)), issuing (.lds o) s = some (f, c) → c.act ≠ [] →
    c.s.bankBusy c.islot o.space = false → c.checkPad c.s o.space (c.padReqs o) (Said.size o) (Said.size o) true false true (memMark o) = .ok (u, ps) →
    Said.ready c u (isRel o.order) false →
    ∃ v : State, let t := v.completed c.k f; exec (.lds o) s = .next t ∧ (s.calm = true → u.due = [] → o.order = .rlx → (∀ l a, getB (t.lvl l) a = getB (u.lvl l) a) ∧
      ∃ x, t.floe? c.k = some x ∧ ∃ p ∈ x.pend, p.n = c.f.npend ∧ p.reg = o.d.toNat ∧ p.need = c.act ∧
        p.vals = ps.map fun e => (e.1, wrWords o.ty (rdVal o.ty (getN (u.lvl o.space) e.2 (Said.size o)))))) ∧
  (∀ (o : MemOps) (s : State) (f : Floe) (c : Ctx) (u : State) (ps : List (Nat × Nat)) (b : Bool), issuing (if b then .atom o else .red o) s = some (f, c) →
    c.act ≠ [] → o.space ≠ .glob → c.s.bankBusy c.islot o.space = false →
    c.checkPad c.s o.space (c.padReqs o) (atomBytes o.aty) (atomBytes o.aty) true true true (memAmark o) = .ok (u, ps) →
    Said.ready c u (isRel o.order) b →
    let q := (Said.after c u (isRel o.order) b).1
    ∃ v : State, let t := v.completed c.k f; exec (if b then .atom o else .red o) s = .next t ∧ (s.calm = true → q.due = [] → (b = true → s.ctxReg c.g.ctx 0x40 = 0) →
      (∀ a, (∀ p ∈ ps, ¬ (p.2 ≤ a ∧ a < p.2 + atomBytes o.aty)) → getB (t.lvl o.space) a = getB (q.lvl o.space) a) ∧
      (Said.apart ps (atomBytes o.aty) → (∀ p ∈ ps, getN (t.lvl o.space) p.2 (atomBytes o.aty) =
          atomNew o.aop o.aty (getN (q.lvl o.space) p.2 (atomBytes o.aty)) (c.memData o (atomBytes o.aty) p.1) (c.cmpData o p.1) % 2 ^ (8 * atomBytes o.aty)) ∧
        (b = true → ∃ x, t.floe? c.k = some x ∧ ∃ p ∈ x.pend, p.n = c.f.npend ∧ p.reg = o.d.toNat ∧ p.need = c.act ∧
          p.vals = ps.map fun e => (e.1, atomWords o.aty (getN (q.lvl o.space) e.2 (atomBytes o.aty))))))) ∧
  ∀ (o : MemOps) (s : State) (f : Floe) (c : Ctx), ∀ i ∈ [Instr.lds o, .sts o, .atom o, .red o], issuing i s = some (f, c) → o.space ≠ .glob →
    let n := if i = .lds o ∨ i = .sts o then Said.size o else atomBytes o.aty
    let odd := (c.padReqs o).filter fun q => decide (q.2 % (n : Int) ≠ 0)
    let out := (c.padReqs o).filter fun q => decide (q.2 < 0 ∨ (c.s.shareSize c.bk o.space : Int) < q.2 + n)
    let addr (q : Nat × Int) : Nat := (BitVec.ofInt 64 q.2).toNat
    (c.act = [] → exec i s = .next (c.s.completed c.k f)) ∧ (c.s.bankBusy c.islot o.space = false →
      (odd ≠ [] → exec i s = .next (s.trapped c.k 0x0010 (odd.map (·.1)) (addr (odd.headD (0, 0))))) ∧
      (odd = [] → out ≠ [] → exec i s = .next (s.trapped c.k 0x0012 (out.map (·.1)) (addr (out.headD (0, 0))))))

/-- A release `fence` waits for earlier loads and writes and gives its record and scope to the active threads; an acquire one waits for earlier loads and
merges what its threads have seen (R184, R274). `commit` leaves in the log no more than the empty entries of attached store streams (R181, R183, R193). `satt`
attaches the stream of a well-formed descriptor at a free port, and a global store stream takes a log entry; a misaligned address and a port in use trap
(R191, R192, R195). `sdet` does nothing on a free port and detaches a stream, committing for a store stream (R194). -/
def Obligations.FencesAndStreams : Prop :=
  (∀ (h : Head) (sc : Scope) (ord : Order) (s : State) (f : Floe) (c : Ctx), issuing (.fence h sc ord) s = some (f, c) →
    let p := (c.s.commit c.k).1.publish c.k
    let rel := c.act.foldl (fun s l => s.modThread (c.t l) fun th => { th with rel := th.rel.filter (·.2 ≠ sc) ++ [(p.1, sc)] }) p.2
    (c.act = [] → exec (.fence h sc ord) s = .next (c.s.completed c.k f)) ∧
    (c.act ≠ [] → isRel ord = false → (isAcq ord = true → c.f.loadsOut = false) → exec (.fence h sc ord) s = .next ((c.acquireSeen c.s sc).completed c.k f)) ∧
    (c.act ≠ [] → isRel ord = true → Said.ready c c.s true true →
      exec (.fence h sc ord) s = .next ((if isAcq ord then c.acquireSeen rel sc else rel).completed c.k f))) ∧
  (∀ (s : State) (f : Floe) (c : Ctx), issuing .commit s = some (f, c) →
    (c.act = [] → exec .commit s = .next (c.s.completed c.k f)) ∧
    (c.act ≠ [] → (c.s.commit c.k).2 = none → exec .commit s = .next ((c.s.commit c.k).1.completed c.k f) ∧
      ∃ y, (c.s.commit c.k).1.floe? c.k = some y ∧ ∀ e ∈ y.log, ∃ n hi w, e = .stream n hi w [])) ∧
  (∀ (o : SattOps) (s : State) (f : Floe) (c : Ctx) (u : State) (d : Nat), issuing (.satt o) s = some (f, c) →
    let va := (c.s.vreg (c.t c.low) o.a.toNat).toNat
    let base : Int := if bits d 6 4 = 0 then (bits d 239 192 : Nat) else (bits d 223 192 : Nat)
    let st := streamOf d (c.act.map fun l => (l, base + (if o.ofs then (c.s.vreg (c.t l) o.b.toNat).toInt else 0)))
    (c.act = [] → exec (.satt o) s = .next (c.s.completed c.k f)) ∧
    (c.act ≠ [] → va % 32 ≠ 0 → exec (.satt o) s = .next (s.trapped c.k 0x0010 c.act 0)) ∧
    (c.act ≠ [] → va % 32 = 0 → (look c.f.ports (o.port.toNat - 248)).isSome → exec (.satt o) s = .next (s.trapped c.k 0x0014 c.act 1)) ∧
    (c.act ≠ [] → va % 32 = 0 → look c.f.ports (o.port.toNat - 248) = none → c.readDesc o.space va 32 32 0 = .ok (u, d) → streamOk d = true →
      c.streamBad st = none → (st.store = true → st.space = .glob → c.f.log.length < 256) →
      let v := u.modFloe c.k fun f => { f with ports := put f.ports (o.port.toNat - 248) st }
      exec (.satt o) s = .next ((if st.store = true ∧ st.space = .glob then v.modFloe c.k fun f => { f with log := f.log ++ [.stream (o.port.toNat - 248)
        (st.tag * 2 ^ 12 + st.bidx) c.f.coord []] } else v).completed c.k f))) ∧
  ∀ (port : BitVec 8) (s : State) (f : Floe) (c : Ctx), issuing (.sdet port) s = some (f, c) →
    let off (u : State) : State := u.modFloe c.k fun f => { f with
      ports := del f.ports (port.toNat - 248)
      log := f.log.filter fun e => match e with
        | .stream q _ _ _ => q != port.toNat - 248
        | _ => true }
    (c.act = [] ∨ look c.f.ports (port.toNat - 248) = none → exec (.sdet port) s = .next (c.s.completed c.k f)) ∧
    ∀ st, c.act ≠ [] → look c.f.ports (port.toNat - 248) = some st →
      (st.store = false → exec (.sdet port) s = .next ((off c.s).completed c.k f)) ∧
      (st.store = true → c.f.pend.all (fun p => p.reg != port.toNat) = true → (c.s.commit c.k).2 = none →
        exec (.sdet port) s = .next ((off (c.s.commit c.k).1).completed c.k f))

/-! ## Exceptions -/

/-- Taking a precise exception of a floe whose HANDLER can be read: the policy is TPOL, but the handler policy acts as kill in the cases of R309; the record holds
its coordinate, lanes, address and code (R306). With no stop or halt met, stop-grid stops the grid, kill ends the block and counts it, and under the handler
policy the floe waits for its results with the trap in hand (R310); with every result there and nothing out that its commits began (log 28), it leaves its slot, and
each trapping thread holds EPC, ECAUSE, EADDR and ESEQ (R309, R314). -/
def Obligations.PreciseTrapEntry : Prop := ∀ (s : State) (k : Nat) (f : Floe) (code : Nat) (lanes : List Nat) (addr : Nat), s.floe? k = some f →
  let bk := f.bkey k
  let g := (s.block bk).grid
  let x := s.grid g
  let pol := s.policyOf k f lanes
  let t := s.takeTrap k code lanes addr
  let turned : Prop := (∃ l ∈ lanes, ∃ u, f.tkey k l = some u ∧ (s.thread u).inHandler = true) ∨ s.contOk x.ctx x.code (s.handlerOf g) = false ∨
    s.freeSave (islotOfFloe k) = none
  let r := s.trapRecord g (s.trapBits bk (some (k, f)) code (maskOf lanes).toNat addr f.coord.toNat pol)
  (x.tpol ≠ 2 → pol = x.tpol) ∧ (x.tpol = 2 → turned → pol = 1) ∧ (x.tpol = 2 → ¬ turned → pol = 2) ∧
  (code < 2 ^ 16 → addr < 2 ^ 64 → let r := BitVec.ofNat 512 (s.trapBits bk (some (k, f)) code (maskOf lanes).toNat addr f.coord.toNat pol)
    r.extractLsb' 0 32 = f.coord ∧ r.extractLsb' 32 32 = maskOf lanes ∧ (r.extractLsb' 64 64).toNat = addr ∧ (r.extractLsb' 128 16).toNat = code) ∧
  (s.handlerWaits g = false → s.stopMet bk = false →
    (∀ sv, pol = 2 → s.freeSave (islotOfFloe k) = some sv →
      let d : TrapDue := ⟨code, lanes, addr, f.coord.toNat, r.1, sv, s.handlerOf g⟩
      let u := r.2.modFloe k fun f => { f with trap := some d }
      (f.pend.any (fun p => !p.ready) = true → t.floe? k = some { f with trap := some d, wait := f.wait.trapped .trap }) ∧
      (f.pend.any (fun p => !p.ready) = false → ((u.endWindows k).commit k).2 = none → ((u.endWindows k).commit k).1.deferredOut bk f.fid false = false →
        t.floe? k = none ∧ ∀ e ∈ f.lanes, e.1 ∈ lanes →
        let th := t.thread (threadKey (islotOfFloe k) e.1 e.2)
        th.inHandler = true ∧ th.epc = f.coord ∧ th.ecause = BitVec.ofNat 32 code ∧ th.eaddr = BitVec.ofNat 64 addr ∧
        th.eseq = if x.ntrap < 255 then BitVec.ofNat 32 x.ntrap else 0xFFFFFFFF)) ∧
    (pol = 1 → (s.block? bk).isSome = true → (look s.grids g).isSome = true →
      t.block? bk = none ∧ (t.grid g).killed = x.killed + 1 ∧ (t.grid g).done = x.done + 1) ∧
    (pol = 0 → s.runs g = true → (t.grid g).stopping = some (4, 3)))

/-- `trap` takes the precise user trap with its code as the address (R160) and `featq` reads the launch's feature mask (R161); `eret` returns the handler's lanes
(R316), `halt` stops a grid or a context (R317), `brk`, `prog` and `mark` stop, count and trace (R367, R379, R380). -/
def Obligations.TrapsReturnsHaltsAndMarks : Prop :=
  ((∀ (h : Head) (code : BitVec 16) (s : State) (f : Floe) (c : Ctx), issuing (.trap h code) s = some (f, c) →
       (c.act ≠ [] → exec (.trap h code) s = .next (s.trapped c.k 0x0007 c.act code.toNat)) ∧
       (c.act = [] → exec (.trap h code) s = .next (c.s.completed c.k f))) ∧
     (∀ (h : Head) (d : BitVec 8) (w : BitVec 2) (s : State) (f : Floe) (c : Ctx), issuing (.featq h d w) s = some (f, c) →
       ∃ t, exec (.featq h d w) s = .next t ∧ (s.calm = true → d.toNat < 248 → c.inBanks (d.toNat + 1) = true → ∀ l ∈ c.act, ∀ i, i < 32 →
         (t.vreg (c.t l) d.toNat).getLsbD i = c.g.mask.getLsbD (32 * w.toNat + i))) ∧
     ∀ (h : Head) (d : BitVec 8) (n : BitVec 7) (s : State) (f : Floe) (c : Ctx), issuing (.featqBit h d n) s = some (f, c) →
       ∃ t, exec (.featqBit h d n) s = .next t ∧ (s.calm = true → d.toNat < 7 → c.inBanks 0 = true → ∀ l ∈ c.act,
         t.predOf (c.t l) d.toNat = c.g.mask.getLsbD n.toNat)) ∧
  ((∀ (h : Head) (s : State) (f : Floe) (c : Ctx), issuing (.eret h) s = some (f, c) →
       (c.act = [] → exec (.eret h) s = .next (c.s.completed c.k f)) ∧
       ((∃ l ∈ c.act, (c.s.thread (c.t l)).inHandler = false) → exec (.eret h) s = .next (s.trapped c.k 0x0009 c.act 0)) ∧
       (c.act ≠ [] → (∀ l ∈ c.act, (c.s.thread (c.t l)).inHandler = true) → (∀ p ∈ c.f.pend, ∀ l ∈ p.need, l ∉ c.act) → (c.s.commit c.k).2 = none →
         let p := ((c.s.commit c.k).1.settleLanes c.k c.act).publish c.k
         let u := (c.act.foldl (fun s l => s.modThread (c.t l) fun th => { th with srec := some p.1 }) p.2).eretThreads c.k c.act
         exec (.eret h) s = .next (u.completed c.k f))) ∧
     (∀ (s : State) (k : Nat) (f : Floe) (lanes : List Nat), s.floe? k = some f → ∀ l ∈ lanes, ∀ t, f.tkey k l = some t →
       let th := (s.eretThreads k lanes).thread t
       th.inHandler = false ∧ th.st = 3 ∧ th.epc = 0 ∧ th.ecause = 0 ∧ th.eaddr = 0 ∧ th.eseq = 0 ∧ th.resv = none) ∧
     (∀ (h : Head) (s : State) (f : Floe) (c : Ctx), issuing (.haltGrid h) s = some (f, c) →
       exec (.haltGrid h) s = .next ((if c.act = [] then c.s else c.s.haltGrid (c.s.block c.bk).grid (some c.core)).completed c.k f)) ∧
     (∀ (h : Head) (s : State) (f : Floe) (c : Ctx), issuing (.haltCtx h) s = some (f, c) →
       (c.act = [] → exec (.haltCtx h) s = .next (c.s.completed c.k f)) ∧
       (c.act ≠ [] → c.s.ctxSup c.g.ctx = false → exec (.haltCtx h) s = .next (s.trapped c.k 0x0008 c.act 0)) ∧
       (c.act ≠ [] → c.s.ctxSup c.g.ctx = true → exec (.haltCtx h) s = .next ((c.s.haltContext c.g.ctx (some c.core)).completed c.k f))) ∧
     (∀ (h : Head) (code : BitVec 16) (act : BitVec 2) (s : State) (f : Floe) (c : Ctx), issuing (.brk h code act) s = some (f, c) →
       let u := c.s.traceFloe c.k c.f 3 code.toNat c.f.coord.toNat c.act
       (c.act = [] → exec (.brk h code act) s = .next (c.s.completed c.k f)) ∧
       (c.act ≠ [] → act = 0 → exec (.brk h code act) s = .next (u.completed c.k f)) ∧
       (c.act ≠ [] → act = 1 → exec (.brk h code act) s = .next ((u.stopBlk c.bk 1).completed c.k f)) ∧
       (c.act ≠ [] → act = 2 → exec (.brk h code act) s = .next ((u.haltGrid (u.block c.bk).grid (some c.core)).completed c.k f))) ∧
     (∀ (h : Head) (n : BitVec 3) (s : State) (f : Floe) (c : Ctx), issuing (.prog h n) s = some (f, c) → ∃ t, exec (.prog h n) s = .next t ∧
       (s.calm = true → c.core < 1024 → t.csr c.core (0x331 + 2 * n.toNat) ++ t.csr c.core (0x330 + 2 * n.toNat) =
         (c.s.csr c.core (0x331 + 2 * n.toNat) ++ c.s.csr c.core (0x330 + 2 * n.toNat)) + BitVec.ofNat 64 c.act.length)) ∧
     (∀ (h : Head) (code : BitVec 16) (s : State) (f : Floe) (c : Ctx), issuing (.mark h code) s = some (f, c) →
       exec (.mark h code) s = .next ((if c.act = [] then c.s else c.s.traceFloe c.k c.f 2 code.toNat c.f.coord.toNat c.act).completed c.k f)) ∧
     ∀ (h : Head) (a : BitVec 8) (code : BitVec 16) (s : State) (f : Floe) (c : Ctx), issuing (.markValue h a code) s = some (f, c) →
       exec (.markValue h a code) s = .next ((if c.act = [] then c.s
         else c.s.traceFloe c.k c.f 2 ((c.rd1 0 a c.low).toNat * 2 ^ 32 + code.toNat) c.f.coord.toNat c.act).completed c.k f))

/-- A register access that the context may make, with no earlier flag still awaited when it names STATUS (R42, R315). -/
def Said.mayAccess (c : Ctx) (n : Nat) (write : Bool) : Prop :=
  (csrSuper n write = true → c.s.ctxSup c.g.ctx = true) ∧ (n = 0 → c.f.statusWaits = false)

/-- `csrr` reads a register into every active lane, STATUS and the exception registers from the lane's own thread (R314, R315); the forms of `csrw`
write lane by lane, STATUS by its RW, W1C and RO fields (R40, R41, R65, R315); a supervisor register traps without SUP. -/
def Obligations.RegisterAccess : Prop :=
  (∀ (h : Head) (d : BitVec 8) (n : BitVec 12) (s : State) (f : Floe) (c : Ctx), issuing (.csrr h d n) s = some (f, c) →
    (c.act = [] → exec (.csrr h d n) s = .next (c.s.completed c.k f)) ∧
    (c.act ≠ [] → csrSuper n.toNat false = true → c.s.ctxSup c.g.ctx = false → exec (.csrr h d n) s = .next (s.trapped c.k 0x0008 c.act n.toNat)) ∧
    (c.act ≠ [] → Said.mayAccess c n.toNat false → ∃ t, exec (.csrr h d n) s = .next t ∧
      (s.calm = true → c.inBanks (d.toNat + 1) = true → ∀ l ∈ c.act, t.vreg (c.t l) d.toNat = c.csrVal c.s l n.toNat))) ∧
  (∀ (c : Ctx) (l : Nat), let th := c.s.thread (c.t l)
    c.csrVal c.s l 0 = th.status ∧ c.csrVal c.s l 1 = th.epc ∧ c.csrVal c.s l 2 = th.ecause ∧ c.csrVal c.s l 4 ++ c.csrVal c.s l 3 = th.eaddr ∧
    c.csrVal c.s l 5 = th.eseq ∧ (c.csrVal c.s l 7 ++ c.csrVal c.s l 6).toNat = c.g.arg % 2 ^ 64 ∧ c.csrVal c.s l 0x12 = c.s.lfsrOf c.islot) ∧
  (∀ (i : Instr) (h : Head) (a : BitVec 8) (n : BitVec 12) (o : WOp), (i = .csrw h a n ∧ o = .plain) ∨ (i = .csrwSet h a n ∧ o = .set) ∨ (i = .csrwClr h a n ∧ o = .clr) →
    ∀ s f c, issuing i s = some (f, c) →
    (c.act = [] → exec i s = .next (c.s.completed c.k f)) ∧
    (c.act ≠ [] → csrSuper n.toNat true = true → c.s.ctxSup c.g.ctx = false → exec i s = .next (s.trapped c.k 0x0008 c.act n.toNat)) ∧
    (c.act ≠ [] → Said.mayAccess c n.toNat true → let t := (c.act.foldl (fun s l => c.csrPut s l n.toNat o (c.s.vreg (c.t l) a.toNat)) c.s).completed c.k f
      exec i s = .next t ∧ (n = 0 → s.calm = true → c.inBanks 0 = true → c.act.Nodup → ∀ l ∈ c.act,
        let old := (c.s.thread (c.t l)).status
        let v := c.s.vreg (c.t l) a.toNat
        let new := (t.thread (c.t l)).status
        (∀ i, i < 5 → new.getLsbD i = match o with
          | .plain => v.getLsbD i | .set => old.getLsbD i || v.getLsbD i | .clr => old.getLsbD i && !v.getLsbD i) ∧
        new.getLsbD 6 = (old.getLsbD 6 && !v.getLsbD 6) ∧ ∀ i, i = 5 ∨ 7 ≤ i → new.getLsbD i = old.getLsbD i)))

/-! ## Matrix operations, copies, buffers and the directory -/

/-- `mma` checks what R198, R199 and R203 name in their order and posts the operation, which its barrier slot then awaits; `mwait` goes on once the floe's
operations have completed, and `mfence` once its writes have (R206, R209, R210). -/
def Obligations.MatrixInstructions : Prop :=
  (∀ (o : DescOps) (s : State) (f : Floe) (c : Ctx) (e : Nat), issuing (.mma o) s = some (f, c) → c.s.freeEntry c.die (clusterOf c.core) = some e →
    let all := c.f.lanes.map (·.1)
    let word := c.s.vreg (c.t 0) o.b.toNat
    let fw := word.toNat
    let same : Prop := ∀ l ∈ c.act, c.s.vreg (c.t l) o.b.toNat = word
    (c.act.length < 32 → exec (.mma o) s = .next (s.trapped c.k 0x0030 all 0)) ∧
    (32 ≤ c.act.length → ¬ same → exec (.mma o) s = .next (s.trapped c.k 0x0031 all 0)) ∧
    (32 ≤ c.act.length → same → fwOk fw = false → exec (.mma o) s = .next (s.trapped c.k 0x0032 all 0)) ∧
    (∀ r, 32 ≤ c.act.length → same → fwOk fw = true → c.mmaTable fw = .error r → exec (.mma o) s = .next (s.trapped c.k r.1 all r.2)) ∧
    ∀ tab d u pb, 32 ≤ c.act.length → same → fwOk fw = true → c.mmaTable fw = .ok (tab, d) →
      c.readDesc o.space (c.s.vreg (c.t 0) o.a.toNat).toNat 64 64 0 = .ok (u, pb) →
      (∀ a, u.paramBad c.k c.f c.bk pb fw d = some a → exec (.mma o) s = .next (s.trapped c.k 0x0033 all a)) ∧
      (u.paramBad c.k c.f c.bk pb fw d = none → u.banksLent (u.partsOf c.bk pb) none = true → exec (.mma o) s = .next (s.trapped c.k 0x0034 all 0)) ∧
      (u.paramBad c.k c.f c.bk pb fw d = none → u.banksLent (u.partsOf c.bk pb) none = false → (c.bPending pb fw d).any (fun p => !p.ready) = false →
        c.accComing (u.partsOf c.bk pb) = false →
        let t := c.postMma u pb fw tab e (c.bPending pb fw d)
        exec (.mma o) s = .next (t.completed c.k f) ∧
        let n := pbSlot pb (c.s.block c.bk).drf
        ((u.block c.bk).drf = (c.s.block c.bk).drf → (t.bar c.core n).pend = (u.bar c.core n).pend + 1) ∧
        ∃ id op, look t.mmas id = some op ∧ op.floe = c.k ∧ op.block = c.bk ∧ op.fw = word ∧ op.pb = BitVec.ofNat 512 pb ∧ op.chunk = 0 ∧ op.done = false)) ∧
  (∀ (s : State) (f : Floe) (c : Ctx), issuing .mwait s = some (f, c) →
    let out : Prop := ∃ id ∈ c.f.ops, ∃ o, look c.s.mmas id = some o ∧ o.done = false
    (c.act = [] → exec .mwait s = .next (c.s.completed c.k f)) ∧
    (c.act ≠ [] → ¬ out → exec .mwait s = .next (({ c.s with mmas := delAll c.s.mmas c.f.ops }.modFloe c.k fun f => { f with ops := [] }).completed c.k f)) ∧
    (c.act ≠ [] → out → exec .mwait s = .next (((c.s.modFloe c.k fun x => { x with ports := f.ports }).waitHere c.k .mwait).settleDue 64))) ∧
  ∀ (s : State) (f : Floe) (c : Ctx), issuing .mfence s = some (f, c) →
    (c.act = [] → exec .mfence s = .next (c.s.completed c.k f)) ∧
    (c.act ≠ [] → c.f.pend.all (fun p => p.ready) = true → c.s.writesOut c.k c.f = false →
      exec .mfence s = .next ((c.s.modFloe c.k fun f => { f with pend := f.pend.map fun p => { p with fenced := true } }).completed c.k f))

/-- The accumulator instructions: banks are given lowest run first or refused with a false predicate, given back, read and written by word, cleared, and moved
to and from memory; a handle that is not the block's, or a bad offset or length, traps (R206, R208, R211 to R215). That the bytes of a scratchpad move
are read and written at issue is the model's choice (log 45). -/
def Obligations.AccumulatorInstructions : Prop :=
  (∀ (o : RegOps) (s : State) (f : Floe) (c : Ctx), issuing (.aalloc o) s = some (f, c) → c.act ≠ [] →
    let n := (c.rd1 0 o.a c.low).toNat
    let held := ((c.s.allocs.filter fun a => a.2.block == c.bk && a.2.orphan.isNone).map (·.2.cnt)).sum
    let out (u : State) (v : Word) (b : Bool) : State := c.act.foldl (fun s l => c.wrPred (c.wr1 s o.d l v) o.c l b) u
    let freeAt (b : Nat) : Prop := b + n ≤ 128 ∧ ∀ a ∈ c.s.allocs, a.1 = c.core → a.2.first + a.2.cnt ≤ b ∨ b + n ≤ a.2.first
    (n = 0 ∨ 128 < n → exec (.aalloc o) s = .next (s.trapped c.k 0x0035 c.act (n * 2 ^ 32))) ∧
    (∀ b, 1 ≤ n → n ≤ 128 → held + n ≤ c.g.accN → freeAt b → (∀ b', b' < b → ¬ freeAt b') →
      exec (.aalloc o) s = .next ((out (c.s.giveBanks c.bk c.g.ctx b n) (BitVec.ofNat 32 (256 * n + b)) true).completed c.k f)) ∧
    (1 ≤ n → n ≤ 128 → c.g.accN < held + n ∨ (∀ b, ¬ freeAt b) → exec (.aalloc o) s = .next ((out c.s 0xFFFFFFFF false).completed c.k f))) ∧
  (∀ (o : RegOps), ∀ i ∈ [Instr.aalloc o, .afree o, .accz o], ∀ s f c, issuing i s = some (f, c) → c.act = [] → exec i s = .next (c.s.completed c.k f)) ∧
  (∀ (o : RegOps), ∀ i ∈ [Instr.afree o, .accz o], ∀ s f c, issuing i s = some (f, c) → c.act ≠ [] → c.s.handleOk c.bk (c.rd1 0 o.a c.low).toNat = none →
    exec i s = .next (s.trapped c.k 0x0035 c.act (c.rd1 0 o.a c.low).toNat)) ∧
  (∀ (o : RegOps) (s : State) (f : Floe) (c : Ctx) (r : Nat × Nat), c.act ≠ [] → c.s.handleOk c.bk (c.rd1 0 o.a c.low).toNat = some r → c.bankLent r = false →
    (issuing (.accz o) s = some (f, c) → exec (.accz o) s = .next ((c.s.zeroBanks c.core r).completed c.k f) ∧
      ∀ w, w < 512 * r.2 → r.1 + r.2 ≤ 128 → (c.s.zeroBanks c.core r).accWord c.core r.1 w = 0) ∧
    (issuing (.afree o) s = some (f, c) → c.s.net.all (fun e => e.2.fid != c.f.fid) = true → c.f.log.any (namesBanks r) = false →
      exec (.afree o) s = .next (({ c.s with allocs := c.s.allocs.filter fun a =>
        !(a.1 == c.core && a.2.block == c.bk && a.2.first == r.1 && a.2.orphan.isNone) }).completed c.k f))) ∧
  (∀ (o : RegOps) (s : State) (f : Floe) (c : Ctx) (ls : List (Nat × Nat × Nat)),
    c.accLanes (fun l => (c.rd1 0 o.a l).toNat) (fun l => (c.rd1 1 o.b l).toNat) = .ok ls →
    (issuing (.accr o) s = some (f, c) → let t := (c.deliver c.s o.h.la.toNat o.d (ls.map fun e => (e.1, [c.s.accWord c.core e.2.1 e.2.2], 0))).completed c.k f
      exec (.accr o) s = .next t ∧ (s.calm = true → o.h.la = 0 → o.d.toNat < 248 → c.inBanks (o.d.toNat + 1) = true → c.act.Nodup → ∀ l ∈ c.act,
        ∃ r, c.s.handleOk c.bk (c.rd1 0 o.a l).toNat = some r ∧ t.vreg (c.t l) o.d.toNat = c.s.accWord c.core r.1 ((c.rd1 1 o.b l).toNat / 4))) ∧
    (issuing (.accw o) s = some (f, c) → exec (.accw o) s = .next ((ls.foldl (fun s e =>
      (s.setAcc c.core e.2.1 e.2.2 (c.rd1 2 o.c e.1)).markBanks c.core (e.2.1 + e.2.2 / 512) 1) c.s).completed c.k f))) ∧
  (∀ (o : RegOps), ∀ i ∈ [Instr.accr o, .accw o], ∀ (s : State) (f : Floe) (c : Ctx) (r : Nat × List Nat × Nat), issuing i s = some (f, c) →
    c.accLanes (fun l => (c.rd1 0 o.a l).toNat) (fun l => (c.rd1 1 o.b l).toNat) = .error (.trap r.1 r.2.1 r.2.2) → exec i s = .next (s.trapped c.k r.1 r.2.1 r.2.2)) ∧
  ∀ (o : MemOps) (s : State) (f : Floe) (c : Ctx) (r : Nat × Nat) (n : Nat), c.act ≠ [] → c.accRun o = .ok (r, n) →
    let q := c.accReq o
    let out : Pend := { n := 0, reg := o.d.toNat, cnt := 1, load := true, vals := c.act.map fun l => (l, [c.rd1 2 o.c l]) }
    (∀ code a, issuing (.accst o) s = some (f, c) → o.space = .glob → c.accBounds q n bentW = none → c.accHome q n = some (.trap code c.act a) →
      exec (.accst o) s = .next (s.trapped c.k code c.act a)) ∧
    (issuing (.accst o) s = some (f, c) → o.space = .glob → c.accBounds q n bentW = none → c.accHome q n = none → c.f.log.length < 256 →
      exec (.accst o) s = .next ((c.s.modFloe c.k fun f => { f with log := f.log ++ [.accst c.core r.1 r.2 n c.g.ctx q.ptr q.va c.f.coord 0] }).completed c.k f)) ∧
    (∀ u ps, issuing (.accst o) s = some (f, c) → o.space ≠ .glob → c.s.bankBusy c.islot o.space = false →
      c.checkPad c.s o.space (c.accPad o) 4 n false true true {} = .ok (u, ps) → let pa := (ps.headD (0, 0)).2
      exec (.accst o) s = .next (((u.writePad (u.agentOf c.k ((u.floe? c.k).getD c.f) (c.carry {} none c.low)) o.space pa
        ((List.range (n / 4)).flatMap fun i => leBytes (u.accWord c.core r.1 i).toNat 4)).enterBank c.k c.f.fid c.low o.space pa n none).completed c.k f)) ∧
    (∀ u as, issuing (.accld o) s = some (f, c) → o.space = .glob → c.accBounds q n bentR = none →
      c.checkHome ((List.range (n / 4)).map fun i => ⟨c.low, q.ptr, q.va + 4 * i⟩) 4 false true {} = .ok (u, as) →
      let w : Ctx := { c with s := u }
      let p := w.await u o.h.la.toNat { out with need := List.range (n / 4) }
      exec (.accld o) s = .next ((addReqs (as.zipIdx.map fun e => { w.req e.1 4 (.bank (65536 * c.core + 512 * r.1 + e.2)) {} with
        lane := e.2, pend := some p.1 }) p.2).completed c.k f)) ∧
    ∀ u ps, issuing (.accld o) s = some (f, c) → o.space ≠ .glob → c.s.bankBusy c.islot o.space = false →
      c.checkPad c.s o.space (c.accPad o) 4 n true false true {} = .ok (u, ps) → let pa := (ps.headD (0, 0)).2
      let rd := c.readPad u c.low o.space pa n none
      let p := c.await (rd.2.loadBanks c.core r.1 n rd.1) o.h.la.toNat { out with need := [c.low] }
      exec (.accld o) s = .next ((p.2.enterBank c.k c.f.fid c.low o.space pa n (some p.1)).completed c.k f)

/-- `cpbox`, `cpred` and `tmov` trap on the first check of R222 and R225 that fails, and post a copy when none does (R224 to R228), one that writes global memory
as an entry of the floe's log. `atab` loads a structure table whose image is good (R129). `mapr` opens a map, and `wback` and `unmapr` log a write-back that their
barrier slot awaits (R233, R235). `cbinit` sets a buffer of its block that is not in use, `cbacq` waits for a filled slot or takes it, and `cbrel` gives the oldest
held slot back (R236, R239). That a claim of the
buffer then synchronises with the release of its slot is read from R236 to R239 (log 36, DEDUCED). -/
def Obligations.CopiesMapsAndBuffers : Prop :=
  (∀ (o : DescOps) (i : Instr) (kind : Nat), (i = .cpbox o ∧ kind = 0) ∨ (i = .cpred o ∧ kind = 1) ∨ (i = .tmov o ∧ kind = 2) → ∀ s f c, issuing i s = some (f, c) →
    (c.act = [] → exec i s = .next (c.s.completed c.k f)) ∧
    ∀ e u d x, c.act ≠ [] → c.s.freeCopy c.core = some e → c.readDesc o.space (c.s.vreg (c.t c.low) o.a.toNat).toNat 128 128 0 = .ok (u, d) →
      u.floeCopy c.k c.f = some x →
      let w : Ctx := { c with s := u }
      let regs := hdrRegs (hdrOf x)
      let orig : List Word := (List.range 7).map fun i => if i < cpNdim d ∧ o.b.toNat + i < regs then u.vreg (c.t c.low) (o.b.toNat + i) else 0
      let into := u.cpTargets c.bk d
      let hurt : Prop := cpFlvl d = .glob ∧ u.bentPoison c.g.ctx (bits (cpFar d) 59 48) = true
      w.runBad o.b.toNat (min (cpNdim d) (regs - o.b.toNat)) = none →
      (∀ a, w.boxBad kind d o.b.toNat regs (BitVec.toInt (orig.getD 0 0)) = some a → exec i s = .next (s.trapped c.k 0x0015 c.act a)) ∧
      (∀ r, w.boxBad kind d o.b.toNat regs (BitVec.toInt (orig.getD 0 0)) = none →
        (w.boxBars d into).or (w.boxRange kind d (orig.map BitVec.toInt) into) = some r → ¬ (r.1 = 0x0011 ∧ hurt) → exec i s = .next (s.trapped c.k r.1 c.act r.2)) ∧
      (w.boxBad kind d o.b.toNat regs (BitVec.toInt (orig.getD 0 0)) = none → (w.boxBars d into).or (w.boxRange kind d (orig.map BitVec.toInt) into) = none → ¬ hurt →
        let later := kind ≠ 2 ∧ cpDir d = true
        let n := u.newId
        (later → c.f.log.length < 256) → ∃ cp : Copy, cp.desc = BitVec.ofNat 1024 d ∧ cp.orig = orig ∧ cp.kind = kind ∧ cp.block = c.bk ∧ cp.floe = c.k ∧
          cp.entry = e ∧ (cp.begun = true ↔ ¬ later) ∧ cp.targets.map (·.1) = into ∧
          let x : State := { n.2 with copies := put n.2.copies n.1 cp }
          let y := if cpCmode d = true then x else x.raisePend c.core (cpSel d)
          exec i s = .next ((if later then y.modFloe c.k fun f => { f with log := f.log ++ [.copy n.1] } else y).completed c.k f))) ∧
  (∀ (o : DescOps) (s : State) (f : Floe) (c : Ctx), issuing (.atab o) s = some (f, c) →
    let va := (c.s.vreg (c.t c.low) o.a.toNat).toNat
    (c.act = [] → exec (.atab o) s = .next (c.s.completed c.k f)) ∧
    ∀ u img, c.act ≠ [] → c.readDesc o.space va 64 64 va = .ok (u, img) →
      (tabOk img = false → exec (.atab o) s = .next (s.trapped c.k 0x0039 c.act va)) ∧
      (tabOk img = true → tabDim img = 8 → hasEight c.die = false → exec (.atab o) s = .next (s.trapped c.k 0x0037 c.act va)) ∧
      (tabOk img = true → (tabDim img = 8 → hasEight c.die = true) → exec (.atab o) s = .next (({ u with
        tables := put u.tables (8 * c.core + o.lo.toNat) (BitVec.ofNat 512 img, (u.block c.bk).grid) }).completed c.k f))) ∧
  (∀ (o : DescOps) (s : State) (f : Floe) (c : Ctx), issuing (.mapr o) s = some (f, c) →
    (c.act = [] → exec (.mapr o) s = .next (c.s.completed c.k f)) ∧
    ∀ u d, c.act ≠ [] → c.readDesc o.space (c.s.vreg (c.t c.low) o.a.toNat).toNat 32 32 0 = .ok (u, d) →
      let l := lvlOf (bits d 133 132)
      let ptr := bits d 127 64
      let size := bits d 63 32
      let pa := u.shareBase c.bk l + bits d 31 0
      (∀ a, u.mapBad c.bk d = some a → exec (.mapr o) s = .next (s.trapped c.k 0x0015 c.act a)) ∧
      (u.mapBad c.bk d = none → u.shareSize c.bk l < bits d 31 0 + size → exec (.mapr o) s = .next (s.trapped c.k 0x0012 c.act 0)) ∧
      (u.mapBad c.bk d = none → bits d 31 0 + size ≤ u.shareSize c.bk l → u.bentPoison c.g.ctx (bits ptr 59 48) = false → u.inBounds c.g.ctx (bits ptr 59 48) (ptr % 2 ^ 48) size = true →
        bentR (u.bent c.g.ctx (bits ptr 59 48)) = true → (bits d 136 136 = 1 → bentW (u.bent c.g.ctx (bits ptr 59 48)) = true) →
        exec (.mapr o) s = .next (({ u with
          maps := put u.maps (8 * c.bk + bits d 130 128) ⟨bits d 31 0, size, BitVec.ofNat 64 ptr, bits d 136 136 == 1, bits d 133 132⟩
          track := cut u.track (trackKey l pa) (trackKey l pa + size / 256) }).completed c.k f))) ∧
  (∀ (h : Head) (map : BitVec 3) (slot : BitVec 4) (s : State) (f : Floe) (c : Ctx) (b : Bool), issuing (if b then .unmapr h map slot else .wback h map slot) s = some (f, c) →
    let i : Instr := if b then .unmapr h map slot else .wback h map slot
    let n := c.s.newId
    let x : WBack := { core := c.core, block := c.bk, uid := (c.s.block c.bk).uid, grid := (c.s.block c.bk).grid, ctx := c.g.ctx, floe := c.k, fid := c.f.fid
                       map := map.toNat, slot := slot.toNat, unmap := b, coord := c.f.coord, start := c.f.start, know := c.f.know, fold := c.f.fold
                       region := c.s.region c.k, who := c.s.who c.bk }
    (c.act = [] → exec i s = .next (c.s.completed c.k f)) ∧
    (c.act ≠ [] → look c.s.maps (8 * c.bk + map.toNat) = none → exec i s = .next (s.trapped c.k 0x0018 c.act map.toNat)) ∧
    (c.act ≠ [] → (look c.s.maps (8 * c.bk + map.toNat)).isSome = true → c.barBad slot.toNat = none → c.f.log.length < 256 →
      exec i s = .next ((({ n.2 with wbs := put n.2.wbs n.1 x }.raisePend c.core slot.toNat).modFloe c.k fun f => { f with log := f.log ++ [LogEnt.wback n.1] }).completed c.k f))) ∧
  (∀ (o : DescOps) (s : State) (f : Floe) (c : Ctx), issuing (.cbinit o) s = some (f, c) →
    (c.act = [] → exec (.cbinit o) s = .next (c.s.completed c.k f)) ∧
    ∀ u d, c.act ≠ [] → c.readDesc o.space (c.s.vreg (c.t c.low) o.a.toNat).toNat 16 16 0 = .ok (u, d) →
      let base := bits d 31 0
      let size := bits d 63 32
      let n := bits d 83 80
      let ns := bits d 70 64
      let lvl := bits d 73 72
      let b := u.cbuf c.core n
      (bits d 71 71 = 0 → bits d 79 74 = 0 → bits d 95 84 = 0 → bits d 127 96 = 0 → lvl = 1 ∨ lvl = 2 → 2 ≤ ns → ns ≤ 64 →
        base % 256 = 0 → size % 256 = 0 → size ≠ 0 → size ≤ 2 ^ 22 → (b.val = true → b.owner = c.bk) →
        (b.val = true → b.busy = true → exec (.cbinit o) s = .next (s.trapped c.k 0x0027 c.act n)) ∧
        ((b.val = true → b.busy = false) → base + ns * size ≤ u.shareSize c.bk (lvlOf lvl) →
          exec (.cbinit o) s = .next ((u.setCbuf c.core n { owner := c.bk, base := base, ssz := size / 256, val := true, lvl := lvl, nslot := ns, free := ns }).completed c.k f)))) ∧
  (∀ (h : Head) (d : BitVec 8) (buf : BitVec 4) (s : State) (f : Floe) (c : Ctx), issuing (.cbacq h d buf) s = some (f, c) →
    let b := c.s.cbuf c.core buf.toNat
    (c.act = [] → exec (.cbacq h d buf) s = .next (c.s.completed c.k f)) ∧
    (c.act ≠ [] → b.val = false ∨ b.owner ≠ c.bk → exec (.cbacq h d buf) s = .next (s.trapped c.k 0x0025 c.act buf.toNat)) ∧
    (c.act ≠ [] → b.val = true → b.owner = c.bk → b.filled = 0 → exec (.cbacq h d buf) s =
      .next (((c.s.modFloe c.k fun x => { x with ports := f.ports }).waitHere c.k (.cbacq buf.toNat)).settleDue 64)) ∧
    (c.act ≠ [] → b.val = true → b.owner = c.bk → 0 < b.filled →
      let u := c.act.foldl (fun s l => c.wr1 s d l (BitVec.ofNat 32 (b.base + b.acq * (256 * b.ssz)))) c.s
      exec (.cbacq h d buf) s = .next (((u.mergeRecs c.k (look b.recs b.acq).toList).setCbuf c.core buf.toNat { b with
        acq := (b.acq + 1) % b.nslot, filled := b.filled - 1, held := b.held + 1 }).completed c.k f))) ∧
  ∀ (h : Head) (buf : BitVec 4) (s : State) (f : Floe) (c : Ctx), issuing (.cbrel h buf) s = some (f, c) →
    let b := c.s.cbuf c.core buf.toNat
    let r := c.s.publish c.k
    (c.act = [] → exec (.cbrel h buf) s = .next (c.s.completed c.k f)) ∧
    (c.act ≠ [] → b.val = false ∨ b.owner ≠ c.bk ∨ b.held = 0 → exec (.cbrel h buf) s = .next (s.trapped c.k 0x0025 c.act buf.toNat)) ∧
    (c.act ≠ [] → b.val = true → b.owner = c.bk → b.held ≠ 0 → c.f.loadsOut = false → c.s.writesOut c.k c.f = false →
      exec (.cbrel h buf) s = .next ((r.2.setCbuf c.core buf.toNat { b with
        rel := (b.rel + 1) % b.nslot, held := b.held - 1, free := b.free + 1, recs := put b.recs (64 + b.rel) r.1 }).completed c.k f))

/-- The directory instructions: `dopen` decides every lane at once and `dopen.w` waits for those whose name is not bound (R354, R355), `dptr` and `dquery`
read the entry of a good handle (R356), `dclose` closes lane by lane (R357), `dbind` and `dunbind` change bindings as one operation (R358, R359). -/
def Obligations.DirectoryInstructions : Prop :=
  (∀ (c : Ctx) (u : State) (w : Bool) (l n til : Nat),
    (n = 0 → c.openLane u w l n til = (u, some (l, 4, false, none))) ∧
    (n ≠ 0 → u.bound c.g.ctx n = none → c.openLane u false l n til = (u, some (l, 1, false, none)) ∧
      c.openLane u true l n til = if u.clock c.die < til then (u, none) else (u, some (l, 3, false, none))) ∧
    ∀ e, n ≠ 0 → u.bound c.g.ctx n = some e → (c.openLane u w l n til).1 = (u.openEnt (u.block c.bk).grid e).2.2 ∧
      ∃ r, (c.openLane u w l n til).2 = some (l, (u.openEnt (u.block c.bk).grid e).1, (u.openEnt (u.block c.bk).grid e).2.1, r)) ∧
  (∀ (o : RegOps) (s : State) (f : Floe) (c : Ctx), issuing (.dopen o) s = some (f, c) →
    exec (.dopen o) s = .next ((if c.act = [] then c.s else c.openOut (c.openAll o false).1 o (c.openAll o false).2.1).completed c.k f)) ∧
  (∀ (o : RegOps) (s : State) (f : Floe) (c : Ctx), issuing (.dopenW o) s = some (f, c) →
    (c.act = [] → exec (.dopenW o) s = .next (c.s.completed c.k f)) ∧
    (∀ found, c.act ≠ [] → c.f.wait = .dopen [] found → exec (.dopenW o) s = .next ((c.openOut c.s o found).completed c.k f)) ∧
    (c.act ≠ [] → c.f.wait = .none → (c.openAll o true).2.2 ≠ [] → exec (.dopenW o) s = .next ((((c.openAll o true).1.modFloe c.k fun x =>
      { x with ports := f.ports }).waitHere c.k (.dopen (c.openAll o true).2.2 (c.openAll o true).2.1)).settleDue 64)) ∧
    (c.act ≠ [] → c.f.wait = .none → (c.openAll o true).2.2 = [] → exec (.dopenW o) s = .next ((c.openOut (c.openAll o true).1 o (c.openAll o true).2.1).completed c.k f))) ∧
  (∀ (o : RegOps) (s : State) (f : Floe) (c : Ctx), issuing (.dclose o) s = some (f, c) →
    let g := (c.s.block c.bk).grid
    exec (.dclose o) s = .next ((c.act.foldl (fun s l => match (s.grid g).handle (c.rd1 0 o.a l).toNat with
      | some h => c.wrPred (s.closeHandle g h.1 h.2) o.d l true
      | none => c.wrPred s o.d l false) c.s).completed c.k f)) ∧
  (∀ (o : RegOps) (s : State) (f : Floe) (c : Ctx), issuing (.dptr o) s = some (f, c) →
    let p (l : Nat) : BitVec 64 := match (c.s.grid (c.s.block c.bk).grid).handle (c.rd1 0 o.a l).toNat with
      | some h => (lookD 0 c.s.dir h.2.entry).extractLsb' 192 64
      | none => 0
    let words (l : Nat) : List Word := [(p l).extractLsb' 0 32, (p l).extractLsb' 32 32]
    let t := (c.deliver c.s o.h.la.toNat o.d (c.act.map fun l => (l, words l, 0))).completed c.k f
    exec (.dptr o) s = .next t ∧ (s.calm = true → o.h.la = 0 → o.d.toNat < 248 → c.inBanks (o.d.toNat + 2) = true → c.inRegs t o.d words)) ∧
  (∀ (o : RegOps) (sel : BitVec 3) (s : State) (f : Floe) (c : Ctx), issuing (.dquery o sel) s = some (f, c) → sel ≠ 7 →
    let v (l : Nat) : Word := match (c.s.grid (c.s.block c.bk).grid).handle (c.rd1 0 o.a l).toNat with
      | some h =>
        let e := lookD 0 c.s.dir h.2.entry
        if sel = 0 then e.extractLsb' 96 32 else if sel = 1 then BitVec.zeroExtend 32 (e.extractLsb' 88 8) else if sel = 2 then e.extractLsb' 40 32
        else if sel = 3 then BitVec.zeroExtend 32 (e.extractLsb' 72 16) else if sel = 4 then BitVec.zeroExtend 32 (e.extractLsb' 38 1)
        else if sel = 5 then e.extractLsb' 128 32 else e.extractLsb' 160 32
      | none => 0xFFFFFFFF
    let t := (c.deliver c.s o.h.la.toNat o.d (c.act.map fun l => (l, [v l], 0))).completed c.k f
    exec (.dquery o sel) s = .next t ∧ (s.calm = true → o.h.la = 0 → o.d.toNat < 248 → c.inBanks (o.d.toNat + 1) = true → c.inRegs t o.d fun l => [v l])) ∧
  (∀ (o : MemOps) (s : State) (f : Floe) (c : Ctx) (ps : List Place), issuing (.dbind o) s = some (f, c) → c.act ≠ [] → Said.ready c c.s true false →
    let u := (c.s.commit c.k).1
    let n := (c.rd1 2 o.c c.low).toNat
    c.bindRead u (c.rdPair o.a c.low) (BitVec.ofNat 48 (c.rdPair o.a c.low) + BitVec.signExtend 48 o.disp).toNat n 32 = .ok ps →
    let rs := ps.map fun p => bRec (u.readPlace p 32)
    let st := if n = 0 ∨ 16 < n then 1 else u.bindStatus c.g.ctx rs
    let p := u.publish c.k
    (n ≤ 16 → ∀ r ∈ rs, r.ptr ≠ 0 → u.bentPoison c.g.ctx (bits r.ptr 59 48) = false) →
    exec (.dbind o) s = .next ((c.act.foldl (fun s l => c.wr1 s o.d l (BitVec.ofNat 32 st))
      (if st = 0 then p.2.bindRecs c.g.ctx (some p.1) rs else p.2)).completed c.k f)) ∧
  (∀ (o : RegOps) (s : State) (f : Floe) (c : Ctx) (p : Place), issuing (.dunbind o) s = some (f, c) → c.act ≠ [] → Said.ready c c.s true false →
    let u := (c.s.commit c.k).1
    c.bindRead u (c.rdPair o.a c.low) (c.rdPair o.a c.low % 2 ^ 48) 1 8 = .ok [p] →
    let r := (u.publish c.k).2.unbindName c.g.ctx (u.readPlace p 8)
    exec (.dunbind o) s = .next ((c.act.foldl (fun s l => c.wrPred s o.d l r.2) r.1).completed c.k f)) ∧
  ∀ (o : MemOps) (r : RegOps), ∀ i ∈ [Instr.dbind o, .dunbind r], ∀ s f c, issuing i s = some (f, c) → c.act = [] → exec i s = .next (c.s.completed c.k f)

/-! ## Events of the memory system and the issue slots -/

/-- The pending result of a request has its lane's words after the request is answered, and no other result of the floe has changed. -/
def Said.answered (t : State) (q : Req) (f : Floe) (n : Nat) (ws : List Word) (b : Option Bool) : Prop :=
  ∃ g, t.floe? q.floe = some g ∧ g.pend = f.pend.map fun p => if p.n = n then p.arrive q.lane ws b else p

/-- A request at its home, and its acknowledgement. While it is performed already, or an earlier one to its bytes or to those of a request that travels with it is
not, or its shell is away, nothing happens; else it and those of its instruction in its granule are served in order (R178, R269, R271, R404). A poisoned granule
stops the grid (R408). On pages that are not watched and outside device-side aliases, while no context records or replays: a store writes its bytes and no other;
an atomic writes what its operation makes of the old value and answers the old value (R185, R186); `sc` writes only under its reservation and answers whether it
did (R188); a load answers what the home holds; the tag instructions set and read the granule's tag (R190). The acknowledgement removes a performed request
(R271). -/
def Obligations.RequestsAtTheirHome : Prop :=
  (∀ (s : State) (r : Nat) (q : Req), look s.net r = some q →
    let rs := s.travel q
    let waits : Prop := q.performed = true ∨ (∃ e ∈ rs, s.behind e.1 e.2 = true) ∨ (q.place.sys = false ∧ s.shellUp q.place.pa = false)
    (waits → exec (.homeAccess r) s = .next (s.settleDue 64).noteDone) ∧
    (¬ waits → (∀ e ∈ rs, s.replHeld e.2 = false) → exec (.homeAccess r) s = .next ((rs.foldl (fun s e => s.serveReq e.1) s).settleDue 64).noteDone)) ∧
  (∀ (s : State) (r : Nat) (q : Req), look s.net r = some q →
    (s.readsPoison q = true → s.serveReq r = { s with net := del s.net r }.fatalStop q.grid (some (coreOfFloe q.floe))) ∧
    (s.readsPoison q = false → s.lateRace q = false → s.serveReq r = (s.migTouch (coreOfFloe q.floe) q.ctx q.mig q.place).perform r q)) ∧
  (∀ (s : State) (r : Nat) (q : Req), look s.net r = some q →
    exec (.writeAcknowledgement r) s = .next (if q.performed then { s with net := del s.net r }.noteDone else s)) ∧
  (∀ (s : State) (r : Nat) (q : Req), look s.net r = some q → q.place.sys = false → s.aliasOf q.place = none → q.watched = false →
    (∀ ctx, s.ctxReg ctx 0x40 = 0) →
    let t := s.perform r q
    let bytes (v a : Nat) : Prop := getB t.mem a =
      if q.place.pa ≤ a ∧ a < q.place.pa + q.n then BitVec.ofNat 8 (v / 2 ^ (8 * (a - q.place.pa))) else getB s.mem a
    (q.kind = .store → (∀ a, bytes q.data a) ∧ ∃ x, look t.net r = some x ∧ x.performed = true) ∧
    (∀ op ty, q.kind = .atom op ty false → (∀ a, bytes (atomNew op ty (getN s.mem q.place.pa q.n) q.data q.cmp) a) ∧
      ∃ x, look t.net r = some x ∧ x.performed = true) ∧
    (∀ op ty, q.kind = .atom op ty true → (∀ a, bytes (atomNew op ty (getN s.mem q.place.pa q.n) q.data q.cmp) a) ∧ look t.net r = none) ∧
    (q.kind = .sc → (∀ a, if q.holds then bytes q.data a else getB t.mem a = getB s.mem a) ∧ look t.net r = none) ∧
    (q.kind = .load ∨ q.kind = .lr → t.mem = s.mem ∧ look t.net r = none) ∧
    ∀ f n, s.floe? q.floe = some f → f.fid = q.fid → q.pend = some n →
      (q.kind = .load ∨ q.kind = .lr → Said.answered t q f n (loadWords (q.signed.getD .z32) (s.homeRead q)) none) ∧
      (∀ op ty, q.kind = .atom op ty true → Said.answered t q f n (atomWords ty (getN s.mem q.place.pa q.n)) none) ∧
      (q.kind = .sc → Said.answered t q f n [] (some q.holds)) ∧
      (q.kind = .ldtag → Said.answered t q f n
        [if q.data = 1 then BitVec.zeroExtend 32 (lookD 0 s.tags (q.place.pa / 32)) else 0] none)) ∧
  ∀ (s : State) (r : Nat) (q : Req) (g : Nat), look s.net r = some q → q.kind = .stag →
    lookD 0 (s.perform r q).tags g = if g = q.place.pa / 32 then BitVec.ofNat 4 q.data else lookD 0 s.tags g

/-- Results, bank ports, streams and completions. A result is written when its window has ended and no lane is awaited, and not before (R63). A request that is the
oldest at all its banks is served, and counts down its lane of the result that awaits it (R260, R261). A load stream's lane gets the next element that passes its
checks, up to 8 ahead (R193). A completion from another core lowers PEND, or is counted as early, past 127 with a fault (R155); for a slot that is not valid or of
another block it does nothing. `dopen.w` decides a lane at its time (R355), a reservation's hold of a block that is not stopped ends after 64 cycles (R253, R371), a bin of a block that is not stopped
is ready when its timer has run out (R246), and a stalled `spawn` is tried again while its issue slot may issue (R152, R381). A bank's service moves
no byte, those having moved at issue: the model's choice (log 45). -/
def Obligations.ResultsPortsAndTimers : Prop :=
  (∀ (q : FloeId) (n : Nat) (s : State) (f : Floe) (p : Pend), s.floe? (FloeId.key q) = some f →
    f.pend.find? (fun p => p.n == n && p.ready && p.left == 0) = some p →
      exec (.resultWrite q n) s = .next ((s.writePend (FloeId.key q) f p).modFloe (FloeId.key q) fun f => { f with pend := f.pend.filter fun p => p.n ≠ n })) ∧
  (∀ (q : FloeId) (n : Nat) (s : State) (f : Floe), s.floe? (FloeId.key q) = some f → (∀ p ∈ f.pend, p.n = n → p.ready = false ∨ p.left ≠ 0) →
    exec (.resultWrite q n) s = .next s) ∧
  (∀ (l : Space) (m b : Nat) (e : Bool) (s : State) (x y : List Token) (t : Token), s.tokens = x ++ t :: y → t ∉ x → b ∈ t.banks →
    (∀ k ∈ t.banks, (∀ u ∈ x, u.at l m k e = false) ∧ t.at l m k e = true) →
      let u : State := { s with tokens := x ++ y }
      exec (.bankService l m b e) s = .next (match t.pend with
        | some n => u.arrivePend t.floe t.fid n t.lane [] none
        | none => u)) ∧
  (∀ (q : FloeId) (port lane : Nat) (s u : State) (f : Floe) (st : Stream) (vs : List (Nat × Nat)), s.floe? (FloeId.key q) = some f → look f.ports port = some st →
    st.store = false → (∃ a, (lane, a) ∈ st.lanes) → (lookD [] st.fetched lane).length < 8 → lookD 0 st.pos lane + (lookD [] st.fetched lane).length < st.count →
    let k := FloeId.key q
    let c : Ctx := ⟨s, k, f, [lane], coreOfFloe k, f.bkey k, s.grid (s.block (f.bkey k)).grid, false, []⟩
    c.elements st [(lane, lookD 0 st.pos lane + (lookD [] st.fetched lane).length)] = .ok (u, vs) → (∃ g, u.floe? k = some g ∧ g.ports = f.ports) →
      ∃ t g, exec (.streamElementArrival q port lane) s = .next t ∧ t.floe? k = some g ∧
        g.ports = put f.ports port { st with fetched := put st.fetched lane (lookD [] st.fetched lane ++ vs.map (·.2)) }) ∧
  (∀ (n : Nat) (s : State) (m : MCast), s.mcasts[n]? = some m → s.due = [] → s.grids.all (fun e => e.2.stopping.isNone) = true →
    let b := s.bar m.core m.slot
    let u : State := { s with mcasts := s.mcasts.eraseIdx n }
    (b.val = false ∨ (s.block b.owner).uid ≠ m.uid → exec (.barrierCompletionMulticast n) s = .next u) ∧
    (b.val = true → (s.block b.owner).uid = m.uid → b.pend = 0 → b.early < 127 →
      exec (.barrierCompletionMulticast n) s = .next (u.setBar m.core m.slot { b with early := b.early + 1, ahead := b.ahead ++ [m.recs] })) ∧
    (b.val = true → (s.block b.owner).uid = m.uid → b.pend = 0 → b.early = 127 →
      exec (.barrierCompletionMulticast n) s = .next ((u.addDue b.owner 0x8001 m.slot 0).settleDue 64)) ∧
    (b.val = true → (s.block b.owner).uid = m.uid → 1 < b.pend ∨ (b.pend = 1 ∧ b.arr < b.expt) →
      exec (.barrierCompletionMulticast n) s =
        .next (u.setBar m.core m.slot { b with pend := b.pend - 1, event := true, recs := b.recs ++ m.recs }))) ∧
  (∀ (q : FloeId) (lane n til : Nat) (s : State) (f : Floe) (want found), s.floe? (FloeId.key q) = some f → f.wait = .dopen want found →
    (lane, n, til) ∈ want → til ≤ s.clock (dieOf (coreOfFloe (FloeId.key q))) →
      exec (.dopenTimeout q lane) s = .next (s.setFloe (FloeId.key q) { f with
        wait := .dopen (want.filter fun w => w.1 ≠ lane) (found ++ [(lane, 3, false, none)]) })) ∧
  (∀ (q : SlotId) (s : State), ∃ t, exec (.reservationHoldExpire q) s = .next t ∧ ∀ k f, s.floe? k = some f →
    t.floe? k = some (if k / 32 = SlotId.key q ∧ (∃ a, f.hold = some a ∧ a + 64 ≤ s.clock q.die) ∧ (s.block (blockKey (SlotId.key q / 4) f.blkr)).stops = [] then { f with hold := none } else f)) ∧
  (∀ (q : SlotId) (n : Nat) (s : State) (b : Bin), n < 16 → look s.bins (16 * SlotId.key q + n) = some b → b.ready = none →
    (s.block (blockKey (SlotId.key q / 4) b.blkr)).stops = [] →
      exec (.binTimerExpire q n) s = .next (if b.opened + b.timer ≤ s.clock q.die then
        { s with bins := put s.bins (16 * SlotId.key q + n) { b with ready := some (b.opened + b.timer) } } else s)) ∧
  ∀ (q : FloeId) (s : State) (f : Floe) (o : SpawnOps), s.floe? (FloeId.key q) = some f → s.fetch (FloeId.key q) = some (.ok (.spawn o)) → f.wait = .stall →
    s.slotFree (FloeId.key q / 32) = true →
    ∃ t, exec (.spawnResume q) s = .next t ∧ exec (.spawn o) { s with cur := q } = .next t

/-- If a copy of a continuation's segment is resident on a core, the continuation names one of its entries (R11). -/
def Said.entryGood (s : State) (core : Nat) (g : Grid) (cont : Word) : Prop :=
  ∀ e, s.copyOf core g.ctx g.code (bits cont.toNat 31 12) = some e → cont.toNat % 16 = 0 ∧ bits cont.toNat 11 4 < bits (hdrOf e.2) 50 45

/-- The issue slot notes that it launches a floe in this cycle (R248). -/
def Said.launches (s : State) (q : Nat) : State :=
  { s with sched := put s.sched q { lookD ({} : Sched) s.sched q with launchAt := some (s.clock (q / 512)) } }

/-- Floe launches, demotion and exhaustion. A free floe slot takes the first candidate, at most one in a cycle (R248): a demoted floe goes on as
the same floe, a bin's threads or a starting floe's become a new floe; a crowded slot demotes the floe that has waited longest, its state into a
save (R249); with no save left the block whose floe has waited longest faults (R250). -/
def Obligations.FloeLaunchesAndDemotion : Prop :=
  (∀ (q : SlotId) (s : State) (w i : Nat) (f : Floe), s.freeFloe (SlotId.key q) = some w → s.candidate (SlotId.key q) = some (.save i f) →
    s.launchedNow (SlotId.key q) = false →
    let k := 32 * SlotId.key q + w
    let v := Said.launches s (SlotId.key q)
    exec (.floeLaunch q) s = .next ((v.restoreFloe k (SlotId.key q) i f).settleDue 64) ∧
    ((∀ cont, f.wait ≠ .seg cont) →
      ∃ g, (v.restoreFloe k (SlotId.key q) i f).floe? k = some g ∧ g.fid = f.fid ∧ g.lanes = f.lanes ∧ g.uregs = f.uregs ∧ g.wait = .none)) ∧
  (∀ (q : SlotId) (s : State) (w : Nat) (x : Starting), s.freeFloe (SlotId.key q) = some w → s.candidate (SlotId.key q) = some (.start x) →
    s.launchedNow (SlotId.key q) = false →
    let k := 32 * SlotId.key q + w
    let u : State := { Said.launches s (SlotId.key q) with starting := s.starting.filter fun e => !(e.1 == SlotId.key q && e.2 == x) }
    exec (.floeLaunch q) s = .next ((u.newFloe k x.blkr x.cont x.lanes x.recs).settleDue 64) ∧
    (Said.entryGood s (SlotId.key q / 4) (s.grid (s.block (blockKey (SlotId.key q / 4) x.blkr)).grid) x.cont →
      ∃ g, (u.newFloe k x.blkr x.cont x.lanes x.recs).floe? k = some g ∧ g.lanes = x.lanes ∧ g.blkr = x.blkr ∧ g.uregs = [])) ∧
  (∀ (q : SlotId) (s : State) (w b : Nat) (x : Bin), s.freeFloe (SlotId.key q) = some w → s.candidate (SlotId.key q) = some (.bin b x) →
    s.launchedNow (SlotId.key q) = false →
    let k := 32 * SlotId.key q + ((Said.launches s (SlotId.key q)).binSlot (SlotId.key q) x).getD w
    Said.entryGood s (SlotId.key q / 4) (s.grid (s.block (blockKey (SlotId.key q / 4) x.blkr)).grid) x.cont →
    ∃ u g, exec (.floeLaunch q) s = .next (State.settleDue 64 u) ∧ u.floe? k = some g ∧ g.lanes = x.lanes ∧ g.blkr = x.blkr ∧
      ∀ e ∈ x.lanes, (u.thread (threadKey (SlotId.key q) e.1 e.2)).st = 1) ∧
  (∀ (q : SlotId) (s : State), s.freeFloe (SlotId.key q) = none ∨ s.launchedNow (SlotId.key q) = true → exec (.floeLaunch q) s = .next s) ∧
  (∀ (q : SlotId) (s : State) (k sv : Nat) (f : Floe), s.demotable (SlotId.key q) = some (k, f) → s.freeSave (SlotId.key q) = some sv →
    (s.crowded (SlotId.key q) true = false → exec (.floeDemote q) s = .next s) ∧
    ∀ g, s.crowded (SlotId.key q) true = true → (s.commit k).2 = none → ((s.commit k).1.dropResv k).floe? k = some g →
      ∃ u x, exec (.floeDemote q) s = .next (State.settleDue 64 u) ∧ u.floe? k = none ∧ look u.saves (64 * SlotId.key q + sv) = some x ∧
        x.fid = g.fid ∧ x.lanes = g.lanes ∧ x.uregs = g.uregs ∧ x.wait = g.wait ∧
        x.demoted = some (((s.commit k).1.dropResv k).clock (dieOf (SlotId.key q / 4)))) ∧
  ∀ (q : SlotId) (s : State) (k : Nat) (f : Floe), s.crowded (SlotId.key q) false = true → s.demotable (SlotId.key q) = none →
    s.freeSave (SlotId.key q) = none →
    leastBy (fun (e : Nat × Floe) => e.2.waitSince) ((slice s.floes (32 * SlotId.key q) (32 * SlotId.key q + 32)).filter (fun e => e.2.wait ≠ .none) ++
      (slice s.saves (64 * SlotId.key q) (64 * SlotId.key q + 64)).filter fun e => !s.waitOver (SlotId.key q / 4) e.2) = some (k, f) →
      exec (.floeExhaustion q) s = .next ((s.addDue (blockKey (SlotId.key q / 4) f.blkr) 0x8006 0 0).settleDue 64)

/-! ## Events of the engines and of translation -/

/-- The matrix engine. The arbiter visits, in its order, the entries that await a pass and were issued 40 cycles ago; a visit to one whose arrays are all free grants
its pass (R218, R255). A granted pass first begins the fills that its reads need (R234); its reads served, it adds its chunk to the partial results, writes no bank
and frees its arrays (R204), but a race of its reads gives the operation up with no bank written (R290). The last pass of an operation with one participant over,
the banks get the words, the operation is done and the issuing core's slot counts the completion (R207). An operation that waits for pages or participants makes
checks 6 and 7 of R199 again, and is posted anew or its floe traps (R216). -/
def Obligations.MatrixEngine : Prop :=
  (∀ (die cl : Nat) (s : State),
    let es := ((s.tableOps die cl).filter fun e => !e.2.granted && decide (e.2.chunk < e.2.kk ∧ e.2.posted + 40 ≤ s.clock die)).foldl
      (fun l e => arbInsert (s.clock die) e l) []
    exec (.arbiterGrant die cl) s = .next (es.foldl arbVisit s)) ∧
  (∀ (s : State) (op : Nat) (o : Mma), look s.mmas op = some o →
    let cores := o.parts.map fun p => p.block / 32
    (∀ c ∈ cores, look s.arrays c = none ∧ (look s.reserved c = none ∨ look s.reserved c = some op)) →
      look (arbVisit s (op, o)).mmas op = some { o with granted := true } ∧ ∀ c ∈ cores, look (arbVisit s (op, o)).arrays c = some op) ∧
  (∀ (s : State) (op : Nat) (o : Mma), look s.mmas op = some o →
    (o.granted = false → exec (.mmaPassEnd op) s = .next s) ∧
    (∀ u, o.granted = true → s.mmaFills op o = some u → exec (.mmaPassEnd op) s = .next (u.settleDue 64)) ∧
    (o.granted = true → s.mmaFills op o = none → s.engineBusy op = false → s.latent = [] → (∀ r ∈ o.reads o.chunk, s.raceOk (s.mmaAgent o) (.pad .unit r.2.1) r.2.2 = true) →
      exec (.mmaPassEnd op) s = .next { s with
        mmas := put s.mmas op { o with granted := false, chunk := o.chunk + 1, acc := (o.parts.zip (s.mmaAcc o)).map fun e => s.chunkPart o e.1 e.2 o.chunk }
        arrays := s.arrays.filter fun e => e.2 ≠ op }) ∧
    (o.granted = true → s.mmaFills op o = none → s.engineBusy op = false → s.latent = [] → (∃ r ∈ o.reads o.chunk, s.raceOk (s.mmaAgent o) (.pad .unit r.2.1) r.2.2 = false) →
      exec (.mmaPassEnd op) s = .next ((s.mmaLost op 0x8005 0).settleDue 64) ∧ (s.mmaLost op 0x8005 0).accs = s.accs)) ∧
  (∀ (s : State) (op : Nat) (o : Mma) (p : Part) (ws : List Word), look s.mmas op = some o → o.done = false → o.waiting = false → o.granted = false →
    o.kk ≤ o.chunk → o.parts = [p] → p.block = o.block → o.acc = [ws] → (s.bar (o.block / 32) p.slot).val = true →
    (s.block (s.bar (o.block / 32) p.slot).owner).uid = o.uid → 1 < (s.bar (o.block / 32) p.slot).pend →
      ∃ u, exec (.mmaComplete op) s = .next (State.settleDue 64 u) ∧
        (∀ a, look u.accs a = match ws[a - (65536 * (o.block / 32) + 512 * p.first)]? with
          | some w => if 65536 * (o.block / 32) + 512 * p.first ≤ a then some w else look s.accs a
          | none => look s.accs a) ∧
        look u.mmas op = some { o with done := true } ∧
        (u.bar (o.block / 32) p.slot).pend = (s.bar (o.block / 32) p.slot).pend - 1) ∧
  ∀ (s : State) (op k entry : Nat) (o : Mma) (f : Floe), look s.mmas op = some o → o.waiting = true → o.pages = [] →
    (o.full = true → s.pageRoom o.die = true) →
    (∀ p ∈ o.parts, p.requeued = true → ∃ b, s.mate o.block p.p = some b ∧ (s.bar (b / 32) p.slot).val = true ∧ (s.bar (b / 32) p.slot).owner = b ∧
      0 < (s.bar (b / 32) p.slot).pend) →
    s.floeBy o.floe o.fid = some (k, f) → s.freeEntry o.die o.cluster = some entry → (s.block o.block).stops = [] →
      let lent := s.banksLent (s.partsOf o.block o.pb.toNat) (some op)
      (∀ code a, (s.paramBad k f o.block o.pb.toNat o.fw.toNat o.dim = some a ∧ code = 0x0033) ∨
          (s.paramBad k f o.block o.pb.toNat o.fw.toNat o.dim = none ∧ lent = true ∧ code = 0x0034 ∧ a = 0) →
        f.handler = [] → f.trap = none → s.handlerWaits o.grid = false →
        exec (.mmaRetry op) s = .next (((s.cancelMma op true).opTrap o.floe o.fid code a o.coord.toNat).settleDue 64)) ∧
      (s.paramBad k f o.block o.pb.toNat o.fw.toNat o.dim = none → lent = false →
        exec (.mmaRetry op) s = .next { s with mmas := put s.mmas op { o with
          waiting := false, full := false, posted := s.clock o.die, entry := entry, parts := s.partsOf o.block o.pb.toNat
          holders := s.holdersOf k f o.block o.pb.toNat, gone := [] } })

/-- The copy engine, maps and write-backs. A copy that may go on performs the elements that are left until one stops it; with none left and its bank ports done it
is complete and gone (R221, R228); their order, ascending, is the model's choice where R221 and R227 leave it open (log 65). At an absent page it is held or its block aborted (R231), at a lost permission or a race it is cancelled with an imprecise fault
(R290, R441), at poison its grid stops (R408). The oldest copy of a buffer's owner that waits claims the buffer's next slot when one is free (R238). A fill writes
its chunk and makes it valid, and does nothing for a map that is closed (R234). A write-back whose chunks are all written is complete, and an unmap then closes its
map (R235). -/
def Obligations.CopiesFillsAndWriteBacks : Prop :=
  (∀ (s : State) (op : Nat) (cp : Copy), look s.copies op = some cp → cp.runs = false → exec (.copyComplete op) s = .next s) ∧
  (∀ (s u : State) (op : Nat) (cp : Copy) (left : List Nat) (h : Option Halt), look s.copies op = some cp → cp.runs = true →
    State.copyElements cp ((List.range (cpCount cp.desc.toNat)).drop cp.next) s = (u, left, h) →
    let x : Copy := { cp with next := cpCount cp.desc.toNat - left.length, full := false }
    let v : State := { u with copies := put u.copies op x }
    (h = none → exec (.copyComplete op) s = .next ((if v.engineBusy cp.serial then v else v.copyDone op x).noteDone.settleDue 64)) ∧
    (∀ va, h = some (.ats va) → exec (.copyComplete op) s = .next ((v.askAts cp.core cp.ctx va).noteDone.settleDue 64)) ∧
    (h = some .wait → exec (.copyComplete op) s = .next (v.noteDone.settleDue 64)) ∧
    (∀ va r w, h = some (.page va r w) → exec (.copyComplete op) s = .next ((v.copyFault op x va r w).noteDone.settleDue 64)) ∧
    (∀ code a, h = some (.lost code a) → exec (.copyComplete op) s = .next ((v.copyLost op x code a).noteDone.settleDue 64)) ∧
    (h = some .poison → exec (.copyComplete op) s = .next (((v.cancelCopy op none).fatalStop cp.grid (some cp.core)).noteDone.settleDue 64))) ∧
  (∀ (s : State) (op : Nat) (cp : Copy), look (s.copyDone op cp).copies op = none) ∧
  (∀ (s : State) (c : CoreId) (n : Nat) (b : CBuf) (x y : List (Nat × Copy)) (op : Nat) (cp : Copy), look s.cbufs (16 * CoreId.key c + n) = some b →
    s.copies = x ++ (op, cp) :: y → (∀ e ∈ x, ¬(e.2.core = CoreId.key c ∧ e.2.block = b.owner ∧ e.2.uid = (s.block b.owner).uid ∧ cpCmode e.2.desc.toNat = true ∧
      cpSel e.2.desc.toNat = n ∧ e.2.claimed = none)) →
    cp.core = CoreId.key c → cpCmode cp.desc.toNat = true → cpSel cp.desc.toNat = n → cp.claimed = none → b.owner = cp.block → cp.uid = (s.block cp.block).uid →
      (b.free = 0 → exec (.copySlotClaim c n) s = .next s) ∧
      (b.free ≠ 0 → ∃ t z, exec (.copySlotClaim c n) s = .next t ∧ look t.copies op = some z ∧ z.claimed = some b.claim ∧
        look t.cbufs (16 * CoreId.key c + n) = some { b with claim := (b.claim + 1) % b.nslot, free := b.free - 1 })) ∧
  (∀ (s : State) (n leaf size : Nat) (x : Fill) (m : SMap), s.fills[n]? = some x → look s.maps x.map = some m →
    let va := wrap (m.ptr.toNat % 2 ^ 48 + x.off : Nat) 48
    let l := lvlOf m.lvl
    let ch := s.shareBase (x.map / 8) l + m.saddr + x.off
    s.xlat (coreOfFloe x.floe) x.ctx va false = .ok leaf size → (leafPlace leaf size va).sys = true ∨ s.shellUp (leafPlace leaf size va).pa = true →
      s.poisoned (leafPlace leaf size va) 256 = false →
      exec (.mapFillComplete n) s = .next (((((({ s with fills := s.fills.eraseIdx n } : State).writeLvl l ch
        (leBytes (s.readPlace (leafPlace leaf size va) 256) 256)).setTrack l ch 1).enterEngine l ch 256 none)).migTouch
          (coreOfFloe x.floe) x.ctx (leafMig leaf size va) (leafPlace leaf size va))) ∧
  (∀ (s : State) (n : Nat) (x : Fill), s.fills[n]? = some x → look s.maps x.map = none →
    exec (.mapFillComplete n) s = .next { s with fills := s.fills.eraseIdx n }) ∧
  ∀ (s u : State) (op : Nat) (w : WBack) (m : SMap), look s.wbs op = some w → w.begun = true → w.held = [] → look s.maps (8 * w.block + w.map) = some m →
    ∀ n, State.wbChunks op w m ((s.mapChunks w.block m).drop w.next) 0 s = (u, n, none) →
      let x : WBack := { w with next := w.next + n, full := false }
      let v : State := { u with wbs := put u.wbs op x }
      v.engineBusy op = false →
        exec (.writebackComplete op) s = .next ((v.wbDone op x).noteDone.settleDue 64) ∧ look (v.wbDone op x).wbs op = none ∧
        (w.unmap = true → look (v.wbDone op x).maps (8 * w.block + w.map) = none) ∧ (w.unmap = false → (v.wbDone op x).maps = u.maps)

/-- Translation, page requests and invalidation, clause by clause. A walk that reaches a leaf fills the core's TLB with it, and a present leaf then
hits (R322); a load of the core that issued with that walk still to end then goes on (R64). A group of a die's pages that is due and fits is sent under the lowest free PRG, in the order of its pages with LAST on the last, when no
die before it in the rotation has one (R332). An answer takes the pages of its group out and is given to the die's waiting work by its kind, a Response
Failure stopping page requests; it is also kept for the context's preempted save; an answer to no page changes nothing (R333). A requeued task that is
neither doomed nor held is started on its core where there is room, else changes nothing while pages or operations are out (R334). A Translation
Completion that was asked for, of a page still in host memory, goes into the TLBs with the grant it carries and lets the device's own waiting writes be
made; one that nothing asked for changes nothing; an Invalidate Request starts an invalidation of the context with its PASID, or is completed at once
where there is none (R324). An invalidation drops the leaves of its range from every TLB; with no log and no preempted save of its context in question
it ends once no access of its range is on its way, telling the floe, the host or ATS that waits for it, and otherwise waits (R323). The page request
allocation is read where log 18 places it. Which answer a preempted save keeps
(log 42), the late load (log 43) and which entry a full TLB gives up (log 44; R322 leaves it unspecified) are the model's choices. -/
def Obligations.TranslationEvents : Prop :=
  (∀ (c : CoreId) (ctx va leaf size : Nat) (w : Bool) (s : State), s.walk ctx va w = .ok leaf size →
    let t := s.tlbFill (CoreId.key c) ctx va leaf size
    let h := if w then none else s.lateAt (CoreId.key c) ctx va
    (h = none → exec (.tlbWalkComplete c ctx va w) s = .next t) ∧
    (∀ k l, h = some (k, l) → exec (.tlbWalkComplete c ctx va w) s = .next ((t.walkLate k l).settleDue 64)) ∧
    (∀ e, (s.tlbPut (CoreId.key c) e).tlb = tlbRoom (1024 + dieOf (CoreId.key c)) 16385 (tlbRoom (CoreId.key c) 512 s.tlb) ++ [(CoreId.key c, e)]) ∧
    (bits leaf 0 0 = 1 → size ≠ 0 → ((s.tlbFill (CoreId.key c) ctx va leaf size).tlbHit (CoreId.key c) ctx va (bits leaf 3 3 == 1)).isSome = true)) ∧
  (∀ (die ctx prg : Nat) (s : State), s.pkg.priStop = false → die < 8 → ctx < 64 → s.groupFits (s.dueGroup die ctx) = true → s.dieBehind die = false →
    (List.range 512).find? (fun i => !(s.fpages.filterMap fun p => if s.ctxPasid p.ctx = s.ctxPasid ctx then p.prg else none).contains i) = some prg →
      ∃ t, exec (.pageRequestGroupSend die ctx) s = .next t ∧ t.pkg.priLast = die ∧
        t.fpages = s.fpages.map (fun p => if (s.dueGroup die ctx).contains p then { p with prg := some prg } else p) ∧
        t.outbox = ((s.dueGroup die ctx).zipIdx.map fun e => Msg.pageRequest (s.ctxPasid ctx) (e.1.base / 4096) e.1.write prg
          (decide (e.2 + 1 = (s.dueGroup die ctx).length))).reverse ++ s.outbox) ∧
  (∀ (pasid : BitVec 20) (prg : Nat) (resp : PrgResp) (s : State) (p : FPage) (ps : List FPage),
    let mine (p : FPage) : Bool := p.prg == some prg && s.ctxPasid p.ctx == pasid
    s.fpages.filter mine = p :: ps →
      let ans : List PKey := (p :: ps).map fun p => (p.ctx, p.base, p.write)
      let u : State := { s with fpages := s.fpages.filter fun p => !mine p }
      exec (.prgResponse pasid prg resp) s = .next ((match resp with
        | .success => (u.pagesGood p.die ans).keepAnswer p.ctx p.die ans 0 0
        | .invalid => (u.pagesBad p.die ans 0x001B 0x8008).keepAnswer p.ctx p.die ans 0x001B 0x8008
        | .failure => ({ u with pkg := { u.pkg with priStop := true } }.pagesBad p.die ans 0x001A 0x8009).keepAnswer p.ctx p.die ans 0x001A 0x8009).noteDone.settleDue 64)) ∧
  (∀ (pasid : BitVec 20) (prg : Nat) (resp : PrgResp) (s : State), (∀ p ∈ s.fpages, p.prg ≠ some prg ∨ s.ctxPasid p.ctx ≠ pasid) →
    exec (.prgResponse pasid prg resp) s = .next s) ∧
  (∀ (n bk : Nat) (s u : State) (t : Task), s.tasks[n]? = some t → t.doomed = false → t.failed = false → t.pages = [] → t.ops = [] →
    s.mayPlace t.grid = true → s.pkg.live.getLsbD (dieOf t.core) = true → s.roomOn (s.grid t.grid) t.core = true →
    ({ s with tasks := s.tasks.eraseIdx n } : State).startBlock t.grid t.core t.index t.drift t.drf t.clusBase t.recs = some (u, bk) →
      exec (.taskReplace n) s = .next u ∧ bk / 32 = t.core) ∧
  (∀ (n : Nat) (s : State) (t : Task), s.tasks[n]? = some t → t.doomed = false → t.failed = false → t.pages ≠ [] ∨ t.ops ≠ [] →
    exec (.taskReplace n) s = .next s) ∧
  (∀ (c : CoreId) (ctx va frame size : Nat) (r w : Bool) (s : State), size ≠ 0 →
    let base := va / size * size
    let mine (q : Nat × Nat × Nat) : Bool := q.1 == CoreId.key c && q.2.1 == ctx && decide (base < 4096 * q.2.2 + 4096 ∧ 4096 * q.2.2 < base + size)
    let leaf := BitVec.ofNat 64 (2 ^ 63 + bits frame 62 8 * 256 + (if w then 8 else 0) + 2 + (if r then 1 else 0))
    (s.atsOut.any mine = true → s.walk ctx va false = .ats → exec (.atsTranslationCompletion c ctx va frame size r w) s =
      .next ((({ s with atsOut := s.atsOut.filter fun q => !mine q } : State).tlbPut (CoreId.key c) (TlbEnt.mk ctx base size leaf)).flushDev)) ∧
    (s.atsOut.any mine = false → exec (.atsTranslationCompletion c ctx va frame size r w) s = .next s)) ∧
  (∀ (pasid : BitVec 20) (va size : Nat) (s : State),
    (∀ c, (List.range 64).find? (fun c => s.ctxVal c && s.ctxPasid c == pasid) = some c → exec (.atsInvalidateRequest pasid va size) s =
      .next { s with invals := s.invals ++ [{ ctx := c, range := some (va, va + size), ats := true }] }) ∧
    ((∀ c, c < 64 → s.ctxVal c = true → s.ctxPasid c ≠ pasid) → exec (.atsInvalidateRequest pasid va size) s = .next (s.send (.invalidateCompletion pasid)))) ∧
  ∀ (n : Nat) (s : State) (i : Inval), s.invals[n]? = some i → (∀ e ∈ s.floes, s.coveredFloe i.ctx i.range e = false) → (∀ x ∈ s.saved, x.ctx ≠ i.ctx) →
    let u : State := { s with tlb := s.tlb.filter fun e => !(e.2.ctx == i.ctx && inRange i.range e.2.base e.2.size) }
    let v : State := { u with invals := s.invals.eraseIdx n }.releaseCmd i.floe
    let w : State := if i.host then v.endHostCmd 0 else v
    ((∃ e ∈ s.net, e.2.ctx = i.ctx ∧ e.2.performed = false ∧ inRange i.range e.2.va e.2.n = true) → exec (.invalidationComplete n) s = .next (u.settleDue 64)) ∧
    ((∀ e ∈ s.net, e.2.ctx = i.ctx → e.2.performed = true ∨ inRange i.range e.2.va e.2.n = false) → exec (.invalidationComplete n) s =
      .next ((if i.ats then w.send (.invalidateCompletion (w.ctxPasid i.ctx)) else w).settleDue 64))

/-- Commands of supervisor code and of the host on translation. A core's BCMD 1, 2 and 3 write the staged entry to, read into BENT0 to BENT7 and clear
V of the bounds entry that BIDX named when the command was written, and release the floe that wrote it; its TINVCMD 1 and 2 start an invalidation, of the
page that TINV named or of the whole context, that goes on holding that floe (R326); a command so performed is one the core started, and leaves the list.
The host's commands 2, 3 and 4 end with error 1 on a bad argument; otherwise 2 and 3 start an invalidation of a page or of a context that the host's
command waits for, and 4 writes the entry from 32 bytes of device memory and ends with no error (R418). Writing an entry writes its 32 bytes and no
other byte (R325). -/
def Obligations.BoundsAndInvalidationCommands : Prop :=
  (∀ (c : CoreId) (s : State) (x : Cmd) (u : State), s.takeCmd (CoreId.key c) 0x209 1 = some (x, u) →
    exec (.boundsWrite c) s = .next ((u.setBent x.ctx (x.arg 0) x.staged).releaseCmd x.floe)) ∧
  (∀ (c : CoreId) (s : State) (x : Cmd) (u : State), s.takeCmd (CoreId.key c) 0x209 2 = some (x, u) →
    ∃ v : State, exec (.boundsRead c) s = .next (v.releaseCmd x.floe) ∧ v.mem = u.mem ∧ v.floes = u.floes ∧
      ∀ i, i < 8 → v.csr (CoreId.key c) (0x201 + i) = BitVec.ofNat 32 (u.bent x.ctx (x.arg 0) / 2 ^ (32 * i))) ∧
  (∀ (c : CoreId) (s : State) (x : Cmd) (u : State), s.takeCmd (CoreId.key c) 0x209 3 = some (x, u) →
    let e := u.bent x.ctx (x.arg 0)
    exec (.boundsClear c) s = .next ((u.setBent x.ctx (x.arg 0) (e - bits e 63 63 * 2 ^ 63)).releaseCmd x.floe)) ∧
  (∀ (c : CoreId) (s : State) (x : Cmd) (u : State), s.takeCmd (CoreId.key c) 0x212 1 = some (x, u) →
    exec (.tlbInvalidatePage c) s = .next { u with invals := u.invals ++ [{
      ctx := x.ctx, range := some (u.pageRange x.ctx (x.arg 0 + x.arg 1 % 65536 * 2 ^ 32)), floe := x.floe }] }) ∧
  (∀ (c : CoreId) (s : State) (x : Cmd) (u : State), s.takeCmd (CoreId.key c) 0x212 2 = some (x, u) →
    exec (.tlbInvalidateContext c) s = .next { u with invals := u.invals ++ [{ ctx := x.ctx, range := none, floe := x.floe }] }) ∧
  (∀ (s : State) (c csr : Nat) (v : Word) (x : Cmd) (u : State), s.takeCmd c csr v = some (x, u) →
    x ∈ s.cmds ∧ x.core = c ∧ x.csr = csr ∧ x.val = v ∧ u = { s with cmds := s.cmds.erase x }) ∧
  (∀ (s : State), s.hostCmd 2 = true →
    (64 ≤ s.cmdArg 0 ∨ 2 ^ 48 ≤ s.cmdArg 1 → exec .invalidatePage s = .next (s.endHostCmd 1)) ∧
    (s.cmdArg 0 < 64 → s.cmdArg 1 < 2 ^ 48 → exec .invalidatePage s =
      .next { s with invals := s.invals ++ [{ ctx := s.cmdArg 0, range := some (s.pageRange (s.cmdArg 0) (s.cmdArg 1)), host := true }] })) ∧
  (∀ (s : State), s.hostCmd 3 = true →
    (64 ≤ s.cmdArg 0 → exec .invalidateContext s = .next (s.endHostCmd 1)) ∧
    (s.cmdArg 0 < 64 → exec .invalidateContext s = .next { s with invals := s.invals ++ [{ ctx := s.cmdArg 0, range := none, host := true }] })) ∧
  (∀ (s : State), s.hostCmd 4 = true →
    (64 ≤ s.cmdArg 0 ∨ 4096 ≤ s.cmdArg 1 ∨ s.memTop < s.cmdArg 2 + 32 → exec .writeBoundsEntry s = .next (s.endHostCmd 1)) ∧
    (s.cmdArg 0 < 64 → s.cmdArg 1 < 4096 → s.cmdArg 2 + 32 ≤ s.memTop →
      exec .writeBoundsEntry s = .next ((s.setBent (s.cmdArg 0) (s.cmdArg 1) (getN s.mem (s.cmdArg 2) 32)).endHostCmd 0))) ∧
  ∀ (s : State) (ctx i v a : Nat), let t := s.setBent ctx i v
    getB t.mem a = if s.btab ctx + 32 * (i % 4096) ≤ a ∧ a < s.btab ctx + 32 * (i % 4096) + 32 then
      BitVec.ofNat 8 (v / 2 ^ (8 * (a - (s.btab ctx + 32 * (i % 4096))))) else getB s.mem a

/-! ## Events of code, launches and debug -/

/-- The segment service and the directory's reclamation, clause by clause. A running floe that needs a segment asks its die's service, joins a request
that is out, or enters a copy that is resident by now (R344). A delivery of a key that some core waits for, with no host page to wait for and no poison
in what it reads, takes the service's result, merges the release records its links met into every waiting floe, and gives each waiting core the form or
the fault (R344, R352); with no core waiting it changes nothing. A form shipped to a core where it fits becomes a copy there, at its lines and not stale,
and every floe that waited in the middle of the segment is in it (R347). The recall command ends with error 1 on a bad argument; it drops the die's forms
and kept faults and makes every copy stale; it waits while a floe is positioned in a stale copy, and then drops those copies and ends with no error
(R348). An object that a placed launch names is not unloaded; another loses its forms, kept faults, copies and resolutions, and each resolution's
reference is released (R342, R346). The driver's records are one directory operation under the checks of `dbind`, and its status is answered (R358). A
write of RECLGET or RECLBASE takes effect and lets withheld records out (R351). -/
def Obligations.CodeAndDirectoryEvents : Prop :=
  (∀ (q : FloeId) (s : State) (f : Floe) (ctx code seg : Nat), s.floe? (FloeId.key q) = some f → s.needsSeg (FloeId.key q) f = some (ctx, code, seg) →
    (s.block (f.bkey (FloeId.key q))).stops = [] →
    let core := coreOfFloe (FloeId.key q)
    let r : SegReq := ⟨dieOf core, core, ctx, code, seg⟩
    (s.copyOf core ctx code seg = none → r ∈ s.segReqs → exec (.segmentRequest q) s = .next s) ∧
    (s.copyOf core ctx code seg = none → r ∉ s.segReqs → exec (.segmentRequest q) s = .next { s with segReqs := s.segReqs ++ [r] }) ∧
    ((s.copyOf core ctx code seg).isSome = true → exec (.segmentRequest q) s = .next ((s.tryEnter (FloeId.key q)).settleDue 64))) ∧
  (∀ (die ctx code seg : Nat) (s : State),
    let cores := (s.segReqs.filter fun r => r.die == die && r.ctx == ctx && r.code == code && r.seg == seg).map (·.core)
    (cores = [] → exec (.segmentDelivery die ctx code seg) s = .next s) ∧
    (∀ res h rs u, cores ≠ [] → s.serve die ctx code seg = (res, h, rs, u) →
      s.formKept die ctx code seg = true ∨ (s.codeWait ctx code seg = none ∧ s.codePoison ctx code seg = false) →
      let v := (cores.flatMap fun c => s.waiters c ctx code seg).foldl (fun (s : State) e => s.mergeRecs e.1 rs) u
      (∀ f, res = .error f → exec (.segmentDelivery die ctx code seg) s =
        .next ((cores.foldl (fun (s : State) c => s.svcFault c ctx code seg f h) v).settleDue 64)) ∧
      ∀ ls, res = .ok ls → exec (.segmentDelivery die ctx code seg) s =
        .next ((cores.foldl (fun (s : State) c => s.ship c ctx code seg ls) v).settleDue 64))) ∧
  (∀ (s u : State) (core ctx code seg b : Nat) (ls : List (BitVec 512)), evictFor core ls.length 1025 s = some (b, u) →
    (∀ e ∈ u.waiters core ctx code seg, ∀ cont, e.2.wait ≠ .seg cont) →
      (∃ c, look (s.ship core ctx code seg ls).segs u.nextId = some c ∧ c.lines = ls ∧ c.base = b ∧ c.core = core ∧ c.ctx = ctx ∧ c.code = code ∧
        c.seg = seg ∧ c.stale = false) ∧
      ∀ e ∈ u.waiters core ctx code seg, ∃ g, (s.ship core ctx code seg ls).floe? e.1 = some g ∧ g.copy = u.nextId) ∧
  (∀ (s : State), s.hostCmd 1 = true → 64 ≤ s.cmdArg 0 ∨ 65536 ≤ s.cmdArg 1 ∨ 2 ^ 20 ≤ s.cmdArg 2 → exec .recallSegment s = .next (s.endHostCmd 1)) ∧
  (∀ (s : State), s.hostCmd 1 = true → s.cmdArg 0 < 64 → s.cmdArg 1 < 65536 → s.cmdArg 2 < 2 ^ 20 →
    let x := s.cmdArg 0
    let y := s.cmdArg 1
    let z := s.cmdArg 2
    ((x, y, z, none) ∉ s.recalls → exec .recallSegment s = .next { s.beginRecall x y z with recalls := s.recalls ++ [(x, y, z, none)] }) ∧
    ((x, y, z, none) ∈ s.recalls → s.inStale x y z = true → exec .recallSegment s = .next s) ∧
    ((x, y, z, none) ∈ s.recalls → s.inStale x y z = false → exec .recallSegment s = .next ((s.endRecall x y z none).endHostCmd 0)) ∧
    (∀ f ∈ (s.beginRecall x y z).forms, ¬(f.ctx = x ∧ f.code = y ∧ f.seg = z)) ∧
    (∀ e ∈ (s.beginRecall x y z).segs, e.2.ctx = x ∧ e.2.code = y ∧ e.2.seg = z → e.2.stale = true) ∧
    ∀ e ∈ (s.endRecall x y z none).segs, e.2.ctx = x ∧ e.2.code = y ∧ e.2.seg = z → e.2.stale = false) ∧
  (∀ (ctx code : Nat) (s : State),
    ((∃ e ∈ s.grids, e.2.ctx = ctx ∧ e.2.code = code ∧ e.2.placed = true) → exec (.codeObjectUnload ctx code) s = .next s) ∧
    ((∀ e ∈ s.grids, ¬(e.2.ctx = ctx ∧ e.2.code = code ∧ e.2.placed = true)) → exec (.codeObjectUnload ctx code) s =
      .next (((s.links.filter fun l => l.2.1 == ctx && l.2.2.1 == code).map (·.2.2.2.2)).foldl
        (fun (s : State) e => (s.setRefs e (entRefs (s.dirEnt e) - 1)).reclaim e)
        { s with
          forms := s.forms.filter fun f => !(f.ctx == ctx && f.code == code)
          segs := s.segs.filter fun e => !(e.2.ctx == ctx && e.2.code == code)
          links := s.links.filter fun l => !(l.2.1 == ctx && l.2.2.1 == code) }))) ∧
  (∀ (ctx : Nat) (recs : List BindRec) (s : State),
    (s.bindStatus ctx (recs.map BindRec.raw) = 0 → exec (.driverDirectoryCommand ctx recs) s =
      .next ((s.bindRecs ctx none (recs.map BindRec.raw)).send (.readData 0))) ∧
    ∀ st, s.bindStatus ctx (recs.map BindRec.raw) = st → st ≠ 0 → exec (.driverDirectoryCommand ctx recs) s = .next (s.send (.readData st))) ∧
  ∀ (ctx : Nat) (v : BitVec 64) (s : State), ctx < 64 →
    exec (.reclgetWrite ctx v) s = .next ((s.setCtxReg ctx 0x18 v).drainRecl ctx) ∧
    exec (.reclbaseWrite ctx v) s = .next ((s.setCtxReg ctx 0x08 (v &&& 0xFFFFFFF00F)).drainRecl ctx)

/-- Launches and placement, clause by clause. A write to page `n` of the aperture changes nothing beyond page 63; one that is not 64 bytes, is not under the
PASID that context `n` alone binds, finds the context invalid or comes before the package is ready is discarded and counted (R295, R297); any other
is given to `acceptLaunch`. Either write wakes the package (R420). That discards and counts a record with no place in the launch store or whose STAT fails, and otherwise makes a grid of it, under
the next number, whose STATE is 0 or 5 (R298, R300). A line of a device-side launch, when no earlier line of its context is left, is discarded and counted
where the context is invalid or its PASID is bound twice; with no place it is discarded and counted and its block takes the launch-write fault 0x8007; else
it is given to `acceptLaunch` (R298, R302). Distribution of a launch that may be placed, that SER does not hold and that no earlier launch goes before
hands out one round, or places a co-resident launch together; else it changes nothing. A round outside replay, with no drift to place again, hands
`min (64 * n) left` drifts to the `n` dies with free cores, cut as `shareOut` shares them out (R303). A die's distributor places the next drift of its
range where it fits, and moves on (R303, R304); a block that starts does so on the core asked for, under a number free until then, with its place in the
launch. The end of a scrub takes it off the list (R259); with the last of its block the block's first floes wait as candidates from then (R249). -/
def Obligations.LaunchesAndPlacement : Prop :=
  (∀ (page size : Nat) (pasid : BitVec 20) (r : BitVec 512) (s : State),
    (64 ≤ page → exec (.launchRecord page pasid size r) s = .next s) ∧
    (page < 64 → size ≠ 64 ∨ s.ctxVal page = false ∨ s.ctxPasid page ≠ pasid ∨ s.pasidTwice page = true ∨ s.pkg.ready = false →
      exec (.launchRecord page pasid size r) s = .next (s.wake.dropLaunch page)) ∧
    (page < 64 → size = 64 → s.ctxVal page = true → s.ctxPasid page = pasid → s.pasidTwice page = false → s.pkg.ready = true →
      exec (.launchRecord page pasid size r) s = .next (s.wake.acceptLaunch page r))) ∧
  (∀ (ctx : Nat) (r : BitVec 512) (s : State),
    (s.hasPlace ctx = false → s.acceptLaunch ctx r = s.dropLaunch ctx) ∧
    (s.hasPlace ctx = true → s.statOk { ctx := ctx, lrec := r, order := s.nextId } = false → s.acceptLaunch ctx r = s.dropLaunch ctx) ∧
    (s.hasPlace ctx = true → s.statOk { ctx := ctx, lrec := r, order := s.nextId } = true → ∃ g, look (s.acceptLaunch ctx r).grids s.nextId = some g ∧
      g.ctx = ctx ∧ g.lrec = r ∧ (g.state = 0 ∨ g.state = 5)) ∧
    ((s.ctxReg ctx 0x48).toNat < 2 ^ 32 - 1 → (s.dropLaunch ctx).ctxReg ctx 0x48 = s.ctxReg ctx 0x48 + 1)) ∧
  (∀ (n ctx bk uid coord : Nat) (r : BitVec 512) (s : State), s.launches[n]? = some (ctx, r, bk, uid, coord) →
    (∀ x ∈ s.launches.take n, x.1 ≠ ctx) →
    let u : State := { s with launches := s.launches.eraseIdx n }
    (s.ctxVal ctx = false ∨ s.pasidTwice ctx = true → exec (.deviceSideLaunch n) s = .next (u.dropLaunch ctx)) ∧
    (s.ctxVal ctx = true → s.pasidTwice ctx = false → s.hasPlace ctx = false →
      exec (.deviceSideLaunch n) s = .next (((u.dropLaunch ctx).addDueOnce bk uid 0x8007 coord).settleDue 64)) ∧
    (s.ctxVal ctx = true → s.pasidTwice ctx = false → s.hasPlace ctx = true → exec (.deviceSideLaunch n) s = .next (u.acceptLaunch ctx r))) ∧
  (∀ (gid : Nat) (s : State),
    (s.mayPlace gid = false ∨ s.serHeld gid = true ∨ s.earlierFirst gid = true → exec (.driftDistribution gid) s = .next s) ∧
    (s.mayPlace gid = true → s.serHeld gid = false → s.earlierFirst gid = false →
      (∀ u, (s.grid gid).coRes = false → s.round gid true = some u → exec (.driftDistribution gid) s = .next u) ∧
      (∀ u, (s.grid gid).coRes = true → s.together gid = some u → exec (.driftDistribution gid) s = .next u))) ∧
  (∀ (gid : Nat) (s : State) (fs : List (Nat × Nat)), let g := s.grid gid
    g.again = [] → g.handed < g.drifts → s.replMode g.ctx ≠ 2 →
    fs = ((((List.range 8).filter fun d => g.dies.getLsbD d && s.placeable d && !g.busyDie d).map fun d => (d, s.freeCores gid d)).filter (·.2 ≠ 0)) →
    let rs := cutRanges (shareOut (min (64 * fs.length) (g.drifts - g.handed)) fs) g.handed
    rs ≠ [] → s.round gid true = some (s.modGrid gid fun x => { x with
      handed := rs.foldl (fun n r => max n r.stop) x.handed
      ranges := (x.ranges.filter fun r => decide (r.nxt < r.stop)) ++ rs })) ∧
  (∀ (gid die drift : Nat) (s u : State), s.mayPlace gid = true → (s.grid gid).coRes = false → s.placeable die = true →
    (s.grid gid).nextDrift die = some drift → s.placeDrift gid die drift = some u →
      exec (.blockPlace gid die) s = .next (u.modGrid gid fun x => x.advanceDie die drift)) ∧
  (∀ (gid core index drift drf base bk : Nat) (rs : List Nat) (s u : State), s.startBlock gid core index drift drf base rs = some (u, bk) →
    bk / 32 = core ∧ s.block? bk = none ∧ ∃ b, u.block? bk = some b ∧ b.grid = gid ∧ b.index = index ∧ b.drift = drift ∧ b.drf = drf ∧ b.clusBase = base) ∧
  ∀ (n : Nat) (s : State), (s.scrubs[n]? = none → exec (.shareScrubComplete n) s = .next s) ∧
    ∀ x, s.scrubs[n]? = some x → let t : State := { s with scrubs := s.scrubs.eraseIdx n }
      ((∃ y ∈ t.scrubs, y.2.2.2 = x.2.2.2) → exec (.shareScrubComplete n) s = .next t) ∧
      ((∀ y ∈ t.scrubs, y.2.2.2 ≠ x.2.2.2) → ∃ u, exec (.shareScrubComplete n) s = .next u ∧ u.scrubs = t.scrubs ∧
        ∀ e, look u.starting e = (look s.starting e).map fun f =>
          if blockKey (e / 4) f.blkr = x.2.2.2 then { f with since := s.clock (x.2.2.2 / 4096) } else f)

/-- The end of a grid, its stop and its preemption, clause by clause. A grid that runs, or that the host ended, and whose blocks and writes are done closes
its handles, writes TEND, which is the cycle in which the last of those came to hold, frees its ranges and die shares and takes STATE 2; one that is not done changes nothing (R301). The host ends a grid in STATE 3
or 4 once: its blocks are released as a kill releases them, its tasks and drifts dropped, and it counts as done (R298, R309); in another STATE nothing
changes. A stop or halt that is on its way reaches a core, unless it is a halt that waits for a preemption to be over (R312); each resident block of the
grid there then holds its cause (R309, R371). A victim's preemption begins, which gives cause 5 to each of its blocks; it waits for a block that is not
drained; once all are drained the context is saved (R311, R312). The host's PREEMPT begins it
likewise where the window answers and its low half is 1 (R417), and does nothing else. A saved context is
restored when its cores and shares are free and no launch of a context of higher CPRI waits for room, and waits otherwise (R311, R313). -/
def Obligations.GridEndsAndPreemption : Prop :=
  (∀ (gid : Nat) (g : Grid) (s : State), look s.grids gid = some g → s.gridDone gid = true →
    (g.state = 1 ∧ g.stopping = none) ∨ (g.retired = true ∧ (g.state = 3 ∨ g.state = 4)) →
      let t := (((s.closeHandles gid).statWrite gid 32 8 (g.doneAt.getD (s.clock s.pkg.master) % 2 ^ 64)).modGrid gid fun x => {
        x with ranges := [], again := [], dieBase := [] }).setGState gid 2
      exec (.gridEnd gid) s = .next t ∧ ∃ x, look t.grids gid = some x ∧ x.state = 2 ∧ x.dieBase = [] ∧ x.ranges = []) ∧
  (∀ (gid : Nat) (s : State), s.gridDone gid = false → exec (.gridEnd gid) s = .next s) ∧
  (∀ (gid : Nat) (g : Grid) (s : State), look s.grids gid = some g →
    (g.state ≠ 3 ∧ g.state ≠ 4 ∨ g.retired = true → exec (.gridEndByHost gid) s = .next s) ∧
    (g.state = 3 ∨ g.state = 4 → g.retired = false →
      let v := (s.blocksOf gid).foldl (fun (s : State) bk => (s.blockGone bk).releaseBlock bk .kill) s
      let u := ({ v with tasks := v.tasks.filter fun t => t.grid ≠ gid } : State).modGrid gid fun x => {
        x with retired := true, ranges := [], again := [], handed := x.drifts, done := x.blocks }
      exec (.gridEndByHost gid) s = .next (u.noteDone.settleDue 64))) ∧
  (∀ (gid : Nat) (c : CoreId) (s : State),
    ((s.grid gid).stopping = none → exec (.gridStop gid c) s = .next s) ∧
    ∀ cause st, (s.grid gid).stopping = some (cause, st) →
      (s.haltWaits gid cause = true → exec (.gridStop gid c) s = .next s) ∧
      (s.haltWaits gid cause = false → exec (.gridStop gid c) s = .next ((s.stopOnCore gid cause (CoreId.key c)).settleDue 64) ∧
        ∀ bk b, look s.blocks bk = some b → b.grid = gid → bk / 32 = CoreId.key c →
          ∃ x, look (s.stopOnCore gid cause (CoreId.key c)).blocks bk = some x ∧ cause ∈ x.stops)) ∧
  (∀ (ctx : Nat) (s : State),
    (ctx ∉ s.preempting → (∀ x ∈ s.saved, x.ctx ≠ ctx) → s.victim ctx = true → exec (.contextPreempt ctx) s = .next (s.beginPreempt ctx)) ∧
    (ctx ∉ s.preempting → (∃ x ∈ s.saved, x.ctx = ctx) ∨ s.victim ctx = false → exec (.contextPreempt ctx) s = .next s) ∧
    (ctx ∈ s.preempting → (∀ e ∈ s.blocksOfCtx ctx, s.drained e.1 = true) →
      exec (.contextPreempt ctx) s = .next ((s.finishPreempt ctx).settleDue 64) ∧ ctx ∉ (s.finishPreempt ctx).preempting ∧
      ∃ x ∈ (s.finishPreempt ctx).saved, x.ctx = ctx) ∧
    (ctx ∈ s.preempting → (∃ e ∈ s.blocksOfCtx ctx, s.drained e.1 = false) → exec (.contextPreempt ctx) s = .next s)) ∧
  (∀ (ctx : Nat) (s : State) (bk : Nat) (b : Block), look s.blocks bk = some b → (s.grid b.grid).ctx = ctx →
    ∃ x, look (s.beginPreempt ctx).blocks bk = some x ∧ 5 ∈ x.stops) ∧
  (∀ (ctx : Nat) (v : BitVec 64) (s : State),
    (v.toNat % 2 ^ 32 ≠ 1 ∨ s.windowOn = false ∨ 64 ≤ ctx ∨ ctx ∈ s.preempting ∨ (∃ x ∈ s.saved, x.ctx = ctx) → exec (.preempt ctx v) s = .next s) ∧
    (v.toNat % 2 ^ 32 = 1 → s.windowOn = true → ctx < 64 → ctx ∉ s.preempting → (∀ x ∈ s.saved, x.ctx ≠ ctx) → exec (.preempt ctx v) s = .next (s.beginPreempt ctx))) ∧
  (∀ (ctx : Nat) (s : State) (sv : Saved), s.saved.find? (·.ctx == ctx) = some sv →
    (s.roomToResume sv = false → exec (.contextResume ctx) s = .next s) ∧
    ((∃ e ∈ s.grids, s.ctxPri ctx < s.ctxPri e.2.ctx ∧ s.waitsForRoom e = true) → exec (.contextResume ctx) s = .next s) ∧
    (s.roomToResume sv = true → (∀ e ∈ s.grids, s.ctxPri ctx < s.ctxPri e.2.ctx → s.waitsForRoom e = false) →
      exec (.contextResume ctx) s = .next ((s.restoreCtx sv).settleDue 64))) ∧
  ∀ (ctx : Nat) (s : State), (∀ x ∈ s.saved, x.ctx ≠ ctx) → exec (.contextResume ctx) s = .next s

/-- Debug commands, clause by clause; each is the oldest with its value of its core or of the host's copy for that core, past those that
have begun and wait (R365). Commands 1, 2, 4, 5 and 6 whose target is no resident block of the
context they name end with error 1 (R365). A stop of a block that a command stopped already ends; another stops the block and, later, ends with STOPPED
set once the block is drained (R371). A halt of a grid or of a context begins, and ends once no such grid is on its way to a stop. A resume of a block
that no step lets go ends its own stop and, where one holds it, its grid's halt, its grid's stop or its context's halt (R365). A step ends with error 2
unless the block is stopped; else it keeps the stops aside, sets its time and lets the block go (R373), and a step whose time has passed is ended by its
timeout. A dump ends with error 2 unless the block is stopped, with error 3 on an address that is no multiple of 256, and otherwise takes its bytes,
which its end writes with NESTED as the dump says (R374, R376). A recall makes its move and ends with it. A remote write or read ends with error 3 outside
the registers it may reach, and else writes or reads the other core's register. Ending a command takes it off the list, clears BUSY and writes ERR. A
slot whose sampling is off, or whose next period has not passed, takes no sample; else it counts one for that period and, where a thread slot is found
and its context's trace ring is set, writes its record (R363). -/
def Obligations.DebugCommands : Prop :=
  (∀ (c : CoreId) (s : State) (v : Word) (x : Cmd), s.dcmd c v = some x → s.target x = none → x.begun = false →
    (v = 1 → exec (.stopBlock c) s = .next (s.endDcmd x 1 0)) ∧ (v = 2 → exec (.haltGridCommand c) s = .next (s.endDcmd x 1 0)) ∧
    (v = 4 → exec (.resume c) s = .next (s.endDcmd x 1 0)) ∧ (v = 5 → exec (.step c) s = .next (s.endDcmd x 1 0)) ∧
    (v = 6 → exec (.dump c) s = .next (s.endDcmd x 1 0))) ∧
  (∀ (c : CoreId) (s : State) (x : Cmd) (b : Block), s.dcmd c 1 = some x → x.begun = false → s.target x = some b →
    (1 ∈ b.stops → exec (.stopBlock c) s = .next (s.endDcmd x 0 0)) ∧
    (1 ∉ b.stops → exec (.stopBlock c) s = .next ((((s.endStep x.tblk false).stopBlk x.tblk 1).beginDcmd x b.uid).settleDue 64))) ∧
  (∀ (c : CoreId) (s : State) (x : Cmd), s.dcmd c 1 = some x → x.begun = true → (s.block x.tblk).uid % 2 ^ 32 = x.arg 4 → 1 ∈ (s.block x.tblk).stops →
    (s.quiet x.tblk = false → exec (.stopBlock c) s = .next s) ∧
    (s.quiet x.tblk = true → exec (.stopBlock c) s = .next ((s.modBlock x.tblk fun b => { b with stopper := some x.core }).endDcmd x 0 0x2))) ∧
  (∀ (c : CoreId) (s : State) (x : Cmd), s.dcmd c 2 = some x →
    (∀ b, x.begun = false → s.target x = some b →
      exec (.haltGridCommand c) s = .next (((s.haltGrid b.grid none).beginDcmd x b.grid).settleDue 64)) ∧
    (x.begun = true → exec (.haltGridCommand c) s = .next (if (s.grid (x.arg 4)).stopping.isNone then s.endDcmd x 0 0 else s))) ∧
  (∀ (c : CoreId) (s : State) (x : Cmd), s.dcmd c 3 = some x →
    (x.begun = false → exec (.haltContext c) s = .next (((s.haltContext x.tctx none).beginDcmd x 0).settleDue 64)) ∧
    (x.begun = true → (∀ e ∈ s.grids, e.2.ctx = x.tctx → e.2.stopping = none) → exec (.haltContext c) s = .next (s.endDcmd x 0 0)) ∧
    (x.begun = true → (∃ e ∈ s.grids, e.2.ctx = x.tctx ∧ e.2.stopping ≠ none) → exec (.haltContext c) s = .next s)) ∧
  (∀ (c : CoreId) (s : State) (x : Cmd) (b : Block), s.dcmd c 4 = some x → s.target x = some b → b.stepping = none →
    let ended (u : State) : Prop := exec (.resume c) s = .next (((u.unstop x.tblk [1]).endDcmd x 0 0).settleDue 64)
    ((∀ n ∈ b.stops, n = 1 ∨ n = 5) → ended s) ∧
    ((∀ n ∈ b.stops, n = 1 ∨ n = 2 ∨ n = 5) → 2 ∈ b.stops → ended (s.resumeGrid b.grid 2)) ∧
    ((∀ n ∈ b.stops, n = 1 ∨ n = 4 ∨ n = 5) → 4 ∈ b.stops → ended (s.resumeGrid b.grid 4)) ∧
    ((∀ n ∈ b.stops, n = 1 ∨ n = 3 ∨ n = 5) → 3 ∈ b.stops →
      ended (((s.grids.filter fun e => e.2.ctx == x.tctx && e.2.cause == 3).map (·.1)).foldl (fun (s : State) g => s.resumeGrid g 3) s))) ∧
  (∀ (c : CoreId) (s : State) (x : Cmd) (b : Block), s.dcmd c 5 = some x → s.target x = some b →
    let y : Block := { b with
      stepping := some (x.core, s.clock (dieOf x.tcore) + x.lim), heldStops := b.stops.filter (· ≠ 5), stops := b.stops.filter (· = 5) }
    let v : State := { s with cmds := s.cmds.erase x, blocks := put s.blocks x.tblk y }
    (s.isStopped x.tblk = false → exec (.step c) s = .next (s.endDcmd x 2 0)) ∧
    (s.isStopped x.tblk = true → 5 ∈ b.stops → exec (.step c) s = .next (v.settleDue 64)) ∧
    (s.isStopped x.tblk = true → 5 ∉ b.stops → exec (.step c) s = .next ((v.goAgain x.tblk).settleDue 64))) ∧
  (∀ (c : CoreId) (s : State) (bk : Nat) (b : Block), s.blocks.find? (fun e => match e.2.stepping with
      | some (i, t) => (i == CoreId.key c || i == 1024 + CoreId.key c) && decide (t ≤ s.clock (dieOf (e.1 / 32)))
      | none => false) = some (bk, b) → exec (.stepTimeout c) s = .next ((s.endStep bk true).settleDue 64)) ∧
  (∀ (c : CoreId) (s : State) (x : Cmd) (b : Block), s.dcmd c 6 = some x → s.target x = some b →
    let addr := x.arg 2 * 2 ^ 32 + x.arg 1
    (s.isStopped x.tblk = false → exec (.dump c) s = .next (s.endDcmd x 2 0)) ∧
    (s.isStopped x.tblk = true → addr % 256 ≠ 0 → exec (.dump c) s = .next (s.endDcmd x 3 0)) ∧
    (s.isStopped x.tblk = true → addr % 256 = 0 → (∀ d ∈ s.dumps, d.block ≠ x.tblk) → addr + (s.dumpOf x.tblk x.lim).1.length ≤ s.memTop →
      exec (.dump c) s = .next { s with
        cmds := s.cmds.erase x
        dumps := s.dumps ++ [⟨x.core, x.tblk, addr, (s.dumpOf x.tblk x.lim).1, (s.dumpOf x.tblk x.lim).2⟩] })) ∧
  (∀ (c : CoreId) (s : State) (d : Dump), s.dumps.find? (fun d => d.issuer == CoreId.key c || d.issuer == 1024 + CoreId.key c) = some d →
    exec (.dumpEnd c) s = .next ((State.writePlace { s with dumps := s.dumps.erase d } ⟨d.addr, false⟩ d.bytes).dstat d.issuer (if d.nested then 0x10 else 0) 0xFF01)) ∧
  (∀ (c : CoreId) (s : State) (x : Cmd), s.dcmd c 7 = some x →
    let r := s.recallMove x.tctx (x.arg 2 % 2 ^ 16) (x.arg 1 % 2 ^ 20) (some x.core)
    exec (.debugRecall c) s = .next (if r.2 then r.1.endDcmd x 0 0 else r.1)) ∧
  (∀ (c : CoreId) (s : State) (x : Cmd), (s.dcmd c 8 = some x →
      (x.remoteOk = false → exec (.remoteWrite c) s = .next (s.endDcmd x 3 0)) ∧
      (x.remoteOk = true → exec (.remoteWrite c) s = .next ((s.writeCsr x.tcore x.ctx (x.arg 1 % 4096) (x.args.getD 2 0) none).endDcmd x 0 0))) ∧
    (s.dcmd c 9 = some x →
      (x.remoteOk = false → exec (.remoteRead c) s = .next (s.endDcmd x 3 0)) ∧
      (x.remoteOk = true → exec (.remoteRead c) s = .next ((s.setCsr x.core 0x304 (s.coreCsr x.tcore x.ctx (x.arg 1 % 4096))).endDcmd x 0 0)))) ∧
  (∀ (s : State) (x : Cmd) (err : Nat) (set : Word), err < 256 → set &&& 0xFF01 = 0 →
    let t := s.endDcmd x err set
    t.cmds = s.cmds.erase x ∧ (t.csr x.core 0x302).getLsbD 0 = false ∧ (t.csr x.core 0x302).extractLsb' 8 8 = BitVec.ofNat 8 err) ∧
  ∀ (q : SlotId) (s : State),
    let k := SlotId.key q
    let sc := lookD (default : Sched) s.sched k
    let lane := sc.samples % 32
    let slot := ((List.range 32).map fun i => (lookD 31 sc.lastTs lane + 1 + i) % 32).find? fun w => (look s.threads (threadKey k lane w)).isSome
    let sc' : Sched := { sc with samples := sc.samples + 1, sampled := s.sampleAt k }
    (s.samplePeriod k = 0 ∨ s.clock (k / 512) < s.sampleAt k → exec (.sample q) s = .next s) ∧
    (s.samplePeriod k ≠ 0 → s.sampleAt k ≤ s.clock (k / 512) →
      (slot = none → exec (.sample q) s = .next { s with sched := put s.sched k sc' }) ∧
      ∀ w, slot = some w →
        let t := threadKey k lane w
        let th := s.thread t
        let ctx := if th.st = 0 then th.exitCtx else (s.grid (s.block (blockKey (k / 4) th.blkr)).grid).ctx
        let u : State := { s with sched := put s.sched k { sc' with lastTs := put sc.lastTs lane w } }
        (u.ringSet ctx = false ∨ (th.st = 0 ∧ th.exitAt = 0) → exec (.sample q) s = .next u) ∧
        (u.ringSet ctx = true → th.st ≠ 0 ∨ th.exitAt ≠ 0 →
          exec (.sample q) s = .next (u.traceRec ctx (sampleBits t (u.view t th (s.sampleAt k)) th ctx (s.sampleAt k)))))

/-! ## Events of errors, the host's window, links, power and attestation -/

/-- The error log and memory errors, clause by clause. The log's commands 1, 2 and 3 read into ELD0 to ELD7 the entry that ELSEL named when the command was
written, clear that entry and no other, and read its array's overflow counter (R409, R411); a write of EICTL with ARM arms an injection (R412); each such
command was started by the core or by the host for its die, and leaves the list. An error found in an array is logged, as the injection that stored it
says where there is one, and acts as an uncorrectable error where it is one (R408, R412). Logging an error that no entry of its array counts takes the
lowest free entry (R410; which of the free entries is the model's choice, log 60). An uncorrectable error stops the grid that owns its word; in an array
that grids own, a word that none owns is scrubbed (R406); in memory or in its tags it poisons the granule (R408); in the segment store a fresh copy is
discarded, and in the TLBs, array 0x7, the entry, and neither stops a grid (R406). Syndromes and the addresses in the TLBs are the model's (log 11). A patrol read of a channel notes its
time, takes the channel's corrected injections away and leaves memory as it is (R407). -/
def Obligations.ErrorEvents : Prop :=
  (∀ (c : CoreId) (s u : State) (x : Cmd), s.errCmd c 0x381 (· == 1) = some (x, u) → ∃ v : State, exec (.errorLogRead c) s = .next (v.releaseCmd x.floe) ∧
    (∀ n, n < 8 → v.csr x.core (0x382 + n) = (lookD 0 s.errlog x.elSel).extractLsb' (32 * n) 32) ∧ v.cmds = s.cmds.erase x ∧ v.errlog = s.errlog) ∧
  (∀ (c : CoreId) (s u : State) (x : Cmd), s.errCmd c 0x381 (· == 2) = some (x, u) →
    exec (.errorLogClear c) s = .next (State.releaseCmd { s with cmds := s.cmds.erase x, errlog := del s.errlog x.elSel } x.floe) ∧
    look (del s.errlog x.elSel) x.elSel = none ∧ ∀ k, k ≠ x.elSel → look (del s.errlog x.elSel) k = look s.errlog k) ∧
  (∀ (c : CoreId) (s u : State) (x : Cmd), s.errCmd c 0x381 (· == 3) = some (x, u) → exec (.errorLogOverflowRead c) s = .next
    ((State.setCsr { s with cmds := s.cmds.erase x } x.core 0x382 (BitVec.ofNat 32 (lookD 0 s.errOver (16 * x.die + bits (x.arg 0) 3 0)))).releaseCmd x.floe)) ∧
  (∀ (c : CoreId) (s u : State) (x : Cmd), s.errCmd c 0x38D (fun v => v.getLsbD 0) = some (x, u) → exec (.injectionArm c) s = .next
    ((State.setCsr { s with cmds := s.cmds.erase x } x.core 0x38D (x.val &&& csrMask 0x38D)).releaseCmd x.floe)) ∧
  (∀ (s : State) (c : CoreId) (csr : Nat) (p : Word → Bool) (x : Cmd) (u : State), s.errCmd c csr p = some (x, u) →
    x ∈ s.cmds ∧ x.csr = csr ∧ p x.val = true ∧ (x.core = CoreId.key c ∨ x.core = 1024 + c.die) ∧ u = { s with cmds := s.cmds.erase x }) ∧
  (∀ (die core : Nat) (a : BitVec 4) (addr : BitVec 64) (synd : BitVec 32) (ue : Bool) (s : State), a.toNat < 12 → die < 8 → core < Config.coresOf die →
    let e (sy : Nat) (inj u : Bool) : ErrRec := {
      die := die, core := if a.toNat ≤ 7 ∧ a.toNat ≠ 2 ∧ a.toNat ≠ 3 then core % 128 else 0, array := a.toNat
      addr := if a.toNat = 8 ∨ a.toNat = 9 then addr.toNat / 32 * 32 else addr.toNat, synd := sy
      ctx := s.ctxOwner a.toNat (errPlace a.toNat die core) addr.toNat, inj := inj, ue := u }
    let acts (e : ErrRec) : Prop := exec (.eccError die core a addr synd ue) s =
      .next ((if e.ue then (s.logErr e).uncorrected e else s.logErr e).settleDue 64)
    let here (r : Arm) : Bool := r.array == a.toNat && r.core == errPlace a.toNat die core && wordMeets a.toNat r.addr addr.toNat 1
    (s.latent.find? here = none → acts (e synd.toNat false (ue && a != 11))) ∧
    ∀ r, s.latent.find? here = some r → acts (e (Config.syndrome r.bit).toNat true (r.mode != 0))) ∧
  (∀ (s : State) (e : ErrRec) (k : Nat), (∀ x ∈ s.elEntries e.die e.array, ¬(bits x.2 191 128 = e.addr % 2 ^ 64 ∧ bits x.2 95 64 = e.synd % 2 ^ 32)) →
    ((List.range 64).map (elKey e.die e.array)).find? (fun k => (look s.errlog k).isNone) = some k →
      s.logErr e = { s with errlog := put s.errlog k (e.entry (s.clock e.die) 1) }) ∧
  (∀ (s : State) (e : ErrRec), let place := errPlace e.array e.die e.core
    (∀ g, e.array ≤ 4 ∨ e.array = 6 → s.ownerOf e.array place e.addr = some g → s.uncorrected e = s.fatalStop g none) ∧
    (e.array ≤ 4 ∨ e.array = 6 → s.ownerOf e.array place e.addr = none → s.uncorrected e = s.scrubWord e.array place e.addr) ∧
    (e.array = 8 ∨ e.array = 9 → s.uncorrected e = { s with poison := put s.poison (e.addr / 32) true }) ∧
    (e.array = 5 → let t := s.clearWord 5 place e.addr
      (t.copyAt place e.addr = none → s.uncorrected e = t) ∧
      ∀ i y, t.copyAt place e.addr = some (i, y) → s.uncorrected e = if y.stale then t else { t with segs := del t.segs i }) ∧
    (e.array = 7 → let t := s.clearWord 7 place e.addr
      (t.tlbAt place e.addr = none → s.uncorrected e = t) ∧
      ∀ y, t.tlbAt place e.addr = some y → s.uncorrected e = { t with tlb := t.tlb.erase y })) ∧
  (∀ (s : State) (array place a g : Nat), array < 5 ∨ array = 6 ∨ array = 8 ∨ array = 9 ∨ array = 11 → s.ownerOf array place a = some g →
    s.ctxOwner array place a = some (s.grid g).ctx) ∧
  ∀ (ch : Nat) (s : State), ch < 512 → ∃ t, exec (.patrolScrub ch) s = .next t ∧ look t.patrol ch = some (s.clock (ch / 64)) ∧ t.mem = s.mem ∧
    t.latent = s.latent.filter fun r => !((r.array == 8 || r.array == 9) && s.homeChan r.addr == ch && r.mode == 0)

/-- The host's registers and the outside ports, clause by clause: each form completes from every state. HMAP takes a nonzero value, memory then reading as
zero, and ignores 0 (R414); it wakes nothing (R420). FWSVN takes the value that the images which ran carry, and no other (R423). LTCTL marks the next flit
of a link direction, and with bit 0 clear marks none (R417). A register that does not answer changes nothing, read or written. One that answers is read
whole by 8 bytes, by halves by 4, and as zero otherwise, TRDROP and LDROP clearing by a read of 8 bytes (R362, R417); it is written whole by 8 bytes and by
halves by 4, and a narrower write is ignored (R417). While the window answers, BAR2 within its size, the pod and the network act at physical memory (R397,
R398, R416); a send joins the messages of its queue pair, whose setup is outside (log 67). Such an access reads the bytes there, all ones where the hash
maps nothing, or poison; a write replaces them and is answered; the pod's atomics answer the old value and write the new; an access to a lost shell never
completes (R404). Configuration requests are retried until the collective firmware is verified; then a read answers the dword there, and a write changes
the bits of it that the capabilities of R415 let it change (their layouts and offsets are the model's, log 68). -/
def Obligations.WindowRegistersAndPorts : Prop :=
  (∀ (v : BitVec 64) (s : State), exec (.hmapWrite v) s = .next (if s.windowOn then s.setHmap (v.truncate 8) else s)) ∧
  (∀ (s : State) (v : BitVec 8), s.setHmap 0 = s ∧ (v ≠ 0 → (s.setHmap v).pkg.hmap = v ∧ ∀ a, getB (s.setHmap v).mem a = 0)) ∧
  (∀ (v : BitVec 64) (s : State), exec (.fwsvnWrite v) s =
    .next (if (s.windowOn = true ∨ s.pkg.recovery = true ∨ s.pkg.alarm = true) ∧ 1 ≤ s.pkg.boot ∧ v = s.pkg.ranSvn then { s with pkg := { s.pkg with svn := v } } else s)) ∧
  (∀ (die dst : Nat) (v : BitVec 64) (s : State), exec (.linkTestCorrupt die dst v) s = .next (if s.windowOn then s.wake.corruptLink die dst v else s) ∧
    (v.getLsbD 0 = true → die < 8 → dst ≤ 8 → die ≠ dst → ((s.wake.corruptLink die dst v).link die dst).corrupt = true) ∧
    (v.getLsbD 0 = false → (s.wake.corruptLink die dst v).linkDirs = s.linkDirs)) ∧
  (∀ (off size : Nat) (s : State), ∃ t, exec (.rcRegisterRead off size) s = .next t ∧ t.mem = s.mem ∧ t.floes = s.floes ∧
    (s.answers (wreg (off / 8 * 8)) = false → t = s) ∧
    (s.answers (wreg (off / 8 * 8)) = true →
      t.outbox = .readData (if size = 8 ∧ off % 8 = 0 then (s.readReg (wreg (off / 8 * 8))).toNat
        else if size = 4 ∧ off % 8 = 0 then (s.readReg (wreg (off / 8 * 8))).toNat % 2 ^ 32
        else if size = 4 ∧ off % 8 = 4 then (s.readReg (wreg (off / 8 * 8))).toNat / 2 ^ 32 else 0) :: s.outbox ∧
      (∀ c o, size = 8 → off % 8 = 0 → wreg (off / 8 * 8) = .ctx c o → o = 0x38 ∨ o = 0x48 → t.ctxReg c o = 0))) ∧
  (∀ (off size : Nat) (v : BitVec 64) (s : State), exec (.registerWrite off size v) s = .next (
    if s.answers (wreg (off / 8 * 8)) = false then s
    else if size = 8 ∧ off % 8 = 0 then s.writeReg (wreg (off / 8 * 8)) v (BitVec.allOnes 64)
    else if size = 4 ∧ off % 8 = 0 then s.writeReg (wreg (off / 8 * 8)) (v &&& 0xFFFFFFFF) 0xFFFFFFFF
    else if size = 4 ∧ off % 8 = 4 then s.writeReg (wreg (off / 8 * 8)) (v <<< 32) 0xFFFFFFFF00000000 else s)) ∧
  (∀ (off : Nat) (op : ExtOp) (s : State), exec (.bar2Access off op) s = .next (
    if s.windowOn = true ∧ off < s.bar2Size then (if s.pkg.pst = 3 then s.wake else s).outside (s.memwBase + off) op false none else s)) ∧
  (∀ (addr : Nat) (op : ExtOp) (s : State), exec (.ualinkRequest addr op) s = .next (
    if s.windowOn then s.outside addr op true (some .writeResponse) else s)) ∧
  (∀ (port qp addr : Nat) (op : ExtOp) (s : State), let u : State := { s with pkg := { s.pkg with qps := match op with
      | .send d => put s.pkg.qps qp (lookD [] s.pkg.qps qp ++ [d])
      | _ => s.pkg.qps } }
    exec (.roceRequest ⟨port, qp⟩ addr op) s = .next (if s.windowOn = true ∧ port < 8 then u.outside addr op false (some (.qpAck qp)) else s)) ∧
  (∀ (s : State) (pa n : Nat) (d : List Byte) (b : Bool) (k : Option Msg) (m : Msg) (aop : BitVec 4) (aty : BitVec 3) (v cmp : BitVec 64),
    (s.memTop < pa + n → s.outside pa (.read n) b k = s.send (.readData (2 ^ (8 * n) - 1))) ∧
    (pa + n ≤ s.memTop → s.shellsUp pa n = false → s.outside pa (.read n) b k = s) ∧
    (pa + n ≤ s.memTop → s.shellsUp pa n = true → s.poisoned ⟨pa, false⟩ n = true → s.outside pa (.read n) b k = s.send .poisoned) ∧
    (pa + n ≤ s.memTop → s.shellsUp pa n = true → s.poisoned ⟨pa, false⟩ n = false → s.outside pa (.read n) b k = s.send (.readData (getN s.mem pa n))) ∧
    (s.memTop < pa + d.length → s.outside pa (.write d) b (some m) = s.send m) ∧
    (pa + d.length ≤ s.memTop → s.shellsUp pa d.length = false → s.outside pa (.write d) b k = s) ∧
    (pa + d.length ≤ s.memTop → s.shellsUp pa d.length = true → (s.outside pa (.write d) b (some m)).outbox = m :: s.outbox ∧
      (s.outside pa (.write d) b none).outbox = s.outbox ∧
      ∀ a, getB (s.outside pa (.write d) b k).mem a = if pa ≤ a ∧ a < pa + d.length then d.getD (a - pa) 0 else getB s.mem a) ∧
    s.outside pa (.send d) b (some m) = s.send m ∧ s.outside pa (.atomic aop aty v cmp) false k = s ∧
    (let w := if aty.getLsbD 1 then 8 else 4
     pa + w ≤ s.memTop → s.shellsUp pa w = true → s.poisoned ⟨pa, false⟩ w = false →
      (s.outside pa (.atomic aop aty v cmp) true k).outbox = .readData (getN s.mem pa w) :: s.outbox ∧
      getN (s.outside pa (.atomic aop aty v cmp) true k).mem pa w =
        atomNew aop.toNat aty.toNat (getN s.mem pa w) v.toNat cmp.toNat % 2 ^ (8 * w))) ∧
  ∀ (w : Bool) (off : Nat) (v : BitVec 32) (s : State),
    (s.pkg.boot < 2 → s.pkg.recovery = false → s.pkg.alarm = false → exec (.configurationRequest w off v) s = .next (s.send .retry)) ∧
    (2 ≤ s.pkg.boot ∨ s.pkg.recovery = true ∨ s.pkg.alarm = true →
      exec (.configurationRequest false off v) s = .next (s.send (.readData (s.readCfg (off / 4 * 4)).toNat)) ∧
      ∃ t, exec (.configurationRequest true off v) s = .next t ∧ t.mem = s.mem ∧
        (∀ k, k ≠ off / 4 → look t.pkg.cfg k = look s.pkg.cfg k) ∧
        ((t.cfgReg (off / 4 * 4) ^^^ s.cfgReg (off / 4 * 4)) &&& ~~~(s.cfgMask (off / 4 * 4)) = 0) ∧
        (off / 4 * 4 ≠ rbarBase + 8 → (t.cfgReg (off / 4 * 4) ^^^ v) &&& s.cfgMask (off / 4 * 4) = 0))

/-- The host's longer commands and the collective engine, clause by clause. A link schedule ends with error 1 on a bad argument, with error 3 when its tables
break the rules, and is otherwise loaded (R393; that one table is zero is log 49). A checkpoint or a restore of a range beyond memory ends with error 1; else it takes one piece of at most
64 KiB at a time, in order, and ends after the last: a checkpoint sends the piece as a record, its poisoned granules named; a restore writes the parts
of the records on its queue pair that lie in the piece, the newest last, and poisons the granules they name (R413; the layout of the list of ranges is the
model's, log 19); the ranges go in ascending address. An access to a lost shell does not complete (R404). A firmware image ends with error 1 on a bad argument, with error 3 when it fails its checks, and is otherwise stored (R418, R423). A collective
record that is not 64 bytes or holds a reserved value is dropped and counted; another is held as an operation, which ends with each element combined, the own
buffer first and then the contributions in the order given, and the completion word written (R396, R417; R396 fixes no order of combining: this one is the
model's, logs 46 and 66). -/
def Obligations.HostCommandsAndCollectives : Prop :=
  (∀ (s : State), s.hostCmd 5 = true →
    (64 ≤ s.cmdArg 0 ∨ s.cmdArg 1 = 0 ∨ 64 ≤ s.cmdArg 1 ∨ s.memTop < s.cmdArg 2 + 1152 → exec .loadLinkSchedule s = .next (s.endHostCmd 1)) ∧
    (s.cmdArg 0 < 64 → s.cmdArg 1 ≠ 0 → s.cmdArg 1 < 64 → s.cmdArg 2 + 1152 ≤ s.memTop →
      let im := getBs s.mem (s.cmdArg 2) 1152
      (s.shellsUp (s.cmdArg 2) 1152 = false → exec .loadLinkSchedule s = .next s) ∧
      (s.shellsUp (s.cmdArg 2) 1152 = true → imageTablesOk im = false → exec .loadLinkSchedule s = .next (s.endHostCmd 3)) ∧
      (s.shellsUp (s.cmdArg 2) 1152 = true → imageTablesOk im = true → exec .loadLinkSchedule s =
        .next (State.endHostCmd { s with schedules := put s.schedules (64 * s.cmdArg 0 + s.cmdArg 1) im } 0)))) ∧
  (∀ (op : Nat) (s : State), op = 6 ∨ op = 7 → s.hostCmd op = true →
    let i : Instr := if op = 6 then .checkpoint else .restore
    ((∃ r ∈ s.ckptRanges, s.memTop < r.1 + r.2) → exec i s = .next (State.endHostCmd { s with ckpt := none } 1)) ∧
    ((∀ r ∈ s.ckptRanges, r.1 + r.2 ≤ s.memTop) → ∀ j n, s.ckpt.getD (0, 0) = (j, n) →
      (pieceOf s.ckptRanges j n = none → j + 1 < s.ckptRanges.length → exec i s = .next { s with ckpt := some (j + 1, 0) }) ∧
      (pieceOf s.ckptRanges j n = none → s.ckptRanges.length ≤ j + 1 → exec i s = .next (State.endHostCmd { s with ckpt := none } 0)) ∧
      ∀ a len, pieceOf s.ckptRanges j n = some (a, len) → len ≤ 65536 ∧ (s.shellsUp a len = false → exec i s = .next s) ∧
        (s.shellsUp a len = true → ∃ t, exec i s = .next t ∧ t.ckpt = some (j, n + 1) ∧
          (op = 6 → t.mem = s.mem ∧ ∃ bad, t.outbox = .record (s.cmdArg 2) a s.pkg.hmap.toNat bad (crc32c (getBs s.mem a len)) (getBs s.mem a len) :: s.outbox ∧
            ∀ g, g ∈ bad ↔ g < (len + 31) / 32 ∧ (look s.poison (a / 32 + g)).isSome = true) ∧
          (op = 7 → t = (s.tierRecords (s.cmdArg 2)).foldl (fun s r => s.restoreFrom a len r) { s with ckpt := some (j, n + 1) })))) ∧
  (∀ (s : State), s.ckptRanges.Pairwise fun x y => x.1 ≤ y.1) ∧
  (∀ (s : State) (qp pa : Nat) (bad : List Nat) (data : List Byte), (pa, bad, data) ∈ s.tierRecords qp ↔ ∃ h c, Msg.record qp pa h bad c data ∈ s.outbox) ∧
  (∀ (s : State) (a n pa : Nat) (bad : List Nat) (data : List Byte),
    (∀ b, getB (s.restoreFrom a n (pa, bad, data)).mem b =
      if a ≤ b ∧ b < a + n ∧ pa ≤ b ∧ b < pa + data.length then data.getD (b - pa) 0 else getB s.mem b) ∧
    ∀ g ∈ bad, max a pa < 32 * (pa / 32 + g) + 32 → 32 * (pa / 32 + g) < min (a + n) (pa + data.length) →
      (look (s.restoreFrom a n (pa, bad, data)).poison (pa / 32 + g)).isSome = true) ∧
  (∀ (im : List (BitVec 8)) (s : State), s.pkg.cmdOp = some 9 →
    (16 * 1048576 < s.cmdArg 1 ∨ im.length ≠ s.cmdArg 1 ∨ s.cmdArg 2 < 2 ∨ 5 < s.cmdArg 2 → exec (.loadFirmwareImage im) s = .next (s.endHostCmd 1)) ∧
    (s.cmdArg 1 ≤ 16 * 1048576 → im.length = s.cmdArg 1 → 2 ≤ s.cmdArg 2 → s.cmdArg 2 ≤ 5 →
      (s.imageOk im = false → exec (.loadFirmwareImage im) s = .next (s.endHostCmd 3)) ∧
      (s.imageOk im = true → exec (.loadFirmwareImage im) s =
        .next (State.endHostCmd { s with pkg := { s.pkg with fw := put s.pkg.fw (s.cmdArg 2) im } } 0)))) ∧
  (∀ (page size : Nat) (r : BitVec 512) (s : State), page < 64 → s.windowOn = true →
    (size ≠ 64 ∨ collOf page r.toNat = none → exec (.collectiveCommand page size r) s = .next (s.dropLaunch page)) ∧
    ∀ c, size = 64 → collOf page r.toNat = some c → exec (.collectiveCommand page size r) s =
      .next { s.wake.newId.2 with colls := put s.wake.newId.2.colls s.nextId c } ∧ look (put s.wake.newId.2.colls s.nextId c) s.nextId = some c) ∧
  ∀ (op : Nat) (cs : List (List (BitVec 32))) (c : Coll) (s : State), look s.colls op = some c → (∀ l ∈ cs, l.length = c.count) →
    let e := if c.fmt = 2 then 2 else 4
    s.shellsUp c.src (e * c.count) = true → s.shellsUp c.dst (e * c.count) = true → s.shellsUp c.comp 4 = true →
    let out (i : Nat) : Nat := cs.foldl (fun v l => c.combine v ((l.getD i 0).toNat % 2 ^ (8 * e))) (getN s.mem (c.src + e * i) e)
    ∃ t, exec (.collectiveOperationEnd op cs) s = .next t ∧ look t.colls op = none ∧ getN t.mem c.comp 4 = 1 ∧
      ∀ i, i < c.count → c.dst + e * c.count ≤ c.comp ∨ c.comp + 4 ≤ c.dst → getN t.mem (c.dst + e * i) e = out i % 2 ^ (8 * e)

/-- Links, heartbeats and fences, clause by clause; their times are counted on the package's own clock (log 2). A flit that fails its check is asked for
again, and a direction that has replayed more than 64 times in the last millisecond is retired (R392). A die takes the schedule that governs it (R395; any step
counts as a frame boundary, log 50). A
live die sends its next number with the newest it holds to every other die once 10 µs have passed, and not before; a die that receives keeps the newer of
each (R399). A live die that is silent and not being fenced is fenced by the master, or by the lowest live die that is not silent, with 100 µs to
acknowledge; another changes nothing (R400). An acknowledgement in time completes the fence; a later one, or a timeout once its time has come, completes it with the shell lost;
both change nothing where no fence is out (R400, R404). A completed fence takes the die out of LIVE and sets FENCED (R401). A shell that fails is lost once:
SHLOST is set and launches wait for a new hash (R404). RESET_DIE ends with error 1 on a die that is not fenced; one that does not pass power-up stays
fenced; another is live again, its fence cleared, its lost shell too where the shell works, and its cores' control registers zero (R405; the outcome of
the checks is free and SHLOST's clearing the model's choice, log 51). -/
def Obligations.LinksAndFences : Prop :=
  (∀ (src dst : Nat) (cls : BitVec 4) (good : Bool) (s : State), src ≤ 8 → dst ≤ 8 → src ≠ dst → (s.link src dst).retired = false →
    let times := s.clock 8 :: (s.link src dst).times.filter fun t => decide (s.clock 8 < t + 1000 * Config.cyclesPerUs)
    (good = true → (s.link src dst).corrupt = false → exec (.flitReceive src dst cls good) s = .next s) ∧
    (good = false ∨ (s.link src dst).corrupt = true → ∃ t, exec (.flitReceive src dst cls good) s = .next t ∧
      t.outbox = .replay src dst cls.toNat :: s.outbox ∧ t.link src dst = ⟨times, decide (64 < times.length), false⟩)) ∧
  (∀ (die : Nat) (s : State), die < 8 → exec (.scheduleSwitch die) s =
    .next { s with pkg := { s.pkg with governing := putD 0 s.pkg.governing die (s.schedOf die) } }) ∧
  (∀ (die : Nat) (s : State), die < 8 → s.pkg.live.getLsbD die = true →
    let u : State := { s with beats := put s.beats (16 * die + die) ((s.beat die die).1 + 1, s.clock 8) }
    (s.clock 8 < (s.beat die die).2 + 10 * Config.cyclesPerUs → exec (.heartbeatSend die) s = .next s) ∧
    ((s.beat die die).2 + 10 * Config.cyclesPerUs ≤ s.clock 8 → exec (.heartbeatSend die) s = .next { u with
      beatNet := u.beatNet ++ ((List.range 8).filter (· ≠ die)).map fun d => { src := die, dst := d, seqs := (List.range 8).map (u.beat die) } })) ∧
  (∀ (n : Nat) (b : Beat) (s : State), s.beatNet[n]? = some b → b.dst < 8 → ∃ t, exec (.heartbeatReceive n) s = .next t ∧ t.beatNet = s.beatNet.eraseIdx n ∧
    ∀ d x, d < 16 → b.seqs[d]? = some x → t.beat b.dst d = if (s.beat b.dst d).1 < x.1 then x else s.beat b.dst d) ∧
  (∀ (die : Nat) (s : State),
    (8 ≤ die ∨ s.pkg.live.getLsbD die = false ∨ (look s.pkg.fencing die).isSome = true ∨ s.silent die = false → exec (.dieSilent die) s = .next s) ∧
    ∀ d, die < 8 → s.pkg.live.getLsbD die = true → look s.pkg.fencing die = none → s.silent die = true →
      (List.range 8).find? (fun d => d ≠ die && s.pkg.live.getLsbD d && !s.silent d) = some d → exec (.dieSilent die) s = .next { s with pkg := { s.pkg with
        master := if s.pkg.live.getLsbD s.pkg.master && !s.silent s.pkg.master then s.pkg.master else d
        fencing := put s.pkg.fencing die (s.clock 8 + 100 * Config.cyclesPerUs) } }) ∧
  (∀ (die til : Nat) (s : State), look s.pkg.fencing die = some til →
    exec (.fenceAcknowledge die) s = .next ((s.completeFence die (decide (til < s.clock 8))).settleDue 64) ∧
    (s.clock 8 < til → exec (.fenceTimeout die) s = .next s) ∧
    (til ≤ s.clock 8 → exec (.fenceTimeout die) s = .next ((s.completeFence die true).settleDue 64))) ∧
  (∀ (die : Nat) (s : State), look s.pkg.fencing die = none → exec (.fenceAcknowledge die) s = .next s ∧ exec (.fenceTimeout die) s = .next s) ∧
  (∀ (die : Nat) (s : State), die < 8 → (s.completeFence die false).pkg.live.getLsbD die = false ∧ (s.completeFence die false).pkg.fenced.getLsbD die = true ∧
    (s.completeFence die false).pkg.shlost = s.pkg.shlost) ∧
  (∀ (die : Nat) (s : State), die < 8 →
    (s.pkg.shlost.getLsbD die = true → exec (.shellPowerFault die) s = .next s) ∧
    (s.pkg.shlost.getLsbD die = false → exec (.shellPowerFault die) s = .next ((s.loseShell die).settleDue 64) ∧
      (s.loseShell die).pkg.shlost.getLsbD die = true ∧ (s.loseShell die).pkg.rebuild = true)) ∧
  ∀ (s : State), s.hostCmd 8 = true →
    (8 ≤ s.cmdArg 0 ∨ s.pkg.fenced.getLsbD (s.cmdArg 0) = false → exec .resetDie s = .next (s.endHostCmd 1)) ∧
    (s.cmdArg 0 < 8 → s.pkg.fenced.getLsbD (s.cmdArg 0) = true → ∃ t, exec .resetDie s = .next t ∧ t.pkg.cmdOp = none ∧ t.mem = s.mem ∧ t.grids = s.grids ∧
      t.pkg.live.getLsbD (s.cmdArg 0) = (Config.diePasses s.fresh || s.pkg.live.getLsbD (s.cmdArg 0)) ∧
      t.pkg.fenced.getLsbD (s.cmdArg 0) = !Config.diePasses s.fresh ∧
      t.pkg.shlost.getLsbD (s.cmdArg 0) = (s.pkg.shlost.getLsbD (s.cmdArg 0) && !(Config.diePasses s.fresh && Config.shellWorks s.fresh)) ∧
      (Config.diePasses s.fresh = true → ∀ k n, k < 128 → n < 4096 → t.csr (128 * s.cmdArg 0 + k) n = 0))

/-- Power, clause by clause; times of the package are counted on its own clock (log 2). Power-on leaves memory, grids and threads empty and the package not
booted, and keeps the firmware store, FWSVN and the erasure of the keys (R419). Recovery and the alarm hold power-up; its steps come in order: the boot
code; the collective firmware, which runs when its image passes and else leaves the package in recovery; the dies' checks; the shells, with HMAP; the other
images and the compute dies, whose clocks start again at zero; and the last sets LIVE and READY (R419, R423, R424). A live die with no block starts to count
its idleness and is gated after 10 µs where WAKETOL allows; one with a block changes nothing. S2 and S3 are entered only when READY, tolerance and idleness
allow and the idle time is over, and S2 then drops forms, TLBs, segments and link resolutions (R420). A wake event returns to
S0 from S2 or S3 where something waits. Throttling takes the readings of the die's cores, 115 °C raising the alarm, and moves a die's clock at most one step in a millisecond, between 8 and 16 units: down from 105 °C of its
hottest core until 103 °C and above the power cap, and up when neither holds it, a die slowed for heat at 103 °C or below and one slowed for power 5 % below
the cap (R422). A layer's temperature is noted, and 110 °C raises the alarm (R426); a core is avoided from 98 °C to 92 °C and for a millisecond from the
fourth droop in 100 µs (R304), and 115 °C raises the alarm. An alarm source sets ALMSTAT and empties LIVE, memory and grids, and keys are erased as ALMPOL
asks (R426, R427). That memory then reads zero is log 6's choice; which grids count as not yet placed in S2's condition is log 70's. -/
def Obligations.PowerEvents : Prop :=
  (∀ (s : State), ∃ t, exec .powerOn s = .next t ∧ t.pkg.boot = 0 ∧ t.pkg.ready = false ∧ t.pkg.live = 0 ∧ t.mem = [] ∧ t.grids = [] ∧ t.threads = [] ∧
    t.pkg.fw = s.pkg.fw ∧ t.pkg.svn = s.pkg.svn ∧ t.pkg.erased = s.pkg.erased) ∧
  (∀ (pass : BitVec 8) (im : List (List (BitVec 8))) (s : State), s.pkg.recovery = true ∨ s.pkg.alarm = true → exec (.powerUpStep pass im) s = .next s) ∧
  (∀ (pass : BitVec 8) (im : List (List (BitVec 8))) (s : State), s.pkg.recovery = false → s.pkg.alarm = false → ∃ t, exec (.powerUpStep pass im) s = .next t ∧
    (s.pkg.boot = 0 → t.pkg.boot = 1 ∧ t.pkg.ranSvn = s.pkg.svn) ∧
    (s.pkg.boot = 1 → (s.imageOk (s.storeImage 2 im) = true → t.pkg.boot = 2 ∧ look t.pkg.meas 2 = some (imageDigest (s.storeImage 2 im))) ∧
      (s.imageOk (s.storeImage 2 im) = false → t.pkg.boot = 1 ∧ t.pkg.recovery = true)) ∧
    (s.pkg.boot = 2 → t.pkg.boot = 3 ∧ t.pkg.bootPass = s.pkg.bootPass &&& pass ∧ t.pkg.shlost = s.pkg.shlost ||| ~~~pass ∧ t.pkg.fenced = s.pkg.fenced ||| ~~~pass) ∧
    (s.pkg.boot = 3 → s.imageOk (s.storeImage 3 im) = true → t.pkg.boot = 4 ∧ t.pkg.shlost = s.pkg.shlost ||| ~~~pass ∧ t.pkg.hmap = ~~~t.pkg.shlost) ∧
    (s.pkg.boot = 4 → s.imageOk (s.storeImage 4 im) = true → s.imageOk (s.storeImage 5 im) = true → t.pkg.boot = 5 ∧ t.pkg.bootPass = s.pkg.bootPass &&& pass ∧
      ∀ d, d < 8 → t.clock d = 0) ∧
    (s.pkg.boot = 5 → t.pkg.boot = 6 ∧ t.pkg.ready = true ∧ t.pkg.live = s.pkg.bootPass) ∧
    (6 ≤ s.pkg.boot → t = s)) ∧
  (∀ (die : Nat) (s : State), die < 8 → s.pkg.live.getLsbD die = true →
    ((∃ b ∈ s.blocks, b.1 / 4096 = die) → exec (.s1Entry die) s = .next s) ∧
    ((∀ b ∈ s.blocks, b.1 / 4096 ≠ die) →
      (look s.pkg.idleSince die = none → exec (.s1Entry die) s =
        .next { s with pkg := { s.pkg with idleSince := put s.pkg.idleSince die (s.clock 8) } }) ∧
      ∀ a, look s.pkg.idleSince die = some a → a + 10 * Config.cyclesPerUs ≤ s.clock 8 → 2 ≤ s.pkg.waketol →
        exec (.s1Entry die) s = .next { s with pkg := { s.pkg with gated := setBit s.pkg.gated die true, pst := max s.pkg.pst 1 } })) ∧
  (∀ (s : State), (s.pkg.ready = false ∨ s.pkg.waketol < 350 → exec .s2Entry s = .next s) ∧
    (s.pkg.ready = true → 350 ≤ s.pkg.waketol → s.pkg.pst < 2 → s.idleAll = true → s.pkg.idle ≠ 0 →
      s.pkg.idle + 1000 * Config.cyclesPerUs ≤ s.clock 8 + 1 →
        ∃ t, exec .s2Entry s = .next t ∧ t.pkg.pst = 2 ∧ t.forms = [] ∧ t.tlb = [] ∧ t.segs = [] ∧ t.links = [])) ∧
  (∀ (s : State), (s.pkg.ready = false ∨ s.pkg.waketol < 2000 ∨ s.ckpt.isSome = true ∨ s.colls ≠ [] ∨ s.pkg.spdmBusy ≠ [] → exec .s3Entry s = .next s) ∧
    (s.pkg.ready = true → 2000 ≤ s.pkg.waketol → s.pkg.pst ≠ 3 → s.ckpt = none → s.colls = [] → s.pkg.spdmBusy = [] → s.idleAll = true → s.pkg.idle ≠ 0 →
      s.pkg.idle + 100000 * Config.cyclesPerUs ≤ s.clock 8 + 1 → ∃ t, exec .s3Entry s = .next t ∧ t.pkg.pst = 3)) ∧
  (∀ (s : State), exec .wakeEvent s = .next (if 2 ≤ s.pkg.pst ∧ s.idleAll = false then
    { s with pkg := { s.pkg with pst := 0, idle := 0, gated := 0, idleSince := [] } } else s)) ∧
  (∀ (die power : Nat) (temps : List Nat) (s : State), die < 8 →
    let f := lookD 16 s.pkg.freq die
    let u := s.coresRead die temps
    let temp := u.dieTemp die
    let hot : Bool := decide (105 ≤ temp) || (s.pkg.hotDies.getLsbD die && decide (103 < temp))
    let slow : Bool := decide (s.pkg.pcap < power) || (s.pkg.capDies.getLsbD die && decide (95 * s.pkg.pcap < 100 * power))
    (∀ a, look s.pkg.stepAt die = some a → s.clock 8 < a + 1000 * Config.cyclesPerUs → exec (.throttleStep die temps power) s = .next s) ∧
    (∀ i x, i < Config.coresOf die → temps[i]? = some x → lookD 0 u.temps (128 * die + i) = x ∧ (98 ≤ x → u.avoided (128 * die + i) = true)) ∧
    ((∀ a, look s.pkg.stepAt die = some a → a + 1000 * Config.cyclesPerUs ≤ s.clock 8) → ∀ i x, i < Config.coresOf die → temps[i]? = some x → 115 ≤ x →
      exec (.throttleStep die temps power) s = .next (u.raiseAlarm 8)) ∧
    ((∀ a, look s.pkg.stepAt die = some a → a + 1000 * Config.cyclesPerUs ≤ s.clock 8) → (∀ x ∈ temps, x < 115) →
      ∃ t, exec (.throttleStep die temps power) s = .next t ∧ look t.pkg.stepAt die = some (s.clock 8) ∧ lookD 16 t.pkg.freq die =
        (if hot = true ∨ s.pkg.pcap < power then max 8 (f - 1)
         else if ((hot || s.pkg.heatDies.getLsbD die) = true → temp ≤ 103) ∧ slow = false then min 16 (f + 1) else f) ∧
        t.pkg.hotDies.getLsbD die = hot ∧ t.pkg.capDies.getLsbD die = slow ∧
        t.pkg.heatDies.getLsbD die = ((hot || s.pkg.heatDies.getLsbD die) && decide (lookD 16 t.pkg.freq die < 16)) ∧
        t.pkg.thr.getLsbD die = decide (lookD 16 t.pkg.freq die < 16))) ∧
  (∀ (die n : Nat) (s : State), s.dieTemp die ≤ n ↔ ∀ e ∈ slice s.temps (128 * die) (128 * die + 128), e.2 ≤ n) ∧
  (∀ (die layer temp : Nat) (s : State), die < 8 → layer < 4 →
    let t : State := { s with pkg := { s.pkg with dramHot := put s.pkg.dramHot (4 * die + layer) temp } }
    exec (.dramHot die layer temp) s = .next (if 110 ≤ temp then t.raiseAlarm 8 else t)) ∧
  (∀ (c : CoreId) (temp : Nat) (s : State), ∃ t, exec (.coreAvoidance c temp) s = .next t ∧
    (115 ≤ temp → t.pkg.alarm = true ∧ t.pkg.almstat.getLsbD 3 = true ∧ t.pkg.live = 0) ∧
    (temp < 115 → lookD 0 t.temps (CoreId.key c) = temp ∧ (98 ≤ temp → t.avoided (CoreId.key c) = true) ∧
      (temp ≤ 92 → lookD 0 s.avoid (CoreId.key c) < 2 → t.avoided (CoreId.key c) = false) ∧
      (92 < temp → temp < 98 → t.avoided (CoreId.key c) = s.avoided (CoreId.key c)))) ∧
  (∀ (c : CoreId) (s : State),
    let ds := s.clock 8 :: (lookD [] s.droops (CoreId.key c)).filter fun t => decide (s.clock 8 < t + 100 * Config.cyclesPerUs)
    ∃ t, exec (.droopEvent c) s = .next t ∧ look t.droops (CoreId.key c) = some ds ∧
      (4 ≤ ds.length ∨ 2 ≤ lookD 0 s.avoid (CoreId.key c) →
        lookD 0 t.avoid (CoreId.key c) / 2 = s.clock 8 + 1000 * Config.cyclesPerUs) ∧
      (ds.length < 4 → lookD 0 s.avoid (CoreId.key c) < 2 → t.avoid = s.avoid)) ∧
  (∀ (c : CoreId) (s : State), 2 ≤ lookD 0 s.avoid (CoreId.key c) →
    (s.clock 8 < lookD 0 s.avoid (CoreId.key c) / 2 → exec (.avoidanceExpire c) s = .next s) ∧
    (lookD 0 s.avoid (CoreId.key c) / 2 ≤ s.clock 8 → ∃ t, exec (.avoidanceExpire c) s = .next t ∧
      lookD 0 t.avoid (CoreId.key c) = lookD 0 s.avoid (CoreId.key c) % 2)) ∧
  ∀ (src : BitVec 4) (s : State), (src = 0 → exec (.securityAlarm src) s = .next s) ∧
    (src ≠ 0 → ∃ t, exec (.securityAlarm src) s = .next t ∧ t.pkg.alarm = true ∧ t.pkg.almstat = s.pkg.almstat ||| src ∧ t.pkg.live = 0 ∧
      t.pkg.ready = false ∧ t.mem = [] ∧ t.grids = [] ∧ t.pkg.erased = (s.pkg.erased || (s.pkg.almpol &&& src) != 0))

/-- Attestation, clause by clause. No request is answered before the collective firmware runs or while recovery or an alarm holds the package. Else
GET_VERSION answers 1.4, and a request before its turn gets an error (the order is SPDM's, log 9); capabilities; the algorithms when ML-DSA-65 is offered
and an error when not; the digest of the chain; the chain of slot 0; a signature over the measurements and the nonce; the measurements, all of them or the
one of an index, and an error for an index that has none (R425). After an erasure of the keys the certificate and the challenge get an error (R427). An
answer goes out to its requester, whose stage it sets. -/
def Obligations.AttestationAnswers : Prop :=
  (∀ (r slot index : Nat) (nonce : List (BitVec 8)) (os : List (BitVec 16)) (s : State), s.spdmOn = false →
    ∀ i ∈ [Instr.getVersion r, .getCapabilities r, .negotiateAlgorithms r os, .getDigests r, .getCertificate r slot, .challenge r nonce, .getMeasurements r index],
      exec i s = .next s) ∧
  (∀ (r : Nat) (s : State), s.spdmOn = true → exec (.getVersion r) s = .next (s.spdmAnswer r 1 (.version 14) true)) ∧
  (∀ (r : Nat) (s : State), s.spdmOn = true → exec (.getCapabilities r) s =
    .next (if lookD 0 s.pkg.spdm r < 1 then s.send (.spdm r .error) else s.spdmAnswer r 2 .capabilities true)) ∧
  (∀ (r : Nat) (os : List (BitVec 16)) (s : State), s.spdmOn = true → 2 ≤ lookD 0 s.pkg.spdm r →
    exec (.negotiateAlgorithms r os) s =
      .next (if Config.mldsaCode ∈ os then s.spdmAnswer r 3 .algorithms true else s.spdmAnswer r 2 .error true)) ∧
  (∀ (r : Nat) (s : State), s.spdmOn = true → lookD 0 s.pkg.spdm r < 3 →
    ∀ slot index nonce, ∀ i ∈ [Instr.getDigests r, .getCertificate r slot, .getMeasurements r index, .challenge r nonce], exec i s = .next (s.send (.spdm r .error))) ∧
  (∀ (r : Nat) (os : List (BitVec 16)) (s : State), s.spdmOn = true → lookD 0 s.pkg.spdm r < 2 →
    exec (.negotiateAlgorithms r os) s = .next (s.send (.spdm r .error))) ∧
  (∀ (r slot index : Nat) (nonce : List (BitVec 8)) (s : State), s.spdmOn = true → 3 ≤ lookD 0 s.pkg.spdm r →
    exec (.getDigests r) s = .next (s.spdmAnswer r 3 (.digests (shake256 Config.certChain)) false) ∧
    exec (.getCertificate r slot) s = .next (s.spdmAnswer r 3 (if slot = 0 ∧ s.pkg.erased = false then .certificate Config.certChain else .error) false) ∧
    exec (.challenge r nonce) s = .next (s.spdmAnswer r 3 (if s.pkg.erased then .error else
      .challengeAuth (Config.mldsaSign ((s.pkg.meas.flatMap fun e => leBytes e.2.toNat 64) ++ nonce))) false) ∧
    exec (.getMeasurements r 0xFF) s = .next (s.spdmAnswer r 3 (.measurements s.pkg.meas) false) ∧
    (∀ d, index ≠ 0xFF → look s.pkg.meas index = some d → exec (.getMeasurements r index) s = .next (s.spdmAnswer r 3 (.measurements [(index, d)]) false)) ∧
    (index ≠ 0xFF → look s.pkg.meas index = none → exec (.getMeasurements r index) s = .next (s.spdmAnswer r 3 .error false))) ∧
  ∀ (s : State) (r n : Nat) (m : SpdmResp) (b : Bool), (s.spdmAnswer r n m b).outbox = .spdm r m :: s.outbox ∧ look (s.spdmAnswer r n m b).pkg.spdm r = some n ∧
    (s.spdmAnswer r n m b).pkg.spdmBusy = (if b then insNat s.pkg.spdmBusy r else s.pkg.spdmBusy.filter (· ≠ r))
end

