-- ==== Sys2Proof/Laws/Map.lean ====
section
/-! SUPPORT. Sparse tables and byte memories: what each operation leaves under each key, and the canonical form that all of them keep. -/

namespace Sys2Proof.Machine

variable {α : Type}

/-! ## Tables -/

/-- What a key looks up is an entry of the table. -/
theorem look_mem {t : Tab α} {i : Nat} {x : α} (h : look t i = some x) : (i, x) ∈ t := by
  induction t with
  | nil => cases h
  | cons e t ih =>
    unfold look at h
    split at h
    · next hk => cases h; subst hk; exact List.mem_cons_self ..
    · exact List.mem_cons_of_mem _ (ih h)

@[simp] theorem look_put_same (t : Tab α) (i : Nat) (x : α) : look (put t i x) i = some x := by
  induction t with
  | nil => simp [put, look]
  | cons e t ih =>
    obtain ⟨k, v⟩ := e
    simp only [put]
    split
    · simp [look]
    · split
      · simp [look, *]
      · simp [look, *]

theorem look_put_ne (t : Tab α) {i j : Nat} (x : α) (h : j ≠ i) : look (put t i x) j = look t j := by
  induction t with
  | nil => simp [put, look, h]
  | cons e t ih =>
    obtain ⟨k, v⟩ := e
    simp only [put]
    split
    · simp [look, h]
    · split
      · subst k; simp [look, h]
      · simp [look, ih]

theorem look_put (t : Tab α) (i j : Nat) (x : α) : look (put t i x) j = if j = i then some x else look t j := by
  split
  · subst j; simp
  · exact look_put_ne t x ‹_›

@[simp] theorem look_del_same (t : Tab α) (i : Nat) : look (del t i) i = none := by
  induction t with
  | nil => rfl
  | cons e t ih =>
    obtain ⟨k, v⟩ := e
    simp only [del]
    split
    · exact ih
    · simp [look, *]

theorem look_del_ne (t : Tab α) {i j : Nat} (h : j ≠ i) : look (del t i) j = look t j := by
  induction t with
  | nil => rfl
  | cons e t ih =>
    obtain ⟨k, v⟩ := e
    simp only [del]
    split
    · subst k; simp [look, h, ih]
    · simp [look, ih]

theorem look_del (t : Tab α) (i j : Nat) : look (del t i) j = if j = i then none else look t j := by
  split
  · subst j; simp
  · exact look_del_ne t ‹_›

theorem lookD_put (d : α) (t : Tab α) (i j : Nat) (x : α) : lookD d (put t i x) j = if j = i then x else lookD d t j := by
  unfold lookD; rw [look_put]; split <;> rfl

theorem lookD_putD [DecidableEq α] (d : α) (t : Tab α) (i j : Nat) (x : α) :
    lookD d (putD d t i x) j = if j = i then x else lookD d t j := by
  unfold putD
  split
  · subst x; unfold lookD; rw [look_del]; split <;> rfl
  · exact lookD_put d t i j x

theorem look_filter (p : Nat → Bool) (t : Tab α) (i : Nat) :
    look (t.filter fun e => p e.1) i = if p i then look t i else none := by
  induction t with
  | nil => simp [look]
  | cons e t ih =>
    obtain ⟨k, v⟩ := e
    by_cases hk : p k
    · by_cases hi : i = k
      · subst i; simp [List.filter, look, hk]
      · simp [List.filter, look, hk, hi, ih]
    · by_cases hi : i = k
      · subst i; simp [List.filter, hk, ih]
      · simp [List.filter, look, hk, hi, ih]

theorem look_cut (t : Tab α) (lo hi i : Nat) : look (cut t lo hi) i = if lo ≤ i ∧ i < hi then none else look t i := by
  unfold cut
  rw [look_filter (fun k => !decide (lo ≤ k ∧ k < hi)) t i]
  by_cases h : lo ≤ i ∧ i < hi <;> simp [h]

theorem lookD_cut (d : α) (t : Tab α) (lo hi i : Nat) : lookD d (cut t lo hi) i = if lo ≤ i ∧ i < hi then d else lookD d t i := by
  unfold lookD; rw [look_cut]; split <;> rfl

/-! ## Rising keys -/

theorem sortedKeys_iff (t : Tab α) : sortedKeys t = true ↔ t.Pairwise fun a b => a.1 < b.1 := by
  induction t with
  | nil => simp [sortedKeys]
  | cons e t ih =>
    obtain ⟨k, v⟩ := e
    match t, ih with
    | [], _ => simp [sortedKeys]
    | (j, w) :: t, ih =>
      simp only [sortedKeys, Bool.and_eq_true, decide_eq_true_eq, ih, List.pairwise_cons]
      constructor
      · rintro ⟨h, h1, h2⟩
        refine ⟨?_, h1, h2⟩
        intro b hb
        rcases List.mem_cons.1 hb with rfl | hb
        · exact h
        · exact lt_trans h (h1 b hb)
      · rintro ⟨h0, h1, h2⟩
        exact ⟨h0 (j, w) (by simp), h1, h2⟩

theorem mem_put {t : Tab α} {i : Nat} {x : α} {e : Nat × α} (h : e ∈ put t i x) : e = (i, x) ∨ e ∈ t := by
  induction t with
  | nil => simpa [put] using h
  | cons c t ih =>
    obtain ⟨k, v⟩ := c
    simp only [put] at h
    split at h
    · simpa using h
    · split at h
      · subst k
        rcases List.mem_cons.1 h with h | h
        · exact .inl h
        · exact .inr (List.mem_cons_of_mem _ h)
      · rcases List.mem_cons.1 h with h | h
        · exact .inr (h ▸ List.mem_cons_self)
        · rcases ih h with h | h
          · exact .inl h
          · exact .inr (List.mem_cons_of_mem _ h)

theorem sortedKeys_put {t : Tab α} (h : sortedKeys t = true) (i : Nat) (x : α) : sortedKeys (put t i x) = true := by
  rw [sortedKeys_iff] at h ⊢
  induction t with
  | nil => simp [put]
  | cons c t ih =>
    obtain ⟨k, v⟩ := c
    have h1 := List.pairwise_cons.1 h
    simp only [put]
    split
    · refine List.pairwise_cons.2 ⟨?_, h⟩
      intro b hb
      rcases List.mem_cons.1 hb with rfl | hb
      · assumption
      · exact lt_trans ‹i < k› (h1.1 b hb)
    · split
      · subst i; exact List.pairwise_cons.2 ⟨h1.1, h1.2⟩
      · refine List.pairwise_cons.2 ⟨?_, ih h1.2⟩
        intro b hb
        rcases mem_put hb with rfl | hb
        · simp only; omega
        · exact h1.1 b hb

theorem mem_del {t : Tab α} {i : Nat} {e : Nat × α} (h : e ∈ del t i) : e ∈ t := by
  induction t with
  | nil => simp [del] at h
  | cons c t ih =>
    obtain ⟨k, v⟩ := c
    simp only [del] at h
    split at h
    · exact List.mem_cons_of_mem _ (ih h)
    · rcases List.mem_cons.1 h with h | h
      · exact h ▸ List.mem_cons_self
      · exact List.mem_cons_of_mem _ (ih h)

theorem sortedKeys_del {t : Tab α} (h : sortedKeys t = true) (i : Nat) : sortedKeys (del t i) = true := by
  rw [sortedKeys_iff] at h ⊢
  induction t with
  | nil => simp [del]
  | cons c t ih =>
    obtain ⟨k, v⟩ := c
    have h1 := List.pairwise_cons.1 h
    simp only [del]
    split
    · exact ih h1.2
    · exact List.pairwise_cons.2 ⟨fun b hb => h1.1 b (mem_del hb), ih h1.2⟩

theorem sortedKeys_filter {t : Tab α} (h : sortedKeys t = true) (p : Nat × α → Bool) : sortedKeys (t.filter p) = true := by
  rw [sortedKeys_iff] at h ⊢
  exact h.filter p

/-! ## Byte memories -/

theorem Memory.wf_iff (m : List Host.Cell) : Memory.wf m = true ↔ sortedKeys m = true ∧ ∀ c ∈ m, c.2 ≠ 0#8 := by
  simp [Memory.wf]

theorem Memory.wf_nil : Memory.wf [] = true := rfl

theorem Memory.wf_setB {m : List Host.Cell} (h : Memory.wf m = true) (a : Nat) (b : Byte) : Memory.wf (setB m a b) = true := by
  rw [Memory.wf_iff] at h ⊢
  unfold setB putD
  split
  · exact ⟨sortedKeys_del h.1 a, fun c hc => h.2 c (mem_del hc)⟩
  · refine ⟨sortedKeys_put h.1 a b, fun c hc => ?_⟩
    rcases mem_put hc with rfl | hc
    · assumption
    · exact h.2 c hc

theorem Memory.wf_setBs {m : List Host.Cell} (h : Memory.wf m = true) (a : Nat) (bs : List Byte) : Memory.wf (setBs m a bs) = true := by
  induction bs generalizing m a with
  | nil => exact h
  | cons b bs ih => exact ih (Memory.wf_setB h a b) (a + 1)

theorem Memory.wf_filter {m : List Host.Cell} (h : Memory.wf m = true) (p : Host.Cell → Bool) : Memory.wf (m.filter p) = true := by
  rw [Memory.wf_iff] at h ⊢
  exact ⟨sortedKeys_filter h.1 p, fun c hc => h.2 c (List.mem_of_mem_filter hc)⟩

theorem Memory.wf_cut {m : List Host.Cell} (h : Memory.wf m = true) (lo hi : Nat) : Memory.wf (cut m lo hi) = true :=
  Memory.wf_filter h _

theorem Memory.wf_clrBs {m : List Host.Cell} (h : Memory.wf m = true) (a n : Nat) : Memory.wf (clrBs m a n) = true :=
  Memory.wf_cut h a (a + n)

theorem Memory.wf_setN {m : List Host.Cell} (h : Memory.wf m = true) (a n v : Nat) : Memory.wf (setN m a n v) = true :=
  Memory.wf_setBs h a _

theorem getB_setB (m : List Host.Cell) (a i : Nat) (b : Byte) : getB (setB m a b) i = if i = a then b else getB m i :=
  lookD_putD 0#8 m a i b

/-- A byte outside the bytes written reads as before. -/
theorem getB_setBs_out (m : List Host.Cell) (a : Nat) (bs : List Byte) {i : Nat} (h : i < a ∨ a + bs.length ≤ i) :
    getB (setBs m a bs) i = getB m i := by
  induction bs generalizing m a with
  | nil => rfl
  | cons b bs ih =>
    simp only [List.length_cons] at h
    rw [setBs, ih (setB m a b) (a + 1) (by omega), getB_setB, if_neg (by omega)]

end Sys2Proof.Machine
end

