-- ==== Sys2Proof/Laws/State.lean ====
section
/-! SUPPORT. One lemma per field per update of the state, and what each named reader answers after each named update. -/

namespace Sys2Proof.Machine

variable (s : State)


/-! `setCsr` -/

@[simp] theorem State.setCsr_csrs (core n : Nat) (v : Word) : (s.setCsr core n v).csrs = putD 0 s.csrs (4096 * core + n) v := rfl
@[simp] theorem State.setCsr_agenda (core n : Nat) (v : Word) : (s.setCsr core n v).agenda = s.agenda := rfl
@[simp] theorem State.setCsr_steps (core n : Nat) (v : Word) : (s.setCsr core n v).steps = s.steps := rfl
@[simp] theorem State.setCsr_fresh (core n : Nat) (v : Word) : (s.setCsr core n v).fresh = s.fresh := rfl
@[simp] theorem State.setCsr_nextId (core n : Nat) (v : Word) : (s.setCsr core n v).nextId = s.nextId := rfl
@[simp] theorem State.setCsr_cur (core n : Nat) (v : Word) : (s.setCsr core n v).cur = s.cur := rfl
@[simp] theorem State.setCsr_outbox (core n : Nat) (v : Word) : (s.setCsr core n v).outbox = s.outbox := rfl
@[simp] theorem State.setCsr_clocks (core n : Nat) (v : Word) : (s.setCsr core n v).clocks = s.clocks := rfl
@[simp] theorem State.setCsr_regs (core n : Nat) (v : Word) : (s.setCsr core n v).regs = s.regs := rfl
@[simp] theorem State.setCsr_threads (core n : Nat) (v : Word) : (s.setCsr core n v).threads = s.threads := rfl
@[simp] theorem State.setCsr_floes (core n : Nat) (v : Word) : (s.setCsr core n v).floes = s.floes := rfl
@[simp] theorem State.setCsr_saves (core n : Nat) (v : Word) : (s.setCsr core n v).saves = s.saves := rfl
@[simp] theorem State.setCsr_bins (core n : Nat) (v : Word) : (s.setCsr core n v).bins = s.bins := rfl
@[simp] theorem State.setCsr_starting (core n : Nat) (v : Word) : (s.setCsr core n v).starting = s.starting := rfl
@[simp] theorem State.setCsr_sched (core n : Nat) (v : Word) : (s.setCsr core n v).sched = s.sched := rfl
@[simp] theorem State.setCsr_lfsr (core n : Nat) (v : Word) : (s.setCsr core n v).lfsr = s.lfsr := rfl
@[simp] theorem State.setCsr_blocks (core n : Nat) (v : Word) : (s.setCsr core n v).blocks = s.blocks := rfl
@[simp] theorem State.setCsr_bars (core n : Nat) (v : Word) : (s.setCsr core n v).bars = s.bars := rfl
@[simp] theorem State.setCsr_cbufs (core n : Nat) (v : Word) : (s.setCsr core n v).cbufs = s.cbufs := rfl
@[simp] theorem State.setCsr_tables (core n : Nat) (v : Word) : (s.setCsr core n v).tables = s.tables := rfl
@[simp] theorem State.setCsr_accs (core n : Nat) (v : Word) : (s.setCsr core n v).accs = s.accs := rfl
@[simp] theorem State.setCsr_allocs (core n : Nat) (v : Word) : (s.setCsr core n v).allocs = s.allocs := rfl
@[simp] theorem State.setCsr_bankCtx (core n : Nat) (v : Word) : (s.setCsr core n v).bankCtx = s.bankCtx := rfl
@[simp] theorem State.setCsr_unit (core n : Nat) (v : Word) : (s.setCsr core n v).unit = s.unit := rfl
@[simp] theorem State.setCsr_clus (core n : Nat) (v : Word) : (s.setCsr core n v).clus = s.clus := rfl
@[simp] theorem State.setCsr_dmem (core n : Nat) (v : Word) : (s.setCsr core n v).dmem = s.dmem := rfl
@[simp] theorem State.setCsr_track (core n : Nat) (v : Word) : (s.setCsr core n v).track = s.track := rfl
@[simp] theorem State.setCsr_maps (core n : Nat) (v : Word) : (s.setCsr core n v).maps = s.maps := rfl
@[simp] theorem State.setCsr_grids (core n : Nat) (v : Word) : (s.setCsr core n v).grids = s.grids := rfl
@[simp] theorem State.setCsr_tasks (core n : Nat) (v : Word) : (s.setCsr core n v).tasks = s.tasks := rfl
@[simp] theorem State.setCsr_saved (core n : Nat) (v : Word) : (s.setCsr core n v).saved = s.saved := rfl
@[simp] theorem State.setCsr_copies (core n : Nat) (v : Word) : (s.setCsr core n v).copies = s.copies := rfl
@[simp] theorem State.setCsr_mmas (core n : Nat) (v : Word) : (s.setCsr core n v).mmas = s.mmas := rfl
@[simp] theorem State.setCsr_net (core n : Nat) (v : Word) : (s.setCsr core n v).net = s.net := rfl
@[simp] theorem State.setCsr_tokens (core n : Nat) (v : Word) : (s.setCsr core n v).tokens = s.tokens := rfl
@[simp] theorem State.setCsr_due (core n : Nat) (v : Word) : (s.setCsr core n v).due = s.due := rfl
@[simp] theorem State.setCsr_mem (core n : Nat) (v : Word) : (s.setCsr core n v).mem = s.mem := rfl
@[simp] theorem State.setCsr_tags (core n : Nat) (v : Word) : (s.setCsr core n v).tags = s.tags := rfl
@[simp] theorem State.setCsr_poison (core n : Nat) (v : Word) : (s.setCsr core n v).poison = s.poison := rfl
@[simp] theorem State.setCsr_hostMem (core n : Nat) (v : Word) : (s.setCsr core n v).hostMem = s.hostMem := rfl
@[simp] theorem State.setCsr_ctxTab (core n : Nat) (v : Word) : (s.setCsr core n v).ctxTab = s.ctxTab := rfl
@[simp] theorem State.setCsr_ctxRegs (core n : Nat) (v : Word) : (s.setCsr core n v).ctxRegs = s.ctxRegs := rfl
@[simp] theorem State.setCsr_dieRegs (core n : Nat) (v : Word) : (s.setCsr core n v).dieRegs = s.dieRegs := rfl
@[simp] theorem State.setCsr_cmds (core n : Nat) (v : Word) : (s.setCsr core n v).cmds = s.cmds := rfl
@[simp] theorem State.setCsr_tlb (core n : Nat) (v : Word) : (s.setCsr core n v).tlb = s.tlb := rfl
@[simp] theorem State.setCsr_segs (core n : Nat) (v : Word) : (s.setCsr core n v).segs = s.segs := rfl
@[simp] theorem State.setCsr_latent (core n : Nat) (v : Word) : (s.setCsr core n v).latent = s.latent := rfl
@[simp] theorem State.setCsr_dir (core n : Nat) (v : Word) : (s.setCsr core n v).dir = s.dir := rfl
@[simp] theorem State.setCsr_recs (core n : Nat) (v : Word) : (s.setCsr core n v).recs = s.recs := rfl
@[simp] theorem State.setCsr_lone (core n : Nat) (v : Word) : (s.setCsr core n v).lone = s.lone := rfl
@[simp] theorem State.setCsr_starts (core n : Nat) (v : Word) : (s.setCsr core n v).starts = s.starts := rfl
@[simp] theorem State.setCsr_race (core n : Nat) (v : Word) : (s.setCsr core n v).race = s.race := rfl
@[simp] theorem State.setCsr_raceBy (core n : Nat) (v : Word) : (s.setCsr core n v).raceBy = s.raceBy := rfl
@[simp] theorem State.setCsr_fills (core n : Nat) (v : Word) : (s.setCsr core n v).fills = s.fills := rfl
@[simp] theorem State.setCsr_recNext (core n : Nat) (v : Word) : (s.setCsr core n v).recNext = s.recNext := rfl
@[simp] theorem State.setCsr_syncs (core n : Nat) (v : Word) : (s.setCsr core n v).syncs = s.syncs := rfl
@[simp] theorem State.setCsr_rfold (core n : Nat) (v : Word) : (s.setCsr core n v).rfold = s.rfold := rfl
@[simp] theorem State.setCsr_preempting (core n : Nat) (v : Word) : (s.setCsr core n v).preempting = s.preempting := rfl
@[simp] theorem State.setCsr_wbs (core n : Nat) (v : Word) : (s.setCsr core n v).wbs = s.wbs := rfl
@[simp] theorem State.setCsr_arrays (core n : Nat) (v : Word) : (s.setCsr core n v).arrays = s.arrays := rfl
@[simp] theorem State.setCsr_reserved (core n : Nat) (v : Word) : (s.setCsr core n v).reserved = s.reserved := rfl
@[simp] theorem State.setCsr_mcasts (core n : Nat) (v : Word) : (s.setCsr core n v).mcasts = s.mcasts := rfl
@[simp] theorem State.setCsr_dumps (core n : Nat) (v : Word) : (s.setCsr core n v).dumps = s.dumps := rfl
@[simp] theorem State.setCsr_invals (core n : Nat) (v : Word) : (s.setCsr core n v).invals = s.invals := rfl
@[simp] theorem State.setCsr_atsOut (core n : Nat) (v : Word) : (s.setCsr core n v).atsOut = s.atsOut := rfl
@[simp] theorem State.setCsr_devWait (core n : Nat) (v : Word) : (s.setCsr core n v).devWait = s.devWait := rfl
@[simp] theorem State.setCsr_fpages (core n : Nat) (v : Word) : (s.setCsr core n v).fpages = s.fpages := rfl
@[simp] theorem State.setCsr_segReqs (core n : Nat) (v : Word) : (s.setCsr core n v).segReqs = s.segReqs := rfl
@[simp] theorem State.setCsr_forms (core n : Nat) (v : Word) : (s.setCsr core n v).forms = s.forms := rfl
@[simp] theorem State.setCsr_links (core n : Nat) (v : Word) : (s.setCsr core n v).links = s.links := rfl
@[simp] theorem State.setCsr_recalls (core n : Nat) (v : Word) : (s.setCsr core n v).recalls = s.recalls := rfl
@[simp] theorem State.setCsr_dirRecs (core n : Nat) (v : Word) : (s.setCsr core n v).dirRecs = s.dirRecs := rfl
@[simp] theorem State.setCsr_withheld (core n : Nat) (v : Word) : (s.setCsr core n v).withheld = s.withheld := rfl
@[simp] theorem State.setCsr_launches (core n : Nat) (v : Word) : (s.setCsr core n v).launches = s.launches := rfl
@[simp] theorem State.setCsr_lines (core n : Nat) (v : Word) : (s.setCsr core n v).lines = s.lines := rfl
@[simp] theorem State.setCsr_aliases (core n : Nat) (v : Word) : (s.setCsr core n v).aliases = s.aliases := rfl
@[simp] theorem State.setCsr_scrubs (core n : Nat) (v : Word) : (s.setCsr core n v).scrubs = s.scrubs := rfl
@[simp] theorem State.setCsr_schedules (core n : Nat) (v : Word) : (s.setCsr core n v).schedules = s.schedules := rfl
@[simp] theorem State.setCsr_linkDirs (core n : Nat) (v : Word) : (s.setCsr core n v).linkDirs = s.linkDirs := rfl
@[simp] theorem State.setCsr_beats (core n : Nat) (v : Word) : (s.setCsr core n v).beats = s.beats := rfl
@[simp] theorem State.setCsr_beatNet (core n : Nat) (v : Word) : (s.setCsr core n v).beatNet = s.beatNet := rfl
@[simp] theorem State.setCsr_errlog (core n : Nat) (v : Word) : (s.setCsr core n v).errlog = s.errlog := rfl
@[simp] theorem State.setCsr_errOver (core n : Nat) (v : Word) : (s.setCsr core n v).errOver = s.errOver := rfl
@[simp] theorem State.setCsr_patrol (core n : Nat) (v : Word) : (s.setCsr core n v).patrol = s.patrol := rfl
@[simp] theorem State.setCsr_migs (core n : Nat) (v : Word) : (s.setCsr core n v).migs = s.migs := rfl
@[simp] theorem State.setCsr_temps (core n : Nat) (v : Word) : (s.setCsr core n v).temps = s.temps := rfl
@[simp] theorem State.setCsr_avoid (core n : Nat) (v : Word) : (s.setCsr core n v).avoid = s.avoid := rfl
@[simp] theorem State.setCsr_droops (core n : Nat) (v : Word) : (s.setCsr core n v).droops = s.droops := rfl
@[simp] theorem State.setCsr_rlog (core n : Nat) (v : Word) : (s.setCsr core n v).rlog = s.rlog := rfl
@[simp] theorem State.setCsr_rlogFull (core n : Nat) (v : Word) : (s.setCsr core n v).rlogFull = s.rlogFull := rfl
@[simp] theorem State.setCsr_rclocks (core n : Nat) (v : Word) : (s.setCsr core n v).rclocks = s.rclocks := rfl
@[simp] theorem State.setCsr_rpend (core n : Nat) (v : Word) : (s.setCsr core n v).rpend = s.rpend := rfl
@[simp] theorem State.setCsr_colls (core n : Nat) (v : Word) : (s.setCsr core n v).colls = s.colls := rfl
@[simp] theorem State.setCsr_ckpt (core n : Nat) (v : Word) : (s.setCsr core n v).ckpt = s.ckpt := rfl
@[simp] theorem State.setCsr_regions (core n : Nat) (v : Word) : (s.setCsr core n v).regions = s.regions := rfl
@[simp] theorem State.setCsr_pkg (core n : Nat) (v : Word) : (s.setCsr core n v).pkg = s.pkg := rfl

/-! `setThread` -/

@[simp] theorem State.setThread_threads (k : Nat) (x : Thread) : (s.setThread k x).threads = put s.threads k x := rfl
@[simp] theorem State.setThread_agenda (k : Nat) (x : Thread) : (s.setThread k x).agenda = s.agenda := rfl
@[simp] theorem State.setThread_steps (k : Nat) (x : Thread) : (s.setThread k x).steps = s.steps := rfl
@[simp] theorem State.setThread_fresh (k : Nat) (x : Thread) : (s.setThread k x).fresh = s.fresh := rfl
@[simp] theorem State.setThread_nextId (k : Nat) (x : Thread) : (s.setThread k x).nextId = s.nextId := rfl
@[simp] theorem State.setThread_cur (k : Nat) (x : Thread) : (s.setThread k x).cur = s.cur := rfl
@[simp] theorem State.setThread_outbox (k : Nat) (x : Thread) : (s.setThread k x).outbox = s.outbox := rfl
@[simp] theorem State.setThread_clocks (k : Nat) (x : Thread) : (s.setThread k x).clocks = s.clocks := rfl
@[simp] theorem State.setThread_regs (k : Nat) (x : Thread) : (s.setThread k x).regs = s.regs := rfl
@[simp] theorem State.setThread_floes (k : Nat) (x : Thread) : (s.setThread k x).floes = s.floes := rfl
@[simp] theorem State.setThread_saves (k : Nat) (x : Thread) : (s.setThread k x).saves = s.saves := rfl
@[simp] theorem State.setThread_bins (k : Nat) (x : Thread) : (s.setThread k x).bins = s.bins := rfl
@[simp] theorem State.setThread_starting (k : Nat) (x : Thread) : (s.setThread k x).starting = s.starting := rfl
@[simp] theorem State.setThread_sched (k : Nat) (x : Thread) : (s.setThread k x).sched = s.sched := rfl
@[simp] theorem State.setThread_lfsr (k : Nat) (x : Thread) : (s.setThread k x).lfsr = s.lfsr := rfl
@[simp] theorem State.setThread_blocks (k : Nat) (x : Thread) : (s.setThread k x).blocks = s.blocks := rfl
@[simp] theorem State.setThread_bars (k : Nat) (x : Thread) : (s.setThread k x).bars = s.bars := rfl
@[simp] theorem State.setThread_cbufs (k : Nat) (x : Thread) : (s.setThread k x).cbufs = s.cbufs := rfl
@[simp] theorem State.setThread_tables (k : Nat) (x : Thread) : (s.setThread k x).tables = s.tables := rfl
@[simp] theorem State.setThread_accs (k : Nat) (x : Thread) : (s.setThread k x).accs = s.accs := rfl
@[simp] theorem State.setThread_allocs (k : Nat) (x : Thread) : (s.setThread k x).allocs = s.allocs := rfl
@[simp] theorem State.setThread_bankCtx (k : Nat) (x : Thread) : (s.setThread k x).bankCtx = s.bankCtx := rfl
@[simp] theorem State.setThread_unit (k : Nat) (x : Thread) : (s.setThread k x).unit = s.unit := rfl
@[simp] theorem State.setThread_clus (k : Nat) (x : Thread) : (s.setThread k x).clus = s.clus := rfl
@[simp] theorem State.setThread_dmem (k : Nat) (x : Thread) : (s.setThread k x).dmem = s.dmem := rfl
@[simp] theorem State.setThread_track (k : Nat) (x : Thread) : (s.setThread k x).track = s.track := rfl
@[simp] theorem State.setThread_maps (k : Nat) (x : Thread) : (s.setThread k x).maps = s.maps := rfl
@[simp] theorem State.setThread_grids (k : Nat) (x : Thread) : (s.setThread k x).grids = s.grids := rfl
@[simp] theorem State.setThread_tasks (k : Nat) (x : Thread) : (s.setThread k x).tasks = s.tasks := rfl
@[simp] theorem State.setThread_saved (k : Nat) (x : Thread) : (s.setThread k x).saved = s.saved := rfl
@[simp] theorem State.setThread_copies (k : Nat) (x : Thread) : (s.setThread k x).copies = s.copies := rfl
@[simp] theorem State.setThread_mmas (k : Nat) (x : Thread) : (s.setThread k x).mmas = s.mmas := rfl
@[simp] theorem State.setThread_net (k : Nat) (x : Thread) : (s.setThread k x).net = s.net := rfl
@[simp] theorem State.setThread_tokens (k : Nat) (x : Thread) : (s.setThread k x).tokens = s.tokens := rfl
@[simp] theorem State.setThread_due (k : Nat) (x : Thread) : (s.setThread k x).due = s.due := rfl
@[simp] theorem State.setThread_mem (k : Nat) (x : Thread) : (s.setThread k x).mem = s.mem := rfl
@[simp] theorem State.setThread_tags (k : Nat) (x : Thread) : (s.setThread k x).tags = s.tags := rfl
@[simp] theorem State.setThread_poison (k : Nat) (x : Thread) : (s.setThread k x).poison = s.poison := rfl
@[simp] theorem State.setThread_hostMem (k : Nat) (x : Thread) : (s.setThread k x).hostMem = s.hostMem := rfl
@[simp] theorem State.setThread_ctxTab (k : Nat) (x : Thread) : (s.setThread k x).ctxTab = s.ctxTab := rfl
@[simp] theorem State.setThread_ctxRegs (k : Nat) (x : Thread) : (s.setThread k x).ctxRegs = s.ctxRegs := rfl
@[simp] theorem State.setThread_dieRegs (k : Nat) (x : Thread) : (s.setThread k x).dieRegs = s.dieRegs := rfl
@[simp] theorem State.setThread_csrs (k : Nat) (x : Thread) : (s.setThread k x).csrs = s.csrs := rfl
@[simp] theorem State.setThread_cmds (k : Nat) (x : Thread) : (s.setThread k x).cmds = s.cmds := rfl
@[simp] theorem State.setThread_tlb (k : Nat) (x : Thread) : (s.setThread k x).tlb = s.tlb := rfl
@[simp] theorem State.setThread_segs (k : Nat) (x : Thread) : (s.setThread k x).segs = s.segs := rfl
@[simp] theorem State.setThread_latent (k : Nat) (x : Thread) : (s.setThread k x).latent = s.latent := rfl
@[simp] theorem State.setThread_dir (k : Nat) (x : Thread) : (s.setThread k x).dir = s.dir := rfl
@[simp] theorem State.setThread_recs (k : Nat) (x : Thread) : (s.setThread k x).recs = s.recs := rfl
@[simp] theorem State.setThread_lone (k : Nat) (x : Thread) : (s.setThread k x).lone = s.lone := rfl
@[simp] theorem State.setThread_starts (k : Nat) (x : Thread) : (s.setThread k x).starts = s.starts := rfl
@[simp] theorem State.setThread_race (k : Nat) (x : Thread) : (s.setThread k x).race = s.race := rfl
@[simp] theorem State.setThread_raceBy (k : Nat) (x : Thread) : (s.setThread k x).raceBy = s.raceBy := rfl
@[simp] theorem State.setThread_fills (k : Nat) (x : Thread) : (s.setThread k x).fills = s.fills := rfl
@[simp] theorem State.setThread_recNext (k : Nat) (x : Thread) : (s.setThread k x).recNext = s.recNext := rfl
@[simp] theorem State.setThread_syncs (k : Nat) (x : Thread) : (s.setThread k x).syncs = s.syncs := rfl
@[simp] theorem State.setThread_rfold (k : Nat) (x : Thread) : (s.setThread k x).rfold = s.rfold := rfl
@[simp] theorem State.setThread_preempting (k : Nat) (x : Thread) : (s.setThread k x).preempting = s.preempting := rfl
@[simp] theorem State.setThread_wbs (k : Nat) (x : Thread) : (s.setThread k x).wbs = s.wbs := rfl
@[simp] theorem State.setThread_arrays (k : Nat) (x : Thread) : (s.setThread k x).arrays = s.arrays := rfl
@[simp] theorem State.setThread_reserved (k : Nat) (x : Thread) : (s.setThread k x).reserved = s.reserved := rfl
@[simp] theorem State.setThread_mcasts (k : Nat) (x : Thread) : (s.setThread k x).mcasts = s.mcasts := rfl
@[simp] theorem State.setThread_dumps (k : Nat) (x : Thread) : (s.setThread k x).dumps = s.dumps := rfl
@[simp] theorem State.setThread_invals (k : Nat) (x : Thread) : (s.setThread k x).invals = s.invals := rfl
@[simp] theorem State.setThread_atsOut (k : Nat) (x : Thread) : (s.setThread k x).atsOut = s.atsOut := rfl
@[simp] theorem State.setThread_devWait (k : Nat) (x : Thread) : (s.setThread k x).devWait = s.devWait := rfl
@[simp] theorem State.setThread_fpages (k : Nat) (x : Thread) : (s.setThread k x).fpages = s.fpages := rfl
@[simp] theorem State.setThread_segReqs (k : Nat) (x : Thread) : (s.setThread k x).segReqs = s.segReqs := rfl
@[simp] theorem State.setThread_forms (k : Nat) (x : Thread) : (s.setThread k x).forms = s.forms := rfl
@[simp] theorem State.setThread_links (k : Nat) (x : Thread) : (s.setThread k x).links = s.links := rfl
@[simp] theorem State.setThread_recalls (k : Nat) (x : Thread) : (s.setThread k x).recalls = s.recalls := rfl
@[simp] theorem State.setThread_dirRecs (k : Nat) (x : Thread) : (s.setThread k x).dirRecs = s.dirRecs := rfl
@[simp] theorem State.setThread_withheld (k : Nat) (x : Thread) : (s.setThread k x).withheld = s.withheld := rfl
@[simp] theorem State.setThread_launches (k : Nat) (x : Thread) : (s.setThread k x).launches = s.launches := rfl
@[simp] theorem State.setThread_lines (k : Nat) (x : Thread) : (s.setThread k x).lines = s.lines := rfl
@[simp] theorem State.setThread_aliases (k : Nat) (x : Thread) : (s.setThread k x).aliases = s.aliases := rfl
@[simp] theorem State.setThread_scrubs (k : Nat) (x : Thread) : (s.setThread k x).scrubs = s.scrubs := rfl
@[simp] theorem State.setThread_schedules (k : Nat) (x : Thread) : (s.setThread k x).schedules = s.schedules := rfl
@[simp] theorem State.setThread_linkDirs (k : Nat) (x : Thread) : (s.setThread k x).linkDirs = s.linkDirs := rfl
@[simp] theorem State.setThread_beats (k : Nat) (x : Thread) : (s.setThread k x).beats = s.beats := rfl
@[simp] theorem State.setThread_beatNet (k : Nat) (x : Thread) : (s.setThread k x).beatNet = s.beatNet := rfl
@[simp] theorem State.setThread_errlog (k : Nat) (x : Thread) : (s.setThread k x).errlog = s.errlog := rfl
@[simp] theorem State.setThread_errOver (k : Nat) (x : Thread) : (s.setThread k x).errOver = s.errOver := rfl
@[simp] theorem State.setThread_patrol (k : Nat) (x : Thread) : (s.setThread k x).patrol = s.patrol := rfl
@[simp] theorem State.setThread_migs (k : Nat) (x : Thread) : (s.setThread k x).migs = s.migs := rfl
@[simp] theorem State.setThread_temps (k : Nat) (x : Thread) : (s.setThread k x).temps = s.temps := rfl
@[simp] theorem State.setThread_avoid (k : Nat) (x : Thread) : (s.setThread k x).avoid = s.avoid := rfl
@[simp] theorem State.setThread_droops (k : Nat) (x : Thread) : (s.setThread k x).droops = s.droops := rfl
@[simp] theorem State.setThread_rlog (k : Nat) (x : Thread) : (s.setThread k x).rlog = s.rlog := rfl
@[simp] theorem State.setThread_rlogFull (k : Nat) (x : Thread) : (s.setThread k x).rlogFull = s.rlogFull := rfl
@[simp] theorem State.setThread_rclocks (k : Nat) (x : Thread) : (s.setThread k x).rclocks = s.rclocks := rfl
@[simp] theorem State.setThread_rpend (k : Nat) (x : Thread) : (s.setThread k x).rpend = s.rpend := rfl
@[simp] theorem State.setThread_colls (k : Nat) (x : Thread) : (s.setThread k x).colls = s.colls := rfl
@[simp] theorem State.setThread_ckpt (k : Nat) (x : Thread) : (s.setThread k x).ckpt = s.ckpt := rfl
@[simp] theorem State.setThread_regions (k : Nat) (x : Thread) : (s.setThread k x).regions = s.regions := rfl
@[simp] theorem State.setThread_pkg (k : Nat) (x : Thread) : (s.setThread k x).pkg = s.pkg := rfl

/-! `setFloe` -/

@[simp] theorem State.setFloe_floes (k : Nat) (x : Floe) : (s.setFloe k x).floes = put s.floes k x := rfl
@[simp] theorem State.setFloe_agenda (k : Nat) (x : Floe) : (s.setFloe k x).agenda = s.agenda := rfl
@[simp] theorem State.setFloe_steps (k : Nat) (x : Floe) : (s.setFloe k x).steps = s.steps := rfl
@[simp] theorem State.setFloe_fresh (k : Nat) (x : Floe) : (s.setFloe k x).fresh = s.fresh := rfl
@[simp] theorem State.setFloe_nextId (k : Nat) (x : Floe) : (s.setFloe k x).nextId = s.nextId := rfl
@[simp] theorem State.setFloe_cur (k : Nat) (x : Floe) : (s.setFloe k x).cur = s.cur := rfl
@[simp] theorem State.setFloe_outbox (k : Nat) (x : Floe) : (s.setFloe k x).outbox = s.outbox := rfl
@[simp] theorem State.setFloe_clocks (k : Nat) (x : Floe) : (s.setFloe k x).clocks = s.clocks := rfl
@[simp] theorem State.setFloe_regs (k : Nat) (x : Floe) : (s.setFloe k x).regs = s.regs := rfl
@[simp] theorem State.setFloe_threads (k : Nat) (x : Floe) : (s.setFloe k x).threads = s.threads := rfl
@[simp] theorem State.setFloe_saves (k : Nat) (x : Floe) : (s.setFloe k x).saves = s.saves := rfl
@[simp] theorem State.setFloe_bins (k : Nat) (x : Floe) : (s.setFloe k x).bins = s.bins := rfl
@[simp] theorem State.setFloe_starting (k : Nat) (x : Floe) : (s.setFloe k x).starting = s.starting := rfl
@[simp] theorem State.setFloe_sched (k : Nat) (x : Floe) : (s.setFloe k x).sched = s.sched := rfl
@[simp] theorem State.setFloe_lfsr (k : Nat) (x : Floe) : (s.setFloe k x).lfsr = s.lfsr := rfl
@[simp] theorem State.setFloe_blocks (k : Nat) (x : Floe) : (s.setFloe k x).blocks = s.blocks := rfl
@[simp] theorem State.setFloe_bars (k : Nat) (x : Floe) : (s.setFloe k x).bars = s.bars := rfl
@[simp] theorem State.setFloe_cbufs (k : Nat) (x : Floe) : (s.setFloe k x).cbufs = s.cbufs := rfl
@[simp] theorem State.setFloe_tables (k : Nat) (x : Floe) : (s.setFloe k x).tables = s.tables := rfl
@[simp] theorem State.setFloe_accs (k : Nat) (x : Floe) : (s.setFloe k x).accs = s.accs := rfl
@[simp] theorem State.setFloe_allocs (k : Nat) (x : Floe) : (s.setFloe k x).allocs = s.allocs := rfl
@[simp] theorem State.setFloe_bankCtx (k : Nat) (x : Floe) : (s.setFloe k x).bankCtx = s.bankCtx := rfl
@[simp] theorem State.setFloe_unit (k : Nat) (x : Floe) : (s.setFloe k x).unit = s.unit := rfl
@[simp] theorem State.setFloe_clus (k : Nat) (x : Floe) : (s.setFloe k x).clus = s.clus := rfl
@[simp] theorem State.setFloe_dmem (k : Nat) (x : Floe) : (s.setFloe k x).dmem = s.dmem := rfl
@[simp] theorem State.setFloe_track (k : Nat) (x : Floe) : (s.setFloe k x).track = s.track := rfl
@[simp] theorem State.setFloe_maps (k : Nat) (x : Floe) : (s.setFloe k x).maps = s.maps := rfl
@[simp] theorem State.setFloe_grids (k : Nat) (x : Floe) : (s.setFloe k x).grids = s.grids := rfl
@[simp] theorem State.setFloe_tasks (k : Nat) (x : Floe) : (s.setFloe k x).tasks = s.tasks := rfl
@[simp] theorem State.setFloe_saved (k : Nat) (x : Floe) : (s.setFloe k x).saved = s.saved := rfl
@[simp] theorem State.setFloe_copies (k : Nat) (x : Floe) : (s.setFloe k x).copies = s.copies := rfl
@[simp] theorem State.setFloe_mmas (k : Nat) (x : Floe) : (s.setFloe k x).mmas = s.mmas := rfl
@[simp] theorem State.setFloe_net (k : Nat) (x : Floe) : (s.setFloe k x).net = s.net := rfl
@[simp] theorem State.setFloe_tokens (k : Nat) (x : Floe) : (s.setFloe k x).tokens = s.tokens := rfl
@[simp] theorem State.setFloe_due (k : Nat) (x : Floe) : (s.setFloe k x).due = s.due := rfl
@[simp] theorem State.setFloe_mem (k : Nat) (x : Floe) : (s.setFloe k x).mem = s.mem := rfl
@[simp] theorem State.setFloe_tags (k : Nat) (x : Floe) : (s.setFloe k x).tags = s.tags := rfl
@[simp] theorem State.setFloe_poison (k : Nat) (x : Floe) : (s.setFloe k x).poison = s.poison := rfl
@[simp] theorem State.setFloe_hostMem (k : Nat) (x : Floe) : (s.setFloe k x).hostMem = s.hostMem := rfl
@[simp] theorem State.setFloe_ctxTab (k : Nat) (x : Floe) : (s.setFloe k x).ctxTab = s.ctxTab := rfl
@[simp] theorem State.setFloe_ctxRegs (k : Nat) (x : Floe) : (s.setFloe k x).ctxRegs = s.ctxRegs := rfl
@[simp] theorem State.setFloe_dieRegs (k : Nat) (x : Floe) : (s.setFloe k x).dieRegs = s.dieRegs := rfl
@[simp] theorem State.setFloe_csrs (k : Nat) (x : Floe) : (s.setFloe k x).csrs = s.csrs := rfl
@[simp] theorem State.setFloe_cmds (k : Nat) (x : Floe) : (s.setFloe k x).cmds = s.cmds := rfl
@[simp] theorem State.setFloe_tlb (k : Nat) (x : Floe) : (s.setFloe k x).tlb = s.tlb := rfl
@[simp] theorem State.setFloe_segs (k : Nat) (x : Floe) : (s.setFloe k x).segs = s.segs := rfl
@[simp] theorem State.setFloe_latent (k : Nat) (x : Floe) : (s.setFloe k x).latent = s.latent := rfl
@[simp] theorem State.setFloe_dir (k : Nat) (x : Floe) : (s.setFloe k x).dir = s.dir := rfl
@[simp] theorem State.setFloe_recs (k : Nat) (x : Floe) : (s.setFloe k x).recs = s.recs := rfl
@[simp] theorem State.setFloe_lone (k : Nat) (x : Floe) : (s.setFloe k x).lone = s.lone := rfl
@[simp] theorem State.setFloe_starts (k : Nat) (x : Floe) : (s.setFloe k x).starts = s.starts := rfl
@[simp] theorem State.setFloe_race (k : Nat) (x : Floe) : (s.setFloe k x).race = s.race := rfl
@[simp] theorem State.setFloe_raceBy (k : Nat) (x : Floe) : (s.setFloe k x).raceBy = s.raceBy := rfl
@[simp] theorem State.setFloe_fills (k : Nat) (x : Floe) : (s.setFloe k x).fills = s.fills := rfl
@[simp] theorem State.setFloe_recNext (k : Nat) (x : Floe) : (s.setFloe k x).recNext = s.recNext := rfl
@[simp] theorem State.setFloe_syncs (k : Nat) (x : Floe) : (s.setFloe k x).syncs = s.syncs := rfl
@[simp] theorem State.setFloe_rfold (k : Nat) (x : Floe) : (s.setFloe k x).rfold = s.rfold := rfl
@[simp] theorem State.setFloe_preempting (k : Nat) (x : Floe) : (s.setFloe k x).preempting = s.preempting := rfl
@[simp] theorem State.setFloe_wbs (k : Nat) (x : Floe) : (s.setFloe k x).wbs = s.wbs := rfl
@[simp] theorem State.setFloe_arrays (k : Nat) (x : Floe) : (s.setFloe k x).arrays = s.arrays := rfl
@[simp] theorem State.setFloe_reserved (k : Nat) (x : Floe) : (s.setFloe k x).reserved = s.reserved := rfl
@[simp] theorem State.setFloe_mcasts (k : Nat) (x : Floe) : (s.setFloe k x).mcasts = s.mcasts := rfl
@[simp] theorem State.setFloe_dumps (k : Nat) (x : Floe) : (s.setFloe k x).dumps = s.dumps := rfl
@[simp] theorem State.setFloe_invals (k : Nat) (x : Floe) : (s.setFloe k x).invals = s.invals := rfl
@[simp] theorem State.setFloe_atsOut (k : Nat) (x : Floe) : (s.setFloe k x).atsOut = s.atsOut := rfl
@[simp] theorem State.setFloe_devWait (k : Nat) (x : Floe) : (s.setFloe k x).devWait = s.devWait := rfl
@[simp] theorem State.setFloe_fpages (k : Nat) (x : Floe) : (s.setFloe k x).fpages = s.fpages := rfl
@[simp] theorem State.setFloe_segReqs (k : Nat) (x : Floe) : (s.setFloe k x).segReqs = s.segReqs := rfl
@[simp] theorem State.setFloe_forms (k : Nat) (x : Floe) : (s.setFloe k x).forms = s.forms := rfl
@[simp] theorem State.setFloe_links (k : Nat) (x : Floe) : (s.setFloe k x).links = s.links := rfl
@[simp] theorem State.setFloe_recalls (k : Nat) (x : Floe) : (s.setFloe k x).recalls = s.recalls := rfl
@[simp] theorem State.setFloe_dirRecs (k : Nat) (x : Floe) : (s.setFloe k x).dirRecs = s.dirRecs := rfl
@[simp] theorem State.setFloe_withheld (k : Nat) (x : Floe) : (s.setFloe k x).withheld = s.withheld := rfl
@[simp] theorem State.setFloe_launches (k : Nat) (x : Floe) : (s.setFloe k x).launches = s.launches := rfl
@[simp] theorem State.setFloe_lines (k : Nat) (x : Floe) : (s.setFloe k x).lines = s.lines := rfl
@[simp] theorem State.setFloe_aliases (k : Nat) (x : Floe) : (s.setFloe k x).aliases = s.aliases := rfl
@[simp] theorem State.setFloe_scrubs (k : Nat) (x : Floe) : (s.setFloe k x).scrubs = s.scrubs := rfl
@[simp] theorem State.setFloe_schedules (k : Nat) (x : Floe) : (s.setFloe k x).schedules = s.schedules := rfl
@[simp] theorem State.setFloe_linkDirs (k : Nat) (x : Floe) : (s.setFloe k x).linkDirs = s.linkDirs := rfl
@[simp] theorem State.setFloe_beats (k : Nat) (x : Floe) : (s.setFloe k x).beats = s.beats := rfl
@[simp] theorem State.setFloe_beatNet (k : Nat) (x : Floe) : (s.setFloe k x).beatNet = s.beatNet := rfl
@[simp] theorem State.setFloe_errlog (k : Nat) (x : Floe) : (s.setFloe k x).errlog = s.errlog := rfl
@[simp] theorem State.setFloe_errOver (k : Nat) (x : Floe) : (s.setFloe k x).errOver = s.errOver := rfl
@[simp] theorem State.setFloe_patrol (k : Nat) (x : Floe) : (s.setFloe k x).patrol = s.patrol := rfl
@[simp] theorem State.setFloe_migs (k : Nat) (x : Floe) : (s.setFloe k x).migs = s.migs := rfl
@[simp] theorem State.setFloe_temps (k : Nat) (x : Floe) : (s.setFloe k x).temps = s.temps := rfl
@[simp] theorem State.setFloe_avoid (k : Nat) (x : Floe) : (s.setFloe k x).avoid = s.avoid := rfl
@[simp] theorem State.setFloe_droops (k : Nat) (x : Floe) : (s.setFloe k x).droops = s.droops := rfl
@[simp] theorem State.setFloe_rlog (k : Nat) (x : Floe) : (s.setFloe k x).rlog = s.rlog := rfl
@[simp] theorem State.setFloe_rlogFull (k : Nat) (x : Floe) : (s.setFloe k x).rlogFull = s.rlogFull := rfl
@[simp] theorem State.setFloe_rclocks (k : Nat) (x : Floe) : (s.setFloe k x).rclocks = s.rclocks := rfl
@[simp] theorem State.setFloe_rpend (k : Nat) (x : Floe) : (s.setFloe k x).rpend = s.rpend := rfl
@[simp] theorem State.setFloe_colls (k : Nat) (x : Floe) : (s.setFloe k x).colls = s.colls := rfl
@[simp] theorem State.setFloe_ckpt (k : Nat) (x : Floe) : (s.setFloe k x).ckpt = s.ckpt := rfl
@[simp] theorem State.setFloe_regions (k : Nat) (x : Floe) : (s.setFloe k x).regions = s.regions := rfl
@[simp] theorem State.setFloe_pkg (k : Nat) (x : Floe) : (s.setFloe k x).pkg = s.pkg := rfl

/-! `setBlock` -/

@[simp] theorem State.setBlock_blocks (k : Nat) (x : Block) : (s.setBlock k x).blocks = put s.blocks k x := rfl
@[simp] theorem State.setBlock_agenda (k : Nat) (x : Block) : (s.setBlock k x).agenda = s.agenda := rfl
@[simp] theorem State.setBlock_steps (k : Nat) (x : Block) : (s.setBlock k x).steps = s.steps := rfl
@[simp] theorem State.setBlock_fresh (k : Nat) (x : Block) : (s.setBlock k x).fresh = s.fresh := rfl
@[simp] theorem State.setBlock_nextId (k : Nat) (x : Block) : (s.setBlock k x).nextId = s.nextId := rfl
@[simp] theorem State.setBlock_cur (k : Nat) (x : Block) : (s.setBlock k x).cur = s.cur := rfl
@[simp] theorem State.setBlock_outbox (k : Nat) (x : Block) : (s.setBlock k x).outbox = s.outbox := rfl
@[simp] theorem State.setBlock_clocks (k : Nat) (x : Block) : (s.setBlock k x).clocks = s.clocks := rfl
@[simp] theorem State.setBlock_regs (k : Nat) (x : Block) : (s.setBlock k x).regs = s.regs := rfl
@[simp] theorem State.setBlock_threads (k : Nat) (x : Block) : (s.setBlock k x).threads = s.threads := rfl
@[simp] theorem State.setBlock_floes (k : Nat) (x : Block) : (s.setBlock k x).floes = s.floes := rfl
@[simp] theorem State.setBlock_saves (k : Nat) (x : Block) : (s.setBlock k x).saves = s.saves := rfl
@[simp] theorem State.setBlock_bins (k : Nat) (x : Block) : (s.setBlock k x).bins = s.bins := rfl
@[simp] theorem State.setBlock_starting (k : Nat) (x : Block) : (s.setBlock k x).starting = s.starting := rfl
@[simp] theorem State.setBlock_sched (k : Nat) (x : Block) : (s.setBlock k x).sched = s.sched := rfl
@[simp] theorem State.setBlock_lfsr (k : Nat) (x : Block) : (s.setBlock k x).lfsr = s.lfsr := rfl
@[simp] theorem State.setBlock_bars (k : Nat) (x : Block) : (s.setBlock k x).bars = s.bars := rfl
@[simp] theorem State.setBlock_cbufs (k : Nat) (x : Block) : (s.setBlock k x).cbufs = s.cbufs := rfl
@[simp] theorem State.setBlock_tables (k : Nat) (x : Block) : (s.setBlock k x).tables = s.tables := rfl
@[simp] theorem State.setBlock_accs (k : Nat) (x : Block) : (s.setBlock k x).accs = s.accs := rfl
@[simp] theorem State.setBlock_allocs (k : Nat) (x : Block) : (s.setBlock k x).allocs = s.allocs := rfl
@[simp] theorem State.setBlock_bankCtx (k : Nat) (x : Block) : (s.setBlock k x).bankCtx = s.bankCtx := rfl
@[simp] theorem State.setBlock_unit (k : Nat) (x : Block) : (s.setBlock k x).unit = s.unit := rfl
@[simp] theorem State.setBlock_clus (k : Nat) (x : Block) : (s.setBlock k x).clus = s.clus := rfl
@[simp] theorem State.setBlock_dmem (k : Nat) (x : Block) : (s.setBlock k x).dmem = s.dmem := rfl
@[simp] theorem State.setBlock_track (k : Nat) (x : Block) : (s.setBlock k x).track = s.track := rfl
@[simp] theorem State.setBlock_maps (k : Nat) (x : Block) : (s.setBlock k x).maps = s.maps := rfl
@[simp] theorem State.setBlock_grids (k : Nat) (x : Block) : (s.setBlock k x).grids = s.grids := rfl
@[simp] theorem State.setBlock_tasks (k : Nat) (x : Block) : (s.setBlock k x).tasks = s.tasks := rfl
@[simp] theorem State.setBlock_saved (k : Nat) (x : Block) : (s.setBlock k x).saved = s.saved := rfl
@[simp] theorem State.setBlock_copies (k : Nat) (x : Block) : (s.setBlock k x).copies = s.copies := rfl
@[simp] theorem State.setBlock_mmas (k : Nat) (x : Block) : (s.setBlock k x).mmas = s.mmas := rfl
@[simp] theorem State.setBlock_net (k : Nat) (x : Block) : (s.setBlock k x).net = s.net := rfl
@[simp] theorem State.setBlock_tokens (k : Nat) (x : Block) : (s.setBlock k x).tokens = s.tokens := rfl
@[simp] theorem State.setBlock_due (k : Nat) (x : Block) : (s.setBlock k x).due = s.due := rfl
@[simp] theorem State.setBlock_mem (k : Nat) (x : Block) : (s.setBlock k x).mem = s.mem := rfl
@[simp] theorem State.setBlock_tags (k : Nat) (x : Block) : (s.setBlock k x).tags = s.tags := rfl
@[simp] theorem State.setBlock_poison (k : Nat) (x : Block) : (s.setBlock k x).poison = s.poison := rfl
@[simp] theorem State.setBlock_hostMem (k : Nat) (x : Block) : (s.setBlock k x).hostMem = s.hostMem := rfl
@[simp] theorem State.setBlock_ctxTab (k : Nat) (x : Block) : (s.setBlock k x).ctxTab = s.ctxTab := rfl
@[simp] theorem State.setBlock_ctxRegs (k : Nat) (x : Block) : (s.setBlock k x).ctxRegs = s.ctxRegs := rfl
@[simp] theorem State.setBlock_dieRegs (k : Nat) (x : Block) : (s.setBlock k x).dieRegs = s.dieRegs := rfl
@[simp] theorem State.setBlock_csrs (k : Nat) (x : Block) : (s.setBlock k x).csrs = s.csrs := rfl
@[simp] theorem State.setBlock_cmds (k : Nat) (x : Block) : (s.setBlock k x).cmds = s.cmds := rfl
@[simp] theorem State.setBlock_tlb (k : Nat) (x : Block) : (s.setBlock k x).tlb = s.tlb := rfl
@[simp] theorem State.setBlock_segs (k : Nat) (x : Block) : (s.setBlock k x).segs = s.segs := rfl
@[simp] theorem State.setBlock_latent (k : Nat) (x : Block) : (s.setBlock k x).latent = s.latent := rfl
@[simp] theorem State.setBlock_dir (k : Nat) (x : Block) : (s.setBlock k x).dir = s.dir := rfl
@[simp] theorem State.setBlock_recs (k : Nat) (x : Block) : (s.setBlock k x).recs = s.recs := rfl
@[simp] theorem State.setBlock_lone (k : Nat) (x : Block) : (s.setBlock k x).lone = s.lone := rfl
@[simp] theorem State.setBlock_starts (k : Nat) (x : Block) : (s.setBlock k x).starts = s.starts := rfl
@[simp] theorem State.setBlock_race (k : Nat) (x : Block) : (s.setBlock k x).race = s.race := rfl
@[simp] theorem State.setBlock_raceBy (k : Nat) (x : Block) : (s.setBlock k x).raceBy = s.raceBy := rfl
@[simp] theorem State.setBlock_fills (k : Nat) (x : Block) : (s.setBlock k x).fills = s.fills := rfl
@[simp] theorem State.setBlock_recNext (k : Nat) (x : Block) : (s.setBlock k x).recNext = s.recNext := rfl
@[simp] theorem State.setBlock_syncs (k : Nat) (x : Block) : (s.setBlock k x).syncs = s.syncs := rfl
@[simp] theorem State.setBlock_rfold (k : Nat) (x : Block) : (s.setBlock k x).rfold = s.rfold := rfl
@[simp] theorem State.setBlock_preempting (k : Nat) (x : Block) : (s.setBlock k x).preempting = s.preempting := rfl
@[simp] theorem State.setBlock_wbs (k : Nat) (x : Block) : (s.setBlock k x).wbs = s.wbs := rfl
@[simp] theorem State.setBlock_arrays (k : Nat) (x : Block) : (s.setBlock k x).arrays = s.arrays := rfl
@[simp] theorem State.setBlock_reserved (k : Nat) (x : Block) : (s.setBlock k x).reserved = s.reserved := rfl
@[simp] theorem State.setBlock_mcasts (k : Nat) (x : Block) : (s.setBlock k x).mcasts = s.mcasts := rfl
@[simp] theorem State.setBlock_dumps (k : Nat) (x : Block) : (s.setBlock k x).dumps = s.dumps := rfl
@[simp] theorem State.setBlock_invals (k : Nat) (x : Block) : (s.setBlock k x).invals = s.invals := rfl
@[simp] theorem State.setBlock_atsOut (k : Nat) (x : Block) : (s.setBlock k x).atsOut = s.atsOut := rfl
@[simp] theorem State.setBlock_devWait (k : Nat) (x : Block) : (s.setBlock k x).devWait = s.devWait := rfl
@[simp] theorem State.setBlock_fpages (k : Nat) (x : Block) : (s.setBlock k x).fpages = s.fpages := rfl
@[simp] theorem State.setBlock_segReqs (k : Nat) (x : Block) : (s.setBlock k x).segReqs = s.segReqs := rfl
@[simp] theorem State.setBlock_forms (k : Nat) (x : Block) : (s.setBlock k x).forms = s.forms := rfl
@[simp] theorem State.setBlock_links (k : Nat) (x : Block) : (s.setBlock k x).links = s.links := rfl
@[simp] theorem State.setBlock_recalls (k : Nat) (x : Block) : (s.setBlock k x).recalls = s.recalls := rfl
@[simp] theorem State.setBlock_dirRecs (k : Nat) (x : Block) : (s.setBlock k x).dirRecs = s.dirRecs := rfl
@[simp] theorem State.setBlock_withheld (k : Nat) (x : Block) : (s.setBlock k x).withheld = s.withheld := rfl
@[simp] theorem State.setBlock_launches (k : Nat) (x : Block) : (s.setBlock k x).launches = s.launches := rfl
@[simp] theorem State.setBlock_lines (k : Nat) (x : Block) : (s.setBlock k x).lines = s.lines := rfl
@[simp] theorem State.setBlock_aliases (k : Nat) (x : Block) : (s.setBlock k x).aliases = s.aliases := rfl
@[simp] theorem State.setBlock_scrubs (k : Nat) (x : Block) : (s.setBlock k x).scrubs = s.scrubs := rfl
@[simp] theorem State.setBlock_schedules (k : Nat) (x : Block) : (s.setBlock k x).schedules = s.schedules := rfl
@[simp] theorem State.setBlock_linkDirs (k : Nat) (x : Block) : (s.setBlock k x).linkDirs = s.linkDirs := rfl
@[simp] theorem State.setBlock_beats (k : Nat) (x : Block) : (s.setBlock k x).beats = s.beats := rfl
@[simp] theorem State.setBlock_beatNet (k : Nat) (x : Block) : (s.setBlock k x).beatNet = s.beatNet := rfl
@[simp] theorem State.setBlock_errlog (k : Nat) (x : Block) : (s.setBlock k x).errlog = s.errlog := rfl
@[simp] theorem State.setBlock_errOver (k : Nat) (x : Block) : (s.setBlock k x).errOver = s.errOver := rfl
@[simp] theorem State.setBlock_patrol (k : Nat) (x : Block) : (s.setBlock k x).patrol = s.patrol := rfl
@[simp] theorem State.setBlock_migs (k : Nat) (x : Block) : (s.setBlock k x).migs = s.migs := rfl
@[simp] theorem State.setBlock_temps (k : Nat) (x : Block) : (s.setBlock k x).temps = s.temps := rfl
@[simp] theorem State.setBlock_avoid (k : Nat) (x : Block) : (s.setBlock k x).avoid = s.avoid := rfl
@[simp] theorem State.setBlock_droops (k : Nat) (x : Block) : (s.setBlock k x).droops = s.droops := rfl
@[simp] theorem State.setBlock_rlog (k : Nat) (x : Block) : (s.setBlock k x).rlog = s.rlog := rfl
@[simp] theorem State.setBlock_rlogFull (k : Nat) (x : Block) : (s.setBlock k x).rlogFull = s.rlogFull := rfl
@[simp] theorem State.setBlock_rclocks (k : Nat) (x : Block) : (s.setBlock k x).rclocks = s.rclocks := rfl
@[simp] theorem State.setBlock_rpend (k : Nat) (x : Block) : (s.setBlock k x).rpend = s.rpend := rfl
@[simp] theorem State.setBlock_colls (k : Nat) (x : Block) : (s.setBlock k x).colls = s.colls := rfl
@[simp] theorem State.setBlock_ckpt (k : Nat) (x : Block) : (s.setBlock k x).ckpt = s.ckpt := rfl
@[simp] theorem State.setBlock_regions (k : Nat) (x : Block) : (s.setBlock k x).regions = s.regions := rfl
@[simp] theorem State.setBlock_pkg (k : Nat) (x : Block) : (s.setBlock k x).pkg = s.pkg := rfl

/-! `setGrid` -/

@[simp] theorem State.setGrid_grids (k : Nat) (x : Grid) : (s.setGrid k x).grids = put s.grids k x := rfl
@[simp] theorem State.setGrid_agenda (k : Nat) (x : Grid) : (s.setGrid k x).agenda = s.agenda := rfl
@[simp] theorem State.setGrid_steps (k : Nat) (x : Grid) : (s.setGrid k x).steps = s.steps := rfl
@[simp] theorem State.setGrid_fresh (k : Nat) (x : Grid) : (s.setGrid k x).fresh = s.fresh := rfl
@[simp] theorem State.setGrid_nextId (k : Nat) (x : Grid) : (s.setGrid k x).nextId = s.nextId := rfl
@[simp] theorem State.setGrid_cur (k : Nat) (x : Grid) : (s.setGrid k x).cur = s.cur := rfl
@[simp] theorem State.setGrid_outbox (k : Nat) (x : Grid) : (s.setGrid k x).outbox = s.outbox := rfl
@[simp] theorem State.setGrid_clocks (k : Nat) (x : Grid) : (s.setGrid k x).clocks = s.clocks := rfl
@[simp] theorem State.setGrid_regs (k : Nat) (x : Grid) : (s.setGrid k x).regs = s.regs := rfl
@[simp] theorem State.setGrid_threads (k : Nat) (x : Grid) : (s.setGrid k x).threads = s.threads := rfl
@[simp] theorem State.setGrid_floes (k : Nat) (x : Grid) : (s.setGrid k x).floes = s.floes := rfl
@[simp] theorem State.setGrid_saves (k : Nat) (x : Grid) : (s.setGrid k x).saves = s.saves := rfl
@[simp] theorem State.setGrid_bins (k : Nat) (x : Grid) : (s.setGrid k x).bins = s.bins := rfl
@[simp] theorem State.setGrid_starting (k : Nat) (x : Grid) : (s.setGrid k x).starting = s.starting := rfl
@[simp] theorem State.setGrid_sched (k : Nat) (x : Grid) : (s.setGrid k x).sched = s.sched := rfl
@[simp] theorem State.setGrid_lfsr (k : Nat) (x : Grid) : (s.setGrid k x).lfsr = s.lfsr := rfl
@[simp] theorem State.setGrid_blocks (k : Nat) (x : Grid) : (s.setGrid k x).blocks = s.blocks := rfl
@[simp] theorem State.setGrid_bars (k : Nat) (x : Grid) : (s.setGrid k x).bars = s.bars := rfl
@[simp] theorem State.setGrid_cbufs (k : Nat) (x : Grid) : (s.setGrid k x).cbufs = s.cbufs := rfl
@[simp] theorem State.setGrid_tables (k : Nat) (x : Grid) : (s.setGrid k x).tables = s.tables := rfl
@[simp] theorem State.setGrid_accs (k : Nat) (x : Grid) : (s.setGrid k x).accs = s.accs := rfl
@[simp] theorem State.setGrid_allocs (k : Nat) (x : Grid) : (s.setGrid k x).allocs = s.allocs := rfl
@[simp] theorem State.setGrid_bankCtx (k : Nat) (x : Grid) : (s.setGrid k x).bankCtx = s.bankCtx := rfl
@[simp] theorem State.setGrid_unit (k : Nat) (x : Grid) : (s.setGrid k x).unit = s.unit := rfl
@[simp] theorem State.setGrid_clus (k : Nat) (x : Grid) : (s.setGrid k x).clus = s.clus := rfl
@[simp] theorem State.setGrid_dmem (k : Nat) (x : Grid) : (s.setGrid k x).dmem = s.dmem := rfl
@[simp] theorem State.setGrid_track (k : Nat) (x : Grid) : (s.setGrid k x).track = s.track := rfl
@[simp] theorem State.setGrid_maps (k : Nat) (x : Grid) : (s.setGrid k x).maps = s.maps := rfl
@[simp] theorem State.setGrid_tasks (k : Nat) (x : Grid) : (s.setGrid k x).tasks = s.tasks := rfl
@[simp] theorem State.setGrid_saved (k : Nat) (x : Grid) : (s.setGrid k x).saved = s.saved := rfl
@[simp] theorem State.setGrid_copies (k : Nat) (x : Grid) : (s.setGrid k x).copies = s.copies := rfl
@[simp] theorem State.setGrid_mmas (k : Nat) (x : Grid) : (s.setGrid k x).mmas = s.mmas := rfl
@[simp] theorem State.setGrid_net (k : Nat) (x : Grid) : (s.setGrid k x).net = s.net := rfl
@[simp] theorem State.setGrid_tokens (k : Nat) (x : Grid) : (s.setGrid k x).tokens = s.tokens := rfl
@[simp] theorem State.setGrid_due (k : Nat) (x : Grid) : (s.setGrid k x).due = s.due := rfl
@[simp] theorem State.setGrid_mem (k : Nat) (x : Grid) : (s.setGrid k x).mem = s.mem := rfl
@[simp] theorem State.setGrid_tags (k : Nat) (x : Grid) : (s.setGrid k x).tags = s.tags := rfl
@[simp] theorem State.setGrid_poison (k : Nat) (x : Grid) : (s.setGrid k x).poison = s.poison := rfl
@[simp] theorem State.setGrid_hostMem (k : Nat) (x : Grid) : (s.setGrid k x).hostMem = s.hostMem := rfl
@[simp] theorem State.setGrid_ctxTab (k : Nat) (x : Grid) : (s.setGrid k x).ctxTab = s.ctxTab := rfl
@[simp] theorem State.setGrid_ctxRegs (k : Nat) (x : Grid) : (s.setGrid k x).ctxRegs = s.ctxRegs := rfl
@[simp] theorem State.setGrid_dieRegs (k : Nat) (x : Grid) : (s.setGrid k x).dieRegs = s.dieRegs := rfl
@[simp] theorem State.setGrid_csrs (k : Nat) (x : Grid) : (s.setGrid k x).csrs = s.csrs := rfl
@[simp] theorem State.setGrid_cmds (k : Nat) (x : Grid) : (s.setGrid k x).cmds = s.cmds := rfl
@[simp] theorem State.setGrid_tlb (k : Nat) (x : Grid) : (s.setGrid k x).tlb = s.tlb := rfl
@[simp] theorem State.setGrid_segs (k : Nat) (x : Grid) : (s.setGrid k x).segs = s.segs := rfl
@[simp] theorem State.setGrid_latent (k : Nat) (x : Grid) : (s.setGrid k x).latent = s.latent := rfl
@[simp] theorem State.setGrid_dir (k : Nat) (x : Grid) : (s.setGrid k x).dir = s.dir := rfl
@[simp] theorem State.setGrid_recs (k : Nat) (x : Grid) : (s.setGrid k x).recs = s.recs := rfl
@[simp] theorem State.setGrid_lone (k : Nat) (x : Grid) : (s.setGrid k x).lone = s.lone := rfl
@[simp] theorem State.setGrid_starts (k : Nat) (x : Grid) : (s.setGrid k x).starts = s.starts := rfl
@[simp] theorem State.setGrid_race (k : Nat) (x : Grid) : (s.setGrid k x).race = s.race := rfl
@[simp] theorem State.setGrid_raceBy (k : Nat) (x : Grid) : (s.setGrid k x).raceBy = s.raceBy := rfl
@[simp] theorem State.setGrid_fills (k : Nat) (x : Grid) : (s.setGrid k x).fills = s.fills := rfl
@[simp] theorem State.setGrid_recNext (k : Nat) (x : Grid) : (s.setGrid k x).recNext = s.recNext := rfl
@[simp] theorem State.setGrid_syncs (k : Nat) (x : Grid) : (s.setGrid k x).syncs = s.syncs := rfl
@[simp] theorem State.setGrid_rfold (k : Nat) (x : Grid) : (s.setGrid k x).rfold = s.rfold := rfl
@[simp] theorem State.setGrid_preempting (k : Nat) (x : Grid) : (s.setGrid k x).preempting = s.preempting := rfl
@[simp] theorem State.setGrid_wbs (k : Nat) (x : Grid) : (s.setGrid k x).wbs = s.wbs := rfl
@[simp] theorem State.setGrid_arrays (k : Nat) (x : Grid) : (s.setGrid k x).arrays = s.arrays := rfl
@[simp] theorem State.setGrid_reserved (k : Nat) (x : Grid) : (s.setGrid k x).reserved = s.reserved := rfl
@[simp] theorem State.setGrid_mcasts (k : Nat) (x : Grid) : (s.setGrid k x).mcasts = s.mcasts := rfl
@[simp] theorem State.setGrid_dumps (k : Nat) (x : Grid) : (s.setGrid k x).dumps = s.dumps := rfl
@[simp] theorem State.setGrid_invals (k : Nat) (x : Grid) : (s.setGrid k x).invals = s.invals := rfl
@[simp] theorem State.setGrid_atsOut (k : Nat) (x : Grid) : (s.setGrid k x).atsOut = s.atsOut := rfl
@[simp] theorem State.setGrid_devWait (k : Nat) (x : Grid) : (s.setGrid k x).devWait = s.devWait := rfl
@[simp] theorem State.setGrid_fpages (k : Nat) (x : Grid) : (s.setGrid k x).fpages = s.fpages := rfl
@[simp] theorem State.setGrid_segReqs (k : Nat) (x : Grid) : (s.setGrid k x).segReqs = s.segReqs := rfl
@[simp] theorem State.setGrid_forms (k : Nat) (x : Grid) : (s.setGrid k x).forms = s.forms := rfl
@[simp] theorem State.setGrid_links (k : Nat) (x : Grid) : (s.setGrid k x).links = s.links := rfl
@[simp] theorem State.setGrid_recalls (k : Nat) (x : Grid) : (s.setGrid k x).recalls = s.recalls := rfl
@[simp] theorem State.setGrid_dirRecs (k : Nat) (x : Grid) : (s.setGrid k x).dirRecs = s.dirRecs := rfl
@[simp] theorem State.setGrid_withheld (k : Nat) (x : Grid) : (s.setGrid k x).withheld = s.withheld := rfl
@[simp] theorem State.setGrid_launches (k : Nat) (x : Grid) : (s.setGrid k x).launches = s.launches := rfl
@[simp] theorem State.setGrid_lines (k : Nat) (x : Grid) : (s.setGrid k x).lines = s.lines := rfl
@[simp] theorem State.setGrid_aliases (k : Nat) (x : Grid) : (s.setGrid k x).aliases = s.aliases := rfl
@[simp] theorem State.setGrid_scrubs (k : Nat) (x : Grid) : (s.setGrid k x).scrubs = s.scrubs := rfl
@[simp] theorem State.setGrid_schedules (k : Nat) (x : Grid) : (s.setGrid k x).schedules = s.schedules := rfl
@[simp] theorem State.setGrid_linkDirs (k : Nat) (x : Grid) : (s.setGrid k x).linkDirs = s.linkDirs := rfl
@[simp] theorem State.setGrid_beats (k : Nat) (x : Grid) : (s.setGrid k x).beats = s.beats := rfl
@[simp] theorem State.setGrid_beatNet (k : Nat) (x : Grid) : (s.setGrid k x).beatNet = s.beatNet := rfl
@[simp] theorem State.setGrid_errlog (k : Nat) (x : Grid) : (s.setGrid k x).errlog = s.errlog := rfl
@[simp] theorem State.setGrid_errOver (k : Nat) (x : Grid) : (s.setGrid k x).errOver = s.errOver := rfl
@[simp] theorem State.setGrid_patrol (k : Nat) (x : Grid) : (s.setGrid k x).patrol = s.patrol := rfl
@[simp] theorem State.setGrid_migs (k : Nat) (x : Grid) : (s.setGrid k x).migs = s.migs := rfl
@[simp] theorem State.setGrid_temps (k : Nat) (x : Grid) : (s.setGrid k x).temps = s.temps := rfl
@[simp] theorem State.setGrid_avoid (k : Nat) (x : Grid) : (s.setGrid k x).avoid = s.avoid := rfl
@[simp] theorem State.setGrid_droops (k : Nat) (x : Grid) : (s.setGrid k x).droops = s.droops := rfl
@[simp] theorem State.setGrid_rlog (k : Nat) (x : Grid) : (s.setGrid k x).rlog = s.rlog := rfl
@[simp] theorem State.setGrid_rlogFull (k : Nat) (x : Grid) : (s.setGrid k x).rlogFull = s.rlogFull := rfl
@[simp] theorem State.setGrid_rclocks (k : Nat) (x : Grid) : (s.setGrid k x).rclocks = s.rclocks := rfl
@[simp] theorem State.setGrid_rpend (k : Nat) (x : Grid) : (s.setGrid k x).rpend = s.rpend := rfl
@[simp] theorem State.setGrid_colls (k : Nat) (x : Grid) : (s.setGrid k x).colls = s.colls := rfl
@[simp] theorem State.setGrid_ckpt (k : Nat) (x : Grid) : (s.setGrid k x).ckpt = s.ckpt := rfl
@[simp] theorem State.setGrid_regions (k : Nat) (x : Grid) : (s.setGrid k x).regions = s.regions := rfl
@[simp] theorem State.setGrid_pkg (k : Nat) (x : Grid) : (s.setGrid k x).pkg = s.pkg := rfl

/-! `setLfsr` -/

@[simp] theorem State.setLfsr_lfsr (k : Nat) (v : Word) : (s.setLfsr k v).lfsr = putD 1 s.lfsr k (if v = 0 then 1 else v) := rfl
@[simp] theorem State.setLfsr_agenda (k : Nat) (v : Word) : (s.setLfsr k v).agenda = s.agenda := rfl
@[simp] theorem State.setLfsr_steps (k : Nat) (v : Word) : (s.setLfsr k v).steps = s.steps := rfl
@[simp] theorem State.setLfsr_fresh (k : Nat) (v : Word) : (s.setLfsr k v).fresh = s.fresh := rfl
@[simp] theorem State.setLfsr_nextId (k : Nat) (v : Word) : (s.setLfsr k v).nextId = s.nextId := rfl
@[simp] theorem State.setLfsr_cur (k : Nat) (v : Word) : (s.setLfsr k v).cur = s.cur := rfl
@[simp] theorem State.setLfsr_outbox (k : Nat) (v : Word) : (s.setLfsr k v).outbox = s.outbox := rfl
@[simp] theorem State.setLfsr_clocks (k : Nat) (v : Word) : (s.setLfsr k v).clocks = s.clocks := rfl
@[simp] theorem State.setLfsr_regs (k : Nat) (v : Word) : (s.setLfsr k v).regs = s.regs := rfl
@[simp] theorem State.setLfsr_threads (k : Nat) (v : Word) : (s.setLfsr k v).threads = s.threads := rfl
@[simp] theorem State.setLfsr_floes (k : Nat) (v : Word) : (s.setLfsr k v).floes = s.floes := rfl
@[simp] theorem State.setLfsr_saves (k : Nat) (v : Word) : (s.setLfsr k v).saves = s.saves := rfl
@[simp] theorem State.setLfsr_bins (k : Nat) (v : Word) : (s.setLfsr k v).bins = s.bins := rfl
@[simp] theorem State.setLfsr_starting (k : Nat) (v : Word) : (s.setLfsr k v).starting = s.starting := rfl
@[simp] theorem State.setLfsr_sched (k : Nat) (v : Word) : (s.setLfsr k v).sched = s.sched := rfl
@[simp] theorem State.setLfsr_blocks (k : Nat) (v : Word) : (s.setLfsr k v).blocks = s.blocks := rfl
@[simp] theorem State.setLfsr_bars (k : Nat) (v : Word) : (s.setLfsr k v).bars = s.bars := rfl
@[simp] theorem State.setLfsr_cbufs (k : Nat) (v : Word) : (s.setLfsr k v).cbufs = s.cbufs := rfl
@[simp] theorem State.setLfsr_tables (k : Nat) (v : Word) : (s.setLfsr k v).tables = s.tables := rfl
@[simp] theorem State.setLfsr_accs (k : Nat) (v : Word) : (s.setLfsr k v).accs = s.accs := rfl
@[simp] theorem State.setLfsr_allocs (k : Nat) (v : Word) : (s.setLfsr k v).allocs = s.allocs := rfl
@[simp] theorem State.setLfsr_bankCtx (k : Nat) (v : Word) : (s.setLfsr k v).bankCtx = s.bankCtx := rfl
@[simp] theorem State.setLfsr_unit (k : Nat) (v : Word) : (s.setLfsr k v).unit = s.unit := rfl
@[simp] theorem State.setLfsr_clus (k : Nat) (v : Word) : (s.setLfsr k v).clus = s.clus := rfl
@[simp] theorem State.setLfsr_dmem (k : Nat) (v : Word) : (s.setLfsr k v).dmem = s.dmem := rfl
@[simp] theorem State.setLfsr_track (k : Nat) (v : Word) : (s.setLfsr k v).track = s.track := rfl
@[simp] theorem State.setLfsr_maps (k : Nat) (v : Word) : (s.setLfsr k v).maps = s.maps := rfl
@[simp] theorem State.setLfsr_grids (k : Nat) (v : Word) : (s.setLfsr k v).grids = s.grids := rfl
@[simp] theorem State.setLfsr_tasks (k : Nat) (v : Word) : (s.setLfsr k v).tasks = s.tasks := rfl
@[simp] theorem State.setLfsr_saved (k : Nat) (v : Word) : (s.setLfsr k v).saved = s.saved := rfl
@[simp] theorem State.setLfsr_copies (k : Nat) (v : Word) : (s.setLfsr k v).copies = s.copies := rfl
@[simp] theorem State.setLfsr_mmas (k : Nat) (v : Word) : (s.setLfsr k v).mmas = s.mmas := rfl
@[simp] theorem State.setLfsr_net (k : Nat) (v : Word) : (s.setLfsr k v).net = s.net := rfl
@[simp] theorem State.setLfsr_tokens (k : Nat) (v : Word) : (s.setLfsr k v).tokens = s.tokens := rfl
@[simp] theorem State.setLfsr_due (k : Nat) (v : Word) : (s.setLfsr k v).due = s.due := rfl
@[simp] theorem State.setLfsr_mem (k : Nat) (v : Word) : (s.setLfsr k v).mem = s.mem := rfl
@[simp] theorem State.setLfsr_tags (k : Nat) (v : Word) : (s.setLfsr k v).tags = s.tags := rfl
@[simp] theorem State.setLfsr_poison (k : Nat) (v : Word) : (s.setLfsr k v).poison = s.poison := rfl
@[simp] theorem State.setLfsr_hostMem (k : Nat) (v : Word) : (s.setLfsr k v).hostMem = s.hostMem := rfl
@[simp] theorem State.setLfsr_ctxTab (k : Nat) (v : Word) : (s.setLfsr k v).ctxTab = s.ctxTab := rfl
@[simp] theorem State.setLfsr_ctxRegs (k : Nat) (v : Word) : (s.setLfsr k v).ctxRegs = s.ctxRegs := rfl
@[simp] theorem State.setLfsr_dieRegs (k : Nat) (v : Word) : (s.setLfsr k v).dieRegs = s.dieRegs := rfl
@[simp] theorem State.setLfsr_csrs (k : Nat) (v : Word) : (s.setLfsr k v).csrs = s.csrs := rfl
@[simp] theorem State.setLfsr_cmds (k : Nat) (v : Word) : (s.setLfsr k v).cmds = s.cmds := rfl
@[simp] theorem State.setLfsr_tlb (k : Nat) (v : Word) : (s.setLfsr k v).tlb = s.tlb := rfl
@[simp] theorem State.setLfsr_segs (k : Nat) (v : Word) : (s.setLfsr k v).segs = s.segs := rfl
@[simp] theorem State.setLfsr_latent (k : Nat) (v : Word) : (s.setLfsr k v).latent = s.latent := rfl
@[simp] theorem State.setLfsr_dir (k : Nat) (v : Word) : (s.setLfsr k v).dir = s.dir := rfl
@[simp] theorem State.setLfsr_recs (k : Nat) (v : Word) : (s.setLfsr k v).recs = s.recs := rfl
@[simp] theorem State.setLfsr_lone (k : Nat) (v : Word) : (s.setLfsr k v).lone = s.lone := rfl
@[simp] theorem State.setLfsr_starts (k : Nat) (v : Word) : (s.setLfsr k v).starts = s.starts := rfl
@[simp] theorem State.setLfsr_race (k : Nat) (v : Word) : (s.setLfsr k v).race = s.race := rfl
@[simp] theorem State.setLfsr_raceBy (k : Nat) (v : Word) : (s.setLfsr k v).raceBy = s.raceBy := rfl
@[simp] theorem State.setLfsr_fills (k : Nat) (v : Word) : (s.setLfsr k v).fills = s.fills := rfl
@[simp] theorem State.setLfsr_recNext (k : Nat) (v : Word) : (s.setLfsr k v).recNext = s.recNext := rfl
@[simp] theorem State.setLfsr_syncs (k : Nat) (v : Word) : (s.setLfsr k v).syncs = s.syncs := rfl
@[simp] theorem State.setLfsr_rfold (k : Nat) (v : Word) : (s.setLfsr k v).rfold = s.rfold := rfl
@[simp] theorem State.setLfsr_preempting (k : Nat) (v : Word) : (s.setLfsr k v).preempting = s.preempting := rfl
@[simp] theorem State.setLfsr_wbs (k : Nat) (v : Word) : (s.setLfsr k v).wbs = s.wbs := rfl
@[simp] theorem State.setLfsr_arrays (k : Nat) (v : Word) : (s.setLfsr k v).arrays = s.arrays := rfl
@[simp] theorem State.setLfsr_reserved (k : Nat) (v : Word) : (s.setLfsr k v).reserved = s.reserved := rfl
@[simp] theorem State.setLfsr_mcasts (k : Nat) (v : Word) : (s.setLfsr k v).mcasts = s.mcasts := rfl
@[simp] theorem State.setLfsr_dumps (k : Nat) (v : Word) : (s.setLfsr k v).dumps = s.dumps := rfl
@[simp] theorem State.setLfsr_invals (k : Nat) (v : Word) : (s.setLfsr k v).invals = s.invals := rfl
@[simp] theorem State.setLfsr_atsOut (k : Nat) (v : Word) : (s.setLfsr k v).atsOut = s.atsOut := rfl
@[simp] theorem State.setLfsr_devWait (k : Nat) (v : Word) : (s.setLfsr k v).devWait = s.devWait := rfl
@[simp] theorem State.setLfsr_fpages (k : Nat) (v : Word) : (s.setLfsr k v).fpages = s.fpages := rfl
@[simp] theorem State.setLfsr_segReqs (k : Nat) (v : Word) : (s.setLfsr k v).segReqs = s.segReqs := rfl
@[simp] theorem State.setLfsr_forms (k : Nat) (v : Word) : (s.setLfsr k v).forms = s.forms := rfl
@[simp] theorem State.setLfsr_links (k : Nat) (v : Word) : (s.setLfsr k v).links = s.links := rfl
@[simp] theorem State.setLfsr_recalls (k : Nat) (v : Word) : (s.setLfsr k v).recalls = s.recalls := rfl
@[simp] theorem State.setLfsr_dirRecs (k : Nat) (v : Word) : (s.setLfsr k v).dirRecs = s.dirRecs := rfl
@[simp] theorem State.setLfsr_withheld (k : Nat) (v : Word) : (s.setLfsr k v).withheld = s.withheld := rfl
@[simp] theorem State.setLfsr_launches (k : Nat) (v : Word) : (s.setLfsr k v).launches = s.launches := rfl
@[simp] theorem State.setLfsr_lines (k : Nat) (v : Word) : (s.setLfsr k v).lines = s.lines := rfl
@[simp] theorem State.setLfsr_aliases (k : Nat) (v : Word) : (s.setLfsr k v).aliases = s.aliases := rfl
@[simp] theorem State.setLfsr_scrubs (k : Nat) (v : Word) : (s.setLfsr k v).scrubs = s.scrubs := rfl
@[simp] theorem State.setLfsr_schedules (k : Nat) (v : Word) : (s.setLfsr k v).schedules = s.schedules := rfl
@[simp] theorem State.setLfsr_linkDirs (k : Nat) (v : Word) : (s.setLfsr k v).linkDirs = s.linkDirs := rfl
@[simp] theorem State.setLfsr_beats (k : Nat) (v : Word) : (s.setLfsr k v).beats = s.beats := rfl
@[simp] theorem State.setLfsr_beatNet (k : Nat) (v : Word) : (s.setLfsr k v).beatNet = s.beatNet := rfl
@[simp] theorem State.setLfsr_errlog (k : Nat) (v : Word) : (s.setLfsr k v).errlog = s.errlog := rfl
@[simp] theorem State.setLfsr_errOver (k : Nat) (v : Word) : (s.setLfsr k v).errOver = s.errOver := rfl
@[simp] theorem State.setLfsr_patrol (k : Nat) (v : Word) : (s.setLfsr k v).patrol = s.patrol := rfl
@[simp] theorem State.setLfsr_migs (k : Nat) (v : Word) : (s.setLfsr k v).migs = s.migs := rfl
@[simp] theorem State.setLfsr_temps (k : Nat) (v : Word) : (s.setLfsr k v).temps = s.temps := rfl
@[simp] theorem State.setLfsr_avoid (k : Nat) (v : Word) : (s.setLfsr k v).avoid = s.avoid := rfl
@[simp] theorem State.setLfsr_droops (k : Nat) (v : Word) : (s.setLfsr k v).droops = s.droops := rfl
@[simp] theorem State.setLfsr_rlog (k : Nat) (v : Word) : (s.setLfsr k v).rlog = s.rlog := rfl
@[simp] theorem State.setLfsr_rlogFull (k : Nat) (v : Word) : (s.setLfsr k v).rlogFull = s.rlogFull := rfl
@[simp] theorem State.setLfsr_rclocks (k : Nat) (v : Word) : (s.setLfsr k v).rclocks = s.rclocks := rfl
@[simp] theorem State.setLfsr_rpend (k : Nat) (v : Word) : (s.setLfsr k v).rpend = s.rpend := rfl
@[simp] theorem State.setLfsr_colls (k : Nat) (v : Word) : (s.setLfsr k v).colls = s.colls := rfl
@[simp] theorem State.setLfsr_ckpt (k : Nat) (v : Word) : (s.setLfsr k v).ckpt = s.ckpt := rfl
@[simp] theorem State.setLfsr_regions (k : Nat) (v : Word) : (s.setLfsr k v).regions = s.regions := rfl
@[simp] theorem State.setLfsr_pkg (k : Nat) (v : Word) : (s.setLfsr k v).pkg = s.pkg := rfl

/-! `setCtxReg` -/

@[simp] theorem State.setCtxReg_ctxRegs (c o : Nat) (v : DWord) : (s.setCtxReg c o v).ctxRegs = putD 0 s.ctxRegs (32 * c + o / 8) v := rfl
@[simp] theorem State.setCtxReg_agenda (c o : Nat) (v : DWord) : (s.setCtxReg c o v).agenda = s.agenda := rfl
@[simp] theorem State.setCtxReg_steps (c o : Nat) (v : DWord) : (s.setCtxReg c o v).steps = s.steps := rfl
@[simp] theorem State.setCtxReg_fresh (c o : Nat) (v : DWord) : (s.setCtxReg c o v).fresh = s.fresh := rfl
@[simp] theorem State.setCtxReg_nextId (c o : Nat) (v : DWord) : (s.setCtxReg c o v).nextId = s.nextId := rfl
@[simp] theorem State.setCtxReg_cur (c o : Nat) (v : DWord) : (s.setCtxReg c o v).cur = s.cur := rfl
@[simp] theorem State.setCtxReg_outbox (c o : Nat) (v : DWord) : (s.setCtxReg c o v).outbox = s.outbox := rfl
@[simp] theorem State.setCtxReg_clocks (c o : Nat) (v : DWord) : (s.setCtxReg c o v).clocks = s.clocks := rfl
@[simp] theorem State.setCtxReg_regs (c o : Nat) (v : DWord) : (s.setCtxReg c o v).regs = s.regs := rfl
@[simp] theorem State.setCtxReg_threads (c o : Nat) (v : DWord) : (s.setCtxReg c o v).threads = s.threads := rfl
@[simp] theorem State.setCtxReg_floes (c o : Nat) (v : DWord) : (s.setCtxReg c o v).floes = s.floes := rfl
@[simp] theorem State.setCtxReg_saves (c o : Nat) (v : DWord) : (s.setCtxReg c o v).saves = s.saves := rfl
@[simp] theorem State.setCtxReg_bins (c o : Nat) (v : DWord) : (s.setCtxReg c o v).bins = s.bins := rfl
@[simp] theorem State.setCtxReg_starting (c o : Nat) (v : DWord) : (s.setCtxReg c o v).starting = s.starting := rfl
@[simp] theorem State.setCtxReg_sched (c o : Nat) (v : DWord) : (s.setCtxReg c o v).sched = s.sched := rfl
@[simp] theorem State.setCtxReg_lfsr (c o : Nat) (v : DWord) : (s.setCtxReg c o v).lfsr = s.lfsr := rfl
@[simp] theorem State.setCtxReg_blocks (c o : Nat) (v : DWord) : (s.setCtxReg c o v).blocks = s.blocks := rfl
@[simp] theorem State.setCtxReg_bars (c o : Nat) (v : DWord) : (s.setCtxReg c o v).bars = s.bars := rfl
@[simp] theorem State.setCtxReg_cbufs (c o : Nat) (v : DWord) : (s.setCtxReg c o v).cbufs = s.cbufs := rfl
@[simp] theorem State.setCtxReg_tables (c o : Nat) (v : DWord) : (s.setCtxReg c o v).tables = s.tables := rfl
@[simp] theorem State.setCtxReg_accs (c o : Nat) (v : DWord) : (s.setCtxReg c o v).accs = s.accs := rfl
@[simp] theorem State.setCtxReg_allocs (c o : Nat) (v : DWord) : (s.setCtxReg c o v).allocs = s.allocs := rfl
@[simp] theorem State.setCtxReg_bankCtx (c o : Nat) (v : DWord) : (s.setCtxReg c o v).bankCtx = s.bankCtx := rfl
@[simp] theorem State.setCtxReg_unit (c o : Nat) (v : DWord) : (s.setCtxReg c o v).unit = s.unit := rfl
@[simp] theorem State.setCtxReg_clus (c o : Nat) (v : DWord) : (s.setCtxReg c o v).clus = s.clus := rfl
@[simp] theorem State.setCtxReg_dmem (c o : Nat) (v : DWord) : (s.setCtxReg c o v).dmem = s.dmem := rfl
@[simp] theorem State.setCtxReg_track (c o : Nat) (v : DWord) : (s.setCtxReg c o v).track = s.track := rfl
@[simp] theorem State.setCtxReg_maps (c o : Nat) (v : DWord) : (s.setCtxReg c o v).maps = s.maps := rfl
@[simp] theorem State.setCtxReg_grids (c o : Nat) (v : DWord) : (s.setCtxReg c o v).grids = s.grids := rfl
@[simp] theorem State.setCtxReg_tasks (c o : Nat) (v : DWord) : (s.setCtxReg c o v).tasks = s.tasks := rfl
@[simp] theorem State.setCtxReg_saved (c o : Nat) (v : DWord) : (s.setCtxReg c o v).saved = s.saved := rfl
@[simp] theorem State.setCtxReg_copies (c o : Nat) (v : DWord) : (s.setCtxReg c o v).copies = s.copies := rfl
@[simp] theorem State.setCtxReg_mmas (c o : Nat) (v : DWord) : (s.setCtxReg c o v).mmas = s.mmas := rfl
@[simp] theorem State.setCtxReg_net (c o : Nat) (v : DWord) : (s.setCtxReg c o v).net = s.net := rfl
@[simp] theorem State.setCtxReg_tokens (c o : Nat) (v : DWord) : (s.setCtxReg c o v).tokens = s.tokens := rfl
@[simp] theorem State.setCtxReg_due (c o : Nat) (v : DWord) : (s.setCtxReg c o v).due = s.due := rfl
@[simp] theorem State.setCtxReg_mem (c o : Nat) (v : DWord) : (s.setCtxReg c o v).mem = s.mem := rfl
@[simp] theorem State.setCtxReg_tags (c o : Nat) (v : DWord) : (s.setCtxReg c o v).tags = s.tags := rfl
@[simp] theorem State.setCtxReg_poison (c o : Nat) (v : DWord) : (s.setCtxReg c o v).poison = s.poison := rfl
@[simp] theorem State.setCtxReg_hostMem (c o : Nat) (v : DWord) : (s.setCtxReg c o v).hostMem = s.hostMem := rfl
@[simp] theorem State.setCtxReg_ctxTab (c o : Nat) (v : DWord) : (s.setCtxReg c o v).ctxTab = s.ctxTab := rfl
@[simp] theorem State.setCtxReg_dieRegs (c o : Nat) (v : DWord) : (s.setCtxReg c o v).dieRegs = s.dieRegs := rfl
@[simp] theorem State.setCtxReg_csrs (c o : Nat) (v : DWord) : (s.setCtxReg c o v).csrs = s.csrs := rfl
@[simp] theorem State.setCtxReg_cmds (c o : Nat) (v : DWord) : (s.setCtxReg c o v).cmds = s.cmds := rfl
@[simp] theorem State.setCtxReg_tlb (c o : Nat) (v : DWord) : (s.setCtxReg c o v).tlb = s.tlb := rfl
@[simp] theorem State.setCtxReg_segs (c o : Nat) (v : DWord) : (s.setCtxReg c o v).segs = s.segs := rfl
@[simp] theorem State.setCtxReg_latent (c o : Nat) (v : DWord) : (s.setCtxReg c o v).latent = s.latent := rfl
@[simp] theorem State.setCtxReg_dir (c o : Nat) (v : DWord) : (s.setCtxReg c o v).dir = s.dir := rfl
@[simp] theorem State.setCtxReg_recs (c o : Nat) (v : DWord) : (s.setCtxReg c o v).recs = s.recs := rfl
@[simp] theorem State.setCtxReg_lone (c o : Nat) (v : DWord) : (s.setCtxReg c o v).lone = s.lone := rfl
@[simp] theorem State.setCtxReg_starts (c o : Nat) (v : DWord) : (s.setCtxReg c o v).starts = s.starts := rfl
@[simp] theorem State.setCtxReg_race (c o : Nat) (v : DWord) : (s.setCtxReg c o v).race = s.race := rfl
@[simp] theorem State.setCtxReg_raceBy (c o : Nat) (v : DWord) : (s.setCtxReg c o v).raceBy = s.raceBy := rfl
@[simp] theorem State.setCtxReg_fills (c o : Nat) (v : DWord) : (s.setCtxReg c o v).fills = s.fills := rfl
@[simp] theorem State.setCtxReg_recNext (c o : Nat) (v : DWord) : (s.setCtxReg c o v).recNext = s.recNext := rfl
@[simp] theorem State.setCtxReg_syncs (c o : Nat) (v : DWord) : (s.setCtxReg c o v).syncs = s.syncs := rfl
@[simp] theorem State.setCtxReg_rfold (c o : Nat) (v : DWord) : (s.setCtxReg c o v).rfold = s.rfold := rfl
@[simp] theorem State.setCtxReg_preempting (c o : Nat) (v : DWord) : (s.setCtxReg c o v).preempting = s.preempting := rfl
@[simp] theorem State.setCtxReg_wbs (c o : Nat) (v : DWord) : (s.setCtxReg c o v).wbs = s.wbs := rfl
@[simp] theorem State.setCtxReg_arrays (c o : Nat) (v : DWord) : (s.setCtxReg c o v).arrays = s.arrays := rfl
@[simp] theorem State.setCtxReg_reserved (c o : Nat) (v : DWord) : (s.setCtxReg c o v).reserved = s.reserved := rfl
@[simp] theorem State.setCtxReg_mcasts (c o : Nat) (v : DWord) : (s.setCtxReg c o v).mcasts = s.mcasts := rfl
@[simp] theorem State.setCtxReg_dumps (c o : Nat) (v : DWord) : (s.setCtxReg c o v).dumps = s.dumps := rfl
@[simp] theorem State.setCtxReg_invals (c o : Nat) (v : DWord) : (s.setCtxReg c o v).invals = s.invals := rfl
@[simp] theorem State.setCtxReg_atsOut (c o : Nat) (v : DWord) : (s.setCtxReg c o v).atsOut = s.atsOut := rfl
@[simp] theorem State.setCtxReg_devWait (c o : Nat) (v : DWord) : (s.setCtxReg c o v).devWait = s.devWait := rfl
@[simp] theorem State.setCtxReg_fpages (c o : Nat) (v : DWord) : (s.setCtxReg c o v).fpages = s.fpages := rfl
@[simp] theorem State.setCtxReg_segReqs (c o : Nat) (v : DWord) : (s.setCtxReg c o v).segReqs = s.segReqs := rfl
@[simp] theorem State.setCtxReg_forms (c o : Nat) (v : DWord) : (s.setCtxReg c o v).forms = s.forms := rfl
@[simp] theorem State.setCtxReg_links (c o : Nat) (v : DWord) : (s.setCtxReg c o v).links = s.links := rfl
@[simp] theorem State.setCtxReg_recalls (c o : Nat) (v : DWord) : (s.setCtxReg c o v).recalls = s.recalls := rfl
@[simp] theorem State.setCtxReg_dirRecs (c o : Nat) (v : DWord) : (s.setCtxReg c o v).dirRecs = s.dirRecs := rfl
@[simp] theorem State.setCtxReg_withheld (c o : Nat) (v : DWord) : (s.setCtxReg c o v).withheld = s.withheld := rfl
@[simp] theorem State.setCtxReg_launches (c o : Nat) (v : DWord) : (s.setCtxReg c o v).launches = s.launches := rfl
@[simp] theorem State.setCtxReg_lines (c o : Nat) (v : DWord) : (s.setCtxReg c o v).lines = s.lines := rfl
@[simp] theorem State.setCtxReg_aliases (c o : Nat) (v : DWord) : (s.setCtxReg c o v).aliases = s.aliases := rfl
@[simp] theorem State.setCtxReg_scrubs (c o : Nat) (v : DWord) : (s.setCtxReg c o v).scrubs = s.scrubs := rfl
@[simp] theorem State.setCtxReg_schedules (c o : Nat) (v : DWord) : (s.setCtxReg c o v).schedules = s.schedules := rfl
@[simp] theorem State.setCtxReg_linkDirs (c o : Nat) (v : DWord) : (s.setCtxReg c o v).linkDirs = s.linkDirs := rfl
@[simp] theorem State.setCtxReg_beats (c o : Nat) (v : DWord) : (s.setCtxReg c o v).beats = s.beats := rfl
@[simp] theorem State.setCtxReg_beatNet (c o : Nat) (v : DWord) : (s.setCtxReg c o v).beatNet = s.beatNet := rfl
@[simp] theorem State.setCtxReg_errlog (c o : Nat) (v : DWord) : (s.setCtxReg c o v).errlog = s.errlog := rfl
@[simp] theorem State.setCtxReg_errOver (c o : Nat) (v : DWord) : (s.setCtxReg c o v).errOver = s.errOver := rfl
@[simp] theorem State.setCtxReg_patrol (c o : Nat) (v : DWord) : (s.setCtxReg c o v).patrol = s.patrol := rfl
@[simp] theorem State.setCtxReg_migs (c o : Nat) (v : DWord) : (s.setCtxReg c o v).migs = s.migs := rfl
@[simp] theorem State.setCtxReg_temps (c o : Nat) (v : DWord) : (s.setCtxReg c o v).temps = s.temps := rfl
@[simp] theorem State.setCtxReg_avoid (c o : Nat) (v : DWord) : (s.setCtxReg c o v).avoid = s.avoid := rfl
@[simp] theorem State.setCtxReg_droops (c o : Nat) (v : DWord) : (s.setCtxReg c o v).droops = s.droops := rfl
@[simp] theorem State.setCtxReg_rlog (c o : Nat) (v : DWord) : (s.setCtxReg c o v).rlog = s.rlog := rfl
@[simp] theorem State.setCtxReg_rlogFull (c o : Nat) (v : DWord) : (s.setCtxReg c o v).rlogFull = s.rlogFull := rfl
@[simp] theorem State.setCtxReg_rclocks (c o : Nat) (v : DWord) : (s.setCtxReg c o v).rclocks = s.rclocks := rfl
@[simp] theorem State.setCtxReg_rpend (c o : Nat) (v : DWord) : (s.setCtxReg c o v).rpend = s.rpend := rfl
@[simp] theorem State.setCtxReg_colls (c o : Nat) (v : DWord) : (s.setCtxReg c o v).colls = s.colls := rfl
@[simp] theorem State.setCtxReg_ckpt (c o : Nat) (v : DWord) : (s.setCtxReg c o v).ckpt = s.ckpt := rfl
@[simp] theorem State.setCtxReg_regions (c o : Nat) (v : DWord) : (s.setCtxReg c o v).regions = s.regions := rfl
@[simp] theorem State.setCtxReg_pkg (c o : Nat) (v : DWord) : (s.setCtxReg c o v).pkg = s.pkg := rfl

/-! `setDieReg` -/

@[simp] theorem State.setDieReg_dieRegs (d o : Nat) (v : DWord) : (s.setDieReg d o v).dieRegs = putD 0 s.dieRegs (4096 * d + o / 8) v := rfl
@[simp] theorem State.setDieReg_agenda (d o : Nat) (v : DWord) : (s.setDieReg d o v).agenda = s.agenda := rfl
@[simp] theorem State.setDieReg_steps (d o : Nat) (v : DWord) : (s.setDieReg d o v).steps = s.steps := rfl
@[simp] theorem State.setDieReg_fresh (d o : Nat) (v : DWord) : (s.setDieReg d o v).fresh = s.fresh := rfl
@[simp] theorem State.setDieReg_nextId (d o : Nat) (v : DWord) : (s.setDieReg d o v).nextId = s.nextId := rfl
@[simp] theorem State.setDieReg_cur (d o : Nat) (v : DWord) : (s.setDieReg d o v).cur = s.cur := rfl
@[simp] theorem State.setDieReg_outbox (d o : Nat) (v : DWord) : (s.setDieReg d o v).outbox = s.outbox := rfl
@[simp] theorem State.setDieReg_clocks (d o : Nat) (v : DWord) : (s.setDieReg d o v).clocks = s.clocks := rfl
@[simp] theorem State.setDieReg_regs (d o : Nat) (v : DWord) : (s.setDieReg d o v).regs = s.regs := rfl
@[simp] theorem State.setDieReg_threads (d o : Nat) (v : DWord) : (s.setDieReg d o v).threads = s.threads := rfl
@[simp] theorem State.setDieReg_floes (d o : Nat) (v : DWord) : (s.setDieReg d o v).floes = s.floes := rfl
@[simp] theorem State.setDieReg_saves (d o : Nat) (v : DWord) : (s.setDieReg d o v).saves = s.saves := rfl
@[simp] theorem State.setDieReg_bins (d o : Nat) (v : DWord) : (s.setDieReg d o v).bins = s.bins := rfl
@[simp] theorem State.setDieReg_starting (d o : Nat) (v : DWord) : (s.setDieReg d o v).starting = s.starting := rfl
@[simp] theorem State.setDieReg_sched (d o : Nat) (v : DWord) : (s.setDieReg d o v).sched = s.sched := rfl
@[simp] theorem State.setDieReg_lfsr (d o : Nat) (v : DWord) : (s.setDieReg d o v).lfsr = s.lfsr := rfl
@[simp] theorem State.setDieReg_blocks (d o : Nat) (v : DWord) : (s.setDieReg d o v).blocks = s.blocks := rfl
@[simp] theorem State.setDieReg_bars (d o : Nat) (v : DWord) : (s.setDieReg d o v).bars = s.bars := rfl
@[simp] theorem State.setDieReg_cbufs (d o : Nat) (v : DWord) : (s.setDieReg d o v).cbufs = s.cbufs := rfl
@[simp] theorem State.setDieReg_tables (d o : Nat) (v : DWord) : (s.setDieReg d o v).tables = s.tables := rfl
@[simp] theorem State.setDieReg_accs (d o : Nat) (v : DWord) : (s.setDieReg d o v).accs = s.accs := rfl
@[simp] theorem State.setDieReg_allocs (d o : Nat) (v : DWord) : (s.setDieReg d o v).allocs = s.allocs := rfl
@[simp] theorem State.setDieReg_bankCtx (d o : Nat) (v : DWord) : (s.setDieReg d o v).bankCtx = s.bankCtx := rfl
@[simp] theorem State.setDieReg_unit (d o : Nat) (v : DWord) : (s.setDieReg d o v).unit = s.unit := rfl
@[simp] theorem State.setDieReg_clus (d o : Nat) (v : DWord) : (s.setDieReg d o v).clus = s.clus := rfl
@[simp] theorem State.setDieReg_dmem (d o : Nat) (v : DWord) : (s.setDieReg d o v).dmem = s.dmem := rfl
@[simp] theorem State.setDieReg_track (d o : Nat) (v : DWord) : (s.setDieReg d o v).track = s.track := rfl
@[simp] theorem State.setDieReg_maps (d o : Nat) (v : DWord) : (s.setDieReg d o v).maps = s.maps := rfl
@[simp] theorem State.setDieReg_grids (d o : Nat) (v : DWord) : (s.setDieReg d o v).grids = s.grids := rfl
@[simp] theorem State.setDieReg_tasks (d o : Nat) (v : DWord) : (s.setDieReg d o v).tasks = s.tasks := rfl
@[simp] theorem State.setDieReg_saved (d o : Nat) (v : DWord) : (s.setDieReg d o v).saved = s.saved := rfl
@[simp] theorem State.setDieReg_copies (d o : Nat) (v : DWord) : (s.setDieReg d o v).copies = s.copies := rfl
@[simp] theorem State.setDieReg_mmas (d o : Nat) (v : DWord) : (s.setDieReg d o v).mmas = s.mmas := rfl
@[simp] theorem State.setDieReg_net (d o : Nat) (v : DWord) : (s.setDieReg d o v).net = s.net := rfl
@[simp] theorem State.setDieReg_tokens (d o : Nat) (v : DWord) : (s.setDieReg d o v).tokens = s.tokens := rfl
@[simp] theorem State.setDieReg_due (d o : Nat) (v : DWord) : (s.setDieReg d o v).due = s.due := rfl
@[simp] theorem State.setDieReg_mem (d o : Nat) (v : DWord) : (s.setDieReg d o v).mem = s.mem := rfl
@[simp] theorem State.setDieReg_tags (d o : Nat) (v : DWord) : (s.setDieReg d o v).tags = s.tags := rfl
@[simp] theorem State.setDieReg_poison (d o : Nat) (v : DWord) : (s.setDieReg d o v).poison = s.poison := rfl
@[simp] theorem State.setDieReg_hostMem (d o : Nat) (v : DWord) : (s.setDieReg d o v).hostMem = s.hostMem := rfl
@[simp] theorem State.setDieReg_ctxTab (d o : Nat) (v : DWord) : (s.setDieReg d o v).ctxTab = s.ctxTab := rfl
@[simp] theorem State.setDieReg_ctxRegs (d o : Nat) (v : DWord) : (s.setDieReg d o v).ctxRegs = s.ctxRegs := rfl
@[simp] theorem State.setDieReg_csrs (d o : Nat) (v : DWord) : (s.setDieReg d o v).csrs = s.csrs := rfl
@[simp] theorem State.setDieReg_cmds (d o : Nat) (v : DWord) : (s.setDieReg d o v).cmds = s.cmds := rfl
@[simp] theorem State.setDieReg_tlb (d o : Nat) (v : DWord) : (s.setDieReg d o v).tlb = s.tlb := rfl
@[simp] theorem State.setDieReg_segs (d o : Nat) (v : DWord) : (s.setDieReg d o v).segs = s.segs := rfl
@[simp] theorem State.setDieReg_latent (d o : Nat) (v : DWord) : (s.setDieReg d o v).latent = s.latent := rfl
@[simp] theorem State.setDieReg_dir (d o : Nat) (v : DWord) : (s.setDieReg d o v).dir = s.dir := rfl
@[simp] theorem State.setDieReg_recs (d o : Nat) (v : DWord) : (s.setDieReg d o v).recs = s.recs := rfl
@[simp] theorem State.setDieReg_lone (d o : Nat) (v : DWord) : (s.setDieReg d o v).lone = s.lone := rfl
@[simp] theorem State.setDieReg_starts (d o : Nat) (v : DWord) : (s.setDieReg d o v).starts = s.starts := rfl
@[simp] theorem State.setDieReg_race (d o : Nat) (v : DWord) : (s.setDieReg d o v).race = s.race := rfl
@[simp] theorem State.setDieReg_raceBy (d o : Nat) (v : DWord) : (s.setDieReg d o v).raceBy = s.raceBy := rfl
@[simp] theorem State.setDieReg_fills (d o : Nat) (v : DWord) : (s.setDieReg d o v).fills = s.fills := rfl
@[simp] theorem State.setDieReg_recNext (d o : Nat) (v : DWord) : (s.setDieReg d o v).recNext = s.recNext := rfl
@[simp] theorem State.setDieReg_syncs (d o : Nat) (v : DWord) : (s.setDieReg d o v).syncs = s.syncs := rfl
@[simp] theorem State.setDieReg_rfold (d o : Nat) (v : DWord) : (s.setDieReg d o v).rfold = s.rfold := rfl
@[simp] theorem State.setDieReg_preempting (d o : Nat) (v : DWord) : (s.setDieReg d o v).preempting = s.preempting := rfl
@[simp] theorem State.setDieReg_wbs (d o : Nat) (v : DWord) : (s.setDieReg d o v).wbs = s.wbs := rfl
@[simp] theorem State.setDieReg_arrays (d o : Nat) (v : DWord) : (s.setDieReg d o v).arrays = s.arrays := rfl
@[simp] theorem State.setDieReg_reserved (d o : Nat) (v : DWord) : (s.setDieReg d o v).reserved = s.reserved := rfl
@[simp] theorem State.setDieReg_mcasts (d o : Nat) (v : DWord) : (s.setDieReg d o v).mcasts = s.mcasts := rfl
@[simp] theorem State.setDieReg_dumps (d o : Nat) (v : DWord) : (s.setDieReg d o v).dumps = s.dumps := rfl
@[simp] theorem State.setDieReg_invals (d o : Nat) (v : DWord) : (s.setDieReg d o v).invals = s.invals := rfl
@[simp] theorem State.setDieReg_atsOut (d o : Nat) (v : DWord) : (s.setDieReg d o v).atsOut = s.atsOut := rfl
@[simp] theorem State.setDieReg_devWait (d o : Nat) (v : DWord) : (s.setDieReg d o v).devWait = s.devWait := rfl
@[simp] theorem State.setDieReg_fpages (d o : Nat) (v : DWord) : (s.setDieReg d o v).fpages = s.fpages := rfl
@[simp] theorem State.setDieReg_segReqs (d o : Nat) (v : DWord) : (s.setDieReg d o v).segReqs = s.segReqs := rfl
@[simp] theorem State.setDieReg_forms (d o : Nat) (v : DWord) : (s.setDieReg d o v).forms = s.forms := rfl
@[simp] theorem State.setDieReg_links (d o : Nat) (v : DWord) : (s.setDieReg d o v).links = s.links := rfl
@[simp] theorem State.setDieReg_recalls (d o : Nat) (v : DWord) : (s.setDieReg d o v).recalls = s.recalls := rfl
@[simp] theorem State.setDieReg_dirRecs (d o : Nat) (v : DWord) : (s.setDieReg d o v).dirRecs = s.dirRecs := rfl
@[simp] theorem State.setDieReg_withheld (d o : Nat) (v : DWord) : (s.setDieReg d o v).withheld = s.withheld := rfl
@[simp] theorem State.setDieReg_launches (d o : Nat) (v : DWord) : (s.setDieReg d o v).launches = s.launches := rfl
@[simp] theorem State.setDieReg_lines (d o : Nat) (v : DWord) : (s.setDieReg d o v).lines = s.lines := rfl
@[simp] theorem State.setDieReg_aliases (d o : Nat) (v : DWord) : (s.setDieReg d o v).aliases = s.aliases := rfl
@[simp] theorem State.setDieReg_scrubs (d o : Nat) (v : DWord) : (s.setDieReg d o v).scrubs = s.scrubs := rfl
@[simp] theorem State.setDieReg_schedules (d o : Nat) (v : DWord) : (s.setDieReg d o v).schedules = s.schedules := rfl
@[simp] theorem State.setDieReg_linkDirs (d o : Nat) (v : DWord) : (s.setDieReg d o v).linkDirs = s.linkDirs := rfl
@[simp] theorem State.setDieReg_beats (d o : Nat) (v : DWord) : (s.setDieReg d o v).beats = s.beats := rfl
@[simp] theorem State.setDieReg_beatNet (d o : Nat) (v : DWord) : (s.setDieReg d o v).beatNet = s.beatNet := rfl
@[simp] theorem State.setDieReg_errlog (d o : Nat) (v : DWord) : (s.setDieReg d o v).errlog = s.errlog := rfl
@[simp] theorem State.setDieReg_errOver (d o : Nat) (v : DWord) : (s.setDieReg d o v).errOver = s.errOver := rfl
@[simp] theorem State.setDieReg_patrol (d o : Nat) (v : DWord) : (s.setDieReg d o v).patrol = s.patrol := rfl
@[simp] theorem State.setDieReg_migs (d o : Nat) (v : DWord) : (s.setDieReg d o v).migs = s.migs := rfl
@[simp] theorem State.setDieReg_temps (d o : Nat) (v : DWord) : (s.setDieReg d o v).temps = s.temps := rfl
@[simp] theorem State.setDieReg_avoid (d o : Nat) (v : DWord) : (s.setDieReg d o v).avoid = s.avoid := rfl
@[simp] theorem State.setDieReg_droops (d o : Nat) (v : DWord) : (s.setDieReg d o v).droops = s.droops := rfl
@[simp] theorem State.setDieReg_rlog (d o : Nat) (v : DWord) : (s.setDieReg d o v).rlog = s.rlog := rfl
@[simp] theorem State.setDieReg_rlogFull (d o : Nat) (v : DWord) : (s.setDieReg d o v).rlogFull = s.rlogFull := rfl
@[simp] theorem State.setDieReg_rclocks (d o : Nat) (v : DWord) : (s.setDieReg d o v).rclocks = s.rclocks := rfl
@[simp] theorem State.setDieReg_rpend (d o : Nat) (v : DWord) : (s.setDieReg d o v).rpend = s.rpend := rfl
@[simp] theorem State.setDieReg_colls (d o : Nat) (v : DWord) : (s.setDieReg d o v).colls = s.colls := rfl
@[simp] theorem State.setDieReg_ckpt (d o : Nat) (v : DWord) : (s.setDieReg d o v).ckpt = s.ckpt := rfl
@[simp] theorem State.setDieReg_regions (d o : Nat) (v : DWord) : (s.setDieReg d o v).regions = s.regions := rfl
@[simp] theorem State.setDieReg_pkg (d o : Nat) (v : DWord) : (s.setDieReg d o v).pkg = s.pkg := rfl

/-! `send` -/

@[simp] theorem State.send_outbox (m : Msg) : (s.send m).outbox = m :: s.outbox := rfl
@[simp] theorem State.send_agenda (m : Msg) : (s.send m).agenda = s.agenda := rfl
@[simp] theorem State.send_steps (m : Msg) : (s.send m).steps = s.steps := rfl
@[simp] theorem State.send_fresh (m : Msg) : (s.send m).fresh = s.fresh := rfl
@[simp] theorem State.send_nextId (m : Msg) : (s.send m).nextId = s.nextId := rfl
@[simp] theorem State.send_cur (m : Msg) : (s.send m).cur = s.cur := rfl
@[simp] theorem State.send_clocks (m : Msg) : (s.send m).clocks = s.clocks := rfl
@[simp] theorem State.send_regs (m : Msg) : (s.send m).regs = s.regs := rfl
@[simp] theorem State.send_threads (m : Msg) : (s.send m).threads = s.threads := rfl
@[simp] theorem State.send_floes (m : Msg) : (s.send m).floes = s.floes := rfl
@[simp] theorem State.send_saves (m : Msg) : (s.send m).saves = s.saves := rfl
@[simp] theorem State.send_bins (m : Msg) : (s.send m).bins = s.bins := rfl
@[simp] theorem State.send_starting (m : Msg) : (s.send m).starting = s.starting := rfl
@[simp] theorem State.send_sched (m : Msg) : (s.send m).sched = s.sched := rfl
@[simp] theorem State.send_lfsr (m : Msg) : (s.send m).lfsr = s.lfsr := rfl
@[simp] theorem State.send_blocks (m : Msg) : (s.send m).blocks = s.blocks := rfl
@[simp] theorem State.send_bars (m : Msg) : (s.send m).bars = s.bars := rfl
@[simp] theorem State.send_cbufs (m : Msg) : (s.send m).cbufs = s.cbufs := rfl
@[simp] theorem State.send_tables (m : Msg) : (s.send m).tables = s.tables := rfl
@[simp] theorem State.send_accs (m : Msg) : (s.send m).accs = s.accs := rfl
@[simp] theorem State.send_allocs (m : Msg) : (s.send m).allocs = s.allocs := rfl
@[simp] theorem State.send_bankCtx (m : Msg) : (s.send m).bankCtx = s.bankCtx := rfl
@[simp] theorem State.send_unit (m : Msg) : (s.send m).unit = s.unit := rfl
@[simp] theorem State.send_clus (m : Msg) : (s.send m).clus = s.clus := rfl
@[simp] theorem State.send_dmem (m : Msg) : (s.send m).dmem = s.dmem := rfl
@[simp] theorem State.send_track (m : Msg) : (s.send m).track = s.track := rfl
@[simp] theorem State.send_maps (m : Msg) : (s.send m).maps = s.maps := rfl
@[simp] theorem State.send_grids (m : Msg) : (s.send m).grids = s.grids := rfl
@[simp] theorem State.send_tasks (m : Msg) : (s.send m).tasks = s.tasks := rfl
@[simp] theorem State.send_saved (m : Msg) : (s.send m).saved = s.saved := rfl
@[simp] theorem State.send_copies (m : Msg) : (s.send m).copies = s.copies := rfl
@[simp] theorem State.send_mmas (m : Msg) : (s.send m).mmas = s.mmas := rfl
@[simp] theorem State.send_net (m : Msg) : (s.send m).net = s.net := rfl
@[simp] theorem State.send_tokens (m : Msg) : (s.send m).tokens = s.tokens := rfl
@[simp] theorem State.send_due (m : Msg) : (s.send m).due = s.due := rfl
@[simp] theorem State.send_mem (m : Msg) : (s.send m).mem = s.mem := rfl
@[simp] theorem State.send_tags (m : Msg) : (s.send m).tags = s.tags := rfl
@[simp] theorem State.send_poison (m : Msg) : (s.send m).poison = s.poison := rfl
@[simp] theorem State.send_hostMem (m : Msg) : (s.send m).hostMem = s.hostMem := rfl
@[simp] theorem State.send_ctxTab (m : Msg) : (s.send m).ctxTab = s.ctxTab := rfl
@[simp] theorem State.send_ctxRegs (m : Msg) : (s.send m).ctxRegs = s.ctxRegs := rfl
@[simp] theorem State.send_dieRegs (m : Msg) : (s.send m).dieRegs = s.dieRegs := rfl
@[simp] theorem State.send_csrs (m : Msg) : (s.send m).csrs = s.csrs := rfl
@[simp] theorem State.send_cmds (m : Msg) : (s.send m).cmds = s.cmds := rfl
@[simp] theorem State.send_tlb (m : Msg) : (s.send m).tlb = s.tlb := rfl
@[simp] theorem State.send_segs (m : Msg) : (s.send m).segs = s.segs := rfl
@[simp] theorem State.send_latent (m : Msg) : (s.send m).latent = s.latent := rfl
@[simp] theorem State.send_dir (m : Msg) : (s.send m).dir = s.dir := rfl
@[simp] theorem State.send_recs (m : Msg) : (s.send m).recs = s.recs := rfl
@[simp] theorem State.send_lone (m : Msg) : (s.send m).lone = s.lone := rfl
@[simp] theorem State.send_starts (m : Msg) : (s.send m).starts = s.starts := rfl
@[simp] theorem State.send_race (m : Msg) : (s.send m).race = s.race := rfl
@[simp] theorem State.send_raceBy (m : Msg) : (s.send m).raceBy = s.raceBy := rfl
@[simp] theorem State.send_fills (m : Msg) : (s.send m).fills = s.fills := rfl
@[simp] theorem State.send_recNext (m : Msg) : (s.send m).recNext = s.recNext := rfl
@[simp] theorem State.send_syncs (m : Msg) : (s.send m).syncs = s.syncs := rfl
@[simp] theorem State.send_rfold (m : Msg) : (s.send m).rfold = s.rfold := rfl
@[simp] theorem State.send_preempting (m : Msg) : (s.send m).preempting = s.preempting := rfl
@[simp] theorem State.send_wbs (m : Msg) : (s.send m).wbs = s.wbs := rfl
@[simp] theorem State.send_arrays (m : Msg) : (s.send m).arrays = s.arrays := rfl
@[simp] theorem State.send_reserved (m : Msg) : (s.send m).reserved = s.reserved := rfl
@[simp] theorem State.send_mcasts (m : Msg) : (s.send m).mcasts = s.mcasts := rfl
@[simp] theorem State.send_dumps (m : Msg) : (s.send m).dumps = s.dumps := rfl
@[simp] theorem State.send_invals (m : Msg) : (s.send m).invals = s.invals := rfl
@[simp] theorem State.send_atsOut (m : Msg) : (s.send m).atsOut = s.atsOut := rfl
@[simp] theorem State.send_devWait (m : Msg) : (s.send m).devWait = s.devWait := rfl
@[simp] theorem State.send_fpages (m : Msg) : (s.send m).fpages = s.fpages := rfl
@[simp] theorem State.send_segReqs (m : Msg) : (s.send m).segReqs = s.segReqs := rfl
@[simp] theorem State.send_forms (m : Msg) : (s.send m).forms = s.forms := rfl
@[simp] theorem State.send_links (m : Msg) : (s.send m).links = s.links := rfl
@[simp] theorem State.send_recalls (m : Msg) : (s.send m).recalls = s.recalls := rfl
@[simp] theorem State.send_dirRecs (m : Msg) : (s.send m).dirRecs = s.dirRecs := rfl
@[simp] theorem State.send_withheld (m : Msg) : (s.send m).withheld = s.withheld := rfl
@[simp] theorem State.send_launches (m : Msg) : (s.send m).launches = s.launches := rfl
@[simp] theorem State.send_lines (m : Msg) : (s.send m).lines = s.lines := rfl
@[simp] theorem State.send_aliases (m : Msg) : (s.send m).aliases = s.aliases := rfl
@[simp] theorem State.send_scrubs (m : Msg) : (s.send m).scrubs = s.scrubs := rfl
@[simp] theorem State.send_schedules (m : Msg) : (s.send m).schedules = s.schedules := rfl
@[simp] theorem State.send_linkDirs (m : Msg) : (s.send m).linkDirs = s.linkDirs := rfl
@[simp] theorem State.send_beats (m : Msg) : (s.send m).beats = s.beats := rfl
@[simp] theorem State.send_beatNet (m : Msg) : (s.send m).beatNet = s.beatNet := rfl
@[simp] theorem State.send_errlog (m : Msg) : (s.send m).errlog = s.errlog := rfl
@[simp] theorem State.send_errOver (m : Msg) : (s.send m).errOver = s.errOver := rfl
@[simp] theorem State.send_patrol (m : Msg) : (s.send m).patrol = s.patrol := rfl
@[simp] theorem State.send_migs (m : Msg) : (s.send m).migs = s.migs := rfl
@[simp] theorem State.send_temps (m : Msg) : (s.send m).temps = s.temps := rfl
@[simp] theorem State.send_avoid (m : Msg) : (s.send m).avoid = s.avoid := rfl
@[simp] theorem State.send_droops (m : Msg) : (s.send m).droops = s.droops := rfl
@[simp] theorem State.send_rlog (m : Msg) : (s.send m).rlog = s.rlog := rfl
@[simp] theorem State.send_rlogFull (m : Msg) : (s.send m).rlogFull = s.rlogFull := rfl
@[simp] theorem State.send_rclocks (m : Msg) : (s.send m).rclocks = s.rclocks := rfl
@[simp] theorem State.send_rpend (m : Msg) : (s.send m).rpend = s.rpend := rfl
@[simp] theorem State.send_colls (m : Msg) : (s.send m).colls = s.colls := rfl
@[simp] theorem State.send_ckpt (m : Msg) : (s.send m).ckpt = s.ckpt := rfl
@[simp] theorem State.send_regions (m : Msg) : (s.send m).regions = s.regions := rfl
@[simp] theorem State.send_pkg (m : Msg) : (s.send m).pkg = s.pkg := rfl

/-! `modFloe` -/

@[simp] theorem State.modFloe_agenda (k : Nat) (g : Floe → Floe) : (s.modFloe k g).agenda = s.agenda := by unfold State.modFloe; split <;> rfl
@[simp] theorem State.modFloe_steps (k : Nat) (g : Floe → Floe) : (s.modFloe k g).steps = s.steps := by unfold State.modFloe; split <;> rfl
@[simp] theorem State.modFloe_fresh (k : Nat) (g : Floe → Floe) : (s.modFloe k g).fresh = s.fresh := by unfold State.modFloe; split <;> rfl
@[simp] theorem State.modFloe_nextId (k : Nat) (g : Floe → Floe) : (s.modFloe k g).nextId = s.nextId := by unfold State.modFloe; split <;> rfl
@[simp] theorem State.modFloe_cur (k : Nat) (g : Floe → Floe) : (s.modFloe k g).cur = s.cur := by unfold State.modFloe; split <;> rfl
@[simp] theorem State.modFloe_outbox (k : Nat) (g : Floe → Floe) : (s.modFloe k g).outbox = s.outbox := by unfold State.modFloe; split <;> rfl
@[simp] theorem State.modFloe_clocks (k : Nat) (g : Floe → Floe) : (s.modFloe k g).clocks = s.clocks := by unfold State.modFloe; split <;> rfl
@[simp] theorem State.modFloe_regs (k : Nat) (g : Floe → Floe) : (s.modFloe k g).regs = s.regs := by unfold State.modFloe; split <;> rfl
@[simp] theorem State.modFloe_threads (k : Nat) (g : Floe → Floe) : (s.modFloe k g).threads = s.threads := by unfold State.modFloe; split <;> rfl
@[simp] theorem State.modFloe_saves (k : Nat) (g : Floe → Floe) : (s.modFloe k g).saves = s.saves := by unfold State.modFloe; split <;> rfl
@[simp] theorem State.modFloe_bins (k : Nat) (g : Floe → Floe) : (s.modFloe k g).bins = s.bins := by unfold State.modFloe; split <;> rfl
@[simp] theorem State.modFloe_starting (k : Nat) (g : Floe → Floe) : (s.modFloe k g).starting = s.starting := by unfold State.modFloe; split <;> rfl
@[simp] theorem State.modFloe_sched (k : Nat) (g : Floe → Floe) : (s.modFloe k g).sched = s.sched := by unfold State.modFloe; split <;> rfl
@[simp] theorem State.modFloe_lfsr (k : Nat) (g : Floe → Floe) : (s.modFloe k g).lfsr = s.lfsr := by unfold State.modFloe; split <;> rfl
@[simp] theorem State.modFloe_blocks (k : Nat) (g : Floe → Floe) : (s.modFloe k g).blocks = s.blocks := by unfold State.modFloe; split <;> rfl
@[simp] theorem State.modFloe_bars (k : Nat) (g : Floe → Floe) : (s.modFloe k g).bars = s.bars := by unfold State.modFloe; split <;> rfl
@[simp] theorem State.modFloe_cbufs (k : Nat) (g : Floe → Floe) : (s.modFloe k g).cbufs = s.cbufs := by unfold State.modFloe; split <;> rfl
@[simp] theorem State.modFloe_tables (k : Nat) (g : Floe → Floe) : (s.modFloe k g).tables = s.tables := by unfold State.modFloe; split <;> rfl
@[simp] theorem State.modFloe_accs (k : Nat) (g : Floe → Floe) : (s.modFloe k g).accs = s.accs := by unfold State.modFloe; split <;> rfl
@[simp] theorem State.modFloe_allocs (k : Nat) (g : Floe → Floe) : (s.modFloe k g).allocs = s.allocs := by unfold State.modFloe; split <;> rfl
@[simp] theorem State.modFloe_bankCtx (k : Nat) (g : Floe → Floe) : (s.modFloe k g).bankCtx = s.bankCtx := by unfold State.modFloe; split <;> rfl
@[simp] theorem State.modFloe_unit (k : Nat) (g : Floe → Floe) : (s.modFloe k g).unit = s.unit := by unfold State.modFloe; split <;> rfl
@[simp] theorem State.modFloe_clus (k : Nat) (g : Floe → Floe) : (s.modFloe k g).clus = s.clus := by unfold State.modFloe; split <;> rfl
@[simp] theorem State.modFloe_dmem (k : Nat) (g : Floe → Floe) : (s.modFloe k g).dmem = s.dmem := by unfold State.modFloe; split <;> rfl
@[simp] theorem State.modFloe_track (k : Nat) (g : Floe → Floe) : (s.modFloe k g).track = s.track := by unfold State.modFloe; split <;> rfl
@[simp] theorem State.modFloe_maps (k : Nat) (g : Floe → Floe) : (s.modFloe k g).maps = s.maps := by unfold State.modFloe; split <;> rfl
@[simp] theorem State.modFloe_grids (k : Nat) (g : Floe → Floe) : (s.modFloe k g).grids = s.grids := by unfold State.modFloe; split <;> rfl
@[simp] theorem State.modFloe_tasks (k : Nat) (g : Floe → Floe) : (s.modFloe k g).tasks = s.tasks := by unfold State.modFloe; split <;> rfl
@[simp] theorem State.modFloe_saved (k : Nat) (g : Floe → Floe) : (s.modFloe k g).saved = s.saved := by unfold State.modFloe; split <;> rfl
@[simp] theorem State.modFloe_copies (k : Nat) (g : Floe → Floe) : (s.modFloe k g).copies = s.copies := by unfold State.modFloe; split <;> rfl
@[simp] theorem State.modFloe_mmas (k : Nat) (g : Floe → Floe) : (s.modFloe k g).mmas = s.mmas := by unfold State.modFloe; split <;> rfl
@[simp] theorem State.modFloe_net (k : Nat) (g : Floe → Floe) : (s.modFloe k g).net = s.net := by unfold State.modFloe; split <;> rfl
@[simp] theorem State.modFloe_tokens (k : Nat) (g : Floe → Floe) : (s.modFloe k g).tokens = s.tokens := by unfold State.modFloe; split <;> rfl
@[simp] theorem State.modFloe_due (k : Nat) (g : Floe → Floe) : (s.modFloe k g).due = s.due := by unfold State.modFloe; split <;> rfl
@[simp] theorem State.modFloe_mem (k : Nat) (g : Floe → Floe) : (s.modFloe k g).mem = s.mem := by unfold State.modFloe; split <;> rfl
@[simp] theorem State.modFloe_tags (k : Nat) (g : Floe → Floe) : (s.modFloe k g).tags = s.tags := by unfold State.modFloe; split <;> rfl
@[simp] theorem State.modFloe_poison (k : Nat) (g : Floe → Floe) : (s.modFloe k g).poison = s.poison := by unfold State.modFloe; split <;> rfl
@[simp] theorem State.modFloe_hostMem (k : Nat) (g : Floe → Floe) : (s.modFloe k g).hostMem = s.hostMem := by unfold State.modFloe; split <;> rfl
@[simp] theorem State.modFloe_ctxTab (k : Nat) (g : Floe → Floe) : (s.modFloe k g).ctxTab = s.ctxTab := by unfold State.modFloe; split <;> rfl
@[simp] theorem State.modFloe_ctxRegs (k : Nat) (g : Floe → Floe) : (s.modFloe k g).ctxRegs = s.ctxRegs := by unfold State.modFloe; split <;> rfl
@[simp] theorem State.modFloe_dieRegs (k : Nat) (g : Floe → Floe) : (s.modFloe k g).dieRegs = s.dieRegs := by unfold State.modFloe; split <;> rfl
@[simp] theorem State.modFloe_csrs (k : Nat) (g : Floe → Floe) : (s.modFloe k g).csrs = s.csrs := by unfold State.modFloe; split <;> rfl
@[simp] theorem State.modFloe_cmds (k : Nat) (g : Floe → Floe) : (s.modFloe k g).cmds = s.cmds := by unfold State.modFloe; split <;> rfl
@[simp] theorem State.modFloe_tlb (k : Nat) (g : Floe → Floe) : (s.modFloe k g).tlb = s.tlb := by unfold State.modFloe; split <;> rfl
@[simp] theorem State.modFloe_segs (k : Nat) (g : Floe → Floe) : (s.modFloe k g).segs = s.segs := by unfold State.modFloe; split <;> rfl
@[simp] theorem State.modFloe_latent (k : Nat) (g : Floe → Floe) : (s.modFloe k g).latent = s.latent := by unfold State.modFloe; split <;> rfl
@[simp] theorem State.modFloe_dir (k : Nat) (g : Floe → Floe) : (s.modFloe k g).dir = s.dir := by unfold State.modFloe; split <;> rfl
@[simp] theorem State.modFloe_recs (k : Nat) (g : Floe → Floe) : (s.modFloe k g).recs = s.recs := by unfold State.modFloe; split <;> rfl
@[simp] theorem State.modFloe_lone (k : Nat) (g : Floe → Floe) : (s.modFloe k g).lone = s.lone := by unfold State.modFloe; split <;> rfl
@[simp] theorem State.modFloe_starts (k : Nat) (g : Floe → Floe) : (s.modFloe k g).starts = s.starts := by unfold State.modFloe; split <;> rfl
@[simp] theorem State.modFloe_race (k : Nat) (g : Floe → Floe) : (s.modFloe k g).race = s.race := by unfold State.modFloe; split <;> rfl
@[simp] theorem State.modFloe_raceBy (k : Nat) (g : Floe → Floe) : (s.modFloe k g).raceBy = s.raceBy := by unfold State.modFloe; split <;> rfl
@[simp] theorem State.modFloe_fills (k : Nat) (g : Floe → Floe) : (s.modFloe k g).fills = s.fills := by unfold State.modFloe; split <;> rfl
@[simp] theorem State.modFloe_recNext (k : Nat) (g : Floe → Floe) : (s.modFloe k g).recNext = s.recNext := by unfold State.modFloe; split <;> rfl
@[simp] theorem State.modFloe_syncs (k : Nat) (g : Floe → Floe) : (s.modFloe k g).syncs = s.syncs := by unfold State.modFloe; split <;> rfl
@[simp] theorem State.modFloe_rfold (k : Nat) (g : Floe → Floe) : (s.modFloe k g).rfold = s.rfold := by unfold State.modFloe; split <;> rfl
@[simp] theorem State.modFloe_preempting (k : Nat) (g : Floe → Floe) : (s.modFloe k g).preempting = s.preempting := by unfold State.modFloe; split <;> rfl
@[simp] theorem State.modFloe_wbs (k : Nat) (g : Floe → Floe) : (s.modFloe k g).wbs = s.wbs := by unfold State.modFloe; split <;> rfl
@[simp] theorem State.modFloe_arrays (k : Nat) (g : Floe → Floe) : (s.modFloe k g).arrays = s.arrays := by unfold State.modFloe; split <;> rfl
@[simp] theorem State.modFloe_reserved (k : Nat) (g : Floe → Floe) : (s.modFloe k g).reserved = s.reserved := by unfold State.modFloe; split <;> rfl
@[simp] theorem State.modFloe_mcasts (k : Nat) (g : Floe → Floe) : (s.modFloe k g).mcasts = s.mcasts := by unfold State.modFloe; split <;> rfl
@[simp] theorem State.modFloe_dumps (k : Nat) (g : Floe → Floe) : (s.modFloe k g).dumps = s.dumps := by unfold State.modFloe; split <;> rfl
@[simp] theorem State.modFloe_invals (k : Nat) (g : Floe → Floe) : (s.modFloe k g).invals = s.invals := by unfold State.modFloe; split <;> rfl
@[simp] theorem State.modFloe_atsOut (k : Nat) (g : Floe → Floe) : (s.modFloe k g).atsOut = s.atsOut := by unfold State.modFloe; split <;> rfl
@[simp] theorem State.modFloe_devWait (k : Nat) (g : Floe → Floe) : (s.modFloe k g).devWait = s.devWait := by unfold State.modFloe; split <;> rfl
@[simp] theorem State.modFloe_fpages (k : Nat) (g : Floe → Floe) : (s.modFloe k g).fpages = s.fpages := by unfold State.modFloe; split <;> rfl
@[simp] theorem State.modFloe_segReqs (k : Nat) (g : Floe → Floe) : (s.modFloe k g).segReqs = s.segReqs := by unfold State.modFloe; split <;> rfl
@[simp] theorem State.modFloe_forms (k : Nat) (g : Floe → Floe) : (s.modFloe k g).forms = s.forms := by unfold State.modFloe; split <;> rfl
@[simp] theorem State.modFloe_links (k : Nat) (g : Floe → Floe) : (s.modFloe k g).links = s.links := by unfold State.modFloe; split <;> rfl
@[simp] theorem State.modFloe_recalls (k : Nat) (g : Floe → Floe) : (s.modFloe k g).recalls = s.recalls := by unfold State.modFloe; split <;> rfl
@[simp] theorem State.modFloe_dirRecs (k : Nat) (g : Floe → Floe) : (s.modFloe k g).dirRecs = s.dirRecs := by unfold State.modFloe; split <;> rfl
@[simp] theorem State.modFloe_withheld (k : Nat) (g : Floe → Floe) : (s.modFloe k g).withheld = s.withheld := by unfold State.modFloe; split <;> rfl
@[simp] theorem State.modFloe_launches (k : Nat) (g : Floe → Floe) : (s.modFloe k g).launches = s.launches := by unfold State.modFloe; split <;> rfl
@[simp] theorem State.modFloe_lines (k : Nat) (g : Floe → Floe) : (s.modFloe k g).lines = s.lines := by unfold State.modFloe; split <;> rfl
@[simp] theorem State.modFloe_aliases (k : Nat) (g : Floe → Floe) : (s.modFloe k g).aliases = s.aliases := by unfold State.modFloe; split <;> rfl
@[simp] theorem State.modFloe_scrubs (k : Nat) (g : Floe → Floe) : (s.modFloe k g).scrubs = s.scrubs := by unfold State.modFloe; split <;> rfl
@[simp] theorem State.modFloe_schedules (k : Nat) (g : Floe → Floe) : (s.modFloe k g).schedules = s.schedules := by unfold State.modFloe; split <;> rfl
@[simp] theorem State.modFloe_linkDirs (k : Nat) (g : Floe → Floe) : (s.modFloe k g).linkDirs = s.linkDirs := by unfold State.modFloe; split <;> rfl
@[simp] theorem State.modFloe_beats (k : Nat) (g : Floe → Floe) : (s.modFloe k g).beats = s.beats := by unfold State.modFloe; split <;> rfl
@[simp] theorem State.modFloe_beatNet (k : Nat) (g : Floe → Floe) : (s.modFloe k g).beatNet = s.beatNet := by unfold State.modFloe; split <;> rfl
@[simp] theorem State.modFloe_errlog (k : Nat) (g : Floe → Floe) : (s.modFloe k g).errlog = s.errlog := by unfold State.modFloe; split <;> rfl
@[simp] theorem State.modFloe_errOver (k : Nat) (g : Floe → Floe) : (s.modFloe k g).errOver = s.errOver := by unfold State.modFloe; split <;> rfl
@[simp] theorem State.modFloe_patrol (k : Nat) (g : Floe → Floe) : (s.modFloe k g).patrol = s.patrol := by unfold State.modFloe; split <;> rfl
@[simp] theorem State.modFloe_migs (k : Nat) (g : Floe → Floe) : (s.modFloe k g).migs = s.migs := by unfold State.modFloe; split <;> rfl
@[simp] theorem State.modFloe_temps (k : Nat) (g : Floe → Floe) : (s.modFloe k g).temps = s.temps := by unfold State.modFloe; split <;> rfl
@[simp] theorem State.modFloe_avoid (k : Nat) (g : Floe → Floe) : (s.modFloe k g).avoid = s.avoid := by unfold State.modFloe; split <;> rfl
@[simp] theorem State.modFloe_droops (k : Nat) (g : Floe → Floe) : (s.modFloe k g).droops = s.droops := by unfold State.modFloe; split <;> rfl
@[simp] theorem State.modFloe_rlog (k : Nat) (g : Floe → Floe) : (s.modFloe k g).rlog = s.rlog := by unfold State.modFloe; split <;> rfl
@[simp] theorem State.modFloe_rlogFull (k : Nat) (g : Floe → Floe) : (s.modFloe k g).rlogFull = s.rlogFull := by unfold State.modFloe; split <;> rfl
@[simp] theorem State.modFloe_rclocks (k : Nat) (g : Floe → Floe) : (s.modFloe k g).rclocks = s.rclocks := by unfold State.modFloe; split <;> rfl
@[simp] theorem State.modFloe_rpend (k : Nat) (g : Floe → Floe) : (s.modFloe k g).rpend = s.rpend := by unfold State.modFloe; split <;> rfl
@[simp] theorem State.modFloe_colls (k : Nat) (g : Floe → Floe) : (s.modFloe k g).colls = s.colls := by unfold State.modFloe; split <;> rfl
@[simp] theorem State.modFloe_ckpt (k : Nat) (g : Floe → Floe) : (s.modFloe k g).ckpt = s.ckpt := by unfold State.modFloe; split <;> rfl
@[simp] theorem State.modFloe_regions (k : Nat) (g : Floe → Floe) : (s.modFloe k g).regions = s.regions := by unfold State.modFloe; split <;> rfl
@[simp] theorem State.modFloe_pkg (k : Nat) (g : Floe → Floe) : (s.modFloe k g).pkg = s.pkg := by unfold State.modFloe; split <;> rfl

/-! `modThread` -/

@[simp] theorem State.modThread_agenda (k : Nat) (g : Thread → Thread) : (s.modThread k g).agenda = s.agenda := rfl
@[simp] theorem State.modThread_steps (k : Nat) (g : Thread → Thread) : (s.modThread k g).steps = s.steps := rfl
@[simp] theorem State.modThread_fresh (k : Nat) (g : Thread → Thread) : (s.modThread k g).fresh = s.fresh := rfl
@[simp] theorem State.modThread_nextId (k : Nat) (g : Thread → Thread) : (s.modThread k g).nextId = s.nextId := rfl
@[simp] theorem State.modThread_cur (k : Nat) (g : Thread → Thread) : (s.modThread k g).cur = s.cur := rfl
@[simp] theorem State.modThread_outbox (k : Nat) (g : Thread → Thread) : (s.modThread k g).outbox = s.outbox := rfl
@[simp] theorem State.modThread_clocks (k : Nat) (g : Thread → Thread) : (s.modThread k g).clocks = s.clocks := rfl
@[simp] theorem State.modThread_regs (k : Nat) (g : Thread → Thread) : (s.modThread k g).regs = s.regs := rfl
@[simp] theorem State.modThread_floes (k : Nat) (g : Thread → Thread) : (s.modThread k g).floes = s.floes := rfl
@[simp] theorem State.modThread_saves (k : Nat) (g : Thread → Thread) : (s.modThread k g).saves = s.saves := rfl
@[simp] theorem State.modThread_bins (k : Nat) (g : Thread → Thread) : (s.modThread k g).bins = s.bins := rfl
@[simp] theorem State.modThread_starting (k : Nat) (g : Thread → Thread) : (s.modThread k g).starting = s.starting := rfl
@[simp] theorem State.modThread_sched (k : Nat) (g : Thread → Thread) : (s.modThread k g).sched = s.sched := rfl
@[simp] theorem State.modThread_lfsr (k : Nat) (g : Thread → Thread) : (s.modThread k g).lfsr = s.lfsr := rfl
@[simp] theorem State.modThread_blocks (k : Nat) (g : Thread → Thread) : (s.modThread k g).blocks = s.blocks := rfl
@[simp] theorem State.modThread_bars (k : Nat) (g : Thread → Thread) : (s.modThread k g).bars = s.bars := rfl
@[simp] theorem State.modThread_cbufs (k : Nat) (g : Thread → Thread) : (s.modThread k g).cbufs = s.cbufs := rfl
@[simp] theorem State.modThread_tables (k : Nat) (g : Thread → Thread) : (s.modThread k g).tables = s.tables := rfl
@[simp] theorem State.modThread_accs (k : Nat) (g : Thread → Thread) : (s.modThread k g).accs = s.accs := rfl
@[simp] theorem State.modThread_allocs (k : Nat) (g : Thread → Thread) : (s.modThread k g).allocs = s.allocs := rfl
@[simp] theorem State.modThread_bankCtx (k : Nat) (g : Thread → Thread) : (s.modThread k g).bankCtx = s.bankCtx := rfl
@[simp] theorem State.modThread_unit (k : Nat) (g : Thread → Thread) : (s.modThread k g).unit = s.unit := rfl
@[simp] theorem State.modThread_clus (k : Nat) (g : Thread → Thread) : (s.modThread k g).clus = s.clus := rfl
@[simp] theorem State.modThread_dmem (k : Nat) (g : Thread → Thread) : (s.modThread k g).dmem = s.dmem := rfl
@[simp] theorem State.modThread_track (k : Nat) (g : Thread → Thread) : (s.modThread k g).track = s.track := rfl
@[simp] theorem State.modThread_maps (k : Nat) (g : Thread → Thread) : (s.modThread k g).maps = s.maps := rfl
@[simp] theorem State.modThread_grids (k : Nat) (g : Thread → Thread) : (s.modThread k g).grids = s.grids := rfl
@[simp] theorem State.modThread_tasks (k : Nat) (g : Thread → Thread) : (s.modThread k g).tasks = s.tasks := rfl
@[simp] theorem State.modThread_saved (k : Nat) (g : Thread → Thread) : (s.modThread k g).saved = s.saved := rfl
@[simp] theorem State.modThread_copies (k : Nat) (g : Thread → Thread) : (s.modThread k g).copies = s.copies := rfl
@[simp] theorem State.modThread_mmas (k : Nat) (g : Thread → Thread) : (s.modThread k g).mmas = s.mmas := rfl
@[simp] theorem State.modThread_net (k : Nat) (g : Thread → Thread) : (s.modThread k g).net = s.net := rfl
@[simp] theorem State.modThread_tokens (k : Nat) (g : Thread → Thread) : (s.modThread k g).tokens = s.tokens := rfl
@[simp] theorem State.modThread_due (k : Nat) (g : Thread → Thread) : (s.modThread k g).due = s.due := rfl
@[simp] theorem State.modThread_mem (k : Nat) (g : Thread → Thread) : (s.modThread k g).mem = s.mem := rfl
@[simp] theorem State.modThread_tags (k : Nat) (g : Thread → Thread) : (s.modThread k g).tags = s.tags := rfl
@[simp] theorem State.modThread_poison (k : Nat) (g : Thread → Thread) : (s.modThread k g).poison = s.poison := rfl
@[simp] theorem State.modThread_hostMem (k : Nat) (g : Thread → Thread) : (s.modThread k g).hostMem = s.hostMem := rfl
@[simp] theorem State.modThread_ctxTab (k : Nat) (g : Thread → Thread) : (s.modThread k g).ctxTab = s.ctxTab := rfl
@[simp] theorem State.modThread_ctxRegs (k : Nat) (g : Thread → Thread) : (s.modThread k g).ctxRegs = s.ctxRegs := rfl
@[simp] theorem State.modThread_dieRegs (k : Nat) (g : Thread → Thread) : (s.modThread k g).dieRegs = s.dieRegs := rfl
@[simp] theorem State.modThread_csrs (k : Nat) (g : Thread → Thread) : (s.modThread k g).csrs = s.csrs := rfl
@[simp] theorem State.modThread_cmds (k : Nat) (g : Thread → Thread) : (s.modThread k g).cmds = s.cmds := rfl
@[simp] theorem State.modThread_tlb (k : Nat) (g : Thread → Thread) : (s.modThread k g).tlb = s.tlb := rfl
@[simp] theorem State.modThread_segs (k : Nat) (g : Thread → Thread) : (s.modThread k g).segs = s.segs := rfl
@[simp] theorem State.modThread_latent (k : Nat) (g : Thread → Thread) : (s.modThread k g).latent = s.latent := rfl
@[simp] theorem State.modThread_dir (k : Nat) (g : Thread → Thread) : (s.modThread k g).dir = s.dir := rfl
@[simp] theorem State.modThread_recs (k : Nat) (g : Thread → Thread) : (s.modThread k g).recs = s.recs := rfl
@[simp] theorem State.modThread_lone (k : Nat) (g : Thread → Thread) : (s.modThread k g).lone = s.lone := rfl
@[simp] theorem State.modThread_starts (k : Nat) (g : Thread → Thread) : (s.modThread k g).starts = s.starts := rfl
@[simp] theorem State.modThread_race (k : Nat) (g : Thread → Thread) : (s.modThread k g).race = s.race := rfl
@[simp] theorem State.modThread_raceBy (k : Nat) (g : Thread → Thread) : (s.modThread k g).raceBy = s.raceBy := rfl
@[simp] theorem State.modThread_fills (k : Nat) (g : Thread → Thread) : (s.modThread k g).fills = s.fills := rfl
@[simp] theorem State.modThread_recNext (k : Nat) (g : Thread → Thread) : (s.modThread k g).recNext = s.recNext := rfl
@[simp] theorem State.modThread_syncs (k : Nat) (g : Thread → Thread) : (s.modThread k g).syncs = s.syncs := rfl
@[simp] theorem State.modThread_rfold (k : Nat) (g : Thread → Thread) : (s.modThread k g).rfold = s.rfold := rfl
@[simp] theorem State.modThread_preempting (k : Nat) (g : Thread → Thread) : (s.modThread k g).preempting = s.preempting := rfl
@[simp] theorem State.modThread_wbs (k : Nat) (g : Thread → Thread) : (s.modThread k g).wbs = s.wbs := rfl
@[simp] theorem State.modThread_arrays (k : Nat) (g : Thread → Thread) : (s.modThread k g).arrays = s.arrays := rfl
@[simp] theorem State.modThread_reserved (k : Nat) (g : Thread → Thread) : (s.modThread k g).reserved = s.reserved := rfl
@[simp] theorem State.modThread_mcasts (k : Nat) (g : Thread → Thread) : (s.modThread k g).mcasts = s.mcasts := rfl
@[simp] theorem State.modThread_dumps (k : Nat) (g : Thread → Thread) : (s.modThread k g).dumps = s.dumps := rfl
@[simp] theorem State.modThread_invals (k : Nat) (g : Thread → Thread) : (s.modThread k g).invals = s.invals := rfl
@[simp] theorem State.modThread_atsOut (k : Nat) (g : Thread → Thread) : (s.modThread k g).atsOut = s.atsOut := rfl
@[simp] theorem State.modThread_devWait (k : Nat) (g : Thread → Thread) : (s.modThread k g).devWait = s.devWait := rfl
@[simp] theorem State.modThread_fpages (k : Nat) (g : Thread → Thread) : (s.modThread k g).fpages = s.fpages := rfl
@[simp] theorem State.modThread_segReqs (k : Nat) (g : Thread → Thread) : (s.modThread k g).segReqs = s.segReqs := rfl
@[simp] theorem State.modThread_forms (k : Nat) (g : Thread → Thread) : (s.modThread k g).forms = s.forms := rfl
@[simp] theorem State.modThread_links (k : Nat) (g : Thread → Thread) : (s.modThread k g).links = s.links := rfl
@[simp] theorem State.modThread_recalls (k : Nat) (g : Thread → Thread) : (s.modThread k g).recalls = s.recalls := rfl
@[simp] theorem State.modThread_dirRecs (k : Nat) (g : Thread → Thread) : (s.modThread k g).dirRecs = s.dirRecs := rfl
@[simp] theorem State.modThread_withheld (k : Nat) (g : Thread → Thread) : (s.modThread k g).withheld = s.withheld := rfl
@[simp] theorem State.modThread_launches (k : Nat) (g : Thread → Thread) : (s.modThread k g).launches = s.launches := rfl
@[simp] theorem State.modThread_lines (k : Nat) (g : Thread → Thread) : (s.modThread k g).lines = s.lines := rfl
@[simp] theorem State.modThread_aliases (k : Nat) (g : Thread → Thread) : (s.modThread k g).aliases = s.aliases := rfl
@[simp] theorem State.modThread_scrubs (k : Nat) (g : Thread → Thread) : (s.modThread k g).scrubs = s.scrubs := rfl
@[simp] theorem State.modThread_schedules (k : Nat) (g : Thread → Thread) : (s.modThread k g).schedules = s.schedules := rfl
@[simp] theorem State.modThread_linkDirs (k : Nat) (g : Thread → Thread) : (s.modThread k g).linkDirs = s.linkDirs := rfl
@[simp] theorem State.modThread_beats (k : Nat) (g : Thread → Thread) : (s.modThread k g).beats = s.beats := rfl
@[simp] theorem State.modThread_beatNet (k : Nat) (g : Thread → Thread) : (s.modThread k g).beatNet = s.beatNet := rfl
@[simp] theorem State.modThread_errlog (k : Nat) (g : Thread → Thread) : (s.modThread k g).errlog = s.errlog := rfl
@[simp] theorem State.modThread_errOver (k : Nat) (g : Thread → Thread) : (s.modThread k g).errOver = s.errOver := rfl
@[simp] theorem State.modThread_patrol (k : Nat) (g : Thread → Thread) : (s.modThread k g).patrol = s.patrol := rfl
@[simp] theorem State.modThread_migs (k : Nat) (g : Thread → Thread) : (s.modThread k g).migs = s.migs := rfl
@[simp] theorem State.modThread_temps (k : Nat) (g : Thread → Thread) : (s.modThread k g).temps = s.temps := rfl
@[simp] theorem State.modThread_avoid (k : Nat) (g : Thread → Thread) : (s.modThread k g).avoid = s.avoid := rfl
@[simp] theorem State.modThread_droops (k : Nat) (g : Thread → Thread) : (s.modThread k g).droops = s.droops := rfl
@[simp] theorem State.modThread_rlog (k : Nat) (g : Thread → Thread) : (s.modThread k g).rlog = s.rlog := rfl
@[simp] theorem State.modThread_rlogFull (k : Nat) (g : Thread → Thread) : (s.modThread k g).rlogFull = s.rlogFull := rfl
@[simp] theorem State.modThread_rclocks (k : Nat) (g : Thread → Thread) : (s.modThread k g).rclocks = s.rclocks := rfl
@[simp] theorem State.modThread_rpend (k : Nat) (g : Thread → Thread) : (s.modThread k g).rpend = s.rpend := rfl
@[simp] theorem State.modThread_colls (k : Nat) (g : Thread → Thread) : (s.modThread k g).colls = s.colls := rfl
@[simp] theorem State.modThread_ckpt (k : Nat) (g : Thread → Thread) : (s.modThread k g).ckpt = s.ckpt := rfl
@[simp] theorem State.modThread_regions (k : Nat) (g : Thread → Thread) : (s.modThread k g).regions = s.regions := rfl
@[simp] theorem State.modThread_pkg (k : Nat) (g : Thread → Thread) : (s.modThread k g).pkg = s.pkg := rfl

/-! `modBlock` -/

@[simp] theorem State.modBlock_agenda (k : Nat) (g : Block → Block) : (s.modBlock k g).agenda = s.agenda := by unfold State.modBlock; split <;> rfl
@[simp] theorem State.modBlock_steps (k : Nat) (g : Block → Block) : (s.modBlock k g).steps = s.steps := by unfold State.modBlock; split <;> rfl
@[simp] theorem State.modBlock_fresh (k : Nat) (g : Block → Block) : (s.modBlock k g).fresh = s.fresh := by unfold State.modBlock; split <;> rfl
@[simp] theorem State.modBlock_nextId (k : Nat) (g : Block → Block) : (s.modBlock k g).nextId = s.nextId := by unfold State.modBlock; split <;> rfl
@[simp] theorem State.modBlock_cur (k : Nat) (g : Block → Block) : (s.modBlock k g).cur = s.cur := by unfold State.modBlock; split <;> rfl
@[simp] theorem State.modBlock_outbox (k : Nat) (g : Block → Block) : (s.modBlock k g).outbox = s.outbox := by unfold State.modBlock; split <;> rfl
@[simp] theorem State.modBlock_clocks (k : Nat) (g : Block → Block) : (s.modBlock k g).clocks = s.clocks := by unfold State.modBlock; split <;> rfl
@[simp] theorem State.modBlock_regs (k : Nat) (g : Block → Block) : (s.modBlock k g).regs = s.regs := by unfold State.modBlock; split <;> rfl
@[simp] theorem State.modBlock_threads (k : Nat) (g : Block → Block) : (s.modBlock k g).threads = s.threads := by unfold State.modBlock; split <;> rfl
@[simp] theorem State.modBlock_floes (k : Nat) (g : Block → Block) : (s.modBlock k g).floes = s.floes := by unfold State.modBlock; split <;> rfl
@[simp] theorem State.modBlock_saves (k : Nat) (g : Block → Block) : (s.modBlock k g).saves = s.saves := by unfold State.modBlock; split <;> rfl
@[simp] theorem State.modBlock_bins (k : Nat) (g : Block → Block) : (s.modBlock k g).bins = s.bins := by unfold State.modBlock; split <;> rfl
@[simp] theorem State.modBlock_starting (k : Nat) (g : Block → Block) : (s.modBlock k g).starting = s.starting := by unfold State.modBlock; split <;> rfl
@[simp] theorem State.modBlock_sched (k : Nat) (g : Block → Block) : (s.modBlock k g).sched = s.sched := by unfold State.modBlock; split <;> rfl
@[simp] theorem State.modBlock_lfsr (k : Nat) (g : Block → Block) : (s.modBlock k g).lfsr = s.lfsr := by unfold State.modBlock; split <;> rfl
@[simp] theorem State.modBlock_bars (k : Nat) (g : Block → Block) : (s.modBlock k g).bars = s.bars := by unfold State.modBlock; split <;> rfl
@[simp] theorem State.modBlock_cbufs (k : Nat) (g : Block → Block) : (s.modBlock k g).cbufs = s.cbufs := by unfold State.modBlock; split <;> rfl
@[simp] theorem State.modBlock_tables (k : Nat) (g : Block → Block) : (s.modBlock k g).tables = s.tables := by unfold State.modBlock; split <;> rfl
@[simp] theorem State.modBlock_accs (k : Nat) (g : Block → Block) : (s.modBlock k g).accs = s.accs := by unfold State.modBlock; split <;> rfl
@[simp] theorem State.modBlock_allocs (k : Nat) (g : Block → Block) : (s.modBlock k g).allocs = s.allocs := by unfold State.modBlock; split <;> rfl
@[simp] theorem State.modBlock_bankCtx (k : Nat) (g : Block → Block) : (s.modBlock k g).bankCtx = s.bankCtx := by unfold State.modBlock; split <;> rfl
@[simp] theorem State.modBlock_unit (k : Nat) (g : Block → Block) : (s.modBlock k g).unit = s.unit := by unfold State.modBlock; split <;> rfl
@[simp] theorem State.modBlock_clus (k : Nat) (g : Block → Block) : (s.modBlock k g).clus = s.clus := by unfold State.modBlock; split <;> rfl
@[simp] theorem State.modBlock_dmem (k : Nat) (g : Block → Block) : (s.modBlock k g).dmem = s.dmem := by unfold State.modBlock; split <;> rfl
@[simp] theorem State.modBlock_track (k : Nat) (g : Block → Block) : (s.modBlock k g).track = s.track := by unfold State.modBlock; split <;> rfl
@[simp] theorem State.modBlock_maps (k : Nat) (g : Block → Block) : (s.modBlock k g).maps = s.maps := by unfold State.modBlock; split <;> rfl
@[simp] theorem State.modBlock_grids (k : Nat) (g : Block → Block) : (s.modBlock k g).grids = s.grids := by unfold State.modBlock; split <;> rfl
@[simp] theorem State.modBlock_tasks (k : Nat) (g : Block → Block) : (s.modBlock k g).tasks = s.tasks := by unfold State.modBlock; split <;> rfl
@[simp] theorem State.modBlock_saved (k : Nat) (g : Block → Block) : (s.modBlock k g).saved = s.saved := by unfold State.modBlock; split <;> rfl
@[simp] theorem State.modBlock_copies (k : Nat) (g : Block → Block) : (s.modBlock k g).copies = s.copies := by unfold State.modBlock; split <;> rfl
@[simp] theorem State.modBlock_mmas (k : Nat) (g : Block → Block) : (s.modBlock k g).mmas = s.mmas := by unfold State.modBlock; split <;> rfl
@[simp] theorem State.modBlock_net (k : Nat) (g : Block → Block) : (s.modBlock k g).net = s.net := by unfold State.modBlock; split <;> rfl
@[simp] theorem State.modBlock_tokens (k : Nat) (g : Block → Block) : (s.modBlock k g).tokens = s.tokens := by unfold State.modBlock; split <;> rfl
@[simp] theorem State.modBlock_due (k : Nat) (g : Block → Block) : (s.modBlock k g).due = s.due := by unfold State.modBlock; split <;> rfl
@[simp] theorem State.modBlock_mem (k : Nat) (g : Block → Block) : (s.modBlock k g).mem = s.mem := by unfold State.modBlock; split <;> rfl
@[simp] theorem State.modBlock_tags (k : Nat) (g : Block → Block) : (s.modBlock k g).tags = s.tags := by unfold State.modBlock; split <;> rfl
@[simp] theorem State.modBlock_poison (k : Nat) (g : Block → Block) : (s.modBlock k g).poison = s.poison := by unfold State.modBlock; split <;> rfl
@[simp] theorem State.modBlock_hostMem (k : Nat) (g : Block → Block) : (s.modBlock k g).hostMem = s.hostMem := by unfold State.modBlock; split <;> rfl
@[simp] theorem State.modBlock_ctxTab (k : Nat) (g : Block → Block) : (s.modBlock k g).ctxTab = s.ctxTab := by unfold State.modBlock; split <;> rfl
@[simp] theorem State.modBlock_ctxRegs (k : Nat) (g : Block → Block) : (s.modBlock k g).ctxRegs = s.ctxRegs := by unfold State.modBlock; split <;> rfl
@[simp] theorem State.modBlock_dieRegs (k : Nat) (g : Block → Block) : (s.modBlock k g).dieRegs = s.dieRegs := by unfold State.modBlock; split <;> rfl
@[simp] theorem State.modBlock_csrs (k : Nat) (g : Block → Block) : (s.modBlock k g).csrs = s.csrs := by unfold State.modBlock; split <;> rfl
@[simp] theorem State.modBlock_cmds (k : Nat) (g : Block → Block) : (s.modBlock k g).cmds = s.cmds := by unfold State.modBlock; split <;> rfl
@[simp] theorem State.modBlock_tlb (k : Nat) (g : Block → Block) : (s.modBlock k g).tlb = s.tlb := by unfold State.modBlock; split <;> rfl
@[simp] theorem State.modBlock_segs (k : Nat) (g : Block → Block) : (s.modBlock k g).segs = s.segs := by unfold State.modBlock; split <;> rfl
@[simp] theorem State.modBlock_latent (k : Nat) (g : Block → Block) : (s.modBlock k g).latent = s.latent := by unfold State.modBlock; split <;> rfl
@[simp] theorem State.modBlock_dir (k : Nat) (g : Block → Block) : (s.modBlock k g).dir = s.dir := by unfold State.modBlock; split <;> rfl
@[simp] theorem State.modBlock_recs (k : Nat) (g : Block → Block) : (s.modBlock k g).recs = s.recs := by unfold State.modBlock; split <;> rfl
@[simp] theorem State.modBlock_lone (k : Nat) (g : Block → Block) : (s.modBlock k g).lone = s.lone := by unfold State.modBlock; split <;> rfl
@[simp] theorem State.modBlock_starts (k : Nat) (g : Block → Block) : (s.modBlock k g).starts = s.starts := by unfold State.modBlock; split <;> rfl
@[simp] theorem State.modBlock_race (k : Nat) (g : Block → Block) : (s.modBlock k g).race = s.race := by unfold State.modBlock; split <;> rfl
@[simp] theorem State.modBlock_raceBy (k : Nat) (g : Block → Block) : (s.modBlock k g).raceBy = s.raceBy := by unfold State.modBlock; split <;> rfl
@[simp] theorem State.modBlock_fills (k : Nat) (g : Block → Block) : (s.modBlock k g).fills = s.fills := by unfold State.modBlock; split <;> rfl
@[simp] theorem State.modBlock_recNext (k : Nat) (g : Block → Block) : (s.modBlock k g).recNext = s.recNext := by unfold State.modBlock; split <;> rfl
@[simp] theorem State.modBlock_syncs (k : Nat) (g : Block → Block) : (s.modBlock k g).syncs = s.syncs := by unfold State.modBlock; split <;> rfl
@[simp] theorem State.modBlock_rfold (k : Nat) (g : Block → Block) : (s.modBlock k g).rfold = s.rfold := by unfold State.modBlock; split <;> rfl
@[simp] theorem State.modBlock_preempting (k : Nat) (g : Block → Block) : (s.modBlock k g).preempting = s.preempting := by unfold State.modBlock; split <;> rfl
@[simp] theorem State.modBlock_wbs (k : Nat) (g : Block → Block) : (s.modBlock k g).wbs = s.wbs := by unfold State.modBlock; split <;> rfl
@[simp] theorem State.modBlock_arrays (k : Nat) (g : Block → Block) : (s.modBlock k g).arrays = s.arrays := by unfold State.modBlock; split <;> rfl
@[simp] theorem State.modBlock_reserved (k : Nat) (g : Block → Block) : (s.modBlock k g).reserved = s.reserved := by unfold State.modBlock; split <;> rfl
@[simp] theorem State.modBlock_mcasts (k : Nat) (g : Block → Block) : (s.modBlock k g).mcasts = s.mcasts := by unfold State.modBlock; split <;> rfl
@[simp] theorem State.modBlock_dumps (k : Nat) (g : Block → Block) : (s.modBlock k g).dumps = s.dumps := by unfold State.modBlock; split <;> rfl
@[simp] theorem State.modBlock_invals (k : Nat) (g : Block → Block) : (s.modBlock k g).invals = s.invals := by unfold State.modBlock; split <;> rfl
@[simp] theorem State.modBlock_atsOut (k : Nat) (g : Block → Block) : (s.modBlock k g).atsOut = s.atsOut := by unfold State.modBlock; split <;> rfl
@[simp] theorem State.modBlock_devWait (k : Nat) (g : Block → Block) : (s.modBlock k g).devWait = s.devWait := by unfold State.modBlock; split <;> rfl
@[simp] theorem State.modBlock_fpages (k : Nat) (g : Block → Block) : (s.modBlock k g).fpages = s.fpages := by unfold State.modBlock; split <;> rfl
@[simp] theorem State.modBlock_segReqs (k : Nat) (g : Block → Block) : (s.modBlock k g).segReqs = s.segReqs := by unfold State.modBlock; split <;> rfl
@[simp] theorem State.modBlock_forms (k : Nat) (g : Block → Block) : (s.modBlock k g).forms = s.forms := by unfold State.modBlock; split <;> rfl
@[simp] theorem State.modBlock_links (k : Nat) (g : Block → Block) : (s.modBlock k g).links = s.links := by unfold State.modBlock; split <;> rfl
@[simp] theorem State.modBlock_recalls (k : Nat) (g : Block → Block) : (s.modBlock k g).recalls = s.recalls := by unfold State.modBlock; split <;> rfl
@[simp] theorem State.modBlock_dirRecs (k : Nat) (g : Block → Block) : (s.modBlock k g).dirRecs = s.dirRecs := by unfold State.modBlock; split <;> rfl
@[simp] theorem State.modBlock_withheld (k : Nat) (g : Block → Block) : (s.modBlock k g).withheld = s.withheld := by unfold State.modBlock; split <;> rfl
@[simp] theorem State.modBlock_launches (k : Nat) (g : Block → Block) : (s.modBlock k g).launches = s.launches := by unfold State.modBlock; split <;> rfl
@[simp] theorem State.modBlock_lines (k : Nat) (g : Block → Block) : (s.modBlock k g).lines = s.lines := by unfold State.modBlock; split <;> rfl
@[simp] theorem State.modBlock_aliases (k : Nat) (g : Block → Block) : (s.modBlock k g).aliases = s.aliases := by unfold State.modBlock; split <;> rfl
@[simp] theorem State.modBlock_scrubs (k : Nat) (g : Block → Block) : (s.modBlock k g).scrubs = s.scrubs := by unfold State.modBlock; split <;> rfl
@[simp] theorem State.modBlock_schedules (k : Nat) (g : Block → Block) : (s.modBlock k g).schedules = s.schedules := by unfold State.modBlock; split <;> rfl
@[simp] theorem State.modBlock_linkDirs (k : Nat) (g : Block → Block) : (s.modBlock k g).linkDirs = s.linkDirs := by unfold State.modBlock; split <;> rfl
@[simp] theorem State.modBlock_beats (k : Nat) (g : Block → Block) : (s.modBlock k g).beats = s.beats := by unfold State.modBlock; split <;> rfl
@[simp] theorem State.modBlock_beatNet (k : Nat) (g : Block → Block) : (s.modBlock k g).beatNet = s.beatNet := by unfold State.modBlock; split <;> rfl
@[simp] theorem State.modBlock_errlog (k : Nat) (g : Block → Block) : (s.modBlock k g).errlog = s.errlog := by unfold State.modBlock; split <;> rfl
@[simp] theorem State.modBlock_errOver (k : Nat) (g : Block → Block) : (s.modBlock k g).errOver = s.errOver := by unfold State.modBlock; split <;> rfl
@[simp] theorem State.modBlock_patrol (k : Nat) (g : Block → Block) : (s.modBlock k g).patrol = s.patrol := by unfold State.modBlock; split <;> rfl
@[simp] theorem State.modBlock_migs (k : Nat) (g : Block → Block) : (s.modBlock k g).migs = s.migs := by unfold State.modBlock; split <;> rfl
@[simp] theorem State.modBlock_temps (k : Nat) (g : Block → Block) : (s.modBlock k g).temps = s.temps := by unfold State.modBlock; split <;> rfl
@[simp] theorem State.modBlock_avoid (k : Nat) (g : Block → Block) : (s.modBlock k g).avoid = s.avoid := by unfold State.modBlock; split <;> rfl
@[simp] theorem State.modBlock_droops (k : Nat) (g : Block → Block) : (s.modBlock k g).droops = s.droops := by unfold State.modBlock; split <;> rfl
@[simp] theorem State.modBlock_rlog (k : Nat) (g : Block → Block) : (s.modBlock k g).rlog = s.rlog := by unfold State.modBlock; split <;> rfl
@[simp] theorem State.modBlock_rlogFull (k : Nat) (g : Block → Block) : (s.modBlock k g).rlogFull = s.rlogFull := by unfold State.modBlock; split <;> rfl
@[simp] theorem State.modBlock_rclocks (k : Nat) (g : Block → Block) : (s.modBlock k g).rclocks = s.rclocks := by unfold State.modBlock; split <;> rfl
@[simp] theorem State.modBlock_rpend (k : Nat) (g : Block → Block) : (s.modBlock k g).rpend = s.rpend := by unfold State.modBlock; split <;> rfl
@[simp] theorem State.modBlock_colls (k : Nat) (g : Block → Block) : (s.modBlock k g).colls = s.colls := by unfold State.modBlock; split <;> rfl
@[simp] theorem State.modBlock_ckpt (k : Nat) (g : Block → Block) : (s.modBlock k g).ckpt = s.ckpt := by unfold State.modBlock; split <;> rfl
@[simp] theorem State.modBlock_regions (k : Nat) (g : Block → Block) : (s.modBlock k g).regions = s.regions := by unfold State.modBlock; split <;> rfl
@[simp] theorem State.modBlock_pkg (k : Nat) (g : Block → Block) : (s.modBlock k g).pkg = s.pkg := by unfold State.modBlock; split <;> rfl

/-! `modGrid` -/

@[simp] theorem State.modGrid_agenda (k : Nat) (g : Grid → Grid) : (s.modGrid k g).agenda = s.agenda := by unfold State.modGrid; split <;> rfl
@[simp] theorem State.modGrid_steps (k : Nat) (g : Grid → Grid) : (s.modGrid k g).steps = s.steps := by unfold State.modGrid; split <;> rfl
@[simp] theorem State.modGrid_fresh (k : Nat) (g : Grid → Grid) : (s.modGrid k g).fresh = s.fresh := by unfold State.modGrid; split <;> rfl
@[simp] theorem State.modGrid_nextId (k : Nat) (g : Grid → Grid) : (s.modGrid k g).nextId = s.nextId := by unfold State.modGrid; split <;> rfl
@[simp] theorem State.modGrid_cur (k : Nat) (g : Grid → Grid) : (s.modGrid k g).cur = s.cur := by unfold State.modGrid; split <;> rfl
@[simp] theorem State.modGrid_outbox (k : Nat) (g : Grid → Grid) : (s.modGrid k g).outbox = s.outbox := by unfold State.modGrid; split <;> rfl
@[simp] theorem State.modGrid_clocks (k : Nat) (g : Grid → Grid) : (s.modGrid k g).clocks = s.clocks := by unfold State.modGrid; split <;> rfl
@[simp] theorem State.modGrid_regs (k : Nat) (g : Grid → Grid) : (s.modGrid k g).regs = s.regs := by unfold State.modGrid; split <;> rfl
@[simp] theorem State.modGrid_threads (k : Nat) (g : Grid → Grid) : (s.modGrid k g).threads = s.threads := by unfold State.modGrid; split <;> rfl
@[simp] theorem State.modGrid_floes (k : Nat) (g : Grid → Grid) : (s.modGrid k g).floes = s.floes := by unfold State.modGrid; split <;> rfl
@[simp] theorem State.modGrid_saves (k : Nat) (g : Grid → Grid) : (s.modGrid k g).saves = s.saves := by unfold State.modGrid; split <;> rfl
@[simp] theorem State.modGrid_bins (k : Nat) (g : Grid → Grid) : (s.modGrid k g).bins = s.bins := by unfold State.modGrid; split <;> rfl
@[simp] theorem State.modGrid_starting (k : Nat) (g : Grid → Grid) : (s.modGrid k g).starting = s.starting := by unfold State.modGrid; split <;> rfl
@[simp] theorem State.modGrid_sched (k : Nat) (g : Grid → Grid) : (s.modGrid k g).sched = s.sched := by unfold State.modGrid; split <;> rfl
@[simp] theorem State.modGrid_lfsr (k : Nat) (g : Grid → Grid) : (s.modGrid k g).lfsr = s.lfsr := by unfold State.modGrid; split <;> rfl
@[simp] theorem State.modGrid_blocks (k : Nat) (g : Grid → Grid) : (s.modGrid k g).blocks = s.blocks := by unfold State.modGrid; split <;> rfl
@[simp] theorem State.modGrid_bars (k : Nat) (g : Grid → Grid) : (s.modGrid k g).bars = s.bars := by unfold State.modGrid; split <;> rfl
@[simp] theorem State.modGrid_cbufs (k : Nat) (g : Grid → Grid) : (s.modGrid k g).cbufs = s.cbufs := by unfold State.modGrid; split <;> rfl
@[simp] theorem State.modGrid_tables (k : Nat) (g : Grid → Grid) : (s.modGrid k g).tables = s.tables := by unfold State.modGrid; split <;> rfl
@[simp] theorem State.modGrid_accs (k : Nat) (g : Grid → Grid) : (s.modGrid k g).accs = s.accs := by unfold State.modGrid; split <;> rfl
@[simp] theorem State.modGrid_allocs (k : Nat) (g : Grid → Grid) : (s.modGrid k g).allocs = s.allocs := by unfold State.modGrid; split <;> rfl
@[simp] theorem State.modGrid_bankCtx (k : Nat) (g : Grid → Grid) : (s.modGrid k g).bankCtx = s.bankCtx := by unfold State.modGrid; split <;> rfl
@[simp] theorem State.modGrid_unit (k : Nat) (g : Grid → Grid) : (s.modGrid k g).unit = s.unit := by unfold State.modGrid; split <;> rfl
@[simp] theorem State.modGrid_clus (k : Nat) (g : Grid → Grid) : (s.modGrid k g).clus = s.clus := by unfold State.modGrid; split <;> rfl
@[simp] theorem State.modGrid_dmem (k : Nat) (g : Grid → Grid) : (s.modGrid k g).dmem = s.dmem := by unfold State.modGrid; split <;> rfl
@[simp] theorem State.modGrid_track (k : Nat) (g : Grid → Grid) : (s.modGrid k g).track = s.track := by unfold State.modGrid; split <;> rfl
@[simp] theorem State.modGrid_maps (k : Nat) (g : Grid → Grid) : (s.modGrid k g).maps = s.maps := by unfold State.modGrid; split <;> rfl
@[simp] theorem State.modGrid_tasks (k : Nat) (g : Grid → Grid) : (s.modGrid k g).tasks = s.tasks := by unfold State.modGrid; split <;> rfl
@[simp] theorem State.modGrid_saved (k : Nat) (g : Grid → Grid) : (s.modGrid k g).saved = s.saved := by unfold State.modGrid; split <;> rfl
@[simp] theorem State.modGrid_copies (k : Nat) (g : Grid → Grid) : (s.modGrid k g).copies = s.copies := by unfold State.modGrid; split <;> rfl
@[simp] theorem State.modGrid_mmas (k : Nat) (g : Grid → Grid) : (s.modGrid k g).mmas = s.mmas := by unfold State.modGrid; split <;> rfl
@[simp] theorem State.modGrid_net (k : Nat) (g : Grid → Grid) : (s.modGrid k g).net = s.net := by unfold State.modGrid; split <;> rfl
@[simp] theorem State.modGrid_tokens (k : Nat) (g : Grid → Grid) : (s.modGrid k g).tokens = s.tokens := by unfold State.modGrid; split <;> rfl
@[simp] theorem State.modGrid_due (k : Nat) (g : Grid → Grid) : (s.modGrid k g).due = s.due := by unfold State.modGrid; split <;> rfl
@[simp] theorem State.modGrid_mem (k : Nat) (g : Grid → Grid) : (s.modGrid k g).mem = s.mem := by unfold State.modGrid; split <;> rfl
@[simp] theorem State.modGrid_tags (k : Nat) (g : Grid → Grid) : (s.modGrid k g).tags = s.tags := by unfold State.modGrid; split <;> rfl
@[simp] theorem State.modGrid_poison (k : Nat) (g : Grid → Grid) : (s.modGrid k g).poison = s.poison := by unfold State.modGrid; split <;> rfl
@[simp] theorem State.modGrid_hostMem (k : Nat) (g : Grid → Grid) : (s.modGrid k g).hostMem = s.hostMem := by unfold State.modGrid; split <;> rfl
@[simp] theorem State.modGrid_ctxTab (k : Nat) (g : Grid → Grid) : (s.modGrid k g).ctxTab = s.ctxTab := by unfold State.modGrid; split <;> rfl
@[simp] theorem State.modGrid_ctxRegs (k : Nat) (g : Grid → Grid) : (s.modGrid k g).ctxRegs = s.ctxRegs := by unfold State.modGrid; split <;> rfl
@[simp] theorem State.modGrid_dieRegs (k : Nat) (g : Grid → Grid) : (s.modGrid k g).dieRegs = s.dieRegs := by unfold State.modGrid; split <;> rfl
@[simp] theorem State.modGrid_csrs (k : Nat) (g : Grid → Grid) : (s.modGrid k g).csrs = s.csrs := by unfold State.modGrid; split <;> rfl
@[simp] theorem State.modGrid_cmds (k : Nat) (g : Grid → Grid) : (s.modGrid k g).cmds = s.cmds := by unfold State.modGrid; split <;> rfl
@[simp] theorem State.modGrid_tlb (k : Nat) (g : Grid → Grid) : (s.modGrid k g).tlb = s.tlb := by unfold State.modGrid; split <;> rfl
@[simp] theorem State.modGrid_segs (k : Nat) (g : Grid → Grid) : (s.modGrid k g).segs = s.segs := by unfold State.modGrid; split <;> rfl
@[simp] theorem State.modGrid_latent (k : Nat) (g : Grid → Grid) : (s.modGrid k g).latent = s.latent := by unfold State.modGrid; split <;> rfl
@[simp] theorem State.modGrid_dir (k : Nat) (g : Grid → Grid) : (s.modGrid k g).dir = s.dir := by unfold State.modGrid; split <;> rfl
@[simp] theorem State.modGrid_recs (k : Nat) (g : Grid → Grid) : (s.modGrid k g).recs = s.recs := by unfold State.modGrid; split <;> rfl
@[simp] theorem State.modGrid_lone (k : Nat) (g : Grid → Grid) : (s.modGrid k g).lone = s.lone := by unfold State.modGrid; split <;> rfl
@[simp] theorem State.modGrid_starts (k : Nat) (g : Grid → Grid) : (s.modGrid k g).starts = s.starts := by unfold State.modGrid; split <;> rfl
@[simp] theorem State.modGrid_race (k : Nat) (g : Grid → Grid) : (s.modGrid k g).race = s.race := by unfold State.modGrid; split <;> rfl
@[simp] theorem State.modGrid_raceBy (k : Nat) (g : Grid → Grid) : (s.modGrid k g).raceBy = s.raceBy := by unfold State.modGrid; split <;> rfl
@[simp] theorem State.modGrid_fills (k : Nat) (g : Grid → Grid) : (s.modGrid k g).fills = s.fills := by unfold State.modGrid; split <;> rfl
@[simp] theorem State.modGrid_recNext (k : Nat) (g : Grid → Grid) : (s.modGrid k g).recNext = s.recNext := by unfold State.modGrid; split <;> rfl
@[simp] theorem State.modGrid_syncs (k : Nat) (g : Grid → Grid) : (s.modGrid k g).syncs = s.syncs := by unfold State.modGrid; split <;> rfl
@[simp] theorem State.modGrid_rfold (k : Nat) (g : Grid → Grid) : (s.modGrid k g).rfold = s.rfold := by unfold State.modGrid; split <;> rfl
@[simp] theorem State.modGrid_preempting (k : Nat) (g : Grid → Grid) : (s.modGrid k g).preempting = s.preempting := by unfold State.modGrid; split <;> rfl
@[simp] theorem State.modGrid_wbs (k : Nat) (g : Grid → Grid) : (s.modGrid k g).wbs = s.wbs := by unfold State.modGrid; split <;> rfl
@[simp] theorem State.modGrid_arrays (k : Nat) (g : Grid → Grid) : (s.modGrid k g).arrays = s.arrays := by unfold State.modGrid; split <;> rfl
@[simp] theorem State.modGrid_reserved (k : Nat) (g : Grid → Grid) : (s.modGrid k g).reserved = s.reserved := by unfold State.modGrid; split <;> rfl
@[simp] theorem State.modGrid_mcasts (k : Nat) (g : Grid → Grid) : (s.modGrid k g).mcasts = s.mcasts := by unfold State.modGrid; split <;> rfl
@[simp] theorem State.modGrid_dumps (k : Nat) (g : Grid → Grid) : (s.modGrid k g).dumps = s.dumps := by unfold State.modGrid; split <;> rfl
@[simp] theorem State.modGrid_invals (k : Nat) (g : Grid → Grid) : (s.modGrid k g).invals = s.invals := by unfold State.modGrid; split <;> rfl
@[simp] theorem State.modGrid_atsOut (k : Nat) (g : Grid → Grid) : (s.modGrid k g).atsOut = s.atsOut := by unfold State.modGrid; split <;> rfl
@[simp] theorem State.modGrid_devWait (k : Nat) (g : Grid → Grid) : (s.modGrid k g).devWait = s.devWait := by unfold State.modGrid; split <;> rfl
@[simp] theorem State.modGrid_fpages (k : Nat) (g : Grid → Grid) : (s.modGrid k g).fpages = s.fpages := by unfold State.modGrid; split <;> rfl
@[simp] theorem State.modGrid_segReqs (k : Nat) (g : Grid → Grid) : (s.modGrid k g).segReqs = s.segReqs := by unfold State.modGrid; split <;> rfl
@[simp] theorem State.modGrid_forms (k : Nat) (g : Grid → Grid) : (s.modGrid k g).forms = s.forms := by unfold State.modGrid; split <;> rfl
@[simp] theorem State.modGrid_links (k : Nat) (g : Grid → Grid) : (s.modGrid k g).links = s.links := by unfold State.modGrid; split <;> rfl
@[simp] theorem State.modGrid_recalls (k : Nat) (g : Grid → Grid) : (s.modGrid k g).recalls = s.recalls := by unfold State.modGrid; split <;> rfl
@[simp] theorem State.modGrid_dirRecs (k : Nat) (g : Grid → Grid) : (s.modGrid k g).dirRecs = s.dirRecs := by unfold State.modGrid; split <;> rfl
@[simp] theorem State.modGrid_withheld (k : Nat) (g : Grid → Grid) : (s.modGrid k g).withheld = s.withheld := by unfold State.modGrid; split <;> rfl
@[simp] theorem State.modGrid_launches (k : Nat) (g : Grid → Grid) : (s.modGrid k g).launches = s.launches := by unfold State.modGrid; split <;> rfl
@[simp] theorem State.modGrid_lines (k : Nat) (g : Grid → Grid) : (s.modGrid k g).lines = s.lines := by unfold State.modGrid; split <;> rfl
@[simp] theorem State.modGrid_aliases (k : Nat) (g : Grid → Grid) : (s.modGrid k g).aliases = s.aliases := by unfold State.modGrid; split <;> rfl
@[simp] theorem State.modGrid_scrubs (k : Nat) (g : Grid → Grid) : (s.modGrid k g).scrubs = s.scrubs := by unfold State.modGrid; split <;> rfl
@[simp] theorem State.modGrid_schedules (k : Nat) (g : Grid → Grid) : (s.modGrid k g).schedules = s.schedules := by unfold State.modGrid; split <;> rfl
@[simp] theorem State.modGrid_linkDirs (k : Nat) (g : Grid → Grid) : (s.modGrid k g).linkDirs = s.linkDirs := by unfold State.modGrid; split <;> rfl
@[simp] theorem State.modGrid_beats (k : Nat) (g : Grid → Grid) : (s.modGrid k g).beats = s.beats := by unfold State.modGrid; split <;> rfl
@[simp] theorem State.modGrid_beatNet (k : Nat) (g : Grid → Grid) : (s.modGrid k g).beatNet = s.beatNet := by unfold State.modGrid; split <;> rfl
@[simp] theorem State.modGrid_errlog (k : Nat) (g : Grid → Grid) : (s.modGrid k g).errlog = s.errlog := by unfold State.modGrid; split <;> rfl
@[simp] theorem State.modGrid_errOver (k : Nat) (g : Grid → Grid) : (s.modGrid k g).errOver = s.errOver := by unfold State.modGrid; split <;> rfl
@[simp] theorem State.modGrid_patrol (k : Nat) (g : Grid → Grid) : (s.modGrid k g).patrol = s.patrol := by unfold State.modGrid; split <;> rfl
@[simp] theorem State.modGrid_migs (k : Nat) (g : Grid → Grid) : (s.modGrid k g).migs = s.migs := by unfold State.modGrid; split <;> rfl
@[simp] theorem State.modGrid_temps (k : Nat) (g : Grid → Grid) : (s.modGrid k g).temps = s.temps := by unfold State.modGrid; split <;> rfl
@[simp] theorem State.modGrid_avoid (k : Nat) (g : Grid → Grid) : (s.modGrid k g).avoid = s.avoid := by unfold State.modGrid; split <;> rfl
@[simp] theorem State.modGrid_droops (k : Nat) (g : Grid → Grid) : (s.modGrid k g).droops = s.droops := by unfold State.modGrid; split <;> rfl
@[simp] theorem State.modGrid_rlog (k : Nat) (g : Grid → Grid) : (s.modGrid k g).rlog = s.rlog := by unfold State.modGrid; split <;> rfl
@[simp] theorem State.modGrid_rlogFull (k : Nat) (g : Grid → Grid) : (s.modGrid k g).rlogFull = s.rlogFull := by unfold State.modGrid; split <;> rfl
@[simp] theorem State.modGrid_rclocks (k : Nat) (g : Grid → Grid) : (s.modGrid k g).rclocks = s.rclocks := by unfold State.modGrid; split <;> rfl
@[simp] theorem State.modGrid_rpend (k : Nat) (g : Grid → Grid) : (s.modGrid k g).rpend = s.rpend := by unfold State.modGrid; split <;> rfl
@[simp] theorem State.modGrid_colls (k : Nat) (g : Grid → Grid) : (s.modGrid k g).colls = s.colls := by unfold State.modGrid; split <;> rfl
@[simp] theorem State.modGrid_ckpt (k : Nat) (g : Grid → Grid) : (s.modGrid k g).ckpt = s.ckpt := by unfold State.modGrid; split <;> rfl
@[simp] theorem State.modGrid_regions (k : Nat) (g : Grid → Grid) : (s.modGrid k g).regions = s.regions := by unfold State.modGrid; split <;> rfl
@[simp] theorem State.modGrid_pkg (k : Nat) (g : Grid → Grid) : (s.modGrid k g).pkg = s.pkg := by unfold State.modGrid; split <;> rfl

/-! ## Readers -/

theorem State.thread_setThread (k j : Nat) (x : Thread) : (s.setThread k x).thread j = if j = k then x else s.thread j := by
  unfold State.thread; rw [State.setThread_threads, lookD_put]

theorem State.thread_modThread (k j : Nat) (g : Thread → Thread) :
    (s.modThread k g).thread j = if j = k then g (s.thread k) else s.thread j := State.thread_setThread s k j _

theorem State.floe?_setFloe (k j : Nat) (x : Floe) : (s.setFloe k x).floe? j = if j = k then some x else s.floe? j := by
  unfold State.floe?; rw [State.setFloe_floes, look_put]

theorem State.floe?_modFloe (k j : Nat) (g : Floe → Floe) :
    (s.modFloe k g).floe? j = if j = k then (s.floe? k).map g else s.floe? j := by
  unfold State.modFloe
  split
  · next x h => rw [State.floe?_setFloe]; unfold State.floe?; rw [h]; rfl
  · next h =>
    split
    · subst j; unfold State.floe?; rw [h]; rfl
    · rfl

theorem State.block_setBlock (k j : Nat) (x : Block) : (s.setBlock k x).block j = if j = k then x else s.block j := by
  unfold State.block; rw [State.setBlock_blocks, lookD_put]

theorem State.grid_setGrid (k j : Nat) (x : Grid) : (s.setGrid k x).grid j = if j = k then x else s.grid j := by
  unfold State.grid; rw [State.setGrid_grids, lookD_put]

theorem State.csr_setCsr (c n d m : Nat) (v : Word) :
    (s.setCsr c n v).csr d m = if 4096 * d + m = 4096 * c + n then v else s.csr d m := by
  unfold State.csr; rw [State.setCsr_csrs, lookD_putD]

/-- The generator of an issue slot is what was written; it is never zero (R32). -/
theorem State.lfsrOf_setLfsr (k j : Nat) (v : Word) :
    (s.setLfsr k v).lfsrOf j = if j = k then (if v = 0 then 1 else v) else s.lfsrOf j := by
  unfold State.lfsrOf; rw [State.setLfsr_lfsr, lookD_putD]

theorem State.ctxReg_setCtxReg (c o d p : Nat) (v : DWord) :
    (s.setCtxReg c o v).ctxReg d p = if 32 * d + p / 8 = 32 * c + o / 8 then v else s.ctxReg d p := by
  unfold State.ctxReg; rw [State.setCtxReg_ctxRegs, lookD_putD]

end Sys2Proof.Machine
end

