-- ==== Sys2Proof/Laws/Ops.lean ====
section
/-! SUPPORT. What the shared operations do: injections, register and flag writes, results delivered, writes at homes and scratchpads. -/

namespace Sys2Proof.Machine

variable (s : State)

/-! ## Injections (R412): a write can end and store errors; nothing else changes -/

theorem State.takeInjection_cases (a p n m : Nat) : ∃ l c q, s.takeInjection a p n m = { s with latent := l, csrs := c, poison := q } := by
  unfold State.takeInjection
  generalize hs : (if s.latent = [] then s else _ : State) = u
  have hu : ∃ l, u = { s with latent := l } := by
    subst hs; split
    · exact ⟨s.latent, rfl⟩
    · exact ⟨_, rfl⟩
  obtain ⟨l, rfl⟩ := hu
  dsimp only
  split
  · exact ⟨_, _, _, rfl⟩
  · split <;> exact ⟨_, _, _, rfl⟩

@[simp] theorem State.takeInjection_agenda (a p n m : Nat) : (s.takeInjection a p n m).agenda = s.agenda := by
  obtain ⟨l, c, q, h⟩ := s.takeInjection_cases a p n m; rw [h]
@[simp] theorem State.takeInjection_steps (a p n m : Nat) : (s.takeInjection a p n m).steps = s.steps := by
  obtain ⟨l, c, q, h⟩ := s.takeInjection_cases a p n m; rw [h]
@[simp] theorem State.takeInjection_fresh (a p n m : Nat) : (s.takeInjection a p n m).fresh = s.fresh := by
  obtain ⟨l, c, q, h⟩ := s.takeInjection_cases a p n m; rw [h]
@[simp] theorem State.takeInjection_nextId (a p n m : Nat) : (s.takeInjection a p n m).nextId = s.nextId := by
  obtain ⟨l, c, q, h⟩ := s.takeInjection_cases a p n m; rw [h]
@[simp] theorem State.takeInjection_cur (a p n m : Nat) : (s.takeInjection a p n m).cur = s.cur := by
  obtain ⟨l, c, q, h⟩ := s.takeInjection_cases a p n m; rw [h]
@[simp] theorem State.takeInjection_outbox (a p n m : Nat) : (s.takeInjection a p n m).outbox = s.outbox := by
  obtain ⟨l, c, q, h⟩ := s.takeInjection_cases a p n m; rw [h]
@[simp] theorem State.takeInjection_clocks (a p n m : Nat) : (s.takeInjection a p n m).clocks = s.clocks := by
  obtain ⟨l, c, q, h⟩ := s.takeInjection_cases a p n m; rw [h]
@[simp] theorem State.takeInjection_regs (a p n m : Nat) : (s.takeInjection a p n m).regs = s.regs := by
  obtain ⟨l, c, q, h⟩ := s.takeInjection_cases a p n m; rw [h]
@[simp] theorem State.takeInjection_threads (a p n m : Nat) : (s.takeInjection a p n m).threads = s.threads := by
  obtain ⟨l, c, q, h⟩ := s.takeInjection_cases a p n m; rw [h]
@[simp] theorem State.takeInjection_floes (a p n m : Nat) : (s.takeInjection a p n m).floes = s.floes := by
  obtain ⟨l, c, q, h⟩ := s.takeInjection_cases a p n m; rw [h]
@[simp] theorem State.takeInjection_saves (a p n m : Nat) : (s.takeInjection a p n m).saves = s.saves := by
  obtain ⟨l, c, q, h⟩ := s.takeInjection_cases a p n m; rw [h]
@[simp] theorem State.takeInjection_bins (a p n m : Nat) : (s.takeInjection a p n m).bins = s.bins := by
  obtain ⟨l, c, q, h⟩ := s.takeInjection_cases a p n m; rw [h]
@[simp] theorem State.takeInjection_starting (a p n m : Nat) : (s.takeInjection a p n m).starting = s.starting := by
  obtain ⟨l, c, q, h⟩ := s.takeInjection_cases a p n m; rw [h]
@[simp] theorem State.takeInjection_sched (a p n m : Nat) : (s.takeInjection a p n m).sched = s.sched := by
  obtain ⟨l, c, q, h⟩ := s.takeInjection_cases a p n m; rw [h]
@[simp] theorem State.takeInjection_lfsr (a p n m : Nat) : (s.takeInjection a p n m).lfsr = s.lfsr := by
  obtain ⟨l, c, q, h⟩ := s.takeInjection_cases a p n m; rw [h]
@[simp] theorem State.takeInjection_blocks (a p n m : Nat) : (s.takeInjection a p n m).blocks = s.blocks := by
  obtain ⟨l, c, q, h⟩ := s.takeInjection_cases a p n m; rw [h]
@[simp] theorem State.takeInjection_bars (a p n m : Nat) : (s.takeInjection a p n m).bars = s.bars := by
  obtain ⟨l, c, q, h⟩ := s.takeInjection_cases a p n m; rw [h]
@[simp] theorem State.takeInjection_cbufs (a p n m : Nat) : (s.takeInjection a p n m).cbufs = s.cbufs := by
  obtain ⟨l, c, q, h⟩ := s.takeInjection_cases a p n m; rw [h]
@[simp] theorem State.takeInjection_tables (a p n m : Nat) : (s.takeInjection a p n m).tables = s.tables := by
  obtain ⟨l, c, q, h⟩ := s.takeInjection_cases a p n m; rw [h]
@[simp] theorem State.takeInjection_accs (a p n m : Nat) : (s.takeInjection a p n m).accs = s.accs := by
  obtain ⟨l, c, q, h⟩ := s.takeInjection_cases a p n m; rw [h]
@[simp] theorem State.takeInjection_allocs (a p n m : Nat) : (s.takeInjection a p n m).allocs = s.allocs := by
  obtain ⟨l, c, q, h⟩ := s.takeInjection_cases a p n m; rw [h]
@[simp] theorem State.takeInjection_bankCtx (a p n m : Nat) : (s.takeInjection a p n m).bankCtx = s.bankCtx := by
  obtain ⟨l, c, q, h⟩ := s.takeInjection_cases a p n m; rw [h]
@[simp] theorem State.takeInjection_unit (a p n m : Nat) : (s.takeInjection a p n m).unit = s.unit := by
  obtain ⟨l, c, q, h⟩ := s.takeInjection_cases a p n m; rw [h]
@[simp] theorem State.takeInjection_clus (a p n m : Nat) : (s.takeInjection a p n m).clus = s.clus := by
  obtain ⟨l, c, q, h⟩ := s.takeInjection_cases a p n m; rw [h]
@[simp] theorem State.takeInjection_dmem (a p n m : Nat) : (s.takeInjection a p n m).dmem = s.dmem := by
  obtain ⟨l, c, q, h⟩ := s.takeInjection_cases a p n m; rw [h]
@[simp] theorem State.takeInjection_track (a p n m : Nat) : (s.takeInjection a p n m).track = s.track := by
  obtain ⟨l, c, q, h⟩ := s.takeInjection_cases a p n m; rw [h]
@[simp] theorem State.takeInjection_maps (a p n m : Nat) : (s.takeInjection a p n m).maps = s.maps := by
  obtain ⟨l, c, q, h⟩ := s.takeInjection_cases a p n m; rw [h]
@[simp] theorem State.takeInjection_grids (a p n m : Nat) : (s.takeInjection a p n m).grids = s.grids := by
  obtain ⟨l, c, q, h⟩ := s.takeInjection_cases a p n m; rw [h]
@[simp] theorem State.takeInjection_tasks (a p n m : Nat) : (s.takeInjection a p n m).tasks = s.tasks := by
  obtain ⟨l, c, q, h⟩ := s.takeInjection_cases a p n m; rw [h]
@[simp] theorem State.takeInjection_saved (a p n m : Nat) : (s.takeInjection a p n m).saved = s.saved := by
  obtain ⟨l, c, q, h⟩ := s.takeInjection_cases a p n m; rw [h]
@[simp] theorem State.takeInjection_copies (a p n m : Nat) : (s.takeInjection a p n m).copies = s.copies := by
  obtain ⟨l, c, q, h⟩ := s.takeInjection_cases a p n m; rw [h]
@[simp] theorem State.takeInjection_mmas (a p n m : Nat) : (s.takeInjection a p n m).mmas = s.mmas := by
  obtain ⟨l, c, q, h⟩ := s.takeInjection_cases a p n m; rw [h]
@[simp] theorem State.takeInjection_net (a p n m : Nat) : (s.takeInjection a p n m).net = s.net := by
  obtain ⟨l, c, q, h⟩ := s.takeInjection_cases a p n m; rw [h]
@[simp] theorem State.takeInjection_tokens (a p n m : Nat) : (s.takeInjection a p n m).tokens = s.tokens := by
  obtain ⟨l, c, q, h⟩ := s.takeInjection_cases a p n m; rw [h]
@[simp] theorem State.takeInjection_due (a p n m : Nat) : (s.takeInjection a p n m).due = s.due := by
  obtain ⟨l, c, q, h⟩ := s.takeInjection_cases a p n m; rw [h]
@[simp] theorem State.takeInjection_mem (a p n m : Nat) : (s.takeInjection a p n m).mem = s.mem := by
  obtain ⟨l, c, q, h⟩ := s.takeInjection_cases a p n m; rw [h]
@[simp] theorem State.takeInjection_tags (a p n m : Nat) : (s.takeInjection a p n m).tags = s.tags := by
  obtain ⟨l, c, q, h⟩ := s.takeInjection_cases a p n m; rw [h]
@[simp] theorem State.takeInjection_hostMem (a p n m : Nat) : (s.takeInjection a p n m).hostMem = s.hostMem := by
  obtain ⟨l, c, q, h⟩ := s.takeInjection_cases a p n m; rw [h]
@[simp] theorem State.takeInjection_ctxTab (a p n m : Nat) : (s.takeInjection a p n m).ctxTab = s.ctxTab := by
  obtain ⟨l, c, q, h⟩ := s.takeInjection_cases a p n m; rw [h]
@[simp] theorem State.takeInjection_ctxRegs (a p n m : Nat) : (s.takeInjection a p n m).ctxRegs = s.ctxRegs := by
  obtain ⟨l, c, q, h⟩ := s.takeInjection_cases a p n m; rw [h]
@[simp] theorem State.takeInjection_dieRegs (a p n m : Nat) : (s.takeInjection a p n m).dieRegs = s.dieRegs := by
  obtain ⟨l, c, q, h⟩ := s.takeInjection_cases a p n m; rw [h]
@[simp] theorem State.takeInjection_cmds (a p n m : Nat) : (s.takeInjection a p n m).cmds = s.cmds := by
  obtain ⟨l, c, q, h⟩ := s.takeInjection_cases a p n m; rw [h]
@[simp] theorem State.takeInjection_tlb (a p n m : Nat) : (s.takeInjection a p n m).tlb = s.tlb := by
  obtain ⟨l, c, q, h⟩ := s.takeInjection_cases a p n m; rw [h]
@[simp] theorem State.takeInjection_segs (a p n m : Nat) : (s.takeInjection a p n m).segs = s.segs := by
  obtain ⟨l, c, q, h⟩ := s.takeInjection_cases a p n m; rw [h]
@[simp] theorem State.takeInjection_dir (a p n m : Nat) : (s.takeInjection a p n m).dir = s.dir := by
  obtain ⟨l, c, q, h⟩ := s.takeInjection_cases a p n m; rw [h]
@[simp] theorem State.takeInjection_recs (a p n m : Nat) : (s.takeInjection a p n m).recs = s.recs := by
  obtain ⟨l, c, q, h⟩ := s.takeInjection_cases a p n m; rw [h]
@[simp] theorem State.takeInjection_regions (a p n m : Nat) : (s.takeInjection a p n m).regions = s.regions := by
  obtain ⟨l, c, q, h⟩ := s.takeInjection_cases a p n m; rw [h]
@[simp] theorem State.takeInjection_pkg (a p n m : Nat) : (s.takeInjection a p n m).pkg = s.pkg := by
  obtain ⟨l, c, q, h⟩ := s.takeInjection_cases a p n m; rw [h]

/-- With no error stored and none armed for the place, a write injects nothing. -/
theorem State.takeInjection_none (a p n m : Nat) (hl : s.latent = []) (ha : s.armed? a p n m = none) : s.takeInjection a p n m = s := by
  unfold State.takeInjection
  simp [hl, ha]

/-! ## Registers, predicates and flags of threads -/

@[simp] theorem State.setVreg_agenda (t n : Nat) (v : Word) : (s.setVreg t n v).agenda = s.agenda := by simp [State.setVreg]
@[simp] theorem State.setVreg_steps (t n : Nat) (v : Word) : (s.setVreg t n v).steps = s.steps := by simp [State.setVreg]
@[simp] theorem State.setVreg_fresh (t n : Nat) (v : Word) : (s.setVreg t n v).fresh = s.fresh := by simp [State.setVreg]
@[simp] theorem State.setVreg_nextId (t n : Nat) (v : Word) : (s.setVreg t n v).nextId = s.nextId := by simp [State.setVreg]
@[simp] theorem State.setVreg_cur (t n : Nat) (v : Word) : (s.setVreg t n v).cur = s.cur := by simp [State.setVreg]
@[simp] theorem State.setVreg_outbox (t n : Nat) (v : Word) : (s.setVreg t n v).outbox = s.outbox := by simp [State.setVreg]
@[simp] theorem State.setVreg_clocks (t n : Nat) (v : Word) : (s.setVreg t n v).clocks = s.clocks := by simp [State.setVreg]
@[simp] theorem State.setVreg_threads (t n : Nat) (v : Word) : (s.setVreg t n v).threads = s.threads := by simp [State.setVreg]
@[simp] theorem State.setVreg_floes (t n : Nat) (v : Word) : (s.setVreg t n v).floes = s.floes := by simp [State.setVreg]
@[simp] theorem State.setVreg_saves (t n : Nat) (v : Word) : (s.setVreg t n v).saves = s.saves := by simp [State.setVreg]
@[simp] theorem State.setVreg_bins (t n : Nat) (v : Word) : (s.setVreg t n v).bins = s.bins := by simp [State.setVreg]
@[simp] theorem State.setVreg_starting (t n : Nat) (v : Word) : (s.setVreg t n v).starting = s.starting := by simp [State.setVreg]
@[simp] theorem State.setVreg_sched (t n : Nat) (v : Word) : (s.setVreg t n v).sched = s.sched := by simp [State.setVreg]
@[simp] theorem State.setVreg_lfsr (t n : Nat) (v : Word) : (s.setVreg t n v).lfsr = s.lfsr := by simp [State.setVreg]
@[simp] theorem State.setVreg_blocks (t n : Nat) (v : Word) : (s.setVreg t n v).blocks = s.blocks := by simp [State.setVreg]
@[simp] theorem State.setVreg_bars (t n : Nat) (v : Word) : (s.setVreg t n v).bars = s.bars := by simp [State.setVreg]
@[simp] theorem State.setVreg_cbufs (t n : Nat) (v : Word) : (s.setVreg t n v).cbufs = s.cbufs := by simp [State.setVreg]
@[simp] theorem State.setVreg_tables (t n : Nat) (v : Word) : (s.setVreg t n v).tables = s.tables := by simp [State.setVreg]
@[simp] theorem State.setVreg_accs (t n : Nat) (v : Word) : (s.setVreg t n v).accs = s.accs := by simp [State.setVreg]
@[simp] theorem State.setVreg_allocs (t n : Nat) (v : Word) : (s.setVreg t n v).allocs = s.allocs := by simp [State.setVreg]
@[simp] theorem State.setVreg_bankCtx (t n : Nat) (v : Word) : (s.setVreg t n v).bankCtx = s.bankCtx := by simp [State.setVreg]
@[simp] theorem State.setVreg_unit (t n : Nat) (v : Word) : (s.setVreg t n v).unit = s.unit := by simp [State.setVreg]
@[simp] theorem State.setVreg_clus (t n : Nat) (v : Word) : (s.setVreg t n v).clus = s.clus := by simp [State.setVreg]
@[simp] theorem State.setVreg_dmem (t n : Nat) (v : Word) : (s.setVreg t n v).dmem = s.dmem := by simp [State.setVreg]
@[simp] theorem State.setVreg_track (t n : Nat) (v : Word) : (s.setVreg t n v).track = s.track := by simp [State.setVreg]
@[simp] theorem State.setVreg_maps (t n : Nat) (v : Word) : (s.setVreg t n v).maps = s.maps := by simp [State.setVreg]
@[simp] theorem State.setVreg_grids (t n : Nat) (v : Word) : (s.setVreg t n v).grids = s.grids := by simp [State.setVreg]
@[simp] theorem State.setVreg_tasks (t n : Nat) (v : Word) : (s.setVreg t n v).tasks = s.tasks := by simp [State.setVreg]
@[simp] theorem State.setVreg_saved (t n : Nat) (v : Word) : (s.setVreg t n v).saved = s.saved := by simp [State.setVreg]
@[simp] theorem State.setVreg_copies (t n : Nat) (v : Word) : (s.setVreg t n v).copies = s.copies := by simp [State.setVreg]
@[simp] theorem State.setVreg_mmas (t n : Nat) (v : Word) : (s.setVreg t n v).mmas = s.mmas := by simp [State.setVreg]
@[simp] theorem State.setVreg_net (t n : Nat) (v : Word) : (s.setVreg t n v).net = s.net := by simp [State.setVreg]
@[simp] theorem State.setVreg_tokens (t n : Nat) (v : Word) : (s.setVreg t n v).tokens = s.tokens := by simp [State.setVreg]
@[simp] theorem State.setVreg_due (t n : Nat) (v : Word) : (s.setVreg t n v).due = s.due := by simp [State.setVreg]
@[simp] theorem State.setVreg_mem (t n : Nat) (v : Word) : (s.setVreg t n v).mem = s.mem := by simp [State.setVreg]
@[simp] theorem State.setVreg_tags (t n : Nat) (v : Word) : (s.setVreg t n v).tags = s.tags := by simp [State.setVreg]
@[simp] theorem State.setVreg_hostMem (t n : Nat) (v : Word) : (s.setVreg t n v).hostMem = s.hostMem := by simp [State.setVreg]
@[simp] theorem State.setVreg_ctxTab (t n : Nat) (v : Word) : (s.setVreg t n v).ctxTab = s.ctxTab := by simp [State.setVreg]
@[simp] theorem State.setVreg_ctxRegs (t n : Nat) (v : Word) : (s.setVreg t n v).ctxRegs = s.ctxRegs := by simp [State.setVreg]
@[simp] theorem State.setVreg_dieRegs (t n : Nat) (v : Word) : (s.setVreg t n v).dieRegs = s.dieRegs := by simp [State.setVreg]
@[simp] theorem State.setVreg_cmds (t n : Nat) (v : Word) : (s.setVreg t n v).cmds = s.cmds := by simp [State.setVreg]
@[simp] theorem State.setVreg_tlb (t n : Nat) (v : Word) : (s.setVreg t n v).tlb = s.tlb := by simp [State.setVreg]
@[simp] theorem State.setVreg_segs (t n : Nat) (v : Word) : (s.setVreg t n v).segs = s.segs := by simp [State.setVreg]
@[simp] theorem State.setVreg_dir (t n : Nat) (v : Word) : (s.setVreg t n v).dir = s.dir := by simp [State.setVreg]
@[simp] theorem State.setVreg_recs (t n : Nat) (v : Word) : (s.setVreg t n v).recs = s.recs := by simp [State.setVreg]
@[simp] theorem State.setVreg_regions (t n : Nat) (v : Word) : (s.setVreg t n v).regions = s.regions := by simp [State.setVreg]
@[simp] theorem State.setVreg_pkg (t n : Nat) (v : Word) : (s.setVreg t n v).pkg = s.pkg := by simp [State.setVreg]

@[simp] theorem State.setVreg_thread (t n k : Nat) (v : Word) : (s.setVreg t n v).thread k = s.thread k := by
  unfold State.thread; rw [State.setVreg_threads]

/-- A register reads what was written to its bank word last (R241). -/
theorem State.vreg_setVreg (t n u m : Nat) (v : Word) :
    (s.setVreg t n v).vreg u m = if regKey u (s.thread u) m = regKey t (s.thread t) n then v else s.vreg u m := by
  unfold State.vreg
  rw [State.setVreg_thread]
  unfold State.setVreg
  simp only [State.takeInjection_regs]
  exact lookD_putD 0 s.regs _ _ v

@[simp] theorem State.setPred_regs (t p : Nat) (b : Bool) : (s.setPred t p b).regs = s.regs := by unfold State.setPred; split <;> rfl
@[simp] theorem State.orFlags_regs (t : Nat) (f : Fl) : (s.orFlags t f).regs = s.regs := by unfold State.orFlags; split <;> rfl

/-- A predicate reads what was written to it last; p7 is never written (R57). -/
theorem State.predOf_setPred (t p u q : Nat) (b : Bool) (hp : p < 8) :
    (s.setPred t p b).predOf u q = if u = t ∧ q = p ∧ p ≠ 7 then b else s.predOf u q := by
  unfold State.setPred State.predOf
  by_cases h7 : p = 7
  · simp [h7]
  · simp only [h7, if_false, State.thread_modThread]
    by_cases hq7 : q = 7
    · subst q; simp; omega
    · by_cases hu : u = t
      · subst u
        simp only [hq7, if_false, if_true, true_and, ne_eq, h7, not_false_eq_true, and_true]
        by_cases hq : q = p
        · subst q; cases b <;> simp [setBit, hp]
        · simp only [hq, if_false, setBit]
          have : (1#8 <<< p).getLsbD q = false := by
            simp only [BitVec.getLsbD_shiftLeft, BitVec.getLsbD_one]
            by_cases hlt : q < p
            · simp [hlt]
            · simp only [Bool.and_eq_false_iff]; right; simp; omega
          cases b
          · simp only [Bool.false_eq_true, if_false, BitVec.getLsbD_and, BitVec.getLsbD_not, this]
            by_cases hq8 : q < 8
            · simp [hq8]
            · simp [hq8, BitVec.getLsbD_of_ge _ _ (Nat.le_of_not_lt hq8)]
          · simp [BitVec.getLsbD_or, this]
      · simp [hu]

@[simp] theorem State.setPred_wbase (t p k : Nat) (b : Bool) : ((s.setPred t p b).thread k).wbase = (s.thread k).wbase := by
  unfold State.setPred
  split
  · rfl
  · rw [State.thread_modThread]; split <;> simp_all

@[simp] theorem State.orFlags_wbase (t k : Nat) (f : Fl) : ((s.orFlags t f).thread k).wbase = (s.thread k).wbase := by
  unfold State.orFlags
  split
  · rfl
  · rw [State.thread_modThread]; split <;> simp_all

/-- A register is named by its thread's window alone. -/
theorem State.vreg_congr {s u : State} (hr : u.regs = s.regs) (t n : Nat) (hw : (u.thread t).wbase = (s.thread t).wbase) :
    u.vreg t n = s.vreg t n := by
  unfold State.vreg regKey; rw [hr, hw]

@[simp] theorem State.setPred_vreg (t p u n : Nat) (b : Bool) : (s.setPred t p b).vreg u n = s.vreg u n :=
  State.vreg_congr (by simp) u n (by simp)

@[simp] theorem State.orFlags_vreg (t u n : Nat) (f : Fl) : (s.orFlags t f).vreg u n = s.vreg u n :=
  State.vreg_congr (by simp) u n (by simp)

end Sys2Proof.Machine
end

