-- ==== Sys2Proof/Laws/Issue.lean ====
section
/-! SUPPORT. Issue: what an instruction that issues with nothing before it comes to, by what its own part answers; and what going on
with the next slot leaves as it was. -/

namespace Sys2Proof.Machine

variable {i : Instr} {s : State} {f : Floe} {c : Ctx}

/-- What popping ports leaves of a context. -/
theorem ports_ok {c d : Ctx} (h : c.ports i = .ok d) :
    d.k = c.k ∧ d.act = c.act ∧ d.core = c.core ∧ d.bk = c.bk ∧ d.g = c.g ∧ d.quad = c.quad ∧
      (d.s = c.s ∨ d.s = c.s.setFloe c.k d.f) := by
  unfold Ctx.ports at h
  split at h
  · cases h
  · split at h
    · cases h
    · cases h
      refine ⟨rfl, rfl, rfl, rfl, rfl, rfl, ?_⟩
      dsimp only
      split
      · exact .inl rfl
      · exact .inr rfl

/-- What `issuing` says. -/
theorem issuing_iff : issuing i s = some (f, c) ↔
    s.floe? (FloeId.key s.cur) = some f ∧ s.clear i (FloeId.key s.cur) f (issueCtx i s (FloeId.key s.cur) f) = true ∧
      (issueCtx i s (FloeId.key s.cur) f).ports i = .ok c := by
  unfold issuing
  cases hf : s.floe? (FloeId.key s.cur) with
  | none => simp
  | some f' =>
    dsimp only
    constructor
    · intro h
      split at h
      · next hc =>
        split at h
        · cases h
        · next d hd => cases h; exact ⟨rfl, hc, hd⟩
      · cases h
    · rintro ⟨h, hc, hp⟩
      cases h
      rw [if_pos hc, hp]

theorem issuing_floe (h : issuing i s = some (f, c)) : s.floe? c.k = some f := by
  obtain ⟨hf, -, hp⟩ := issuing_iff.1 h
  rw [(ports_ok hp).1]; exact hf

theorem issuing_k (h : issuing i s = some (f, c)) : c.k = FloeId.key s.cur := (ports_ok (issuing_iff.1 h).2.2).1
theorem issuing_act (h : issuing i s = some (f, c)) : c.act = s.actLanes i (FloeId.key s.cur) f := (ports_ok (issuing_iff.1 h).2.2).2.1
theorem issuing_core (h : issuing i s = some (f, c)) : c.core = coreOfFloe (FloeId.key s.cur) := (ports_ok (issuing_iff.1 h).2.2).2.2.1
theorem issuing_bk (h : issuing i s = some (f, c)) : c.bk = f.bkey (FloeId.key s.cur) := (ports_ok (issuing_iff.1 h).2.2).2.2.2.1
theorem issuing_g (h : issuing i s = some (f, c)) : c.g = s.grid (s.block (f.bkey (FloeId.key s.cur))).grid :=
  (ports_ok (issuing_iff.1 h).2.2).2.2.2.2.1

/-- Only algebra instructions have a trap that comes before their operands (R137). -/
theorem preTrap_none (h : algRow i = none) (c : Ctx) : c.preTrap i = none := by
  unfold Ctx.preTrap
  rw [h]
  split <;> simp_all

/-- With nothing before it, a floe's turn comes to its issue: no result is settled, no trap, breakpoint or divergence comes first. -/
theorem beforeIssue_opens {k : Nat} (hf : s.floe? k = some f) (hc : s.opens k f = true) (go : State → Floe → State) : s.beforeIssue k go = go s f := by
  simp only [State.opens, Bool.and_eq_true, Bool.not_eq_true', decide_eq_true_eq, beq_iff_eq] at hc
  obtain ⟨⟨⟨⟨⟨⟨h1, h2⟩, h3⟩, hr⟩, h4⟩, h5⟩, h6⟩ := hc
  have hset : s.settle k = s := by
    unfold State.settle
    rw [hf]
    dsimp only
    rw [if_pos]
    rw [List.filter_eq_nil_iff]
    intro p hp'
    simpa using List.any_eq_false.1 h1 p hp'
  have hrep : ¬ (f.second ≠ 1 ∧ s.replMode (s.grid (s.block (f.bkey k)).grid).ctx = 2 ∧
      (s.replEntry (s.grid (s.block (f.bkey k)).grid).ctx k).isNone = true) := by
    rintro ⟨h0, ha, hb⟩
    simp [h0, ha, hb] at h4
  have hrc : f.raced = none := by simpa using hr
  unfold State.beforeIssue
  rw [hset]
  dsimp only
  rw [hf]
  dsimp only
  rw [if_neg (by simp [h2]), if_neg (by simpa using h3), hrc]
  dsimp only
  rw [if_neg hrep, if_neg (show ¬ (s.grid (s.block (f.bkey k)).grid).nregs < s.segRegs k f from Nat.not_lt.2 h5), if_pos]
  exact h6

theorem beforeIssue_eq (h : issuing i s = some (f, c)) (go : State → Floe → State) : s.beforeIssue c.k go = go s f := by
  obtain ⟨hf, hc, -⟩ := issuing_iff.1 h
  rw [issuing_k h]
  refine beforeIssue_opens hf ?_ go
  simp only [State.clear, Bool.and_eq_true] at hc
  exact hc.1.1.1.1.1

/-- Popping ports changes nothing that the checks before the operands look at. -/
theorem preTrap_ports {c d : Ctx} (h : c.ports i = .ok d) : d.preTrap i = c.preTrap i := by
  obtain ⟨h1, h2, h3, h4, h5, h6, h7⟩ := ports_ok h
  obtain ⟨s, k, f, act, core, bk, g, quad, popped⟩ := d
  dsimp only at h1 h2 h3 h4 h5 h6 h7
  subst h1 h2 h3 h4 h5 h6
  rcases h7 with h7 | h7 <;> subst h7 <;> rfl

/-- An instruction that issues with nothing before it comes to what its own part answers; one that runs once per floe does nothing when no
lane is active (R49). -/
theorem issue_eq (h : issuing i s = some (f, c)) (ha : c.preTrap i = none) (body : Ctx → Res) :
    issue i s body = .next ((finish s c.k f c.bk (if c.act = [] ∧ Instr.oncePerFloe i = true then .done s else body c)).settleDue 64) := by
  obtain ⟨hf, hc, hp⟩ := issuing_iff.1 h
  have hb := beforeIssue_eq h fun u g => issueBody i u (FloeId.key s.cur) g body
  simp only [State.clear, Bool.and_eq_true, Bool.not_eq_true', beq_iff_eq] at hc
  obtain ⟨⟨⟨⟨-, h7⟩, h8⟩, h9⟩, h10, h11⟩ : (((_ ∧ _) ∧ _) ∧ _) ∧ _ ∧ _ := ⟨⟨⟨⟨trivial, hc.1.1.1.1.2⟩, hc.1.1.1.2⟩, hc.1.1.2⟩, hc.1.2, hc.2⟩
  have hbody : issueBody i s (FloeId.key s.cur) f body =
      finish s (FloeId.key s.cur) f c.bk (if c.act = [] ∧ Instr.oncePerFloe i = true then .done s else body c) := by
    have h9' : ¬ ((issueCtx i s (FloeId.key s.cur) f).g.ver = true ∧ s.earlyLanes i (FloeId.key s.cur) f (issueCtx i s (FloeId.key s.cur) f).act ≠ []) := by
      simpa using h9
    unfold issueBody
    dsimp only
    rw [if_neg (by simp [h7]), (ports_ok hp).2.1]
    split
    · next hl =>
      rw [issuing_bk h]; rfl
    · rw [if_neg (by simp [h8]), ← preTrap_ports hp, ha]
      dsimp only
      rw [if_neg (by simpa using h10), if_neg (by simp [h11]), hp]
  unfold issue
  rw [hf]
  dsimp only
  unfold issueAt
  rw [issuing_k h] at hb ⊢
  rw [← hbody, ← hb]

/-- With no active lane nothing is popped (R49, R56): the instruction's part sees the machine as it stands. -/
theorem issuing_idle (h : issuing i s = some (f, c)) (ha : c.act = []) : c.s = s ∧ c.f = f := by
  obtain ⟨hf, hc, hp⟩ := issuing_iff.1 h
  rw [(ports_ok hp).2.1] at ha
  unfold Ctx.ports at hp
  simp only [ha, if_true] at hp
  cases hp
  exact ⟨rfl, rfl⟩

/-- An instruction whose own part ends there completes. -/
theorem issue_done (h : issuing i s = some (f, c)) (ha : c.preTrap i = none) {body : Ctx → Res} {u : State} (hb : body c = .done u)
    (hu : c.act = [] → u = c.s) : issue i s body = .next (u.completed c.k f) := by
  rw [issue_eq h ha]
  split
  · next hn => rw [hu hn.1, (issuing_idle h hn.1).1]; rfl
  · rw [hb]; rfl

/-- An instruction with some active lane comes to what its own part answers. -/
theorem issue_act (h : issuing i s = some (f, c)) (ha : c.preTrap i = none) (hn : c.act ≠ []) (body : Ctx → Res) :
    issue i s body = .next ((finish s c.k f c.bk (body c)).settleDue 64) := by
  rw [issue_eq h ha, if_neg fun h => hn h.1]

/-- The same for an instruction that does not run once per floe, whatever lanes are active. -/
theorem issue_lanes (h : issuing i s = some (f, c)) (ha : c.preTrap i = none) (ho : Instr.oncePerFloe i = false) (body : Ctx → Res) :
    issue i s body = .next ((finish s c.k f c.bk (body c)).settleDue 64) := by
  rw [issue_eq h ha, if_neg fun h => by simp [ho] at h]

/-- An algebra instruction whose table check fails traps before any operand is read (R137). -/
theorem issue_preTrap (h : issuing i s = some (f, c)) {e : Nat × Nat} (ha : c.preTrap i = some e) (body : Ctx → Res) :
    issue i s body = .next (s.trapped c.k e.1 c.act e.2) := by
  obtain ⟨hf, hc, hp⟩ := issuing_iff.1 h
  have hb := beforeIssue_eq h fun u g => issueBody i u (FloeId.key s.cur) g body
  simp only [State.clear, Bool.and_eq_true, Bool.not_eq_true', beq_iff_eq] at hc
  have h7 := hc.1.1.1.1.2
  have h8 := hc.1.1.1.2
  have h9 := hc.1.1.2
  have hl : ¬ (c.act = [] ∧ Instr.oncePerFloe i = true) := by
    rintro ⟨h0, -⟩
    simp [Ctx.preTrap, h0] at ha
  unfold issue
  rw [hf]
  dsimp only
  unfold issueAt
  rw [issuing_k h] at hb ⊢
  refine congrArg (fun x => Host.Outcome.next (State.settleDue 64 x)) (hb.trans ?_)
  unfold issueBody
  dsimp only
  rw [if_neg (by simp [h7]), if_neg (by rw [← (ports_ok hp).2.1]; exact hl), if_neg (by simp [h8]), ← preTrap_ports hp, ha]
  dsimp only
  rw [(ports_ok hp).2.1]
  rfl

end Sys2Proof.Machine
end

