-- ==== Sys2Proof/Laws/Results.lean ====
section
/-! SUPPORT. Results: where an instruction's result is once its floe has gone on, and what going on leaves as it was. -/

namespace Sys2Proof.Machine

variable {s u : State} {f : Floe} {c : Ctx} {k : Nat}

/-! ## Going on -/

/-- With no fault due and no stop under way, settling changes nothing. -/
theorem settleDue_idle (hd : s.due = []) (hg : s.grids.all (fun e => e.2.stopping.isNone) = true) : s.settleDue 64 = s := by
  unfold State.settleDue
  rw [hd]
  dsimp only
  unfold State.settleStops
  have : s.grids.filter (fun e => e.2.stopping.isSome) = [] := by
    rw [List.filter_eq_nil_iff]
    intro e he
    have := List.all_eq_true.1 hg e he
    simpa using this
  rw [this]; rfl

theorem trial_cases (core : Nat) (w : Word) : ∃ x, s.trial core w = { s with csrs := x } ∧ ∀ n, n % 4096 ≠ 0x324 → n % 4096 ≠ 0x325 →
    lookD 0 x n = lookD 0 s.csrs n := by
  unfold State.trial
  split
  · dsimp only
    split
    · refine ⟨_, rfl, ?_⟩
      intro n h1 h2
      rw [lookD_putD, if_neg]
      omega
    · refine ⟨_, rfl, ?_⟩
      intro n h1 h2
      rw [lookD_putD, if_neg]
      omega
  · exact ⟨s.csrs, rfl, fun _ _ _ => rfl⟩

theorem lookD_map {α : Type} (d : α) (t : Tab α) (g : Nat × α → α) (i : Nat) :
    lookD d (t.map fun e => (e.1, g e)) i = match look t i with | some x => g (i, x) | none => d := by
  unfold lookD
  have : look (t.map fun e => (e.1, g e)) i = (look t i).map fun x => g (i, x) := by
    induction t with
    | nil => rfl
    | cons e t ih =>
      simp only [List.map_cons, look]
      by_cases h : e.1 = i
      · subst h; simp
      · rw [if_neg (Ne.symm h), if_neg (Ne.symm h)]; exact ih
  rw [this]
  cases look t i <;> rfl

theorem dropOthers_cases (mine : List Nat) : ∃ x, s.dropOthers k mine = { s with threads := x } ∧
    ∀ t, lookD {} x t = lookD {} s.threads t ∨ lookD {} x t = { (lookD {} s.threads t : Thread) with resv := none } := by
  unfold State.dropOthers
  dsimp only
  split
  · refine ⟨_, rfl, ?_⟩
    intro t
    have hm : (s.threads.map fun (e : Nat × Thread) =>
        if threadKey (islotOfFloe k) 0 0 ≤ e.1 ∧ e.1 < threadKey (islotOfFloe k) 0 0 + 1024 ∧ (!mine.contains e.1) = true ∧ e.2.liveResv = true then
          (e.1, { e.2 with resv := none }) else e) =
        s.threads.map fun (e : Nat × Thread) => (e.1,
          if threadKey (islotOfFloe k) 0 0 ≤ e.1 ∧ e.1 < threadKey (islotOfFloe k) 0 0 + 1024 ∧ (!mine.contains e.1) = true ∧ e.2.liveResv = true then
            { e.2 with resv := none } else e.2) := by
      apply List.map_congr_left
      intro e _
      split <;> rfl
    rw [hm, lookD_map]
    unfold lookD
    cases look s.threads t with
    | none => exact .inl rfl
    | some y =>
      dsimp only [Option.getD_some]
      split
      · exact .inr rfl
      · exact .inl rfl
  · exact ⟨s.threads, rfl, fun _ => .inl rfl⟩

theorem sameRest_refl (s : State) : s.sameRest s := rfl

theorem sameRest_trans {s t u : State} (h : s.sameRest t) (h' : t.sameRest u) : s.sameRest u := by
  exact h'.trans (congrArg (fun x : State => { x with
    regs := u.regs, threads := u.threads, floes := u.floes, lfsr := u.lfsr, csrs := u.csrs, sched := u.sched }) h)

theorem sameRest_modFloe (s : State) (k : Nat) (g : Floe → Floe) : s.sameRest (s.modFloe k g) := by
  unfold State.modFloe
  split <;> rfl

theorem sameRest_trial (s : State) (core : Nat) (w : Word) : s.sameRest (s.trial core w) := by
  unfold State.trial
  split <;> rfl

theorem sameRest_dropOthers (s : State) (k : Nat) (mine : List Nat) : s.sameRest (s.dropOthers k mine) := by
  unfold State.dropOthers
  dsimp only
  split <;> rfl

/-- What settling, and a record of the log, look at. -/
theorem still_iff : s.still = true ↔ s.due = [] ∧ s.grids.all (fun e => e.2.stopping.isNone) = true ∧
    s.ctxRegs.all (fun e => !(decide (e.1 % 32 = 8) && e.2 != 0 && Config.replMode e.2 == 1)) = true := by
  unfold State.still
  rw [Bool.and_eq_true, Bool.and_eq_true, beq_iff_eq, and_assoc]

theorem sameRest_still {s t : State} (h : s.sameRest t) : t.still = s.still := by rw [h]; rfl

/-- Where no context records, a record of the log is not kept. -/
theorem replLog_still (h : s.still = true) (r : RRec) : s.replLog r = s := by
  unfold State.replLog
  split
  · rfl
  · next h0 =>
    rw [if_pos]
    refine .inl fun h1 => ?_
    have hc := (still_iff.1 h).2.2
    have hl : look s.ctxRegs (32 * r.ctx + 0x40 / 8) = some (s.ctxReg r.ctx 0x40) := by
      unfold State.ctxReg lookD at h0 ⊢
      cases hx : look s.ctxRegs (32 * r.ctx + 0x40 / 8) with
      | none => rw [hx] at h0; exact absurd rfl h0
      | some x => rfl
    have hm := List.all_eq_true.1 hc _ (look_mem hl)
    unfold State.replMode at h1
    rw [if_neg h0] at h1
    have hk : (32 * r.ctx + 0x40 / 8) % 32 = 8 := by omega
    simp [hk, h1] at hm
    exact h0 hm

theorem sameRest_noteIssue (s : State) (k : Nat) (f : Floe) : s.sameRest (s.noteIssue k f) := sameRest_modFloe _ _ _

/-- An issue that is not recorded. -/
theorem afterIssue_eq (hq : s.still = true) : s.afterIssue k f = if f.second = 1 then s.noteIssue k f else
    (((s.countSched k f.fid f.coord).noteIssue k f).trial (coreOfFloe k) f.coord).dropOthers k (f.tkeys k) := by
  unfold State.afterIssue
  split
  · rfl
  · refine replLog_still ((sameRest_still (s := s) ?_).trans hq) _
    exact sameRest_trans (sameRest_trans (sameRest_trans (t := s.countSched k f.fid f.coord) rfl (sameRest_noteIssue _ _ _)) (sameRest_trial _ _ _))
        (sameRest_dropOthers _ _ _)

theorem afterIssue_rest (hq : s.still = true) (k : Nat) (f : Floe) : s.sameRest (s.afterIssue k f) := by
  rw [afterIssue_eq hq]
  split
  · exact sameRest_noteIssue _ _ _
  · exact sameRest_trans (sameRest_trans (sameRest_trans (t := s.countSched k f.fid f.coord) rfl (sameRest_noteIssue _ _ _)) (sameRest_trial _ _ _))
        (sameRest_dropOthers _ _ _)

theorem sameRest_goOn (s : State) (k np : Nat) : s.sameRest ((s.countWindows k np).goOn k) :=
  sameRest_trans (sameRest_modFloe _ _ _) (sameRest_modFloe _ _ _)

/-- What a completed instruction comes to while nothing stops, is due or is recorded. -/
theorem completed_eq (hq : u.still = true) : u.completed k f = ((u.countWindows k f.npend).goOn k).afterIssue k f := by
  have hg := sameRest_goOn u k f.npend
  have hs := afterIssue_rest ((sameRest_still hg).trans hq) k f
  have hq' := still_iff.1 ((sameRest_still (sameRest_trans hg hs)).trans hq)
  exact settleDue_idle hq'.1 hq'.2.1

/-- Going on leaves memory, blocks, grids and every unit of the machine as they were. -/
theorem completed_sameRest (hq : u.still = true) : u.sameRest (u.completed k f) := by
  rw [completed_eq hq]
  have hg := sameRest_goOn u k f.npend
  exact sameRest_trans hg (afterIssue_rest ((sameRest_still hg).trans hq) k f)

theorem dropOthers_threads {s : State} {t : Nat} {y : Thread} (hy : s.thread t = y) (k : Nat) (mine : List Nat) :
    (s.dropOthers k mine).thread t = y ∨ (s.dropOthers k mine).thread t = { y with resv := none } := by
  subst hy
  obtain ⟨x, h, h'⟩ := dropOthers_cases (s := s) (k := k) mine
  rw [h]
  exact h' t

section
variable (s : State) (k core : Nat) (w : Word) (mine : List Nat)
theorem dropOthers_regs : (s.dropOthers k mine).regs = s.regs := by unfold State.dropOthers; dsimp only; split <;> rfl
theorem dropOthers_floes : (s.dropOthers k mine).floes = s.floes := by unfold State.dropOthers; dsimp only; split <;> rfl
theorem dropOthers_lfsr : (s.dropOthers k mine).lfsr = s.lfsr := by unfold State.dropOthers; dsimp only; split <;> rfl
theorem dropOthers_csrs : (s.dropOthers k mine).csrs = s.csrs := by unfold State.dropOthers; dsimp only; split <;> rfl
theorem trial_regs : (s.trial core w).regs = s.regs := by unfold State.trial; split <;> rfl
theorem trial_threads : (s.trial core w).threads = s.threads := by unfold State.trial; split <;> rfl
theorem trial_floes : (s.trial core w).floes = s.floes := by unfold State.trial; split <;> rfl
theorem trial_lfsr : (s.trial core w).lfsr = s.lfsr := by unfold State.trial; split <;> rfl
end

theorem goOn_still (hq : u.still = true) : ((u.countWindows k f.npend).goOn k).still = true :=
  (sameRest_still (sameRest_goOn u k f.npend)).trans hq

theorem completed_regs (hq : u.still = true) : (u.completed k f).regs = u.regs := by
  rw [completed_eq hq]
  rw [afterIssue_eq (goOn_still hq)]
  split <;> simp [State.noteIssue, State.goOn, State.countWindows, dropOthers_regs, trial_regs, State.countSched]

theorem completed_lfsr (hq : u.still = true) : (u.completed k f).lfsr = u.lfsr := by
  rw [completed_eq hq]
  rw [afterIssue_eq (goOn_still hq)]
  split <;> simp [State.noteIssue, State.goOn, State.countWindows, dropOthers_lfsr, trial_lfsr, State.countSched]

/-- Going on changes no thread but that reservations of the issue slot's other floes may be gone (R189, R253). -/
theorem completed_thread (hq : u.still = true) (t : Nat) :
    (u.completed k f).thread t = u.thread t ∨ (u.completed k f).thread t = { u.thread t with resv := none } := by
  rw [completed_eq hq]
  have h2 : ∀ (x : State), x.threads = u.threads → x.thread t = u.thread t := fun x h => by unfold State.thread; rw [h]
  rw [afterIssue_eq (goOn_still hq)]
  split
  · left; apply h2; simp [State.noteIssue, State.goOn, State.countWindows]
  · refine dropOthers_threads (h2 _ ?_) k _
    rw [trial_threads]
    simp [State.noteIssue, State.countSched, State.goOn, State.countWindows]

theorem completed_csr (hq : u.still = true) : u.sameCsrs (u.completed k f) := by
  rw [completed_eq hq]
  rw [afterIssue_eq (goOn_still hq)]
  split
  · intro core n h1 h2 h3; unfold State.csr; simp [State.noteIssue, State.goOn, State.countWindows]
  · unfold State.sameCsrs State.csr
    intro core n h1 h2 h3
    rw [dropOthers_csrs]
    have ht : ∀ x : State, lookD 0 (x.trial (coreOfFloe k) f.coord).csrs (4096 * core + n) = lookD 0 x.csrs (4096 * core + n) := fun x => by
      obtain ⟨y, hy, hy'⟩ := trial_cases (s := x) (coreOfFloe k) f.coord
      rw [hy]
      exact hy' _ (by omega) (by omega)
    rw [ht]
    simp [State.noteIssue, State.countSched, State.goOn, State.countWindows]

theorem modFloe_ne {s : State} {j k : Nat} (h : j ≠ k) (g : Floe → Floe) : (s.modFloe k g).floe? j = s.floe? j := by
  unfold State.modFloe State.floe?
  split
  · exact look_put_ne _ _ h
  · rfl

theorem completed_floe_ne (hq : u.still = true) {j : Nat} (h : j ≠ k) : (u.completed k f).floe? j = u.floe? j := by
  rw [completed_eq hq]
  have hg : ((u.countWindows k f.npend).goOn k).floe? j = u.floe? j := by
    unfold State.goOn State.countWindows
    rw [modFloe_ne h, modFloe_ne h]
  rw [afterIssue_eq (goOn_still hq), ← hg]
  split
  · exact modFloe_ne h _
  · unfold State.floe?
    rw [dropOthers_floes, trial_floes]
    exact modFloe_ne (s := State.countSched _ k f.fid f.coord) h _

theorem modFloe_some {s : State} {k : Nat} {y : Floe} (h : s.floe? k = some y) (g : Floe → Floe) : (s.modFloe k g).floe? k = some (g y) := by
  have h' : look s.floes k = some y := h
  unfold State.modFloe State.floe?
  rw [h']
  exact look_put_same _ _ _

theorem nextPos_setFloe (s : State) (k j : Nat) (x y : Floe) : (s.setFloe j y).nextPos k x = s.nextPos k x := rfl

theorem nextPos_pend (s : State) (k : Nat) (x : Floe) (p : List Pend) : s.nextPos k { x with pend := p } = s.nextPos k x := rfl

/-- The change to the floe's record that an issue makes: when and where it issued. -/
theorem afterIssue_floe (hq : s.still = true) {y : Floe} (hy : s.floe? k = some y) :
    ∃ a b, (s.afterIssue k f).floe? k = some { y with lastIssue := a, issued := b } := by
  have hn : ∀ (s : State), s.floe? k = some y → ∃ a b, (s.noteIssue k f).floe? k = some { y with lastIssue := a, issued := b } := by
    intro s hs
    unfold State.noteIssue
    rw [modFloe_some hs]
    split <;> exact ⟨_, _, rfl⟩
  rw [afterIssue_eq hq]
  split
  · exact hn s hy
  · obtain ⟨a, b, h⟩ := hn (s.countSched k f.fid f.coord) hy
    refine ⟨a, b, ?_⟩
    unfold State.floe? at h ⊢
    rw [dropOthers_floes, trial_floes]
    exact h

/-- The floe's own record once it has gone on: at the next slot (R46), its windows one instruction shorter (R63), all else as it was. -/
theorem completed_floe (hq : u.still = true) {y : Floe} (hy : u.floe? k = some y) :
    ∃ z, (u.completed k f).floe? k = some z ∧ (z.line, z.slot) = u.nextPos k y ∧ z.uregs = y.uregs ∧ z.log = y.log ∧ z.ports = y.ports ∧
      z.npend = y.npend ∧ z.wait = .none ∧ z.hold = y.hold ∧ z.lanes = y.lanes ∧ z.fid = y.fid ∧ z.blkr = y.blkr ∧
      z.pend = y.pend.map fun p => if p.n < f.npend ∧ 0 < p.left then { p with left := p.left - 1 } else p := by
  rw [completed_eq hq]
  have hcw : (u.countWindows k f.npend).floe? k = some
      { y with pend := y.pend.map fun p => if p.n < f.npend ∧ 0 < p.left then { p with left := p.left - 1 } else p } := modFloe_some hy _
  have hg := modFloe_some hcw fun x => { (u.countWindows k f.npend).advance k x with
    mute := 0, bpHits := [], watchHits := [], wait := .none, served := [], spawnRec := none, second := if (u.countWindows k f.npend).pairFirst k x then 1 else 0 }
  obtain ⟨a, b, h⟩ := afterIssue_floe (f := f) (goOn_still hq (k := k) (f := f)) hg
  refine ⟨_, h, ?_, rfl, rfl, rfl, rfl, rfl, rfl, rfl, rfl, rfl, rfl⟩
  have he : (u.countWindows k f.npend) = u.setFloe k
      { y with pend := y.pend.map fun p => if p.n < f.npend ∧ 0 < p.left then { p with left := p.left - 1 } else p } := by
    have h' : look u.floes k = some y := hy
    unfold State.countWindows State.modFloe
    rw [h']
  show (u.countWindows k f.npend).nextPos k _ = _
  rw [he, nextPos_setFloe, nextPos_pend]

end Sys2Proof.Machine
end

