-- ==== Sys2Proof/Laws/Land.lean ====
section
/-! SUPPORT. Land: the words and flags that an instruction delivers, in registers, windows and uniform registers. -/

namespace Sys2Proof.Machine

variable {i : Instr} {s u : State} {f : Floe} {c : Ctx} {k : Nat} {o : IntOps} {p : BitVec 8} {val : Nat → Bool}

/-! ## Ports leave the floe's record as it was, but for the ports -/

theorem popPorts_ok : ∀ (l : List (Nat × BitVec 8)) (f : Floe) (acc : List (Nat × Nat × Word)) {r : Floe × List (Nat × Nat × Word)},
    c.popPorts l f acc = .ok r → r.1 = { f with ports := r.1.ports } ∧ (r.2 = acc → l ≠ [] → c.act = []) ∧ (l = [] → r.1 = f) ∧
      ∃ m, r.2 = acc ++ m
  | [], f, acc, r, h => by
    cases h; exact ⟨rfl, fun _ h => absurd rfl h, fun _ => rfl, [], (List.append_nil _).symm⟩
  | (pos, x) :: rest, f, acc, r, h => by
    unfold Ctx.popPorts at h
    split at h
    · cases h
    · dsimp only at h
      split at h
      · cases h
      · split at h
        · cases h
        · split at h
          · cases h
          · split at h
            · cases h
            · obtain ⟨h1, -, -, m, h3⟩ := popPorts_ok rest _ _ h
              refine ⟨h1, ?_, fun h => (List.cons_ne_nil _ _ h).elim, ?_⟩
              · intro h2 _
                rw [h3] at h2
                have := congrArg List.length h2
                simp only [List.length_append, List.length_map] at this
                exact List.length_eq_zero_iff.1 (by omega)
              · rw [h3, List.append_assoc]; exact ⟨_, rfl⟩

/-- What an instruction sees of its floe is the floe that stands in its state. -/
theorem issuing_floe_ctx (h : issuing i s = some (f, c)) : c.s.floe? c.k = some c.f ∧ c.f = { f with ports := c.f.ports } ∧
    (c.s = s ∨ c.s = s.setFloe c.k c.f) := by
  have hf := issuing_floe h
  obtain ⟨-, -, hp⟩ := issuing_iff.1 h
  have hk := issuing_k h
  unfold Ctx.ports at hp
  split at hp
  · cases hp
  · next f' popped hpop =>
    split at hp
    · cases hp
    · cases hp
      have hcase : (issueCtx i s (FloeId.key s.cur) f).act = [] ∧ f' = f ∧ popped = [] ∨
          (issueCtx i s (FloeId.key s.cur) f).act ≠ [] ∧
            (issueCtx i s (FloeId.key s.cur) f).popPorts (portSrcs i) f [] = .ok (f', popped) := by
        split at hpop
        · next ha => cases hpop; exact .inl ⟨ha, rfl, rfl⟩
        · next ha => exact .inr ⟨ha, hpop⟩
      have hrec : f' = { f with ports := f'.ports } := by
        rcases hcase with ⟨-, rfl, -⟩ | ⟨-, hq⟩
        · rfl
        · exact (popPorts_ok _ _ _ hq).1
      refine ⟨?_, hrec, ?_⟩
      · dsimp only
        split
        · next hn =>
          have : f' = f := by
            rcases hcase with ⟨-, h1, -⟩ | ⟨ha, hq⟩
            · exact h1
            · obtain ⟨-, h2, h3, -⟩ := popPorts_ok _ _ _ hq
              by_cases hl : portSrcs i = []
              · exact h3 hl
              · exact absurd (h2 hn hl) ha
          rw [this]; exact hf
        · exact look_put_same _ _ _
      · dsimp only
        split
        · exact .inl rfl
        · exact .inr rfl

theorem issuing_npend (h : issuing i s = some (f, c)) : c.f.npend = f.npend := by rw [(issuing_floe_ctx h).2.1]

/-- Calm before the instruction's own part. -/
structure Quiet (u : State) : Prop where
  still : u.still = true
  latent : u.latent = []
  arms : ∀ a p n m, u.armed? a p n m = none

theorem quiet_of (h : issuing i s = some (f, c)) (hc : s.calm = true) : Quiet c.s := by
  simp only [State.calm, Bool.and_eq_true, beq_iff_eq] at hc
  obtain ⟨⟨h1, h3⟩, h4⟩ := hc
  have harm : ∀ x : State, x.csrs = s.csrs → ∀ a p n m, x.armed? a p n m = none := by
    intro x hx a p n m
    unfold State.armed?
    rw [Option.map_eq_none_iff, List.find?_eq_none]
    intro e he
    rw [hx] at he
    have := List.all_eq_true.1 h4 e he
    simp only [Bool.not_eq_true', Bool.and_eq_false_iff] at this
    have hne : (decide (e.1 % 4096 = 0x38D) && e.2.getLsbD 0) = false := by
      rcases this with h | h <;> rw [h] <;> simp
    rw [hne]
    simp
  rcases (issuing_floe_ctx h).2.2 with h' | h'
  · rw [h']; exact ⟨h1, h3, harm _ rfl⟩
  · rw [h']; exact ⟨h1, h3, harm _ rfl⟩

/-! ## Registers -/

theorem setVreg_quiet (hl : u.latent = []) (ha : ∀ a p n m, u.armed? a p n m = none) (t n : Nat) (v : Word) :
    u.setVreg t n v = { u with regs := putD 0 u.regs (regKey t (u.thread t) n) v } := by
  unfold State.setVreg
  exact State.takeInjection_none _ _ _ _ _ hl (ha _ _ _ _)

theorem quiet_regs (h : Quiet u) (r : Tab Word) : Quiet { u with regs := r } := ⟨h.1, h.2, h.3⟩
theorem quiet_threads (h : Quiet u) (r : Tab Thread) : Quiet { u with threads := r } := ⟨h.1, h.2, h.3⟩
theorem quiet_floes (h : Quiet u) (r : Tab Floe) : Quiet { u with floes := r } := ⟨h.1, h.2, h.3⟩
theorem quiet_lfsr (h : Quiet u) (r : Tab Word) : Quiet { u with lfsr := r } := ⟨h.1, h.2, h.3⟩

/-- Consecutive register writes of one thread are one change of the bank words. -/
theorem foldVregs (h : Quiet u) (t r : Nat) (ws : List Word) : ∀ n, ∃ x, (ws.zipIdx n).foldl (fun s e => s.setVreg t (r + e.2) e.1) u = { u with regs := x } ∧
    ∀ a, lookD 0 x a = if regKey t (u.thread t) r + n ≤ a ∧ a < regKey t (u.thread t) r + n + ws.length then
      ws.getD (a - (regKey t (u.thread t) r + n)) 0 else lookD 0 u.regs a := by
  induction ws generalizing u with
  | nil => intro n; exact ⟨u.regs, rfl, fun a => by simp⟩
  | cons w ws ih =>
    intro n
    rw [List.zipIdx_cons, List.foldl_cons, setVreg_quiet h.latent h.arms]
    obtain ⟨x, hx, hx'⟩ := ih (quiet_regs h _) (n + 1)
    refine ⟨x, hx, fun a => ?_⟩
    have hth : State.thread { u with regs := putD 0 u.regs (regKey t (u.thread t) (r + n)) w } t = u.thread t := rfl
    have hkk : regKey t (u.thread t) (r + n) = regKey t (u.thread t) r + n := by unfold regKey; omega
    rw [hx' a, hth]
    dsimp only
    rw [lookD_putD, hkk, List.length_cons]
    by_cases h1 : a = regKey t (u.thread t) r + n
    · rw [if_pos h1, if_neg (by omega), if_pos (by omega)]
      have : a - (regKey t (u.thread t) r + n) = 0 := by omega
      rw [this]; rfl
    · by_cases h2 : regKey t (u.thread t) r + (n + 1) ≤ a ∧ a < regKey t (u.thread t) r + (n + 1) + ws.length
      · rw [if_pos h2, if_pos (by omega)]
        have : a - (regKey t (u.thread t) r + n) = (a - (regKey t (u.thread t) r + (n + 1))) + 1 := by omega
        rw [this, List.getD_cons_succ]
      · rw [if_neg h2, if_neg h1, if_neg (by omega)]

theorem wrRegs_fold {d : BitVec 8} (hd : d.toNat < 248) (l : Nat) (ws : List Word) :
    c.wrRegs u d l ws = (ws.zipIdx 0).foldl (fun s e => s.setVreg (c.t l) (d.toNat + e.2) e.1) u := by
  unfold Ctx.wrRegs
  split
  · next w =>
    unfold Ctx.wr1
    rw [if_neg (by omega)]
    rfl
  · rfl

/-- Delivering at once, lane by lane: only bank words in the lanes' spots and status words of the lanes' threads change. -/
theorem deliver_fold (h : Quiet u) {d : BitVec 8} (hd : d.toNat < 248) (val : Nat → List Word) (fl : Nat → Fl) (ls : List Nat) :
    ∃ x y, (ls.map fun l => (l, val l, fl l)).foldl (fun s e => (c.wrRegs s d e.1 e.2.1).orFlags (c.t e.1) e.2.2) u =
        { u with regs := x, threads := y } ∧
      (∀ a, (∀ l ∈ ls, ¬ c.spot u d.toNat (val l).length l a) → lookD 0 x a = lookD 0 u.regs a) ∧
      (∀ t, (lookD {} y t : Thread) = { u.thread t with status := (lookD {} y t : Thread).status }) ∧
      (∀ t, (∀ l ∈ ls, c.t l ≠ t) → (lookD {} y t : Thread) = u.thread t) ∧
      (∀ l ∈ ls, ∀ a, c.spot u d.toNat (val l).length l a → (∀ m ∈ ls, c.spot u d.toNat (val m).length m a → m = l) →
        lookD 0 x a = (val l).getD (a - regKey (c.t l) (u.thread (c.t l)) d.toNat) 0) := by
  induction ls generalizing u with
  | nil => exact ⟨u.regs, u.threads, rfl, fun _ _ => rfl, fun _ => rfl, fun _ _ => rfl, fun _ h => absurd h (by simp)⟩
  | cons l ls ih =>
    rw [List.map_cons, List.foldl_cons]
    dsimp only
    rw [wrRegs_fold hd]
    obtain ⟨x1, e1, r1⟩ := foldVregs h (c.t l) d.toNat (val l) 0
    rw [e1]
    have hof : ∃ y1, State.orFlags { u with regs := x1 } (c.t l) (fl l) = { u with regs := x1, threads := y1 } ∧
        (∀ t, (lookD {} y1 t : Thread) = { u.thread t with status := (lookD {} y1 t : Thread).status }) ∧
        (∀ t, c.t l ≠ t → (lookD {} y1 t : Thread) = u.thread t) := by
      unfold State.orFlags
      split
      · exact ⟨u.threads, rfl, fun _ => rfl, fun _ _ => rfl⟩
      · refine ⟨_, rfl, ?_, ?_⟩
        · intro t
          rw [lookD_put]
          split
          · next ht => subst ht; rfl
          · rfl
        · intro t ht
          rw [lookD_put, if_neg (Ne.symm ht)]; rfl
    obtain ⟨y1, e2, t1, t1'⟩ := hof
    rw [e2]
    obtain ⟨x, y, e3, ra, ta, tb, rb⟩ := ih (u := { u with regs := x1, threads := y1 }) ⟨h.still, h.latent, h.arms⟩
    have hw : ∀ t, State.thread { u with regs := x1, threads := y1 } t = lookD {} y1 t := fun _ => rfl
    have hk : ∀ t n, regKey t (State.thread { u with regs := x1, threads := y1 } t) n = regKey t (u.thread t) n := by
      intro t n; unfold regKey; rw [hw, t1 t]
    have hs : ∀ m n a, c.spot { u with regs := x1, threads := y1 } d.toNat n m a ↔ c.spot u d.toNat n m a := by
      intro m n a; unfold Ctx.spot; rw [hk]
    refine ⟨x, y, e3, ?_, ?_, ?_, ?_⟩
    · intro a ha
      rw [ra a (fun m hm => by rw [hs]; exact ha m (List.mem_cons_of_mem _ hm)), r1 a]
      rw [if_neg]
      exact ha l (List.mem_cons_self)
    · intro t
      have h1 := ta t
      rw [hw] at h1
      rw [h1, t1 t]
    · intro t ht
      rw [tb t (fun m hm => ht m (List.mem_cons_of_mem _ hm)), hw]
      exact t1' t (ht l List.mem_cons_self)
    · intro m hm a hsp huniq
      by_cases hin : m ∈ ls
      · have := rb m hin a ((hs _ _ _).2 hsp) (fun m' hm' hsp' => huniq m' (List.mem_cons_of_mem _ hm') ((hs _ _ _).1 hsp'))
        rw [this, hk]
      · have hml : m = l := by
          rcases List.mem_cons.1 hm with h | h
          · exact h
          · exact absurd h hin
        subst hml
        rw [ra a (fun m' hm' hsp' => by
          rw [hs] at hsp'
          have := huniq m' (List.mem_cons_of_mem _ hm') hsp'
          subst this
          exact hin hm')]
        rw [r1 a, if_pos]
        · rfl
        · exact hsp

/-- Status words of delivered lanes: sticky flags are ORed in, and without flags nothing changes. -/
theorem deliver_status (h : Quiet u) {d : BitVec 8} (hd : d.toNat < 248) (val : Nat → List Word) (fl : Nat → Fl) (ls : List Nat) {x : Tab Word}
    {y : Tab Thread} {b : Bool}
    (e : (ls.map fun l => (l, val l, fl l)).foldl (fun s e => (c.wrRegs s d e.1 e.2.1).orFlags (c.t e.1) e.2.2) u = { u with regs := x, threads := y })
    (hb : b = false → ∀ l, fl l = 0) (t : Nat) :
    ((b = false ∨ ∀ l ∈ ls, c.t l ≠ t) → (lookD {} y t : Thread).status = (u.thread t).status) ∧
      ∃ z : Fl, (lookD {} y t : Thread).status = (u.thread t).status ||| z.zeroExtend 32 := by
  have key : ∀ (ls : List Nat) (u : State), Quiet u → ∃ z : Fl, (∀ hz : (b = false ∨ ∀ l ∈ ls, c.t l ≠ t), z = 0) ∧
      ((((ls.map fun l => (l, val l, fl l)).foldl (fun s e => (c.wrRegs s d e.1 e.2.1).orFlags (c.t e.1) e.2.2) u).thread t).status =
        (u.thread t).status ||| z.zeroExtend 32) := by
    intro ls
    induction ls with
    | nil => intro u _; exact ⟨0, fun _ => rfl, by simp⟩
    | cons l ls ih =>
      intro u h
      rw [List.map_cons, List.foldl_cons]
      dsimp only
      rw [wrRegs_fold hd]
      obtain ⟨x1, e1, -⟩ := foldVregs h (c.t l) d.toNat (val l) 0
      rw [e1]
      have h1 : Quiet { u with regs := x1 } := ⟨h.still, h.latent, h.arms⟩
      by_cases hf : fl l = 0
      · have : State.orFlags { u with regs := x1 } (c.t l) (fl l) = { u with regs := x1 } := by unfold State.orFlags; rw [if_pos hf]
        rw [this]
        obtain ⟨z, hz, hs⟩ := ih _ h1
        exact ⟨z, fun hx => hz (hx.imp id fun hx m hm => hx m (List.mem_cons_of_mem _ hm)), hs⟩
      · have ho : State.orFlags { u with regs := x1 } (c.t l) (fl l) = State.modThread { u with regs := x1 } (c.t l) fun th =>
            { th with status := th.status ||| (fl l).zeroExtend 32 } := by unfold State.orFlags; rw [if_neg hf]
        rw [ho]
        have h2 : Quiet (State.modThread { u with regs := x1 } (c.t l) fun th => { th with status := th.status ||| (fl l).zeroExtend 32 }) :=
          ⟨h.still, h.latent, h.arms⟩
        obtain ⟨z, hz, hs⟩ := ih _ h2
        rw [State.thread_modThread] at hs
        by_cases ht : t = c.t l
        · rw [if_pos ht] at hs
          refine ⟨fl l ||| z, ?_, ?_⟩
          · rintro (hx | hx)
            · exact absurd (hb hx l) hf
            · exact absurd ht.symm (hx l List.mem_cons_self)
          · rw [hs, ht]
            show ((u.thread (c.t l)).status ||| _) ||| _ = _
            rw [BitVec.or_assoc]
            congr 1
        · rw [if_neg ht] at hs
          exact ⟨z, fun hx => hz (hx.imp id fun hx m hm => hx m (List.mem_cons_of_mem _ hm)), hs⟩
  obtain ⟨z, hz, hs⟩ := key ls u h
  rw [e] at hs
  refine ⟨fun hx => ?_, z, hs⟩
  have : (lookD {} y t : Thread).status = (u.thread t).status ||| z.zeroExtend 32 := hs
  rw [this, hz hx]
  simp

/-- Lanes in their own banks do not share a spot. -/
theorem spot_unique {d n : Nat} (hb : c.inBanks (d + n) = true) {l m a p q : Nat} (hl : l ∈ c.act) (hm : m ∈ c.act) (hp : p ≤ n) (hq : q ≤ n)
    (hw : ∀ t, (u.thread t).wbase = (c.s.thread t).wbase) (h1 : c.spot u d p l a) (h2 : c.spot u d q m a) : m = l := by
  have get : ∀ x ∈ c.act, c.t x / 32 = 32 * c.islot + x ∧ (c.s.thread (c.t x)).wbase + (d + n) ≤ 2048 := by
    intro x hx
    have := List.all_eq_true.1 hb x hx
    unfold Ctx.t
    cases ht : c.f.tkey c.k x with
    | none => rw [ht] at this; exact absurd this (by simp)
    | some t => rw [ht] at this; simpa using this
  obtain ⟨l1, l2⟩ := get l hl
  obtain ⟨m1, m2⟩ := get m hm
  unfold Ctx.spot regKey at h1 h2
  rw [hw, l1] at h1
  rw [hw, m1] at h2
  omega

/-! ## What is delivered can be read -/

theorem quiet_modFloe (h : Quiet u) (k : Nat) (g : Floe → Floe) : Quiet (u.modFloe k g) := by
  unfold State.modFloe
  split
  · exact ⟨h.still, h.latent, h.arms⟩
  · exact h

theorem completed_wbase (h : Quiet u) (t : Nat) : ((u.completed k f).thread t).wbase = (u.thread t).wbase := by
  rcases completed_thread (k := k) (f := f) h.still t with e | e <;> rw [e]

theorem completed_vreg (h : Quiet u) (t n : Nat) : (u.completed k f).vreg t n = u.vreg t n :=
  State.vreg_congr (completed_regs h.still) t n (completed_wbase h t)

/-- Words delivered at once stand in the registers. -/
theorem deliver_inRegs (h : Quiet u) (hw : ∀ t, (u.thread t).wbase = (c.s.thread t).wbase) {d : BitVec 8} (hd : d.toNat < 248) (val : Nat → List Word)
    (fl : Nat → Fl) {n : Nat} (hn : ∀ l, (val l).length ≤ n) (hb : c.inBanks (d.toNat + n) = true) :
    c.inRegs ((c.deliver u 0 d (c.act.map fun l => (l, val l, fl l))).completed k f) d val := by
  unfold Ctx.deliver
  rw [if_pos rfl]
  obtain ⟨x, y, e, -, ht, -, hr⟩ := deliver_fold h hd val fl c.act
  rw [e]
  intro l hl i w hv
  have q : Quiet { u with regs := x, threads := y } := ⟨h.still, h.latent, h.arms⟩
  rw [completed_vreg q]
  have hi : i < (val l).length := by
    by_contra hlt
    rw [List.getElem?_eq_none (by omega)] at hv
    cases hv
  have hk : regKey (c.t l) (State.thread { u with regs := x, threads := y } (c.t l)) (d.toNat + i) =
      regKey (c.t l) (u.thread (c.t l)) d.toNat + i := by
    have : State.thread { u with regs := x, threads := y } (c.t l) = (lookD {} y (c.t l) : Thread) := rfl
    have hwb : (lookD {} y (c.t l) : Thread).wbase = (u.thread (c.t l)).wbase := by rw [ht (c.t l)]
    unfold regKey
    rw [this, hwb]
    omega
  unfold State.vreg
  rw [hk]
  have := hr l hl (regKey (c.t l) (u.thread (c.t l)) d.toNat + i) ⟨by omega, by omega⟩
    (fun m hm hs => spot_unique hb hl hm (hn l) (hn m) hw ⟨by omega, by omega⟩ hs)
  show lookD 0 x _ = w
  rw [this, Nat.add_sub_cancel_left, List.getD_eq_getElem?_getD, hv]
  rfl

/-- Words delivered with a lookahead wait in the floe. -/
theorem deliver_inWindow (h : Quiet u) (hf : u.floe? c.k = some c.f) (hn : c.f.npend = f.npend) {la : Nat} (hla : la ≠ 0) {d : BitVec 8}
    (val : Nat → List Word) (fl : Nat → Fl) (ha : c.act ≠ []) :
    c.inWindow ((c.deliver u la d (c.act.map fun l => (l, val l, fl l))).completed c.k f) la d val := by
  unfold Ctx.deliver
  rw [if_neg hla, if_neg (by simpa using ha)]
  have q := quiet_modFloe h c.k fun x => { x with
      npend := x.npend + 1
      pend := x.pend ++ [{ n := x.npend, reg := d.toNat, cnt := ((c.act.map fun l => (l, val l, fl l)).headD (0, [], 0)).2.1.length, left := la,
                           vals := (c.act.map fun l => (l, val l, fl l)).map fun e => (e.1, e.2.1),
                           flags := (c.act.map fun l => (l, val l, fl l)).map fun e => (e.1, e.2.2), coord := x.coord }] }
  obtain ⟨z, hz, -, -, -, -, -, -, -, -, -, -, hp⟩ := completed_floe (f := f) q.still (modFloe_some hf _)
  refine ⟨z, hz, ?_⟩
  rw [hp, List.map_append, List.map_singleton]
  refine ⟨_, List.mem_append_right _ (List.mem_singleton_self _), ?_⟩
  rw [if_neg (by dsimp only; omega)]
  refine ⟨rfl, rfl, rfl, rfl, ?_⟩
  intro l hl
  simp only [List.map_map, List.mem_map]
  exact ⟨l, hl, rfl⟩

/-- A word written to a uniform register stands there. -/
theorem setUreg_inUreg (h : Quiet u) (hf : u.floe? c.k = some c.f) (d : BitVec 8) (w : Word) :
    c.inUreg ((u.setUreg c.k d.toNat w).completed c.k f) d w := by
  unfold State.setUreg
  have q := quiet_modFloe h c.k fun x => { x with uregs := putD 0 x.uregs d.toNat w }
  obtain ⟨z, hz, -, hu, -⟩ := completed_floe (f := f) q.still (modFloe_some hf _)
  refine ⟨z, hz, ?_⟩
  rw [hu]
  dsimp only
  rw [lookD_putD, if_pos rfl]

/-- A word for a uniform register that has a window waits in the floe. -/
theorem uregOut_window (h : Quiet u) (hf : u.floe? c.k = some c.f) (hn : c.f.npend = f.npend) {la : Nat} (hla : la ≠ 0) (d : BitVec 8) (w : Word) :
    c.inUregWindow ((c.uregOut u la d.toNat w).completed c.k f) la d w := by
  unfold Ctx.uregOut
  rw [if_neg hla]
  have q := quiet_modFloe h c.k fun x => { x with
    npend := x.npend + 1, pend := x.pend ++ [{ n := x.npend, ureg := some (d.toNat, w), left := la, coord := x.coord }] }
  obtain ⟨z, hz, -, -, -, -, -, -, -, -, -, -, hp⟩ := completed_floe (f := f) q.still (modFloe_some hf _)
  refine ⟨z, hz, ?_⟩
  rw [hp, List.map_append, List.map_singleton]
  refine ⟨_, List.mem_append_right _ (List.mem_singleton_self _), ?_⟩
  rw [if_neg (by dsimp only; omega)]
  exact ⟨rfl, rfl, rfl⟩

theorem completed_predOf (h : Quiet u) (t p : Nat) : (u.completed k f).predOf t p = u.predOf t p := by
  unfold State.predOf
  rcases completed_thread (k := k) (f := f) h.still t with e | e <;> rw [e]

theorem completed_status (h : Quiet u) (t : Nat) : ((u.completed k f).thread t).status = (u.thread t).status := by
  rcases completed_thread (k := k) (f := f) h.still t with e | e <;> rw [e]

/-- Lanes in their own banks are different threads. -/
theorem lane_unique {n : Nat} (hb : c.inBanks n = true) {l m : Nat} (hl : l ∈ c.act) (hm : m ∈ c.act) (h : c.t m = c.t l) : m = l := by
  have get : ∀ x ∈ c.act, c.t x / 32 = 32 * c.islot + x := by
    intro x hx
    have := List.all_eq_true.1 hb x hx
    unfold Ctx.t
    cases ht : c.f.tkey c.k x with
    | none => rw [ht] at this; exact absurd this (by simp)
    | some t => rw [ht] at this; exact (by simpa using this : _ ∧ _).1
  have h1 := get l hl
  have h2 := get m hm
  rw [h] at h2
  omega

/-- Predicates written lane by lane read as written. -/
theorem preds_land {p : Nat} (hp : p < 7) (val : Nat → Bool) (ls : List Nat) (u : State) {l : Nat} (hl : l ∈ ls)
    (hu : ∀ m ∈ ls, c.t m = c.t l → val m = val l) :
    (ls.foldl (fun s l => s.setPred (c.t l) p (val l)) u).predOf (c.t l) p = val l := by
  have keep : ∀ (ls : List Nat) (u : State), (∀ m ∈ ls, c.t m = c.t l → val m = val l) → u.predOf (c.t l) p = val l →
      (ls.foldl (fun s l => s.setPred (c.t l) p (val l)) u).predOf (c.t l) p = val l := by
    intro ls
    induction ls with
    | nil => intro u _ h; exact h
    | cons m ls ih =>
      intro u hu h
      refine ih _ (fun x hx => hu x (List.mem_cons_of_mem _ hx)) ?_
      rw [State.predOf_setPred _ _ _ _ _ _ (by omega)]
      split
      · next hc => exact hu m List.mem_cons_self hc.1.symm
      · exact h
  induction ls generalizing u with
  | nil => exact absurd hl (by simp)
  | cons m ls ih =>
    by_cases hin : l ∈ ls
    · exact ih _ hin (fun x hx => hu x (List.mem_cons_of_mem _ hx))
    · have hml : l = m := by
        rcases List.mem_cons.1 hl with h | h
        · exact h
        · exact absurd h hin
      subst hml
      refine keep ls _ (fun x hx => hu x (List.mem_cons_of_mem _ hx)) ?_
      rw [State.predOf_setPred _ _ _ _ _ _ (by omega), if_pos ⟨rfl, rfl, by omega⟩]

/-- Where the predicate of an integer instruction stands once its floe has gone on. -/
theorem predOut_gives (hq : Quiet (c.predOut u o p val)) : c.givesPred ((c.predOut u o p val).completed c.k f) o p val := by
  unfold Ctx.givesPred
  intro hp hb
  split
  · next hk =>
    intro l hl
    rw [completed_predOf hq]
    unfold Ctx.predOut
    rw [if_pos hk]
    exact preds_land hp (fun _ => val c.lowPresent) _ u hl (fun _ _ _ => rfl)
  · next hk =>
    intro l hl
    rw [completed_predOf hq]
    unfold Ctx.predOut
    rw [if_neg hk]
    exact preds_land hp val _ u hl (fun m hm h => by rw [lane_unique hb hl hm h])

/-- Sticky flags of delivered lanes stand in their threads' status words. -/
theorem deliver_flags (h : Quiet u) {d : BitVec 8} (hd : d.toNat < 248) (val : Nat → List Word) (fl : Nat → Fl) {n : Nat} (hb : c.inBanks n = true)
    {l : Nat} (hl : l ∈ c.act) : ((c.deliver u 0 d (c.act.map fun l => (l, val l, fl l))).thread (c.t l)).status =
      (u.thread (c.t l)).status ||| (fl l).zeroExtend 32 := by
  unfold Ctx.deliver
  rw [if_pos rfl]
  have step : ∀ (m : Nat) (u : State), Quiet u → Quiet ((c.wrRegs u d m (val m)).orFlags (c.t m) (fl m)) ∧
      (((c.wrRegs u d m (val m)).orFlags (c.t m) (fl m)).thread (c.t l)).status =
        if c.t l = c.t m then (u.thread (c.t l)).status ||| (fl m).zeroExtend 32 else (u.thread (c.t l)).status := by
    intro m u h
    rw [wrRegs_fold hd]
    obtain ⟨x, e, -⟩ := foldVregs h (c.t m) d.toNat (val m) 0
    rw [e]
    unfold State.orFlags
    split
    · next h0 =>
      refine ⟨⟨h.still, h.latent, h.arms⟩, ?_⟩
      rw [h0]
      split
      · simp; rfl
      · rfl
    · refine ⟨⟨h.still, h.latent, h.arms⟩, ?_⟩
      rw [State.thread_modThread]
      split
      · next ht => rw [ht]; rfl
      · rfl
  have keep : ∀ (ls : List Nat) (u : State), Quiet u → (∀ m ∈ ls, c.t l = c.t m → m = l) → ∀ w,
      (u.thread (c.t l)).status = w ||| (fl l).zeroExtend 32 →
      (((ls.map fun l => (l, val l, fl l)).foldl (fun s e => (c.wrRegs s d e.1 e.2.1).orFlags (c.t e.1) e.2.2) u).thread (c.t l)).status =
        w ||| (fl l).zeroExtend 32 := by
    intro ls
    induction ls with
    | nil => intro u _ _ w h; exact h
    | cons m ls ih =>
      intro u hq hu w h
      obtain ⟨q, hs⟩ := step m u hq
      refine ih _ q (fun x hx => hu x (List.mem_cons_of_mem _ hx)) w ?_
      show (((c.wrRegs u d m (val m)).orFlags (c.t m) (fl m)).thread (c.t l)).status = _
      rw [hs]
      split
      · next ht =>
        rw [hu m List.mem_cons_self ht, h, BitVec.or_assoc, BitVec.or_self]
      · exact h
  have main : ∀ (ls : List Nat) (u : State), Quiet u → (∀ m ∈ ls, c.t l = c.t m → m = l) → l ∈ ls →
      (((ls.map fun l => (l, val l, fl l)).foldl (fun s e => (c.wrRegs s d e.1 e.2.1).orFlags (c.t e.1) e.2.2) u).thread (c.t l)).status =
        (u.thread (c.t l)).status ||| (fl l).zeroExtend 32 := by
    intro ls
    induction ls with
    | nil => intro u _ _ h; exact absurd h (by simp)
    | cons m ls ih =>
      intro u hq hu hin
      obtain ⟨q, hs⟩ := step m u hq
      by_cases hml : c.t l = c.t m
      · have : m = l := hu m List.mem_cons_self hml
        subst this
        rw [if_pos rfl] at hs
        exact keep ls _ q (fun x hx => hu x (List.mem_cons_of_mem _ hx)) _ hs
      · rw [if_neg hml] at hs
        have hne : l ∈ ls := by
          rcases List.mem_cons.1 hin with h | h
          · subst h; exact absurd rfl hml
          · exact h
        have := ih _ q (fun x hx => hu x (List.mem_cons_of_mem _ hx)) hne
        rw [hs] at this
        exact this
  exact main c.act u h (fun m hm ht => lane_unique hb hl hm ht.symm) hl

/-- Where a float instruction's word and flags stand once its floe has gone on. -/
theorem deliver_givesFp (h : Quiet u) (ht : u.threads = c.s.threads) (hf : u.floe? c.k = some c.f) (hn : c.f.npend = f.npend) (la : BitVec 4)
    (d : BitVec 8) (val : Nat → Word) (fl : Nat → Fl) :
    c.givesFp ((c.deliver u la.toNat d (c.act.map fun l => (l, [val l], fl l))).completed c.k f) la d val fl := by
  have hth : ∀ t, u.thread t = c.s.thread t := fun t => by unfold State.thread; rw [ht]
  unfold Ctx.givesFp
  split
  · next hla =>
    intro hd hb
    rw [hla]
    refine ⟨deliver_inRegs h (fun t => by rw [hth]) hd (fun l => [val l]) fl (fun _ => Nat.le_refl 1) hb, fun l hl => ?_⟩
    have q : Quiet (c.deliver u 0 d (c.act.map fun l => (l, [val l], fl l))) := by
      unfold Ctx.deliver
      rw [if_pos rfl]
      obtain ⟨x, y, e, -⟩ := deliver_fold (c := c) h hd (fun l => [val l]) fl c.act
      rw [e]
      exact ⟨h.still, h.latent, h.arms⟩
    show (((c.deliver u 0 d _).completed c.k f).thread (c.t l)).status = _
    rw [completed_status q, ← hth]
    exact deliver_flags h hd (fun l => [val l]) fl hb hl
  · next hla =>
    intro ha
    have hl0 : la.toNat ≠ 0 := fun h0 => hla (BitVec.eq_of_toNat_eq h0)
    refine ⟨deliver_inWindow h hf hn hl0 (fun l => [val l]) fl ha, ?_⟩
    unfold Ctx.deliver
    rw [if_neg hl0, if_neg (by simpa using ha)]
    have q := quiet_modFloe h c.k fun x => { x with
        npend := x.npend + 1
        pend := x.pend ++ [{ n := x.npend, reg := d.toNat, cnt := ((c.act.map fun l => (l, [val l], fl l)).headD (0, [], 0)).2.1.length,
                             left := la.toNat, vals := (c.act.map fun l => (l, [val l], fl l)).map fun e => (e.1, e.2.1),
                             flags := (c.act.map fun l => (l, [val l], fl l)).map fun e => (e.1, e.2.2), coord := x.coord }] }
    obtain ⟨z, hz, -, -, -, -, -, -, -, -, -, -, hp⟩ := completed_floe (f := f) q.still (modFloe_some hf _)
    refine ⟨z, hz, ?_⟩
    rw [hp, List.map_append, List.map_singleton]
    refine ⟨_, List.mem_append_right _ (List.mem_singleton_self _), ?_⟩
    rw [if_neg (by dsimp only; omega)]
    refine ⟨rfl, ?_⟩
    intro l hl
    simp only [List.map_map, List.mem_map]
    exact ⟨l, hl, rfl⟩

/-- Where an integer instruction's result stands once its floe has gone on. -/
theorem intOut_gives (h : issuing i s = some (f, c)) (hc : s.calm = true) (o : IntOps) (val : Nat → List Word) :
    c.gives ((c.intOut c.s o val).completed c.k f) o val := by
  have q := quiet_of h hc
  have hf := (issuing_floe_ctx h).1
  unfold Ctx.gives Ctx.intOut
  split
  · split
    · next hla =>
      rw [hla]
      exact setUreg_inUreg q hf _ _
    · next hla => exact uregOut_window q hf (issuing_npend h) (fun h0 => hla (BitVec.eq_of_toNat_eq h0)) _ _
  · split
    · next hla =>
      intro hd hn hb
      rw [hla]
      exact deliver_inRegs q (fun _ => rfl) hd val (fun _ => 0) hn hb
    · next hla =>
      intro ha
      exact deliver_inWindow q hf (issuing_npend h) (fun h0 => hla (BitVec.eq_of_toNat_eq h0)) val (fun _ => 0) ha

end Sys2Proof.Machine
end

