-- ==== Sys2Proof/Laws/Frame.lean ====
section
/-! SUPPORT. Frame: an instruction that delivers words, predicates, uniform words and flags, or moves its generator, changes nothing else. -/

namespace Sys2Proof.Machine

variable {i : Instr} {fl : Bool} {s u v : State} {f : Floe} {c : Ctx}

/-- What the own part of an instruction on registers has changed so far, from `c.s` to `u`. -/
structure Eff (c : Ctx) (i : Instr) (fl : Bool) (u : State) : Prop where
  rest : ∃ r t x g, u = { c.s with regs := r, threads := t, floes := x, lfsr := g }
  gen : ∀ q, q ≠ c.islot → u.lfsrOf q = c.s.lfsrOf q
  other : ∀ j, j ≠ c.k → u.floe? j = c.s.floe? j
  thr : ∀ t, u.thread t = { c.s.thread t with preds := (u.thread t).preds, status := (u.thread t).status }
  pred : ∀ t p, p < 8 → (Opd.pred (BitVec.ofNat 8 p) ∉ i.dsts ∨ ∀ l ∈ c.f.lanes.map (·.1), c.t l ≠ t) → u.predOf t p = c.s.predOf t p
  stat : ∀ t, ((fl = false ∨ ∀ l ∈ c.act, c.t l ≠ t) → (u.thread t).status = (c.s.thread t).status) ∧
    ∃ x : Fl, (u.thread t).status = (c.s.thread t).status ||| x.zeroExtend 32
  regs : ∀ a, (∀ l ∈ c.act, ∀ d n b, Opd.reg d n b ∈ i.dsts → ¬ c.spot c.s d.toNat n l a) → lookD 0 u.regs a = lookD 0 c.s.regs a
  floe : ∀ x, c.s.floe? c.k = some x → ∃ y, u.floe? c.k = some y ∧ y.lanes = x.lanes ∧ y.log = x.log ∧ y.blkr = x.blkr ∧
    ∀ r : BitVec 8, Opd.ureg r ∉ i.dsts → lookD 0 y.uregs r.toNat = lookD 0 x.uregs r.toNat

theorem eff_refl (c : Ctx) (i : Instr) (fl : Bool) : Eff c i fl c.s where
  rest := ⟨_, _, _, _, rfl⟩
  gen _ _ := rfl
  other _ _ := rfl
  thr _ := rfl
  pred _ _ _ _ := rfl
  stat t := ⟨fun _ => rfl, 0, by simp⟩
  regs _ _ := rfl
  floe x h := ⟨x, h, rfl, rfl, rfl, fun _ _ => rfl⟩

theorem eff_quiet (e : Eff c i fl u) (q : Quiet c.s) : Quiet u := by
  obtain ⟨r, t, x, g, h⟩ := e.rest
  rw [h]
  exact ⟨q.still, q.latent, q.arms⟩

theorem eff_wbase (e : Eff c i fl u) (t : Nat) : (u.thread t).wbase = (c.s.thread t).wbase := by rw [e.thr t]

theorem eff_spot (e : Eff c i fl u) (d n l a : Nat) : c.spot u d n l a ↔ c.spot c.s d n l a := by
  unfold Ctx.spot regKey
  rw [eff_wbase e]

/-- The generator of the issue slot moves. -/
theorem eff_setLfsr (e : Eff c i fl u) (w : Word) : Eff c i fl (u.setLfsr c.islot w) where
  rest := by obtain ⟨r, t, x, g, h⟩ := e.rest; exact ⟨r, t, x, _, by unfold State.setLfsr; rw [h]⟩
  gen q hq := by
    rw [← e.gen q hq]
    unfold State.setLfsr State.lfsrOf
    dsimp only
    rw [lookD_putD, if_neg hq]
  other := e.other
  thr := e.thr
  pred := e.pred
  stat := e.stat
  regs := e.regs
  floe := e.floe

/-- Delivering at once. -/
theorem eff_deliver0 (e : Eff c i fl u) (q : Quiet c.s) {d : BitVec 8} (hd : d.toNat < 248) {n : Nat} {b : Bool} (hi : Opd.reg d n b ∈ i.dsts)
    (val : Nat → List Word) (hn : ∀ l, (val l).length ≤ n) (g : Nat → Fl) (hg : fl = true ∨ ∀ l, g l = 0) :
    Eff c i fl (c.deliver u 0 d (c.act.map fun l => (l, val l, g l))) := by
  have hq := eff_quiet e q
  unfold Ctx.deliver
  rw [if_pos rfl]
  obtain ⟨x, y, h, hr, ht, ht', -⟩ := deliver_fold (c := c) hq hd val g c.act
  have hst : ∀ t, ((fl = false ∨ ∀ l ∈ c.act, c.t l ≠ t) → (lookD {} y t : Thread).status = (u.thread t).status) ∧
      ∃ z : Fl, (lookD {} y t : Thread).status = (u.thread t).status ||| z.zeroExtend 32 := deliver_status hq hd val g c.act h
        (fun hf => by rcases hg with hg | hg; · rw [hf] at hg; cases hg
                      · exact hg)
  rw [h]
  obtain ⟨r0, t0, x0, g0, h0⟩ := e.rest
  have hth : ∀ t, State.thread { u with regs := x, threads := y } t = (lookD {} y t : Thread) := fun _ => rfl
  exact {
    rest := ⟨x, y, x0, g0, by rw [h0]⟩
    gen := e.gen
    other := e.other
    thr := fun t => by rw [hth, ht t, e.thr t]
    pred := fun t p hp hx => by
      rw [← e.pred t p hp hx]
      unfold State.predOf
      rw [hth, ht t]
    stat := fun t => by
      obtain ⟨s1, z1, s2⟩ := e.stat t
      obtain ⟨s3, z2, s4⟩ := hst t
      refine ⟨fun hx => ?_, z1 ||| z2, ?_⟩
      · rw [hth, s3 hx, s1 hx]
      · rw [hth, s4, s2, BitVec.or_assoc]
        congr 1
    regs := fun a ha => by
      rw [← e.regs a ha]
      exact hr a fun l hl hs => ha l hl d n b hi (by
        have := (eff_spot e _ _ _ _).1 hs
        exact ⟨this.1, by have := this.2; have := hn l; omega⟩)
    floe := e.floe }

/-- A change of the floe's record that keeps its lanes, its log, its block and the uniform registers that are no destination. -/
theorem eff_modFloe (e : Eff c i fl u) (g : Floe → Floe) (hg : ∀ x, (g x).lanes = x.lanes ∧ (g x).log = x.log ∧ (g x).blkr = x.blkr ∧
    ∀ r : BitVec 8, Opd.ureg r ∉ i.dsts → lookD 0 (g x).uregs r.toNat = lookD 0 x.uregs r.toNat) : Eff c i fl (u.modFloe c.k g) := by
  have hth : ∀ t, (u.modFloe c.k g).thread t = u.thread t := fun t => by unfold State.thread; rw [State.modFloe_threads]
  exact {
    rest := by
      obtain ⟨r, t, x, g0, h⟩ := e.rest
      unfold State.modFloe
      split
      · exact ⟨r, t, _, g0, by unfold State.setFloe; rw [h]⟩
      · exact e.rest
    gen := fun q hq => by unfold State.lfsrOf; rw [State.modFloe_lfsr]; exact e.gen q hq
    other := fun j hj => by
      rw [← e.other j hj]
      unfold State.modFloe State.floe?
      split
      · exact look_put_ne _ _ hj
      · rfl
    thr := fun t => by rw [hth]; exact e.thr t
    pred := fun t p => by unfold State.predOf; rw [hth]; exact e.pred t p
    stat := fun t => by rw [hth]; exact e.stat t
    regs := fun a => by rw [State.modFloe_regs]; exact e.regs a
    floe := fun x hx => by
      obtain ⟨y, hy, h1, h2, h3, h4⟩ := e.floe x hx
      obtain ⟨g1, g2, g3, g4⟩ := hg y
      exact ⟨g y, modFloe_some hy g, g1.trans h1, g2.trans h2, g3.trans h3, fun r hr => (g4 r hr).trans (h4 r hr)⟩ }

/-- A uniform register that is a destination. -/
theorem eff_setUreg (e : Eff c i fl u) {d : BitVec 8} (hd : Opd.ureg d ∈ i.dsts) (w : Word) : Eff c i fl (u.setUreg c.k d.toNat w) := by
  refine eff_modFloe e _ fun x => ⟨rfl, rfl, rfl, fun r hr => ?_⟩
  dsimp only
  rw [lookD_putD, if_neg]
  intro h
  exact hr (BitVec.eq_of_toNat_eq h ▸ hd)

/-- A uniform register that is a destination, with or without a lookahead. -/
theorem eff_uregOut (e : Eff c i fl u) {d : BitVec 8} (hd : Opd.ureg d ∈ i.dsts) (la : Nat) (w : Word) :
    Eff c i fl (c.uregOut u la d.toNat w) := by
  unfold Ctx.uregOut
  split
  · exact eff_setUreg e hd w
  · exact eff_modFloe e _ fun x => ⟨rfl, rfl, rfl, fun _ _ => rfl⟩

/-- Delivering with or without a lookahead. -/
theorem eff_deliver (e : Eff c i fl u) (q : Quiet c.s) (la : Nat) {d : BitVec 8} (hd : d.toNat < 248) {n : Nat} {b : Bool}
    (hi : Opd.reg d n b ∈ i.dsts) (val : Nat → List Word) (hn : ∀ l, (val l).length ≤ n) (g : Nat → Fl) (hg : fl = true ∨ ∀ l, g l = 0) :
    Eff c i fl (c.deliver u la d (c.act.map fun l => (l, val l, g l))) := by
  by_cases hla : la = 0
  · rw [hla]; exact eff_deliver0 e q hd hi val hn g hg
  · unfold Ctx.deliver
    rw [if_neg hla]
    split
    · exact e
    · exact eff_modFloe e _ fun x => ⟨rfl, rfl, rfl, fun _ _ => rfl⟩

/-- A predicate that is a destination, in a present lane. -/
theorem eff_setPred (e : Eff c i fl u) {p : BitVec 8} (hp : Opd.pred p ∈ i.dsts) {l : Nat} (hl : l ∈ c.f.lanes.map (·.1)) (b : Bool) :
    Eff c i fl (u.setPred (c.t l) p.toNat b) := by
  unfold State.setPred
  split
  · exact e
  · next h7 =>
    have hth : ∀ t, (u.modThread (c.t l) fun th => { th with preds := setBit th.preds p.toNat b }).thread t =
        if t = c.t l then { u.thread (c.t l) with preds := setBit (u.thread (c.t l)).preds p.toNat b } else u.thread t :=
      fun t => State.thread_modThread _ _ _ _
    exact {
      rest := by
        obtain ⟨r, t, x, g0, h⟩ := e.rest
        exact ⟨r, _, x, g0, by unfold State.modThread State.setThread; rw [h]⟩
      gen := e.gen
      other := e.other
      thr := fun t => by
        rw [hth]
        split
        · next ht => subst ht; rw [e.thr (c.t l)]
        · exact e.thr t
      pred := fun t r hr hx => by
        rw [← e.pred t r hr hx]
        unfold State.predOf
        split
        · rfl
        · rw [hth]
          split
          · next hr7 ht =>
            subst ht
            have hne : r ≠ p.toNat := by
              rcases hx with hx | hx
              · intro h
                apply hx
                have : BitVec.ofNat 8 r = p := by rw [h]; simp
                rw [this]; exact hp
              · exact absurd rfl (hx l hl)
            have hb : (1#8 <<< p.toNat).getLsbD r = false := by
              simp only [BitVec.getLsbD_shiftLeft, BitVec.getLsbD_one]
              by_cases hlt : r < p.toNat
              · simp [hlt]
              · have : r - p.toNat ≠ 0 := by omega
                simp [this]
            unfold setBit
            dsimp only
            split
            · rw [BitVec.getLsbD_or, hb, Bool.or_false]
            · rw [BitVec.getLsbD_and, BitVec.getLsbD_not, hb]; simp [hr]
          · rfl
      stat := fun t => by
        rw [hth]
        split
        · next ht => subst ht; exact e.stat (c.t l)
        · exact e.stat t
      regs := e.regs
      floe := e.floe }

/-- Sticky flags of an active lane. -/
theorem eff_orFlags (e : Eff c i true u) {l : Nat} (hl : l ∈ c.act) (g : Fl) : Eff c i true (u.orFlags (c.t l) g) := by
  unfold State.orFlags
  split
  · exact e
  · have hth : ∀ t, (u.modThread (c.t l) fun th => { th with status := th.status ||| g.zeroExtend 32 }).thread t =
        if t = c.t l then { u.thread (c.t l) with status := (u.thread (c.t l)).status ||| g.zeroExtend 32 } else u.thread t :=
      fun t => State.thread_modThread _ _ _ _
    exact {
      rest := by
        obtain ⟨r, t, x, g0, h⟩ := e.rest
        exact ⟨r, _, x, g0, by unfold State.modThread State.setThread; rw [h]⟩
      gen := e.gen
      other := e.other
      thr := fun t => by
        rw [hth]
        split
        · next ht => subst ht; rw [e.thr (c.t l)]
        · exact e.thr t
      pred := fun t r hr hx => by
        rw [← e.pred t r hr hx]
        unfold State.predOf
        rw [hth]
        split
        · rfl
        · split
          · next ht => subst ht; rfl
          · rfl
      stat := fun t => by
        rw [hth]
        obtain ⟨h1, z, h2⟩ := e.stat t
        split
        · next ht =>
          subst ht
          refine ⟨fun hx => ?_, z ||| g, ?_⟩
          · rcases hx with hx | hx
            · cases hx
            · exact absurd rfl (hx l hl)
          · dsimp only
            rw [h2, BitVec.or_assoc]
            congr 1
        · exact e.stat t
      regs := e.regs
      floe := e.floe }

/-- Lane by lane. -/
theorem eff_foldl {α : Type} (ls : List α) (g : State → α → State) (hg : ∀ l ∈ ls, ∀ u, Eff c i fl u → Eff c i fl (g u l)) :
    ∀ {u : State}, Eff c i fl u → Eff c i fl (ls.foldl g u) := by
  induction ls with
  | nil => intro u e; exact e
  | cons l ls ih =>
    intro u e
    exact ih (fun m hm => hg m (List.mem_cons_of_mem _ hm)) (hg l List.mem_cons_self u e)

/-- Active lanes are present. -/
theorem act_present (h : issuing i s = some (f, c)) {l : Nat} (hl : l ∈ c.act) : l ∈ c.f.lanes.map (·.1) := by
  rw [issuing_act h] at hl
  have hf : c.f.lanes = f.lanes := by rw [(issuing_floe_ctx h).2.1]
  rw [hf]
  exact (List.mem_filter.1 hl).1

/-- Predicate results of an integer instruction. -/
theorem eff_predOut (h : issuing i s = some (f, c)) (e : Eff c i fl u) (o : IntOps) {p : BitVec 8} (hp : Opd.pred p ∈ i.dsts) (val : Nat → Bool) :
    Eff c i fl (c.predOut u o p val) := by
  unfold Ctx.predOut
  split
  · exact eff_foldl _ _ (fun l hl u e => eff_setPred e hp hl _) e
  · exact eff_foldl _ _ (fun l hl u e => eff_setPred e hp (act_present h hl) _) e

/-- Words of an integer instruction. -/
theorem eff_intOut (e : Eff c i fl u) (q : Quiet c.s) (o : IntOps) {n : Nat} (hi : intOpd o.form o.d n ∈ i.dsts)
    (hd : o.form.isK = false → o.d.toNat < 248) (val : Nat → List Word) (hn : ∀ l, (val l).length ≤ n) : Eff c i fl (c.intOut u o val) := by
  unfold Ctx.intOut
  unfold intOpd at hi
  split
  · next hk => rw [hk] at hi; exact eff_uregOut e hi _ _
  · next hk =>
    rw [if_neg hk] at hi
    exact eff_deliver e q _ (hd (by simpa using hk)) hi val hn _ (.inr fun _ => rfl)

/-- An instruction that changed no more than `Eff` says leaves, once its floe has gone on, everything else as it was. -/
theorem frame_of_eff (h : issuing i s = some (f, c)) (hc : s.calm = true) (e : Eff c i fl u) : c.frame i fl s (u.completed c.k f) := by
  have q := eff_quiet e (quiet_of h hc)
  have hcs : c.s = { s with floes := c.s.floes } := by
    rcases (issuing_floe_ctx h).2.2 with h' | h' <;> rw [h']; rfl
  have hcf : ∀ j, j ≠ c.k → c.s.floe? j = s.floe? j := by
    intro j hj
    rcases (issuing_floe_ctx h).2.2 with h' | h' <;> rw [h']
    exact look_put_ne _ _ hj
  have hct : ∀ t, c.s.thread t = s.thread t := fun t => by rw [hcs]; rfl
  have hcr : c.s.regs = s.regs := by rw [hcs]
  have hcl : c.s.lfsr = s.lfsr := by rw [hcs]
  have hcc : c.s.csrs = s.csrs := by rw [hcs]
  obtain ⟨r, t, x, g, hu⟩ := e.rest
  have hus : s.sameRest u := by
    unfold State.sameRest
    rw [hu, hcs]
  have hrest : s.sameRest (u.completed c.k f) := sameRest_trans hus (completed_sameRest q.still)
  have huc : u.csrs = s.csrs := by rw [hu]; exact hcc
  refine ⟨hrest, ?_, ?_, ?_, ?_, ?_, ?_, ?_, ?_, ?_⟩
  · rw [hrest]
    exact ⟨fun _ => rfl, fun _ => rfl, fun _ => rfl, fun _ => rfl, fun _ => rfl⟩
  · intro core n h1 h2 h3
    rw [completed_csr q.still core n h1 h2 h3]
    unfold State.csr
    rw [huc]
  · intro j hj
    rw [completed_floe_ne q.still hj, e.other j hj, hcf j hj]
  · intro j hj
    unfold State.lfsrOf
    rw [completed_lfsr q.still, ← hcl]
    exact e.gen j hj
  · intro t
    have h1 := e.thr t
    rw [hct] at h1
    rcases completed_thread (k := c.k) (f := f) q.still t with h2 | h2
    · left; rw [h2]; exact h1
    · right; rw [h2, h1]
  · intro t p hp hx
    have h0 : (u.completed c.k f).predOf t p = u.predOf t p := by
      unfold State.predOf
      rcases completed_thread (k := c.k) (f := f) q.still t with h2 | h2 <;> rw [h2]
    rw [h0, e.pred t p hp hx]
    unfold State.predOf
    rw [hct]
  · intro t
    have h0 : ((u.completed c.k f).thread t).status = (u.thread t).status := by
      rcases completed_thread (k := c.k) (f := f) q.still t with h2 | h2 <;> rw [h2]
    rw [h0, ← hct]
    exact e.stat t
  · intro a ha
    rw [completed_regs q.still, ← hcr]
    refine e.regs a fun l hl d n b hd hs => ha l hl d n b hd ?_
    unfold Ctx.spot at hs ⊢
    rw [← hct]
    exact hs
  · intro x hx
    have hfc := (issuing_floe_ctx h).1
    have hxf : x = f := Option.some.inj (hx.symm.trans (issuing_floe h))
    obtain ⟨y, hy, h1, h2, h3, h4⟩ := e.floe c.f hfc
    obtain ⟨z, hz, -, z1, z2, -, -, -, -, z3, -, z4, -⟩ := completed_floe (f := f) q.still hy
    have hff := (issuing_floe_ctx h).2.1
    refine ⟨z, hz, z3.trans (h1.trans (by rw [hff, hxf])), z2.trans (h2.trans (by rw [hff, hxf])), z4.trans (h3.trans (by rw [hff, hxf])),
      fun r hr => ?_⟩
    · rw [z1, h4 r hr, hff, hxf]

end Sys2Proof.Machine
end

