-- ==== Sys2Proof/Laws/PerInstr.lean ====
section
/-! SUPPORT. What every instruction's encoding says of its guard and its lookahead, constructor by constructor. -/

namespace Sys2Proof.Laws.Heads

open Sys2Proof

/-- The slot of an instruction carries the lookahead and, but for `nop` (R71), the guard that its record holds. -/
def Statement (i : Instr) : Prop := ∀ t, i.slot? = some t → t.la = i.head.la ∧ (i = .nop ∨ (t.neg = i.head.neg1 ∧ t.pred = i.head.pred))

theorem nop : Statement .nop := by rintro t ⟨⟩; exact ⟨rfl, .inl rfl⟩
theorem mov : ∀ x0, Statement (.mov x0) := by rintro x0 t ⟨⟩; exact ⟨rfl, .inr ⟨rfl, rfl⟩⟩
theorem movi : ∀ x0, Statement (.movi x0) := by rintro x0 t ⟨⟩; exact ⟨rfl, .inr ⟨rfl, rfl⟩⟩
theorem movs : ∀ x0, Statement (.movs x0) := by rintro x0 t ⟨⟩; exact ⟨rfl, .inr ⟨rfl, rfl⟩⟩
theorem movkToLane : ∀ x0, Statement (.movkToLane x0) := by rintro x0 t ⟨⟩; exact ⟨rfl, .inr ⟨rfl, rfl⟩⟩
theorem movkToUniform : ∀ x0, Statement (.movkToUniform x0) := by rintro x0 t ⟨⟩; exact ⟨rfl, .inr ⟨rfl, rfl⟩⟩
theorem iadd : ∀ x0, Statement (.iadd x0) := by rintro x0 t ⟨⟩; exact ⟨rfl, .inr ⟨rfl, rfl⟩⟩
theorem iaddc : ∀ x0, Statement (.iaddc x0) := by rintro x0 t ⟨⟩; exact ⟨rfl, .inr ⟨rfl, rfl⟩⟩
theorem isub : ∀ x0, Statement (.isub x0) := by rintro x0 t ⟨⟩; exact ⟨rfl, .inr ⟨rfl, rfl⟩⟩
theorem imul : ∀ x0, Statement (.imul x0) := by rintro x0 t ⟨⟩; exact ⟨rfl, .inr ⟨rfl, rfl⟩⟩
theorem imulh : ∀ x0, Statement (.imulh x0) := by rintro x0 t ⟨⟩; exact ⟨rfl, .inr ⟨rfl, rfl⟩⟩
theorem imad : ∀ x0, Statement (.imad x0) := by rintro x0 t ⟨⟩; exact ⟨rfl, .inr ⟨rfl, rfl⟩⟩
theorem imadw : ∀ x0, Statement (.imadw x0) := by rintro x0 t ⟨⟩; exact ⟨rfl, .inr ⟨rfl, rfl⟩⟩
theorem idiv : ∀ x0, Statement (.idiv x0) := by rintro x0 t ⟨⟩; exact ⟨rfl, .inr ⟨rfl, rfl⟩⟩
theorem irem : ∀ x0, Statement (.irem x0) := by rintro x0 t ⟨⟩; exact ⟨rfl, .inr ⟨rfl, rfl⟩⟩
theorem imin : ∀ x0, Statement (.imin x0) := by rintro x0 t ⟨⟩; exact ⟨rfl, .inr ⟨rfl, rfl⟩⟩
theorem imax : ∀ x0, Statement (.imax x0) := by rintro x0 t ⟨⟩; exact ⟨rfl, .inr ⟨rfl, rfl⟩⟩
theorem iabs : ∀ x0, Statement (.iabs x0) := by rintro x0 t ⟨⟩; exact ⟨rfl, .inr ⟨rfl, rfl⟩⟩
theorem ineg : ∀ x0, Statement (.ineg x0) := by rintro x0 t ⟨⟩; exact ⟨rfl, .inr ⟨rfl, rfl⟩⟩
theorem and : ∀ x0, Statement (.and x0) := by rintro x0 t ⟨⟩; exact ⟨rfl, .inr ⟨rfl, rfl⟩⟩
theorem or : ∀ x0, Statement (.or x0) := by rintro x0 t ⟨⟩; exact ⟨rfl, .inr ⟨rfl, rfl⟩⟩
theorem xor : ∀ x0, Statement (.xor x0) := by rintro x0 t ⟨⟩; exact ⟨rfl, .inr ⟨rfl, rfl⟩⟩
theorem not : ∀ x0, Statement (.not x0) := by rintro x0 t ⟨⟩; exact ⟨rfl, .inr ⟨rfl, rfl⟩⟩
theorem shl : ∀ x0, Statement (.shl x0) := by rintro x0 t ⟨⟩; exact ⟨rfl, .inr ⟨rfl, rfl⟩⟩
theorem shr : ∀ x0, Statement (.shr x0) := by rintro x0 t ⟨⟩; exact ⟨rfl, .inr ⟨rfl, rfl⟩⟩
theorem sar : ∀ x0, Statement (.sar x0) := by rintro x0 t ⟨⟩; exact ⟨rfl, .inr ⟨rfl, rfl⟩⟩
theorem rol : ∀ x0, Statement (.rol x0) := by rintro x0 t ⟨⟩; exact ⟨rfl, .inr ⟨rfl, rfl⟩⟩
theorem bfe : ∀ x0, Statement (.bfe x0) := by rintro x0 t ⟨⟩; exact ⟨rfl, .inr ⟨rfl, rfl⟩⟩
theorem bfi : ∀ x0, Statement (.bfi x0) := by rintro x0 t ⟨⟩; exact ⟨rfl, .inr ⟨rfl, rfl⟩⟩
theorem popc : ∀ x0, Statement (.popc x0) := by rintro x0 t ⟨⟩; exact ⟨rfl, .inr ⟨rfl, rfl⟩⟩
theorem clz : ∀ x0, Statement (.clz x0) := by rintro x0 t ⟨⟩; exact ⟨rfl, .inr ⟨rfl, rfl⟩⟩
theorem ctz : ∀ x0, Statement (.ctz x0) := by rintro x0 t ⟨⟩; exact ⟨rfl, .inr ⟨rfl, rfl⟩⟩
theorem brev : ∀ x0, Statement (.brev x0) := by rintro x0 t ⟨⟩; exact ⟨rfl, .inr ⟨rfl, rfl⟩⟩
theorem prm : ∀ x0, Statement (.prm x0) := by rintro x0 t ⟨⟩; exact ⟨rfl, .inr ⟨rfl, rfl⟩⟩
theorem icmp : ∀ x0, Statement (.icmp x0) := by rintro x0 t ⟨⟩; exact ⟨rfl, .inr ⟨rfl, rfl⟩⟩
theorem sel : ∀ x0, Statement (.sel x0) := by rintro x0 t ⟨⟩; exact ⟨rfl, .inr ⟨rfl, rfl⟩⟩
theorem plop : ∀ x0, Statement (.plop x0) := by rintro x0 t ⟨⟩; exact ⟨rfl, .inr ⟨rfl, rfl⟩⟩
theorem padd : ∀ x0, Statement (.padd x0) := by rintro x0 t ⟨⟩; exact ⟨rfl, .inr ⟨rfl, rfl⟩⟩
theorem psub : ∀ x0, Statement (.psub x0) := by rintro x0 t ⟨⟩; exact ⟨rfl, .inr ⟨rfl, rfl⟩⟩
theorem pcmp : ∀ x0, Statement (.pcmp x0) := by rintro x0 t ⟨⟩; exact ⟨rfl, .inr ⟨rfl, rfl⟩⟩
theorem pbnd : ∀ x0, Statement (.pbnd x0) := by rintro x0 t ⟨⟩; exact ⟨rfl, .inr ⟨rfl, rfl⟩⟩
theorem fadd : ∀ x0, Statement (.fadd x0) := by rintro x0 t ⟨⟩; exact ⟨rfl, .inr ⟨rfl, rfl⟩⟩
theorem fsub : ∀ x0, Statement (.fsub x0) := by rintro x0 t ⟨⟩; exact ⟨rfl, .inr ⟨rfl, rfl⟩⟩
theorem fmul : ∀ x0, Statement (.fmul x0) := by rintro x0 t ⟨⟩; exact ⟨rfl, .inr ⟨rfl, rfl⟩⟩
theorem ffma : ∀ x0, Statement (.ffma x0) := by rintro x0 t ⟨⟩; exact ⟨rfl, .inr ⟨rfl, rfl⟩⟩
theorem fmin : ∀ x0, Statement (.fmin x0) := by rintro x0 t ⟨⟩; exact ⟨rfl, .inr ⟨rfl, rfl⟩⟩
theorem fmax : ∀ x0, Statement (.fmax x0) := by rintro x0 t ⟨⟩; exact ⟨rfl, .inr ⟨rfl, rfl⟩⟩
theorem fabs : ∀ x0, Statement (.fabs x0) := by rintro x0 t ⟨⟩; exact ⟨rfl, .inr ⟨rfl, rfl⟩⟩
theorem fneg : ∀ x0, Statement (.fneg x0) := by rintro x0 t ⟨⟩; exact ⟨rfl, .inr ⟨rfl, rfl⟩⟩
theorem fcmp : ∀ x0, Statement (.fcmp x0) := by rintro x0 t ⟨⟩; exact ⟨rfl, .inr ⟨rfl, rfl⟩⟩
theorem fdiv : ∀ x0, Statement (.fdiv x0) := by rintro x0 t ⟨⟩; exact ⟨rfl, .inr ⟨rfl, rfl⟩⟩
theorem fsqrt : ∀ x0, Statement (.fsqrt x0) := by rintro x0 t ⟨⟩; exact ⟨rfl, .inr ⟨rfl, rfl⟩⟩
theorem frcp : ∀ x0, Statement (.frcp x0) := by rintro x0 t ⟨⟩; exact ⟨rfl, .inr ⟨rfl, rfl⟩⟩
theorem frsq : ∀ x0, Statement (.frsq x0) := by rintro x0 t ⟨⟩; exact ⟨rfl, .inr ⟨rfl, rfl⟩⟩
theorem fex2 : ∀ x0, Statement (.fex2 x0) := by rintro x0 t ⟨⟩; exact ⟨rfl, .inr ⟨rfl, rfl⟩⟩
theorem flg2 : ∀ x0, Statement (.flg2 x0) := by rintro x0 t ⟨⟩; exact ⟨rfl, .inr ⟨rfl, rfl⟩⟩
theorem fsin : ∀ x0, Statement (.fsin x0) := by rintro x0 t ⟨⟩; exact ⟨rfl, .inr ⟨rfl, rfl⟩⟩
theorem fcos : ∀ x0, Statement (.fcos x0) := by rintro x0 t ⟨⟩; exact ⟨rfl, .inr ⟨rfl, rfl⟩⟩
theorem frnd : ∀ x0, Statement (.frnd x0) := by rintro x0 t ⟨⟩; exact ⟨rfl, .inr ⟨rfl, rfl⟩⟩
theorem fclass : ∀ x0, Statement (.fclass x0) := by rintro x0 t ⟨⟩; exact ⟨rfl, .inr ⟨rfl, rfl⟩⟩
theorem cvt : ∀ x0, Statement (.cvt x0) := by rintro x0 t ⟨⟩; exact ⟨rfl, .inr ⟨rfl, rfl⟩⟩
theorem idp4 : ∀ x0, Statement (.idp4 x0) := by rintro x0 t ⟨⟩; exact ⟨rfl, .inr ⟨rfl, rfl⟩⟩
theorem idp8 : ∀ x0, Statement (.idp8 x0) := by rintro x0 t ⟨⟩; exact ⟨rfl, .inr ⟨rfl, rfl⟩⟩
theorem fdp2 : ∀ x0, Statement (.fdp2 x0) := by rintro x0 t ⟨⟩; exact ⟨rfl, .inr ⟨rfl, rfl⟩⟩
theorem atab : ∀ x0, Statement (.atab x0) := by rintro x0 t ⟨⟩; exact ⟨rfl, .inr ⟨rfl, rfl⟩⟩
theorem amul : ∀ x0, Statement (.amul x0) := by rintro x0 t ⟨⟩; exact ⟨rfl, .inr ⟨rfl, rfl⟩⟩
theorem amac : ∀ x0, Statement (.amac x0) := by rintro x0 t ⟨⟩; exact ⟨rfl, .inr ⟨rfl, rfl⟩⟩
theorem aconj : ∀ x0, Statement (.aconj x0) := by rintro x0 t ⟨⟩; exact ⟨rfl, .inr ⟨rfl, rfl⟩⟩
theorem anorm : ∀ x0, Statement (.anorm x0) := by rintro x0 t ⟨⟩; exact ⟨rfl, .inr ⟨rfl, rfl⟩⟩
theorem aadd : ∀ x0, Statement (.aadd x0) := by rintro x0 t ⟨⟩; exact ⟨rfl, .inr ⟨rfl, rfl⟩⟩
theorem ascl : ∀ x0, Statement (.ascl x0) := by rintro x0 t ⟨⟩; exact ⟨rfl, .inr ⟨rfl, rfl⟩⟩
theorem qswp : ∀ x0, Statement (.qswp x0) := by rintro x0 t ⟨⟩; exact ⟨rfl, .inr ⟨rfl, rfl⟩⟩
theorem qdx : ∀ x0, Statement (.qdx x0) := by rintro x0 t ⟨⟩; exact ⟨rfl, .inr ⟨rfl, rfl⟩⟩
theorem qdy : ∀ x0, Statement (.qdy x0) := by rintro x0 t ⟨⟩; exact ⟨rfl, .inr ⟨rfl, rfl⟩⟩
theorem vote : ∀ x0, Statement (.vote x0) := by rintro x0 t ⟨⟩; exact ⟨rfl, .inr ⟨rfl, rfl⟩⟩
theorem shfl : ∀ x0, Statement (.shfl x0) := by rintro x0 t ⟨⟩; exact ⟨rfl, .inr ⟨rfl, rfl⟩⟩
theorem redi : ∀ x0, Statement (.redi x0) := by rintro x0 t ⟨⟩; exact ⟨rfl, .inr ⟨rfl, rfl⟩⟩
theorem redf : ∀ x0, Statement (.redf x0) := by rintro x0 t ⟨⟩; exact ⟨rfl, .inr ⟨rfl, rfl⟩⟩
theorem scan : ∀ x0, Statement (.scan x0) := by rintro x0 t ⟨⟩; exact ⟨rfl, .inr ⟨rfl, rfl⟩⟩
theorem matchAny : ∀ x0, Statement (.matchAny x0) := by rintro x0 t ⟨⟩; exact ⟨rfl, .inr ⟨rfl, rfl⟩⟩
theorem elect : ∀ x0, Statement (.elect x0) := by rintro x0 t ⟨⟩; exact ⟨rfl, .inr ⟨rfl, rfl⟩⟩
theorem next : ∀ x0, Statement (.next x0) := by rintro x0 t ⟨⟩; exact ⟨rfl, .inr ⟨rfl, rfl⟩⟩
theorem nexti : ∀ x0, Statement (.nexti x0) := by rintro x0 t ⟨⟩; exact ⟨rfl, .inr ⟨rfl, rfl⟩⟩
theorem brv : ∀ x0 x1 x2, Statement (.brv x0 x1 x2) := by rintro x0 x1 x2 t ⟨⟩; exact ⟨rfl, .inr ⟨rfl, rfl⟩⟩
theorem call : ∀ x0 x1 x2, Statement (.call x0 x1 x2) := by rintro x0 x1 x2 t ⟨⟩; exact ⟨rfl, .inr ⟨rfl, rfl⟩⟩
theorem ret : ∀ x0, Statement (.ret x0) := by rintro x0 t ⟨⟩; exact ⟨rfl, .inr ⟨rfl, rfl⟩⟩
theorem spawn : ∀ x0, Statement (.spawn x0) := by rintro x0 t ⟨⟩; exact ⟨rfl, .inr ⟨rfl, rfl⟩⟩
theorem exit : Statement .exit := by rintro t ⟨⟩; exact ⟨rfl, .inr ⟨rfl, rfl⟩⟩
theorem yield : ∀ x0, Statement (.yield x0) := by rintro x0 t ⟨⟩; exact ⟨rfl, .inr ⟨rfl, rfl⟩⟩
theorem barArw : ∀ x0, Statement (.barArw x0) := by rintro x0 t ⟨⟩; exact ⟨rfl, .inr ⟨rfl, rfl⟩⟩
theorem barArv : ∀ x0, Statement (.barArv x0) := by rintro x0 t ⟨⟩; exact ⟨rfl, .inr ⟨rfl, rfl⟩⟩
theorem barWt : ∀ x0, Statement (.barWt x0) := by rintro x0 t ⟨⟩; exact ⟨rfl, .inr ⟨rfl, rfl⟩⟩
theorem barExp : ∀ x0, Statement (.barExp x0) := by rintro x0 t ⟨⟩; exact ⟨rfl, .inr ⟨rfl, rfl⟩⟩
theorem barinit : ∀ x0 x1 x2 x3, Statement (.barinit x0 x1 x2 x3) := by rintro x0 x1 x2 x3 t ⟨⟩; exact ⟨rfl, .inr ⟨rfl, rfl⟩⟩
theorem trap : ∀ x0 x1, Statement (.trap x0 x1) := by rintro x0 x1 t ⟨⟩; exact ⟨rfl, .inr ⟨rfl, rfl⟩⟩
theorem featq : ∀ x0 x1 x2, Statement (.featq x0 x1 x2) := by rintro x0 x1 x2 t ⟨⟩; exact ⟨rfl, .inr ⟨rfl, rfl⟩⟩
theorem featqBit : ∀ x0 x1 x2, Statement (.featqBit x0 x1 x2) := by rintro x0 x1 x2 t ⟨⟩; exact ⟨rfl, .inr ⟨rfl, rfl⟩⟩
theorem ld : ∀ x0, Statement (.ld x0) := by rintro x0 t ⟨⟩; exact ⟨rfl, .inr ⟨rfl, rfl⟩⟩
theorem st : ∀ x0, Statement (.st x0) := by rintro x0 t ⟨⟩; exact ⟨rfl, .inr ⟨rfl, rfl⟩⟩
theorem lds : ∀ x0, Statement (.lds x0) := by rintro x0 t ⟨⟩; exact ⟨rfl, .inr ⟨rfl, rfl⟩⟩
theorem sts : ∀ x0, Statement (.sts x0) := by rintro x0 t ⟨⟩; exact ⟨rfl, .inr ⟨rfl, rfl⟩⟩
theorem satt : ∀ x0, Statement (.satt x0) := by rintro x0 t ⟨⟩; exact ⟨rfl, .inr ⟨rfl, rfl⟩⟩
theorem sdet : ∀ x0, Statement (.sdet x0) := by rintro x0 t ⟨⟩; exact ⟨rfl, .inr ⟨rfl, rfl⟩⟩
theorem atom : ∀ x0, Statement (.atom x0) := by rintro x0 t ⟨⟩; exact ⟨rfl, .inr ⟨rfl, rfl⟩⟩
theorem red : ∀ x0, Statement (.red x0) := by rintro x0 t ⟨⟩; exact ⟨rfl, .inr ⟨rfl, rfl⟩⟩
theorem lr : ∀ x0, Statement (.lr x0) := by rintro x0 t ⟨⟩; exact ⟨rfl, .inr ⟨rfl, rfl⟩⟩
theorem sc : ∀ x0, Statement (.sc x0) := by rintro x0 t ⟨⟩; exact ⟨rfl, .inr ⟨rfl, rfl⟩⟩
theorem fence : ∀ x0 x1 x2, Statement (.fence x0 x1 x2) := by rintro x0 x1 x2 t ⟨⟩; exact ⟨rfl, .inr ⟨rfl, rfl⟩⟩
theorem commit : Statement .commit := by rintro t ⟨⟩; exact ⟨rfl, .inr ⟨rfl, rfl⟩⟩
theorem stag : ∀ x0, Statement (.stag x0) := by rintro x0 t ⟨⟩; exact ⟨rfl, .inr ⟨rfl, rfl⟩⟩
theorem ldtag : ∀ x0, Statement (.ldtag x0) := by rintro x0 t ⟨⟩; exact ⟨rfl, .inr ⟨rfl, rfl⟩⟩
theorem mma : ∀ x0, Statement (.mma x0) := by rintro x0 t ⟨⟩; exact ⟨rfl, .inr ⟨rfl, rfl⟩⟩
theorem mwait : Statement .mwait := by rintro t ⟨⟩; exact ⟨rfl, .inr ⟨rfl, rfl⟩⟩
theorem mfence : Statement .mfence := by rintro t ⟨⟩; exact ⟨rfl, .inr ⟨rfl, rfl⟩⟩
theorem aalloc : ∀ x0, Statement (.aalloc x0) := by rintro x0 t ⟨⟩; exact ⟨rfl, .inr ⟨rfl, rfl⟩⟩
theorem afree : ∀ x0, Statement (.afree x0) := by rintro x0 t ⟨⟩; exact ⟨rfl, .inr ⟨rfl, rfl⟩⟩
theorem accr : ∀ x0, Statement (.accr x0) := by rintro x0 t ⟨⟩; exact ⟨rfl, .inr ⟨rfl, rfl⟩⟩
theorem accw : ∀ x0, Statement (.accw x0) := by rintro x0 t ⟨⟩; exact ⟨rfl, .inr ⟨rfl, rfl⟩⟩
theorem accz : ∀ x0, Statement (.accz x0) := by rintro x0 t ⟨⟩; exact ⟨rfl, .inr ⟨rfl, rfl⟩⟩
theorem accst : ∀ x0, Statement (.accst x0) := by rintro x0 t ⟨⟩; exact ⟨rfl, .inr ⟨rfl, rfl⟩⟩
theorem accld : ∀ x0, Statement (.accld x0) := by rintro x0 t ⟨⟩; exact ⟨rfl, .inr ⟨rfl, rfl⟩⟩
theorem cpbox : ∀ x0, Statement (.cpbox x0) := by rintro x0 t ⟨⟩; exact ⟨rfl, .inr ⟨rfl, rfl⟩⟩
theorem cpred : ∀ x0, Statement (.cpred x0) := by rintro x0 t ⟨⟩; exact ⟨rfl, .inr ⟨rfl, rfl⟩⟩
theorem tmov : ∀ x0, Statement (.tmov x0) := by rintro x0 t ⟨⟩; exact ⟨rfl, .inr ⟨rfl, rfl⟩⟩
theorem mapr : ∀ x0, Statement (.mapr x0) := by rintro x0 t ⟨⟩; exact ⟨rfl, .inr ⟨rfl, rfl⟩⟩
theorem wback : ∀ x0 x1 x2, Statement (.wback x0 x1 x2) := by rintro x0 x1 x2 t ⟨⟩; exact ⟨rfl, .inr ⟨rfl, rfl⟩⟩
theorem unmapr : ∀ x0 x1 x2, Statement (.unmapr x0 x1 x2) := by rintro x0 x1 x2 t ⟨⟩; exact ⟨rfl, .inr ⟨rfl, rfl⟩⟩
theorem cbinit : ∀ x0, Statement (.cbinit x0) := by rintro x0 t ⟨⟩; exact ⟨rfl, .inr ⟨rfl, rfl⟩⟩
theorem cbacq : ∀ x0 x1 x2, Statement (.cbacq x0 x1 x2) := by rintro x0 x1 x2 t ⟨⟩; exact ⟨rfl, .inr ⟨rfl, rfl⟩⟩
theorem cbrel : ∀ x0 x1, Statement (.cbrel x0 x1) := by rintro x0 x1 t ⟨⟩; exact ⟨rfl, .inr ⟨rfl, rfl⟩⟩
theorem dopen : ∀ x0, Statement (.dopen x0) := by rintro x0 t ⟨⟩; exact ⟨rfl, .inr ⟨rfl, rfl⟩⟩
theorem dopenW : ∀ x0, Statement (.dopenW x0) := by rintro x0 t ⟨⟩; exact ⟨rfl, .inr ⟨rfl, rfl⟩⟩
theorem dclose : ∀ x0, Statement (.dclose x0) := by rintro x0 t ⟨⟩; exact ⟨rfl, .inr ⟨rfl, rfl⟩⟩
theorem dbind : ∀ x0, Statement (.dbind x0) := by rintro x0 t ⟨⟩; exact ⟨rfl, .inr ⟨rfl, rfl⟩⟩
theorem dunbind : ∀ x0, Statement (.dunbind x0) := by rintro x0 t ⟨⟩; exact ⟨rfl, .inr ⟨rfl, rfl⟩⟩
theorem dptr : ∀ x0, Statement (.dptr x0) := by rintro x0 t ⟨⟩; exact ⟨rfl, .inr ⟨rfl, rfl⟩⟩
theorem dquery : ∀ x0 x1, Statement (.dquery x0 x1) := by rintro x0 x1 t ⟨⟩; exact ⟨rfl, .inr ⟨rfl, rfl⟩⟩
theorem csrr : ∀ x0 x1 x2, Statement (.csrr x0 x1 x2) := by rintro x0 x1 x2 t ⟨⟩; exact ⟨rfl, .inr ⟨rfl, rfl⟩⟩
theorem csrw : ∀ x0 x1 x2, Statement (.csrw x0 x1 x2) := by rintro x0 x1 x2 t ⟨⟩; exact ⟨rfl, .inr ⟨rfl, rfl⟩⟩
theorem csrwSet : ∀ x0 x1 x2, Statement (.csrwSet x0 x1 x2) := by rintro x0 x1 x2 t ⟨⟩; exact ⟨rfl, .inr ⟨rfl, rfl⟩⟩
theorem csrwClr : ∀ x0 x1 x2, Statement (.csrwClr x0 x1 x2) := by rintro x0 x1 x2 t ⟨⟩; exact ⟨rfl, .inr ⟨rfl, rfl⟩⟩
theorem eret : ∀ x0, Statement (.eret x0) := by rintro x0 t ⟨⟩; exact ⟨rfl, .inr ⟨rfl, rfl⟩⟩
theorem haltGrid : ∀ x0, Statement (.haltGrid x0) := by rintro x0 t ⟨⟩; exact ⟨rfl, .inr ⟨rfl, rfl⟩⟩
theorem haltCtx : ∀ x0, Statement (.haltCtx x0) := by rintro x0 t ⟨⟩; exact ⟨rfl, .inr ⟨rfl, rfl⟩⟩
theorem brk : ∀ x0 x1 x2, Statement (.brk x0 x1 x2) := by rintro x0 x1 x2 t ⟨⟩; exact ⟨rfl, .inr ⟨rfl, rfl⟩⟩
theorem prog : ∀ x0 x1, Statement (.prog x0 x1) := by rintro x0 x1 t ⟨⟩; exact ⟨rfl, .inr ⟨rfl, rfl⟩⟩
theorem mark : ∀ x0 x1, Statement (.mark x0 x1) := by rintro x0 x1 t ⟨⟩; exact ⟨rfl, .inr ⟨rfl, rfl⟩⟩
theorem markValue : ∀ x0 x1 x2, Statement (.markValue x0 x1 x2) := by rintro x0 x1 x2 t ⟨⟩; exact ⟨rfl, .inr ⟨rfl, rfl⟩⟩
theorem resultWrite : ∀ x0 x1, Statement (.resultWrite x0 x1) := by rintro x0 x1 t ⟨⟩
theorem bankService : ∀ x0 x1 x2 x3, Statement (.bankService x0 x1 x2 x3) := by rintro x0 x1 x2 x3 t ⟨⟩
theorem homeAccess : ∀ x0, Statement (.homeAccess x0) := by rintro x0 t ⟨⟩
theorem writeAcknowledgement : ∀ x0, Statement (.writeAcknowledgement x0) := by rintro x0 t ⟨⟩
theorem streamElementArrival : ∀ x0 x1 x2, Statement (.streamElementArrival x0 x1 x2) := by rintro x0 x1 x2 t ⟨⟩
theorem barrierCompletionMulticast : ∀ x0, Statement (.barrierCompletionMulticast x0) := by rintro x0 t ⟨⟩
theorem binTimerExpire : ∀ x0 x1, Statement (.binTimerExpire x0 x1) := by rintro x0 x1 t ⟨⟩
theorem floeLaunch : ∀ x0, Statement (.floeLaunch x0) := by rintro x0 t ⟨⟩
theorem floeDemote : ∀ x0, Statement (.floeDemote x0) := by rintro x0 t ⟨⟩
theorem floeExhaustion : ∀ x0, Statement (.floeExhaustion x0) := by rintro x0 t ⟨⟩
theorem spawnResume : ∀ x0, Statement (.spawnResume x0) := by rintro x0 t ⟨⟩
theorem reservationHoldExpire : ∀ x0, Statement (.reservationHoldExpire x0) := by rintro x0 t ⟨⟩
theorem arbiterGrant : ∀ x0 x1, Statement (.arbiterGrant x0 x1) := by rintro x0 x1 t ⟨⟩
theorem mmaPassEnd : ∀ x0, Statement (.mmaPassEnd x0) := by rintro x0 t ⟨⟩
theorem mmaComplete : ∀ x0, Statement (.mmaComplete x0) := by rintro x0 t ⟨⟩
theorem mmaRetry : ∀ x0, Statement (.mmaRetry x0) := by rintro x0 t ⟨⟩
theorem copySlotClaim : ∀ x0 x1, Statement (.copySlotClaim x0 x1) := by rintro x0 x1 t ⟨⟩
theorem copyComplete : ∀ x0, Statement (.copyComplete x0) := by rintro x0 t ⟨⟩
theorem mapFillComplete : ∀ x0, Statement (.mapFillComplete x0) := by rintro x0 t ⟨⟩
theorem writebackComplete : ∀ x0, Statement (.writebackComplete x0) := by rintro x0 t ⟨⟩
theorem dopenTimeout : ∀ x0 x1, Statement (.dopenTimeout x0 x1) := by rintro x0 x1 t ⟨⟩
theorem gridStop : ∀ x0 x1, Statement (.gridStop x0 x1) := by rintro x0 x1 t ⟨⟩
theorem tlbWalkComplete : ∀ x0 x1 x2 x3, Statement (.tlbWalkComplete x0 x1 x2 x3) := by rintro x0 x1 x2 x3 t ⟨⟩
theorem pageRequestGroupSend : ∀ x0 x1, Statement (.pageRequestGroupSend x0 x1) := by rintro x0 x1 t ⟨⟩
theorem prgResponse : ∀ x0 x1 x2, Statement (.prgResponse x0 x1 x2) := by rintro x0 x1 x2 t ⟨⟩
theorem taskReplace : ∀ x0, Statement (.taskReplace x0) := by rintro x0 t ⟨⟩
theorem atsTranslationCompletion : ∀ x0 x1 x2 x3 x4 x5 x6, Statement (.atsTranslationCompletion x0 x1 x2 x3 x4 x5 x6) := by rintro x0 x1 x2 x3 x4 x5 x6 t ⟨⟩
theorem atsInvalidateRequest : ∀ x0 x1 x2, Statement (.atsInvalidateRequest x0 x1 x2) := by rintro x0 x1 x2 t ⟨⟩
theorem invalidationComplete : ∀ x0, Statement (.invalidationComplete x0) := by rintro x0 t ⟨⟩
theorem segmentRequest : ∀ x0, Statement (.segmentRequest x0) := by rintro x0 t ⟨⟩
theorem segmentDelivery : ∀ x0 x1 x2 x3, Statement (.segmentDelivery x0 x1 x2 x3) := by rintro x0 x1 x2 x3 t ⟨⟩
theorem launchRecord : ∀ x0 x1 x2 x3, Statement (.launchRecord x0 x1 x2 x3) := by rintro x0 x1 x2 x3 t ⟨⟩
theorem deviceSideLaunch : ∀ x0, Statement (.deviceSideLaunch x0) := by rintro x0 t ⟨⟩
theorem driftDistribution : ∀ x0, Statement (.driftDistribution x0) := by rintro x0 t ⟨⟩
theorem blockPlace : ∀ x0 x1, Statement (.blockPlace x0 x1) := by rintro x0 x1 t ⟨⟩
theorem shareScrubComplete : ∀ x0, Statement (.shareScrubComplete x0) := by rintro x0 t ⟨⟩
theorem gridEnd : ∀ x0, Statement (.gridEnd x0) := by rintro x0 t ⟨⟩
theorem contextPreempt : ∀ x0, Statement (.contextPreempt x0) := by rintro x0 t ⟨⟩
theorem contextResume : ∀ x0, Statement (.contextResume x0) := by rintro x0 t ⟨⟩
theorem preempt : ∀ x0 x1, Statement (.preempt x0 x1) := by rintro x0 x1 t ⟨⟩
theorem stopBlock : ∀ x0, Statement (.stopBlock x0) := by rintro x0 t ⟨⟩
theorem haltGridCommand : ∀ x0, Statement (.haltGridCommand x0) := by rintro x0 t ⟨⟩
theorem haltContext : ∀ x0, Statement (.haltContext x0) := by rintro x0 t ⟨⟩
theorem resume : ∀ x0, Statement (.resume x0) := by rintro x0 t ⟨⟩
theorem step : ∀ x0, Statement (.step x0) := by rintro x0 t ⟨⟩
theorem stepTimeout : ∀ x0, Statement (.stepTimeout x0) := by rintro x0 t ⟨⟩
theorem dump : ∀ x0, Statement (.dump x0) := by rintro x0 t ⟨⟩
theorem dumpEnd : ∀ x0, Statement (.dumpEnd x0) := by rintro x0 t ⟨⟩
theorem debugRecall : ∀ x0, Statement (.debugRecall x0) := by rintro x0 t ⟨⟩
theorem remoteWrite : ∀ x0, Statement (.remoteWrite x0) := by rintro x0 t ⟨⟩
theorem remoteRead : ∀ x0, Statement (.remoteRead x0) := by rintro x0 t ⟨⟩
theorem sample : ∀ x0, Statement (.sample x0) := by rintro x0 t ⟨⟩
theorem boundsWrite : ∀ x0, Statement (.boundsWrite x0) := by rintro x0 t ⟨⟩
theorem boundsRead : ∀ x0, Statement (.boundsRead x0) := by rintro x0 t ⟨⟩
theorem boundsClear : ∀ x0, Statement (.boundsClear x0) := by rintro x0 t ⟨⟩
theorem tlbInvalidatePage : ∀ x0, Statement (.tlbInvalidatePage x0) := by rintro x0 t ⟨⟩
theorem tlbInvalidateContext : ∀ x0, Statement (.tlbInvalidateContext x0) := by rintro x0 t ⟨⟩
theorem recallSegment : Statement .recallSegment := by rintro t ⟨⟩
theorem invalidatePage : Statement .invalidatePage := by rintro t ⟨⟩
theorem invalidateContext : Statement .invalidateContext := by rintro t ⟨⟩
theorem writeBoundsEntry : Statement .writeBoundsEntry := by rintro t ⟨⟩
theorem loadLinkSchedule : Statement .loadLinkSchedule := by rintro t ⟨⟩
theorem checkpoint : Statement .checkpoint := by rintro t ⟨⟩
theorem restore : Statement .restore := by rintro t ⟨⟩
theorem resetDie : Statement .resetDie := by rintro t ⟨⟩
theorem loadFirmwareImage : ∀ x0, Statement (.loadFirmwareImage x0) := by rintro x0 t ⟨⟩
theorem errorLogRead : ∀ x0, Statement (.errorLogRead x0) := by rintro x0 t ⟨⟩
theorem errorLogClear : ∀ x0, Statement (.errorLogClear x0) := by rintro x0 t ⟨⟩
theorem errorLogOverflowRead : ∀ x0, Statement (.errorLogOverflowRead x0) := by rintro x0 t ⟨⟩
theorem injectionArm : ∀ x0, Statement (.injectionArm x0) := by rintro x0 t ⟨⟩
theorem eccError : ∀ x0 x1 x2 x3 x4 x5, Statement (.eccError x0 x1 x2 x3 x4 x5) := by rintro x0 x1 x2 x3 x4 x5 t ⟨⟩
theorem patrolScrub : ∀ x0, Statement (.patrolScrub x0) := by rintro x0 t ⟨⟩
theorem hmapWrite : ∀ x0, Statement (.hmapWrite x0) := by rintro x0 t ⟨⟩
theorem fwsvnWrite : ∀ x0, Statement (.fwsvnWrite x0) := by rintro x0 t ⟨⟩
theorem reclgetWrite : ∀ x0 x1, Statement (.reclgetWrite x0 x1) := by rintro x0 x1 t ⟨⟩
theorem reclbaseWrite : ∀ x0 x1, Statement (.reclbaseWrite x0 x1) := by rintro x0 x1 t ⟨⟩
theorem linkTestCorrupt : ∀ x0 x1 x2, Statement (.linkTestCorrupt x0 x1 x2) := by rintro x0 x1 x2 t ⟨⟩
theorem rcRegisterRead : ∀ x0 x1, Statement (.rcRegisterRead x0 x1) := by rintro x0 x1 t ⟨⟩
theorem registerWrite : ∀ x0 x1 x2, Statement (.registerWrite x0 x1 x2) := by rintro x0 x1 x2 t ⟨⟩
theorem collectiveCommand : ∀ x0 x1 x2, Statement (.collectiveCommand x0 x1 x2) := by rintro x0 x1 x2 t ⟨⟩
theorem collectiveOperationEnd : ∀ x0 x1, Statement (.collectiveOperationEnd x0 x1) := by rintro x0 x1 t ⟨⟩
theorem bar2Access : ∀ x0 x1, Statement (.bar2Access x0 x1) := by rintro x0 x1 t ⟨⟩
theorem configurationRequest : ∀ x0 x1 x2, Statement (.configurationRequest x0 x1 x2) := by rintro x0 x1 x2 t ⟨⟩
theorem ualinkRequest : ∀ x0 x1, Statement (.ualinkRequest x0 x1) := by rintro x0 x1 t ⟨⟩
theorem roceRequest : ∀ x0 x1 x2, Statement (.roceRequest x0 x1 x2) := by rintro x0 x1 x2 t ⟨⟩
theorem flitReceive : ∀ x0 x1 x2 x3, Statement (.flitReceive x0 x1 x2 x3) := by rintro x0 x1 x2 x3 t ⟨⟩
theorem scheduleSwitch : ∀ x0, Statement (.scheduleSwitch x0) := by rintro x0 t ⟨⟩
theorem heartbeatSend : ∀ x0, Statement (.heartbeatSend x0) := by rintro x0 t ⟨⟩
theorem heartbeatReceive : ∀ x0, Statement (.heartbeatReceive x0) := by rintro x0 t ⟨⟩
theorem dieSilent : ∀ x0, Statement (.dieSilent x0) := by rintro x0 t ⟨⟩
theorem fenceAcknowledge : ∀ x0, Statement (.fenceAcknowledge x0) := by rintro x0 t ⟨⟩
theorem fenceTimeout : ∀ x0, Statement (.fenceTimeout x0) := by rintro x0 t ⟨⟩
theorem powerOn : Statement .powerOn := by rintro t ⟨⟩
theorem powerUpStep : ∀ x0 x1, Statement (.powerUpStep x0 x1) := by rintro x0 x1 t ⟨⟩
theorem s1Entry : ∀ x0, Statement (.s1Entry x0) := by rintro x0 t ⟨⟩
theorem s2Entry : Statement .s2Entry := by rintro t ⟨⟩
theorem s3Entry : Statement .s3Entry := by rintro t ⟨⟩
theorem wakeEvent : Statement .wakeEvent := by rintro t ⟨⟩
theorem throttleStep : ∀ x0 x1 x2, Statement (.throttleStep x0 x1 x2) := by rintro x0 x1 x2 t ⟨⟩
theorem dramHot : ∀ x0 x1 x2, Statement (.dramHot x0 x1 x2) := by rintro x0 x1 x2 t ⟨⟩
theorem coreAvoidance : ∀ x0 x1, Statement (.coreAvoidance x0 x1) := by rintro x0 x1 t ⟨⟩
theorem droopEvent : ∀ x0, Statement (.droopEvent x0) := by rintro x0 t ⟨⟩
theorem avoidanceExpire : ∀ x0, Statement (.avoidanceExpire x0) := by rintro x0 t ⟨⟩
theorem securityAlarm : ∀ x0, Statement (.securityAlarm x0) := by rintro x0 t ⟨⟩
theorem getVersion : ∀ x0, Statement (.getVersion x0) := by rintro x0 t ⟨⟩
theorem getCapabilities : ∀ x0, Statement (.getCapabilities x0) := by rintro x0 t ⟨⟩
theorem negotiateAlgorithms : ∀ x0 x1, Statement (.negotiateAlgorithms x0 x1) := by rintro x0 x1 t ⟨⟩
theorem getDigests : ∀ x0, Statement (.getDigests x0) := by rintro x0 t ⟨⟩
theorem getCertificate : ∀ x0 x1, Statement (.getCertificate x0 x1) := by rintro x0 x1 t ⟨⟩
theorem challenge : ∀ x0 x1, Statement (.challenge x0 x1) := by rintro x0 x1 t ⟨⟩
theorem getMeasurements : ∀ x0 x1, Statement (.getMeasurements x0 x1) := by rintro x0 x1 t ⟨⟩
theorem gridEndByHost : ∀ x0, Statement (.gridEndByHost x0) := by rintro x0 t ⟨⟩
theorem shellPowerFault : ∀ x0, Statement (.shellPowerFault x0) := by rintro x0 t ⟨⟩
theorem codeObjectUnload : ∀ x0 x1, Statement (.codeObjectUnload x0 x1) := by rintro x0 x1 t ⟨⟩
theorem driverDirectoryCommand : ∀ x0 x1, Statement (.driverDirectoryCommand x0 x1) := by rintro x0 x1 t ⟨⟩

end Sys2Proof.Laws.Heads
end

