-- ==== Sys2Proof/Tests/Slice0.lean ====
section
/-! SUPPORT. Tests on small states: what validation refuses, words written out from the encoding tables, one-step results taken from the spec's
examples and from hand calculation, and for every statement a state that meets its hypotheses, clause by clause. -/

namespace Sys2Proof.Tests

open Sys2Proof Sys2Proof.Machine

set_option Elab.async false

/-! ## Words -/

/-- The fields of a slot in the order of R47, from OPC down to MOD. -/
def slot (opc : BitVec 8) (func la : BitVec 4) (neg : BitVec 1) (pred : BitVec 3) (d a b c : BitVec 8) (mod : BitVec 44) : BitVec 96 :=
  opc ++ func ++ la ++ neg ++ pred ++ d ++ a ++ b ++ c ++ mod

/-- The address fields of R52: DISP, IDX, SCALE, SPACE, SCOPE, ORDER, OPMOD. -/
def memMod (disp : BitVec 24) (idx : BitVec 1) (scale space scope order : BitVec 3) (opmod : BitVec 7) : BitVec 44 :=
  disp ++ idx ++ scale ++ space ++ scope ++ order ++ opmod

/-- The word decodes to the instruction. -/
def reads (w : BitVec 96) (i : Instr) : Bool := match decode w with
  | .ok j => j == i
  | .error _ => false

/-- The word is refused for the reason. -/
def refuses (w : BitVec 96) (r : Reject) : Bool := match decode w with
  | .ok _ => false
  | .error e => e == r

/-- The default guard, no lookahead. -/
def h0 : Head := ⟨false, 7, 0⟩

def iops (d a b c : BitVec 8) (ty : IntTy) (form : Form := .r) (imm : BitVec 32 := 0) (sat : Bool := false) (h : Head := h0) : IntOps :=
  ⟨h, form, d, a, b, c, imm, 0, .eq, sat, ty⟩
def fops (d a b c : BitVec 8) (ty : FpTy) (rnd : Rnd := .rne) (ovf : Bool := false) (opx : BitVec 4 := 0) : FpOps :=
  ⟨h0, false, d, a, b, c, 0, rnd, ovf, ty, opx⟩
def mops (d a b c : BitVec 8) (space : Space) (opmod : BitVec 7) (order : Order := .rlx) (scope : Scope := .blk) (disp : BitVec 24 := 0) : MemOps :=
  ⟨h0, d, a, b, c, disp, false, 0, space, scope, order, opmod⟩
def lops (func : BitVec 4) (d a b c : BitVec 8) (lo : BitVec 12 := 0) : LaneOps := ⟨h0, func, d, a, b, c, lo⟩
def aops (d a b c : BitVec 8) (dim : BitVec 2) (tslot : BitVec 4) : AlgOps := ⟨h0, d, a, b, c, dim, .rne, false, tslot⟩

/-! ## Decoding: words from the encoding tables -/

theorem test_decode_int :
    -- R69, R74: OPC, FUNC (form, variant), LA, guard, DST, SRCA, SRCB, SRCC, imm ++ OPX ++ COND ++ SAT ++ TYPE
    reads (slot 0x07#8 0b0100#4 0#4 1#1 3#3 2#8 4#8 0#8 0#8 (0xFFFFFFFF#32 ++ 0#4 ++ 0#3 ++ 1#1 ++ 0b0101#4))
      (.isub { iops 2 4 0 0 .z16 .i 0xFFFFFFFF true with h := ⟨true, 3, 0⟩ }) = true ∧
    reads (slot 0x10#8 0b1010#4 0#4 0#1 7#3 2#8 4#8 6#8 0#8 1#44) (.xor (iops 2 4 6 0 .z32 .k)) = true ∧
    reads (slot 0x0C#8 0b0000#4 5#4 0#1 7#3 2#8 4#8 6#8 0#8 0b00010010#44) (.idiv { iops 2 4 6 0 .s64 .r 0 true with h := ⟨false, 7, 5⟩ }) = true ∧
    reads (slot 0x15#8 0b0000#4 0#4 0#1 7#3 6#8 4#8 6#8 0#8 (0#36 ++ 0b010#3 ++ 0b00001#5)) (.icmp { iops 6 4 6 0 .z32 with cond := .lt }) = true ∧
    reads (slot 0x1B#8 0b0100#4 0#4 0#1 7#3 1#8 4#8 0#8 0#8 (64#32 ++ 0b0011#4 ++ 0#8)) (.pbnd { iops 1 4 0 0 .s32 .i 64 with opx := 3 }) = true := by
  decide +kernel

theorem test_decode_float :
    -- R101, R103: imm ++ RND ++ OVF ++ TYPE ++ OPX
    reads (slot 0x24#8 0b0001#4 0#4 0#1 7#3 1#8 2#8 3#8 0#8 0x30#44) (.fmax (fops 1 2 3 0 .f16x2)) = true ∧
    reads (slot 0x26#8 0b0000#4 0#4 0#1 7#3 5#8 2#8 3#8 0#8 0x16#44) (.fcmp (fops 5 2 3 0 .f16 .rne false 6)) = true ∧
    reads (slot 0x20#8 0b0100#4 0#4 0#1 7#3 1#8 2#8 0#8 0#8 (0x3F800000#32 ++ 0b101#3 ++ 1#1 ++ 0#8))
      (.fadd { fops 1 2 0 0 .f32 .sr true with isImm := true, imm := 0x3F800000 }) = true ∧
    reads (slot 0x33#8 0#4 0#4 0#1 7#3 1#8 2#8 3#8 4#8 0x102#44) (.idp8 (fops 1 2 3 4 .f32 .rne true 2)) = true ∧
    -- R119: MRG 24, SEL 23:22, DEL 21:20, SFMT, DFMT, RND, OVF
    reads (slot 0x31#8 0#4 0#4 0#1 7#3 1#8 2#8 0#8 0#8 (0#19 ++ 1#1 ++ 1#2 ++ 3#2 ++ 1#4 ++ 3#4 ++ 2#3 ++ 1#1 ++ 0#8))
      (.cvt ⟨h0, 1, 2, true, 1, 3, .f16, .e4m3, .rz, true⟩) = true := by
  decide +kernel

theorem test_decode_algebra_and_lanes :
    -- R134: DIM 13:12, RND, OVF, TYPE, OPX; R129: SPACE 5:3, SLOT 2:0; R163
    reads (slot 0x42#8 0#4 0#4 0#1 7#3 8#8 12#8 16#8 20#8 0x1004#44) (.amac (aops 8 12 16 20 1 4)) = true ∧
    reads (slot 0x40#8 0#4 0#4 0#1 7#3 0#8 9#8 0#8 0#8 0b010011#44) (.atab ⟨h0, 9, 0, .clus, 3⟩) = true ∧
    reads (slot 0x58#8 1#4 0#4 0#1 7#3 1#8 2#8 0#8 4#8 0#44) (.matchAny (lops 1 1 2 0 4)) = true ∧
    reads (slot 0x57#8 0b1000#4 0#4 0#1 7#3 1#8 2#8 0#8 0#8 0x011#44) (.scan (lops 8 1 2 0 0 0x011)) = true ∧
    reads (slot 0x54#8 3#4 0#4 1#1 0#3 1#8 2#8 3#8 0#8 0#44) (.shfl { lops 3 1 2 3 0 with h := ⟨true, 0, 0⟩ }) = true := by
  decide +kernel

theorem test_decode_control :
    -- R145, R151, R156, R160, R161, R316, R317, R367, R379, R380
    reads (0x63#8 ++ 0#8 ++ 0x7#4 ++ 10#8 ++ 0#8 ++ 0x0000700#28 ++ 0x0000801#28 ++ 0#4) (.call 10 0x0000700 0x0000801) = true ∧
    reads (0x65#8 ++ 0#8 ++ 0x7#4 ++ 0#8 ++ 20#8 ++ 0x0000700#28 ++ 0#20 ++ 3#4 ++ 2#4 ++ 0b0001#4) (.spawn ⟨h0, 0, 20, 0x0000700, 3, 2, false, true⟩) = true ∧
    reads (slot 0x68#8 1#4 0#4 0#1 7#3 5#8 0#8 0#8 0#8 0b0110100#44) (.barArv ⟨h0, 5, 0, .dev, 4⟩) = true ∧
    reads (slot 0x69#8 0#4 0#4 0#1 7#3 0#8 5#8 6#8 0#8 0b1111#44) (.barinit h0 5 6 15) = true ∧
    reads (slot 0x6A#8 0#4 0#4 0#1 7#3 0#8 0#8 0#8 0#8 (0x0000FFFF#32 ++ 0#12)) (.trap h0 0xFFFF) = true ∧
    reads (slot 0x6B#8 1#4 0#4 0#1 7#3 3#8 0#8 0#8 0#8 0x7F#44) (.featqBit h0 3 127) = true ∧
    reads (slot 0xBB#8 1#4 0#4 0#1 2#3 0#8 0#8 0#8 0#8 0#44) (.haltCtx ⟨false, 2, 0⟩) = true ∧
    -- R367's example: `brk 0x12, 1`
    reads 0xBC0070000000000010012000#96 (.brk h0 0x12 1) = true ∧
    reads (slot 0xBD#8 0#4 0#4 0#1 7#3 0#8 0#8 0#8 0#8 (5#32 ++ 0#12)) (.prog h0 5) = true ∧
    reads (slot 0xBE#8 1#4 0#4 0#1 7#3 0#8 9#8 0#8 0#8 (0x1234#32 ++ 0#12)) (.markValue h0 9 0x1234) = true := by
  decide +kernel

theorem test_decode_memory :
    -- R52, R173, R184, R185, R192, R194, R213
    reads (slot 0x71#8 0#4 0#4 0#1 7#3 0#8 4#8 6#8 8#8 (memMod 0xFFFFFC#24 1#1 2#3 0#3 4#3 2#3 0b0000011#7))
      (.st ⟨h0, 0, 4, 6, 8, 0xFFFFFC, true, 2, .glob, .sys, .rel, 3⟩) = true ∧
    reads (slot 0x72#8 0#4 15#4 0#1 7#3 1#8 4#8 0#8 0#8 (memMod 16#24 0#1 0#3 3#3 2#3 1#3 7#7))
      (.lds { mops 1 4 0 0 .die 7 .acq .die 16 with h := ⟨false, 7, 15⟩ }) = true ∧
    reads (slot 0x76#8 0#4 0#4 0#1 7#3 2#8 4#8 6#8 8#8 (memMod 0#24 0#1 0#3 0#3 0#3 0#3 (0b0111#4 ++ 0b010#3))) (.atom (mops 2 4 6 8 .glob 0b0111010)) = true ∧
    reads (slot 0x79#8 0#4 1#4 0#1 7#3 3#8 4#8 0#8 8#8 (memMod 0#24 0#1 0#3 0#3 3#3 2#3 1#7))
      (.sc { mops 3 4 0 8 .glob 1 .rel .dev with h := ⟨false, 7, 1⟩ }) = true ∧
    reads (slot 0x7A#8 0#4 0#4 0#1 7#3 0#8 0#8 0#8 0#8 (0#31 ++ 0b011#3 ++ 0b100#3 ++ 0#7)) (.fence h0 .dev .sc) = true ∧
    reads (slot 0x7B#8 0#4 0#4 0#1 7#3 0#8 0#8 0#8 0#8 0#44) .commit = true ∧
    reads (slot 0x74#8 0#4 0#4 0#1 7#3 255#8 4#8 5#8 0#8 0b1010000#44) (.satt ⟨h0, 255, 4, 5, true, .clus⟩) = true ∧
    reads (slot 0x75#8 0#4 0#4 0#1 7#3 248#8 0#8 0#8 0#8 0#44) (.sdet 248) = true ∧
    reads (slot 0x99#8 0#4 2#4 0#1 7#3 1#8 4#8 5#8 6#8 (memMod 4#24 0#1 0#3 1#3 0#3 0#3 0#7)) (.accld { mops 1 4 5 6 .unit 0 .rlx .blk 4 with h := ⟨false, 7, 2⟩ }) = true := by
  decide +kernel

theorem test_decode_engines_directory_registers :
    -- R198, R213, R223, R233, R235, R237, R239, R315's two examples, R354
    reads (slot 0x90#8 0#4 0#4 0#1 7#3 0#8 4#8 5#8 0#8 0b001000#44) (.mma ⟨h0, 4, 5, .unit, 0⟩) = true ∧
    reads (slot 0x93#8 0#4 0#4 0#1 7#3 1#8 2#8 0#8 3#8 0#44) (.aalloc ⟨h0, 1, 2, 0, 3⟩) = true ∧
    reads (slot 0xA1#8 0#4 0#4 0#1 7#3 0#8 4#8 5#8 0#8 0b010000#44) (.cpred ⟨h0, 4, 5, .clus, 0⟩) = true ∧
    reads (slot 0xA5#8 0#4 0#4 0#1 7#3 0#8 0#8 0#8 0#8 0b1010110#44) (.unmapr h0 5 6) = true ∧
    reads (slot 0xB0#8 1#4 4#4 0#1 7#3 1#8 2#8 4#8 3#8 0#44) (.dopenW ⟨⟨false, 7, 4⟩, 1, 2, 4, 3⟩) = true ∧
    reads (slot 0xB5#8 0#4 0#4 0#1 7#3 1#8 2#8 0#8 0#8 6#44) (.dquery ⟨h0, 1, 2, 0, 0⟩ 6) = true ∧
    reads 0xB80070500000000000002000#96 (.csrr h0 5 0x002) = true ∧ reads 0xB90070002000000000000000#96 (.csrw h0 2 0) = true := by
  decide +kernel

/-! ## What validation refuses (R66): one ill-formed term for each check -/

theorem test_refused_words :
    -- reserved bits, R50, R71; LA where R63 gives none; a guard on a terminator, R60; a null successor, R53; a reserved opcode
    refuses 1#96 .reservedBit = true ∧ refuses (slot 0x66#8 0#4 0#4 0#1 7#3 0#8 0#8 0#8 0#8 1#44) .reservedBit = true ∧
    refuses (slot 0x05#8 0#4 1#4 0#1 7#3 1#8 2#8 3#8 0#8 0#44) .lookahead = true ∧
    refuses (slot 0x66#8 0#4 0#4 0#1 2#3 0#8 0#8 0#8 0#8 0#44) .guarded = true ∧
    refuses (0x60#8 ++ 0#8 ++ 0x7#4 ++ 0#16 ++ 0x00000FF#28 ++ 0#32) .nullSucc = true ∧
    refuses (slot 0xFF#8 0#4 0#4 0#1 7#3 0#8 0#8 0#8 0#8 0#44) .reservedCode = true ∧
    -- R66: the lowest reason of several: a reserved COND beside a set SAT that `mov` does not use
    refuses (slot 0x01#8 0#4 0#4 0#1 7#3 1#8 2#8 0#8 0#8 0b11010000#44) .reservedBit = true := by
  decide +kernel

theorem test_illformed_int :
    -- R74, R76, R79, R88, R92, R94: fields not used, forms, types, pairs, special registers
    Instr.check (.iadd { iops 1 2 3 0 .s32 with imm := 1 }) = some .reservedBit ∧
    Instr.check (.iadd { iops 1 2 3 4 .s32 with c := 4 }) = some .reservedBit ∧
    Instr.check (.bfe { iops 1 2 3 0 .s32 with imm := 1 }) = some .reservedBit ∧
    Instr.check (.bfe (iops 1 2 0 0 .s32 .i 65536)) = some .reservedBit ∧
    Instr.check (.iadd { iops 1 2 3 0 .s32 with cond := .ne }) = some .reservedBit ∧
    Instr.check (.iadd { iops 1 2 3 0 .s32 with opx := 1 }) = some .reservedBit ∧
    Instr.check (.imulh (iops 1 2 3 0 .s32 .r 0 true)) = some .reservedBit ∧
    Instr.check (.idiv (iops 1 2 3 0 .z32 .r 0 true)) = some .reservedBit ∧
    Instr.check (.mov (iops 1 2 0 0 .s32 .i)) = some .reservedCode ∧
    Instr.check (.iaddc (iops 1 2 3 0 .s32)) = some .reservedCode ∧
    Instr.check (.iadd (iops 2 4 6 0 .s64 .k)) = some .reservedCode ∧
    Instr.check (.iadd { iops 1 2 3 0 .s32 .k with h := ⟨false, 0, 0⟩ }) = some .reservedCode ∧
    Instr.check (.padd (iops 2 4 0 0 .s64 .i)) = some .reservedCode ∧
    Instr.check (.iadd { iops 1 2 3 0 .s32 with h := ⟨false, 7, 1⟩ }) = some .lookahead ∧
    Instr.check (.iadd (iops 3 4 6 0 .s64)) = some .register ∧ Instr.check (.iadd (iops 64 2 3 0 .s32 .k)) = some .register ∧
    Instr.check (.icmp (iops 8 2 3 0 .s32)) = some .register ∧ Instr.check (.movs (iops 1 0x14 0 0 .s32)) = some .register := by
  decide +kernel

theorem test_illformed_float_and_algebra :
    -- R103, R104, R105, R121, R129, R135, R136
    Instr.check (.fabs (fops 1 2 3 0 .f32)) = some .reservedBit ∧ Instr.check (.fabs (fops 1 2 0 0 .f32 .rz)) = some .reservedBit ∧
    Instr.check (.fmin (fops 1 2 3 0 .f32 .rne true)) = some .reservedBit ∧ Instr.check (.fadd (fops 1 2 3 0 .f32 .rne false 1)) = some .reservedBit ∧
    Instr.check (.fadd { fops 1 2 0 0 .f16 with isImm := true, imm := 65536 }) = some .reservedBit ∧
    Instr.check (.fdiv (fops 1 2 3 0 .f16x2)) = some .reservedCode ∧ Instr.check (.frnd (fops 1 2 0 0 .f32 .sr)) = some .reservedCode ∧
    Instr.check (.fcmp (fops 1 2 3 0 .f32 .rne false 8)) = some .reservedCode ∧
    Instr.check (.cvt ⟨h0, 1, 2, false, 1, 0, .f32, .f16, .rne, false⟩) = some .reservedCode ∧
    Instr.check (.cvt ⟨h0, 1, 2, true, 0, 0, .f16, .f32, .rne, false⟩) = some .reservedCode ∧
    Instr.check (.amul (aops 8 12 16 0 1 0)) = some .reservedCode ∧ Instr.check (.aadd (aops 8 12 16 0 1 1)) = some .reservedBit ∧
    Instr.check (.amul (aops 8 12 16 0 3 1)) = some .reservedCode ∧ Instr.check (.aconj { aops 8 12 0 0 1 1 with rnd := .rz }) = some .reservedBit ∧
    Instr.check (.aconj (aops 8 12 16 0 1 1)) = some .register ∧ Instr.check (.amul (aops 9 12 16 0 1 1)) = some .register ∧
    Instr.check (.atab ⟨h0, 9, 0, .unit, 0⟩) = some .reservedCode ∧ Instr.check (.atab ⟨⟨false, 7, 1⟩, 9, 0, .unit, 1⟩) = some .reservedBit := by
  decide +kernel

theorem test_illformed_lanes_and_control :
    -- R145, R151, R156, R163
    Instr.check (.qswp (lops 3 1 2 0 0)) = some .reservedCode ∧ Instr.check (.vote (lops 0 1 2 0 0 1)) = some .reservedBit ∧
    Instr.check (.redi (lops 1 1 2 0 0 0x10)) = some .reservedBit ∧ Instr.check (.redi (lops 0 1 2 0 0 2)) = some .reservedCode ∧
    Instr.check (.redf (lops 0 1 2 0 0 0xA00)) = some .reservedCode ∧ Instr.check (.shfl (lops 0 1 2 248 0)) = some .register ∧
    Instr.check (.nexti 248) = some .register ∧ Instr.check (.brv 8 0x700 0x700) = some .register ∧ Instr.check (.brv 7 0x700 0xFF) = some .nullSucc ∧
    Instr.check (.ret 3) = some .register ∧
    Instr.check (.spawn ⟨h0, 1, 0, 0x700, 0, 0, false, false⟩) = some .reservedBit ∧ Instr.check (.spawn ⟨h0, 0, 2, 0x700, 9, 0, false, false⟩) = some .reservedCode ∧
    Instr.check (.spawn ⟨h0, 0, 247, 0x700, 2, 0, false, false⟩) = some .register ∧ Instr.check (.spawn ⟨h0, 0, 0, 0xFF, 0, 0, false, false⟩) = some .nullSucc ∧
    Instr.check (.barArw ⟨h0, 0, 0, .sys, 0⟩) = some .reservedCode ∧ Instr.check (.barExp ⟨h0, 0, 1, .drf, 0⟩) = some .reservedBit ∧
    Instr.check (.barArw ⟨h0, 1, 0, .blk, 0⟩) = some .reservedBit := by
  decide +kernel

theorem test_illformed_memory :
    -- R52, R173, R174, R184, R192, R194, R213, R354
    Instr.check (.ld (mops 1 4 0 8 .glob 0)) = some .reservedBit ∧ Instr.check (.ld (mops 1 4 0 0 .glob 0x10)) = some .reservedBit ∧
    Instr.check (.ld (mops 1 4 0 0 .glob 0 .rlx .dev)) = some .reservedBit ∧ Instr.check (.ld (mops 1 4 0 0 .unit 0)) = some .reservedCode ∧
    Instr.check (.ld (mops 1 4 0 0 .glob 0 .rel)) = some .reservedCode ∧ Instr.check (.ld (mops 1 4 0 0 .glob 8)) = some .reservedCode ∧
    Instr.check (.ld { mops 1 4 6 0 .glob 0 with idx := true, scale := 5 }) = some .reservedCode ∧
    Instr.check (.lds (mops 1 4 0 0 .unit 0 .acq .drf)) = some .reservedCode ∧ Instr.check (.ld (mops 1 5 0 0 .glob 0)) = some .register ∧
    Instr.check (.atom { mops 2 4 6 8 .glob 0b0111010 with idx := true }) = some .register ∧
    Instr.check (.red (mops 0 4 0 8 .glob 0b0110000)) = some .reservedCode ∧ Instr.check (.accld { mops 1 4 5 6 .unit 0 with idx := true }) = some .reservedBit ∧
    Instr.check (.dbind (mops 1 4 0 6 .glob 0 .acq)) = some .reservedBit ∧ Instr.check (.fence h0 .blk .rlx) = some .reservedCode ∧
    Instr.check (.satt ⟨h0, 247, 4, 0, false, .unit⟩) = some .register ∧ Instr.check (.satt ⟨h0, 248, 4, 0, false, .die⟩) = some .reservedCode ∧
    Instr.check (.sdet 247) = some .register := by
  decide +kernel

theorem test_illformed_engines_and_system :
    -- R198, R213, R223, R315, R354, R367
    Instr.check (.mma ⟨h0, 4, 5, .glob, 0⟩) = some .reservedCode ∧ Instr.check (.mma ⟨⟨false, 7, 1⟩, 4, 5, .unit, 0⟩) = some .lookahead ∧
    Instr.check (.mapr ⟨h0, 4, 5, .unit, 0⟩) = some .reservedBit ∧ Instr.check (.aalloc ⟨h0, 1, 2, 3, 4⟩) = some .reservedBit ∧
    Instr.check (.dquery ⟨h0, 1, 2, 0, 0⟩ 7) = some .reservedCode ∧ Instr.check (.csrr h0 1 0x3FF) = some .reservedCode ∧
    Instr.check (.csrw h0 1 0x007) = some .reservedCode ∧ Instr.check (.csrw h0 248 0x000) = some .register ∧ Instr.check (.brk h0 0 3) = some .reservedCode := by
  decide +kernel

/-! ## States that meet the statements' hypotheses -/

/-- The floe whose turn it is issues `i` with nothing before it (R46 to R49), and what it sees is as the condition says. -/
def meets (i : Instr) (s : State) (p : Ctx → Bool := fun _ => true) : Bool := match issuing i s with
  | some (_, c) => p c
  | none => false

/-- The state after the instruction. -/
def after (i : Instr) (s : State) : State := match exec i s with
  | .next t => t
  | _ => State.reset

/-- The instruction answers a next state. -/
def goes (i : Instr) (s : State) : Bool := match exec i s with
  | .next _ => true
  | _ => false

/-- A launch record (R299): code object 1, trap policy, entry 1.0, one block of 32 threads, 64 KiB of unit and cluster share, 64 accumulator banks,
every die, 64 registers. -/
def record (tpol : Nat) : BitVec 512 := BitVec.ofNat 512
  (65536 + 256 * tpol + 0x1000 * 2 ^ 32 + 0x3 * 2 ^ 64 + 0x123456789 * 2 ^ 192 + 0x01010001 * 2 ^ 320 + 31 * 2 ^ 352 + (256 + 256 * 4096) * 2 ^ 384 +
    64 * 2 ^ (416 + 19) + (64 + 0xFF * 256) * 2 ^ 448)

/-- A segment of one line with one entry, line 1 slot 0, and 64 registers (R58). -/
def header : BitVec 512 := 0x10000000000000240400100001#512

/-- Core 0 of die 0 with one block, one floe of `n` lanes at the first slot of segment 1, and segments 1 and 2 resident, of `nop`s. -/
def floeOf (n : Nat) (tpol : Nat := 0) : State :=
  { State.reset with
    segs := [(0, { core := 0, ctx := 0, code := 1, seg := 1, lines := [header, 0x00085000#32 ++ 0#480] }),
      (1, { core := 0, ctx := 0, code := 1, seg := 2, lines := [header, 0x00085000#32 ++ 0#480], base := 2 })]
    grids := [(0, { lrec := record tpol, state := 1, dies := 1, handed := 1, mask := 3 })]
    blocks := [(0, { uid := 1 })]
    threads := (List.range n).map fun l => (32 * l, { st := 1, tid := l, win := 64 })
    floes := [(0, { fid := 1, lanes := (List.range n).map fun l => (l, 0), segid := 1, line := 1 })]
    nextId := 2 }

/-- One lane; three lanes. -/
def one : State := floeOf 1
def three : State := floeOf 3

/-- The floe changed. -/
def withFloe (s : State) (g : Floe → Floe) : State := s.modFloe 0 g


/-- Register `r` of every lane holds the lane's value. -/
def setRegs (s : State) (n : Nat) (r : Nat) (v : Nat → Word) : State := (List.range n).foldl (fun s l => s.setVreg (32 * l) r (v l)) s

theorem witness_frames :
    -- GoingOnFrame, RegisterFrame
    one.still = true ∧ (one.floe? 0).isSome = true ∧
    Said.onRegisters (.iadd (iops 2 4 6 0 .s32)) = some false ∧ Instr.wf (.iadd (iops 2 4 6 0 .s32)) = true ∧
    meets (.iadd (iops 2 4 6 0 .s32)) one = true ∧ one.calm = true ∧ portDsts (.iadd (iops 2 4 6 0 .s32)) = [] ∧ goes (.iadd (iops 2 4 6 0 .s32)) one = true ∧
    Said.onRegisters (.fadd (fops 2 4 6 0 .f32 .sr)) = some true ∧ meets (.fadd (fops 2 4 6 0 .f32 .sr)) three = true := by
  decide +kernel

/-- One instruction for each of the integer statements, in a register form and a K form, with and without a window. -/
def someInt : List Instr :=
  [.mov (iops 2 4 0 0 .s64), .movi (iops 2 0 0 0 .s32 .ki 5), .movs (iops 2 0x13 0 0 .s32), .movs (iops 2 0x13 0 0 .s32 .k), .movkToLane (iops 2 63 0 0 .s32),
   .movkToUniform (iops 63 4 0 0 .s32), .iadd (iops 2 4 6 0 .s8), .isub (iops 2 4 6 0 .s32 .k), .imul (iops 2 4 6 0 .s64 .r 0 true), .imad (iops 2 4 6 8 .z16),
   .imin (iops 2 4 6 0 .s32), .imax (iops 2 4 0 0 .s64 .i 1), .iabs (iops 2 4 0 0 .s32), .ineg (iops 2 4 0 0 .s32), .imulh (iops 2 4 6 0 .s64),
   .imadw (iops 2 4 6 8 .s32), .iaddc (iops 2 4 6 7 .z32), .iaddc (iops 2 4 6 0 .z32 .k),
   .idiv { iops 2 4 6 0 .s32 with h := ⟨false, 7, 15⟩ }, .irem { iops 2 4 6 0 .s32 .k with h := ⟨false, 7, 1⟩ }, .and (iops 2 4 6 0 .s64), .or (iops 2 4 6 0 .s32 .k),
   .xor (iops 2 4 6 0 .s32), .not (iops 2 4 0 0 .s32), .shl (iops 2 4 6 0 .s64), .shr (iops 2 4 0 0 .s32 .i 32), .sar (iops 2 4 6 0 .s32), .rol (iops 2 4 6 0 .z64),
   .popc (iops 2 4 0 0 .s32), .clz (iops 2 4 0 0 .s64), .ctz (iops 2 4 0 0 .s32), .brev (iops 2 4 0 0 .s32), .bfe (iops 2 4 6 0 .s32), .bfi (iops 2 4 0 6 .s32 .i 0x0820),
   .prm (iops 2 4 6 8 .s32), .icmp (iops 6 4 6 0 .s32), .icmp (iops 7 4 6 0 .s32 .k), .sel (iops 2 4 6 0 .s64), .plop (iops 0 1 2 3 .s32), .padd (iops 2 4 6 0 .s64), .psub (iops 2 4 6 0 .s32),
   .pcmp (iops 0 4 6 0 .s32), .pbnd (iops 0 4 6 0 .s32), .nop]

theorem witness_integer :
    -- MovesAndNop, ArithmeticResults, WideProductsAndCarry, DivisionResults, BitwiseAndShiftResults, CountAndFieldResults, CompareAndPointerResults
    three.calm = true ∧ (someInt.all fun i => meets i three fun c => c.act == [0, 1, 2] && c.inBanks 64) = true ∧
    -- `movk` to a uniform register with no active lane
    meets (.movkToUniform { iops 63 4 0 0 .s32 with h := ⟨true, 7, 0⟩ }) three (fun c => c.act == []) = true := by
  decide +kernel

theorem witness_float :
    -- FloatSums, FloatElementResults, ConversionsAndDotProducts
    three.calm = true ∧ (([.fadd (fops 2 4 6 0 .f32 .sr), .fsub (fops 2 4 6 0 .f16x2), .fmul (fops 2 4 6 0 .bf16), .ffma (fops 2 4 6 8 .f32), .fdiv { fops 2 4 6 0 .f32 with h := ⟨false, 7, 15⟩ },
      .fsqrt (fops 2 4 0 0 .f16), .frcp (fops 2 4 0 0 .f32), .frsq (fops 2 4 0 0 .f32), .fmin (fops 2 4 6 0 .f32), .fmax (fops 2 4 6 0 .f16x2), .frnd (fops 2 4 0 0 .f32),
      .fclass (fops 2 4 0 0 .f32), .fex2 (fops 2 4 0 0 .f32), .flg2 (fops 2 4 0 0 .f16), .fsin (fops 2 4 0 0 .f32), .fcos (fops 2 4 0 0 .f32), .fcmp (fops 6 4 6 0 .f32),
      .fabs (fops 2 4 0 0 .f16x2), .fneg (fops 2 4 0 0 .f32), .cvt ⟨h0, 2, 4, true, 1, 3, .f16, .e4m3, .sr, true⟩, .cvt ⟨h0, 2, 4, false, 0, 0, .s64, .z64, .rne, false⟩,
      .idp4 (fops 2 4 6 8 .f32 .rne false 3), .idp8 (fops 2 4 6 8 .f32 .rne true), .fdp2 (fops 2 4 6 8 .f16x2)] : List Instr).all
      fun i => meets i three fun c => c.act == [0, 1, 2] && c.inBanks 64) = true := by
  decide +kernel

theorem witness_FloatSpecialCases :
    -- each clause at a code of FP32: NaN with a number, 0/0, 1/0, ∞/0, a negative number, −0, a NaN beside a number, −0 beside +0
    (Fmt.f32.val 0x7FC00000).isNan = true ∧ (Fmt.f32.val 0x3F800000).isNan = false ∧ Fmt.f32.val 0 = .zero false ∧ Fmt.f32.val 0x80000000 = .zero true ∧
    Fmt.f32.val 0x7F800000 = .inf false ∧ Fmt.f32.val 0xFF800000 = .inf true ∧ (∃ m e, Fmt.f32.val 0x3F800000 = .fin false m e) ∧ (∃ m e, Fmt.f32.val 0xBF800000 = .fin true m e) := by
  refine ⟨by decide +kernel, by decide +kernel, by decide +kernel, by decide +kernel, by decide +kernel, by decide +kernel, ⟨_, _, rfl⟩, ⟨_, _, rfl⟩⟩

theorem witness_RoundingAndExactSums :
    -- a value on the grid, one half-way between, and a draw that reaches; two finite terms
    (65535 < 2 ^ 16) ∧ ((⌊((6 : ℕ) : ℚ) * 2 ^ ((0 : ℤ) - 1)⌋.toNat : ℚ) = (6 : ℕ) * 2 ^ ((0 : ℤ) - 1)) ∧
    ((⌊((7 : ℕ) : ℚ) * 2 ^ ((0 : ℤ) - 1)⌋.toNat : ℚ) ≠ (7 : ℕ) * 2 ^ ((0 : ℤ) - 1)) ∧ (FVal.fin false 3 0).isNan = false ∧ ∀ s, FVal.fin false 3 0 ≠ .inf s := by
  refine ⟨by decide, ?_, ?_, rfl, fun _ => by simp⟩
  · norm_num [show Int.toNat 3 = 3 from rfl]
  · norm_num [show Int.toNat 3 = 3 from rfl]

/-- The table of the complex numbers (R126): DIM 2, CONJ bit 1, entries (0, 1) and (1, 0) plus e1, (1, 1) minus e0. -/
def complex : BitVec 512 := BitVec.ofNat 512 (0x0202 + 2 ^ 69 + 2 ^ 104 + 8 * 2 ^ 109)

/-- Slot 1 of the core holds it for grid 0. -/
def tabled : State := { three with tables := [(1, complex, 0)] }

theorem witness_AlgebraResults :
    -- a slot that the grid has loaded; one that it has not; no active lane
    tabled.calm = true ∧ tabOk complex.toNat = true ∧
    (([.amul (aops 2 4 6 0 0 1), .aconj (aops 2 4 0 0 0 1), .anorm (aops 2 4 0 0 0 1), .aadd (aops 2 4 6 0 0 0), .ascl (aops 2 4 6 0 0 0)] : List Instr).all
      fun i => meets i tabled fun c => c.act != [] && c.inBanks 64) = true ∧
    meets (.amac (aops 2 4 6 8 0 1)) tabled (fun c => match c.tabCheck (aops 2 4 6 8 0 1) with | .ok t => t == complex.toNat | _ => false) = true ∧
    meets (.amul (aops 2 4 6 0 0 2)) tabled (fun c => match c.tabCheck (aops 2 4 6 0 0 2) with | .error e => e == (0x0038, 2) | _ => false) = true ∧
    meets (.amul { aops 2 4 6 0 0 1 with h := ⟨true, 7, 0⟩ }) tabled (fun c => c.act == []) = true ∧
    -- a pair of a norm's chain; operands without a NaN, with one, and finite
    (tabPairs complex.toNat 2 0)[1]? = some (1, 1, true) ∧ ([.fin false 1 0, .zero true] : List FVal).any FVal.isNan = false ∧ ([.nan false] : List FVal).any FVal.isNan = true ∧
    (FVal.fin false 1 0).isNan = false ∧ (FVal.fin false 1 0) ≠ .inf false ∧ (FVal.fin false 1 0) ≠ .inf true := by
  decide +kernel

/-- MovesAndNop: a thread's place in its block (R92), and a context that replays nothing. -/
theorem witness_specials :
    meets (.movs (iops 2 0x10 0 0 .z32)) three (fun c => c.act.all fun l => decide (l < c.g.bx ∧ 0 < c.g.by' ∧ (c.s.thread (c.t l)).tid = l + c.g.bx * (0 + c.g.by' * 0))) = true ∧
    three.replMode 0 ≠ 2 := by
  decide +kernel

/-- R92: lane 2 of block 0 on core 0 reads its thread, lane, quad and die type; the clock is a pair. -/
theorem test_specials : ((List.range 3).map fun l => ((after (.movs (iops 2 0x00 0 0 .z32)) three).vreg (32 * l) 2).toNat) = [0, 1, 2] ∧
    ((List.range 3).map fun l => ((after (.movs (iops 2 0x01 0 0 .z32)) three).vreg (32 * l) 2).toNat) = [0, 1, 2] ∧
    (let s : State := { three with clocks := [(0, 0x500000007)] }
     let t := after (.movs (iops 2 0x13 0 0 .z32)) s
     (t.vreg 32 2, t.vreg 32 3)) = (7#32, 5#32) := by
  decide +kernel

theorem witness_lanes :
    -- LaneExchanges, ReductionsAndScans
    three.calm = true ∧ (([.qswp (lops 2 1 2 0 0), .qdx (lops 1 1 2 0 0 0xA00), .qdy (lops 0 1 2 0 0), .shfl (lops 3 1 2 3 0), .vote (lops 0 1 2 0 0), .vote (lops 1 1 2 0 0),
      .vote (lops 2 1 2 0 0), .vote (lops 3 1 2 0 0), .elect (lops 0 1 0 0 0), .matchAny (lops 0 1 2 0 0), .matchAny (lops 1 1 2 0 4), .redi (lops 0 1 2 0 0 0x11),
      .scan (lops 13 1 2 0 0), .redf (lops 0 1 2 0 0)] : List Instr).all
      fun i => meets i three fun c => decide (c.act = [0, 1, 2]) && decide (c.act.Pairwise (· < ·)) && c.inBanks 64) = true := by
  decide +kernel

/-- Continuation words and p0 of three lanes: lanes 0 and 1 alike, lane 2 apart. -/
def apart : State := (setRegs three 3 10 fun l => if l = 2 then 0x2000 else 0x1000).setPred 0 0 true

theorem witness_ControlTransfers :
    (([.next 0x100, .call 20 0x100 0x100, .yield 0x100, .brv 7 0x100 0x100, .brv 1 0x100 0x100] : List Instr).all fun i => meets i apart fun c =>
      !c.f.ports.any (·.2.store) && !c.f.pend.any (!·.ready) && !c.lending && (c.s.commit c.k).2 == none) = true ∧
    -- the segment that `next` names is resident
    apart.calm = true ∧ ((apart.copyOf 0 0 1 1).map fun e => (e.1, bits (hdrOf e.2) 50 45)) = some (0, 1) ∧
    -- `brv`: all, none, one of three, two of three
    meets (.brv 7 0x100 0x100) apart (fun c => decide ((c.f.lanes.map (·.1)).filter (fun l => c.s.predOf (c.t l) 7) = [0, 1, 2])) = true ∧
    meets (.brv 1 0x100 0x100) apart (fun c => decide ((c.f.lanes.map (·.1)).filter (fun l => c.s.predOf (c.t l) 1) = [])) = true ∧
    meets (.brv 0 0x100 0x100) apart (fun c => decide ((c.f.lanes.map (·.1)).filter (fun l => c.s.predOf (c.t l) 0) = [0])) = true ∧
    meets (.brv 0 0x100 0x100) (apart.setPred 32 0 true) (fun c => decide ((c.f.lanes.map (·.1)).filter (fun l => c.s.predOf (c.t l) 0) = [0, 1])) = true ∧
    -- `nexti` and `ret`: lane words that pass R11, and one that does not (its low four bits)
    (([.nexti 10, .ret 10] : List Instr).all fun i => meets i apart fun c => [0, 1, 2].all fun l => c.s.contOk c.g.ctx c.g.code (c.s.vreg (c.t l) 10)) = true ∧
    meets (.nexti 10) (setRegs three 3 10 fun l => l) (fun c => c.s.contOk c.g.ctx c.g.code (c.s.vreg (c.t 1) 10) == false) = true := by
  decide +kernel

/-- The floe has a matrix operation not waited on; its block holds banks 5 and 6. -/
def holding : State := { one with allocs := [(0, { block := 0, first := 5, cnt := 2 })] }

theorem witness_ThreadsEndAndBegin :
    -- `exit`: three cases
    meets .exit (withFloe one fun f => { f with ops := [1] }) (fun c => c.f.ops != [] && !c.f.pend.any (!·.ready)) = true ∧
    meets .exit holding (fun c => c.f.ops == [] && !c.lending && c.s.lowAlloc c.bk == some (512 + 5)) = true ∧
    meets .exit one (fun c => !c.f.pend.any (!·.ready) && c.f.ops == [] && !c.lending && c.s.lowAlloc c.bk == none && (c.s.commit c.k).2 == none &&
      !(c.s.commit c.k).1.writesOut c.k c.f && !(c.s.commit c.k).1.deferredOut c.bk c.f.fid true) = true ∧
    -- a block with a live thread, and one with none
    one.liveThreads 0 ≠ [] ∧ ({ one with threads := [] } : State).liveThreads 0 = [] ∧ (one.block? 0).isSome = true ∧
    -- `spawn`: nothing to do, a bad word, too many arguments, `.try`, one lane placed
    meets (.spawn ⟨h0, 0, 20, 0x100, 2, 0, false, false⟩) (withFloe one fun f => { f with served := [0] }) (fun c => (c.act.filter fun l => !c.f.served.contains l) == []) = true ∧
    meets (.spawn ⟨h0, 10, 20, 0, 2, 0, true, false⟩) (setRegs one 1 10 fun _ => 1) (fun c => !c.s.contOk c.g.ctx c.g.code (c.s.vreg (c.t 0) 10)) = true ∧
    meets (.spawn ⟨h0, 0, 0, 0x100, 2, 0, false, false⟩) { one.modGrid 0 fun g => { g with lrec := record 0 - BitVec.ofNat 512 (63 * 2 ^ 448) } with
      segs := [(0, { core := 0, ctx := 0, code := 1, seg := 1, lines := [header - BitVec.ofNat 512 (63 * 2 ^ 28), 0] })] } (fun c =>
        c.act == [0] && c.s.contOk c.g.ctx c.g.code (0x100#28 ++ 0#4) && decide (c.g.nregs < 2)) = true ∧
    meets (.spawn ⟨h0, 0, 20, 0x100, 8, 1, false, true⟩) one (fun c => c.act == [0] && c.s.contOk c.g.ctx c.g.code (0x100#28 ++ 0#4) && decide (8 ≤ c.g.nregs) && !c.f.loadsOut &&
      (c.s.commit c.k).2 == none && !(c.s.commit c.k).1.writesOut c.k c.f) = true ∧
    meets (.spawn ⟨h0, 0, 20, 0x100, 8, 0, false, false⟩) one (fun c =>
      let p := (c.s.commit c.k).1.publish c.k
      !c.spawnBehind (c.s.commit c.k).1 && decide ((p.2.liveThreads c.bk).length < 1024) && p.2.placeThread c.islot 0 c.g.win == some (0, 1, 64)) = true ∧
    -- no window is left in any lane bank of the core
    ({ one with threads := (List.range 4).map fun q => (threadKey q 0 0, { st := 1, win := 2048 }) } : State).placeThread 0 0 64 = none ∧
    -- a new thread: register 63 is the last of its window
    63 < (one.grid (one.block 0).grid).win ∧ 1984 + (one.grid (one.block 0).grid).win ≤ 2048 := by
  decide +kernel


/-- One lane before barrier slot 3, in a state. -/
def atBar (b : Bar) : State := one.setBar 0 3 b

def bar3 (h : Head := h0) : BarOps := ⟨h, 0, 0, .blk, 3⟩
/-- A guard that no lane passes. -/
def never : Head := ⟨true, 7, 0⟩

theorem witness_BarrierInstructions :
    (([.barArw (bar3), .barArv { bar3 with d := 5 }, .barWt { bar3 with b := 5 }, .barExp { bar3 with b := 5 }] : List Instr).all fun i =>
      meets i (atBar { val := true, owner := 1 }) (fun c => c.act != []) && meets i (atBar {}) (fun c => c.act != []) &&
      meets i (atBar { val := true, expt := 2 }) (fun c => c.act != [] && !c.f.loadsOut && (c.s.commit c.k).2 == none && !(c.s.commit c.k).1.writesOut c.k c.f)) = true ∧
    (([.barArw (bar3 never), .barArv (bar3 never), .barWt (bar3 never), .barExp (bar3 never)] : List Instr).all fun i =>
      meets i (atBar { val := true }) (fun c => c.act == []) && meets i (atBar {}) (fun c => c.act == [])) = true ∧
    -- `bar.exp` at the last count that fits, and past it
    meets (.barExp { bar3 with b := 5 }) (setRegs (atBar { val := true, pend := 65534, early := 1 }) 1 5 fun _ => 2)
      (fun c => decide ((c.s.bar c.core 3).pend + ((c.rd1 0 5 c.low).toNat - 1) = 65535)) = true ∧
    meets (.barExp { bar3 with b := 5 }) (setRegs (atBar { val := true, pend := 65535 }) 1 5 fun _ => 1)
      (fun c => decide (65535 < (c.s.bar c.core 3).pend + (c.rd1 0 5 c.low).toNat)) = true := by
  decide +kernel

theorem witness_BarrierPhasesAndInit :
    -- a phase whose conditions just hold, and one that lacks an arrival
    ((atBar { val := true, event := true, expt := 2, arr := 2 }).bar 0 3).arr = 2 ∧ (one.block 0).stepping = none ∧
    ¬(((atBar { val := true, event := true, expt := 2, arr := 1 }).bar 0 3).expt ≤ ((atBar { val := true, event := true, expt := 2, arr := 1 }).bar 0 3).arr) ∧
    -- `barinit`: no lane; another's slot; 1,025 threads; 65,536 completions; a slot in use; good at both limits, and in block mode
    meets (.barinit never 5 6 3) one (fun c => c.act == []) = true ∧
    meets (.barinit h0 5 6 3) (atBar { val := true, owner := 1 }) (fun c => c.act != []) = true ∧
    (([(1025, 0), (0, 65536), (1024, 65535), (0xFFFFFFFF, 0)] : List (Nat × Nat)).all fun v =>
      meets (.barinit h0 5 6 3) (setRegs (setRegs one 1 5 fun _ => v.1) 1 6 fun _ => v.2) fun c =>
        (c.rd1 0 5 c.low).toNat == v.1 && (c.rd1 1 6 c.low).toNat == v.2 && !c.s.waitedOn c.core 3) = true ∧
    meets (.barinit h0 5 6 3) (atBar { val := true, arr := 1 }) (fun c => c.act != []) = true ∧ one.calm = true := by
  decide +kernel

/-- Pointers to 0x10000 in v4:v5 of three lanes, 8 bytes apart; bounds entry 0 grants everything on 0x10000 to 0x1FFFF; the page is in the core's TLB
with every permission and its tags enabled, at physical address 0x100000. -/
def global : State :=
  let s := (setRegs three 3 4 fun l => 0x10000 + 8 * l).setBent 0 0 (2 ^ 63 + 0x78 * 2 ^ 48 + 0x10000 + 0x20000 * 2 ^ 64)
  { s with tlb := [(0, { ctx := 0, base := 0x10000, size := 0x10000, leaf := 0x10001F })] }

/-- What a global access finds there. -/
def found (i : Instr) (o : MemOps) (n : Nat) (perm : Nat → Bool) (write data : Bool) (m : Mark) (s : State := global) : Bool :=
  meets i s fun c => c.act != [] && (c.checkBounds (c.globReqs o) n perm).isNone && match c.checkHome (c.globReqs o) n write data m with
    | .ok (u, as) => u.due == [] && as.length == 3 && !c.f.loadsOut && (u.commit c.k).2 == none && !(u.commit c.k).1.writesOut c.k c.f
    | .error _ => false

/-- The three checks of R176, each failing in some lane. -/
def out (i : Instr) : Bool :=
  meets i (setRegs global 3 4 fun l => 0x10001 + l) (fun c => c.act == [0, 1, 2]) && meets i (setRegs global 3 4 fun _ => 0x20000) (fun c => !c.s.inBounds 0 0 0x20000 4) &&
  meets i (global.setBent 0 0 (2 ^ 63 + 0x10000 + 0x20000 * 2 ^ 64)) fun c => !bentR (c.s.bent 0 0) && !bentW (c.s.bent 0 0) && !bentA (c.s.bent 0 0)

def ldx : MemOps := mops 8 4 0 0 .glob 2
def stx : MemOps := mops 0 4 0 8 .glob 2
/-- `atom.add.z64`, `red.add.z64`. -/
def atx : MemOps := mops 8 4 0 10 .glob 3
def rdx : MemOps := mops 0 4 0 10 .glob 3

theorem witness_GlobalLoads :
    (([.ld (mops 8 4 0 0 .glob 0), .lr (mops 8 4 0 0 .glob 0), .ldtag (mops 8 4 0 0 .glob 0)] : List Instr).all out) = true ∧
    (([.ld { ldx with h := never }, .lr { ldx with h := never }, .ldtag { ldx with h := never }] : List Instr).all fun i => meets i global fun c => c.act == []) = true ∧
    found (.ld ldx) ldx 8 bentR false true (memMark ldx) = true ∧ found (.lr ldx) ldx 8 bentR false true (memAmark ldx) = true ∧ global.calm = true ∧
    isRel ldx.order = false ∧ found (.ld { ldx with order := .sc, scope := .sys }) { ldx with order := .sc, scope := .sys } 8 bentR false true (memMark { ldx with order := .sc, scope := .sys }) = true ∧
    found (.ldtag (mops 8 4 0 0 .glob 0)) (mops 8 4 0 0 .glob 0) 32 bentR false false {} (setRegs global 3 4 fun l => 0x10000 + 32 * l) = true := by
  decide +kernel

theorem witness_GlobalStores :
    (([.st (mops 0 4 0 8 .glob 0), .sc (mops 0 4 0 8 .glob 0), .stag (mops 0 4 0 8 .glob 0), .atom (mops 8 4 0 10 .glob 0), .red (mops 0 4 0 10 .glob 0)] : List Instr).all out) = true ∧
    (([.st { stx with h := never }, .atom { atx with h := never }, .red { rdx with h := never }, .sc { stx with h := never }, .stag { stx with h := never }] : List Instr).all
      fun i => meets i global fun c => c.act == []) = true ∧
    found (.st stx) stx 8 bentW true true (memMark stx) = true ∧ global.calm = true ∧ isRel stx.order = false ∧
    found (.st { stx with order := .rel }) { stx with order := .rel } 8 bentW true true (memMark { stx with order := .rel }) = true ∧
    -- a log of 255 entries has room for one more, one of 256 none
    found (.st stx) stx 8 bentW true true (memMark stx) (withFloe global fun f => { f with log := List.replicate 255 (.store []) }) = true ∧
    found (.st stx) stx 8 bentW true true (memMark stx) (withFloe global fun f => { f with log := List.replicate 256 (.store []) }) = true ∧
    found (.red rdx) rdx 8 bentA true true (memAmark rdx) = true ∧
    found (.red { rdx with order := .rel }) { rdx with order := .rel } 8 bentA true true (memAmark { rdx with order := .rel }) = true ∧
    found (.atom atx) atx 8 bentA true true (memAmark atx) = true ∧ found (.sc stx) stx 8 bentW true true (memAmark stx) = true ∧
    found (.stag stx) stx 32 bentW true false {} (setRegs global 3 4 fun l => 0x10000 + 32 * l) = true ∧ leafTage 0x10001F = true := by
  decide +kernel

/-- Scratchpad addresses in v4 of three lanes, 8 bytes apart. -/
def padded : State := setRegs three 3 4 fun l => 8 * l
def padOp (d c : BitVec 8) (opmod : BitVec 7) (order : Order := .rlx) : MemOps := mops d 4 0 c .unit opmod order

def foundPad (i : Instr) (o : MemOps) (n : Nat) (read write : Bool) (m : Mark) (s : State := padded) : Bool :=
  meets i s fun c => c.act != [] && !c.s.bankBusy c.islot o.space && match c.checkPad c.s o.space (c.padReqs o) n n read write true m with
    | .ok (u, ps) => u.due == [] && decide (ps = [(0, 0), (1, 8), (2, 16)]) && !c.f.loadsOut && (u.commit c.k).2 == none && !(u.commit c.k).1.writesOut c.k c.f
    | .error _ => false

theorem witness_ScratchpadAccesses :
    foundPad (.sts (padOp 0 8 2)) (padOp 0 8 2) 8 false true (memMark (padOp 0 8 2)) = true ∧
    foundPad (.sts (padOp 0 8 2 .rel)) (padOp 0 8 2 .rel) 8 false true (memMark (padOp 0 8 2 .rel)) = true ∧
    foundPad (.lds (padOp 8 0 2)) (padOp 8 0 2) 8 true false (memMark (padOp 8 0 2)) = true ∧
    foundPad (.atom (padOp 8 10 3)) (padOp 8 10 3) 8 true true (memAmark (padOp 8 10 3)) = true ∧
    foundPad (.red (padOp 0 10 3)) (padOp 0 10 3) 8 true true (memAmark (padOp 0 10 3)) = true ∧
    padded.calm = true ∧ padded.ctxReg 0 0x40 = 0 ∧ (([(0, 0), (1, 8), (2, 16)] : List (Nat × Nat)).Pairwise fun p q => p.2 + 8 ≤ q.2 ∨ q.2 + 8 ≤ p.2) ∧
    -- no lane; misaligned; the last bytes of the share, and those after it
    (([.lds (padOp 8 0 0), .sts (padOp 0 8 0), .atom (padOp 8 10 0), .red (padOp 0 10 0)] : List Instr).all fun i =>
      meets i (setRegs three 3 4 fun l => 65532 + 4 * l) (fun c => !c.s.bankBusy c.islot .unit && c.s.shareSize c.bk .unit == 65536) &&
      meets i (setRegs three 3 4 fun _ => 2) fun c => c.act == [0, 1, 2]) = true ∧
    (([.lds { padOp 8 0 0 with h := never }, .sts { padOp 0 8 0 with h := never }, .atom { padOp 8 10 0 with h := never }, .red { padOp 0 10 0 with h := never }] : List Instr).all
      fun i => meets i padded fun c => c.act == []) = true := by
  decide +kernel


/-- Bytes of the core's unit scratchpad. -/
def unitAt (s : State) (a n v : Nat) : State := { s with unit := setN s.unit a n v }

/-- A stream descriptor (R191): COUNT 4, ESTRIDE 4, `.s32`, to the unit share at 1,024 (SPACE 1) or a global address, DIR as given. -/
def streamD (space dir base : Nat) : Nat := base * 2 ^ 192 + 4 * 2 ^ 160 + 4 * 2 ^ 128 + 128 * dir + 16 * space

def sattq : SattOps := ⟨h0, 248, 6, 0, false, .unit⟩
/-- The port is attached. -/
def attached (store : Bool) (s : State := three) : State :=
  withFloe s fun f => { f with ports := [(0, { store := store, space := .unit, ty := .s32, count := 4, stride := 4, bidx := 0, tag := 0, lanes := [(0, 1024)] })] }

theorem witness_FencesAndStreams :
    (([.fence never .blk .acq, .commit, .satt { sattq with h := never }] : List Instr).all fun i => meets i three) = true ∧
    meets (.fence never .blk .acq) three (fun c => c.act == []) = true ∧
    meets (.fence h0 .sys .acq) three (fun c => c.act != [] && !c.f.loadsOut) = true ∧
    (([.fence h0 .dev .rel, .fence h0 .dev .sc] : List Instr).all fun i => meets i three fun c => c.act != [] && !c.f.loadsOut && (c.s.commit c.k).2 == none &&
      !(c.s.commit c.k).1.writesOut c.k c.f) = true ∧
    meets .commit three (fun c => c.act != [] && (c.s.commit c.k).2 == none) = true ∧
    meets .commit (withFloe three fun f => { f with mute := 7 }) (fun c => c.act == []) = true ∧
    -- `satt`: misaligned; a port in use; a scratchpad load stream; a global store stream with 255 entries in the log
    meets (.satt sattq) (setRegs three 3 6 fun _ => 16) (fun c => (c.s.vreg (c.t c.low) 6).toNat % 32 == 16) = true ∧
    meets (.satt sattq) (attached false) (fun c => (look c.f.ports 0).isSome && (c.s.vreg (c.t c.low) 6).toNat == 0) = true ∧
    meets (.satt sattq) (unitAt three 0 32 (streamD 1 0 1024)) (fun c => match c.readDesc .unit 0 32 32 0 with
      | .ok (_, d) => streamOk d && d == streamD 1 0 1024 && (c.streamBad (streamOf d (c.act.map fun l => (l, 1024)))).isNone && (look c.f.ports 0).isNone
      | .error _ => false) = true ∧
    meets (.satt sattq) (withFloe (unitAt global 0 32 (streamD 0 1 0x10000)) fun f => { f with log := List.replicate 255 (.store []) }) (fun c =>
      match c.readDesc .unit 0 32 32 0 with
      | .ok (_, d) => streamOk d && (streamOf d []).store && (c.streamBad (streamOf d (c.act.map fun l => (l, 0x10000)))).isNone && decide (c.f.log.length < 256)
      | .error _ => false) = true ∧
    -- `sdet`: a free port, a load stream, a store stream
    meets (.sdet 255) three (fun c => (look c.f.ports 7).isNone) = true ∧
    meets (.sdet 248) (attached false) (fun c => c.act != [] && (look c.f.ports 0).isSome) = true ∧
    meets (.sdet 248) (attached true) (fun c => c.act != [] && c.f.pend.all (fun p => p.reg != 248) && (c.s.commit c.k).2 == none) = true := by
  decide +kernel

/-- A context with SUP whose first GiB lies at physical 1 GiB, and HANDLER, at 8 of its status block, names entry 0 of segment 1 (R301, R318). -/
def paged (s : State) : State :=
  { s with
    pkg := { hmap := 0xFF, ready := true, live := 0xFF }
    ctxTab := [(0, BitVec.ofNat 512 (2 ^ 31 + 2 ^ 27 + 5 + 0x200 * 2 ^ 204))]
    mem := setN (setN (setN s.mem 0x200000 8 0x201001) 0x201000 8 0x4000000B) 0x40000008 4 0x1000 }

theorem witness_PreciseTrapEntry :
    -- the policies stop grid, kill and handler; the handler policy turned into kill, by a thread in its handler and by a HANDLER that is no word
    (one.floe? 0).isSome = true ∧ (one.grid 0).tpol = 0 ∧ one.runs 0 = true ∧ one.handlerWaits 0 = false ∧ one.stopMet 0 = false ∧
    ((floeOf 1 1).grid 0).tpol = 1 ∧ ((floeOf 1 1).block? 0).isSome = true ∧ (look (floeOf 1 1).grids 0).isSome = true ∧ (floeOf 1 1).stopMet 0 = false ∧
    ((floeOf 1 2).grid 0).tpol = 2 ∧ (floeOf 1 2).contOk 0 1 ((floeOf 1 2).handlerOf 0) = false ∧
    (paged (floeOf 1 2)).contOk 0 1 ((paged (floeOf 1 2)).handlerOf 0) = true ∧ (paged (floeOf 1 2)).freeSave 0 = some 0 ∧
    (paged (floeOf 1 2)).policyOf 0 (((paged (floeOf 1 2)).floe? 0).getD {}) [0] = 2 ∧ (paged (floeOf 1 2)).handlerWaits 0 = false ∧
    (((paged (floeOf 1 2)).endWindows 0).commit 0).2 = none ∧ (((paged (floeOf 1 2)).endWindows 0).commit 0).1.deferredOut 0 1 false = false ∧
    (((paged (floeOf 1 2)).floe? 0).getD {}).pend.any (fun p => !p.ready) = false ∧
    (((paged (floeOf 1 2)).modThread 0 fun t => { t with inHandler := true }).thread 0).inHandler = true ∧ (0x0041 : Nat) < 2 ^ 16 := by
  decide +kernel

theorem witness_TrapsReturnsHaltsAndMarks :
    (([.trap h0 0xFFFF, .featq h0 5 0, .featqBit h0 5 1, .haltGrid h0, .haltCtx h0, .brk h0 7 0, .brk h0 7 1, .brk h0 7 2, .prog h0 7, .mark h0 1, .markValue h0 5 1] : List Instr).all
      fun i => meets i three fun c => c.act == [0, 1, 2] && c.inBanks 64 && decide (c.core < 1024)) = true ∧
    (([.trap never 1, .eret never, .haltGrid never, .haltCtx never, .brk never 7 1] : List Instr).all fun i => meets i three fun c => c.act == []) = true ∧ three.calm = true ∧
    -- `eret`: a lane that is in no handler; the one lane in its handler
    meets (.eret h0) one (fun c => (c.s.thread (c.t 0)).inHandler == false) = true ∧
    meets (.eret h0) (one.modThread 0 fun t => { t with inHandler := true }) (fun c => c.act == [0] && (c.s.thread (c.t 0)).inHandler && c.f.pend == [] && (c.s.commit c.k).2 == none) = true ∧
    -- `halt.ctx` without and with SUP
    one.ctxSup 0 = false ∧ meets (.haltCtx h0) (paged one) (fun c => c.act == [0] && c.s.ctxSup c.g.ctx) = true := by
  decide +kernel

theorem witness_RegisterAccess :
    one.calm = true ∧ (([.csrr h0 5 0, .csrr h0 5 7, .csrw h0 5 0, .csrwSet h0 5 0, .csrwClr h0 5 0x12] : List Instr).all fun i => meets i three fun c => c.act == [0, 1, 2] && decide (c.act.Nodup) &&
      !c.f.statusWaits && c.inBanks 64) = true ∧ csrSuper 0 false = false ∧ csrSuper 0 true = false ∧
    (([.csrr never 5 0, .csrw never 5 0, .csrwSet never 5 0, .csrwClr never 5 0] : List Instr).all fun i => meets i three fun c => c.act == []) = true ∧
    -- a supervisor register, without and with SUP
    csrSuper 0x200 false = true ∧ csrSuper 0x200 true = true ∧
    (([.csrr h0 5 0x200, .csrw h0 5 0x200, .csrwSet h0 5 0x200, .csrwClr h0 5 0x200] : List Instr).all fun i =>
      meets i three (fun c => c.act != [] && !c.s.ctxSup c.g.ctx) && meets i (paged three) (fun c => c.act != [] && c.s.ctxSup c.g.ctx)) = true := by
  decide +kernel


/-- A parameter block (R200): M 16, N 8, K 32, block 0 alone, ASTR 64, A at 4,096, handle of bank 5, B from v20 in the issuing floe, slot 3. -/
def params : Nat :=
  1 + 256 + 65536 + 2 ^ 24 + 64 * 2 ^ 32 + 4096 * 2 ^ 64 + 261 * 2 ^ 192 + 20 * 256 * 2 ^ 320 + 0xFFFF * 2 ^ 352 + 3 * 2 ^ 416

/-- A full floe with the block at 0 of its unit share, the slot and the bank it names. -/
def matrix : State := { unitAt ((floeOf 32).setBar 0 3 { val := true }) 0 64 params with allocs := [(0, { block := 0, first := 5, cnt := 1 })] }

def mm : DescOps := ⟨h0, 10, 11, .unit, 0⟩

/-- `mma` reads a parameter block whose check is as asked (R203). -/
def params? (s : State) (bad : Option Nat) (p : Ctx → State → Nat → Bool := fun _ _ _ => true) : Bool :=
  meets (.mma mm) s fun c => match c.readDesc .unit (c.s.vreg (c.t 0) 10).toNat 64 64 0 with
    | .ok (u, pb) => c.act.length == 32 && fwOk (c.s.vreg (c.t 0) 11).toNat && u.paramBad c.k c.f c.bk pb 0 1 == bad && p c u pb
    | .error _ => false

theorem witness_MatrixInstructions :
    matrix.freeEntry 0 0 = some 0 ∧
    -- partial mask; different words; a bad format word; a table slot that holds nothing
    meets (.mma mm) three (fun c => decide (c.act.length < 32)) = true ∧
    meets (.mma mm) (setRegs matrix 32 11 fun l => if l = 31 then 1 else 0) (fun c => c.act.length == 32 && c.s.vreg (c.t 31) 11 != c.s.vreg (c.t 0) 11) = true ∧
    meets (.mma mm) (setRegs matrix 32 11 fun _ => 0x80000000) (fun c => !fwOk (c.s.vreg (c.t 31) 11).toNat) = true ∧
    meets (.mma mm) (setRegs matrix 32 11 fun _ => 1 * 2 ^ 10) (fun c => fwOk (c.s.vreg (c.t 31) 11).toNat && match c.mmaTable (c.s.vreg (c.t 31) 11).toNat with
      | .error r => r == (0x0038, 1)
      | .ok _ => false) = true ∧
    -- a bad slot; a bank that is lent; all good
    params? (matrix.setBar 0 3 {}) (some 6) = true ∧
    params? { matrix with mmas := [(9, { (default : Mma) with fid := 8, parts := [{ (default : Part) with first := 5, cnt := 1 }] })] } none (fun c u pb => u.banksLent (u.partsOf c.bk pb) none) = true ∧
    params? matrix none (fun c u pb => !u.banksLent (u.partsOf c.bk pb) none && !(c.bPending pb 0 1).any (fun p => !p.ready) && !c.accComing (u.partsOf c.bk pb) &&
      (u.block c.bk).drf == (c.s.block c.bk).drf) = true ∧
    -- `mwait` and `mfence`
    (([.mwait, .mfence] : List Instr).all fun i => meets i (withFloe three fun f => { f with mute := 7 }) (fun c => c.act == [])) = true ∧
    meets .mwait three (fun c => c.act != [] && c.f.ops == []) = true ∧
    meets .mwait { withFloe three fun f => { f with ops := [9] } with mmas := [(9, default)] } (fun c => c.act != [] && decide (c.f.ops = [9]) && !((look c.s.mmas 9).getD default).done) = true ∧
    meets .mfence three (fun c => c.act != [] && c.f.pend.all (fun p => p.ready) && !c.s.writesOut c.k c.f) = true := by
  decide +kernel

def rops (d a b c : BitVec 8) (h : Head := h0) : RegOps := ⟨h, d, a, b, c⟩
/-- Banks 5 and 6 are the block's, and v20 holds their handle. -/
def banks : State := setRegs { three with allocs := [(0, { block := 0, first := 5, cnt := 2 })] } 3 20 fun _ => 517

theorem witness_AccumulatorInstructions :
    -- `aalloc`: 0 and 129 banks; 64 banks at the lowest run that is free; 65 past what the launch asked for
    (([0, 129] : List Nat).all fun n => meets (.aalloc (rops 1 20 0 0)) (setRegs three 3 20 fun _ => n) fun c => c.act != [] && (c.rd1 0 20 c.low).toNat == n) = true ∧
    meets (.aalloc (rops 1 20 0 0)) (setRegs three 3 20 fun _ => 64) (fun c => c.g.accN == 64 && c.s.allocs == []) = true ∧
    meets (.aalloc (rops 1 20 0 0)) (setRegs three 3 20 fun _ => 65) (fun c => decide (c.g.accN < (c.rd1 0 20 c.low).toNat)) = true ∧
    (([.aalloc (rops 1 20 0 0 never), .afree (rops 0 20 0 0 never), .accz (rops 0 20 0 0 never)] : List Instr).all fun i => meets i three fun c => c.act == []) = true ∧
    (([.afree (rops 0 20 0 0), .accz (rops 0 20 0 0)] : List Instr).all fun i => meets i three fun c => c.act != [] && c.s.handleOk c.bk (c.rd1 0 20 c.low).toNat == none) = true ∧
    (([.afree (rops 0 20 0 0), .accz (rops 0 20 0 0)] : List Instr).all fun i => meets i banks fun c =>
      c.act != [] && c.s.handleOk c.bk (c.rd1 0 20 c.low).toNat == some (5, 2) && !c.bankLent (5, 2) && c.s.net.all (fun e => e.2.fid != c.f.fid) && !c.f.log.any (namesBanks (5, 2))) = true ∧
    -- `accr`, `accw`: the last word of the run, and one past it
    banks.calm = true ∧ (([.accr (rops 1 20 21 0), .accw (rops 0 20 21 22)] : List Instr).all fun i => meets i (setRegs banks 3 21 fun _ => 4092) fun c =>
      decide (c.act.Nodup) && c.inBanks 64 && match c.accLanes (fun l => (c.rd1 0 20 l).toNat) (fun l => (c.rd1 1 21 l).toNat) with
        | .ok ls => decide (ls = [(0, 5, 1023), (1, 5, 1023), (2, 5, 1023)])
        | .error _ => false) = true ∧
    (([.accr (rops 1 20 21 0), .accw (rops 0 20 21 22)] : List Instr).all fun i => meets i (setRegs banks 3 21 fun _ => 4096) fun c =>
      match c.accLanes (fun l => (c.rd1 0 20 l).toNat) (fun l => (c.rd1 1 21 l).toNat) with
        | .error (.trap _ ls _) => decide (ls = [0, 1, 2])
        | _ => false) = true ∧
    -- `accst` and `accld`: 8 bytes, to the unit share and to global memory
    (([.accst (mops 0 4 21 20 .unit 0), .accld (mops 1 4 21 20 .unit 0)] : List Instr).all fun i => meets i (setRegs banks 3 21 fun _ => 8) fun c =>
      let o := match i with | .accld o => o | .accst o => o | _ => mops 0 0 0 0 .unit 0
      !c.s.bankBusy c.islot o.space && match c.accRun o with
        | .ok (r, n) => r == (5, 2) && n == 8 && (match c.checkPad c.s o.space (c.accPad o) 4 n (o.d == 1) (o.d == 0) true {} with
          | .ok _ => true
          | .error _ => false)
        | .error _ => false) = true ∧
    (([.accst (mops 0 4 21 20 .glob 0), .accld (mops 1 4 21 20 .glob 0)] : List Instr).all fun i =>
      meets i (setRegs (setRegs { global with allocs := [(0, { block := 0, first := 5, cnt := 2 })] } 3 20 fun _ => 517) 3 21 fun _ => 8) fun c =>
      let o := match i with | .accld o => o | .accst o => o | _ => mops 0 0 0 0 .unit 0
      decide (c.f.log.length < 256) && match c.accRun o with
        | .ok (r, n) => r == (5, 2) && (c.accBounds (c.accReq o) n bentW).isNone && (c.accBounds (c.accReq o) n bentR).isNone &&
          (match c.checkHome ((List.range (n / 4)).map fun i => ⟨c.low, (c.accReq o).ptr, (c.accReq o).va + 4 * i⟩) 4 false true {} with
          | .ok (_, as) => as.length == 2
          | .error _ => false)
        | .error _ => false) = true := by
  decide +kernel

/-- A box descriptor (R219): one dimension of 4 elements of 4 bytes, near offset 2,048 of the unit share, barrier slot 3; the far side as CTRL says. -/
def box (ctrl far : Nat) : Nat := ctrl + 3 * 2 ^ 24 + 2 ^ 10 + 2 ^ 5 + 2 * 2 ^ 2 + 2048 * 2 ^ 32 + far * 2 ^ 64 + 4 * 2 ^ 512 + 3 * 2 ^ 736
def dsc : DescOps := ⟨h0, 10, 12, .unit, 0⟩
def boxed (d : Nat) : State := (unitAt global 0 128 d).setBar 0 3 { val := true }

/-- A copy reads its descriptor, and its checks are as asked. -/
def copies? (i : Instr) (kind : Nat) (s : State) (bad : Option Nat) (next : Bool) : Bool := meets i s fun c =>
  match c.readDesc .unit (c.s.vreg (c.t c.low) 10).toNat 128 128 0 with
  | .ok (u, d) =>
    let w : Ctx := { c with s := u }
    let into := u.cpTargets c.bk d
    c.act != [] && (c.s.freeCopy c.core).isSome && (u.floeCopy c.k c.f).isSome && decide (c.f.log.length < 256) && (w.runBad 12 1).isNone && w.boxBad kind d 12 64 0 == bad &&
      ((w.boxBars d into).or (w.boxRange kind d ((List.replicate 7 (0 : Word)).map BitVec.toInt) into)).isSome == next
  | .error _ => false

/-- A map descriptor (R233): map 2 of the 256 bytes at 4,096 of the unit share, writable. -/
def mapD (va : Nat) : Nat := 4096 + 256 * 2 ^ 32 + va * 2 ^ 64 + (2 + 16 + 256) * 2 ^ 128
/-- A buffer descriptor (R237): two slots of 256 bytes from 8,192 of the unit share, buffer 4. -/
def bufD : Nat := 8192 + 256 * 2 ^ 32 + (2 + 256 + 4 * 2 ^ 16) * 2 ^ 64

theorem witness_CopiesMapsAndBuffers :
    (([.cpbox { dsc with h := never }, .cpred { dsc with h := never }, .tmov { dsc with h := never }, .atab { dsc with b := 0, h := never, lo := 1 }, .mapr { dsc with b := 0, h := never },
      .wback never 2 3, .unmapr never 2 3, .cbinit { dsc with b := 0, h := never }, .cbacq never 5 4, .cbrel never 4] : List Instr).all fun i => meets i three fun c => c.act == []) = true ∧
    -- copies: good ones, a reserved bit, a slot that is not valid
    copies? (.cpbox dsc) 0 (boxed (box 2 0x10000)) none false = true ∧ copies? (.cpbox dsc) 0 (boxed (box 0 0x10000)) none false = true ∧
    copies? (.cpred dsc) 1 (boxed (box (2 + 2 ^ 19 + 10 * 2 ^ 15) 0x10000)) none false = true ∧ copies? (.tmov dsc) 2 (boxed (box (2 * 2 ^ 8) 256)) none false = true ∧
    copies? (.tmov dsc) 2 (boxed (box (2 * 2 ^ 8 + 1) 256)) (some 1) false = true ∧ copies? (.tmov dsc) 2 ((boxed (box (2 * 2 ^ 8) 256)).setBar 0 3 {}) none true = true ∧
    -- `atab`: a good image, one of dimension 3, one of dimension 8 on a Rime die
    (([(complex.toNat, true), (complex.toNat + 1, false), (complex.toNat + 6, true)] : List (Nat × Bool)).all fun e =>
      meets (.atab { dsc with b := 0, lo := 1 }) (unitAt one 0 64 e.1) fun c => match c.readDesc .unit (c.s.vreg (c.t c.low) 10).toNat 64 64 0 with
        | .ok (_, img) => tabOk img == e.2 && img == e.1
        | .error _ => false) = true ∧ tabDim (complex.toNat + 6) = 8 ∧ hasEight 0 = false ∧
    -- `mapr`: good at the last chunk of the share; past the share; open already
    meets (.mapr { dsc with b := 0 }) (unitAt global 0 32 (mapD 0x10000 + (65280 - 4096))) (fun c => match c.readDesc .unit 0 32 32 0 with
      | .ok (u, d) => (u.mapBad c.bk d).isNone && decide (bits d 31 0 + bits d 63 32 = u.shareSize c.bk .unit) && u.inBounds c.g.ctx 0 0x10000 256 && bentR (u.bent c.g.ctx 0) && bentW (u.bent c.g.ctx 0)
      | .error _ => false) = true ∧
    meets (.mapr { dsc with b := 0 }) (unitAt global 0 32 (mapD 0x10000 + (65536 - 4096))) (fun c => match c.readDesc .unit 0 32 32 0 with
      | .ok (u, d) => (u.mapBad c.bk d).isNone && decide (u.shareSize c.bk .unit < bits d 31 0 + bits d 63 32)
      | .error _ => false) = true ∧
    meets (.mapr { dsc with b := 0 }) { unitAt global 0 32 (mapD 0x10000) with maps := [(2, ⟨1024, 256, 0, false, 1⟩)] } (fun c => match c.readDesc .unit 0 32 32 0 with
      | .ok (u, d) => u.mapBad c.bk d == some 0x0A
      | .error _ => false) = true ∧
    -- `wback`, `unmapr`: no such map; a map and a slot
    (([.wback h0 2 3, .unmapr h0 2 3] : List Instr).all fun i => meets i three (fun c => c.act != [] && (look c.s.maps (8 * c.bk + 2)).isNone) &&
      meets i { three.setBar 0 3 { val := true } with maps := [(2, ⟨0, 256, 0, false, 1⟩)] } fun c => (look c.s.maps (8 * c.bk + 2)).isSome && (c.barBad 3).isNone && decide (c.f.log.length < 256)) = true ∧
    -- `cbinit`: a new buffer of two slots; one in use
    (([{}, { val := true, nslot := 2, free := 1, held := 1 }] : List CBuf).all fun b => meets (.cbinit { dsc with b := 0 }) ((unitAt one 0 16 bufD).setCbuf 0 4 b) fun c => match c.readDesc .unit 0 16 16 0 with
      | .ok (u, d) => d == bufD && decide (bits d 31 0 + bits d 70 64 * bits d 63 32 ≤ u.shareSize c.bk .unit) && ((u.cbuf c.core 4).busy == b.val)
      | .error _ => false) = true ∧
    -- `cbacq` and `cbrel`: not valid; empty; one filled; none held; one held
    (([.cbacq h0 5 4, .cbrel h0 4] : List Instr).all fun i => meets i one (fun c => !(c.s.cbuf c.core 4).val) &&
      meets i (one.setCbuf 0 4 { val := true, nslot := 2, free := 2 }) (fun c => (c.s.cbuf c.core 4).filled == 0 && (c.s.cbuf c.core 4).held == 0) &&
      meets i (one.setCbuf 0 4 { val := true, nslot := 2, filled := 1, held := 1 }) fun c => !c.f.loadsOut && !c.s.writesOut c.k c.f) = true := by
  decide +kernel

/-- Entry 7 of the directory binds name 0x42 in context 0 (R349); the grid's handle 5 is open on it. -/
def named : State :=
  { three with
    dir := [(7, BitVec.ofNat 256 (0x10000 * 2 ^ 192 + 0x42 * 2 ^ 128 + 3 * 2 ^ 96 + 256 * 2 ^ 40 + 2 ^ 39 + 2 ^ 38 + 1))]
    grids := [(0, { three.grid 0 with handles := [(5, ⟨7, 1⟩)] })] }

/-- Bind records at 0x10000 of the context's memory: one for name 0x42 (R358). -/
def binding : State := { setRegs global 3 20 fun _ => 1 with mem := setN (setN global.mem 0x100000 32 (0x42 + 0x10000 * 2 ^ 64 + 256 * 2 ^ 128)) 0x100040 8 0x42 }

theorem witness_DirectoryInstructions :
    -- name 0; not bound, in time and past it; bound
    three.bound 0 0x42 = none ∧ (named.bound 0 0x42 = some 7) ∧ three.clock 0 < 1 ∧ ¬(three.clock 0 < 0) ∧
    (([.dopen (rops 1 4 0 3), .dopenW (rops 1 4 6 3), .dclose (rops 0 5 0 0), .dptr (rops 2 5 0 0), .dquery (rops 1 5 0 0) 6] : List Instr).all fun i => meets i named fun c => c.act != [] && c.inBanks 64) = true ∧
    named.calm = true ∧ meets (.dopenW (rops 1 4 6 3 never)) named (fun c => c.act == []) = true ∧
    meets (.dopenW (rops 1 4 6 3)) (withFloe named fun f => { f with wait := .dopen [] [(0, 3, false, none)] }) (fun c => c.act != [] && decide (c.f.wait = .dopen [] [(0, 3, false, none)])) = true ∧
    meets (.dopenW (rops 1 4 6 3)) (setRegs (setRegs named 3 4 fun _ => 0x43) 3 6 fun _ => 9) (fun c => decide (c.f.wait = .none) && decide ((c.openAll (rops 1 4 6 3) true).2.2.length = 3)) = true ∧
    meets (.dopenW (rops 1 4 6 3)) (setRegs named 3 4 fun _ => 0x42) (fun c => decide (c.f.wait = .none) && decide ((c.openAll (rops 1 4 6 3) true).2.2 = [])) = true ∧
    ((named.grid 0).handle 5).isSome = true ∧ (named.grid 0).handle 261 = none ∧
    -- `dbind` of one record, `dunbind` of its name at the list's third line
    meets (.dbind (mops 1 4 0 20 .glob 0)) binding (fun c => c.act != [] && !c.f.loadsOut && (c.s.commit c.k).2 == none && !(c.s.commit c.k).1.writesOut c.k c.f &&
      match c.bindRead (c.s.commit c.k).1 (c.rdPair 4 c.low) (c.rdPair 4 c.low % 2 ^ 48) (c.rd1 2 20 c.low).toNat 32 with
      | .ok ps => decide (ps = [⟨0x100000, false⟩])
      | .error _ => false) = true ∧
    meets (.dunbind (rops 0 4 0 0)) (setRegs binding 3 4 fun _ => 0x10040) (fun c => match c.bindRead (c.s.commit c.k).1 (c.rdPair 4 c.low) (c.rdPair 4 c.low % 2 ^ 48) 1 8 with
      | .ok ps => decide (ps = [⟨0x100040, false⟩])
      | .error _ => false) = true ∧
    (([.dbind { mops 1 4 0 20 .glob 0 with h := never }, .dunbind (rops 0 4 0 0 never)] : List Instr).all fun i => meets i three fun c => c.act == []) = true ∧
    binding.bentPoison 0 0 = false := by
  decide +kernel

/-- `one` with the turn of its issue slot on the agenda. -/
def turn : State := { one with agenda := [.issue ⟨0, 0, 0⟩] }
/-- What a turn of issue slot 0 begins from. -/
def begun (s : State) : State := State.pace { s.tick with agenda := [] } (.issue ⟨0, 0, 0⟩)
/-- `turn` where the floe's slot is no instruction: OPC 0xFF. -/
def illegal : State := { turn with segs := [(0, { core := 0, ctx := 0, code := 1, seg := 1, lines := [header, 0x00085000#32 ++ 0#384 ++ 0xFF0700000000000000000000#96] })] }

theorem witness_encoding :
    -- EncodeThenDecode, DecodeThenEncode
    (Said.words.all fun e => e.2.wf && encode e.2 == some e.1 && match decode e.1 with
      | .ok i => i == e.2
      | .error _ => false) = true := by
  decide +kernel

theorem witness_turns :
    -- StepRunsDecodedSlot: a slot alone, and a pair whose first slot has issued; IllegalBitsTrap
    (begun turn).pick 0 = some 0 ∧ ({ begun turn with cur := floeIdOf 0 } : State).fetch 0 = some (.ok .nop) ∧ goes .nop { begun turn with cur := floeIdOf 0 } = true ∧
    (after .nop { begun turn with cur := floeIdOf 0 }).pairGoes 0 = false ∧ one.net = [] ∧
    (begun illegal).pick 0 = some 0 ∧ (({ begun illegal with cur := floeIdOf 0 } : State).floe? 0).isSome = true ∧
    ({ begun illegal with cur := floeIdOf 0 } : State).opens 0 ((({ begun illegal with cur := floeIdOf 0 } : State).floe? 0).getD {}) = true ∧
    (match ({ begun illegal with cur := floeIdOf 0 } : State).fetch 0 with
      | some (.error _) => true
      | _ => false) = true ∧
    (State.settleDue 64 (({ begun illegal with cur := floeIdOf 0 } : State).takeTrap 0 0x0001 [0] 0)).pairGoes 0 = false := by
  decide +kernel

/-- SHAKE256 of no bytes begins 46 B9 DD 2B (FIPS 202). -/
theorem test_shake256 : (shake256 []).extractLsb' 0 32 = 0x2BDDB946#32 := by
  decide +kernel

/-- `one` in a trial of delay 4 without a range, after an issue (R381's example takes D = 4). -/
def tried : State := ({ one with csrs := put one.csrs 0x323 0x80000004 } : State).countSched 0 1 0

/-- R381: an issue out of range holds its issue slot for D cycles; at D + 1 after it the slot picks again. -/
theorem test_trial_holds : tried.pick 0 = none ∧ ({ tried with clocks := put tried.clocks 0 (one.clock 0 + 4) } : State).pick 0 = none ∧
    ({ tried with clocks := put tried.clocks 0 (one.clock 0 + 5) } : State).pick 0 = some 0 := by
  decide +kernel

/-- `one` on a die whose hottest core stands at `temp`, its clock in units of 112.5 MHz. -/
def warm (temp clk : Nat) (p : Pkg := one.pkg) : State := { one with temps := [(3, temp), (4, 20)], pkg := { p with freq := [(0, clk)] } }

/-- R422: at 105 °C down a step, at 104 °C after it down again; a die slowed for heat does not rise at 104 °C, one slowed for power alone does; at
103 °C up; a capped die waits for 95 % of the cap, 4,560 W. -/
theorem test_throttle : ([(warm 105 16, 0, 15), (warm 104 12 { one.pkg with hotDies := 1 }, 0, 11), (warm 104 12 { one.pkg with heatDies := 1 }, 0, 12),
    (warm 104 12 { one.pkg with capDies := 1 }, 4560, 13), (warm 103 12 { one.pkg with hotDies := 1 }, 4560, 13),
    (warm 60 12 { one.pkg with capDies := 1 }, 4561, 12), (warm 60 16, 4801, 15)].all
      fun (e : State × Nat × Nat) => e.1.nextFreq 0 e.2.1 == e.2.2) = true := by
  decide +kernel

/-- Request 5 of floe 1's lane 0, to the four bytes at 0x100000, asked by a pending result 0. -/
def reqOf (k : Req.Kind) : Req :=
  { (default : Req) with floe := 0, fid := 1, block := 0, uid := 1, ctx := 0, lane := 0, kind := k, va := 0x10000, place := ⟨0x100000, false⟩, n := 4, data := 7, pend := some 0, group := 9 }
/-- It, and others, in the network, the result pending. -/
def asking (k : Req.Kind) (more : Tab Req := []) : State :=
  { withFloe one fun f => { f with pend := [{ n := 0, reg := 2, cnt := 1, need := [0] }] } with net := more ++ [(5, reqOf k)] }

theorem witness_RequestsAtTheirHome :
    -- what comes first: performed; an earlier one to the bytes; the shell away; nothing
    ({ reqOf .store with performed := true } : Req).performed = true ∧ (asking .load [(4, { reqOf .store with group := 8 })]).behind 5 (reqOf .load) = true ∧
    ({ asking .load with pkg := { shlost := 1 } } : State).shellUp 0x100000 = false ∧
    (([.load, .store, .atom 0 0 true, .atom 0 0 false, .sc, .lr, .stag, .ldtag] : List Req.Kind).all fun k => let s := asking k
      look s.net 5 == some (reqOf k) && (s.travel (reqOf k)).all (fun e => !s.behind e.1 e.2 && !s.replHeld e.2) && s.shellUp 0x100000 && !(reqOf k).performed &&
        (s.readsPoison (reqOf k) || !s.lateRace (reqOf k)) && (s.aliasOf (reqOf k).place).isNone && !(reqOf k).watched && !(reqOf k).place.sys) = true ∧
    (∀ ctx, (asking .load).ctxReg ctx 0x40 = 0) ∧ ({ asking .load with poison := [(0x8000, true)] } : State).readsPoison (reqOf .load) = true ∧
    -- a reservation that holds, and one that is broken
    ({ reqOf .sc with resv := some { gran := 0x8000, sys := false, broken := false, live := true } } : Req).holds = true ∧ ({ reqOf .sc with resv := some { gran := 0x8000, sys := false, broken := true, live := true } } : Req).holds = false ∧
    ((asking .load).floe? 0).map (·.fid) = some 1 := by
  exact ⟨by decide +kernel, by decide +kernel, by decide +kernel, by decide +kernel, fun _ => rfl, by decide +kernel, by decide +kernel, by decide +kernel, by decide +kernel⟩

/-- A pending result 0 of v2, ready, with its window ended or one instruction left, or awaited by lane 0. -/
def pended (need : List Nat) (left : Nat) : State := withFloe one fun f => { f with pend := [{ n := 0, reg := 2, cnt := 1, vals := [(0, [5])], need := need, left := left }] }
/-- A lane's thread-port request at unit banks 3 and 4, and the same at engine port. -/
def token (e : Bool) : Token := ⟨.unit, 0, 3, 2, e, 0, 1, 0, if e then none else some 0, none⟩
/-- A load stream of four words on port 0 with no element fetched yet, to the unit share at 1,024. -/
def loading (pos : Nat) : Stream :=
  { store := false, space := .unit, ty := .s32, count := 4, stride := 4, bidx := 0, tag := 0, lanes := [(0, 1024)], pos := [(0, pos)] }
def streaming (pos : Nat) : State := withFloe one fun f => { f with ports := [(0, loading pos)] }
/-- A completion on its way to slot 3 of core 0. -/
def arriving (b : Bar) : State := { atBar b with mcasts := [{ core := 0, slot := 3, uid := 1 }] }
def spawnOps : SpawnOps := ⟨h0, 0, 20, 0x100, 2, 0, false, false⟩
/-- A floe whose `spawn` stalled. -/
def spawning : State := { withFloe one fun f => { f with wait := .stall } with
  segs := [(0, { core := 0, ctx := 0, code := 1, seg := 1, lines := [header, 0x00085000#32 ++ 0#384 ++ (encode (.spawn spawnOps)).getD 0] })] }

theorem witness_ResultsPortsAndTimers :
    -- RESULT_WRITE: in time; awaited; window open
    (match (pended [] 0).floe? 0 with
      | some f => (f.pend.find? fun p => p.n == 0 && p.ready && p.left == 0).isSome
      | none => false) = true ∧
    (([pended [0] 0, pended [] 1] : List State).all fun s => match s.floe? 0 with
      | some f => f.pend.all fun p => !p.ready || p.left != 0
      | none => false) = true ∧
    -- BANK_SERVICE: the second of two tokens, at other banks of the first
    (let t := token false
     let u : Token := { t with bank := 9 }
     ({ one with tokens := [u, t] } : State).tokens = [u] ++ t :: [] ∧ t ∉ [u] ∧ 3 ∈ t.banks ∧ 4 ∈ t.banks ∧
       ∀ k ∈ t.banks, (∀ v ∈ [u], v.at .unit 0 k false = false) ∧ t.at .unit 0 k false = true) ∧
    -- STREAM_ELEMENT_ARRIVAL: the first and the last element
    (([0, 3] : List Nat).all fun i => match (streaming i).floe? 0 with
      | some f => (match Ctx.elements ⟨streaming i, 0, f, [0], 0, 0, (streaming i).grid 0, false, []⟩ (loading i) [(0, i)] with
        | .ok (u, vs) => vs == [(0, 0)] && (u.floe? 0).map (·.ports) == some f.ports
        | .error _ => false) && decide (i < 4)
      | none => false) = true ∧
    -- a completion: not valid, of another block; early, past 127; more to come, and the last with an arrival missing
    (([arriving {}, arriving { val := true, owner := 1 }, arriving { val := true }] : List State).all fun s => s.due == [] && s.grids.all fun e => e.2.stopping.isNone) = true ∧
    ((arriving {}).bar 0 3).val = false ∧ ((arriving { val := true, owner := 1 }).block ((arriving { val := true, owner := 1 }).bar 0 3).owner).uid = 0 ∧
    ((arriving { val := true }).block ((arriving { val := true }).bar 0 3).owner).uid = 1 ∧ ((arriving { val := true, early := 126 }).bar 0 3).early < 127 ∧
    ((arriving { val := true, early := 127 }).bar 0 3).early = 127 ∧ 1 < ((arriving { val := true, pend := 2 }).bar 0 3).pend ∧
    (((arriving { val := true, pend := 1, expt := 1 }).bar 0 3).pend = 1 ∧ ((arriving { val := true, pend := 1, expt := 1 }).bar 0 3).arr < ((arriving { val := true, pend := 1, expt := 1 }).bar 0 3).expt) ∧
    -- `dopen.w` at its timeout; a hold at 64 cycles and at 63; a bin at and before its time; a stalled `spawn`
    ((withFloe one fun f => { f with wait := .dopen [(0, 7, 0)] [] }).floe? 0).map (·.wait) = some (.dopen [(0, 7, 0)] []) ∧ (0 : Nat) ≤ one.clock 0 ∧
    (([64, 63] : List Nat).map fun n => (({ one with clocks := [(0, n)] } : State).clock 0, decide (0 + 64 ≤ ({ one with clocks := [(0, n)] } : State).clock 0))) = [(64, true), (63, false)] ∧
    look ({ one with bins := [(15, { blkr := 0, cont := 0x1000, lanes := [(1, 0)], opened := 0 })] } : State).bins 15 = some { blkr := 0, cont := 0x1000, lanes := [(1, 0)], opened := 0 } ∧
    (one.block (blockKey 0 0)).stops = [] ∧
    (match spawning.floe? 0 with
      | some f => f.wait == .stall && spawning.slotFree 0 && decide (spawning.fetch 0 = some (.ok (.spawn spawnOps)))
      | none => false) = true := by
  decide +kernel

/-- Lane 1's thread of block 0 starts at entry 0 of segment 1. -/
def start0 : Starting := { order := 1, blkr := 0, cont := 0x1000, lanes := [(1, 0)], since := 0 }
/-- Every floe slot of issue slot 0 is full, floe 5 as said, at clock 64, with a floe that has waited since clock 0. -/
def full (w : Wait) (saves : Nat) : State :=
  { one with
    clocks := [(0, 64)]
    floes := (List.range 32).map fun k => (k, { fid := 10 + k, lanes := [(k, 0)], segid := 1, line := 1, wait := if k = 5 then w else .none })
    starting := [(0, start0)]
    saves := (List.range saves).map fun i => (i, { fid := 60 + i, demoted := some 0, wait := .bar 3 false .blk }) }

theorem witness_FloeLaunchesAndDemotion :
    -- a demoted floe that waits for nothing more; a starting floe; a ready bin; a full slot
    ({ one with saves := [(2, { fid := 9, lanes := [(3, 0)], demoted := some 0 })] } : State).freeFloe 0 = some 1 ∧
    ({ one with saves := [(2, { fid := 9, lanes := [(3, 0)], demoted := some 0 })] } : State).candidate 0 = some (.save 2 { fid := 9, lanes := [(3, 0)], demoted := some 0 }) ∧
    ({ one with starting := [(0, start0)] } : State).candidate 0 = some (.start start0) ∧
    ({ one with bins := [(4, { blkr := 0, cont := 0x1000, lanes := [(1, 0)], opened := 0, ready := some 0 })] } : State).candidate 0 =
      some (.bin 4 { blkr := 0, cont := 0x1000, lanes := [(1, 0)], opened := 0, ready := some 0 }) ∧
    (match one.copyOf 0 (one.grid (one.block 0).grid).ctx (one.grid (one.block 0).grid).code (bits (0x1000#32).toNat 31 12) with
      | some e => decide ((0x1000#32).toNat % 16 = 0 ∧ bits (0x1000#32).toNat 11 4 < bits (hdrOf e.2) 50 45)
      | none => false) = true ∧
    (full .none 0).freeFloe 0 = none ∧ one.launchedNow 0 = false ∧ ({ one with sched := [(0, { launchAt := some (one.clock 0) })] } : State).launchedNow 0 = true ∧
    -- demotion, and exhaustion
    ((full (.bar 3 false .blk) 0).demotable 0).map (·.1) = some 5 ∧ (full (.bar 3 false .blk) 0).freeSave 0 = some 0 ∧ (full (.bar 3 false .blk) 0).crowded 0 true = true ∧
    ({ full (.bar 3 false .blk) 0 with clocks := [(0, 63)] } : State).crowded 0 true = false ∧
    ((full (.bar 3 false .blk) 0).commit 5).2 = none ∧ ((((full (.bar 3 false .blk) 0).commit 5).1.dropResv 5).floe? 5).isSome = true ∧
    ({ full .none 64 with bins := [(0, { blkr := 0, cont := 0x1000, lanes := [(1, 0)], opened := 0, ready := some 0 })] } : State).crowded 0 false = true ∧
    (full .none 64).demotable 0 = none ∧ (full .none 64).freeSave 0 = none ∧
    (leastBy (fun (e : Nat × Floe) => e.2.waitSince) ((slice (full .none 64).floes (32 * 0) (32 * 0 + 32)).filter (fun e => e.2.wait ≠ .none) ++
      slice (full .none 64).saves (64 * 0) (64 * 0 + 64))).map (·.2.fid) = some 60 := by
  decide +kernel

/-- The operation that `mma` posts on `matrix`, and it with its pass granted, its tracks valid. -/
def engine (g : Mma → Mma) : State := let s := after (.mma mm) matrix; { s with mmas := s.mmas.map fun e => (e.1, g e.2), clocks := [(0, 40)] }
def opOf (s : State) : Nat × Mma := s.mmas.headD (0, default)
/-- A marked write of another block's floe to the first byte of A is recorded. -/
def raced : State := (engine fun o => { o with granted := true }).raceWrite ⟨identFloe 77, false, identFloe 77, 0, [], false, 9, 5, {}, {}⟩ (.pad .unit 4096) 4

theorem witness_MatrixEngine :
    -- posted 40 cycles ago, its arrays free
    (((engine id).tableOps 0 0).filter fun e => !e.2.granted && decide (e.2.chunk < e.2.kk ∧ e.2.posted + 40 ≤ (engine id).clock 0)).length = 1 ∧
    (let o := (opOf (engine id)).2
     (o.parts.map fun p => p.block / 32) = [0] ∧ look (engine id).arrays 0 = none ∧ look (engine id).reserved 0 = none ∧ o.granted = false) ∧
    -- the end of a pass: fills to do; none; a race
    (let s := { engine fun o => { o with granted := true } with maps := [(1, ⟨4096, 256, 0x10000, false, 1⟩)] }
     (s.mmaFills (opOf s).1 (opOf s).2).isSome = true) ∧
    (let s := engine fun o => { o with granted := true }
     let o := (opOf s).2
     o.granted = true ∧ s.mmaFills (opOf s).1 o = none ∧ s.engineBusy (opOf s).1 = false ∧ s.latent = [] ∧ (o.reads o.chunk).length = 16 ∧
       (o.reads o.chunk).all (fun r => s.raceOk (s.mmaAgent o) (.pad .unit r.2.1) r.2.2) = true) ∧
    (let o := (opOf raced).2
     o.granted = true ∧ raced.mmaFills (opOf raced).1 o = none ∧ raced.engineBusy (opOf raced).1 = false ∧ raced.latent = [] ∧
       (o.reads o.chunk).any (fun r => raced.raceOk (raced.mmaAgent o) (.pad .unit r.2.1) r.2.2 == false) = true) ∧
    -- completion
    (let s := (engine fun o => { o with chunk := 1, acc := [[1, 2]] }).setBar 0 3 { val := true, pend := 2 }
     let o := (opOf s).2
     o.done = false ∧ o.waiting = false ∧ o.granted = false ∧ o.kk ≤ o.chunk ∧ o.acc = [[1, 2]] ∧ o.parts.map (·.block) = [o.block] ∧
       o.parts.map (fun p => (s.bar (o.block / 32) p.slot).val && decide (1 < (s.bar (o.block / 32) p.slot).pend) && (s.block (s.bar (o.block / 32) p.slot).owner).uid == o.uid) = [true]) ∧
    -- a retry whose checks pass, and one whose slot has been taken back
    (([({ val := true, pend := 1 }, none), ({}, some 6)] : List (Bar × Option Nat)).all fun v =>
      let s := (engine fun o => { o with waiting := true }).setBar 0 3 v.1
      let o := (opOf s).2
      o.pages == [] && !o.full && !s.handlerWaits o.grid && o.parts.all (fun p => !p.requeued) && (s.freeEntry o.die o.cluster).isSome && (s.block o.block).stops == [] && !s.banksLent (s.partsOf o.block o.pb.toNat) (some (opOf s).1) &&
        match s.floeBy o.floe o.fid with
        | some (k, f) => f.handler == [] && f.trap.isNone && s.paramBad k f o.block o.pb.toNat o.fw.toNat o.dim == v.2
        | none => false) = true := by
  decide +kernel


/-- The copy that `cpbox` posts on `boxed (box 0 0x10000)`, begun. -/
def copying : State := let s := after (.cpbox dsc) (boxed (box 0 0x10000)); { s with copies := s.copies.map fun e => (e.1, { e.2 with begun := true }) }
def copyOf (s : State) : Nat × Copy := s.copies.headD (0, default)
def elements (s : State) : State × List Nat × Option Halt := State.copyElements (copyOf s).2 ((List.range (cpCount (copyOf s).2.desc.toNat)).drop (copyOf s).2.next) s

/-- Map 2, writable, of the chunk at 4,096 of block 0's unit share at 0x10000, and a write-back of it. -/
def mapped : State := { global with maps := [(2, ⟨4096, 256, 0x10000, true, 1⟩)] }
def wback (un : Bool) : WBack :=
  { core := 0, block := 0, uid := 1, grid := 0, ctx := 0, floe := 0, map := 2, slot := 3, unmap := un, begun := true }

theorem witness_CopiesFillsAndWriteBacks :
    (({ copying with copies := copying.copies.map fun e => (e.1, { e.2 with begun := false }) } : State).copies.map fun e => e.2.runs) = [false] ∧
    -- nothing stops it; a host page; a shell away; no page; another tag; poison
    (copyOf copying).2.runs = true ∧ (elements copying).2 = ([], none) ∧
    (elements { paged copying with tlb := [], mem := setN (paged copying).mem 0x201000 8 0x800000004000000B }).2 = ([0, 1, 2, 3], some (.ats 0x10000)) ∧
    (elements { copying with pkg := { shlost := 1 } }).2 = ([0, 1, 2, 3], some .wait) ∧ (elements { paged copying with tlb := [], mem := setN (paged copying).mem 0x201000 8 0 }).2 = ([0, 1, 2, 3], some (.page 0x10000 .absent false)) ∧
    (elements { copying.setBent 0 0 (2 ^ 63 + 0xF8 * 2 ^ 48 + 0x10000 + 0x20000 * 2 ^ 64) with tags := [(0x8000, 3)] }).2 = ([0, 1, 2, 3], some (.lost 0x8004 0x10000)) ∧ (elements { copying with poison := [(0x8000, true)] }).2 = ([0, 1, 2, 3], some .poison) ∧
    -- a buffer's slot: none free, and one
    (let d := BitVec.ofNat 1024 (box (2 + 2 ^ 23 + 2 ^ 24) 0x10000)
     let cp : Copy := { (default : Copy) with uid := 1, desc := d }
     cpCmode d.toNat = true ∧ cpSel d.toNat = 4 ∧ cp.claimed = none ∧ (one.block cp.block).uid = cp.uid ∧
       ({ one with copies := [(9, cp)] } : State).copies = [] ++ (9, cp) :: [] ∧
       (([0, 2] : List Nat).all fun n => (look (({ one with copies := [(9, cp)] } : State).setCbuf 0 4 { val := true, nslot := 2, free := n }).cbufs 4).map (·.free) == some n) = true) ∧
    -- a fill whose page is there, and one whose map is closed
    (let s := { mapped with fills := [⟨2, 0, 0, 0, 1⟩, ⟨3, 0, 0, 0, 1⟩] }
     s.xlat 0 0 0x10000 false = .ok 0x10001F 0x10000 ∧ s.shellUp (leafPlace 0x10001F 0x10000 0x10000).pa = true ∧ s.poisoned (leafPlace 0x10001F 0x10000 0x10000) 256 = false ∧
       (look s.maps 2).isSome = true ∧ look s.maps 3 = none) ∧
    -- a write-back of a clean chunk, plain and of `unmapr`
    (([true, false] : List Bool).all fun un =>
      let s : State := { mapped with wbs := [(9, wback un)] }
      let r := State.wbChunks 9 (wback un) ⟨4096, 256, 0x10000, true, 1⟩ ((s.mapChunks 0 ⟨4096, 256, 0x10000, true, 1⟩).drop 0) 0 s
      (wback un).begun && (wback un).held == [] && r.2.1 == 1 && r.2.2 == none && !r.1.engineBusy 9) = true := by
  decide +kernel

def fpage (prg : Option Nat) : FPage := { die := 0, ctx := 0, base := 0x10000, write := false, since := 0, prg := prg }
/-- One page is due, and the host grants 32 outstanding. -/
def grouped : State := { one with fpages := [fpage none], clocks := [(0, 256)], pkg := { cfg := [((priBase + 12) / 4, 32)] } }
def task (pages : List (Nat × Nat × Bool)) : Task := { grid := 0, index := 1, drift := 1, drf := 0, core := 0, pages := pages }
/-- A host page at 0 of context 0, asked for by core 0. -/
def hosted : State := let s := paged one; { s with mem := setN s.mem 0x201000 8 0x800000004000000B, atsOut := [(0, 0, 16)] }

theorem witness_pageGroup : grouped.groupFits (grouped.dueGroup 0 0) = true ∧ grouped.dieBehind 0 = false ∧ grouped.pkg.priStop = false ∧
    (List.range 512).find? (fun i => !(grouped.fpages.filterMap fun p => if grouped.ctxPasid p.ctx = grouped.ctxPasid 0 then p.prg else none).contains i) = some 0 := by
  decide +kernel

/-- The floe has issued a load of 0x10000 with its walk still to end, and stands before it. -/
def walking (s : State) : State :=
  withFloe { s with blocks := s.blocks.map fun e => (e.1, { e.2 with committed := true }) } fun f =>
    { f with late := [⟨9, [(0, 0x10000, 0x10000)], 4, .z32, {}, 0, 0x1010, false⟩], pend := [{ n := 0, reg := 2, cnt := 1, left := 1, need := [0], load := true, replay := true }] }

theorem test_late_walk :
    -- R64: the walk ends well and the request goes out; or the floe, post-commit, is suspended where it stands, its window open
    ((after (.tlbWalkComplete ⟨0, 0⟩ 0 0x10000 false) (walking (paged one))).net.map fun e => (e.1, e.2.va, e.2.pend, e.2.coord)) = [(9, 0x10000, some 0, 0x1010#32)] ∧
    (let t := after (.tlbWalkComplete ⟨0, 0⟩ 0 0x10000 false) (let s := walking (paged one); { s with mem := setN s.mem 0x201000 8 0 })
     ((t.floe? 0).map fun f => (f.wait, f.pend.map (·.left))) = some (.page [(0, 0x10000, 0x10000)] [(0, 0x10000, false)] false, [1]) ∧ t.net = []) := by
  decide +kernel

theorem witness_TranslationEvents :
    ((walking (paged one)).lateAt 0 0 0x10000).isSome = true ∧ (paged one).lateAt 0 0 0x10000 = none ∧
    (paged one).walk 0 0x10000 true = .ok 0x4000000B (2 ^ 30) ∧ bits 0x4000000B 0 0 = 1 ∧
    -- an answer to one page, and to none
    (({ one with fpages := [fpage (some 5)] } : State).fpages.filter fun p => p.prg == some 5 && one.ctxPasid p.ctx == one.ctxPasid 0) = fpage (some 5) :: [] ∧
    (∀ p ∈ [fpage (some 5)], p.prg ≠ some 6) ∧
    -- a task with room, and one held
    (let s : State := { one with tasks := [task []], pkg := { live := 0xFF } }
     s.mayPlace 0 = true ∧ s.pkg.live.getLsbD (dieOf 0) = true ∧ s.roomOn (s.grid 0) 0 = true ∧ (({ s with tasks := [] } : State).startBlock 0 0 1 1 0 0 []).isSome = true) ∧
    ([task [(0, 0x10000, false)]][0]?).map (·.pages) = some [(0, 0x10000, false)] ∧
    -- a host page's completion, asked for and not
    hosted.atsOut.any (fun q => q.1 == 0 && q.2.1 == 0 && decide (0x10000 < 4096 * q.2.2 + 4096 ∧ 4096 * q.2.2 < 0x10000 + 0x10000)) = true ∧ hosted.walk 0 0x10000 false = .ats ∧
    (paged one).atsOut = [] ∧
    -- an Invalidate Request of context 0, and of no context; an invalidation with nothing on its way, and with a read
    (List.range 64).find? (fun c => (paged one).ctxVal c && (paged one).ctxPasid c == 5#20) = some 0 ∧
    ((List.range 64).all fun c => !(paged one).ctxVal c || (paged one).ctxPasid c != 6#20) = true ∧
    (let i : Inval := { ctx := 0, range := some (0x10000, 0x20000) }
     let s : State := { asking .load with invals := [i] }
     (s.floes.all fun e => !s.coveredFloe i.ctx i.range e) = true ∧ s.saved = [] ∧ (s.net.any fun e => e.2.ctx == 0 && !e.2.performed && inRange i.range e.2.va e.2.n) = true ∧
       (one.net.all fun e => e.2.performed) = true) := by
  decide +kernel

/-- A command of core 0 in a register, alone. -/
def commanded (csr : Nat) (v : Word) (args : List Word := []) : State := { one with cmds := [{ csr := csr, val := v, core := 0, ctx := 0, floe := some 0, args := args }] }
/-- A command of the host with its arguments; every die has its memory. -/
def hostAsks (op : Nat) (args : List DWord) (s : State := State.reset) : State :=
  { s with pkg := { s.pkg with hmap := 0xFF, cmdOp := some op, cmdRun := args.zipIdx.map fun e => (e.2, e.1) } }

theorem witness_BoundsAndInvalidationCommands :
    (([(0x209, 1), (0x209, 2), (0x209, 3), (0x212, 1), (0x212, 2)] : List (Nat × Word)).all fun e =>
      ((commanded e.1 e.2).takeCmd (CoreId.key ⟨0, 0⟩) e.1 e.2).isSome) = true ∧
    -- the host's commands at both sides of their limits
    (([2, 3, 4] : List Nat).all fun op => (hostAsks op [0, 0, 0]).hostCmd op) = true ∧
    (hostAsks 2 [63, 0xFFFFFFFFFFFF]).cmdArg 1 < 2 ^ 48 ∧ 2 ^ 48 ≤ (hostAsks 2 [63, 0x1000000000000]).cmdArg 1 ∧ 64 ≤ (hostAsks 3 [64]).cmdArg 0 ∧ (hostAsks 3 [63]).cmdArg 0 < 64 ∧
    (hostAsks 4 [0, 4095, 0]).cmdArg 1 < 4096 ∧ 4096 ≤ (hostAsks 4 [0, 4096, 0]).cmdArg 1 ∧ (hostAsks 4 [0, 0, 0]).cmdArg 2 + 32 ≤ (hostAsks 4 [0, 0, 0]).memTop ∧
    (hostAsks 4 [0, 0, 0xFFFFFFFFFFFFFFFF]).memTop < (hostAsks 4 [0, 0, 0xFFFFFFFFFFFFFFFF]).cmdArg 2 + 32 := by
  decide +kernel

/-- A floe that waits for entry 0 of segment 2; core 0 holds a copy of it, or not. -/
def waiting (held : Bool) : State := let s := withFloe one fun f => { f with wait := .seg 0x2000 }; if held then s else { s with segs := s.segs.take 1 }
def segReq : SegReq := ⟨0, 0, 0, 1, 2⟩
def kept (fault : Option (Nat × DWord)) : State :=
  { waiting false with segReqs := [segReq], forms := [{ die := 0, ctx := 0, code := 1, seg := 2, lines := [header, 0x00085000#32 ++ 0#480], fault := fault }] }
def bindRec (name : BitVec 64) : BindRec := ⟨name, 0, 0, 0, 0, 0, 0⟩

theorem witness_CodeAndDirectoryEvents :
    -- a request: joined, new, served already
    (match (waiting false).floe? 0 with
      | some f => (waiting false).needsSeg 0 f == some (0, 1, 2)
      | none => false) = true ∧
    ((waiting false).block 0).stops = [] ∧ (waiting false).copyOf 0 0 1 2 = none ∧ ((waiting true).copyOf 0 0 1 2).isSome = true ∧ segReq ∉ (waiting false).segReqs ∧ segReq ∈ (kept none).segReqs ∧
    -- a delivery: to no core, of a kept fault, of a kept form; none kept and nothing to wait for
    ((kept none).segReqs.filter fun r => r.die == 1) = [] ∧ ((kept none).segReqs.filter fun r => r.die == 0 && r.ctx == 0 && r.code == 1 && r.seg == 2).map (·.core) = [0] ∧
    (kept none).formKept 0 0 1 2 = true ∧ (match ((kept none).serve 0 0 1 2).1 with
      | .ok ls => ls.length == 2
      | .error _ => false) = true ∧
    (match ((kept (some (2, 0))).serve 0 0 1 2).1 with
      | .error f => f == (2, 0, true)
      | .ok _ => false) = true ∧
    (let s : State := { waiting false with segReqs := [segReq] }
     s.codeWait 0 1 2 = none ∧ s.codePoison 0 1 2 = false) ∧
    -- it fits, for a floe in the middle of the segment
    (let s : State := withFloe { one with segs := one.segs.take 1 } fun f => { f with segid := 2, copy := 9 }
     ((evictFor 0 2 1025 s).map (·.1)) = some 2 ∧ ((s.waiters 0 0 1 2).all fun e => match e.2.wait with
       | .seg _ => false
       | _ => true) = true ∧ (s.waiters 0 0 1 2).length = 1) ∧
    -- the recall: a bad argument; begun; with a floe in a stale copy; with none
    (hostAsks 1 [64]).hostCmd 1 = true ∧ 64 ≤ (hostAsks 1 [64]).cmdArg 0 ∧ (hostAsks 1 [0, 1, 1] one).recalls = [] ∧
    ((hostAsks 1 [0, 1, 1] one).beginRecall 0 1 1).inStale 0 1 1 = true ∧ ((hostAsks 1 [0, 1, 2] one).beginRecall 0 1 2).inStale 0 1 2 = false ∧
    -- an object in use and one that is not; the driver's records
    (one.grids.any fun e => e.2.ctx == 0 && e.2.code == 1 && e.2.placed) = true ∧ (one.grids.all fun e => !(e.2.ctx == 0 && e.2.code == 2 && e.2.placed)) = true ∧
    State.reset.bindStatus 0 ([bindRec 0x42].map BindRec.raw) = 0 ∧ State.reset.bindStatus 0 ([bindRec 0].map BindRec.raw) = 4 ∧ State.reset.bindStatus 0 ([].map BindRec.raw) = 1 := by
  decide +kernel

/-- `record` with STAT at 0x10000 of bounds entry 0, and with more launched: `blocks` blocks, bit 4 of word 0 for a co-resident launch, ENTRY 0x2000. -/
def launch (blocks : Nat) (co : Bool := false) : BitVec 512 := BitVec.ofNat 512
  ((record 0).toNat + 0x10000 * 2 ^ 256 + (blocks - 1) * 2 ^ 320 + (if co then 16 else 0))
/-- Context 0 is bound to PASID 5, the package runs, die 0 has a spill area, and bounds entry 0 grants STAT. -/
def booted : State :=
  let s := paged (global.setBent 0 0 (2 ^ 63 + 0x78 * 2 ^ 48 + 0x10000 + 0x20000 * 2 ^ 64))
  { s with dieRegs := [(2, 0x30000000)], pkg := { s.pkg with boot := 6, hmap := 0xFF } }
/-- A launch that is accepted and not begun: grid 7; every core of die 0 but the first is avoided. -/
def accepted (blocks : Nat) (co : Bool := false) : State :=
  { booted with grids := booted.grids ++ [(7, { lrec := launch blocks co, order := 7, dies := 1, mask := 3 })], avoid := (List.range 127).map fun c => (c + 1, 1), floes := [], blocks := [], threads := [] }

theorem witness_LaunchesAndPlacement :
    -- what is discarded: another size, context, PASID; a PASID bound twice; a package that is not ready
    booted.ctxVal 0 = true ∧ booted.ctxPasid 0 = 5#20 ∧ booted.pasidTwice 0 = false ∧ booted.pkg.ready = true ∧ booted.ctxVal 63 = false ∧
    ({ booted with ctxTab := booted.ctxTab ++ booted.ctxTab.map fun e => (1, e.2) } : State).pasidTwice 0 = true ∧ State.reset.pkg.ready = false ∧
    -- accepted; no place; no STAT
    booted.hasPlace 0 = true ∧ booted.statOk { ctx := 0, lrec := launch 1, order := booted.nextId } = true ∧
    ({ booted with grids := (List.range 256).map fun n => (n, default) } : State).hasPlace 0 = false ∧ State.reset.statOk { ctx := 0, lrec := launch 1, order := 1 } = false ∧
    (booted.ctxReg 0 0x48).toNat < 2 ^ 32 - 1 ∧
    -- a device-side launch: alone, and behind one of its context
    ({ booted with launches := [(1, launch 1, 0, 1, 0), (0, launch 1, 0, 1, 0)] } : State).launches[1]? = some (0, launch 1, 0, 1, 0) ∧
    (∀ x ∈ ({ booted with launches := [(1, launch 1, 0, 1, 0), (0, launch 1, 0, 1, 0)] } : State).launches.take 1, x.1 ≠ 0) ∧
    -- distribution: held by a stop; a round; together
    ({ accepted 1 with pkg := { rebuild := true } } : State).mayPlace 7 = false ∧
    (([accepted 2, accepted 1 true] : List State).all fun s => s.mayPlace 7 && !s.serHeld 7) = true ∧ ((accepted 2).grid 7).coRes = false ∧ ((accepted 1 true).grid 7).coRes = true ∧
    ((accepted 2).grid 7).again = [] ∧ ((accepted 2).grid 7).handed < ((accepted 2).grid 7).drifts ∧ (accepted 2).replMode 0 ≠ 2 ∧ (accepted 2).earlierFirst 7 = false ∧
    -- a scrub that is its block's last, one that is not, and none
    ({ one with scrubs := [(0, 0, 256, 0)] } : State).scrubs[0]? = some (0, 0, 256, 0) ∧ ({ one with scrubs := ({ one with scrubs := [(0, 0, 256, 0)] } : State).scrubs.eraseIdx 0 } : State).scrubs = [] ∧
    (([(0, 0, 256, 0), (1, 0, 256, 0)] : List (Nat × Nat × Nat × Nat)).eraseIdx 0).any (fun y => y.2.2.2 == 0) = true ∧ one.scrubs[0]? = none := by
  decide +kernel

theorem witness_placement :
    ((accepted 2).round 7 true).isSome = true ∧ ((accepted 1 true).together 7).isSome = true ∧
    -- a die places its next drift
    (let s := (accepted 2).modGrid 7 fun g => { g with handed := 2, ranges := [⟨0, 0, 2⟩] }
     s.placeable 0 = true ∧ (s.grid 7).nextDrift 0 = some 0 ∧ (s.placeDrift 7 0 0).isSome = true) ∧ ((accepted 2).startBlock 7 0 0 0 0 0 []).isSome = true := by
  decide +kernel

/-- The package runs, and every die's memory is there. -/
def running : State := { State.reset with pkg := { boot := 6, ready := true, live := 0xFF, hmap := 0xFF } }

/-- `one` whose grid has ended all its blocks. -/
def ended (st : Nat) : State := { (floeOf 1).modGrid 0 fun g => { g with state := st, done := 1, retired := st == 3 } with floes := [], blocks := [], threads := [] }
def halting (pre : List Nat) : State := { one.modGrid 0 fun g => { g with stopping := some (2, 4) } with preempting := pre }
/-- Context 0, its one block placed, is preempted; a launch of context 1 of CPRI 1 waits for a die that context 0 fills. -/
def savedCtx : Saved := { ctx := 0, blocks := [(0, { uid := 1 })] }

theorem witness_GridEndsAndPreemption :
    (ended 1).gridDone 0 = true ∧ ((ended 1).grid 0).state = 1 ∧ ((ended 1).grid 0).stopping = none ∧ ((ended 3).grid 0).retired = true ∧ (ended 3).gridDone 0 = true ∧ one.gridDone 0 = false ∧
    (look one.grids 0).map (·.state) = some 1 ∧ ((one.modGrid 0 fun g => { g with state := 3 }).grid 0).state = 3 ∧ ((one.modGrid 0 fun g => { g with state := 3 }).grid 0).retired = false ∧
    -- a stop that is on its way, and one that waits for a preemption
    (one.grid 0).stopping = none ∧ ((halting []).grid 0).stopping = some (2, 4) ∧ (halting []).haltWaits 0 2 = false ∧ (halting [0]).haltWaits 0 2 = true ∧
    -- preemption: no victim; under way, drained and not
    one.victim 0 = false ∧ running.windowOn = true ∧ (0 ∉ running.preempting) ∧ running.saved = [] ∧ (0x700000001#64 : DWord).toNat % 2 ^ 32 = 1 ∧ (0 ∉ one.preempting) ∧ one.saved = [] ∧ ({ one with preempting := [0] } : State).drained 0 = true ∧
    ({ { asking .load with preempting := [0] } with net := [(5, reqOf .load)] } : State).drained 0 = false ∧ (look one.blocks 0).isSome = true ∧
    -- resumption: room, and a core that is taken
    ({ one with blocks := [], saved := [savedCtx], pkg := { live := 1 } } : State).roomToResume savedCtx = true ∧ ({ one with saved := [savedCtx] } : State).roomToResume savedCtx = false ∧
    (one.grids.all fun e => !(decide (one.ctxPri 0 < one.ctxPri e.2.ctx))) = true := by
  decide +kernel

/-- A debug command of core 1 on block 0 of core 0: `more` is what it noted when it began. -/
def debug (v : Word) (args : List Word) (b : Block := { uid := 1 }) (s : State := one) : State :=
  { s with blocks := [(0, b)], cmds := [{ csr := 0x301, val := v, core := 1, ctx := 0, floe := none, args := args }] }
def asked (v : Word) (s : State) : Option Cmd := s.dcmd ⟨0, 1⟩ v
def noBlock : Word := 1
/-- Sampling every 256 cycles on core 0, the clock at a value. -/
def sampling (n : Nat) : State := { one with csrs := [(0x320, 256)], clocks := [(0, n)], ctxRegs := [(4, 0x10000)] }

theorem witness_DebugCommands :
    -- no such block
    (([1, 2, 4, 5, 6] : List Word).all fun v => match asked v (debug v [noBlock, 0, 0, 0]) with
      | some x => ((debug v [noBlock, 0, 0, 0]).target x).isNone && !x.begun
      | none => false) = true ∧
    -- Stop: stopped already, new, and under way, drained
    (([{ uid := 1, stops := [1] }, { uid := 1 }] : List Block).all fun b => match asked 1 (debug 1 [0, 0, 0, 0] b) with
      | some x => ((debug 1 [0, 0, 0, 0] b).target x) == some b && !x.begun
      | none => false) = true ∧
    (match asked 1 (debug 1 [0, 0, 0, 0, 1] { uid := 1, stops := [1] }) with
      | some x => x.begun && decide (((debug 1 [0, 0, 0, 0, 1] { uid := 1, stops := [1] }).block x.tblk).uid % 2 ^ 32 = x.arg 4) && (debug 1 [0, 0, 0, 0, 1] { uid := 1, stops := [1] }).quiet x.tblk
      | none => false) = true ∧
    -- Halts, begun and not
    (([2, 3] : List Word).all fun v => ([[0, 0, 0, 0], [0, 0, 0, 0, 0]] : List (List Word)).all fun a => match asked v (debug v a) with
      | some x => x.begun == decide (a.length = 5)
      | none => false) = true ∧
    -- Resume of each kind of stop, Step and Dump of a stopped block and of one that runs
    (([[1], [1, 2], [4], [3], [5]] : List (List Nat)).all fun n => match asked 4 (debug 4 [0, 0, 0, 0] { uid := 1, stops := n }) with
      | some x => ((debug 4 [0, 0, 0, 0] { uid := 1, stops := n }).target x).map (·.stops) == some n
      | none => false) = true ∧
    (([([], false), ([1], true), ([1, 5], true), ([5], false)] : List (List Nat × Bool)).all fun e =>
      (debug 5 [0, 0, 0, 0] { uid := 1, stops := e.1 }).isStopped 0 == e.2 && (asked 5 (debug 5 [0, 0, 0, 0] { uid := 1, stops := e.1 })).isSome) = true ∧
    ((debug 6 [0, 0, 0, 64] { uid := 1, stepping := some (1, 0) }).blocks.find? fun e => match e.2.stepping with
      | some (i, t) => (i == 1 || i == 1025) && decide (t ≤ one.clock 0)
      | none => false).isSome = true ∧
    (let s := { debug 6 [0, 256, 0, 64] { uid := 1, stops := [1] } with pkg := { hmap := 0xFF } }
     s.isStopped 0 = true ∧ s.dumps = [] ∧ 256 + (s.dumpOf 0 64).1.length ≤ s.memTop) ∧
    (({ one with dumps := [⟨1, 0, 256, [0], true⟩] } : State).dumps.find? fun d => d.issuer == 1 || d.issuer == 1025).isSome = true ∧
    (asked 7 (debug 7 [0, 1, 1, 0])).isSome = true ∧
    -- remote commands inside their registers and past them
    (([8, 9] : List Word).all fun v => ([(0x310, true), (0x325, true), (0x326, false), (0x330, true), (0x37F, true), (0x30F, false)] : List (Word × Bool)).all fun n =>
      match asked v (debug v [0, n.1, 0, 0]) with
      | some x => x.remoteOk == n.2
      | none => false) = true ∧
    -- sampling off, not yet, a sample, and one with no thread
    one.samplePeriod 0 = 0 ∧ (sampling 255).clock 0 < (sampling 255).sampleAt 0 ∧ (sampling 256).sampleAt 0 ≤ (sampling 256).clock 0 ∧ (sampling 256).ringSet 0 = true ∧ one.ringSet 0 = false ∧
    (((List.range 32).map fun i => (31 + 1 + i) % 32).find? fun w => (look (sampling 256).threads (threadKey 0 0 w)).isSome) = some 0 ∧
    (((List.range 32).map fun i => (31 + 1 + i) % 32).find? fun w => (look (sampling 256).threads (threadKey 0 1 w)).isSome) = none := by
  decide +kernel

def errAt (array : Nat) (addr : Nat) : ErrRec := { die := 0, core := 0, array := array, addr := addr, synd := 1, ctx := none, inj := false, ue := true }

theorem witness_ErrorEvents :
    (([1, 2, 3] : List Word).all fun v => ((commanded 0x381 v [0]).errCmd ⟨0, 0⟩ 0x381 (· == v)).isSome) = true ∧
    ((commanded 0x38D 0x80000001 []).errCmd ⟨0, 0⟩ 0x38D (fun v => v.getLsbD 0)).isSome = true ∧
    -- an error with no injection, and one that an injection stored
    (one.latent.find? fun r : Arm => r.array == 1) = none ∧
    (({ one with latent := [⟨0, 1, 0x40, 1, 3⟩] } : State).latent.find? fun r => r.array == 1 && r.core == errPlace 1 0 0 && wordMeets 1 r.addr 0x40 1) = some ⟨0, 1, 0x40, 1, 3⟩ ∧
    one.elEntries 0 1 = [] ∧ ((List.range 64).map (elKey 0 1)).find? (fun k => (look one.errlog k).isNone) = some (elKey 0 1 0) ∧
    -- a word that a grid owns, one that none owns
    one.ownerOf 1 (errPlace 1 0 0) 0x40 = some 0 ∧ one.ownerOf 1 (errPlace 1 0 0) 0x70000 = none ∧
    -- a fresh copy and a stale one in the segment store, and none; an entry of a TLB, and none
    ((one.clearWord 5 0 8).copyAt 0 8).map (·.2.stale) = some false ∧ ((State.clearWord { one with segs := one.segs.map fun e => (e.1, { e.2 with stale := true }) } 5 0 8).copyAt 0 8).map (·.2.stale) = some true ∧
    (State.reset.clearWord 5 0 8).copyAt 0 8 = none ∧ ((State.clearWord { one with tlb := [(0, default)] } 7 0 0).tlbAt 0 0).isSome = true ∧ (one.clearWord 7 0 0).tlbAt 0 9 = none := by
  decide +kernel

theorem witness_WindowRegistersAndPorts :
    running.windowOn = true ∧ State.reset.windowOn = false ∧ (1 : Nat) ≤ running.pkg.boot ∧ running.answers (wreg 0x40) = true ∧ State.reset.answers (wreg 0x40) = false ∧
    wreg 0x20038 = .ctx 0 0x38 ∧ wreg 0x23F48 = .ctx 63 0x48 ∧ wreg 0x24000 = .none ∧
    running.answers (wreg 0x30000) = true ∧ wreg 0x48 = .glob 0x48 ∧
    -- within memory and past it; a lost shell; poisoned and not; within BAR2 and past it
    0x1000 + 8 ≤ running.memTop ∧ running.memTop < 2 ^ 50 + 8 ∧ running.shellsUp 0x1000 8 = true ∧ ({ running with pkg := { running.pkg with shlost := 0xFF } } : State).shellsUp 0x1000 8 = false ∧
    2 ^ 30 - 1 < running.bar2Size ∧ ¬(2 ^ 30 < running.bar2Size) ∧ running.poisoned ⟨0x1000, false⟩ 8 = false ∧
    ({ running with poison := [(0x80, true)] } : State).poisoned ⟨0x1000, false⟩ 8 = true ∧
    -- configuration requests before the collective firmware and after
    State.reset.pkg.boot < 2 ∧ State.reset.pkg.recovery = false ∧ State.reset.pkg.alarm = false ∧ (2 : Nat) ≤ running.pkg.boot ∧ (0x04 : Nat) ≠ rbarBase + 8 := by
  decide +kernel

/-- A collective record: operation 1, format 11, two elements at 0x100 into 0x200, completion word at 0x300. -/
def collRec : BitVec 512 := BitVec.ofNat 512 (1 + 11 * 256 + 2 * 2 ^ 32 + 0x100 * 2 ^ 64 + 0x200 * 2 ^ 128 + 0x300 * 2 ^ 256)

theorem witness_HostCommandsAndCollectives :
    -- a link schedule: both ends of its arguments, tables that break the rules, and tables of class 0 alone
    (hostAsks 5 [63, 63, 0]).hostCmd 5 = true ∧ (hostAsks 5 [63, 63, 0]).cmdArg 1 < 64 ∧ (hostAsks 5 [64]).cmdArg 0 = 64 ∧ (hostAsks 5 [63, 63, 0]).cmdArg 2 + 1152 ≤ (hostAsks 5 [63, 63, 0]).memTop ∧
    imageTablesOk (getBs State.reset.mem 0 1152) = true ∧ imageTablesOk (0x0F#8 :: getBs State.reset.mem 0 1151) = false ∧
    -- a checkpoint: a range past memory; between ranges; after the last; a piece
    (([6, 7] : List Nat).all fun op =>
      let s := hostAsks op [0x1000, 1]
      let u : State := { s with mem := setN (setN s.mem 0x1000 8 0x2000) 0x1008 8 64 }
      let v : State := { s with mem := setN s.mem 0x1008 8 (2 ^ 60) }
      s.hostCmd op && (v.ckptRanges.any fun r => decide (v.memTop < r.1 + r.2)) && (u.ckptRanges.all fun r => decide (r.1 + r.2 ≤ u.memTop)) &&
        decide (pieceOf u.ckptRanges 0 0 = some (0x2000, 64)) && decide (pieceOf u.ckptRanges 0 1 = none) && decide (u.ckptRanges.length ≤ 0 + 1) &&
        decide (pieceOf [(0, 64), (64, 64)] 0 1 = none ∧ 0 + 1 < [(0, 64), (64, 64)].length)) = true ∧
    (hostAsks 6 [0x1000, 1]).shellsUp 0x2000 64 = true ∧ (hostAsks 6 [0x1000, 1] { State.reset with pkg := { shlost := 0xFF } }).shellsUp 0x2000 64 = false ∧
    ({ running with outbox := [.record 3 0x2000 0xFF [1] 7 [9, 8]] } : State).tierRecords 3 = [(0x2000, [1], [9, 8])] ∧
    (max 0x2000 0x2010 < 32 * (0x2010 / 32 + 0) + 32 ∧ 32 * (0x2010 / 32 + 0) < min (0x2000 + 64) (0x2010 + 2)) ∧
    (hostAsks 5 [63, 63, 0]).shellsUp 0 1152 = true ∧ running.shellsUp 0x100 8 = true ∧ running.shellsUp 0x200 8 = true ∧ running.shellsUp 0x300 4 = true ∧
    -- an image: a bad length, a good one (whether it verifies is the trust root's, log 9)
    (hostAsks 9 [0, 1, 2]).pkg.cmdOp = some 9 ∧ (hostAsks 9 [0, 1, 2]).cmdArg 1 ≠ ([] : List Byte).length ∧ (hostAsks 9 [0, 1, 2]).cmdArg 1 = [0#8].length ∧ (hostAsks 9 [0, 1, 6]).cmdArg 2 = 6 ∧
    -- a collective: a reserved value, and a good record with its contribution
    collOf 0 (collRec.toNat + 2 ^ 12) = none ∧ collOf 0 collRec.toNat = some ⟨0, 1, 11, 2, 0x100, 0x200, 0x300, 0⟩ ∧ running.windowOn = true ∧
    look ({ running with colls := [(3, ⟨0, 1, 11, 2, 0x100, 0x200, 0x300, 0⟩)] } : State).colls 3 = some ⟨0, 1, 11, 2, 0x100, 0x200, 0x300, 0⟩ ∧ (∀ l ∈ [[5#32, 6#32]], l.length = 2) := by
  decide +kernel

/-- `running` at a time of the package's clock, in microseconds. -/
def atUs (n : Nat) : State := { running with clocks := [(8, n * Config.cyclesPerUs)] }
/-- Die 1 was heard at time 0, the others now. -/
def heard (n : Nat) : State := { atUs n with beats := (List.range 8).flatMap fun h => ((List.range 8).filter (· ≠ 1)).map fun d => (16 * h + d, 5, n * Config.cyclesPerUs) }

theorem witness_LinksAndFences :
    (running.link 0 8).retired = false ∧ (running.link 0 8).corrupt = false ∧ ((running.corruptLink 0 8 1).link 0 8).corrupt = true ∧
    -- heartbeats: in time, too early, received
    running.pkg.live.getLsbD 3 = true ∧ ((atUs 10).beat 3 3).2 + 10 * Config.cyclesPerUs ≤ (atUs 10).clock 8 ∧ (atUs 9).clock 8 < ((atUs 9).beat 3 3).2 + 10 * Config.cyclesPerUs ∧
    ({ running with beatNet := [⟨0, 7, [(1, 2)]⟩] } : State).beatNet[0]? = some ⟨0, 7, [(1, 2)]⟩ ∧
    -- a silent die at 30 µs, not before, and the die that fences it
    (heard 30).silent 1 = true ∧ (heard 29).silent 1 = false ∧ look (heard 30).pkg.fencing 1 = none ∧
    (List.range 8).find? (fun d => d ≠ 1 && (heard 30).pkg.live.getLsbD d && !(heard 30).silent d) = some 0 ∧
    -- a fence out, before and at its time
    (let s := fun n => { atUs n with pkg := { running.pkg with fencing := [(1, 100 * Config.cyclesPerUs)] } }
     look (s 99).pkg.fencing 1 = some (100 * Config.cyclesPerUs) ∧ (s 99).clock 8 < 100 * Config.cyclesPerUs ∧ 100 * Config.cyclesPerUs ≤ (s 100).clock 8) ∧
    running.pkg.shlost.getLsbD 1 = false ∧
    -- RESET_DIE: not fenced; fenced
    (hostAsks 8 [1]).hostCmd 8 = true ∧ (hostAsks 8 [1]).pkg.fenced.getLsbD ((hostAsks 8 [1]).cmdArg 0) = false ∧
    (hostAsks 8 [1] { running with pkg := { running.pkg with fenced := 2 } }).pkg.fenced.getLsbD 1 = true := by
  decide +kernel

theorem witness_PowerEvents :
    -- power-up's steps that need no image, and an image that is missing (one that verifies is the trust root's, log 9)
    State.reset.pkg.boot = 0 ∧ State.reset.pkg.recovery = false ∧ State.reset.pkg.alarm = false ∧
    (([1, 2, 3, 4, 5, 6] : List Nat).all fun n => decide (({ State.reset with pkg := { boot := n } } : State).pkg.boot = n)) = true ∧
    -- S1: a block; none, from the start and after 10 µs
    (one.blocks.any fun b => b.1 / 4096 == 0) = true ∧ running.blocks = [] ∧ look running.pkg.idleSince 0 = none ∧
    (let s := { atUs 10 with pkg := { running.pkg with idleSince := [(0, 0)], waketol := 2 } }
     look s.pkg.idleSince 0 = some 0 ∧ 0 + 10 * Config.cyclesPerUs ≤ s.clock 8 ∧ 2 ≤ s.pkg.waketol) ∧
    -- S2 and S3 at their times
    (let s := { atUs 1001 with pkg := { running.pkg with waketol := 350, idle := 1 } }
     s.pkg.ready = true ∧ s.pkg.pst < 2 ∧ s.idleAll = true ∧ s.pkg.idle + 1000 * Config.cyclesPerUs ≤ s.clock 8 + 1) ∧
    (let s := { atUs 100001 with pkg := { running.pkg with waketol := 2000, idle := 1 } }
     s.pkg.ready = true ∧ s.pkg.pst ≠ 3 ∧ s.ckpt = none ∧ s.colls = [] ∧ s.pkg.spdmBusy = [] ∧ s.idleAll = true ∧ s.pkg.idle + 100000 * Config.cyclesPerUs ≤ s.clock 8 + 1) ∧
    -- a step too soon after the last, at its time, and the first
    (let s := fun n => { atUs n with pkg := { running.pkg with stepAt := [(0, 0)] } }
     look (s 999).pkg.stepAt 0 = some 0 ∧ (s 999).clock 8 < 0 + 1000 * Config.cyclesPerUs ∧ 0 + 1000 * Config.cyclesPerUs ≤ (s 1000).clock 8 ∧ look running.pkg.stepAt 0 = none) ∧
    -- readings of a die's cores, with the alarm and without
    ([20, 115] : List Nat)[1]? = some 115 ∧ ([20, 98] : List Nat)[1]? = some 98 ∧ 1 < Config.coresOf 0 ∧ (∀ x ∈ ([20, 98] : List Nat), x < 115) ∧
    -- avoidance for droops that runs, before its end and at it
    (let s := fun n => { atUs n with avoid := [(0, 2 * (1000 * Config.cyclesPerUs))] }
     2 ≤ lookD 0 (s 999).avoid (CoreId.key ⟨0, 0⟩) ∧ (s 999).clock 8 < lookD 0 (s 999).avoid (CoreId.key ⟨0, 0⟩) / 2 ∧ lookD 0 (s 1000).avoid (CoreId.key ⟨0, 0⟩) / 2 ≤ (s 1000).clock 8) := by
  decide +kernel

theorem witness_AttestationAnswers :
    State.reset.spdmOn = false ∧ running.spdmOn = true ∧ (([0, 1, 2, 3] : List Nat).all fun n => lookD 0 ({ running with pkg := { running.pkg with spdm := [(4, n)] } } : State).pkg.spdm 4 == n) = true ∧
    ({ running with pkg := { running.pkg with meas := [(2, 0x1234)] } } : State).pkg.meas = [(2, 0x1234)] ∧ look running.pkg.meas 2 = none := by
  decide +kernel

/-! ## One step, by hand calculation from the rules -/

/-- Register `r` of lane `l` after `i`, as a number. -/
def reg (i : Instr) (s : State) (l r : Nat) : Nat := ((after i s).vreg (32 * l) r).toNat
/-- One lane with v4 = a, v5 = b and v6 = c. -/
def abc (a b c : Nat) : State := setRegs (setRegs (setRegs one 1 4 fun _ => BitVec.ofNat 32 a) 1 5 fun _ => BitVec.ofNat 32 b) 1 6 fun _ => BitVec.ofNat 32 c
/-- Lane `l` holds `v l` in v4. -/
def lanesOf (v : Nat → Nat) : State := setRegs three 3 4 fun l => BitVec.ofNat 32 (v l)

theorem test_integer_steps :
    -- R79, R80: wrap, saturation; R82: the high product; R85: toward zero, by zero, the overflow corner
    reg (.iadd (iops 2 4 5 0 .z32)) (abc 0xFFFFFFFF 1 0) 0 2 = 0 ∧ reg (.iadd (iops 2 4 5 0 .s32 .r 0 true)) (abc 0x7FFFFFFF 1 0) 0 2 = 0x7FFFFFFF ∧
    reg (.isub (iops 2 4 5 0 .z32 .r 0 true)) (abc 1 2 0) 0 2 = 0 ∧ reg (.imulh (iops 2 4 5 0 .z32)) (abc 0x80000000 6 0) 0 2 = 3 ∧
    reg (.imad (iops 2 4 5 6 .z32)) (abc 3 5 7) 0 2 = 22 ∧
    reg (.idiv (iops 2 4 5 0 .s32)) (abc 0xFFFFFFF9 2 0) 0 2 = 0xFFFFFFFD ∧ reg (.irem (iops 2 4 5 0 .s32)) (abc 0xFFFFFFF9 2 0) 0 2 = 0xFFFFFFFF ∧
    reg (.idiv (iops 2 4 5 0 .z32)) (abc 9 0 0) 0 2 = 0xFFFFFFFF ∧ reg (.irem (iops 2 4 5 0 .z32)) (abc 9 0 0) 0 2 = 9 ∧
    reg (.idiv (iops 2 4 5 0 .s32 .r 0 true)) (abc 0x80000000 0xFFFFFFFF 0) 0 2 = 0x7FFFFFFF ∧
    -- R91: an immediate; a false guard changes nothing; R113: a comparison into p1
    reg (.movi (iops 2 0 0 0 .s32 .i 0xFFFFFFFF)) one 0 2 = 0xFFFFFFFF ∧ reg (.movi (iops 4 0 0 0 .s32 .i 5 false never)) (abc 9 0 0) 0 4 = 9 ∧
    (after (.icmp { iops 1 4 5 0 .s32 with cond := .lt }) (abc 0xFFFFFFFF 0 0)).predOf 0 1 = true ∧
    (after (.icmp { iops 1 4 5 0 .z32 with cond := .lt }) (abc 0xFFFFFFFF 0 0)).predOf 0 1 = false := by
  decide +kernel

theorem test_bit_steps :
    reg (.xor (iops 2 4 5 0 .z32)) (abc 0xF0F0 0xFF00 0) 0 2 = 0x0FF0 ∧ reg (.sar (iops 2 4 5 0 .s32)) (abc 0x80000000 4 0) 0 2 = 0xF8000000 ∧
    reg (.rol (iops 2 4 5 0 .z32)) (abc 0x80000001 1 0) 0 2 = 3 ∧ reg (.popc (iops 2 4 0 0 .z32)) (abc 0xF0F0 0 0) 0 2 = 8 ∧
    reg (.clz (iops 2 4 0 0 .z32)) (abc 1 0 0) 0 2 = 31 ∧ reg (.ctz (iops 2 4 0 0 .z32)) (abc 8 0 0) 0 2 = 3 ∧
    reg (.brev (iops 2 4 0 0 .z32)) (abc 1 0 0) 0 2 = 0x80000000 := by
  decide +kernel

theorem test_float_steps :
    -- 1 + 2 = 3; 1 × −0 = −0; 1 / 0 = ∞ with DZ (R109); √4 = 2; −NaN stays quiet; 2^24 + 1 is a tie to even (R36)
    reg (.fadd (fops 2 4 5 0 .f32)) (abc 0x3F800000 0x40000000 0) 0 2 = 0x40400000 ∧ reg (.fmul (fops 2 4 5 0 .f32)) (abc 0x3F800000 0x80000000 0) 0 2 = 0x80000000 ∧
    reg (.fdiv (fops 2 4 5 0 .f32)) (abc 0x3F800000 0 0) 0 2 = 0x7F800000 ∧ reg (.fsqrt (fops 2 4 0 0 .f32)) (abc 0x40800000 0 0) 0 2 = 0x40000000 ∧
    reg (.fadd (fops 2 4 5 0 .f32)) (abc 0x4B800000 0x3F800000 0) 0 2 = 0x4B800000 ∧ reg (.fadd (fops 2 4 5 0 .f32 .rup)) (abc 0x4B800000 0x3F800000 0) 0 2 = 0x4B800001 ∧
    -- 2 × 3 + 1 = 7, in halves
    reg (.ffma (fops 2 4 5 6 .f16)) (abc 0x4000 0x4200 0x3C00) 0 2 % 65536 = 0x4700 ∧
    -- a stochastic operation steps the generator once: 1 becomes 0x80200003 (R32, R34)
    (after (.fadd (fops 2 4 5 0 .f32 .sr)) (abc 0x3F800000 0x40000000 0)).lfsrOf 0 = 0x80200003#32 := by
  decide +kernel

theorem test_algebra_step :
    -- (1 + 2i) (3 + 4i) = −5 + 10i (R126, R138)
    (let s := setRegs (setRegs (setRegs (setRegs tabled 3 4 fun _ => 0x3F800000) 3 5 fun _ => 0x40000000) 3 6 fun _ => 0x40400000) 3 7 fun _ => 0x40800000
     let t := after (.amul (aops 8 4 6 0 0 1)) s
     (t.vreg 32 8, t.vreg 32 9)) = (0xC0A00000#32, 0x41200000#32) := by
  decide +kernel

theorem test_lane_steps :
    -- R165: lane 1 and 2 take the lane before them, lane 0 keeps its own; a sum over the active lanes; a vote
    ((List.range 3).map fun l => reg (.redi (lops 0 2 4 0 0)) (lanesOf fun l => 10 * (l + 1)) l 2) = [60, 60, 60] ∧
    ((List.range 3).map fun l => reg (.scan (lops 0 2 4 0 0)) (lanesOf fun l => 10 * (l + 1)) l 2) = [10, 30, 60] := by
  decide +kernel

theorem test_control_steps :
    -- `next`: the floe stands at the entry of segment 2; `call` leaves its return and where it was called (R149)
    ((after (.next 0x200) one).floe? 0).map (fun f => (f.segid, f.line, f.slot)) = some (2, 1, 0) ∧
    (let t := after (.call 2 0x200 0x100) one
     (t.vreg 0 2, t.vreg 0 3)) = (0x1000#32, 0x1010#32) ∧
    -- `exit`: the last thread goes, and its block (R150)
    (after .exit one).blocks = [] ∧ (after .exit one).floes = [] ∧ ((after .exit one).grid 0).done = 1 ∧
    -- `trap` under kill: one record is counted and the block is gone (R309)
    ((after (.trap h0 0x0041) (floeOf 1 1)).grid 0).killed = 1 ∧ (after (.trap h0 0x0041) (floeOf 1 1)).blocks = [] := by
  decide +kernel

theorem test_barrier_steps :
    ((after (.barArv { bar3 with d := 5 }) (atBar { val := true, expt := 2 })).bar 0 3).arr = 1 ∧
    ((after (.barArw bar3) (atBar { val := true, expt := 1 })).bar 0 3).ph = true ∧
    (((after (.barArw bar3) (atBar { val := true, expt := 2 })).floe? 0).map (·.wait)) = some (.bar 3 false .blk) := by
  decide +kernel

theorem test_memory_steps :
    -- a word and a byte stored in the scratchpad; a load's result is still on its way; a global store waits in the log, and its commit sends it (R180)
    (let s := setRegs (setRegs one 1 4 fun _ => 1024) 1 6 fun _ => 0x12345678
     getN (after (.sts (mops 0 4 0 6 .unit 0)) s).unit 1024 4 = 0x12345678 ∧ getN (after (.sts (mops 0 4 0 6 .unit 7)) s).unit 1024 4 = 0x78 ∧
       reg (.lds (mops 2 4 0 0 .unit 7)) (unitAt s 1024 4 0xFEDCBA98) 0 2 = 0) ∧
    (let s := setRegs global 3 6 fun _ => 0x12345678
     let t := after (.st (mops 0 4 0 6 .glob 0)) s
     ((t.floe? 0).map (·.log.length)) = some 1 ∧ t.net = [] ∧ (after .commit t).net.length = 3 ∧ getN t.mem 0x100000 4 = 0) := by
  decide +kernel

theorem test_event_steps :
    -- an atomic add at its home writes the sum and answers the old value; a result goes to its register (R185, R63)
    (let s := { asking (.atom 0 0 true) with mem := setN [] 0x100000 4 5 }
     getN (after (.homeAccess 5) s).mem 0x100000 4 = 12) ∧
    ((after (.resultWrite ⟨0, 0, 0, 0⟩ 0) (pended [] 0)).vreg 0 2) = 5#32 ∧
    -- the last completion of a phase with no arrivals inverts PH (R155)
    ((after (.barrierCompletionMulticast 0) (arriving { val := true, pend := 1 })).bar 0 3).ph = true := by
  decide +kernel

theorem witness_canonicalStep :
    -- StepKeepsMemoryCanonical, GeneratorStep: a state with every memory in form and no generator at zero, whose turn steps
    Memory.wf global.mem = true ∧ Memory.wf global.unit = true ∧ Memory.wf global.clus = true ∧ Memory.wf global.dmem = true ∧
    goes .nop { begun turn with cur := floeIdOf 0 } = true ∧ (1#32 : Word) ≠ 0 ∧ ∀ p, global.lfsrOf p ≠ 0 := by
  refine ⟨by decide +kernel, by decide +kernel, by decide +kernel, by decide +kernel, by decide +kernel, by decide +kernel, fun p => ?_⟩
  have h : global.lfsr = [] := by decide +kernel
  simp [State.lfsrOf, h, lookD, look]

end Sys2Proof.Tests
end

section
/-! SUPPORT. The slot and its 96 bits, and what a word that decodes says of the instruction it decodes to. -/

namespace Sys2Proof

/-- R47: the fields of a word, put together again, are the word. -/
theorem Slot.bits_ofBits (w : BitVec 96) : (Slot.ofBits w).bits = w := by
  simp only [Slot.bits, Slot.ofBits]
  iterate 9 rw [BitVec.extractLsb'_append_extractLsb'_eq_extractLsb' (by decide)]
  exact BitVec.extractLsb'_eq_self

/-- The bit that a record's guard gives is the bit it was read from. -/
theorem Slot.head_neg1 (s : Slot) : s.head.neg1 = s.neg := by
  have h : ∀ b : BitVec 1, (if (b == 1#1) = true then 1#1 else 0#1) = b := by decide
  exact h s.neg

/-- What the decoder has checked of a word that it accepts. -/
theorem decode_ok {w : BitVec 96} {i : Instr} (h : decode w = .ok i) :
    ∃ t, (Slot.ofBits w).instr = some i ∧ i.slot? = some t ∧ (Slot.ofBits w).extraBit i t = false ∧ i.check = none ∧
      (Slot.ofBits w).laReject i = none ∧ (Slot.ofBits w).guardReject i = none := by
  unfold decode at h
  dsimp only at h
  split at h
  · cases h
  · next j hj =>
    split at h
    · cases h
    · next t ht =>
      split at h
      · cases h
      · next he =>
        split at h <;> try cases h
        split at h <;> cases h
        exact ⟨t, hj, ht, by simpa using he, by assumption, by assumption, by assumption⟩

/-- The instructions that stand under the default guard alone (R60, R183, R194, R213): their records keep no guard. -/
def Instr.fixedGuard (i : Instr) : Bool := i.isTerm || match i with
  | .sdet _ | .commit | .mwait | .mfence => true
  | _ => false

theorem Slot.guard_of_fixed {s : Slot} {i : Instr} (hi : i.fixedGuard = true) (h : s.guardReject i = none) : s.neg = 0#1 ∧ s.pred = 7#3 := by
  unfold Slot.guardReject at h
  split at h
  · assumption
  · split at h
    · cases h
    · next ht =>
      simp only [Instr.fixedGuard, ht, Bool.false_or] at hi
      split at hi
      case h_5 => cases hi
      all_goals cases h

/-! ### The guard that the decoder keeps, by class of opcode -/

theorem Slot.int_head {s : Slot} {o : IntOps} (h : s.int = some o) : o.h = s.head := by
  simp only [Slot.int, Option.bind_eq_bind, Option.bind_eq_some_iff, Option.some.injEq] at h
  obtain ⟨_, -, _, -, rfl⟩ := h
  rfl

theorem Slot.fp_head {s : Slot} {o : FpOps} (h : s.fp = some o) : o.h = s.head := by
  simp only [Slot.fp, Option.bind_eq_bind, Option.bind_eq_some_iff] at h
  obtain ⟨_, -, _, -, h⟩ := h
  split at h
  · cases h
  · cases h; rfl

theorem Slot.cvt_head {s : Slot} {o : CvtOps} (h : s.cvt = some o) : o.h = s.head := by
  simp only [Slot.cvt, Option.bind_eq_bind, Option.bind_eq_some_iff, Option.some.injEq] at h
  obtain ⟨_, -, _, -, _, -, rfl⟩ := h
  rfl

theorem Slot.alg_head {s : Slot} {o : AlgOps} (h : s.alg = some o) : o.h = s.head := by
  simp only [Slot.alg, Option.bind_eq_bind, Option.bind_eq_some_iff] at h
  obtain ⟨_, -, h⟩ := h
  split at h
  · cases h
  · cases h; rfl

theorem Slot.mem_head {s : Slot} {o : MemOps} (h : s.mem = some o) : o.h = s.head := by
  simp only [Slot.mem, Option.bind_eq_bind, Option.bind_eq_some_iff, Option.some.injEq] at h
  obtain ⟨_, -, _, -, _, -, rfl⟩ := h
  rfl

theorem Slot.desc_head {s : Slot} {o : DescOps} (h : s.desc = some o) : o.h = s.head := by
  simp only [Slot.desc, Option.bind_eq_bind, Option.bind_eq_some_iff, Option.some.injEq] at h
  obtain ⟨_, -, rfl⟩ := h
  rfl

theorem Slot.bar_head {s : Slot} {o : BarOps} (h : s.bar = some o) : o.h = s.head := by
  simp only [Slot.bar, Option.bind_eq_bind, Option.bind_eq_some_iff, Option.some.injEq] at h
  obtain ⟨_, -, rfl⟩ := h
  rfl

theorem intOf_head {opc var : Nat} {o : IntOps} {i : Instr} (h : intOf opc var o = some i) : i.head = o.h := by
  unfold intOf at h
  split at h <;> cases h <;> rfl

theorem fpOf_head {opc var : Nat} {o : FpOps} {i : Instr} (h : fpOf opc var o = some i) : i.head = o.h := by
  unfold fpOf at h
  split at h <;> cases h <;> rfl

/-- Where the guard and lookahead of a slot are once it is decoded: in the instruction's record, or nowhere, and then the instruction is one whose
guard is fixed. -/
def Slot.HeadKept (s : Slot) (i : Instr) : Prop := i.head = s.head ∨ i.head = fixedHead ∧ i.fixedGuard = true

theorem Slot.headKept_record {s : Slot} {i j : Instr} (h : some j = some i) (hj : j.head = s.head) : s.HeadKept i := by
  cases h; exact .inl hj

theorem Slot.headKept_fixed {s : Slot} {i j : Instr} (h : some j = some i) (hj : j.head = fixedHead ∧ j.fixedGuard = true) : s.HeadKept i := by
  cases h; exact .inr hj

theorem Slot.headKept_map {α : Type} {s : Slot} {x : Option α} {g : α → Instr} {i : Instr} (h : x.map g = some i)
    (hx : ∀ a, x = some a → (g a).head = s.head) : s.HeadKept i := by
  obtain ⟨a, ha, rfl⟩ := Option.map_eq_some_iff.1 h
  exact .inl (hx a ha)

theorem headKept_of_funcOf {s : Slot} {i : Instr} (h : funcOf s = some i) : s.HeadKept i := by
  have hb := fun o => Slot.bar_head (s := s) (o := o)
  unfold funcOf at h
  generalize s.bar = xb at h hb
  split at h
  all_goals try exact Slot.headKept_map h hb
  all_goals try exact Slot.headKept_record h rfl
  cases h

/-- The operands of a class are opaque here: all that counts is the guard they keep. The opcodes are taken class by class: M, X, algebra, `cvt`,
those whose record holds the slot's guard itself, those whose guard is fixed; `satt` and `fence` are left. -/
theorem headKept_of_plainOf {s : Slot} {i : Instr} (h : plainOf s = some i) : s.HeadKept i := by
  have hc := fun o => Slot.cvt_head (s := s) (o := o)
  have hd := fun o => Slot.desc_head (s := s) (o := o)
  have ha := fun o => Slot.alg_head (s := s) (o := o)
  have hm := fun o => Slot.mem_head (s := s) (o := o)
  unfold plainOf at h
  generalize s.cvt = xc at h hc
  generalize s.desc = xd at h hd
  generalize s.alg = xa at h ha
  generalize s.mem = xm at h hm
  split at h
  all_goals try exact Slot.headKept_map h hm
  all_goals try exact Slot.headKept_map h hd
  all_goals try exact Slot.headKept_map h ha
  all_goals try exact Slot.headKept_map h hc
  all_goals try exact Slot.headKept_record h rfl
  all_goals try exact Slot.headKept_fixed h ⟨rfl, rfl⟩
  · exact Slot.headKept_map h fun _ _ => rfl
  · simp only [Option.bind_eq_bind, Option.bind_eq_some_iff] at h
    obtain ⟨_, -, _, -, h⟩ := h
    exact Slot.headKept_record h rfl
  · cases h

theorem headKept_of_instr {s : Slot} {i : Instr} (h : s.instr = some i) : i = .nop ∨ s.HeadKept i := by
  unfold Slot.instr at h
  split at h
  · split at h <;> cases h
    exact .inl rfl
  · right
    split at h
    · obtain ⟨o, ho, hi⟩ := Option.bind_eq_some_iff.1 h
      exact .inl ((intOf_head hi).trans (Slot.int_head ho))
    · split at h
      · obtain ⟨o, ho, hi⟩ := Option.bind_eq_some_iff.1 h
        exact .inl ((fpOf_head hi).trans (Slot.fp_head ho))
      · split at h
        · next hf => cases h; exact headKept_of_funcOf hf
        · split at h
          · exact headKept_of_plainOf h
          · cases h

/-- An accepted slot has the guard and the lookahead that its instruction has. -/
theorem head_of_accepted {s : Slot} {i : Instr} (h : s.HeadKept i) (hl : s.laReject i = none) (hg : s.guardReject i = none) : i.head = s.head := by
  rcases h with h | ⟨h, hf⟩
  · exact h
  · obtain ⟨hn, hp⟩ := Slot.guard_of_fixed hf hg
    have hla : s.la = i.head.la := by simpa [Slot.laReject] using hl
    rw [h] at hla ⊢
    simp [Slot.head, fixedHead, hn, hp, hla]

/-- What `Laws.Heads` says of each constructor, of all of them. -/
theorem slot_head (i : Instr) : Laws.Heads.Statement i := by
  intro t h
  cases i <;> cases h
  case nop => exact ⟨rfl, .inl rfl⟩
  all_goals exact ⟨rfl, .inr ⟨rfl, rfl⟩⟩

/-- An accepted slot is, bit for bit, the slot of its instruction: beside the guard and the lookahead no bit differs (R14), and those are its own. -/
theorem accepted_eq_slot {s t : Slot} {i : Instr} (hi : s.instr = some i) (ht : i.slot? = some t) (he : s.extraBit i t = false)
    (hl : s.laReject i = none) (hg : s.guardReject i = none) : s = t := by
  have he : (if i = .nop then s else s.withHeadOf t) = t := by
    simp only [Slot.extraBit, Bool.or_eq_false_iff, decide_eq_false_iff_not, not_not] at he
    exact he.1
  by_cases hn : i = .nop
  · rwa [if_pos hn] at he
  · rw [if_neg hn] at he
    have hh := head_of_accepted ((headKept_of_instr hi).resolve_left hn) hl hg
    obtain ⟨h1, h2⟩ := slot_head i t ht
    obtain ⟨h2, h3⟩ := h2.resolve_left hn
    rw [hh] at h1 h2 h3
    rw [← he, Slot.withHeadOf, h1, h2, h3, Slot.head_neg1]
    rfl

/-- Settles O3: the decoder compares the slot with that of the instruction it names, and the guard that it leaves out is fixed or the record's. -/
theorem decodeThenEncode : Obligations.DecodeThenEncode := by
  intro w i h
  obtain ⟨t, hi, ht, he, hc, hl, hg⟩ := decode_ok h
  have hs := accepted_eq_slot hi ht he hl hg
  refine ⟨?_, by rw [Instr.wf, hc]; rfl⟩
  rw [encode, ht, Option.map_some, ← hs, Slot.bits_ofBits]

end Sys2Proof
end

section
/-! SUPPORT. Byte memories as numbers (R12), and the state after reset. -/

namespace Sys2Proof.Machine

/-- The bytes just written read as written. -/
theorem getB_setBs_in (m : List Host.Cell) (a : Nat) (bs : List Byte) {i : Nat} (h1 : a ≤ i) (h2 : i < a + bs.length) :
    getB (setBs m a bs) i = bs.getD (i - a) 0 := by
  induction bs generalizing m a with
  | nil => simp only [List.length_nil] at h2; omega
  | cons b bs ih =>
    simp only [List.length_cons] at h2
    rw [setBs]
    by_cases hi : i = a
    · subst hi
      rw [getB_setBs_out _ _ _ (.inl (Nat.lt_succ_self i)), getB_setB, if_pos rfl, Nat.sub_self, List.getD_cons_zero]
    · rw [ih (setB m a b) (a + 1) (by omega) (by omega), show i - a = i - (a + 1) + 1 by omega, List.getD_cons_succ]

/-- The bytes of a range just written are the bytes written. -/
theorem getBs_setBs (m : List Host.Cell) (a : Nat) (bs : List Byte) : getBs (setBs m a bs) a bs.length = bs := by
  refine List.ext_getElem (by simp [getBs]) fun i h1 h2 => ?_
  simp only [getBs, List.getElem_map, List.getElem_range]
  rw [getB_setBs_in m a bs (Nat.le_add_right a i) (by omega), Nat.add_sub_cancel_left, List.getD_eq_getElem _ _ h2]

@[simp] theorem leBytes_length (v n : Nat) : (leBytes v n).length = n := by simp [leBytes]

theorem leBytes_succ (v n : Nat) : leBytes v (n + 1) = BitVec.ofNat 8 v :: leBytes (v / 256) n := by
  unfold leBytes
  rw [List.range_succ_eq_map, List.map_cons, List.map_map]
  refine congrArg₂ _ (by simp) (List.map_congr_left fun i _ => ?_)
  simp only [Function.comp, Nat.div_div_eq_div_mul]
  rw [show 2 ^ (8 * (i + 1)) = 256 * 2 ^ (8 * i) by rw [Nat.mul_succ, pow_add]; omega]

/-- R12: `n` little-endian bytes of a number stand for the number, cut to `n` bytes. -/
theorem leVal_leBytes (v n : Nat) : leVal (leBytes v n) = v % 2 ^ (8 * n) := by
  induction n generalizing v with
  | zero => simp [leBytes, leVal, Nat.mod_one]
  | succ n ih =>
    rw [leBytes_succ, leVal, ih, BitVec.toNat_ofNat, show 2 ^ (8 * (n + 1)) = 256 * 2 ^ (8 * n) by rw [Nat.mul_succ, pow_add]; omega,
      Nat.mod_mul, show 2 ^ 8 = 256 from rfl]

/-- Settles O8, by induction on the bytes written. -/
theorem memoryReadsWhatWasWritten : Obligations.MemoryReadsWhatWasWritten := by
  intro m a
  refine ⟨fun bs i => ?_, fun n v => ?_⟩
  · split
    · next h => exact getB_setBs_in m a bs h.1 h.2
    · next h => exact getB_setBs_out m a bs (by omega)
  · calc getN (setN m a n v) a n = leVal (getBs (setBs m a (leBytes v n)) a (leBytes v n).length) := by
          rw [leBytes_length]; rfl
      _ = v % 2 ^ (8 * n) := by rw [getBs_setBs, leVal_leBytes]

/-- Settles O6: the state after reset is written out, and every table in it is empty. -/
theorem powerOnReset : Obligations.PowerOnReset :=
  ⟨rfl, rfl, rfl, rfl, rfl, rfl, rfl, rfl, fun _ _ => rfl, fun _ _ => rfl, fun _ => rfl, rfl, rfl, ⟨rfl, rfl, rfl, rfl⟩,
    fun _ => ⟨rfl, rfl, rfl, rfl⟩⟩

end Sys2Proof.Machine
end

section
/-! SUPPORT. Moves, special registers and `nop` (R71, R91 to R94). -/

namespace Sys2Proof.Machine

variable {i : Instr} {s u : State} {f : Floe} {c : Ctx} {k : Nat}

/-- An integer instruction whose own part writes its words, whatever lanes are active, gives them. -/
theorem intGives_of_issue {o : IntOps} {val : Ctx → Nat → List Word} (ha : algRow i = none) (ho : Instr.oncePerFloe i = false)
    (he : ∀ s, exec i s = issue i s fun c => .done (c.intOut c.s o (val c))) : Said.intGives i o val := by
  intro s f c h
  refine ⟨?_, fun hc => intOut_gives h hc o (val c)⟩
  rw [he, issue_lanes h (preTrap_none ha c) ho]
  rfl

theorem mov_gives (o : IntOps) :
    Said.intGives (.mov o) o fun c l => wrWords o.ty (wrap (rdVal o.ty (c.intRaw o 0 o.a o.ty l)) o.ty.width : Nat) :=
  intGives_of_issue rfl rfl fun _ => rfl

theorem movi_gives (o : IntOps) : Said.intGives (.movi o) o fun c l => wrWords o.ty (rdVal o.ty (c.intRaw o 1 o.b o.ty l)) :=
  intGives_of_issue rfl rfl fun _ => rfl

theorem movkToLane_gives (o : IntOps) : Said.intGives (.movkToLane o) o fun c _ => [lookD 0 c.f.uregs o.a.toNat] :=
  intGives_of_issue rfl rfl fun _ => rfl

theorem movs_gives (o : IntOps) (hk : o.form.isK = false) : Said.intGives (.movs o) o fun c l => c.special o.a.toNat l := by
  refine intGives_of_issue rfl rfl fun s => ?_
  show execMovs o s = _
  unfold execMovs
  rw [hk]; rfl

theorem nop_completes (h : issuing .nop s = some (f, c)) : exec .nop s = .next (c.s.completed c.k f) :=
  issue_done h (preTrap_none rfl c) rfl fun _ => rfl

/-- R94: with no active lane nothing is moved, for the instruction runs once per floe (R49). -/
theorem movkToUniform_moves {o : IntOps} (h : issuing (.movkToUniform o) s = some (f, c)) :
    ∃ t, exec (.movkToUniform o) s = .next t ∧
      t = (if c.act = [] then c.s else c.s.setUreg c.k o.d.toNat (c.rd1 0 o.a (c.act.headD 0))).completed c.k f ∧
      (s.calm = true → c.act ≠ [] → c.inUreg t o.d (c.rd1 0 o.a (c.act.headD 0))) := by
  refine ⟨_, issue_done h (preTrap_none rfl c) rfl fun hn => if_pos hn, rfl, fun hc hn => ?_⟩
  rw [if_neg hn]
  exact setUreg_inUreg (quiet_of h hc) (issuing_floe_ctx h).1 o.d _

/-- Consecutive uniform registers written one by one read as written. -/
theorem foldl_setUreg (h : Quiet u) {y : Floe} (hy : u.floe? k = some y) (d : Nat) (ws : List Word) (n : Nat) :
    let t := (ws.zipIdx n).foldl (fun s e => s.setUreg k (d + e.2) e.1) u
    Quiet t ∧ ∃ z, t.floe? k = some z ∧ ∀ j, lookD 0 z.uregs j =
      if d + n ≤ j ∧ j < d + n + ws.length then ws.getD (j - (d + n)) 0 else lookD 0 y.uregs j := by
  induction ws generalizing u y n with
  | nil => exact ⟨h, y, hy, fun j => by rw [if_neg (by simp)]⟩
  | cons w ws ih =>
    rw [List.zipIdx_cons, List.foldl_cons]
    obtain ⟨q, z, hz, hr⟩ := ih (quiet_modFloe h k _) (modFloe_some hy fun x => { x with uregs := putD 0 x.uregs (d + n) w }) (n + 1)
    refine ⟨q, z, hz, fun j => ?_⟩
    rw [hr j, lookD_putD, List.length_cons]
    rcases Nat.lt_trichotomy j (d + n) with hj | hj | hj
    · rw [if_neg (by omega), if_neg (by omega), if_neg (by omega)]
    · rw [if_neg (by omega), if_pos hj, if_pos (by omega), show j - (d + n) = 0 by omega, List.getD_cons_zero]
    · rw [if_neg (show j ≠ d + n by omega), show j - (d + n) = j - (d + (n + 1)) + 1 by omega, List.getD_cons_succ]
      exact if_congr (by omega) rfl rfl

/-- R92 in a K form: the words of the special register in consecutive uniform registers. -/
theorem movs_uniform {o : IntOps} (h : issuing (.movs o) s = some (f, c)) (hk : o.form.isK = true) :
    ∃ t, exec (.movs o) s = .next t ∧ (s.calm = true → ∀ i w, (c.special o.a.toNat c.lowPresent)[i]? = some w →
      ∃ x, t.floe? c.k = some x ∧ lookD 0 x.uregs (o.d.toNat + i) = w) := by
  have he : exec (.movs o) s = .next (((c.special o.a.toNat c.lowPresent).zipIdx.foldl (fun s e => s.setUreg c.k (o.d.toNat + e.2) e.1)
      c.s).completed c.k f) := by
    show execMovs o s = _
    unfold execMovs
    rw [issue_lanes h (preTrap_none rfl c) rfl, if_pos hk]
    rfl
  refine ⟨_, he, fun hc i w hw => ?_⟩
  obtain ⟨q, z, hz, hr⟩ := foldl_setUreg (quiet_of h hc) (issuing_floe_ctx h).1 o.d.toNat (c.special o.a.toNat c.lowPresent) 0
  obtain ⟨x, hx, -, hu, -⟩ := completed_floe (f := f) q.still hz
  obtain ⟨hi, hw⟩ := List.getElem?_eq_some_iff.1 hw
  refine ⟨x, hx, ?_⟩
  rw [hu, hr, if_pos (by omega), Nat.add_zero, Nat.add_sub_cancel_left, List.getD_eq_getElem _ _ hi, hw]

/-- R92's table over the numbering of R4: the special registers that are one word, but for the thread's place in the grid. -/
def Ctx.specialTable (c : Ctx) (l : Nat) : List (Nat × Nat) :=
  let b := c.s.block c.bk
  [(0x00, (c.s.thread (c.t l)).tid), (0x01, l), (0x02, l / 4), (0x03, c.k % 32), (0x04, c.k / 32 % 4), (0x05, c.k / 128 % 128),
    (0x06, c.k / 128 % 128 / 4), (0x07, c.k / 16384), (0x08, if c.k / 16384 < 4 then 0 else 1), (0x09, b.index % c.g.nbx),
    (0x0A, b.index / c.g.nbx % c.g.nby), (0x0B, b.index / c.g.nbx / c.g.nby), (0x0C, c.g.nbx), (0x0D, c.g.nby), (0x0E, c.g.nbz), (0x0F, b.drf)]

/-- The table holds in every context that an issue makes. -/
theorem special_eq_table (h : issuing i s = some (f, c)) (l : Nat) : ∀ p ∈ c.specialTable l, c.special p.1 l = [BitVec.ofNat 32 p.2] := by
  have hcore : c.core = c.k / 128 := by rw [issuing_core h, issuing_k h, coreOfFloe]
  have hdie : c.die = c.k / 16384 := by rw [Ctx.die, hcore, dieOf, Nat.div_div_eq_div_mul]
  simp [Ctx.specialTable, Ctx.special, hdie, hcore, clusterOf, Config.dieType, Block.x, Block.y, Block.z]

/-- R92: the thread's place in the grid, of a thread that stands at (x, y, z) in its block. -/
theorem special_place {l x y z : Nat} (hx : x < c.g.bx) (hy : y < c.g.by')
    (ht : (c.s.thread (c.t l)).tid = x + c.g.bx * (y + c.g.by' * z)) :
    c.special 0x10 l = [BitVec.ofNat 32 ((c.s.block c.bk).x c.g * c.g.bx + x)] ∧
    c.special 0x11 l = [BitVec.ofNat 32 ((c.s.block c.bk).y c.g * c.g.by' + y)] ∧
    c.special 0x12 l = [BitVec.ofNat 32 ((c.s.block c.bk).z c.g * c.g.bz + z)] := by
  have hmod : ∀ {m a b : Nat}, a < m → (a + m * b) % m = a := fun h => by rw [Nat.add_mul_mod_self_left, Nat.mod_eq_of_lt h]
  have hdiv : ∀ {m a b : Nat}, a < m → (a + m * b) / m = b := fun h => by
    rw [Nat.add_mul_div_left _ _ (Nat.zero_lt_of_lt h), Nat.div_eq_of_lt h, Nat.zero_add]
  simp only [Ctx.special, ht, hmod hx, hdiv hx, hmod hy, hdiv hy, and_self]

/-- R92: the clock, as a pair; a replay reads what the recorded run read (R378). -/
theorem special_clock (h : c.s.replMode c.g.ctx ≠ 2) (l : Nat) :
    c.special 0x13 l = [BitVec.ofNat 32 (c.s.clock (c.k / 16384)), BitVec.ofNat 32 (c.s.clock (c.k / 16384) / 2 ^ 32)] := by
  have hn : c.s.seenClock c.g.ctx c.k = c.s.clock (c.k / 16384) := by
    have hd : dieOf (coreOfFloe c.k) = c.k / 16384 := by rw [dieOf, coreOfFloe, Nat.div_div_eq_div_mul]
    unfold State.seenClock
    rw [hd]
    dsimp only
    rw [if_pos h, ite_self]
  simp only [Ctx.special, hn]

/-- Refutes O14: its clause on R92's table speaks of every context, also of one that no floe's issue makes, whose `core` is not the core of its floe
slot. In the context below floe slot 0 stands beside core 1, and special register 0x05 reads 1, where the table says 0. Of the contexts that an
issue makes the clause holds (`special_eq_table`), and every other clause holds as it stands: `mov_gives`, `movi_gives`,
`movkToLane_gives`, `movkToUniform_moves`, `movs_gives`, `movs_uniform`, `special_place`, `special_clock`, `nop_completes`. -/
theorem not_movesAndNop : ¬ Obligations.MovesAndNop := by
  intro h
  obtain ⟨-, -, -, -, -, -, table, -⟩ := h
  have h5 : [1#32] = [0#32] :=
    table { s := State.reset, k := 0, f := {}, act := [], core := 1, bk := 0, g := {}, quad := false, popped := [] } 0 (0x05, 0) (by simp)
  exact absurd h5 (by decide)

end Sys2Proof.Machine
end

section
/-! SUPPORT. Terminators (R142 to R149): what their own parts answer, the segment entered, the largest group, and the statement on control
transfers. -/

namespace Sys2Proof.Machine

variable {i : Instr} {s u : State} {f : Floe} {c : Ctx} {k : Nat}

/-! ## What an instruction's own part answers -/

/-- An instruction that sets its floe's position itself. -/
theorem issue_jump (h : issuing i s = some (f, c)) (ha : algRow i = none) (ho : Instr.oncePerFloe i = false) {body : Ctx → Res} {u : State}
    (hb : body c = .jump u) : issue i s body = .next (u.moved c.k f) := by
  rw [issue_lanes h (preTrap_none ha c) ho, hb]; rfl

/-- An instruction that traps in lanes of its own choosing. -/
theorem issue_trap (h : issuing i s = some (f, c)) (ha : algRow i = none) (ho : Instr.oncePerFloe i = false) {body : Ctx → Res} {code : Nat}
    {ls : List Nat} {a : Nat} (hb : body c = .trap code ls a) : issue i s body = .next (s.trapped c.k code ls a) := by
  rw [issue_lanes h (preTrap_none ha c) ho, hb]; rfl

/-- Without an attached store stream an intact continuation commits nothing first (R143, R194). -/
theorem goIntact_jump (hp : c.f.ports.any (·.2.store) = false) (u : State) (w : Word) : c.goIntact u w = .jump (u.contIntact c.k w) := by
  unfold Ctx.goIntact
  rw [hp]; rfl

/-- Where nothing holds it, lanes regroup and the others go on intact (R143). -/
theorem regroup_jump (hf : Said.free c) (leave : List (Nat × Word)) (stay : Option Word) :
    c.regroup leave stay = .jump (Said.regrouped c c.s leave stay) := by
  obtain ⟨hpend, hlend, hcommit, hdef⟩ := hf
  unfold Ctx.regroup Ctx.commitThen
  dsimp only
  rw [if_neg (by simp [hpend, hlend]), hcommit]
  dsimp only
  rw [if_neg (by simp [hdef])]
  cases stay <;> rfl

/-! ## Entering a resident segment (R93, R142) -/

/-- Dropping reservations leaves the floe its lanes and its block (R189). -/
theorem dropResv_floe {y : Floe} (hy : u.floe? k = some y) : u.sameRest (u.dropResv k) ∧
    ∃ z, (u.dropResv k).floe? k = some z ∧ z.lanes = y.lanes ∧ z.blkr = y.blkr := by
  obtain ⟨h1, h2⟩ := List.foldlRecOn (motive := fun v => u.sameRest v ∧ v.floe? k = some y) (y.tkeys k)
    (fun s t => if (s.thread t).resv.isSome then s.modThread t fun th => { th with resv := none } else s) ⟨sameRest_refl u, hy⟩ fun v hv t _ => by
      split
      · exact ⟨sameRest_trans hv.1 rfl, hv.2⟩
      · exact hv
  unfold State.dropResv
  rw [hy]
  dsimp only
  split
  · exact ⟨sameRest_trans h1 (sameRest_modFloe _ _ _), _, modFloe_some h2 _, rfl, rfl⟩
  · exact ⟨h1, y, h2, rfl, rfl⟩

/-- Detaching streams leaves the floe its lanes and its block (R194). -/
theorem detachAll_floe {y : Floe} (hy : u.floe? k = some y) : u.sameRest (u.detachAll k) ∧
    ∃ z, (u.detachAll k).floe? k = some z ∧ z.lanes = y.lanes ∧ z.blkr = y.blkr := by
  unfold State.detachAll
  rw [hy]
  dsimp only
  split
  · exact ⟨rfl, y, hy, rfl, rfl⟩
  · exact ⟨sameRest_modFloe _ _ _, _, modFloe_some hy _, rfl, rfl⟩

/-- The fresh copy of a segment of a floe's code object that is resident on the floe's core. -/
def State.copyFor (s : State) (k : Nat) (y : Floe) (seg : Nat) : Option (Nat × SegCopy) :=
  s.copyOf (coreOfFloe k) (s.grid (s.block (y.bkey k)).grid).ctx (s.grid (s.block (y.bkey k)).grid).code seg

theorem sameRest_copyFor {s t : State} (h : s.sameRest t) (k : Nat) {x y : Floe} (hb : x.bkey k = y.bkey k) (seg : Nat) :
    t.copyFor k x seg = s.copyFor k y seg := by
  rw [State.copyFor, State.copyFor, hb, h]
  rfl

/-- Where a floe that enters a segment stands: in the copy, at an entry's line and slot, uniform registers at zero. -/
def Floe.standsAt (y : Floe) (cid : Nat) (pos : Nat × Nat) (lanes : List (Nat × Nat)) : Prop :=
  y.copy = cid ∧ (y.line, y.slot) = pos ∧ y.uregs = [] ∧ y.lanes = lanes ∧ y.wait = .none

/-- R93: the entry that a continuation word names, in a copy that has it. -/
theorem enterCopy_floe {y : Floe} (hy : u.floe? k = some y) {cid : Nat} {cp : SegCopy} {w : Word} (h0 : w.toNat % 16 = 0)
    (he : bits w.toNat 11 4 < bits (hdrOf cp) 50 45) : (u.enterCopy k cid cp w).still = u.still ∧
    ∃ z, (u.enterCopy k cid cp w).floe? k = some z ∧ z.standsAt cid (hdrEntry (hdrOf cp) (bits w.toNat 11 4)) y.lanes := by
  unfold State.enterCopy
  dsimp only
  rw [hy]
  dsimp only
  rw [if_neg (by omega)]
  exact ⟨rfl, _, look_put_same _ _ _, rfl, rfl, rfl, rfl, rfl⟩

/-- A floe that is set to wait for a resident segment enters it at once (R142). -/
theorem tryEnter_modFloe {y : Floe} (hy : u.floe? k = some y) {g : Floe → Floe} {cid : Nat} {cp : SegCopy} {w : Word} (h0 : w.toNat % 16 = 0)
    (hc : u.copyFor k y (bits w.toNat 31 12) = some (cid, cp)) (he : bits w.toNat 11 4 < bits (hdrOf cp) 50 45)
    (hw : (g y).wait = .seg w) (hb : (g y).bkey k = y.bkey k) (hl : (g y).lanes = y.lanes) :
    ((u.modFloe k g).tryEnter k).still = u.still ∧
      ∃ z, ((u.modFloe k g).tryEnter k).floe? k = some z ∧ z.standsAt cid (hdrEntry (hdrOf cp) (bits w.toNat 11 4)) y.lanes := by
  have hr := sameRest_modFloe u k g
  have hm := modFloe_some hy g
  have ht : (u.modFloe k g).tryEnter k = (u.modFloe k g).enterCopy k cid cp w := by
    unfold State.tryEnter
    rw [hm]
    dsimp only
    rw [hw]
    dsimp only
    rw [show State.copyOf (u.modFloe k g) _ _ _ _ = some (cid, cp) from (sameRest_copyFor hr k hb _).trans hc]
  rw [ht, ← sameRest_still hr, ← hl]
  exact enterCopy_floe hm h0 he

/-- An intact continuation into a resident segment enters it (R143). -/
theorem contIntact_enters {y : Floe} (hy : u.floe? k = some y) {cid : Nat} {cp : SegCopy} {w : Word} (h0 : w.toNat % 16 = 0)
    (hc : u.copyFor k y (bits w.toNat 31 12) = some (cid, cp)) (he : bits w.toNat 11 4 < bits (hdrOf cp) 50 45) :
    (u.contIntact k w).still = u.still ∧ ∃ z, (u.contIntact k w).floe? k = some z ∧ z.standsAt cid (hdrEntry (hdrOf cp) (bits w.toNat 11 4)) y.lanes := by
  obtain ⟨r1, y1, hy1, l1, b1⟩ := detachAll_floe hy
  obtain ⟨r2, y2, hy2, l2, b2⟩ := dropResv_floe hy1
  have hr := sameRest_trans r1 r2
  have hb : y2.bkey k = y.bkey k := by rw [Floe.bkey, b2, b1]; rfl
  rw [← sameRest_still hr, ← l1, ← l2]
  exact tryEnter_modFloe hy2 h0 ((sameRest_copyFor hr k hb _).trans hc) he rfl rfl rfl

/-- A floe that has moved keeps its place. -/
theorem moved_floe (hq : u.still = true) {y : Floe} (hy : u.floe? k = some y) :
    ∃ z, (u.moved k f).floe? k = some z ∧ z.copy = y.copy ∧ (z.line, z.slot) = (y.line, y.slot) ∧ z.uregs = y.uregs ∧ z.lanes = y.lanes ∧
      z.wait = y.wait := by
  have hc : (u.countWindows k f.npend).still = true := (sameRest_still (sameRest_modFloe _ _ _)).trans hq
  obtain ⟨a, b, h⟩ := afterIssue_floe (f := f) hc (modFloe_some hy _)
  have hs := still_iff.1 ((sameRest_still (afterIssue_rest hc k f)).trans hc)
  unfold State.moved
  rw [settleDue_idle hs.1 hs.2.1]
  exact ⟨_, h, rfl, rfl, rfl, rfl, rfl⟩

/-! ## The largest group of lanes (R147) -/

/-- A word has more lanes than another, or as many and is no larger. -/
def Beats (n : Word → Nat) (r v : Word) : Prop := n v < n r ∨ (n v = n r ∧ r.toNat ≤ v.toNat)

/-- The word that `largestGroup` keeps of two. -/
def winner (n : Word → Nat) (r v : Word) : Word := if n r < n v ∨ (n r = n v ∧ v.toNat < r.toNat) then v else r

/-- Nothing that the word kept so far beats is lost by comparing it with another. -/
theorem winner_beats_left (n : Word → Nat) (r v x : Word) (h : Beats n r x) : Beats n (winner n r v) x := by
  unfold Beats winner at *
  split <;> omega

theorem winner_beats_right (n : Word → Nat) (r v : Word) : Beats n (winner n r v) v := by
  unfold Beats winner
  split <;> omega

/-- The word kept of a list is one of it and beats every other. -/
theorem foldl_winner (n : Word → Nat) (l : List Word) (b : Word) :
    l.foldl (winner n) b ∈ b :: l ∧ ∀ v, (Beats n b v ∨ v ∈ l) → Beats n (l.foldl (winner n) b) v := by
  induction l generalizing b with
  | nil => exact ⟨List.mem_cons_self, fun v hv => hv.resolve_right (by simp)⟩
  | cons a l ih =>
    obtain ⟨hm, hb⟩ := ih (winner n b a)
    refine ⟨?_, fun v hv => hb v ?_⟩
    · rcases List.mem_cons.1 hm with h | h
      · rw [List.foldl_cons, h]
        unfold winner
        split <;> simp
      · simp [h]
    · rcases hv with hv | hv
      · exact .inl (winner_beats_left n b a v hv)
      · rcases List.mem_cons.1 hv with rfl | hv
        · exact .inl (winner_beats_right n b v)
        · exact .inr hv

/-- Lanes of a list that hold a word. -/
def groupSize (word : Nat → Word) (all : List Nat) (w : Word) : Nat := (all.filter fun l => word l == w).length

theorem groupSize_eq_map (word : Nat → Word) (all : List Nat) (w : Word) :
    ((all.map fun l => (l, word l)).filter (·.2 == w)).length = groupSize word all w := by
  rw [List.filter_map, List.length_map]; rfl

/-- R147: the group kept is a largest one, and among the largest that of the lowest word. -/
theorem largestGroup_spec (word : Nat → Word) {all : List Nat} (hne : all ≠ []) :
    largestGroup (all.map fun l => (l, word l)) ∈ all.map word ∧
      ∀ v ∈ all.map word, Beats (groupSize word all) (largestGroup (all.map fun l => (l, word l))) v := by
  obtain ⟨l, ls, rfl⟩ := List.exists_cons_of_ne_nil hne
  have hg : largestGroup ((l :: ls).map fun l => (l, word l)) =
      ((l :: ls).map word).foldl (winner (groupSize word (l :: ls))) (word l) := by
    unfold largestGroup
    simp only [groupSize_eq_map, List.foldl_map]
    rfl
  obtain ⟨hm, hb⟩ := foldl_winner (groupSize word (l :: ls)) ((l :: ls).map word) (word l)
  rw [hg]
  refine ⟨by simpa using hm, fun v hv => hb v (.inr hv)⟩

theorem groupSize_eq_length_iff (word : Nat → Word) (all : List Nat) (w : Word) :
    groupSize word all w = all.length ↔ (all.map fun l => (l, word l)).all (·.2 == w) = true := by
  rw [groupSize, List.length_filter_eq_length_iff]
  simp

/-! ## Transfers to words (R147) -/

/-- Lanes whose word is no continuation. -/
def Ctx.badLanes (c : Ctx) (word : Nat → Word) : List Nat := c.lanes.filter fun l => !c.s.contOk c.g.ctx c.g.code (word l)

theorem goWords_bad {word : Nat → Word} {l : Nat} {ls : List Nat} (h : c.badLanes word = l :: ls) :
    c.goWords word = .trap 0x0005 (l :: ls) (word l).toNat := by
  have hf : ((c.lanes.map fun l => (l, word l)).filter fun e => !c.s.contOk c.g.ctx c.g.code e.2) = (l :: ls).map fun l => (l, word l) := by
    rw [List.filter_map, ← h]; rfl
  unfold Ctx.goWords
  dsimp only
  rw [hf, if_pos (by simp), List.map_map]
  simp [Function.comp_def]

theorem goWords_good {word : Nat → Word} (h : c.badLanes word = []) (hp : c.f.ports.any (·.2.store) = false) (hf : Said.free c) :
    let w := largestGroup (c.lanes.map fun l => (l, word l))
    c.goWords word = .jump (if groupSize word c.lanes w = c.lanes.length then c.s.contIntact c.k w
      else Said.regrouped c c.s ((c.lanes.filter fun l => word l ≠ w).map fun l => (l, word l)) (some w)) := by
  have hb : ((c.lanes.map fun l => (l, word l)).filter fun e => !c.s.contOk c.g.ctx c.g.code e.2) = [] := by
    rw [List.filter_map, List.map_eq_nil_iff]; exact h
  intro w
  unfold Ctx.goWords
  dsimp only
  rw [hb, if_neg (by simp)]
  by_cases hw : groupSize word c.lanes w = c.lanes.length
  · rw [if_pos hw, if_pos ((groupSize_eq_length_iff _ _ _).1 hw), goIntact_jump hp]
  · rw [if_neg hw, if_neg (mt (groupSize_eq_length_iff _ _ _).2 hw), regroup_jump hf, List.filter_map]
    rfl

/-! ## Control transfers -/

theorem toNat_succWord (n : BitVec 28) : (n ++ 0#4 : Word).toNat = 16 * n.toNat := by
  rw [BitVec.toNat_append]
  simp [Nat.shiftLeft_eq, Nat.mul_comm]

/-- The context of an issuing instruction names its floe's core, grid and block. -/
theorem issuing_copyFor (h : issuing i s = some (f, c)) (seg : Nat) : c.s.copyFor c.k c.f seg = s.copyOf c.core c.g.ctx c.g.code seg := by
  obtain ⟨-, hff, hs⟩ := issuing_floe_ctx h
  have hb : c.f.bkey c.k = f.bkey c.k := by rw [hff]; rfl
  rw [State.copyFor, hb, issuing_core h, issuing_g h, issuing_k h]
  rcases hs with hs | hs
  · rw [hs]
  · rw [hs]; rfl

/-- R142, R93: `next` into a resident segment stands at its entry, with uniform registers at zero and its lanes kept. -/
theorem next_enters (h : issuing i s = some (f, c)) (hc : s.calm = true) (n : BitVec 28) {cid : Nat} {cp : SegCopy}
    (hcp : s.copyOf c.core c.g.ctx c.g.code (n.toNat / 2 ^ 8) = some (cid, cp)) (he : n.toNat % 2 ^ 8 < bits (hdrOf cp) 50 45) :
    ∃ y, ((c.s.contIntact c.k (n ++ 0#4)).moved c.k f).floe? c.k = some y ∧
      y.standsAt cid (hdrEntry (hdrOf cp) (n.toNat % 2 ^ 8)) c.f.lanes := by
  have hseg : bits (n ++ 0#4 : Word).toNat 31 12 = n.toNat / 2 ^ 8 := by
    rw [toNat_succWord]; unfold bits; have := n.isLt; omega
  have hent : bits (n ++ 0#4 : Word).toNat 11 4 = n.toNat % 2 ^ 8 := by
    rw [toNat_succWord]; unfold bits; omega
  obtain ⟨hst, y, hy, y1, y2, y3, y4, y5⟩ := contIntact_enters (w := n ++ 0#4) (issuing_floe_ctx h).1 (by rw [toNat_succWord]; omega)
    ((issuing_copyFor h _).trans (by rw [hseg]; exact hcp)) (by rw [hent]; exact he)
  obtain ⟨z, hz, z1, z2, z3, z4, z5⟩ := moved_floe (f := f) (hst.trans (quiet_of h hc).still) hy
  rw [hent] at y2
  exact ⟨z, hz, z1.trans y1, z2.trans y2, z3.trans y3, z4.trans y4, z5.trans y5⟩

/-- R148: by the vote of its lanes `brv` goes on as one floe, or the smaller part regroups; of two equal parts the one that votes yes. -/
theorem brv_votes {p : BitVec 8} {a b : BitVec 28} (h : issuing (.brv p a b) s = some (f, c)) (hp : c.f.ports.any (·.2.store) = false)
    (hf : Said.free c) :
    let all := c.f.lanes.map (·.1)
    let yes := all.filter fun l => c.s.predOf (c.t l) p.toNat
    let no := all.filter fun l => !c.s.predOf (c.t l) p.toNat
    (yes.length = all.length → exec (.brv p a b) s = .next ((c.s.contIntact c.k (a ++ 0#4)).moved c.k f)) ∧
    (yes.length = 0 → all ≠ [] → exec (.brv p a b) s = .next ((c.s.contIntact c.k (b ++ 0#4)).moved c.k f)) ∧
    (0 < yes.length → yes.length < all.length → all.length < 2 * yes.length →
      exec (.brv p a b) s = .next ((Said.regrouped c c.s (no.map fun l => (l, b ++ 0#4)) (some (a ++ 0#4))).moved c.k f)) ∧
    (0 < yes.length → 2 * yes.length ≤ all.length →
      exec (.brv p a b) s = .next ((Said.regrouped c c.s (yes.map fun l => (l, a ++ 0#4)) (some (b ++ 0#4))).moved c.k f)) := by
  intro all yes no
  have hsum : all.length = yes.length + no.length := List.length_eq_length_filter_add _
  have hno : no = [] ↔ no.length = 0 := List.length_eq_zero_iff.symm
  have hyes : yes = [] ↔ yes.length = 0 := List.length_eq_zero_iff.symm
  have hall : all = [] ↔ all.length = 0 := List.length_eq_zero_iff.symm
  refine ⟨fun h1 => ?_, fun h1 h2 => ?_, fun h1 h2 h3 => ?_, fun h1 h2 => ?_⟩ <;> refine issue_jump h rfl rfl ?_
  · exact (if_pos (hno.2 (by omega))).trans (goIntact_jump hp _ _)
  · have hn : no ≠ [] := fun e => h2 (hall.2 (by have := hno.1 e; omega))
    exact (if_neg hn).trans ((if_pos (hyes.2 h1)).trans (goIntact_jump hp _ _))
  · exact (if_neg fun e => by have := hno.1 e; omega).trans ((if_neg fun e => by have := hyes.1 e; omega).trans
      ((if_pos (show no.length < yes.length by omega)).trans (regroup_jump hf _ _)))
  · exact (if_neg fun e => by have := hno.1 e; omega).trans ((if_neg fun e => by have := hyes.1 e; omega).trans
      ((if_neg (show ¬ no.length < yes.length by omega)).trans (regroup_jump hf _ _)))

/-- `nexti` and `ret` transfer their lanes to words. -/
theorem exec_words {a : BitVec 8} (hi : i = .nexti a ∨ i = .ret a) (s : State) :
    exec i s = issue i s fun c => c.goWords fun l => c.s.vreg (c.t l) a.toNat := by
  rcases hi with rfl | rfl <;> rfl

/-- R147: `nexti` and `ret` trap in the lanes whose word is no continuation, or keep the largest group and regroup the others. -/
theorem words_transfer {a : BitVec 8} (hi : i = .nexti a ∨ i = .ret a) (h : issuing i s = some (f, c)) :
    let word (l : Nat) : Word := c.s.vreg (c.t l) a.toNat
    let all := c.f.lanes.map (·.1)
    (∀ l ls, c.badLanes word = l :: ls → exec i s = .next (s.trapped c.k 0x0005 (l :: ls) (word l).toNat)) ∧
    (c.badLanes word = [] → c.f.ports.any (·.2.store) = false → Said.free c → all ≠ [] → ∃ w ∈ all.map word,
      (∀ v ∈ all.map word, Beats (groupSize word all) w v) ∧
      exec i s = .next (if groupSize word all w = all.length then (c.s.contIntact c.k w).moved c.k f
        else (Said.regrouped c c.s ((all.filter fun l => word l ≠ w).map fun l => (l, word l)) (some w)).moved c.k f)) := by
  intro word all
  have ha : algRow i = none := by rcases hi with rfl | rfl <;> rfl
  have ho : Instr.oncePerFloe i = false := by rcases hi with rfl | rfl <;> rfl
  rw [exec_words hi]
  refine ⟨fun l ls hb => issue_trap h ha ho (goWords_bad hb), fun hb hp hf hne => ?_⟩
  obtain ⟨hm, hbest⟩ := largestGroup_spec word hne
  refine ⟨_, hm, hbest, (issue_jump h ha ho (goWords_good hb hp hf)).trans ?_⟩
  rw [apply_ite fun u : State => u.moved c.k f]
  rfl

/-- Settles O29: each terminator's own part answers the jump or the trap that the clause names; `next` then stands where `next_enters` says, and a
transfer to words keeps the group of `largestGroup_spec`. -/
theorem controlTransfers : Obligations.ControlTransfers := by
  refine ⟨⟨fun n s f c h hp => ⟨?_, fun cid cp hc hcp he => ?_⟩, fun d dst back s f c h hp => ?_, fun n s f c h hf => ?_,
    fun p a b s f c h hp hf => brv_votes h hp hf⟩, fun i a hi s f c h => ?_⟩
  · exact issue_jump h rfl rfl (goIntact_jump hp _ _)
  · exact next_enters h hc n hcp he
  · exact issue_jump h rfl rfl (goIntact_jump hp _ _)
  · refine issue_jump h rfl rfl ((regroup_jump hf _ _).trans ?_)
    rw [Ctx.lanes, List.map_map]
    rfl
  · obtain ⟨htrap, hgo⟩ := words_transfer hi h
    exact ⟨fun l ls hb => by rw [hb]; exact htrap l ls hb, hgo⟩

end Sys2Proof.Machine
end

section
/-! SUPPORT. Rounding to a multiple of a power of two (R26), and exact sums and products as rational numbers (R35 to R37). -/

namespace Sys2Proof.Machine

open Sys2Proof

/-! ## The cut of R26 -/

/-- What `cutAt` cuts off: the multiple kept, and a remainder below one unit. -/
theorem cutAt_spec (m : Nat) (e q : Int) : (cutAt m e q).2.1 < (cutAt m e q).2.2 ∧
    (m : ℚ) * 2 ^ (e - q) = (cutAt m e q).1 + ((cutAt m e q).2.1 : ℚ) / (cutAt m e q).2.2 := by
  unfold cutAt
  split
  · next h =>
    obtain ⟨n, hn⟩ := Int.eq_ofNat_of_zero_le (show 0 ≤ e - q by omega)
    simp [hn]
  · next h =>
    obtain ⟨n, hn⟩ := Int.eq_ofNat_of_zero_le (show 0 ≤ q - e by omega)
    have hpos : 0 < 2 ^ n := Nat.two_pow_pos n
    have hm : ((m / 2 ^ n : Nat) * 2 ^ n + (m % 2 ^ n : Nat) : ℚ) = m := by exact_mod_cast Nat.div_add_mod' m (2 ^ n)
    refine ⟨by simpa [hn] using Nat.mod_lt m hpos, ?_⟩
    simp only [hn, Int.toNat_natCast, show e - q = -(n : Int) by omega, zpow_neg, zpow_natCast, Nat.cast_pow, Nat.cast_ofNat]
    field_simp
    linarith

/-- A nonnegative rational cut into whole and rest has its whole as floor. -/
theorem floor_toNat_eq {v : ℚ} {lo rem den : Nat} (hr : rem < den) (hv : v = lo + (rem : ℚ) / den) : ⌊v⌋.toNat = lo := by
  have hd : (0 : ℚ) < den := by exact_mod_cast Nat.zero_lt_of_lt hr
  have h1 : (rem : ℚ) / den < 1 := by rw [div_lt_one hd]; exact_mod_cast hr
  have h0 : (0 : ℚ) ≤ (rem : ℚ) / den := by positivity
  have hf : ⌊v⌋ = (lo : Int) := by
    rw [Int.floor_eq_iff]
    push_cast
    constructor <;> linarith
  rw [hf, Int.toNat_natCast]

/-- The draw of R34 is compared with the fraction in units of `2^-16`. -/
theorem floor_fraction (rem den : Nat) : ⌊((rem : ℚ) / den) * 2 ^ 16⌋ = (rem * 2 ^ 16 / den : Nat) := by
  rw [show ((rem : ℚ) / den) * 2 ^ 16 = ((rem * 2 ^ 16 : Nat) : ℚ) / (den : Nat) by push_cast; ring, Rat.floor_natCast_div_natCast]
  rfl

/-! ## One step of rounding -/

/-- R26: what `choose` picks between the multiple below and the one above, by the fraction `rem / den` between them. -/
theorem chooseHi_spec {rnd : Rnd} {draw rem den : Nat} {neg odd : Bool} (hr : rem < den) :
    let up := chooseHi rnd draw neg odd rem den false
    let x : ℚ := (rem : ℚ) / den
    (rnd = .rz → up = false) ∧ (rnd = .rup → up = !neg) ∧ (rnd = .rdn → up = neg) ∧
    (rnd = .rne ∨ rnd = .rna → (up = true → 1 / 2 ≤ x) ∧ (up = false → x ≤ 1 / 2)) ∧
    (x = 1 / 2 → (rnd = .rne → up = odd) ∧ (rnd = .rna → up = true)) ∧
    (rnd = .sr → (up = true ↔ 2 ^ 16 ≤ ⌊x * 2 ^ 16⌋ + (draw : Int))) := by
  intro up x
  have hd : (0 : ℚ) < den := by exact_mod_cast Nat.zero_lt_of_lt hr
  have hle : 1 / 2 ≤ x ↔ den ≤ 2 * rem := by
    rw [div_le_div_iff₀ two_pos hd, one_mul, mul_comm]; exact_mod_cast Iff.rfl
  have hge : x ≤ 1 / 2 ↔ 2 * rem ≤ den := by
    rw [div_le_div_iff₀ hd two_pos, one_mul, mul_comm]; exact_mod_cast Iff.rfl
  have heq : x = 1 / 2 ↔ 2 * rem = den := by rw [le_antisymm_iff, hle, hge]; omega
  rw [hle, hge, heq, show ⌊x * 2 ^ 16⌋ = _ from floor_fraction rem den]
  cases rnd
  case sr =>
    simp only [up, chooseHi, reduceCtorEq, false_implies, true_and, true_implies, or_self, and_self, implies_true, decide_eq_true_eq]
    norm_cast
  case rne =>
    simp only [up, chooseHi, reduceCtorEq, false_implies, true_and, true_implies, true_or, and_true, Bool.false_or,
      Bool.or_eq_true, Bool.and_eq_true, decide_eq_true_eq]
    refine ⟨⟨by omega, fun h => ?_⟩, fun h => by simp [h]⟩
    simp only [Bool.or_eq_false_iff, decide_eq_false_iff_not] at h
    omega
  case rna =>
    simp only [up, chooseHi, reduceCtorEq, false_implies, true_and, true_implies, or_true, and_true, decide_eq_true_eq, decide_eq_false_iff_not]
    omega
  all_goals simp [up, chooseHi]

theorem roundStep_exact {rnd : Rnd} {draw : Nat} {neg : Bool} {m : Nat} {e q : Int} (h : (cutAt m e q).2.1 = 0) :
    roundStep rnd draw neg m e q false = ((cutAt m e q).1, false) := if_pos ⟨h, rfl⟩

theorem roundStep_inexact {rnd : Rnd} {draw : Nat} {neg : Bool} {m : Nat} {e q : Int} (h : (cutAt m e q).2.1 ≠ 0) :
    roundStep rnd draw neg m e q false = (if chooseHi rnd draw neg (decide ((cutAt m e q).1 % 2 = 1)) (cutAt m e q).2.1 (cutAt m e q).2.2 false
      then (cutAt m e q).1 + 1 else (cutAt m e q).1, true) := if_neg fun hc => h hc.1

/-- R26: one step of rounding, with the fraction between the neighbours written out. -/
theorem roundStep_spec (rnd : Rnd) (draw : Nat) (neg : Bool) (m : Nat) (e q : Int) :
    let v : ℚ := m * 2 ^ (e - q)
    let lo : ℕ := ⌊v⌋.toNat
    let r := roundStep rnd draw neg m e q false
    (r.2 = true ↔ (lo : ℚ) ≠ v) ∧ ((lo : ℚ) = v → r.1 = lo) ∧ ((lo : ℚ) ≠ v →
      (r.1 = lo ∨ r.1 = lo + 1) ∧
      (rnd = .rz → r.1 = lo) ∧ (rnd = .rup → r.1 = if neg = true then lo else lo + 1) ∧ (rnd = .rdn → r.1 = if neg = true then lo + 1 else lo) ∧
      (rnd = .rne ∨ rnd = .rna → |(r.1 : ℚ) - v| ≤ 1 / 2) ∧
      (v - lo = 1 / 2 → (rnd = .rne → r.1 % 2 = 0) ∧ (rnd = .rna → r.1 = lo + 1)) ∧
      (rnd = .sr → (r.1 = lo + 1 ↔ 2 ^ 16 ≤ ⌊(v - lo) * 2 ^ 16⌋ + (draw : Int)))) := by
  intro v lo r
  obtain ⟨hr, hv⟩ := cutAt_spec m e q
  have hlo : lo = (cutAt m e q).1 := floor_toNat_eq hr hv
  have hfrac : v - lo = ((cutAt m e q).2.1 : ℚ) / (cutAt m e q).2.2 := by rw [hlo]; exact sub_eq_of_eq_add' hv
  by_cases h0 : (cutAt m e q).2.1 = 0
  · have hon : (lo : ℚ) = v := by rw [h0, Nat.cast_zero, zero_div] at hfrac; linarith
    have hr1 : r = (lo, false) := by rw [hlo]; exact roundStep_exact h0
    simp [hr1, hon]
  · have hoff : (lo : ℚ) ≠ v := by
      intro h
      rw [h, sub_self, eq_comm, div_eq_zero_iff] at hfrac
      rcases hfrac with hf | hf
      · exact h0 (by exact_mod_cast hf)
      · have : (cutAt m e q).2.2 = 0 := by exact_mod_cast hf
        omega
    obtain ⟨hrz, hrup, hrdn, hnear, htie, hsr⟩ := chooseHi_spec (rnd := rnd) (draw := draw) (neg := neg) (odd := decide (lo % 2 = 1)) hr
    rw [← hfrac] at hnear htie hsr
    have hr1 : r = (if chooseHi rnd draw neg (decide (lo % 2 = 1)) (cutAt m e q).2.1 (cutAt m e q).2.2 false then lo + 1 else lo, true) := by
      rw [hlo]; exact roundStep_inexact h0
    generalize chooseHi rnd draw neg (decide (lo % 2 = 1)) (cutAt m e q).2.1 (cutAt m e q).2.2 false = up at *
    have hbound : 0 ≤ v - lo ∧ v - lo ≤ 1 := by
      rw [hfrac]
      exact ⟨by positivity, div_le_one_of_le₀ (by exact_mod_cast hr.le) (by positivity)⟩
    have hup : up = true → r.1 = lo + 1 := fun h => by rw [hr1, if_pos h]
    have hdown : up = false → r.1 = lo := fun h => by rw [hr1, h]; rfl
    refine ⟨by simp [hr1, hoff], fun h => absurd h hoff, fun _ => ⟨?_, ?_, ?_, ?_, ?_, ?_, ?_⟩⟩
    · cases up
      · exact .inl (hdown rfl)
      · exact .inr (hup rfl)
    · exact fun h => hdown (hrz h)
    · intro h
      cases neg
      · exact hup (hrup h)
      · exact hdown (hrup h)
    · intro h
      cases neg
      · exact hdown (hrdn h)
      · exact hup (hrdn h)
    · intro h
      obtain ⟨h1, h2⟩ := hnear h
      rw [abs_le]
      cases up
      · have := h2 rfl
        rw [hdown rfl]
        constructor <;> linarith
      · have := h1 rfl
        rw [hup rfl]
        push_cast
        constructor <;> linarith
    · intro h
      obtain ⟨h1, h2⟩ := htie h
      refine ⟨fun hm => ?_, fun hm => hup (h2 hm)⟩
      have hodd := h1 hm
      cases up
      · rw [hdown rfl]
        have := of_decide_eq_false hodd.symm
        omega
      · rw [hup rfl]
        have := of_decide_eq_true hodd.symm
        omega
    · intro h
      rw [← hsr h]
      cases up
      · simp [hdown rfl]
      · simp [hup rfl]

/-! ## Exact sums and products (R35 to R37) -/

/-- A value that is neither a NaN nor an infinity. -/
def FVal.finite (x : FVal) : Prop := x.isNan = false ∧ ∀ s, x ≠ .inf s

theorem FVal.finite_cases {x : FVal} (h : x.finite) : (∃ s, x = .zero s) ∨ ∃ s m e, x = .fin s m e := by
  obtain ⟨hn, hi⟩ := h
  cases x with
  | nan => cases hn
  | inf s => exact absurd rfl (hi s)
  | zero s => exact .inl ⟨s, rfl⟩
  | fin s m e => exact .inr ⟨s, m, e, rfl⟩

theorem rat_eq_mant (x : FVal) : Said.rat x = x.mant * 2 ^ x.exp := by
  cases x with
  | fin s m e => cases s <;> simp [Said.rat, FVal.mant, FVal.exp]
  | _ => simp [Said.rat, FVal.mant]

theorem rat_negate (x : FVal) : Said.rat x.negate = -Said.rat x := by
  cases x with
  | fin s m e => cases s <;> simp [Said.rat, FVal.negate]
  | _ => simp [Said.rat, FVal.negate]

/-- The lower of an exponent and a term's. -/
def FVal.lower (acc : Int) (t : FVal) : Int := match t with | .fin _ _ x => min acc x | _ => acc

/-- A sum at the weight `2^e` with a term added. -/
def FVal.addAt (e acc : Int) (t : FVal) : Int := match t with | .fin _ _ x => acc + t.mant * 2 ^ (x - e).toNat | _ => acc

theorem sumExact_eq (ts : List FVal) : sumExact ts = (ts.foldl (FVal.addAt (ts.foldl FVal.lower 1000)) 0, ts.foldl FVal.lower 1000) := rfl

/-- The exponent that a sum is formed at is at most every term's. -/
theorem foldl_lower_le (ts : List FVal) (acc : Int) :
    ts.foldl FVal.lower acc ≤ acc ∧ ∀ s m x, FVal.fin s m x ∈ ts → ts.foldl FVal.lower acc ≤ x := by
  induction ts generalizing acc with
  | nil => exact ⟨le_rfl, by simp⟩
  | cons t ts ih =>
    obtain ⟨h1, h2⟩ := ih (FVal.lower acc t)
    have ht : FVal.lower acc t ≤ acc := by
      cases t with
      | fin s m x => exact min_le_left acc x
      | _ => exact le_rfl
    refine ⟨h1.trans ht, fun s m x hx => ?_⟩
    rcases List.mem_cons.1 hx with rfl | hx
    · exact h1.trans (min_le_right acc x)
    · exact h2 s m x hx

/-- A term added at a weight that divides it adds its value. -/
theorem addAt_rat {e : Int} {t : FVal} (h : ∀ s m x, t = .fin s m x → e ≤ x) (acc : Int) :
    (FVal.addAt e acc t : ℚ) * 2 ^ e = acc * 2 ^ e + Said.rat t := by
  cases t with
  | fin s m x =>
    obtain ⟨n, hn⟩ := Int.eq_ofNat_of_zero_le (show 0 ≤ x - e by have := h s m x rfl; omega)
    have hx : x = n + e := by omega
    rw [rat_eq_mant, FVal.addAt, FVal.exp, hn, hx, zpow_add₀ two_ne_zero, zpow_natCast, Int.toNat_natCast]
    push_cast
    ring
  | _ => simp [FVal.addAt, Said.rat]

theorem foldl_addAt_rat {e : Int} (ts : List FVal) (h : ∀ s m x, FVal.fin s m x ∈ ts → e ≤ x) (acc : Int) :
    ((ts.foldl (FVal.addAt e) acc : Int) : ℚ) * 2 ^ e = acc * 2 ^ e + (ts.map Said.rat).sum := by
  induction ts generalizing acc with
  | nil => simp
  | cons t ts ih =>
    rw [List.foldl_cons, ih (fun s m x hx => h s m x (List.mem_cons_of_mem _ hx)), addAt_rat, List.map_cons, List.sum_cons, add_assoc]
    rintro s m x rfl
    exact h s m x List.mem_cons_self

/-- R35: the sum that is rounded is exact. -/
theorem sumExact_rat (ts : List FVal) : ((sumExact ts).1 : ℚ) * 2 ^ (sumExact ts).2 = (ts.map Said.rat).sum := by
  rw [sumExact_eq]
  simpa using foldl_addAt_rat ts (foldl_lower_le ts 1000).2 0

/-- R37: of finite terms the sum's value is the exact sum. -/
theorem sumVal_rat {rnd : Rnd} {ts : List FVal} (h : ∀ t ∈ ts, t.finite) : Said.rat (sumVal rnd ts) = (ts.map Said.rat).sum := by
  have hn : ts.any FVal.isNan = false := List.any_eq_false.2 fun t ht => by simp [(h t ht).1]
  have hi : ∀ s, (ts.any fun t => t == .inf s) = false := fun s => List.any_eq_false.2 fun t ht => by simpa using (h t ht).2 s
  rw [← sumExact_rat]
  unfold sumVal
  simp only [hn, hi, Bool.false_eq_true, if_false, Bool.and_self]
  split
  · next h0 => simp [h0, Said.rat]
  · have hs : ∀ z : Int, (if decide (z < 0) = true then (-1 : ℚ) else 1) * (z.natAbs : ℚ) = z := by
      intro z
      rcases lt_or_ge z 0 with hz | hz
      · rw [if_pos (by simpa using hz), show z = -(z.natAbs : Int) by omega]
        simp
      · rw [if_neg (by simpa using hz), show z = (z.natAbs : Int) by omega]
        simp
    rw [Said.rat, ← mul_assoc, hs]

/-- R36: the product of two finite values is exact. -/
theorem mul_rat {x y : FVal} (hx : x.finite) (hy : y.finite) : (x.mul y).2 = false ∧ Said.rat (x.mul y).1 = Said.rat x * Said.rat y := by
  rcases FVal.finite_cases hx with ⟨s, rfl⟩ | ⟨s, m, e, rfl⟩ <;> rcases FVal.finite_cases hy with ⟨s', rfl⟩ | ⟨s', m', e', rfl⟩
  case inr.inr =>
    refine ⟨rfl, ?_⟩
    rw [FVal.mul, Said.rat, Said.rat, Said.rat, zpow_add₀ two_ne_zero]
    cases s <;> cases s' <;> simp <;> ring
  all_goals simp [FVal.mul, Said.rat]

/-- Finite values are ordered as the numbers they stand for. -/
theorem lt_iff_rat {x y : FVal} (hx : x.finite) (hy : y.finite) : x.lt y = true ↔ Said.rat x < Said.rat y := by
  have hlt : x.lt y = decide ((sumExact [x, y.negate]).1 < 0) := by
    rcases FVal.finite_cases hx with ⟨s, rfl⟩ | ⟨s, m, e, rfl⟩ <;> rcases FVal.finite_cases hy with ⟨s', rfl⟩ | ⟨s', m', e', rfl⟩ <;> rfl
  have hsum := sumExact_rat [x, y.negate]
  rw [List.map_cons, List.map_singleton, List.sum_pair, rat_negate] at hsum
  have hpos : (0 : ℚ) < 2 ^ (sumExact [x, y.negate]).2 := by positivity
  rw [hlt, decide_eq_true_eq, ← sub_neg (a := Said.rat x), sub_eq_add_neg, ← hsum, ← not_le, ← not_le,
    mul_nonneg_iff_of_pos_right hpos, Int.cast_nonneg_iff]

/-- Settles O24: `roundStep_spec` for one step of rounding, and the exact values of sums and products as rationals. -/
theorem roundingAndExactSums : Obligations.RoundingAndExactSums :=
  ⟨fun rnd draw neg m e q _ => roundStep_spec rnd draw neg m e q, fun _ _ h => sumVal_rat h, fun _ _ hx hy hx' hy' => mul_rat ⟨hx, hx'⟩ ⟨hy, hy'⟩,
    fun _ _ hx hy hx' hy' => lt_iff_rat ⟨hx, hx'⟩ ⟨hy, hy'⟩⟩

end Sys2Proof.Machine
end

section
/-! SUPPORT. Register access by `csrr` and `csrw` (R314, R315): the gate of both, what lands in registers, and the status word's fields. -/

namespace Sys2Proof.Machine

variable {i : Instr} {s u : State} {f : Floe} {c : Ctx} {k : Nat} {go : Res}

/-! ## The gate (R42, R315) -/

theorem csrGate_idle {n : Nat} {write : Bool} (h : c.act = []) : c.csrGate n write go = .done c.s := if_pos h

theorem csrGate_trap {n : Nat} {write : Bool} (h : c.act ≠ []) (hs : csrSuper n write = true) (hc : c.s.ctxSup c.g.ctx = false) :
    c.csrGate n write go = .trap 0x0008 c.act n := by
  rw [Ctx.csrGate, if_neg h, if_pos ⟨hs, by rw [hc]; rfl⟩]

theorem csrGate_go {n : Nat} {write : Bool} (h : c.act ≠ []) (ha : Said.mayAccess c n write) : c.csrGate n write go = go := by
  obtain ⟨hsup, hwait⟩ := ha
  rw [Ctx.csrGate, if_neg h, if_neg fun hx => by simp [hsup hx.1] at hx, if_neg fun hx => by simp [hwait hx.1] at hx]

/-- An instruction whose own part stands behind the gate: with no active lane it completes, without SUP it traps, and where the access may be
made it does what follows. -/
theorem issue_csrGate (h : issuing i s = some (f, c)) (ha : algRow i = none) (ho : Instr.oncePerFloe i = false) {n : Nat} {write : Bool}
    {body : Ctx → Res} {u : State} (hb : body c = c.csrGate n write (.done u)) :
    (c.act = [] → issue i s body = .next (c.s.completed c.k f)) ∧
    (c.act ≠ [] → csrSuper n write = true → c.s.ctxSup c.g.ctx = false → issue i s body = .next (s.trapped c.k 0x0008 c.act n)) ∧
    (c.act ≠ [] → Said.mayAccess c n write → issue i s body = .next (u.completed c.k f)) := by
  refine ⟨fun hn => ?_, fun hn hs hc => ?_, fun hn hm => ?_⟩
  · exact issue_done h (preTrap_none ha c) (hb.trans (csrGate_idle hn)) fun _ => rfl
  · exact issue_trap h ha ho (hb.trans (csrGate_trap hn hs hc))
  · exact issue_done h (preTrap_none ha c) (hb.trans (csrGate_go hn hm)) fun h => absurd h hn

/-! ## `csrr` -/

/-- Registers written lane by lane: every lane of a list whose lanes stand in their own banks reads what it was given. -/
theorem foldl_setVreg_vreg {d : Nat} (val : Nat → Word) (hb : c.inBanks (d + 1) = true) (ls : List Nat) (hls : ∀ l ∈ ls, l ∈ c.act) {u : State}
    (hw : ∀ t, (u.thread t).wbase = (c.s.thread t).wbase) :
    (∀ t, ((ls.foldl (fun s l => s.setVreg (c.t l) d (val l)) u).thread t).wbase = (c.s.thread t).wbase) ∧
    ∀ l ∈ c.act, (ls.foldl (fun s l => s.setVreg (c.t l) d (val l)) u).vreg (c.t l) d = if l ∈ ls then val l else u.vreg (c.t l) d := by
  induction ls generalizing u with
  | nil => exact ⟨hw, fun l _ => by simp⟩
  | cons m ls ih =>
    obtain ⟨h1, h2⟩ := ih (fun l hl => hls l (List.mem_cons_of_mem _ hl)) (u := u.setVreg (c.t m) d (val m)) fun t => by
      rw [State.setVreg_thread]; exact hw t
    refine ⟨h1, fun l hl => ?_⟩
    rw [List.foldl_cons, h2 l hl, State.vreg_setVreg]
    by_cases hlm : l = m
    · subst hlm; simp
    · have hk : regKey (c.t l) (u.thread (c.t l)) d ≠ regKey (c.t m) (u.thread (c.t m)) d := fun hk =>
        hlm (spot_unique (u := u) (a := regKey (c.t l) (u.thread (c.t l)) d) hb (hls m List.mem_cons_self) hl le_rfl le_rfl hw
          ⟨by omega, by omega⟩ ⟨by omega, by omega⟩)
      rw [if_neg hk]
      simp [hlm]

theorem quiet_setVreg (h : Quiet u) (t n : Nat) (v : Word) : Quiet (u.setVreg t n v) := by
  rw [setVreg_quiet h.latent h.arms]; exact quiet_regs h _

theorem quiet_foldl {α : Type} {g : State → α → State} (hg : ∀ u a, Quiet u → Quiet (g u a)) (ls : List α) (h : Quiet u) : Quiet (ls.foldl g u) :=
  List.foldlRecOn (motive := Quiet) ls g h fun u hu a _ => hg u a hu

/-- R315: `csrr` gives every active lane what that lane reads. -/
theorem csrr_reads {d : BitVec 8} {n : Nat} (h : issuing i s = some (f, c)) (hc : s.calm = true) (hb : c.inBanks (d.toNat + 1) = true)
    {l : Nat} (hl : l ∈ c.act) :
    ((c.act.foldl (fun s l => s.setVreg (c.t l) d.toNat (c.csrVal c.s l n)) c.s).completed c.k f).vreg (c.t l) d.toNat = c.csrVal c.s l n := by
  rw [completed_vreg (quiet_foldl (fun u l hu => quiet_setVreg hu (c.t l) d.toNat (c.csrVal c.s l n)) c.act (quiet_of h hc)),
    (foldl_setVreg_vreg (fun l => c.csrVal c.s l n) hb c.act (fun _ h => h) fun _ => rfl).2 l hl, if_pos hl]

/-- R314: what a lane reads from the registers of its own thread, of its launch and of its issue slot. -/
theorem csrVal_thread (c : Ctx) (l : Nat) : let th := c.s.thread (c.t l)
    c.csrVal c.s l 0 = th.status ∧ c.csrVal c.s l 1 = th.epc ∧ c.csrVal c.s l 2 = th.ecause ∧ c.csrVal c.s l 4 ++ c.csrVal c.s l 3 = th.eaddr ∧
    c.csrVal c.s l 5 = th.eseq ∧ (c.csrVal c.s l 7 ++ c.csrVal c.s l 6).toNat = c.g.arg % 2 ^ 64 ∧ c.csrVal c.s l 0x12 = c.s.lfsrOf c.islot := by
  refine ⟨rfl, rfl, rfl, ?_, rfl, ?_, rfl⟩
  · show (BitVec.extractLsb' 32 32 (c.s.thread (c.t l)).eaddr ++ BitVec.truncate 32 (c.s.thread (c.t l)).eaddr : BitVec 64) = _
    ext i hi
    rw [BitVec.getElem_append, ← BitVec.getLsbD_eq_getElem]
    split
    · simp
    · simp [show 32 + (i - 32) = i by omega]
  · show (BitVec.ofNat 32 (c.g.arg / 2 ^ 32) ++ BitVec.ofNat 32 c.g.arg).toNat = _
    rw [BitVec.toNat_append, BitVec.toNat_ofNat, BitVec.toNat_ofNat, ← Nat.shiftLeft_add_eq_or_of_lt (Nat.mod_lt _ (by decide)), Nat.shiftLeft_eq]
    omega

/-! ## `csrw` -/

theorem getLsbD_statusRw (i : Nat) : statusRw.getLsbD i = decide (i < 5) := by
  rcases Nat.lt_or_ge i 32 with hi | hi
  · exact (by decide : ∀ i : Fin 32, statusRw.getLsbD i = decide (i.val < 5)) ⟨i, hi⟩
  · rw [BitVec.getLsbD_of_ge _ _ hi, eq_comm, decide_eq_false_iff_not]; omega

theorem getLsbD_statusW1c (i : Nat) : statusW1c.getLsbD i = decide (i = 6) := by
  rcases Nat.lt_or_ge i 32 with hi | hi
  · exact (by decide : ∀ i : Fin 32, statusW1c.getLsbD i = decide (i.val = 6)) ⟨i, hi⟩
  · rw [BitVec.getLsbD_of_ge _ _ hi, eq_comm, decide_eq_false_iff_not]; omega

/-- What a written status word holds, bit by bit. -/
theorem getLsbD_statusWrite (o : WOp) (old v : Word) {i : Nat} (hi : i < 32) : (statusWrite o old v).getLsbD i =
    if i < 5 then (o.app old v).getLsbD i else if i = 6 then old.getLsbD i && !v.getLsbD i else old.getLsbD i := by
  simp only [statusWrite, BitVec.getLsbD_or, BitVec.getLsbD_and, BitVec.getLsbD_not, getLsbD_statusRw, getLsbD_statusW1c, hi, decide_true,
    Bool.true_and]
  by_cases h5 : i < 5
  · simp [h5, show i ≠ 6 by omega]
  · by_cases h6 : i = 6 <;> simp [h5, h6]

/-- R40, R41, R65, R315: a write of the status word by its RW, W1C and RO fields. -/
theorem statusWrite_fields (o : WOp) (old v : Word) :
    (∀ i, i < 5 → (statusWrite o old v).getLsbD i = match o with
      | .plain => v.getLsbD i | .set => old.getLsbD i || v.getLsbD i | .clr => old.getLsbD i && !v.getLsbD i) ∧
    (statusWrite o old v).getLsbD 6 = (old.getLsbD 6 && !v.getLsbD 6) ∧
    ∀ i, i = 5 ∨ 7 ≤ i → (statusWrite o old v).getLsbD i = old.getLsbD i := by
  refine ⟨fun i hi => ?_, getLsbD_statusWrite o old v (by decide), fun i hi => ?_⟩
  · rw [getLsbD_statusWrite o old v (by omega), if_pos hi]
    cases o
    · rfl
    · exact BitVec.getLsbD_or
    · simp [WOp.app, show i < 32 by omega]
  · rcases Nat.lt_or_ge i 32 with h | h
    · rw [getLsbD_statusWrite o old v h, if_neg (by omega), if_neg (by omega)]
    · rw [BitVec.getLsbD_of_ge _ _ h, BitVec.getLsbD_of_ge _ _ h]

/-- What a lane's write of STATUS leaves in a thread. -/
theorem csrPut_status (u : State) (l : Nat) (o : WOp) (v : Word) (t : Nat) :
    ((c.csrPut u l 0 o v).thread t).status = if t = c.t l then statusWrite o (u.thread t).status v else (u.thread t).status := by
  rw [Ctx.csrPut, if_pos rfl, State.thread_modThread]
  split
  · next h => rw [h]
  · rfl

/-- Of different lanes that write STATUS, each thread is written once. -/
theorem foldl_csrPut_status (o : WOp) (val : Nat → Word) {n : Nat} (hb : c.inBanks n = true) (ls : List Nat) (hls : ∀ l ∈ ls, l ∈ c.act)
    (hnd : ls.Nodup) (u : State) {l : Nat} (hl : l ∈ c.act) :
    ((ls.foldl (fun s l => c.csrPut s l 0 o (val l)) u).thread (c.t l)).status =
      if l ∈ ls then statusWrite o (u.thread (c.t l)).status (val l) else (u.thread (c.t l)).status := by
  induction ls generalizing u with
  | nil => simp
  | cons m ls ih =>
    obtain ⟨hm, hnd⟩ := List.nodup_cons.1 hnd
    rw [List.foldl_cons, ih (fun l hl => hls l (List.mem_cons_of_mem _ hl)) hnd, csrPut_status]
    by_cases hlm : l = m
    · subst hlm
      simp [hm]
    · rw [if_neg fun ht => hlm (lane_unique hb (hls m List.mem_cons_self) hl ht)]
      simp [hlm]

theorem quiet_csrPut_status (h : Quiet u) (l : Nat) (o : WOp) (v : Word) : Quiet (c.csrPut u l 0 o v) := quiet_threads h _

/-- R315: the form of `csrw` is the way its written word meets the old one. -/
theorem exec_csrw {h : Head} {a : BitVec 8} {n : BitVec 12} {o : WOp}
    (hi : (i = .csrw h a n ∧ o = .plain) ∨ (i = .csrwSet h a n ∧ o = .set) ∨ (i = .csrwClr h a n ∧ o = .clr)) :
    algRow i = none ∧ Instr.oncePerFloe i = false ∧ ∀ s, exec i s = issue i s fun c => c.csrWrite a n.toNat o := by
  rcases hi with ⟨rfl, rfl⟩ | ⟨rfl, rfl⟩ | ⟨rfl, rfl⟩ <;> exact ⟨rfl, rfl, fun _ => rfl⟩

/-- Settles O39: `csrr` and the forms of `csrw` stand behind one gate (`issue_csrGate`); what they read and write past it is said lane by lane. -/
theorem registerAccess : Obligations.RegisterAccess := by
  refine ⟨fun h d n s f c hs => ?_, csrVal_thread, fun i h a n o hi s f c hs => ?_⟩
  · obtain ⟨hidle, htrap, hgo⟩ := issue_csrGate hs rfl rfl (n := n.toNat) (write := false) (body := fun c =>
      c.csrGate n.toNat false (.done (c.act.foldl (fun s l => s.setVreg (c.t l) d.toNat (c.csrVal c.s l n.toNat)) c.s))) rfl
    exact ⟨hidle, htrap, fun hn hm => ⟨_, hgo hn hm, fun hc hb l hl => csrr_reads hs hc hb hl⟩⟩
  · obtain ⟨ha, ho, he⟩ := exec_csrw hi
    obtain ⟨hidle, htrap, hgo⟩ := issue_csrGate hs ha ho (n := n.toNat) (write := true) (body := fun c => c.csrWrite a n.toNat o) rfl
    rw [he]
    refine ⟨hidle, htrap, fun hn hm => ⟨hgo hn hm, fun h0 hc hb hnd l hl => ?_⟩⟩
    subst h0
    have hq := quiet_foldl (fun u l hu => quiet_csrPut_status (c := c) hu l o (c.s.vreg (c.t l) a.toNat)) c.act (quiet_of hs hc)
    have hst := (completed_status (k := c.k) (f := f) hq (c.t l)).trans (foldl_csrPut_status o (fun l => c.s.vreg (c.t l) a.toNat) hb c.act
      (fun _ h => h) hnd c.s hl)
    rw [if_pos hl] at hst
    exact hst ▸ statusWrite_fields o _ _

end Sys2Proof.Machine
end

section
/-! SUPPORT. Conversions and dot products: draws, fields of words, and instructions that give one word with flags per lane (R34, R119 to R124). -/

namespace Sys2Proof.Machine

open Sys2Proof

variable {i : Instr} {s u : State} {f : Floe} {c : Ctx} {k : Nat}

/-! ## Instructions that round stochastically (R34) -/

/-- The draw of an element is the low half of the rotated state. -/
theorem drawOf_eq (w : Word) (l e : Nat) : drawOf w l e = (w.rotateLeft (5 * l + 8 * e)).toNat % 2 ^ 16 := by
  rw [drawOf, BitVec.rotateLeft_mod_eq_rotateLeft]
  rfl

/-- The generator moves or stays; nothing else does. -/
theorem srStep_eq (c : Ctx) (rnd : Rnd) : ∃ g, (c.srStep rnd).2 = { c.s with lfsr := g } := by
  unfold Ctx.srStep
  split
  · exact ⟨_, rfl⟩
  · exact ⟨_, rfl⟩

/-- An instruction that gives one word with flags per active lane, its generator moved first. -/
theorem fpGives_of_issue {la : BitVec 4} {d : BitVec 8} {rnd : Rnd} {val : Word → Ctx → Nat → Nat × Fl} (ha : algRow i = none)
    (ho : Instr.oncePerFloe i = false)
    (he : ∀ s, exec i s = issue i s fun c => .done (c.fpOut (c.srStep rnd).2 la.toNat d (val (c.srStep rnd).1 c))) : Said.fpGives i la d rnd val := by
  intro s f c h sr t
  obtain ⟨g, hg⟩ := srStep_eq c rnd
  refine ⟨?_, fun hc => ?_⟩
  · rw [he, issue_lanes h (preTrap_none ha c) ho]
    rfl
  · show c.givesFp ((c.deliver (c.srStep rnd).2 la.toNat d _).completed c.k f) la d _ _
    rw [hg]
    exact deliver_givesFp (quiet_lfsr (quiet_of h hc) g) rfl (issuing_floe_ctx h).1 (issuing_npend h) la d _ _

/-! ## Numbers and fields (R16) -/

/-- A two's-complement number of `n` bits. -/
theorem sext_eq_toInt (x n : Nat) : sext x n = (BitVec.ofNat n x).toInt := by
  rcases Nat.eq_zero_or_pos n with rfl | hn
  · simp [sext, Nat.mod_one, BitVec.eq_nil (BitVec.ofNat 0 x)]
  · obtain ⟨n, rfl⟩ := Nat.exists_eq_succ_of_ne_zero hn.ne'
    rw [sext, BitVec.toInt_eq_toNat_cond, BitVec.toNat_ofNat, Nat.succ_sub_one, pow_succ]
    split <;> split <;> push_cast <;> omega

theorem bits_field {w : Nat} (hw : 0 < w) (v at' : Nat) : bits v (at' + w - 1) at' = v / 2 ^ at' % 2 ^ w := by
  rw [bits, show at' + w - 1 + 1 - at' = w by omega]

theorem bits_half (v e : Nat) : bits v (16 * e + 15) (16 * e) = v / 2 ^ (16 * e) % 2 ^ 16 := bits_field (w := 16) (by decide) v (16 * e)

/-- R123: an element of a packed word, signed or not. -/
theorem intOfCode_field {w : Nat} (hw : 0 < w) (v at' : Nat) (signed : Bool) : intOfCode (bits v (at' + w - 1) at') w signed =
    if signed = true then (BitVec.ofNat w (v / 2 ^ at')).toInt else ((BitVec.ofNat w (v / 2 ^ at')).toNat : Int) := by
  rw [bits_field hw, intOfCode, sext_eq_toInt, ← BitVec.toNat_ofNat, BitVec.ofNat_toNat, BitVec.setWidth_eq, BitVec.toNat_mod_cancel]

theorem wrap_eq_toNat (v : Int) (n : Nat) : wrap v n = (BitVec.ofInt n v).toNat := by
  rw [BitVec.toNat_ofInt, wrap]; push_cast; rfl

theorem foldl_range_add (n : Nat) (g : Nat → Int) (x : Int) : (List.range n).foldl (fun acc e => acc + g e) x = x + ((List.range n).map g).sum := by
  induction n with
  | zero => simp
  | succ n ih => simp [List.range_succ, ih, add_assoc]

/-- The bits of a number cut into a low part, a field and a high part. -/
theorem testBit_parts {at' w lo y : Nat} (hlo : lo < 2 ^ at') (hy : y < 2 ^ w) (hi i : Nat) :
    (2 ^ at' * (2 ^ w * hi + y) + lo).testBit i =
      if i < at' then lo.testBit i else if i < at' + w then y.testBit (i - at') else hi.testBit (i - at' - w) := by
  rw [Nat.testBit_two_pow_mul_add _ hlo, Nat.testBit_two_pow_mul_add _ hy]
  split
  · rfl
  · exact if_congr (by omega) rfl rfl

/-! ## `cvt` (R119 to R122) -/

theorem cfmtSigned_eq (f : CFmt) : cfmtSigned f = decide (f = .s8 ∨ f = .s16 ∨ f = .s32 ∨ f = .s64) := by cases f <;> rfl

theorem cfmtW_pos (f : CFmt) : 0 < cfmtW f := by cases f <;> decide

/-- A field replaced: the parts below and above it stay. -/
theorem replaceField_eq (old y at' w : Nat) : old - old / 2 ^ at' % 2 ^ w * 2 ^ at' + y * 2 ^ at' =
    2 ^ at' * (2 ^ w * (old / 2 ^ at' / 2 ^ w) + y) + old % 2 ^ at' := by
  have h1 := Nat.div_add_mod old (2 ^ at')
  have h2 := Nat.div_add_mod (old / 2 ^ at') (2 ^ w)
  generalize old / 2 ^ at' = q at *
  have h3 : 2 ^ at' * (2 ^ w * (q / 2 ^ w)) + q % 2 ^ w * 2 ^ at' = 2 ^ at' * q := by rw [mul_comm (q % 2 ^ w), ← mul_add, h2]
  rw [mul_add, mul_comm y]
  omega

/-- A field with `1`s from its end up to the top, or with nothing above it. -/
theorem signFill_eq {at' w top : Nat} (y : Nat) (sign : Bool) : y * 2 ^ at' + (if sign then 2 ^ top - 2 ^ (at' + w) else 0) =
    2 ^ at' * (2 ^ w * (if sign then 2 ^ (top - (at' + w)) - 1 else 0) + y) + 0 := by
  cases sign
  · simp [mul_comm]
  · have hfill : 2 ^ top - 2 ^ (at' + w) = 2 ^ (at' + w) * (2 ^ (top - (at' + w)) - 1) := by
      rcases Nat.le_total (at' + w) top with h | h
      · rw [Nat.mul_sub, ← pow_add, Nat.add_sub_cancel' h, mul_one]
      · rw [Nat.sub_eq_zero_of_le h, pow_zero, Nat.sub_self, mul_zero]
        exact Nat.sub_eq_zero_of_le (Nat.pow_le_pow_right two_pos h)
    simp only [if_true]
    rw [hfill, pow_add]
    ring

/-- R122: the bits of the destination: the element at DEL, and around it the old register or the sign. -/
theorem cvtPlace_testBit (o : CvtOps) {old y i : Nat} (hy : y < 2 ^ cfmtW o.dfmt) (hi : i < if cfmtW o.dfmt = 64 then 64 else 32) :
    (cvtPlace o (if o.mrg then old else 0) y).testBit i = if cfmtW o.dfmt * o.del.toNat ≤ i ∧ i < cfmtW o.dfmt * o.del.toNat + cfmtW o.dfmt
      then y.testBit (i - cfmtW o.dfmt * o.del.toNat)
      else if o.mrg = true then old.testBit i
      else decide (cfmtW o.dfmt * o.del.toNat + cfmtW o.dfmt ≤ i) && decide (o.dfmt = .s8 ∨ o.dfmt = .s16 ∨ o.dfmt = .s32 ∨ o.dfmt = .s64) &&
        y.testBit (cfmtW o.dfmt - 1) := by
  rw [← cfmtSigned_eq]
  unfold cvtPlace
  dsimp only
  generalize cfmtW o.dfmt * o.del.toNat = at'
  have hmod : old % 2 ^ at' < 2 ^ at' := Nat.mod_lt _ (Nat.two_pow_pos _)
  by_cases hm : o.mrg = true
  · rw [if_pos hm, if_pos hm, if_pos hm, bits_field (cfmtW_pos _), replaceField_eq, testBit_parts hmod hy, Nat.testBit_mod_two_pow, Nat.testBit_div_two_pow,
      Nat.testBit_div_two_pow]
    by_cases hlo : i < at'
    · rw [if_pos hlo, if_neg (by omega), decide_eq_true hlo, Bool.true_and]
    · rw [if_neg hlo]
      by_cases hin : i < at' + cfmtW o.dfmt
      · rw [if_pos hin, if_pos ⟨by omega, hin⟩]
      · rw [if_neg hin, if_neg (show ¬ (at' ≤ i ∧ i < at' + cfmtW o.dfmt) from fun h => hin h.2), show i - at' - cfmtW o.dfmt + cfmtW o.dfmt + at' = i by omega]
  · rw [if_neg hm, if_neg hm, signFill_eq, testBit_parts (Nat.two_pow_pos _) hy, bitOf, ← Nat.testBit_eq_decide_div_mod_eq]
    by_cases hlo : i < at'
    · rw [if_pos hlo, if_neg (by omega), decide_eq_false (show ¬ at' + cfmtW o.dfmt ≤ i by omega), Nat.zero_testBit]; rfl
    · rw [if_neg hlo]
      by_cases hin : i < at' + cfmtW o.dfmt
      · rw [if_pos hin, if_pos ⟨by omega, hin⟩]
      · rw [if_neg hin, if_neg (show ¬ (at' ≤ i ∧ i < at' + cfmtW o.dfmt) from fun h => hin h.2), decide_eq_true (show at' + cfmtW o.dfmt ≤ i by omega), Bool.true_and]
        cases cfmtSigned o.dfmt && y.testBit (cfmtW o.dfmt - 1)
        · exact Nat.zero_testBit _
        · rw [if_pos rfl, Nat.testBit_two_pow_sub_one, decide_eq_true_eq]
          omega

/-- `cvt` places the converted element and completes. -/
theorem cvt_gives {o : CvtOps} (h : issuing (.cvt o) s = some (f, c)) (res : Nat → Nat × Fl)
    (hres : ∀ l, res l = convert (cfmtNum o.sfmt) (cfmtNum o.dfmt) o.rnd o.ovf (drawOf (c.srStep o.rnd).1 l o.del.toNat)
      (bits (if cfmtW o.sfmt = 64 then c.rdPair o.a l else (c.rd1 0 o.a l).toNat) (cfmtW o.sfmt * o.sel.toNat + cfmtW o.sfmt - 1) (cfmtW o.sfmt * o.sel.toNat)))
    (v : Nat → Nat) (hv : ∀ l, v l = cvtPlace o (if o.mrg then (c.rd1 1 o.d l).toNat else 0) (res l).1) :
    let words (l : Nat) : List Word := if cfmtW o.dfmt = 64 then [BitVec.ofNat 32 (v l), BitVec.ofNat 32 (v l / 2 ^ 32)] else [BitVec.ofNat 32 (v l)]
    let t := (c.deliver (c.srStep o.rnd).2 0 o.d (c.act.map fun l => (l, words l, (res l).2))).completed c.k f
    exec (.cvt o) s = .next t ∧ (s.calm = true → o.d.toNat < 248 → c.inBanks (o.d.toNat + 2) = true → c.inRegs t o.d words) := by
  intro words t
  refine ⟨?_, fun hc hd hb => ?_⟩
  · show execCvt o s = _
    unfold execCvt
    rw [issue_lanes h (preTrap_none rfl c) rfl]
    simp only [← hres, ← hv]
    rfl
  · obtain ⟨g, hg⟩ := srStep_eq c o.rnd
    have hq := quiet_lfsr (quiet_of h hc) g
    rw [← hg] at hq
    exact deliver_inRegs hq (fun t => by rw [hg]; rfl) hd words _ (fun l => by dsimp only [words]; split <;> simp) hb

/-! ## Dot products (R123, R124) -/

/-- The exact sum of R123. -/
def dotSum (n w : Nat) (o : FpOps) (c : Ctx) (l : Nat) : Int :=
  (BitVec.ofNat 32 (c.fpRaw o 2 o.c l)).toInt + ((List.range n).map fun e =>
    intOfCode (bits (c.fpRaw o 0 o.a l) (w * e + w - 1) (w * e)) w (o.opx.getLsbD 1) *
      intOfCode (bits (c.fpRaw o 1 o.b l) (w * e + w - 1) (w * e)) w (o.opx.getLsbD 0)).sum

theorem dotInt_eq (n w : Nat) (o : FpOps) (c : Ctx) (l : Nat) :
    dotInt n w (o.opx.getLsbD 1) (o.opx.getLsbD 0) o.ovf (c.fpRaw o 0 o.a l) (c.fpRaw o 1 o.b l) (c.fpRaw o 2 o.c l) =
      (BitVec.ofInt 32 (fit (dotSum n w o c l) .s32 o.ovf)).toNat := by
  unfold dotInt dotSum
  dsimp only
  rw [foldl_range_add, sext_eq_toInt, wrap_eq_toNat]

theorem idp4_gives (o : FpOps) : Said.fpGives (.idp4 o) 0 o.d .rne fun _ c l => ((BitVec.ofInt 32 (fit (dotSum 4 8 o c l) .s32 o.ovf)).toNat, 0) :=
  fpGives_of_issue rfl rfl fun s => by simp only [← dotInt_eq]; rfl

theorem idp8_gives (o : FpOps) : Said.fpGives (.idp8 o) 0 o.d .rne fun _ c l => ((BitVec.ofInt 32 (fit (dotSum 8 4 o c l) .s32 o.ovf)).toNat, 0) :=
  fpGives_of_issue rfl rfl fun s => by simp only [← dotInt_eq]; rfl

theorem fdp2_gives (o : FpOps) : Said.fpGives (.fdp2 o) 0 o.d o.rnd fun w c l =>
    fDp2 (Said.fmt o.ty) o.rnd o.ovf (drawOf w l 0) (c.fpRaw o 0 o.a l) (c.fpRaw o 1 o.b l) (c.fpRaw o 2 o.c l) := by
  refine fpGives_of_issue rfl rfl fun s => ?_
  rw [show Said.fmt o.ty = fpFmt o.ty by cases o.ty <;> rfl]
  rfl

/-- Settles O25: `cvt` by the bits of its placed element, the dot products by their exact sums. -/
theorem conversionsAndDotProducts : Obligations.ConversionsAndDotProducts := by
  refine ⟨fun o s f c h => ?_, fun o => ?_, fun o => ?_, fun o => ?_⟩
  · intro sw dw sr res
    refine ⟨fun l => cvtPlace o (if o.mrg then (c.rd1 1 o.d l).toNat else 0) (res l).1, fun l i hi hr => ?_, cvt_gives h res (fun l => ?_) _ fun _ => rfl⟩
    · exact cvtPlace_testBit o hr hi
    · rw [drawOf_eq, bits_field (cfmtW_pos _)]
      rfl
  · have := idp4_gives o
    simpa only [dotSum, intOfCode_field (show 0 < 8 by decide)] using this
  · have := idp8_gives o
    simpa only [dotSum, intOfCode_field (show 0 < 4 by decide)] using this
  · have := fdp2_gives o
    simpa only [fDp2, bits_half, drawOf_eq, show ∀ l, 5 * l + 8 * 0 = 5 * l from fun _ => rfl] using this

end Sys2Proof.Machine
end

section
/-! SUPPORT. The frame of the instructions on registers (R41, R63, R77, R105): what a slot that validation accepts says of its destinations, and
that each instruction's own part changes no more than those, its flags and its generator. -/

namespace Sys2Proof.Machine

open Sys2Proof

variable {i : Instr} {fl : Bool} {s u : State} {f : Floe} {c : Ctx}

/-! ## Destinations of an accepted slot -/

/-- A slot with a bad operand fails for its registers (R55). -/
theorem fails_register (h : ((i.srcs ++ i.dsts).any fun o => !o.ok true) = true) : i.fails.2.2.2.1 = true := by
  unfold Instr.fails
  simp only [h, Bool.true_or]
  repeat' split
  any_goals rfl
  -- `sdet` has no operand
  cases h

theorem check_none (h : i.wf = true) : i.fails.1 = false ∧ i.fails.2.1 = false ∧ i.fails.2.2.1 = false ∧ i.fails.2.2.2.1 = false := by
  simp only [Instr.wf, Instr.check, beq_iff_eq] at h
  split at h
  · cases h
  · split at h
    · cases h
    · split at h
      · cases h
      · split at h
        · cases h
        · simp_all

/-- R55: the destinations of an accepted slot exist. -/
theorem dst_ok (h : i.wf = true) {o : Opd} (ho : o ∈ i.dsts) : o.ok true = true := by
  obtain ⟨-, -, -, hr⟩ := check_none h
  by_contra hb
  rw [fails_register] at hr
  · cases hr
  · exact List.any_eq_true.2 ⟨o, List.mem_append_right _ ho, by simpa using hb⟩

/-- Where no queue port is a destination, lane registers are (R56). -/
theorem dst_lt (h : i.wf = true) (hp : portDsts i = []) {d : BitVec 8} {n : Nat} {b : Bool} (hd : Opd.reg d n b ∈ i.dsts) : d.toNat < 248 := by
  have hok := dst_ok h hd
  unfold Opd.ok at hok
  dsimp only at hok
  by_contra hlt
  split at hok
  · next hn =>
    subst hn
    have := List.filterMap_eq_nil_iff.1 hp _ hd
    simp [show 248 ≤ d.toNat by omega] at this
  · next hn =>
    obtain ⟨hm, hle⟩ := of_decide_eq_true hok
    obtain rfl : n = 0 := by omega
    rw [Nat.mod_zero] at hm
    omega

theorem ureg_lt (h : i.wf = true) {d : BitVec 8} (hd : Opd.ureg d ∈ i.dsts) : d.toNat < 64 := of_decide_eq_true (dst_ok h hd)

/-- R79: an accepted slot of the integer class has a form of its row, and passes the checks of its class. -/
theorem intCheck_none {r : IntRow} {o : IntOps} (h : i.wf = true) (hr : intRow i = some (r, o)) :
    o.form ∈ r.forms ∧ (intCheck i r o).2.2 = false := by
  obtain ⟨-, h4, -, h6⟩ := check_none h
  unfold Instr.fails at h4 h6
  rw [hr] at h4 h6
  dsimp only at h4 h6
  refine ⟨?_, (Bool.or_eq_false_iff.1 h6).2⟩
  simp only [intCheck, Bool.or_eq_false_iff, Bool.not_eq_false', List.contains_iff_mem] at h4
  exact h4.1.1.1.1

/-! ## What an instruction leaves as it was -/

/-- The frame of one instruction: it traps, or leaves as it was all but what `Ctx.frame` names. -/
def Framed (i : Instr) (fl : Bool) : Prop := i.wf = true → ∀ s f c t, issuing i s = some (f, c) → s.calm = true → portDsts i = [] → exec i s = .next t →
  (∃ code lanes addr, t = s.trapped c.k code lanes addr) ∨ c.frame i fl s t

/-- An instruction whose own part changes no more than `Eff` allows. -/
theorem framed_of_done {part : Ctx → State} (ha : algRow i = none) (ho : Instr.oncePerFloe i = false)
    (he : ∀ s, exec i s = issue i s fun c => .done (part c))
    (hp : ∀ s f c, i.wf = true → portDsts i = [] → issuing i s = some (f, c) → Quiet c.s → Eff c i fl (part c)) : Framed i fl := by
  intro hw s f c t h hc hd ht
  rw [he, issue_lanes h (preTrap_none ha c) ho] at ht
  cases ht
  exact .inr (frame_of_eff h hc (hp s f c hw hd h (quiet_of h hc)))

/-- The generator moves or stays (R34). -/
theorem eff_srStep (c : Ctx) (i : Instr) (fl : Bool) (rnd : Rnd) : Eff c i fl (c.srStep rnd).2 := by
  unfold Ctx.srStep
  split
  · exact eff_setLfsr (eff_refl c i fl) _
  · exact eff_refl c i fl

/-! ### Integer instructions -/

theorem wrWords_length (ty : IntTy) (x : Int) : (wrWords ty x).length = ty.regs := by
  unfold wrWords IntTy.regs
  split <;> rfl

theorem eff_intOut_refl (hw : i.wf = true) (hp : portDsts i = []) (q : Quiet c.s) {o : IntOps} {n : Nat} (hd : intOpd o.form o.d n ∈ i.dsts)
    {val : Nat → List Word} (hn : ∀ l, (val l).length ≤ n) : Eff c i fl (c.intOut c.s o val) := by
  refine eff_intOut (eff_refl c i fl) q o hd (fun hk => ?_) val hn
  rw [intOpd, hk] at hd
  exact dst_lt hw hp hd

/-- R77: words of a number of registers, in lane registers or a uniform register. -/
theorem framed_words {o : IntOps} {n : Nat} {val : Ctx → Nat → List Word} (ha : algRow i = none) (ho : Instr.oncePerFloe i = false)
    (hd : intOpd o.form o.d n ∈ i.dsts) (hn : ∀ c l, (val c l).length ≤ n)
    (he : ∀ s, exec i s = issue i s fun c => .done (c.intOut c.s o (val c))) : Framed i fl :=
  framed_of_done ha ho he fun _ _ c hw hp _ q => eff_intOut_refl hw hp q hd (hn c)

/-- R81 to R90: a value written under the instruction's type. -/
theorem framed_typed {o : IntOps} {x : Ctx → Nat → Int} (ha : algRow i = none) (ho : Instr.oncePerFloe i = false)
    (hd : intOpd o.form o.d o.ty.regs ∈ i.dsts) (he : ∀ s, exec i s = issue i s fun c => .done (c.intOut c.s o fun l => wrWords o.ty (x c l))) :
    Framed i fl :=
  framed_words ha ho hd (fun c l => (wrWords_length o.ty (x c l)).le) he

/-- The same for an instruction that has no K form, whose destination is a lane register. -/
theorem framed_laneWords {o : IntOps} {r : IntRow} {n : Nat} {b : Bool} {val : Ctx → Nat → List Word} (hr : intRow i = some (r, o))
    (hk : ∀ x ∈ r.forms, x.isK = false) (ha : algRow i = none) (ho : Instr.oncePerFloe i = false) (hd : .reg o.d n b ∈ i.dsts)
    (hn : ∀ c l, (val c l).length ≤ n) (he : ∀ s, exec i s = issue i s fun c => .done (c.intOut c.s o (val c))) : Framed i fl := by
  refine framed_of_done ha ho he fun _ _ c hw hp _ q => ?_
  have hform := hk _ (intCheck_none hw hr).1
  unfold Ctx.intOut
  rw [hform]
  exact eff_deliver (eff_refl c i fl) q _ (dst_lt hw hp hd) hd (val c) (hn c) _ (.inr fun _ => rfl)

/-- R95, R97 to R100: a predicate of every active lane, or of every present lane in a K form. -/
theorem framed_pred {o : IntOps} {p : BitVec 8} {val : Ctx → Nat → Bool} (ha : algRow i = none) (ho : Instr.oncePerFloe i = false)
    (hd : .pred p ∈ i.dsts) (he : ∀ s, exec i s = issue i s fun c => .done (c.predOut c.s o p (val c))) : Framed i fl :=
  framed_of_done ha ho he fun _ _ c _ _ h _ => eff_predOut h (eff_refl c i fl) o hd (val c)

/-- R92: a special register takes one word, the clock two. -/
theorem special_length (c : Ctx) {n : Nat} (h : n ≤ 0x13) (l : Nat) : (c.special n l).length = if n = 0x13 then 2 else 1 := by
  interval_cases n <;> rfl

/-- R92 in a K form: consecutive uniform registers, of which those written are destinations. -/
theorem eff_movsUniform {o : IntOps} (hw : Instr.wf (.movs o) = true) (hk : o.form.isK = true) (ha : o.a.toNat ≤ 0x13) (l : Nat) :
    Eff c (.movs o) fl ((c.special o.a.toNat l).zipIdx.foldl (fun s e => s.setUreg c.k (o.d.toNat + e.2) e.1) c.s) := by
  have hd0 : Opd.ureg o.d ∈ Instr.dsts (.movs o) := by simp [Instr.dsts, intOpd, hk]
  refine eff_foldl _ _ (fun e he u hu => ?_) (eff_refl c _ fl)
  have hlt : e.2 < (c.special o.a.toNat l).length := by simpa using List.snd_lt_of_mem_zipIdx he
  rw [special_length c ha] at hlt
  rcases Nat.eq_zero_or_pos e.2 with h0 | h0
  · rw [h0]
    exact eff_setUreg hu hd0 e.1
  · have h13 : o.a.toNat = 0x13 := by
      by_contra hne
      rw [if_neg hne] at hlt
      omega
    rw [if_pos h13] at hlt
    have hd1 : Opd.ureg (o.d + 1) ∈ Instr.dsts (.movs o) := by
      simp [Instr.dsts, hk, show o.a = 0x13#8 from BitVec.eq_of_toNat_eq h13]
    have hn : (o.d + 1).toNat = o.d.toNat + 1 := by
      rw [BitVec.toNat_add, Nat.mod_eq_of_lt]
      · rfl
      · have := ureg_lt hw hd0
        show o.d.toNat + 1 < 256
        omega
    rw [show e.2 = 1 by omega, ← hn]
    exact eff_setUreg hu hd1 e.1

/-- R92: the special register that an accepted slot names is one of the table. -/
theorem movs_code_le {o : IntOps} (hw : Instr.wf (.movs o) = true) : o.a.toNat ≤ 0x13 := by
  have h := (intCheck_none hw (r := ⟨0x03, 0, Form.rk, [.s32], .no, false, false⟩) rfl).2
  simp only [intCheck, Bool.or_eq_false_iff, decide_eq_false_iff_not] at h
  omega

theorem framed_movs (o : IntOps) : Framed (.movs o) fl := by
  cases hk : o.form.isK with
  | true =>
    refine framed_of_done (part := fun c => (c.special o.a.toNat c.lowPresent).zipIdx.foldl (fun s e => s.setUreg c.k (o.d.toNat + e.2) e.1) c.s)
      rfl rfl (fun s => ?_) fun _ _ c hw _ _ _ => eff_movsUniform hw hk (movs_code_le hw) _
    show execMovs o s = _
    unfold execMovs
    rw [hk]; rfl
  | false =>
    refine framed_of_done (part := fun c => c.intOut c.s o fun l => c.special o.a.toNat l) rfl rfl (fun s => ?_) fun _ _ c hw hp _ q =>
      eff_intOut_refl hw hp q (n := if o.a = 0x13#8 then 2 else 1) List.mem_cons_self fun l => ?_
    · show execMovs o s = _
      unfold execMovs
      rw [hk]; rfl
    · rw [special_length c (movs_code_le hw)]
      by_cases ha : o.a = 0x13#8
      · simp [ha]
      · rw [if_neg ha, if_neg (show ¬ o.a.toNat = 0x13 from fun h => ha (BitVec.eq_of_toNat_eq h))]

theorem framed_iaddc (o : IntOps) : Framed (.iaddc o) fl :=
  framed_of_done rfl rfl (fun _ => rfl) fun _ _ c hw hp h q =>
    eff_predOut h (eff_intOut_refl hw hp q (n := 1) List.mem_cons_self fun _ => le_rfl) o (by simp [Instr.dsts]) _

/-- R94: with no active lane nothing is moved. -/
theorem framed_movkToUniform (o : IntOps) : Framed (.movkToUniform o) fl := by
  intro _ s f c t h hc _ ht
  have he : exec (.movkToUniform o) s = _ := issue_done h (preTrap_none rfl c) rfl fun hn => if_pos hn
  rw [he] at ht
  cases ht
  refine .inr (frame_of_eff h hc ?_)
  split
  · exact eff_refl c _ fl
  · exact eff_setUreg (eff_refl c _ fl) List.mem_cons_self _

/-! ### Float, lane and query instructions -/

theorem eff_fpOut (e : Eff c i fl u) (q : Quiet c.s) (hw : i.wf = true) (hp : portDsts i = []) {d : BitVec 8} {b : Bool} (hd : .reg d 1 b ∈ i.dsts)
    (la : Nat) (val : Nat → Nat × Fl) (hf : fl = true ∨ ∀ l, (val l).2 = 0) : Eff c i fl (c.fpOut u la d val) :=
  eff_deliver e q la (dst_lt hw hp hd) hd (fun l => [BitVec.ofNat 32 (val l).1]) (fun _ => le_rfl) (fun l => (val l).2) hf

/-- One word per active lane, its generator moved first. -/
theorem framed_fp {rnd : Rnd} {la : Nat} {d : BitVec 8} {b : Bool} {val : Word → Ctx → Nat → Nat × Fl} (ha : algRow i = none)
    (ho : Instr.oncePerFloe i = false) (hd : .reg d 1 b ∈ i.dsts) (hf : fl = true ∨ ∀ w c l, (val w c l).2 = 0)
    (he : ∀ s, exec i s = issue i s fun c => .done (c.fpOut (c.srStep rnd).2 la d (val (c.srStep rnd).1 c))) : Framed i fl :=
  framed_of_done ha ho he fun _ _ c hw hp _ q => eff_fpOut (eff_srStep c i fl rnd) q hw hp hd la _ (hf.imp id fun h l => h _ c l)

/-- Words of a number of registers per active lane. -/
theorem framed_deliver {la n : Nat} {d : BitVec 8} {b : Bool} {val : Ctx → Nat → List Word} (ha : algRow i = none)
    (ho : Instr.oncePerFloe i = false) (hd : .reg d n b ∈ i.dsts) (hn : ∀ c l, (val c l).length ≤ n)
    (he : ∀ s, exec i s = issue i s fun c => .done (c.deliver c.s la d (c.act.map fun l => (l, val c l, 0)))) : Framed i fl :=
  framed_of_done ha ho he fun _ _ c hw hp _ q =>
    eff_deliver (eff_refl c i fl) q la (dst_lt hw hp hd) hd (val c) (hn c) _ (.inr fun _ => rfl)

/-- Predicates of the active lanes. -/
theorem eff_actPreds (h : issuing i s = some (f, c)) (e : Eff c i fl u) {p : BitVec 8} (hp : Opd.pred p ∈ i.dsts) (val : Nat → Bool) :
    Eff c i fl (c.act.foldl (fun s l => c.wrPred s p l (val l)) u) :=
  eff_foldl _ _ (fun l hl _ e => eff_setPred e hp (act_present h hl) (val l)) e

theorem framed_actPreds {p : BitVec 8} {val : Ctx → Nat → Bool} (ha : algRow i = none) (ho : Instr.oncePerFloe i = false) (hd : .pred p ∈ i.dsts)
    (he : ∀ s, exec i s = issue i s fun c => .done (c.act.foldl (fun s l => c.wrPred s p l (val c l)) c.s)) : Framed i fl :=
  framed_of_done ha ho he fun _ _ c _ _ h _ => eff_actPreds h (eff_refl c i fl) hd (val c)

/-- R105: a float instruction, element by element. -/
theorem framed_fpLanes {o : FpOps} {g : Nat → Nat → Nat → Nat → Nat × Fl} (ha : algRow i = none) (ho : Instr.oncePerFloe i = false)
    (hd : .reg o.d 1 true ∈ i.dsts) (he : ∀ s, exec i s = issue i s (fpLanes o g)) : Framed i true :=
  framed_fp (la := o.h.la.toNat) (val := fun w c l => packElems o.ty fun e =>
    g (drawOf w l e) (fget o.ty (c.fpRaw o 0 o.a l) e) (fget o.ty (c.fpRaw o 1 o.b l) e) (fget o.ty (c.fpRaw o 2 o.c l) e)) ha ho hd (.inl rfl) he

/-- One word per active lane at once, with no flag and no draw. -/
theorem framed_laneOut {d : BitVec 8} {b : Bool} {val : Ctx → Nat → Nat} (ha : algRow i = none) (ho : Instr.oncePerFloe i = false)
    (hd : .reg d 1 b ∈ i.dsts) (he : ∀ s, exec i s = issue i s fun c => .done (c.fpOut c.s 0 d fun l => (val c l, 0))) : Framed i fl :=
  framed_fp (rnd := .rne) (val := fun _ c l => (val c l, 0)) ha ho hd (.inr fun _ _ _ => rfl) he

/-- R119 to R122: `cvt` gives one word, or two for a 64-bit format. -/
theorem framed_cvt (o : CvtOps) : Framed (.cvt o) true := by
  refine framed_of_done rfl rfl (fun _ => rfl) fun _ _ c hw hp _ q => ?_
  refine eff_deliver (eff_srStep c _ true o.rnd) q 0 (dst_lt hw hp List.mem_cons_self) List.mem_cons_self (fun l => _) (fun l => ?_) (fun l => _) (.inl rfl)
  cases o.dfmt <;> exact le_rfl

/-- R164: `qdx` and `qdy` round a difference. -/
theorem framed_quadDiff {o : LaneOps} {pair : Nat → Nat × Nat} {b : Bool} (ha : algRow i = none) (ho : Instr.oncePerFloe i = false)
    (hd : .reg o.d 1 b ∈ i.dsts) (he : ∀ s, exec i s = issue i s (quadDiff o pair)) : Framed i true :=
  framed_fp (la := 0) (val := fun w c l =>
    fSub .f32 (laneRnd o) (laneSat o) (drawOf w l 0) (c.srcval o.a (pair l).1).toNat (c.srcval o.a (pair l).2).toNat) ha ho hd (.inl rfl) he

/-- R113: the predicate and the flags of every active lane. -/
theorem framed_fcmp (o : FpOps) : Framed (.fcmp o) true :=
  framed_of_done rfl rfl (fun _ => rfl) fun _ _ c _ _ h _ =>
    eff_foldl _ _ (fun _ hl _ e => eff_orFlags (eff_setPred e List.mem_cons_self (act_present h hl) _) hl _) (eff_refl c _ true)

/-- R165: a vote gives a word or a predicate. -/
theorem framed_vote (o : LaneOps) : Framed (.vote o) fl := by
  by_cases h3 : o.func = 3
  · refine framed_laneOut (d := o.d) (b := false) (val := fun c _ => (maskOf (c.act.filter fun l => c.s.predOf (c.t l) o.a.toNat)).toNat)
      rfl rfl (by simp [Instr.dsts, h3]) fun s => ?_
    show execVote o s = _
    unfold execVote
    simp only [h3, if_true]
    rfl
  · refine framed_actPreds (p := o.d) (val := fun c _ =>
      let yes := c.act.filter fun l => c.s.predOf (c.t l) o.a.toNat
      if o.func = 0 then yes ≠ [] else if o.func = 1 then yes.length = c.act.length else yes = [] ∨ yes.length = c.act.length)
      rfl rfl (by rw [Instr.dsts, if_neg h3]; exact List.mem_cons_self) fun s => ?_
    show execVote o s = _
    unfold execVote
    simp only [if_neg h3]

/-- R163: the function code of an accepted `match`. -/
theorem matchAny_func {o : LaneOps} (hw : Instr.wf (.matchAny o) = true) (h0 : o.func ≠ 0) : o.func = 1 := by
  have h : (laneCheck (.matchAny o) o).2 = false := (check_none hw).2.1
  simp only [laneCheck, Bool.or_false, Bool.not_eq_false', decide_eq_true_eq] at h
  have hne : o.func.toNat ≠ 0 := fun h => h0 (BitVec.eq_of_toNat_eq h)
  exact BitVec.eq_of_toNat_eq (show o.func.toNat = 1 by omega)

/-- R168: words, and with FUNC 1 a predicate. -/
theorem framed_matchAny (o : LaneOps) : Framed (.matchAny o) fl := by
  by_cases h0 : o.func = 0
  · refine framed_laneOut (d := o.d) (b := false)
      (val := fun c l => (maskOf (c.act.filter fun m => c.s.vreg (c.t m) o.a.toNat == c.s.vreg (c.t l) o.a.toNat)).toNat)
      rfl rfl List.mem_cons_self fun s => ?_
    show execMatchAny o s = _
    unfold execMatchAny
    simp only [h0, if_true]
    rfl
  · have he : ∀ s, exec (.matchAny o) s = issue (.matchAny o) s fun c =>
        let same := c.act.all fun m => c.s.vreg (c.t m) o.a.toNat == c.s.vreg (c.t c.low) o.a.toNat
        .done (c.act.foldl (fun s l => c.wrPred s o.c l same) (c.fpOut c.s 0 o.d fun _ => (if same then (maskOf c.act).toNat else 0, 0))) := by
      intro s
      show execMatchAny o s = _
      unfold execMatchAny
      simp only [h0, if_false]
      rfl
    refine framed_of_done rfl rfl he fun _ _ c hw hp h q => ?_
    have h1 := matchAny_func hw h0
    exact eff_actPreds h (eff_fpOut (eff_refl c _ fl) q hw hp (b := false) List.mem_cons_self 0 _ (.inr fun _ => rfl)) (by simp [Instr.dsts, h1]) _

/-- R161: one word of the mask in every active lane. -/
theorem framed_featq (h : Head) (d : BitVec 8) (w : BitVec 2) : Framed (.featq h d w) fl := by
  refine framed_deliver (la := 0) (n := 1) (d := d) (b := true) (val := fun c _ => [c.g.mask.extractLsb' (32 * w.toNat) 32]) rfl rfl
    List.mem_cons_self (fun _ _ => le_rfl) fun s => ?_
  simp only [Ctx.deliver, if_true, List.foldl_map]
  rfl

/-! ### Algebra instructions and `accr` -/

/-- R137: an algebra instruction traps, or delivers components, its generator moved first. -/
theorem framed_alg {o : AlgOps} {n : Nat} {b : Bool} {val : Nat → Word → Ctx → Nat → Nat → Nat × Fl} (ho : Instr.oncePerFloe i = false)
    (hd : .reg o.d n b ∈ i.dsts) (hf : fl = true ∨ ∀ t w c l m, (val t w c l m).2 = 0)
    (he : ∀ s, exec i s = issue i s (algRun o fun t w s c => c.algOut s o n (val t w c))) : Framed i fl := by
  intro hw s f c t h hc hp ht
  rw [he] at ht
  cases hpre : c.preTrap i with
  | some e =>
    rw [issue_preTrap h hpre] at ht
    cases ht
    exact .inl ⟨_, _, _, rfl⟩
  | none =>
    rw [issue_lanes h hpre ho] at ht
    have e0 := eff_srStep c i fl o.rnd
    unfold algRun at ht
    dsimp only at ht
    split at ht
    · cases ht
      exact .inr (frame_of_eff h hc e0)
    · split at ht
      · cases ht
        exact .inl ⟨_, _, _, rfl⟩
      · cases ht
        refine .inr (frame_of_eff h hc (eff_deliver e0 (quiet_of h hc) 0 (dst_lt hw hp hd) hd (fun l => _) (fun l => ?_) (fun l => _) ?_))
        · simp
        · refine hf.imp id fun hz l => ?_
          rw [List.foldl_map]
          simp [hz]

/-- R214: `accr` traps or delivers one word per active lane. -/
theorem accLanes_cases (c : Ctx) (h off : Nat → Nat) : (∃ code lanes addr, c.accLanes h off = .error (.trap code lanes addr)) ∨
    ∃ g : Nat → Nat × Nat, c.accLanes h off = .ok (c.act.map fun l => (l, g l)) := by
  unfold Ctx.accLanes
  dsimp only
  split
  · exact .inl ⟨_, _, _, rfl⟩
  · split
    · exact .inl ⟨_, _, _, rfl⟩
    · exact .inr ⟨_, rfl⟩

theorem framed_accr (o : RegOps) : Framed (.accr o) fl := by
  intro hw s f c t h hc hp ht
  have he : exec (.accr o) s = issue (.accr o) s _ := rfl
  rw [he, issue_lanes h (preTrap_none rfl c) rfl] at ht
  rcases accLanes_cases c (fun l => (c.rd1 0 o.a l).toNat) (fun l => (c.rd1 1 o.b l).toNat) with ⟨code, lanes, addr, hx⟩ | ⟨g, hx⟩
  · rw [hx] at ht
    cases ht
    exact .inl ⟨_, _, _, rfl⟩
  · rw [hx] at ht
    dsimp only at ht
    rw [List.map_map] at ht
    cases ht
    exact .inr (frame_of_eff h hc (eff_deliver (eff_refl c _ fl) (quiet_of h hc) _ (dst_lt hw hp List.mem_cons_self) List.mem_cons_self
      (fun l => [c.s.accWord c.core (g l).1 (g l).2]) (fun _ => le_rfl) _ (.inr fun _ => rfl)))

/-! ### All of them -/

/-- R92 to R100: the integer, pointer, predicate and move instructions, but for those above. -/
theorem framed_int {r : IntRow} {o : IntOps} (h : Said.onRegisters i = some fl) (hr : intRow i = some (r, o)) : Framed i fl := by
  cases i <;> cases hr
  case mov | movi | iadd | isub | imul | imad | imin | imax | iabs | ineg | imulh | idiv | irem | and | or | xor | not | shl | shr | sar | rol | bfe | bfi | brev | sel =>
    exact framed_typed rfl rfl List.mem_cons_self fun _ => rfl
  case popc | clz | ctz => exact framed_words rfl rfl (n := 1) List.mem_cons_self (fun _ _ => le_rfl) fun _ => rfl
  case icmp | plop | pcmp | pbnd => exact framed_pred rfl rfl List.mem_cons_self fun _ => rfl
  case movkToLane | prm => exact framed_laneWords rfl (by decide) rfl rfl List.mem_cons_self (fun _ _ => le_rfl) fun _ => rfl
  case padd | psub => exact framed_laneWords rfl (by decide) rfl rfl List.mem_cons_self (fun _ _ => le_rfl) fun _ => rfl
  case imadw =>
    refine framed_laneWords rfl (by decide) rfl rfl List.mem_cons_self (fun _ _ => (wrWords_length _ _).le.trans ?_) fun _ => rfl
    unfold IntTy.regs
    split <;> decide
  case movs => exact framed_movs _
  case movkToUniform => exact framed_movkToUniform _
  case iaddc => exact framed_iaddc _

/-- R101 to R124: the float instructions. -/
theorem framed_float {r : FpRow} {o : FpOps} (h : Said.onRegisters i = some fl) (hr : fpRow i = some (r, o)) : Framed i fl := by
  cases i <;> cases hr <;> cases h
  case fcmp => exact framed_fcmp _
  case idp4 | idp8 => exact framed_laneOut rfl rfl List.mem_cons_self fun _ => rfl
  case fdp2 =>
    exact framed_fp (la := 0) (val := fun w c l =>
      fDp2 (fpFmt o.ty) o.rnd o.ovf (drawOf w l 0) (c.fpRaw o 0 o.a l) (c.fpRaw o 1 o.b l) (c.fpRaw o 2 o.c l)) rfl rfl List.mem_cons_self (.inl rfl) fun _ => rfl
  all_goals exact framed_fpLanes rfl rfl List.mem_cons_self fun _ => rfl

/-- R162 to R169: the cross-lane instructions. -/
theorem framed_lane {r : BitVec 8} {o : LaneOps} (h : Said.onRegisters i = some fl) (hr : laneRow i = some (r, o)) : Framed i fl := by
  cases i <;> cases hr <;> cases h
  case vote => exact framed_vote _
  case matchAny => exact framed_matchAny _
  case elect => exact framed_actPreds rfl rfl List.mem_cons_self fun _ => rfl
  case qdx | qdy => exact framed_quadDiff rfl rfl List.mem_cons_self fun _ => rfl
  case redf =>
    exact framed_fp (rnd := .rne) (la := 0) (val := fun _ c _ => redTree
      (if o.func = 0 then fAdd .f32 (laneRnd o) (laneSat o) 0 else fMinMax .f32 (o.func == 2)) ((List.range 32).map fun l =>
      (if c.act.contains l then some (c.s.vreg (c.t l) o.a.toNat).toNat else none, 0))) rfl rfl List.mem_cons_self (.inl rfl) fun _ => rfl
  all_goals exact framed_laneOut rfl rfl List.mem_cons_self fun _ => rfl

/-- R135 to R140: the algebra instructions. -/
theorem framed_algebra {r : BitVec 8} {b b' : Bool} {o : AlgOps} (h : Said.onRegisters i = some fl) (hr : algRow i = some (r, b, b', o)) :
    Framed i fl := by
  cases i <;> cases hr <;> cases h
  case aconj => exact framed_alg rfl List.mem_cons_self (.inr fun _ _ _ _ _ => rfl) fun _ => rfl
  all_goals exact framed_alg rfl List.mem_cons_self (.inl rfl) fun _ => rfl

/-- Those of no class: `nop`, `cvt`, `featq`, and the queries of the directory and the accumulators. -/
theorem framed_single (h : Said.onRegisters i = some fl) (hint : intRow i = none) (hfp : fpRow i = none) (hlane : laneRow i = none)
    (halg : algRow i = none) : Framed i fl := by
  cases i <;> cases h
  all_goals cases hint
  all_goals cases hfp
  all_goals cases hlane
  all_goals cases halg
  case nop => exact framed_of_done rfl rfl (fun _ => rfl) fun _ _ c _ _ _ _ => eff_refl c _ false
  case cvt => exact framed_cvt _
  case featq => exact framed_featq _ _ _
  case featqBit => exact framed_actPreds rfl rfl List.mem_cons_self fun _ => rfl
  case dptr => exact framed_deliver rfl rfl List.mem_cons_self (fun _ _ => le_rfl) fun _ => rfl
  case dquery => exact framed_deliver rfl rfl List.mem_cons_self (fun _ _ => le_rfl) fun _ => rfl
  case accr => exact framed_accr _

theorem framed_onRegisters (h : Said.onRegisters i = some fl) : Framed i fl := by
  cases hint : intRow i with
  | some p => exact framed_int h hint
  | none =>
    cases hfp : fpRow i with
    | some p => exact framed_float h hfp
    | none =>
      cases hlane : laneRow i with
      | some p => exact framed_lane h hlane
      | none =>
        cases halg : algRow i with
        | some p => exact framed_algebra h halg
        | none => exact framed_single h hint hfp hlane halg

/-- Settles O12: each instruction's own part changes no more than `Eff` allows, and going on keeps the rest. -/
theorem registerFrame : Obligations.RegisterFrame :=
  fun _ _ h hw s f c t hs hc hp ht => framed_onRegisters h hw s f c t hs hc hp ht

end Sys2Proof.Machine
end

section
/-! SUPPORT. Generators that never stand at zero (R32): folds that leave them, and answers that keep them so. -/

namespace Sys2Proof.Machine

/-! The third clause of R32 is a frame. The generators are the table `State.lfsr`. A function that leaves the table alone has one equation,
`f_lfsr`, which `simp` uses. The few that write it go through `State.setLfsr`, which puts 1 for 0, or drop entries, and an entry that is
absent reads 1: for them and for what calls them `noZero_f` says that no generator of the result stands at zero. -/

/-! ## Choices and folds -/

/-- What each step of a fold leaves as it is, the fold leaves as it is. -/
theorem foldl_keeps {σ α β : Type} (p : σ → β) {g : σ → α → σ} (hg : ∀ s a, p (g s a) = p s) (l : List α) (s : σ) :
    p (l.foldl g s) = p s := by
  induction l generalizing s with
  | nil => rfl
  | cons a l ih => rw [List.foldl_cons, ih, hg]

@[simp] theorem ite_lfsr (p : Prop) [Decidable p] (s t : State) : (if p then s else t).lfsr = if p then s.lfsr else t.lfsr :=
  apply_ite State.lfsr p s t

@[simp] theorem foldl_lfsr {α : Type} {g : State → α → State} (hg : ∀ s a, (g s a).lfsr = s.lfsr) (l : List α) (s : State) :
    (l.foldl g s).lfsr = s.lfsr :=
  foldl_keeps State.lfsr hg l s

@[simp] theorem foldl_modThread_lfsr {α : Type} (k : State → α → ℕ) (g : State → α → Thread → Thread) (l : List α) (s : State) :
    (l.foldl (fun s a => s.modThread (k s a) (g s a)) s).lfsr = s.lfsr :=
  foldl_lfsr (fun _ _ => State.modThread_lfsr ..) l s

theorem foldl_fst_lfsr {α β : Type} {g : State × β → α → State × β} (hg : ∀ s a, (g s a).1.lfsr = s.1.lfsr) (l : List α)
    (s : State × β) : (l.foldl g s).1.lfsr = s.1.lfsr :=
  foldl_keeps (fun s => s.1.lfsr) hg l s

theorem foldl_snd_lfsr {α β : Type} {g : β × State → α → β × State} (hg : ∀ s a, (g s a).2.lfsr = s.2.lfsr) (l : List α)
    (s : β × State) : (l.foldl g s).2.lfsr = s.2.lfsr :=
  foldl_keeps (fun s => s.2.lfsr) hg l s

/-! ## Tables of generators -/

/-- No generator of the table stands at zero. -/
def NoZero (g : Tab Word) : Prop := ∀ p, lookD 1 g p ≠ 0

@[simp] theorem noZero_nil : NoZero [] := fun _ => show (1 : Word) ≠ 0 by decide

theorem noZero_setLfsr {s : State} (h : NoZero s.lfsr) (k : ℕ) (w : Word) : NoZero (s.setLfsr k w).lfsr := by
  intro p
  rw [State.setLfsr_lfsr, lookD_putD]
  split
  · split
    · decide
    · assumption
  · exact h p

theorem noZero_offDie {g : Tab Word} (hz : NoZero g) (d per : ℕ) : NoZero (offDie d per g) := by
  intro p
  unfold offDie
  rw [lookD_cut]
  split
  · decide
  · exact hz p

theorem noZero_foldl {α : Type} {g : State → α → State} (hg : ∀ s a, NoZero s.lfsr → NoZero (g s a).lfsr) (l : List α) {s : State}
    (hz : NoZero s.lfsr) : NoZero (l.foldl g s).lfsr := by
  induction l generalizing s with
  | nil => exact hz
  | cons a l ih => exact ih (hg s a hz)

theorem noZero_getD {o : Option State} {s : State} (ho : ∀ t, o = some t → NoZero t.lfsr) (hz : NoZero s.lfsr) :
    NoZero (o.getD s).lfsr := by
  cases o with
  | none => exact hz
  | some t => exact ho t rfl

/-- The instructions' own step of a generator (R34). -/
@[simp] theorem noZero_srStep {c : Ctx} (h : NoZero c.s.lfsr) (rnd : Rnd) : NoZero (c.srStep rnd).2.lfsr := by
  unfold Ctx.srStep
  split
  · exact noZero_setLfsr h _ _
  · exact h

/-! ## Answers of an instruction's own part -/

/-- No generator stands at zero in a state that the answer holds. -/
def Res.NoZero : Res → Prop
  | .done s | .jump s | .stall s | .hold s _ | .page s _ _ _ | .uncorrectable s => Machine.NoZero s.lfsr
  | .trap _ _ _ | .verify _ | .fatal | .poison => True

section
variable {s : State}
@[simp] theorem Res.noZero_done : (Res.done s).NoZero ↔ Machine.NoZero s.lfsr := Iff.rfl
@[simp] theorem Res.noZero_jump : (Res.jump s).NoZero ↔ Machine.NoZero s.lfsr := Iff.rfl
@[simp] theorem Res.noZero_stall : (Res.stall s).NoZero ↔ Machine.NoZero s.lfsr := Iff.rfl
@[simp] theorem Res.noZero_hold (w : Wait) : (Res.hold s w).NoZero ↔ Machine.NoZero s.lfsr := Iff.rfl
@[simp] theorem Res.noZero_page (fs : List (ℕ × ℕ × XRes)) (w e : Bool) : (Res.page s fs w e).NoZero ↔ Machine.NoZero s.lfsr := Iff.rfl
@[simp] theorem Res.noZero_uncorrectable : (Res.uncorrectable s).NoZero ↔ Machine.NoZero s.lfsr := Iff.rfl
@[simp] theorem Res.noZero_trap (n : ℕ) (ls : List ℕ) (a : ℕ) : (Res.trap n ls a).NoZero := trivial
@[simp] theorem Res.noZero_verify (ls : List ℕ) : (Res.verify ls).NoZero := trivial
@[simp] theorem Res.noZero_fatal : Res.fatal.NoZero := trivial
@[simp] theorem Res.noZero_poison : Res.poison.NoZero := trivial
@[simp] theorem noZero_trapAt (n : ℕ) (bad : List (ℕ × ℕ)) : (trapAt n bad).NoZero := trivial
end

/-- A check answers with no generator at zero when it fails, and with `Q` of its value when it passes. -/
def Passes {α : Type} (Q : α → Prop) : Except Res α → Prop
  | .error r => r.NoZero
  | .ok a => Q a

section
variable {α : Type} {Q : α → Prop} {x : Except Res α} {r : Res} {a : α}
@[simp] theorem passes_error : Passes Q (.error r) ↔ r.NoZero := Iff.rfl
@[simp] theorem passes_ok : Passes Q (.ok a) ↔ Q a := Iff.rfl
theorem Passes.error (h : Passes Q x) (hx : x = .error r) : r.NoZero := by subst hx; exact h
theorem Passes.ok (h : Passes Q x) (hx : x = .ok a) : Q a := by subst hx; exact h
end

/-- An element's step of an engine leaves the generators at `g`, whether it goes on or halts. -/
def Keeps {α : Type} (g : Tab Word) (st : α → State) : Except (State × Halt) α → Prop
  | .error x => x.1.lfsr = g
  | .ok a => (st a).lfsr = g

section
variable {α : Type} {g : Tab Word} {st : α → State} {x : Except (State × Halt) α} {e : State × Halt} {a : α}
@[simp] theorem keeps_error : Keeps g st (.error e) ↔ e.1.lfsr = g := Iff.rfl
@[simp] theorem keeps_ok : Keeps g st (.ok a) ↔ (st a).lfsr = g := Iff.rfl
theorem Keeps.error (h : Keeps g st x) (hx : x = .error e) : e.1.lfsr = g := by subst hx; exact h
theorem Keeps.ok (h : Keeps g st x) (hx : x = .ok a) : (st a).lfsr = g := by subst hx; exact h
end

/-! ## Outcomes of a step -/

/-- No generator stands at zero in the state that a step goes to. -/
def OutNoZero (o : Host.Outcome State Fault Refusal) : Prop := ∀ t, o = .next t → NoZero t.lfsr

@[simp] theorem outNoZero_next {s : State} : OutNoZero (.next s) ↔ NoZero s.lfsr :=
  ⟨fun h => h s rfl, fun h _ ht => by cases ht; exact h⟩

@[simp] theorem outNoZero_fault (f : Fault) : OutNoZero (.fault f) := fun _ h => nomatch h

end Sys2Proof.Machine
end

section
/-! SUPPORT. What the functions of Machine/Addr.lean leave of the generators. -/

namespace Sys2Proof.Machine

@[simp] theorem State.newId_lfsr (s : State) : s.newId.2.lfsr = s.lfsr := by simp [State.newId]
@[simp] theorem State.setPred_lfsr (s : State) (t p : ℕ) (b : Bool) : (s.setPred t p b).lfsr = s.lfsr := by simp [State.setPred]
@[simp] theorem State.orFlags_lfsr (s : State) (t : ℕ) (f : Fl) : (s.orFlags t f).lfsr = s.lfsr := by simp [State.orFlags]

@[simp] theorem State.setLvl_lfsr (s : State) (l : Space) (m : List Host.Cell) : (s.setLvl l m).lfsr = s.lfsr := by
  unfold State.setLvl
  split <;> simp

@[simp] theorem State.setTrack_lfsr (s : State) (l : Space) (pa v : ℕ) : (s.setTrack l pa v).lfsr = s.lfsr := by simp [State.setTrack]
@[simp] theorem State.writePlace_lfsr (s : State) (p : Place) (bs : List Byte) : (s.writePlace p bs).lfsr = s.lfsr := by simp [State.writePlace]
@[simp] theorem State.writeN_lfsr (s : State) (p : Place) (n v : ℕ) : (s.writeN p n v).lfsr = s.lfsr := by simp [State.writeN]

@[simp] theorem State.writeLvl_lfsr (s : State) (l : Space) (a : ℕ) (bs : List Byte) : (s.writeLvl l a bs).lfsr = s.lfsr := by
  unfold State.writeLvl
  split <;> simp

@[simp] theorem State.tlbPut_lfsr (s : State) (core : ℕ) (e : TlbEnt) : (s.tlbPut core e).lfsr = s.lfsr := by simp [State.tlbPut]

@[simp] theorem State.tlbFill_lfsr (s : State) (core ctx va leaf size : ℕ) : (s.tlbFill core ctx va leaf size).lfsr = s.lfsr := by
  simp [State.tlbFill]

@[simp] theorem State.askAts_lfsr (s : State) (core ctx va : ℕ) : (s.askAts core ctx va).lfsr = s.lfsr := by simp [State.askAts]

@[simp] theorem State.devWrite_lfsr (s : State) (ctx va : ℕ) (bs : List Byte) :
    (s.devWrite ctx va bs).lfsr = s.lfsr := by
  unfold State.devWrite
  split
  · rfl
  · split <;> simp

@[simp] theorem State.flushDev_lfsr (s : State) : s.flushDev.lfsr = s.lfsr := by simp [State.flushDev]
@[simp] theorem State.statWrite_lfsr (s : State) (g off n v : ℕ) : (s.statWrite g off n v).lfsr = s.lfsr := by simp [State.statWrite]
@[simp] theorem State.setGState_lfsr (s : State) (g st : ℕ) : (s.setGState g st).lfsr = s.lfsr := by simp [State.setGState]

end Sys2Proof.Machine
end

section
/-! SUPPORT. What the functions of Machine/Race.lean leave of the generators. -/

namespace Sys2Proof.Machine

@[simp] theorem State.addRfold_lfsr (s : State) (core n : ℕ) : (s.addRfold core n).lfsr = s.lfsr := by simp [State.addRfold]
@[simp] theorem State.bumpRegion_lfsr (s : State) (fk : ℕ) : (s.bumpRegion fk).lfsr = s.lfsr := by simp [State.bumpRegion]
@[simp] theorem State.markStart_lfsr (s : State) (fk bk : ℕ) : (s.markStart fk bk).lfsr = s.lfsr := by simp [State.markStart]

@[simp] theorem State.mergeInto_lfsr (s : State) (fk : ℕ) (es : List (ℕ × ℕ)) (fold : Bool) : (s.mergeInto fk es fold).lfsr = s.lfsr := by
  unfold State.mergeInto
  split <;> simp

@[simp] theorem State.mergeRec_lfsr (s : State) (fk r : ℕ) : (s.mergeRec fk r).lfsr = s.lfsr := by
  unfold State.mergeRec
  split <;> simp

@[simp] theorem State.mergeRecs_lfsr (s : State) (fk : ℕ) (rs : List ℕ) : (s.mergeRecs fk rs).lfsr = s.lfsr := by simp [State.mergeRecs]
@[simp] theorem State.storeRec_lfsr (s : State) (die : ℕ) (x : SyncRec) : (s.storeRec die x).2.lfsr = s.lfsr := by simp [State.storeRec]

@[simp] theorem State.publish_lfsr (s : State) (fk : ℕ) : (s.publish fk).2.lfsr = s.lfsr := by
  unfold State.publish
  split <;> simp

@[simp] theorem State.setRaceWord_lfsr (s : State) (r : RLoc) (v : ℕ) : (s.setRaceWord r v).lfsr = s.lfsr := by
  unfold State.setRaceWord
  split <;> simp

@[simp] theorem State.raceWrite_lfsr (s : State) (ag : Agent) (r : RLoc) (n : ℕ) : (s.raceWrite ag r n).lfsr = s.lfsr := by simp [State.raceWrite]

@[simp] theorem State.syncWrite_lfsr (s : State) (l : Space) (sys : Bool) (a n : ℕ) (m : Mark) (w : Who) :
    (s.syncWrite l sys a n m w).lfsr = s.lfsr := by simp [State.syncWrite]

@[simp] theorem State.readSync_lfsr (s : State) (fk : ℕ) (f : Floe) (lane : ℕ) (l : Space) (sys : Bool) (a n : ℕ) (acq : Option Scope) :
    (s.readSync fk f lane l sys a n acq).lfsr = s.lfsr := by
  unfold State.readSync
  dsimp only
  split
  · rfl
  · split <;> simp

@[simp] theorem State.setDirty_lfsr (s : State) (l : Space) (pa n : ℕ) : (s.setDirty l pa n).lfsr = s.lfsr := by simp [State.setDirty]

@[simp] theorem State.writePad_lfsr (s : State) (ag : Agent) (l : Space) (pa : ℕ) (bs : List Byte) :
    (s.writePad ag l pa bs).lfsr = s.lfsr := by simp [State.writePad]

end Sys2Proof.Machine
end

section
/-! SUPPORT. What the functions of Machine/Ops.lean leave of the generators. -/

namespace Sys2Proof.Machine

@[simp] theorem State.traceRec_lfsr (s : State) (ctx r : ℕ) : (s.traceRec ctx r).lfsr = s.lfsr := by simp [State.traceRec]

@[simp] theorem State.traceFloe_lfsr (s : State) (k : ℕ) (f : Floe) (kind value coord : ℕ) (lanes : List ℕ) :
    (s.traceFloe k f kind value coord lanes).lfsr = s.lfsr := by simp [State.traceFloe]

@[simp] theorem State.replStore_lfsr (s : State) (r : RRec) : (s.replStore r).lfsr = s.lfsr := by simp [State.replStore]
@[simp] theorem State.replLog_lfsr (s : State) (r : RRec) : (s.replLog r).lfsr = s.lfsr := by simp [State.replLog]
@[simp] theorem State.replCombine_lfsr (s : State) (r : RRec) : (s.replCombine r).lfsr = s.lfsr := by simp [State.replCombine]

@[simp] theorem State.openBin_lfsr (s : State) (tk : ℕ) : (s.openBin tk).lfsr = s.lfsr := by
  unfold State.openBin
  dsimp only
  split <;> simp

@[simp] theorem State.enterBin_lfsr (s : State) (tk : ℕ) : (s.enterBin tk).lfsr = s.lfsr := by
  unfold State.enterBin
  dsimp only
  repeat' split
  all_goals simp

@[simp] theorem State.openOverflow_lfsr (s : State) (q b : ℕ) : (s.openOverflow q b).lfsr = s.lfsr := by
  unfold State.openOverflow
  dsimp only
  split
  · rfl
  · rw [foldl_lfsr (fun _ _ => State.modThread_lfsr ..)]

@[simp] theorem State.fillBins_lfsr (s : State) (q : ℕ) : (s.fillBins q).lfsr = s.lfsr := by simp [State.fillBins]
@[simp] theorem State.recordsWritten_lfsr (s : State) (tks : List ℕ) : (s.recordsWritten tks).lfsr = s.lfsr := by simp [State.recordsWritten]
@[simp] theorem State.park_lfsr (s : State) (tk : ℕ) (cont : Word) (srec : Option ℕ) : (s.park tk cont srec).lfsr = s.lfsr := by simp [State.park]

@[simp] theorem State.enterBank_lfsr (s : State) (k fid lane : ℕ) (l : Space) (pa n : ℕ) (pend : Option ℕ) :
    (s.enterBank k fid lane l pa n pend).lfsr = s.lfsr := by simp [State.enterBank]

@[simp] theorem State.enterEngine_lfsr (s : State) (l : Space) (pa n : ℕ) (op : Option ℕ) : (s.enterEngine l pa n op).lfsr = s.lfsr := by
  simp [State.enterEngine]

@[simp] theorem State.pushPort_lfsr (s : State) (k : ℕ) (w : Word) (p lane : ℕ) (v : Word) : (s.pushPort k w p lane v).lfsr = s.lfsr := by
  unfold State.pushPort
  dsimp only
  repeat' split
  all_goals simp

@[simp] theorem State.setUreg_lfsr (s : State) (k r : ℕ) (w : Word) : (s.setUreg k r w).lfsr = s.lfsr := by simp [State.setUreg]

@[simp] theorem State.writePend_lfsr (s : State) (k : ℕ) (f : Floe) (p : Pend) : (s.writePend k f p).lfsr = s.lfsr := by
  unfold State.writePend
  extract_lets s₁ s₂ s₃
  have h₁ : s₁.lfsr = s.lfsr := foldl_lfsr (fun s e => by split <;> simp) _ _
  have h₂ : s₂.lfsr = s₁.lfsr := by
    simp only [s₂]
    split <;> simp
  have h₃ : s₃.lfsr = s₂.lfsr := by
    simp only [s₃]
    split
    · exact foldl_lfsr (fun s e => by split <;> simp) _ _
    · rfl
  rw [foldl_lfsr (fun s e => by split <;> simp), h₃, h₂, h₁]

@[simp] theorem State.settle_lfsr (s : State) (k : ℕ) : (s.settle k).lfsr = s.lfsr := by
  unfold State.settle
  dsimp only
  repeat' split
  all_goals simp

@[simp] theorem State.endWindows_lfsr (s : State) (k : ℕ) : (s.endWindows k).lfsr = s.lfsr := by simp [State.endWindows]
@[simp] theorem State.orderWith_lfsr (s : State) (ts : List ℕ) : (s.orderWith ts).lfsr = s.lfsr := by simp [State.orderWith]
@[simp] theorem State.addReq_lfsr (s : State) (r : Req) : (s.addReq r).lfsr = s.lfsr := by simp [State.addReq]

@[simp] theorem State.migTouch_lfsr (s : State) (core ctx : ℕ) (mig : Option ℕ) (p : Place) :
    (s.migTouch core ctx mig p).lfsr = s.lfsr := by
  unfold State.migTouch
  dsimp only
  repeat' split
  all_goals simp

@[simp] theorem State.addDue_lfsr (s : State) (bk code addr coord : ℕ) : (s.addDue bk code addr coord).lfsr = s.lfsr := by
  unfold State.addDue
  split <;> simp

@[simp] theorem State.addDueOnce_lfsr (s : State) (bk uid code coord : ℕ) : (s.addDueOnce bk uid code coord).lfsr = s.lfsr := by
  simp [State.addDueOnce]

@[simp] theorem addReqs_lfsr (rs : List Req) (s : State) : (addReqs rs s).lfsr = s.lfsr := by simp [addReqs]

@[simp] theorem State.handElems_lfsr (k : ℕ) (f : Floe) (hi : ℕ) (coord : Word) (g turn : ℕ) (es : List Elem) (n : ℕ) (s : State) :
    (State.handElems k f hi coord g turn es n s).2.1.lfsr = s.lfsr := by
  induction es generalizing g turn n s with
  | nil => rfl
  | cons e es ih =>
    unfold State.handElems
    split
    · rw [ih, State.addReq_lfsr]
    · rfl
    · rw [State.addDue_lfsr]

@[simp] theorem State.handEntry_lfsr (s : State) (k : ℕ) (f : Floe) (x3 : LogEnt) : (s.handEntry k f x3).1.lfsr = s.lfsr := by
  unfold State.handEntry
  split <;> simp

@[simp] theorem handAll_lfsr (k : ℕ) (f : Floe) (es : List LogEnt) (s : State) : (handAll k f es s).1.lfsr = s.lfsr := by
  induction es generalizing s with
  | nil => rfl
  | cons e es ih =>
    have he := State.handEntry_lfsr s k f e
    unfold handAll
    split
    case h_1 h => rw [ih, ← he, h]
    case h_2 h => rw [ih, State.addDue_lfsr, ← he, h]
    case h_3 h => rw [← he, h]

@[simp] theorem State.beginCommit_lfsr (s : State) (bk : ℕ) : (s.beginCommit bk).lfsr = s.lfsr := by simp [State.beginCommit]

@[simp] theorem State.commit_lfsr (s : State) (k : ℕ) : (s.commit k).1.lfsr = s.lfsr := by
  unfold State.commit
  split <;> simp

@[simp] theorem State.dropResv_lfsr (s : State) (k : ℕ) : (s.dropResv k).lfsr = s.lfsr := by
  unfold State.dropResv
  dsimp only
  repeat' split
  all_goals simp

@[simp] theorem State.gangCancel_lfsr (s : State) (m : Mma) : (s.gangCancel m).lfsr = s.lfsr := by simp [State.gangCancel]
@[simp] theorem State.freeMma_lfsr (s : State) (id : ℕ) (m : Mma) : (s.freeMma id m).lfsr = s.lfsr := by simp [State.freeMma]

@[simp] theorem State.cancelMma_lfsr (s : State) (id : ℕ) (gang : Bool) : (s.cancelMma id gang).lfsr = s.lfsr := by
  unfold State.cancelMma
  dsimp only
  repeat' split
  all_goals simp

@[simp] theorem State.cancelWaiting_lfsr (s : State) (bk : ℕ) : (s.cancelWaiting bk).lfsr = s.lfsr := by simp [State.cancelWaiting]
@[simp] theorem State.stopBlk_lfsr (s : State) (bk cause : ℕ) : (s.stopBlk bk cause).lfsr = s.lfsr := by simp [State.stopBlk]
@[simp] theorem State.dstat_lfsr (s : State) (core : ℕ) (set clr : Word) : (s.dstat core set clr).lfsr = s.lfsr := by simp [State.dstat]

@[simp] theorem State.endStepByHalt_lfsr (s : State) (bk : ℕ) : (s.endStepByHalt bk).lfsr = s.lfsr := by
  unfold State.endStepByHalt
  split <;> simp

@[simp] theorem State.stopOnCore_lfsr (s : State) (g cause core : ℕ) : (s.stopOnCore g cause core).lfsr = s.lfsr := by simp [State.stopOnCore]

@[simp] theorem State.stopGridAs_lfsr (s : State) (g cause st : ℕ) (core : Option ℕ) : (s.stopGridAs g cause st core).lfsr = s.lfsr := by
  unfold State.stopGridAs
  dsimp only
  repeat' split
  all_goals simp

@[simp] theorem State.endSteps_lfsr (s : State) (g : ℕ) : (s.endSteps g).lfsr = s.lfsr := by simp [State.endSteps]
@[simp] theorem State.stopGrid_lfsr (s : State) (g : ℕ) (core : Option ℕ) : (s.stopGrid g core).lfsr = s.lfsr := by simp [State.stopGrid]
@[simp] theorem State.haltGrid_lfsr (s : State) (g : ℕ) (core : Option ℕ) : (s.haltGrid g core).lfsr = s.lfsr := by simp [State.haltGrid]
@[simp] theorem State.haltContext_lfsr (s : State) (ctx : ℕ) (core : Option ℕ) : (s.haltContext ctx core).lfsr = s.lfsr := by simp [State.haltContext]
@[simp] theorem State.fatalStop_lfsr (s : State) (g : ℕ) (core : Option ℕ) : (s.fatalStop g core).lfsr = s.lfsr := by simp [State.fatalStop]
@[simp] theorem State.diverge_lfsr (s : State) (g core : ℕ) : (s.diverge g core).lfsr = s.lfsr := by simp [State.diverge]

@[simp] theorem State.settleStop_lfsr (s : State) (g : ℕ) : (s.settleStop g).lfsr = s.lfsr := by
  unfold State.settleStop
  split
  · rfl
  · simp

@[simp] theorem State.settleStops_lfsr (s : State) : s.settleStops.lfsr = s.lfsr := by simp [State.settleStops]
@[simp] theorem State.setBar_lfsr (s : State) (core slot : ℕ) (b : Bar) : (s.setBar core slot b).lfsr = s.lfsr := by simp [State.setBar]

@[simp] theorem State.freeFloeAt_lfsr (s : State) (k : ℕ) (f : Floe) (sc : Scope) (ms : List SyncMark) :
    (s.freeFloeAt k f sc ms).lfsr = s.lfsr := by simp [State.freeFloeAt]

@[simp] theorem State.freeSaveAt_lfsr (s : State) (i : ℕ) (f : Floe) (sc : Scope) (ms : List SyncMark) :
    (s.freeSaveAt i f sc ms).lfsr = s.lfsr := by simp [State.freeSaveAt]

@[simp] theorem State.releaseBar_lfsr (s : State) (core slot : ℕ) (ms : List SyncMark) : (s.releaseBar core slot ms).lfsr = s.lfsr := by
  simp [State.releaseBar]

@[simp] theorem State.releaseFreed_lfsr (s : State) (bk : ℕ) : (s.releaseFreed bk).lfsr = s.lfsr := by
  unfold State.releaseFreed
  dsimp only
  rw [foldl_lfsr (fun s e => by split <;> simp), foldl_lfsr (fun s e => by split <;> simp)]

@[simp] theorem State.stepRecords_lfsr (s : State) (bk slot : ℕ) (was : List (ℕ × Floe)) : (s.stepRecords bk slot was).lfsr = s.lfsr := by
  simp [State.stepRecords]

@[simp] theorem State.endStep_lfsr (s : State) (bk : ℕ) (timeout : Bool) : (s.endStep bk timeout).lfsr = s.lfsr := by
  unfold State.endStep
  split <;> simp

@[simp] theorem State.phase_lfsr (s : State) (core slot : ℕ) : (s.phase core slot).lfsr = s.lfsr := by
  unfold State.phase
  dsimp only
  repeat' split
  all_goals simp

@[simp] theorem State.raisePend_lfsr (s : State) (core slot : ℕ) : (s.raisePend core slot).lfsr = s.lfsr := by simp [State.raisePend]

@[simp] theorem State.completeOwn_lfsr (s : State) (core slot uid : ℕ) (ms : List SyncMark) :
    (s.completeOwn core slot uid ms).lfsr = s.lfsr := by simp [State.completeOwn]

@[simp] theorem State.completeFar_lfsr (s : State) (core slot uid : ℕ) (ms : List SyncMark) :
    (s.completeFar core slot uid ms).lfsr = s.lfsr := by simp [State.completeFar]

@[simp] theorem State.exitBars_lfsr (s : State) (core : ℕ) (rec : SyncMark) (staged : List (ℕ × ℕ)) (tk : ℕ) :
    (s.exitBars core rec staged tk).lfsr = s.lfsr := by simp [State.exitBars]

@[simp] theorem State.noteDone_lfsr (s : State) : s.noteDone.lfsr = s.lfsr := by simp [State.noteDone]

@[simp] theorem State.dropPartners_lfsr (s : State) (c : Copy) (abort : Option (List (ℕ × ℕ × Bool))) :
    (s.dropPartners c abort).lfsr = s.lfsr := by
  refine foldl_lfsr (fun s t => ?_) _ _
  split
  · rfl
  · split
    · rfl
    · cases abort <;> simp

@[simp] theorem State.takeLines_lfsr (s : State) (id : ℕ) (c : Copy) : (s.takeLines id c).1.lfsr = s.lfsr := by simp [State.takeLines]

@[simp] theorem State.cancelCopy_lfsr (s : State) (id : ℕ) (abort : Option (List (ℕ × ℕ × Bool))) :
    (s.cancelCopy id abort).lfsr = s.lfsr := by
  unfold State.cancelCopy
  split <;> simp

@[simp] theorem State.freeAllocs_lfsr (s : State) (bk : ℕ) : (s.freeAllocs bk).lfsr = s.lfsr := by simp [State.freeAllocs]

@[simp] theorem State.releaseBlock_lfsr (s : State) (bk : ℕ) (why : Ending) : (s.releaseBlock bk why).lfsr = s.lfsr := by
  unfold State.releaseBlock
  extract_lets core n b gang s₁ mine s₂ s₃
  have h₁ : s₁.lfsr = s.lfsr := foldl_lfsr (fun s id => by split <;> simp) _ _
  have h₂ : s₂.lfsr = s₁.lfsr := by
    cases why with
    | exit => rfl
    | kill => exact foldl_lfsr (fun s id => State.cancelCopy_lfsr ..) _ _
    | abort ps => exact foldl_lfsr (fun s id => State.cancelCopy_lfsr ..) _ _
  have h₃ : s₃.lfsr = s₂.lfsr := State.freeAllocs_lfsr s₂ bk
  rw [foldl_lfsr (fun s i => State.fillBins_lfsr ..), h₃, h₂, h₁]

@[simp] theorem State.blockGone_lfsr (s : State) (bk : ℕ) : (s.blockGone bk).lfsr = s.lfsr := by
  unfold State.blockGone
  dsimp only
  repeat' split
  all_goals simp

@[simp] theorem State.endIfEmpty_lfsr (s : State) (bk : ℕ) : (s.endIfEmpty bk).lfsr = s.lfsr := by simp [State.endIfEmpty]

@[simp] theorem State.killBlock_lfsr (s : State) (bk : ℕ) : (s.killBlock bk).lfsr = s.lfsr := by
  unfold State.killBlock
  split <;> simp

@[simp] theorem State.meetStop_lfsr (s : State) (bk : ℕ) : (s.meetStop bk).lfsr = s.lfsr := by
  unfold State.meetStop
  repeat' split
  all_goals simp

@[simp] theorem State.deferTrap_lfsr (s : State) (bk pol : ℕ) : (s.deferTrap bk pol).lfsr = s.lfsr := by simp [State.deferTrap]
@[simp] theorem State.stopByTrap_lfsr (s : State) (bk : ℕ) : (s.stopByTrap bk).lfsr = s.lfsr := by simp [State.stopByTrap]

@[simp] theorem State.abortBlock_lfsr (s : State) (bk : ℕ) (pages : List (ℕ × ℕ × Bool)) (vas : List (ℕ × ℕ)) (again : Bool) :
    (s.abortBlock bk pages vas again).lfsr = s.lfsr := by
  unfold State.abortBlock
  split
  · rfl
  · simp [foldl_snd_lfsr]

@[simp] theorem State.trapRecord_lfsr (s : State) (g r : ℕ) : (s.trapRecord g r).2.lfsr = s.lfsr := by
  unfold State.trapRecord
  dsimp only
  split <;> simp

@[simp] theorem State.detachAll_lfsr (s : State) (k : ℕ) : (s.detachAll k).lfsr = s.lfsr := by
  unfold State.detachAll
  split
  · rfl
  · split
    · rfl
    · exact State.modFloe_lfsr ..

@[simp] theorem State.callHandler_lfsr (s : State) (t save : ℕ) (h : Word) (code addr coord idx rec : ℕ) :
    (s.callHandler t save h code addr coord idx rec).lfsr = s.lfsr := by simp [State.callHandler]

@[simp] theorem State.toHandler_lfsr (s : State) (k : ℕ) (d : TrapDue) : (s.toHandler k d).lfsr = s.lfsr := by
  unfold State.toHandler
  dsimp only
  repeat' split
  all_goals simp

@[simp] theorem State.openPage_lfsr (s : State) (die ctx va : ℕ) (x : XRes) (write : Bool) :
    (s.openPage die ctx va x write).2.lfsr = s.lfsr := by
  unfold State.openPage
  dsimp only
  repeat' split
  all_goals simp

@[simp] theorem State.openPages_lfsr (die ctx : ℕ) (write : Bool) (fs : List (ℕ × XRes)) (ps : List (ℕ × ℕ × Bool)) (s : State) :
    (State.openPages die ctx write fs ps s).2.lfsr = s.lfsr := by
  induction fs generalizing ps s with
  | nil => rfl
  | cons e fs ih =>
    have he := State.openPage_lfsr s die ctx e.1 e.2 write
    unfold State.openPages
    split
    case h_1 h => rw [ih, ← he, h]
    case h_2 h => rw [← he, h]

@[simp] theorem State.pageFault_lfsr (s : State) (k : ℕ) (fs : List (ℕ × ℕ × XRes)) (write entry : Bool) :
    (s.pageFault k fs write entry).lfsr = s.lfsr := by
  unfold State.pageFault
  dsimp only
  repeat' split
  all_goals simp

@[simp] theorem State.commitFailed_lfsr (s : State) (k va : ℕ) (x : XRes) : (s.commitFailed k va x).lfsr = s.lfsr := by
  unfold State.commitFailed
  split <;> simp

@[simp] theorem State.enterHandler_lfsr (s : State) (k : ℕ) : (s.enterHandler k).lfsr = s.lfsr := by
  unfold State.enterHandler
  dsimp only
  repeat' split
  all_goals simp

@[simp] theorem State.takeTrapAt_lfsr (s : State) (k code : ℕ) (lanes : List ℕ) (addr coord : ℕ) :
    (s.takeTrapAt k code lanes addr coord).lfsr = s.lfsr := by
  unfold State.takeTrapAt
  dsimp only
  repeat' split
  all_goals simp

@[simp] theorem State.takeTrapSave_lfsr (s : State) (i code addr coord : ℕ) : (s.takeTrapSave i code addr coord).lfsr = s.lfsr := by
  unfold State.takeTrapSave
  dsimp only
  repeat' split
  all_goals simp

@[simp] theorem State.takeTrap_lfsr (s : State) (k code : ℕ) (lanes : List ℕ) (addr : ℕ) :
    (s.takeTrap k code lanes addr).lfsr = s.lfsr := by simp [State.takeTrap]

@[simp] theorem State.takeImprecise_lfsr (s : State) (bk uid code addr coord : ℕ) :
    (s.takeImprecise bk uid code addr coord).lfsr = s.lfsr := by
  unfold State.takeImprecise
  dsimp only
  repeat' split
  all_goals simp

@[simp] theorem State.killTask_lfsr (s : State) (t : Task) : (s.killTask t).lfsr = s.lfsr := by simp [State.killTask]
@[simp] theorem State.pageBadTask_lfsr (s : State) (t : Task) (code va : ℕ) : (s.pageBadTask t code va).lfsr = s.lfsr := by simp [State.pageBadTask]
@[simp] theorem State.takeDue_lfsr (s : State) (d : Due) : (s.takeDue d).lfsr = s.lfsr := by simp [State.takeDue]

@[simp] theorem State.settleDue_lfsr (n : ℕ) (s : State) : (State.settleDue n s).lfsr = s.lfsr := by
  induction n generalizing s with
  | zero => rfl
  | succ n ih =>
    unfold State.settleDue
    split
    · exact State.settleStops_lfsr s
    · rw [ih, State.takeDue_lfsr]

@[simp] theorem State.takeFatal_lfsr (s : State) (k : ℕ) : (s.takeFatal k).lfsr = s.lfsr := by
  unfold State.takeFatal
  split <;> simp

@[simp] theorem State.leaveHandler_lfsr (s : State) (tk : ℕ) (gone : Bool) : (s.leaveHandler tk gone).lfsr = s.lfsr := by
  unfold State.leaveHandler
  split <;> simp

@[simp] theorem State.eretThreads_lfsr (s : State) (k : ℕ) (lanes : List ℕ) : (s.eretThreads k lanes).lfsr = s.lfsr := by
  unfold State.eretThreads
  split
  · rfl
  · dsimp only
    split
    · exact foldl_lfsr (fun s l => by split <;> simp) _ _
    · rw [State.modFloe_lfsr]
      exact foldl_lfsr (fun s l => by split <;> simp) _ _

end Sys2Proof.Machine
end

section
/-! SUPPORT. What the functions of Machine/ErrLog.lean leave of the generators. -/

namespace Sys2Proof.Machine

@[simp] theorem State.logErr_lfsr (s : State) (e : ErrRec) : (s.logErr e).lfsr = s.lfsr := by
  unfold State.logErr
  dsimp only
  repeat' split
  all_goals simp

@[simp] theorem State.logUes_lfsr (s : State) (array place a n ctx : ℕ) : (s.logUes array place a n ctx).lfsr = s.lfsr := by simp [State.logUes]
@[simp] theorem State.logRegs_lfsr (s : State) (t n c ctx : ℕ) : (s.logRegs t n c ctx).lfsr = s.lfsr := by simp [State.logRegs]

@[simp] theorem State.logPad_lfsr (s : State) (l : Space) (pa n ctx : ℕ) : (s.logPad l pa n ctx).lfsr = s.lfsr := by
  unfold State.logPad
  split <;> simp

end Sys2Proof.Machine
end

section
/-! SUPPORT. What the functions of Machine/Operands.lean leave of the generators. -/

namespace Sys2Proof.Machine

@[simp] theorem Ctx.wr1_lfsr (c : Ctx) (s : State) (r : BitVec 8) (lane : ℕ) (w : Word) : (c.wr1 s r lane w).lfsr = s.lfsr := by simp [Ctx.wr1]

@[simp] theorem Ctx.wrRegs_lfsr (c : Ctx) (s : State) (r : BitVec 8) (lane : ℕ) (ws : List Word) :
    (c.wrRegs s r lane ws).lfsr = s.lfsr := by
  unfold Ctx.wrRegs
  split <;> simp

@[simp] theorem Ctx.wrPred_lfsr (c : Ctx) (s : State) (p : BitVec 8) (lane : ℕ) (b : Bool) : (c.wrPred s p lane b).lfsr = s.lfsr := by
  simp [Ctx.wrPred]

@[simp] theorem Ctx.deliver_lfsr (c : Ctx) (s : State) (la : ℕ) (r : BitVec 8) (res : List (ℕ × List Word × Fl)) :
    (c.deliver s la r res).lfsr = s.lfsr := by simp [Ctx.deliver]

end Sys2Proof.Machine
end

section
/-! SUPPORT. What the functions of Machine/Flags.lean leave of the generators. -/

namespace Sys2Proof.Machine

@[simp] theorem State.setLvh_lfsr (s : State) (t : ℕ) : (s.setLvh t).lfsr = s.lfsr := by simp [State.setLvh]

end Sys2Proof.Machine
end

section
/-! SUPPORT. What the functions of Machine/Access.lean leave of the generators. -/

namespace Sys2Proof.Machine

@[simp] theorem State.debugStop_lfsr (s : State) (bk : ℕ) : (s.debugStop bk).lfsr = s.lfsr := by simp [State.debugStop]
@[simp] theorem State.actStop_lfsr (s : State) (k bk act : ℕ) : (s.actStop k bk act).lfsr = s.lfsr := by simp [State.actStop]

theorem noZero_checkBounds {c : Ctx} {qs : List GReq} {n : ℕ} {perm : ℕ → Bool} {r : Res} (hr : c.checkBounds qs n perm = some r) :
    r.NoZero := by
  unfold Ctx.checkBounds at hr
  dsimp only at hr
  repeat' split at hr
  all_goals simp at hr
  all_goals subst hr; simp

theorem noZero_xfail {s : State} (h : NoZero s.lfsr) {core ctx : ℕ} {ts : List (ℕ × ℕ × XRes)} {write : Bool} {r : Res}
    (hr : xfail s core ctx ts write = some r) : r.NoZero := by
  unfold xfail at hr
  dsimp only at hr
  repeat' split at hr
  all_goals simp at hr
  all_goals subst hr; simp [h]

theorem passes_checkHome {c : Ctx} (h : NoZero c.s.lfsr) (qs : List GReq) (n : ℕ) (write data : Bool) (m : Mark) :
    Passes (fun x => NoZero x.1.lfsr) (c.checkHome qs n write data m) := by
  have hf : ∀ accs : List GAcc, NoZero (accs.foldl (fun s a => s.tlbFill c.core c.g.ctx a.va a.leaf a.size) c.s).lfsr := by
    intro accs
    simpa using h
  unfold Ctx.checkHome
  extract_lets
  split
  case h_1 hx => exact noZero_xfail h hx
  case h_2 =>
    split
    · exact hf _
    · split
      · simp
      · split
        case h_1 hx => exact noZero_xfail (hf _) hx
        case h_2 =>
          split
          · simp
          · exact hf _

@[simp] theorem State.startFills_lfsr (s : State) (k fid : ℕ) (cs : List ChunkReq) : (s.startFills k fid cs).lfsr = s.lfsr := by
  simp [State.startFills]

theorem passes_touch {s : State} (h : NoZero s.lfsr) (c : Ctx) (l : Space) (accs : List (ℕ × ℕ × ℕ)) (n : ℕ) (write : Bool) :
    Passes (fun s => NoZero s.lfsr) (c.touch s l accs n write) := by
  unfold Ctx.touch
  extract_lets
  split
  · simp
  · split
    · exact h
    · split
      case h_1 hx => exact noZero_xfail h hx
      case h_2 => split <;> simp [h]

theorem passes_watch {s : State} (h : NoZero s.lfsr) (c : Ctx) (l : Space) (accs : List (ℕ × ℕ × ℕ)) (n : ℕ) (rd wr : Bool) :
    Passes (fun s => NoZero s.lfsr) (c.watch s l accs n rd wr) := by
  unfold Ctx.watch
  dsimp only
  repeat' split
  all_goals simpa using h

theorem noZero_racePad {c : Ctx} {s : State} {l : Space} {accs : List (ℕ × ℕ × ℕ)} {n : ℕ} {m : Mark} {r : Res}
    (hr : c.racePad s l accs n m = some r) : r.NoZero := by
  unfold Ctx.racePad at hr
  dsimp only at hr
  split at hr <;> simp at hr
  subst hr; simp

theorem noZero_padRange {c : Ctx} {l : Space} {qs : List (ℕ × ℤ)} {al n : ℕ} {r : Res} (hr : c.padRange l qs al n = some r) :
    r.NoZero := by
  unfold Ctx.padRange at hr
  dsimp only at hr
  repeat' split at hr
  all_goals simp at hr
  all_goals subst hr; simp

theorem passes_checkPad {s : State} (h : NoZero s.lfsr) (c : Ctx) (l : Space) (qs : List (ℕ × ℤ)) (al n : ℕ) (rd wr watched : Bool)
    (m : Mark) : Passes (fun x => NoZero x.1.lfsr) (c.checkPad s l qs al n rd wr watched m) := by
  have hw : ∀ accs : List (ℕ × ℕ × ℕ), Passes (fun s => NoZero s.lfsr) (if watched then c.watch s l accs n rd wr else .ok s) := by
    intro accs
    split
    · exact passes_watch h c l accs n rd wr
    · exact h
  unfold Ctx.checkPad
  dsimp only
  split
  case h_1 hx => exact noZero_padRange hx
  case h_2 =>
    split
    case h_1 hx => exact (hw _).error hx
    case h_2 s' hx =>
      have h' := (hw _).ok hx
      split
      case h_1 hx => exact (passes_touch h' ..).error hx
      case h_2 s'' hx =>
        have h'' := (passes_touch h' ..).ok hx
        split
        case h_1 hx => exact noZero_racePad hx
        case h_2 => split <;> simpa using h''

@[simp] theorem Ctx.readPad_lfsr (c : Ctx) (s : State) (lane : ℕ) (l : Space) (pa n : ℕ) (acq : Option Scope) :
    (c.readPad s lane l pa n acq).2.lfsr = s.lfsr := by
  unfold Ctx.readPad
  split <;> simp

theorem passes_readDesc {c : Ctx} (h : NoZero c.s.lfsr) (l : Space) (va al n addr : ℕ) :
    Passes (fun x => NoZero x.1.lfsr) (c.readDesc l va al n addr) := by
  unfold Ctx.readDesc
  repeat' split
  case h_1 hx => exact (passes_checkPad h ..).error hx
  case h_2 hx => simpa using (passes_checkPad h ..).ok hx
  all_goals simp [h]

@[simp] theorem Ctx.await_lfsr (c : Ctx) (s : State) (la : ℕ) (p : Pend) : (c.await s la p).2.lfsr = s.lfsr := by
  unfold Ctx.await
  split <;> simp

@[simp] theorem State.opTrap_lfsr (s : State) (k fid code addr coord : ℕ) : (s.opTrap k fid code addr coord).lfsr = s.lfsr := by
  unfold State.opTrap
  repeat' split
  all_goals simp

@[simp] theorem State.modFid_lfsr (s : State) (k fid : ℕ) (f : Floe → Floe) : (s.modFid k fid f).lfsr = s.lfsr := by
  unfold State.modFid
  split <;> simp

@[simp] theorem State.arrivePend_lfsr (s : State) (k fid n lane : ℕ) (ws : List Word) (b : Option Bool) :
    (s.arrivePend k fid n lane ws b).lfsr = s.lfsr := by simp [State.arrivePend]

theorem passes_elements {c : Ctx} (h : NoZero c.s.lfsr) (st : Stream) (es : List (ℕ × ℕ)) :
    Passes (fun x => NoZero x.1.lfsr) (c.elements st es) := by
  unfold Ctx.elements
  dsimp only
  split
  · split
    case h_1 hx => exact (passes_checkHome h ..).error hx
    case h_2 hx =>
      have h' := (passes_checkHome h ..).ok hx
      repeat' split
      all_goals simp [h']
  · split
    · exact h
    · split
      case h_1 hx => exact (passes_checkPad h ..).error hx
      case h_2 hx => simpa using (passes_checkPad h ..).ok hx

@[simp] theorem noZero_missing {c : Ctx} (h : NoZero c.s.lfsr) (st : Stream) (lanes : List ℕ) : (c.missing st lanes).NoZero := by
  unfold Ctx.missing
  split
  case h_1 hx => exact (passes_elements h ..).error hx
  case h_2 => exact h

theorem passes_popPorts {c : Ctx} (h : NoZero c.s.lfsr) (ps : List (ℕ × BitVec 8)) (f : Floe) (acc : List (ℕ × ℕ × Word)) :
    Passes (fun _ => True) (c.popPorts ps f acc) := by
  induction ps generalizing f acc with
  | nil => trivial
  | cons p ps ih =>
    unfold Ctx.popPorts
    dsimp only
    repeat' split
    all_goals simp [noZero_missing h, ih]

theorem noZero_elemChecks {c : Ctx} (h : NoZero c.s.lfsr) {hi : ℕ} {es : List (ℕ × ℕ)} {n : ℕ} {r : Res}
    (hr : c.elemChecks hi es n = some r) : r.NoZero := by
  unfold Ctx.elemChecks at hr
  dsimp only at hr
  repeat' split at hr
  all_goals simp at hr
  all_goals subst hr; simp [h]

theorem noZero_dstPort {c : Ctx} (h : NoZero c.s.lfsr) {f : Floe} {d : BitVec 8} {r : Res} (hr : c.dstPort f d = some r) :
    r.NoZero := by
  unfold Ctx.dstPort at hr
  dsimp only at hr
  split at hr
  · cases hr; simp
  · split at hr
    · cases hr; simp
    · split at hr
      · cases hr; simp
      · split at hr
        · cases hr; simp
        · split at hr
          · exact noZero_elemChecks h hr
          · split at hr
            · cases hr; exact h
            · split at hr
              case h_1 hx => cases hr; exact (passes_checkPad h ..).error hx
              case h_2 => cases hr

end Sys2Proof.Machine
end

section
/-! SUPPORT. What the functions of Machine/Issue.lean leave of the generators. -/

namespace Sys2Proof.Machine

@[simp] theorem State.enterCopy_lfsr (s : State) (k cid : ℕ) (c : SegCopy) (cont : Word) : (s.enterCopy k cid c cont).lfsr = s.lfsr := by
  unfold State.enterCopy
  dsimp only
  repeat' split
  all_goals simp

@[simp] theorem State.tryEnter_lfsr (s : State) (k : ℕ) : (s.tryEnter k).lfsr = s.lfsr := by
  unfold State.tryEnter
  dsimp only
  repeat' split
  all_goals simp

@[simp] theorem State.contIntact_lfsr (s : State) (k : ℕ) (cont : Word) : (s.contIntact k cont).lfsr = s.lfsr := by simp [State.contIntact]

@[simp] theorem State.dropOthers_lfsr (s : State) (k : ℕ) (mine : List ℕ) : (s.dropOthers k mine).lfsr = s.lfsr :=
  Machine.dropOthers_lfsr s k mine

@[simp] theorem State.trial_lfsr (s : State) (core : ℕ) (w : Word) : (s.trial core w).lfsr = s.lfsr :=
  Machine.trial_lfsr s core w

@[simp] theorem State.countSched_lfsr (s : State) (k fid : ℕ) (w : Word) : (s.countSched k fid w).lfsr = s.lfsr := by simp [State.countSched]
@[simp] theorem State.noteIssue_lfsr (s : State) (k : ℕ) (f : Floe) : (s.noteIssue k f).lfsr = s.lfsr := by simp [State.noteIssue]
@[simp] theorem State.afterIssue_lfsr (s : State) (k : ℕ) (f : Floe) : (s.afterIssue k f).lfsr = s.lfsr := by simp [State.afterIssue]
@[simp] theorem State.countWindows_lfsr (s : State) (k np : ℕ) : (s.countWindows k np).lfsr = s.lfsr := by simp [State.countWindows]
@[simp] theorem State.goOn_lfsr (s : State) (k : ℕ) : (s.goOn k).lfsr = s.lfsr := by simp [State.goOn]
@[simp] theorem State.waitHere_lfsr (s : State) (k : ℕ) (w : Wait) : (s.waitHere k w).lfsr = s.lfsr := by simp [State.waitHere]

@[simp] theorem State.takeVerify_lfsr (s : State) (k : ℕ) (f : Floe) (lanes : List ℕ) : (s.takeVerify k f lanes).lfsr = s.lfsr := by
  unfold State.takeVerify
  rw [State.takeTrap_lfsr]
  exact foldl_lfsr (fun s l => by split <;> simp) _ _

theorem noZero_finish {s₀ : State} (h : NoZero s₀.lfsr) (k : ℕ) (f : Floe) (bk : ℕ) {r : Res} (hr : r.NoZero) :
    NoZero (finish s₀ k f bk r).lfsr := by
  cases r <;> simp_all [finish]

@[simp] theorem State.logReads_lfsr (s : State) (i : Instr) (k : ℕ) (f : Floe) (act : List ℕ) : (s.logReads i k f act).lfsr = s.lfsr := by
  refine foldl_lfsr (fun s l => ?_) _ _
  split
  · exact foldl_lfsr (fun s o => by split <;> simp) _ _
  · rfl

theorem passes_ports {c : Ctx} (h : NoZero c.s.lfsr) (i : Instr) : Passes (fun c => NoZero c.s.lfsr) (c.ports i) := by
  have hp : Passes (fun _ => True) (if c.act = [] then .ok (c.f, []) else c.popPorts (portSrcs i) c.f []) := by
    split
    · trivial
    · exact passes_popPorts h ..
  have hd : ∀ f r, (if c.act = [] then none else (portDsts i).findSome? (c.dstPort f)) = some r → r.NoZero := by
    intro f r hr
    split at hr
    · cases hr
    · obtain ⟨d, _, hd⟩ := List.exists_of_findSome?_eq_some hr
      exact noZero_dstPort h hd
  unfold Ctx.ports
  split
  case h_1 hx => exact hp.error hx
  case h_2 f popped hx =>
    split
    case h_1 hx => exact hd f _ hx
    case h_2 => rw [passes_ok]; split <;> simpa using h

theorem noZero_issueBody {s : State} (h : NoZero s.lfsr) (i : Instr) (k : ℕ) (f : Floe) {body : Ctx → Res}
    (hb : ∀ c : Ctx, NoZero c.s.lfsr → (body c).NoZero) : NoZero (issueBody i s k f body).lfsr := by
  unfold issueBody
  extract_lets c early lent
  have hp : Passes (fun c => NoZero c.s.lfsr) (c.ports i) := passes_ports (c := c) h i
  split
  · simp [h]
  · split
    · split <;> simp [finish, h]
    · split
      · simp [h]
      · split
        · simp [finish, h]
        · split
          · simp [h]
          · split
            · simp [h]
            · split
              · simp [finish, h]
              · split
                case h_1 hx => exact noZero_finish h _ _ _ (hp.error hx)
                case h_2 hx => exact noZero_finish h _ _ _ (hb _ (hp.ok hx))

theorem noZero_beforeIssue {s : State} (h : NoZero s.lfsr) (k : ℕ) {go : State → Floe → State}
    (hg : ∀ s f, NoZero s.lfsr → NoZero (go s f).lfsr) : NoZero (s.beforeIssue k go).lfsr := by
  unfold State.beforeIssue
  extract_lets u
  have hs : NoZero u.lfsr := by simpa [u] using h
  split
  · exact hs
  · split
    · exact hs
    · split
      · simpa using hs
      · split
        · simpa using hs
        · extract_lets bk g hits a v f'
          have hv : NoZero v.lfsr := by simpa [v] using hs
          split
          · simpa using hs
          · split
            · simpa using hs
            · split
              · exact hg _ _ hs
              · split
                · exact hg _ _ (by simpa using hv)
                · simpa using hv

theorem noZero_issueAt {s : State} (h : NoZero s.lfsr) (i : Instr) (k : ℕ) {body : Ctx → Res}
    (hb : ∀ c : Ctx, NoZero c.s.lfsr → (body c).NoZero) : NoZero (issueAt i s k body).lfsr :=
  noZero_beforeIssue h k fun _ f hs => noZero_issueBody hs i k f hb

theorem noZero_illegal {s : State} (h : NoZero s.lfsr) (k : ℕ) : NoZero (s.illegal k).lfsr :=
  noZero_beforeIssue h k fun s _ hs => by simpa using hs

/-- Every instruction goes through this: what its own part keeps from zero, its issue keeps from zero. -/
theorem outNoZero_issue {s : State} (h : NoZero s.lfsr) (i : Instr) {body : Ctx → Res}
    (hb : ∀ c : Ctx, NoZero c.s.lfsr → (body c).NoZero) : OutNoZero (issue i s body) := by
  unfold issue
  split
  · simp
  · simpa using noZero_issueAt h i _ hb

end Sys2Proof.Machine
end

section
/-! SUPPORT. What the functions of Machine/Int.lean leave of the generators. -/

namespace Sys2Proof.Machine

@[simp] theorem Ctx.uregOut_lfsr (c : Ctx) (s : State) (la r : ℕ) (w : Word) : (c.uregOut s la r w).lfsr = s.lfsr := by simp [Ctx.uregOut]
@[simp] theorem Ctx.intOut_lfsr (c : Ctx) (s : State) (o : IntOps) (f : ℕ → List Word) : (c.intOut s o f).lfsr = s.lfsr := by simp [Ctx.intOut]

@[simp] theorem Ctx.predOut_lfsr (c : Ctx) (s : State) (o : IntOps) (p : BitVec 8) (f : ℕ → Bool) : (c.predOut s o p f).lfsr = s.lfsr := by
  simp [Ctx.predOut]

@[simp] theorem noZero_arith (o : IntOps) (f : ℤ → ℤ → ℤ → ℤ) {c : Ctx} (hz : NoZero c.s.lfsr) : (arith o f c).NoZero := by simp [arith, hz]
@[simp] theorem noZero_logic (o : IntOps) (f : ℕ → ℕ → ℕ) {c : Ctx} (hz : NoZero c.s.lfsr) : (logic o f c).NoZero := by simp [logic, hz]
@[simp] theorem noZero_count (o : IntOps) (f : ℕ → ℕ → ℕ) {c : Ctx} (hz : NoZero c.s.lfsr) : (count o f c).NoZero := by simp [count, hz]
theorem outNoZero_execNop {s : State} (hz : NoZero s.lfsr) : OutNoZero (execNop s) := outNoZero_issue hz _ fun c hc => by simp [hc]
theorem outNoZero_execMov {o : IntOps} {s : State} (hz : NoZero s.lfsr) : OutNoZero (execMov o s) := outNoZero_issue hz _ fun c hc => by simp [hc]
theorem outNoZero_execMovi {o : IntOps} {s : State} (hz : NoZero s.lfsr) : OutNoZero (execMovi o s) := outNoZero_issue hz _ fun c hc => by simp [hc]

theorem outNoZero_execMovs {o : IntOps} {s : State} (hz : NoZero s.lfsr) : OutNoZero (execMovs o s) := by
  unfold execMovs
  refine outNoZero_issue hz _ fun c hc => ?_
  split <;> simp [hc]

theorem outNoZero_execMovkToLane {o : IntOps} {s : State} (hz : NoZero s.lfsr) : OutNoZero (execMovkToLane o s) :=
  outNoZero_issue hz _ fun c hc => by simp [hc]

theorem outNoZero_execMovkToUniform {o : IntOps} {s : State} (hz : NoZero s.lfsr) : OutNoZero (execMovkToUniform o s) := by
  unfold execMovkToUniform
  refine outNoZero_issue hz _ fun c hc => ?_
  split <;> simp [hc]

theorem outNoZero_execIadd {o : IntOps} {s : State} (hz : NoZero s.lfsr) : OutNoZero (execIadd o s) := outNoZero_issue hz _ fun c hc => by simp [hc]
theorem outNoZero_execIsub {o : IntOps} {s : State} (hz : NoZero s.lfsr) : OutNoZero (execIsub o s) := outNoZero_issue hz _ fun c hc => by simp [hc]
theorem outNoZero_execImul {o : IntOps} {s : State} (hz : NoZero s.lfsr) : OutNoZero (execImul o s) := outNoZero_issue hz _ fun c hc => by simp [hc]
theorem outNoZero_execImad {o : IntOps} {s : State} (hz : NoZero s.lfsr) : OutNoZero (execImad o s) := outNoZero_issue hz _ fun c hc => by simp [hc]
theorem outNoZero_execImin {o : IntOps} {s : State} (hz : NoZero s.lfsr) : OutNoZero (execImin o s) := outNoZero_issue hz _ fun c hc => by simp [hc]
theorem outNoZero_execImax {o : IntOps} {s : State} (hz : NoZero s.lfsr) : OutNoZero (execImax o s) := outNoZero_issue hz _ fun c hc => by simp [hc]
theorem outNoZero_execIabs {o : IntOps} {s : State} (hz : NoZero s.lfsr) : OutNoZero (execIabs o s) := outNoZero_issue hz _ fun c hc => by simp [hc]
theorem outNoZero_execIneg {o : IntOps} {s : State} (hz : NoZero s.lfsr) : OutNoZero (execIneg o s) := outNoZero_issue hz _ fun c hc => by simp [hc]
theorem outNoZero_execIaddc {o : IntOps} {s : State} (hz : NoZero s.lfsr) : OutNoZero (execIaddc o s) := outNoZero_issue hz _ fun c hc => by simp [hc]
theorem outNoZero_execImulh {o : IntOps} {s : State} (hz : NoZero s.lfsr) : OutNoZero (execImulh o s) := outNoZero_issue hz _ fun c hc => by simp [hc]
theorem outNoZero_execImadw {o : IntOps} {s : State} (hz : NoZero s.lfsr) : OutNoZero (execImadw o s) := outNoZero_issue hz _ fun c hc => by simp [hc]
theorem outNoZero_execIdiv {o : IntOps} {s : State} (hz : NoZero s.lfsr) : OutNoZero (execIdiv o s) := outNoZero_issue hz _ fun c hc => by simp [hc]
theorem outNoZero_execIrem {o : IntOps} {s : State} (hz : NoZero s.lfsr) : OutNoZero (execIrem o s) := outNoZero_issue hz _ fun c hc => by simp [hc]
theorem outNoZero_execAnd {o : IntOps} {s : State} (hz : NoZero s.lfsr) : OutNoZero (execAnd o s) := outNoZero_issue hz _ fun c hc => by simp [hc]
theorem outNoZero_execOr {o : IntOps} {s : State} (hz : NoZero s.lfsr) : OutNoZero (execOr o s) := outNoZero_issue hz _ fun c hc => by simp [hc]
theorem outNoZero_execXor {o : IntOps} {s : State} (hz : NoZero s.lfsr) : OutNoZero (execXor o s) := outNoZero_issue hz _ fun c hc => by simp [hc]
theorem outNoZero_execNot {o : IntOps} {s : State} (hz : NoZero s.lfsr) : OutNoZero (execNot o s) := outNoZero_issue hz _ fun c hc => by simp [hc]
@[simp] theorem noZero_shift (o : IntOps) (f : ℕ → ℕ → ℕ → ℕ) {c : Ctx} (hz : NoZero c.s.lfsr) : (shift o f c).NoZero := by simp [shift, hz]
theorem outNoZero_execShl {o : IntOps} {s : State} (hz : NoZero s.lfsr) : OutNoZero (execShl o s) := outNoZero_issue hz _ fun c hc => by simp [hc]
theorem outNoZero_execShr {o : IntOps} {s : State} (hz : NoZero s.lfsr) : OutNoZero (execShr o s) := outNoZero_issue hz _ fun c hc => by simp [hc]
theorem outNoZero_execSar {o : IntOps} {s : State} (hz : NoZero s.lfsr) : OutNoZero (execSar o s) := outNoZero_issue hz _ fun c hc => by simp [hc]
theorem outNoZero_execRol {o : IntOps} {s : State} (hz : NoZero s.lfsr) : OutNoZero (execRol o s) := outNoZero_issue hz _ fun c hc => by simp [hc]
theorem outNoZero_execBfe {o : IntOps} {s : State} (hz : NoZero s.lfsr) : OutNoZero (execBfe o s) := outNoZero_issue hz _ fun c hc => by simp [hc]
theorem outNoZero_execBfi {o : IntOps} {s : State} (hz : NoZero s.lfsr) : OutNoZero (execBfi o s) := outNoZero_issue hz _ fun c hc => by simp [hc]
theorem outNoZero_execPopc {o : IntOps} {s : State} (hz : NoZero s.lfsr) : OutNoZero (execPopc o s) := outNoZero_issue hz _ fun c hc => by simp [hc]
theorem outNoZero_execClz {o : IntOps} {s : State} (hz : NoZero s.lfsr) : OutNoZero (execClz o s) := outNoZero_issue hz _ fun c hc => by simp [hc]
theorem outNoZero_execCtz {o : IntOps} {s : State} (hz : NoZero s.lfsr) : OutNoZero (execCtz o s) := outNoZero_issue hz _ fun c hc => by simp [hc]
theorem outNoZero_execBrev {o : IntOps} {s : State} (hz : NoZero s.lfsr) : OutNoZero (execBrev o s) := outNoZero_issue hz _ fun c hc => by simp [hc]
theorem outNoZero_execPrm {o : IntOps} {s : State} (hz : NoZero s.lfsr) : OutNoZero (execPrm o s) := outNoZero_issue hz _ fun c hc => by simp [hc]
theorem outNoZero_execIcmp {o : IntOps} {s : State} (hz : NoZero s.lfsr) : OutNoZero (execIcmp o s) := outNoZero_issue hz _ fun c hc => by simp [hc]
theorem outNoZero_execSel {o : IntOps} {s : State} (hz : NoZero s.lfsr) : OutNoZero (execSel o s) := outNoZero_issue hz _ fun c hc => by simp [hc]
theorem outNoZero_execPlop {o : IntOps} {s : State} (hz : NoZero s.lfsr) : OutNoZero (execPlop o s) := outNoZero_issue hz _ fun c hc => by simp [hc]
theorem outNoZero_execPadd {o : IntOps} {s : State} (hz : NoZero s.lfsr) : OutNoZero (execPadd o s) := outNoZero_issue hz _ fun c hc => by simp [hc]
theorem outNoZero_execPsub {o : IntOps} {s : State} (hz : NoZero s.lfsr) : OutNoZero (execPsub o s) := outNoZero_issue hz _ fun c hc => by simp [hc]
theorem outNoZero_execPcmp {o : IntOps} {s : State} (hz : NoZero s.lfsr) : OutNoZero (execPcmp o s) := outNoZero_issue hz _ fun c hc => by simp [hc]
theorem outNoZero_execPbnd {o : IntOps} {s : State} (hz : NoZero s.lfsr) : OutNoZero (execPbnd o s) := outNoZero_issue hz _ fun c hc => by simp [hc]

end Sys2Proof.Machine
end

section
/-! SUPPORT. What the functions of Machine/Fp.lean leave of the generators. -/

namespace Sys2Proof.Machine

@[simp] theorem Ctx.fpOut_lfsr (c : Ctx) (s : State) (la : ℕ) (d : BitVec 8) (f : ℕ → ℕ × Fl) : (c.fpOut s la d f).lfsr = s.lfsr := by
  simp [Ctx.fpOut]

@[simp] theorem noZero_fpLanes (o : FpOps) (g : ℕ → ℕ → ℕ → ℕ → ℕ × Fl) {c : Ctx} (hz : NoZero c.s.lfsr) : (fpLanes o g c).NoZero := by
  simp [fpLanes, hz]

theorem outNoZero_execFadd {o : FpOps} {s : State} (hz : NoZero s.lfsr) : OutNoZero (execFadd o s) := outNoZero_issue hz _ fun c hc => by simp [hc]
theorem outNoZero_execFsub {o : FpOps} {s : State} (hz : NoZero s.lfsr) : OutNoZero (execFsub o s) := outNoZero_issue hz _ fun c hc => by simp [hc]
theorem outNoZero_execFmul {o : FpOps} {s : State} (hz : NoZero s.lfsr) : OutNoZero (execFmul o s) := outNoZero_issue hz _ fun c hc => by simp [hc]
theorem outNoZero_execFfma {o : FpOps} {s : State} (hz : NoZero s.lfsr) : OutNoZero (execFfma o s) := outNoZero_issue hz _ fun c hc => by simp [hc]
theorem outNoZero_execFmin {o : FpOps} {s : State} (hz : NoZero s.lfsr) : OutNoZero (execFmin o s) := outNoZero_issue hz _ fun c hc => by simp [hc]
theorem outNoZero_execFmax {o : FpOps} {s : State} (hz : NoZero s.lfsr) : OutNoZero (execFmax o s) := outNoZero_issue hz _ fun c hc => by simp [hc]
theorem outNoZero_execFabs {o : FpOps} {s : State} (hz : NoZero s.lfsr) : OutNoZero (execFabs o s) := outNoZero_issue hz _ fun c hc => by simp [hc]
theorem outNoZero_execFneg {o : FpOps} {s : State} (hz : NoZero s.lfsr) : OutNoZero (execFneg o s) := outNoZero_issue hz _ fun c hc => by simp [hc]
theorem outNoZero_execFdiv {o : FpOps} {s : State} (hz : NoZero s.lfsr) : OutNoZero (execFdiv o s) := outNoZero_issue hz _ fun c hc => by simp [hc]
theorem outNoZero_execFsqrt {o : FpOps} {s : State} (hz : NoZero s.lfsr) : OutNoZero (execFsqrt o s) := outNoZero_issue hz _ fun c hc => by simp [hc]
theorem outNoZero_execFrcp {o : FpOps} {s : State} (hz : NoZero s.lfsr) : OutNoZero (execFrcp o s) := outNoZero_issue hz _ fun c hc => by simp [hc]
theorem outNoZero_execFrsq {o : FpOps} {s : State} (hz : NoZero s.lfsr) : OutNoZero (execFrsq o s) := outNoZero_issue hz _ fun c hc => by simp [hc]
theorem outNoZero_execFrnd {o : FpOps} {s : State} (hz : NoZero s.lfsr) : OutNoZero (execFrnd o s) := outNoZero_issue hz _ fun c hc => by simp [hc]

theorem outNoZero_execFclass {o : FpOps} {s : State} (hz : NoZero s.lfsr) : OutNoZero (execFclass o s) :=
  outNoZero_issue hz _ fun c hc => by simp [hc]

theorem outNoZero_execFcmp {o : FpOps} {s : State} (hz : NoZero s.lfsr) : OutNoZero (execFcmp o s) := outNoZero_issue hz _ fun c hc => by simp [hc]
theorem outNoZero_execFex2 {o : FpOps} {s : State} (hz : NoZero s.lfsr) : OutNoZero (execFex2 o s) := outNoZero_issue hz _ fun c hc => by simp [hc]
theorem outNoZero_execFlg2 {o : FpOps} {s : State} (hz : NoZero s.lfsr) : OutNoZero (execFlg2 o s) := outNoZero_issue hz _ fun c hc => by simp [hc]
theorem outNoZero_execFsin {o : FpOps} {s : State} (hz : NoZero s.lfsr) : OutNoZero (execFsin o s) := outNoZero_issue hz _ fun c hc => by simp [hc]
theorem outNoZero_execFcos {o : FpOps} {s : State} (hz : NoZero s.lfsr) : OutNoZero (execFcos o s) := outNoZero_issue hz _ fun c hc => by simp [hc]
theorem outNoZero_execCvt {o : CvtOps} {s : State} (hz : NoZero s.lfsr) : OutNoZero (execCvt o s) := outNoZero_issue hz _ fun c hc => by simp [hc]
theorem outNoZero_execIdp4 {o : FpOps} {s : State} (hz : NoZero s.lfsr) : OutNoZero (execIdp4 o s) := outNoZero_issue hz _ fun c hc => by simp [hc]
theorem outNoZero_execIdp8 {o : FpOps} {s : State} (hz : NoZero s.lfsr) : OutNoZero (execIdp8 o s) := outNoZero_issue hz _ fun c hc => by simp [hc]
theorem outNoZero_execFdp2 {o : FpOps} {s : State} (hz : NoZero s.lfsr) : OutNoZero (execFdp2 o s) := outNoZero_issue hz _ fun c hc => by simp [hc]

end Sys2Proof.Machine
end

section
/-! SUPPORT. What the functions of Machine/Algebra.lean leave of the generators. -/

namespace Sys2Proof.Machine

@[simp] theorem Ctx.algOut_lfsr (c : Ctx) (s : State) (o : AlgOps) (n : ℕ) (f : ℕ → ℕ → ℕ × Fl) : (c.algOut s o n f).lfsr = s.lfsr := by
  simp [Ctx.algOut]

@[simp] theorem noZero_algRun {o : AlgOps} {g : ℕ → Word → State → Ctx → State} (hg : ∀ t w s c, (g t w s c).lfsr = s.lfsr) {c : Ctx}
    (hz : NoZero c.s.lfsr) : (algRun o g c).NoZero := by
  unfold algRun
  extract_lets sr
  have hsr : NoZero sr.2.lfsr := noZero_srStep hz _
  repeat' split
  all_goals simp [hg, hsr]

theorem outNoZero_execAmul {o : AlgOps} {s : State} (hz : NoZero s.lfsr) : OutNoZero (execAmul o s) := outNoZero_issue hz _ fun c hc => by simp [hc]
theorem outNoZero_execAmac {o : AlgOps} {s : State} (hz : NoZero s.lfsr) : OutNoZero (execAmac o s) := outNoZero_issue hz _ fun c hc => by simp [hc]
theorem outNoZero_execAconj {o : AlgOps} {s : State} (hz : NoZero s.lfsr) : OutNoZero (execAconj o s) := outNoZero_issue hz _ fun c hc => by simp [hc]
theorem outNoZero_execAnorm {o : AlgOps} {s : State} (hz : NoZero s.lfsr) : OutNoZero (execAnorm o s) := outNoZero_issue hz _ fun c hc => by simp [hc]
theorem outNoZero_execAadd {o : AlgOps} {s : State} (hz : NoZero s.lfsr) : OutNoZero (execAadd o s) := outNoZero_issue hz _ fun c hc => by simp [hc]
theorem outNoZero_execAscl {o : AlgOps} {s : State} (hz : NoZero s.lfsr) : OutNoZero (execAscl o s) := outNoZero_issue hz _ fun c hc => by simp [hc]

theorem outNoZero_execAtab {o : DescOps} {s : State} (hz : NoZero s.lfsr) : OutNoZero (execAtab o s) := by
  refine outNoZero_issue hz _ fun c hc => ?_
  extract_lets va
  have hd := passes_readDesc hc o.space va 64 64 va
  split
  · exact hc
  · split
    case h_1 hx => simp
    case h_2 hx => exact hd.error hx
    case h_3 hx =>
      have := hd.ok hx
      repeat' split
      all_goals simp [this]

end Sys2Proof.Machine
end

section
/-! SUPPORT. What the functions of Machine/Order.lean leave of the generators. -/

namespace Sys2Proof.Machine

@[simp] theorem noZero_commitThen {c : Ctx} {s : State} (hs : NoZero s.lfsr) {go : State → Res}
    (hg : ∀ s, NoZero s.lfsr → (go s).NoZero) : (c.commitThen s go).NoZero := by
  unfold Ctx.commitThen
  extract_lets r
  have hr : NoZero r.1.lfsr := by simpa [r] using hs
  split
  · simpa using hr
  · simp
  · exact hr
  · exact hg _ hr

@[simp] theorem noZero_releaseThen {c : Ctx} (hz : NoZero c.s.lfsr) {go : State → Res} (hg : ∀ s, NoZero s.lfsr → (go s).NoZero) :
    (c.releaseThen go).NoZero := by
  unfold Ctx.releaseThen
  split
  · exact hz
  · refine noZero_commitThen hz fun s hs => ?_
    split
    · exact hs
    · exact hg s hs

@[simp] theorem noZero_goIntact {c : Ctx} {s : State} (hs : NoZero s.lfsr) (w : Word) : (c.goIntact s w).NoZero := by
  unfold Ctx.goIntact
  split <;> simp [hs]

@[simp] theorem Ctx.acquire_lfsr (c : Ctx) (s : State) (sc : Scope) (ms : List SyncMark) : (c.acquire s sc ms).lfsr = s.lfsr := by simp [Ctx.acquire]
@[simp] theorem Ctx.acquireSeen_lfsr (c : Ctx) (s : State) (scope : Scope) : (c.acquireSeen s scope).lfsr = s.lfsr := by simp [Ctx.acquireSeen]

end Sys2Proof.Machine
end

section
/-! SUPPORT. What the functions of Machine/Control.lean leave of the generators. -/

namespace Sys2Proof.Machine

@[simp] theorem noZero_regroup {c : Ctx} (leave : List (ℕ × Word)) (stay : Option Word) (hz : NoZero c.s.lfsr) :
    (c.regroup leave stay).NoZero := by
  unfold Ctx.regroup
  split
  · exact hz
  · refine noZero_commitThen hz fun s hs => ?_
    split
    · exact hs
    · extract_lets p gone s₁ s₂ s₃
      have h₁ : s₁.lfsr = s.lfsr := by simp [s₁, p]
      have h₂ : s₂.lfsr = s₁.lfsr := by cases stay <;> simp [s₂, s₁]
      have h₃ : s₃.lfsr = s₂.lfsr := foldl_lfsr (fun s e => State.park_lfsr ..) _ _
      cases stay <;> simpa [h₃, h₂, h₁] using hs

theorem outNoZero_execNext {succ : BitVec 28} {s : State} (hz : NoZero s.lfsr) : OutNoZero (execNext succ s) :=
  outNoZero_issue hz _ fun c hc => by simp [hc]

theorem outNoZero_execYield {succ : BitVec 28} {s : State} (hz : NoZero s.lfsr) : OutNoZero (execYield succ s) :=
  outNoZero_issue hz _ fun c hc => by simp [hc]

@[simp] theorem noZero_goWords {c : Ctx} (word : ℕ → Word) (hz : NoZero c.s.lfsr) : (c.goWords word).NoZero := by
  unfold Ctx.goWords
  dsimp only
  repeat' split
  all_goals simp [hz]

theorem outNoZero_execNexti {a : BitVec 8} {s : State} (hz : NoZero s.lfsr) : OutNoZero (execNexti a s) :=
  outNoZero_issue hz _ fun c hc => by simp [hc]

theorem outNoZero_execRet {a : BitVec 8} {s : State} (hz : NoZero s.lfsr) : OutNoZero (execRet a s) := outNoZero_issue hz _ fun c hc => by simp [hc]

theorem outNoZero_execBrv {p : BitVec 8} {t n : BitVec 28} {s : State} (hz : NoZero s.lfsr) : OutNoZero (execBrv p t n s) := by
  unfold execBrv
  refine outNoZero_issue hz _ fun c hc => ?_
  dsimp only
  repeat' split
  all_goals simp [hc]

theorem outNoZero_execCall {d : BitVec 8} {f r : BitVec 28} {s : State} (hz : NoZero s.lfsr) : OutNoZero (execCall d f r s) :=
  outNoZero_issue hz _ fun c hc => by simp [hc]

@[simp] theorem State.exitThread_lfsr (s : State) (core : ℕ) (coord : Word) (tk : ℕ) : (s.exitThread core coord tk).lfsr = s.lfsr := by
  simp [State.exitThread]

@[simp] theorem State.exitThreads_lfsr (s : State) (core bk : ℕ) (coord : Word) (srec : ℕ) (staged : List (ℕ × ℕ)) (tks : List ℕ) :
    (s.exitThreads core bk coord srec staged tks).lfsr = s.lfsr := by simp [State.exitThreads]

theorem outNoZero_execExit {s : State} (hz : NoZero s.lfsr) : OutNoZero (execExit s) := by
  refine outNoZero_issue hz _ fun c hc => ?_
  split
  · exact hc
  · split
    · simp
    · split
      · exact hc
      · split
        · simp
        · refine noZero_commitThen hc fun s hs => ?_
          extract_lets enrolled last s₁ p s₂ s₃
          have hp : p.2.lfsr = s.lfsr := by simp only [p, s₁]; split <;> simp
          split
          · exact hs
          · simpa [s₃, s₂, hp] using hs

@[simp] theorem State.makeThread_lfsr (s : State) (bk q lane w base : ℕ) (args : List Word) :
    (s.makeThread bk q lane w base args).lfsr = s.lfsr := by simp [State.makeThread]

@[simp] theorem noZero_spawnLanes {c : Ctx} (o : SpawnOps) (cont : ℕ → Word) (srec : ℕ) (ls : List ℕ) {s : State} (hs : NoZero s.lfsr) :
    (c.spawnLanes o cont srec ls s).NoZero := by
  induction ls generalizing s with
  | nil => exact hs
  | cons l ls ih =>
    unfold Ctx.spawnLanes
    extract_lets place served args
    have hserved : ∀ s : State, (served s).lfsr = s.lfsr := fun s => State.modFloe_lfsr ..
    cases hp : place with
    | some p => exact ih (by simpa [hserved] using hs)
    | none =>
      dsimp only
      split
      · exact ih (by simpa [hserved] using hs)
      · exact hs

theorem outNoZero_execSpawn {o : SpawnOps} {s : State} (hz : NoZero s.lfsr) : OutNoZero (execSpawn o s) := by
  refine outNoZero_issue hz _ fun c hc => ?_
  extract_lets cont todo bad
  split
  · exact hc
  · split
    · simp
    · split
      · simp
      · refine noZero_releaseThen hc fun s hs => ?_
        split
        · exact hs
        · cases c.f.spawnRec <;> simp [hs]

@[simp] theorem Ctx.arrive_lfsr (c : Ctx) (s : State) (slot : ℕ) (rec : SyncMark) : (c.arrive s slot rec).lfsr = s.lfsr := by
  unfold Ctx.arrive
  refine foldl_lfsr (fun s a => ?_) _ _
  split <;> simp

theorem outNoZero_execBarArw {o : BarOps} {s : State} (hz : NoZero s.lfsr) : OutNoZero (execBarArw o s) := by
  unfold execBarArw
  refine outNoZero_issue hz _ fun c hc => ?_
  dsimp only
  repeat' split
  all_goals simp [hc]

theorem outNoZero_execBarArv {o : BarOps} {s : State} (hz : NoZero s.lfsr) : OutNoZero (execBarArv o s) := by
  unfold execBarArv
  refine outNoZero_issue hz _ fun c hc => ?_
  dsimp only
  repeat' split
  all_goals simp [hc]

theorem outNoZero_execBarWt {o : BarOps} {s : State} (hz : NoZero s.lfsr) : OutNoZero (execBarWt o s) := by
  unfold execBarWt
  refine outNoZero_issue hz _ fun c hc => ?_
  dsimp only
  repeat' split
  all_goals simp [hc]

theorem outNoZero_execBarExp {o : BarOps} {s : State} (hz : NoZero s.lfsr) : OutNoZero (execBarExp o s) := by
  unfold execBarExp
  refine outNoZero_issue hz _ fun c hc => ?_
  dsimp only
  repeat' split
  all_goals simp [hc]

theorem outNoZero_execBarinit {h : Head} {a b : BitVec 8} {slot : BitVec 4} {s : State} (hz : NoZero s.lfsr) :
    OutNoZero (execBarinit h a b slot s) := by
  unfold execBarinit
  refine outNoZero_issue hz _ fun c hc => ?_
  dsimp only
  repeat' split
  all_goals simp [hc]

theorem outNoZero_execTrap {h : Head} {code : BitVec 16} {s : State} (hz : NoZero s.lfsr) : OutNoZero (execTrap h code s) := by
  unfold execTrap
  refine outNoZero_issue hz _ fun c hc => ?_
  split <;> simp [hc]

theorem outNoZero_execFeatq {h : Head} {d : BitVec 8} {w : BitVec 2} {s : State} (hz : NoZero s.lfsr) : OutNoZero (execFeatq h d w s) :=
  outNoZero_issue hz _ fun c hc => by simp [hc]

theorem outNoZero_execFeatqBit {h : Head} {d : BitVec 8} {n : BitVec 7} {s : State} (hz : NoZero s.lfsr) :
    OutNoZero (execFeatqBit h d n s) := outNoZero_issue hz _ fun c hc => by simp [hc]

end Sys2Proof.Machine
end

section
/-! SUPPORT. What the functions of Machine/Mem.lean leave of the generators. -/

namespace Sys2Proof.Machine

@[simp] theorem noZero_ordered {c : Ctx} (rel commits : Bool) (hz : NoZero c.s.lfsr) {go : State → Option ℕ → Res}
    (hg : ∀ s r, NoZero s.lfsr → (go s r).NoZero) : (c.ordered rel commits go).NoZero := by
  unfold Ctx.ordered
  split
  · exact noZero_releaseThen hz fun s hs => hg _ _ (by simpa using hs)
  · split
    · exact noZero_commitThen hz fun s hs => hg _ _ hs
    · exact hg _ _ hz

@[simp] theorem State.replValue_lfsr (s : State) (k blkr kind lane : ℕ) (coord : Word) (v : ℕ) :
    (s.replValue k blkr kind lane coord v).lfsr = s.lfsr := by
  unfold State.replValue
  dsimp only
  repeat' split
  all_goals simp

theorem noZero_lateLoad {c : Ctx} (o : MemOps) (qs : List GReq) (n : ℕ) {r : Res} (hr : r.NoZero) :
    (c.lateLoad o qs n r).NoZero := by
  unfold Ctx.lateLoad
  split
  · split
    · exact hr
    · refine noZero_ordered _ _ ?_ fun s _ hs => ?_
      · exact hr
      · simpa using hs
  · exact hr

@[simp] theorem noZero_load {c : Ctx} (o : MemOps) (lr : Bool) (hz : NoZero c.s.lfsr) : (c.load o lr).NoZero := by
  unfold Ctx.load
  extract_lets n qs m
  have hh := passes_checkHome hz qs n false true m
  split
  · exact hz
  · split
    case h_1 hx => exact noZero_checkBounds hx
    case h_2 =>
      split
      case h_1 hx =>
        split
        · exact hh.error hx
        · exact noZero_lateLoad _ _ _ (hh.error hx)
      case h_2 hx =>
        exact noZero_ordered _ _ (hh.ok hx) fun s _ hs => by cases lr <;> simpa using hs

theorem outNoZero_execLd {o : MemOps} {s : State} (hz : NoZero s.lfsr) : OutNoZero (execLd o s) := outNoZero_issue hz _ fun c hc => by simp [hc]
theorem outNoZero_execLr {o : MemOps} {s : State} (hz : NoZero s.lfsr) : OutNoZero (execLr o s) := outNoZero_issue hz _ fun c hc => by simp [hc]

@[simp] theorem noZero_logEntry {c : Ctx} {s : State} (e : LogEnt) (hs : NoZero s.lfsr) : (c.logEntry s e).NoZero := by
  unfold Ctx.logEntry
  split <;> simp [hs]

theorem outNoZero_execSt {o : MemOps} {s : State} (hz : NoZero s.lfsr) : OutNoZero (execSt o s) := by
  refine outNoZero_issue hz _ fun c hc => ?_
  extract_lets n qs
  have hh := passes_checkHome hc qs n true true (memMark o)
  split
  · exact hc
  · split
    case h_1 hx => exact noZero_checkBounds hx
    case h_2 =>
      split
      case h_1 hx => exact hh.error hx
      case h_2 hx =>
        have hs := hh.ok hx
        split
        · exact noZero_ordered _ _ hs fun s _ hs => by simpa using hs
        · exact noZero_logEntry _ hs

@[simp] theorem noZero_atomGlob {c : Ctx} (o : MemOps) (ret : Bool) (hz : NoZero c.s.lfsr) : (c.atomGlob o ret).NoZero := by
  unfold Ctx.atomGlob
  extract_lets n qs
  have hh := passes_checkHome hz qs n true true (memAmark o)
  split
  case h_1 hx => exact noZero_checkBounds hx
  case h_2 =>
    split
    case h_1 hx => exact hh.error hx
    case h_2 hx =>
      have hs := hh.ok hx
      split
      · exact noZero_logEntry _ hs
      · exact noZero_ordered _ _ hs fun s _ hs => by cases ret <;> simpa using hs

@[simp] theorem noZero_atomPad {c : Ctx} (o : MemOps) (ret : Bool) (hz : NoZero c.s.lfsr) : (c.atomPad o ret).NoZero := by
  unfold Ctx.atomPad
  extract_lets n
  have hh := passes_checkPad hz c o.space (c.padReqs o) n n true true true (memAmark o)
  split
  · exact hz
  · split
    case h_1 hx => exact hh.error hx
    case h_2 hx =>
      refine noZero_ordered _ _ (hh.ok hx) fun s r hs => ?_
      extract_lets out p
      have ho : out.2.lfsr = s.lfsr := foldl_snd_lfsr (fun s a => by cases ret <;> simp) _ _
      cases ret <;> simpa [p, ho] using hs

theorem outNoZero_execAtom {o : MemOps} {s : State} (hz : NoZero s.lfsr) : OutNoZero (execAtom o s) := by
  refine outNoZero_issue hz _ fun c hc => ?_
  repeat' split
  all_goals simp [hc]

theorem outNoZero_execRed {o : MemOps} {s : State} (hz : NoZero s.lfsr) : OutNoZero (execRed o s) := by
  refine outNoZero_issue hz _ fun c hc => ?_
  repeat' split
  all_goals simp [hc]

theorem outNoZero_execSc {o : MemOps} {s : State} (hz : NoZero s.lfsr) : OutNoZero (execSc o s) := by
  refine outNoZero_issue hz _ fun c hc => ?_
  extract_lets n qs
  have hh := passes_checkHome hc qs n true true (memAmark o)
  split
  · exact hc
  · split
    case h_1 hx => exact noZero_checkBounds hx
    case h_2 =>
      split
      case h_1 hx => exact hh.error hx
      case h_2 hx => exact noZero_ordered _ _ (hh.ok hx) fun s _ hs => by simpa using hs

theorem outNoZero_execLds {o : MemOps} {s : State} (hz : NoZero s.lfsr) : OutNoZero (execLds o s) := by
  refine outNoZero_issue hz _ fun c hc => ?_
  extract_lets n
  have hh := passes_checkPad hc c o.space (c.padReqs o) n n true false true (memMark o)
  split
  · exact hc
  · split
    · exact hc
    · split
      case h_1 hx => exact hh.error hx
      case h_2 hx =>
        refine noZero_ordered _ _ (hh.ok hx) fun s r hs => ?_
        extract_lets out p
        have ho : out.2.lfsr = s.lfsr := foldl_snd_lfsr (fun s a => by simp) _ _
        simpa [p, ho] using hs

theorem outNoZero_execSts {o : MemOps} {s : State} (hz : NoZero s.lfsr) : OutNoZero (execSts o s) := by
  refine outNoZero_issue hz _ fun c hc => ?_
  extract_lets n
  have hh := passes_checkPad hc c o.space (c.padReqs o) n n false true true (memMark o)
  split
  · exact hc
  · split
    · exact hc
    · split
      case h_1 hx => exact hh.error hx
      case h_2 hx => exact noZero_ordered _ _ (hh.ok hx) fun s r hs => by simpa using hs

theorem outNoZero_execFence {h : Head} {scope : Scope} {order : Order} {s : State} (hz : NoZero s.lfsr) :
    OutNoZero (execFence h scope order s) := by
  refine outNoZero_issue hz _ fun c hc => ?_
  split
  · exact hc
  · split
    · exact hc
    · split
      · exact noZero_releaseThen hc fun s hs => by simpa using hs
      · simpa using hc

theorem outNoZero_execCommit {s : State} (hz : NoZero s.lfsr) : OutNoZero (execCommit s) := by
  unfold execCommit
  refine outNoZero_issue hz _ fun c hc => ?_
  split <;> simp [hc]

theorem outNoZero_execStag {o : MemOps} {s : State} (hz : NoZero s.lfsr) : OutNoZero (execStag o s) := by
  refine outNoZero_issue hz _ fun c hc => ?_
  extract_lets qs
  have hh := passes_checkHome hc qs 32 true false {}
  split
  · exact hc
  · split
    case h_1 hx => exact noZero_checkBounds hx
    case h_2 =>
      split
      case h_1 hx => exact hh.error hx
      case h_2 hx =>
        dsimp only
        split
        · simp
        · refine noZero_commitThen (hh.ok hx) fun s hs => ?_
          split <;> simpa using hs

theorem outNoZero_execLdtag {o : MemOps} {s : State} (hz : NoZero s.lfsr) : OutNoZero (execLdtag o s) := by
  refine outNoZero_issue hz _ fun c hc => ?_
  extract_lets qs
  have hh := passes_checkHome hc qs 32 false false {}
  split
  · exact hc
  · split
    case h_1 hx => exact noZero_checkBounds hx
    case h_2 =>
      split
      case h_1 hx => exact hh.error hx
      case h_2 hx => simpa using hh.ok hx

end Sys2Proof.Machine
end

section
/-! SUPPORT. What the functions of Machine/Matrix.lean leave of the generators. -/

namespace Sys2Proof.Machine

theorem noZero_postMma {s : State} (hs : NoZero s.lfsr) (c : Ctx) (pb fw tab entry : ℕ) (late : List Pend) :
    NoZero (c.postMma s pb fw tab entry late).lfsr := by
  unfold Ctx.postMma
  extract_lets parts holders sr n op s₁ s₂ s₃
  have hsr : NoZero sr.2.lfsr := by
    simp only [sr]
    split
    · exact noZero_srStep (c := { c with s := s }) hs _
    · exact hs
  simpa [s₃, s₂, s₁, n] using hsr

theorem outNoZero_execMma {o : DescOps} {s : State} (hz : NoZero s.lfsr) : OutNoZero (execMma o s) := by
  refine outNoZero_issue hz _ fun c hc => ?_
  extract_lets all fw
  have hd := passes_readDesc hc o.space (c.s.vreg (c.t 0) o.a.toNat).toNat 64 64 0
  split
  · exact hc
  · split
    · simp
    · split
      · simp
      · split
        · simp
        · split
          · simp
          · split
            case h_1 hx => exact hd.error hx
            case h_2 hx =>
              have hs := hd.ok hx
              split
              · simp
              · split
                · simp
                · dsimp only
                  split
                  · exact hs
                  · exact noZero_postMma hs _ _ _ _ _ _

@[simp] theorem State.mmaGiveUp_lfsr (s : State) (id code addr : ℕ) : (s.mmaGiveUp id code addr).lfsr = s.lfsr := by
  unfold State.mmaGiveUp
  split <;> simp

@[simp] theorem State.mmaLost_lfsr (s : State) (id code addr : ℕ) : (s.mmaLost id code addr).lfsr = s.lfsr := by
  unfold State.mmaLost
  split
  · rfl
  · rw [foldl_lfsr (fun s p => by dsimp only; split <;> simp), State.mmaGiveUp_lfsr]

@[simp] theorem State.mmaFault_lfsr (s : State) (id : ℕ) (o : Mma) (va : ℕ) (pages : List (ℕ × ℕ × Bool)) (full : Bool) :
    (s.mmaFault id o va pages full).lfsr = s.lfsr := by simp [State.mmaFault]

theorem State.mmaFills_lfsr {s t : State} {id : ℕ} {o : Mma} (hz : NoZero s.lfsr) (ht : s.mmaFills id o = some t) : NoZero t.lfsr := by
  unfold State.mmaFills at ht
  extract_lets cs core ts at ht
  split at ht
  · cases ht
  · split at ht
    case h_4 hx => cases ht; exact noZero_xfail hz hx
    case h_6 => split at ht <;> cases ht <;> simpa using hz
    all_goals cases ht; simpa using hz

@[simp] theorem State.mmaPorts_lfsr (s : State) (id : ℕ) (o : Mma) : (s.mmaPorts id o).lfsr = s.lfsr := by simp [State.mmaPorts]
@[simp] theorem arbVisit_lfsr (s : State) (e : ℕ × Mma) : (arbVisit s e).lfsr = s.lfsr := by simp [arbVisit]

theorem outNoZero_execArbiterGrant {die cluster : ℕ} {s : State} (hz : NoZero s.lfsr) : OutNoZero (execArbiterGrant die cluster s) := by
  simp [execArbiterGrant, hz]

theorem outNoZero_execMmaPassEnd {op : ℕ} {s : State} (hz : NoZero s.lfsr) : OutNoZero (execMmaPassEnd op s) := by
  unfold execMmaPassEnd
  split
  · simpa using hz
  · split
    · simpa using hz
    · split
      case h_1 hx => simpa using State.mmaFills_lfsr hz hx
      case h_2 =>
        dsimp only
        repeat' split
        all_goals simpa using hz

@[simp] theorem State.markBanks_lfsr (s : State) (core first cnt : ℕ) : (s.markBanks core first cnt).lfsr = s.lfsr := by simp [State.markBanks]
@[simp] theorem State.setAcc_lfsr (s : State) (core first w : ℕ) (v : Word) : (s.setAcc core first w v).lfsr = s.lfsr := by simp [State.setAcc]

theorem outNoZero_execMmaComplete {op : ℕ} {s : State} (hz : NoZero s.lfsr) : OutNoZero (execMmaComplete op s) := by
  unfold execMmaComplete
  dsimp only
  repeat' split
  all_goals simp [hz]

theorem outNoZero_execMmaRetry {op : ℕ} {s : State} (hz : NoZero s.lfsr) : OutNoZero (execMmaRetry op s) := by
  unfold execMmaRetry
  dsimp only
  repeat' split
  all_goals simp [hz]

theorem outNoZero_execMwait {s : State} (hz : NoZero s.lfsr) : OutNoZero (execMwait s) := by
  unfold execMwait
  refine outNoZero_issue hz _ fun c hc => ?_
  dsimp only
  repeat' split
  all_goals simp [hc]

theorem outNoZero_execMfence {s : State} (hz : NoZero s.lfsr) : OutNoZero (execMfence s) := by
  refine outNoZero_issue hz _ fun c hc => ?_
  repeat' split
  all_goals simpa using hc

@[simp] theorem State.giveBanks_lfsr (s : State) (bk ctx first n : ℕ) : (s.giveBanks bk ctx first n).lfsr = s.lfsr := by simp [State.giveBanks]

theorem outNoZero_execAalloc {o : RegOps} {s : State} (hz : NoZero s.lfsr) : OutNoZero (execAalloc o s) := by
  unfold execAalloc
  refine outNoZero_issue hz _ fun c hc => ?_
  dsimp only
  repeat' split
  all_goals simp [hc]

theorem passes_oneHandle (c : Ctx) (h : ℕ) : Passes (fun _ => True) (c.oneHandle h) := by
  unfold Ctx.oneHandle
  repeat' split
  all_goals simp

theorem outNoZero_execAfree {o : RegOps} {s : State} (hz : NoZero s.lfsr) : OutNoZero (execAfree o s) := by
  refine outNoZero_issue hz _ fun c hc => ?_
  split
  · exact hc
  · split
    case h_1 hx => exact (passes_oneHandle c _).error hx
    case h_2 =>
      dsimp only
      repeat' split
      case isFalse.isTrue => exact noZero_commitThen hc fun s hs => hs
      all_goals exact hc

theorem passes_accLanes (c : Ctx) (h off : ℕ → ℕ) : Passes (fun _ => True) (c.accLanes h off) := by
  unfold Ctx.accLanes
  extract_lets
  repeat' split
  all_goals simp

theorem outNoZero_execAccr {o : RegOps} {s : State} (hz : NoZero s.lfsr) : OutNoZero (execAccr o s) := by
  refine outNoZero_issue hz _ fun c hc => ?_
  split
  case h_1 hx => exact (passes_accLanes c ..).error hx
  case h_2 => simpa using hc

theorem outNoZero_execAccw {o : RegOps} {s : State} (hz : NoZero s.lfsr) : OutNoZero (execAccw o s) := by
  refine outNoZero_issue hz _ fun c hc => ?_
  split
  case h_1 hx => exact (passes_accLanes c ..).error hx
  case h_2 => simpa using hc

@[simp] theorem State.zeroBanks_lfsr (s : State) (core : ℕ) (r : ℕ × ℕ) : (s.zeroBanks core r).lfsr = s.lfsr := by simp [State.zeroBanks]

theorem outNoZero_execAccz {o : RegOps} {s : State} (hz : NoZero s.lfsr) : OutNoZero (execAccz o s) := by
  refine outNoZero_issue hz _ fun c hc => ?_
  split
  · exact hc
  · split
    case h_1 hx => exact (passes_oneHandle c _).error hx
    case h_2 => simpa using hc

theorem passes_accRun (c : Ctx) (o : MemOps) : Passes (fun _ => True) (c.accRun o) := by
  unfold Ctx.accRun
  dsimp only
  repeat' split
  all_goals simp

theorem noZero_accBounds {c : Ctx} {q : GReq} {n : ℕ} {perm : ℕ → Bool} {r : Res} (hr : c.accBounds q n perm = some r) : r.NoZero := by
  unfold Ctx.accBounds at hr
  dsimp only at hr
  repeat' split at hr
  all_goals simp at hr
  all_goals subst hr; simp

theorem noZero_accHome {c : Ctx} (hz : NoZero c.s.lfsr) {q : GReq} {n : ℕ} {r : Res} (hr : c.accHome q n = some r) : r.NoZero := by
  unfold Ctx.accHome at hr
  obtain ⟨r', hr', rfl⟩ := Option.map_eq_some_iff.mp hr
  have := noZero_elemChecks hz hr'
  split
  · simp
  · exact this

theorem outNoZero_execAccst {o : MemOps} {s : State} (hz : NoZero s.lfsr) : OutNoZero (execAccst o s) := by
  refine outNoZero_issue hz _ fun c hc => ?_
  split
  · exact hc
  · split
    case h_1 hx => exact (passes_accRun c o).error hx
    case h_2 =>
      split
      · dsimp only
        split
        case h_1 hx =>
          rcases Option.or_eq_some_iff.mp hx with hb | ⟨_, hh⟩
          · exact noZero_accBounds hb
          · exact noZero_accHome hc hh
        case h_2 => exact noZero_logEntry _ hc
      · split
        · exact hc
        · split
          case h_1 hx => exact (passes_checkPad hc ..).error hx
          case h_2 hx => simpa using (passes_checkPad hc ..).ok hx

@[simp] theorem State.loadBanks_lfsr (s : State) (core first n v : ℕ) : (s.loadBanks core first n v).lfsr = s.lfsr := by simp [State.loadBanks]

theorem outNoZero_execAccld {o : MemOps} {s : State} (hz : NoZero s.lfsr) : OutNoZero (execAccld o s) := by
  refine outNoZero_issue hz _ fun c hc => ?_
  split
  · exact hc
  · split
    case h_1 hx => exact (passes_accRun c o).error hx
    case h_2 =>
      dsimp only
      split
      · split
        case h_1 hx => exact noZero_accBounds hx
        case h_2 =>
          split
          case h_1 => simp
          case h_2 hx => exact (passes_checkHome hc ..).error hx
          case h_3 hx => simpa using (passes_checkHome hc ..).ok hx
      · split
        · exact hc
        · split
          case h_1 hx => exact (passes_checkPad hc ..).error hx
          case h_2 hx => simpa using (passes_checkPad hc ..).ok hx

end Sys2Proof.Machine
end

section
/-! SUPPORT. What the functions of Machine/Copy.lean leave of the generators. -/

namespace Sys2Proof.Machine

theorem noZero_runBad {c : Ctx} (hz : NoZero c.s.lfsr) {r n : ℕ} {x : Res} (hx : c.runBad r n = some x) : x.NoZero := by
  unfold Ctx.runBad at hx
  dsimp only at hx
  repeat' split at hx
  all_goals simp at hx
  all_goals subst hx; simp [hz]

@[simp] theorem noZero_postCopy {c : Ctx} {s : State} (kind d entry : ℕ) (orig : List Word) (targets : List ℕ) (hs : NoZero s.lfsr) :
    (c.postCopy s kind d entry orig targets).NoZero := by
  unfold Ctx.postCopy
  dsimp only
  repeat' split
  all_goals simp [hs]

@[simp] theorem noZero_copyIssue {c : Ctx} (o : DescOps) (kind : ℕ) (hz : NoZero c.s.lfsr) : (c.copyIssue o kind).NoZero := by
  unfold Ctx.copyIssue
  split
  · exact hz
  · split
    · exact hz
    · split
      case h_1 hx => exact (passes_readDesc hz ..).error hx
      case h_2 hx =>
        have hs := (passes_readDesc hz ..).ok hx
        dsimp only
        split
        case h_1 hx => exact noZero_runBad hs hx
        case h_2 =>
          split
          · simp
          · split
            · split <;> simp
            · split
              · simp
              · exact noZero_postCopy _ _ _ _ _ hs

theorem outNoZero_execCpbox {o : DescOps} {s : State} (hz : NoZero s.lfsr) : OutNoZero (execCpbox o s) :=
  outNoZero_issue hz _ fun c hc => by simp [hc]

theorem outNoZero_execCpred {o : DescOps} {s : State} (hz : NoZero s.lfsr) : OutNoZero (execCpred o s) :=
  outNoZero_issue hz _ fun c hc => by simp [hc]

theorem outNoZero_execTmov {o : DescOps} {s : State} (hz : NoZero s.lfsr) : OutNoZero (execTmov o s) := outNoZero_issue hz _ fun c hc => by simp [hc]

theorem State.padTouch_keeps (s : State) (cp : Copy) (l : Space) (base pa n : ℕ) (write : Bool) :
    Keeps s.lfsr id (s.padTouch cp l base pa n write) := by
  unfold State.padTouch
  split
  · simp
  · split
    · split <;> simp
    · split <;> simp

theorem State.globTouch_keeps (s : State) (cp : Copy) (va n : ℕ) (write : Bool) :
    Keeps s.lfsr (·.1) (s.globTouch cp va n write) := by
  unfold State.globTouch
  split
  · dsimp only
    repeat' split
    all_goals simp
  · simp

@[simp] theorem State.padPut_lfsr (s : State) (cp : Copy) (l : Space) (pa e v : ℕ) : (s.padPut cp l pa e v).lfsr = s.lfsr := by simp [State.padPut]

theorem State.farRead_keeps (s : State) (cp : Copy) (a : ℤ) : Keeps s.lfsr (·.1) (s.farRead cp a) := by
  unfold State.farRead
  dsimp only
  split
  · split
    case h_1 hx => exact (State.globTouch_keeps ..).error hx
    case h_2 hx =>
      have hs := (State.globTouch_keeps ..).ok hx
      split <;> simpa using hs
  · split
    case h_1 hx => exact (State.padTouch_keeps ..).error hx
    case h_2 hx =>
      have hs := (State.padTouch_keeps ..).ok hx
      split <;> simpa using hs

@[simp] theorem State.aliasWrite_lfsr (s : State) (cp : Copy) (actx pa v : ℕ) : (s.aliasWrite cp actx pa v).lfsr = s.lfsr := by
  simp [State.aliasWrite]

theorem State.farWrite_keeps (s : State) (cp : Copy) (a : ℤ) (v : ℕ) : Keeps s.lfsr id (s.farWrite cp a v) := by
  unfold State.farWrite
  extract_lets d e
  split
  · split
    case h_1 hx => exact (State.globTouch_keeps ..).error hx
    case h_2 hx =>
      have hs := (State.globTouch_keeps ..).ok hx
      split
      · simpa using hs
      · extract_lets comb w s₁ s₂
        split
        · exact hs
        · split
          · exact hs
          · simpa [s₂, s₁] using hs
  · split
    case h_1 hx => exact (State.padTouch_keeps ..).error hx
    case h_2 hx => simpa using (State.padTouch_keeps ..).ok hx

theorem State.nearWrite_keeps (cp : Copy) (n v : ℕ) (bs : List (ℕ × ℕ)) (s : State) : Keeps s.lfsr id (State.nearWrite cp n v bs s) := by
  induction bs generalizing s with
  | nil => rfl
  | cons b bs ih =>
    unfold State.nearWrite
    dsimp only
    split
    case h_1 hx => exact (State.padTouch_keeps ..).error hx
    case h_2 s' hx =>
      have hs : s'.lfsr = s.lfsr := (State.padTouch_keeps ..).ok hx
      simpa [hs] using ih (s'.padPut cp (cpSlvl cp.desc.toNat) (b.2 + nearOff cp.desc.toNat n) (cpE cp.desc.toNat) v)

theorem State.copyElement_keeps (s : State) (cp : Copy) (n : ℕ) : Keeps s.lfsr id (s.copyElement cp n) := by
  unfold State.copyElement
  extract_lets d fo bases
  clear_value fo
  cases fo with
  | none =>
    dsimp only
    split
    · rfl
    · exact State.nearWrite_keeps ..
  | some a =>
    dsimp only
    split
    · split
      case h_1 hx => exact (State.padTouch_keeps ..).error hx
      case h_2 s' hx =>
        have hs : s'.lfsr = s.lfsr := (State.padTouch_keeps ..).ok hx
        split
        · simpa using hs
        · rw [← hs]; exact State.farWrite_keeps ..
    · split
      case h_1 hx => exact (State.farRead_keeps ..).error hx
      case h_2 s' v hx =>
        have hs : s'.lfsr = s.lfsr := (State.farRead_keeps ..).ok hx
        rw [← hs]; exact State.nearWrite_keeps ..

@[simp] theorem State.copyElements_lfsr (cp : Copy) (ns : List ℕ) (s : State) : (State.copyElements cp ns s).1.lfsr = s.lfsr := by
  induction ns generalizing s with
  | nil => rfl
  | cons n ns ih =>
    unfold State.copyElements
    split
    case h_1 hx => rw [ih]; exact (State.copyElement_keeps ..).ok hx
    case h_2 hx => exact (State.copyElement_keeps ..).error hx

@[simp] theorem State.copyDone_lfsr (s : State) (id : ℕ) (cp : Copy) : (s.copyDone id cp).lfsr = s.lfsr := by
  unfold State.copyDone
  dsimp only
  repeat' split
  all_goals simp

@[simp] theorem State.copyLost_lfsr (s : State) (id : ℕ) (cp : Copy) (code addr : ℕ) : (s.copyLost id cp code addr).lfsr = s.lfsr := by
  simp [State.copyLost]

@[simp] theorem State.copyFault_lfsr (s : State) (id : ℕ) (cp : Copy) (va : ℕ) (x : XRes) (write : Bool) :
    (s.copyFault id cp va x write).lfsr = s.lfsr := by simp [State.copyFault]

theorem outNoZero_execCopyComplete {op : ℕ} {s : State} (hz : NoZero s.lfsr) : OutNoZero (execCopyComplete op s) := by
  unfold execCopyComplete
  dsimp only
  repeat' split
  all_goals simp [hz]

theorem outNoZero_execCopySlotClaim {c : CoreId} {buf : ℕ} {s : State} (hz : NoZero s.lfsr) : OutNoZero (execCopySlotClaim c buf s) := by
  unfold execCopySlotClaim
  dsimp only
  repeat' split
  all_goals simp [hz]

end Sys2Proof.Machine
end

section
/-! SUPPORT. What the functions of Machine/Directory.lean leave of the generators. -/

namespace Sys2Proof.Machine

@[simp] theorem State.flushRecl_lfsr (ctx : ℕ) (rs : List (ℕ × BitVec 256)) (s : State) : (State.flushRecl ctx rs s).lfsr = s.lfsr := by
  induction rs generalizing s with
  | nil => rfl
  | cons r rs ih =>
    unfold State.flushRecl
    split
    · rfl
    · rw [ih]; simp

@[simp] theorem State.drainRecl_lfsr (s : State) (ctx : ℕ) : (s.drainRecl ctx).lfsr = s.lfsr := by
  unfold State.drainRecl
  split <;> simp

@[simp] theorem State.putDir_lfsr (s : State) (e : ℕ) (v : BitVec 256) : (s.putDir e v).lfsr = s.lfsr := by simp [State.putDir]
@[simp] theorem State.reclaim_lfsr (s : State) (e : ℕ) : (s.reclaim e).lfsr = s.lfsr := by simp [State.reclaim]
@[simp] theorem State.setRefs_lfsr (s : State) (e refs : ℕ) : (s.setRefs e refs).lfsr = s.lfsr := by simp [State.setRefs]

@[simp] theorem State.unbindName_lfsr (s : State) (ctx name : ℕ) : (s.unbindName ctx name).1.lfsr = s.lfsr := by
  unfold State.unbindName
  split <;> simp

@[simp] theorem State.openEnt_lfsr (s : State) (g e : ℕ) : (s.openEnt g e).2.2.lfsr = s.lfsr := by
  unfold State.openEnt
  dsimp only
  repeat' split
  all_goals simp

@[simp] theorem State.closeHandle_lfsr (s : State) (g i : ℕ) (h : Handle) : (s.closeHandle g i h).lfsr = s.lfsr := by simp [State.closeHandle]
@[simp] theorem State.closeHandles_lfsr (s : State) (g : ℕ) : (s.closeHandles g).lfsr = s.lfsr := by simp [State.closeHandles]

@[simp] theorem Ctx.openLane_lfsr (c : Ctx) (s : State) (wait : Bool) (l name until' : ℕ) :
    (c.openLane s wait l name until').1.lfsr = s.lfsr := by
  unfold Ctx.openLane
  dsimp only
  repeat' split
  all_goals simp

@[simp] theorem Ctx.openOut_lfsr (c : Ctx) (s : State) (o : RegOps) (rs : List Opened) : (c.openOut s o rs).lfsr = s.lfsr := by simp [Ctx.openOut]

@[simp] theorem Ctx.openAll_lfsr (c : Ctx) (o : RegOps) (wait : Bool) : (c.openAll o wait).1.lfsr = c.s.lfsr := by
  refine foldl_fst_lfsr (fun s l => ?_) _ _
  dsimp only
  split <;> simp

theorem outNoZero_execDopen {o : RegOps} {s : State} (hz : NoZero s.lfsr) : OutNoZero (execDopen o s) := by
  unfold execDopen
  refine outNoZero_issue hz _ fun c hc => ?_
  split <;> simp [hc]

theorem outNoZero_execDopenW {o : RegOps} {s : State} (hz : NoZero s.lfsr) : OutNoZero (execDopenW o s) := by
  unfold execDopenW
  refine outNoZero_issue hz _ fun c hc => ?_
  dsimp only
  repeat' split
  all_goals simp [hc]

theorem outNoZero_execDopenTimeout {f : FloeId} {lane : ℕ} {s : State} (hz : NoZero s.lfsr) : OutNoZero (execDopenTimeout f lane s) := by
  unfold execDopenTimeout
  dsimp only
  repeat' split
  all_goals simp [hz]

@[simp] theorem State.wakeOne_lfsr (s : State) (ctx name e die gid : ℕ) (w : Wait) : (s.wakeOne ctx name e die gid w).1.lfsr = s.lfsr := by
  unfold State.wakeOne
  split
  · split
    · rfl
    · exact foldl_fst_lfsr (fun s q => by split <;> simp) _ _
  · rfl

@[simp] theorem State.wakeTab_lfsr (s : State) (ctx name e : ℕ) (key grid : ℕ → ℕ) (t : Tab Floe) :
    (s.wakeTab ctx name e key grid t).1.lfsr = s.lfsr :=
  foldl_fst_lfsr (fun s x => by simp) _ _

@[simp] theorem State.wakeOpens_lfsr (s : State) (ctx name e : ℕ) : (s.wakeOpens ctx name e).lfsr = s.lfsr := by
  unfold State.wakeOpens
  simp [foldl_fst_lfsr]

theorem outNoZero_execDclose {o : RegOps} {s : State} (hz : NoZero s.lfsr) : OutNoZero (execDclose o s) := by
  refine outNoZero_issue hz _ fun c hc => ?_
  dsimp only
  rw [Res.noZero_done, foldl_lfsr (fun s l => by split <;> simp)]
  exact hc

theorem outNoZero_execDptr {o : RegOps} {s : State} (hz : NoZero s.lfsr) : OutNoZero (execDptr o s) := outNoZero_issue hz _ fun c hc => by simp [hc]

theorem outNoZero_execDquery {o : RegOps} {sel : BitVec 3} {s : State} (hz : NoZero s.lfsr) : OutNoZero (execDquery o sel s) :=
  outNoZero_issue hz _ fun c hc => by simp [hc]

@[simp] theorem State.bindRec_lfsr (s : State) (ctx : ℕ) (srec : Option ℕ) (r : BRec) : (s.bindRec ctx srec r).lfsr = s.lfsr := by
  unfold State.bindRec
  dsimp only
  repeat' split
  all_goals simp

@[simp] theorem State.bindRecs_lfsr (s : State) (ctx : ℕ) (srec : Option ℕ) (rs : List BRec) : (s.bindRecs ctx srec rs).lfsr = s.lfsr := by
  simp [State.bindRecs]

theorem passes_bindRead {c : Ctx} {s : State} (hs : NoZero s.lfsr) (ptr va n al : ℕ) : Passes (fun _ => True) (c.bindRead s ptr va n al) := by
  unfold Ctx.bindRead
  dsimp only
  repeat' split
  case h_2 hx => exact noZero_xfail hs hx
  all_goals simp [hs]

theorem outNoZero_execDbind {o : MemOps} {s : State} (hz : NoZero s.lfsr) : OutNoZero (execDbind o s) := by
  refine outNoZero_issue hz _ fun c hc => ?_
  split
  · exact hc
  · refine noZero_releaseThen hc fun s hs => ?_
    dsimp only
    split
    case h_1 hx => exact (passes_bindRead hs ..).error hx
    case h_2 =>
      split
      · simp
      · simpa using hs

theorem outNoZero_execDunbind {o : RegOps} {s : State} (hz : NoZero s.lfsr) : OutNoZero (execDunbind o s) := by
  refine outNoZero_issue hz _ fun c hc => ?_
  split
  · exact hc
  · refine noZero_releaseThen hc fun s hs => ?_
    dsimp only
    split
    case h_1 hx => exact (passes_bindRead hs ..).error hx
    case h_2 => simpa using hs

end Sys2Proof.Machine
end

section
/-! SUPPORT. What the functions of Machine/Place.lean leave of the generators. -/

namespace Sys2Proof.Machine

@[simp] theorem State.wake_lfsr (s : State) : s.wake.lfsr = s.lfsr := by simp [State.wake]
@[simp] theorem State.wakeDie_lfsr (s : State) (die : ℕ) : (s.wakeDie die).lfsr = s.lfsr := by simp [State.wakeDie]
@[simp] theorem State.scrub_lfsr (s : State) (l : Space) (pa n bk : ℕ) : (s.scrub l pa n bk).lfsr = s.lfsr := by simp [State.scrub]

theorem assignThreads_lfsr {core s0 win blkr : ℕ} {ts : List ℕ} {s : State} {ks : List ℕ} {r : State × List ℕ}
    (hr : assignThreads core s0 win blkr ts s ks = some r) : r.1.lfsr = s.lfsr := by
  induction ts generalizing s ks with
  | nil => cases hr; rfl
  | cons t ts ih =>
    unfold assignThreads at hr
    dsimp only at hr
    split at hr
    · cases hr
    · rw [ih hr, State.setThread_lfsr]

theorem noZero_startBlock {s : State} (hz : NoZero s.lfsr) {gid core index drift drf clusBase : ℕ} {recs : List ℕ} {r : State × ℕ}
    (hr : s.startBlock gid core index drift drf clusBase recs = some r) : NoZero r.1.lfsr := by
  unfold State.startBlock at hr
  extract_lets g now at hr
  split at hr
  · extract_lets bk at hr
    split at hr
    · cases hr
    case h_2 u ks hx =>
      have hu : NoZero u.lfsr := by rw [assignThreads_lfsr hx]; exact hz
      extract_lets id s₁ s₂ s₃ s₄ s₅ floes s₆ s₇ x at hr
      have h₂ : NoZero s₂.lfsr := by
        simp only [s₂]
        split
        · exact noZero_foldl (fun s i h => noZero_setLfsr h _ _) _ (by simpa [s₁, id] using hu)
        · simpa [s₁, id] using hu
      cases hr
      simpa [s₇, s₆, s₅, s₄, s₃] using h₂
  · cases hr

@[simp] theorem State.gridStarted_lfsr (s : State) (gid die : ℕ) : (s.gridStarted gid die).lfsr = s.lfsr := by simp [State.gridStarted]

theorem State.grantDie_lfsr {s : State} {gid die : ℕ} {r : State × Bool} (hr : s.grantDie gid die = some r) : r.1.lfsr = s.lfsr := by
  unfold State.grantDie at hr
  dsimp only at hr
  split at hr
  · cases hr; rfl
  · obtain ⟨b, _, rfl⟩ := Option.map_eq_some_iff.mp hr
    simp

theorem noZero_startDrift {gid drift clusBase : ℕ} {cs : List (ℕ × ℕ)} {s : State} {bks : List ℕ} (hz : NoZero s.lfsr)
    {r : State × List ℕ} (hr : startDrift gid drift clusBase cs s bks = some r) : NoZero r.1.lfsr := by
  induction cs generalizing s bks with
  | nil => cases hr; exact hz
  | cons p cs ih =>
    unfold startDrift at hr
    split at hr
    · cases hr
    case h_2 hx => exact ih (noZero_startBlock hz hx) hr

theorem noZero_placeDrift {s : State} (hz : NoZero s.lfsr) {gid die drift : ℕ} {t : State} (ht : s.placeDrift gid die drift = some t) :
    NoZero t.lfsr := by
  unfold State.placeDrift at ht
  split at ht
  · cases ht
  case h_2 u fresh hx =>
    have hu : NoZero u.lfsr := by rw [State.grantDie_lfsr hx]; exact hz
    dsimp only at ht
    split at ht
    · cases ht
    · split at ht
      · cases ht
      · split at ht
        · cases ht
        case h_2 hy =>
          have hv := noZero_startDrift hu hy
          cases ht
          simpa using hv

theorem State.round_lfsr {s t : State} {gid : ℕ} {busy : Bool} (ht : s.round gid busy = some t) : t.lfsr = s.lfsr := by
  unfold State.round at ht
  dsimp only at ht
  repeat' split at ht
  all_goals cases ht
  all_goals simp

theorem noZero_placeNext {s : State} (hz : NoZero s.lfsr) {gid die : ℕ} {t : State} (ht : s.placeNext gid die = some t) :
    NoZero t.lfsr := by
  unfold State.placeNext at ht
  split at ht
  · cases ht
  · obtain ⟨u, hu, rfl⟩ := Option.map_eq_some_iff.mp ht
    simpa using noZero_placeDrift hz hu

theorem noZero_placeAll (gid n : ℕ) {s : State} (hz : NoZero s.lfsr) : NoZero (State.placeAll gid n s).lfsr := by
  induction n generalizing s with
  | zero => exact hz
  | succ n ih =>
    unfold State.placeAll
    split
    case h_1 hx =>
      obtain ⟨d, _, hd⟩ := List.exists_of_findSome?_eq_some hx
      exact ih (noZero_placeNext hz hd)
    case h_2 => exact hz

theorem noZero_placeLeft {gid : ℕ} {ds : List ℕ} {s : State} (hz : NoZero s.lfsr) {t : State} (ht : State.placeLeft gid ds s = some t) :
    NoZero t.lfsr := by
  induction ds generalizing s with
  | nil => cases ht; exact hz
  | cons d ds ih =>
    unfold State.placeLeft at ht
    split at ht
    case h_1 hx =>
      obtain ⟨die, _, hd⟩ := List.exists_of_findSome?_eq_some hx
      split at hd
      · exact ih (noZero_placeDrift hz hd) ht
      · cases hd
    case h_2 => cases ht

theorem noZero_placeTogether {gid n : ℕ} {s : State} (hz : NoZero s.lfsr) {t : State} (ht : State.placeTogether gid n s = some t) :
    NoZero t.lfsr := by
  induction n generalizing s with
  | zero => cases ht
  | succ n ih =>
    unfold State.placeTogether at ht
    split at ht
    case h_1 hx => exact ih (noZero_placeAll _ _ (by rw [State.round_lfsr hx]; exact hz)) ht
    case h_2 => exact noZero_placeLeft (by simpa using hz) ht

theorem noZero_together {s : State} (hz : NoZero s.lfsr) {gid : ℕ} {t : State} (ht : s.together gid = some t) : NoZero t.lfsr :=
  noZero_placeTogether hz ht

end Sys2Proof.Machine
end

section
/-! SUPPORT. What the functions of Machine/Launch.lean leave of the generators. -/

namespace Sys2Proof.Machine

@[simp] theorem State.dropLaunch_lfsr (s : State) (ctx : ℕ) : (s.dropLaunch ctx).lfsr = s.lfsr := by simp [State.dropLaunch]
@[simp] theorem State.cleared_lfsr (s : State) (out : ℕ → Bool) : (s.cleared out).lfsr = s.lfsr := by simp [State.cleared]
@[simp] theorem State.emptied_lfsr (s : State) (gid : ℕ) : (s.emptied gid).lfsr = s.lfsr := by simp [State.emptied]
@[simp] theorem State.acceptLaunch_lfsr (s : State) (ctx : ℕ) (r : BitVec 512) : (s.acceptLaunch ctx r).lfsr = s.lfsr := by simp [State.acceptLaunch]

theorem outNoZero_execLaunchRecord {page : ℕ} {pasid : BitVec 20} {size : ℕ} {data : BitVec 512} {s : State} (hz : NoZero s.lfsr) :
    OutNoZero (execLaunchRecord page pasid size data s) := by
  unfold execLaunchRecord
  repeat' split
  all_goals simp [hz]

theorem outNoZero_execDeviceSideLaunch {n : ℕ} {s : State} (hz : NoZero s.lfsr) : OutNoZero (execDeviceSideLaunch n s) := by
  unfold execDeviceSideLaunch
  dsimp only
  repeat' split
  all_goals simp [hz]

theorem outNoZero_execDriftDistribution {gid : ℕ} {s : State} (hz : NoZero s.lfsr) : OutNoZero (execDriftDistribution gid s) := by
  unfold execDriftDistribution
  dsimp only
  repeat' split
  · exact outNoZero_next.mpr hz
  · exact outNoZero_next.mpr (noZero_getD (fun t ht => noZero_together hz ht) hz)
  · exact outNoZero_next.mpr (noZero_getD (fun t ht => by rw [State.round_lfsr ht]; exact hz) hz)

theorem outNoZero_execBlockPlace {gid die : ℕ} {s : State} (hz : NoZero s.lfsr) : OutNoZero (execBlockPlace gid die s) := by
  unfold execBlockPlace
  split
  · exact outNoZero_next.mpr (noZero_getD (fun t ht => noZero_placeNext hz ht) hz)
  · exact outNoZero_next.mpr hz

theorem outNoZero_execShareScrubComplete {n : ℕ} {s : State} (hz : NoZero s.lfsr) : OutNoZero (execShareScrubComplete n s) := by
  unfold execShareScrubComplete
  dsimp only
  repeat' split
  all_goals simp [hz]

theorem outNoZero_execGridEnd {gid : ℕ} {s : State} (hz : NoZero s.lfsr) : OutNoZero (execGridEnd gid s) := by
  unfold execGridEnd
  dsimp only
  repeat' split
  all_goals simp [hz]

theorem outNoZero_execGridEndByHost {gid : ℕ} {s : State} (hz : NoZero s.lfsr) : OutNoZero (execGridEndByHost gid s) := by
  unfold execGridEndByHost
  dsimp only
  repeat' split
  all_goals simp [hz]

@[simp] theorem State.beginPreempt_lfsr (s : State) (ctx : ℕ) : (s.beginPreempt ctx).lfsr = s.lfsr := by simp [State.beginPreempt]
@[simp] theorem State.savePiece_lfsr (s : State) (ctx : ℕ) (p : SavePiece) : (s.savePiece ctx p).lfsr = s.lfsr := by simp [State.savePiece]

@[simp] theorem State.loadPiece_lfsr (s : State) (ctx : ℕ) (p : SavePiece) : (s.loadPiece ctx p).lfsr = s.lfsr := by
  unfold State.loadPiece
  split <;> simp

@[simp] theorem State.finishPreempt_lfsr (s : State) (ctx : ℕ) : (s.finishPreempt ctx).lfsr = s.lfsr := by simp [State.finishPreempt]

theorem outNoZero_execContextPreempt {ctx : ℕ} {s : State} (hz : NoZero s.lfsr) : OutNoZero (execContextPreempt ctx s) := by
  unfold execContextPreempt
  repeat' split
  all_goals simp [hz]

theorem outNoZero_execPreempt {ctx : ℕ} {value : BitVec 64} {s : State} (hz : NoZero s.lfsr) : OutNoZero (execPreempt ctx value s) := by
  unfold execPreempt
  split <;> simp [hz]

@[simp] theorem State.dropStale_lfsr (s : State) (bk : ℕ) : (s.dropStale bk).lfsr = s.lfsr := by simp [State.dropStale]
@[simp] theorem State.shiftTimers_lfsr (s : State) (bk d : ℕ) : (s.shiftTimers bk d).lfsr = s.lfsr := by simp [State.shiftTimers]

@[simp] theorem State.goAgain_lfsr (s : State) (bk : ℕ) : (s.goAgain bk).lfsr = s.lfsr := by
  unfold State.goAgain
  dsimp only
  repeat' split
  all_goals simp

@[simp] theorem State.unstop_lfsr (s : State) (bk : ℕ) (ends : List ℕ) : (s.unstop bk ends).lfsr = s.lfsr := by
  unfold State.unstop
  dsimp only
  repeat' split
  all_goals simp

end Sys2Proof.Machine
end

section
/-! SUPPORT. What the functions of Machine/Pci.lean leave of the generators. -/

namespace Sys2Proof.Machine

@[simp] theorem State.writeCfg_lfsr (s : State) (off : ℕ) (v : Word) : (s.writeCfg off v).lfsr = s.lfsr := by simp [State.writeCfg]

end Sys2Proof.Machine
end

section
/-! SUPPORT. What the functions of Machine/Fault.lean leave of the generators. -/

namespace Sys2Proof.Machine

@[simp] theorem State.lateTrap_lfsr (s : State) (k : ℕ) (l : Late) (code : ℕ) (lanes : List ℕ) (addr : ℕ) :
    (s.lateTrap k l code lanes addr).lfsr = s.lfsr := by
  unfold State.lateTrap
  dsimp only
  repeat' split
  all_goals simp

theorem noZero_walkLate {s : State} (hz : NoZero s.lfsr) (k : ℕ) (l : Late) : NoZero (s.walkLate k l).lfsr := by
  unfold State.walkLate
  split
  · exact hz
  · extract_lets bk c
    have hh := passes_checkHome (c := c) hz (l.reqs.map fun q => ⟨q.1, q.2.1, q.2.2⟩) l.n false true l.mark
    split
    · exact hz
    · split
      case h_1 hx => simpa using hh.ok hx
      case h_2 hx =>
        have hs := hh.error hx
        dsimp only
        split
        · exact hs
        · simpa using hs
      case h_3 hx => exact hh.error hx
      all_goals simpa using hz

theorem outNoZero_execTlbWalkComplete {c : CoreId} {ctx va : ℕ} {write : Bool} {s : State} (hz : NoZero s.lfsr) :
    OutNoZero (execTlbWalkComplete c ctx va write s) := by
  unfold execTlbWalkComplete
  extract_lets core t
  have ht : NoZero t.lfsr := by
    simp only [t]
    split
    · simpa using hz
    · exact hz
  split
  · simpa using ht
  · simpa using noZero_walkLate ht _ _

theorem outNoZero_execPageRequestGroupSend {die ctx : ℕ} {s : State} (hz : NoZero s.lfsr) :
    OutNoZero (execPageRequestGroupSend die ctx s) := by
  unfold execPageRequestGroupSend
  extract_lets g pasid used
  split
  · simpa using hz
  · split
    · simpa using hz
    · rw [outNoZero_next]
      dsimp only
      rw [foldl_lfsr (fun s e => State.send_lfsr ..)]
      exact hz

@[simp] theorem State.pageBadFloe_lfsr (s : State) (k code ecode : ℕ) (vas : List (ℕ × ℕ × ℕ)) (ans : List PKey) (entry : Bool) :
    (s.pageBadFloe k code ecode vas ans entry).lfsr = s.lfsr := by
  unfold State.pageBadFloe
  dsimp only
  repeat' split
  all_goals simp

@[simp] theorem State.workGood_lfsr (s : State) (die : ℕ) (ans : List PKey) : (s.workGood die ans).lfsr = s.lfsr := by simp [State.workGood]
@[simp] theorem State.pagesGood_lfsr (s : State) (die : ℕ) (ans : List PKey) : (s.pagesGood die ans).lfsr = s.lfsr := by simp [State.pagesGood]

@[simp] theorem State.workBad_lfsr (s : State) (die : ℕ) (ans : List PKey) (code ecode : ℕ) :
    (s.workBad die ans code ecode).lfsr = s.lfsr := by simp [State.workBad]

@[simp] theorem State.pagesBad_lfsr (s : State) (die : ℕ) (ans : List PKey) (code ecode : ℕ) :
    (s.pagesBad die ans code ecode).lfsr = s.lfsr := by simp [State.pagesBad]

@[simp] theorem State.keepAnswer_lfsr (s : State) (ctx die : ℕ) (ans : List PKey) (code ecode : ℕ) :
    (s.keepAnswer ctx die ans code ecode).lfsr = s.lfsr := by simp [State.keepAnswer]

theorem outNoZero_execPrgResponse {pasid : BitVec 20} {prg : ℕ} {resp : PrgResp} {s : State} (hz : NoZero s.lfsr) :
    OutNoZero (execPrgResponse pasid prg resp s) := by
  unfold execPrgResponse
  dsimp only
  repeat' split
  all_goals simp [hz]

@[simp] theorem State.retryTask_lfsr (s : State) (t : Task) : (s.retryTask t).lfsr = s.lfsr := by
  unfold State.retryTask
  extract_lets ctx ws need r
  have hr : r.2.lfsr = s.lfsr := by
    refine foldl_snd_lfsr (fun a q => ?_) _ _
    split
    · rfl
    · have ho := State.openPage_lfsr a.2 (dieOf t.core) ctx q.1 q.2.1 q.2.2
      split
      case h_1 hx => rw [← ho, hx]
      case h_2 hx => rw [← ho, hx]
  split
  · simp
  · simp
  · simp
  · split <;> simpa using hr

theorem outNoZero_execTaskReplace {n : ℕ} {s : State} (hz : NoZero s.lfsr) : OutNoZero (execTaskReplace n s) := by
  unfold execTaskReplace
  split
  · simpa using hz
  · split
    · split <;> simpa using hz
    · split
      · split <;> simpa using hz
      · split
        · simpa using hz
        · split
          case h_1 hx => simpa using noZero_startBlock (s := { s with tasks := s.tasks.eraseIdx n }) hz hx
          case h_2 => simpa using hz

theorem outNoZero_execAtsTranslationCompletion {c : CoreId} {ctx va frame size : ℕ} {read write : Bool} {s : State} (hz : NoZero s.lfsr) :
    OutNoZero (execAtsTranslationCompletion c ctx va frame size read write s) := by
  unfold execAtsTranslationCompletion
  dsimp only
  repeat' split
  all_goals simp [hz]

theorem outNoZero_execAtsInvalidateRequest {pasid : BitVec 20} {va size : ℕ} {s : State} (hz : NoZero s.lfsr) :
    OutNoZero (execAtsInvalidateRequest pasid va size s) := by
  unfold execAtsInvalidateRequest
  split <;> simp [hz]

@[simp] theorem State.commitByDevice_lfsr (s : State) (k : ℕ) : (s.commitByDevice k).lfsr = s.lfsr := by
  unfold State.commitByDevice
  dsimp only
  split <;> simp

@[simp] theorem State.within_lfsr (s : State) (x : Saved) {op : State → State} (hop : ∀ u, (op u).lfsr = u.lfsr) :
    (s.within x op).lfsr = s.lfsr := by
  unfold State.within
  simp [hop]

@[simp] theorem State.commitCovered_lfsr (s : State) (ctx : ℕ) (r : Option (ℕ × ℕ)) : (s.commitCovered ctx r).lfsr = s.lfsr := by
  unfold State.commitCovered
  extract_lets go
  have hgo : ∀ u, (go u).lfsr = u.lfsr := fun u => by simp [go]
  rw [foldl_lfsr (fun s x => State.within_lfsr s x hgo), hgo]

@[simp] theorem State.releaseCmd_lfsr (s : State) (k : Option ℕ) : (s.releaseCmd k).lfsr = s.lfsr := by
  unfold State.releaseCmd
  split <;> simp

@[simp] theorem State.endHostCmd_lfsr (s : State) (err : ℕ) : (s.endHostCmd err).lfsr = s.lfsr := by simp [State.endHostCmd]

theorem outNoZero_execInvalidationComplete {n : ℕ} {s : State} (hz : NoZero s.lfsr) : OutNoZero (execInvalidationComplete n s) := by
  unfold execInvalidationComplete
  dsimp only
  repeat' split
  all_goals simp [hz]

theorem State.takeCmd_lfsr {s : State} {core csr : ℕ} {val : Word} {x : Cmd} {t : State}
    (hr : s.takeCmd core csr val = some (x, t)) : t.lfsr = s.lfsr := by
  unfold State.takeCmd at hr
  split at hr
  · split at hr
    · cases hr; rfl
    · cases hr
  · cases hr

@[simp] theorem State.setBent_lfsr (s : State) (ctx i v : ℕ) : (s.setBent ctx i v).lfsr = s.lfsr := by simp [State.setBent]

theorem outNoZero_execBoundsWrite {c : CoreId} {s : State} (hz : NoZero s.lfsr) : OutNoZero (execBoundsWrite c s) := by
  unfold execBoundsWrite
  split
  · simpa using hz
  case h_2 hx => simpa [State.takeCmd_lfsr hx] using hz

theorem outNoZero_execBoundsRead {c : CoreId} {s : State} (hz : NoZero s.lfsr) : OutNoZero (execBoundsRead c s) := by
  unfold execBoundsRead
  dsimp only
  split
  · simpa using hz
  case h_2 t hx =>
    rw [outNoZero_next, State.releaseCmd_lfsr, foldl_lfsr (fun s i => State.setCsr_lfsr ..), State.takeCmd_lfsr hx]
    exact hz

theorem outNoZero_execBoundsClear {c : CoreId} {s : State} (hz : NoZero s.lfsr) : OutNoZero (execBoundsClear c s) := by
  unfold execBoundsClear
  split
  · simpa using hz
  case h_2 hx => simpa [State.takeCmd_lfsr hx] using hz

theorem outNoZero_execTlbInvalidatePage {c : CoreId} {s : State} (hz : NoZero s.lfsr) : OutNoZero (execTlbInvalidatePage c s) := by
  unfold execTlbInvalidatePage
  split
  · simpa using hz
  case h_2 hx => simpa [State.takeCmd_lfsr hx] using hz

theorem outNoZero_execTlbInvalidateContext {c : CoreId} {s : State} (hz : NoZero s.lfsr) :
    OutNoZero (execTlbInvalidateContext c s) := by
  unfold execTlbInvalidateContext
  split
  · simpa using hz
  case h_2 hx => simpa [State.takeCmd_lfsr hx] using hz

theorem outNoZero_execInvalidatePage {s : State} (hz : NoZero s.lfsr) : OutNoZero (execInvalidatePage s) := by
  unfold execInvalidatePage
  repeat' split
  all_goals simp [hz]

theorem outNoZero_execInvalidateContext {s : State} (hz : NoZero s.lfsr) : OutNoZero (execInvalidateContext s) := by
  unfold execInvalidateContext
  repeat' split
  all_goals simp [hz]

theorem outNoZero_execWriteBoundsEntry {s : State} (hz : NoZero s.lfsr) : OutNoZero (execWriteBoundsEntry s) := by
  unfold execWriteBoundsEntry
  repeat' split
  all_goals simp [hz]

@[simp] theorem State.resumeFloe_lfsr (s : State) (k : ℕ) (f : Floe) : (s.resumeFloe k f).lfsr = s.lfsr := by simp [State.resumeFloe]

@[simp] theorem noZero_restoreCtx {s : State} (sv : Saved) (hz : NoZero s.lfsr) : NoZero (s.restoreCtx sv).lfsr := by
  unfold State.restoreCtx
  extract_lets s₁ s₂ s₃ s₄ s₅ s₆ s₇ s₈ s₉ s₁₀
  have h₅ : NoZero s₅.lfsr := by
    simp only [s₅]
    rw [foldl_lfsr (fun _ _ => by rfl)]
    simpa [s₄, s₃, s₂, s₁] using hz
  have h₆ : NoZero s₆.lfsr := noZero_foldl (fun s e h => noZero_setLfsr h _ _) _ h₅
  simpa [s₁₀, s₉, s₈, s₇] using h₆

theorem outNoZero_execContextResume {ctx : ℕ} {s : State} (hz : NoZero s.lfsr) : OutNoZero (execContextResume ctx s) := by
  unfold execContextResume
  repeat' split
  all_goals simp [hz]

end Sys2Proof.Machine
end

section
/-! SUPPORT. What the functions of Machine/Segment.lean leave of the generators. -/

namespace Sys2Proof.Machine

theorem outNoZero_execSegmentRequest {f : FloeId} {s : State} (hz : NoZero s.lfsr) : OutNoZero (execSegmentRequest f s) := by
  unfold execSegmentRequest
  dsimp only
  repeat' split
  all_goals simp [hz]

theorem State.resolveLink_lfsr {s : State} {die ctx code x : ℕ} {r : ℕ × Option ℕ × State} (hr : s.resolveLink die ctx code x = .ok r) :
    r.2.2.lfsr = s.lfsr := by
  unfold State.resolveLink at hr
  repeat' split at hr
  all_goals cases hr
  all_goals simp

theorem patchSites_lfsr {die ctx code seg : ℕ} {xs : List ℕ} {ls : List (BitVec 512)} {rs : List ℕ} {s : State} :
    (∀ e, patchSites die ctx code seg xs ls rs s = .error e → e.2.2.lfsr = s.lfsr) ∧
    ∀ r, patchSites die ctx code seg xs ls rs s = .ok r → r.2.2.lfsr = s.lfsr := by
  induction xs generalizing ls rs s with
  | nil => simp [patchSites]
  | cons x xs ih =>
    unfold patchSites
    split
    · simp
    · simp
    case h_3 u hx =>
      have hu : u.lfsr = s.lfsr := State.resolveLink_lfsr hx
      rw [← hu]
      exact ih

@[simp] theorem State.serve_lfsr (s : State) (die ctx code seg : ℕ) : (s.serve die ctx code seg).2.2.2.lfsr = s.lfsr := by
  unfold State.serve
  extract_lets keep fail
  have hk : ∀ u ls f, (keep u ls f).lfsr = u.lfsr := fun _ _ _ => rfl
  have hf : ∀ u f h rs, (fail u f h rs).2.2.2.lfsr = u.lfsr := fun u f h rs => by simp only [fail]; split <;> simp [hk]
  split
  · split <;> rfl
  · split
    · exact hf ..
    · split
      · exact hf ..
      · split
        · exact hf ..
        · split
          case h_1 hx => rw [hf]; exact patchSites_lfsr.1 _ hx
          case h_2 hx => rw [hk]; exact patchSites_lfsr.2 _ hx

theorem evictFor_lfsr {core n fuel : ℕ} {s : State} {r : ℕ × State} (hr : evictFor core n fuel s = some r) : r.2.lfsr = s.lfsr := by
  induction fuel generalizing s with
  | zero => cases hr
  | succ fuel ih =>
    unfold evictFor at hr
    split at hr
    · cases hr; rfl
    · split at hr
      · cases hr
      · have := ih hr
        exact this

@[simp] theorem State.ship_lfsr (s : State) (core ctx code seg : ℕ) (ls : List (BitVec 512)) : (s.ship core ctx code seg ls).lfsr = s.lfsr := by
  unfold State.ship
  split
  · rfl
  case h_2 hx =>
    dsimp only
    rw [foldl_lfsr (fun s e => by split <;> simp)]
    simpa using evictFor_lfsr hx

@[simp] theorem State.svcFault_lfsr (s : State) (core ctx code seg : ℕ) (f : SvcFault) (h : List (BitVec 512)) :
    (s.svcFault core ctx code seg f h).lfsr = s.lfsr := by
  unfold State.svcFault
  dsimp only
  rw [foldl_lfsr (fun s e => by split <;> simp)]

theorem outNoZero_execSegmentDelivery {die ctx code seg : ℕ} {s : State} (hz : NoZero s.lfsr) :
    OutNoZero (execSegmentDelivery die ctx code seg s) := by
  unfold execSegmentDelivery
  extract_lets cores ws fetch r u
  have hu : NoZero u.lfsr := by simpa [u, r] using hz
  split
  · simpa using hz
  · split
    · simpa using hz
    · split
      · simpa using hz
      · split <;> simpa using hu

@[simp] theorem State.beginRecall_lfsr (s : State) (ctx code seg : ℕ) : (s.beginRecall ctx code seg).lfsr = s.lfsr := by simp [State.beginRecall]

@[simp] theorem State.endRecall_lfsr (s : State) (ctx code seg : ℕ) (who : Option ℕ) : (s.endRecall ctx code seg who).lfsr = s.lfsr := by
  simp [State.endRecall]

@[simp] theorem State.recallMove_lfsr (s : State) (ctx code seg : ℕ) (who : Option ℕ) :
    (s.recallMove ctx code seg who).1.lfsr = s.lfsr := by
  unfold State.recallMove
  dsimp only
  repeat' split
  all_goals simp

theorem outNoZero_execRecall {s : State} (hz : NoZero s.lfsr) : OutNoZero (execRecall s) := by
  unfold execRecall
  dsimp only
  repeat' split
  all_goals simp [hz]

theorem outNoZero_execCodeObjectUnload {ctx code : ℕ} {s : State} (hz : NoZero s.lfsr) : OutNoZero (execCodeObjectUnload ctx code s) := by
  unfold execCodeObjectUnload
  split <;> simp [hz]

theorem outNoZero_execDriverDirectoryCommand {ctx : ℕ} {recs : List BindRec} {s : State} (hz : NoZero s.lfsr) :
    OutNoZero (execDriverDirectoryCommand ctx recs s) := by
  unfold execDriverDirectoryCommand
  dsimp only
  repeat' split
  all_goals simp [hz]

theorem outNoZero_execReclgetWrite {ctx : ℕ} {value : BitVec 64} {s : State} (hz : NoZero s.lfsr) :
    OutNoZero (execReclgetWrite ctx value s) := by
  unfold execReclgetWrite
  split <;> simp [hz]

theorem outNoZero_execReclbaseWrite {ctx : ℕ} {value : BitVec 64} {s : State} (hz : NoZero s.lfsr) :
    OutNoZero (execReclbaseWrite ctx value s) := by
  unfold execReclbaseWrite
  split <;> simp [hz]

end Sys2Proof.Machine
end

section
/-! SUPPORT. What the functions of Machine/System.lean leave of the generators. -/

namespace Sys2Proof.Machine

@[simp] theorem State.queueCmd_lfsr (s : State) (core ctx n : ℕ) (v : Word) (floe : Option ℕ) :
    (s.queueCmd core ctx n v floe).lfsr = s.lfsr := by simp [State.queueCmd]

@[simp] theorem State.holdCmd_lfsr (s : State) (k : Option ℕ) : (s.holdCmd k).lfsr = s.lfsr := by
  unfold State.holdCmd
  split <;> simp

@[simp] theorem State.writeDcmd_lfsr (s : State) (core ctx : ℕ) (v : Word) (floe : Option ℕ) :
    (s.writeDcmd core ctx v floe).lfsr = s.lfsr := by simp [State.writeDcmd]

@[simp] theorem State.writeCsr_lfsr (s : State) (core ctx n : ℕ) (v : Word) (floe : Option ℕ) :
    (s.writeCsr core ctx n v floe).lfsr = s.lfsr := by simp [State.writeCsr]

theorem noZero_csrPut {c : Ctx} {s : State} (hz : NoZero s.lfsr) (l n : ℕ) (o : WOp) (v : Word) : NoZero (c.csrPut s l n o v).lfsr := by
  unfold Ctx.csrPut
  split
  · simpa using hz
  · dsimp only
    split
    · exact noZero_setLfsr hz _ _
    · simpa using hz

@[simp] theorem noZero_csrGate {c : Ctx} (n : ℕ) (write : Bool) {go : Res} (hz : NoZero c.s.lfsr) (hg : go.NoZero) :
    (c.csrGate n write go).NoZero := by
  unfold Ctx.csrGate
  repeat' split
  all_goals simp [hz, hg]

theorem outNoZero_execCsrr {h : Head} {d : BitVec 8} {csr : BitVec 12} {s : State} (hz : NoZero s.lfsr) :
    OutNoZero (execCsrr h d csr s) := outNoZero_issue hz _ fun c hc => by simp [hc]

@[simp] theorem noZero_csrWrite {c : Ctx} (a : BitVec 8) (n : ℕ) (o : WOp) (hz : NoZero c.s.lfsr) : (c.csrWrite a n o).NoZero :=
  noZero_csrGate _ _ hz (noZero_foldl (fun _ l h => noZero_csrPut h l n o _) _ hz)

theorem outNoZero_execCsrw {h : Head} {a : BitVec 8} {csr : BitVec 12} {s : State} (hz : NoZero s.lfsr) :
    OutNoZero (execCsrw h a csr s) := outNoZero_issue hz _ fun c hc => by simp [hc]

theorem outNoZero_execCsrwSet {h : Head} {a : BitVec 8} {csr : BitVec 12} {s : State} (hz : NoZero s.lfsr) :
    OutNoZero (execCsrwSet h a csr s) := outNoZero_issue hz _ fun c hc => by simp [hc]

theorem outNoZero_execCsrwClr {h : Head} {a : BitVec 8} {csr : BitVec 12} {s : State} (hz : NoZero s.lfsr) :
    OutNoZero (execCsrwClr h a csr s) := outNoZero_issue hz _ fun c hc => by simp [hc]

@[simp] theorem State.settleLanes_lfsr (s : State) (k : ℕ) (lanes : List ℕ) : (s.settleLanes k lanes).lfsr = s.lfsr := by
  unfold State.settleLanes
  split <;> simp

theorem outNoZero_execEret {h : Head} {s : State} (hz : NoZero s.lfsr) : OutNoZero (execEret h s) := by
  unfold execEret
  refine outNoZero_issue hz _ fun c hc => ?_
  dsimp only
  repeat' split
  all_goals simp [hc]

theorem outNoZero_execHaltGrid {h : Head} {s : State} (hz : NoZero s.lfsr) : OutNoZero (execHaltGrid h s) := by
  unfold execHaltGrid
  refine outNoZero_issue hz _ fun c hc => ?_
  split <;> simp [hc]

theorem outNoZero_execHaltCtx {h : Head} {s : State} (hz : NoZero s.lfsr) : OutNoZero (execHaltCtx h s) := by
  refine outNoZero_issue hz _ fun c hc => ?_
  repeat' split
  all_goals simp [hc]

theorem outNoZero_execBrk {h : Head} {code : BitVec 16} {act : BitVec 2} {s : State} (hz : NoZero s.lfsr) :
    OutNoZero (execBrk h code act s) := by
  unfold execBrk
  refine outNoZero_issue hz _ fun c hc => ?_
  split <;> simp [hc]

theorem outNoZero_execProg {h : Head} {n : BitVec 3} {s : State} (hz : NoZero s.lfsr) : OutNoZero (execProg h n s) :=
  outNoZero_issue hz _ fun c hc => by simp [hc]

theorem outNoZero_execMark {h : Head} {code : BitVec 16} {s : State} (hz : NoZero s.lfsr) : OutNoZero (execMark h code s) := by
  unfold execMark
  refine outNoZero_issue hz _ fun c hc => ?_
  split <;> simp [hc]

theorem outNoZero_execMarkValue {h : Head} {a : BitVec 8} {code : BitVec 16} {s : State} (hz : NoZero s.lfsr) :
    OutNoZero (execMarkValue h a code s) := by
  unfold execMarkValue
  refine outNoZero_issue hz _ fun c hc => ?_
  split <;> simp [hc]

end Sys2Proof.Machine
end

section
/-! SUPPORT. What the functions of Machine/Debug.lean leave of the generators. -/

namespace Sys2Proof.Machine

@[simp] theorem State.endDcmd_lfsr (s : State) (x : Cmd) (err : ℕ) (set : Word) : (s.endDcmd x err set).lfsr = s.lfsr := by simp [State.endDcmd]
@[simp] theorem State.beginDcmd_lfsr (s : State) (x : Cmd) (n : ℕ) : (s.beginDcmd x n).lfsr = s.lfsr := by simp [State.beginDcmd]

theorem outNoZero_execStopBlock {issuer : CoreId} {s : State} (hz : NoZero s.lfsr) : OutNoZero (execStopBlock issuer s) := by
  unfold execStopBlock
  dsimp only
  repeat' split
  all_goals simp [hz]

theorem outNoZero_execHaltGridCommand {issuer : CoreId} {s : State} (hz : NoZero s.lfsr) : OutNoZero (execHaltGridCommand issuer s) := by
  unfold execHaltGridCommand
  repeat' split
  all_goals simp [hz]

theorem outNoZero_execHaltContext {issuer : CoreId} {s : State} (hz : NoZero s.lfsr) : OutNoZero (execHaltContext issuer s) := by
  unfold execHaltContext
  repeat' split
  all_goals simp [hz]

@[simp] theorem State.cancelStep_lfsr (s : State) (bk : ℕ) : (s.cancelStep bk).lfsr = s.lfsr := by
  unfold State.cancelStep
  split <;> simp

@[simp] theorem State.resumeGrid_lfsr (s : State) (g cause : ℕ) : (s.resumeGrid g cause).lfsr = s.lfsr := by simp [State.resumeGrid]

theorem outNoZero_execResume {issuer : CoreId} {s : State} (hz : NoZero s.lfsr) : OutNoZero (execResume issuer s) := by
  unfold execResume
  dsimp only
  repeat' split
  all_goals simp [hz]

theorem outNoZero_execStep {issuer : CoreId} {s : State} (hz : NoZero s.lfsr) : OutNoZero (execStep issuer s) := by
  unfold execStep
  dsimp only
  repeat' split
  all_goals simp [hz]

theorem outNoZero_execStepTimeout {issuer : CoreId} {s : State} (hz : NoZero s.lfsr) : OutNoZero (execStepTimeout issuer s) := by
  unfold execStepTimeout
  split <;> simp [hz]

theorem outNoZero_execDump {issuer : CoreId} {s : State} (hz : NoZero s.lfsr) : OutNoZero (execDump issuer s) := by
  unfold execDump
  dsimp only
  repeat' split
  all_goals simp [hz]

theorem outNoZero_execDumpEnd {issuer : CoreId} {s : State} (hz : NoZero s.lfsr) : OutNoZero (execDumpEnd issuer s) := by
  unfold execDumpEnd
  split <;> simp [hz]

theorem outNoZero_execDebugRecall {issuer : CoreId} {s : State} (hz : NoZero s.lfsr) : OutNoZero (execDebugRecall issuer s) := by
  unfold execDebugRecall
  dsimp only
  repeat' split
  all_goals simp [hz]

theorem outNoZero_execRemoteWrite {issuer : CoreId} {s : State} (hz : NoZero s.lfsr) : OutNoZero (execRemoteWrite issuer s) := by
  unfold execRemoteWrite
  repeat' split
  all_goals simp [hz]

theorem outNoZero_execRemoteRead {issuer : CoreId} {s : State} (hz : NoZero s.lfsr) : OutNoZero (execRemoteRead issuer s) := by
  unfold execRemoteRead
  repeat' split
  all_goals simp [hz]

theorem outNoZero_execSample {q : SlotId} {s : State} (hz : NoZero s.lfsr) : OutNoZero (execSample q s) := by
  unfold execSample
  dsimp only
  repeat' split
  all_goals simp [hz]

end Sys2Proof.Machine
end

section
/-! SUPPORT. What the functions of Machine/Kernel.lean leave of the generators. -/

namespace Sys2Proof.Machine

theorem outNoZero_execResultWrite {f : FloeId} {n : ℕ} {s : State} (hz : NoZero s.lfsr) : OutNoZero (execResultWrite f n s) := by
  unfold execResultWrite
  dsimp only
  repeat' split
  all_goals simp [hz]

theorem outNoZero_execBankService {level : Space} {inst bank : ℕ} {engine : Bool} {s : State} (hz : NoZero s.lfsr) :
    OutNoZero (execBankService level inst bank engine s) := by
  unfold execBankService
  dsimp only
  repeat' split
  all_goals simp [hz]

theorem outNoZero_execStreamElementArrival {f : FloeId} {port lane : ℕ} {s : State} (hz : NoZero s.lfsr) :
    OutNoZero (execStreamElementArrival f port lane s) := by
  unfold execStreamElementArrival
  extract_lets k
  split
  · simpa using hz
  · split
    · simpa using hz
    case h_2 st hst =>
      dsimp only
      split
      · simpa using hz
      case isFalse x _ _ _ =>
        have he := passes_elements (c := ⟨s, k, x, [lane], coreOfFloe k, x.bkey k, s.grid (s.block (x.bkey k)).grid, false, []⟩) hz st
          [(lane, lookD 0 st.pos lane + (lookD [] st.fetched lane).length)]
        split
        case h_1 hx => simpa using he.ok hx
        case h_2 hx => simpa using he.error hx
        case h_3 hx => simpa using he.error hx
        case h_4 => simpa using hz
        case h_5 => simpa using hz

theorem outNoZero_execBarrierCompletionMulticast {n : ℕ} {s : State} (hz : NoZero s.lfsr) :
    OutNoZero (execBarrierCompletionMulticast n s) := by
  unfold execBarrierCompletionMulticast
  split <;> simp [hz]

theorem outNoZero_execBinTimerExpire {q : SlotId} {b : ℕ} {s : State} (hz : NoZero s.lfsr) : OutNoZero (execBinTimerExpire q b s) := by
  unfold execBinTimerExpire
  dsimp only
  repeat' split
  all_goals simp [hz]

@[simp] theorem State.mergeThreads_lfsr (s : State) (k : ℕ) (tks : List ℕ) : (s.mergeThreads k tks).lfsr = s.lfsr := by simp [State.mergeThreads]

@[simp] theorem State.newFloe_lfsr (s : State) (k blkr : ℕ) (cont : Word) (lanes : List (ℕ × ℕ)) (recs : List ℕ) :
    (s.newFloe k blkr cont lanes recs).lfsr = s.lfsr := by simp [State.newFloe]

@[simp] theorem State.restoreFloe_lfsr (s : State) (k q i : ℕ) (f : Floe) : (s.restoreFloe k q i f).lfsr = s.lfsr := by simp [State.restoreFloe]

@[simp] theorem State.launchFloe_lfsr (s : State) (q w : ℕ) (x3 : Cand) : (s.launchFloe q w x3).lfsr = s.lfsr := by
  unfold State.launchFloe
  dsimp only
  repeat' split
  all_goals simp

theorem outNoZero_execFloeLaunch {q : SlotId} {s : State} (hz : NoZero s.lfsr) : OutNoZero (execFloeLaunch q s) := by
  unfold execFloeLaunch
  dsimp only
  repeat' split
  all_goals simp [hz]

@[simp] theorem State.demote_lfsr (s : State) (k sv : ℕ) : (s.demote k sv).lfsr = s.lfsr := by
  unfold State.demote
  split <;> simp

theorem outNoZero_execFloeDemote {q : SlotId} {s : State} (hz : NoZero s.lfsr) : OutNoZero (execFloeDemote q s) := by
  unfold execFloeDemote
  dsimp only
  repeat' split
  all_goals simp [hz]

theorem outNoZero_execFloeExhaustion {q : SlotId} {s : State} (hz : NoZero s.lfsr) : OutNoZero (execFloeExhaustion q s) := by
  unfold execFloeExhaustion
  dsimp only
  repeat' split
  all_goals simp [hz]

theorem outNoZero_execSpawnResume {f : FloeId} {s : State} (hz : NoZero s.lfsr) : OutNoZero (execSpawnResume f s) := by
  unfold execSpawnResume
  split
  · split
    · exact outNoZero_execSpawn (s := { s with cur := f }) hz
    · simpa using hz
  · simpa using hz

theorem outNoZero_execReservationHoldExpire {q : SlotId} {s : State} (hz : NoZero s.lfsr) : OutNoZero (execReservationHoldExpire q s) := by
  simp [execReservationHoldExpire, hz]

theorem outNoZero_execGridStop {gid : ℕ} {c : CoreId} {s : State} (hz : NoZero s.lfsr) : OutNoZero (execGridStop gid c s) := by
  unfold execGridStop
  repeat' split
  all_goals simp [hz]

end Sys2Proof.Machine
end

section
/-! SUPPORT. What the functions of Machine/Errors.lean leave of the generators. -/

namespace Sys2Proof.Machine

theorem State.errCmd_lfsr {s : State} {c : CoreId} {csr : ℕ} {p : Word → Bool} {x : Cmd} {t : State}
    (hr : s.errCmd c csr p = some (x, t)) : t.lfsr = s.lfsr := by
  unfold State.errCmd at hr
  split at hr
  · split at hr
    · cases hr; rfl
    · cases hr
  · cases hr

theorem outNoZero_execErrorLogRead {c : CoreId} {s : State} (hz : NoZero s.lfsr) : OutNoZero (execErrorLogRead c s) := by
  unfold execErrorLogRead
  split
  · simpa using hz
  case h_2 hx =>
    rw [outNoZero_next, State.releaseCmd_lfsr, foldl_lfsr (fun s i => State.setCsr_lfsr ..), State.errCmd_lfsr hx]
    exact hz

theorem outNoZero_execErrorLogClear {c : CoreId} {s : State} (hz : NoZero s.lfsr) : OutNoZero (execErrorLogClear c s) := by
  unfold execErrorLogClear
  split
  · simpa using hz
  case h_2 hx => simpa [State.errCmd_lfsr hx] using hz

theorem outNoZero_execErrorLogOverflowRead {c : CoreId} {s : State} (hz : NoZero s.lfsr) :
    OutNoZero (execErrorLogOverflowRead c s) := by
  unfold execErrorLogOverflowRead
  split
  · simpa using hz
  case h_2 hx => simpa [State.errCmd_lfsr hx] using hz

theorem outNoZero_execInjectionArm {c : CoreId} {s : State} (hz : NoZero s.lfsr) : OutNoZero (execInjectionArm c s) := by
  unfold execInjectionArm
  split
  · simpa using hz
  case h_2 hx => simpa [State.errCmd_lfsr hx] using hz

@[simp] theorem State.clearWord_lfsr (s : State) (array place a : ℕ) : (s.clearWord array place a).lfsr = s.lfsr := by simp [State.clearWord]

@[simp] theorem State.scrubWord_lfsr (s : State) (array place a : ℕ) : (s.scrubWord array place a).lfsr = s.lfsr := by
  unfold State.scrubWord
  split <;> simp

@[simp] theorem State.uncorrected_lfsr (s : State) (e : ErrRec) : (s.uncorrected e).lfsr = s.lfsr := by
  unfold State.uncorrected
  dsimp only
  repeat' split
  all_goals simp

theorem outNoZero_execEccError {die core : ℕ} {array : BitVec 4} {addr : BitVec 64} {synd : BitVec 32} {ue : Bool} {s : State} (hz : NoZero s.lfsr) :
    OutNoZero (execEccError die core array addr synd ue s) := by
  unfold execEccError
  dsimp only
  repeat' split
  all_goals simp [hz]

theorem outNoZero_execPatrolScrub {channel : ℕ} {s : State} (hz : NoZero s.lfsr) : OutNoZero (execPatrolScrub channel s) := by
  unfold execPatrolScrub
  split <;> simp [hz]

end Sys2Proof.Machine
end

section
/-! SUPPORT. What the functions of Machine/Lanes.lean leave of the generators. -/

namespace Sys2Proof.Machine

@[simp] theorem Ctx.laneOut_lfsr (c : Ctx) (s : State) (d : BitVec 8) (f : ℕ → ℕ × Fl) : (c.laneOut s d f).lfsr = s.lfsr := by simp [Ctx.laneOut]
theorem outNoZero_execQswp {o : LaneOps} {s : State} (hz : NoZero s.lfsr) : OutNoZero (execQswp o s) := outNoZero_issue hz _ fun c hc => by simp [hc]

@[simp] theorem noZero_quadDiff (o : LaneOps) (pair : ℕ → ℕ × ℕ) {c : Ctx} (hz : NoZero c.s.lfsr) : (quadDiff o pair c).NoZero := by
  simp [quadDiff, hz]

theorem outNoZero_execQdx {o : LaneOps} {s : State} (hz : NoZero s.lfsr) : OutNoZero (execQdx o s) := outNoZero_issue hz _ fun c hc => by simp [hc]
theorem outNoZero_execQdy {o : LaneOps} {s : State} (hz : NoZero s.lfsr) : OutNoZero (execQdy o s) := outNoZero_issue hz _ fun c hc => by simp [hc]

theorem outNoZero_execVote {o : LaneOps} {s : State} (hz : NoZero s.lfsr) : OutNoZero (execVote o s) := by
  unfold execVote
  refine outNoZero_issue hz _ fun c hc => ?_
  split <;> simp [hc]

theorem outNoZero_execShfl {o : LaneOps} {s : State} (hz : NoZero s.lfsr) : OutNoZero (execShfl o s) := outNoZero_issue hz _ fun c hc => by simp [hc]
theorem outNoZero_execRedi {o : LaneOps} {s : State} (hz : NoZero s.lfsr) : OutNoZero (execRedi o s) := outNoZero_issue hz _ fun c hc => by simp [hc]
theorem outNoZero_execScan {o : LaneOps} {s : State} (hz : NoZero s.lfsr) : OutNoZero (execScan o s) := outNoZero_issue hz _ fun c hc => by simp [hc]
theorem outNoZero_execRedf {o : LaneOps} {s : State} (hz : NoZero s.lfsr) : OutNoZero (execRedf o s) := outNoZero_issue hz _ fun c hc => by simp [hc]

theorem outNoZero_execMatchAny {o : LaneOps} {s : State} (hz : NoZero s.lfsr) : OutNoZero (execMatchAny o s) := by
  unfold execMatchAny
  refine outNoZero_issue hz _ fun c hc => ?_
  split <;> simp [hc]

theorem outNoZero_execElect {o : LaneOps} {s : State} (hz : NoZero s.lfsr) : OutNoZero (execElect o s) :=
  outNoZero_issue hz _ fun c hc => by simp [hc]

end Sys2Proof.Machine
end

section
/-! SUPPORT. What the functions of Machine/Net.lean leave of the generators. -/

namespace Sys2Proof.Machine

@[simp] theorem State.homeWrite_lfsr (s : State) (r : Req) (v : ℕ) : (s.homeWrite r v).lfsr = s.lfsr := by simp [State.homeWrite]

@[simp] theorem State.readAt_lfsr (s : State) (r : Req) : (s.readAt r).lfsr = s.lfsr := by
  unfold State.readAt
  dsimp only
  repeat' split
  all_goals simp

@[simp] theorem State.answer_lfsr (s : State) (r : Req) (ws : List Word) (b : Option Bool) : (s.answer r ws b).lfsr = s.lfsr := by
  unfold State.answer
  split <;> simp

@[simp] theorem State.lrLive_lfsr (s : State) (r : Req) : (s.lrLive r).lfsr = s.lfsr := by
  unfold State.lrLive
  dsimp only
  repeat' split
  all_goals simp

@[simp] theorem State.performed_lfsr (s : State) (id : ℕ) (drop : Bool) : (s.performed id drop).lfsr = s.lfsr := by simp [State.performed]

@[simp] theorem State.acqValue_lfsr (s : State) (r : Req) (v : ℕ) : (s.acqValue r v).lfsr = s.lfsr := by
  unfold State.acqValue
  repeat' split
  all_goals simp

@[simp] theorem State.perform_lfsr (s : State) (id : ℕ) (r : Req) : (s.perform id r).lfsr = s.lfsr := by
  unfold State.perform
  dsimp only
  repeat' split
  all_goals simp

@[simp] theorem State.serveReq_lfsr (s : State) (id : ℕ) : (s.serveReq id).lfsr = s.lfsr := by
  unfold State.serveReq
  dsimp only
  repeat' split
  all_goals simp

@[simp] theorem State.atHome_lfsr (s : State) (id : ℕ) : (s.atHome id).lfsr = s.lfsr := by
  unfold State.atHome
  dsimp only
  repeat' split
  all_goals simp

theorem outNoZero_execHomeAccess {r : ℕ} {s : State} (hz : NoZero s.lfsr) : OutNoZero (execHomeAccess r s) := by simp [execHomeAccess, hz]
@[simp] theorem State.homeAnswers_lfsr (s : State) : s.homeAnswers.lfsr = s.lfsr := by simp [State.homeAnswers]

theorem outNoZero_execWriteAcknowledgement {r : ℕ} {s : State} (hz : NoZero s.lfsr) : OutNoZero (execWriteAcknowledgement r s) := by
  unfold execWriteAcknowledgement
  repeat' split
  all_goals simp [hz]

end Sys2Proof.Machine
end

section
/-! SUPPORT. What the functions of Machine/Scratch.lean leave of the generators. -/

namespace Sys2Proof.Machine

theorem outNoZero_execMapr {o : DescOps} {s : State} (hz : NoZero s.lfsr) : OutNoZero (execMapr o s) := by
  refine outNoZero_issue hz _ fun c hc => ?_
  split
  · exact hc
  · split
    case h_1 hx => exact (passes_readDesc hc ..).error hx
    case h_2 hx =>
      have hs := (passes_readDesc hc ..).ok hx
      split
      · simp
      · dsimp only
        repeat' split
        all_goals simp [hs]

@[simp] theorem noZero_wbIssue {c : Ctx} (map : BitVec 3) (slot : BitVec 4) (unmap : Bool) (hz : NoZero c.s.lfsr) :
    (c.wbIssue map slot unmap).NoZero := by
  unfold Ctx.wbIssue
  dsimp only
  repeat' split
  all_goals simp [hz]

theorem outNoZero_execWback {h : Head} {map : BitVec 3} {slot : BitVec 4} {s : State} (hz : NoZero s.lfsr) :
    OutNoZero (execWback h map slot s) := outNoZero_issue hz _ fun c hc => by simp [hc]

theorem outNoZero_execUnmapr {h : Head} {map : BitVec 3} {slot : BitVec 4} {s : State} (hz : NoZero s.lfsr) :
    OutNoZero (execUnmapr h map slot s) := outNoZero_issue hz _ fun c hc => by simp [hc]

theorem State.wbChunk_lfsr {s t : State} {id : ℕ} {w : WBack} {m : SMap} {ch : ℕ} (ht : s.wbChunk id w m ch = .ok t) :
    t.lfsr = s.lfsr := by
  unfold State.wbChunk at ht
  dsimp only at ht
  repeat' split at ht
  all_goals cases ht
  all_goals simp

@[simp] theorem State.wbChunks_lfsr (id : ℕ) (w : WBack) (m : SMap) (cs : List ℕ) (n : ℕ) (s : State) :
    (State.wbChunks id w m cs n s).1.lfsr = s.lfsr := by
  induction cs generalizing n s with
  | nil => rfl
  | cons ch cs ih =>
    unfold State.wbChunks
    split
    · exact ih ..
    · split
      case h_1 hx => rw [ih, State.wbChunk_lfsr hx]
      case h_2 => rfl

@[simp] theorem State.closeMap_lfsr (s : State) (key : ℕ) : (s.closeMap key).lfsr = s.lfsr := by
  unfold State.closeMap
  split <;> simp

@[simp] theorem State.wbDone_lfsr (s : State) (id : ℕ) (w : WBack) : (s.wbDone id w).lfsr = s.lfsr := by simp [State.wbDone]

theorem outNoZero_execWritebackComplete {op : ℕ} {s : State} (hz : NoZero s.lfsr) : OutNoZero (execWritebackComplete op s) := by
  unfold execWritebackComplete
  dsimp only
  repeat' split
  all_goals simp [hz]

theorem outNoZero_execMapFillComplete {fill : ℕ} {s : State} (hz : NoZero s.lfsr) : OutNoZero (execMapFillComplete fill s) := by
  unfold execMapFillComplete
  dsimp only
  repeat' split
  all_goals simp [hz]

@[simp] theorem State.setCbuf_lfsr (s : State) (core n : ℕ) (b : CBuf) : (s.setCbuf core n b).lfsr = s.lfsr := by simp [State.setCbuf]

theorem outNoZero_execCbinit {o : DescOps} {s : State} (hz : NoZero s.lfsr) : OutNoZero (execCbinit o s) := by
  refine outNoZero_issue hz _ fun c hc => ?_
  split
  · exact hc
  · split
    case h_1 hx => exact (passes_readDesc hc ..).error hx
    case h_2 hx =>
      have hs := (passes_readDesc hc ..).ok hx
      dsimp only
      repeat' split
      all_goals simp [hs]

theorem outNoZero_execCbacq {h : Head} {d : BitVec 8} {buf : BitVec 4} {s : State} (hz : NoZero s.lfsr) :
    OutNoZero (execCbacq h d buf s) := by
  unfold execCbacq
  refine outNoZero_issue hz _ fun c hc => ?_
  dsimp only
  repeat' split
  all_goals simp [hc]

theorem outNoZero_execCbrel {h : Head} {buf : BitVec 4} {s : State} (hz : NoZero s.lfsr) : OutNoZero (execCbrel h buf s) := by
  unfold execCbrel
  refine outNoZero_issue hz _ fun c hc => ?_
  dsimp only
  repeat' split
  all_goals simp [hc]

end Sys2Proof.Machine
end

section
/-! SUPPORT. What the functions of Machine/Window.lean leave of the generators. -/

namespace Sys2Proof.Machine

@[simp] theorem State.setHmap_lfsr (s : State) (v : BitVec 8) : (s.setHmap v).lfsr = s.lfsr := by simp [State.setHmap]
@[simp] theorem State.setFwsvn_lfsr (s : State) (v : DWord) : (s.setFwsvn v).lfsr = s.lfsr := by simp [State.setFwsvn]
@[simp] theorem State.setReplctl_lfsr (s : State) (ctx : ℕ) (v : DWord) : (s.setReplctl ctx v).lfsr = s.lfsr := by simp [State.setReplctl]

theorem outNoZero_execHmapWrite {value : BitVec 64} {s : State} (hz : NoZero s.lfsr) : OutNoZero (execHmapWrite value s) := by
  unfold execHmapWrite
  split <;> simp [hz]

theorem outNoZero_execFwsvnWrite {value : BitVec 64} {s : State} (hz : NoZero s.lfsr) : OutNoZero (execFwsvnWrite value s) := by
  unfold execFwsvnWrite
  split <;> simp [hz]

@[simp] theorem State.corruptLink_lfsr (s : State) (die dst : ℕ) (v : DWord) : (s.corruptLink die dst v).lfsr = s.lfsr := by simp [State.corruptLink]

theorem outNoZero_execLinkTestCorrupt {die dst : ℕ} {value : BitVec 64} {s : State} (hz : NoZero s.lfsr) :
    OutNoZero (execLinkTestCorrupt die dst value s) := by
  unfold execLinkTestCorrupt
  split <;> simp [hz]

theorem outNoZero_execRcRegisterRead {off size : ℕ} {s : State} (hz : NoZero s.lfsr) : OutNoZero (execRcRegisterRead off size s) := by
  unfold execRcRegisterRead
  dsimp only
  repeat' split
  all_goals simp [hz]

@[simp] theorem State.writeGlob_lfsr (s : State) (o : ℕ) (v m : DWord) : (s.writeGlob o v m).lfsr = s.lfsr := by simp [State.writeGlob]
@[simp] theorem State.writeCtx_lfsr (s : State) (c o : ℕ) (v m : DWord) : (s.writeCtx c o v m).lfsr = s.lfsr := by simp [State.writeCtx]
@[simp] theorem State.writeDie_lfsr (s : State) (d o : ℕ) (v m : DWord) : (s.writeDie d o v m).lfsr = s.lfsr := by simp [State.writeDie]
@[simp] theorem State.writeCmd_lfsr (s : State) (o : ℕ) (v m : DWord) : (s.writeCmd o v m).lfsr = s.lfsr := by simp [State.writeCmd]
@[simp] theorem State.hostWriteCsr_lfsr (s : State) (core n : ℕ) (v : Word) : (s.hostWriteCsr core n v).lfsr = s.lfsr := by simp [State.hostWriteCsr]

@[simp] theorem State.writeReg_lfsr (s : State) (r : WReg) (v m : DWord) : (s.writeReg r v m).lfsr = s.lfsr := by
  unfold State.writeReg
  dsimp only
  repeat' split
  all_goals simp

theorem outNoZero_execRegisterWrite {off size : ℕ} {value : BitVec 64} {s : State} (hz : NoZero s.lfsr) :
    OutNoZero (execRegisterWrite off size value s) := by
  unfold execRegisterWrite
  dsimp only
  repeat' split
  all_goals simp [hz]

theorem outNoZero_execLoadLinkSchedule {s : State} (hz : NoZero s.lfsr) : OutNoZero (execLoadLinkSchedule s) := by
  unfold execLoadLinkSchedule
  dsimp only
  repeat' split
  all_goals simp [hz]

theorem outNoZero_execCheckpoint {s : State} (hz : NoZero s.lfsr) : OutNoZero (execCheckpoint s) := by
  unfold execCheckpoint
  dsimp only
  repeat' split
  all_goals simp [hz]

@[simp] theorem State.restoreFrom_lfsr (s : State) (a n : ℕ) (r : ℕ × List ℕ × List Byte) : (s.restoreFrom a n r).lfsr = s.lfsr := by
  simp [State.restoreFrom]

theorem outNoZero_execRestore {s : State} (hz : NoZero s.lfsr) : OutNoZero (execRestore s) := by
  unfold execRestore
  dsimp only
  repeat' split
  all_goals simp [hz]

theorem outNoZero_execLoadFirmwareImage {image : List (BitVec 8)} {s : State} (hz : NoZero s.lfsr) :
    OutNoZero (execLoadFirmwareImage image s) := by
  unfold execLoadFirmwareImage
  dsimp only
  repeat' split
  all_goals simp [hz]

theorem outNoZero_execCollectiveCommand {page size : ℕ} {data : BitVec 512} {s : State} (hz : NoZero s.lfsr) :
    OutNoZero (execCollectiveCommand page size data s) := by
  unfold execCollectiveCommand
  dsimp only
  repeat' split
  all_goals simp [hz]

theorem outNoZero_execCollectiveOperationEnd {op : ℕ} {contributions : List (List (BitVec 32))} {s : State} (hz : NoZero s.lfsr) :
    OutNoZero (execCollectiveOperationEnd op contributions s) := by
  unfold execCollectiveOperationEnd
  dsimp only
  repeat' split
  all_goals simp [hz]

@[simp] theorem State.outside_lfsr (s : State) (pa : ℕ) (op : ExtOp) (atomics : Bool) (ack : Option Msg) :
    (s.outside pa op atomics ack).lfsr = s.lfsr := by
  unfold State.outside
  dsimp only
  repeat' split
  all_goals simp

theorem outNoZero_execBar2Access {off : ℕ} {op : ExtOp} {s : State} (hz : NoZero s.lfsr) : OutNoZero (execBar2Access off op s) := by
  unfold execBar2Access
  dsimp only
  repeat' split
  all_goals simp [hz]

theorem outNoZero_execUalinkRequest {addr : ℕ} {op : ExtOp} {s : State} (hz : NoZero s.lfsr) : OutNoZero (execUalinkRequest addr op s) := by
  unfold execUalinkRequest
  split <;> simp [hz]

theorem outNoZero_execRoceRequest {port : RocePort} {addr : ℕ} {op : ExtOp} {s : State} (hz : NoZero s.lfsr) :
    OutNoZero (execRoceRequest port addr op s) := by
  unfold execRoceRequest
  dsimp only
  repeat' split
  all_goals simp [hz]

theorem outNoZero_execConfigurationRequest {write : Bool} {off : ℕ} {value : BitVec 32} {s : State} (hz : NoZero s.lfsr) :
    OutNoZero (execConfigurationRequest write off value s) := by
  unfold execConfigurationRequest
  repeat' split
  all_goals simp [hz]

end Sys2Proof.Machine
end

section
/-! SUPPORT. What the functions of Machine/Links.lean leave of the generators. -/

namespace Sys2Proof.Machine

theorem outNoZero_execFlitReceive {src dst : ℕ} {cls : BitVec 4} {crcGood : Bool} {s : State} (hz : NoZero s.lfsr) :
    OutNoZero (execFlitReceive src dst cls crcGood s) := by
  unfold execFlitReceive
  dsimp only
  repeat' split
  all_goals simp [hz]

theorem outNoZero_execScheduleSwitch {die : ℕ} {s : State} (hz : NoZero s.lfsr) : OutNoZero (execScheduleSwitch die s) := by
  unfold execScheduleSwitch
  split <;> simp [hz]

theorem outNoZero_execHeartbeatSend {die : ℕ} {s : State} (hz : NoZero s.lfsr) : OutNoZero (execHeartbeatSend die s) := by
  unfold execHeartbeatSend
  dsimp only
  repeat' split
  all_goals simp [hz]

theorem outNoZero_execHeartbeatReceive {n : ℕ} {s : State} (hz : NoZero s.lfsr) : OutNoZero (execHeartbeatReceive n s) := by
  unfold execHeartbeatReceive
  split <;> simp [hz]

theorem outNoZero_execDieSilent {die : ℕ} {s : State} (hz : NoZero s.lfsr) : OutNoZero (execDieSilent die s) := by
  unfold execDieSilent
  dsimp only
  repeat' split
  all_goals simp [hz]

@[simp] theorem noZero_loseDie {s : State} (d : ℕ) (hz : NoZero s.lfsr) : NoZero (s.loseDie d).lfsr := by
  unfold State.loseDie
  dsimp only
  rw [foldl_lfsr (fun s e => by simp)]
  exact noZero_offDie (by simpa using hz) _ _

@[simp] theorem State.recoverGrid_lfsr (s : State) (d g : ℕ) : (s.recoverGrid d g).lfsr = s.lfsr := by simp [State.recoverGrid]
@[simp] theorem State.loseShell_lfsr (s : State) (d : ℕ) : (s.loseShell d).lfsr = s.lfsr := by simp [State.loseShell]

@[simp] theorem noZero_completeFence {s : State} (d : ℕ) (shell : Bool) (hz : NoZero s.lfsr) : NoZero (s.completeFence d shell).lfsr := by
  unfold State.completeFence
  dsimp only
  split
  · rw [State.loseShell_lfsr]
    exact noZero_loseDie d (by simpa using hz)
  · exact noZero_loseDie d (by simpa using hz)

theorem outNoZero_execFenceAcknowledge {die : ℕ} {s : State} (hz : NoZero s.lfsr) : OutNoZero (execFenceAcknowledge die s) := by
  unfold execFenceAcknowledge
  split <;> simp [hz]

theorem outNoZero_execFenceTimeout {die : ℕ} {s : State} (hz : NoZero s.lfsr) : OutNoZero (execFenceTimeout die s) := by
  unfold execFenceTimeout
  repeat' split
  all_goals simp [hz]

theorem outNoZero_execShellPowerFault {die : ℕ} {s : State} (hz : NoZero s.lfsr) : OutNoZero (execShellPowerFault die s) := by
  unfold execShellPowerFault
  split <;> simp [hz]

theorem outNoZero_execResetDie {s : State} (hz : NoZero s.lfsr) : OutNoZero (execResetDie s) := by
  unfold execResetDie
  dsimp only
  repeat' split
  all_goals simp [hz]

end Sys2Proof.Machine
end

section
/-! SUPPORT. What the functions of Machine/Power.lean leave of the generators. -/

namespace Sys2Proof.Machine

@[simp] theorem State.afterPower_lfsr (s : State) (p : Pkg) : (s.afterPower p).lfsr = [] := rfl
theorem outNoZero_execPowerOn {s : State} : OutNoZero (execPowerOn s) := outNoZero_next.mpr noZero_nil

@[simp] theorem State.runImage_lfsr (s : State) (kind : ℕ) (images : List (List Byte)) : (s.runImage kind images).1.lfsr = s.lfsr := by
  unfold State.runImage
  dsimp only
  split <;> simp

@[simp] theorem State.failDies_lfsr (s : State) (bad : BitVec 8) (shell : Bool) : (s.failDies bad shell).lfsr = s.lfsr := by simp [State.failDies]
@[simp] theorem State.booted_lfsr (s : State) (n : ℕ) : (s.booted n).lfsr = s.lfsr := by simp [State.booted]
@[simp] theorem State.coresReset_lfsr (s : State) : s.coresReset.lfsr = s.lfsr := by simp [State.coresReset]

theorem outNoZero_execPowerUpStep {pass : BitVec 8} {images : List (List (BitVec 8))} {s : State} (hz : NoZero s.lfsr) :
    OutNoZero (execPowerUpStep pass images s) := by
  unfold execPowerUpStep
  dsimp only
  repeat' split
  all_goals simp [hz]

theorem outNoZero_execS1Entry {die : ℕ} {s : State} (hz : NoZero s.lfsr) : OutNoZero (execS1Entry die s) := by
  unfold execS1Entry
  dsimp only
  repeat' split
  all_goals simp [hz]

@[simp] theorem State.enterDeep_lfsr (s : State) (pst us : ℕ) : (s.enterDeep pst us).lfsr = s.lfsr := by simp [State.enterDeep]
@[simp] theorem State.dropLinks_lfsr (s : State) : s.dropLinks.lfsr = s.lfsr := by simp [State.dropLinks]

theorem outNoZero_execS2Entry {s : State} (hz : NoZero s.lfsr) : OutNoZero (execS2Entry s) := by
  unfold execS2Entry
  dsimp only
  repeat' split
  all_goals simp [hz]

theorem outNoZero_execS3Entry {s : State} (hz : NoZero s.lfsr) : OutNoZero (execS3Entry s) := by
  unfold execS3Entry
  dsimp only
  repeat' split
  all_goals simp [hz]

theorem outNoZero_execWakeEvent {s : State} (hz : NoZero s.lfsr) : OutNoZero (execWakeEvent s) := by
  unfold execWakeEvent
  split <;> simp [hz]

@[simp] theorem State.raiseAlarm_lfsr (s : State) (sources : BitVec 4) : (s.raiseAlarm sources).lfsr = [] := rfl

theorem outNoZero_execSecurityAlarm {sources : BitVec 4} {s : State} (hz : NoZero s.lfsr) : OutNoZero (execSecurityAlarm sources s) := by
  unfold execSecurityAlarm
  split <;> simp [hz, noZero_nil]

@[simp] theorem State.coreRead_lfsr (s : State) (core temp : ℕ) : (s.coreRead core temp).lfsr = s.lfsr := by simp [State.coreRead]
@[simp] theorem State.coresRead_lfsr (s : State) (die : ℕ) (temps : List ℕ) : (s.coresRead die temps).lfsr = s.lfsr := by simp [State.coresRead]

theorem outNoZero_execThrottleStep {die : ℕ} {temps : List ℕ} {power : ℕ} {s : State} (hz : NoZero s.lfsr) :
    OutNoZero (execThrottleStep die temps power s) := by
  unfold execThrottleStep
  dsimp only
  repeat' split
  all_goals simp [hz]

theorem outNoZero_execDramHot {die layer temp : ℕ} {s : State} (hz : NoZero s.lfsr) : OutNoZero (execDramHot die layer temp s) := by
  unfold execDramHot
  dsimp only
  repeat' split
  all_goals simp [hz]

theorem outNoZero_execCoreAvoidance {c : CoreId} {temp : ℕ} {s : State} (hz : NoZero s.lfsr) : OutNoZero (execCoreAvoidance c temp s) := by
  unfold execCoreAvoidance
  split <;> simp [hz]

theorem outNoZero_execDroopEvent {c : CoreId} {s : State} (hz : NoZero s.lfsr) : OutNoZero (execDroopEvent c s) := by
  unfold execDroopEvent
  dsimp only
  repeat' split
  all_goals simp [hz]

theorem outNoZero_execAvoidanceExpire {c : CoreId} {s : State} (hz : NoZero s.lfsr) : OutNoZero (execAvoidanceExpire c s) := by
  unfold execAvoidanceExpire
  dsimp only
  repeat' split
  all_goals simp [hz]

@[simp] theorem State.spdmAnswer_lfsr (s : State) (r stage : ℕ) (m : SpdmResp) (busy : Bool) :
    (s.spdmAnswer r stage m busy).lfsr = s.lfsr := by simp [State.spdmAnswer]

@[simp] theorem State.spdmAt_lfsr (s : State) (r need next : ℕ) (m : SpdmResp) (busy : Bool) :
    (s.spdmAt r need next m busy).lfsr = s.lfsr := by simp [State.spdmAt]

theorem outNoZero_execGetVersion {requester : ℕ} {s : State} (hz : NoZero s.lfsr) : OutNoZero (execGetVersion requester s) := by
  simp [execGetVersion, hz]

theorem outNoZero_execGetCapabilities {requester : ℕ} {s : State} (hz : NoZero s.lfsr) : OutNoZero (execGetCapabilities requester s) := by
  simp [execGetCapabilities, hz]

theorem outNoZero_execNegotiateAlgorithms {requester : ℕ} {offered : List (BitVec 16)} {s : State} (hz : NoZero s.lfsr) :
    OutNoZero (execNegotiateAlgorithms requester offered s) := by
  unfold execNegotiateAlgorithms
  split <;> simp [hz]

theorem outNoZero_execGetDigests {requester : ℕ} {s : State} (hz : NoZero s.lfsr) : OutNoZero (execGetDigests requester s) := by
  simp [execGetDigests, hz]

theorem outNoZero_execGetCertificate {requester slot : ℕ} {s : State} (hz : NoZero s.lfsr) :
    OutNoZero (execGetCertificate requester slot s) := by
  unfold execGetCertificate
  split <;> simp [hz]

theorem outNoZero_execChallenge {requester : ℕ} {nonce : List (BitVec 8)} {s : State} (hz : NoZero s.lfsr) :
    OutNoZero (execChallenge requester nonce s) := by
  unfold execChallenge
  split <;> simp [hz]

theorem outNoZero_execGetMeasurements {requester index : ℕ} {s : State} (hz : NoZero s.lfsr) :
    OutNoZero (execGetMeasurements requester index s) := by
  unfold execGetMeasurements
  split <;> simp [hz]

end Sys2Proof.Machine
end

section
/-! SUPPORT. What the functions of Machine/Stream.lean leave of the generators. -/

namespace Sys2Proof.Machine

theorem noZero_streamBad {c : Ctx} {st : Stream} {r : Res} (hr : c.streamBad st = some r) : r.NoZero := by
  unfold Ctx.streamBad at hr
  dsimp only at hr
  split at hr
  · exact noZero_checkBounds hr
  · exact noZero_padRange hr

theorem outNoZero_execSatt {o : SattOps} {s : State} (hz : NoZero s.lfsr) : OutNoZero (execSatt o s) := by
  refine outNoZero_issue hz _ fun c hc => ?_
  extract_lets va
  split
  · exact hc
  · split
    · simp
    · split
      · simp
      · split
        case h_1 hx => exact (passes_readDesc hc ..).error hx
        case h_2 hx =>
          have hs := (passes_readDesc hc ..).ok hx
          split
          · simp
          · extract_lets base st u
            split
            case h_1 hx => exact noZero_streamBad hx
            case h_2 =>
              have hu : NoZero u.lfsr := by simpa [u] using hs
              split <;> simp [hu]

theorem outNoZero_execSdet {port : BitVec 8} {s : State} (hz : NoZero s.lfsr) : OutNoZero (execSdet port s) := by
  unfold execSdet
  refine outNoZero_issue hz _ fun c hc => ?_
  dsimp only
  repeat' split
  all_goals simp [hc]

end Sys2Proof.Machine
end

section
/-! SUPPORT. No step leaves a generator at zero, and obligation O9. -/

namespace Sys2Proof.Machine

/-- No instruction or event leaves a generator at zero. -/
theorem outNoZero_exec {s : State} (hz : NoZero s.lfsr) (i : Instr) : OutNoZero (exec i s) := by
  cases i
  -- Machine/Int.lean
  case nop => exact outNoZero_execNop hz
  case mov => exact outNoZero_execMov hz
  case movi => exact outNoZero_execMovi hz
  case movs => exact outNoZero_execMovs hz
  case movkToLane => exact outNoZero_execMovkToLane hz
  case movkToUniform => exact outNoZero_execMovkToUniform hz
  case iadd => exact outNoZero_execIadd hz
  case iaddc => exact outNoZero_execIaddc hz
  case isub => exact outNoZero_execIsub hz
  case imul => exact outNoZero_execImul hz
  case imulh => exact outNoZero_execImulh hz
  case imad => exact outNoZero_execImad hz
  case imadw => exact outNoZero_execImadw hz
  case idiv => exact outNoZero_execIdiv hz
  case irem => exact outNoZero_execIrem hz
  case imin => exact outNoZero_execImin hz
  case imax => exact outNoZero_execImax hz
  case iabs => exact outNoZero_execIabs hz
  case ineg => exact outNoZero_execIneg hz
  case and => exact outNoZero_execAnd hz
  case or => exact outNoZero_execOr hz
  case xor => exact outNoZero_execXor hz
  case not => exact outNoZero_execNot hz
  case shl => exact outNoZero_execShl hz
  case shr => exact outNoZero_execShr hz
  case sar => exact outNoZero_execSar hz
  case rol => exact outNoZero_execRol hz
  case bfe => exact outNoZero_execBfe hz
  case bfi => exact outNoZero_execBfi hz
  case popc => exact outNoZero_execPopc hz
  case clz => exact outNoZero_execClz hz
  case ctz => exact outNoZero_execCtz hz
  case brev => exact outNoZero_execBrev hz
  case prm => exact outNoZero_execPrm hz
  case icmp => exact outNoZero_execIcmp hz
  case sel => exact outNoZero_execSel hz
  case plop => exact outNoZero_execPlop hz
  case padd => exact outNoZero_execPadd hz
  case psub => exact outNoZero_execPsub hz
  case pcmp => exact outNoZero_execPcmp hz
  case pbnd => exact outNoZero_execPbnd hz
  -- Machine/Fp.lean
  case fadd => exact outNoZero_execFadd hz
  case fsub => exact outNoZero_execFsub hz
  case fmul => exact outNoZero_execFmul hz
  case ffma => exact outNoZero_execFfma hz
  case fmin => exact outNoZero_execFmin hz
  case fmax => exact outNoZero_execFmax hz
  case fabs => exact outNoZero_execFabs hz
  case fneg => exact outNoZero_execFneg hz
  case fcmp => exact outNoZero_execFcmp hz
  case fdiv => exact outNoZero_execFdiv hz
  case fsqrt => exact outNoZero_execFsqrt hz
  case frcp => exact outNoZero_execFrcp hz
  case frsq => exact outNoZero_execFrsq hz
  case fex2 => exact outNoZero_execFex2 hz
  case flg2 => exact outNoZero_execFlg2 hz
  case fsin => exact outNoZero_execFsin hz
  case fcos => exact outNoZero_execFcos hz
  case frnd => exact outNoZero_execFrnd hz
  case fclass => exact outNoZero_execFclass hz
  case cvt => exact outNoZero_execCvt hz
  case idp4 => exact outNoZero_execIdp4 hz
  case idp8 => exact outNoZero_execIdp8 hz
  case fdp2 => exact outNoZero_execFdp2 hz
  -- Machine/Algebra.lean
  case atab => exact outNoZero_execAtab hz
  case amul => exact outNoZero_execAmul hz
  case amac => exact outNoZero_execAmac hz
  case aconj => exact outNoZero_execAconj hz
  case anorm => exact outNoZero_execAnorm hz
  case aadd => exact outNoZero_execAadd hz
  case ascl => exact outNoZero_execAscl hz
  -- Machine/Lanes.lean
  case qswp => exact outNoZero_execQswp hz
  case qdx => exact outNoZero_execQdx hz
  case qdy => exact outNoZero_execQdy hz
  case vote => exact outNoZero_execVote hz
  case shfl => exact outNoZero_execShfl hz
  case redi => exact outNoZero_execRedi hz
  case redf => exact outNoZero_execRedf hz
  case scan => exact outNoZero_execScan hz
  case matchAny => exact outNoZero_execMatchAny hz
  case elect => exact outNoZero_execElect hz
  -- Machine/Control.lean
  case next => exact outNoZero_execNext hz
  case nexti => exact outNoZero_execNexti hz
  case brv => exact outNoZero_execBrv hz
  case call => exact outNoZero_execCall hz
  case ret => exact outNoZero_execRet hz
  case spawn => exact outNoZero_execSpawn hz
  case exit => exact outNoZero_execExit hz
  case yield => exact outNoZero_execYield hz
  case barArw => exact outNoZero_execBarArw hz
  case barArv => exact outNoZero_execBarArv hz
  case barWt => exact outNoZero_execBarWt hz
  case barExp => exact outNoZero_execBarExp hz
  case barinit => exact outNoZero_execBarinit hz
  case trap => exact outNoZero_execTrap hz
  case featq => exact outNoZero_execFeatq hz
  case featqBit => exact outNoZero_execFeatqBit hz
  -- Machine/Mem.lean
  case ld => exact outNoZero_execLd hz
  case st => exact outNoZero_execSt hz
  case lds => exact outNoZero_execLds hz
  case sts => exact outNoZero_execSts hz
  case atom => exact outNoZero_execAtom hz
  case red => exact outNoZero_execRed hz
  case lr => exact outNoZero_execLr hz
  case sc => exact outNoZero_execSc hz
  case fence => exact outNoZero_execFence hz
  case commit => exact outNoZero_execCommit hz
  case stag => exact outNoZero_execStag hz
  case ldtag => exact outNoZero_execLdtag hz
  -- Machine/Stream.lean
  case satt => exact outNoZero_execSatt hz
  case sdet => exact outNoZero_execSdet hz
  -- Machine/Matrix.lean
  case mma => exact outNoZero_execMma hz
  case mwait => exact outNoZero_execMwait hz
  case mfence => exact outNoZero_execMfence hz
  case aalloc => exact outNoZero_execAalloc hz
  case afree => exact outNoZero_execAfree hz
  case accr => exact outNoZero_execAccr hz
  case accw => exact outNoZero_execAccw hz
  case accz => exact outNoZero_execAccz hz
  case accst => exact outNoZero_execAccst hz
  case accld => exact outNoZero_execAccld hz
  case arbiterGrant => exact outNoZero_execArbiterGrant hz
  case mmaPassEnd => exact outNoZero_execMmaPassEnd hz
  case mmaComplete => exact outNoZero_execMmaComplete hz
  case mmaRetry => exact outNoZero_execMmaRetry hz
  -- Machine/Copy.lean
  case cpbox => exact outNoZero_execCpbox hz
  case cpred => exact outNoZero_execCpred hz
  case tmov => exact outNoZero_execTmov hz
  case copySlotClaim => exact outNoZero_execCopySlotClaim hz
  case copyComplete => exact outNoZero_execCopyComplete hz
  -- Machine/Scratch.lean
  case mapr => exact outNoZero_execMapr hz
  case wback => exact outNoZero_execWback hz
  case unmapr => exact outNoZero_execUnmapr hz
  case cbinit => exact outNoZero_execCbinit hz
  case cbacq => exact outNoZero_execCbacq hz
  case cbrel => exact outNoZero_execCbrel hz
  case mapFillComplete => exact outNoZero_execMapFillComplete hz
  case writebackComplete => exact outNoZero_execWritebackComplete hz
  -- Machine/Directory.lean
  case dopen => exact outNoZero_execDopen hz
  case dopenW => exact outNoZero_execDopenW hz
  case dclose => exact outNoZero_execDclose hz
  case dbind => exact outNoZero_execDbind hz
  case dunbind => exact outNoZero_execDunbind hz
  case dptr => exact outNoZero_execDptr hz
  case dquery => exact outNoZero_execDquery hz
  case dopenTimeout => exact outNoZero_execDopenTimeout hz
  -- Machine/System.lean
  case csrr => exact outNoZero_execCsrr hz
  case csrw => exact outNoZero_execCsrw hz
  case csrwSet => exact outNoZero_execCsrwSet hz
  case csrwClr => exact outNoZero_execCsrwClr hz
  case eret => exact outNoZero_execEret hz
  case haltGrid => exact outNoZero_execHaltGrid hz
  case haltCtx => exact outNoZero_execHaltCtx hz
  case brk => exact outNoZero_execBrk hz
  case prog => exact outNoZero_execProg hz
  case mark => exact outNoZero_execMark hz
  case markValue => exact outNoZero_execMarkValue hz
  -- Machine/Kernel.lean
  case resultWrite => exact outNoZero_execResultWrite hz
  case bankService => exact outNoZero_execBankService hz
  case streamElementArrival => exact outNoZero_execStreamElementArrival hz
  case barrierCompletionMulticast => exact outNoZero_execBarrierCompletionMulticast hz
  case binTimerExpire => exact outNoZero_execBinTimerExpire hz
  case floeLaunch => exact outNoZero_execFloeLaunch hz
  case floeDemote => exact outNoZero_execFloeDemote hz
  case floeExhaustion => exact outNoZero_execFloeExhaustion hz
  case spawnResume => exact outNoZero_execSpawnResume hz
  case reservationHoldExpire => exact outNoZero_execReservationHoldExpire hz
  case gridStop => exact outNoZero_execGridStop hz
  -- Machine/Net.lean
  case homeAccess => exact outNoZero_execHomeAccess hz
  case writeAcknowledgement => exact outNoZero_execWriteAcknowledgement hz
  -- Machine/Fault.lean
  case tlbWalkComplete => exact outNoZero_execTlbWalkComplete hz
  case pageRequestGroupSend => unfold exec; exact outNoZero_execPageRequestGroupSend hz
  case prgResponse => exact outNoZero_execPrgResponse hz
  case taskReplace => exact outNoZero_execTaskReplace hz
  case atsTranslationCompletion => exact outNoZero_execAtsTranslationCompletion hz
  case atsInvalidateRequest => exact outNoZero_execAtsInvalidateRequest hz
  case invalidationComplete => exact outNoZero_execInvalidationComplete hz
  case contextResume => exact outNoZero_execContextResume hz
  case boundsWrite => exact outNoZero_execBoundsWrite hz
  case boundsRead => exact outNoZero_execBoundsRead hz
  case boundsClear => exact outNoZero_execBoundsClear hz
  case tlbInvalidatePage => exact outNoZero_execTlbInvalidatePage hz
  case tlbInvalidateContext => exact outNoZero_execTlbInvalidateContext hz
  case invalidatePage => exact outNoZero_execInvalidatePage hz
  case invalidateContext => exact outNoZero_execInvalidateContext hz
  case writeBoundsEntry => exact outNoZero_execWriteBoundsEntry hz
  -- Machine/Segment.lean
  case segmentRequest => exact outNoZero_execSegmentRequest hz
  case segmentDelivery => exact outNoZero_execSegmentDelivery hz
  case recallSegment => exact outNoZero_execRecall hz
  case reclgetWrite => exact outNoZero_execReclgetWrite hz
  case reclbaseWrite => exact outNoZero_execReclbaseWrite hz
  case codeObjectUnload => exact outNoZero_execCodeObjectUnload hz
  case driverDirectoryCommand => exact outNoZero_execDriverDirectoryCommand hz
  -- Machine/Launch.lean
  case launchRecord => exact outNoZero_execLaunchRecord hz
  case deviceSideLaunch => exact outNoZero_execDeviceSideLaunch hz
  case driftDistribution => exact outNoZero_execDriftDistribution hz
  case blockPlace => exact outNoZero_execBlockPlace hz
  case shareScrubComplete => exact outNoZero_execShareScrubComplete hz
  case gridEnd => exact outNoZero_execGridEnd hz
  case contextPreempt => exact outNoZero_execContextPreempt hz
  case preempt => exact outNoZero_execPreempt hz
  case gridEndByHost => exact outNoZero_execGridEndByHost hz
  -- Machine/Debug.lean
  case stopBlock => exact outNoZero_execStopBlock hz
  case haltGridCommand => exact outNoZero_execHaltGridCommand hz
  case haltContext => exact outNoZero_execHaltContext hz
  case resume => exact outNoZero_execResume hz
  case step => exact outNoZero_execStep hz
  case stepTimeout => exact outNoZero_execStepTimeout hz
  case dump => exact outNoZero_execDump hz
  case dumpEnd => exact outNoZero_execDumpEnd hz
  case debugRecall => exact outNoZero_execDebugRecall hz
  case remoteWrite => exact outNoZero_execRemoteWrite hz
  case remoteRead => exact outNoZero_execRemoteRead hz
  case sample => exact outNoZero_execSample hz
  -- Machine/Window.lean
  case loadLinkSchedule => exact outNoZero_execLoadLinkSchedule hz
  case checkpoint => exact outNoZero_execCheckpoint hz
  case restore => exact outNoZero_execRestore hz
  case loadFirmwareImage => exact outNoZero_execLoadFirmwareImage hz
  case hmapWrite => exact outNoZero_execHmapWrite hz
  case fwsvnWrite => exact outNoZero_execFwsvnWrite hz
  case linkTestCorrupt => exact outNoZero_execLinkTestCorrupt hz
  case rcRegisterRead => exact outNoZero_execRcRegisterRead hz
  case registerWrite => exact outNoZero_execRegisterWrite hz
  case collectiveCommand => exact outNoZero_execCollectiveCommand hz
  case collectiveOperationEnd => exact outNoZero_execCollectiveOperationEnd hz
  case bar2Access => exact outNoZero_execBar2Access hz
  case configurationRequest => exact outNoZero_execConfigurationRequest hz
  case ualinkRequest => exact outNoZero_execUalinkRequest hz
  case roceRequest => exact outNoZero_execRoceRequest hz
  -- Machine/Links.lean
  case resetDie => exact outNoZero_execResetDie hz
  case flitReceive => exact outNoZero_execFlitReceive hz
  case scheduleSwitch => exact outNoZero_execScheduleSwitch hz
  case heartbeatSend => exact outNoZero_execHeartbeatSend hz
  case heartbeatReceive => exact outNoZero_execHeartbeatReceive hz
  case dieSilent => exact outNoZero_execDieSilent hz
  case fenceAcknowledge => exact outNoZero_execFenceAcknowledge hz
  case fenceTimeout => exact outNoZero_execFenceTimeout hz
  case shellPowerFault => exact outNoZero_execShellPowerFault hz
  -- Machine/Errors.lean
  case errorLogRead => exact outNoZero_execErrorLogRead hz
  case errorLogClear => exact outNoZero_execErrorLogClear hz
  case errorLogOverflowRead => exact outNoZero_execErrorLogOverflowRead hz
  case injectionArm => exact outNoZero_execInjectionArm hz
  case eccError => exact outNoZero_execEccError hz
  case patrolScrub => exact outNoZero_execPatrolScrub hz
  -- Machine/Power.lean
  case powerOn => exact outNoZero_execPowerOn
  case powerUpStep => exact outNoZero_execPowerUpStep hz
  case s1Entry => exact outNoZero_execS1Entry hz
  case s2Entry => exact outNoZero_execS2Entry hz
  case s3Entry => exact outNoZero_execS3Entry hz
  case wakeEvent => exact outNoZero_execWakeEvent hz
  case throttleStep => exact outNoZero_execThrottleStep hz
  case dramHot => exact outNoZero_execDramHot hz
  case coreAvoidance => exact outNoZero_execCoreAvoidance hz
  case droopEvent => exact outNoZero_execDroopEvent hz
  case avoidanceExpire => exact outNoZero_execAvoidanceExpire hz
  case securityAlarm => exact outNoZero_execSecurityAlarm hz
  case getVersion => exact outNoZero_execGetVersion hz
  case getCapabilities => exact outNoZero_execGetCapabilities hz
  case negotiateAlgorithms => exact outNoZero_execNegotiateAlgorithms hz
  case getDigests => exact outNoZero_execGetDigests hz
  case getCertificate => exact outNoZero_execGetCertificate hz
  case challenge => exact outNoZero_execChallenge hz
  case getMeasurements => exact outNoZero_execGetMeasurements hz

@[simp] theorem State.pass_lfsr (s : State) (n : ℕ → ℕ) : (s.pass n).lfsr = s.lfsr := rfl
@[simp] theorem State.tick_lfsr (s : State) : s.tick.lfsr = s.lfsr := rfl
@[simp] theorem State.pace_lfsr (s : State) (t : Turn) : (s.pace t).lfsr = s.lfsr := rfl

theorem outNoZero_issueNext {s : State} (hz : NoZero s.lfsr) (k : ℕ) : OutNoZero (s.issueNext k) := by
  unfold State.issueNext
  dsimp only
  split
  · exact outNoZero_next.mpr hz
  · rw [outNoZero_next, State.settleDue_lfsr]
    exact noZero_illegal (s := { s with cur := floeIdOf k }) hz k
  · exact outNoZero_exec (s := { s with cur := floeIdOf k }) hz _

theorem outNoZero_turnFloe {s : State} (hz : NoZero s.lfsr) (k : ℕ) : OutNoZero (s.turnFloe k) := by
  have h₁ := outNoZero_issueNext hz k
  unfold State.turnFloe
  split
  case h_1 t ht =>
    have hn := h₁ t ht
    split
    · have h₂ := outNoZero_issueNext hn k
      split
      case h_1 u hu => simpa using h₂ u hu
      case h_2 => exact h₂
    · simpa using hn
  case h_2 => exact h₁

theorem outNoZero_stepTurn {s : State} (hz : NoZero s.lfsr) (t : Turn) : OutNoZero (stepTurn t s) := by
  have hp : NoZero (s.pace t).lfsr := hz
  unfold stepTurn
  dsimp only
  split
  · split
    · exact outNoZero_turnFloe hp _
    · exact outNoZero_next.mpr hp
  · split
    · exact outNoZero_exec hp _
    · exact outNoZero_next.mpr hp

/-- No step of the machine leaves a generator at zero (R32). -/
theorem outNoZero_step {s : State} (hz : NoZero s.lfsr) : OutNoZero (step s) := by
  have ht : NoZero s.tick.lfsr := hz
  unfold step
  dsimp only
  split
  · exact outNoZero_stepTurn (by exact hz) _
  · split
    · exact outNoZero_stepTurn ht _
    · exact outNoZero_next.mpr ht

/-- When the low bit is set the result has bit 31, which the polynomial has and the shifted word has not; else the shift loses no bit. -/
theorem lfsrStep_ne_zero {x : Word} (hx : x ≠ 0) : lfsrStep x ≠ 0 := by
  unfold lfsrStep
  dsimp only
  split
  · intro h
    have h31 : ((x >>> 1) ^^^ 0x80200003#32).getLsbD 31 = (0 : Word).getLsbD 31 := by rw [h]
    simp at h31
  case isFalse hlow =>
    intro h
    refine hx (BitVec.eq_of_getLsbD_eq fun i hi => ?_)
    cases i with
    | zero => simpa using hlow
    | succ i =>
      have hi := congrArg (fun w : Word => w.getLsbD i) h
      simpa [BitVec.getLsbD_ushiftRight, Nat.add_comm] using hi

/-- Settles O9: the step and the seed by cases; the third clause by a frame of the generators over every function of the machine. -/
theorem generatorStep : Obligations.GeneratorStep := by
  unfold Obligations.GeneratorStep
  refine ⟨fun x => rfl, fun x hx => lfsrStep_ne_zero hx, fun s q seed => ⟨?_, fun p hp => ?_, fun t hz ht => ?_⟩⟩
  · exact (State.lfsrOf_setLfsr ..).trans (if_pos rfl)
  · rw [State.lfsrOf_setLfsr, if_neg hp]
  · exact outNoZero_step hz t ht

end Sys2Proof.Machine
end

section
/-! SUPPORT. The slot that the encoder makes of an instruction, read back: its bits, its codes, its operands class by class, its instruction. -/

namespace Sys2Proof

/-! ### Codes -/

@[simp] theorem Cond.ofBits_bits (c : Cond) : Cond.ofBits c.bits = some c := by cases c <;> rfl
@[simp] theorem Rnd.ofBits_bits (r : Rnd) : Rnd.ofBits r.bits = some r := by cases r <;> rfl
@[simp] theorem FpTy.ofBits_bits (t : FpTy) : FpTy.ofBits t.bits = some t := by cases t <;> rfl
@[simp] theorem CFmt.ofBits_bits (f : CFmt) : CFmt.ofBits f.bits = some f := by cases f <;> rfl
@[simp] theorem Space.ofBits_bits (s : Space) : Space.ofBits s.bits = some s := by cases s <;> rfl
@[simp] theorem Scope.ofBits_bits (s : Scope) : Scope.ofBits s.bits = some s := by cases s <;> rfl
@[simp] theorem Order.ofBits_bits (o : Order) : Order.ofBits o.bits = some o := by cases o <;> rfl
@[simp] theorem IntTy.ofCode_bits (t : IntTy) : IntTy.ofCode t.bits.toNat = some t := by cases t <;> rfl
@[simp] theorem Form.ofCode_bits (f : Form) : Form.ofCode f.bits = f := by cases f <;> rfl
@[simp] theorem boolBit_beq (b : Bool) : (boolBit b == 1#1) = b := by cases b <;> rfl

/-- A bit is the field of width 1 at its place. -/
theorem getLsbD_eq_field {w : Nat} (x : BitVec w) (k : Nat) : x.getLsbD k = (x.extractLsb' k 1 == 1#1) := by
  rw [Bool.eq_iff_iff, beq_iff_eq]
  refine ⟨fun h => ?_, fun h => ?_⟩
  · ext i hi
    obtain rfl : i = 0 := by omega
    simp [h]
  · simpa using congrArg (·.getLsbD 0) h

/-- R47: the bits of a slot, taken apart again, are its fields. -/
theorem Slot.ofBits_bits (s : Slot) : Slot.ofBits s.bits = s := by
  simp (disch := omega) only [Slot.ofBits, Slot.bits, BitVec.extractLsb'_append_eq_of_le, BitVec.extractLsb'_append_eq_of_add_le,
    Nat.reduceSub, BitVec.extractLsb'_eq_self]

@[simp] theorem Head.eta (h : Head) : (⟨h.neg1 == 1#1, h.pred, h.la⟩ : Head) = h := by
  obtain ⟨n, p, l⟩ := h
  cases n <;> rfl

/-! ### Operands, class by class -/

theorem IntOps.slot_int (opc : BitVec 8) (var : BitVec 2) (o : IntOps) : (o.slot opc var).int = some o := by
  simp (disch := omega) only [Slot.int, IntOps.slot, slotOf, Slot.head, getLsbD_eq_field, BitVec.extractLsb'_append_eq_of_le,
    BitVec.extractLsb'_append_eq_of_add_le, Nat.reduceSub, BitVec.extractLsb'_eq_self]
  simp

theorem FpOps.slot_fp (opc : BitVec 8) (var : BitVec 2) (o : FpOps) : (o.slot opc var).fp = some o := by
  simp (disch := omega) only [Slot.fp, FpOps.slot, slotOf, Slot.head, getLsbD_eq_field, BitVec.extractLsb'_append_eq_of_le,
    BitVec.extractLsb'_append_eq_of_add_le, Nat.reduceSub, BitVec.extractLsb'_eq_self]
  simp

theorem CvtOps.slot_cvt (o : CvtOps) : o.slot.cvt = some o := by
  simp (disch := omega) only [Slot.cvt, CvtOps.slot, slotOf, Slot.head, getLsbD_eq_field, BitVec.extractLsb'_append_eq_of_le,
    BitVec.extractLsb'_append_eq_of_add_le, Nat.reduceSub, BitVec.extractLsb'_eq_self]
  simp

theorem AlgOps.slot_alg (opc : BitVec 8) (o : AlgOps) : (o.slot opc).alg = some o := by
  simp (disch := omega) only [Slot.alg, AlgOps.slot, slotOf, Slot.head, getLsbD_eq_field, BitVec.extractLsb'_append_eq_of_le,
    BitVec.extractLsb'_append_eq_of_add_le, Nat.reduceSub, BitVec.extractLsb'_eq_self]
  simp

theorem LaneOps.slot_lane (opc : BitVec 8) (o : LaneOps) : (o.slot opc).lane = o := by
  simp (disch := omega) only [Slot.lane, LaneOps.slot, slotOf, Slot.head, BitVec.extractLsb'_append_eq_of_add_le, BitVec.extractLsb'_eq_self]
  simp

theorem MemOps.slot_mem (opc : BitVec 8) (o : MemOps) : (o.slot opc).mem = some o := by
  simp (disch := omega) only [Slot.mem, MemOps.slot, slotOf, Slot.head, getLsbD_eq_field, BitVec.extractLsb'_append_eq_of_le,
    BitVec.extractLsb'_append_eq_of_add_le, Nat.reduceSub, BitVec.extractLsb'_eq_self]
  simp

theorem RegOps.slot_reg (opc : BitVec 8) (func : BitVec 4) (mod : BitVec 44) (o : RegOps) : (o.slot opc func mod).reg = o := by
  simp [Slot.reg, RegOps.slot, slotOf, Slot.head]

theorem DescOps.slot_desc (opc : BitVec 8) (o : DescOps) : (o.slot opc).desc = some o := by
  simp (disch := omega) only [Slot.desc, DescOps.slot, slotOf, Slot.head, BitVec.extractLsb'_append_eq_of_le,
    BitVec.extractLsb'_append_eq_of_add_le, Nat.reduceSub, BitVec.extractLsb'_eq_self]
  simp

theorem BarOps.toSlot_bar (func : BitVec 4) (o : BarOps) : (o.toSlot func).bar = some o := by
  simp (disch := omega) only [Slot.bar, BarOps.toSlot, slotOf, Slot.head, BitVec.extractLsb'_append_eq_of_le,
    BitVec.extractLsb'_append_eq_of_add_le, Nat.reduceSub, BitVec.extractLsb'_eq_self]
  simp

theorem succSlot_succ0 (opc d a : BitVec 8) (h : Head) (s0 s1 : BitVec 28) (low : BitVec 4) : (succSlot opc d a h s0 s1 low).succ0 = s0 := by
  simp (disch := omega) only [Slot.succ0, succSlot, slotOf, BitVec.extractLsb'_append_eq_of_le, Nat.reduceSub, BitVec.extractLsb'_eq_self]
  rw [BitVec.extractLsb'_append_extractLsb'_eq_extractLsb' (by decide), BitVec.extractLsb'_append_extractLsb'_eq_extractLsb' (by decide)]
  exact BitVec.extractLsb'_eq_self

theorem succSlot_succ1 (opc d a : BitVec 8) (h : Head) (s0 s1 : BitVec 28) (low : BitVec 4) : (succSlot opc d a h s0 s1 low).succ1 = s1 := by
  simp (disch := omega) only [Slot.succ1, succSlot, slotOf, BitVec.extractLsb'_append_eq_of_le, BitVec.extractLsb'_append_eq_of_add_le,
    Nat.reduceSub, BitVec.extractLsb'_eq_self]

/-! ### Instructions of a class's table -/

theorem IntOps.slot_instr {opc : BitVec 8} (var : BitVec 2) (o : IntOps) (h0 : opc ≠ 0#8) (h : opc.toNat ≤ 0x1B) :
    (o.slot opc var).instr = intOf opc.toNat var.toNat o := by
  have hv : (o.slot opc var).func.extractLsb' 0 2 = var := BitVec.extractLsb'_append_eq_right
  have ho : (o.slot opc var).opc = opc := rfl
  rw [Slot.instr, ho, if_neg h0, if_pos (decide_eq_true h), IntOps.slot_int, hv, Option.bind_some]

theorem FpOps.slot_instr {opc : BitVec 8} (var : BitVec 2) (o : FpOps) (h : 0x20 ≤ opc.toNat ∧ opc.toNat ≤ 0x34) (h1 : opc ≠ 0x31#8) :
    (o.slot opc var).instr = fpOf opc.toNat var.toNat o := by
  have hv : (o.slot opc var).func.extractLsb' 0 2 = var := BitVec.extractLsb'_append_eq_right
  have ho : (o.slot opc var).opc = opc := rfl
  have h0 : opc ≠ 0#8 := by rintro rfl; exact absurd h.1 (by decide)
  rw [Slot.instr, ho, if_neg h0, if_neg (by simp; omega), if_pos (by simp [h, h1]), FpOps.slot_fp, hv, Option.bind_some]

theorem Slot.instr_of_funcOf {s : Slot} {i : Instr} (h : 0x34 < s.opc.toNat) (hf : funcOf s = some i) : s.instr = some i := by
  have h0 : s.opc ≠ 0#8 := by intro e; rw [e] at h; exact absurd h (by decide)
  rw [Slot.instr, if_neg h0, if_neg (by simp; omega), if_neg (by simp; omega), hf]

theorem slot_instr_of_intRow {i : Instr} {r : IntRow} {o : IntOps} {t : Slot} (hr : intRow i = some (r, o)) (ht : i.slot? = some t) :
    t.instr = some i := by
  cases i <;> cases hr <;> cases ht
  all_goals exact o.slot_instr _ (by decide) (by decide)

theorem slot_instr_of_fpRow {i : Instr} {r : FpRow} {o : FpOps} {t : Slot} (hr : fpRow i = some (r, o)) (ht : i.slot? = some t) :
    t.instr = some i := by
  cases i <;> cases hr <;> cases ht
  all_goals exact o.slot_instr _ (by decide) (by decide)

theorem slot_instr_of_algRow {i : Instr} {opc : BitVec 8} {tab rnd : Bool} {o : AlgOps} {t : Slot} (hr : algRow i = some (opc, tab, rnd, o))
    (ht : i.slot? = some t) : t.instr = some i := by
  have ho := o.slot_alg opc
  cases i <;> cases hr <;> cases ht
  all_goals exact congrArg (Option.map _) ho

theorem slot_instr_of_laneRow {i : Instr} {opc : BitVec 8} {o : LaneOps} {t : Slot} (hr : laneRow i = some (opc, o)) (ht : i.slot? = some t) :
    t.instr = some i := by
  have ho := o.slot_lane opc
  cases i <;> cases hr <;> cases ht
  all_goals exact congrArg some (congrArg _ ho)

theorem slot_instr_of_memRow {i : Instr} {opc : BitVec 8} {o : MemOps} {t : Slot} (hr : memRow i = some (opc, o)) (ht : i.slot? = some t) :
    t.instr = some i := by
  have ho := o.slot_mem opc
  cases i <;> cases hr <;> cases ht
  all_goals exact congrArg (Option.map _) ho

theorem slot_instr_of_regRow {i : Instr} {opc : BitVec 8} {func : BitVec 4} {o : RegOps} {t : Slot} (hr : regRow i = some (opc, func, o))
    (ht : i.slot? = some t) : t.instr = some i := by
  have ho := fun m => o.slot_reg opc func m
  cases i <;> cases hr <;> cases ht
  case dquery => exact congrArg some (congrArg₂ Instr.dquery (ho _) BitVec.extractLsb'_append_eq_right)
  all_goals exact congrArg some (congrArg _ (ho _))

theorem slot_instr_of_descRow {i : Instr} {opc : BitVec 8} {o : DescOps} {t : Slot} (hr : descRow i = some (opc, o)) (ht : i.slot? = some t) :
    t.instr = some i := by
  have ho := o.slot_desc opc
  cases i <;> cases hr <;> cases ht
  all_goals exact congrArg (Option.map _) ho

/-! ### Instructions with a slot of their own -/

@[simp] theorem slotOf_head (opc : BitVec 8) (func : BitVec 4) (h : Head) (d a b c : BitVec 8) (mod : BitVec 44) :
    (slotOf opc func h d a b c mod).head = h := Head.eta h

/-- A field between a high and a low part. -/
theorem field_between {u v w : Nat} (hi : BitVec u) (x : BitVec v) (lo : BitVec w) : (hi ++ x ++ lo).extractLsb' w v = x := by
  rw [BitVec.extractLsb'_append_eq_of_le le_rfl, Nat.sub_self, BitVec.extractLsb'_append_eq_right]

theorem SpawnOps.slot_spawn (o : SpawnOps) :
    (succSlot 0x65 o.d o.a o.h o.succ (0#20 ++ o.argn ++ o.tp) (0#2 ++ boolBit o.rs ++ boolBit o.try_)).spawn = o := by
  rw [Slot.spawn, succSlot_succ0, succSlot, slotOf_head]
  simp (disch := omega) only [slotOf, getLsbD_eq_field, BitVec.extractLsb'_append_eq_of_le, BitVec.extractLsb'_append_eq_of_add_le,
    Nat.reduceSub, BitVec.extractLsb'_eq_self, boolBit_beq]
  simp

theorem SattOps.slot_instr (o : SattOps) :
    (slotOf 0x74 0 o.h o.port o.a o.b 0 (0#37 ++ boolBit o.ofs ++ o.space.bits ++ 0#3)).instr = some (.satt o) := by
  have ho : (0#37 ++ boolBit o.ofs ++ o.space.bits ++ 0#3).getLsbD 6 = o.ofs := by
    rw [getLsbD_eq_field, BitVec.extractLsb'_append_eq_of_le (by decide)]
    exact (congrArg (· == 1#1) (field_between ..)).trans (boolBit_beq _)
  change (Space.ofBits (BitVec.extractLsb' 3 3 (0#37 ++ boolBit o.ofs ++ o.space.bits ++ 0#3))).map _ = _
  rw [field_between, Space.ofBits_bits, Option.map_some]
  exact congrArg₂ (fun h x => some (Instr.satt ⟨h, o.port, o.a, o.b, x, o.space⟩)) (slotOf_head ..) ho

theorem fence_slot_instr (h : Head) (sc : Scope) (od : Order) :
    (slotOf 0x7A 0 h 0 0 0 0 (0#31 ++ sc.bits ++ od.bits ++ 0#7)).instr = some (.fence h sc od) := by
  have hs : (0#31 ++ sc.bits ++ od.bits ++ 0#7).extractLsb' 10 3 = sc.bits := by
    rw [BitVec.extractLsb'_append_eq_of_le (by decide)]
    exact field_between ..
  change (Scope.ofBits (BitVec.extractLsb' 10 3 (0#31 ++ sc.bits ++ od.bits ++ 0#7))).bind (fun _ =>
    (Order.ofBits (BitVec.extractLsb' 7 3 (0#31 ++ sc.bits ++ od.bits ++ 0#7))).bind _) = _
  rw [hs, field_between, Scope.ofBits_bits, Order.ofBits_bits]
  exact congrArg (fun h => some (Instr.fence h sc od)) (slotOf_head ..)

/-- The instructions whose slot is a row of a class's table. -/
def Instr.inRow (i : Instr) : Bool :=
  (intRow i).isSome || (fpRow i).isSome || (algRow i).isSome || (laneRow i).isSome || (memRow i).isSome || (regRow i).isSome || (descRow i).isSome

theorem slot_instr_of_not_inRow {i : Instr} {t : Slot} (hr : i.inRow = false) (ht : i.slot? = some t) : t.instr = some i := by
  cases i <;> cases hr <;> cases ht
  case nop | nexti | ret | exit | sdet | commit | mwait | mfence => rfl
  case cvt o => exact congrArg (Option.map _) o.slot_cvt
  case next s => exact congrArg (fun s => some (Instr.next s)) (succSlot_succ0 ..)
  case yield s => exact congrArg (fun s => some (Instr.yield s)) (succSlot_succ0 ..)
  case brv p t n => exact congrArg₂ (fun t n => some (Instr.brv p t n)) (succSlot_succ0 ..) (succSlot_succ1 ..)
  case call d f r => exact congrArg₂ (fun f r => some (Instr.call d f r)) (succSlot_succ0 ..) (succSlot_succ1 ..)
  case spawn o => exact congrArg (fun o => some (Instr.spawn o)) o.slot_spawn
  case barArw o | barArv o | barWt o | barExp o =>
    exact Slot.instr_of_funcOf (show 0x34 < 0x68 by decide) (congrArg (Option.map _) (o.toSlot_bar _))
  case satt o => exact o.slot_instr
  case fence h sc od => exact fence_slot_instr h sc od
  case eret => exact congrArg some (congrArg Instr.eret (slotOf_head ..))
  case haltGrid => exact congrArg some (congrArg Instr.haltGrid (slotOf_head ..))
  case haltCtx => exact congrArg some (congrArg Instr.haltCtx (slotOf_head ..))
  case trap => exact congrArg some (congrArg₂ Instr.trap (slotOf_head ..) (field_between ..))
  case csrr h d n => exact congrArg some (congrArg₂ (Instr.csrr · d ·) (slotOf_head ..) (field_between ..))
  case csrw h a n => exact congrArg some (congrArg₂ (Instr.csrw · a ·) (slotOf_head ..) (field_between ..))
  case csrwSet h a n => exact congrArg some (congrArg₂ (Instr.csrwSet · a ·) (slotOf_head ..) (field_between ..))
  case csrwClr h a n => exact congrArg some (congrArg₂ (Instr.csrwClr · a ·) (slotOf_head ..) (field_between ..))
  case prog => exact congrArg some (congrArg₂ Instr.prog (slotOf_head ..) (field_between ..))
  case mark => exact congrArg some (congrArg₂ Instr.mark (slotOf_head ..) (field_between ..))
  case markValue h a c => exact congrArg some (congrArg₂ (Instr.markValue · a ·) (slotOf_head ..) (field_between ..))
  case featq h d w => exact congrArg some (congrArg₂ (Instr.featq · d ·) (slotOf_head ..) BitVec.extractLsb'_append_eq_right)
  case featqBit h d n => exact congrArg some (congrArg₂ (Instr.featqBit · d ·) (slotOf_head ..) BitVec.extractLsb'_append_eq_right)
  case cbacq h d b => exact congrArg some (congrArg₂ (Instr.cbacq · d ·) (slotOf_head ..) BitVec.extractLsb'_append_eq_right)
  case cbrel => exact congrArg some (congrArg₂ Instr.cbrel (slotOf_head ..) BitVec.extractLsb'_append_eq_right)
  case barinit h a b s => exact congrArg some (congrArg₂ (Instr.barinit · a b ·) (slotOf_head ..) BitVec.extractLsb'_append_eq_right)
  case wback h m s =>
    exact (congrArg (fun h => some (Instr.wback h _ _)) (slotOf_head ..)).trans
      (congrArg₂ (fun m s => some (Instr.wback h m s)) (field_between ..) BitVec.extractLsb'_append_eq_right)
  case unmapr h m s =>
    exact (congrArg (fun h => some (Instr.unmapr h _ _)) (slotOf_head ..)).trans
      (congrArg₂ (fun m s => some (Instr.unmapr h m s)) (field_between ..) BitVec.extractLsb'_append_eq_right)
  case brk h c a =>
    have ha : (0#14 ++ a ++ c ++ 0#12).extractLsb' 28 2 = a := by
      rw [BitVec.extractLsb'_append_eq_of_le (by decide)]
      exact field_between ..
    exact (congrArg (fun h => some (Instr.brk h _ _)) (slotOf_head ..)).trans (congrArg₂ (fun c a => some (Instr.brk h c a)) (field_between ..) ha)

/-- R69: the codes of the slot that the encoder makes of an instruction name the instruction. -/
theorem slot_instr {i : Instr} {t : Slot} (ht : i.slot? = some t) : t.instr = some i := by
  cases hr : i.inRow with
  | false => exact slot_instr_of_not_inRow hr ht
  | true =>
    simp only [Instr.inRow, Bool.or_eq_true, Option.isSome_iff_exists, Prod.exists] at hr
    obtain (((((⟨_, _, h⟩ | ⟨_, _, h⟩) | ⟨_, _, _, _, h⟩) | ⟨_, _, h⟩) | ⟨_, _, h⟩) | ⟨_, _, _, h⟩) | ⟨_, _, h⟩ := hr
    · exact slot_instr_of_intRow h ht
    · exact slot_instr_of_fpRow h ht
    · exact slot_instr_of_algRow h ht
    · exact slot_instr_of_laneRow h ht
    · exact slot_instr_of_memRow h ht
    · exact slot_instr_of_regRow h ht
    · exact slot_instr_of_descRow h ht

/-! ### The checks of the decoder on that slot -/

theorem slot_extraBit {i : Instr} {t : Slot} (ht : i.slot? = some t) : t.extraBit i t = false := by
  have hla : (i.laZero && decide (t.la ≠ 0)) = false := by
    cases hz : i.laZero with
    | false => rfl
    | true =>
      obtain rfl : i = .commit := beq_iff_eq.1 hz
      cases ht
      rfl
  have hs : (if i = .nop then t else t.withHeadOf t) = t := by split <;> rfl
  rw [Slot.extraBit, hs, hla]
  simp

theorem slot_laReject {i : Instr} {t : Slot} (ht : i.slot? = some t) : t.laReject i = none :=
  if_neg (not_not.2 (slot_head i t ht).1)

/-- An instruction whose guard is fixed is encoded under that guard, and the others may have any. -/
theorem slot_guardReject {i : Instr} {t : Slot} (ht : i.slot? = some t) : t.guardReject i = none := by
  cases hf : i.fixedGuard with
  | false =>
    unfold Slot.guardReject
    split
    · rfl
    · cases i <;> cases hf <;> rfl
  | true =>
    refine if_pos ?_
    cases i <;> cases hf <;> cases ht
    all_goals exact ⟨rfl, rfl⟩

/-- Settles O2: the slot of an instruction is read back from its bits, its codes name the instruction, and it passes the decoder's checks. -/
theorem encodeThenDecode : Obligations.EncodeThenDecode := by
  intro i w hwf hw
  obtain ⟨t, ht, rfl⟩ := Option.map_eq_some_iff.1 hw
  have hc : i.check = none := by simpa [Instr.wf] using hwf
  simp only [decode, Slot.ofBits_bits, slot_instr ht, ht, slot_extraBit ht, hc, slot_laReject ht, slot_guardReject ht]
  rfl

/-- The sample words are the encodings of well-formed instructions. -/
theorem words_encoded : ∀ e ∈ Said.words, e.2.wf = true ∧ encode e.2 = some e.1 := by decide

/-- Settles O1: the sample words are encodings, which the decoder reads back. -/
theorem decodeSpecWords : Obligations.DecodeSpecWords := by
  intro e he
  obtain ⟨hw, hc⟩ := words_encoded e he
  exact encodeThenDecode e.2 e.1 hw hc

end Sys2Proof
end

section
/-! SUPPORT. A turn of an issue slot: the floe it picks, the slot or pair of slots it runs (R46, R61, R70, R253); predicates (R57); and what going on
leaves as it was. -/

namespace Sys2Proof.Machine

variable {s t : State} {k : Nat}

/-! ### A floe's turn -/

/-- A step whose agenda begins with a turn of an issue slot is the turn of the floe that the slot picks. -/
theorem step_issue {q : SlotId} {rest : List Turn} (ha : s.agenda = .issue q :: rest)
    (hp : (State.pace { s.tick with agenda := rest } (.issue q)).pick (SlotId.key q) = some k) :
    step s = (State.pace { s.tick with agenda := rest } (.issue q)).turnFloe k := by
  have ht : s.tick.agenda = .issue q :: rest := ha
  unfold step
  simp only [ht, stepTurn, hp]

/-- A slot that decodes is executed. -/
theorem issueNext_ok {i : Instr} (h : State.fetch { s with cur := floeIdOf k } k = some (.ok i)) :
    s.issueNext k = exec i { s with cur := floeIdOf k } := by
  unfold State.issueNext
  simp only [h]

/-- A slot that is no instruction traps (R70). -/
theorem issueNext_error {r : Reject} (h : State.fetch { s with cur := floeIdOf k } k = some (.error r)) :
    s.issueNext k = .next ((State.illegal { s with cur := floeIdOf k } k).settleDue 64) := by
  unfold State.issueNext
  simp only [h]

theorem illegal_opens {f : Floe} (hk : s.floe? k = some f) (ho : s.opens k f = true) :
    s.illegal k = s.takeTrap k 0x0001 (f.lanes.map (·.1)) 0 := by
  unfold State.illegal
  rw [beforeIssue_opens hk ho, hk]
  rfl

theorem turnFloe_alone (h : s.issueNext k = .next t) (hp : t.pairGoes k = false) : s.turnFloe k = .next t.homeAnswers := by
  simp [State.turnFloe, h, hp]

theorem turnFloe_pair (h : s.issueNext k = .next t) (hp : t.pairGoes k = true) {u : State} (hu : t.issueNext k = .next u) :
    s.turnFloe k = .next u.homeAnswers := by
  simp [State.turnFloe, h, hp, hu]

theorem turnFloe_pair_stops (h : s.issueNext k = .next t) (hp : t.pairGoes k = true) (hu : ∀ u, t.issueNext k ≠ .next u) :
    s.turnFloe k = t.issueNext k := by
  simp only [State.turnFloe, h, hp, if_true]

theorem turnFloe_stops (h : ∀ t, s.issueNext k ≠ .next t) : s.turnFloe k = s.issueNext k := by
  unfold State.turnFloe
  split
  · next t e => exact absurd e (h t)
  · rfl

/-! ### The floe picked -/

theorem mem_slice {α : Type} {t : Tab α} {lo hi : Nat} {e : Nat × α} (h : e ∈ slice t lo hi) : e ∈ t ∧ lo ≤ e.1 ∧ e.1 < hi := by
  obtain ⟨hm, hb⟩ := List.mem_filter.1 h
  exact ⟨hm, of_decide_eq_true hb⟩

/-- R253: whichever rule decides, the floe picked stands in one of the issue slot's floe slots and may issue. -/
theorem pick_ready {q : Nat} (h : s.pick q = some k) : ∃ f, (k, f) ∈ s.floes ∧ 32 * q ≤ k ∧ k < 32 * q + 32 ∧ s.ready k f = true := by
  unfold State.pick at h
  split at h
  · cases h
  dsimp only at h
  generalize hp : (fun e : Nat × Floe => s.ready e.1 e.2 && (e.2.holds _ || !((slice s.floes (32 * q) (32 * q + 32)).any (·.2.holds _)))) = p at h
  have hc : ∀ e ∈ (slice s.floes (32 * q) (32 * q + 32)).filter p, ∃ f, (e.1, f) ∈ s.floes ∧ 32 * q ≤ e.1 ∧ e.1 < 32 * q + 32 ∧ s.ready e.1 f = true := by
    intro e he
    obtain ⟨hs, hr⟩ := List.mem_filter.1 he
    obtain ⟨hm, h1, h2⟩ := mem_slice hs
    subst hp
    exact ⟨e.2, hm, h1, h2, (Bool.and_eq_true_iff.1 hr).1⟩
  generalize (slice s.floes (32 * q) (32 * q + 32)).filter p = ready at h hc
  split at h
  · cases h
  · cases h; exact hc _ (List.mem_singleton_self _)
  · split at h
    · next e he => cases h; exact hc _ (List.mem_of_find?_eq_some he)
    · split at h
      · next ha =>
        obtain ⟨e, he, hb⟩ := List.any_eq_true.1 ha.1
        simp only [Bool.and_eq_true, beq_iff_eq] at hb
        have hc := hc e he
        obtain ⟨f, hf, h1, h2, h3⟩ := hc
        cases h
        have : e.1 = 32 * q + (lookD ({} : Sched) s.sched q).last := by omega
        exact ⟨f, this ▸ hf, this ▸ h1, this ▸ h2, this ▸ h3⟩
      · split at h
        · next e he => cases h; exact hc _ (List.mem_of_find?_eq_some he)
        · obtain ⟨e, he, rfl⟩ := Option.map_eq_some_iff.1 h
          exact hc _ (List.mem_of_head? he)

theorem homeAnswers_idle (h : ∀ e ∈ t.net, e.2.ask = true → e.2.performed = true) : t.homeAnswers = t := by
  refine if_pos (List.filter_eq_nil_iff.2 fun e he hb => ?_)
  simp only [Bool.and_eq_true, Bool.not_eq_true'] at hb
  rw [h e he hb.1] at hb
  exact absurd hb.2 (by decide)

/-- Settles O4: the step is the turn of the floe picked, taken apart by what its slot, and the second of a pair, answer. -/
theorem stepRunsDecodedSlot : Obligations.StepRunsDecodedSlot := by
  refine ⟨?_, fun s q k h => pick_ready h, fun t h => homeAnswers_idle h⟩
  intro s q rest i k ha u v hp hf
  have hi : u.issueNext k = exec i v := issueNext_ok hf
  rw [step_issue ha hp]
  refine ⟨fun t ht hg => turnFloe_alone (hi.trans ht) hg, fun t j ht hg hj => ?_, fun hn => ?_⟩
  · have hj : t.issueNext k = exec j { t with cur := floeIdOf k } := issueNext_ok hj
    exact ⟨fun w hw => turnFloe_pair (hi.trans ht) hg (hj.trans hw), fun hw => by
      rw [← hj] at hw ⊢
      exact turnFloe_pair_stops (hi.trans ht) hg hw⟩
  · rw [← hi] at hn ⊢
    exact turnFloe_stops hn

/-- Settles O5: nothing comes before the floe's issue, so the slot that is no instruction traps, and no pair goes on. -/
theorem illegalBitsTrap : Obligations.IllegalBitsTrap := by
  intro s q rest r k f ha u v t hp hf hk ho hg
  have hi : u.issueNext k = .next t :=
    (issueNext_error hf).trans (congrArg (fun x => Host.Outcome.next (State.settleDue 64 x)) (illegal_opens hk ho))
  rw [step_issue ha hp]
  exact turnFloe_alone hi hg

/-- Settles O10: a write to p7 leaves the state, and what a write to another predicate changes is no part of p7's reading. -/
theorem predicateSeven : Obligations.PredicateSeven := by
  intro s t u b
  refine ⟨rfl, rfl, fun q hq => ⟨?_, rfl⟩⟩
  rw [State.predOf_setPred _ _ _ _ _ _ (by omega), if_pos ⟨rfl, rfl, by omega⟩]

theorem sameRest_sameBytes {s t : State} (h : s.sameRest t) : s.sameBytes t := by
  rw [h]
  exact ⟨fun _ => rfl, fun _ => rfl, fun _ => rfl, fun _ => rfl, fun _ => rfl⟩

/-- Settles O11: what counting the windows, going on and noting the issue leave, put together. -/
theorem goingOnFrame : Obligations.GoingOnFrame := by
  intro u k f y hq hy t
  have hr : u.sameRest t := completed_sameRest hq
  obtain ⟨z, hz, hpos, hu, hl, hp, -, -, -, hlanes, -, -, hpend⟩ := completed_floe (f := f) hq hy
  exact ⟨hr, sameRest_sameBytes hr, completed_csr hq, completed_regs hq, completed_lfsr hq, fun j hj => completed_floe_ne hq hj, fun n => completed_thread hq n,
    z, hz, hpos, hu, hl, hp, hlanes, hpend⟩

end Sys2Proof.Machine
end

section
/-! SUPPORT. Checks 1 to 3 of R176 lane by lane, what check 4 leaves, the waits of an order (R181, R276), and the global stores (R177 to R190). -/

namespace Sys2Proof.Machine

variable {i : Instr} {s u : State} {f : Floe} {c : Ctx} {o : MemOps} {n : Nat} {perm : Nat → Bool}

/-! ### Addresses (R172) -/

theorem ofInt_memOff (c : Ctx) (o : MemOps) (l : Nat) : BitVec.ofInt 48 (c.memOff o l) = BitVec.signExtend 48 o.disp +
    (if o.idx = true then BitVec.signExtend 48 (c.s.vreg (c.t l) o.b.toNat) <<< o.scale.toNat else 0) := by
  have hs : ∀ {w : Nat} (x : BitVec w), BitVec.ofInt 48 (sext x.toNat w) = x.signExtend 48 := fun x => by
    rw [sext_eq_toInt, BitVec.ofNat_toNat, BitVec.setWidth_eq]; rfl
  rw [Ctx.memOff, BitVec.ofInt_add, hs]
  congr 1
  split
  · rw [BitVec.ofInt_mul, hs, BitVec.shiftLeft_eq_mul_twoPow]
    congr 1
    rw [show (2 : Int) ^ o.scale.toNat = ((2 ^ o.scale.toNat : Nat) : Int) by push_cast; rfl, BitVec.ofInt_natCast]
    exact BitVec.eq_of_toNat_eq (by simp)
  · rfl

theorem globReqs_eq (c : Ctx) (o : MemOps) : c.globReqs o = c.act.map fun l => ⟨l, c.rdPair o.a l, Said.va c o l⟩ := by
  refine List.map_congr_left fun l _ => ?_
  have hp : BitVec.ofInt 48 ((ptrVa (c.rdPair o.a l) : Nat) : Int) = BitVec.ofNat 48 (c.rdPair o.a l) := by
    rw [BitVec.ofInt_natCast, ptrVa]
    exact BitVec.eq_of_toNat_eq (by simp)
  dsimp only
  rw [wrap_eq_toNat, BitVec.ofInt_add, ofInt_memOff, hp, Said.va, BitVec.add_assoc]

/-! ### Checks 1 to 3 of R176 -/

theorem trapAt_lanes (code : Nat) (va : Nat → Nat) (ls : List Nat) (r : Option Res) :
    (if ls ≠ [] then some (trapAt code (ls.map fun l => (l, va l))) else r) = if ls ≠ [] then some (.trap code ls (va (ls.headD 0))) else r := by
  cases ls with
  | nil => rfl
  | cons l ls => simp [trapAt, Function.comp_def]

/-- The first of the checks that fails in some active lane answers for the lanes in which it fails. -/
theorem checkBounds_lanes (c : Ctx) (o : MemOps) (n : Nat) (perm : Nat → Bool) :
    let bidx (l : Nat) : Nat := c.rdPair o.a l / 2 ^ 48 % 4096
    let odd := c.act.filter fun l => decide (Said.va c o l % n ≠ 0)
    let out := c.act.filter fun l => !c.s.inBounds c.g.ctx (bidx l) (Said.va c o l) n
    let no := c.act.filter fun l => !perm (c.s.bent c.g.ctx (bidx l))
    c.checkBounds (c.globReqs o) n perm =
      if odd ≠ [] then some (.trap 0x0010 odd (Said.va c o (odd.headD 0)))
      else if ∃ l ∈ c.act, c.s.bentPoison c.g.ctx (bidx l) = true then some .poison
      else if out ≠ [] then some (.trap 0x0011 out (Said.va c o (out.headD 0)))
      else if no ≠ [] then some (.trap 0x0011 no (Said.va c o (no.headD 0)))
      else none := by
  intro bidx odd out no
  unfold Ctx.checkBounds
  have hm : ∀ p : GReq → Bool, ((c.globReqs o).filter p).map (fun q => (q.lane, q.va)) =
      (c.act.filter fun l => p ⟨l, c.rdPair o.a l, Said.va c o l⟩).map fun l => (l, Said.va c o l) := fun p => by
    rw [globReqs_eq, List.filter_map, List.map_map]; rfl
  have he : ∀ p : GReq → Bool, (c.globReqs o).filter p ≠ [] ↔ (c.act.filter fun l => p ⟨l, c.rdPair o.a l, Said.va c o l⟩) ≠ [] := fun p => by
    rw [globReqs_eq, List.filter_map, ne_eq, List.map_eq_nil_iff]; rfl
  have ha : ((c.globReqs o).any fun q => c.s.bentPoison c.g.ctx (q.ptr / 2 ^ 48 % 4096)) = true ↔
      ∃ l ∈ c.act, c.s.bentPoison c.g.ctx (bidx l) = true := by
    rw [globReqs_eq, List.any_map, List.any_eq_true]; rfl
  simp only [hm, he, ha, trapAt_lanes]
  rfl

/-! ### Check 4 of R176 leaves the machine but for the TLB and what its fills inject -/

theorem tlbFill_keeps (s : State) (core ctx va leaf size : Nat) : (s.tlbFill core ctx va leaf size).floes = s.floes ∧
    (s.tlbFill core ctx va leaf size).due = s.due ∧ (s.tlbFill core ctx va leaf size).grids = s.grids ∧
    (s.tlbFill core ctx va leaf size).ctxRegs = s.ctxRegs := by
  unfold State.tlbFill
  split
  · exact ⟨rfl, rfl, rfl, rfl⟩
  · simp [State.tlbPut]

theorem tlbFills_keep {α : Type} (core ctx : Nat) (va leaf size : α → Nat) (as : List α) (s : State) :
    let t := as.foldl (fun s a => s.tlbFill core ctx (va a) (leaf a) (size a)) s
    t.floes = s.floes ∧ t.due = s.due ∧ t.grids = s.grids ∧ t.ctxRegs = s.ctxRegs := by
  induction as generalizing s with
  | nil => exact ⟨rfl, rfl, rfl, rfl⟩
  | cons a as ih =>
    obtain ⟨h1, h2, h3, h4⟩ := tlbFill_keeps s core ctx (va a) (leaf a) (size a)
    obtain ⟨k1, k2, k3, k4⟩ := ih (s.tlbFill core ctx (va a) (leaf a) (size a))
    exact ⟨k1.trans h1, k2.trans h2, k3.trans h3, k4.trans h4⟩

theorem checkHome_keeps {qs : List GReq} {write data : Bool} {m : Mark} {as : List GAcc} (h : c.checkHome qs n write data m = .ok (u, as)) :
    u.floes = c.s.floes ∧ u.due = c.s.due ∧ u.grids = c.s.grids ∧ u.ctxRegs = c.s.ctxRegs := by
  unfold Ctx.checkHome at h
  extract_lets ts accs t bad w racing at h
  split at h
  · cases h
  · split at h
    · cases h
    · split at h
      · cases h
      · split at h
        · cases h
        · split at h
          · cases h
          · obtain ⟨rfl, -⟩ := Prod.mk.inj (Except.ok.inj h)
            exact tlbFills_keep c.core c.g.ctx GAcc.va GAcc.leaf GAcc.size accs c.s

/-! ### The waits of an order (R181, R276) -/

/-- Where the waits find nothing to wait for, the access goes on from the state after them. -/
theorem ordered_ready {rel commits : Bool} (h : Said.ready c u rel commits) (go : State → Option Nat → Res) :
    ({ c with s := u } : Ctx).ordered rel commits go = go (Said.after c u rel commits).1 (Said.after c u rel commits).2 := by
  obtain ⟨h1, h2⟩ := h
  unfold Ctx.ordered Said.after
  cases rel with
  | true =>
    obtain ⟨hl, hc, hw⟩ := h1 rfl
    simp [Ctx.releaseThen, Ctx.commitThen, hl, hc, hw]
  | false =>
    cases commits with
    | true => simp [Ctx.commitThen, h2 rfl rfl]
    | false => simp

/-! ### Global writes: the checks of R176, then the write's own part -/

/-- The checks of R176 for a global write of `n` bytes a lane, then what the write does with the lanes' translated accesses. -/
def Ctx.globWrite (c : Ctx) (o : MemOps) (n : Nat) (perm : Nat → Bool) (data : Bool) (m : Mark) (go : State → List GAcc → Res) : Res :=
  match c.checkBounds (c.globReqs o) n perm with
  | some r => r
  | none =>
    match c.checkHome (c.globReqs o) n true data m with
    | .error r => r
    | .ok (u, as) => go u as

/-- A global write does nothing with no active lane (R49), and otherwise what `Ctx.globWrite` says. -/
def IsGlobWrite (i : Instr) (o : MemOps) (n : Nat) (perm : Nat → Bool) (data : Bool) (m : Mark) (go : Ctx → State → List GAcc → Res) : Prop :=
  algRow i = none ∧ ∀ s, exec i s = issue i s fun c => if c.act = [] then .done c.s else c.globWrite o n perm data m (go c)

section
variable {data : Bool} {m : Mark} {go : Ctx → State → List GAcc → Res} (hw : IsGlobWrite i o n perm data m go)
include hw

theorem globWrite_act (h : issuing i s = some (f, c)) (ha : c.act ≠ []) :
    exec i s = .next ((finish s c.k f c.bk (c.globWrite o n perm data m (go c))).settleDue 64) := by
  rw [hw.2, issue_act h (preTrap_none hw.1 c) ha, if_neg ha]

theorem globWrite_idle (h : issuing i s = some (f, c)) (ha : c.act = []) : exec i s = .next (c.s.completed c.k f) := by
  rw [hw.2]
  exact issue_done h (preTrap_none hw.1 c) (if_pos ha) fun _ => rfl

theorem globWrite_checked (h : issuing i s = some (f, c)) (ha : c.act ≠ []) {as : List GAcc} (hb : c.checkBounds (c.globReqs o) n perm = none)
    (hh : c.checkHome (c.globReqs o) n true data m = .ok (u, as)) :
    exec i s = .next ((finish s c.k f c.bk (go c u as)).settleDue 64) := by
  rw [globWrite_act hw h ha, Ctx.globWrite, hb, hh]

/-- A global write traps, or stops the grid, where checks 1 to 3 of R176 fail. -/
theorem globWrite_boundsTraps : Said.boundsTraps i o n perm := by
  intro s f c hi bidx odd out no hurt
  have hb := checkBounds_lanes c o n perm
  have hcore : c.core = coreOfFloe c.k := (issuing_core hi).trans (congrArg _ (issuing_k hi).symm)
  have key : ∀ r, c.checkBounds (c.globReqs o) n perm = some r → exec i s = .next ((finish s c.k f c.bk r).settleDue 64) := by
    intro r hr
    have ha : c.act ≠ [] := fun ha => by
      rw [globReqs_eq, ha] at hr
      cases hr
    rw [globWrite_act hw hi ha, Ctx.globWrite, hr]
  refine ⟨fun h1 => ?_, fun h1 h2 => ?_, fun h1 h2 h3 => ?_, fun h1 h2 h3 h4 => ?_⟩
  · exact key _ (hb.trans (if_pos h1))
  · rw [key .poison (hb.trans ((if_neg (not_not.2 h1)).trans (if_pos h2))), hcore]
    rfl
  · exact key _ (hb.trans ((if_neg (not_not.2 h1)).trans ((if_neg h2).trans (if_pos h3))))
  · exact key _ (hb.trans ((if_neg (not_not.2 h1)).trans ((if_neg h2).trans ((if_neg (not_not.2 h3)).trans (if_pos h4)))))

end

theorem isGlobWrite_st (o : MemOps) : IsGlobWrite (.st o) o (Said.size o) bentW true (memMark o) fun c u as =>
    let w : Ctx := { c with s := u }
    if isRel o.order then w.ordered true true fun s r => .done (addReqs (as.map fun a =>
      { w.wreq a (Said.size o) .store (memMark o) r with data := w.memData o (Said.size o) a.lane, hold := isAcq o.order }) s)
    else w.logEntry u (.store (as.map (w.lacc o (Said.size o)))) := ⟨rfl, fun _ => rfl⟩

theorem isGlobWrite_sc (o : MemOps) : IsGlobWrite (.sc o) o (Said.size o) bentW true (memAmark o) fun c u as =>
    let w : Ctx := { c with s := u }
    w.ordered (isRel o.order) true fun s r =>
      let p := w.await s o.h.la.toNat { n := 0, reg := 0, cnt := 0, pred := some o.d.toNat, need := c.act, load := true }
      let v := addReqs (as.map fun a => { w.wreq a (Said.size o) .sc (memAmark o) r with
        data := w.memData o (Said.size o) a.lane, pend := some p.1, resv := (u.thread (c.t a.lane)).resv }) p.2
      .done ((c.act.foldl (fun s l => s.modThread (c.t l) fun th => { th with resv := none }) v).modFloe c.k fun f => { f with hold := none }) :=
  ⟨rfl, fun _ => rfl⟩

theorem isGlobWrite_stag (o : MemOps) : IsGlobWrite (.stag o) o 32 bentW false {} fun c u as =>
    let bad := as.filter fun a => !leafTage a.leaf
    if bad ≠ [] then trapAt 0x0013 (bad.map fun a => (a.lane, a.va))
    else
      let w : Ctx := { c with s := u }
      w.commitThen u fun s => if s.writesOut c.k c.f then .stall s else .done (addReqs (as.map fun a =>
        { w.req a 32 .stag {} with data := (w.rd1 2 o.c a.lane).toNat % 16, ask := false, hold := true }) s) := ⟨rfl, fun _ => rfl⟩

/-- A global `atom` or `red`: one is logged, or requests go out, and `ret` says whether old values come back. -/
def Ctx.atomGo (o : MemOps) (ret : Bool) (c : Ctx) (u : State) (as : List GAcc) : Res :=
  let w : Ctx := { c with s := u }
  if !ret ∧ o.order = .rlx then w.logEntry u (.red (as.map (w.lacc o (atomBytes o.aty))) o.aop o.aty)
  else w.ordered (isRel o.order) true fun s r =>
    let p := if ret then w.await s o.h.la.toNat { n := 0, reg := o.d.toNat, cnt := o.aregs, need := c.act, load := true, acq := memAcq o } else (0, s)
    .done (addReqs (as.map fun a => { w.wreq a (atomBytes o.aty) (.atom o.aop o.aty ret) (memAmark o) r with
      data := w.memData o (atomBytes o.aty) a.lane, cmp := w.cmpData o a.lane, pend := if ret then some p.1 else none }) p.2)

theorem isGlobWrite_atom (hg : o.space = .glob) :
    IsGlobWrite (.atom o) o (atomBytes o.aty) bentA true (memAmark o) (Ctx.atomGo o true) :=
  ⟨rfl, fun s => congrArg (issue (.atom o) s) (funext fun c => by rw [if_pos hg]; rfl)⟩

theorem isGlobWrite_red (hg : o.space = .glob) :
    IsGlobWrite (.red o) o (atomBytes o.aty) bentA true (memAmark o) (Ctx.atomGo o false) :=
  ⟨rfl, fun s => congrArg (issue (.red o) s) (funext fun c => by rw [if_pos hg]; rfl)⟩

/-- An instruction whose own part ends with its lanes' accesses done completes. -/
theorem finish_done (s u : State) (k : Nat) (f : Floe) (bk : Nat) : (finish s k f bk (.done u)).settleDue 64 = u.completed k f := rfl

/-- A log entry is taken where the log has room (R182). -/
theorem logEntry_room {e : LogEnt} (h : c.f.log.length < 256) :
    ({ c with s := u } : Ctx).logEntry u e = .done (u.modFloe c.k fun f => { f with log := f.log ++ [e] }) := if_neg (Nat.not_le.2 h)

theorem checkHome_still {qs : List GReq} {write data : Bool} {m : Mark} {as : List GAcc} (h : c.checkHome qs n write data m = .ok (u, as))
    (hs : c.s.still = true) : u.still = true := by
  obtain ⟨-, hd, hg, hr⟩ := checkHome_keeps h
  rw [State.still] at hs ⊢
  rwa [hd, hg, hr]

/-- A store-log entry changes no byte, and stands in the floe's log once it has gone on (R180). -/
theorem logged_completed (hs : u.still = true) {k : Nat} {y : Floe} (hf : u.floe? k = some y) (f : Floe) (e : LogEnt) :
    let t := (u.modFloe k fun f => { f with log := f.log ++ [e] }).completed k f
    u.sameBytes t ∧ ∃ z, t.floe? k = some z ∧ z.log = y.log ++ [e] := by
  have hq : (u.modFloe k fun f => { f with log := f.log ++ [e] }).still = true := (sameRest_still (sameRest_modFloe _ _ _)).trans hs
  obtain ⟨z, hz, -, -, hl, -⟩ := completed_floe (f := f) hq (modFloe_some hf _)
  exact ⟨sameRest_sameBytes (sameRest_trans (sameRest_modFloe _ _ _) (completed_sameRest hq)), z, hz, hl⟩

/-- What a relaxed global write that is logged comes to, where the machine is calm. -/
theorem logged_calm (h : issuing i s = some (f, c)) (hc : s.calm = true) {qs : List GReq} {write data : Bool} {m : Mark} {as : List GAcc}
    (hh : c.checkHome qs n write data m = .ok (u, as)) (e : LogEnt) :
    let t := (u.modFloe c.k fun f => { f with log := f.log ++ [e] }).completed c.k f
    u.sameBytes t ∧ ∃ z, t.floe? c.k = some z ∧ z.log = c.f.log ++ [e] := by
  refine logged_completed (checkHome_still hh (quiet_of h hc).still) ?_ f e
  rw [State.floe?, (checkHome_keeps hh).1]
  exact (issuing_floe_ctx h).1

/-- Settles O34: each of the five is a global write, so the checks of R176 come first; what is left is its own part, after the waits of its order. -/
theorem globalStores : Obligations.GlobalStores := by
  refine ⟨fun o => ⟨globWrite_boundsTraps (isGlobWrite_st o), globWrite_boundsTraps (isGlobWrite_sc o), globWrite_boundsTraps (isGlobWrite_stag o),
    fun hg => ⟨globWrite_boundsTraps (isGlobWrite_atom hg), globWrite_boundsTraps (isGlobWrite_red hg)⟩⟩, ?_, ?_⟩
  · intro o i hi s f c h ha
    simp only [List.mem_cons, List.not_mem_nil, or_false] at hi
    obtain rfl | rfl | rfl | rfl | rfl := hi
    · exact globWrite_idle (isGlobWrite_st o) h ha
    · exact issue_done h (preTrap_none rfl c) (if_pos ha) fun _ => rfl
    · exact issue_done h (preTrap_none rfl c) (if_pos ha) fun _ => rfl
    · exact globWrite_idle (isGlobWrite_sc o) h ha
    · exact globWrite_idle (isGlobWrite_stag o) h ha
  · intro o s f c u as ha w n e rel q
    refine ⟨fun h hb hh => ?_, fun h hg hb hh => ?_, fun h hg hb hh hr => ?_, fun h hb hh hr => ?_, fun h hb hh ht hc hw => ?_⟩
    · have hx := globWrite_checked (isGlobWrite_st o) h ha hb hh
      refine ⟨fun h0 hl => ?_, fun h0 hl => ?_, fun h1 hr => ?_⟩
      · have h0 : ¬ isRel o.order = true := by rw [show isRel o.order = false from h0]; decide
        exact ⟨hx.trans (by rw [if_neg h0, logEntry_room hl]; rfl), fun hc _ => logged_calm h hc hh _⟩
      · have h0 : ¬ isRel o.order = true := by rw [show isRel o.order = false from h0]; decide
        exact hx.trans (by rw [if_neg h0, Ctx.logEntry, if_pos hl]; rfl)
      · have h1 : isRel o.order = true := h1
        have hq : q = Said.after c u true true := congrArg (Said.after c u · true) h1
        rw [hq]
        exact hx.trans (by rw [if_pos h1, ordered_ready (h1 ▸ hr)]; rfl)
    · have hx := globWrite_checked (isGlobWrite_red hg) h ha hb hh
      refine ⟨fun h0 hl => ?_, fun h0 hr => ?_⟩
      · exact ⟨hx.trans (by rw [Ctx.atomGo, if_pos ⟨rfl, h0⟩, logEntry_room hl]; rfl), fun hc _ => (logged_calm h hc hh _).1⟩
      · exact hx.trans (by rw [Ctx.atomGo, if_neg fun h => h0 h.2, ordered_ready hr]; rfl)
    · have hx := globWrite_checked (isGlobWrite_atom hg) h ha hb hh
      exact hx.trans (by rw [Ctx.atomGo, if_neg fun h => absurd h.1 (by decide), ordered_ready hr]; rfl)
    · have hx := globWrite_checked (isGlobWrite_sc o) h ha hb hh
      exact hx.trans (by rw [ordered_ready hr]; rfl)
    · have hx := globWrite_checked (isGlobWrite_stag o) h ha hb hh
      have hbad : as.filter (fun a => !leafTage a.leaf) = [] := List.filter_eq_nil_iff.2 fun a hm => by simp [ht a hm]
      refine hx.trans ?_
      dsimp only
      rw [hbad, if_neg (not_not.2 rfl), Ctx.commitThen]
      simp only [hc, hw]
      rfl

end Sys2Proof.Machine
end

section
/-! SUPPORT. Results, bank ports, stream elements, completions and timers: each event's outcome where what it is about is there (R63, R152, R155, R193,
R246, R253, R260, R261, R355). -/

namespace Sys2Proof.Machine

variable {s u : State} {f : Floe} {k : Nat}

/-! ### Results and bank ports -/

theorem execResultWrite_some {q : FloeId} {n : Nat} {p : Pend} (hf : s.floe? (FloeId.key q) = some f)
    (hp : f.pend.find? (fun p => p.n == n && p.ready && p.left == 0) = some p) :
    execResultWrite q n s =
      .next ((s.writePend (FloeId.key q) f p).modFloe (FloeId.key q) fun f => { f with pend := f.pend.filter fun p => p.n ≠ n }) := by
  simp only [execResultWrite, hf, hp]

/-- Before its window has ended, or with a lane awaited, a result is not written (R63). -/
theorem execResultWrite_waits {q : FloeId} {n : Nat} (hf : s.floe? (FloeId.key q) = some f)
    (h : ∀ p ∈ f.pend, p.n = n → p.ready = false ∨ p.left ≠ 0) : execResultWrite q n s = .next s := by
  have hp : f.pend.find? (fun p => p.n == n && p.ready && p.left == 0) = none := by
    rw [List.find?_eq_none]
    intro p hm hc
    simp only [Bool.and_eq_true, beq_iff_eq] at hc
    obtain ⟨⟨hn, hr⟩, hl⟩ := hc
    rcases h p hm hn with h | h
    · simp [h] at hr
    · exact h hl
  simp only [execResultWrite, hf, hp]

/-- The oldest request at a port is the first of the queue that is there. -/
theorem bankHead_split {l : Space} {m b : Nat} {e : Bool} {x y : List Token} {t : Token} (hs : s.tokens = x ++ t :: y)
    (hx : ∀ u ∈ x, u.at l m b e = false) (ht : t.at l m b e = true) : s.bankHead l m b e = some t := by
  have hn : x.find? (fun u => u.at l m b e) = none := by
    rw [List.find?_eq_none]
    intro u hu
    simp [hx u hu]
  unfold State.bankHead
  rw [hs, List.find?_append, hn, Option.none_or]
  exact List.find?_cons_of_pos (p := fun u : Token => u.at l m b e) ht

/-- The oldest request at all its banks is served (R261). -/
theorem execBankService_head {l : Space} {m b : Nat} {e : Bool} {x y : List Token} {t : Token} (hs : s.tokens = x ++ t :: y)
    (hx : t ∉ x) (hb : b ∈ t.banks) (ha : ∀ i ∈ t.banks, (∀ u ∈ x, u.at l m i e = false) ∧ t.at l m i e = true) :
    execBankService l m b e s = .next (match t.pend with
      | some n => State.arrivePend { s with tokens := x ++ y } t.floe t.fid n t.lane [] none
      | none => { s with tokens := x ++ y }) := by
  have hh : ∀ i ∈ t.banks, s.bankHead l m i e = some t := fun i hi => bankHead_split hs (ha i hi).1 (ha i hi).2
  have hall : (t.banks.all fun i => s.bankHead l m i e == some t) = true := by
    rw [List.all_eq_true]
    intro i hi
    rw [hh i hi, beq_self_eq_true]
  have hr : s.tokens.erase t = x ++ y := by
    rw [hs, List.erase_append_right _ hx, List.erase_cons_head]
  cases hp : t.pend <;> simp only [execBankService, hh b hb, hall, Bool.not_true, Bool.false_eq_true, if_false, hr, hp]

/-! ### Streams -/

/-- An element that passes its checks joins those fetched for its lane (R193). -/
theorem execStreamElementArrival_ok {q : FloeId} {port lane : Nat} {st : Stream} {vs : List (Nat × Nat)} {g : Floe}
    (hf : s.floe? (FloeId.key q) = some f) (hst : look f.ports port = some st) (hload : st.store = false) (hl : ∃ a, (lane, a) ∈ st.lanes)
    (hroom : (lookD [] st.fetched lane).length < 8) (hmore : lookD 0 st.pos lane + (lookD [] st.fetched lane).length < st.count)
    (he : Ctx.elements ⟨s, FloeId.key q, f, [lane], coreOfFloe (FloeId.key q), f.bkey (FloeId.key q), s.grid (s.block (f.bkey (FloeId.key q))).grid, false, []⟩
      st [(lane, lookD 0 st.pos lane + (lookD [] st.fetched lane).length)] = .ok (u, vs))
    (hg : u.floe? (FloeId.key q) = some g) (hports : g.ports = f.ports) :
    ∃ t g, execStreamElementArrival q port lane s = .next t ∧ t.floe? (FloeId.key q) = some g ∧
      g.ports = put f.ports port { st with fetched := put st.fetched lane (lookD [] st.fetched lane ++ vs.map (·.2)) } := by
  have hany : (st.lanes.any fun e => e.1 == lane) = true := by
    obtain ⟨a, ha⟩ := hl
    exact List.any_eq_true.2 ⟨_, ha, beq_self_eq_true lane⟩
  have hgo : ¬ (st.store = true ∨ (!(st.lanes.any fun e => e.1 == lane)) = true ∨ 8 ≤ (lookD [] st.fetched lane).length ∨
      st.count ≤ lookD 0 st.pos lane + (lookD [] st.fetched lane).length) := by
    rw [hload, hany]
    simp only [Bool.not_true, Bool.false_eq_true, false_or]
    omega
  simp only [execStreamElementArrival, hf, hst, if_neg hgo, he]
  refine ⟨_, _, rfl, modFloe_some hg _, ?_⟩
  simp only [hports, hst]

/-! ### Completions from another core -/

theorem execBarrierCompletionMulticast_some {n : Nat} {m : MCast} (h : s.mcasts[n]? = some m) :
    execBarrierCompletionMulticast n s =
      .next ((State.completeFar { s with mcasts := s.mcasts.eraseIdx n } m.core m.slot m.uid m.recs).settleDue 64) := by
  simp only [execBarrierCompletionMulticast, h]

section
variable {core slot uid : Nat} {ms : List SyncMark}

/-- A completion for a slot that is not valid, or of another block, does nothing (R155). -/
theorem completeFar_stray (h : (s.bar core slot).val = false ∨ (s.block (s.bar core slot).owner).uid ≠ uid) : s.completeFar core slot uid ms = s := by
  unfold State.completeFar
  dsimp only
  rw [if_neg]
  rintro ⟨hv, hu⟩
  rcases h with h | h
  · rw [h] at hv; exact Bool.false_ne_true hv
  · exact h hu

theorem completeFar_early (hv : (s.bar core slot).val = true) (hu : (s.block (s.bar core slot).owner).uid = uid) (hp : (s.bar core slot).pend = 0)
    (he : (s.bar core slot).early < 127) :
    s.completeFar core slot uid ms =
      s.setBar core slot { s.bar core slot with early := (s.bar core slot).early + 1, ahead := (s.bar core slot).ahead ++ [ms] } := by
  unfold State.completeFar
  dsimp only
  rw [if_pos ⟨hv, hu⟩, if_neg (by omega), if_neg (by omega)]

theorem completeFar_overflow (hv : (s.bar core slot).val = true) (hu : (s.block (s.bar core slot).owner).uid = uid) (hp : (s.bar core slot).pend = 0)
    (he : (s.bar core slot).early = 127) : s.completeFar core slot uid ms = s.addDue (s.bar core slot).owner 0x8001 slot 0 := by
  unfold State.completeFar
  dsimp only
  rw [if_pos ⟨hv, hu⟩, if_neg (by omega), if_pos he]

theorem State.bar_setBar (b : Bar) : (s.setBar core slot b).bar core slot = b := by
  unfold State.bar State.setBar
  rw [lookD_put, if_pos rfl]

/-- With completions or arrivals to come, a phase does not end (R155). -/
theorem phase_open (h : (s.bar core slot).pend ≠ 0 ∨ (s.bar core slot).arr < (s.bar core slot).expt) : s.phase core slot = s := by
  unfold State.phase
  dsimp only
  rw [if_neg]
  rintro ⟨-, harr, hpend, -⟩
  omega

theorem completeFar_pend (hv : (s.bar core slot).val = true) (hu : (s.block (s.bar core slot).owner).uid = uid)
    (h : 1 < (s.bar core slot).pend ∨ ((s.bar core slot).pend = 1 ∧ (s.bar core slot).arr < (s.bar core slot).expt)) :
    s.completeFar core slot uid ms =
      s.setBar core slot { s.bar core slot with pend := (s.bar core slot).pend - 1, event := true, recs := (s.bar core slot).recs ++ ms } := by
  unfold State.completeFar
  dsimp only
  rw [if_pos ⟨hv, hu⟩, if_pos (by omega)]
  apply phase_open
  rw [State.bar_setBar]
  dsimp only
  omega

end

/-! ### Timers -/

/-- A lane of `dopen.w` is decided at its time (R355). -/
theorem execDopenTimeout_late {q : FloeId} {lane n til : Nat} {want : List (Nat × Nat × Nat)} {found : List Opened} (hf : s.floe? (FloeId.key q) = some f)
    (hw : f.wait = .dopen want found) (hm : (lane, n, til) ∈ want) (ht : til ≤ s.clock (dieOf (coreOfFloe (FloeId.key q)))) :
    execDopenTimeout q lane s = .next (s.setFloe (FloeId.key q) { f with
      wait := .dopen (want.filter fun w => w.1 ≠ lane) (found ++ [(lane, 3, false, none)]) }) := by
  have hlate : (want.any fun w => w.1 == lane && decide (w.2.2 ≤ s.clock (dieOf (coreOfFloe (FloeId.key q))))) = true :=
    List.any_eq_true.2 ⟨_, hm, by simp [ht]⟩
  have hl : look s.floes (FloeId.key q) = some f := hf
  simp only [execDopenTimeout, hf, hw, hlate, if_true, State.modFloe, hl, decideWait]

/-- A change of a table's values is a change of the value found. -/
theorem look_map_some {α : Type} {t : Tab α} {g : Nat × α → α} {i : Nat} {x : α} (h : look t i = some x) :
    look (t.map fun e => (e.1, g e)) i = some (g (i, x)) := by
  induction t with
  | nil => exact nomatch h
  | cons e t ih =>
    simp only [List.map_cons, look] at h ⊢
    by_cases he : i = e.1
    · rw [if_pos he] at h ⊢
      cases h
      rw [he]
    · rw [if_neg he] at h ⊢
      exact ih h

theorem live_iff {core blkr : Nat} : s.live core blkr = true ↔ (s.block (blockKey core blkr)).stops = [] := by
  unfold State.live
  exact beq_iff_eq

/-- A floe when the holds of its issue slot have been looked at (R253): its own is over after 64 cycles, unless its block is stopped (R371). -/
def State.unheld (s : State) (q : SlotId) (e : Nat × Floe) : Floe :=
  match e.2.hold with
  | some a => if e.1 / 32 = SlotId.key q ∧ a + 64 ≤ s.clock q.die ∧ s.live (SlotId.key q / 4) e.2.blkr then { e.2 with hold := none } else e.2
  | none => e.2

theorem execReservationHoldExpire_eq (q : SlotId) (s : State) :
    execReservationHoldExpire q s = .next { s with floes := s.floes.map fun e => (e.1, s.unheld q e) } := by
  have hm : ∀ e : Nat × Floe, (match e.2.hold with
      | some a => if e.1 / 32 = SlotId.key q ∧ a + 64 ≤ s.clock q.die ∧ s.live (SlotId.key q / 4) e.2.blkr then (e.1, { e.2 with hold := none }) else e
      | none => e) = (e.1, s.unheld q e) := by
    intro e
    unfold State.unheld
    split
    · split <;> rfl
    · rfl
  unfold execReservationHoldExpire
  dsimp only
  congr 2
  exact List.map_congr_left fun e _ => hm e

theorem unheld_over {q : SlotId} {a : Nat} (hk : k / 32 = SlotId.key q) (ha : f.hold = some a) (ht : a + 64 ≤ s.clock q.die)
    (hs : (s.block (blockKey (SlotId.key q / 4) f.blkr)).stops = []) : s.unheld q (k, f) = { f with hold := none } := by
  simp only [State.unheld, ha]
  rw [if_pos ⟨hk, ht, live_iff.2 hs⟩]

theorem unheld_keeps {q : SlotId} (h : ¬ (k / 32 = SlotId.key q ∧ (∃ a, f.hold = some a ∧ a + 64 ≤ s.clock q.die) ∧
    (s.block (blockKey (SlotId.key q / 4) f.blkr)).stops = [])) : s.unheld q (k, f) = f := by
  unfold State.unheld
  split
  · next a ha =>
    rw [if_neg]
    rintro ⟨hk, ht, hs⟩
    exact h ⟨hk, ⟨a, ha, ht⟩, live_iff.1 hs⟩
  · rfl

/-- The hold of a reservation ends after 64 cycles unless its block is stopped (R253, R371). -/
theorem execReservationHoldExpire_floe (q : SlotId) (s : State) : ∃ t, execReservationHoldExpire q s = .next t ∧ ∀ k f, s.floe? k = some f →
    t.floe? k = some (if k / 32 = SlotId.key q ∧ (∃ a, f.hold = some a ∧ a + 64 ≤ s.clock q.die) ∧
      (s.block (blockKey (SlotId.key q / 4) f.blkr)).stops = [] then { f with hold := none } else f) := by
  refine ⟨_, execReservationHoldExpire_eq q s, fun k f hk => ?_⟩
  have hu : look (s.floes.map fun e => (e.1, s.unheld q e)) k = some (s.unheld q (k, f)) := look_map_some hk
  split
  · next h =>
    obtain ⟨hq, ⟨a, ha, ht⟩, hs⟩ := h
    rw [← unheld_over hq ha ht hs]
    exact hu
  · next h =>
    rw [unheld_keeps h] at hu
    exact hu

/-- A bin is ready when its timer has run out (R246). -/
theorem execBinTimerExpire_some {q : SlotId} {n : Nat} {b : Bin} (hn : n < 16) (hb : look s.bins (16 * SlotId.key q + n) = some b) (hr : b.ready = none)
    (hs : (s.block (blockKey (SlotId.key q / 4) b.blkr)).stops = []) :
    execBinTimerExpire q n s = .next (if b.opened + b.timer ≤ s.clock q.die then
      { s with bins := put s.bins (16 * SlotId.key q + n) { b with ready := some (b.opened + b.timer) } } else s) := by
  simp only [execBinTimerExpire, if_pos hn, hb, hr, live_iff.2 hs, Option.isSome_none, Bool.not_true, Bool.false_eq_true, false_or, or_false]
  by_cases ht : b.opened + b.timer ≤ s.clock q.die
  · rw [if_pos ht, if_neg (by omega)]
  · rw [if_neg ht, if_pos (by omega)]

/-- An instruction of a floe that is there is issued: no fault. -/
theorem issue_next {i : Instr} {body : Ctx → Res} (hf : s.floe? (FloeId.key s.cur) = some f) : ∃ t, issue i s body = .next t := by
  unfold issue
  rw [hf]
  exact ⟨_, rfl⟩

/-- A stalled `spawn` is tried again while its issue slot may issue (R152, R381). -/
theorem execSpawnResume_stalled {q : FloeId} {o : SpawnOps} (hf : s.floe? (FloeId.key q) = some f) (hi : s.fetch (FloeId.key q) = some (.ok (.spawn o)))
    (hw : f.wait = .stall) (hq : s.slotFree (FloeId.key q / 32) = true) : execSpawnResume q s = execSpawn o { s with cur := q } := by
  simp only [execSpawnResume, hf, hi]
  rw [if_pos ⟨hw, hq⟩]

end Sys2Proof.Machine
end

section
/-! PROOF of the obligation on results, bank ports, streams, completions and timers. -/

namespace Sys2Proof.Machine

/-- Settles O45, one event at a time. -/
theorem resultsPortsAndTimers : Obligations.ResultsPortsAndTimers := by
  unfold Obligations.ResultsPortsAndTimers
  refine ⟨?result, ?waits, ?bank, ?stream, ?completion, ?dopen, ?hold, ?bin, ?spawn⟩
  case result => exact fun q n s f p hf hp => execResultWrite_some hf hp
  case waits => exact fun q n s f hf h => execResultWrite_waits hf h
  case bank => exact fun l m b e s x y t hs hx hb ha => execBankService_head hs hx hb ha
  case stream =>
    intro q port lane s u f st vs hf hst hload hl hroom hmore k c he hg
    obtain ⟨g, hg, hports⟩ := hg
    exact execStreamElementArrival_ok hf hst hload hl hroom hmore he hg hports
  case completion =>
    intro n s m hm hdue hstop b u
    have hx : exec (.barrierCompletionMulticast n) s = .next ((u.completeFar m.core m.slot m.uid m.recs).settleDue 64) :=
      execBarrierCompletionMulticast_some hm
    have hidle : ∀ c, (u.setBar m.core m.slot c).settleDue 64 = u.setBar m.core m.slot c := fun c => settleDue_idle hdue hstop
    refine ⟨fun h => ?_, fun hv hu hp he => ?_, fun hv hu hp he => ?_, fun hv hu h => ?_⟩
    · rw [hx, completeFar_stray (s := u) h, settleDue_idle (s := u) hdue hstop]
    · rw [hx, completeFar_early (s := u) hv hu hp he, hidle]
      rfl
    · rw [hx, completeFar_overflow (s := u) hv hu hp he]
      rfl
    · rw [hx, completeFar_pend (s := u) hv hu h, hidle]
      rfl
  case dopen => exact fun q lane n til s f want found hf hw hm ht => execDopenTimeout_late hf hw hm ht
  case hold => exact execReservationHoldExpire_floe
  case bin => exact fun q n s b hn hb hr hs => execBinTimerExpire_some hn hb hr hs
  case spawn =>
    intro q s f o hf hi hw hq
    obtain ⟨t, ht⟩ : ∃ t, execSpawn o { s with cur := q } = .next t := issue_next (s := { s with cur := q }) hf
    exact ⟨t, (execSpawnResume_stalled hf hi hw hq).trans ht, ht⟩

end Sys2Proof.Machine
end

section
/-! SUPPORT. Integer operands and results: how they are read, fitted and written (R77, R78). -/

namespace Sys2Proof.Machine

open Sys2Proof

variable {c : Ctx} {o : IntOps}

/-- The immediate is sign-extended for the signed 64-bit type and zero-extended otherwise. -/
theorem immVal_eq (ty : IntTy) (imm : BitVec 32) :
    immVal ty imm = if ty.width = 64 ∧ ty.signed = true then (BitVec.signExtend 64 imm).toNat else imm.toNat := by
  have hsign : wrap (sext imm.toNat 32) 64 = (BitVec.signExtend 64 imm).toNat := by
    rw [wrap_eq_toNat, sext_eq_toInt, BitVec.ofNat_toNat, BitVec.setWidth_eq]
    rfl
  rw [immVal, hsign, ite_and]

/-- R18: the lower register of a pair holds bits 31:0. -/
theorem rdPair_eq (c : Ctx) (r : BitVec 8) (l : Nat) :
    c.rdPair r l = (c.s.vreg (c.t l) (r.toNat + 1) ++ c.s.vreg (c.t l) r.toNat).toNat := by
  rw [BitVec.toNat_append, ← Nat.shiftLeft_add_eq_or_of_lt (BitVec.isLt _), Nat.shiftLeft_eq, Ctx.rdPair]
  ring

/-- Registers below the queue ports are lane registers (R193). -/
theorem rd1_reg {r : BitVec 8} (h : r.toNat < 248) (pos l : Nat) : c.rd1 pos r l = c.s.vreg (c.t l) r.toNat := if_neg (by omega)

theorem intRaw_eq {ty : IntTy} {pos : Nat} {r : BitVec 8} (l : Nat)
    (h : (pos = 1 ∧ o.form.isImm = true) ∨ o.form.isK = true ∨ ty.width = 64 ∨ r.toNat < 248) :
    c.intRaw o pos r ty l =
      if pos = 1 ∧ o.form.isImm = true then
        (if ty.width = 64 ∧ ty.signed = true then (BitVec.signExtend 64 o.imm).toNat else o.imm.toNat)
      else if o.form.isK = true then (c.ureg r).toNat
      else if ty.width = 64 then (c.s.vreg (c.t l) (r.toNat + 1) ++ c.s.vreg (c.t l) r.toNat).toNat
      else (c.s.vreg (c.t l) r.toNat).toNat := by
  rw [Ctx.intRaw, immVal_eq, rdPair_eq]
  refine ite_congr rfl (fun _ => rfl) fun himm => ite_congr rfl (fun _ => rfl) fun hk => ite_congr rfl (fun _ => rfl) fun hpair => ?_
  rw [rd1_reg (by tauto)]

theorem rdVal_eq (ty : IntTy) (w : Nat) :
    rdVal ty w = if ty.signed = true then (BitVec.ofNat ty.width w).toInt else ((BitVec.ofNat ty.width w).toNat : Int) := by
  rw [rdVal, sext_eq_toInt, BitVec.toNat_ofNat]

theorem fit_wraps (v : Int) (ty : IntTy) :
    fit v ty false = if ty.signed = true then (BitVec.ofInt ty.width v).toInt else ((BitVec.ofInt ty.width v).toNat : Int) := by
  have hfit : fit v ty false = if ty.signed = true then sext (wrap v ty.width) ty.width else (wrap v ty.width : Int) := rfl
  rw [hfit, sext_eq_toInt, wrap_eq_toNat, BitVec.ofNat_toNat, BitVec.setWidth_eq]

theorem wrWords_eq (ty : IntTy) (x : Int) : wrWords ty x =
    if ty.width = 64 then [(BitVec.ofInt 64 x).extractLsb' 0 32, (BitVec.ofInt 64 x).extractLsb' 32 32] else [BitVec.ofInt 32 x] := by
  have hlo : BitVec.ofInt 32 x = (BitVec.ofInt 64 x).extractLsb' 0 32 := by
    apply BitVec.eq_of_toNat_eq
    simp only [BitVec.extractLsb'_toNat, BitVec.toNat_ofInt, Nat.shiftRight_zero]
    omega
  have hhi : BitVec.ofNat 32 (wrap x 64 / 2 ^ 32) = (BitVec.ofInt 64 x).extractLsb' 32 32 := by
    rw [wrap_eq_toNat, ← Nat.shiftRight_eq_div_pow]
    rfl
  rw [wrWords, hlo, hhi]

/-- Settles O13, one function of R77 at a time. -/
theorem operandsReadAndFitted : Obligations.OperandsReadAndFitted :=
  ⟨fun _ _ l _ _ _ h => intRaw_eq l h, rdVal_eq, fun v ty => ⟨rfl, fit_wraps v ty⟩, wrWords_eq⟩

end Sys2Proof.Machine
end

section
/-! SUPPORT. Integer arithmetic: results of one exact function, high halves, pair sums, carries, quotients and remainders (R81 to R85). -/

namespace Sys2Proof.Machine

open Sys2Proof

variable {i : Instr} {s u : State} {f : Floe} {c : Ctx} {o : IntOps} {p : BitVec 8}

/-- The words an instruction gives, said another way. -/
theorem intGives_congr {val val' : Ctx → Nat → List Word} (h : Said.intGives i o val) (hv : ∀ c l, val c l = val' c l) : Said.intGives i o val' := by
  rwa [show val' = val from funext fun c => funext fun l => (hv c l).symm]

/-- R81: an instruction whose own part is `arith` gives its function of the operands, fitted once. -/
theorem arith_gives (g : Int → Int → Int → Int) (ha : algRow i = none) (ho : Instr.oncePerFloe i = false)
    (he : ∀ s, exec i s = issue i s (arith o g)) :
    Said.intGives i o fun c l => wrWords o.ty (fit (g (c.intA o l) (c.intB o l) (c.intC o l)) o.ty o.sat) :=
  intGives_of_issue ha ho he

theorem iabs_gives (o : IntOps) : Said.intGives (.iabs o) o fun c l => wrWords o.ty (fit |c.intA o l| o.ty o.sat) := by
  refine intGives_congr (arith_gives (fun a _ _ => if a < 0 then -a else a) rfl rfl fun _ => rfl) fun c l => ?_
  have habs : (if c.intA o l < 0 then -c.intA o l else c.intA o l) = |c.intA o l| := by
    split
    · next h => exact (abs_of_neg h).symm
    · next h => exact (abs_of_nonneg (not_lt.1 h)).symm
  rw [← habs]

/-- Settles O15, by the exact function of each of the eight. -/
theorem arithmeticResults : Obligations.ArithmeticResults := by
  refine ⟨fun o => ?iadd, fun o => ?isub, fun o => ?imul, fun o => ?imad, fun o => ?imin, fun o => ?imax, iabs_gives, fun o => ?ineg⟩
  case iadd => exact arith_gives (fun a b _ => a + b) rfl rfl fun _ => rfl
  case isub => exact arith_gives (fun a b _ => a - b) rfl rfl fun _ => rfl
  case imul => exact arith_gives (fun a b _ => a * b) rfl rfl fun _ => rfl
  case imad => exact arith_gives (fun a b x => a * b + x) rfl rfl fun _ => rfl
  case imin => exact arith_gives (fun a b _ => min a b) rfl rfl fun _ => rfl
  case imax => exact arith_gives (fun a b _ => max a b) rfl rfl fun _ => rfl
  case ineg => exact arith_gives (fun a _ _ => -a) rfl rfl fun _ => rfl

/-! ### High halves, pairs and carries (R82 to R84) -/

theorem imulh_gives (o : IntOps) :
    Said.intGives (.imulh o) o fun c l => wrWords o.ty (fit (Int.fdiv (c.intA o l * c.intB o l) (2 ^ o.ty.width)) o.ty false) := by
  refine intGives_congr (intGives_of_issue rfl rfl fun _ => rfl) fun c l => ?_
  rw [Int.fdiv_eq_ediv_of_nonneg _ (by positivity)]

theorem imadw_gives (o : IntOps) : Said.intGives (.imadw o) o fun c l =>
    let w : IntTy := if o.ty.signed = true then .s64 else .z64
    wrWords w (fit (c.intA o l * c.intB o l + rdVal w (c.rdPair o.c l)) w o.sat) :=
  intGives_of_issue rfl rfl fun _ => rfl

/-- R84: what `.z32` reads is the word itself. -/
theorem wrap_rdVal_z32 (w : Nat) : wrap (rdVal .z32 w) 32 = (rdVal .z32 w).toNat := by
  show wrap ((w % 2 ^ 32 : Nat) : Int) 32 = w % 2 ^ 32
  rw [wrap]
  omega

/-- What every write of the predicate keeps, the predicates that an instruction writes keep. -/
theorem predOut_keeps {P : State → Prop} (hP : ∀ u t b, P u → P (u.setPred t p.toNat b)) (val : Nat → Bool) (hu : P u) : P (c.predOut u o p val) := by
  unfold Ctx.predOut
  split
  · exact List.foldlRecOn _ _ hu fun v hv l _ => hP v (c.t l) _ hv
  · exact List.foldlRecOn _ _ hu fun v hv l _ => hP v (c.t l) _ hv

theorem setPred_quiet (h : Quiet u) (t p : Nat) (b : Bool) : Quiet (u.setPred t p b) := by
  unfold State.setPred
  split
  · exact h
  · exact quiet_threads h _

theorem setPred_floe (u : State) (t p : Nat) (b : Bool) (k : Nat) : (u.setPred t p b).floe? k = u.floe? k := by
  unfold State.setPred
  split <;> rfl

theorem predOut_quiet (h : Quiet u) (val : Nat → Bool) : Quiet (c.predOut u o p val) :=
  predOut_keeps (P := Quiet) (fun _ t b hv => setPred_quiet hv t _ b) val h

theorem predOut_floe (u : State) (val : Nat → Bool) (k : Nat) : (c.predOut u o p val).floe? k = u.floe? k :=
  predOut_keeps (P := fun v => v.floe? k = u.floe? k) (fun v t b hv => (setPred_floe v t _ b k).trans hv) val rfl

theorem predOut_vreg (u : State) (val : Nat → Bool) (t n : Nat) : (c.predOut u o p val).vreg t n = u.vreg t n :=
  predOut_keeps (P := fun v => v.vreg t n = u.vreg t n) (fun v t' b hv => (State.setPred_vreg v t' _ t n b).trans hv) val rfl

/-- A result stands where it did in every state with the same registers and the same uniform registers and windows of the floe. -/
theorem gives_congr {t t' : State} {val : Nat → List Word} (h : c.gives t o val) (hv : ∀ u n, t'.vreg u n = t.vreg u n)
    (hf : ∀ x, t.floe? c.k = some x → ∃ y, t'.floe? c.k = some y ∧ y.uregs = x.uregs ∧ y.pend = x.pend) : c.gives t' o val := by
  unfold Ctx.gives at h ⊢
  by_cases hk : o.form.isK = true
  · rw [if_pos hk] at h ⊢
    by_cases hla : o.h.la = 0
    · rw [if_pos hla] at h ⊢
      obtain ⟨x, hx, hw⟩ := h
      obtain ⟨y, hy, hu, -⟩ := hf x hx
      exact ⟨y, hy, hu ▸ hw⟩
    · rw [if_neg hla] at h ⊢
      obtain ⟨x, hx, hw⟩ := h
      obtain ⟨y, hy, -, hp⟩ := hf x hx
      exact ⟨y, hy, hp ▸ hw⟩
  · rw [if_neg hk] at h ⊢
    by_cases hla : o.h.la = 0
    · rw [if_pos hla] at h ⊢
      exact fun hd hn hb l hl j w hj => (hv _ _).trans (h hd hn hb l hl j w hj)
    · rw [if_neg hla] at h ⊢
      intro ha
      obtain ⟨x, hx, hw⟩ := h ha
      obtain ⟨y, hy, -, hp⟩ := hf x hx
      exact ⟨y, hy, hp ▸ hw⟩

/-- Writing predicates as well leaves an instruction's words where they stand. -/
theorem predOut_keeps_gives (h : Quiet u) {y : Floe} (hy : u.floe? c.k = some y) {o' : IntOps} {val : Nat → List Word}
    (hg : c.gives (u.completed c.k f) o' val) (pred : Nat → Bool) : c.gives ((c.predOut u o p pred).completed c.k f) o' val := by
  have hq : Quiet (c.predOut u o p pred) := predOut_quiet h pred
  obtain ⟨x, hx, -, hxu, -, -, -, -, -, -, -, -, hxp⟩ := completed_floe (f := f) h.still hy
  obtain ⟨z, hz, -, hzu, -, -, -, -, -, -, -, -, hzp⟩ := completed_floe (f := f) hq.still ((predOut_floe u pred c.k).trans hy)
  refine gives_congr hg (fun t n => ?_) fun x' hx' => ?_
  · rw [completed_vreg hq, completed_vreg h, predOut_vreg]
  · obtain rfl : x = x' := Option.some.inj (hx.symm.trans hx')
    exact ⟨z, hz, hzu.trans hxu.symm, hzp.trans hxp.symm⟩

/-- R84: the sum of `iaddc` changes its destination. -/
theorem eff_iaddcSum (hq : Quiet c.s) (hd : o.form.isK = false → o.d.toNat < 248) (sum : Nat → Word) :
    Eff c (.iaddc o) false (c.intOut c.s o fun l => [sum l]) :=
  eff_intOut (eff_refl c _ _) hq o (n := 1) List.mem_cons_self hd _ fun _ => le_rfl

theorem pred_ne_intOpd (q : BitVec 8) (form : Sys2Proof.Form) (x : BitVec 8) (n : Nat) : Opd.pred q ≠ intOpd form x n := by
  unfold intOpd
  split <;> nofun

/-- R57, R84: a carry out that is p7 changes no predicate. -/
theorem iaddc_carry_seven (h : issuing (.iaddc o) s = some (f, c)) (hc : s.calm = true) (hd : o.form.isK = false → o.d.toNat < 248) (sum : Nat → Word)
    (carry : Nat → Bool) (h7 : o.c = 7) {t q : Nat} (hlt : q < 8) :
    ((c.predOut (c.intOut c.s o fun l => [sum l]) o o.c carry).completed c.k f).predOf t q = s.predOf t q := by
  have heff := eff_predOut h (eff_iaddcSum (quiet_of h hc) hd sum) o (p := o.c) (by simp [Instr.dsts]) carry
  obtain ⟨-, -, -, -, -, -, hpred, -⟩ := frame_of_eff h hc heff
  by_cases hq : q = 7
  · rw [hq]; rfl
  · have hne : BitVec.ofNat 8 q ≠ 7#8 := fun he => hq (by simpa [Nat.mod_eq_of_lt (show q < 256 by omega)] using congrArg BitVec.toNat he)
    exact hpred t q hlt (.inl (by simp [Instr.dsts, pred_ne_intOpd, h7, hne]))

/-- R84: the two operands and the carry in, added as integers. -/
def Ctx.carrySum (c : Ctx) (o : IntOps) (l : Nat) : Nat :=
  (rdVal .z32 (c.intRaw o 0 o.a .z32 l)).toNat + (rdVal .z32 (c.intRaw o 1 o.b .z32 l)).toNat +
    if c.s.predOf (c.t (if o.form.isK then c.lowPresent else l)) o.c.toNat then 1 else 0

theorem carrySum_eq (ht : o.ty = .z32) (c : Ctx) (l : Nat) :
    c.wordA o l + c.wordB o l + (if c.predIn o o.c l then 1 else 0) = c.carrySum o l := by
  unfold Ctx.wordA Ctx.wordB Ctx.intA Ctx.intB
  rw [ht]
  show wrap _ 32 + wrap _ 32 + _ = _
  rw [wrap_rdVal_z32, wrap_rdVal_z32]
  rfl

theorem iaddc_completes (ht : o.ty = .z32) (h : issuing (.iaddc o) s = some (f, c)) : exec (.iaddc o) s =
    .next ((c.predOut (c.intOut c.s o fun l => [BitVec.ofNat 32 (c.carrySum o l)]) o o.c fun l => decide (2 ^ 32 ≤ c.carrySum o l)).completed c.k f) := by
  show execIaddc o s = _
  unfold execIaddc
  rw [issue_lanes h (preTrap_none rfl c) rfl]
  simp only [carrySum_eq ht]
  rfl

/-- R84: the sum stands where it belongs, and the carry out beside it. -/
theorem iaddc_gives (h : issuing (.iaddc o) s = some (f, c)) (hc : s.calm = true) (hd : o.form.isK = false → o.d.toNat < 248) (sum : Nat → Word)
    (carry : Nat → Bool) :
    let t := (c.predOut (c.intOut c.s o fun l => [sum l]) o o.c carry).completed c.k f
    c.gives t o (fun l => [sum l]) ∧ c.givesPred t o o.c carry := by
  have heff := eff_iaddcSum (quiet_of h hc) hd sum
  have hq := eff_quiet heff (quiet_of h hc)
  obtain ⟨y, hy, -⟩ := heff.floe c.f (issuing_floe_ctx h).1
  exact ⟨predOut_keeps_gives hq hy (intOut_gives h hc o _) carry, predOut_gives (predOut_quiet hq carry)⟩

/-- Settles O16: `iaddc` writes its carry after its sum, and neither write moves what the other left. -/
theorem wideProductsAndCarry : Obligations.WideProductsAndCarry := by
  refine ⟨imulh_gives, fun o _ => imadw_gives o, fun o ht s f c h => ⟨_, iaddc_completes ht h, rfl, fun hc hd => ?_⟩⟩
  obtain ⟨hsum, hcarry⟩ := iaddc_gives h hc hd (fun l => BitVec.ofNat 32 (c.carrySum o l)) fun l => decide (2 ^ 32 ≤ c.carrySum o l)
  exact ⟨hsum, hcarry, fun h7 t q hq => iaddc_carry_seven h hc hd _ _ h7 hq⟩

/-! ### Quotients and remainders (R85) -/

theorem divide_eq (ty : IntTy) (sat : Bool) (a b : Int) : divide ty sat a b = Said.quotRem ty sat a b := by
  unfold divide Said.quotRem
  rw [Int.tmod_def, mul_comm b]

/-- Settles O17: the model's quotient and remainder are those of R85, by its case split on the divisor. -/
theorem divisionResults : Obligations.DivisionResults :=
  ⟨fun _ => intGives_congr (intGives_of_issue rfl rfl fun _ => rfl) fun _ _ => by rw [divide_eq],
    fun _ => intGives_congr (intGives_of_issue rfl rfl fun _ => rfl) fun _ _ => by rw [divide_eq]⟩

end Sys2Proof.Machine
end

section
/-! SUPPORT. Words of n(T) bits and their shifts as bit vectors (R86, R87). -/

namespace Sys2Proof.Machine

open Sys2Proof

variable {i : Instr} {c : Ctx} {o : IntOps}

theorem wrap_lt (v : Int) (n : Nat) : wrap v n < 2 ^ n := wrap_eq_toNat v n ▸ BitVec.isLt _

theorem wordA_lt (c : Ctx) (o : IntOps) (l : Nat) : c.wordA o l < 2 ^ o.ty.width := wrap_lt _ _
theorem wordB_lt (c : Ctx) (o : IntOps) (l : Nat) : c.wordB o l < 2 ^ o.ty.width := wrap_lt _ _
theorem wordC_lt (c : Ctx) (o : IntOps) (l : Nat) : c.wordC o l < 2 ^ o.ty.width := wrap_lt _ _

/-- A word of `w` bits is the number that its bit vector stands for. -/
theorem toNat_bits {w a : Nat} (h : a < 2 ^ w) : (Said.Bits w a).toNat = a := by rw [BitVec.toNat_ofNat, Nat.mod_eq_of_lt h]

theorem toNat_wordA (c : Ctx) (o : IntOps) (l : Nat) : (Said.Bits o.ty.width (c.wordA o l)).toNat = c.wordA o l := toNat_bits (wordA_lt c o l)
theorem toNat_wordB (c : Ctx) (o : IntOps) (l : Nat) : (Said.Bits o.ty.width (c.wordB o l)).toNat = c.wordB o l := toNat_bits (wordB_lt c o l)

theorem and_gives (o : IntOps) : Said.intGives (.and o) o fun c l =>
    wrWords o.ty (Said.Bits o.ty.width (c.wordA o l) &&& Said.Bits o.ty.width (c.wordB o l)).toNat :=
  intGives_congr (intGives_of_issue rfl rfl fun _ => rfl) fun c l => by rw [BitVec.toNat_and, toNat_wordA, toNat_wordB]

theorem or_gives (o : IntOps) : Said.intGives (.or o) o fun c l =>
    wrWords o.ty (Said.Bits o.ty.width (c.wordA o l) ||| Said.Bits o.ty.width (c.wordB o l)).toNat :=
  intGives_congr (intGives_of_issue rfl rfl fun _ => rfl) fun c l => by rw [BitVec.toNat_or, toNat_wordA, toNat_wordB]

theorem xor_gives (o : IntOps) : Said.intGives (.xor o) o fun c l =>
    wrWords o.ty (Said.Bits o.ty.width (c.wordA o l) ^^^ Said.Bits o.ty.width (c.wordB o l)).toNat :=
  intGives_congr (intGives_of_issue rfl rfl fun _ => rfl) fun c l => by rw [BitVec.toNat_xor, toNat_wordA, toNat_wordB]

theorem not_gives (o : IntOps) : Said.intGives (.not o) o fun c l => wrWords o.ty (~~~ Said.Bits o.ty.width (c.wordA o l)).toNat :=
  intGives_congr (intGives_of_issue rfl rfl fun _ => rfl) fun c l => by rw [BitVec.toNat_not, toNat_wordA]

/-! ### Shifts (R87) -/

theorem shlF_eq {w : Nat} (x : BitVec w) (n : Nat) : shlF w x.toNat n = (x <<< n).toNat := by
  rw [BitVec.toNat_shiftLeft, Nat.shiftLeft_eq, shlF]
  split
  · rfl
  · next hn => exact (Nat.mod_eq_zero_of_dvd ((Nat.pow_dvd_pow 2 (Nat.not_lt.1 hn)).mul_left _)).symm

theorem shrF_eq {w : Nat} (x : BitVec w) (n : Nat) : shrF w x.toNat n = (x >>> n).toNat := by
  rw [BitVec.toNat_ushiftRight, Nat.shiftRight_eq_div_pow, shrF]
  split
  · rfl
  · next hn => exact (Nat.div_eq_of_lt (x.isLt.trans_le (Nat.pow_le_pow_right two_pos (Nat.not_lt.1 hn)))).symm

/-- Past the width, a number of `w` bits is shifted to its sign. -/
theorem ediv_two_pow_min {x : Int} {w : Nat} (hlo : -2 ^ w ≤ x) (hhi : x < 2 ^ w) (n : Nat) : x / 2 ^ min n w = x / 2 ^ n := by
  rcases Nat.le_total n w with h | h
  · rw [min_eq_left h]
  · have hpow : (2 : Int) ^ w ≤ 2 ^ n := pow_le_pow_right₀ (by norm_num) h
    rw [min_eq_right h]
    rcases Int.lt_or_le x 0 with hx | hx
    · have hneg : ∀ {m : Nat}, -2 ^ m ≤ x → x / 2 ^ m = -1 := fun {m} hm =>
        (Int.ediv_emod_unique (by positivity)).2 ⟨(show x + 2 ^ m + 2 ^ m * -1 = x by ring), by omega, by omega⟩ |>.1
      rw [hneg hlo, hneg (by omega)]
    · rw [Int.ediv_eq_zero_of_lt hx hhi, Int.ediv_eq_zero_of_lt hx (hhi.trans_le hpow)]

theorem sarF_eq {w : Nat} (x : BitVec w) (n : Nat) : sarF w x.toNat n = (x.sshiftRight n).toNat := by
  have hpos : (0 : Int) < 2 ^ w := by positivity
  have hlo : -2 ^ w ≤ x.toInt := by linarith [BitVec.le_two_mul_toInt (x := x)]
  have hhi : x.toInt < 2 ^ w := by linarith [BitVec.two_mul_toInt_lt (x := x)]
  rw [sarF, wrap_eq_toNat, sext_eq_toInt, BitVec.ofNat_toNat, BitVec.setWidth_eq, ediv_two_pow_min hlo hhi, BitVec.sshiftRight,
    Int.shiftRight_eq_div_pow]
  push_cast
  rfl

theorem rolF_eq {w : Nat} (hw : 0 < w) (x : BitVec w) (n : Nat) : rolF w x.toNat n = (x.rotateLeft n).toNat := by
  have hr : n % w < w := Nat.mod_lt _ hw
  rw [BitVec.toNat_rotateLeft, Nat.shiftLeft_eq, Nat.shiftRight_eq_div_pow, rolF]
  generalize n % w = r at hr
  have hsplit : 2 ^ w = 2 ^ r * 2 ^ (w - r) := by rw [← pow_add, Nat.add_sub_cancel' hr.le]
  have hlow : x.toNat / 2 ^ (w - r) < 2 ^ r := Nat.div_lt_of_lt_mul (by rw [mul_comm, ← hsplit]; exact x.isLt)
  have hhigh : x.toNat * 2 ^ r % 2 ^ w = 2 ^ r * (x.toNat % 2 ^ (w - r)) := by rw [mul_comm, hsplit, Nat.mul_mod_mul_left]
  have hsum : 2 ^ r * (x.toNat % 2 ^ (w - r)) + x.toNat / 2 ^ (w - r) < 2 ^ w := by
    have hmod : x.toNat % 2 ^ (w - r) + 1 ≤ 2 ^ (w - r) := Nat.mod_lt _ (Nat.two_pow_pos _)
    calc 2 ^ r * (x.toNat % 2 ^ (w - r)) + x.toNat / 2 ^ (w - r) < 2 ^ r * (x.toNat % 2 ^ (w - r) + 1) := by rw [mul_add, mul_one]; omega
      _ ≤ 2 ^ r * 2 ^ (w - r) := Nat.mul_le_mul_left _ hmod
      _ = 2 ^ w := hsplit.symm
  rw [← Nat.mod_add_mod, hhigh, Nat.mod_eq_of_lt hsum, Nat.two_pow_add_eq_or_of_lt hlow]

theorem width_pos (ty : IntTy) : 0 < ty.width := by cases ty <;> decide

theorem shl_gives (o : IntOps) : Said.intGives (.shl o) o fun c l => wrWords o.ty (Said.Bits o.ty.width (c.wordA o l) <<< c.z32B o l).toNat :=
  intGives_congr (intGives_of_issue rfl rfl fun _ => rfl) fun c l => by rw [← shlF_eq, toNat_wordA]

theorem shr_gives (o : IntOps) : Said.intGives (.shr o) o fun c l => wrWords o.ty (Said.Bits o.ty.width (c.wordA o l) >>> c.z32B o l).toNat :=
  intGives_congr (intGives_of_issue rfl rfl fun _ => rfl) fun c l => by rw [← shrF_eq, toNat_wordA]

theorem sar_gives (o : IntOps) :
    Said.intGives (.sar o) o fun c l => wrWords o.ty ((Said.Bits o.ty.width (c.wordA o l)).sshiftRight (c.z32B o l)).toNat :=
  intGives_congr (intGives_of_issue rfl rfl fun _ => rfl) fun c l => by rw [← sarF_eq, toNat_wordA]

theorem rol_gives (o : IntOps) :
    Said.intGives (.rol o) o fun c l => wrWords o.ty ((Said.Bits o.ty.width (c.wordA o l)).rotateLeft (c.z32B o l)).toNat :=
  intGives_congr (intGives_of_issue rfl rfl fun _ => rfl) fun c l => by rw [← rolF_eq (width_pos o.ty), toNat_wordA]

/-- Settles O18: each operation on words is the operation on bit vectors of n(T) bits. -/
theorem bitwiseAndShiftResults : Obligations.BitwiseAndShiftResults :=
  ⟨⟨and_gives, or_gives, xor_gives, not_gives⟩, shl_gives, shr_gives, sar_gives, rol_gives, fun _ _ _ => rfl⟩

end Sys2Proof.Machine
end

section
/-! SUPPORT. Counts, reversed words, bit fields and permuted bytes (R88 to R90). -/

namespace Sys2Proof.Machine

open Sys2Proof

variable {c : Ctx} {o : IntOps}

/-! ### Counts and reversal (R89) -/

theorem bitOf_eq_testBit (a n : Nat) : bitOf a n = a.testBit n := by rw [bitOf, ← Nat.testBit_eq_decide_div_mod_eq]

theorem onesOf_eq (w a : Nat) : onesOf w a = (List.range w).countP fun n => a.testBit n := by
  simp only [onesOf, bitOf_eq_testBit, List.countP_eq_length_filter]

/-- R89: the bits above the leading one are zeros, and it is the highest. -/
theorem clzOf_spec {w a : Nat} (ha : a < 2 ^ w) :
    clzOf w a ≤ w ∧ a < 2 ^ (w - clzOf w a) ∧ (clzOf w a < w → 2 ^ (w - 1 - clzOf w a) ≤ a) := by
  unfold clzOf
  split
  · next h0 => exact ⟨le_rfl, by rw [h0]; exact Nat.two_pow_pos _, fun h => absurd h (lt_irrefl w)⟩
  · next h0 =>
    have hlog : Nat.log2 a < w := (Nat.log2_lt h0).2 ha
    refine ⟨by omega, ?_, fun _ => ?_⟩
    · rw [show w - (w - 1 - Nat.log2 a) = Nat.log2 a + 1 by omega]
      exact Nat.lt_log2_self
    · rw [show w - 1 - (w - 1 - Nat.log2 a) = Nat.log2 a by omega]
      exact Nat.log2_self_le h0

/-- R89: the first one from below, with zeros below it. -/
theorem ctzOf_spec (w a : Nat) :
    ctzOf w a ≤ w ∧ (∀ n, n < ctzOf w a → a.testBit n = false) ∧ (ctzOf w a < w → a.testBit (ctzOf w a) = true) := by
  unfold ctzOf
  simp only [bitOf_eq_testBit]
  cases hfind : (List.range w).find? fun n => a.testBit n with
  | none =>
    rw [List.find?_eq_none] at hfind
    exact ⟨le_rfl, fun n hn => by simpa using hfind n (List.mem_range.2 hn), fun h => absurd h (lt_irrefl w)⟩
  | some m =>
    obtain ⟨hm, hmem, hlow⟩ := List.find?_range_eq_some.1 hfind
    exact ⟨(List.mem_range.1 hmem).le, fun n hn => by simpa using hlow n hn, fun _ => hm⟩

/-- R89: the first `n` bits taken, from the top of the result down: they stand there in reverse, with zeros below. -/
theorem brev_fold (a : Nat) {w n : Nat} (hn : n ≤ w) :
    ∃ q, (List.range n).foldl (fun acc i => if bitOf a i then acc + 2 ^ (w - 1 - i) else acc) 0 = 2 ^ (w - n) * q ∧
      ∀ j, q.testBit j = (decide (j < n) && a.testBit (n - 1 - j)) := by
  induction n with
  | zero => exact ⟨0, rfl, fun j => by simp⟩
  | succ n ih =>
    obtain ⟨q, hq, hbit⟩ := ih (by omega)
    refine ⟨Nat.bit (a.testBit n) q, ?_, fun j => ?_⟩
    · rw [List.range_succ, List.foldl_append, hq, List.foldl_cons, List.foldl_nil, bitOf_eq_testBit, Nat.bit_val,
        show w - n = w - (n + 1) + 1 by omega, show w - 1 - n = w - (n + 1) by omega, pow_succ]
      cases a.testBit n
      · simp only [Bool.false_eq_true, if_false, Bool.toNat_false]; ring
      · simp only [if_true, Bool.toNat_true]; ring
    · cases j with
      | zero => simp
      | succ j => rw [Nat.testBit_bit_succ, hbit j, Nat.sub_sub, Nat.add_comm 1 j]; simp

theorem brevOf_testBit (w a n : Nat) : (brevOf w a).testBit n = (decide (n < w) && a.testBit (w - 1 - n)) := by
  obtain ⟨q, hq, hbit⟩ := brev_fold a (le_refl w)
  rw [brevOf, hq, Nat.sub_self, pow_zero, one_mul, hbit]

/-! ### Fields (R88) -/

theorem bits_extract {w a : Nat} (ha : a < 2 ^ w) (pos len : Nat) : (Said.Bits w a).extractLsb' pos len = BitVec.ofNat len (a / 2 ^ pos) := by
  apply BitVec.eq_of_toNat_eq
  rw [BitVec.extractLsb'_toNat, toNat_bits ha, Nat.shiftRight_eq_div_pow, BitVec.toNat_ofNat]

/-- R88: the field taken, under its sign; an empty field is 0. -/
theorem field_read {w a : Nat} (ha : a < 2 ^ w) (pos len : Nat) (signed : Bool) :
    (if signed = true then sext (a / 2 ^ pos % 2 ^ len) len else ((a / 2 ^ pos % 2 ^ len : Nat) : Int)) =
      if len = 0 then 0 else if signed = true then ((Said.Bits w a).extractLsb' pos len).toInt
        else ((Said.Bits w a).extractLsb' pos len).toNat := by
  by_cases h0 : len = 0
  · rw [if_pos h0, h0, pow_zero, Nat.mod_one]
    cases signed <;> rfl
  · rw [if_neg h0, bits_extract ha, sext_eq_toInt, ← BitVec.toNat_ofNat, BitVec.ofNat_toNat, BitVec.setWidth_eq]

/-- R88: the field put: the bits of the base around it stay. -/
theorem field_written_testBit (a base pos len n : Nat) :
    (base - base / 2 ^ pos % 2 ^ len * 2 ^ pos + a % 2 ^ len * 2 ^ pos).testBit n =
      if pos ≤ n ∧ n < pos + len then a.testBit (n - pos) else base.testBit n := by
  rw [replaceField_eq, testBit_parts (Nat.mod_lt _ (Nat.two_pow_pos _)) (Nat.mod_lt _ (Nat.two_pow_pos _))]
  by_cases hlo : n < pos
  · rw [if_pos hlo, if_neg (by omega), Nat.testBit_mod_two_pow, decide_eq_true hlo, Bool.true_and]
  · rw [if_neg hlo]
    by_cases hin : n < pos + len
    · rw [if_pos hin, if_pos ⟨by omega, hin⟩, Nat.testBit_mod_two_pow, decide_eq_true (by omega), Bool.true_and]
    · rw [if_neg hin, if_neg fun h => hin h.2, Nat.testBit_div_two_pow, Nat.testBit_div_two_pow]
      congr 1
      omega

theorem bfe_gives (o : IntOps) : Said.intGives (.bfe o) o fun c l =>
    let pos := min (c.z32B o l % 256) o.ty.width
    let len := min (c.z32B o l / 256 % 256) (o.ty.width - pos)
    wrWords o.ty (if len = 0 then 0 else if o.ty.signed = true then ((Said.Bits o.ty.width (c.wordA o l)).extractLsb' pos len).toInt
      else ((Said.Bits o.ty.width (c.wordA o l)).extractLsb' pos len).toNat) := by
  refine intGives_congr (intGives_of_issue rfl rfl fun _ => rfl) fun c l => ?_
  exact congrArg (wrWords o.ty) (field_read (wordA_lt c o l) _ _ _)

theorem bfi_gives (o : IntOps) : Said.intGives (.bfi o) o fun c l =>
    let p := fieldOf o.ty.width (c.z32B o l)
    wrWords o.ty (c.wordC o l - c.wordC o l / 2 ^ p.1 % 2 ^ p.2 * 2 ^ p.1 + c.wordA o l % 2 ^ p.2 * 2 ^ p.1 : Nat) :=
  intGives_of_issue rfl rfl fun _ => rfl

/-! ### Byte permutation (R90) -/

theorem prmByte_lt (src sel n : Nat) : prmByte src sel n < 256 := by
  unfold prmByte
  dsimp only
  split
  · exact Nat.mod_lt _ (by decide)
  · split <;> decide

/-- The number whose bytes are given, from the lowest up. -/
def ofBytes (b : Nat → Nat) (n : Nat) : Nat := (List.range n).foldl (fun acc i => acc + b i * 256 ^ i) 0

theorem ofBytes_succ (b : Nat → Nat) (n : Nat) : ofBytes b (n + 1) = ofBytes b n + 256 ^ n * b n := by
  rw [ofBytes, List.range_succ, List.foldl_append, List.foldl_cons, List.foldl_nil, mul_comm (b n)]
  rfl

theorem ofBytes_lt {b : Nat → Nat} (hb : ∀ i, b i < 256) (n : Nat) : ofBytes b n < 256 ^ n := by
  induction n with
  | zero => exact one_pos
  | succ n ih =>
    have hmul : 256 ^ n * (b n + 1) ≤ 256 ^ n * 256 := Nat.mul_le_mul_left _ (hb n)
    rw [ofBytes_succ, pow_succ]
    linarith

theorem ofBytes_byte {b : Nat → Nat} (hb : ∀ i, b i < 256) {k n : Nat} (hk : k < n) : ofBytes b n / 256 ^ k % 256 = b k := by
  induction n with
  | zero => omega
  | succ n ih =>
    rw [ofBytes_succ]
    rcases Nat.lt_succ_iff_lt_or_eq.1 hk with h | rfl
    · obtain ⟨d, rfl⟩ := Nat.exists_eq_add_of_lt h
      rw [show 256 ^ (k + d + 1) * b (k + d + 1) = 256 ^ k * (256 * (256 ^ d * b (k + d + 1))) by ring,
        Nat.add_mul_div_left _ _ (by positivity), Nat.add_mul_mod_self_left]
      exact ih h
    · rw [Nat.add_mul_div_left _ _ (by positivity), Nat.div_eq_of_lt (ofBytes_lt hb k), Nat.zero_add, Nat.mod_eq_of_lt (hb k)]

theorem byte_shift (v n : Nat) : v / 256 ^ n = v / 2 ^ (8 * n) := by rw [pow_mul, show (2 : Nat) ^ 8 = 256 from rfl]

/-- A byte of a word of four bytes. -/
theorem ofBytes_extract {b : Nat → Nat} (hb : ∀ i, b i < 256) {n : Nat} (hn : n < 4) :
    (BitVec.ofNat 32 (ofBytes b 4)).extractLsb' (8 * n) 8 = BitVec.ofNat 8 (b n) := by
  have hlt : ofBytes b 4 < 2 ^ 32 := (ofBytes_lt hb 4).trans_eq (by norm_num)
  rw [bits_extract hlt, ← byte_shift]
  apply BitVec.eq_of_toNat_eq
  rw [BitVec.toNat_ofNat, BitVec.toNat_ofNat, Nat.mod_eq_of_lt (hb n)]
  exact ofBytes_byte hb hn

/-- R90: a byte of the result, by its selector nibble: a byte of the source, or its sign eight times. -/
theorem prmByte_eq {src sel n : Nat} (hsrc : src < 2 ^ 64) (hn : n < 4) :
    let k := (BitVec.ofNat 32 sel).extractLsb' (4 * n) 4
    let b := (BitVec.ofNat 64 src).extractLsb' (8 * (k.toNat % 8)) 8
    BitVec.ofNat 8 (prmByte src sel n) = if k.getLsbD 3 = false then b else if b.getLsbD 7 = true then 0xFF#8 else 0#8 := by
  intro k b
  have hk : k.toNat = sel / 16 ^ n % 16 := by
    rw [BitVec.extractLsb'_toNat, BitVec.toNat_ofNat, Nat.shiftRight_eq_div_pow]
    interval_cases n <;> omega
  have hb : b.toNat = src / 256 ^ (k.toNat % 8) % 256 := by
    rw [byte_shift, show b = _ from bits_extract hsrc _ _, BitVec.toNat_ofNat]
  have hprm : prmByte src sel n = if k.toNat < 8 then b.toNat else if 128 ≤ b.toNat then 255 else 0 := by
    rw [hb, hk]
    rfl
  have hk3 : k.toNat < 8 ↔ k.getLsbD 3 = false := by
    rw [← BitVec.msb_eq_getLsbD_last k, BitVec.msb_eq_decide, decide_eq_false_iff_not, not_le]
  have hb7 : 128 ≤ b.toNat ↔ b.getLsbD 7 = true := by
    rw [← BitVec.msb_eq_getLsbD_last b, BitVec.msb_eq_decide, decide_eq_true_iff]
  rw [hprm, apply_ite (BitVec.ofNat 8), apply_ite (BitVec.ofNat 8), BitVec.ofNat_toNat, BitVec.setWidth_eq]
  exact if_congr hk3 rfl (if_congr hb7 rfl rfl)

theorem prm_gives (o : IntOps) : Said.intGives (.prm o) o fun c l =>
    [BitVec.ofNat 32 (ofBytes (prmByte (c.wordA o l + 2 ^ 32 * c.wordC o l) (c.z32B o l)) 4)] :=
  intGives_of_issue rfl rfl fun _ => rfl

/-- Two words of 32 bits are a number of 64. -/
theorem prm_src_lt (h32 : o.ty.width = 32) (c : Ctx) (l : Nat) : c.wordA o l + 2 ^ 32 * c.wordC o l < 2 ^ 64 := by
  have ha := wordA_lt c o l
  have hc := wordC_lt c o l
  rw [h32] at ha hc
  omega

/-- Settles O19: each count by its bits, each field and each byte by its place. -/
theorem countAndFieldResults : Obligations.CountAndFieldResults := by
  refine ⟨⟨fun o => ?popc, fun o => ?clz, fun o => ?ctz, fun o => ?brev⟩, bfe_gives, fun o => ?bfi, fun o h32 => ?prm⟩
  case popc => exact intGives_congr (intGives_of_issue rfl rfl fun _ => rfl) fun c l => by rw [onesOf_eq]
  case clz => exact ⟨fun c l => clzOf o.ty.width (c.wordA o l), intGives_of_issue rfl rfl fun _ => rfl, fun c l => clzOf_spec (wordA_lt c o l)⟩
  case ctz => exact ⟨fun c l => ctzOf o.ty.width (c.wordA o l), intGives_of_issue rfl rfl fun _ => rfl, fun c l => ctzOf_spec _ _⟩
  case brev => exact ⟨fun c l => brevOf o.ty.width (c.wordA o l), intGives_of_issue rfl rfl fun _ => rfl, fun c l => brevOf_testBit _ _⟩
  case bfi => exact ⟨_, bfi_gives o, fun c l n _ => field_written_testBit _ _ _ _ n⟩
  case prm =>
    refine ⟨_, prm_gives o, fun c l n hn => ?_⟩
    rw [ofBytes_extract (prmByte_lt _ _) hn]
    exact prmByte_eq (prm_src_lt h32 c l) hn

end Sys2Proof.Machine
end

section
/-! SUPPORT. Comparisons, selection, predicate tables and pointers (R95 to R100). -/

namespace Sys2Proof.Machine

open Sys2Proof

variable {i : Instr} {o : IntOps} {p : BitVec 8}

/-- An instruction whose own part writes a predicate, whatever lanes are active, gives it. -/
theorem predGives_of_issue {val : Ctx → Nat → Bool} (ha : algRow i = none) (ho : Instr.oncePerFloe i = false)
    (he : ∀ s, exec i s = issue i s fun c => .done (c.predOut c.s o p (val c))) : Said.predGives i o p val := by
  intro s f c h
  refine ⟨?_, fun hc => predOut_gives (predOut_quiet (quiet_of h hc) _)⟩
  rw [he, issue_lanes h (preTrap_none ha c) ho]
  rfl

/-- The predicate an instruction gives, said another way. -/
theorem predGives_congr {val val' : Ctx → Nat → Bool} (h : Said.predGives i o p val) (hv : ∀ c l, val c l = val' c l) : Said.predGives i o p val' := by
  rwa [show val' = val from funext fun c => funext fun l => (hv c l).symm]

section
variable (a b : Int)
theorem condHolds_eq : condHolds .eq a b = decide (a = b) := rfl
theorem condHolds_ne : condHolds .ne a b = decide (a ≠ b) := decide_not.symm
theorem condHolds_lt : condHolds .lt a b = decide (a < b) := rfl
theorem condHolds_le : condHolds .le a b = decide (a ≤ b) := rfl
theorem condHolds_gt : condHolds .gt a b = decide (a > b) := rfl
theorem condHolds_ge : condHolds .ge a b = decide (a ≥ b) := rfl
end

theorem icmp_gives (o : IntOps) : Said.predGives (.icmp o) o o.d fun c l => condHolds o.cond (c.intA o l) (c.intB o l) :=
  predGives_of_issue rfl rfl fun _ => rfl

theorem sel_gives (o : IntOps) : Said.intGives (.sel o) o fun c l =>
    wrWords o.ty (if c.s.predOf (c.t (if o.form.isK then c.lowPresent else l)) o.c.toNat = true then c.wordA o l else c.wordB o l : Nat) :=
  intGives_of_issue rfl rfl fun _ => rfl

theorem plop_gives (o : IntOps) : Said.predGives (.plop o) o o.d fun c l =>
    let p (r : BitVec 8) : Nat := if c.s.predOf (c.t (if o.form.isK then c.lowPresent else l)) r.toNat = true then 1 else 0
    o.imm.getLsbD (4 * p o.a + 2 * p o.b + p o.c) :=
  predGives_congr (predGives_of_issue rfl rfl fun _ => rfl) fun _ _ => bitOf_eq_testBit _ _

/-! ### Pointers (R98 to R100) -/

theorem rdPair_lt (c : Ctx) (r : BitVec 8) (l : Nat) : c.rdPair r l < 2 ^ 64 := rdPair_eq c r l ▸ BitVec.isLt _

/-- R98: the index and the tag stay, the address moves. -/
theorem ptr_moved {p : Nat} (hp : p < 2 ^ 64) (n : Int) : BitVec.ofInt 64 (p / 2 ^ 48 * 2 ^ 48 + wrap (ptrVa p + n) 48 : Nat) =
    (BitVec.ofNat 64 p).extractLsb' 48 16 ++ BitVec.ofInt 48 (((BitVec.ofNat 64 p).extractLsb' 0 48).toNat + n) := by
  have hva : ((BitVec.ofNat 64 p).extractLsb' 0 48).toNat = ptrVa p := by
    rw [bits_extract hp, BitVec.toNat_ofNat, pow_zero, Nat.div_one, ptrVa]
  have hhi : ((BitVec.ofNat 64 p).extractLsb' 48 16).toNat = p / 2 ^ 48 := by
    rw [bits_extract hp, BitVec.toNat_ofNat, Nat.mod_eq_of_lt (by omega)]
  have hlt : wrap (ptrVa p + n) 48 < 2 ^ 48 := wrap_eq_toNat _ 48 ▸ BitVec.isLt _
  apply BitVec.eq_of_toNat_eq
  rw [hva, BitVec.toNat_append, hhi, ← wrap_eq_toNat _ 48, ← Nat.shiftLeft_add_eq_or_of_lt hlt, Nat.shiftLeft_eq, BitVec.ofInt_natCast, BitVec.toNat_ofNat,
    Nat.mod_eq_of_lt (by omega)]

theorem padd_gives (o : IntOps) : Said.intGives (.padd o) o fun c l =>
    let p : BitVec 64 := BitVec.ofNat 64 (c.rdPair o.a l)
    let q : BitVec 64 := p.extractLsb' 48 16 ++ BitVec.ofInt 48 ((p.extractLsb' 0 48).toNat + c.intB o l)
    [q.extractLsb' 0 32, q.extractLsb' 32 32] := by
  refine intGives_congr (intGives_of_issue rfl rfl fun _ => rfl) fun c l => ?_
  rw [wrWords_eq, if_pos (show IntTy.width .z64 = 64 from rfl), ptr_moved (rdPair_lt c o.a l)]

theorem psub_gives (o : IntOps) : Said.intGives (.psub o) o fun c l =>
    wrWords .s64 (((BitVec.ofNat 48 (c.rdPair o.a l)).toNat : Int) - (BitVec.ofNat 48 (c.rdPair o.b l)).toNat) :=
  intGives_congr (intGives_of_issue rfl rfl fun _ => rfl) fun c l => by rw [BitVec.toNat_ofNat, BitVec.toNat_ofNat, ptrVa, ptrVa]

theorem pcmp_gives (o : IntOps) : Said.predGives (.pcmp o) o o.d fun c l =>
    condHolds o.cond (BitVec.ofNat 48 (c.rdPair o.a l)).toNat (BitVec.ofNat 48 (c.rdPair o.b l)).toNat :=
  predGives_congr (predGives_of_issue rfl rfl fun _ => rfl) fun c l => by rw [BitVec.toNat_ofNat, BitVec.toNat_ofNat, ptrVa, ptrVa]

theorem pbnd_gives (o : IntOps) : Said.predGives (.pbnd o) o o.d fun c l =>
    let p := c.rdPair o.a l
    let e := c.s.bent c.g.ctx (p / 2 ^ 48 % 4096)
    let va := p % 2 ^ 48
    bentOk e && decide (bentBase e ≤ va ∧ va + c.z32B o l ≤ bentLimit e) && (!o.opx.getLsbD 0 || bentR e) && (!o.opx.getLsbD 1 || bentW e) &&
      (!o.opx.getLsbD 2 || bentA e) && (!o.opx.getLsbD 3 || bentB e) :=
  predGives_of_issue rfl rfl fun _ => rfl

/-- Settles O20: the comparisons condition by condition, the others by their own value. -/
theorem compareAndPointerResults : Obligations.CompareAndPointerResults := by
  refine ⟨⟨fun o => ?icmp, sel_gives, plop_gives⟩, fun o _ => padd_gives o, fun o _ => psub_gives o, fun o _ => ?pcmp, fun o _ => pbnd_gives o⟩
  case icmp =>
    refine predGives_congr (icmp_gives o) fun c l => ?_
    cases o.cond
    · exact condHolds_eq _ _
    · exact condHolds_ne _ _
    · exact condHolds_lt _ _
    · exact condHolds_le _ _
    · exact condHolds_gt _ _
    · exact condHolds_ge _ _
  case pcmp =>
    refine predGives_congr (pcmp_gives o) fun c l => ?_
    cases o.cond
    · exact (condHolds_eq _ _).trans (decide_eq_decide.2 Nat.cast_inj)
    · exact (condHolds_ne _ _).trans (decide_eq_decide.2 Nat.cast_inj.not)
    · exact (condHolds_lt _ _).trans (decide_eq_decide.2 Nat.cast_lt)
    · exact (condHolds_le _ _).trans (decide_eq_decide.2 Nat.cast_le)
    · exact (condHolds_gt _ _).trans (decide_eq_decide.2 Nat.cast_lt)
    · exact (condHolds_ge _ _).trans (decide_eq_decide.2 Nat.cast_le)

end Sys2Proof.Machine
end

section
/-! SUPPORT. Float instructions element by element: packed and single elements, sums, sign bits, and comparisons lane by lane (R102, R105, R107 to R118). -/

namespace Sys2Proof.Machine

open Sys2Proof

variable {i : Instr} {s u : State} {f : Floe} {c : Ctx} {o : FpOps}

/-! ## Elements (R102, R105) -/

theorem fpFmt_eq (ty : FpTy) : fpFmt ty = Said.fmt ty := by cases ty <;> rfl

theorem fpRaw_lt (c : Ctx) (o : FpOps) (pos : Nat) (r : BitVec 8) (l : Nat) : c.fpRaw o pos r l < 2 ^ 32 := by
  unfold Ctx.fpRaw
  split <;> exact BitVec.isLt _

/-- An element of a word is a code of the type's format. -/
theorem fget_lt (ty : FpTy) {w : Nat} (hw : w < 2 ^ 32) (e : Nat) : fget ty w e < 2 ^ (Said.fmt ty).width := by
  cases ty
  case f32 => exact hw
  case f16 | bf16 => exact Nat.mod_lt _ (Nat.two_pow_pos 16)
  case f16x2 | bf16x2 => exact (bits_half w e).trans_lt (Nat.mod_lt _ (Nat.two_pow_pos 16))

/-- The packed elements of the model are those of the statement. -/
theorem packElems_eq_each (o : FpOps) (g : Nat → Nat → Nat → Nat → Nat × Fl) (w : Word) (c : Ctx) (l : Nat) :
    (packElems o.ty fun e => g (drawOf w l e) (fget o.ty (c.fpRaw o 0 o.a l) e) (fget o.ty (c.fpRaw o 1 o.b l) e) (fget o.ty (c.fpRaw o 2 o.c l) e)) =
      Said.each o g w c l := by
  unfold Said.each packElems
  simp only [drawOf_eq]
  cases o.ty
  case f32 | f16 | bf16 => simp [fpElems, fget, List.range_succ]
  case f16x2 | bf16x2 => simp [fpElems, fget, List.range_succ, bits_half]

/-- R105: a float instruction gives, element by element, any function that agrees with its own on the codes of the format. -/
theorem fpLanes_gives {g g' : Nat → Nat → Nat → Nat → Nat × Fl} (ha : algRow i = none) (ho : Instr.oncePerFloe i = false)
    (he : ∀ s, exec i s = issue i s (fpLanes o g)) (hg : ∀ d a b x, a < 2 ^ (Said.fmt o.ty).width → g d a b x = g' d a b x) :
    Said.fpGives i o.h.la o.d o.rnd (Said.each o g') := by
  have hval : Said.each o g' = fun w c l => packElems o.ty fun e =>
      g (drawOf w l e) (fget o.ty (c.fpRaw o 0 o.a l) e) (fget o.ty (c.fpRaw o 1 o.b l) e) (fget o.ty (c.fpRaw o 2 o.c l) e) := by
    funext w c l
    simp only [← packElems_eq_each, hg _ _ _ _ (fget_lt o.ty (fpRaw_lt c o 0 o.a l) _)]
  rw [hval]
  exact fpGives_of_issue ha ho he

/-! ## Sums and products (R107, R108) -/

theorem r108_eq_sum (o : FpOps) (ops : Nat → Nat → Nat → List FVal) (terms : Nat → Nat → Nat → List (FVal × Bool)) (d a b x : Nat) :
    r108 (Said.fmt o.ty) o.rnd o.ovf d (ops a b x) (terms a b x) = Said.sum o ops terms d a b x := rfl

/-- R108: an instruction whose element operation is one exact sum gives that sum, rounded once. -/
theorem exactSum_gives {ops : Nat → Nat → Nat → List FVal} {terms : Nat → Nat → Nat → List (FVal × Bool)} (ha : algRow i = none)
    (ho : Instr.oncePerFloe i = false)
    (he : ∀ s, exec i s = issue i s (fpLanes o fun d a b x => r108 (Said.fmt o.ty) o.rnd o.ovf d (ops a b x) (terms a b x))) :
    Said.fpGives i o.h.la o.d o.rnd (Said.each o (Said.sum o ops terms)) :=
  fpLanes_gives ha ho he fun d a b x _ => r108_eq_sum o ops terms d a b x

/-- Settles O21: each of the four is one exact sum of terms (`exactSum_gives`). -/
theorem floatSums : Obligations.FloatSums :=
  ⟨fun _ => exactSum_gives rfl rfl fun _ => rfl, fun _ => exactSum_gives rfl rfl fun _ => rfl, fun _ => exactSum_gives rfl rfl fun _ => rfl,
    fun _ => exactSum_gives rfl rfl fun _ => rfl⟩

/-! ## Sign bits (R111) -/

theorem signBit_fmt (ty : FpTy) : (Said.fmt ty).signBit = if ty = .f32 then 2 ^ 31 else 2 ^ 15 := by cases ty <;> rfl

theorem width_fmt (ty : FpTy) : (Said.fmt ty).width = if ty = .f32 then 32 else 16 := by cases ty <;> rfl

/-- `fabs` clears the sign bit. -/
theorem fabs_element_eq (ty : FpTy) (a : Nat) : a % (Said.fmt ty).signBit =
    if ty = .f32 then (BitVec.ofNat 32 a &&& 0x7FFFFFFF#32).toNat else (BitVec.ofNat 16 a &&& 0x7FFF#16).toNat := by
  rw [signBit_fmt]
  split
  · rw [BitVec.toNat_and, BitVec.toNat_ofNat, BitVec.toNat_ofNat, show 0x7FFFFFFF % 2 ^ 32 = 2 ^ 31 - 1 from rfl, Nat.and_two_pow_sub_one_eq_mod]
    omega
  · rw [BitVec.toNat_and, BitVec.toNat_ofNat, BitVec.toNat_ofNat, show 0x7FFF % 2 ^ 16 = 2 ^ 15 - 1 from rfl, Nat.and_two_pow_sub_one_eq_mod]
    omega

/-- `fneg` flips the sign bit of a code. -/
theorem fneg_element_eq (ty : FpTy) {a : Nat} (ha : a < 2 ^ (Said.fmt ty).width) : a ^^^ (Said.fmt ty).signBit =
    if ty = .f32 then (BitVec.ofNat 32 a ^^^ 0x80000000#32).toNat else (BitVec.ofNat 16 a ^^^ 0x8000#16).toNat := by
  rw [width_fmt] at ha
  rw [signBit_fmt]
  split_ifs at ha ⊢
  all_goals
    rw [BitVec.toNat_xor, BitVec.toNat_ofNat, Nat.mod_eq_of_lt ha]
    rfl

/-! ## Comparisons (R113) -/

theorem setPred_status (u : State) (t p k : Nat) (b : Bool) : ((u.setPred t p b).thread k).status = (u.thread k).status := by
  unfold State.setPred
  split
  · rfl
  · rw [State.thread_modThread]; split <;> simp_all

theorem orFlags_predOf (u : State) (t k p : Nat) (g : Fl) : (u.orFlags t g).predOf k p = u.predOf k p := by
  unfold State.orFlags
  split
  · rfl
  · rw [State.predOf, State.thread_modThread]
    by_cases hk : k = t
    · rw [if_pos hk, hk]; rfl
    · rw [if_neg hk]; rfl

theorem orFlags_status (u : State) (t k : Nat) (g : Fl) :
    ((u.orFlags t g).thread k).status = if k = t then (u.thread k).status ||| g.zeroExtend 32 else (u.thread k).status := by
  unfold State.orFlags
  split
  · next h => subst h; simp
  · rw [State.thread_modThread]
    split
    · next h => rw [h]
    · rfl

theorem orFlags_quiet (h : Quiet u) (t : Nat) (g : Fl) : Quiet (u.orFlags t g) := by
  unfold State.orFlags
  split
  · exact h
  · exact quiet_threads h _

/-- A predicate and sticky flags, written lane by lane. -/
def Ctx.predFlags (c : Ctx) (p : BitVec 8) (r : Nat → Bool × Fl) (u : State) (ls : List Nat) : State :=
  ls.foldl (fun s l => (s.setPred (c.t l) p.toNat (r l).1).orFlags (c.t l) (r l).2) u

theorem predFlags_cons (p : BitVec 8) (r : Nat → Bool × Fl) (u : State) (m : Nat) (ls : List Nat) :
    c.predFlags p r u (m :: ls) = c.predFlags p r ((u.setPred (c.t m) p.toNat (r m).1).orFlags (c.t m) (r m).2) ls := rfl

theorem predFlags_quiet (h : Quiet u) (p : BitVec 8) (r : Nat → Bool × Fl) (ls : List Nat) : Quiet (c.predFlags p r u ls) :=
  quiet_foldl (fun _ _ hv => orFlags_quiet (setPred_quiet hv _ _ _) _ _) ls h

/-- Lanes in their own banks each read the predicate and the flags written for them; a lane not written reads what it did. -/
theorem predFlags_lands {p : BitVec 8} (hp : p.toNat < 7) (r : Nat → Bool × Fl) {n : Nat} (hb : c.inBanks n = true) (ls : List Nat)
    (hls : ∀ l ∈ ls, l ∈ c.act) (u : State) {l : Nat} (hl : l ∈ c.act) :
    (c.predFlags p r u ls).predOf (c.t l) p.toNat = (if l ∈ ls then (r l).1 else u.predOf (c.t l) p.toNat) ∧
    ((c.predFlags p r u ls).thread (c.t l)).status =
      if l ∈ ls then (u.thread (c.t l)).status ||| (r l).2.zeroExtend 32 else (u.thread (c.t l)).status := by
  induction ls generalizing u with
  | nil => simp [Ctx.predFlags]
  | cons m ls ih =>
    obtain ⟨hpred, hstat⟩ := ih (fun l hl => hls l (List.mem_cons_of_mem _ hl)) ((u.setPred (c.t m) p.toNat (r m).1).orFlags (c.t m) (r m).2)
    rw [orFlags_predOf, State.predOf_setPred _ _ _ _ _ _ (by omega)] at hpred
    rw [orFlags_status, setPred_status] at hstat
    rw [predFlags_cons, hpred, hstat]
    by_cases hlm : l = m
    · subst hlm
      simp [show p.toNat ≠ 7 by omega, BitVec.or_assoc]
    · have ht : c.t l ≠ c.t m := fun h => hlm (lane_unique hb (hls m List.mem_cons_self) hl h)
      simp [hlm, ht]

/-- R113: what the active lanes compare, they read. -/
theorem fcmp_gives (o : FpOps) (h : issuing (.fcmp o) s = some (f, c)) :
    let r (l : Nat) : Bool × Fl :=
      fCmp (Said.fmt o.ty) o.opx.toNat (fget o.ty (c.fpRaw o 0 o.a l) 0) (fget o.ty (c.fpRaw o 1 o.b l) 0)
    ∃ t, exec (.fcmp o) s = .next t ∧ (s.calm = true → o.d.toNat < 7 → c.inBanks 0 = true → ∀ l ∈ c.act,
      t.predOf (c.t l) o.d.toNat = (r l).1 ∧
      (t.thread (c.t l)).status = (c.s.thread (c.t l)).status ||| BitVec.zeroExtend 32 (r l).2) := by
  intro r
  refine ⟨(c.predFlags o.d r c.s c.act).completed c.k f, ?_, fun hc hd hb l hl => ?_⟩
  · show execFcmp o s = _
    unfold execFcmp
    rw [issue_lanes h (preTrap_none rfl c) rfl, fpFmt_eq]
    rfl
  · have hq := predFlags_quiet (c := c) (quiet_of h hc) o.d r c.act
    obtain ⟨hpred, hstat⟩ := predFlags_lands hd r hb c.act (fun _ h => h) c.s hl
    rw [completed_predOf hq, completed_status hq, hpred, hstat, if_pos hl, if_pos hl]
    exact ⟨rfl, rfl⟩

/-- Settles O22: `fcmp` by its predicates and flags lane by lane, `fabs` and `fneg` by their sign bits, the others by their format's operation. -/
theorem floatElementResults : Obligations.FloatElementResults := by
  refine ⟨⟨?_, ?_, ?_, ?_, ?_, ?_, ?_, ?_, ?_, ?_, ?_, ?_, fun o s f c h => fcmp_gives o h⟩, fun o => ?fabs, fun o => ?fneg⟩
  case fabs => exact fpLanes_gives rfl rfl (fun _ => rfl) fun _ a _ _ _ => by rw [fpFmt_eq, fabs_element_eq]
  case fneg => exact fpLanes_gives rfl rfl (fun _ => rfl) fun _ a _ _ ha => by rw [fpFmt_eq, fneg_element_eq o.ty ha]
  all_goals exact fun o => fpLanes_gives rfl rfl (fun _ => rfl) fun _ _ _ _ _ => by rw [fpFmt_eq]

end Sys2Proof.Machine
end

section
/-! SUPPORT. Special cases of division, roots, minimum, maximum and comparison, by the operands' values (R109, R110, R113). -/

namespace Sys2Proof.Machine

open Sys2Proof

variable {f : Fmt} {rnd : Rnd} {sat : Bool} {d a b : Nat}

/-! ## Division (R109) -/

theorem fDiv_nan (h : (f.val a).isNan = true ∨ (f.val b).isNan = true) :
    fDiv f rnd sat d a b = (f.nan, flIf ((f.val a).isSnan || (f.val b).isSnan) flNV) := by
  unfold fDiv
  cases hx : f.val a with
  | nan p => rfl
  | inf p | zero p | fin p m e =>
    cases hy : f.val b with
    | nan q => rfl
    | inf q | zero q | fin q m e => simp [hx, hy, FVal.isNan] at h

/-- 0/0 and ∞/∞ are invalid. -/
theorem fDiv_invalid (h : (∃ p q, f.val a = .zero p ∧ f.val b = .zero q) ∨ ∃ p q, f.val a = .inf p ∧ f.val b = .inf q) :
    fDiv f rnd sat d a b = (f.nan, flNV) := by
  unfold fDiv
  obtain ⟨p, q, hx, hy⟩ | ⟨p, q, hx, hy⟩ := h
  · rw [hx, hy]
  · rw [hx, hy]

theorem fDiv_fin_zero {p q : Bool} {m : Nat} {e : Int} (hx : f.val a = .fin p m e) (hy : f.val b = .zero q) :
    fDiv f rnd sat d a b = ((if ((f.val a).neg? != (f.val b).neg?) = true then f.signBit else 0) + f.infCode, flDZ) := by
  unfold fDiv
  rw [hx, hy]

theorem fDiv_inf_zero {p q : Bool} (hx : f.val a = .inf p) (hy : f.val b = .zero q) :
    fDiv f rnd sat d a b = ((if ((f.val a).neg? != (f.val b).neg?) = true then f.signBit else 0) + f.infCode, 0) := by
  unfold fDiv
  rw [hx, hy]

/-! ## Roots (R109) -/

theorem fSqrt_neg {m : Nat} {e : Int} (hx : f.val a = .fin true m e) : fSqrt f rnd sat d a = (f.nan, flNV) := by
  unfold fSqrt
  rw [hx]

theorem fRsq_neg {m : Nat} {e : Int} (hx : f.val a = .fin true m e) : fRsq f rnd sat d a = (f.nan, flNV) := by
  unfold fRsq
  rw [hx]

theorem fSqrt_zero {q : Bool} (hx : f.val a = .zero q) : fSqrt f rnd sat d a = (a, 0) := by
  unfold fSqrt
  rw [hx]

/-! ## Minimum, maximum and comparison (R110, R113) -/

theorem FVal.lt_zero_zero (p q : Bool) : (FVal.zero p).lt (.zero q) = false := rfl

/-- Beside a number, a NaN loses. -/
theorem fMinMax_nan_left (hx : (f.val a).isNan = true) (hy : (f.val b).isNan = false) (mx : Bool) : (fMinMax f mx a b).1 = b := by
  simp [fMinMax, hx, hy]

theorem fMinMax_nan_right (hx : (f.val a).isNan = false) (hy : (f.val b).isNan = true) (mx : Bool) : (fMinMax f mx a b).1 = a := by
  simp [fMinMax, hx, hy]

/-- -0 stands below +0. -/
theorem fMinMax_zeros (hx : f.val a = .zero true) (hy : f.val b = .zero false) (mx : Bool) : (fMinMax f mx a b).1 = if mx = true then b else a := by
  simp [fMinMax, hx, hy, FVal.lt_zero_zero, FVal.isNan, FVal.neg?]

/-- Unordered operands meet the conditions "not equal" and "unordered" alone. -/
theorem fCmp_unordered (h : (f.val a).isNan = true ∨ (f.val b).isNan = true) (n : Nat) : (fCmp f n a b).1 = decide (n = 1 ∨ n = 6) := by
  have hun : ((f.val a).isNan || (f.val b).isNan) = true := by simpa using h
  unfold fCmp
  simp only [hun]
  match n with
  | 0 | 1 | 2 | 3 | 4 | 5 | 6 => rfl
  | n + 7 => simp

theorem fCmp_zeros {p q : Bool} (hx : f.val a = .zero p) (hy : f.val b = .zero q) : (fCmp f 0 a b).1 = true := by
  simp [fCmp, hx, hy, FVal.lt_zero_zero, FVal.isNan]

/-- Settles O23: one lemma for each kind of operands, in any format. -/
theorem floatSpecialCases : Obligations.FloatSpecialCases := by
  intro ty rnd sat d a b f x y sg
  refine ⟨fun h => ?nan, fDiv_invalid, fun ⟨_, _, _, _, hx, hy⟩ => fDiv_fin_zero hx hy, fun ⟨_, _, hx, hy⟩ => fDiv_inf_zero hx hy,
    fun ⟨_, _, hx⟩ => ⟨fSqrt_neg hx, fRsq_neg hx⟩, fun ⟨_, hx⟩ => fSqrt_zero hx,
    fun ⟨hx, hy⟩ => ⟨fMinMax_nan_left hx hy _, fMinMax_nan_left hx hy _⟩, fun ⟨hx, hy⟩ => ⟨fMinMax_nan_right hx hy _, fMinMax_nan_right hx hy _⟩,
    fun hx hy => ⟨fMinMax_zeros hx hy _, fMinMax_zeros hx hy _, fCmp_zeros hx hy⟩⟩
  case nan =>
    rw [fDiv_nan h]
    refine ⟨rfl, rfl, fCmp_unordered h 6, fCmp_unordered h 1, fun n hn => (fCmp_unordered h n).trans (decide_eq_false ?_)⟩
    rintro (rfl | rfl) <;> exact absurd hn (by decide)

end Sys2Proof.Machine
end

section
/-! SUPPORT. Algebra elements: the table check before the operands, the pairs of a table, products as one exact sum, norms as chains (R136 to R140). -/

namespace Sys2Proof.Machine

open Sys2Proof

variable {i : Instr} {s u : State} {f : Floe} {c : Ctx} {o : AlgOps} {n : Nat}

/-! ## The table check and the components (R137) -/

/-- With an active lane, the trap that comes before the operands is that of the table check. -/
theorem preTrap_alg (hr : (algRow i).map (·.2.2.2) = some o) (ha : c.act ≠ []) :
    (∀ e, c.tabCheck o = .error e → c.preTrap i = some e) ∧ ∀ t, c.tabCheck o = .ok t → c.preTrap i = none := by
  obtain ⟨⟨_, _, _, _⟩, hrow, rfl⟩ := Option.map_eq_some_iff.1 hr
  constructor <;> intro _ h <;> simp [Ctx.preTrap, ha, hrow, h]

theorem preTrap_idle (ha : c.act = []) : c.preTrap i = none := by simp [Ctx.preTrap, ha]

/-- An element is written as the words of its components, with the flags of all of them. -/
theorem algOut_eq (c : Ctx) (s : State) (o : AlgOps) (n : Nat) (g : Nat → Nat → Nat × Fl) : c.algOut s o n g =
    c.deliver s 0 o.d (c.act.map fun l => (l, (List.range n).map fun m => BitVec.ofNat 32 (g l m).1,
      (List.range n).foldl (fun fl m => fl ||| (g l m).2) 0)) := by
  simp only [Ctx.algOut, List.map_map, List.foldl_map]
  rfl

/-- Words delivered at once stand in the registers of their lanes, and their flags in the status words. -/
theorem deliver_lands (h : Quiet u) (ht : u.threads = c.s.threads) {d : BitVec 8} (hd : d.toNat < 248) (val : Nat → List Word) (fl : Nat → Fl)
    (hn : ∀ l, (val l).length ≤ n) (hb : c.inBanks (d.toNat + n) = true) :
    let t := (c.deliver u 0 d (c.act.map fun l => (l, val l, fl l))).completed c.k f
    c.inRegs t d val ∧ ∀ l ∈ c.act, (t.thread (c.t l)).status = (c.s.thread (c.t l)).status ||| (fl l).zeroExtend 32 := by
  have hth : ∀ t, u.thread t = c.s.thread t := fun t => by rw [State.thread, ht]; rfl
  have hq : Quiet (c.deliver u 0 d (c.act.map fun l => (l, val l, fl l))) := by
    obtain ⟨x, y, e, -⟩ := deliver_fold (c := c) h hd val fl c.act
    rw [Ctx.deliver, if_pos rfl, e]
    exact quiet_threads (quiet_regs h x) y
  refine ⟨deliver_inRegs h (fun t => by rw [hth]) hd val fl hn hb, fun l hl => ?_⟩
  rw [completed_status hq, deliver_flags h hd val fl hb hl, hth]

/-- An algebra instruction with its check gives its components, its generator moved first. -/
theorem algGives_of_issue {val : Nat → (Nat → Nat) → Ctx → Nat → Nat → Nat × Fl} (hr : (algRow i).map (·.2.2.2) = some o)
    (ho : Instr.oncePerFloe i = false)
    (he : ∀ s, exec i s = issue i s (algRun o fun t w s c => c.algOut s o n fun l m => val t (drawOf w l) c l m)) : Said.algGives i o n val := by
  intro s f c h sr draw
  refine ⟨fun ha => ?idle, fun e ha hc => ?traps, fun t ha hc => ?gives⟩
  case idle =>
    rw [he, issue_lanes h (preTrap_idle ha) ho, algRun, if_pos ha]
    rfl
  case traps => rw [he, issue_preTrap h ((preTrap_alg hr ha).1 e hc)]
  case gives =>
    have hdraw : ∀ l, drawOf sr.1 l = draw l := fun l => funext fun m => drawOf_eq sr.1 l m
    refine ⟨(c.algOut sr.2 o n fun l m => val t (draw l) c l m).completed c.k f, ?_, fun hcalm hd hb => ?_⟩
    · rw [he, issue_act h ((preTrap_alg hr ha).2 t hc) ha, algRun, if_neg ha, hc]
      simp only [hdraw, sr]
      rfl
    · obtain ⟨g, hg⟩ := srStep_eq c o.rnd
      have hq : Quiet sr.2 := hg ▸ quiet_lfsr (quiet_of h hcalm) g
      rw [algOut_eq]
      exact deliver_lands hq (show sr.2.threads = c.s.threads from hg ▸ rfl) hd _ _ (fun l => by simp) hb

/-! ## Tables (R126) -/

theorem bitOf_tabConj (t m : Nat) : bitOf (tabConj t) m = true ↔ t.testBit (8 + m) = true ∧ m < 8 := by
  rw [bitOf_eq_testBit, tabConj, bits, Nat.testBit_mod_two_pow, Nat.testBit_div_two_pow, Bool.and_eq_true, decide_eq_true_eq, and_comm, Nat.add_comm]

theorem tabEnt_eq (t i j : Nat) : tabEnt t i j = (t / 2 ^ (64 + 5 * (8 * i + j)) % 2 ^ 5 / 8, t / 2 ^ (64 + 5 * (8 * i + j)) % 2 ^ 5 % 8) := by
  rw [tabEnt, bits, show 68 + 5 * (8 * i + j) + 1 - (64 + 5 * (8 * i + j)) = 5 by omega]

/-- The pairs on a component are the entries that name it and are not empty. -/
theorem mem_tabPairs (t d k i j : Nat) (neg : Bool) : (i, j, neg) ∈ tabPairs t d k ↔
    i < d ∧ j < d ∧ (tabEnt t i j).2 = k ∧ (tabEnt t i j).1 ≠ 2 ∧ neg = decide ((tabEnt t i j).1 = 1) := by
  simp only [tabPairs, List.mem_flatMap, List.mem_filterMap, List.mem_range, Option.ite_none_right_eq_some, Option.some.injEq, Prod.mk.injEq]
  constructor
  · rintro ⟨_, hi, _, hj, ⟨hk, hz⟩, rfl, rfl, rfl⟩
    exact ⟨hi, hj, hk, hz, rfl⟩
  · rintro ⟨hi, hj, hk, hz, rfl⟩
    exact ⟨i, hi, j, hj, ⟨hk, hz⟩, rfl, rfl, rfl⟩

/-- R139: the pairs stand row by row, and in a row column by column. -/
theorem tabPairs_pairwise (t d k : Nat) : (tabPairs t d k).Pairwise fun p q => p.1 < q.1 ∨ (p.1 = q.1 ∧ p.2.1 < q.2.1) := by
  rw [tabPairs, List.pairwise_flatMap]
  refine ⟨fun i _ => List.pairwise_filterMap.2 (List.pairwise_lt_range.imp fun {j j'} hlt p hp q hq => ?_),
    List.pairwise_lt_range.imp fun {i i'} hlt p hp q hq => ?_⟩
  · obtain ⟨-, hp⟩ := Option.ite_none_right_eq_some.1 hp
    obtain ⟨-, hq⟩ := Option.ite_none_right_eq_some.1 hq
    rw [← Option.some.inj hp, ← Option.some.inj hq]
    exact .inr ⟨rfl, hlt⟩
  · obtain ⟨_, -, hp⟩ := List.mem_filterMap.1 hp
    obtain ⟨_, -, hq⟩ := List.mem_filterMap.1 hq
    obtain ⟨-, hp⟩ := Option.ite_none_right_eq_some.1 hp
    obtain ⟨-, hq⟩ := Option.ite_none_right_eq_some.1 hq
    rw [← Option.some.inj hp, ← Option.some.inj hq]
    exact .inl hlt

/-! ## Products (R138) -/

theorem isNan_negate (x : FVal) : x.negate.isNan = x.isNan := by cases x <;> rfl

theorem isSnan_isNan {x : FVal} (h : x.isSnan = true) : x.isNan = true := by
  cases x with
  | nan q => rfl
  | inf q | zero q | fin q m e => cases h

/-- An infinity times zero is no number. -/
theorem mul_invalid_isNan {x y : FVal} (h : (x.mul y).2 = true) : (x.mul y).1.isNan = true := by
  cases x <;> cases y
  case inf.zero | zero.inf => rfl
  all_goals cases h

theorem mul_finite {x y : FVal} (hx : x.finite) (hy : y.finite) : (x.mul y).1.finite := by
  rcases FVal.finite_cases hx with ⟨s, rfl⟩ | ⟨s, m, e, rfl⟩ <;> rcases FVal.finite_cases hy with ⟨s', rfl⟩ | ⟨s', m', e', rfl⟩ <;>
    exact ⟨rfl, fun _ h => by cases h⟩

theorem negate_finite {x : FVal} (hx : x.finite) : x.negate.finite := by
  rcases FVal.finite_cases hx with ⟨s, rfl⟩ | ⟨s, m, e, rfl⟩ <;> exact ⟨rfl, fun _ h => by cases h⟩

/-- A sum with a NaN among its terms is a NaN. -/
theorem sumVal_isNan {rnd : Rnd} {ts : List FVal} {t : FVal} (ht : t ∈ ts) (h : t.isNan = true) : (sumVal rnd ts).isNan = true := by
  rw [sumVal, if_pos (List.any_eq_true.2 ⟨t, ht, h⟩)]
  rfl

theorem flIf_or (b b' : Bool) (f : Fl) : flIf b f ||| flIf b' f = flIf (b || b') f := by cases b <;> cases b' <;> simp [flIf]

/-- A list's element, or +0 past its end. -/
def elemOf (l : List FVal) (n : Nat) : FVal := l.getD n (.zero false)

theorem isSnan_elemOf {l : List FVal} {n : Nat} (h : (elemOf l n).isSnan = true) : l.any FVal.isSnan = true := by
  rw [elemOf, List.getD_eq_getElem?_getD] at h
  cases hx : l[n]? with
  | none => rw [hx] at h; cases h
  | some x => exact List.any_eq_true.2 ⟨x, List.mem_of_getElem? hx, by rwa [hx] at h⟩

/-- The product of a pair, with the pair's sign. -/
def pairTerm (a b : List FVal) (p : Nat × Nat × Bool) : FVal :=
  if p.2.2 then ((elemOf a p.1).mul (elemOf b p.2.1)).1.negate else ((elemOf a p.1).mul (elemOf b p.2.1)).1

theorem pairTerm_invalid_isNan {a b : List FVal} {p : Nat × Nat × Bool} (h : ((elemOf a p.1).mul (elemOf b p.2.1)).2 = true) :
    (pairTerm a b p).isNan = true := by
  unfold pairTerm
  split
  · rw [isNan_negate, mul_invalid_isNan h]
  · exact mul_invalid_isNan h

theorem pairTerm_finite {a b : List FVal} {p : Nat × Nat × Bool} (ha : (elemOf a p.1).finite) (hb : (elemOf b p.2.1).finite) :
    (pairTerm a b p).finite ∧ Said.rat (pairTerm a b p) = (if p.2.2 then -1 else 1) * Said.rat (elemOf a p.1) * Said.rat (elemOf b p.2.1) := by
  unfold pairTerm
  split
  · exact ⟨negate_finite (mul_finite ha hb), by rw [rat_negate, (mul_rat ha hb).2]; ring⟩
  · exact ⟨mul_finite ha hb, by rw [(mul_rat ha hb).2]; ring⟩

section
variable (ps : List (Nat × Nat × Bool)) (a b plus : List FVal)

/-- The operands of a component: those of its pairs, and of the addend. -/
def pairOps : List FVal := (ps.flatMap fun p => [elemOf a p.1, elemOf b p.2.1]) ++ plus

/-- The terms of a component, each with whether it is an infinity times zero. -/
def pairTerms : List (FVal × Bool) := (ps.map fun p => (pairTerm a b p, ((elemOf a p.1).mul (elemOf b p.2.1)).2)) ++ plus.map fun x => (x, false)

variable {ps a b plus}

theorem pairOps_left {p : Nat × Nat × Bool} (hp : p ∈ ps) : elemOf a p.1 ∈ pairOps ps a b plus :=
  List.mem_append_left _ (List.mem_flatMap.2 ⟨p, hp, List.mem_cons_self⟩)

theorem pairOps_right {p : Nat × Nat × Bool} (hp : p ∈ ps) : elemOf b p.2.1 ∈ pairOps ps a b plus :=
  List.mem_append_left _ (List.mem_flatMap.2 ⟨p, hp, List.mem_cons_of_mem _ List.mem_cons_self⟩)

/-- A signalling NaN among a component's operands is one of the elements'. -/
theorem pairOps_isSnan {add : List FVal} {k : Nat} (h : (pairOps ps a b ((add.drop k).take 1)).any FVal.isSnan = true) :
    (a ++ b ++ add).any FVal.isSnan = true := by
  rw [List.any_append, List.any_append, Bool.or_eq_true, Bool.or_eq_true]
  obtain ⟨x, hx, hs⟩ := List.any_eq_true.1 h
  rcases List.mem_append.1 hx with hx | hx
  · obtain ⟨p, -, hx⟩ := List.mem_flatMap.1 hx
    simp only [List.mem_cons, List.not_mem_nil, or_false] at hx
    rcases hx with rfl | rfl
    · exact .inl (.inl (isSnan_elemOf hs))
    · exact .inl (.inr (isSnan_elemOf hs))
  · exact .inr (List.any_eq_true.2 ⟨x, List.mem_of_mem_drop (List.mem_of_mem_take hx), hs⟩)

theorem pairTerms_invalid : (pairTerms ps a b plus).any (·.2) = ps.any fun p => ((elemOf a p.1).mul (elemOf b p.2.1)).2 := by
  simp [pairTerms, List.any_map, Function.comp_def]

theorem pairTerms_vals : (pairTerms ps a b plus).map (·.1) = ps.map (pairTerm a b) ++ plus := by simp [pairTerms, Function.comp_def]

/-- An infinity times zero makes the sum invalid. -/
theorem sumVal_pairs_isNan {rnd : Rnd} (h : (ps.any fun p => ((elemOf a p.1).mul (elemOf b p.2.1)).2) = true) :
    (sumVal rnd (ps.map (pairTerm a b) ++ plus)).isNan = true := by
  obtain ⟨p, hp, hi⟩ := List.any_eq_true.1 h
  exact sumVal_isNan (List.mem_append_left _ (List.mem_map_of_mem hp)) (pairTerm_invalid_isNan hi)

/-- Of finite operands the sum is the exact sum of the signed products and of the addend. -/
theorem sumVal_pairs_rat {rnd : Rnd} (h : ∀ y ∈ pairOps ps a b plus, y.finite) : Said.rat (sumVal rnd (ps.map (pairTerm a b) ++ plus)) =
    (ps.map fun p => (if p.2.2 then -1 else 1) * Said.rat (elemOf a p.1) * Said.rat (elemOf b p.2.1)).sum + (plus.map Said.rat).sum := by
  have hp : ∀ p ∈ ps, _ := fun p hp => pairTerm_finite (h _ (pairOps_left hp)) (h _ (pairOps_right hp))
  rw [sumVal_rat, List.map_append, List.sum_append, List.map_map]
  · exact congrArg (·.sum + _) (List.map_congr_left fun p hm => (hp p hm).2)
  · intro x hx
    rcases List.mem_append.1 hx with hx | hx
    · obtain ⟨p, hm, rfl⟩ := List.mem_map.1 hx
      exact (hp p hm).1
    · exact h x (List.mem_append_right _ hx)

end

/-- A component is the NaN, or its sum rounded once; what sets NV in either case (log 39). -/
theorem algProd_eq (t d k : Nat) (rnd : Rnd) (sat : Bool) (draw : Nat) (a b add : List FVal) :
    let ps := tabPairs t d k
    let plus := (add.drop k).take 1
    let v := sumVal rnd (ps.map (pairTerm a b) ++ plus)
    let bad := ps.any fun p => ((elemOf a p.1).mul (elemOf b p.2.1)).2
    let sig := (a ++ b ++ add).any FVal.isSnan
    algProd t d k rnd sat draw a b add =
      if (pairOps ps a b plus).any FVal.isNan = true then (Fmt.f32.nan, flIf (bad || sig) flNV)
      else ((deliver .f32 rnd sat draw v).1, (deliver .f32 rnd sat draw v).2 ||| flIf (v.isNan || sig) flNV) := by
  intro ps plus v bad sig
  have hr : algProd t d k rnd sat draw a b add =
      let r := r108 .f32 rnd sat draw (pairOps ps a b plus) (pairTerms ps a b plus)
      (r.1, r.2 ||| flIf sig flNV) := rfl
  rw [hr, r108, pairTerms_invalid, pairTerms_vals]
  split
  · have hsig : ((pairOps ps a b plus).any FVal.isSnan || sig) = sig := by
      rw [Bool.or_eq_right_iff_imp]
      exact pairOps_isSnan
    dsimp only
    rw [flIf_or, Bool.or_right_comm, hsig, Bool.or_comm]
  · dsimp only
    rw [BitVec.or_assoc, flIf_or]

/-! ## Norms (R139) -/

/-- One fused step of a norm's chain: the sum and the flags so far, and the draw's number. -/
def normStep (t : Nat) (rnd : Rnd) (sat : Bool) (draw a : Nat → Nat) (acc : Nat × Fl × Nat) (p : Nat × Nat × Bool) : Nat × Fl × Nat :=
  let y := fFma .f32 rnd sat (draw acc.2.2) (if p.2.2 then a p.1 ^^^ 2 ^ 31 else a p.1)
    (if t.testBit (8 + p.2.1) = true ∧ p.2.1 < 8 then a p.2.1 ^^^ 2 ^ 31 else a p.2.1) acc.1
  (y.1, acc.2.1 ||| y.2, acc.2.2 + 1)

/-- The chain after its first `n` steps. -/
def normChain (t : Nat) (rnd : Rnd) (sat : Bool) (draw a : Nat → Nat) (ps : List (Nat × Nat × Bool)) (n : Nat) : Nat × Fl × Nat :=
  (ps.take n).foldl (normStep t rnd sat draw a) (0, 0, 0)

section
variable {t d : Nat} {rnd : Rnd} {sat : Bool} {draw a : Nat → Nat} {ps : List (Nat × Nat × Bool)}

theorem algNorm_eq : algNorm t d rnd sat draw a =
    let r := normChain t rnd sat draw a (tabPairs t d 0) (tabPairs t d 0).length
    (r.1, r.2.1) := by
  have hc : ∀ m, (if bitOf (tabConj t) m = true then a m ^^^ 2 ^ 31 else a m) = if t.testBit (8 + m) = true ∧ m < 8 then a m ^^^ 2 ^ 31 else a m :=
    fun m => if_congr (bitOf_tabConj t m) rfl rfl
  rw [normChain, List.take_length, algNorm]
  simp only [hc]
  rfl

theorem normChain_succ {p : Nat × Nat × Bool} (h : ps[n]? = some p) :
    normChain t rnd sat draw a ps (n + 1) = normStep t rnd sat draw a (normChain t rnd sat draw a ps n) p := by
  rw [normChain, List.take_add_one, h, List.foldl_append]
  rfl

/-- Each step of the chain takes the next draw. -/
theorem normChain_draws (h : n ≤ ps.length) : (normChain t rnd sat draw a ps n).2.2 = n := by
  induction n with
  | zero => rfl
  | succ n ih => rw [normChain_succ (List.getElem?_eq_getElem h), normStep, ih (Nat.le_of_succ_le h)]

end

/-- Settles O26: the six instructions by their table check, then the pairs of a table, a product as one exact sum, and the norm step by step. -/
theorem algebraResults : Obligations.AlgebraResults := by
  refine ⟨fun o => ?amul, fun o => ?amac, fun o => ?aconj, fun o => ?anorm, fun o => ?aadd, fun o => ?ascl, fun t d k i j neg => ?pairs, tabPairs_pairwise,
    fun t d k draw rnd sat a b add => ?prod, fun t d rnd sat draw a => ?norm⟩
  case amul | amac | anorm | aadd | ascl => exact algGives_of_issue rfl rfl fun _ => rfl
  case aconj =>
    refine algGives_of_issue rfl rfl fun s => ?_
    simp only [← bitOf_tabConj]
    rfl
  case pairs => rw [mem_tabPairs, tabEnt_eq]
  case prod =>
    intro el ps plus ops x v r nan invalid
    have hr : r = if nan = true then _ else _ := algProd_eq t d k rnd sat draw a b add
    refine ⟨fun h => by rw [hr, if_pos h], fun h => by rw [hr, if_neg (by simp [h])]; rfl, ?_, fun h => sumVal_pairs_rat h⟩
    cases hn : nan with
    | false =>
      have hbad : invalid = v.isNan := by
        rw [show invalid = (_ || (!nan && v.isNan)) from rfl, hn, Bool.not_false, Bool.true_and, Bool.or_eq_right_iff_imp]
        exact sumVal_pairs_isNan
      rw [hr, if_neg (by simp [hn]), hbad]
      rfl
    | true =>
      have hbad : invalid = ps.any fun p => ((el a p.1).mul (el b p.2.1)).2 := by
        rw [show invalid = (_ || (!nan && v.isNan)) from rfl, hn, Bool.not_true, Bool.false_and, Bool.or_false]
      rw [hr, if_pos hn, hbad, if_pos rfl]
      exact BitVec.zero_or.symm
  case norm =>
    let chain := normChain t rnd sat draw a (tabPairs t d 0)
    refine ⟨fun n => ((chain n).1, (chain n).2.1), rfl, algNorm_eq, fun n p hp => ?_⟩
    have hn : (chain n).2.2 = n := normChain_draws (List.getElem?_eq_some_iff.1 hp).1.le
    have hs : chain (n + 1) = normStep t rnd sat draw a (chain n) p := normChain_succ hp
    dsimp only
    rw [hs, normStep, hn]

end Sys2Proof.Machine
end

section
/-! SUPPORT. Copies, structure tables, maps and circular buffers: what their own parts come to once their descriptors are read (R129, R222 to R239). -/

namespace Sys2Proof.Machine

open Sys2Proof

variable {i : Instr} {s u : State} {f : Floe} {c : Ctx} {body : Ctx → Res}

/-! ## An instruction that runs once per floe -/

section
variable (he : exec i s = issue i s body) (hr : algRow i = none) (h : issuing i s = some (f, c))
include he hr h

theorem exec_completes (ha : c.act ≠ []) (hb : body c = .done u) : exec i s = .next (u.completed c.k f) :=
  he.trans (issue_done h (preTrap_none hr c) hb fun h0 => absurd h0 ha)

theorem exec_idle (hb : body c = .done c.s) : exec i s = .next (c.s.completed c.k f) :=
  he.trans (issue_done h (preTrap_none hr c) hb fun _ => rfl)

theorem exec_traps (ha : c.act ≠ []) {code a : Nat} {ls : List Nat} (hb : body c = .trap code ls a) : exec i s = .next (s.trapped c.k code ls a) := by
  rw [he, issue_act h (preTrap_none hr c) ha, hb]
  rfl

theorem exec_holds (ha : c.act ≠ []) {w : Wait} (hb : body c = .hold u w) :
    exec i s = .next (((u.modFloe c.k fun x => { x with ports := f.ports }).waitHere c.k w).settleDue 64) := by
  rw [he, issue_act h (preTrap_none hr c) ha, hb]
  rfl

end

/-! ## Copies (R222, R224 to R228) -/

theorem sext_word (w : Word) : sext w.toNat 32 = w.toInt := by rw [sext_eq_toInt, BitVec.ofNat_toNat, BitVec.setWidth_eq]

/-- The coordinates of a box's origin, read from the run of registers that SRCB begins; 0 past the box's dimensions and the segment's registers. -/
def Ctx.boxOrig (c : Ctx) (d run regs : Nat) : List Word :=
  (List.range 7).map fun i => if i < cpNdim d ∧ run + i < regs then c.s.vreg (c.t c.low) (run + i) else 0

/-- What a copy comes to once its descriptor is read and no register of its run is awaited: the first check that fails, or a copy posted. -/
def Ctx.copyAnswer (c : Ctx) (kind d entry run regs : Nat) (orig : List Word) (into : List Nat) : Res :=
  let hurt := cpFlvl d == .glob && c.s.bentPoison c.g.ctx (bits (cpFar d) 59 48)
  match c.boxBad kind d run regs (orig.getD 0 0).toInt with
  | some a => .trap 0x0015 c.act a
  | none =>
    match (c.boxBars d into).or (c.boxRange kind d (orig.map BitVec.toInt) into) with
    | some r => if r.1 = 0x0011 ∧ hurt then .poison else .trap r.1 c.act r.2
    | none => if hurt then .poison else c.postCopy c.s kind d entry orig into

theorem copyIssue_eq {o : DescOps} {kind e d : Nat} {x : SegCopy} (ha : c.act ≠ []) (he : c.s.freeCopy c.core = some e)
    (hd : c.readDesc o.space (c.s.vreg (c.t c.low) o.a.toNat).toNat 128 128 0 = .ok (u, d)) (hx : u.floeCopy c.k c.f = some x) :
    let w : Ctx := { c with s := u }
    let regs := hdrRegs (hdrOf x)
    w.runBad o.b.toNat (min (cpNdim d) (regs - o.b.toNat)) = none →
      c.copyIssue o kind = w.copyAnswer kind d e o.b.toNat regs (w.boxOrig d o.b.toNat regs) (u.cpTargets c.bk d) := by
  intro w regs hrun
  have hw : ∀ l : List Word, (l.map fun w => sext w.toNat 32) = l.map BitVec.toInt := fun l => List.map_congr_left fun w _ => sext_word w
  have h0 : ∀ l : List Word, (l.map BitVec.toInt).getD 0 0 = (l.getD 0 0).toInt := fun l => by cases l <;> rfl
  unfold Ctx.copyIssue
  simp only [if_neg ha, he, hd, hx, hrun, hw, h0, w, regs]
  rfl

section
variable {kind d e run regs : Nat} {orig : List Word} {into : List Nat}

theorem copyAnswer_bad {a : Nat} (h : c.boxBad kind d run regs (orig.getD 0 0).toInt = some a) :
    c.copyAnswer kind d e run regs orig into = .trap 0x0015 c.act a := by
  simp only [Ctx.copyAnswer, h]

theorem copyAnswer_check {r : Nat × Nat} (h : c.boxBad kind d run regs (orig.getD 0 0).toInt = none)
    (hr : (c.boxBars d into).or (c.boxRange kind d (orig.map BitVec.toInt) into) = some r)
    (hp : ¬ (r.1 = 0x0011 ∧ cpFlvl d = .glob ∧ c.s.bentPoison c.g.ctx (bits (cpFar d) 59 48) = true)) :
    c.copyAnswer kind d e run regs orig into = .trap r.1 c.act r.2 := by
  simp only [Ctx.copyAnswer, h, hr, Bool.and_eq_true, beq_iff_eq, if_neg hp]

/-- R226, R228: the copy posted, its barrier slot's PEND raised, and for one that writes global memory the entry of the floe's log. -/
theorem postCopy_eq (kind d e : Nat) (orig : List Word) (into : List Nat) :
    ∃ cp : Copy, cp.desc = BitVec.ofNat 1024 d ∧ cp.orig = orig ∧ cp.kind = kind ∧ cp.block = c.bk ∧ cp.floe = c.k ∧ cp.entry = e ∧
      cp.begun = !(kind != 2 && cpDir d) ∧ cp.targets.map (·.1) = into ∧
      let x : State := { u.newId.2 with copies := put u.newId.2.copies u.newId.1 cp }
      let y := if cpCmode d = true then x else x.raisePend c.core (cpSel d)
      c.postCopy u kind d e orig into = if kind != 2 && cpDir d then Ctx.logEntry { c with s := y } y (.copy u.newId.1) else .done y :=
  ⟨_, by rfl, by rfl, by rfl, by rfl, by rfl, by rfl, by rfl, by simp [Function.comp_def], rfl⟩

/-- A copy that passes its checks is posted. -/
theorem copyAnswer_posts (h : c.boxBad kind d run regs (orig.getD 0 0).toInt = none)
    (hr : (c.boxBars d into).or (c.boxRange kind d (orig.map BitVec.toInt) into) = none)
    (hp : ¬ (cpFlvl d = .glob ∧ c.s.bentPoison c.g.ctx (bits (cpFar d) 59 48) = true))
    (hl : kind ≠ 2 ∧ cpDir d = true → c.f.log.length < 256) :
    ∃ cp : Copy, cp.desc = BitVec.ofNat 1024 d ∧ cp.orig = orig ∧ cp.kind = kind ∧ cp.block = c.bk ∧ cp.floe = c.k ∧ cp.entry = e ∧
      (cp.begun = true ↔ ¬ (kind ≠ 2 ∧ cpDir d = true)) ∧ cp.targets.map (·.1) = into ∧
      let x : State := { c.s.newId.2 with copies := put c.s.newId.2.copies c.s.newId.1 cp }
      let y := if cpCmode d = true then x else x.raisePend c.core (cpSel d)
      c.copyAnswer kind d e run regs orig into =
        .done (if kind ≠ 2 ∧ cpDir d = true then y.modFloe c.k fun f => { f with log := f.log ++ [.copy c.s.newId.1] } else y) := by
  obtain ⟨cp, hdesc, horig, hkind, hblock, hfloe, hentry, hbegun, htargets, hpost⟩ := postCopy_eq (c := c) (u := c.s) kind d e orig into
  have hlater : (kind != 2 && cpDir d) = true ↔ kind ≠ 2 ∧ cpDir d = true := by simp
  refine ⟨cp, hdesc, horig, hkind, hblock, hfloe, hentry, by rw [hbegun, ← hlater, Bool.not_eq_true', Bool.not_eq_true], htargets, ?_⟩
  have hc : c.copyAnswer kind d e run regs orig into = c.postCopy c.s kind d e orig into := by
    simp only [Ctx.copyAnswer, h, hr, Bool.and_eq_true, beq_iff_eq, if_neg hp]
  refine hc.trans (hpost.trans ?_)
  by_cases hk : kind ≠ 2 ∧ cpDir d = true
  · rw [if_pos hk, if_pos (hlater.2 hk)]
    exact logEntry_room (hl hk)
  · rw [if_neg hk, if_neg (mt hlater.1 hk)]

end

/-- The three instructions of a copy run one part. -/
theorem exec_copy {o : DescOps} {kind : Nat} (hi : (i = .cpbox o ∧ kind = 0) ∨ (i = .cpred o ∧ kind = 1) ∨ (i = .tmov o ∧ kind = 2)) (s : State) :
    algRow i = none ∧ exec i s = issue i s fun c => c.copyIssue o kind := by
  obtain ⟨rfl, rfl⟩ | ⟨rfl, rfl⟩ | ⟨rfl, rfl⟩ := hi <;> exact ⟨rfl, rfl⟩

/-! ## Structure tables and maps (R129, R233) -/

/-! ## Circular buffers (R236 to R239) -/

/-- A field of a word of a descriptor is a field of the descriptor (R16). -/
theorem bits_bits (x : Nat) {hi lo h l : Nat} (hh : lo + h ≤ hi) : bits (bits x hi lo) h l = bits x (lo + h) (lo + l) := by
  apply Nat.eq_of_testBit_eq
  intro j
  simp only [bits, Nat.testBit_mod_two_pow, Nat.testBit_div_two_pow, show j + l + lo = j + (lo + l) by omega]
  by_cases hj : j < h + 1 - l
  · simp [hj, show j + l < hi + 1 - lo by omega, show j < lo + h + 1 - (lo + l) by omega]
  · simp [hj, show ¬ j < lo + h + 1 - (lo + l) by omega]

theorem cbBad_iff {n : Nat} : c.cbBad n = true ↔ (c.s.cbuf c.core n).val = false ∨ (c.s.cbuf c.core n).owner ≠ c.bk := by
  simp [Ctx.cbBad]

theorem not_cbBad {n : Nat} (hv : (c.s.cbuf c.core n).val = true) (ho : (c.s.cbuf c.core n).owner = c.bk) : ¬ c.cbBad n = true := by
  simp [cbBad_iff, hv, ho]

/-- Settles O42: each instruction runs once per floe, so what is left is what its own part answers once its descriptor is read. -/
theorem copiesMapsAndBuffers : Obligations.CopiesMapsAndBuffers := by
  refine ⟨?copies, ?atab, ?mapr, ?wback, ?cbinit, ?cbacq, ?cbrel⟩
  case copies =>
    intro o i kind hi s f c h
    obtain ⟨hr, he⟩ := exec_copy hi s
    refine ⟨fun ha => exec_idle he hr h (if_pos ha), ?_⟩
    intro e u d x ha hf hd hx w regs orig into hurt hrun
    have hb : c.copyIssue o kind = w.copyAnswer kind d e o.b.toNat regs orig into := copyIssue_eq ha hf hd hx hrun
    refine ⟨fun a hbad => exec_traps he hr h ha (hb.trans (copyAnswer_bad hbad)),
      fun r hgood hchk hp => exec_traps he hr h ha (hb.trans (copyAnswer_check hgood hchk hp)), ?_⟩
    intro hgood hchk hp later n hl
    obtain ⟨cp, hdesc, horig, hkind, hblock, hfloe, hentry, hbegun, htargets, hpost⟩ := copyAnswer_posts (e := e) hgood hchk hp hl
    exact ⟨cp, hdesc, horig, hkind, hblock, hfloe, hentry, hbegun, htargets, exec_completes he hr h ha (hb.trans hpost)⟩
  case atab =>
    intro o s f c h va
    refine ⟨fun ha => exec_idle rfl rfl h (if_pos ha), ?_⟩
    intro u img ha hd
    refine ⟨fun hbad => exec_traps rfl rfl h ha ?_, fun hok h8 hno => exec_traps rfl rfl h ha ?_, fun hok h8 => exec_completes rfl rfl h ha ?_⟩
    · simp [ha, va, hd, hbad]
    · simp [ha, va, hd, hok, h8, hno]
    · have h8 : ¬ (tabDim img = 8 ∧ (!hasEight c.die) = true) := fun hn => by simp [h8 hn.1] at hn
      simp only [if_neg ha, va, hd, hok, Bool.not_true, Bool.false_eq_true, if_false, if_neg h8]
  case mapr =>
    intro o s f c h
    refine ⟨fun ha => exec_idle rfl rfl h (if_pos ha), ?_⟩
    intro u d ha hd l ptr size pa
    refine ⟨fun a hbad => exec_traps rfl rfl h ha ?_, fun hgood hout => exec_traps rfl rfl h ha ?_,
      fun hgood hin hp hbnd hrd hwr => exec_completes rfl rfl h ha ?_⟩
    · simp only [if_neg ha, hd, hbad]
    · simp only [if_neg ha, hd, hgood]
      exact if_pos hout
    · have hw : (bits d 136 136 == 1 && !bentW (u.bent c.g.ctx (bits ptr 59 48))) = false := by
        cases hb : bits d 136 136 == 1
        · rfl
        · rw [hwr (beq_iff_eq.1 hb)]; rfl
      simp only [if_neg ha, hd, hgood, if_neg (Nat.not_lt.2 hin), hp, hbnd, hrd, hw, ptr, size, l, pa]
      rfl
  case wback =>
    intro h map slot s f c b hi i n x
    have he : exec i s = issue i s fun c => c.wbIssue map slot b := by cases b <;> rfl
    have hr : algRow i = none := by cases b <;> rfl
    refine ⟨fun ha => exec_idle he hr hi (if_pos ha), fun ha hm => exec_traps he hr hi ha ?_, fun ha hm hb hl => exec_completes he hr hi ha ?_⟩
    · simp [Ctx.wbIssue, ha, hm]
    · have hm : ¬ (look c.s.maps (8 * c.bk + map.toNat)).isNone = true := by
        rwa [Option.isNone_iff_eq_none, ← ne_eq, ← Option.isSome_iff_ne_none]
      simp only [Ctx.wbIssue, if_neg ha, if_neg hm, hb]
      exact if_neg (Nat.not_le.2 hl)
  case cbinit => 
    intro o s f c h
    refine ⟨fun ha => exec_idle rfl rfl h (if_pos ha), ?_⟩
    intro u d ha hd base size n ns lvl b h7 h10 h20 h96 hlvl hns hns' hbase hsize hpos hmax hown
    have hctl : ¬ (bits d 71 71 ≠ 0 ∨ bits d 79 74 ≠ 0 ∨ bits d 95 84 ≠ 0 ∨ bits d 127 96 ≠ 0 ∨ lvl = 0 ∨ lvl = 3 ∨ ns < 2 ∨ 64 < ns) := by omega
    have hgeo : ¬ (base % 256 ≠ 0 ∨ size % 256 ≠ 0 ∨ size = 0 ∨ 2 ^ 22 < size) := by omega
    have hmine : ¬ (b.val = true ∧ b.owner ≠ c.bk) := fun hb => hb.2 (hown hb.1)
    refine ⟨fun hv hbusy => exec_traps rfl rfl h ha ?_, fun hidle hin => exec_completes rfl rfl h ha ?_⟩
    · have hused : (b.val && b.busy) = true := by rw [hv, hbusy]; rfl
      simp (disch := decide) only [if_neg ha, hd, bits_bits, Nat.reduceAdd]
      exact (if_neg hctl).trans ((if_neg hgeo).trans ((if_neg hmine).trans (if_pos hused)))
    · have hfree : ¬ (b.val && b.busy) = true := fun hb => by
        obtain ⟨hv, hbusy⟩ := Bool.and_eq_true_iff.1 hb
        exact absurd hbusy (by simp [hidle hv])
      simp (disch := decide) only [if_neg ha, hd, bits_bits, Nat.reduceAdd]
      exact (if_neg hctl).trans ((if_neg hgeo).trans ((if_neg hmine).trans ((if_neg hfree).trans (if_neg (Nat.not_lt.2 hin)))))
  case cbacq =>
    intro h d buf s f c hi b
    refine ⟨fun ha => exec_idle rfl rfl hi (if_pos ha), fun ha hbad => exec_traps rfl rfl hi ha ?_, fun ha hv ho hf => exec_holds rfl rfl hi ha ?_,
      fun ha hv ho hf => exec_completes rfl rfl hi ha ?_⟩
    · simp only [if_neg ha, if_pos (cbBad_iff.2 hbad)]
    · simp only [if_neg ha, if_neg (not_cbBad hv ho)]
      exact if_pos hf
    · simp only [if_neg ha, if_neg (not_cbBad hv ho), Nat.mul_assoc]
      exact if_neg (Nat.ne_of_gt hf)
  case cbrel =>
    intro h buf s f c hi b r
    refine ⟨fun ha => exec_idle rfl rfl hi (if_pos ha), fun ha hbad => exec_traps rfl rfl hi ha ?_, fun ha hv ho hh hl hw => exec_completes rfl rfl hi ha ?_⟩
    · have hbad : (c.cbBad buf.toNat || b.held == 0) = true := by
        rw [Bool.or_eq_true, cbBad_iff, beq_iff_eq, or_assoc]
        exact hbad
      simp only [if_neg ha]
      exact if_pos hbad
    · have hgood : ¬ (c.cbBad buf.toNat || b.held == 0) = true := by
        rw [Bool.or_eq_true, beq_iff_eq]
        exact not_or.2 ⟨not_cbBad hv ho, hh⟩
      have hwait : ¬ (c.f.loadsOut = true ∨ c.s.writesOut c.k c.f = true) := by simp [hl, hw]
      simp only [if_neg ha, if_neg hwait]
      exact if_neg hgood

end Sys2Proof.Machine
end

section
/-! SUPPORT. Lanes that read other lanes (R162 to R166, R168): the source lanes, masks of lanes, and results that are predicates. -/

namespace Sys2Proof.Machine

open Sys2Proof

variable {i : Instr} {s u : State} {f : Floe} {c : Ctx}

/-! ## Source lanes (R162, R164, R166) -/

/-- R162: the lanes of a quad begin at the multiple of four below. -/
theorem srcval_eq (c : Ctx) (r : BitVec 8) (m : Nat) : c.srcval r m =
    match c.f.tkey c.k m with
    | some t => c.s.vreg t r.toNat
    | none => match (if c.quad = true then (List.range 4).findSome? (fun i => c.f.tkey c.k (4 * (m / 4) + i)) else none) with
      | some t => c.s.vreg t r.toNat
      | none => 0 := by
  rw [Ctx.srcval, Nat.mul_comm (m / 4)]
  cases c.f.tkey c.k m with
  | some t => rfl
  | none =>
    cases c.quad with
    | false => rfl
    | true => rfl

theorem qswp_gives (o : LaneOps) :
    Said.fpGives (.qswp o) 0 o.d .rne fun _ c l => ((c.srcval o.a (l ^^^ (o.func.toNat + 1))).toNat, 0) :=
  fpGives_of_issue rfl rfl fun _ => rfl

theorem quad_base (l : Nat) : l / 4 * 4 = l - l % 4 := by omega

theorem quadX_eq (func : BitVec 4) (l : Nat) : quadX func l = if func = 0 then (l ||| 1, l &&& 30) else (l - l % 4 + 1, l - l % 4) := by
  rw [quadX, quad_base]

theorem quadY_eq (func : BitVec 4) (l : Nat) : quadY func l = if func = 0 then (l ||| 2, l &&& 29) else (l - l % 4 + 2, l - l % 4) := by
  rw [quadY, quad_base]

/-- R164: a difference of the two lanes that `pair` names, each lane with its own draw. -/
theorem quadDiff_gives {o : LaneOps} {pair : Nat → Nat × Nat} (ha : algRow i = none) (ho : Instr.oncePerFloe i = false)
    (he : ∀ s, exec i s = issue i s (quadDiff o pair)) : Said.fpGives i 0 o.d (laneRnd o) fun w c l =>
      fSub .f32 (laneRnd o) (laneSat o) ((w.rotateLeft (5 * l)).toNat % 2 ^ 16) (c.srcval o.a (pair l).1).toNat (c.srcval o.a (pair l).2).toNat := by
  refine fpGives_of_issue ha ho fun s => ?_
  have hdraw : ∀ (w : Word) (l : Nat), (w.rotateLeft (5 * l)).toNat % 2 ^ 16 = drawOf w l 0 := fun w l => (drawOf_eq w l 0).symm
  simp only [he, hdraw]
  rfl

/-- R166: the lane that `shfl` reads, its distance a signed number. -/
theorem shflLane_eq (func : BitVec 4) (l b : Nat) : shflLane func l b =
    (if func = 0 then ((b % 32 : Nat) : Int) else if func = 1 then (if (l : Int) - b < 0 then (l : Int) else l - b)
      else if func = 2 then (if (31 : Int) < l + b then (l : Int) else l + b) else ((l ^^^ (b % 32) : Nat) : Int)).toNat := by
  unfold shflLane
  split
  · rfl
  · split
    · split <;> split <;> omega
    · split
      · split <;> split <;> omega
      · rfl

theorem shfl_gives (o : LaneOps) : Said.fpGives (.shfl o) 0 o.d .rne fun _ c l =>
    ((c.srcval o.a (shflLane o.func l (c.s.vreg (c.t l) o.b.toNat).toNat)).toNat, 0) :=
  fpGives_of_issue rfl rfl fun _ => rfl

/-! ## Masks of lanes -/

/-- The mask of a list of lanes has the bits of its lanes. -/
theorem maskOf_getLsbD (ls : List Nat) {m : Nat} (hm : m < 32) : (maskOf ls).getLsbD m = true ↔ m ∈ ls := by
  have key : ∀ (ls : List Nat) (x : BitVec 32), (ls.foldl (fun m l => m ||| (1#32 <<< l)) x).getLsbD m = (x.getLsbD m || decide (m ∈ ls)) := by
    intro ls
    induction ls with
    | nil => simp
    | cons l ls ih =>
      intro x
      rw [List.foldl_cons, ih, BitVec.getLsbD_or, BitVec.getLsbD_shiftLeft, BitVec.getLsbD_one]
      have hbit : (decide (m < 32) && !decide (m < l) && (decide (0 < 32) && decide (m - l = 0))) = decide (m = l) := by
        rw [Bool.eq_iff_iff]
        simp [hm]
        omega
      simp only [hbit, Bool.or_assoc, List.mem_cons, Bool.decide_or]
  rw [maskOf, key]
  simp

theorem maskOf_testBit (ls : List Nat) {m : Nat} (hm : m < 32) : (maskOf ls).toNat.testBit m = true ↔ m ∈ ls := by
  rw [BitVec.testBit_toNat]
  exact maskOf_getLsbD ls hm

/-! ## Predicates of the active lanes -/

theorem quiet_wrPred (h : Quiet u) (p : BitVec 8) (l : Nat) (b : Bool) : Quiet (c.wrPred u p l b) := setPred_quiet h _ _ _

/-- What the active lanes are given in a predicate, they read once their floe has gone on. -/
theorem wrPreds_land (h : Quiet u) {p : BitVec 8} (hp : p.toNat < 7) {n : Nat} (hb : c.inBanks n = true) (val : Nat → Bool) {l : Nat} (hl : l ∈ c.act) :
    ((c.act.foldl (fun s l => c.wrPred s p l (val l)) u).completed c.k f).predOf (c.t l) p.toNat = val l := by
  rw [completed_predOf (quiet_foldl (fun v l hv => quiet_wrPred hv p l (val l)) c.act h)]
  exact preds_land hp val c.act u hl fun m hm ht => by rw [lane_unique hb hl hm ht]

/-- The vote's outcome (R165). -/
def voted (func : BitVec 4) (p : Nat → Bool) (act : List Nat) : Bool :=
  let yes := act.filter p
  if func = 0 then yes ≠ [] else if func = 1 then yes.length = act.length else yes = [] ∨ yes.length = act.length

theorem filter_ne_nil_iff (p : Nat → Bool) (act : List Nat) : act.filter p ≠ [] ↔ ∃ m ∈ act, p m = true := by
  rw [ne_eq, List.filter_eq_nil_iff]
  push Not
  rfl

theorem voted_any (p : Nat → Bool) (act : List Nat) : voted 0 p act = true ↔ ∃ m ∈ act, p m = true := by
  rw [← filter_ne_nil_iff]
  exact decide_eq_true_iff

theorem voted_all (p : Nat → Bool) (act : List Nat) : voted 1 p act = true ↔ ∀ m ∈ act, p m = true := by
  rw [← List.length_filter_eq_length_iff]
  exact decide_eq_true_iff

/-- A vote is unanimous if none says yes or all do. -/
theorem voted_same (p : Nat → Bool) (act : List Nat) : voted 2 p act = true ↔ ∀ m ∈ act, ∀ n ∈ act, p m = p n := by
  have hv : voted 2 p act = true ↔ act.filter p = [] ∨ (act.filter p).length = act.length := decide_eq_true_iff
  rw [hv, List.filter_eq_nil_iff, List.length_filter_eq_length_iff]
  constructor
  · rintro (h | h) m hm n hn
    · rw [Bool.eq_false_of_not_eq_true (h m hm), Bool.eq_false_of_not_eq_true (h n hn)]
    · rw [h m hm, h n hn]
  · intro h
    by_cases hx : ∃ m ∈ act, p m = true
    · obtain ⟨m, hm, hp⟩ := hx
      exact .inr fun n hn => (h n hn m hm).trans hp
    · exact .inl fun n hn hp => hx ⟨n, hn, hp⟩

/-- R165: the vote of the active lanes on a predicate. -/
theorem vote_gives {o : LaneOps} (h : issuing (.vote o) s = some (f, c)) (h3 : o.func ≠ 3) :
    ∃ t, exec (.vote o) s = .next t ∧ (s.calm = true → o.d.toNat < 7 → c.inBanks 0 = true → ∀ l ∈ c.act,
      t.predOf (c.t l) o.d.toNat = voted o.func (fun l => c.s.predOf (c.t l) o.a.toNat) c.act) := by
  refine ⟨_, issue_done (u := c.act.foldl (fun s l => c.wrPred s o.d l (voted o.func (fun l => c.s.predOf (c.t l) o.a.toNat) c.act)) c.s) h
    (preTrap_none rfl c) (if_neg h3) fun ha => by rw [ha]; rfl, fun hc hd hb l hl => ?_⟩
  exact wrPreds_land (quiet_of h hc) hd hb (fun _ => voted o.func _ c.act) hl

/-- R165: the ballot, a word with the bits of the lanes that vote yes. -/
theorem ballot_gives {o : LaneOps} (h3 : o.func = 3) : Said.fpGives (.vote o) 0 o.d .rne fun _ c _ =>
    ((maskOf (c.act.filter fun l => c.s.predOf (c.t l) o.a.toNat)).toNat, 0) := by
  refine fpGives_of_issue rfl rfl fun s => ?_
  show execVote o s = _
  simp only [execVote, if_pos h3]
  rfl

/-- Of ascending lanes the first is the lowest. -/
theorem eq_headD_iff {act : List Nat} (hs : act.Pairwise (· < ·)) {l : Nat} (hl : l ∈ act) : (l == act.headD 0) = true ↔ ∀ m ∈ act, l ≤ m := by
  rw [beq_iff_eq]
  cases act with
  | nil => exact absurd hl (by simp)
  | cons a act =>
    obtain ⟨ha, -⟩ := List.pairwise_cons.1 hs
    refine ⟨fun h m hm => ?_, fun h => ?_⟩
    · rcases List.mem_cons.1 hm with rfl | hm
      · exact h.le
      · exact h.le.trans (ha m hm).le
    · rcases List.mem_cons.1 hl with rfl | hl
      · rfl
      · exact absurd (ha l hl) (Nat.not_lt.2 (h a List.mem_cons_self))

/-- R168: `elect` gives true to one lane, the lowest active one. -/
theorem elect_gives {o : LaneOps} (h : issuing (.elect o) s = some (f, c)) :
    ∃ t, exec (.elect o) s = .next t ∧ (s.calm = true → o.d.toNat < 7 → c.inBanks 0 = true → c.act.Pairwise (· < ·) → ∀ l ∈ c.act,
      (t.predOf (c.t l) o.d.toNat = true ↔ ∀ m ∈ c.act, l ≤ m)) := by
  refine ⟨_, issue_done h (preTrap_none rfl c) rfl fun ha => by rw [ha]; rfl, fun hc hd hb hs l hl => ?_⟩
  rw [wrPreds_land (quiet_of h hc) hd hb (fun l => l == c.low) hl]
  exact eq_headD_iff hs hl

/-! ## Matches (R168) -/

/-- R168: the lanes whose word is the lane's own. -/
theorem matchAny_gives {o : LaneOps} (h0 : o.func = 0) : Said.fpGives (.matchAny o) 0 o.d .rne fun _ c l =>
    ((maskOf (c.act.filter fun m => c.s.vreg (c.t m) o.a.toNat == c.s.vreg (c.t l) o.a.toNat)).toNat, 0) := by
  refine fpGives_of_issue rfl rfl fun s => ?_
  show execMatchAny o s = _
  simp only [execMatchAny, if_pos h0]
  rfl

/-- All words are the first lane's if they are one another's. -/
theorem all_eq_low_iff (c : Ctx) (v : Nat → Word) : (c.act.all fun m => v m == v c.low) = true ↔ ∀ m ∈ c.act, ∀ n ∈ c.act, v m = v n := by
  rw [List.all_eq_true]
  simp only [beq_iff_eq]
  refine ⟨fun h m hm n hn => (h m hm).trans (h n hn).symm, fun h m hm => h m hm c.low ?_⟩
  unfold Ctx.low
  cases hact : c.act with
  | nil => rw [hact] at hm; exact absurd hm (by simp)
  | cons a as => exact List.mem_cons_self

/-- A word that all active lanes are given, and then a predicate, can both be read once their floe has gone on. -/
theorem word_and_pred_land (h : Quiet c.s) {d p : BitVec 8} (hd : d.toNat < 248) (hp : p.toNat < 7) (hb : c.inBanks (d.toNat + 1) = true) (x : Nat)
    (b : Bool) {l : Nat} (hl : l ∈ c.act) :
    let t := (c.act.foldl (fun s l => c.wrPred s p l b) (c.laneOut c.s d fun _ => (x, 0))).completed c.k f
    t.predOf (c.t l) p.toNat = b ∧ t.vreg (c.t l) d.toNat = BitVec.ofNat 32 x := by
  have hq : Quiet (c.laneOut c.s d fun _ => (x, 0)) := by
    obtain ⟨y, z, e, -⟩ := deliver_fold (c := c) h hd (fun _ => [BitVec.ofNat 32 x]) (fun _ => 0) c.act
    rw [Ctx.laneOut, Ctx.fpOut, Ctx.deliver, if_pos rfl, e]
    exact quiet_threads (quiet_regs h y) z
  refine ⟨wrPreds_land hq hp hb (fun _ => b) hl, ?_⟩
  have hkeep : ∀ (ls : List Nat) (u : State), (ls.foldl (fun s l => c.wrPred s p l b) u).vreg (c.t l) d.toNat = u.vreg (c.t l) d.toNat := by
    intro ls
    induction ls with
    | nil => intro u; rfl
    | cons m ls ih => intro u; rw [List.foldl_cons, ih]; exact State.setPred_vreg _ _ _ _ _ _
  have hword := deliver_inRegs (c := c) (f := f) (k := c.k) h (fun _ => rfl) hd (fun _ => [BitVec.ofNat 32 x]) (fun _ => 0) (fun _ => le_rfl) hb l hl 0 _ rfl
  have hland : (c.laneOut c.s d fun _ => (x, 0)).vreg (c.t l) d.toNat = BitVec.ofNat 32 x := (completed_vreg hq _ _).symm.trans hword
  rw [completed_vreg (quiet_foldl (fun v l hv => quiet_wrPred hv p l b) c.act hq), hkeep, hland]

/-- R168: `match.all` gives the active lanes' mask and true, or zero and false. -/
theorem matchAll_gives {o : LaneOps} (h : issuing (.matchAny o) s = some (f, c)) (h0 : o.func ≠ 0) :
    ∃ t, exec (.matchAny o) s = .next t ∧ (s.calm = true → o.c.toNat < 7 → o.d.toNat < 248 → c.inBanks (o.d.toNat + 1) = true → ∀ l ∈ c.act,
      let same : Prop := ∀ m ∈ c.act, ∀ n ∈ c.act, c.s.vreg (c.t m) o.a.toNat = c.s.vreg (c.t n) o.a.toNat
      (t.predOf (c.t l) o.c.toNat = true ↔ same) ∧ (¬ same → t.vreg (c.t l) o.d.toNat = 0) ∧
      (same → ∀ m, m < 32 → ((t.vreg (c.t l) o.d.toNat).getLsbD m = true ↔ m ∈ c.act))) := by
  have hall := all_eq_low_iff c fun m => c.s.vreg (c.t m) o.a.toNat
  generalize hb : (c.act.all fun m => c.s.vreg (c.t m) o.a.toNat == c.s.vreg (c.t c.low) o.a.toNat) = b at hall
  refine ⟨_, issue_done (u := c.act.foldl (fun s l => c.wrPred s o.c l b) (c.laneOut c.s o.d fun _ => (if b then (maskOf c.act).toNat else 0, 0))) h
    (preTrap_none rfl c) ((if_neg h0).trans (by subst hb; rfl)) fun ha => ?_, fun hc hp hd hbank l hl => ?_⟩
  · rw [Ctx.laneOut, Ctx.fpOut, ha]; rfl
  · obtain ⟨hpred, hword⟩ := word_and_pred_land (f := f) (quiet_of h hc) hd hp hbank (if b then (maskOf c.act).toNat else 0) b hl
    refine ⟨by rw [hpred]; exact hall, fun hn => ?_, fun hsame m hm => ?_⟩
    · rw [hword, if_neg (mt hall.1 hn)]; rfl
    · rw [hword, if_pos (hall.2 hsame), BitVec.ofNat_toNat, BitVec.setWidth_eq]
      exact maskOf_getLsbD c.act hm

/-- Settles O27: exchanges and shuffles by the lanes they read, votes, ballots, matches and elections by what they say of the active lanes. -/
theorem laneExchanges : Obligations.LaneExchanges := by
  refine ⟨⟨srcval_eq, qswp_gives, fun o => ?qdx, fun o => ?qdy, fun o => ?shfl⟩, fun o s f c h h3 => ?vote, fun o h3 => ?ballot,
    fun o s f c h => elect_gives h, fun o h0 => ?matchAny, fun o s f c h h0 => matchAll_gives h h0⟩
  case qdx =>
    have := quadDiff_gives (i := .qdx o) (pair := quadX o.func) rfl rfl fun _ => rfl
    simpa only [quadX_eq] using this
  case qdy =>
    have := quadDiff_gives (i := .qdy o) (pair := quadY o.func) rfl rfl fun _ => rfl
    simpa only [quadY_eq] using this
  case shfl =>
    have := shfl_gives o
    simpa only [shflLane_eq] using this
  case vote =>
    obtain ⟨t, ht, hland⟩ := vote_gives h h3
    refine ⟨t, ht, fun hc hd hb l hl => ?_⟩
    rw [hland hc hd hb l hl]
    exact ⟨fun h0 => h0 ▸ voted_any _ _, fun h1 => h1 ▸ voted_all _ _, fun h2 => h2 ▸ voted_same _ _⟩
  case ballot =>
    refine ⟨_, ballot_gives h3, fun c m hm => ?_⟩
    rw [maskOf_testBit _ hm, List.mem_filter]
  case matchAny =>
    refine ⟨_, matchAny_gives h0, fun c l m hm => ?_⟩
    rw [maskOf_testBit _ hm, List.mem_filter, beq_iff_eq]

end Sys2Proof.Machine
end

section
/-! SUPPORT. Reductions, scans and the fixed tree over the active lanes (R167, R169). -/

namespace Sys2Proof.Machine

open Sys2Proof

/-! ## Reductions (R167) -/

/-- Words combined from the left as numbers are the words combined from the right as words. -/
theorem foldl_words {g : BitVec 32 → BitVec 32 → BitVec 32} {h : Nat → Nat → Nat} [Std.Commutative g] [Std.Associative g]
    (hg : ∀ a b, (g a b).toNat = h a.toNat b.toNat) (xs : List Int) (z : BitVec 32) :
    xs.foldl (fun a x => h a (wrap x 32)) z.toNat = ((xs.map (BitVec.ofInt 32)).foldr g z).toNat := by
  rw [← List.foldl_eq_foldr]
  induction xs generalizing z with
  | nil => rfl
  | cons x xs ih => rw [List.map_cons, List.foldl_cons, List.foldl_cons, ← ih, hg, wrap_eq_toNat]

theorem wrap_toNat (w : BitVec 32) : wrap (w.toNat : Int) 32 = w.toNat := by
  rw [wrap_eq_toNat, BitVec.ofInt_natCast, BitVec.ofNat_toNat, BitVec.setWidth_eq]

/-- R167: the model's reduction, operation by operation. -/
theorem redOp_eq (op : Nat) (ty : IntTy) (sat : Bool) (xs : List Int) : wrap (redOp op ty sat xs) 32 = (Said.reduce op ty sat xs).toNat := by
  unfold redOp Said.reduce
  split
  · rw [wrap_eq_toNat, List.sum_eq_foldl]
  · rw [wrap_eq_toNat, List.foldl_eq_foldr]
  · rw [wrap_eq_toNat, List.foldl_eq_foldr]
  · exact (congrArg (fun n : Nat => wrap n 32) (foldl_words BitVec.toNat_and xs (BitVec.allOnes 32))).trans (wrap_toNat _)
  · exact (congrArg (fun n : Nat => wrap n 32) (foldl_words BitVec.toNat_or xs 0)).trans (wrap_toNat _)
  · exact (congrArg (fun n : Nat => wrap n 32) (foldl_words BitVec.toNat_xor xs 0)).trans (wrap_toNat _)

theorem redi_gives (o : LaneOps) : Said.fpGives (.redi o) 0 o.d .rne fun _ c _ =>
    (wrap (redOp o.func.toNat (laneTy o) (o.lo.getLsbD 4) (c.act.map fun m => rdVal (laneTy o) (c.s.vreg (c.t m) o.a.toNat).toNat)) 32, 0) :=
  fpGives_of_issue rfl rfl fun _ => rfl

/-- The lanes that a lane's scan takes: those below it, and itself if the scan is inclusive. -/
def scanned (func : BitVec 4) (act : List Nat) (l : Nat) : List Nat := act.filter fun m => decide (m < l ∨ (m = l ∧ func.getLsbD 3 = false))

theorem scanned_eq (func : BitVec 4) (act : List Nat) (l : Nat) :
    (act.filter fun m => if func.getLsbD 3 then decide (m < l) else decide (m ≤ l)) = scanned func act l := by
  refine List.filter_congr fun m _ => ?_
  cases func.getLsbD 3
  · simp [Nat.le_iff_lt_or_eq]
  · simp

theorem scan_gives (o : LaneOps) : Said.fpGives (.scan o) 0 o.d .rne fun _ c l =>
    (wrap (redOp (o.func.toNat % 8) (laneTy o) (o.lo.getLsbD 4)
      ((scanned o.func c.act l).map fun m => rdVal (laneTy o) (c.s.vreg (c.t m) o.a.toNat).toNat)) 32, 0) := by
  refine fpGives_of_issue rfl rfl fun s => ?_
  simp only [← scanned_eq]
  rfl

/-! ## The tree of `redf` (R169) -/

section
variable (g : Nat → Nat → Nat × Fl) (leaf : Nat → Option Nat)

/-- Neighbours of a list of even length are combined two by two. -/
theorem combPairs_range (h : Nat → Option Nat × Fl) (n : Nat) :
    combPairs g ((List.range (2 * n)).map h) = (List.range n).map fun j => combTree g (h (2 * j)) (h (2 * j + 1)) := by
  induction n generalizing h with
  | zero => rfl
  | succ n ih =>
    rw [show 2 * (n + 1) = 2 * n + 1 + 1 from rfl, List.range_succ_eq_map, List.range_succ_eq_map, List.range_succ_eq_map (n := n)]
    simp only [List.map_cons, List.map_map, combPairs]
    exact congrArg _ (ih fun j => h (j + 2))

/-- A level of the tree is the level below, two by two. -/
theorem treeAt_succ (n i : Nat) : Said.treeAt g leaf (n + 1) i = combTree g (Said.treeAt g leaf n i) (Said.treeAt g leaf n (i + 2 ^ n)) := by
  rw [Said.treeAt]
  rcases Said.treeAt g leaf n i with ⟨_ | a, x⟩ <;> rcases Said.treeAt g leaf n (i + 2 ^ n) with ⟨_ | b, y⟩ <;> rfl

theorem combPairs_treeAt (n m : Nat) : combPairs g ((List.range (2 * m)).map fun j => Said.treeAt g leaf n (2 ^ n * j)) =
    (List.range m).map fun j => Said.treeAt g leaf (n + 1) (2 ^ (n + 1) * j) := by
  rw [combPairs_range]
  refine List.map_congr_left fun j _ => ?_
  rw [treeAt_succ, show 2 ^ (n + 1) * j = 2 ^ n * (2 * j) by rw [pow_succ, mul_assoc], Nat.mul_succ]

/-- R169: five levels over the 32 lanes are the tree at lane 0. -/
theorem redTree_eq : redTree g ((List.range 32).map fun l => (leaf l, 0)) = ((Said.treeAt g leaf 5 0).1.getD 0, (Said.treeAt g leaf 5 0).2) := by
  have h0 : ((List.range 32).map fun l => (leaf l, (0 : Fl))) = (List.range (2 * 16)).map fun j => Said.treeAt g leaf 0 (2 ^ 0 * j) := by
    simp only [pow_zero, one_mul]
    rfl
  unfold redTree
  rw [h0, combPairs_treeAt, combPairs_treeAt g leaf 1 8, combPairs_treeAt g leaf 2 4, combPairs_treeAt g leaf 3 2, combPairs_treeAt g leaf 4 1]
  rfl

end

theorem redf_gives (o : LaneOps) : Said.fpGives (.redf o) 0 o.d .rne fun _ c _ =>
    redTree (if o.func = 0 then fAdd .f32 (laneRnd o) (laneSat o) 0 else fMinMax .f32 (decide (o.func = 2)))
      ((List.range 32).map fun l => (if c.act.contains l then some (c.s.vreg (c.t l) o.a.toNat).toNat else none, 0)) :=
  fpGives_of_issue rfl rfl fun _ => rfl

/-- Settles O28: `redi` and `scan` operation by operation, `redf` level by level of its tree. -/
theorem reductionsAndScans : Obligations.ReductionsAndScans := by
  refine ⟨fun o => ?redi, fun o => ?scan, fun o => ?redf⟩
  case redi =>
    have := redi_gives o
    simpa only [redOp_eq, laneTy] using this
  case scan =>
    have := scan_gives o
    simpa only [redOp_eq, laneTy, scanned] using this
  case redf =>
    have := redf_gives o
    simpa only [redTree_eq, List.contains_iff_mem] using this

end Sys2Proof.Machine
end

section
/-! SUPPORT. Barriers (R153 to R159): when a phase completes and what it leaves, the checks of R154 and the releases before an arrival, and the
statements on the barrier instructions. -/

namespace Sys2Proof.Machine

open Sys2Proof

variable {i : Instr} {s t u : State} {f : Floe} {c : Ctx} {core n : Nat}

/-! ## Releasing the floes that wait changes no slot and no block -/

/-- Slots and blocks are the same in both. -/
def State.sameSlots (s t : State) : Prop := t.bars = s.bars ∧ t.blocks = s.blocks

theorem State.sameSlots.trans (h : s.sameSlots t) (h' : t.sameSlots u) : s.sameSlots u :=
  ⟨h'.1.trans h.1, h'.2.trans h.2⟩

theorem sameSlots_foldl {α : Type} {g : State → α → State} (hg : ∀ (s : State) a, s.sameSlots (g s a)) (ls : List α) (s : State) : s.sameSlots (ls.foldl g s) :=
  List.foldlRecOn (motive := s.sameSlots) ls g ⟨rfl, rfl⟩ fun t ht a _ => ht.trans (hg t a)

theorem sameSlots_addRfold (s : State) (core n : Nat) : s.sameSlots (s.addRfold core n) := by
  unfold State.addRfold
  split <;> exact ⟨rfl, rfl⟩

theorem sameSlots_mergeRec (s : State) (k r : Nat) : s.sameSlots (s.mergeRec k r) := by
  unfold State.mergeRec State.mergeInto
  split
  · split
    · exact ⟨rfl, rfl⟩
    · exact State.sameSlots.trans (t := s.setFloe k _) ⟨rfl, rfl⟩ (sameSlots_addRfold _ _ _)
  · exact State.sameSlots.trans (t := s.modFloe k _) ⟨State.modFloe_bars _ _ _, State.modFloe_blocks _ _ _⟩ (sameSlots_addRfold _ _ _)

theorem sameSlots_freeFloeAt (s : State) (k : Nat) (f : Floe) (sc : Scope) (ms : List SyncMark) : s.sameSlots (s.freeFloeAt k f sc ms) :=
  State.sameSlots.trans (t := s.setFloe k _) ⟨rfl, rfl⟩ (sameSlots_foldl (fun s r => sameSlots_mergeRec s k r) _ _)

theorem sameSlots_freeSaveAt (s : State) (j : Nat) (f : Floe) (sc : Scope) (ms : List SyncMark) : s.sameSlots (s.freeSaveAt j f sc ms) :=
  State.sameSlots.trans (t := { s with saves := _ }) ⟨rfl, rfl⟩ (sameSlots_addRfold _ _ _)

theorem sameSlots_releaseBar (s : State) (core n : Nat) (ms : List SyncMark) : s.sameSlots (s.releaseBar core n ms) := by
  unfold State.releaseBar
  refine State.sameSlots.trans (sameSlots_foldl (fun s e => ?_) _ s) (sameSlots_foldl (fun s e => ?_) _ _)
  · split
    · exact sameSlots_freeFloeAt _ _ _ _ _
    · exact ⟨rfl, rfl⟩
  · split
    · exact sameSlots_freeSaveAt _ _ _ _ _
    · exact ⟨rfl, rfl⟩

theorem modBlock_stepping (s : State) (k j : Nat) (g : Block → Block) (hg : ∀ x, (g x).stepping = x.stepping) :
    ((s.modBlock k g).block j).stepping = (s.block j).stepping := by
  unfold State.modBlock
  split
  · next x hx =>
    rw [State.block_setBlock]
    split
    · next hj => rw [hg, hj, State.block, lookD, hx]; rfl
    · rfl
  · rfl

/-! ## Phases (R155) -/

/-- Without its conditions a phase stays open. -/
theorem phase_waits (h : ¬ ((s.bar core n).event = true ∧ (s.bar core n).expt ≤ (s.bar core n).arr ∧ (s.bar core n).pend = 0 ∧ (s.bar core n).val = true)) :
    s.phase core n = s := if_neg h

/-- R155: a slot whose phase has completed. -/
def Bar.next (b : Bar) : Bar :=
  let pend := b.expa - b.early
  let used := b.expa - pend
  { b with
    ph := !b.ph, arr := 0, pend := pend, early := b.early - used, recs := (b.ahead.take used).flatten, ahead := b.ahead.drop used
    staged := [], event := false, last := b.recs }

/-- R155: the phase of a slot that meets its conditions completes, and no other slot changes. -/
theorem phase_bars (hev : (s.bar core n).event = true) (harr : (s.bar core n).expt ≤ (s.bar core n).arr) (hpend : (s.bar core n).pend = 0)
    (hval : (s.bar core n).val = true) (hstep : (s.block (s.bar core n).owner).stepping = none) :
    (s.phase core n).bars = (s.setBar core n (s.bar core n).next).bars := by
  unfold State.phase
  extract_lets b pend used b' waiting s1 s2 s3 s4
  have hbars : s4.bars = s1.bars := by
    refine (sameSlots_releaseBar s3 core n b.recs).1.trans ?_
    show s2.bars = s1.bars
    dsimp only [s2]
    split
    · exact State.modBlock_bars _ _ _
    · rfl
  have hnone : (s4.block b.owner).stepping = none := by
    have hblk : s4.block b.owner = s2.block b.owner := congrArg (fun t : Tab Block => (lookD {} t b.owner : Block)) (sameSlots_releaseBar s3 core n b.recs).2
    rw [hblk, ← hstep]
    dsimp only [s2]
    split
    · exact modBlock_stepping s1 _ _ _ fun _ => rfl
    · rfl
  rw [if_pos ⟨hev, harr, hpend, hval⟩, hnone]
  exact hbars

theorem bar_setBar_ne (b : Bar) {m : Nat} (h : m ≠ n) : (s.setBar core n b).bar core m = s.bar core m := by
  unfold State.bar State.setBar
  rw [lookD_put, if_neg (by omega)]

theorem phase_completes (hev : (s.bar core n).event = true) (harr : (s.bar core n).expt ≤ (s.bar core n).arr) (hpend : (s.bar core n).pend = 0)
    (hval : (s.bar core n).val = true) (hstep : (s.block (s.bar core n).owner).stepping = none) :
    (s.phase core n).bar core n = (s.bar core n).next ∧ ∀ m, m ≠ n → (s.phase core n).bar core m = s.bar core m := by
  have hb : ∀ m, (s.phase core n).bar core m = (s.setBar core n (s.bar core n).next).bar core m := fun m =>
    congrArg (fun t : Tab Bar => lookD {} t (16 * core + m)) (phase_bars hev harr hpend hval hstep)
  exact ⟨(hb n).trans (State.bar_setBar _), fun m hm => (hb m).trans (bar_setBar_ne _ hm)⟩

/-- The completions that EARLY has credited pay the next phase, as far as they go. -/
theorem Bar.next_counts (b : Bar) : b.next.pend = (if b.expa < b.early then 0 else b.expa - b.early) ∧
    b.next.early = b.early - (b.expa - b.next.pend) := by
  refine ⟨?_, rfl⟩
  show b.expa - b.early = _
  split <;> omega

/-! ## `barinit` (R157) -/

theorem getLsbD_setBit_self {w : Nat} (x : BitVec w) {j : Nat} (hj : j < w) (b : Bool) : (setBit x j b).getLsbD j = b := by
  cases b <;> simp [setBit, hj]

/-- The threads of a core, once a slot is set up: none has arrived; those of a list are enrolled, or none. -/
def freshThreads (t : Tab Thread) (core n : Nat) (blk : Bool) (live : List Nat) : Tab Thread :=
  t.map fun e => if e.1 / 4096 = core then
    (e.1, { e.2 with enrolled := setBit e.2.enrolled n (blk && live.contains e.1), arrived := setBit e.2.arrived n false }) else e

theorem freshThreads_bits (t : Tab Thread) {n : Nat} (hn : n < 16) (blk : Bool) (live : List Nat) {j : Nat} (hj : j / 4096 = core) :
    (lookD {} (freshThreads t core n blk live) j).arrived.getLsbD n = false ∧
    ((lookD {} (freshThreads t core n blk live) j).enrolled.getLsbD n = true → blk = true ∧ j ∈ live) := by
  have hmap : freshThreads t core n blk live = t.map fun (e : Nat × Thread) => (e.1, if e.1 / 4096 = core then
      { e.2 with enrolled := setBit e.2.enrolled n (blk && live.contains e.1), arrived := setBit e.2.arrived n false } else e.2) := by
    refine List.map_congr_left fun e _ => ?_
    split <;> rfl
  rw [hmap, lookD_map]
  cases look t j with
  | none => exact ⟨BitVec.getLsbD_zero, fun h => absurd (BitVec.getLsbD_zero.symm.trans h) Bool.false_ne_true⟩
  | some x =>
    dsimp only
    rw [if_pos hj]
    refine ⟨getLsbD_setBit_self _ hn _, fun h => ?_⟩
    rw [getLsbD_setBit_self _ hn, Bool.and_eq_true, List.contains_iff_mem] at h
    exact h

/-- R157: a slot set up with a thread count, or in block mode, and a completion count. -/
def Ctx.barSet (c : Ctx) (n va vb : Nat) : State :=
  let blk := decide (va = 0xFFFFFFFF)
  let live := c.s.liveThreads c.bk
  State.setBar { c.s with threads := freshThreads c.s.threads c.core n blk live } c.core n
    { owner := c.bk, val := true, blk := blk, expt := if blk then live.length else va, expa := vb, pend := vb }

/-- What stands in the slot and in the threads of its core once the floe has gone on. -/
theorem barSet_completed (hi : issuing i s = some (f, c)) (hc : s.calm = true) {n : Nat} (hn : n < 16) (va vb : Nat) :
    let t := (c.barSet n va vb).completed c.k f
    t.bar c.core n = { owner := c.bk, val := true, blk := decide (va = 0xFFFFFFFF),
                       expt := if va = 0xFFFFFFFF then (c.s.liveThreads c.bk).length else va, expa := vb, pend := vb } ∧
    ∀ j, j / 4096 = c.core → (t.thread j).arrived.getLsbD n = false ∧
      ((t.thread j).enrolled.getLsbD n = true → va = 0xFFFFFFFF ∧ j ∈ c.s.liveThreads c.bk) := by
  have hstill : (c.barSet n va vb).still = true := (quiet_of hi hc).still
  refine ⟨?_, fun j hj => ?_⟩
  · rw [State.bar, completed_sameRest hstill]
    refine (State.bar_setBar _).trans ?_
    simp only [decide_eq_true_eq]
  · obtain ⟨harr, hen⟩ := freshThreads_bits c.s.threads hn (decide (va = 0xFFFFFFFF)) (c.s.liveThreads c.bk) hj
    rcases completed_thread (k := c.k) (f := f) hstill j with e | e <;> rw [e] <;>
      exact ⟨harr, fun h => ⟨of_decide_eq_true (hen h).1, (hen h).2⟩⟩

/-- A slot that another block holds is one that is valid and not the block's own. -/
theorem mine_iff (b : Bar) (bk : Nat) : b.val = false ∨ b.owner = bk ↔ ¬ (b.val = true ∧ b.owner ≠ bk) := by
  cases b.val <;> simp

theorem counts_fit_iff (va vb : Nat) :
    ((va ≤ 1024 ∨ va = 0xFFFFFFFF) ∧ vb ≤ 65535) ↔ ¬ ((1024 < va ∧ va ≠ 0xFFFFFFFF) ∨ 65535 < vb) := by omega

theorem idle_iff (w : Bool) (b : Bar) : (w = false ∧ b.arr = 0 ∧ b.pend = 0) ↔ ¬ (w = true ∨ b.arr ≠ 0 ∨ b.pend ≠ 0) := by
  cases w <;> simp

/-- Settles O32: the phase by the slot it leaves (`phase_completes`), `barinit` by its checks in order and the slot and threads it sets up. -/
theorem barrierPhasesAndInit : Obligations.BarrierPhasesAndInit := by
  refine ⟨fun s core n => ⟨phase_waits, fun hev harr hpend hval hstep => ?_⟩, fun h ra rb slot s f c hi => ?_⟩
  · obtain ⟨hself, hothers⟩ := phase_completes hev harr hpend hval hstep
    rw [hself]
    exact ⟨rfl, rfl, (s.bar core n).next_counts.1, (s.bar core n).next_counts.2, rfl, rfl, rfl, hval, fun m _ hm => hothers m hm⟩
  · intro n b va vb trap mine fits idle
    have hmine : mine ↔ _ := mine_iff b c.bk
    have hfits : fits ↔ _ := counts_fit_iff va vb
    have hidle : idle ↔ _ := idle_iff (c.s.waitedOn c.core n) b
    refine ⟨fun ha => exec_idle rfl rfl hi (if_pos ha), fun ha hm => exec_traps rfl rfl hi ha ?_, fun ha hm hf => exec_traps rfl rfl hi ha ?_,
      fun ha hm hf hw => exec_traps rfl rfl hi ha ?_, fun ha hm hf hw => ⟨_, exec_completes (u := c.barSet n va vb) rfl rfl hi ha ?_, fun hc =>
        barSet_completed hi hc slot.isLt va vb⟩⟩
    · exact (if_neg ha).trans (if_pos (not_not.1 (mt hmine.2 hm)))
    · exact (if_neg ha).trans ((if_neg (hmine.1 hm)).trans (if_pos (not_not.1 (mt hfits.2 hf))))
    · exact (if_neg ha).trans ((if_neg (hmine.1 hm)).trans ((if_neg (hfits.1 hf)).trans (if_pos (not_not.1 (mt hidle.2 hw)))))
    · exact (if_neg ha).trans ((if_neg (hmine.1 hm)).trans ((if_neg (hfits.1 hf)).trans (if_neg (hidle.1 hw))))

/-! ## Arrivals, waits and asynchronous counts (R153 to R156, R159) -/

theorem barBad_other (hv : (c.s.bar c.core n).val = true) (ho : (c.s.bar c.core n).owner ≠ c.bk) : c.barBad n = some 0x0021 := if_pos ⟨hv, ho⟩

theorem barBad_invalid (hv : (c.s.bar c.core n).val = false) : c.barBad n = some 0x0022 := by simp [Ctx.barBad, hv]

theorem barBad_none (hv : (c.s.bar c.core n).val = true) (ho : (c.s.bar c.core n).owner = c.bk) : c.barBad n = none := by simp [Ctx.barBad, hv, ho]

/-- Some check of R154 fails. -/
theorem barBad_some (h : (c.s.bar c.core n).val = false ∨ (c.s.bar c.core n).owner ≠ c.bk) : ∃ code, c.barBad n = some code := by
  cases hv : (c.s.bar c.core n).val with
  | false => exact ⟨_, barBad_invalid hv⟩
  | true => exact ⟨_, barBad_other hv (h.resolve_left (by simp [hv]))⟩

/-- R154: an instruction that traps in the active lanes where `barBad` finds a code. -/
theorem bar_traps {body : Ctx → Res} (he : exec i s = issue i s body) (hr : algRow i = none) (hi : issuing i s = some (f, c)) (ha : c.act ≠ [])
    (hb : ∀ code, c.barBad n = some code → body c = .trap code c.act n) :
    ((c.s.bar c.core n).val = true → (c.s.bar c.core n).owner ≠ c.bk → exec i s = .next (s.trapped c.k 0x0021 c.act n)) ∧
    ((c.s.bar c.core n).val = false → exec i s = .next (s.trapped c.k 0x0022 c.act n)) :=
  ⟨fun hv ho => exec_traps he hr hi ha (hb _ (barBad_other hv ho)), fun hv => exec_traps he hr hi ha (hb _ (barBad_invalid hv))⟩

/-- An instruction with some active lane that sets its floe's position itself, or after which the floe waits. -/
theorem exec_jumps {body : Ctx → Res} (he : exec i s = issue i s body) (hr : algRow i = none) (hi : issuing i s = some (f, c)) (ha : c.act ≠ [])
    (hb : body c = .jump u) : exec i s = .next (u.moved c.k f) := by
  rw [he, issue_act hi (preTrap_none hr c) ha, hb]
  rfl

/-- R276: a release that nothing holds goes on once the log is committed. -/
theorem releaseThen_ready (hl : c.f.loadsOut = false) (hc : (c.s.commit c.k).2 = none) (hw : (c.s.commit c.k).1.writesOut c.k c.f = false)
    (go : State → Res) : c.releaseThen go = go (c.s.commit c.k).1 := by
  simp [Ctx.releaseThen, Ctx.commitThen, hl, hc, hw]

/-- Settles O31: the checks of R154 first (`bar_traps`); then each instruction's own part, an arrival behind its release. -/
theorem barrierInstructions : Obligations.BarrierInstructions := by
  intro o s f c n b ready p m wait
  refine ⟨fun i hi h ha => ?traps, fun h ha hbad => ?arwIdle, fun i hi h ha => ?idle, fun hv ho =>
    ⟨fun h ha hr => ?arw, fun h ha => ?arwWaits, fun h ha hr => ?arv, fun h ha => ?wt, fun h ha => ?exp⟩⟩
  case traps =>
    simp only [List.mem_cons, List.not_mem_nil, or_false] at hi
    rcases hi with rfl | rfl | rfl | rfl
    all_goals
      refine bar_traps rfl rfl h ha fun code hb => ?_
      simp only [show c.barBad o.slot.toNat = some code from hb, if_neg ha]
      rfl
  case arwIdle =>
    obtain ⟨code, hcode⟩ := barBad_some hbad
    refine exec_idle rfl rfl h ?_
    simp only [show c.barBad o.slot.toNat = some code from hcode, if_pos ha]
  case idle =>
    simp only [List.mem_cons, List.not_mem_nil, or_false] at hi
    rcases hi with rfl | rfl | rfl <;> exact exec_idle rfl rfl h (if_pos ha)
  all_goals
    have hgood : c.barBad o.slot.toNat = none := barBad_none hv ho
  case arw =>
    obtain ⟨hl, hc, hw⟩ := hr
    refine issue_jump h rfl rfl ?_
    simp only [hgood, if_neg ha, releaseThen_ready hl hc hw]
    rfl
  case arwWaits =>
    refine issue_jump h rfl rfl ?_
    simp only [hgood, if_pos ha]
    rfl
  case arv =>
    obtain ⟨hl, hc, hw⟩ := hr
    refine exec_completes rfl rfl h ha ?_
    simp only [hgood, if_neg ha, releaseThen_ready hl hc hw]
    rfl
  case wt =>
    intro par
    by_cases hp : b.ph = par
    · rw [if_pos hp]
      refine exec_jumps rfl rfl h ha ?_
      simp only [hgood, if_neg ha]
      exact if_neg (not_not.2 hp)
    · rw [if_neg hp]
      refine exec_completes rfl rfl h ha ?_
      simp only [hgood, if_neg ha]
      exact if_pos hp
  case exp =>
    intro v e
    refine ⟨fun hover => exec_traps rfl rfl h ha ?_, fun hfits => exec_completes rfl rfl h ha ?_⟩
    · simp only [hgood, if_neg ha]
      exact if_pos hover
    · simp only [hgood, if_neg ha]
      exact if_neg (Nat.not_lt.2 hfits)

end Sys2Proof.Machine
end

section
/-! SUPPORT. Traps, returns, halts and marks (R160, R161, R316, R317, R367, R379, R380): what stands in registers and counters after them, and the
threads that return from a handler. -/

namespace Sys2Proof.Machine

open Sys2Proof

variable {i : Instr} {s u : State} {f : Floe} {c : Ctx} {k : Nat}

/-! ## What an instruction's own part answers -/

/-- An instruction that does nothing with no active lane, and otherwise leaves `u`. -/
theorem exec_done_or_idle {body : Ctx → Res} (he : exec i s = issue i s body) (hr : algRow i = none) (h : issuing i s = some (f, c))
    (hb : body c = if c.act = [] then .done c.s else .done u) : exec i s = .next ((if c.act = [] then c.s else u).completed c.k f) := by
  by_cases ha : c.act = []
  · rw [if_pos ha]
    exact exec_idle he hr h (hb.trans (if_pos ha))
  · rw [if_neg ha]
    exact exec_completes he hr h ha (hb.trans (if_neg ha))

/-! ## `featq` (R161) -/

theorem wr1_eq_setVreg {d : BitVec 8} (hd : d.toNat < 248) (u : State) (l : Nat) (w : Word) : c.wr1 u d l w = u.setVreg (c.t l) d.toNat w :=
  if_neg (Nat.not_le.2 hd)

/-- A word that every active lane is given in a register stands there once its floe has gone on. -/
theorem wr1s_land (h : Quiet c.s) {d : BitVec 8} (hd : d.toNat < 248) (hb : c.inBanks (d.toNat + 1) = true) (val : Nat → Word) {l : Nat}
    (hl : l ∈ c.act) : ((c.act.foldl (fun s l => c.wr1 s d l (val l)) c.s).completed c.k f).vreg (c.t l) d.toNat = val l := by
  simp only [wr1_eq_setVreg hd]
  rw [completed_vreg (quiet_foldl (fun u l hu => quiet_setVreg hu (c.t l) d.toNat (val l)) c.act h),
    (foldl_setVreg_vreg val hb c.act (fun _ h => h) fun _ => rfl).2 l hl, if_pos hl]

theorem featq_reads {h : Head} {d : BitVec 8} {w : BitVec 2} (hi : issuing (.featq h d w) s = some (f, c)) :
    ∃ t, exec (.featq h d w) s = .next t ∧ (s.calm = true → d.toNat < 248 → c.inBanks (d.toNat + 1) = true → ∀ l ∈ c.act, ∀ j, j < 32 →
      (t.vreg (c.t l) d.toNat).getLsbD j = c.g.mask.getLsbD (32 * w.toNat + j)) := by
  refine ⟨_, issue_done hi (preTrap_none rfl c) rfl fun ha => by rw [ha]; rfl, fun hc hd hb l hl j hj => ?_⟩
  rw [wr1s_land (quiet_of hi hc) hd hb (fun _ => c.g.mask.extractLsb' (32 * w.toNat) 32) hl, BitVec.getLsbD_extractLsb', decide_eq_true hj, Bool.true_and]

theorem featqBit_reads {h : Head} {d : BitVec 8} {n : BitVec 7} (hi : issuing (.featqBit h d n) s = some (f, c)) :
    ∃ t, exec (.featqBit h d n) s = .next t ∧ (s.calm = true → d.toNat < 7 → c.inBanks 0 = true → ∀ l ∈ c.act,
      t.predOf (c.t l) d.toNat = c.g.mask.getLsbD n.toNat) :=
  ⟨_, issue_done hi (preTrap_none rfl c) rfl fun ha => by rw [ha]; rfl, fun hc hd hb _ hl =>
    wrPreds_land (quiet_of hi hc) hd hb (fun _ => c.g.mask.getLsbD n.toNat) hl⟩

/-! ## Returning from a handler (R316) -/

/-- What one element of a list brings about and no element ends, holds once the list is through. -/
theorem foldl_established {α β : Type} {P : β → Prop} {g : β → α → β} {a : α} (hset : ∀ x, P (g x a)) (hkeep : ∀ x b, P x → P (g x b)) {ls : List α}
    (ha : a ∈ ls) (x : β) : P (ls.foldl g x) := by
  obtain ⟨l₁, l₂, rfl⟩ := List.append_of_mem ha
  rw [List.foldl_append, List.foldl_cons]
  exact List.foldlRecOn (motive := P) l₂ g (hset _) fun y hy b _ => hkeep y b hy

@[simp] theorem recordsWritten_thread (s : State) (ts : List Nat) (t : Nat) : (s.recordsWritten ts).thread t = s.thread t :=
  List.foldlRecOn (motive := fun u => u.thread t = s.thread t) ts _ rfl fun u hu a _ =>
    (congrArg (fun x : Tab Thread => (lookD {} x t : Thread)) (State.takeInjection_threads u 6 (a / 4096) (16 * (a % 4096)) 16)).trans hu

@[simp] theorem leaveHandler_thread (s : State) (tk : Nat) (gone : Bool) (t : Nat) : (s.leaveHandler tk gone).thread t = s.thread t := by
  unfold State.leaveHandler
  split <;> rfl

/-- A thread that waits for its handler's home floe, with its exception registers at zero. -/
def Thread.returned (th : Thread) : Prop :=
  th.inHandler = false ∧ th.st = 3 ∧ th.epc = 0 ∧ th.ecause = 0 ∧ th.eaddr = 0 ∧ th.eseq = 0 ∧ th.resv = none

theorem eretThreads_returned {lanes : List Nat} (hf : s.floe? k = some f) {l t : Nat} (hl : l ∈ lanes) (ht : f.tkey k l = some t) :
    ((s.eretThreads k lanes).thread t).returned := by
  unfold State.eretThreads
  rw [hf]
  dsimp only
  have hfloe : ∀ (v : State) (rest : List (Nat × Nat)), ((if rest = [] then { v with floes := del v.floes k }
      else v.modFloe k fun f => { f with lanes := rest } : State).thread t) = v.thread t := by
    intro v rest
    split
    · rfl
    · exact congrArg (fun x : Tab Thread => (lookD {} x t : Thread)) (State.modFloe_threads v k _)
  rw [hfloe]
  refine foldl_established (P := fun v : State => (v.thread t).returned) (fun v => ?_) (fun v m hv => ?_) hl s
  · rw [ht]
    simp [State.thread_modThread, Thread.returned]
  · split
    · next t' _ =>
      rw [recordsWritten_thread, State.thread_modThread]
      split
      · exact ⟨rfl, rfl, rfl, rfl, rfl, rfl, rfl⟩
      · rw [leaveHandler_thread]; exact hv
    · exact hv

/-- R316: with nothing before it that its lanes wait for, and its log begun, `eret` returns the active lanes. -/
theorem eret_returns {h : Head} (hi : issuing (.eret h) s = some (f, c)) (ha : c.act ≠ []) (hin : ∀ l ∈ c.act, (c.s.thread (c.t l)).inHandler = true)
    (hneed : ∀ p ∈ c.f.pend, ∀ l ∈ p.need, l ∉ c.act) (hcommit : (c.s.commit c.k).2 = none) :
    let p := ((c.s.commit c.k).1.settleLanes c.k c.act).publish c.k
    let u := (c.act.foldl (fun s l => s.modThread (c.t l) fun th => { th with srec := some p.1 }) p.2).eretThreads c.k c.act
    exec (.eret h) s = .next (u.completed c.k f) := by
  have h1 : ¬ (c.act.any fun l => !(c.s.thread (c.t l)).inHandler) = true := by simpa using hin
  have h2 : ¬ (c.f.pend.any fun p => p.need.any c.act.contains) = true := by simpa using hneed
  refine exec_completes rfl rfl hi ha ?_
  simp only [if_neg ha, if_neg h1, if_neg h2, Ctx.commitThen, hcommit]

/-! ## Counters (R379) -/

theorem toNat_words (hi lo : Word) : (hi ++ lo : BitVec 64).toNat = 2 ^ 32 * hi.toNat + lo.toNat := by
  rw [BitVec.toNat_append, ← Nat.shiftLeft_add_eq_or_of_lt lo.isLt, Nat.shiftLeft_eq, Nat.mul_comm]

/-- The halves of a 64-bit count that has gone up. -/
theorem words_add (hi lo : Word) (n : Nat) : (BitVec.ofNat 32 ((lo.toNat + 2 ^ 32 * hi.toNat + n) / 2 ^ 32) ++
    BitVec.ofNat 32 (lo.toNat + 2 ^ 32 * hi.toNat + n) : BitVec 64) = (hi ++ lo) + BitVec.ofNat 64 n := by
  refine BitVec.eq_of_toNat_eq ?_
  rw [toNat_words, BitVec.toNat_add, toNat_words, BitVec.toNat_ofNat, BitVec.toNat_ofNat, BitVec.toNat_ofNat]
  omega

/-- A counter in two registers of the core, the low half first, with the active lanes added. -/
def Ctx.counted (c : Ctx) (lo : Nat) : State :=
  let v := (c.s.csr c.core lo).toNat + 2 ^ 32 * (c.s.csr c.core (lo + 1)).toNat + c.act.length
  (c.s.setCsr c.core lo (BitVec.ofNat 32 v)).setCsr c.core (lo + 1) (BitVec.ofNat 32 (v / 2 ^ 32))

theorem counted_completed (h : Quiet c.s) {lo : Nat} (hlo : lo + 1 < 4096) (htrial : lo ∉ [0x323, 0x324, 0x325]) :
    ((c.counted lo).completed c.k f).csr c.core (lo + 1) ++ ((c.counted lo).completed c.k f).csr c.core lo =
      (c.s.csr c.core (lo + 1) ++ c.s.csr c.core lo) + BitVec.ofNat 64 c.act.length := by
  simp only [List.mem_cons, List.not_mem_nil, or_false, not_or] at htrial
  have hcsr := completed_csr (k := c.k) (f := f) (u := c.counted lo) h.still
  rw [hcsr c.core lo (by omega) (by omega) (by omega), hcsr c.core (lo + 1) (by omega) (by omega) (by omega)]
  simp only [Ctx.counted, State.csr_setCsr, if_true]
  rw [if_neg (by omega)]
  exact words_add _ _ _

/-- R379: `prog` adds the number of active lanes to a counter of its core. -/
theorem prog_counts {h : Head} {n : BitVec 3} (hi : issuing (.prog h n) s = some (f, c)) : ∃ t, exec (.prog h n) s = .next t ∧
    (s.calm = true → c.core < 1024 → t.csr c.core (0x331 + 2 * n.toNat) ++ t.csr c.core (0x330 + 2 * n.toNat) =
      (c.s.csr c.core (0x331 + 2 * n.toNat) ++ c.s.csr c.core (0x330 + 2 * n.toNat)) + BitVec.ofNat 64 c.act.length) := by
  have hn := n.isLt
  rw [show 0x331 + 2 * n.toNat = 0x330 + 2 * n.toNat + 1 by omega]
  refine ⟨(c.counted (0x330 + 2 * n.toNat)).completed c.k f, issue_lanes hi (preTrap_none rfl c) rfl _, fun hc _ => ?_⟩
  refine counted_completed (quiet_of hi hc) (by omega) ?_
  simp only [List.mem_cons, List.not_mem_nil, or_false, not_or]
  omega

/-! ## `brk` (R367) -/

/-- R367: what the action of `brk` stops. -/
theorem actStop_cases (u : State) (k bk : Nat) : u.actStop k bk 0 = u ∧ u.actStop k bk 1 = u.stopBlk bk 1 ∧
    u.actStop k bk 2 = u.haltGrid (u.block bk).grid (some (coreOfFloe k)) := ⟨rfl, rfl, rfl⟩

/-- Settles O38: each instruction's own part by the lanes that are active; `featq`, `prog` and the returning threads by what can be read afterwards. -/
theorem trapsReturnsHaltsAndMarks : Obligations.TrapsReturnsHaltsAndMarks := by
  refine ⟨⟨fun h code s f c hi => ⟨fun ha => ?trap, fun ha => ?trapIdle⟩, fun h d w s f c hi => featq_reads hi, fun h d n s f c hi => featqBit_reads hi⟩,
    fun h s f c hi => ⟨fun ha => ?eretIdle, fun hout => ?eretOut, fun ha hin hneed hcommit => eret_returns hi ha hin hneed hcommit⟩,
    fun s k f lanes hf l hl t ht => eretThreads_returned hf hl ht, fun h s f c hi => ?haltGrid,
    fun h s f c hi => ⟨fun ha => ?haltIdle, fun ha hs => ?haltTrap, fun ha hs => ?haltCtx⟩,
    fun h code act s f c hi => ?brk, fun h n s f c hi => prog_counts hi, fun h code s f c hi => ?mark, fun h a code s f c hi => ?markValue⟩
  case trap => exact exec_traps rfl rfl hi ha (if_neg ha)
  case trapIdle => exact exec_idle rfl rfl hi (if_pos ha)
  case eretIdle => exact exec_idle rfl rfl hi (if_pos ha)
  case eretOut =>
    obtain ⟨l, hl, hh⟩ := hout
    have ha : c.act ≠ [] := List.ne_nil_of_mem hl
    exact exec_traps rfl rfl hi ha ((if_neg ha).trans (if_pos (List.any_eq_true.2 ⟨l, hl, by rw [hh]; rfl⟩)))
  case haltGrid => exact exec_done_or_idle rfl rfl hi rfl
  case haltIdle => exact exec_idle rfl rfl hi (if_pos ha)
  case haltTrap => exact exec_traps rfl rfl hi ha ((if_neg ha).trans (if_pos (by rw [hs]; rfl)))
  case haltCtx => exact exec_completes rfl rfl hi ha ((if_neg ha).trans (if_neg (by rw [hs]; exact Bool.false_ne_true)))
  case brk =>
    have hcore : c.core = coreOfFloe c.k := (issuing_core hi).trans (congrArg coreOfFloe (issuing_k hi).symm)
    intro u
    obtain ⟨hgo, hstop, hhalt⟩ := actStop_cases u c.k c.bk
    refine ⟨fun ha => exec_idle rfl rfl hi (if_pos ha), fun ha h0 => exec_completes rfl rfl hi ha ((if_neg ha).trans ?_),
      fun ha h1 => exec_completes rfl rfl hi ha ((if_neg ha).trans ?_), fun ha h2 => exec_completes rfl rfl hi ha ((if_neg ha).trans ?_)⟩
    · subst h0; exact congrArg Res.done hgo
    · subst h1; exact congrArg Res.done hstop
    · subst h2; rw [hcore]; exact congrArg Res.done hhalt
  case mark => exact exec_done_or_idle rfl rfl hi rfl
  case markValue =>
    have hv : (c.rd1 0 a c.low).toNat * 2 ^ 32 + code.toNat = code.toNat + 2 ^ 32 * (c.rd1 0 a c.low).toNat := by omega
    rw [hv]
    exact exec_done_or_idle rfl rfl hi rfl

end Sys2Proof.Machine
end

section
/-! SUPPORT. `exit` and `spawn` (R150, R152, R158, R206): when each goes on, the threads that are freed, and a new thread's registers. -/

namespace Sys2Proof.Machine

open Sys2Proof

variable {i : Instr} {s u : State} {f : Floe} {c : Ctx}

/-! ## `exit` (R150, R158) -/

/-- Freeing a thread leaves it in no state, and others in theirs. -/
theorem exitThread_st (s : State) (core : Nat) (w : Word) (tk t : Nat) :
    ((s.exitThread core w tk).thread t).st = if t = tk then 0 else (s.thread t).st := by
  unfold State.exitThread
  extract_lets v x th
  rw [recordsWritten_thread, State.thread_setThread]
  split
  · rfl
  · exact congrArg Thread.st (leaveHandler_thread s tk true t)

theorem exitThreads_st (u : State) (core : Nat) (w : Word) {ts : List Nat} {t : Nat} (ht : t ∈ ts) :
    ((ts.foldl (fun s t => s.exitThread core w t) u).thread t).st = 0 := by
  refine foldl_established (P := fun v : State => (v.thread t).st = 0) (fun v => ?_) (fun v t' hv => ?_) ht u
  · rw [exitThread_st, if_pos rfl]
  · rw [exitThread_st, hv, ite_self]

/-- A block with a live thread goes on; one with none ends (R150). -/
theorem endIfEmpty_cases (u : State) (bk : Nat) : (u.liveThreads bk ≠ [] → u.endIfEmpty bk = u) ∧
    ((u.block? bk).isSome = true → u.liveThreads bk = [] → u.endIfEmpty bk =
      (((u.blockGone bk).releaseBlock bk .exit).modGrid (u.block bk).grid fun x => { x with done := x.done + 1 }).noteDone) :=
  ⟨fun h => if_neg fun hx => h hx.2, fun hb hl => if_pos ⟨hb, hl⟩⟩

/-- R150, R206: `exit` traps on a matrix operation not waited on, and, where no thread lends registers, on the banks that its block holds. -/
theorem exit_traps (hi : issuing .exit s = some (f, c)) (hp : c.f.pend.any (!·.ready) = false) :
    (c.f.ops ≠ [] → exec .exit s = .next (s.trapped c.k 0x0034 (c.f.lanes.map (·.1)) 0)) ∧
    (∀ h, c.f.ops = [] → c.lending = false → c.s.lowAlloc c.bk = some h →
      exec .exit s = .next (s.trapped c.k 0x0036 (c.f.lanes.map (·.1)) h)) := by
  have hthere : ¬ c.f.pend.any (!·.ready) = true := by rw [hp]; exact Bool.false_ne_true
  refine ⟨fun hops => issue_trap hi rfl rfl ((if_neg hthere).trans (if_pos hops)), fun h hops hl ha => issue_trap hi rfl rfl ?_⟩
  simp only [hp, hops, hl, ha]
  rfl

/-- R150, R158: nothing holds the `exit`, so its threads are freed; their floe publishes where one of them is enrolled. -/
theorem exit_leaves (hi : issuing .exit s = some (f, c)) (hp : c.f.pend.any (!·.ready) = false) (hops : c.f.ops = []) (hl : c.lending = false)
    (ha : c.s.lowAlloc c.bk = none) (hc : (c.s.commit c.k).2 = none) :
    let v := (c.s.commit c.k).1
    let enrolled : Prop := ∃ t ∈ c.f.tkeys c.k, (v.thread t).enrolled ≠ 0
    let w := ((v.endWindows c.k).detachAll c.k).dropResv c.k
    (enrolled → v.writesOut c.k c.f = false) → v.deferredOut c.bk c.f.fid ((v.liveThreads c.bk).all (c.f.tkeys c.k).contains) = false →
    ∀ p, (enrolled → p = w.publish c.k) → (¬ enrolled → p = (0, w)) →
    let u := { p.2 with floes := del p.2.floes c.k }.exitThreads c.core c.bk c.f.coord p.1 (p.2.stageOf c.k c.f) (c.f.tkeys c.k)
    exec .exit s = .next ((u.endIfEmpty c.bk).moved c.k f) := by
  intro v enrolled w hw hd p hpe hpn u
  have hen : ((c.f.tkeys c.k).any fun t => decide ((v.thread t).enrolled ≠ 0)) = true ↔ enrolled := by
    simp only [List.any_eq_true, decide_eq_true_eq, enrolled]
  have hgo : ¬ ((((c.f.tkeys c.k).any fun t => decide ((v.thread t).enrolled ≠ 0)) = true ∧ v.writesOut c.k c.f = true) ∨
      v.deferredOut c.bk c.f.fid ((v.liveThreads c.bk).all (c.f.tkeys c.k).contains) = true) := by
    rintro (⟨he, ho⟩ | ho)
    · exact Bool.false_ne_true ((hw (hen.1 he)).symm.trans ho)
    · exact Bool.false_ne_true (hd.symm.trans ho)
  have hpub : p = if ((c.f.tkeys c.k).any fun t => decide ((v.thread t).enrolled ≠ 0)) = true then w.publish c.k else (0, w) := by
    split
    · next he => exact hpe (hen.1 he)
    · next he => exact hpn (mt hen.2 he)
  refine issue_jump hi rfl rfl ?_
  simp only [hp, hops, hl, ha, Ctx.commitThen, hc]
  refine (if_neg hgo).trans ?_
  simp only [u, hpub]
  rfl

/-! ## `spawn` (R152) -/

section
variable {o : SpawnOps} {cont : Nat → Word} {r l : Nat} {ls : List Nat}

/-- A lane that finds a place has its thread made and parked there. -/
theorem spawnLanes_placed {q w base : Nat} (hlive : (u.liveThreads c.bk).length < 1024) (hp : u.placeThread c.islot l c.g.win = some (q, w, base)) :
    c.spawnLanes o cont r (l :: ls) u =
      let args := (List.range o.argn.toNat).map fun i => c.s.vreg (c.t l) (o.a.toNat + i)
      let v := (u.makeThread c.bk q l w base args).park (threadKey q l w) (cont l) (some r)
      c.spawnLanes o cont r ls ((if o.try_ then v.setPred (c.t l) o.tp.toNat true else v).modFloe c.k fun f => { f with served := f.served ++ [l] }) := by
  rw [Ctx.spawnLanes, if_pos hlive, hp]

/-- Where the block is full or no lane bank has room, a lane finds no place. -/
theorem no_place (h : 1024 ≤ (u.liveThreads c.bk).length ∨ u.placeThread c.islot l c.g.win = none) :
    (if (u.liveThreads c.bk).length < 1024 then u.placeThread c.islot l c.g.win else none) = none := by
  split
  · next hlive => exact h.resolve_left (Nat.not_le.2 hlive)
  · rfl

/-- Under `.try` a lane that finds no place gets false and is served. -/
theorem spawnLanes_refused (ht : o.try_ = true) (h : 1024 ≤ (u.liveThreads c.bk).length ∨ u.placeThread c.islot l c.g.win = none) :
    c.spawnLanes o cont r (l :: ls) u =
      c.spawnLanes o cont r ls ((u.setPred (c.t l) o.tp.toNat false).modFloe c.k fun f => { f with served := f.served ++ [l] }) := by
  rw [Ctx.spawnLanes, no_place h]
  exact if_pos ht

/-- Under `.try` every lane is served. -/
theorem spawnLanes_try (ht : o.try_ = true) (ls : List Nat) (u : State) : ∃ v, c.spawnLanes o cont r ls u = .done v := by
  induction ls generalizing u with
  | nil => exact ⟨u, rfl⟩
  | cons l ls ih =>
    by_cases h : 1024 ≤ (u.liveThreads c.bk).length ∨ u.placeThread c.islot l c.g.win = none
    · rw [spawnLanes_refused ht h]
      exact ih _
    · obtain ⟨hlive, hp⟩ := not_or.1 h
      obtain ⟨⟨q, w, base⟩, hq⟩ := Option.ne_none_iff_exists'.1 hp
      rw [spawnLanes_placed (Nat.not_le.1 hlive) hq]
      exact ih _

/-- The lanes that a `spawn` has still to serve. -/
def Ctx.unserved (c : Ctx) : List Nat := c.act.filter fun l => !c.f.served.contains l

/-- Of those, the lanes whose word is no continuation (R11). -/
def Ctx.badWords (c : Ctx) (o : SpawnOps) : List Nat := c.unserved.filter fun l => !c.s.contOk c.g.ctx c.g.code (spawnWord c o l)

theorem act_ne_nil_of_unserved (h : c.unserved ≠ []) : c.act ≠ [] := fun ha => h (by rw [Ctx.unserved, ha]; rfl)

/-- R287: a stalled `spawn` publishes once. -/
def Ctx.spawnRecord (c : Ctx) (v : State) : Nat × State :=
  match c.f.spawnRec with
  | some r => (r, v)
  | none => ((v.publish c.k).1, (v.publish c.k).2.modFloe c.k fun f => { f with spawnRec := some (v.publish c.k).1 })

/-- R152: the traps come before any thread is made. -/
theorem spawn_traps (hi : issuing (.spawn o) s = some (f, c)) :
    (c.unserved = [] → exec (.spawn o) s = .next (c.s.completed c.k f)) ∧
    (∀ l ls, c.badWords o = l :: ls → exec (.spawn o) s = .next (s.trapped c.k 0x0005 (l :: ls) (spawnWord c o l).toNat)) ∧
    (c.unserved ≠ [] → c.badWords o = [] → c.g.nregs < o.argn.toNat → exec (.spawn o) s = .next (s.trapped c.k 0x0020 c.unserved o.argn.toNat)) := by
  refine ⟨fun ht => exec_idle rfl rfl hi (if_pos ht), fun l ls hb => ?_, fun ht hb hn => ?_⟩
  · have ht : c.unserved ≠ [] := fun ht => by rw [Ctx.badWords, ht] at hb; exact nomatch hb
    have htrap : Res.trap 0x0005 (c.badWords o) (spawnWord c o ((c.badWords o).headD 0)).toNat = .trap 0x0005 (l :: ls) (spawnWord c o l).toNat := by
      rw [hb]; rfl
    exact issue_trap hi rfl rfl ((if_neg ht).trans ((if_pos (by rw [hb]; exact List.cons_ne_nil _ _ : c.badWords o ≠ [])).trans htrap))
  · exact issue_trap hi rfl rfl ((if_neg ht).trans ((if_neg (not_not.2 hb)).trans (if_pos hn)))

/-- Where nothing holds a `spawn`, it serves its lanes in order. -/
theorem spawn_serves (hi : issuing (.spawn o) s = some (f, c)) (ht : c.unserved ≠ []) (hb : c.badWords o = []) (hn : o.argn.toNat ≤ c.g.nregs)
    (hl : c.f.loadsOut = false) (hc : (c.s.commit c.k).2 = none) (hw : (c.s.commit c.k).1.writesOut c.k c.f = false)
    (hbehind : c.spawnBehind (c.s.commit c.k).1 = false)
    (hu : c.spawnLanes o (spawnWord c o) (c.spawnRecord (c.s.commit c.k).1).1 c.unserved (c.spawnRecord (c.s.commit c.k).1).2 = .done u) :
    exec (.spawn o) s = .next (u.completed c.k f) := by
  refine exec_completes rfl rfl hi (act_ne_nil_of_unserved ht) ((if_neg ht).trans ((if_neg (not_not.2 hb)).trans ((if_neg (Nat.not_lt.2 hn)).trans
    ((releaseThen_ready hl hc hw _).trans (Eq.trans ?_ hu)))))
  refine (if_neg (by rw [hbehind]; exact Bool.false_ne_true)).trans ?_
  unfold Ctx.spawnRecord
  cases c.f.spawnRec <;> rfl

end

/-! ### The new thread (R152, R242) -/

/-- Registers written one after another read as written; the others as before. -/
theorem foldl_setVregs_vreg (t m : Nat) (ws : List Word) (n : Nat) (u : State) :
    ((ws.zipIdx n).foldl (fun s e => s.setVreg t e.2 e.1) u).vreg t m = if n ≤ m ∧ m < n + ws.length then ws.getD (m - n) 0 else u.vreg t m := by
  induction ws generalizing n u with
  | nil => exact (if_neg (by simp)).symm
  | cons w ws ih =>
    rw [List.zipIdx_cons, List.foldl_cons, ih, State.vreg_setVreg, List.length_cons]
    dsimp only
    have hkey : regKey t (u.thread t) m = regKey t (u.thread t) n ↔ m = n := by unfold regKey; omega
    rcases Nat.lt_trichotomy m n with h | h | h
    · rw [if_neg (by omega), if_neg (by omega), if_neg (by omega)]
    · subst h
      rw [if_neg (by omega), if_pos rfl, if_pos (by omega), Nat.sub_self, List.getD_cons_zero]
    · rw [if_neg (mt hkey.1 (by omega)), show m - n = m - (n + 1) + 1 by omega, List.getD_cons_succ]
      exact if_congr (by omega) rfl rfl

theorem foldl_setVregs_thread (t j : Nat) (ws : List (Word × Nat)) (u : State) :
    (ws.foldl (fun s e => s.setVreg t e.2 e.1) u).thread j = u.thread j :=
  List.foldlRecOn (motive := fun v : State => v.thread j = u.thread j) ws _ rfl fun v hv e _ => (State.setVreg_thread v t e.2 j e.1).trans hv

/-- R152, R242: a new thread reads its arguments, and zero in every other register of its window; its predicates are false. -/
theorem makeThread_reads (s : State) (bk : Nat) {q lane w base n : Nat} (args : List Word) (hw : w < 32)
    (hn : n < (s.grid (s.block bk).grid).win) :
    let t := s.makeThread bk q lane w base args
    let k := threadKey q lane w
    t.vreg k n = args.getD n 0 ∧ (t.thread k).tid = s.freeTid bk ∧ (t.thread k).blkr = bk % 32 ∧ (t.thread k).wbase = base ∧
    ∀ p, p < 7 → t.predOf k p = false := by
  unfold State.makeThread
  extract_lets g tid bars en tk lo s1 th held s2 t
  have hth : t.thread tk = th := (foldl_setVregs_thread tk tk args.zipIdx s2).trans ((State.thread_setThread s1 tk tk th).trans (if_pos rfl))
  have hkey : regKey tk th n = lo + n := by
    have : tk / 32 = 32 * q + lane := by simp only [tk, threadKey]; omega
    show 2048 * (tk / 32) + base + n = 2048 * (32 * q + lane) + base + n
    rw [this]
  have hzero : s2.vreg tk n = 0 := by
    have : s2.thread tk = th := (State.thread_setThread s1 tk tk th).trans (if_pos rfl)
    rw [State.vreg, this, hkey]
    show lookD 0 (cut s1.regs lo (lo + g.win)) (lo + n) = 0
    rw [lookD_cut, if_pos ⟨Nat.le_add_right lo n, Nat.add_lt_add_left hn lo⟩]
  refine ⟨?_, by rw [hth], by rw [hth], by rw [hth], fun p hp => ?_⟩
  · refine (foldl_setVregs_vreg tk n args 0 s2).trans ?_
    rw [hzero, Nat.sub_zero]
    split
    · rfl
    · exact (List.getD_eq_default _ _ (by omega)).symm
  · have hbit : ∀ p, p < 7 → (0x80#8).getLsbD p = false := by decide
    rw [State.predOf, if_neg (by omega), hth]
    exact hbit p hp

/-- Settles O30: `exit` by its traps and the threads that it frees, `spawn` by its traps and the lanes that it serves in order, a new thread by what
it reads. -/
theorem threadsEndAndBegin : Obligations.ThreadsEndAndBegin := by
  refine ⟨fun s f c hi hp => ⟨(exit_traps hi hp).1, (exit_traps hi hp).2, fun hops hl ha hc => exit_leaves hi hp hops hl ha hc⟩,
    fun u core w ts t ht => exitThreads_st u core w ht, endIfEmpty_cases, fun o s f c hi => ?spawn,
    fun s bk q lane w base n args _ hw _ hn _ => makeThread_reads s bk args hw hn⟩
  case spawn =>
    intro cont todo bad v p
    obtain ⟨hidle, hbad, hargs⟩ := spawn_traps hi
    have hp : p = c.spawnRecord v := rfl
    refine ⟨hidle, fun l ls hb => ?bad, hargs, fun ht hb hn hl hc hw hbehind => ⟨fun htry => ?served, fun htry l q w base hone hlive hplace => ?placed⟩,
      fun r l ls u htry hno => spawnLanes_refused htry hno⟩
    case bad =>
      rw [hb]
      exact hbad l ls hb
    case served =>
      obtain ⟨u, hu⟩ := spawnLanes_try (c := c) (cont := cont) (r := p.1) htry todo p.2
      exact ⟨u, hu, spawn_serves hi ht hb hn hl hc hw hbehind (by rw [← hp]; exact hu)⟩
    case placed =>
      refine spawn_serves hi ht hb hn hl hc hw hbehind ?_
      rw [← hp, show c.unserved = [l] from hone, spawnLanes_placed hlive hplace, htry]
      rfl

end Sys2Proof.Machine
end

section
/-! SUPPORT. Instructions whose first checks are 1 to 3 of R176, requests at the network (R178), and the global loads (R172 to R188). -/

namespace Sys2Proof.Machine

variable {i : Instr} {s u : State} {f : Floe} {c : Ctx} {o : MemOps} {n : Nat} {perm : Nat → Bool}

/-! ### Checks 1 to 3 of R176 come first -/

/-- An instruction whose own part answers what checks 1 to 3 of R176 find takes their traps. -/
theorem boundsTraps_of_body {body : Ctx → Res} (he : ∀ s, exec i s = issue i s body) (hr : algRow i = none)
    (hb : ∀ c r, c.act ≠ [] → c.checkBounds (c.globReqs o) n perm = some r → body c = r) : Said.boundsTraps i o n perm := by
  intro s f c hi bidx odd out no hurt
  have hcheck := checkBounds_lanes c o n perm
  have hcore : c.core = coreOfFloe c.k := (issuing_core hi).trans (congrArg _ (issuing_k hi).symm)
  have answers : ∀ r, c.checkBounds (c.globReqs o) n perm = some r → exec i s = .next ((finish s c.k f c.bk r).settleDue 64) := by
    intro r h
    have ha : c.act ≠ [] := fun ha => by
      rw [globReqs_eq, ha] at h
      cases h
    rw [he, issue_act hi (preTrap_none hr c) ha, hb c r ha h]
  refine ⟨fun h1 => ?_, fun h1 h2 => ?_, fun h1 h2 h3 => ?_, fun h1 h2 h3 h4 => ?_⟩
  · exact answers _ (hcheck.trans (if_pos h1))
  · rw [answers .poison (hcheck.trans ((if_neg (not_not.2 h1)).trans (if_pos h2))), hcore]
    rfl
  · exact answers _ (hcheck.trans ((if_neg (not_not.2 h1)).trans ((if_neg h2).trans (if_pos h3))))
  · exact answers _ (hcheck.trans ((if_neg (not_not.2 h1)).trans ((if_neg h2).trans ((if_neg (not_not.2 h3)).trans (if_pos h4)))))

theorem load_bounds {lr : Bool} {r : Res} (ha : c.act ≠ []) (h : c.checkBounds (c.globReqs o) (Said.size o) bentR = some r) : c.load o lr = r := by
  unfold Said.size at h
  simp only [Ctx.load, if_neg ha, h]

/-- A global load once its checks have found nothing: after the waits of its order, one result is opened and one request a lane goes out. -/
theorem load_checked {lr : Bool} {as : List GAcc} (ha : c.act ≠ []) (hb : c.checkBounds (c.globReqs o) (Said.size o) bentR = none)
    (hh : c.checkHome (c.globReqs o) (Said.size o) false true (if lr then memAmark o else memMark o) = .ok (u, as)) :
    let w : Ctx := { c with s := u }
    c.load o lr = w.ordered (isRel o.order) false fun s _ =>
      let p := w.await s o.h.la.toNat { n := 0, reg := o.d.toNat, cnt := o.ty.regs, need := c.act, load := true, acq := memAcq o }
      let v := addReqs (as.map fun a => { w.req a (Said.size o) (if lr then .lr else .load) (if lr then memAmark o else memMark o) with
        signed := some o.ty, pend := some p.1, fwd := forwarded c.f.log a.lane a.place (Said.size o) }) p.2
      .done (if lr then as.foldl (fun s a => s.modThread (c.t a.lane) fun th => { th with resv := some ⟨a.place.pa / 32, a.place.sys, false, false, p.1⟩ }) v
        else v) := by
  unfold Said.size at hb hh
  simp only [Ctx.load, if_neg ha, hb, hh]
  rfl

theorem load_boundsTraps (lr : Bool) (hi : ∀ s, exec i s = issue i s fun c => c.load o lr) (hr : algRow i = none) :
    Said.boundsTraps i o (Said.size o) bentR :=
  boundsTraps_of_body hi hr fun _ _ ha h => load_bounds ha h

theorem ldtag_boundsTraps (o : MemOps) : Said.boundsTraps (.ldtag o) o 32 bentR :=
  boundsTraps_of_body (fun _ => rfl) rfl fun c r ha h => by simp only [if_neg ha, h]

/-! ### Results that wait, and requests at the network -/

/-- A result opened for lanes waits in the floe under the floe's next serial. -/
theorem await_eq {y : Floe} (hf : u.floe? c.k = some y) (la : Nat) (p : Pend) : c.await u la p =
    (y.npend, u.setFloe c.k { y with npend := y.npend + 1, pend := y.pend ++ [{ p with n := y.npend, left := la, coord := y.coord }] }) := by
  unfold Ctx.await
  rw [hf]

/-- Requests change the network and the serials, and nothing else. -/
theorem addReqs_eq (rs : List Req) (s : State) : addReqs rs s = { s with net := (addReqs rs s).net, nextId := (addReqs rs s).nextId } :=
  List.foldlRecOn (motive := fun t : State => t = { s with net := t.net, nextId := t.nextId }) rs _ rfl fun t ht r _ => by
    rw [ht]; rfl

/-- Each request of a list stands at the network under a serial of its own; requests with earlier serials stay. -/
theorem look_addReq_foldl (g : Nat) (rs : List Req) (s : State) :
    let t := rs.foldl (fun s r => s.addReq { r with group := g }) s
    (∀ id, id < s.nextId → look t.net id = look s.net id) ∧ ∀ r ∈ rs, ∃ id, look t.net id = some { r with group := g } := by
  induction rs generalizing s with
  | nil => exact ⟨fun _ _ => rfl, fun r hr => absurd hr List.not_mem_nil⟩
  | cons r rs ih =>
    obtain ⟨hold, hnew⟩ := ih (s.addReq { r with group := g })
    have hnet : (s.addReq { r with group := g }).net = put s.net s.nextId { r with group := g } := rfl
    have hid : (s.addReq { r with group := g }).nextId = s.nextId + 1 := rfl
    refine ⟨fun id h => ?_, fun q hq => ?_⟩
    · rw [List.foldl_cons, hold id (by omega), hnet, look_put_ne _ _ (by omega)]
    · rcases List.mem_cons.1 hq with rfl | hq
      · exact ⟨s.nextId, by rw [List.foldl_cons, hold _ (by omega), hnet, look_put_same]⟩
      · exact hnew q hq

theorem look_addReqs {rs : List Req} {r : Req} (h : r ∈ rs) (s : State) : ∃ id, look (addReqs rs s).net id = some { r with group := s.nextId } :=
  (look_addReq_foldl s.nextId rs s).2 r h

/-- Where reservations are set only threads change. -/
theorem modThreads_eq {α : Type} (t : α → Nat) (g : α → Thread → Thread) (as : List α) (s : State) : ∃ ths,
    as.foldl (fun s a => s.modThread (t a) (g a)) s = { s with threads := ths } :=
  List.foldlRecOn (motive := fun v : State => ∃ ths, v = { s with threads := ths }) as _ ⟨s.threads, rfl⟩ fun v hv a _ => by
    obtain ⟨ths, rfl⟩ := hv
    exact ⟨_, rfl⟩

/-- A result that an instruction opened waits on with its whole window once the floe has gone on (R63). -/
theorem opened_completed {v : State} {y : Floe} {p : Pend} (hs : v.still = true) (hv : v.floe? c.k = some { y with pend := y.pend ++ [p] })
    (hp : f.npend ≤ p.n) : ∃ z, (v.completed c.k f).floe? c.k = some z ∧ p ∈ z.pend := by
  obtain ⟨z, hz, -, -, -, -, -, -, -, -, -, -, hpend⟩ := completed_floe (f := f) hs hv
  refine ⟨z, hz, ?_⟩
  rw [hpend, List.map_append]
  exact List.mem_append_right _ (List.mem_map.2 ⟨p, List.mem_singleton_self p, if_neg (by omega)⟩)

/-! ### The loads -/

/-- What a load leaves where the machine is calm: its requests stand at the network, and its result waits in the floe. -/
theorem load_asks (h : issuing i s = some (f, c)) (hc : s.calm = true) {qs : List GReq} {write data : Bool} {m : Mark} {as : List GAcc}
    (hh : c.checkHome qs n write data m = .ok (u, as)) {rs : List Req} {la : Nat} {p : Pend} {x : State} {ths : Tab Thread}
    (hx : x = { addReqs rs (c.await u la p).2 with threads := ths }) :
    (∀ r ∈ rs, ∃ id g, look (x.completed c.k f).net id = some { r with group := g }) ∧
    ∃ y, (x.completed c.k f).floe? c.k = some y ∧ { p with n := c.f.npend, left := la, coord := c.f.coord } ∈ y.pend := by
  have hf : u.floe? c.k = some c.f := by rw [State.floe?, (checkHome_keeps hh).1]; exact (issuing_floe_ctx h).1
  rw [await_eq hf, addReqs_eq] at hx
  have hu : u.still = true := checkHome_still hh (quiet_of h hc).still
  have hs : x.still = true := by rw [hx]; exact hu
  refine ⟨fun r hr => ?_, ?_⟩
  · obtain ⟨id, hid⟩ := look_addReqs hr (u.setFloe c.k { c.f with
      npend := c.f.npend + 1, pend := c.f.pend ++ [{ p with n := c.f.npend, left := la, coord := c.f.coord }] })
    refine ⟨id, u.nextId, ?_⟩
    rw [completed_sameRest (k := c.k) (f := f) hs, hx]
    exact hid
  · have hv : x.floe? c.k = some { c.f with npend := c.f.npend + 1, pend := c.f.pend ++ [{ p with n := c.f.npend, left := la, coord := c.f.coord }] } := by
      rw [hx]
      exact look_put_same _ _ _
    exact opened_completed (y := { c.f with npend := c.f.npend + 1 }) hs hv (issuing_npend h).ge

end Sys2Proof.Machine
end

section
/-! PROOF of the obligation on the global loads. -/

namespace Sys2Proof.Machine

/-- Settles O33: checks 1 to 3 come first; where they and check 4 find nothing, the requests and the result are those of `load_checked`. -/
theorem globalLoads : Obligations.GlobalLoads := by
  refine ⟨globReqs_eq, fun o => ⟨load_boundsTraps false (fun _ => rfl) rfl, load_boundsTraps true (fun _ => rfl) rfl, ldtag_boundsTraps o⟩, ?idle, ?load,
    ?ldtag⟩
  case idle =>
    intro o i hi s f c h ha
    simp only [List.mem_cons, List.not_mem_nil, or_false] at hi
    obtain rfl | rfl | rfl := hi <;> exact issue_done h (preTrap_none rfl c) (if_pos ha) fun _ => rfl
  case load =>
    intro o b s f c u as h ha m w q hb hh hr p v x
    have hbody : c.load o b = .done x := (load_checked ha hb hh).trans (ordered_ready hr _)
    have hexec : exec (if b then .lr o else .ld o) s = issue (if b then .lr o else .ld o) s fun c => c.load o b := by cases b <;> rfl
    have hrow : algRow (if b then .lr o else .ld o) = none := by cases b <;> rfl
    refine ⟨exec_completes hexec hrow h ha hbody, fun _ hc h0 => ?_⟩
    have hq : q.1 = u := by simp only [q, Said.after, h0, Bool.false_eq_true, if_false]
    have hf : u.floe? c.k = some c.f := by rw [State.floe?, (checkHome_keeps hh).1]; exact (issuing_floe_ctx h).1
    have hx : ∃ ths, x = { v with threads := ths } := by
      cases b with
      | false => exact ⟨v.threads, rfl⟩
      | true => exact modThreads_eq _ _ as v
    have hp : p.1 = c.f.npend := by
      show (c.await q.1 _ _).1 = _
      rw [hq, await_eq hf]
    obtain ⟨ths, hx⟩ := hx
    obtain ⟨hasked, y, hy, hmem⟩ := load_asks h hc hh (rs := as.map fun a => { w.req a (Said.size o) (if b then .lr else .load) m with
        signed := some o.ty, pend := some p.1, fwd := forwarded c.f.log a.lane a.place (Said.size o) }) (la := o.h.la.toNat)
      (p := { n := 0, reg := o.d.toNat, cnt := o.ty.regs, need := c.act, load := true, acq := memAcq o }) (x := x) (ths := ths)
      (hx.trans (by rw [← hq]; rfl))
    refine ⟨fun a ha => ?_, y, hy, _, hmem, hp.symm, rfl, rfl, rfl⟩
    obtain ⟨id, g, hid⟩ := hasked _ (List.mem_map.2 ⟨a, ha, rfl⟩)
    exact ⟨id, _, hid, rfl, rfl, rfl, rfl, rfl, rfl, rfl, rfl⟩
  case ldtag =>
    intro o s f c u as h ha hb hh w p
    refine exec_completes (i := .ldtag o) rfl rfl h ha ?_
    simp only [if_neg ha, hb, hh]
    rfl

end Sys2Proof.Machine
end

section
/-! SUPPORT. What a commit leaves (R181, R193), and fences and streams (R183, R184, R191 to R195). -/

namespace Sys2Proof.Machine

variable {s t u : State} {f : Floe} {c : Ctx} {k : Nat}

/-! ### A commit's entries leave floes, blocks, grids and context registers -/

/-- Floes, blocks, grids and context registers stand as they did. -/
structure State.Standing (s t : State) : Prop where
  floes : t.floes = s.floes
  blocks : t.blocks = s.blocks
  grids : t.grids = s.grids
  ctxRegs : t.ctxRegs = s.ctxRegs

theorem State.Standing.refl (s : State) : s.Standing s := ⟨rfl, rfl, rfl, rfl⟩

theorem State.Standing.trans (h : s.Standing t) (h' : t.Standing u) : s.Standing u :=
  ⟨h'.floes.trans h.floes, h'.blocks.trans h.blocks, h'.grids.trans h.grids, h'.ctxRegs.trans h.ctxRegs⟩

theorem standing_addReq (s : State) (r : Req) : s.Standing (s.addReq r) := ⟨rfl, rfl, rfl, rfl⟩

theorem standing_addReqs (rs : List Req) (s : State) : s.Standing (addReqs rs s) := by
  rw [addReqs_eq]
  exact ⟨rfl, rfl, rfl, rfl⟩

theorem standing_addDue (s : State) (bk code addr coord : Nat) : s.Standing (s.addDue bk code addr coord) := by
  unfold State.addDue
  split
  · exact ⟨rfl, rfl, rfl, rfl⟩
  · exact .refl s

theorem standing_addRfold (s : State) (core n : Nat) : s.Standing (s.addRfold core n) := by
  unfold State.addRfold
  split
  · exact .refl s
  · exact ⟨rfl, rfl, rfl, rfl⟩

theorem standing_bumpRegion (s : State) (k : Nat) : s.Standing (s.bumpRegion k) := by
  unfold State.bumpRegion
  extract_lets r v
  have hv : s.Standing v := ⟨rfl, rfl, rfl, rfl⟩
  split
  · exact .refl s
  · split
    · exact hv.trans (standing_addRfold v _ 1)
    · exact hv

theorem standing_handElems (k : Nat) (f : Floe) (hi : Nat) (coord : Word) (g turn : Nat) (es : List Elem) (n : Nat) (s : State) :
    s.Standing (State.handElems k f hi coord g turn es n s).2.1 := by
  induction es generalizing g turn n s with
  | nil => exact .refl s
  | cons e es ih =>
    unfold State.handElems
    cases s.element k f hi coord e with
    | go r => exact (standing_addReq s _).trans (ih _ _ _ _)
    | fault va x => exact .refl s
    | bad code addr => exact standing_addDue s _ _ _ _

theorem standing_handEntry (s : State) (k : Nat) (f : Floe) (e : LogEnt) : s.Standing (s.handEntry k f e).1 := by
  cases e with
  | store accs => exact standing_addReqs _ s
  | red accs op ty => exact standing_addReqs _ s
  | stream p hi w accs => exact standing_handElems k f _ _ _ _ _ _ s
  | copy id => exact ⟨rfl, rfl, rfl, rfl⟩
  | wback id =>
    let v : State := { s with wbs := match look s.wbs id with
      | some c => put s.wbs id { c with begun := true, region := s.region k }
      | none => s.wbs }
    have hv : s.Standing v := ⟨rfl, rfl, rfl, rfl⟩
    exact hv.trans (standing_bumpRegion v k)
  | accst core first cnt n ctx ptr va w next => exact standing_handElems k f _ _ _ _ _ _ s

/-- Handing the entries on: nothing else changes, and none is left when none is held back. -/
theorem handAll_leaves (k : Nat) (f : Floe) (es : List LogEnt) (s : State) :
    s.Standing (handAll k f es s).1 ∧ ((handAll k f es s).2.2 = none → (handAll k f es s).2.1 = []) := by
  induction es generalizing s with
  | nil => exact ⟨.refl s, fun _ => rfl⟩
  | cons e es ih =>
    have he := standing_handEntry s k f e
    unfold handAll
    split
    · next s' heq =>
      rw [heq] at he
      exact ⟨he.trans (ih s').1, (ih s').2⟩
    · next s' e' va heq =>
      rw [heq] at he
      obtain ⟨h1, h2⟩ := ih (s'.addDue (f.bkey k) 0x8008 va (e'.coordOr f.coord).toNat)
      exact ⟨(he.trans (standing_addDue s' _ _ _ _)).trans h1, h2⟩
    · next s' e' r _ heq =>
      rw [heq] at he
      exact ⟨he, nofun⟩

/-! ### A commit -/

/-- An entry of a stream that holds no element. -/
def LogEnt.bare (e : LogEnt) : Prop := ∃ n hi w, e = .stream n hi w []

theorem keptEntries_bare {log left : List LogEnt} : ∀ e ∈ keptEntries log left, e.bare := by
  intro e he
  obtain ⟨x, -, hx⟩ := List.mem_filterMap.1 he
  split at hx
  · split at hx
    · cases hx
    · exact ⟨_, _, _, (Option.some.inj hx).symm⟩
  · cases hx

/-- A commit changes a floe's log alone; where every entry has begun, only empty entries of streams are left (R181, R193). -/
theorem commit_floe (hf : s.floe? k = some f) : ∃ log, (s.commit k).1.floe? k = some { f with log := log } ∧
    ((s.commit k).2 = none → ∀ e ∈ log, e.bare) := by
  have hb : (s.beginCommit (f.bkey k)).floes = s.floes := by
    unfold State.beginCommit
    split
    · rfl
    · simp
  obtain ⟨hs, hl⟩ := handAll_leaves k f f.log (s.beginCommit (f.bkey k))
  have hc : s.commit k = ((handAll k f f.log (s.beginCommit (f.bkey k))).1.modFloe k fun x => { x with
      log := (handAll k f f.log (s.beginCommit (f.bkey k))).2.1 ++ keptEntries f.log (handAll k f f.log (s.beginCommit (f.bkey k))).2.1 },
      (handAll k f f.log (s.beginCommit (f.bkey k))).2.2) := by
    unfold State.commit
    rw [hf]
  rw [hc]
  refine ⟨_, modFloe_some ?_ _, fun hn => ?_⟩
  · rw [State.floe?, hs.floes, hb]
    exact hf
  · rw [hl hn]
    exact keptEntries_bare

theorem commitThen_whole (hc : (u.commit c.k).2 = none) (go : State → Res) : c.commitThen u go = go (u.commit c.k).1 := by
  simp only [Ctx.commitThen, hc]

/-! ### Fences and `commit` -/

theorem fence_idle {h : Head} {sc : Scope} {ord : Order} (hi : issuing (.fence h sc ord) s = some (f, c)) (ha : c.act = []) :
    exec (.fence h sc ord) s = .next (c.s.completed c.k f) := exec_idle (i := .fence h sc ord) rfl rfl hi (if_pos ha)

/-- A fence that is no release merges what its threads have seen, once earlier loads are back (R184, R274). -/
theorem fence_acquires {h : Head} {sc : Scope} {ord : Order} (hi : issuing (.fence h sc ord) s = some (f, c)) (ha : c.act ≠ [])
    (hr : isRel ord = false) (hl : isAcq ord = true → c.f.loadsOut = false) :
    exec (.fence h sc ord) s = .next ((c.acquireSeen c.s sc).completed c.k f) := by
  refine exec_completes (i := .fence h sc ord) rfl rfl hi ha ?_
  rw [if_neg ha, if_neg fun hx => by simp [hl hx.1] at hx, if_neg (by simp [hr])]

/-- A release fence gives its record and scope to its threads once the floe's earlier accesses are done (R184, R274). -/
theorem fence_releases {h : Head} {sc : Scope} {ord : Order} (hi : issuing (.fence h sc ord) s = some (f, c)) (ha : c.act ≠ [])
    (hr : isRel ord = true) (hready : Said.ready c c.s true true) :
    let p := (c.s.commit c.k).1.publish c.k
    let rel := c.act.foldl (fun s l => s.modThread (c.t l) fun th => { th with rel := th.rel.filter (·.2 ≠ sc) ++ [(p.1, sc)] }) p.2
    exec (.fence h sc ord) s = .next ((if isAcq ord then c.acquireSeen rel sc else rel).completed c.k f) := by
  intro p rel
  obtain ⟨hl, hc, hw⟩ := hready.1 rfl
  refine exec_completes (i := .fence h sc ord) rfl rfl hi ha ?_
  rw [if_neg ha, if_neg fun hx => by simp [hl] at hx, if_pos hr, releaseThen_ready hl hc hw]

theorem commit_commits (hi : issuing .commit s = some (f, c)) (ha : c.act ≠ []) (hc : (c.s.commit c.k).2 = none) :
    exec .commit s = .next ((c.s.commit c.k).1.completed c.k f) := by
  refine exec_completes (i := .commit) rfl rfl hi ha ?_
  rw [if_neg ha, commitThen_whole hc]

/-! ### Streams -/

section
variable {o : SattOps} (hi : issuing (.satt o) s = some (f, c)) (ha : c.act ≠ [])
include hi ha

/-- The checks that come before the descriptor is read (R191, R195). -/
theorem satt_traps :
    let va := (c.s.vreg (c.t c.low) o.a.toNat).toNat
    (va % 32 ≠ 0 → exec (.satt o) s = .next (s.trapped c.k 0x0010 c.act 0)) ∧
    (va % 32 = 0 → (look c.f.ports (o.port.toNat - 248)).isSome → exec (.satt o) s = .next (s.trapped c.k 0x0014 c.act 1)) := by
  refine ⟨fun h1 => exec_traps (i := .satt o) rfl rfl hi ha ?_, fun h1 h2 => exec_traps (i := .satt o) rfl rfl hi ha ?_⟩
  · rw [if_neg ha, if_pos h1]
  · have hport : (look c.f.ports (portNo o.port)).isSome := h2
    rw [if_neg ha, if_neg (not_not.2 h1), if_pos hport]

/-- A stream's descriptor is well-formed and in range: the stream stands at its port, and a global store stream has an entry in the log
(R191, R192). -/
theorem satt_attaches {d : Nat} :
    let va := (c.s.vreg (c.t c.low) o.a.toNat).toNat
    let base : Int := if bits d 6 4 = 0 then (bits d 239 192 : Nat) else (bits d 223 192 : Nat)
    let st := streamOf d (c.act.map fun l => (l, base + (if o.ofs then (c.s.vreg (c.t l) o.b.toNat).toInt else 0)))
    va % 32 = 0 → look c.f.ports (o.port.toNat - 248) = none → c.readDesc o.space va 32 32 0 = .ok (u, d) → streamOk d = true →
    c.streamBad st = none → (st.store = true → st.space = .glob → c.f.log.length < 256) →
    let v := u.modFloe c.k fun f => { f with ports := put f.ports (o.port.toNat - 248) st }
    exec (.satt o) s = .next ((if st.store = true ∧ st.space = .glob then v.modFloe c.k fun f => { f with log := f.log ++ [.stream (o.port.toNat - 248)
      (st.tag * 2 ^ 12 + st.bidx) c.f.coord []] } else v).completed c.k f) := by
  intro va base st hva hport hd hok hbad hroom v
  refine exec_completes (i := .satt o) rfl rfl hi ha ?_
  have hst : streamOf d (c.act.map fun l => (l, (if bits d 6 4 = 0 then (bits d (192 + 47) 192 : Nat) else (bits d (192 + 31) 192 : Nat) : Int) +
      (if o.ofs then sext (c.s.vreg (c.t l) o.b.toNat).toNat 32 else 0))) = st := by
    simp only [sext_word]
    rfl
  have hfree : look c.f.ports (portNo o.port) = none := hport
  have hread : c.readDesc o.space (c.s.vreg (c.t c.low) o.a.toNat).toNat 32 32 0 = .ok (u, d) := hd
  rw [if_neg ha, if_neg (not_not.2 hva), hfree]
  simp only [hread, hok, Option.isSome_none, Bool.not_true, Bool.false_eq_true, if_false, hst, hbad]
  split
  · next hg => exact logEntry_room (hroom hg.1 hg.2)
  · rfl

end

section
variable {port : BitVec 8} (hi : issuing (.sdet port) s = some (f, c))
include hi

theorem sdet_idle (h : c.act = [] ∨ look c.f.ports (port.toNat - 248) = none) : exec (.sdet port) s = .next (c.s.completed c.k f) := by
  refine exec_idle (i := .sdet port) rfl rfl hi ?_
  rcases h with ha | hp
  · rw [if_pos ha]
  · have hfree : look c.f.ports (portNo port) = none := hp
    simp only [hfree, ite_self]

/-- A load stream is detached; a store stream is once its results are out and its log has begun whole (R194). -/
theorem sdet_detaches (ha : c.act ≠ []) {st : Stream} (hp : look c.f.ports (port.toNat - 248) = some st) :
    let off (u : State) : State := u.modFloe c.k fun f => { f with
      ports := del f.ports (port.toNat - 248)
      log := f.log.filter fun e => match e with
        | .stream q _ _ _ => q != port.toNat - 248
        | _ => true }
    (st.store = false → exec (.sdet port) s = .next ((off c.s).completed c.k f)) ∧
    (st.store = true → c.f.pend.all (fun p => p.reg != port.toNat) = true → (c.s.commit c.k).2 = none →
      exec (.sdet port) s = .next ((off (c.s.commit c.k).1).completed c.k f)) := by
  intro off
  have hport : look c.f.ports (portNo port) = some st := hp
  refine ⟨fun hs => exec_completes (i := .sdet port) rfl rfl hi ha ?_, fun hs hout hc => exec_completes (i := .sdet port) rfl rfl hi ha ?_⟩
  · simp only [if_neg ha, hport, hs, Bool.false_eq_true, if_false]
    rfl
  · have hno : ¬ c.f.pend.any (fun p => p.reg == port.toNat) = true := by
      rw [List.any_eq_true]
      rintro ⟨p, hm, hreg⟩
      have := List.all_eq_true.1 hout p hm
      simp [eq_of_beq hreg] at this
    simp only [if_neg ha, hport, hs, if_true, if_neg hno, commitThen_whole hc]
    rfl

end

end Sys2Proof.Machine
end

section
/-! PROOF of the obligation on fences and streams. -/

namespace Sys2Proof.Machine

/-- Settles O36, instruction by instruction. -/
theorem fencesAndStreams : Obligations.FencesAndStreams := by
  refine ⟨fun h sc ord s f c hi => ⟨fence_idle hi, fence_acquires hi, fence_releases hi⟩, fun s f c hi => ⟨fun ha => ?_, fun ha hc => ?_⟩,
    fun o s f c u d hi => ⟨fun ha => ?_, fun ha => (satt_traps hi ha).1, fun ha => (satt_traps hi ha).2, fun ha => satt_attaches hi ha⟩,
    fun port s f c hi => ⟨sdet_idle hi, fun st ha hp => sdet_detaches hi ha hp⟩⟩
  · exact exec_idle (i := .commit) rfl rfl hi (if_pos ha)
  · obtain ⟨log, hy, hlog⟩ := commit_floe (issuing_floe_ctx hi).1
    exact ⟨commit_commits hi ha hc, _, hy, hlog hc⟩
  · exact exec_idle (i := .satt o) rfl rfl hi (if_pos ha)

end Sys2Proof.Machine
end

section
/-! SUPPORT. What a read teaches, what a write at a home and an answer change, and a request performed at its home (R178 to R190, R269, R274). -/

namespace Sys2Proof.Machine

variable {s t u : State} {f : Floe} {c : Ctx} {k r : Nat} {q : Req}

/-! ### A read changes what floes know and what threads have seen (R274, R287) -/

/-- `t` is `s` but for what its floes know, what its threads have seen, and how many records folded. -/
structure State.Learned (s t : State) : Prop where
  rest : t = { s with floes := t.floes, threads := t.threads, rfold := t.rfold }
  floe : ∀ k f, s.floe? k = some f → ∃ g, t.floe? k = some g ∧ g.fid = f.fid ∧ g.pend = f.pend ∧ g.npend = f.npend

theorem State.Learned.refl (s : State) : s.Learned s := ⟨rfl, fun _ f h => ⟨f, h, rfl, rfl, rfl⟩⟩

theorem State.Learned.trans (h : s.Learned t) (h' : t.Learned u) : s.Learned u := by
  refine ⟨h'.rest.trans (congrArg (fun x : State => { x with floes := u.floes, threads := u.threads, rfold := u.rfold }) h.rest), fun k f hf => ?_⟩
  obtain ⟨g, hg, h1, h2, h3⟩ := h.floe k f hf
  obtain ⟨x, hx, h4, h5, h6⟩ := h'.floe k g hg
  exact ⟨x, hx, h4.trans h1, h5.trans h2, h6.trans h3⟩

theorem learned_foldl {α : Type} {g : State → α → State} (hg : ∀ (s : State) a, s.Learned (g s a)) (as : List α) (s : State) : s.Learned (as.foldl g s) :=
  List.foldlRecOn (motive := fun t => s.Learned t) as g (.refl s) fun t ht a _ => ht.trans (hg t a)

theorem learned_setFloe {g : Floe} (hf : s.floe? k = some f) (h : g.fid = f.fid ∧ g.pend = f.pend ∧ g.npend = f.npend) : s.Learned (s.setFloe k g) := by
  refine ⟨rfl, fun j x hx => ?_⟩
  rw [State.floe?_setFloe]
  split
  · next hj =>
    subst hj
    obtain rfl : f = x := Option.some.inj (hf.symm.trans hx)
    exact ⟨g, rfl, h⟩
  · exact ⟨x, hx, rfl, rfl, rfl⟩

theorem learned_modThread (s : State) (i : Nat) (g : Thread → Thread) : s.Learned (s.modThread i g) := ⟨rfl, fun _ f h => ⟨f, h, rfl, rfl, rfl⟩⟩

theorem learned_addRfold (s : State) (core n : Nat) : s.Learned (s.addRfold core n) := by
  unfold State.addRfold
  split
  · exact .refl s
  · exact ⟨rfl, fun _ f h => ⟨f, h, rfl, rfl, rfl⟩⟩

theorem learned_mergeRec (s : State) (k r : Nat) : s.Learned (s.mergeRec k r) := by
  unfold State.mergeRec
  split
  · unfold State.mergeInto
    split
    · exact .refl s
    · next f hf => exact (learned_setFloe (g := (f.learn _ _).1) hf ⟨rfl, rfl, rfl⟩).trans (learned_addRfold _ _ _)
  · refine State.Learned.trans ?_ (learned_addRfold _ _ _)
    unfold State.modFloe
    split
    · next f hf => exact learned_setFloe hf ⟨rfl, rfl, rfl⟩
    · exact .refl s

theorem learned_mergeRecs (s : State) (k : Nat) (rs : List Nat) : s.Learned (s.mergeRecs k rs) := learned_foldl (fun s r => learned_mergeRec s k r) rs s

theorem learned_readSync (s : State) (k : Nat) (f : Floe) (lane : Nat) (l : Space) (sys : Bool) (a n : Nat) (acq : Option Scope) :
    s.Learned (s.readSync k f lane l sys a n acq) := by
  unfold State.readSync
  extract_lets me rs now v
  split
  · exact .refl s
  · have hv : s.Learned v := learned_mergeRecs s k _
    split
    · exact hv
    · exact hv.trans (learned_modThread v _ _)
    · exact hv

theorem learned_readAt (s : State) (q : Req) : s.Learned (s.readAt q) := by
  unfold State.readAt
  split
  · exact .refl s
  · dsimp only
    split
    · exact learned_readSync s _ _ _ _ _ _ _ _
    · exact .refl s

/-! ### Bytes written at a home -/

/-- The bytes of a number written at a place, and those around it. -/
theorem getB_setBs_leBytes (m : List Host.Cell) (p v n a : Nat) : getB (setBs m p (leBytes v n)) a =
    if p ≤ a ∧ a < p + n then BitVec.ofNat 8 (v / 2 ^ (8 * (a - p))) else getB m a := by
  have h := (memoryReadsWhatWasWritten m p).1 (leBytes v n) a
  rw [leBytes_length] at h
  rw [h]
  split
  · next hr =>
    rw [leBytes, List.getD_eq_getElem _ _ (by simp; omega)]
    simp
  · rfl

/-- A table whose values change has an entry under the keys it had. -/
theorem look_map_key {α : Type} {t : Tab α} {h : Nat × α → Nat × α} (hk : ∀ e, (h e).1 = e.1) {i : Nat} {x : α} (hx : look t i = some x) :
    look (t.map h) i = some (h (i, x)).2 := by
  have : t.map h = t.map fun e => (e.1, (h e).2) := List.map_congr_left fun e _ => Prod.ext (hk e) rfl
  rw [this]
  exact look_map_some hx

theorem look_breakNet {ts : Tab Req} {x : Req} (h : look ts r = some x) (sys : Bool) (lo hi : Nat) : ∃ y, look (breakNet ts sys lo hi) r = some y := by
  unfold breakNet
  split
  · exact ⟨x, h⟩
  · refine ⟨_, look_map_key (fun e => ?_) h⟩
    split
    · split <;> rfl
    · rfl

/-- A function of a table's values that a change of its entries keeps is the same of what each key looks up. -/
theorem lookD_map_keeps {α β : Type} {h : Nat × α → Nat × α} {g : α → β} (hh : ∀ e, (h e).1 = e.1 ∧ g (h e).2 = g e.2) (d : α) (t : Tab α) (i : Nat) :
    g (lookD d (t.map h) i) = g (lookD d t i) := by
  unfold lookD
  induction t with
  | nil => rfl
  | cons e t ih =>
    obtain ⟨hk, hg⟩ := hh e
    rw [List.map_cons, look, look, hk]
    split
    · exact hg
    · exact ih

/-- A write that breaks reservations moves no thread's window (R188, R241). -/
theorem breakResv_wbase (ts : Tab Thread) (sys : Bool) (lo hi k : Nat) :
    (lookD {} (breakResv ts sys lo hi) k : Thread).wbase = (lookD {} ts k : Thread).wbase := by
  refine lookD_map_keeps (g := Thread.wbase) (fun e => ?_) {} ts k
  split
  · split <;> exact ⟨rfl, rfl⟩
  · exact ⟨rfl, rfl⟩

/-- What a write at the home leaves besides the bytes: floes, blocks, grids, context registers, every register of a thread, and a request under
every serial that had one. -/
structure State.Wrote (s t : State) (a v n : Nat) : Prop extends s.Standing t where
  mem : t.mem = setBs s.mem a (leBytes v n)
  vreg : ∀ k n, t.vreg k n = s.vreg k n
  net : ∀ r x, look s.net r = some x → ∃ y, look t.net r = some y

theorem wrote_writeN (s : State) {p : Place} (hp : p.sys = false) (n v : Nat) : s.Wrote (s.writeN p n v) p.pa v n := by
  unfold State.writeN State.writePlace
  extract_lets m ts u
  have hm : m = n := leBytes_length v n
  by_cases hn : m = 0
  · rw [if_pos hn]
    exact ⟨.refl s, by rw [← hm, hn]; rfl, fun _ _ => rfl, fun r x h => ⟨x, h⟩⟩
  · rw [if_neg hn, if_neg (by rw [hp]; exact Bool.false_ne_true)]
    refine ⟨⟨by simp [u], by simp [u], by simp [u], by simp [u]⟩, by simp [u], fun k j => ?_, fun r x h => ?_⟩
    · refine State.vreg_congr (by simp [u]) k j ?_
      unfold State.thread
      rw [State.takeInjection_threads]
      exact breakResv_wbase s.threads _ _ _ k
    · rw [State.takeInjection_net]
      exact look_breakNet h _ _ _

theorem syncWrite_eq (s : State) (l : Space) (sys : Bool) (a n : Nat) (m : Mark) (w : Who) : ∃ x, s.syncWrite l sys a n m w = { s with syncs := x } := by
  unfold State.syncWrite
  dsimp only
  split
  · exact ⟨s.syncs, rfl⟩
  · exact ⟨_, rfl⟩

/-- A write at its home, on a page that is not watched and outside device-side aliases. -/
theorem wrote_homeWrite (hp : q.place.sys = false) (ha : s.aliasOf q.place = none) (hw : q.watched = false) (v : Nat) :
    s.Wrote (s.homeWrite q v) q.place.pa v q.n := by
  unfold State.homeWrite
  rw [ha, if_neg (by simp), hw]
  dsimp only
  rw [if_neg Bool.false_ne_true]
  obtain ⟨x, hx⟩ := syncWrite_eq (s.writeN q.place q.n v) .glob q.place.sys q.place.pa q.n q.mark q.who
  rw [hx]
  obtain ⟨⟨h1, h2, h3, h4⟩, h5, h6, h7⟩ := wrote_writeN s hp q.n v
  exact ⟨⟨h1, h2, h3, h4⟩, h5, h6, h7⟩

/-! ### Answers -/

theorem modFid_eq (s : State) (k fid : Nat) (g : Floe → Floe) : ∃ x y, s.modFid k fid g = { s with floes := x, saves := y } := by
  unfold State.modFid
  split
  · unfold State.modFloe
    split
    · exact ⟨_, s.saves, rfl⟩
    · exact ⟨s.floes, s.saves, rfl⟩
  · exact ⟨s.floes, _, rfl⟩
  · exact ⟨s.floes, s.saves, rfl⟩

/-- A floe that stands in the slot it issued from is changed there. -/
theorem modFid_floe (hf : s.floe? k = some f) (g : Floe → Floe) : (s.modFid k f.fid g).floe? k = some (g f) := by
  have hw : s.whereIs k f.fid = .slot k := if_pos (by rw [hf]; rfl)
  unfold State.modFid
  rw [hw]
  exact modFloe_some hf g

theorem answer_eq (s : State) (q : Req) (ws : List Word) (b : Option Bool) : ∃ x y, s.answer q ws b = { s with floes := x, saves := y } := by
  unfold State.answer
  split
  · exact modFid_eq s _ _ _
  · exact ⟨s.floes, s.saves, rfl⟩

/-- A request's answer comes to the result that awaits it, in its lane. -/
theorem answer_floe {n : Nat} (hf : s.floe? q.floe = some f) (hid : f.fid = q.fid) (hn : q.pend = some n) (ws : List Word) (b : Option Bool) :
    (s.answer q ws b).floe? q.floe = some { f with pend := f.pend.map fun p => if p.n = n then p.arrive q.lane ws b else p } := by
  unfold State.answer State.arrivePend
  rw [hn, ← hid]
  exact modFid_floe hf _

/-- `lr` makes reservations live; a floe's results stand as they did (R188). -/
theorem lrLive_keeps (s : State) (q : Req) : (s.lrLive q).mem = s.mem ∧
    ∀ f, s.floe? q.floe = some f → f.fid = q.fid → ∃ g, (s.lrLive q).floe? q.floe = some g ∧ g.pend = f.pend := by
  unfold State.lrLive
  extract_lets live v
  have hv : ∀ f, s.floe? q.floe = some f → f.fid = q.fid → ∃ g, v.floe? q.floe = some g ∧ g.pend = f.pend := fun f h _ => ⟨f, h, rfl⟩
  split
  · exact ⟨rfl, hv⟩
  · split
    · exact ⟨rfl, hv⟩
    · split
      · split
        · refine ⟨?_, fun f h hid => ?_⟩
          · obtain ⟨x, y, he⟩ := modFid_eq (v.modThread _ fun th => { th with resv := some (live _) }) q.floe q.fid _
            rw [he]
            rfl
          · rw [← hid]
            exact ⟨_, modFid_floe (s := v.modThread _ _) h _, rfl⟩
        · exact ⟨rfl, hv⟩
      · exact ⟨rfl, hv⟩

/-! ### Replay and its log where no context has a log (R377) -/

theorem replValue_off (h : ∀ ctx, s.ctxReg ctx 0x40 = 0) (k blkr kind lane : Nat) (coord : Word) (v : Nat) :
    s.replValue k blkr kind lane coord v = s := if_pos (h _)

theorem replCombine_off (h : ∀ ctx, s.ctxReg ctx 0x40 = 0) (x : RRec) : s.replCombine x = s := by
  have hm : s.replMode x.ctx = 0 := if_pos (h _)
  unfold State.replCombine State.replLog
  rw [hm, if_neg (by decide), if_pos (h _)]

theorem acqValue_off (h : ∀ ctx, s.ctxReg ctx 0x40 = 0) (q : Req) (v : Nat) : s.acqValue q v = s := by
  unfold State.acqValue
  split
  · split
    · exact replValue_off h _ _ _ _ _ _
    · rfl
  · rfl

theorem ctxReg_congr (h : t.ctxRegs = s.ctxRegs) (ctx o : Nat) : t.ctxReg ctx o = s.ctxReg ctx o := by unfold State.ctxReg; rw [h]

/-! ### A request that has been performed -/

theorem performed_gone (s : State) (r : Nat) : look (s.performed r true).net r = none := look_del_same _ _

theorem performed_stays {x : Req} (h : look s.net r = some x) : ∃ y, look (s.performed r false).net r = some y ∧ y.performed = true := by
  unfold State.performed
  rw [h]
  exact ⟨_, look_put_same _ _ _, rfl⟩

/-! ### What each kind of request does at its home -/

section
variable (hr : ∀ ctx, s.ctxReg ctx 0x40 = 0)
include hr

theorem readAt_off (q : Req) : ∀ ctx, (s.readAt q).ctxReg ctx 0x40 = 0 := fun ctx =>
  (ctxReg_congr (congrArg State.ctxRegs (learned_readAt s q).rest) ctx _).trans (hr ctx)

theorem answer_off (q : Req) (ws : List Word) (b : Option Bool) : ∀ ctx, (s.answer q ws b).ctxReg ctx 0x40 = 0 := fun ctx => by
  obtain ⟨x, y, h⟩ := answer_eq s q ws b
  rw [h]
  exact hr ctx

theorem perform_load (hk : q.kind = .load) :
    s.perform r q = ((s.readAt q).answer q (loadWords (q.signed.getD .z32) (s.homeRead q)) none).performed r true := by
  unfold State.perform
  rw [hk]
  dsimp only
  rw [acqValue_off (readAt_off hr q)]

theorem perform_lr (hk : q.kind = .lr) :
    s.perform r q = (((s.readAt q).answer q (loadWords (q.signed.getD .z32) (s.homeRead q)) none).lrLive q).performed r true := by
  unfold State.perform
  rw [hk]
  dsimp only
  rw [acqValue_off (readAt_off hr q)]

end

theorem perform_store (hk : q.kind = .store) : s.perform r q = (s.homeWrite q q.data).performed r false := by
  unfold State.perform
  rw [hk]

theorem perform_ldtag (hk : q.kind = .ldtag) : s.perform r q =
    (s.answer q [BitVec.ofNat 32 (if q.data = 1 then (lookD 0 s.tags (q.place.pa / 32)).toNat else 0)] none).performed r true := by
  unfold State.perform
  rw [hk]

theorem perform_stag (hk : q.kind = .stag) : (s.perform r q).tags = putD 0 s.tags (q.place.pa / 32) (BitVec.ofNat 4 q.data) := by
  unfold State.perform
  rw [hk]
  exact State.takeInjection_tags _ _ _ _ _

section
variable (hr : ∀ ctx, s.ctxReg ctx 0x40 = 0) (hp : q.place.sys = false) (ha : s.aliasOf q.place = none) (hw : q.watched = false)
include hr hp ha hw

/-- An atomic: what its operation makes of the old value stands at its address, and the old value is its answer (R185, R186). -/
theorem perform_atom {op ty : Nat} {ret : Bool} (hk : q.kind = .atom op ty ret) : ∃ v,
    (s.readAt q).Wrote v q.place.pa (atomNew op ty (getN s.mem q.place.pa q.n) q.data q.cmp) q.n ∧
    s.perform r q = if ret then (v.answer q (atomWords ty (getN s.mem q.place.pa q.n)) none).performed r true else v.performed r false := by
  have hold : s.readPlace q.place q.n = getN s.mem q.place.pa q.n := if_neg (by rw [hp]; exact Bool.false_ne_true)
  have hal : (s.readAt q).aliasOf q.place = none := by rw [(learned_readAt s q).rest]; exact ha
  have hv := wrote_homeWrite hp hal hw (atomNew op ty (getN s.mem q.place.pa q.n) q.data q.cmp)
  have hoff : ∀ ctx, ((s.readAt q).homeWrite q (atomNew op ty (getN s.mem q.place.pa q.n) q.data q.cmp)).ctxReg ctx 0x40 = 0 := fun ctx =>
    (ctxReg_congr hv.ctxRegs ctx _).trans (readAt_off hr q ctx)
  refine ⟨_, hv, ?_⟩
  unfold State.perform
  rw [hk, hold]
  dsimp only
  rw [replValue_off (answer_off hoff q _ _), replCombine_off hoff, ite_self]

/-- `sc` writes where its reservation holds, and answers whether it did (R188). -/
theorem perform_sc (hk : q.kind = .sc) : ∃ v, (if q.holds then s.Wrote v q.place.pa q.data q.n else v = s) ∧
    s.perform r q = (v.answer q [] (some q.holds)).performed r true := by
  have hv := wrote_homeWrite hp ha hw q.data
  have hoff : ∀ ctx, (if q.holds then s.homeWrite q q.data else s).ctxReg ctx 0x40 = 0 := fun ctx => by
    split
    · exact (ctxReg_congr hv.ctxRegs ctx _).trans (hr ctx)
    · exact hr ctx
  refine ⟨if q.holds then s.homeWrite q q.data else s, ?_, ?_⟩
  · split
    · exact hv
    · rfl
  · unfold State.perform
    rw [hk]
    dsimp only
    rw [replValue_off (answer_off hoff q _ _)]

end

/-! ### What stands at the home afterwards, and what comes back -/

/-- A request's bytes at its home are those of a number, and the others are as before. -/
def Req.leaves (q : Req) (s t : State) (v : Nat) : Prop := ∀ a, getB t.mem a =
  if q.place.pa ≤ a ∧ a < q.place.pa + q.n then BitVec.ofNat 8 (v / 2 ^ (8 * (a - q.place.pa))) else getB s.mem a

theorem leaves_of_wrote {v : State} {x : Nat} (hu : u.mem = s.mem) (hv : u.Wrote v q.place.pa x q.n) (ht : t.mem = v.mem) : q.leaves s t x := by
  intro a
  rw [ht, hv.mem, hu]
  exact getB_setBs_leBytes _ _ _ _ _

theorem readAt_mem (s : State) (q : Req) : (s.readAt q).mem = s.mem := by rw [(learned_readAt s q).rest]

theorem answer_mem (s : State) (q : Req) (ws : List Word) (b : Option Bool) : (s.answer q ws b).mem = s.mem := by
  obtain ⟨x, y, h⟩ := answer_eq s q ws b
  rw [h]

/-- An answer given just before a request goes stands in the floe that awaits it. -/
theorem answered_performed {v : State} {g : Floe} {n : Nat} (hg : v.floe? q.floe = some g) (hid : g.fid = q.fid) (hpend : g.pend = f.pend)
    (hn : q.pend = some n) (ws : List Word) (b : Option Bool) : Said.answered ((v.answer q ws b).performed r true) q f n ws b :=
  ⟨_, answer_floe hg hid hn ws b, by rw [hpend]⟩

section
variable (hq : look s.net r = some q) (hp : q.place.sys = false) (ha : s.aliasOf q.place = none) (hw : q.watched = false)
include hq hp ha hw

theorem store_leaves (hk : q.kind = .store) : q.leaves s (s.perform r q) q.data ∧ ∃ x, look (s.perform r q).net r = some x ∧ x.performed = true := by
  have hv := wrote_homeWrite hp ha hw q.data
  obtain ⟨y, hy⟩ := hv.net r q hq
  rw [perform_store hk]
  exact ⟨leaves_of_wrote rfl hv rfl, performed_stays hy⟩

theorem red_leaves (hr : ∀ ctx, s.ctxReg ctx 0x40 = 0) {op ty : Nat} (hk : q.kind = .atom op ty false) :
    q.leaves s (s.perform r q) (atomNew op ty (getN s.mem q.place.pa q.n) q.data q.cmp) ∧
    ∃ x, look (s.perform r q).net r = some x ∧ x.performed = true := by
  obtain ⟨v, hv, ht⟩ := perform_atom (r := r) hr hp ha hw hk
  obtain ⟨y, hy⟩ := hv.net r q (by rw [(learned_readAt s q).rest]; exact hq)
  rw [ht, if_neg Bool.false_ne_true]
  exact ⟨leaves_of_wrote (readAt_mem s q) hv rfl, performed_stays hy⟩

end

section
variable (hr : ∀ ctx, s.ctxReg ctx 0x40 = 0)
include hr

theorem load_leaves (hk : q.kind = .load ∨ q.kind = .lr) : (s.perform r q).mem = s.mem ∧ look (s.perform r q).net r = none := by
  rcases hk with hk | hk
  · rw [perform_load hr hk]
    exact ⟨(answer_mem _ q _ _).trans (readAt_mem s q), performed_gone _ r⟩
  · rw [perform_lr hr hk]
    exact ⟨(lrLive_keeps _ q).1.trans ((answer_mem _ q _ _).trans (readAt_mem s q)), performed_gone _ r⟩

theorem load_answers (hk : q.kind = .load ∨ q.kind = .lr) {n : Nat} (hf : s.floe? q.floe = some f) (hid : f.fid = q.fid) (hn : q.pend = some n) :
    Said.answered (s.perform r q) q f n (loadWords (q.signed.getD .z32) (s.homeRead q)) none := by
  obtain ⟨g, hg, hgid, hgp, -⟩ := (learned_readAt s q).floe _ _ hf
  rcases hk with hk | hk
  · rw [perform_load hr hk]
    exact answered_performed hg (hgid.trans hid) hgp hn _ _
  · rw [perform_lr hr hk]
    obtain ⟨x, hx, hxp⟩ := (lrLive_keeps _ q).2 _ (answer_floe hg (hgid.trans hid) hn (loadWords (q.signed.getD .z32) (s.homeRead q)) none)
      (hgid.trans hid)
    exact ⟨x, hx, by rw [hxp, hgp]⟩

variable (hp : q.place.sys = false) (ha : s.aliasOf q.place = none) (hw : q.watched = false)
include hp ha hw

theorem atom_leaves {op ty : Nat} (hk : q.kind = .atom op ty true) :
    q.leaves s (s.perform r q) (atomNew op ty (getN s.mem q.place.pa q.n) q.data q.cmp) ∧ look (s.perform r q).net r = none := by
  obtain ⟨v, hv, ht⟩ := perform_atom (r := r) hr hp ha hw hk
  rw [ht, if_pos rfl]
  exact ⟨leaves_of_wrote (readAt_mem s q) hv (answer_mem v q _ _), performed_gone _ r⟩

theorem atom_answers {op ty n : Nat} (hk : q.kind = .atom op ty true) (hf : s.floe? q.floe = some f) (hid : f.fid = q.fid) (hn : q.pend = some n) :
    Said.answered (s.perform r q) q f n (atomWords ty (getN s.mem q.place.pa q.n)) none := by
  obtain ⟨g, hg, hgid, hgp, -⟩ := (learned_readAt s q).floe _ _ hf
  obtain ⟨v, hv, ht⟩ := perform_atom (r := r) hr hp ha hw hk
  rw [ht, if_pos rfl]
  exact answered_performed (by rw [State.floe?, hv.floes]; exact hg) (hgid.trans hid) hgp hn _ _

theorem sc_leaves (hk : q.kind = .sc) :
    (if q.holds then q.leaves s (s.perform r q) q.data else (s.perform r q).mem = s.mem) ∧ look (s.perform r q).net r = none := by
  obtain ⟨v, hv, ht⟩ := perform_sc (r := r) hr hp ha hw hk
  rw [ht]
  refine ⟨?_, performed_gone _ r⟩
  split at hv
  · next h =>
    rw [if_pos h]
    exact leaves_of_wrote rfl hv (answer_mem v q _ _)
  · next h =>
    rw [if_neg h, ← hv]
    exact answer_mem v q _ _

theorem sc_answers {n : Nat} (hk : q.kind = .sc) (hf : s.floe? q.floe = some f) (hid : f.fid = q.fid) (hn : q.pend = some n) :
    Said.answered (s.perform r q) q f n [] (some q.holds) := by
  obtain ⟨v, hv, ht⟩ := perform_sc (r := r) hr hp ha hw hk
  have hfloes : v.floes = s.floes := by
    split at hv
    · exact hv.floes
    · rw [hv]
  rw [ht]
  exact answered_performed (by rw [State.floe?, hfloes]; exact hf) hid rfl hn _ _

end

theorem ldtag_answers {n : Nat} (hk : q.kind = .ldtag) (hf : s.floe? q.floe = some f) (hid : f.fid = q.fid) (hn : q.pend = some n) :
    Said.answered (s.perform r q) q f n [if q.data = 1 then BitVec.zeroExtend 32 (lookD 0 s.tags (q.place.pa / 32)) else 0] none := by
  have hval : BitVec.ofNat 32 (if q.data = 1 then (lookD 0 s.tags (q.place.pa / 32)).toNat else 0) =
      if q.data = 1 then BitVec.zeroExtend 32 (lookD 0 s.tags (q.place.pa / 32)) else 0 := by
    split
    · exact BitVec.eq_of_toNat_eq (by simp)
    · rfl
  rw [perform_ldtag hk, hval]
  exact answered_performed hf hid rfl hn _ _

/-! ### The turn of a request at its home (R178, R269, R271, R404) -/

theorem atHome_waits (hq : look s.net r = some q)
    (h : q.performed = true ∨ (∃ e ∈ s.travel q, s.behind e.1 e.2 = true) ∨ (q.place.sys = false ∧ s.shellUp q.place.pa = false)) : s.atHome r = s := by
  have hb : q.performed = true ∨ ((s.travel q).head?.map fun e => s.replHeld e.2) = some true ∨ ((s.travel q).any fun e => s.behind e.1 e.2) = true ∨
      ((!q.place.sys) = true ∧ (!s.shellUp q.place.pa) = true) := by
    rcases h with h | h | ⟨h1, h2⟩
    · exact .inl h
    · exact .inr (.inr (.inl (List.any_eq_true.2 h)))
    · exact .inr (.inr (.inr ⟨by rw [h1]; rfl, by rw [h2]; rfl⟩))
  simp only [State.atHome, hq]
  exact if_pos hb

theorem atHome_serves (hq : look s.net r = some q)
    (h : ¬ (q.performed = true ∨ (∃ e ∈ s.travel q, s.behind e.1 e.2 = true) ∨ (q.place.sys = false ∧ s.shellUp q.place.pa = false)))
    (hheld : ∀ e ∈ s.travel q, s.replHeld e.2 = false) : s.atHome r = (s.travel q).foldl (fun s e => s.serveReq e.1) s := by
  have hb : ¬ (q.performed = true ∨ ((s.travel q).head?.map fun e => s.replHeld e.2) = some true ∨ ((s.travel q).any fun e => s.behind e.1 e.2) = true ∨
      ((!q.place.sys) = true ∧ (!s.shellUp q.place.pa) = true)) := by
    rintro (h1 | h1 | h1 | ⟨h1, h2⟩)
    · exact h (.inl h1)
    · obtain ⟨e, he, ht⟩ := Option.map_eq_some_iff.1 h1
      rw [hheld e (List.mem_of_head? he)] at ht
      cases ht
    · exact h (.inr (.inl (List.any_eq_true.1 h1)))
    · exact h (.inr (.inr ⟨by simpa using h1, by simpa using h2⟩))
  simp only [State.atHome, hq]
  exact if_neg hb

theorem serveReq_poison (hq : look s.net r = some q) (h : s.readsPoison q = true) :
    s.serveReq r = { s with net := del s.net r }.fatalStop q.grid (some (coreOfFloe q.floe)) := by
  simp only [State.serveReq, hq, h, if_true]

theorem serveReq_performs (hq : look s.net r = some q) (h1 : s.readsPoison q = false) (h2 : s.lateRace q = false) :
    s.serveReq r = (s.migTouch (coreOfFloe q.floe) q.ctx q.mig q.place).perform r q := by
  simp only [State.serveReq, hq, h1, h2, Bool.false_eq_true, if_false]

end Sys2Proof.Machine
end

section
/-! PROOF of the obligation on requests at their home. -/

namespace Sys2Proof.Machine

/-- Settles O44: the turn of a request, then what each kind writes and answers. -/
theorem requestsAtTheirHome : Obligations.RequestsAtTheirHome := by
  refine ⟨fun s r q hq => ⟨fun h => ?waits, fun h hheld => ?served⟩, fun s r q hq => ⟨serveReq_poison hq, serveReq_performs hq⟩, fun s r q hq => ?ack,
    fun s r q hq hp ha hw hr => ?performs, fun s r q g _ hk => ?stag⟩
  case waits =>
    show Host.Outcome.next _ = _
    rw [atHome_waits hq h]
  case served =>
    show Host.Outcome.next _ = _
    rw [atHome_serves hq h hheld]
  case ack =>
    show execWriteAcknowledgement r s = _
    simp only [execWriteAcknowledgement, hq]
    split <;> rfl
  case stag => rw [perform_stag hk, lookD_putD]
  case performs =>
    refine ⟨store_leaves hq hp ha hw, fun op ty => red_leaves hq hp ha hw hr, fun op ty => atom_leaves hr hp ha hw, fun hk => ?sc, load_leaves hr,
      fun f n hf hid hn => ⟨fun hk => load_answers hr hk hf hid hn, fun op ty hk => atom_answers hr hp ha hw hk hf hid hn,
        fun hk => sc_answers hr hp ha hw hk hf hid hn, fun hk => ldtag_answers hk hf hid hn⟩⟩
    obtain ⟨h, hgone⟩ := sc_leaves (r := r) hr hp ha hw hk
    refine ⟨fun a => ?_, hgone⟩
    split at h
    · next hh =>
      rw [if_pos hh]
      exact h a
    · next hh => rw [if_neg hh, h]

end Sys2Proof.Machine
end

section
/-! SUPPORT. What the checks and waits of a scratchpad access leave, the bytes and results of its lanes, and its traps (R172 to R177, R186, R187). -/

namespace Sys2Proof.Machine

variable {i : Instr} {s t u v q x : State} {f : Floe} {c : Ctx} {o : MemOps} {k n : Nat} {l : Space} {ps : List (Nat × Nat)}

/-! ### Steady states: no stop and no recording begins, no floe opens a result -/

/-- From `s` to `t` no grid begins to stop, no context to record, the replay log of a block's context is set no differently, and floes stay where
they are with the serial of their next result. -/
structure State.Steady (s t : State) : Prop where
  stops : s.grids.all (fun e => e.2.stopping.isNone) = true → t.grids.all (fun e => e.2.stopping.isNone) = true
  records : s.ctxRegs.all (fun e => !(decide (e.1 % 32 = 8) && e.2 != 0 && Config.replMode e.2 == 1)) = true →
    t.ctxRegs.all (fun e => !(decide (e.1 % 32 = 8) && e.2 != 0 && Config.replMode e.2 == 1)) = true
  logs : ∀ bk, t.ctxReg (t.grid (t.block bk).grid).ctx 0x40 = s.ctxReg (s.grid (s.block bk).grid).ctx 0x40
  floe : ∀ k f, s.floe? k = some f → ∃ g, t.floe? k = some g ∧ g.npend = f.npend

theorem State.Steady.refl (s : State) : s.Steady s := ⟨id, id, fun _ => rfl, fun _ f h => ⟨f, h, rfl⟩⟩

theorem State.Steady.trans (h : s.Steady t) (h' : t.Steady u) : s.Steady u := by
  refine ⟨h'.stops ∘ h.stops, h'.records ∘ h.records, fun bk => (h'.logs bk).trans (h.logs bk), fun k f hf => ?_⟩
  obtain ⟨g, hg, hn⟩ := h.floe k f hf
  obtain ⟨x, hx, hm⟩ := h'.floe k g hg
  exact ⟨x, hx, hm.trans hn⟩

theorem State.Steady.still (h : s.Steady t) (hs : s.still = true) (hd : t.due = []) : t.still = true :=
  have hs := (still_iff.1 hs).2
  still_iff.2 ⟨hd, h.stops hs.1, h.records hs.2⟩

theorem State.Standing.steady (h : s.Standing t) : s.Steady t := by
  obtain ⟨h1, h2, h3, h4⟩ := h
  refine ⟨by rw [h3]; exact id, by rw [h4]; exact id, fun bk => ?_, fun k f hf => ⟨f, ?_, rfl⟩⟩
  · unfold State.ctxReg State.grid State.block
    rw [h2, h3, h4]
  · rw [State.floe?, h1]
    exact hf

theorem State.Learned.steady (h : s.Learned t) : s.Steady t := by
  have hw : s.Steady { s with threads := t.threads, rfold := t.rfold } := State.Standing.steady ⟨rfl, rfl, rfl, rfl⟩
  refine ⟨fun hs => ?_, fun hs => ?_, fun bk => ?_, fun k f hf => ?_⟩
  · rw [h.rest]
    exact hs
  · rw [h.rest]
    exact hs
  · rw [h.rest]
    exact hw.logs bk
  · obtain ⟨g, hg, -, -, hn⟩ := h.floe k f hf
    exact ⟨g, hg, hn⟩

theorem steady_modFloe (s : State) (k : Nat) {g : Floe → Floe} (hg : ∀ f, (g f).npend = f.npend) : s.Steady (s.modFloe k g) := by
  have hs : (s.modFloe k g).blocks = s.blocks ∧ (s.modFloe k g).grids = s.grids ∧ (s.modFloe k g).ctxRegs = s.ctxRegs := by simp
  obtain ⟨hb, hgr, hc⟩ := hs
  refine ⟨by rw [hgr]; exact id, by rw [hc]; exact id, fun bk => ?_, fun j f hf => ?_⟩
  · unfold State.ctxReg State.grid State.block
    rw [hb, hgr, hc]
  · rw [State.floe?_modFloe]
    split
    · next hj =>
      subst hj
      rw [hf]
      exact ⟨_, rfl, hg f⟩
    · exact ⟨f, hf, rfl⟩

/-- A context register other than that of the replay log. -/
theorem steady_setCtxReg (s : State) (ctx : Nat) {off : Nat} (ho : off / 8 < 32 ∧ off / 8 ≠ 8) (x : DWord) : s.Steady (s.setCtxReg ctx off x) := by
  obtain ⟨ho, hne⟩ := ho
  refine ⟨id, fun hs => List.all_eq_true.2 fun e he => ?_, fun bk => ?_, fun _ f h => ⟨f, h, rfl⟩⟩
  · have : e.1 = 32 * ctx + off / 8 ∨ e ∈ s.ctxRegs := by
      rw [State.setCtxReg_ctxRegs, putD] at he
      split at he
      · exact .inr (mem_del he)
      · exact (mem_put he).imp_left fun h => by rw [h]
    rcases this with h | h
    · have : e.1 % 32 ≠ 8 := by omega
      simp [this]
    · exact List.all_eq_true.1 hs e h
  · rw [State.ctxReg_setCtxReg, if_neg (by omega)]
    rfl

/-! ### The waits of an order -/

theorem steady_modBlock (s : State) (bk : Nat) {g : Block → Block} (hg : ∀ b, (g b).grid = b.grid) : s.Steady (s.modBlock bk g) := by
  unfold State.modBlock
  split
  · next b hb =>
    refine ⟨id, id, fun j => ?_, fun _ f h => ⟨f, h, rfl⟩⟩
    have : ((s.setBlock bk (g b)).block j).grid = (s.block j).grid := by
      rw [State.block_setBlock]
      split
      · next hj =>
        subst hj
        rw [hg, State.block, lookD, hb]
        rfl
      · rfl
    rw [this]
    rfl
  · exact .refl s

theorem steady_modGrid (s : State) (i : Nat) {g : Grid → Grid} (hg : ∀ x, (g x).stopping = x.stopping ∧ (g x).ctx = x.ctx) : s.Steady (s.modGrid i g) := by
  unfold State.modGrid
  split
  · next x hx =>
    refine ⟨fun hs => List.all_eq_true.2 fun e he => ?_, id, fun j => ?_, fun _ f h => ⟨f, h, rfl⟩⟩
    · rw [State.setGrid_grids] at he
      rcases mem_put he with rfl | he
      · rw [(hg x).1]
        exact List.all_eq_true.1 hs _ (look_mem hx)
      · exact List.all_eq_true.1 hs e he
    · have : ∀ j, ((s.setGrid i (g x)).grid j).ctx = (s.grid j).ctx := fun j => by
        rw [State.grid_setGrid]
        split
        · next hj =>
          subst hj
          rw [(hg x).2, State.grid, lookD, hx]
          rfl
        · rfl
      rw [this]
      rfl
  · exact .refl s

theorem steady_beginCommit (s : State) (bk : Nat) : s.Steady (s.beginCommit bk) := by
  unfold State.beginCommit
  split
  · exact .refl s
  · exact (steady_modBlock s bk fun _ => by rfl).trans (steady_modGrid _ _ fun _ => by exact ⟨rfl, rfl⟩)

theorem steady_commit (s : State) (k : Nat) : s.Steady (s.commit k).1 := by
  unfold State.commit
  split
  · exact .refl s
  · next f hf =>
    exact ((steady_beginCommit s _).trans (handAll_leaves k f f.log _).1.steady).trans (steady_modFloe _ k fun _ => by rfl)

theorem standing_publish (s : State) (k : Nat) : s.Standing (s.publish k).2 := by
  unfold State.publish
  split
  · exact .refl s
  · exact State.Standing.trans (t := (s.storeRec _ _).2) ⟨rfl, rfl, rfl, rfl⟩ (standing_bumpRegion _ k)

theorem steady_after (c : Ctx) (u : State) (rel commits : Bool) : u.Steady (Said.after c u rel commits).1 := by
  unfold Said.after
  split
  · exact (steady_commit u c.k).trans (standing_publish _ c.k).steady
  · split
    · exact steady_commit u c.k
    · exact .refl u

/-! ### The checks of R175 and R176 -/

theorem traceFloe_keeps (s : State) (k : Nat) (f : Floe) (kind value coord : Nat) (lanes : List Nat) :
    s.Steady (s.traceFloe k f kind value coord lanes) ∧ ∀ i n, (s.traceFloe k f kind value coord lanes).vreg i n = s.vreg i n := by
  unfold State.traceFloe State.traceRec
  extract_lets base ts size place
  split
  · exact ⟨.refl s, fun _ _ => rfl⟩
  · split
    · exact ⟨steady_setCtxReg s _ (by decide) _, fun _ _ => rfl⟩
    · have hw := wrote_writeN s (p := ⟨bits base 39 12 * 2 ^ 12 + 32 * (place.toNat % size), false⟩) rfl 32
        (s.traceBits k f kind value coord lanes)
      exact ⟨hw.toStanding.steady.trans (steady_setCtxReg _ _ (by decide) _), hw.vreg⟩

theorem watch_keeps {accs : List (Nat × Nat × Nat)} {n : Nat} {rd wr : Bool} (h : c.watch s l accs n rd wr = .ok u) :
    s.Steady u ∧ ∀ i n, u.vreg i n = s.vreg i n := by
  unfold Ctx.watch at h
  extract_lets hs v w a at h
  split at h
  · cases h
    exact ⟨.refl s, fun _ _ => rfl⟩
  · split at h
    · cases h
      exact ⟨.refl s, fun _ _ => rfl⟩
    · split at h
      · rw [← Except.ok.inj h]
        have hv : s.Steady v ∧ ∀ i n, v.vreg i n = s.vreg i n :=
          List.foldlRecOn (motive := fun t : State => s.Steady t ∧ ∀ i n, t.vreg i n = s.vreg i n) hs _ ⟨.refl s, fun _ _ => rfl⟩ fun t ht h _ => by
            obtain ⟨h1, h2⟩ := traceFloe_keeps t c.k c.f 5 h.2.2.1 c.f.coord.toNat h.2.1
            exact ⟨ht.1.trans h1, fun i n => (h2 i n).trans (ht.2 i n)⟩
        refine ⟨hv.1.trans (steady_modFloe v c.k fun _ => by rfl), fun i n => ?_⟩
        rw [← hv.2 i n]
        exact State.vreg_congr (by simp [w]) i n (by simp [w, State.thread])
      · cases h

theorem touch_same {accs : List (Nat × Nat × Nat)} {n : Nat} {write : Bool} (h : c.touch s l accs n write = .ok u) : u = s := by
  unfold Ctx.touch at h
  extract_lets ro cs ts bad at h
  split at h
  · cases h
  · split at h
    · exact (Except.ok.inj h).symm
    · split at h
      · cases h
      · split at h
        · cases h
        · cases h

/-- Checks that find nothing leave the machine steady, with its registers as they were. -/
theorem checkPad_keeps {qs : List (Nat × Int)} {al n : Nat} {rd wr watched : Bool} {m : Mark} {ps : List (Nat × Nat)}
    (h : c.checkPad s l qs al n rd wr watched m = .ok (u, ps)) : s.Steady u ∧ ∀ i n, u.vreg i n = s.vreg i n := by
  unfold Ctx.checkPad at h
  extract_lets accs at h
  split at h
  · cases h
  · split at h
    · cases h
    · next v hv =>
      split at h
      · cases h
      · next w hw =>
        split at h
        · cases h
        · split at h
          · cases h
          · obtain ⟨rfl, -⟩ := Prod.mk.inj (Except.ok.inj h)
            rw [touch_same hw]
            split at hv
            · exact watch_keeps hv
            · cases hv
              exact ⟨.refl s, fun _ _ => rfl⟩


/-! ### The bytes of lanes -/

/-- The memory after a lane has stored at its address a number made of the one there. -/
def storeLane (n : Nat) (new : Nat → Nat → Nat) (m : List Host.Cell) (p : Nat × Nat) : List Host.Cell :=
  setBs m p.2 (leBytes (new p.1 (getN m p.2 n)) n)

/-- The memory after lanes have done so one by one. -/
def storeLanes (n : Nat) (new : Nat → Nat → Nat) (ps : List (Nat × Nat)) (m : List Host.Cell) : List Host.Cell := ps.foldl (storeLane n new) m

theorem getN_congr {m m' : List Host.Cell} {a : Nat} (h : ∀ i, a ≤ i → i < a + n → getB m i = getB m' i) : getN m a n = getN m' a n := by
  unfold getN getBs
  refine congrArg leVal (List.map_congr_left fun i hi => ?_)
  have := List.mem_range.1 hi
  exact h _ (by omega) (by omega)

theorem getN_setBs_same (m : List Host.Cell) (a v n : Nat) : getN (setBs m a (leBytes v n)) a n = v % 2 ^ (8 * n) :=
  (memoryReadsWhatWasWritten m a).2 n v

theorem getN_setBs_apart (m : List Host.Cell) {a b : Nat} (v : Nat) (h : a + n ≤ b ∨ b + n ≤ a) : getN (setBs m a (leBytes v n)) b n = getN m b n :=
  getN_congr fun i h1 h2 => by
    rw [getB_setBs_leBytes]
    exact if_neg (by omega)

/-- No byte outside the lanes' addresses changes. -/
theorem getB_storeLanes {new : Nat → Nat → Nat} {ps : List (Nat × Nat)} {a : Nat} (h : ∀ p ∈ ps, ¬ (p.2 ≤ a ∧ a < p.2 + n)) (m : List Host.Cell) :
    getB (storeLanes n new ps m) a = getB m a :=
  List.foldlRecOn (motive := fun x => getB x a = getB m a) ps _ rfl fun x hx p hp => by
    rw [storeLane, getB_setBs_leBytes, if_neg (h p hp)]
    exact hx

/-- A number apart from the lanes' addresses stands as it did. -/
theorem getN_storeLanes_apart {new : Nat → Nat → Nat} {ps : List (Nat × Nat)} {b : Nat} (h : ∀ p ∈ ps, b + n ≤ p.2 ∨ p.2 + n ≤ b)
    (m : List Host.Cell) : getN (storeLanes n new ps m) b n = getN m b n :=
  getN_congr fun i h1 h2 => getB_storeLanes (fun p hp => by have := h p hp; omega) m

/-- Where the lanes are apart, at each one's address stands what was made of the number there before. -/
theorem getN_storeLanes {new : Nat → Nat → Nat} {ps : List (Nat × Nat)} (h : Said.apart ps n) (m : List Host.Cell) :
    ∀ p ∈ ps, getN (storeLanes n new ps m) p.2 n = new p.1 (getN m p.2 n) % 2 ^ (8 * n) := by
  induction ps generalizing m with
  | nil => exact fun p hp => absurd hp List.not_mem_nil
  | cons p ps ih =>
    obtain ⟨hp, hps⟩ := List.pairwise_cons.1 h
    intro x hx
    show getN (storeLanes n new ps (setBs m p.2 (leBytes (new p.1 (getN m p.2 n)) n))) x.2 n = _
    rcases List.mem_cons.1 hx with rfl | hx
    · rw [getN_storeLanes_apart hp, getN_setBs_same]
    · rw [ih hps _ x hx, getN_setBs_apart _ _ (hp x hx)]

/-! ### One lane's write and read -/

/-- Steady from `s` to `t`, and nothing changes in the registers, the faults due and the memories other than level `l`'s. -/
structure State.PadKept (l : Space) (s t : State) : Prop extends s.Steady t where
  regs : t.regs = s.regs
  due : t.due = s.due
  others : ∀ m, m ≠ l → t.lvl m = s.lvl m

theorem State.PadKept.refl (l : Space) (s : State) : s.PadKept l s := ⟨.refl s, rfl, rfl, fun _ _ => rfl⟩

theorem State.PadKept.trans (h : s.PadKept l t) (h' : t.PadKept l u) : s.PadKept l u :=
  ⟨h.toSteady.trans h'.toSteady, h'.regs.trans h.regs, h'.due.trans h.due, fun m hm => (h'.others m hm).trans (h.others m hm)⟩

theorem State.Learned.padKept (h : s.Learned t) (l : Space) : s.PadKept l t ∧ t.lvl l = s.lvl l := by
  have hl : ∀ m, t.lvl m = s.lvl m := fun m => by
    rw [h.rest]
    cases m <;> rfl
  exact ⟨⟨h.steady, by rw [h.rest], by rw [h.rest], fun m _ => hl m⟩, hl l⟩

/-- Errors stored, injections, poison, chunks' bits, race words and releases carried are no part of what `PadKept` names, nor a level's bytes. -/
theorem padKept_aside (l : Space) {x : List Arm} {y : Tab Word} {z : Tab Bool} {d : Tab Nat} {r : Tab (BitVec 128)} {w : Tab Who}
    {e : Tab (List SyncMark)} (h : t = { s with latent := x, csrs := y, poison := z, track := d, race := r, raceBy := w, syncs := e }) :
    s.PadKept l t ∧ t.lvl l = s.lvl l := by
  have hl : ∀ m, t.lvl m = s.lvl m := fun m => by
    rw [h]
    cases m <;> rfl
  have hs : s.Standing t := by
    rw [h]
    exact ⟨rfl, rfl, rfl, rfl⟩
  exact ⟨⟨hs.steady, by rw [h], by rw [h], fun m _ => hl m⟩, hl l⟩

theorem padKept_setLvl (s : State) (hl : l ≠ .glob) (m : List Host.Cell) : s.PadKept l (s.setLvl l m) ∧ (s.setLvl l m).lvl l = m := by
  cases l with
  | glob => exact absurd rfl hl
  | unit => exact ⟨⟨State.Standing.steady ⟨rfl, rfl, rfl, rfl⟩, rfl, rfl, fun m hm => by cases m <;> trivial⟩, rfl⟩
  | clus => exact ⟨⟨State.Standing.steady ⟨rfl, rfl, rfl, rfl⟩, rfl, rfl, fun m hm => by cases m <;> trivial⟩, rfl⟩
  | die => exact ⟨⟨State.Standing.steady ⟨rfl, rfl, rfl, rfl⟩, rfl, rfl, fun m hm => by cases m <;> trivial⟩, rfl⟩

theorem padKept_takeInjection (s : State) (l : Space) (a p n m : Nat) :
    s.PadKept l (s.takeInjection a p n m) ∧ (s.takeInjection a p n m).lvl l = s.lvl l := by
  obtain ⟨x, y, z, h⟩ := s.takeInjection_cases a p n m
  exact padKept_aside l h

theorem padKept_writeLvl (s : State) (hl : l ≠ .glob) (a : Nat) (bs : List Byte) :
    s.PadKept l (s.writeLvl l a bs) ∧ (s.writeLvl l a bs).lvl l = setBs (s.lvl l) a bs := by
  obtain ⟨h1, h2⟩ := padKept_setLvl s hl (setBs (s.lvl l) a bs)
  have h : ∃ x p b, s.writeLvl l a bs = (s.setLvl l (setBs (s.lvl l) a bs)).takeInjection x p b bs.length := by
    unfold State.writeLvl
    cases l <;> exact ⟨_, _, _, rfl⟩
  obtain ⟨x, p, b, h⟩ := h
  obtain ⟨h3, h4⟩ := padKept_takeInjection (s.setLvl l (setBs (s.lvl l) a bs)) l x p b bs.length
  rw [h]
  exact ⟨h1.trans h3, h4.trans h2⟩

theorem padKept_setDirty (s : State) (l : Space) (pa n : Nat) : s.PadKept l (s.setDirty l pa n) ∧ (s.setDirty l pa n).lvl l = s.lvl l := by
  have h : ∃ x, s.setDirty l pa n = { s with track := x } := by
    unfold State.setDirty
    split
    · exact ⟨s.track, rfl⟩
    · refine List.foldlRecOn (motive := fun t : State => ∃ x, t = { s with track := x }) _ _ ⟨s.track, rfl⟩ fun t ht a _ => ?_
      obtain ⟨x, rfl⟩ := ht
      split
      · exact ⟨_, rfl⟩
      · exact ⟨x, rfl⟩
  obtain ⟨x, h⟩ := h
  exact padKept_aside l h

theorem padKept_raceWrite (s : State) (ag : Agent) (l m : Space) (pa n : Nat) :
    s.PadKept l (s.raceWrite ag (.pad m pa) n) ∧ (s.raceWrite ag (.pad m pa) n).lvl l = s.lvl l := by
  have h : ∃ x y, s.raceWrite ag (.pad m pa) n = { s with race := x, raceBy := y } := by
    unfold State.raceWrite
    refine List.foldlRecOn (motive := fun t : State => ∃ x y, t = { s with race := x, raceBy := y }) _ _ ⟨s.race, s.raceBy, rfl⟩ fun t ht a _ => ?_
    obtain ⟨x, y, rfl⟩ := ht
    dsimp only
    split
    · exact ⟨_, _, rfl⟩
    · exact ⟨_, y, rfl⟩
  obtain ⟨x, y, h⟩ := h
  exact padKept_aside l h

theorem padKept_syncWrite (s : State) (l m : Space) (sys : Bool) (a n : Nat) (mk : Mark) (w : Who) :
    s.PadKept l (s.syncWrite m sys a n mk w) ∧ (s.syncWrite m sys a n mk w).lvl l = s.lvl l := by
  obtain ⟨x, h⟩ := syncWrite_eq s m sys a n mk w
  exact padKept_aside l h

/-- A thread's write of a scratchpad level: its bytes, and nothing of what `PadKept` names. -/
theorem padKept_writePad (s : State) (ag : Agent) (hl : l ≠ .glob) (pa : Nat) (bs : List Byte) :
    s.PadKept l (s.writePad ag l pa bs) ∧ (s.writePad ag l pa bs).lvl l = setBs (s.lvl l) pa bs := by
  unfold State.writePad
  obtain ⟨h1, e1⟩ := padKept_writeLvl s hl pa bs
  obtain ⟨h2, e2⟩ := padKept_setDirty (s.writeLvl l pa bs) l pa bs.length
  obtain ⟨h3, e3⟩ := padKept_raceWrite ((s.writeLvl l pa bs).setDirty l pa bs.length) ag l l pa bs.length
  obtain ⟨h4, e4⟩ := padKept_syncWrite (((s.writeLvl l pa bs).setDirty l pa bs.length).raceWrite ag (.pad l pa) bs.length) l l false pa bs.length
    ag.mark ag.who
  exact ⟨((h1.trans h2).trans h3).trans h4, e4.trans (e3.trans (e2.trans e1))⟩

theorem learned_readPad (c : Ctx) (s : State) (lane : Nat) (l : Space) (pa n : Nat) (acq : Option Scope) : s.Learned (c.readPad s lane l pa n acq).2 := by
  unfold Ctx.readPad
  split
  · exact learned_readSync s _ _ _ _ _ _ _ _
  · exact .refl s

/-! ### Lane by lane -/

/-- Each lane's part does to the level what `m` does, and keeps the rest: so do all. -/
theorem padKept_foldl {w : State → Nat × Nat → State} {m : List Host.Cell → Nat × Nat → List Host.Cell}
    (hw : ∀ s p, q.PadKept l s → s.PadKept l (w s p) ∧ (w s p).lvl l = m (s.lvl l) p) (ps : List (Nat × Nat)) (hs : q.PadKept l s) :
    q.PadKept l (ps.foldl w s) ∧ (ps.foldl w s).lvl l = ps.foldl m (s.lvl l) := by
  induction ps generalizing s with
  | nil => exact ⟨hs, rfl⟩
  | cons p ps ih =>
    obtain ⟨hk, hm⟩ := hw s p hs
    rw [List.foldl_cons, List.foldl_cons, ← hm]
    exact ih (hs.trans hk)

/-- The words that lanes read of a level one by one, each before its own part `w`, and the machine after them. -/
def readLanes (l : Space) (n : Nat) (w : State → Nat × Nat → State) (ps : List (Nat × Nat)) (a : List (Nat × Nat) × State) : List (Nat × Nat) × State :=
  ps.foldl (fun a p => (a.1 ++ [(p.1, getN (a.2.lvl l) p.2 n)], w a.2 p)) a

theorem readLanes_state (w : State → Nat × Nat → State) (ps : List (Nat × Nat)) (a : List (Nat × Nat) × State) :
    (readLanes l n w ps a).2 = ps.foldl w a.2 :=
  (List.foldl_hom (f := Prod.snd) (g₂ := w) (fun _ _ => rfl)).symm

/-- Where no lane's part touches what a later one reads, all read what stood there before. -/
theorem readLanes_words {w : State → Nat × Nat → State} {m : List Host.Cell → Nat × Nat → List Host.Cell}
    (hw : ∀ s p, q.PadKept l s → s.PadKept l (w s p) ∧ (w s p).lvl l = m (s.lvl l) p) {ps : List (Nat × Nat)}
    (hp : ps.Pairwise fun p p' => ∀ x, getN (m x p) p'.2 n = getN x p'.2 n) {a : List (Nat × Nat) × State} (hs : q.PadKept l a.2) :
    (readLanes l n w ps a).1 = a.1 ++ ps.map fun p => (p.1, getN (a.2.lvl l) p.2 n) := by
  induction ps generalizing a with
  | nil => exact (List.append_nil _).symm
  | cons p ps ih =>
    obtain ⟨hp, hps⟩ := List.pairwise_cons.1 hp
    obtain ⟨hk, hm⟩ := hw a.2 p hs
    have hrest : ps.map (fun p' => (p'.1, getN ((w a.2 p).lvl l) p'.2 n)) = ps.map fun p' => (p'.1, getN (a.2.lvl l) p'.2 n) :=
      List.map_congr_left fun p' hp' => by rw [hm, hp p' hp']
    calc (readLanes l n w (p :: ps) a).1 = (readLanes l n w ps (a.1 ++ [(p.1, getN (a.2.lvl l) p.2 n)], w a.2 p)).1 := rfl
      _ = _ := by rw [ih hps (hs.trans hk), hrest, List.map_cons, List.append_assoc]; rfl


/-! ### Addresses and data (R172, R177) -/

/-- The scratchpad addresses of the active lanes (R172). -/
theorem padReqs_eq (c : Ctx) (o : MemOps) : c.padReqs o = c.act.map fun l => (l, ((c.s.vreg (c.t l) o.a.toNat).toNat : Int) + (BitVec.toInt o.disp +
    if o.idx = true then (c.s.vreg (c.t l) o.b.toNat).toInt * 2 ^ o.scale.toNat else 0)) := by
  have hd : sext o.disp.toNat 24 = o.disp.toInt := by rw [sext_eq_toInt, BitVec.ofNat_toNat, BitVec.setWidth_eq]
  unfold Ctx.padReqs Ctx.memOff
  simp only [hd, sext_word]

/-- The data of a lane are read of the registers as they stand, whatever else changed. -/
theorem memData_congr (h : ∀ i n, u.vreg i n = c.s.vreg i n) (o : MemOps) (n l : Nat) :
    ({ c with s := u } : Ctx).memData o n l = c.memData o n l ∧ ({ c with s := u } : Ctx).cmpData o l = c.cmpData o l := by
  have h1 : ∀ pos r, ({ c with s := u } : Ctx).rd1 pos r l = c.rd1 pos r l := fun pos r => by
    unfold Ctx.rd1
    rw [← h]
    rfl
  have h2 : ∀ r, ({ c with s := u } : Ctx).rdPair r l = c.rdPair r l := fun r => by
    unfold Ctx.rdPair
    rw [← h, ← h]
    rfl
  unfold Ctx.memData Ctx.cmpData
  rw [h1, h2, h1, h2]
  exact ⟨rfl, rfl⟩

theorem memData_mod (c : Ctx) (o : MemOps) (n l : Nat) : c.memData o n l % 2 ^ (8 * n) = c.memData o n l := by
  unfold Ctx.memData
  split
  · next h =>
    rw [h]
    exact Nat.mod_eq_of_lt (rdPair_lt c o.c l)
  · exact Nat.mod_mod _ _

/-! ### What each instruction does to its lanes -/

/-- One lane of an `sts`. -/
def Ctx.stsLane (c : Ctx) (o : MemOps) (ag : Nat → Agent) (s : State) (p : Nat × Nat) : State :=
  s.writePad (ag p.1) o.space p.2 (leBytes (c.memData o (Said.size o) p.1) (Said.size o))

/-- One lane of an `lds`. -/
def Ctx.ldsLane (c : Ctx) (o : MemOps) (s : State) (p : Nat × Nat) : State :=
  let rd := c.readPad s p.1 o.space p.2 (Said.size o) (memAcq o)
  if isAcq o.order then rd.2.replValue c.k c.f.blkr 4 p.1 c.f.coord rd.1 else rd.2

/-- One lane of an `atom`, which answers, or a `red`: it reads, and writes as an agent what its operation makes of that. -/
def Ctx.atomLane (c : Ctx) (o : MemOps) (answers : Bool) (new : Nat → Nat → Nat) (ag : State → Nat → Agent) (s : State) (p : Nat × Nat) : State :=
  let rd := c.readPad s p.1 o.space p.2 (atomBytes o.aty) (memAcq o)
  let t := rd.2.writePad (ag rd.2 p.1) o.space p.2 (leBytes (new p.1 rd.1) (atomBytes o.aty))
  if answers then t.replValue c.k c.f.blkr 3 p.1 c.f.coord rd.1 else t

/-- What an atomic's operation makes of an old value in a lane (R185). -/
def Ctx.atomMakes (c : Ctx) (o : MemOps) (lane old : Nat) : Nat :=
  atomNew o.aop o.aty old (c.memData o (atomBytes o.aty) lane) (c.cmpData o lane)

/-- The agent as which a lane of an access writes: its floe as it stands, in the region of before the access's release (R286). -/
def Ctx.padAgent (c : Ctx) (m : Mark) (own : Option Nat) (region : Nat) (s : State) (lane : Nat) : Agent :=
  { s.agentOf c.k ((s.floe? c.k).getD c.f) (c.carry m own lane) with region := region }

/-- Each lane's request enters at its banks (R260). -/
def State.enterBanks (s : State) (k fid : Nat) (l : Space) (n : Nat) (pend : Option Nat) (ps : List (Nat × Nat)) : State :=
  ps.foldl (fun s e => s.enterBank k fid e.1 l e.2 n pend) s

theorem enterBanks_eq (s : State) (k fid : Nat) (l : Space) (n : Nat) (pend : Option Nat) (ps : List (Nat × Nat)) : ∃ x,
    s.enterBanks k fid l n pend ps = { s with tokens := x } :=
  List.foldlRecOn (motive := fun t : State => ∃ x, t = { s with tokens := x }) ps _ ⟨s.tokens, rfl⟩ fun t ht e _ => by
    obtain ⟨x, rfl⟩ := ht
    exact ⟨_, rfl⟩

/-- The result of an access whose lanes have all read, and its requests at the banks. -/
def Ctx.padResult (c : Ctx) (o : MemOps) (cnt n : Nat) (vals : List (Nat × List Word)) (ps : List (Nat × Nat)) (s : State) : State :=
  let r := c.await s o.h.la.toNat { n := 0, reg := o.d.toNat, cnt := cnt, need := c.act, load := true, acq := memAcq o, vals := vals }
  r.2.enterBanks c.k c.f.fid o.space n (some r.1) ps

section
variable (ha : c.act ≠ []) (hb : c.s.bankBusy c.islot o.space = false)
include ha hb

theorem sts_completes (hi : issuing (.sts o) s = some (f, c))
    (hp : c.checkPad c.s o.space (c.padReqs o) (Said.size o) (Said.size o) false true true (memMark o) = .ok (u, ps))
    (hr : Said.ready c u (isRel o.order) false) : ∃ ag : Nat → Agent,
    exec (.sts o) s = .next (((ps.foldl (c.stsLane o ag) (Said.after c u (isRel o.order) false).1).enterBanks c.k c.f.fid o.space (Said.size o)
      none ps).completed c.k f) := by
  have hd : ∀ l, ({ c with s := u } : Ctx).memData o (Said.size o) l = c.memData o (Said.size o) l := fun l =>
    (memData_congr (checkPad_keeps hp).2 o _ l).1
  let q := Said.after c u (isRel o.order) false
  refine ⟨({ c with s := u } : Ctx).padAgent (memMark o) q.2 (u.region c.k) q.1, exec_completes (i := .sts o) rfl rfl hi ha ?_⟩
  unfold Said.size at hp hd ⊢
  rw [if_neg ha, if_neg (by rw [hb]; exact Bool.false_ne_true)]
  simp only [hp, ordered_ready hr, hd]
  rfl

theorem lds_completes (hi : issuing (.lds o) s = some (f, c))
    (hp : c.checkPad c.s o.space (c.padReqs o) (Said.size o) (Said.size o) true false true (memMark o) = .ok (u, ps))
    (hr : Said.ready c u (isRel o.order) false) :
    let out := readLanes o.space (Said.size o) (c.ldsLane o) ps ([], (Said.after c u (isRel o.order) false).1)
    exec (.lds o) s = .next ((c.padResult o o.ty.regs (Said.size o) (out.1.map fun e => (e.1, loadWords o.ty e.2)) ps out.2).completed c.k f) := by
  refine exec_completes (i := .lds o) rfl rfl hi ha ?_
  unfold Said.size at hp ⊢
  rw [if_neg ha, if_neg (by rw [hb]; exact Bool.false_ne_true)]
  simp only [hp, ordered_ready hr]
  rfl

omit ha in
theorem atomPad_done {answers : Bool}
    (hp : c.checkPad c.s o.space (c.padReqs o) (atomBytes o.aty) (atomBytes o.aty) true true true (memAmark o) = .ok (u, ps))
    (hr : Said.ready c u (isRel o.order) answers) : ∃ ag : State → Nat → Agent,
    let out := readLanes o.space (atomBytes o.aty) (c.atomLane o answers (c.atomMakes o) ag) ps ([], (Said.after c u (isRel o.order) answers).1)
    c.atomPad o answers = .done (if answers then c.padResult o o.aregs (atomBytes o.aty) (out.1.map fun e => (e.1, atomWords o.aty e.2)) ps out.2
      else out.2.enterBanks c.k c.f.fid o.space (atomBytes o.aty) none ps) := by
  have hd := fun l => memData_congr (checkPad_keeps hp).2 o (atomBytes o.aty) l
  refine ⟨({ c with s := u } : Ctx).padAgent (memAmark o) (Said.after c u (isRel o.order) answers).2 (u.region c.k), ?_⟩
  unfold Ctx.atomPad
  dsimp only
  rw [if_neg (by rw [hb]; exact Bool.false_ne_true)]
  simp only [hp, ordered_ready hr, fun l => (hd l).1, fun l => (hd l).2]
  cases answers <;> rfl

end


/-! ### Once the floe has gone on -/

theorem completed_lvl (h : v.still = true) (k : Nat) (f : Floe) (l : Space) : (v.completed k f).lvl l = v.lvl l := by
  rw [completed_sameRest (k := k) (f := f) h]
  cases l <;> rfl

theorem steady_issuing (h : issuing i s = some (f, c)) : s.Steady c.s := by
  obtain ⟨-, hf, hs⟩ := issuing_floe_ctx h
  rcases hs with hs | hs
  · rw [hs]
    exact .refl s
  · rw [hs]
    refine ⟨id, id, fun _ => rfl, fun j g hg => ?_⟩
    rw [State.floe?_setFloe]
    split
    · next hj =>
      subst hj
      obtain rfl : f = g := Option.some.inj ((issuing_floe h).symm.trans hg)
      exact ⟨c.f, rfl, by rw [hf]⟩
    · exact ⟨g, hg, rfl⟩

/-- After the checks and waits of an access the machine is still steady. -/
theorem steady_ready (h : issuing i s = some (f, c)) {qs : List (Nat × Int)} {al : Nat} {rd wr watched : Bool} {m : Mark}
    (hp : c.checkPad c.s l qs al n rd wr watched m = .ok (u, ps)) (rel commits : Bool) : s.Steady (Said.after c u rel commits).1 :=
  ((steady_issuing h).trans (checkPad_keeps hp).1).trans (steady_after c u rel commits)

section
variable (hs : s.still = true) (hk : s.Steady x) (hd : x.due = [])
include hs hk hd

/-- Requests at the banks change no memory and no register. -/
theorem enterBanks_completed (k fid n : Nat) (f : Floe) (pend : Option Nat) (ps : List (Nat × Nat)) :
    let t := (x.enterBanks k fid l n pend ps).completed k f
    (∀ m, t.lvl m = x.lvl m) ∧ t.regs = x.regs := by
  obtain ⟨ts, ht⟩ := enterBanks_eq x k fid l n pend ps
  have hstill : ({ x with tokens := ts } : State).still = true := hk.still hs hd
  rw [ht]
  refine ⟨fun m => ?_, completed_regs hstill⟩
  rw [completed_lvl hstill]
  cases m <;> rfl

/-- Nor does opening the result, which waits in the floe. -/
theorem padResult_completed (h : issuing i s = some (f, c)) (cnt n : Nat) (vals : List (Nat × List Word)) (ps : List (Nat × Nat)) :
    let t := (c.padResult o cnt n vals ps x).completed c.k f
    (∀ m, t.lvl m = x.lvl m) ∧ ∃ z, t.floe? c.k = some z ∧ ∃ p ∈ z.pend, p.n = c.f.npend ∧ p.reg = o.d.toNat ∧ p.need = c.act ∧ p.vals = vals := by
  obtain ⟨y, hy, hn⟩ := hk.floe c.k f (issuing_floe h)
  have hn : y.npend = c.f.npend := hn.trans (issuing_npend h).symm
  let p : Pend := {
    n := y.npend, reg := o.d.toNat, cnt := cnt, need := c.act, load := true, acq := memAcq o, vals := vals, left := o.h.la.toNat, coord := y.coord }
  let w := x.setFloe c.k { y with npend := y.npend + 1, pend := y.pend ++ [p] }
  have hw : c.padResult o cnt n vals ps x = w.enterBanks c.k c.f.fid o.space n (some y.npend) ps := by
    unfold Ctx.padResult
    rw [await_eq hy]
  obtain ⟨ts, ht⟩ := enterBanks_eq w c.k c.f.fid o.space n (some y.npend) ps
  have hstill : ({ w with tokens := ts } : State).still = true := hk.still hs hd
  rw [hw, ht]
  refine ⟨fun m => ?_, ?_⟩
  · rw [completed_lvl hstill]
    cases m <;> rfl
  · obtain ⟨z, hz, hm⟩ := opened_completed (c := c) (f := f) (y := { y with npend := y.npend + 1 }) (p := p) hstill (look_put_same _ _ _)
      (hn.trans (issuing_npend h)).ge
    exact ⟨z, hz, p, hm, hn, rfl, rfl, rfl⟩

end

/-! ### Bytes and words afterwards -/

theorem stsLane_keeps (ho : o.space ≠ .glob) (ag : Nat → Agent) (s : State) (p : Nat × Nat) : s.PadKept o.space (c.stsLane o ag s p) ∧
    (c.stsLane o ag s p).lvl o.space = storeLane (Said.size o) (fun l _ => c.memData o (Said.size o) l) (s.lvl o.space) p :=
  padKept_writePad s (ag p.1) ho p.2 _

theorem ldsLane_keeps (c : Ctx) (o : MemOps) (h : o.order = .rlx) (s : State) (p : Nat × Nat) :
    s.PadKept o.space (c.ldsLane o s p) ∧ (c.ldsLane o s p).lvl o.space = s.lvl o.space := by
  have hacq : isAcq o.order = false := by rw [h]; rfl
  unfold Ctx.ldsLane
  dsimp only
  rw [hacq, if_neg Bool.false_ne_true]
  exact (learned_readPad c s p.1 o.space p.2 _ _).padKept o.space

/-- One lane of an atomic, while no context logs (R377). -/
theorem atomLane_keeps {answers : Bool} (ho : o.space ≠ .glob) (new : Nat → Nat → Nat) (ag : State → Nat → Agent)
    (hr : answers = true → s.ctxReg (s.grid (s.block (blockKey (coreOfFloe c.k) c.f.blkr)).grid).ctx 0x40 = 0) (p : Nat × Nat) :
    s.PadKept o.space (c.atomLane o answers new ag s p) ∧ (c.atomLane o answers new ag s p).lvl o.space =
      storeLane (atomBytes o.aty) new (s.lvl o.space) p := by
  let rd := c.readPad s p.1 o.space p.2 (atomBytes o.aty) (memAcq o)
  obtain ⟨h1, e1⟩ := (learned_readPad c s p.1 o.space p.2 (atomBytes o.aty) (memAcq o)).padKept o.space
  obtain ⟨h2, e2⟩ := padKept_writePad rd.2 (ag rd.2 p.1) ho p.2 (leBytes (new p.1 rd.1) (atomBytes o.aty))
  have hk := h1.trans h2
  have hw : c.atomLane o answers new ag s p = rd.2.writePad (ag rd.2 p.1) o.space p.2 (leBytes (new p.1 rd.1) (atomBytes o.aty)) := by
    unfold Ctx.atomLane
    split
    · next ha => exact if_pos ((hk.logs _).trans (hr ha))
    · rfl
  rw [hw]
  exact ⟨hk, e2.trans (by rw [e1]; rfl)⟩


/-! ### Alignment before the share (R175, R176) -/

theorem trapAt_pad (code : Nat) {qs : List (Nat × Int)} (h : qs ≠ []) : trapAt code (qs.map fun q => (q.1, padAddr q.2)) =
    .trap code (qs.map (·.1)) (BitVec.ofInt 64 (qs.headD (0, 0)).2).toNat := by
  cases qs with
  | nil => exact absurd rfl h
  | cons q qs =>
    rw [List.headD_cons, ← wrap_eq_toNat, trapAt, List.map_map]
    rfl

theorem checkPad_range {qs : List (Nat × Int)} {al : Nat} {r : Res} (h : c.padRange l qs al n = some r) (s : State) (rd wr watched : Bool) (m : Mark) :
    c.checkPad s l qs al n rd wr watched m = .error r := by
  unfold Ctx.checkPad
  rw [h]

/-- An instruction whose own part answers what checks 1 and 2 of R176 find takes their traps, and does nothing with no active lane. -/
theorem pad_checks {body : Ctx → Res} {m : Nat} (hm : n = m) (he : exec i s = issue i s body) (hr : algRow i = none) (h : issuing i s = some (f, c))
    (hidle : c.act = [] → body c = .done c.s)
    (hb : c.act ≠ [] → c.s.bankBusy c.islot o.space = false → ∀ r, c.padRange o.space (c.padReqs o) m m = some r → body c = r) :
    let odd := (c.padReqs o).filter fun q => decide (q.2 % (n : Int) ≠ 0)
    let out := (c.padReqs o).filter fun q => decide (q.2 < 0 ∨ (c.s.shareSize c.bk o.space : Int) < q.2 + n)
    let addr (q : Nat × Int) : Nat := (BitVec.ofInt 64 q.2).toNat
    (c.act = [] → exec i s = .next (c.s.completed c.k f)) ∧ (c.s.bankBusy c.islot o.space = false →
      (odd ≠ [] → exec i s = .next (s.trapped c.k 0x0010 (odd.map (·.1)) (addr (odd.headD (0, 0))))) ∧
      (odd = [] → out ≠ [] → exec i s = .next (s.trapped c.k 0x0012 (out.map (·.1)) (addr (out.headD (0, 0)))))) := by
  intro odd out addr
  rw [← hm] at hb
  have hact : ∀ p : Nat × Int → Bool, (c.padReqs o).filter p ≠ [] → c.act ≠ [] := fun p hp ha => by
    rw [Ctx.padReqs, ha] at hp
    exact hp rfl
  refine ⟨fun ha => exec_idle he hr h (hidle ha), fun hbusy => ⟨fun h1 => ?_, fun h1 h2 => ?_⟩⟩
  · exact exec_traps he hr h (hact _ h1) (hb (hact _ h1) hbusy _ ((if_pos h1).trans (congrArg some (trapAt_pad 0x0010 h1))))
  · exact exec_traps he hr h (hact _ h2) (hb (hact _ h2) hbusy _
      ((if_neg (not_not.2 h1)).trans ((if_pos h2).trans (congrArg some (trapAt_pad 0x0012 h2)))))

/-- A scratchpad atomic answers what those checks find. -/
theorem atomPad_range {answers : Bool} (hb : c.s.bankBusy c.islot o.space = false) {r : Res}
    (h : c.padRange o.space (c.padReqs o) (atomBytes o.aty) (atomBytes o.aty) = some r) : c.atomPad o answers = r := by
  unfold Ctx.atomPad
  dsimp only
  rw [if_neg (by rw [hb]; exact Bool.false_ne_true), checkPad_range h]

/-! ### The accesses, once checked -/

theorem calm_still (h : s.calm = true) : s.still = true := by
  unfold State.calm at h
  rw [Bool.and_eq_true, Bool.and_eq_true] at h
  exact h.1.1

/-- The block whose floe issues has its grid's context. -/
theorem issuing_grid (h : issuing i s = some (f, c)) : s.grid (s.block (blockKey (coreOfFloe c.k) c.f.blkr)).grid = c.g := by
  have hb : c.f.blkr = f.blkr := by rw [(issuing_floe_ctx h).2.1]
  rw [issuing_g h, issuing_k h, hb]
  rfl

section
variable (ha : c.act ≠ []) (hb : c.s.bankBusy c.islot o.space = false)
include ha hb

/-- A checked `sts`: the lanes' data stand at their addresses, and no other byte changes (R177). -/
theorem sts_stores (hi : issuing (.sts o) s = some (f, c))
    (hp : c.checkPad c.s o.space (c.padReqs o) (Said.size o) (Said.size o) false true true (memMark o) = .ok (u, ps))
    (hr : Said.ready c u (isRel o.order) false) :
    let q := (Said.after c u (isRel o.order) false).1
    ∃ v : State, let t := v.completed c.k f; exec (.sts o) s = .next t ∧ (s.calm = true → q.due = [] → o.space ≠ .glob →
      t.lvl o.space = storeLanes (Said.size o) (fun l _ => c.memData o (Said.size o) l) ps (q.lvl o.space) ∧
      (∀ l, l ≠ o.space → t.lvl l = q.lvl l) ∧ t.regs = q.regs) := by
  intro q
  obtain ⟨ag, he⟩ := sts_completes ha hb hi hp hr
  refine ⟨_, he, fun hc hd ho => ?_⟩
  obtain ⟨hk, hl⟩ := padKept_foldl (q := q) (fun st p _ => stsLane_keeps ho ag st p) ps (.refl o.space q)
  obtain ⟨hlvl, hregs⟩ := enterBanks_completed (l := o.space) (calm_still hc) ((steady_ready hi hp _ _).trans hk.toSteady) (hk.due.trans hd)
    c.k c.f.fid (Said.size o) f none ps
  exact ⟨(hlvl _).trans hl, fun l h => (hlvl l).trans (hk.others l h), hregs.trans hk.regs⟩

/-- A relaxed `lds` once checked: no byte changes, and each lane has the word that stood at its address (R177). -/
theorem lds_reads (hi : issuing (.lds o) s = some (f, c))
    (hp : c.checkPad c.s o.space (c.padReqs o) (Said.size o) (Said.size o) true false true (memMark o) = .ok (u, ps))
    (hr : Said.ready c u (isRel o.order) false) :
    ∃ v : State, let t := v.completed c.k f; exec (.lds o) s = .next t ∧ (s.calm = true → u.due = [] → o.order = .rlx → (∀ l, t.lvl l = u.lvl l) ∧
      ∃ x, t.floe? c.k = some x ∧ ∃ p ∈ x.pend, p.n = c.f.npend ∧ p.reg = o.d.toNat ∧ p.need = c.act ∧
        p.vals = ps.map fun e => (e.1, loadWords o.ty (getN (u.lvl o.space) e.2 (Said.size o)))) := by
  refine ⟨_, lds_completes ha hb hi hp hr, fun hc hd horder => ?_⟩
  have hq : (Said.after c u (isRel o.order) false).1 = u := by rw [horder]; rfl
  have hw : ∀ st p, u.PadKept o.space st → st.PadKept o.space (c.ldsLane o st p) ∧ (c.ldsLane o st p).lvl o.space = st.lvl o.space :=
    fun st p _ => ldsLane_keeps c o horder st p
  have hwords := readLanes_words (n := Said.size o) (m := fun m _ => m) hw (ps := ps) (List.pairwise_of_forall fun _ _ _ => rfl) (a := ([], u)) (.refl o.space u)
  obtain ⟨hk, hl⟩ := padKept_foldl (m := fun m _ => m) hw ps (.refl o.space u)
  have hsame : (ps.foldl (c.ldsLane o) u).lvl o.space = u.lvl o.space :=
    hl.trans (List.foldlRecOn (motive := fun m => m = u.lvl o.space) ps _ rfl fun m hm _ _ => hm)
  rw [hq, readLanes_state, hwords]
  obtain ⟨hlvl, x, hx, p, hm, h1, h2, h3, h4⟩ := padResult_completed (o := o) (calm_still hc)
    (((steady_issuing hi).trans (checkPad_keeps hp).1).trans hk.toSteady) (hk.due.trans hd) hi o.ty.regs (Said.size o)
    ((([] : List (Nat × Nat)) ++ ps.map fun p => (p.1, getN (u.lvl o.space) p.2 (Said.size o))).map fun e => (e.1, loadWords o.ty e.2)) ps
  refine ⟨fun l => (hlvl l).trans ?_, x, hx, p, hm, h1, h2, h3, h4.trans ?_⟩
  · by_cases h : l = o.space
    · rw [h, hsame]
    · exact hk.others l h
  · rw [List.nil_append, List.map_map]
    rfl

omit ha in
/-- A scratchpad `atom` or `red` once checked: lane by lane, what the operation makes of the number at the lane's address stands there; an `atom` whose
lanes are apart has the numbers that stood there (R186, R187). -/
theorem atomPad_makes {answers : Bool} (hi : issuing i s = some (f, c)) (ho : o.space ≠ .glob)
    (hp : c.checkPad c.s o.space (c.padReqs o) (atomBytes o.aty) (atomBytes o.aty) true true true (memAmark o) = .ok (u, ps))
    (hr : Said.ready c u (isRel o.order) answers) :
    let q := (Said.after c u (isRel o.order) answers).1
    ∃ v : State, let t := v.completed c.k f; c.atomPad o answers = .done v ∧
      (s.calm = true → q.due = [] → (answers = true → s.ctxReg c.g.ctx 0x40 = 0) →
        t.lvl o.space = storeLanes (atomBytes o.aty) (c.atomMakes o) ps (q.lvl o.space) ∧
        (Said.apart ps (atomBytes o.aty) → answers = true → ∃ x, t.floe? c.k = some x ∧ ∃ p ∈ x.pend,
          p.n = c.f.npend ∧ p.reg = o.d.toNat ∧ p.need = c.act ∧
          p.vals = ps.map fun e => (e.1, atomWords o.aty (getN (q.lvl o.space) e.2 (atomBytes o.aty))))) := by
  intro q
  obtain ⟨ag, he⟩ := atomPad_done hb hp hr
  refine ⟨_, he, fun hc hd hlog => ?_⟩
  have hq : s.Steady q := steady_ready hi hp _ _
  have hw : ∀ st p, q.PadKept o.space st → st.PadKept o.space (c.atomLane o answers (c.atomMakes o) ag st p) ∧
      (c.atomLane o answers (c.atomMakes o) ag st p).lvl o.space = storeLane (atomBytes o.aty) (c.atomMakes o) (st.lvl o.space) p :=
    fun st p hst => atomLane_keeps ho _ ag (fun h => ((hq.trans hst.toSteady).logs _).trans (by rw [issuing_grid hi]; exact hlog h)) p
  obtain ⟨hk, hl⟩ := padKept_foldl hw ps (.refl o.space q)
  have hsteady := hq.trans hk.toSteady
  have hdue := hk.due.trans hd
  rw [readLanes_state]
  cases answers with
  | false =>
    obtain ⟨hlvl, -⟩ := enterBanks_completed (l := o.space) (calm_still hc) hsteady hdue c.k c.f.fid (atomBytes o.aty) f none ps
    exact ⟨(hlvl _).trans hl, fun _ h => absurd h Bool.false_ne_true⟩
  | true =>
    obtain ⟨hlvl, x, hx, p, hm, h1, h2, h3, h4⟩ := padResult_completed (o := o) (calm_still hc) hsteady hdue hi o.aregs (atomBytes o.aty)
      ((readLanes o.space (atomBytes o.aty) (c.atomLane o true (c.atomMakes o) ag) ps ([], q)).1.map fun e => (e.1, atomWords o.aty e.2)) ps
    refine ⟨(hlvl _).trans hl, fun hapart _ => ⟨x, hx, p, hm, h1, h2, h3, h4.trans ?_⟩⟩
    have hpair : ps.Pairwise fun p p' => ∀ x, getN (storeLane (atomBytes o.aty) (c.atomMakes o) x p) p'.2 (atomBytes o.aty) =
        getN x p'.2 (atomBytes o.aty) := hapart.imp fun h x => getN_setBs_apart x _ h
    rw [readLanes_words hw hpair (.refl o.space q), List.nil_append, List.map_map]
    rfl

end

end Sys2Proof.Machine
end

section
/-! PROOF of the obligation on the scratchpad accesses. -/

namespace Sys2Proof.Machine

/-- Settles O35: a store and an atomic change their level as `storeLanes` says; a load's words are those of `readLanes`; the traps are `pad_checks`. -/
theorem scratchpadAccesses : Obligations.ScratchpadAccesses := by
  refine ⟨padReqs_eq, ?sts, ?lds, ?atomic, ?traps⟩
  case sts =>
    intro o s f c u ps hi ha hb hp hr q
    obtain ⟨v, he, hv⟩ := sts_stores ha hb hi hp hr
    refine ⟨v, he, fun hc hd ho => ?_⟩
    obtain ⟨hl, hothers, hregs⟩ := hv hc hd ho
    refine ⟨fun a h => by rw [hl, getB_storeLanes h], fun l h _ a => by rw [hothers l h], hothers .glob ho.symm, hregs, fun hapart p hm => ?_⟩
    rw [hl, getN_storeLanes hapart _ p hm, memData_mod]
  case lds =>
    intro o s f c u ps hi ha hb hp hr
    obtain ⟨v, he, hv⟩ := lds_reads ha hb hi hp hr
    refine ⟨v, he, fun hc hd ho => ?_⟩
    obtain ⟨hl, hx⟩ := hv hc hd ho
    exact ⟨fun l a => by rw [hl], hx⟩
  case atomic =>
    intro o s f c u ps b hi ha ho hb hp hr q
    obtain ⟨v, he, hv⟩ := atomPad_makes hb hi ho hp hr
    have hexec : exec (if b then .atom o else .red o) s = .next (v.completed c.k f) := by
      cases b with
      | true => exact exec_completes (i := .atom o) rfl rfl hi ha (by rw [if_neg ha, if_neg ho, he])
      | false => exact exec_completes (i := .red o) rfl rfl hi ha (by rw [if_neg ha, if_neg ho, he])
    refine ⟨v, hexec, fun hc hd hlog => ?_⟩
    obtain ⟨hl, hx⟩ := hv hc hd hlog
    exact ⟨fun a h => by rw [hl, getB_storeLanes h], fun hapart => ⟨fun p hm => by rw [hl, getN_storeLanes hapart _ p hm]; rfl, hx hapart⟩⟩
  case traps =>
    intro o s f c i hm hi ho n
    simp only [List.mem_cons, List.not_mem_nil, or_false] at hm
    obtain rfl | rfl | rfl | rfl := hm
    · exact pad_checks (m := o.ty.width / 8) (if_pos (.inl rfl)) rfl rfl hi (fun ha => if_pos ha) fun ha hb r hr => by
        simp only [if_neg ha, hb, Bool.false_eq_true, if_false, checkPad_range hr]
    · exact pad_checks (m := o.ty.width / 8) (if_pos (.inr rfl)) rfl rfl hi (fun ha => if_pos ha) fun ha hb r hr => by
        simp only [if_neg ha, hb, Bool.false_eq_true, if_false, checkPad_range hr]
    · exact pad_checks (if_neg (by simp)) rfl rfl hi (fun ha => if_pos ha) fun ha hb r hr => by rw [if_neg ha, if_neg ho, atomPad_range hb hr]
    · exact pad_checks (if_neg (by simp)) rfl rfl hi (fun ha => if_pos ha) fun ha hb r hr => by rw [if_neg ha, if_neg ho, atomPad_range hb hr]

end Sys2Proof.Machine
end

section
/-! SUPPORT. `mma`, `mwait` and `mfence` (R198, R199, R203, R206, R209, R210): what their own parts answer, and the operation posted. -/

namespace Sys2Proof.Machine

open Sys2Proof

variable {i : Instr} {s u : State} {f : Floe} {c : Ctx}

/-! ## `mma` -/

/-- R198: some active lane names another format word. -/
theorem other_word_iff (r : Nat) (word : Word) :
    c.act.any (fun l => decide (c.s.vreg (c.t l) r ≠ BitVec.ofNat 32 word.toNat)) = true ↔ ¬ ∀ l ∈ c.act, c.s.vreg (c.t l) r = word := by
  simp

theorem srStep_bar (rnd : Rnd) (core slot : Nat) : (c.srStep rnd).2.bar core slot = c.s.bar core slot := by
  unfold Ctx.srStep
  split <;> rfl

theorem srStep_block (rnd : Rnd) (bk : Nat) : (c.srStep rnd).2.block bk = c.s.block bk := by
  unfold Ctx.srStep
  split <;> rfl

theorem State.raisePend_mmas (s : State) (core slot : Nat) : (s.raisePend core slot).mmas = s.mmas := rfl

/-- R155, R206: the barrier slot of the issuing block awaits one completion more. -/
theorem raisePend_pend (s : State) (core slot : Nat) : ((s.raisePend core slot).bar core slot).pend = (s.bar core slot).pend + 1 := by
  rw [State.raisePend, State.bar_setBar]

theorem modFloe_bar (s : State) (k : Nat) (g : Floe → Floe) (core slot : Nat) : (s.modFloe k g).bar core slot = s.bar core slot := by
  unfold State.bar
  rw [State.modFloe_bars]

theorem modFloe_block (s : State) (k : Nat) (g : Floe → Floe) (bk : Nat) : (s.modFloe k g).block bk = s.block bk := by
  unfold State.block
  rw [State.modFloe_blocks]

/-- R199, R206: the operation that `mma` posts stands in the reservation table with no chunk done, and the slot of the issuing block awaits it. -/
theorem postMma_posts (c : Ctx) (u : State) (pb fw tab entry : Nat) (late : List Pend) : let t := c.postMma u pb fw tab entry late
    (t.bar c.core (pbSlot pb (u.block c.bk).drf)).pend = (u.bar c.core (pbSlot pb (u.block c.bk).drf)).pend + 1 ∧
    ∃ id op, look t.mmas id = some op ∧ op.floe = c.k ∧ op.block = c.bk ∧ op.fw = BitVec.ofNat 32 fw ∧ op.pb = BitVec.ofNat 512 pb ∧ op.chunk = 0 ∧
      op.done = false := by
  unfold Ctx.postMma
  extract_lets parts holders sr n op v w x t
  have hsr : ∀ core slot bk, sr.2.bar core slot = u.bar core slot ∧ sr.2.block bk = u.block bk := fun core slot bk => by
    simp only [sr]
    split
    · exact ⟨srStep_bar .sr core slot, srStep_block .sr bk⟩
    · exact ⟨rfl, rfl⟩
  have hbar : ∀ core slot, x.bar core slot = u.bar core slot := fun core slot => (modFloe_bar w c.k _ core slot).trans (hsr core slot 0).1
  have hblk : x.block c.bk = u.block c.bk := (modFloe_block w c.k _ c.bk).trans (hsr 0 0 c.bk).2
  refine ⟨?_, n.1, op, ?_, rfl, rfl, rfl, rfl, rfl, rfl⟩
  · simp only [t, hblk, raisePend_pend, hbar]
  · simp only [t, x, State.raisePend_mmas, State.modFloe_mmas]
    exact look_put_same _ _ _

/-- Settles O40: what the part of each instruction answers, check by check; the operation that `mma` posts is `postMma_posts`. -/
theorem matrixInstructions : Obligations.MatrixInstructions := by
  refine ⟨?mma, ?mwait, ?mfence⟩
  case mma =>
    intro o s f c e h he
    dsimp only
    have hsame := other_word_iff (c := c) o.b.toNat (c.s.vreg (c.t 0) o.b.toNat)
    refine ⟨fun hl => issue_trap h rfl rfl ?mask, fun hl hw => issue_trap h rfl rfl ?words, fun hl hw hf => issue_trap h rfl rfl ?format,
      fun r hl hw hf ht => issue_trap h rfl rfl ?table, fun tab d u pb hl hw hf ht hd => ?_⟩
    case mask => simp only [he, if_pos hl]
    all_goals replace hl : ¬ c.act.length < 32 := Nat.not_lt.2 hl
    case words => simp only [he, if_neg hl, if_pos (hsame.2 hw)]
    all_goals replace hw := mt hsame.1 (not_not.2 hw)
    case format =>
      simp only [he, if_neg hl, if_neg hw, hf]
      rfl
    case table =>
      simp only [he, if_neg hl, if_neg hw, hf, ht]
      rfl
    refine ⟨fun a hbad => issue_trap h rfl rfl ?block, fun hgood hlent => issue_trap h rfl rfl ?lent, fun hgood hlent hpend hacc => ?posts⟩
    case block =>
      simp only [he, if_neg hl, if_neg hw, hf, ht, hd, hbad]
      rfl
    case lent =>
      simp only [he, if_neg hl, if_neg hw, hf, ht, hd, hgood, if_pos hlent]
      rfl
    case posts =>
      have ha : c.act ≠ [] := fun ha => hl (by simp [ha])
      have hready : ¬ ((c.bPending pb (c.s.vreg (c.t 0) o.b.toNat).toNat d).any (fun p => !p.ready) = true ∨ c.accComing (u.partsOf c.bk pb) = true) := by
        simp [hpend, hacc]
      obtain ⟨hbar, id, op, hop, hfl, hbk, hfw, hrest⟩ := postMma_posts c u pb (c.s.vreg (c.t 0) o.b.toNat).toNat tab e
        (c.bPending pb (c.s.vreg (c.t 0) o.b.toNat).toNat d)
      refine ⟨exec_completes rfl rfl h ha ?_, fun hdrf => hdrf ▸ hbar, id, op, hop, hfl, hbk, by rw [hfw, BitVec.ofNat_toNat, BitVec.setWidth_eq], hrest⟩
      simp only [he, if_neg hl, if_neg hw, hf, ht, hd, hgood, hlent, if_neg hready]
      rfl
  case mwait =>
    intro s f c h out
    have hout : c.f.ops.any (fun id => match look c.s.mmas id with
      | some o => !o.done
      | none => false) = true ↔ out := by
      rw [List.any_eq_true]
      refine exists_congr fun id => and_congr_right fun _ => ?_
      cases look c.s.mmas id <;> simp
    refine ⟨fun ha => exec_idle rfl rfl h (if_pos ha), fun ha hn => exec_completes rfl rfl h ha ?_, fun ha hn => exec_holds rfl rfl h ha ?_⟩
    · exact (if_neg ha).trans (if_neg (mt hout.1 hn))
    · exact (if_neg ha).trans (if_pos (hout.2 hn))
  case mfence =>
    intro s f c h
    refine ⟨fun ha => exec_idle rfl rfl h (if_pos ha), fun ha hp hw => exec_completes rfl rfl h ha ?_⟩
    refine (if_neg ha).trans (if_neg ?_)
    simpa [hw] using hp

end Sys2Proof.Machine
end

section
/-! SUPPORT. The accumulator instructions (R206, R208, R211 to R215): the lowest free run, banks that read as zero, the lanes of `accr` and `accw`, and
what the part of each instruction answers. -/

namespace Sys2Proof.Machine

open Sys2Proof

variable {i : Instr} {s u : State} {f : Floe} {c : Ctx}

/-! ## Runs of banks (R208, R211) -/

/-- A run of `n` banks from `b` lies in the core, and no allocation of the core meets it. -/
def State.banksFree (s : State) (core n b : Nat) : Prop :=
  b + n ≤ 128 ∧ ∀ a ∈ s.allocs, a.1 = core → a.2.first + a.2.cnt ≤ b ∨ b + n ≤ a.2.first

theorem banksFree_iff {core n b : Nat} : s.banksFree core n b ↔ b + n ≤ 128 ∧
    (!s.allocs.any fun a => a.1 == core && runsMeet (b, n) (a.2.first, a.2.cnt)) = true := by
  refine and_congr_right fun _ => ?_
  simp only [Bool.not_eq_true', List.any_eq_false, Bool.and_eq_true, beq_iff_eq, runsMeet, decide_eq_true_eq, not_and]
  refine forall₃_congr fun a _ _ => ?_
  omega

theorem freeRun_some {core n b : Nat} (hb : s.banksFree core n b) (hlow : ∀ b', b' < b → ¬ s.banksFree core n b') : s.freeRun core n = some b := by
  obtain ⟨hin, hfree⟩ := banksFree_iff.1 hb
  refine List.find?_range_eq_some.2 ⟨hfree, List.mem_range.2 (by omega), fun b' hb' => ?_⟩
  have hbusy := mt banksFree_iff.2 (hlow b' hb')
  simpa [show b' + n ≤ 128 by omega] using hbusy

theorem freeRun_none {core n : Nat} (h : ∀ b, ¬ s.banksFree core n b) : s.freeRun core n = none := by
  refine List.find?_range_eq_none.2 fun b hb => ?_
  have hbusy := mt banksFree_iff.2 (h b)
  simpa [show b + n ≤ 128 by omega] using hbusy

/-- R211, R266: the words of a run that `accz` has cleared read as zero. -/
theorem zeroBanks_accWord (s : State) (core : Nat) (r : Nat × Nat) {w : Nat} (hw : w < 512 * r.2) : (s.zeroBanks core r).accWord core r.1 w = 0 := by
  have hcut : look (s.zeroBanks core r).accs (65536 * core + 512 * r.1 + w) = none := by
    rw [State.zeroBanks, look_cut, if_pos (by omega)]
  have hzero : lookD 0 (s.zeroBanks core r).bankCtx (128 * core + r.1 + w / 512) % 2 = 1 := by
    refine foldl_established (P := fun t => lookD 0 t (128 * core + r.1 + w / 512) % 2 = 1) (fun t => ?_) (fun t j ht => ?_)
      (List.mem_range.2 (show w / 512 < r.2 by omega)) s.bankCtx
    all_goals dsimp only; rw [lookD_put]
    · rw [if_pos rfl]
      omega
    · split
      · omega
      · exact ht
  rw [State.accWord, hcut]
  exact if_pos hzero

/-! ## The lanes of `accr` and `accw` (R214) -/

/-- What lanes that pass the checks of R214 name: a run of the block's, and a word of it. -/
theorem accLanes_ok {hd off : Nat → Nat} {ls : List (Nat × Nat × Nat)} (h : c.accLanes hd off = .ok ls) :
    (ls = c.act.map fun l => (l, ((c.s.handleOk c.bk (hd l)).getD (0, 0)).1, off l / 4)) ∧ ∀ l ∈ c.act, ∃ r, c.s.handleOk c.bk (hd l) = some r := by
  unfold Ctx.accLanes at h
  extract_lets run bad fails low lent at h
  split at h
  · cases h
  · next hfails =>
    split at h
    · cases h
    · refine ⟨(Except.ok.inj h).symm, fun l hl => ?_⟩
      have hgood := List.filter_eq_nil_iff.1 (not_not.1 hfails) l hl
      rw [Bool.or_eq_true, not_or] at hgood
      exact Option.ne_none_iff_exists'.1 (by simpa [bad] using hgood.1)

/-- R214: `accr` gives every active lane the word that its handle and offset name. -/
theorem accr_reads {o : RegOps} {ls : List (Nat × Nat × Nat)} (hi : issuing (.accr o) s = some (f, c)) (hc : s.calm = true)
    (hls : c.accLanes (fun l => (c.rd1 0 o.a l).toNat) (fun l => (c.rd1 1 o.b l).toNat) = .ok ls) (hd : o.d.toNat < 248)
    (hb : c.inBanks (o.d.toNat + 1) = true) {l : Nat} (hl : l ∈ c.act) : ∃ r, c.s.handleOk c.bk (c.rd1 0 o.a l).toNat = some r ∧
      ((c.deliver c.s 0 o.d (ls.map fun e => (e.1, [c.s.accWord c.core e.2.1 e.2.2], 0))).completed c.k f).vreg (c.t l) o.d.toNat =
        c.s.accWord c.core r.1 ((c.rd1 1 o.b l).toNat / 4) := by
  obtain ⟨rfl, hgood⟩ := accLanes_ok hls
  obtain ⟨r, hr⟩ := hgood l hl
  rw [List.map_map]
  refine ⟨r, hr, (deliver_inRegs (quiet_of hi hc) (fun _ => rfl) hd (fun l => [c.s.accWord c.core
    ((c.s.handleOk c.bk (c.rd1 0 o.a l).toNat).getD (0, 0)).1 ((c.rd1 1 o.b l).toNat / 4)]) (fun _ => 0) (fun _ => le_rfl) hb l hl 0 _ rfl).trans ?_⟩
  rw [hr]
  rfl

/-! ## What the parts answer -/

/-- An instruction that does not run once per floe, and whose own part ends there, completes whatever lanes are active. -/
theorem issue_completes (h : issuing i s = some (f, c)) (ha : algRow i = none) (ho : Instr.oncePerFloe i = false) {body : Ctx → Res}
    (hb : body c = .done u) : issue i s body = .next (u.completed c.k f) := by
  rw [issue_lanes h (preTrap_none ha c) ho, hb]
  rfl

theorem oneHandle_bad {h : Nat} (hh : c.s.handleOk c.bk h = none) : c.oneHandle h = .error (.trap 0x0035 c.act h) := by
  rw [Ctx.oneHandle, hh]

theorem oneHandle_good {h : Nat} {r : Nat × Nat} (hh : c.s.handleOk c.bk h = some r) (hl : c.bankLent r = false) : c.oneHandle h = .ok r := by
  rw [Ctx.oneHandle, hh]
  exact if_neg (by simp [hl])

/-- Settles O41: each instruction's own part, check by check; the lowest run is `freeRun_some`'s, the cleared words are `zeroBanks_accWord`'s. -/
theorem accumulatorInstructions : Obligations.AccumulatorInstructions := by
  refine ⟨?aalloc, ?idle, ?badHandle, ?once, ?lanes, ?laneTraps, ?moves⟩
  case aalloc =>
    intro o s f c h ha
    dsimp only
    refine ⟨fun hn => exec_traps rfl rfl h ha ?zero, fun b h1 h128 hheld hfree hlow => exec_completes rfl rfl h ha ?given,
      fun h1 h128 hno => exec_completes rfl rfl h ha ?refused⟩
    case zero => simp only [if_neg ha, if_pos hn]
    all_goals have hn : ¬ ((c.rd1 0 o.a c.low).toNat = 0 ∨ 128 < (c.rd1 0 o.a c.low).toNat) := by omega
    all_goals simp only [if_neg ha, if_neg hn, ← List.sum_eq_foldl_nat]
    case given =>
      rw [if_pos hheld, freeRun_some hfree hlow]
    case refused =>
      have hrun : (if ((c.s.allocs.filter fun a => a.2.block == c.bk && a.2.orphan.isNone).map (·.2.cnt)).sum + (c.rd1 0 o.a c.low).toNat ≤ c.g.accN then
          c.s.freeRun c.core (c.rd1 0 o.a c.low).toNat else none) = none := by
        split
        · next hheld => exact freeRun_none (hno.resolve_left (Nat.not_lt.2 hheld))
        · rfl
      rw [hrun]
  case idle =>
    intro o i hi s f c h ha
    simp only [List.mem_cons, List.not_mem_nil, or_false] at hi
    rcases hi with rfl | rfl | rfl <;> exact exec_idle rfl rfl h (if_pos ha)
  case badHandle =>
    intro o i hi s f c h ha hbad
    simp only [List.mem_cons, List.not_mem_nil, or_false] at hi
    rcases hi with rfl | rfl
    all_goals
      refine exec_traps rfl rfl h ha ?_
      simp only [if_neg ha, oneHandle_bad hbad]
  case once =>
    intro o s f c r ha hr hl
    have hone := oneHandle_good hr hl
    refine ⟨fun h => ⟨exec_completes rfl rfl h ha ?_, fun w hw _ => zeroBanks_accWord c.s c.core r hw⟩,
      fun h hnet hlog => exec_completes rfl rfl h ha ?_⟩
    · simp only [if_neg ha, hone]
    · simp only [if_neg ha, hone, hlog]
      refine (if_neg fun hx => ?_).trans (if_neg Bool.false_ne_true)
      obtain ⟨e, he, hx⟩ := List.any_eq_true.1 hx
      exact absurd (Bool.and_eq_true_iff.1 hx).1 (by simpa using List.all_eq_true.1 hnet e he)
  case lanes =>
    intro o s f c ls hls
    refine ⟨fun h => ⟨?_, fun hc hla hd hb _ l hl => ?_⟩, fun h => ?_⟩
    · refine issue_completes h rfl rfl ?_
      simp only [hls]
    · rw [hla]
      exact accr_reads h hc hls hd hb hl
    · refine issue_completes h rfl rfl ?_
      simp only [hls]
  case laneTraps =>
    intro o i hi s f c r h hbad
    simp only [List.mem_cons, List.not_mem_nil, or_false] at hi
    rcases hi with rfl | rfl
    all_goals
      refine issue_trap h rfl rfl ?_
      simp only [hbad]
  case moves =>
    intro o s f c r n ha hrun
    refine ⟨fun code a h hg hb ht => exec_traps rfl rfl h ha ?stTrap, fun h hg hb ht hlog => exec_completes rfl rfl h ha ?stLog,
      fun u ps h hg hbusy hp => exec_completes rfl rfl h ha ?stPad, fun u as h hg hb hh => exec_completes rfl rfl h ha ?ldGlob,
      fun u ps h hg hbusy hp => exec_completes rfl rfl h ha ?ldPad⟩
    case stTrap => simp only [if_neg ha, hrun, if_pos hg, hb, ht, Option.none_or]
    case stLog =>
      simp only [if_neg ha, hrun, if_pos hg, hb, ht, Option.none_or]
      exact if_neg (Nat.not_le.2 hlog)
    case stPad => simp only [if_neg ha, hrun, if_neg hg, hbusy, hp]; rfl
    case ldGlob => simp only [if_neg ha, hrun, if_pos hg, hb, hh]
    case ldPad => simp only [if_neg ha, hrun, if_neg hg, hbusy, hp]; rfl

end Sys2Proof.Machine
end

section
/-! SUPPORT. What giving a matrix operation up leaves of the accumulator banks (R216, R217, R290): every bank word stands as it did. -/

namespace Sys2Proof.Machine

/-! ## Choices and folds -/

@[simp] theorem ite_accs (p : Prop) [Decidable p] (s t : State) : (if p then s else t).accs = if p then s.accs else t.accs :=
  apply_ite State.accs p s t

@[simp] theorem foldl_accs {α : Type} {g : State → α → State} (hg : ∀ s a, (g s a).accs = s.accs) (l : List α) (s : State) :
    (l.foldl g s).accs = s.accs :=
  foldl_keeps State.accs hg l s

theorem foldl_snd_accs {α β : Type} {g : β × State → α → β × State} (hg : ∀ s a, (g s a).2.accs = s.2.accs) (l : List α)
    (s : β × State) : (l.foldl g s).2.accs = s.2.accs :=
  foldl_keeps (fun s => s.2.accs) hg l s

/-! ## Records, registers and memory -/

@[simp] theorem State.writePlace_accs (s : State) (p : Place) (bs : List Byte) : (s.writePlace p bs).accs = s.accs := by simp [State.writePlace]
@[simp] theorem State.writeN_accs (s : State) (p : Place) (n v : Nat) : (s.writeN p n v).accs = s.accs := by simp [State.writeN]
@[simp] theorem State.addRfold_accs (s : State) (core n : Nat) : (s.addRfold core n).accs = s.accs := by simp [State.addRfold]
@[simp] theorem State.bumpRegion_accs (s : State) (fk : Nat) : (s.bumpRegion fk).accs = s.accs := by simp [State.bumpRegion]
@[simp] theorem State.storeRec_accs (s : State) (die : Nat) (x : SyncRec) : (s.storeRec die x).2.accs = s.accs := rfl

@[simp] theorem State.publish_accs (s : State) (fk : Nat) : (s.publish fk).2.accs = s.accs := by
  unfold State.publish
  split <;> simp

@[simp] theorem State.replStore_accs (s : State) (r : RRec) : (s.replStore r).accs = s.accs := by simp [State.replStore]
@[simp] theorem State.replLog_accs (s : State) (r : RRec) : (s.replLog r).accs = s.accs := by simp [State.replLog]
@[simp] theorem State.dstat_accs (s : State) (core : Nat) (set clr : Word) : (s.dstat core set clr).accs = s.accs := rfl

/-! ## Operations, copies and bins -/

@[simp] theorem State.addDue_accs (s : State) (bk code addr coord : Nat) : (s.addDue bk code addr coord).accs = s.accs := by
  unfold State.addDue
  split <;> rfl

@[simp] theorem State.gangCancel_accs (s : State) (m : Mma) : (s.gangCancel m).accs = s.accs := by simp [State.gangCancel]
@[simp] theorem State.freeMma_accs (s : State) (id : Nat) (m : Mma) : (s.freeMma id m).accs = s.accs := rfl

@[simp] theorem State.cancelMma_accs (s : State) (id : Nat) (gang : Bool) : (s.cancelMma id gang).accs = s.accs := by
  unfold State.cancelMma
  split <;> simp

@[simp] theorem State.dropPartners_accs (s : State) (c : Copy) (abort : Option (List (Nat × Nat × Bool))) : (s.dropPartners c abort).accs = s.accs := by
  refine foldl_accs (fun s t => ?_) _ _
  split
  · rfl
  · split
    · rfl
    · cases abort <;> simp

@[simp] theorem State.cancelCopy_accs (s : State) (id : Nat) (abort : Option (List (Nat × Nat × Bool))) : (s.cancelCopy id abort).accs = s.accs := by
  unfold State.cancelCopy
  split
  · rfl
  · rw [State.dropPartners_accs]
    rfl

@[simp] theorem State.openOverflow_accs (s : State) (q b : Nat) : (s.openOverflow q b).accs = s.accs := by
  unfold State.openOverflow
  dsimp only
  split
  · rfl
  · rw [foldl_accs fun _ _ => State.modThread_accs ..]

@[simp] theorem State.fillBins_accs (s : State) (q : Nat) : (s.fillBins q).accs = s.accs := by simp [State.fillBins]

/-! ## Blocks that end -/

@[simp] theorem State.releaseBlock_accs (s : State) (bk : Nat) (why : Ending) : (s.releaseBlock bk why).accs = s.accs := by
  unfold State.releaseBlock
  extract_lets core n b gang s₁ mine s₂ s₃
  have h₁ : s₁.accs = s.accs := foldl_accs (fun s id => by split <;> simp) _ _
  have h₂ : s₂.accs = s₁.accs := by
    cases why with
    | exit => rfl
    | kill => exact foldl_accs (fun s id => State.cancelCopy_accs ..) _ _
    | abort ps => exact foldl_accs (fun s id => State.cancelCopy_accs ..) _ _
  have h₃ : s₃.accs = s₂.accs := rfl
  rw [foldl_accs fun s i => State.fillBins_accs .., h₃, h₂, h₁]

@[simp] theorem State.blockGone_accs (s : State) (bk : Nat) : (s.blockGone bk).accs = s.accs := by
  unfold State.blockGone
  dsimp only
  repeat' split
  all_goals simp

@[simp] theorem State.abortBlock_accs (s : State) (bk : Nat) (pages : List (Nat × Nat × Bool)) (vas : List (Nat × Nat)) (again : Bool) :
    (s.abortBlock bk pages vas again).accs = s.accs := by
  unfold State.abortBlock
  split
  · rfl
  · simp [foldl_snd_accs]

@[simp] theorem State.mmaGiveUp_accs (s : State) (id code addr : Nat) : (s.mmaGiveUp id code addr).accs = s.accs := by
  unfold State.mmaGiveUp
  split <;> simp

/-- R290: an operation given up for a race writes no bank. -/
theorem State.mmaLost_race_accs (s : State) (id addr : Nat) : (s.mmaLost id 0x8005 addr).accs = s.accs := by
  unfold State.mmaLost
  split
  · rfl
  · exact (foldl_accs (fun s p => State.abortBlock_accs ..) _ _).trans (State.mmaGiveUp_accs ..)

end Sys2Proof.Machine
end

section
/-! SUPPORT. The matrix engine (R199, R204, R207, R216, R218, R234, R255, R290): a grant, the words of a run of banks written, a completion on the issuing
core, and the events. -/

namespace Sys2Proof.Machine

open Sys2Proof

variable {s : State} {op core slot uid : Nat} {o : Mma}

/-! ## Grants (R255) -/

/-- The core's arrays are in use for no operation, and reserved for none but this one. -/
def State.arraysFree (s : State) (op core : Nat) : Prop := look s.arrays core = none ∧ (look s.reserved core = none ∨ look s.reserved core = some op)

/-- Every key of a list holds what is put under each. -/
theorem look_foldl_put {α : Type} {ks : List Nat} {k : Nat} (h : k ∈ ks) (x : α) (t : Tab α) : look (ks.foldl (fun t k => put t k x) t) k = some x :=
  foldl_established (P := fun t => look t k = some x) (g := fun t k => put t k x) (fun t => look_put_same t k x)
    (fun t j ht => by rw [look_put, ht, ite_self]) h t

/-- A visit to an entry whose arrays are all free grants its pass and takes the arrays. -/
theorem arbVisit_grants (h : ∀ c ∈ o.parts.map fun p => p.block / 32, s.arraysFree op c) :
    look (arbVisit s (op, o)).mmas op = some { o with granted := true } ∧
    ∀ c ∈ o.parts.map fun p => p.block / 32, look (arbVisit s (op, o)).arrays c = some op := by
  have hall : (o.parts.map fun p => p.block / 32).all (fun c => (look s.arrays c).isNone && (match look s.reserved c with
      | some id => id == op
      | none => true)) = true := by
    refine List.all_eq_true.2 fun c hc => ?_
    obtain ⟨ha, hr | hr⟩ := h c hc <;> simp [ha, hr]
  rw [show arbVisit s (op, o) = _ from if_pos hall]
  exact ⟨look_put_same _ _ _, fun c hc => look_foldl_put hc op s.arrays⟩

/-! ## The banks of a participant (R207) -/

/-- The words of a run of banks, written one by one. -/
def State.setAccs (s : State) (core first n : Nat) (ws : List Word) : State := (ws.zipIdx n).foldl (fun s w => s.setAcc core first w.2 w.1) s

theorem setAccs_eq (s : State) (core first n : Nat) (ws : List Word) : ∃ x l c q,
    s.setAccs core first n ws = { s with accs := x, latent := l, csrs := c, poison := q } ∧
    ∀ a, look x a = if 65536 * core + 512 * first + n ≤ a then
      ((ws[a - (65536 * core + 512 * first + n)]?).or (look s.accs a)) else look s.accs a := by
  induction ws generalizing s n with
  | nil => exact ⟨s.accs, s.latent, s.csrs, s.poison, rfl, fun a => by simp⟩
  | cons w ws ih =>
    have hw : ∃ l c q, s.setAcc core first n w = { s with accs := put s.accs (65536 * core + 512 * first + n) w, latent := l, csrs := c, poison := q } :=
      ({ s with accs := put s.accs (65536 * core + 512 * first + n) w } : State).takeInjection_cases 4 core (2048 * first + 4 * n) 4
    obtain ⟨l, c, q, hw⟩ := hw
    obtain ⟨x, l', c', q', hx, hlook⟩ := ih (s.setAcc core first n w) (n + 1)
    refine ⟨x, l', c', q', ?_, fun a => ?_⟩
    · rw [State.setAccs, List.zipIdx_cons, List.foldl_cons]
      refine hx.trans ?_
      rw [hw]
    · rw [hlook a, hw]
      dsimp only
      rw [look_put]
      rcases Nat.lt_trichotomy a (65536 * core + 512 * first + n) with ha | rfl | ha
      · rw [if_neg (by omega), if_neg (by omega), if_neg (by omega)]
      · rw [if_neg (by omega), if_pos rfl, if_pos le_rfl, Nat.sub_self]
        rfl
      · rw [if_pos (by omega), if_neg (by omega), if_pos (by omega),
          show a - (65536 * core + 512 * first + n) = a - (65536 * core + 512 * first + (n + 1)) + 1 by omega, List.getElem?_cons_succ]

/-- The operation is done, and the banks of its only participant hold its words; the completion is not counted yet. -/
def State.mmaWritten (s : State) (op : Nat) (o : Mma) (p : Part) (ws : List Word) : State :=
  let v := (s.setAccs (p.block / 32) p.first 0 ws).markBanks (p.block / 32) p.first (banksOf ws.length)
  { v with mmas := put v.mmas op { o with done := true } }.freeMma op o

theorem mmaWritten_keeps (s : State) (op : Nat) (o : Mma) (p : Part) (ws : List Word) : let t := s.mmaWritten op o p ws
    t.bars = s.bars ∧ t.blocks = s.blocks ∧ t.mmas = put s.mmas op { o with done := true } ∧
    ∀ a, look t.accs a = if 65536 * (p.block / 32) + 512 * p.first ≤ a then
      ((ws[a - (65536 * (p.block / 32) + 512 * p.first)]?).or (look s.accs a)) else look s.accs a := by
  obtain ⟨x, l, c, q, hx, hlook⟩ := setAccs_eq s (p.block / 32) p.first 0 ws
  rw [State.mmaWritten, hx]
  exact ⟨rfl, rfl, rfl, hlook⟩

/-! ## Completions on the issuing core (R155) -/

/-- With completions still to come, a completion lowers PEND by one and the phase goes on. -/
theorem completeOwn_pend {ms : List SyncMark} (hv : (s.bar core slot).val = true) (hu : (s.block (s.bar core slot).owner).uid = uid)
    (h : 1 < (s.bar core slot).pend) : s.completeOwn core slot uid ms =
      s.setBar core slot { s.bar core slot with pend := (s.bar core slot).pend - 1, event := true, recs := (s.bar core slot).recs ++ ms } := by
  unfold State.completeOwn
  dsimp only
  rw [if_pos ⟨hv, hu, by omega⟩]
  apply phase_open
  rw [State.bar_setBar]
  dsimp only
  omega

/-! ## The events -/

theorem mmaPassEnd_served (ho : look s.mmas op = some o) (hg : o.granted = true) (hf : s.mmaFills op o = none) (hb : s.engineBusy op = false)
    (hl : s.latent = []) : exec (.mmaPassEnd op) s =
      if !((o.reads o.chunk).all fun r => s.raceOk (s.mmaAgent o) (.pad .unit r.2.1) r.2.2) then .next ((s.mmaLost op 0x8005 0).settleDue 64)
      else .next { s with
        mmas := put s.mmas op { o with granted := false, chunk := o.chunk + 1, acc := (o.parts.zip (s.mmaAcc o)).map fun e => s.chunkPart o e.1 e.2 o.chunk }
        arrays := s.arrays.filter fun e => e.2 ≠ op } := by
  show execMmaPassEnd op s = _
  unfold execMmaPassEnd
  simp only [ho, hg, hf, hb, hl]
  rfl

/-- What an operation's end records (R207). -/
def Mma.endRec (o : Mma) : SyncRec := ⟨identEng (coreOfFloe o.floe) true o.entry, o.serial, o.know, o.fold⟩

/-- The slot of the issuing core counts the completion of an operation that is done. -/
def State.mmaCounted (v : State) (o : Mma) (slot : Nat) : State :=
  (v.storeRec o.die o.endRec).2.completeOwn (o.block / 32) slot o.uid (opMark (some (v.storeRec o.die o.endRec).1) o.who)

/-- The completions that the other participants' cores are still to count. -/
def Mma.casts (o : Mma) (ms : List SyncMark) : List MCast := (o.parts.filter fun p => p.block ≠ o.block && !p.ended).map fun p =>
  { core := p.block / 32, slot := p.slot, uid := p.uid, recs := ms, lent := some (p.first, p.cnt) }

/-- R207: the last pass over, the banks of the only participant are written and the issuing core counts the completion. -/
theorem mmaComplete_counts {p : Part} {ws : List Word} (ho : look s.mmas op = some o) (hgo : ¬ (o.done = true ∨ o.waiting = true ∨ o.granted = true ∨ o.chunk < o.kk))
    (hp : o.parts = [p]) (hacc : o.acc = [ws]) (hb : p.block = o.block) : ∃ mc, exec (.mmaComplete op) s =
      .next (State.settleDue 64 { (s.mmaWritten op o p ws).mmaCounted o p.slot with mcasts := mc }) := by
  have hown : (o.parts.find? (·.block == o.block)).map (·.slot) = some p.slot := by simp [hp, hb]
  have hfold : (o.parts.zip o.acc).foldl (fun s e => (e.2.zipIdx.foldl (fun s w => s.setAcc (e.1.block / 32) e.1.first w.2 w.1) s).markBanks
      (e.1.block / 32) e.1.first (banksOf e.2.length)) s =
      (s.setAccs (p.block / 32) p.first 0 ws).markBanks (p.block / 32) p.first (banksOf ws.length) := by
    rw [hp, hacc]
    rfl
  refine ⟨((s.mmaWritten op o p ws).mmaCounted o p.slot).mcasts ++
    o.casts (opMark (some ((s.mmaWritten op o p ws).storeRec o.die o.endRec).1) o.who), ?_⟩
  show execMmaComplete op s = _
  unfold execMmaComplete
  rw [ho]
  refine (if_neg hgo).trans ?_
  rw [hfold, hown]
  unfold State.mmaWritten
  generalize (s.setAccs (p.block / 32) p.first 0 ws).markBanks (p.block / 32) p.first (banksOf ws.length) = v
  dsimp only
  generalize ({ v with mmas := put v.mmas op { o with done := true } } : State).freeMma op o = v
  rfl

/-- Nothing of a participant that was aborted is missing: it is resident again, and its slot awaits the operation (R216). -/
def State.partBack (s : State) (o : Mma) (p : Part) : Bool := match s.mate o.block p.p with
  | some b => (s.bar (b / 32) p.slot).val && (s.bar (b / 32) p.slot).owner == b && decide (0 < (s.bar (b / 32) p.slot).pend)
  | none => false

/-- R216: nothing holds the retry of an operation that waits, its pages answered, its participants back, its block not stopped. -/
theorem retry_goes (hw : o.waiting = true) (hp : o.pages = []) (hfull : o.full = true → s.pageRoom o.die = true)
    (hback : ∀ p ∈ o.parts, p.requeued = true → ∃ b, s.mate o.block p.p = some b ∧ (s.bar (b / 32) p.slot).val = true ∧
      (s.bar (b / 32) p.slot).owner = b ∧ 0 < (s.bar (b / 32) p.slot).pend) (hs : (s.block o.block).stops = []) :
    ¬ ((!o.waiting) = true ∨ o.pages ≠ [] ∨ (o.full = true ∧ (!s.pageRoom o.die) = true) ∨
      (!o.parts.all fun p => !p.requeued || s.partBack o p) = true ∨ (s.block o.block).stops ≠ []) := by
  have hready : (o.parts.all fun p => !p.requeued || s.partBack o p) = true := List.all_eq_true.2 fun p hp => by
    cases hr : p.requeued with
    | false => rfl
    | true =>
      obtain ⟨b, hb, hv, ho, hpend⟩ := hback p hp hr
      simp [State.partBack, hb, hv, ho, hpend]
  rw [hw, hp, hready, hs]
  rintro (h | h | ⟨h, hroom⟩ | h | h)
  case inr.inr.inl => simp [hfull h] at hroom
  all_goals simp at h

/-- Settles O47: the passes by what a granted pass finds (fills, served reads, a race), the completion by the banks that `setAccs_eq` writes and the slot that
`completeOwn_pend` counts, the retry by the checks that are made again. -/
theorem matrixEngine : Obligations.MatrixEngine := by
  refine ⟨fun die cl s => rfl, fun s op o _ => arbVisit_grants, ?passEnd, ?complete, ?retry⟩
  case passEnd =>
    intro s op o ho
    refine ⟨fun hg => ?idle, fun u hg hf => ?fills, fun hg hf hb hl hok => ?sums, fun hg hf hb hl hrace => ⟨?lost, State.mmaLost_race_accs s op 0⟩⟩
    case idle =>
      show execMmaPassEnd op s = _
      simp only [execMmaPassEnd, ho, hg]
      rfl
    case fills =>
      show execMmaPassEnd op s = _
      simp only [execMmaPassEnd, ho, hg, hf]
      rfl
    case sums =>
      rw [mmaPassEnd_served ho hg hf hb hl, if_neg]
      simpa using hok
    case lost =>
      rw [mmaPassEnd_served ho hg hf hb hl, if_pos]
      simpa using hrace
  case complete =>
    intro s op o p ws ho hd hw hg hk hp hb hacc hv hu hpend
    have hgo : ¬ (o.done = true ∨ o.waiting = true ∨ o.granted = true ∨ o.chunk < o.kk) := by simp [hd, hw, hg, hk]
    obtain ⟨mc, hexec⟩ := mmaComplete_counts ho hgo hp hacc hb
    rw [State.mmaCounted] at hexec
    obtain ⟨hbars, hblocks, hmmas, hlook⟩ := mmaWritten_keeps s op o p ws
    have hbar : ((s.mmaWritten op o p ws).storeRec o.die o.endRec).2.bar (o.block / 32) p.slot = s.bar (o.block / 32) p.slot :=
      congrArg (fun t : Tab Bar => lookD {} t (16 * (o.block / 32) + p.slot)) hbars
    have hblk : ∀ bk, ((s.mmaWritten op o p ws).storeRec o.die o.endRec).2.block bk = s.block bk :=
      fun bk => congrArg (fun t : Tab Block => lookD ({} : Block) t bk) hblocks
    rw [completeOwn_pend (by rw [hbar, hv]) (by rw [hblk, hbar, hu]) (by rw [hbar]; exact hpend), hbar] at hexec
    refine ⟨_, hexec, fun a => (hlook a).trans ?_, ?_, ?_⟩
    · rw [hb]
      cases ws[a - (65536 * (o.block / 32) + 512 * p.first)]? <;> simp
    · exact (congrArg (look · op) hmmas).trans (look_put_same _ _ _)
    · exact congrArg Bar.pend (State.bar_setBar _)
  case retry =>
    intro s op k entry o f ho hw hp hfull hreq hf he hs
    dsimp only
    have hgo := retry_goes hw hp hfull hreq hs
    refine ⟨fun code a hbad hh ht hwait => ?traps, fun hgood hlent => ?posts⟩
    case traps =>
      have hbad : ((s.paramBad k f o.block o.pb.toNat o.fw.toNat o.dim).map fun e => (0x0033, e)).or
          (if s.banksLent (s.partsOf o.block o.pb.toNat) (some op) = true then some (0x0034, 0) else none) = some (code, a) := by
        rcases hbad with ⟨hb, rfl⟩ | ⟨hb, hlent, rfl, rfl⟩
        · rw [hb]; rfl
        · rw [hb, hlent]; rfl
      show execMmaRetry op s = _
      unfold execMmaRetry
      simp only [ho, hf, he]
      refine (if_neg hgo).trans ?_
      rw [hbad, hwait]
      exact if_neg (by simp [hh, ht])
    case posts =>
      show execMmaRetry op s = _
      unfold execMmaRetry
      simp only [ho, hf, he]
      refine (if_neg hgo).trans ?_
      rw [hgood, hlent]
      rfl

end Sys2Proof.Machine
end

section
/-! SUPPORT. What a completion leaves of the operations that move data: the copies, the write-backs and the open maps stand as they did when a barrier
phase completes, a fault falls due or a record is stored (R155, R287, R302). -/

namespace Sys2Proof.Machine

variable {s t : State}

/-- The copies, the write-backs and the open maps. -/
def State.moves (s : State) : Tab Copy × Tab WBack × Tab SMap := (s.copies, s.wbs, s.maps)

theorem moves_iff : t.moves = s.moves ↔ t.copies = s.copies ∧ t.wbs = s.wbs ∧ t.maps = s.maps := by
  simp [State.moves]

/-! ## Choices, folds and records -/

@[simp] theorem ite_moves (p : Prop) [Decidable p] (s t : State) : (if p then s else t).moves = if p then s.moves else t.moves :=
  apply_ite State.moves p s t

@[simp] theorem foldl_moves {α : Type} {g : State → α → State} (hg : ∀ s a, (g s a).moves = s.moves) (l : List α) (s : State) :
    (l.foldl g s).moves = s.moves :=
  foldl_keeps State.moves hg l s

theorem State.Learned.moves_eq (h : s.Learned t) : t.moves = s.moves := by
  rw [h.rest]
  rfl

@[simp] theorem State.setFloe_moves (s : State) (k : Nat) (f : Floe) : (s.setFloe k f).moves = s.moves := rfl
@[simp] theorem State.modFloe_moves (s : State) (k : Nat) (g : Floe → Floe) : (s.modFloe k g).moves = s.moves := by simp [State.moves]
@[simp] theorem State.modBlock_moves (s : State) (k : Nat) (g : Block → Block) : (s.modBlock k g).moves = s.moves := by simp [State.moves]
@[simp] theorem State.modThread_moves (s : State) (k : Nat) (g : Thread → Thread) : (s.modThread k g).moves = s.moves := rfl
@[simp] theorem State.setCtxReg_moves (s : State) (c o : Nat) (v : DWord) : (s.setCtxReg c o v).moves = s.moves := rfl
@[simp] theorem State.dstat_moves (s : State) (core : Nat) (set clr : Word) : (s.dstat core set clr).moves = s.moves := rfl
@[simp] theorem State.storeRec_moves (s : State) (die : Nat) (x : SyncRec) : (s.storeRec die x).2.moves = s.moves := rfl
@[simp] theorem State.takeLines_moves (s : State) (id : Nat) (c : Copy) : (s.takeLines id c).1.moves = s.moves := rfl

@[simp] theorem State.addRfold_moves (s : State) (core n : Nat) : (s.addRfold core n).moves = s.moves := (learned_addRfold s core n).moves_eq

@[simp] theorem State.takeInjection_moves (s : State) (a p n m : Nat) : (s.takeInjection a p n m).moves = s.moves := by
  obtain ⟨l, c, q, h⟩ := s.takeInjection_cases a p n m
  rw [h]
  rfl

@[simp] theorem State.writeN_moves (s : State) (p : Place) (n v : Nat) : (s.writeN p n v).moves = s.moves := by
  unfold State.writeN State.writePlace
  dsimp only
  repeat' split
  · rfl
  · rfl
  · exact State.takeInjection_moves ..

/-! ## Faults that are due -/

@[simp] theorem State.addDue_moves (s : State) (bk code addr coord : Nat) : (s.addDue bk code addr coord).moves = s.moves := by
  unfold State.addDue
  split <;> rfl

@[simp] theorem State.addDueOnce_moves (s : State) (bk uid code coord : Nat) : (s.addDueOnce bk uid code coord).moves = s.moves := by
  simp [State.addDueOnce]

/-! ## Stops -/

@[simp] theorem State.dropResv_moves (s : State) (k : Nat) : (s.dropResv k).moves = s.moves := by
  unfold State.dropResv
  split <;> simp

@[simp] theorem State.gangCancel_moves (s : State) (m : Mma) : (s.gangCancel m).moves = s.moves := by simp [State.gangCancel]

@[simp] theorem State.cancelWaiting_moves (s : State) (bk : Nat) : (s.cancelWaiting bk).moves = s.moves := by
  refine foldl_moves (fun s e => ?_) _ _
  rw [State.gangCancel_moves]
  rfl

@[simp] theorem State.stopBlk_moves (s : State) (bk cause : Nat) : (s.stopBlk bk cause).moves = s.moves := by simp [State.stopBlk]

@[simp] theorem State.endStep_moves (s : State) (bk : Nat) (timeout : Bool) : (s.endStep bk timeout).moves = s.moves := by
  unfold State.endStep
  split <;> simp

/-! ## Phases (R155) -/

@[simp] theorem State.traceFloe_moves (s : State) (k : Nat) (f : Floe) (kind value coord : Nat) (lanes : List Nat) :
    (s.traceFloe k f kind value coord lanes).moves = s.moves := by
  simp [State.traceFloe, State.traceRec]

@[simp] theorem State.stepRecords_moves (s : State) (bk slot : Nat) (was : List (Nat × Floe)) : (s.stepRecords bk slot was).moves = s.moves := by
  simp [State.stepRecords]

@[simp] theorem State.freeFloeAt_moves (s : State) (k : Nat) (f : Floe) (sc : Scope) (ms : List SyncMark) : (s.freeFloeAt k f sc ms).moves = s.moves :=
  (learned_mergeRecs _ k _).moves_eq

@[simp] theorem State.freeSaveAt_moves (s : State) (i : Nat) (f : Floe) (sc : Scope) (ms : List SyncMark) : (s.freeSaveAt i f sc ms).moves = s.moves :=
  State.addRfold_moves ..

@[simp] theorem State.releaseBar_moves (s : State) (core slot : Nat) (ms : List SyncMark) : (s.releaseBar core slot ms).moves = s.moves := by
  unfold State.releaseBar
  refine (foldl_moves (fun s e => ?_) _ _).trans (foldl_moves (fun s e => ?_) _ _)
  · split
    · exact State.freeSaveAt_moves ..
    · rfl
  · simp

@[simp] theorem State.phase_moves (s : State) (core slot : Nat) : (s.phase core slot).moves = s.moves := by
  unfold State.phase
  extract_lets b pend used b' waiting s₁ s₂ s₃ s₄
  have h₂ : s₂.moves = s.moves := by
    dsimp only [s₂]
    split
    · exact State.modBlock_moves ..
    · rfl
  have h₄ : s₄.moves = s.moves := (State.releaseBar_moves ..).trans h₂
  split
  · split <;> simp [h₄]
  · rfl

@[simp] theorem State.completeOwn_moves (s : State) (core slot uid : Nat) (ms : List SyncMark) : (s.completeOwn core slot uid ms).moves = s.moves := by
  unfold State.completeOwn
  dsimp only
  split
  · exact State.phase_moves ..
  · rfl

end Sys2Proof.Machine
end

section
/-! SUPPORT. The copy engine, map fills and write-backs (R221, R228, R231, R234, R235, R238, R290, R408, R441): what completes a copy or a write-back, the copy
that claims a buffer's slot, and the events. -/

namespace Sys2Proof.Machine

open Sys2Proof

variable {s u : State} {op : Nat}

/-! ## The end of a copy (R228) -/

/-- R228: a copy that is complete is gone. -/
theorem copyDone_gone (s : State) (op : Nat) (cp : Copy) : look (s.copyDone op cp).copies op = none := by
  unfold State.copyDone
  extract_lets d r l v w key ms x
  have hl : v.copies = s.copies := (moves_iff.1 (show v.moves = s.moves by simp [v, l, r])).1
  have hw : look w.copies op = none := look_del_same _ _
  split
  · split
    · split <;> exact hw
    · exact hw
  · show look x.copies op = none
    rw [(moves_iff.1 (State.completeOwn_moves ..)).1]
    exact hw

/-! ## The end of a write-back (R228, R235) -/

@[simp] theorem State.closeMap_wbs (s : State) (key : Nat) : (s.closeMap key).wbs = s.wbs := by
  unfold State.closeMap
  split <;> rfl

/-- R235: a map that is closed is gone. -/
theorem closeMap_gone (s : State) (key : Nat) : look (s.closeMap key).maps key = none := by
  unfold State.closeMap
  split
  · next h => exact h
  · exact look_del_same _ _

/-- R228, R235: a write-back that is complete is gone, and so is the map of an unmap; a write-back alone closes no map. -/
theorem wbDone_gone (s : State) (op : Nat) (w : WBack) : look (s.wbDone op w).wbs op = none ∧
    (w.unmap = true → look (s.wbDone op w).maps (8 * w.block + w.map) = none) ∧ (w.unmap = false → (s.wbDone op w).maps = s.maps) := by
  unfold State.wbDone
  extract_lets r src v t
  obtain ⟨-, hwbs, hmaps⟩ := moves_iff.1 (State.completeOwn_moves t w.core w.slot w.uid (opMark (some r.1) w.who))
  rw [hwbs, hmaps]
  have hv : look v.wbs op = none := look_del_same _ _
  cases hu : w.unmap with
  | true =>
    have ht : t = v.closeMap (8 * w.block + w.map) := if_pos hu
    rw [ht, State.closeMap_wbs]
    exact ⟨hv, fun _ => closeMap_gone _ _, nofun⟩
  | false =>
    have ht : t = v := if_neg (by simp [hu])
    rw [ht]
    exact ⟨hv, nofun, fun _ => rfl⟩

/-! ## The events of the copy engine -/

/-- What a copy comes to by what has stopped it: nothing, an answer it waits for, a page, a cause that cancels it, or poison. -/
def State.copyHalted (v : State) (op : Nat) (x : Copy) : Option Halt → State
  | none => if v.engineBusy x.serial then v else v.copyDone op x
  | some .wait => v
  | some (.ats va) => v.askAts x.core x.ctx va
  | some (.page va r w) => v.copyFault op x va r w
  | some (.lost code a) => v.copyLost op x code a
  | some .poison => (v.cancelCopy op none).fatalStop x.grid (some x.core)

theorem copyComplete_held {cp : Copy} (hc : look s.copies op = some cp) (hr : cp.runs = false) : exec (.copyComplete op) s = .next s := by
  show execCopyComplete op s = _
  rw [execCopyComplete, hc]
  exact if_pos (by rw [hr]; rfl)

/-- A copy that may go on performs the elements that are left and comes to what has stopped it. -/
theorem copyComplete_runs {cp : Copy} {left : List Nat} {h : Option Halt} (hc : look s.copies op = some cp) (hr : cp.runs = true)
    (he : State.copyElements cp ((List.range (cpCount cp.desc.toNat)).drop cp.next) s = (u, left, h)) :
    let x : Copy := { cp with next := cpCount cp.desc.toNat - left.length, full := false }
    exec (.copyComplete op) s = .next ((State.copyHalted { u with copies := put u.copies op x } op x h).noteDone.settleDue 64) := by
  show execCopyComplete op s = _
  rw [execCopyComplete, hc]
  refine (if_neg (by simp [hr])).trans ?_
  rw [he]
  rcases h with _ | h
  · rfl
  · cases h <;> rfl

/-- A copy that the core's buffer `n` is to give its next slot: of the buffer's owner, naming it, with none claimed yet (R238). -/
def Copy.awaits (cp : Copy) (s : State) (core n : Nat) (b : CBuf) : Prop :=
  cp.core = core ∧ cp.block = b.owner ∧ cp.uid = (s.block b.owner).uid ∧ cpCmode cp.desc.toNat = true ∧ cpSel cp.desc.toNat = n ∧ cp.claimed = none

/-- The oldest copy that awaits a slot is the one found. -/
theorem find_awaits {core n : Nat} {b : CBuf} {x y : List (Nat × Copy)} {cp : Copy} (hx : ∀ e ∈ x, ¬ e.2.awaits s core n b) (hcp : cp.awaits s core n b) :
    ((x ++ (op, cp) :: y).find? fun e => e.2.core == core && e.2.block == b.owner && e.2.uid == (s.block b.owner).uid && cpCmode e.2.desc.toNat &&
      cpSel e.2.desc.toNat == n && e.2.claimed.isNone) = some (op, cp) := by
  refine List.find?_eq_some_iff_append.2 ⟨?_, x, y, rfl, fun e he => ?_⟩
  · simpa [Copy.awaits, and_assoc] using hcp
  · rw [Bool.not_eq_true', Bool.eq_false_iff]
    refine fun h => hx e he ?_
    simpa [Copy.awaits, and_assoc] using h

theorem slotClaim_none {c : CoreId} {n : Nat} {b : CBuf} (hb : look s.cbufs (16 * CoreId.key c + n) = some b) (hfree : b.free = 0) :
    exec (.copySlotClaim c n) s = .next s := by
  show execCopySlotClaim c n s = _
  simp only [execCopySlotClaim, hb, hfree]
  split <;> rfl

/-- R238: the oldest copy that awaits a slot claims the next one, which is no longer free. -/
theorem slotClaim_claims {c : CoreId} {n : Nat} {b : CBuf} {x y : List (Nat × Copy)} {cp : Copy} (hb : look s.cbufs (16 * CoreId.key c + n) = some b)
    (hs : s.copies = x ++ (op, cp) :: y) (hx : ∀ e ∈ x, ¬ e.2.awaits s (CoreId.key c) n b) (hcp : cp.awaits s (CoreId.key c) n b) (hfree : b.free ≠ 0) :
    ∃ t z, exec (.copySlotClaim c n) s = .next t ∧ look t.copies op = some z ∧ z.claimed = some b.claim ∧
      look t.cbufs (16 * CoreId.key c + n) = some { b with claim := (b.claim + 1) % b.nslot, free := b.free - 1 } := by
  have hexec : exec (.copySlotClaim c n) s = execCopySlotClaim c n s := rfl
  simp only [hexec, execCopySlotClaim, hb, hs, find_awaits hx hcp, if_neg hfree]
  exact ⟨_, _, rfl, look_put_same _ _ _, rfl, look_put_same _ _ _⟩

/-- R234: a home that can be read, host memory or one whose shell is up, does not hold a fill. -/
theorem not_shellAway {p : Place} (h : p.sys = true ∨ s.shellUp p.pa = true) : ¬ (!p.sys && !s.shellUp p.pa) = true := by
  rcases h with h | h <;> simp [h]

/-- R235: a write-back whose chunks are all written, its bank ports done, is complete. -/
theorem writeback_completes {w : WBack} {m : SMap} {n : Nat} (hw : look s.wbs op = some w) (hb : w.begun = true) (hh : w.held = [])
    (hm : look s.maps (8 * w.block + w.map) = some m) (hc : State.wbChunks op w m ((s.mapChunks w.block m).drop w.next) 0 s = (u, n, none)) :
    let x : WBack := { w with next := w.next + n, full := false }
    let v : State := { u with wbs := put u.wbs op x }
    v.engineBusy op = false → exec (.writebackComplete op) s = .next ((v.wbDone op x).noteDone.settleDue 64) := by
  intro x v hbusy
  show execWritebackComplete op s = _
  rw [execWritebackComplete, hw]
  refine (if_neg (by simp [hb, hh])).trans ?_
  simp only [hm, hc]
  exact congrArg (fun t : State => Host.Outcome.next (t.noteDone.settleDue 64)) (if_neg (by rw [hbusy]; decide))

/-- Settles O48: a copy by what stops its elements (`copyComplete_runs`), a slot by the oldest copy that awaits it (`find_awaits`), a write-back by the chunks it
has written; what completes is gone because nothing of a completion brings an operation or a map back (`State.completeOwn_moves`). -/
theorem copiesFillsAndWriteBacks : Obligations.CopiesFillsAndWriteBacks := by
  refine ⟨fun s op cp => copyComplete_held, ?elements, copyDone_gone, ?claim, ?fill, ?closed, ?wback⟩
  case elements =>
    intro s u op cp left h hc hr he x v
    have hexec := copyComplete_runs hc hr he
    refine ⟨?none, ?ats, ?wait, ?page, ?lost, ?poison⟩
    case none | wait | poison => rintro rfl; exact hexec
    case ats => rintro va rfl; exact hexec
    case page => rintro va r w rfl; exact hexec
    case lost => rintro code a rfl; exact hexec
  case claim =>
    intro s c n b x y op cp hb hs hx hcore hmode hsel hclaim howner huid
    refine ⟨slotClaim_none hb, slotClaim_claims hb hs hx ⟨hcore, howner.symm, ?_, hmode, hsel, hclaim⟩⟩
    rw [howner]
    exact huid
  case fill =>
    intro s n leaf size x m hx hm va l ch hleaf hup hp
    show execMapFillComplete n s = _
    simp only [execMapFillComplete, hx, hm]
    rw [hleaf]
    exact (if_neg (not_shellAway hup)).trans (if_neg (by rw [hp]; decide))
  case closed =>
    intro s n x hx hm
    show execMapFillComplete n s = _
    simp only [execMapFillComplete, hx, hm]
  case wback =>
    intro s u op w m hw hb hh hm n hc x v hbusy
    exact ⟨writeback_completes hw hb hh hm hc hbusy, wbDone_gone v op x⟩

end Sys2Proof.Machine
end

section
/-! SUPPORT. Floe launches, demotion and exhaustion (R248 to R250): what the work that follows a launch leaves, the floe that stands in its slot
afterwards, its threads, and the save of a demoted floe. -/

namespace Sys2Proof.Machine

variable {s t u : State} {f : Floe} {k : Nat}

/-! ## What follows a launch changes no more than what floes know and threads hold -/

/-- Blocks, grids and segment copies stand as they did. -/
structure State.SameCode (s t : State) : Prop where
  blocks : t.blocks = s.blocks
  grids : t.grids = s.grids
  segs : t.segs = s.segs

theorem State.SameCode.trans (h : s.SameCode t) (h' : t.SameCode u) : s.SameCode u :=
  ⟨h'.blocks.trans h.blocks, h'.grids.trans h.grids, h'.segs.trans h.segs⟩

theorem State.SameCode.grid_block (h : s.SameCode t) (bk : Nat) : t.grid (t.block bk).grid = s.grid (s.block bk).grid := by
  unfold State.grid State.block
  rw [h.blocks, h.grids]

theorem State.SameCode.entryGood (h : s.SameCode t) {core : Nat} {g : Grid} {w : Word} (hw : Said.entryGood s core g w) : Said.entryGood t core g w := by
  unfold Said.entryGood State.copyOf at hw ⊢
  rw [h.segs]
  exact hw

/-- Besides, each floe is the same but for what it knows, and a thread in a floe stays in one. -/
structure State.Readied (s t : State) : Prop extends s.SameCode t where
  floe : ∀ k f, s.floe? k = some f → ∃ es b, t.floe? k = some { f with know := es, fold := b }
  thread : ∀ i, (s.thread i).st = 1 → (t.thread i).st = 1

theorem State.Readied.of_same (hb : t.blocks = s.blocks) (hg : t.grids = s.grids) (hs : t.segs = s.segs) (hf : t.floes = s.floes)
    (ht : t.threads = s.threads) : s.Readied t := by
  refine ⟨⟨hb, hg, hs⟩, fun k f h => ⟨f.know, f.fold, ?_⟩, fun i h => ?_⟩
  · rw [State.floe?, hf]
    exact h
  · rw [State.thread, ht]
    exact h

theorem State.Readied.refl (s : State) : s.Readied s := .of_same rfl rfl rfl rfl rfl

theorem State.Readied.trans (h : s.Readied t) (h' : t.Readied u) : s.Readied u := by
  refine ⟨h.toSameCode.trans h'.toSameCode, fun k f hf => ?_, fun i hi => h'.thread i (h.thread i hi)⟩
  obtain ⟨es, b, ht⟩ := h.floe k f hf
  obtain ⟨es', b', hu⟩ := h'.floe k _ ht
  exact ⟨es', b', hu⟩

theorem readied_foldl {α : Type} {g : State → α → State} (hg : ∀ (s : State) a, s.Readied (g s a)) (as : List α) (s : State) : s.Readied (as.foldl g s) :=
  List.foldlRecOn (motive := fun t => s.Readied t) as g (.refl s) fun t ht a _ => ht.trans (hg t a)

theorem readied_modThread {g : Thread → Thread} (hg : ∀ th, th.st = 1 → (g th).st = 1) (s : State) (i : Nat) : s.Readied (s.modThread i g) := by
  refine ⟨⟨rfl, rfl, rfl⟩, fun k f h => ⟨f.know, f.fold, h⟩, fun j hj => ?_⟩
  rw [State.thread_modThread]
  split
  · next h => exact hg _ (h ▸ hj)
  · exact hj

theorem readied_knows (hf : s.floe? k = some f) (es : List (Nat × Nat)) (b : Bool) : s.Readied (s.setFloe k { f with know := es, fold := b }) := by
  refine ⟨⟨rfl, rfl, rfl⟩, fun j x hx => ?_, fun i h => h⟩
  rw [State.floe?_setFloe]
  split
  · next hj =>
    subst hj
    obtain rfl : f = x := Option.some.inj (hf.symm.trans hx)
    exact ⟨es, b, rfl⟩
  · exact ⟨x.know, x.fold, hx⟩

theorem readied_addRfold (s : State) (core n : Nat) : s.Readied (s.addRfold core n) := by
  unfold State.addRfold
  split
  · exact .refl s
  · exact .of_same rfl rfl rfl rfl rfl

theorem readied_bumpRegion (s : State) (k : Nat) : s.Readied (s.bumpRegion k) := by
  unfold State.bumpRegion
  extract_lets r v
  have hv : s.Readied v := .of_same rfl rfl rfl rfl rfl
  split
  · exact .refl s
  · split
    · exact hv.trans (readied_addRfold v _ 1)
    · exact hv

theorem readied_markStart (s : State) (k bk : Nat) : s.Readied (s.markStart k bk) := .of_same rfl rfl rfl rfl rfl

theorem readied_recordsWritten (s : State) (ts : List Nat) : s.Readied (s.recordsWritten ts) :=
  readied_foldl (fun _ _ => .of_same (by simp) (by simp) (by simp) (by simp) (by simp)) ts s

theorem readied_orderWith (s : State) (ts : List Nat) : s.Readied (s.orderWith ts) := by
  unfold State.orderWith
  split
  · exact .refl s
  · exact .of_same rfl rfl rfl rfl rfl

theorem readied_mergeRec (s : State) (k r : Nat) : s.Readied (s.mergeRec k r) := by
  unfold State.mergeRec
  split
  · unfold State.mergeInto
    split
    · exact .refl s
    · next f hf => exact (readied_knows hf _ _).trans (readied_addRfold _ _ _)
  · refine State.Readied.trans ?_ (readied_addRfold _ _ _)
    unfold State.modFloe
    split
    · next f hf => exact readied_knows hf f.know true
    · exact .refl s

theorem readied_mergeRecs (s : State) (k : Nat) (rs : List Nat) : s.Readied (s.mergeRecs k rs) := readied_foldl (fun s r => readied_mergeRec s k r) rs s

theorem readied_mergeThreads (s : State) (k : Nat) (ts : List Nat) : s.Readied (s.mergeThreads k ts) :=
  (readied_foldl (fun s t => readied_modThread (g := fun th => { th with srec := none }) (fun _ h => h) s t) ts s).trans (readied_mergeRecs _ k _)

/-- What the threads' records and what they published bring to the floe that they make up (R275, R287). -/
theorem readied_join (s : State) (k : Nat) (ts : List Nat) : s.Readied (((s.recordsWritten ts).orderWith ts).mergeThreads k ts) :=
  ((readied_recordsWritten s ts).trans (readied_orderWith _ ts)).trans (readied_mergeThreads _ k ts)

theorem readied_openOverflow (s : State) (q b : Nat) : s.Readied (s.openOverflow q b) := by
  unfold State.openOverflow
  dsimp only
  split
  · exact .refl s
  · generalize put s.bins _ _ = bins
    have hbins : s.Readied { s with bins := bins } := .of_same rfl rfl rfl rfl rfl
    exact hbins.trans (readied_foldl (fun s (e : Nat × Thread) => readied_modThread (by exact fun _ h => h) s e.1) _ _)

theorem breakResv_st (ts : Tab Thread) (sys : Bool) (lo hi i : Nat) :
    (lookD {} (breakResv ts sys lo hi) i : Thread).st = (lookD {} ts i : Thread).st := by
  refine lookD_map_keeps (g := Thread.st) (fun e => ?_) {} ts i
  split
  · split <;> exact ⟨rfl, rfl⟩
  · exact ⟨rfl, rfl⟩

theorem readied_takeInjection (s : State) (a p n m : Nat) : s.Readied (s.takeInjection a p n m) :=
  .of_same (by simp) (by simp) (by simp) (by simp) (by simp)

theorem readied_writePlace (s : State) (p : Place) (bs : List Byte) : s.Readied (s.writePlace p bs) := by
  have hresv : ∀ lo hi t : Nat, (s.thread t).st = 1 → (lookD {} (breakResv s.threads p.sys lo hi) t : Thread).st = 1 :=
    fun lo hi t h => (breakResv_st s.threads p.sys lo hi t).trans h
  unfold State.writePlace
  extract_lets n ts u
  split
  · exact .refl s
  · split
    · exact ⟨⟨rfl, rfl, rfl⟩, fun k f h => ⟨f.know, f.fold, h⟩, hresv _ _⟩
    · refine State.Readied.trans ?_ (readied_takeInjection _ _ _ _ _)
      exact ⟨⟨rfl, rfl, rfl⟩, fun k f h => ⟨f.know, f.fold, h⟩, hresv _ _⟩

theorem readied_writeN (s : State) (p : Place) (n v : Nat) : s.Readied (s.writeN p n v) := readied_writePlace s p _

theorem readied_replStore (s : State) (r : RRec) : s.Readied (s.replStore r) := by
  unfold State.replStore
  dsimp only
  split <;> exact (readied_writeN _ _ _ _).trans (readied_writeN _ _ _ _)

theorem readied_replLog (s : State) (r : RRec) : s.Readied (s.replLog r) := by
  unfold State.replLog
  split
  · exact .refl s
  · split
    · exact .refl s
    · extract_lets v w
      split
      · exact .of_same rfl rfl rfl rfl rfl
      · refine State.Readied.trans (t := w) ?_ (readied_replStore w r)
        dsimp only [w]
        split <;> exact .of_same rfl rfl rfl rfl rfl

/-! ## The floe that a launch brings into its slot (R248, R249) -/

theorem tryEnter_placed {w : Word} (hf : s.floe? k = some f) (hw : f.wait = .seg w)
    (hgood : Said.entryGood s (coreOfFloe k) (s.grid (s.block (f.bkey k)).grid) w) :
    ∃ g, (s.tryEnter k).floe? k = some g ∧ g.lanes = f.lanes ∧ g.blkr = f.blkr ∧ (g.uregs = f.uregs ∨ g.uregs = []) ∧
      (s.tryEnter k).threads = s.threads := by
  unfold State.tryEnter
  simp only [hf, hw]
  split
  · next cid c hc =>
    obtain ⟨h0, he⟩ := hgood _ hc
    unfold State.enterCopy
    simp only [hf]
    rw [if_neg (by dsimp only at he; omega)]
    exact ⟨_, look_put_same _ _ _, rfl, rfl, .inr rfl, rfl⟩
  · exact ⟨f, hf, rfl, rfl, .inl rfl, rfl⟩

/-- Threads that are set into a floe are in one, and no floe changes. -/
theorem launch_threads (ts : List Nat) {g : Thread → Thread} (hg : ∀ th, (g th).st = 1) (s : State) :
    s.Readied (ts.foldl (fun s t => s.modThread t g) s) ∧ ∀ t ∈ ts, ((ts.foldl (fun s t => s.modThread t g) s).thread t).st = 1 := by
  refine ⟨readied_foldl (readied_modThread fun th _ => hg th) ts s, fun t ht => ?_⟩
  refine foldl_established (P := fun v : State => (v.thread t).st = 1) (fun v => ?_) (fun v j hv => ?_) ht s
  · rw [State.thread_modThread, if_pos rfl]
    exact hg _
  · exact (readied_modThread (fun th _ => hg th) v j).thread t hv

/-- A new floe has its threads' lanes and its block, its uniform registers at zero, and its threads are in it (R93, R248). -/
theorem newFloe_placed {blkr : Nat} {w : Word} {lanes : List (Nat × Nat)} (recs : List Nat)
    (hgood : Said.entryGood s (coreOfFloe k) (s.grid (s.block (blockKey (coreOfFloe k) blkr)).grid) w) :
    ∃ g, (s.newFloe k blkr w lanes recs).floe? k = some g ∧ g.lanes = lanes ∧ g.blkr = blkr ∧ g.uregs = [] ∧
      ∀ e ∈ lanes, ((s.newFloe k blkr w lanes recs).thread (threadKey (islotOfFloe k) e.1 e.2)).st = 1 := by
  unfold State.newFloe
  extract_lets n now s₁ f s₂ tks s₃
  have h₁ : s.Readied s₁ := State.Readied.trans (t := n.2) (.of_same rfl rfl rfl rfl rfl) (readied_bumpRegion n.2 k)
  have h₂ : s₁.SameCode s₂ := ⟨rfl, rfl, rfl⟩
  obtain ⟨h₃, hst⟩ := launch_threads tks (g := fun th => { th with st := 1, bin := 0, ovf := false, strt := false, cont := 0, parkt := 0 }) (fun _ => rfl) s₂
  have h₄ := (readied_join s₃ k tks).trans (readied_mergeRecs _ k recs)
  have hcode := (h₁.toSameCode.trans h₂).trans (h₃.trans h₄).toSameCode
  obtain ⟨es, b, hf⟩ := (h₃.trans h₄).floe k f (look_put_same _ _ _)
  obtain ⟨g, hg, hl, hb, hu, ht⟩ := tryEnter_placed hf rfl (hcode.entryGood (hcode.grid_block _ ▸ hgood))
  refine ⟨g, hg, hl, hb, ?_, fun e he => ?_⟩
  · rcases hu with hu | hu <;> exact hu
  · unfold State.thread
    rw [ht]
    exact h₄.thread _ (hst _ (List.mem_map_of_mem he))

theorem tryEnter_settled (hf : s.floe? k = some f) (hw : ∀ w, f.wait ≠ .seg w) : s.tryEnter k = s := by
  unfold State.tryEnter
  simp only [hf]

/-- A floe that comes back from a save, and waits for no segment, is the same floe and waits for nothing (R249). -/
theorem restoreFloe_placed (s : State) (k q i : Nat) (hw : ∀ w, f.wait ≠ .seg w) :
    ∃ g, (s.restoreFloe k q i f).floe? k = some g ∧ g.fid = f.fid ∧ g.lanes = f.lanes ∧ g.uregs = f.uregs ∧ g.wait = .none := by
  unfold State.restoreFloe
  extract_lets s₁ s₂ s₃ tks s₄
  obtain ⟨h₄, -⟩ := launch_threads tks (g := fun th => { th with st := 1, save := 0, parkt := 0 }) (fun _ => rfl) s₃
  obtain ⟨es, b, hf⟩ := (h₄.trans (readied_join _ k tks)).floe k _ (look_put_same _ _ _)
  split at hf
  · next w h => exact absurd h (hw w)
  · rw [tryEnter_settled hf nofun]
    exact ⟨_, hf, rfl, rfl, rfl, rfl⟩

/-! ## Demotion (R249) -/

@[simp] theorem State.recordsWritten_saves (s : State) (ts : List Nat) : (s.recordsWritten ts).saves = s.saves :=
  foldl_keeps State.saves (fun u _ => State.takeInjection_saves u ..) ts s

@[simp] theorem State.recordsWritten_floes (s : State) (ts : List Nat) : (s.recordsWritten ts).floes = s.floes :=
  foldl_keeps State.floes (fun u _ => State.takeInjection_floes u ..) ts s

theorem foldl_modThread_saves_floes (ts : List Nat) (g : Thread → Thread) (s : State) :
    (ts.foldl (fun s t => s.modThread t g) s).saves = s.saves ∧ (ts.foldl (fun s t => s.modThread t g) s).floes = s.floes :=
  ⟨foldl_keeps State.saves (fun u t => State.modThread_saves u t g) ts s, foldl_keeps State.floes (fun u t => State.modThread_floes u t g) ts s⟩

/-- A demoted floe's slot is free, and it stands in the save as it stood in the slot, with the clock of its demotion (R249). -/
theorem demote_saved (hf : s.floe? k = some f) (sv : Nat) : (s.demote k sv).floe? k = none ∧
    ∃ x, look (s.demote k sv).saves (64 * islotOfFloe k + sv) = some x ∧ x.fid = f.fid ∧ x.lanes = f.lanes ∧ x.uregs = f.uregs ∧ x.wait = f.wait ∧
      x.demoted = some (s.clock (dieOf (coreOfFloe k))) := by
  unfold State.demote
  rw [hf]
  dsimp only
  have hfold := foldl_modThread_saves_floes (f.tkeys k) fun th => { th with st := 3, save := sv, parkt := s.clock (dieOf (coreOfFloe k)) }
  unfold State.floe?
  rw [State.recordsWritten_saves, State.recordsWritten_floes, (hfold _).1, (hfold _).2]
  exact ⟨look_del_same _ _, _, look_put_same _ _ _, rfl, rfl, rfl, rfl, rfl⟩

/-! ## The events -/

theorem freeFloe_lt {q w : Nat} (h : s.freeFloe q = some w) : w < 32 := List.mem_range.1 (List.mem_of_find?_eq_some h)

theorem binSlot_lt {q w : Nat} {x : Bin} (h : s.binSlot q x = some w) : w < 32 := by
  unfold State.binSlot at h
  dsimp only at h
  split at h
  · exact freeFloe_lt h
  · split at h
    · cases h
    · split at h
      · cases h
        omega
      · cases h

/-- The floe slots of an issue slot. -/
theorem floeSlot_keys {q w : Nat} (hw : w < 32) : coreOfFloe (32 * q + w) = q / 4 ∧ islotOfFloe (32 * q + w) = q := by
  unfold coreOfFloe islotOfFloe
  omega

/-- The first candidate is launched into the free slot (R248). -/
theorem floeLaunch_candidate {q : SlotId} {w : Nat} {c : Cand} (hw : s.freeFloe (SlotId.key q) = some w) (hc : s.candidate (SlotId.key q) = some c)
    (hn : s.launchedNow (SlotId.key q) = false) :
    exec (.floeLaunch q) s = .next (((Said.launches s (SlotId.key q)).launchFloe (SlotId.key q) w c).settleDue 64) := by
  show execFloeLaunch q s = _
  simp only [execFloeLaunch, hw, hc, hn]
  rfl

/-- With no free slot, or after a launch in this cycle, nothing is launched (R248). -/
theorem floeLaunch_idle {q : SlotId} (h : s.freeFloe (SlotId.key q) = none ∨ s.launchedNow (SlotId.key q) = true) : exec (.floeLaunch q) s = .next s := by
  show execFloeLaunch q s = _
  unfold execFloeLaunch
  dsimp only
  split
  · next w c hw hc =>
    rcases h with h | h
    · rw [hw] at h
      cases h
    · rw [if_pos h]
  · rfl

/-- What a bin's threads become before the bin, the log and the replay are brought up to date (R247, R377, R378). -/
theorem launchFloe_bin_eq (s : State) (q w b : Nat) (x : Bin) : ∃ v r, s.SameCode v ∧ s.launchFloe q w (.bin b x) =
    ((v.newFloe (32 * q + (s.binSlot q x).getD w) x.blkr x.cont x.lanes []).openOverflow q b).replLog r := by
  refine ⟨_, _, ?_, rfl⟩
  split <;> exact ⟨rfl, rfl, rfl⟩

/-- A bin's threads make up a new floe (R247, R248). -/
theorem launchFloe_bin {q w b : Nat} {x : Bin} (hw : w < 32)
    (hgood : Said.entryGood s (q / 4) (s.grid (s.block (blockKey (q / 4) x.blkr)).grid) x.cont) :
    ∃ g, (s.launchFloe q w (.bin b x)).floe? (32 * q + (s.binSlot q x).getD w) = some g ∧ g.lanes = x.lanes ∧ g.blkr = x.blkr ∧
      ∀ e ∈ x.lanes, ((s.launchFloe q w (.bin b x)).thread (threadKey q e.1 e.2)).st = 1 := by
  obtain ⟨v, r, hv, heq⟩ := launchFloe_bin_eq s q w b x
  have hk : (s.binSlot q x).getD w < 32 := by
    cases h : s.binSlot q x with
    | none => exact hw
    | some j => exact binSlot_lt h
  obtain ⟨hcore, hslot⟩ := floeSlot_keys (q := q) hk
  generalize 32 * q + (s.binSlot q x).getD w = k at *
  obtain ⟨g, hg, hl, hb, -, hst⟩ := newFloe_placed (s := v) (k := k) (blkr := x.blkr) (lanes := x.lanes) []
    (hcore ▸ hv.entryGood (hv.grid_block _ ▸ hgood))
  have hafter := (readied_openOverflow (v.newFloe k x.blkr x.cont x.lanes []) q b).trans (readied_replLog _ r)
  obtain ⟨es, fo, hf⟩ := hafter.floe k g hg
  rw [heq]
  exact ⟨_, hf, hl, hb, fun e he => hafter.thread _ (hslot ▸ hst e he)⟩

theorem leastBy_mem {α : Type} {key : α → Nat} {l : List α} {x : α} (h : leastBy key l = some x) : x ∈ l := by
  have : ∀ y, leastBy key l = some y → y ∈ l := by
    unfold leastBy
    refine List.foldlRecOn (motive := fun b => ∀ y, b = some y → y ∈ l) l _ nofun fun b hb a ha y hy => ?_
    cases b with
    | none => exact Option.some.inj hy ▸ ha
    | some z =>
      dsimp only at hy
      split at hy
      · exact Option.some.inj hy ▸ ha
      · exact hb y hy
  exact this x h

/-- A floe that may be demoted stands in one of the issue slot's floe slots (R249). -/
theorem demotable_keys {q k : Nat} (h : s.demotable q = some (k, f)) : coreOfFloe k = q / 4 ∧ islotOfFloe k = q := by
  obtain ⟨-, hlo, hhi⟩ := mem_slice (List.mem_filter.1 (leastBy_mem h)).1
  unfold coreOfFloe islotOfFloe
  dsimp only at hlo hhi
  omega

section
variable {q : SlotId} {sv : Nat} (hd : s.demotable (SlotId.key q) = some (k, f)) (hs : s.freeSave (SlotId.key q) = some sv)
include hd hs

/-- No floe is demoted for a slot that is not crowded (R249). -/
theorem floeDemote_roomy (hc : s.crowded (SlotId.key q) true = false) : exec (.floeDemote q) s = .next s := by
  show execFloeDemote q s = _
  simp [execFloeDemote, hd, hs, hc]

/-- A crowded slot demotes the floe that has waited longest, its log begun and its reservations dropped (R189, R249). -/
theorem floeDemote_crowded (hc : s.crowded (SlotId.key q) true = true) (hlog : (s.commit k).2 = none) :
    exec (.floeDemote q) s = .next ((((s.commit k).1.dropResv k).demote k sv).settleDue 64) := by
  show execFloeDemote q s = _
  simp [execFloeDemote, hd, hs, hc, hlog]

end

/-- With no floe to demote and no save left, the block of the floe that has waited longest faults (R250). -/
theorem floeExhaustion_faults {q : SlotId} (hc : s.crowded (SlotId.key q) false = true) (hd : s.demotable (SlotId.key q) = none)
    (hs : s.freeSave (SlotId.key q) = none)
    (hl : leastBy (fun (e : Nat × Floe) => e.2.waitSince)
      ((slice s.floes (32 * SlotId.key q) (32 * SlotId.key q + 32)).filter (fun e => e.2.wait ≠ .none) ++
        (slice s.saves (64 * SlotId.key q) (64 * SlotId.key q + 64)).filter fun e => !s.waitOver (SlotId.key q / 4) e.2) = some (k, f)) :
    exec (.floeExhaustion q) s = .next ((s.addDue (blockKey (SlotId.key q / 4) f.blkr) 0x8006 0 0).settleDue 64) := by
  show execFloeExhaustion q s = _
  unfold execFloeExhaustion
  dsimp only
  rw [if_neg (by simp [hc, hd, hs]), hl]

end Sys2Proof.Machine
end

section
/-! PROOF of the obligation on floe launches, demotion and exhaustion. -/

namespace Sys2Proof.Machine

/-- Settles O46: a launch leaves the floe it brings as it is but for what it knows (`State.Readied`), one candidate at a time; a demotion by the save it
fills (`demote_saved`). -/
theorem floeLaunchesAndDemotion : Obligations.FloeLaunchesAndDemotion := by
  unfold Obligations.FloeLaunchesAndDemotion
  refine ⟨?save, ?start, ?bin, fun q s h => floeLaunch_idle h, ?demote, fun q s k f hc hd hs hl => floeExhaustion_faults hc hd hs hl⟩
  case save =>
    intro q s w i f hw hc hn k v
    exact ⟨floeLaunch_candidate hw hc hn, restoreFloe_placed v k (SlotId.key q) i⟩
  case start =>
    intro q s w x hw hc hn k u
    refine ⟨floeLaunch_candidate hw hc hn, fun hgood => ?_⟩
    obtain ⟨hcore, -⟩ := floeSlot_keys (q := SlotId.key q) (freeFloe_lt hw)
    have hu : s.SameCode u := ⟨rfl, rfl, rfl⟩
    obtain ⟨g, hg, hl, hb, hr, -⟩ := newFloe_placed (s := u) (k := k) (blkr := x.blkr) (lanes := x.lanes) x.recs
      (hcore.symm ▸ hu.entryGood (hu.grid_block _ ▸ hgood))
    exact ⟨g, hg, hl, hb, hr⟩
  case bin =>
    intro q s w b x hw hc hn k hgood
    have hv : s.SameCode (Said.launches s (SlotId.key q)) := ⟨rfl, rfl, rfl⟩
    obtain ⟨g, hg⟩ := launchFloe_bin (b := b) (freeFloe_lt hw) (hv.entryGood (hv.grid_block _ ▸ hgood))
    exact ⟨_, g, floeLaunch_candidate hw hc hn, hg⟩
  case demote =>
    intro q s k sv f hd hs
    refine ⟨floeDemote_roomy hd hs, fun g hc hlog hg => ?_⟩
    obtain ⟨hcore, hslot⟩ := demotable_keys hd
    obtain ⟨hfree, x, hx⟩ := demote_saved hg sv
    rw [hcore, hslot] at hx
    exact ⟨_, x, floeDemote_crowded hd hs hc hlog, hfree, hx⟩

end Sys2Proof.Machine
end

section
/-! SUPPORT. Launches and placement (R259, R295 to R304, R420): device writes leave the grids, a record becomes a grid or is counted, a round of the
master, a block's start, and the end of a scrub. -/

namespace Sys2Proof.Machine

variable {s t u : State} {ctx gid : Nat}

/-! ## Device writes leave the grids (R301, R324) -/

theorem readied_askAts (s : State) (core ctx va : Nat) : s.Readied (s.askAts core ctx va) := by
  unfold State.askAts
  split
  · exact .refl s
  · exact .of_same rfl rfl rfl rfl rfl

theorem readied_devWrite (s : State) (ctx va : Nat) (bs : List Byte) : s.Readied (s.devWrite ctx va bs) := by
  have hwait : s.Readied { s with devWait := s.devWait ++ [(ctx, va, bs)] } := .of_same rfl rfl rfl rfl rfl
  unfold State.devWrite
  split
  · exact hwait
  · split
    · exact readied_writePlace s _ bs
    · exact hwait.trans (readied_askAts _ _ ctx va)
    · exact .refl s

@[simp] theorem State.statWrite_grids (s : State) (g off n v : Nat) : (s.statWrite g off n v).grids = s.grids := (readied_devWrite s _ _ _).grids

theorem modGrid_some {x : Grid} (h : look s.grids gid = some x) (g : Grid → Grid) : look (s.modGrid gid g).grids gid = some (g x) := by
  unfold State.modGrid
  rw [h]
  exact look_put_same _ _ _

/-- A grid takes the STATE it is given (R301). -/
theorem setGState_some {x : Grid} (h : look s.grids gid = some x) (st : Nat) : look (s.setGState gid st).grids gid = some { x with state := st } := by
  unfold State.setGState
  rw [State.statWrite_grids]
  exact modGrid_some h _

/-! ## Records (R295 to R302) -/

/-- A discarded record is counted (R297). -/
theorem dropLaunch_counts (h : (s.ctxReg ctx 0x48).toNat < 2 ^ 32 - 1) : (s.dropLaunch ctx).ctxReg ctx 0x48 = s.ctxReg ctx 0x48 + 1 := by
  unfold State.dropLaunch
  rw [State.ctxReg_setCtxReg, if_pos rfl]
  apply BitVec.eq_of_toNat_eq
  simp
  omega

theorem acceptLaunch_noPlace {r : BitVec 512} (h : s.hasPlace ctx = false) : s.acceptLaunch ctx r = s.dropLaunch ctx := by
  unfold State.acceptLaunch
  rw [if_pos (by rw [h]; rfl)]

theorem acceptLaunch_noStat {r : BitVec 512} (hp : s.hasPlace ctx = true) (hs : s.statOk { ctx := ctx, lrec := r, order := s.nextId } = false) :
    s.acceptLaunch ctx r = s.dropLaunch ctx := by
  unfold State.acceptLaunch
  rw [if_neg (by rw [hp]; decide)]
  exact if_pos (by rw [Bool.not_eq_true']; exact hs)

/-- A record that is taken becomes a grid under the next number, accepted or failed (R298, R300). -/
theorem acceptLaunch_grid {r : BitVec 512} (hp : s.hasPlace ctx = true) (hs : s.statOk { ctx := ctx, lrec := r, order := s.nextId } = true) :
    ∃ g, look (s.acceptLaunch ctx r).grids s.nextId = some g ∧ g.ctx = ctx ∧ g.lrec = r ∧ (g.state = 0 ∨ g.state = 5) := by
  unfold State.acceptLaunch
  rw [if_neg (by rw [hp]; decide)]
  extract_lets n g gid s₁ s₂ ds s₃ p s₄ code
  rw [if_neg (by rw [show s.statOk g = true from hs]; decide)]
  have h₁ : look ((s₁.statWrite gid 4 4 0).statWrite gid 12 52 0).grids gid = some g := by
    rw [State.statWrite_grids, State.statWrite_grids]
    exact look_put_same _ _ _
  have h₃ := modGrid_some (setGState_some h₁ 0) fun x => { x with dies := BitVec.ofNat 8 (ds.foldl (fun n d => n + 2 ^ d) 0), mask := capOf ds }
  split
  · exact ⟨_, h₃, rfl, rfl, .inl rfl⟩
  · have h₄ : look (s₄.statWrite gid 4 4 code).grids gid = _ := (congrArg (look · gid) (State.statWrite_grids s₄ gid 4 4 code)).trans h₃
    exact ⟨_, setGState_some h₄ 5, rfl, rfl, .inr rfl⟩

/-- A write to the aperture that is discarded (R295, R297). -/
theorem launchRecord_dropped {page size : Nat} {pasid : BitVec 20} {r : BitVec 512} (hp : page < 64)
    (h : size ≠ 64 ∨ s.ctxVal page = false ∨ s.ctxPasid page ≠ pasid ∨ s.pasidTwice page = true ∨ s.pkg.ready = false) :
    exec (.launchRecord page pasid size r) s = .next (s.wake.dropLaunch page) := by
  show execLaunchRecord page pasid size r s = _
  unfold execLaunchRecord
  rw [if_neg (by omega), if_pos (by simpa using h)]

theorem launchRecord_taken {page : Nat} {pasid : BitVec 20} {r : BitVec 512} (hp : page < 64) (hv : s.ctxVal page = true)
    (hpasid : s.ctxPasid page = pasid) (htwice : s.pasidTwice page = false) (hready : s.pkg.ready = true) :
    exec (.launchRecord page pasid 64 r) s = .next (s.wake.acceptLaunch page r) := by
  show execLaunchRecord page pasid 64 r s = _
  unfold execLaunchRecord
  rw [if_neg (by omega), if_neg (by simp [hv, hpasid, htwice, hready])]

/-- The first line of its context left is taken off the list, and then judged (R298, R302). -/
theorem deviceSideLaunch_first {n bk uid coord : Nat} {r : BitVec 512} (hn : s.launches[n]? = some (ctx, r, bk, uid, coord))
    (hfirst : ∀ x ∈ s.launches.take n, x.1 ≠ ctx) :
    let u : State := { s with launches := s.launches.eraseIdx n }
    exec (.deviceSideLaunch n) s = if s.ctxVal ctx = false ∨ s.pasidTwice ctx = true then .next (u.dropLaunch ctx)
      else if s.hasPlace ctx = false then .next (((u.dropLaunch ctx).addDueOnce bk uid 0x8007 coord).settleDue 64)
      else .next (u.acceptLaunch ctx r) := by
  intro u
  show execDeviceSideLaunch n s = _
  unfold execDeviceSideLaunch
  rw [hn]
  dsimp only
  rw [if_neg fun h => ?_]
  · simp only [Bool.not_eq_true']
    rfl
  · obtain ⟨x, hx, he⟩ := List.any_eq_true.1 h
    exact hfirst x hx (eq_of_beq he)

/-! ## Rounds (R303) -/

/-- A round outside replay with no drift to place again: shares of what is left for the dies with free cores. -/
theorem round_shares {fs : List (Nat × Nat)} (hagain : (s.grid gid).again = []) (hleft : (s.grid gid).handed < (s.grid gid).drifts)
    (hrepl : s.replMode (s.grid gid).ctx ≠ 2)
    (hfs : fs = (((List.range 8).filter fun d => (s.grid gid).dies.getLsbD d && s.placeable d && !(s.grid gid).busyDie d).map
      fun d => (d, s.freeCores gid d)).filter (·.2 ≠ 0)) :
    let rs := cutRanges (shareOut (min (64 * fs.length) ((s.grid gid).drifts - (s.grid gid).handed)) fs) (s.grid gid).handed
    rs ≠ [] → s.round gid true = some (s.modGrid gid fun x => { x with
      handed := rs.foldl (fun n r => max n r.stop) x.handed
      ranges := (x.ranges.filter fun r => decide (r.nxt < r.stop)) ++ rs }) := by
  intro rs hrs
  have hne : fs ≠ [] := by
    rintro rfl
    exact hrs rfl
  unfold State.round
  dsimp only
  rw [if_neg (by omega), if_neg hrepl]
  simp only [Bool.true_and]
  rw [← hfs, hagain]
  obtain ⟨f, fs, rfl⟩ := List.exists_cons_of_ne_nil hne
  dsimp only
  rw [if_neg (by simp; omega), if_neg hrs]

/-! ## The start of a block (R242, R384) -/

theorem freeBlock_spec {core n : Nat} (h : s.freeBlock core = some n) : n < 32 ∧ s.block? (32 * core + n) = none :=
  ⟨List.mem_range.1 (List.mem_of_find?_eq_some h), Option.isNone_iff_eq_none.1 (List.find?_some (p := fun n => (s.block? (32 * core + n)).isNone) h)⟩

@[simp] theorem State.setLvl_blocks (s : State) (l : Space) (m : List Host.Cell) : (s.setLvl l m).blocks = s.blocks := by
  cases l <;> rfl

@[simp] theorem State.scrub_blocks (s : State) (l : Space) (pa n bk : Nat) : (s.scrub l pa n bk).blocks = s.blocks := by
  unfold State.scrub
  split
  · rfl
  · exact State.setLvl_blocks ..

@[simp] theorem State.replCombine_blocks (s : State) (r : RRec) : (s.replCombine r).blocks = s.blocks := by
  unfold State.replCombine
  split
  · rfl
  · exact (readied_replLog s r).blocks

theorem startBlock_block {core index drift drf base bk : Nat} {rs : List Nat} (h : s.startBlock gid core index drift drf base rs = some (u, bk)) :
    bk / 32 = core ∧ s.block? bk = none ∧
      ∃ b, u.block? bk = some b ∧ b.grid = gid ∧ b.index = index ∧ b.drift = drift ∧ b.drf = drf ∧ b.clusBase = base := by
  unfold State.startBlock at h
  extract_lets g now at h
  split at h
  · next n ub hn hub =>
    obtain ⟨hlt, hfree⟩ := freeBlock_spec hn
    extract_lets bk' at h
    split at h
    · cases h
    · next v ks hv =>
      extract_lets uid s₁ s₂ s₃ s₄ s₅ fs s₆ s₇ r at h
      have h₅ : s₅.blocks = s₃.blocks := (readied_recordsWritten s₄ ks).blocks.trans (foldl_keeps State.blocks (by intro _ _; rfl) ks s₃)
      have h₇ : s₇.blocks = s₅.blocks := State.scrub_blocks s₆ ..
      obtain ⟨hu, hbk⟩ := Prod.mk.inj (Option.some.inj h)
      have hkey : bk = 32 * core + n := hbk.symm
      have hblocks : u.blocks = s₃.blocks := by
        rw [← hu, State.replCombine_blocks]
        exact h₇.trans h₅
      subst hkey
      exact ⟨by omega, hfree, _, (congrArg (look · _) hblocks).trans (look_put_same _ _ _), rfl, rfl, rfl, rfl, rfl⟩
  · cases h

/-! ## The end of a scrub (R249, R259) -/

/-- A table whose entries change under their keys has each entry changed where it stood. -/
theorem look_map {α : Type} {h : Nat × α → Nat × α} (hk : ∀ e, (h e).1 = e.1) (t : Tab α) (i : Nat) :
    look (t.map h) i = (look t i).map fun x => (h (i, x)).2 := by
  induction t with
  | nil => rfl
  | cons e t ih =>
    obtain ⟨j, x⟩ := e
    rw [List.map_cons, look, look, hk]
    split
    · next hi => rw [hi]; rfl
    · exact ih

/-- A scrub of a block that has another is taken off the list (R259). -/
theorem shareScrubComplete_more {n : Nat} {x : Nat × Nat × Nat × Nat} (hx : s.scrubs[n]? = some x)
    (hy : ∃ y ∈ s.scrubs.eraseIdx n, y.2.2.2 = x.2.2.2) : exec (.shareScrubComplete n) s = .next { s with scrubs := s.scrubs.eraseIdx n } := by
  show execShareScrubComplete n s = _
  unfold execShareScrubComplete
  rw [hx]
  exact if_pos (by simpa using hy)

/-- With the last of its block the block's first floes wait as candidates from then (R249). -/
theorem shareScrubComplete_last {n : Nat} {x : Nat × Nat × Nat × Nat} (hx : s.scrubs[n]? = some x) (hy : ∀ y ∈ s.scrubs.eraseIdx n, y.2.2.2 ≠ x.2.2.2) :
    ∃ u, exec (.shareScrubComplete n) s = .next u ∧ u.scrubs = s.scrubs.eraseIdx n ∧ ∀ e, look u.starting e = (look s.starting e).map fun f =>
      if blockKey (e / 4) f.blkr = x.2.2.2 then { f with since := s.clock (x.2.2.2 / 4096) } else f := by
  have hexec : exec (.shareScrubComplete n) s = .next { s with
      scrubs := s.scrubs.eraseIdx n
      starting := s.starting.map fun e =>
        if blockKey (e.1 / 4) e.2.blkr = x.2.2.2 then (e.1, { e.2 with since := s.clock (x.2.2.2 / 4096) }) else e } := by
    show execShareScrubComplete n s = _
    unfold execShareScrubComplete
    rw [hx]
    refine if_neg fun h => ?_
    obtain ⟨y, hm, he⟩ := List.any_eq_true.1 h
    exact hy y hm (eq_of_beq he)
  refine ⟨_, hexec, rfl, fun e => (look_map (fun e => ?_) s.starting e).trans ?_⟩
  · split <;> rfl
  · congr 1
    funext f
    exact apply_ite Prod.snd _ _ _

/-! ## Distribution (R303, R304) -/

/-- A launch that may not be placed, that SER holds or that an earlier one goes before, gets nothing. -/
theorem driftDistribution_waits (h : s.mayPlace gid = false ∨ s.serHeld gid = true ∨ s.earlierFirst gid = true) :
    exec (.driftDistribution gid) s = .next s := by
  show execDriftDistribution gid s = _
  unfold execDriftDistribution
  exact if_pos (by simpa [or_assoc] using h)

section
variable (hm : s.mayPlace gid = true) (hser : s.serHeld gid = false) (he : s.earlierFirst gid = false)
include hm hser he

theorem driftDistribution_round (hc : (s.grid gid).coRes = false) (hr : s.round gid true = some u) : exec (.driftDistribution gid) s = .next u := by
  show execDriftDistribution gid s = _
  simp [execDriftDistribution, hm, hser, he, hc, hr]

theorem driftDistribution_together (hc : (s.grid gid).coRes = true) (ht : s.together gid = some u) : exec (.driftDistribution gid) s = .next u := by
  show execDriftDistribution gid s = _
  simp [execDriftDistribution, hm, hser, he, hc, ht]

end

theorem blockPlace_places {die drift : Nat} (hm : s.mayPlace gid = true) (hc : (s.grid gid).coRes = false) (hp : s.placeable die = true)
    (hn : (s.grid gid).nextDrift die = some drift) (hd : s.placeDrift gid die drift = some u) :
    exec (.blockPlace gid die) s = .next (u.modGrid gid fun x => x.advanceDie die drift) := by
  show execBlockPlace gid die s = _
  simp [execBlockPlace, State.placeNext, hm, hc, hp, hn, hd]

end Sys2Proof.Machine
end

section
/-! PROOF of the obligation on launch records, rounds, placement and scrubs. -/

namespace Sys2Proof.Machine

/-- Settles O52, clause by clause: device writes leave the grids (`readied_devWrite`), so a record stands as the grid it became; and a started block stands
where the free number was. -/
theorem launchesAndPlacement : Obligations.LaunchesAndPlacement := by
  unfold Obligations.LaunchesAndPlacement
  refine ⟨?record, fun ctx r s => ⟨acceptLaunch_noPlace, acceptLaunch_noStat, acceptLaunch_grid, dropLaunch_counts⟩, ?line, ?distribution, ?round,
    fun gid die drift s u => blockPlace_places, fun gid core index drift drf base bk rs s u => startBlock_block, ?scrub⟩
  case record =>
    intro page size pasid r s
    refine ⟨fun hp => if_pos hp, launchRecord_dropped, ?_⟩
    rintro hp rfl hv hpasid htwice hready
    exact launchRecord_taken hp hv hpasid htwice hready
  case line =>
    intro n ctx bk uid coord r s hn hfirst u
    have hx := deviceSideLaunch_first hn hfirst
    refine ⟨fun h => hx.trans (if_pos h), fun hv ht hp => hx.trans ?_, fun hv ht hp => hx.trans ?_⟩
    · rw [if_neg (by simp [hv, ht]), if_pos hp]
    · rw [if_neg (by simp [hv, ht]), if_neg (by simp [hp])]
  case distribution =>
    intro gid s
    exact ⟨driftDistribution_waits, fun hm hser he =>
      ⟨fun u hc hr => driftDistribution_round hm hser he hc hr, fun u hc ht => driftDistribution_together hm hser he hc ht⟩⟩
  case round =>
    intro gid s fs g hagain hleft hrepl hfs
    exact round_shares hagain hleft hrepl hfs
  case scrub =>
    intro n s
    refine ⟨fun h => ?_, fun x hx => ⟨shareScrubComplete_more hx, shareScrubComplete_last hx⟩⟩
    show execShareScrubComplete n s = _
    rw [execShareScrubComplete, h]

end Sys2Proof.Machine
end

section
/-! SUPPORT. The four byte memories as one value, and what keeps them in canonical form: folds, answers of an instruction's own part, outcomes. -/

namespace Sys2Proof.Machine

/-! A function that leaves the four byte memories alone has one equation, `f_mems`, which `simp` uses. The few that write them go through
`State.setLvl` and `State.writePlace`, or drop cells: for them and for what calls them `wfMems_f` says that canonical memories stay so. -/

/-- Device memory and the three scratchpad levels. -/
structure Mems where
  mem : List Host.Cell
  unit : List Host.Cell
  clus : List Host.Cell
  dmem : List Host.Cell

/-- The byte memories of a state. -/
@[simp] abbrev State.mems (s : State) : Mems := ⟨s.mem, s.unit, s.clus, s.dmem⟩

/-- All four stand in canonical form. -/
def WfMems (m : Mems) : Prop := Memory.wf m.mem = true ∧ Memory.wf m.unit = true ∧ Memory.wf m.clus = true ∧ Memory.wf m.dmem = true

theorem memoriesCanonical_iff {s : State} : Said.memoriesCanonical s ↔ WfMems s.mems := Iff.rfl

theorem wfMems_nil : WfMems ⟨[], [], [], []⟩ := ⟨rfl, rfl, rfl, rfl⟩

/-! ## Choices and folds -/

@[simp] theorem ite_mems (p : Prop) [Decidable p] (s t : State) : (if p then s else t).mems = if p then s.mems else t.mems :=
  apply_ite State.mems p s t

@[simp] theorem foldl_mems {α : Type} {g : State → α → State} (hg : ∀ s a, (g s a).mems = s.mems) (l : List α) (s : State) :
    (l.foldl g s).mems = s.mems :=
  foldl_keeps State.mems hg l s

theorem foldl_fst_mems {α β : Type} {g : State × β → α → State × β} (hg : ∀ s a, (g s a).1.mems = s.1.mems) (l : List α)
    (s : State × β) : (l.foldl g s).1.mems = s.1.mems :=
  foldl_keeps (fun s => s.1.mems) hg l s

theorem foldl_snd_mems {α β : Type} {g : β × State → α → β × State} (hg : ∀ s a, (g s a).2.mems = s.2.mems) (l : List α)
    (s : β × State) : (l.foldl g s).2.mems = s.2.mems :=
  foldl_keeps (fun s => s.2.mems) hg l s

/-- What each step of a fold keeps canonical, the fold does. -/
theorem wfMems_foldl {α : Type} {g : State → α → State} (hg : ∀ s a, WfMems s.mems → WfMems (g s a).mems) (l : List α) {s : State}
    (h : WfMems s.mems) : WfMems (l.foldl g s).mems := by
  induction l generalizing s with
  | nil => exact h
  | cons a l ih => exact ih (hg s a h)

@[simp] theorem wfMems_ite {p : Prop} [Decidable p] {m n : Mems} :
    WfMems (if p then m else n) ↔ (p → WfMems m) ∧ (¬p → WfMems n) := by
  split <;> simp [*]

theorem wfMems_cond {p : Prop} [Decidable p] {s t : State} (hs : WfMems s.mems) (ht : WfMems t.mems) : WfMems (if p then s else t).mems := by
  split
  · exact hs
  · exact ht

theorem wfMems_foldl_snd {α β : Type} {g : β × State → α → β × State} (hg : ∀ s a, WfMems s.2.mems → WfMems (g s a).2.mems)
    (l : List α) {s : β × State} (h : WfMems s.2.mems) : WfMems (l.foldl g s).2.mems := by
  induction l generalizing s with
  | nil => exact h
  | cons a l ih => exact ih (hg s a h)

theorem wfMems_getD {o : Option State} {s : State} (ho : ∀ t, o = some t → WfMems t.mems) (h : WfMems s.mems) : WfMems (o.getD s).mems := by
  cases o with
  | none => exact h
  | some t => exact ho t rfl

@[simp] theorem Ctx.srStep_mems (c : Ctx) (rnd : Rnd) : (c.srStep rnd).2.mems = c.s.mems := by
  unfold Ctx.srStep
  split <;> simp

/-! ## Answers of an instruction's own part -/

/-- The byte memories are canonical in a state that the answer holds. -/
def Res.WfMems : Res → Prop
  | .done s | .jump s | .stall s | .hold s _ | .page s _ _ _ | .uncorrectable s => Machine.WfMems s.mems
  | .trap _ _ _ | .verify _ | .fatal | .poison => True

section
variable {s : State}
@[simp] theorem Res.wfMems_done : (Res.done s).WfMems ↔ Machine.WfMems s.mems := Iff.rfl
@[simp] theorem Res.wfMems_jump : (Res.jump s).WfMems ↔ Machine.WfMems s.mems := Iff.rfl
@[simp] theorem Res.wfMems_stall : (Res.stall s).WfMems ↔ Machine.WfMems s.mems := Iff.rfl
@[simp] theorem Res.wfMems_hold (w : Wait) : (Res.hold s w).WfMems ↔ Machine.WfMems s.mems := Iff.rfl
@[simp] theorem Res.wfMems_page (fs : List (ℕ × ℕ × XRes)) (w e : Bool) : (Res.page s fs w e).WfMems ↔ Machine.WfMems s.mems := Iff.rfl
@[simp] theorem Res.wfMems_uncorrectable : (Res.uncorrectable s).WfMems ↔ Machine.WfMems s.mems := Iff.rfl
@[simp] theorem Res.wfMems_trap (n : ℕ) (ls : List ℕ) (a : ℕ) : (Res.trap n ls a).WfMems := trivial
@[simp] theorem Res.wfMems_verify (ls : List ℕ) : (Res.verify ls).WfMems := trivial
@[simp] theorem Res.wfMems_fatal : Res.fatal.WfMems := trivial
@[simp] theorem Res.wfMems_poison : Res.poison.WfMems := trivial
@[simp] theorem wfMems_trapAt (n : ℕ) (bad : List (ℕ × ℕ)) : (trapAt n bad).WfMems := trivial
end

/-- A check answers with canonical memories when it fails, and with `Q` of its value when it passes. -/
def MemPasses {α : Type} (Q : α → Prop) : Except Res α → Prop
  | .error r => r.WfMems
  | .ok a => Q a

section
variable {α : Type} {Q : α → Prop} {x : Except Res α} {r : Res} {a : α}
@[simp] theorem memPasses_error : MemPasses Q (.error r) ↔ r.WfMems := Iff.rfl
@[simp] theorem memPasses_ok : MemPasses Q (.ok a) ↔ Q a := Iff.rfl
theorem MemPasses.error (h : MemPasses Q x) (hx : x = .error r) : r.WfMems := by subst hx; exact h
theorem MemPasses.ok (h : MemPasses Q x) (hx : x = .ok a) : Q a := by subst hx; exact h
end

/-- An element's step of an engine keeps the byte memories canonical, whether it goes on or halts. -/
def MemKeeps {α : Type} (st : α → State) : Except (State × Halt) α → Prop
  | .error x => WfMems x.1.mems
  | .ok a => WfMems (st a).mems

section
variable {α : Type} {st : α → State} {x : Except (State × Halt) α} {e : State × Halt} {a : α}
@[simp] theorem memKeeps_error : MemKeeps st (.error e) ↔ WfMems e.1.mems := Iff.rfl
@[simp] theorem memKeeps_ok : MemKeeps st (.ok a) ↔ WfMems (st a).mems := Iff.rfl
theorem MemKeeps.error (h : MemKeeps st x) (hx : x = .error e) : WfMems e.1.mems := by subst hx; exact h
theorem MemKeeps.ok (h : MemKeeps st x) (hx : x = .ok a) : WfMems (st a).mems := by subst hx; exact h
end

/-! ## Outcomes of a step -/

/-- The byte memories are canonical in the state that a step goes to. -/
def OutWfMems (o : Host.Outcome State Fault Refusal) : Prop := ∀ t, o = .next t → WfMems t.mems

@[simp] theorem outWfMems_next {s : State} : OutWfMems (.next s) ↔ WfMems s.mems :=
  ⟨fun h => h s rfl, fun h _ ht => by cases ht; exact h⟩

@[simp] theorem outWfMems_fault (f : Fault) : OutWfMems (.fault f) := fun _ h => nomatch h

end Sys2Proof.Machine
end

section
/-! SUPPORT. What the functions of Machine/Addr.lean leave of the byte memories. -/

namespace Sys2Proof.Machine

@[simp] theorem State.takeInjection_mems (s : State) (a p n m : ℕ) : (s.takeInjection a p n m).mems = s.mems := by simp
theorem State.modThread_mems (s : State) (k : ℕ) (g : Thread → Thread) : (s.modThread k g).mems = s.mems := by simp
@[simp] theorem foldl_modThread_mems {α : Type} (k : State → α → ℕ) (g : State → α → Thread → Thread) (l : List α) (s : State) :
    (l.foldl (fun s a => s.modThread (k s a) (g s a)) s).mems = s.mems :=
  foldl_mems (fun _ _ => State.modThread_mems ..) l s

theorem State.modFloe_mems (s : State) (k : ℕ) (g : Floe → Floe) : (s.modFloe k g).mems = s.mems := by simp
@[simp] theorem State.newId_mems (s : State) : s.newId.2.mems = s.mems := by simp [State.newId]
@[simp] theorem State.setPred_mems (s : State) (t p : ℕ) (b : Bool) : (s.setPred t p b).mems = s.mems := by simp [State.setPred]
@[simp] theorem State.orFlags_mems (s : State) (t : ℕ) (f : Fl) : (s.orFlags t f).mems = s.mems := by simp [State.orFlags]
@[simp] theorem State.setTrack_mems (s : State) (l : Space) (pa v : ℕ) : (s.setTrack l pa v).mems = s.mems := by simp [State.setTrack]

theorem wfMems_setLvl {s : State} (h : WfMems s.mems) {m : List Host.Cell} (hm : Memory.wf m = true) (l : Space) :
    WfMems (s.setLvl l m).mems := by
  obtain ⟨hg, hu, hc, hd⟩ := h
  cases l
  · exact ⟨hm, hu, hc, hd⟩
  · exact ⟨hg, hm, hc, hd⟩
  · exact ⟨hg, hu, hm, hd⟩
  · exact ⟨hg, hu, hc, hm⟩

theorem wf_lvl {s : State} (h : WfMems s.mems) (l : Space) : Memory.wf (s.lvl l) = true := by
  obtain ⟨hg, hu, hc, hd⟩ := h
  cases l <;> assumption

@[simp] theorem wfMems_writeLvl {s : State} (h : WfMems s.mems) (l : Space) (a : ℕ) (bs : List Byte) : WfMems (s.writeLvl l a bs).mems := by
  have hw := wfMems_setLvl h (Memory.wf_setBs (wf_lvl h l) a bs) l
  unfold State.writeLvl
  cases l <;> simpa only [State.takeInjection_mems] using hw
@[simp] theorem wfMems_writePlace {s : State} (h : WfMems s.mems) (p : Place) (bs : List Byte) : WfMems (s.writePlace p bs).mems := by
  obtain ⟨hg, hu, hc, hd⟩ := h
  unfold State.writePlace
  dsimp only
  split
  · exact ⟨hg, hu, hc, hd⟩
  · split
    · exact ⟨hg, hu, hc, hd⟩
    · rw [State.takeInjection_mems]
      exact ⟨Memory.wf_setBs hg _ _, hu, hc, hd⟩
@[simp] theorem wfMems_writeN {s : State} (h : WfMems s.mems) (p : Place) (n v : ℕ) : WfMems (s.writeN p n v).mems := by simp [State.writeN, h]
@[simp] theorem State.tlbPut_mems (s : State) (core : ℕ) (e : TlbEnt) : (s.tlbPut core e).mems = s.mems := by simp [State.tlbPut]

@[simp] theorem State.tlbFill_mems (s : State) (core ctx va leaf size : ℕ) : (s.tlbFill core ctx va leaf size).mems = s.mems := by
  simp [State.tlbFill]

@[simp] theorem State.askAts_mems (s : State) (core ctx va : ℕ) : (s.askAts core ctx va).mems = s.mems := by simp [State.askAts]

@[simp] theorem wfMems_devWrite {s : State} (h : WfMems s.mems) (ctx va : ℕ) (bs : List Byte) : WfMems (s.devWrite ctx va bs).mems := by
  unfold State.devWrite
  split
  · exact h
  · split
    · exact wfMems_writePlace h _ _
    · simpa using h
    · exact h

@[simp] theorem wfMems_flushDev {s : State} (h : WfMems s.mems) : WfMems s.flushDev.mems :=
  wfMems_foldl (fun _ _ hs => wfMems_devWrite hs ..) _ h

@[simp] theorem wfMems_statWrite {s : State} (h : WfMems s.mems) (g off n v : ℕ) : WfMems (s.statWrite g off n v).mems :=
  wfMems_devWrite h ..

@[simp] theorem wfMems_setGState {s : State} (h : WfMems s.mems) (g st : ℕ) : WfMems (s.setGState g st).mems :=
  wfMems_statWrite (by simpa using h) ..

end Sys2Proof.Machine
end

section
/-! SUPPORT. What the functions of Machine/Race.lean leave of the byte memories. -/

namespace Sys2Proof.Machine

@[simp] theorem State.addRfold_mems (s : State) (core n : ℕ) : (s.addRfold core n).mems = s.mems := by simp [State.addRfold]
@[simp] theorem State.bumpRegion_mems (s : State) (fk : ℕ) : (s.bumpRegion fk).mems = s.mems := by simp [State.bumpRegion]
@[simp] theorem State.markStart_mems (s : State) (fk bk : ℕ) : (s.markStart fk bk).mems = s.mems := by simp [State.markStart]

@[simp] theorem State.mergeInto_mems (s : State) (fk : ℕ) (es : List (ℕ × ℕ)) (fold : Bool) : (s.mergeInto fk es fold).mems = s.mems := by
  unfold State.mergeInto
  split <;> simp

@[simp] theorem State.mergeRec_mems (s : State) (fk r : ℕ) : (s.mergeRec fk r).mems = s.mems := by
  unfold State.mergeRec
  split <;> simp

@[simp] theorem State.mergeRecs_mems (s : State) (fk : ℕ) (rs : List ℕ) : (s.mergeRecs fk rs).mems = s.mems := by simp [State.mergeRecs]
@[simp] theorem State.storeRec_mems (s : State) (die : ℕ) (x : SyncRec) : (s.storeRec die x).2.mems = s.mems := by simp [State.storeRec]

@[simp] theorem State.publish_mems (s : State) (fk : ℕ) : (s.publish fk).2.mems = s.mems := by
  unfold State.publish
  split <;> simp

@[simp] theorem wfMems_setRaceWord {s : State} (h : WfMems s.mems) (r : RLoc) (v : ℕ) : WfMems (s.setRaceWord r v).mems := by
  unfold State.setRaceWord
  split <;> simp [h]

@[simp] theorem wfMems_raceWrite {s : State} (h : WfMems s.mems) (ag : Agent) (r : RLoc) (n : ℕ) : WfMems (s.raceWrite ag r n).mems :=
  wfMems_foldl (fun s g hs => wfMems_setRaceWord (by split <;> simpa using hs) ..) _ h

@[simp] theorem State.syncWrite_mems (s : State) (l : Space) (sys : Bool) (a n : ℕ) (m : Mark) (w : Who) :
    (s.syncWrite l sys a n m w).mems = s.mems := by simp [State.syncWrite]

@[simp] theorem State.readSync_mems (s : State) (fk : ℕ) (f : Floe) (lane : ℕ) (l : Space) (sys : Bool) (a n : ℕ) (acq : Option Scope) :
    (s.readSync fk f lane l sys a n acq).mems = s.mems := by
  unfold State.readSync
  dsimp only
  split
  · rfl
  · split <;> simp

@[simp] theorem State.setDirty_mems (s : State) (l : Space) (pa n : ℕ) : (s.setDirty l pa n).mems = s.mems := by simp [State.setDirty]

@[simp] theorem wfMems_writePad {s : State} (h : WfMems s.mems) (ag : Agent) (l : Space) (pa : ℕ) (bs : List Byte) :
    WfMems (s.writePad ag l pa bs).mems := by simp [State.writePad, h]

end Sys2Proof.Machine
end

section
/-! SUPPORT. What the functions of Machine/Ops.lean leave of the byte memories. -/

namespace Sys2Proof.Machine

@[simp] theorem wfMems_traceRec {s : State} (h : WfMems s.mems) (ctx r : ℕ) : WfMems (s.traceRec ctx r).mems := by simp [State.traceRec, h]

@[simp] theorem wfMems_traceFloe {s : State} (h : WfMems s.mems) (k : ℕ) (f : Floe) (kind value coord : ℕ) (lanes : List ℕ) :
    WfMems (s.traceFloe k f kind value coord lanes).mems := by simp [State.traceFloe, h]

@[simp] theorem wfMems_replStore {s : State} (h : WfMems s.mems) (r : RRec) : WfMems (s.replStore r).mems := by simp [State.replStore, h]
@[simp] theorem wfMems_replLog {s : State} (h : WfMems s.mems) (r : RRec) : WfMems (s.replLog r).mems := by simp [State.replLog, h]
@[simp] theorem wfMems_replCombine {s : State} (h : WfMems s.mems) (r : RRec) : WfMems (s.replCombine r).mems := by simp [State.replCombine, h]

@[simp] theorem State.openBin_mems (s : State) (tk : ℕ) : (s.openBin tk).mems = s.mems := by
  unfold State.openBin
  dsimp only
  split <;> simp

@[simp] theorem State.enterBin_mems (s : State) (tk : ℕ) : (s.enterBin tk).mems = s.mems := by
  unfold State.enterBin
  dsimp only
  repeat' split
  all_goals simp

@[simp] theorem State.openOverflow_mems (s : State) (q b : ℕ) : (s.openOverflow q b).mems = s.mems := by
  unfold State.openOverflow
  dsimp only
  split
  · rfl
  · rw [foldl_mems (fun _ _ => State.modThread_mems ..)]

@[simp] theorem State.fillBins_mems (s : State) (q : ℕ) : (s.fillBins q).mems = s.mems := by simp [State.fillBins]
@[simp] theorem State.recordsWritten_mems (s : State) (tks : List ℕ) : (s.recordsWritten tks).mems = s.mems := by simp [State.recordsWritten]
@[simp] theorem State.park_mems (s : State) (tk : ℕ) (cont : Word) (srec : Option ℕ) : (s.park tk cont srec).mems = s.mems := by simp [State.park]

@[simp] theorem State.enterBank_mems (s : State) (k fid lane : ℕ) (l : Space) (pa n : ℕ) (pend : Option ℕ) :
    (s.enterBank k fid lane l pa n pend).mems = s.mems := by simp [State.enterBank]

@[simp] theorem State.enterEngine_mems (s : State) (l : Space) (pa n : ℕ) (op : Option ℕ) : (s.enterEngine l pa n op).mems = s.mems := by
  simp [State.enterEngine]

@[simp] theorem wfMems_pushPort {s : State} (h : WfMems s.mems) (k : ℕ) (w : Word) (p lane : ℕ) (v : Word) :
    WfMems (s.pushPort k w p lane v).mems := by
  unfold State.pushPort
  dsimp only
  split
  · exact h
  · split
    · exact h
    · split
      · simpa using h
      · split
        · rw [State.enterBank_mems]
          exact wfMems_writePad (by simpa using h) ..
        · simpa using h

@[simp] theorem State.setUreg_mems (s : State) (k r : ℕ) (w : Word) : (s.setUreg k r w).mems = s.mems := by simp [State.setUreg]

@[simp] theorem wfMems_writePend {s : State} (h : WfMems s.mems) (k : ℕ) (f : Floe) (p : Pend) : WfMems (s.writePend k f p).mems := by
  unfold State.writePend
  extract_lets s₁ s₂ s₃
  have h₁ : WfMems s₁.mems := by
    refine wfMems_foldl (fun s e hs => ?_) _ h
    split
    · split
      · exact wfMems_pushPort hs ..
      · simpa using hs
    · exact hs
  have h₂ : s₂.mems = s₁.mems := by
    simp only [s₂]
    split <;> simp
  have h₃ : s₃.mems = s₂.mems := by
    simp only [s₃]
    split
    · exact foldl_mems (fun s e => by split <;> simp) _ _
    · rfl
  rw [foldl_mems (fun s e => by split <;> simp), h₃, h₂]
  exact h₁

@[simp] theorem wfMems_settle {s : State} (h : WfMems s.mems) (k : ℕ) : WfMems (s.settle k).mems := by
  unfold State.settle
  dsimp only
  split
  · exact h
  · split
    · exact h
    · rw [State.modFloe_mems]
      exact wfMems_foldl (fun s p hs => wfMems_writePend hs ..) _ h

@[simp] theorem wfMems_endWindows {s : State} (h : WfMems s.mems) (k : ℕ) : WfMems (s.endWindows k).mems := by simp [State.endWindows, h]
@[simp] theorem State.orderWith_mems (s : State) (ts : List ℕ) : (s.orderWith ts).mems = s.mems := by simp [State.orderWith]
@[simp] theorem State.addReq_mems (s : State) (r : Req) : (s.addReq r).mems = s.mems := by simp [State.addReq]

@[simp] theorem wfMems_migTouch {s : State} (h : WfMems s.mems) (core ctx : ℕ) (mig : Option ℕ) (p : Place) :
    WfMems (s.migTouch core ctx mig p).mems := by
  unfold State.migTouch
  dsimp only
  repeat' split
  all_goals simp [h]

@[simp] theorem State.addDue_mems (s : State) (bk code addr coord : ℕ) : (s.addDue bk code addr coord).mems = s.mems := by
  unfold State.addDue
  split <;> simp

@[simp] theorem State.addDueOnce_mems (s : State) (bk uid code coord : ℕ) : (s.addDueOnce bk uid code coord).mems = s.mems := by
  simp [State.addDueOnce]

@[simp] theorem addReqs_mems (rs : List Req) (s : State) : (addReqs rs s).mems = s.mems := by simp [addReqs]

@[simp] theorem State.handElems_mems (k : ℕ) (f : Floe) (hi : ℕ) (coord : Word) (g turn : ℕ) (es : List Elem) (n : ℕ) (s : State) :
    (State.handElems k f hi coord g turn es n s).2.1.mems = s.mems := by
  induction es generalizing g turn n s with
  | nil => rfl
  | cons e es ih =>
    unfold State.handElems
    split
    · rw [ih, State.addReq_mems]
    · rfl
    · rw [State.addDue_mems]

@[simp] theorem State.handEntry_mems (s : State) (k : ℕ) (f : Floe) (x3 : LogEnt) : (s.handEntry k f x3).1.mems = s.mems := by
  unfold State.handEntry
  split <;> simp

@[simp] theorem handAll_mems (k : ℕ) (f : Floe) (es : List LogEnt) (s : State) : (handAll k f es s).1.mems = s.mems := by
  induction es generalizing s with
  | nil => rfl
  | cons e es ih =>
    have he := State.handEntry_mems s k f e
    unfold handAll
    split
    case h_1 h => rw [ih, ← he, h]
    case h_2 h => rw [ih, State.addDue_mems, ← he, h]
    case h_3 h => rw [← he, h]

@[simp] theorem State.beginCommit_mems (s : State) (bk : ℕ) : (s.beginCommit bk).mems = s.mems := by simp [State.beginCommit]

@[simp] theorem State.commit_mems (s : State) (k : ℕ) : (s.commit k).1.mems = s.mems := by
  unfold State.commit
  split <;> simp

@[simp] theorem State.dropResv_mems (s : State) (k : ℕ) : (s.dropResv k).mems = s.mems := by
  unfold State.dropResv
  dsimp only
  repeat' split
  all_goals simp

@[simp] theorem State.gangCancel_mems (s : State) (m : Mma) : (s.gangCancel m).mems = s.mems := by simp [State.gangCancel]
@[simp] theorem State.freeMma_mems (s : State) (id : ℕ) (m : Mma) : (s.freeMma id m).mems = s.mems := by simp [State.freeMma]

@[simp] theorem State.cancelMma_mems (s : State) (id : ℕ) (gang : Bool) : (s.cancelMma id gang).mems = s.mems := by
  unfold State.cancelMma
  dsimp only
  repeat' split
  all_goals simp

@[simp] theorem State.cancelWaiting_mems (s : State) (bk : ℕ) : (s.cancelWaiting bk).mems = s.mems := by simp [State.cancelWaiting]
@[simp] theorem State.stopBlk_mems (s : State) (bk cause : ℕ) : (s.stopBlk bk cause).mems = s.mems := by simp [State.stopBlk]
@[simp] theorem State.dstat_mems (s : State) (core : ℕ) (set clr : Word) : (s.dstat core set clr).mems = s.mems := by simp [State.dstat]

@[simp] theorem State.endStepByHalt_mems (s : State) (bk : ℕ) : (s.endStepByHalt bk).mems = s.mems := by
  unfold State.endStepByHalt
  split <;> simp

@[simp] theorem State.stopOnCore_mems (s : State) (g cause core : ℕ) : (s.stopOnCore g cause core).mems = s.mems := by simp [State.stopOnCore]

@[simp] theorem State.stopGridAs_mems (s : State) (g cause st : ℕ) (core : Option ℕ) : (s.stopGridAs g cause st core).mems = s.mems := by
  unfold State.stopGridAs
  dsimp only
  repeat' split
  all_goals simp

@[simp] theorem State.endSteps_mems (s : State) (g : ℕ) : (s.endSteps g).mems = s.mems := by simp [State.endSteps]
@[simp] theorem State.stopGrid_mems (s : State) (g : ℕ) (core : Option ℕ) : (s.stopGrid g core).mems = s.mems := by simp [State.stopGrid]
@[simp] theorem State.haltGrid_mems (s : State) (g : ℕ) (core : Option ℕ) : (s.haltGrid g core).mems = s.mems := by simp [State.haltGrid]
@[simp] theorem State.haltContext_mems (s : State) (ctx : ℕ) (core : Option ℕ) : (s.haltContext ctx core).mems = s.mems := by simp [State.haltContext]
@[simp] theorem State.fatalStop_mems (s : State) (g : ℕ) (core : Option ℕ) : (s.fatalStop g core).mems = s.mems := by simp [State.fatalStop]
@[simp] theorem State.diverge_mems (s : State) (g core : ℕ) : (s.diverge g core).mems = s.mems := by simp [State.diverge]

@[simp] theorem wfMems_settleStop {s : State} (h : WfMems s.mems) (g : ℕ) : WfMems (s.settleStop g).mems := by
  unfold State.settleStop
  split
  · exact h
  · simp [h]

@[simp] theorem wfMems_settleStops {s : State} (h : WfMems s.mems) : WfMems s.settleStops.mems :=
  wfMems_foldl (fun _ _ hs => wfMems_settleStop hs ..) _ h

@[simp] theorem State.setBar_mems (s : State) (core slot : ℕ) (b : Bar) : (s.setBar core slot b).mems = s.mems := by simp [State.setBar]

@[simp] theorem State.freeFloeAt_mems (s : State) (k : ℕ) (f : Floe) (sc : Scope) (ms : List SyncMark) :
    (s.freeFloeAt k f sc ms).mems = s.mems := by simp [State.freeFloeAt]

@[simp] theorem State.freeSaveAt_mems (s : State) (i : ℕ) (f : Floe) (sc : Scope) (ms : List SyncMark) :
    (s.freeSaveAt i f sc ms).mems = s.mems := by simp [State.freeSaveAt]

@[simp] theorem State.releaseBar_mems (s : State) (core slot : ℕ) (ms : List SyncMark) : (s.releaseBar core slot ms).mems = s.mems := by
  simp [State.releaseBar]

@[simp] theorem State.releaseFreed_mems (s : State) (bk : ℕ) : (s.releaseFreed bk).mems = s.mems := by
  unfold State.releaseFreed
  dsimp only
  rw [foldl_mems (fun s e => by split <;> simp), foldl_mems (fun s e => by split <;> simp)]

@[simp] theorem wfMems_stepRecords {s : State} (h : WfMems s.mems) (bk slot : ℕ) (was : List (ℕ × Floe)) :
    WfMems (s.stepRecords bk slot was).mems :=
  wfMems_foldl (fun _ _ hs => wfMems_traceFloe hs ..) _ h

@[simp] theorem State.endStep_mems (s : State) (bk : ℕ) (timeout : Bool) : (s.endStep bk timeout).mems = s.mems := by
  unfold State.endStep
  split <;> simp

@[simp] theorem wfMems_phase {s : State} (h : WfMems s.mems) (core slot : ℕ) : WfMems (s.phase core slot).mems := by
  unfold State.phase
  dsimp only
  repeat' split
  all_goals simp [h]

@[simp] theorem State.raisePend_mems (s : State) (core slot : ℕ) : (s.raisePend core slot).mems = s.mems := by simp [State.raisePend]

@[simp] theorem wfMems_completeOwn {s : State} (h : WfMems s.mems) (core slot uid : ℕ) (ms : List SyncMark) :
    WfMems (s.completeOwn core slot uid ms).mems := by simp [State.completeOwn, h]

@[simp] theorem wfMems_completeFar {s : State} (h : WfMems s.mems) (core slot uid : ℕ) (ms : List SyncMark) :
    WfMems (s.completeFar core slot uid ms).mems := by simp [State.completeFar, h]

@[simp] theorem State.noteDone_mems (s : State) : s.noteDone.mems = s.mems := by simp [State.noteDone]

@[simp] theorem State.dropPartners_mems (s : State) (c : Copy) (abort : Option (List (ℕ × ℕ × Bool))) :
    (s.dropPartners c abort).mems = s.mems := by
  refine foldl_mems (fun s t => ?_) _ _
  split
  · rfl
  · split
    · rfl
    · cases abort <;> simp

@[simp] theorem State.takeLines_mems (s : State) (id : ℕ) (c : Copy) : (s.takeLines id c).1.mems = s.mems := by simp [State.takeLines]

@[simp] theorem State.cancelCopy_mems (s : State) (id : ℕ) (abort : Option (List (ℕ × ℕ × Bool))) :
    (s.cancelCopy id abort).mems = s.mems := by
  unfold State.cancelCopy
  split <;> simp

@[simp] theorem State.freeAllocs_mems (s : State) (bk : ℕ) : (s.freeAllocs bk).mems = s.mems := by simp [State.freeAllocs]

@[simp] theorem State.releaseBlock_mems (s : State) (bk : ℕ) (why : Ending) : (s.releaseBlock bk why).mems = s.mems := by
  unfold State.releaseBlock
  extract_lets core n b gang s₁ mine s₂ s₃
  have h₁ : s₁.mems = s.mems := foldl_mems (fun s id => by split <;> simp) _ _
  have h₂ : s₂.mems = s₁.mems := by
    cases why with
    | exit => rfl
    | kill => exact foldl_mems (fun s id => State.cancelCopy_mems ..) _ _
    | abort ps => exact foldl_mems (fun s id => State.cancelCopy_mems ..) _ _
  have h₃ : s₃.mems = s₂.mems := State.freeAllocs_mems s₂ bk
  rw [foldl_mems (fun s i => State.fillBins_mems ..), h₃, h₂, h₁]

@[simp] theorem State.blockGone_mems (s : State) (bk : ℕ) : (s.blockGone bk).mems = s.mems := by
  unfold State.blockGone
  dsimp only
  repeat' split
  all_goals simp

@[simp] theorem State.endIfEmpty_mems (s : State) (bk : ℕ) : (s.endIfEmpty bk).mems = s.mems := by simp [State.endIfEmpty]

@[simp] theorem wfMems_killBlock {s : State} (h : WfMems s.mems) (bk : ℕ) : WfMems (s.killBlock bk).mems := by
  unfold State.killBlock
  split <;> simp [h]

@[simp] theorem State.meetStop_mems (s : State) (bk : ℕ) : (s.meetStop bk).mems = s.mems := by
  unfold State.meetStop
  repeat' split
  all_goals simp

@[simp] theorem State.deferTrap_mems (s : State) (bk pol : ℕ) : (s.deferTrap bk pol).mems = s.mems := by simp [State.deferTrap]
@[simp] theorem State.stopByTrap_mems (s : State) (bk : ℕ) : (s.stopByTrap bk).mems = s.mems := by simp [State.stopByTrap]

@[simp] theorem wfMems_abortBlock {s : State} (h : WfMems s.mems) (bk : ℕ) (pages : List (ℕ × ℕ × Bool)) (vas : List (ℕ × ℕ)) (again : Bool) :
    WfMems (s.abortBlock bk pages vas again).mems := by
  unfold State.abortBlock
  split
  · exact h
  · simp [foldl_snd_mems, h]

@[simp] theorem wfMems_trapRecord {s : State} (h : WfMems s.mems) (g r : ℕ) : WfMems (s.trapRecord g r).2.mems := by
  unfold State.trapRecord
  dsimp only
  split <;> simp [h]

@[simp] theorem State.detachAll_mems (s : State) (k : ℕ) : (s.detachAll k).mems = s.mems := by
  unfold State.detachAll
  split
  · rfl
  · split
    · rfl
    · exact State.modFloe_mems ..

@[simp] theorem State.callHandler_mems (s : State) (t save : ℕ) (h : Word) (code addr coord idx rec : ℕ) :
    (s.callHandler t save h code addr coord idx rec).mems = s.mems := by simp [State.callHandler]

@[simp] theorem State.toHandler_mems (s : State) (k : ℕ) (d : TrapDue) : (s.toHandler k d).mems = s.mems := by
  unfold State.toHandler
  dsimp only
  repeat' split
  all_goals simp

@[simp] theorem State.openPage_mems (s : State) (die ctx va : ℕ) (x : XRes) (write : Bool) :
    (s.openPage die ctx va x write).2.mems = s.mems := by
  unfold State.openPage
  dsimp only
  repeat' split
  all_goals simp

@[simp] theorem State.openPages_mems (die ctx : ℕ) (write : Bool) (fs : List (ℕ × XRes)) (ps : List (ℕ × ℕ × Bool)) (s : State) :
    (State.openPages die ctx write fs ps s).2.mems = s.mems := by
  induction fs generalizing ps s with
  | nil => rfl
  | cons e fs ih =>
    have he := State.openPage_mems s die ctx e.1 e.2 write
    unfold State.openPages
    split
    case h_1 h => rw [ih, ← he, h]
    case h_2 h => rw [← he, h]

@[simp] theorem wfMems_pageFault {s : State} (h : WfMems s.mems) (k : ℕ) (fs : List (ℕ × ℕ × XRes)) (write entry : Bool) :
    WfMems (s.pageFault k fs write entry).mems := by
  unfold State.pageFault
  dsimp only
  repeat' split
  all_goals simp [h]

@[simp] theorem wfMems_commitFailed {s : State} (h : WfMems s.mems) (k va : ℕ) (x : XRes) : WfMems (s.commitFailed k va x).mems := by
  unfold State.commitFailed
  split <;> simp [h]

@[simp] theorem wfMems_enterHandler {s : State} (h : WfMems s.mems) (k : ℕ) : WfMems (s.enterHandler k).mems := by
  unfold State.enterHandler
  dsimp only
  repeat' split
  all_goals simp [h]

@[simp] theorem wfMems_takeTrapAt {s : State} (h : WfMems s.mems) (k code : ℕ) (lanes : List ℕ) (addr coord : ℕ) :
    WfMems (s.takeTrapAt k code lanes addr coord).mems := by
  unfold State.takeTrapAt
  dsimp only
  repeat' split
  all_goals simp [h]

@[simp] theorem wfMems_takeTrapSave {s : State} (h : WfMems s.mems) (i code addr coord : ℕ) :
    WfMems (s.takeTrapSave i code addr coord).mems := by
  unfold State.takeTrapSave
  dsimp only
  repeat' split
  all_goals simp [h]

@[simp] theorem wfMems_takeTrap {s : State} (h : WfMems s.mems) (k code : ℕ) (lanes : List ℕ) (addr : ℕ) :
    WfMems (s.takeTrap k code lanes addr).mems := by simp [State.takeTrap, h]

@[simp] theorem wfMems_takeImprecise {s : State} (h : WfMems s.mems) (bk uid code addr coord : ℕ) :
    WfMems (s.takeImprecise bk uid code addr coord).mems := by
  unfold State.takeImprecise
  dsimp only
  repeat' split
  all_goals simp [h]

@[simp] theorem wfMems_killTask {s : State} (h : WfMems s.mems) (t : Task) : WfMems (s.killTask t).mems := by simp [State.killTask, h]
@[simp] theorem wfMems_pageBadTask {s : State} (h : WfMems s.mems) (t : Task) (code va : ℕ) : WfMems (s.pageBadTask t code va).mems := by simp [State.pageBadTask, h]
@[simp] theorem wfMems_takeDue {s : State} (h : WfMems s.mems) (d : Due) : WfMems (s.takeDue d).mems := by simp [State.takeDue, h]

@[simp] theorem wfMems_settleDue {s : State} (h : WfMems s.mems) (n : ℕ) : WfMems (State.settleDue n s).mems := by
  induction n generalizing s with
  | zero => exact h
  | succ n ih =>
    unfold State.settleDue
    split
    · exact wfMems_settleStops h
    · exact ih (wfMems_takeDue (by simpa using h) _)

@[simp] theorem wfMems_takeFatal {s : State} (h : WfMems s.mems) (k : ℕ) : WfMems (s.takeFatal k).mems := by
  unfold State.takeFatal
  split <;> simp [h]

@[simp] theorem State.leaveHandler_mems (s : State) (tk : ℕ) (gone : Bool) : (s.leaveHandler tk gone).mems = s.mems := by
  unfold State.leaveHandler
  split <;> simp

@[simp] theorem State.eretThreads_mems (s : State) (k : ℕ) (lanes : List ℕ) : (s.eretThreads k lanes).mems = s.mems := by
  unfold State.eretThreads
  split
  · rfl
  · dsimp only
    split
    · exact foldl_mems (fun s l => by split <;> simp) _ _
    · rw [State.modFloe_mems]
      exact foldl_mems (fun s l => by split <;> simp) _ _

end Sys2Proof.Machine
end

section
/-! SUPPORT. What the functions of Machine/ErrLog.lean leave of the byte memories. -/

namespace Sys2Proof.Machine

@[simp] theorem State.logErr_mems (s : State) (e : ErrRec) : (s.logErr e).mems = s.mems := by
  unfold State.logErr
  dsimp only
  repeat' split
  all_goals simp

@[simp] theorem State.logUes_mems (s : State) (array place a n ctx : ℕ) : (s.logUes array place a n ctx).mems = s.mems := by simp [State.logUes]
@[simp] theorem State.logRegs_mems (s : State) (t n c ctx : ℕ) : (s.logRegs t n c ctx).mems = s.mems := by simp [State.logRegs]

@[simp] theorem State.logPad_mems (s : State) (l : Space) (pa n ctx : ℕ) : (s.logPad l pa n ctx).mems = s.mems := by
  unfold State.logPad
  split <;> simp

end Sys2Proof.Machine
end

section
/-! SUPPORT. What the functions of Machine/Operands.lean leave of the byte memories. -/

namespace Sys2Proof.Machine

@[simp] theorem wfMems_wr1 {s : State} (h : WfMems s.mems) (c : Ctx) (r : BitVec 8) (lane : ℕ) (w : Word) :
    WfMems (c.wr1 s r lane w).mems := by simp [Ctx.wr1, h]

@[simp] theorem wfMems_wrRegs {s : State} (h : WfMems s.mems) (c : Ctx) (r : BitVec 8) (lane : ℕ) (ws : List Word) :
    WfMems (c.wrRegs s r lane ws).mems := by
  unfold Ctx.wrRegs
  split
  · exact wfMems_wr1 h ..
  · simpa using h

/-- A word for each of some lanes, one after the other. -/
@[simp] theorem wfMems_foldl_wr1 {s : State} (h : WfMems s.mems) (c : Ctx) (r : BitVec 8) (w : ℕ → Word) (lanes : List ℕ) :
    WfMems (lanes.foldl (fun s l => c.wr1 s r l (w l)) s).mems :=
  wfMems_foldl (fun _ _ hs => wfMems_wr1 hs ..) lanes h

@[simp] theorem Ctx.wrPred_mems (c : Ctx) (s : State) (p : BitVec 8) (lane : ℕ) (b : Bool) : (c.wrPred s p lane b).mems = s.mems := by
  simp [Ctx.wrPred]

@[simp] theorem wfMems_deliver {s : State} (h : WfMems s.mems) (c : Ctx) (la : ℕ) (r : BitVec 8) (res : List (ℕ × List Word × Fl)) :
    WfMems (c.deliver s la r res).mems := by
  unfold Ctx.deliver
  split
  · exact wfMems_foldl (fun s e hs => by simpa using wfMems_wrRegs hs ..) _ h
  · simp [h]

end Sys2Proof.Machine
end

section
/-! SUPPORT. What the functions of Machine/Flags.lean leave of the byte memories. -/

namespace Sys2Proof.Machine

@[simp] theorem State.setLvh_mems (s : State) (t : ℕ) : (s.setLvh t).mems = s.mems := by simp [State.setLvh]

end Sys2Proof.Machine
end

section
/-! SUPPORT. What the functions of Machine/Access.lean leave of the byte memories. -/

namespace Sys2Proof.Machine

@[simp] theorem State.debugStop_mems (s : State) (bk : ℕ) : (s.debugStop bk).mems = s.mems := by simp [State.debugStop]
@[simp] theorem State.actStop_mems (s : State) (k bk act : ℕ) : (s.actStop k bk act).mems = s.mems := by simp [State.actStop]

theorem wfMems_checkBounds {c : Ctx} {qs : List GReq} {n : ℕ} {perm : ℕ → Bool} {r : Res} (hr : c.checkBounds qs n perm = some r) :
    r.WfMems := by
  unfold Ctx.checkBounds at hr
  dsimp only at hr
  repeat' split at hr
  all_goals simp at hr
  all_goals subst hr; simp

theorem wfMems_xfail {s : State} (h : WfMems s.mems) {core ctx : ℕ} {ts : List (ℕ × ℕ × XRes)} {write : Bool} {r : Res}
    (hr : xfail s core ctx ts write = some r) : r.WfMems := by
  unfold xfail at hr
  dsimp only at hr
  repeat' split at hr
  all_goals simp at hr
  all_goals subst hr; simp [h]

theorem memPasses_checkHome {c : Ctx} (h : WfMems c.s.mems) (qs : List GReq) (n : ℕ) (write data : Bool) (m : Mark) :
    MemPasses (fun x => WfMems x.1.mems) (c.checkHome qs n write data m) := by
  have hf : ∀ accs : List GAcc, WfMems (accs.foldl (fun s a => s.tlbFill c.core c.g.ctx a.va a.leaf a.size) c.s).mems := by
    intro accs
    simpa using h
  unfold Ctx.checkHome
  extract_lets
  split
  case h_1 hx => exact wfMems_xfail h hx
  case h_2 =>
    split
    · exact hf _
    · split
      · simp
      · split
        case h_1 hx => exact wfMems_xfail (hf _) hx
        case h_2 =>
          split
          · simp
          · exact hf _

@[simp] theorem State.startFills_mems (s : State) (k fid : ℕ) (cs : List ChunkReq) : (s.startFills k fid cs).mems = s.mems := by
  simp [State.startFills]

theorem memPasses_touch {s : State} (h : WfMems s.mems) (c : Ctx) (l : Space) (accs : List (ℕ × ℕ × ℕ)) (n : ℕ) (write : Bool) :
    MemPasses (fun s => WfMems s.mems) (c.touch s l accs n write) := by
  unfold Ctx.touch
  extract_lets
  split
  · simp
  · split
    · exact h
    · split
      case h_1 hx => exact wfMems_xfail h hx
      case h_2 => split <;> simp [h]

theorem memPasses_watch {s : State} (h : WfMems s.mems) (c : Ctx) (l : Space) (accs : List (ℕ × ℕ × ℕ)) (n : ℕ) (rd wr : Bool) :
    MemPasses (fun s => WfMems s.mems) (c.watch s l accs n rd wr) := by
  unfold Ctx.watch
  dsimp only
  split
  · exact h
  · split
    · exact h
    · have ht := wfMems_foldl (g := fun s x => s.traceFloe c.k c.f 5 x.2.2.1 c.f.coord.toNat x.2.1) (fun s x hs => wfMems_traceFloe hs ..)
        ((s.watchHits c.core accs n rd wr).filter fun h => !c.f.watchHits.contains h.1) h
      split <;> simpa using ht

theorem wfMems_racePad {c : Ctx} {s : State} {l : Space} {accs : List (ℕ × ℕ × ℕ)} {n : ℕ} {m : Mark} {r : Res}
    (hr : c.racePad s l accs n m = some r) : r.WfMems := by
  unfold Ctx.racePad at hr
  dsimp only at hr
  split at hr <;> simp at hr
  subst hr; simp

theorem wfMems_padRange {c : Ctx} {l : Space} {qs : List (ℕ × ℤ)} {al n : ℕ} {r : Res} (hr : c.padRange l qs al n = some r) :
    r.WfMems := by
  unfold Ctx.padRange at hr
  dsimp only at hr
  repeat' split at hr
  all_goals simp at hr
  all_goals subst hr; simp

theorem memPasses_checkPad {s : State} (h : WfMems s.mems) (c : Ctx) (l : Space) (qs : List (ℕ × ℤ)) (al n : ℕ) (rd wr watched : Bool)
    (m : Mark) : MemPasses (fun x => WfMems x.1.mems) (c.checkPad s l qs al n rd wr watched m) := by
  have hw : ∀ accs : List (ℕ × ℕ × ℕ), MemPasses (fun s => WfMems s.mems) (if watched then c.watch s l accs n rd wr else .ok s) := by
    intro accs
    split
    · exact memPasses_watch h c l accs n rd wr
    · exact h
  unfold Ctx.checkPad
  dsimp only
  split
  case h_1 hx => exact wfMems_padRange hx
  case h_2 =>
    split
    case h_1 hx => exact (hw _).error hx
    case h_2 s' hx =>
      have h' := (hw _).ok hx
      split
      case h_1 hx => exact (memPasses_touch h' ..).error hx
      case h_2 s'' hx =>
        have h'' := (memPasses_touch h' ..).ok hx
        split
        case h_1 hx => exact wfMems_racePad hx
        case h_2 => split <;> simpa using h''

@[simp] theorem Ctx.readPad_mems (c : Ctx) (s : State) (lane : ℕ) (l : Space) (pa n : ℕ) (acq : Option Scope) :
    (c.readPad s lane l pa n acq).2.mems = s.mems := by
  unfold Ctx.readPad
  split <;> simp

theorem memPasses_readDesc {c : Ctx} (h : WfMems c.s.mems) (l : Space) (va al n addr : ℕ) :
    MemPasses (fun x => WfMems x.1.mems) (c.readDesc l va al n addr) := by
  unfold Ctx.readDesc
  repeat' split
  case h_1 hx => exact (memPasses_checkPad h ..).error hx
  case h_2 hx => simpa using (memPasses_checkPad h ..).ok hx
  all_goals simp [h]

@[simp] theorem Ctx.await_mems (c : Ctx) (s : State) (la : ℕ) (p : Pend) : (c.await s la p).2.mems = s.mems := by
  unfold Ctx.await
  split <;> simp

@[simp] theorem wfMems_opTrap {s : State} (h : WfMems s.mems) (k fid code addr coord : ℕ) :
    WfMems (s.opTrap k fid code addr coord).mems := by
  unfold State.opTrap
  repeat' split
  all_goals simp [h]

@[simp] theorem State.modFid_mems (s : State) (k fid : ℕ) (f : Floe → Floe) : (s.modFid k fid f).mems = s.mems := by
  unfold State.modFid
  split <;> simp

@[simp] theorem State.arrivePend_mems (s : State) (k fid n lane : ℕ) (ws : List Word) (b : Option Bool) :
    (s.arrivePend k fid n lane ws b).mems = s.mems := by simp [State.arrivePend]

theorem memPasses_elements {c : Ctx} (h : WfMems c.s.mems) (st : Stream) (es : List (ℕ × ℕ)) :
    MemPasses (fun x => WfMems x.1.mems) (c.elements st es) := by
  unfold Ctx.elements
  dsimp only
  split
  · split
    case h_1 hx => exact (memPasses_checkHome h ..).error hx
    case h_2 hx =>
      have h' := (memPasses_checkHome h ..).ok hx
      split
      · simp [h']
      · split
        · simp
        · simpa using wfMems_foldl (fun s a hs => wfMems_migTouch (by simpa using hs) ..) _ h'
  · split
    · exact h
    · split
      case h_1 hx => exact (memPasses_checkPad h ..).error hx
      case h_2 hx => simpa using (memPasses_checkPad h ..).ok hx

@[simp] theorem wfMems_missing {c : Ctx} (h : WfMems c.s.mems) (st : Stream) (lanes : List ℕ) : (c.missing st lanes).WfMems := by
  unfold Ctx.missing
  split
  case h_1 hx => exact (memPasses_elements h ..).error hx
  case h_2 => exact h

theorem memPasses_popPorts {c : Ctx} (h : WfMems c.s.mems) (ps : List (ℕ × BitVec 8)) (f : Floe) (acc : List (ℕ × ℕ × Word)) :
    MemPasses (fun _ => True) (c.popPorts ps f acc) := by
  induction ps generalizing f acc with
  | nil => trivial
  | cons p ps ih =>
    unfold Ctx.popPorts
    dsimp only
    repeat' split
    all_goals simp [wfMems_missing h, ih]

theorem wfMems_elemChecks {c : Ctx} (h : WfMems c.s.mems) {hi : ℕ} {es : List (ℕ × ℕ)} {n : ℕ} {r : Res}
    (hr : c.elemChecks hi es n = some r) : r.WfMems := by
  unfold Ctx.elemChecks at hr
  dsimp only at hr
  repeat' split at hr
  all_goals simp at hr
  all_goals subst hr; simp [h]

theorem wfMems_dstPort {c : Ctx} (h : WfMems c.s.mems) {f : Floe} {d : BitVec 8} {r : Res} (hr : c.dstPort f d = some r) :
    r.WfMems := by
  unfold Ctx.dstPort at hr
  dsimp only at hr
  split at hr
  · cases hr; simp
  · split at hr
    · cases hr; simp
    · split at hr
      · cases hr; simp
      · split at hr
        · cases hr; simp
        · split at hr
          · exact wfMems_elemChecks h hr
          · split at hr
            · cases hr; exact h
            · split at hr
              case h_1 hx => cases hr; exact (memPasses_checkPad h ..).error hx
              case h_2 => cases hr

end Sys2Proof.Machine
end

section
/-! SUPPORT. What the functions of Machine/Issue.lean leave of the byte memories. -/

namespace Sys2Proof.Machine

@[simp] theorem wfMems_enterCopy {s : State} (h : WfMems s.mems) (k cid : ℕ) (c : SegCopy) (cont : Word) :
    WfMems (s.enterCopy k cid c cont).mems := by
  unfold State.enterCopy
  dsimp only
  repeat' split
  all_goals simp [h]

@[simp] theorem wfMems_tryEnter {s : State} (h : WfMems s.mems) (k : ℕ) : WfMems (s.tryEnter k).mems := by
  unfold State.tryEnter
  dsimp only
  repeat' split
  all_goals simp [h]

@[simp] theorem wfMems_contIntact {s : State} (h : WfMems s.mems) (k : ℕ) (cont : Word) : WfMems (s.contIntact k cont).mems := by simp [State.contIntact, h]

@[simp] theorem State.dropOthers_mems (s : State) (k : ℕ) (mine : List ℕ) : (s.dropOthers k mine).mems = s.mems := by
  simp [State.dropOthers]

@[simp] theorem State.trial_mems (s : State) (core : ℕ) (w : Word) : (s.trial core w).mems = s.mems := by
  simp [State.trial]

@[simp] theorem State.countSched_mems (s : State) (k fid : ℕ) (w : Word) : (s.countSched k fid w).mems = s.mems := by simp [State.countSched]
@[simp] theorem State.noteIssue_mems (s : State) (k : ℕ) (f : Floe) : (s.noteIssue k f).mems = s.mems := by simp [State.noteIssue]
@[simp] theorem wfMems_afterIssue {s : State} (h : WfMems s.mems) (k : ℕ) (f : Floe) : WfMems (s.afterIssue k f).mems := by simp [State.afterIssue, h]
@[simp] theorem State.countWindows_mems (s : State) (k np : ℕ) : (s.countWindows k np).mems = s.mems := by simp [State.countWindows]
@[simp] theorem State.goOn_mems (s : State) (k : ℕ) : (s.goOn k).mems = s.mems := by simp [State.goOn]
@[simp] theorem State.waitHere_mems (s : State) (k : ℕ) (w : Wait) : (s.waitHere k w).mems = s.mems := by simp [State.waitHere]

@[simp] theorem wfMems_takeVerify {s : State} (h : WfMems s.mems) (k : ℕ) (f : Floe) (lanes : List ℕ) :
    WfMems (s.takeVerify k f lanes).mems := by
  refine wfMems_takeTrap ?_ ..
  rw [foldl_mems (fun s l => by split <;> simp)]
  exact h

theorem wfMems_finish {s₀ : State} (h : WfMems s₀.mems) (k : ℕ) (f : Floe) (bk : ℕ) {r : Res} (hr : r.WfMems) :
    WfMems (finish s₀ k f bk r).mems := by
  cases r <;> simp_all [finish]

@[simp] theorem State.logReads_mems (s : State) (i : Instr) (k : ℕ) (f : Floe) (act : List ℕ) : (s.logReads i k f act).mems = s.mems := by
  refine foldl_mems (fun s l => ?_) _ _
  split
  · exact foldl_mems (fun s o => by split <;> simp) _ _
  · rfl

theorem memPasses_ports {c : Ctx} (h : WfMems c.s.mems) (i : Instr) : MemPasses (fun c => WfMems c.s.mems) (c.ports i) := by
  have hp : MemPasses (fun _ => True) (if c.act = [] then .ok (c.f, []) else c.popPorts (portSrcs i) c.f []) := by
    split
    · trivial
    · exact memPasses_popPorts h ..
  have hd : ∀ f r, (if c.act = [] then none else (portDsts i).findSome? (c.dstPort f)) = some r → r.WfMems := by
    intro f r hr
    split at hr
    · cases hr
    · obtain ⟨d, _, hd⟩ := List.exists_of_findSome?_eq_some hr
      exact wfMems_dstPort h hd
  unfold Ctx.ports
  split
  case h_1 hx => exact hp.error hx
  case h_2 f popped hx =>
    split
    case h_1 hx => exact hd f _ hx
    case h_2 => rw [memPasses_ok]; split <;> simpa using h

theorem wfMems_issueBody {s : State} (h : WfMems s.mems) (i : Instr) (k : ℕ) (f : Floe) {body : Ctx → Res}
    (hb : ∀ c : Ctx, WfMems c.s.mems → (body c).WfMems) : WfMems (issueBody i s k f body).mems := by
  unfold issueBody
  extract_lets c early lent
  have hp : MemPasses (fun c => WfMems c.s.mems) (c.ports i) := memPasses_ports (c := c) h i
  split
  · simp [h]
  · split
    · split <;> simp [finish, h]
    · split
      · simp [h]
      · split
        · simp [finish, h]
        · split
          · simp [h]
          · split
            · simp [h]
            · split
              · simp [finish, h]
              · split
                case h_1 hx => exact wfMems_finish h _ _ _ (hp.error hx)
                case h_2 hx => exact wfMems_finish h _ _ _ (hb _ (hp.ok hx))

theorem wfMems_beforeIssue {s : State} (h : WfMems s.mems) (k : ℕ) {go : State → Floe → State}
    (hg : ∀ s f, WfMems s.mems → WfMems (go s f).mems) : WfMems (s.beforeIssue k go).mems := by
  unfold State.beforeIssue
  extract_lets u
  have hs : WfMems u.mems := wfMems_settle h k
  split
  · exact hs
  · split
    · exact hs
    · split
      · exact wfMems_enterHandler hs k
      · split
        · refine wfMems_takeTrapAt ?_ ..
          split
          · exact hs
          · simpa using hs
        · extract_lets bk g hits a v f'
          have hv : WfMems v.mems := wfMems_foldl (fun s x hx => wfMems_traceFloe hx ..) _ hs
          split
          · simpa using hs
          · split
            · exact wfMems_takeTrap hs ..
            · split
              · exact hg _ _ hs
              · split
                · exact hg _ _ (by simpa using hv)
                · simpa using hv

theorem wfMems_issueAt {s : State} (h : WfMems s.mems) (i : Instr) (k : ℕ) {body : Ctx → Res}
    (hb : ∀ c : Ctx, WfMems c.s.mems → (body c).WfMems) : WfMems (issueAt i s k body).mems :=
  wfMems_beforeIssue h k fun _ f hs => wfMems_issueBody hs i k f hb

theorem wfMems_illegal {s : State} (h : WfMems s.mems) (k : ℕ) : WfMems (s.illegal k).mems :=
  wfMems_beforeIssue h k fun _ _ hs => wfMems_takeTrap hs ..

/-- Every instruction goes through this: what its own part keeps canonical, its issue keeps canonical. -/
theorem outWfMems_issue {s : State} (h : WfMems s.mems) (i : Instr) {body : Ctx → Res}
    (hb : ∀ c : Ctx, WfMems c.s.mems → (body c).WfMems) : OutWfMems (issue i s body) := by
  unfold issue
  split
  · simp
  · exact outWfMems_next.2 (wfMems_settleDue (wfMems_issueAt h i _ hb) 64)

end Sys2Proof.Machine
end

section
/-! SUPPORT. What the functions of Machine/Int.lean leave of the byte memories. -/

namespace Sys2Proof.Machine

@[simp] theorem Ctx.uregOut_mems (c : Ctx) (s : State) (la r : ℕ) (w : Word) : (c.uregOut s la r w).mems = s.mems := by simp [Ctx.uregOut]
@[simp] theorem wfMems_intOut {s : State} (h : WfMems s.mems) (c : Ctx) (o : IntOps) (f : ℕ → List Word) :
    WfMems (c.intOut s o f).mems := by simp [Ctx.intOut, h]

@[simp] theorem Ctx.predOut_mems (c : Ctx) (s : State) (o : IntOps) (p : BitVec 8) (f : ℕ → Bool) : (c.predOut s o p f).mems = s.mems := by
  simp [Ctx.predOut]

@[simp] theorem wfMems_arith (o : IntOps) (f : ℤ → ℤ → ℤ → ℤ) {c : Ctx} (hz : WfMems c.s.mems) : (arith o f c).WfMems := by simp [arith, hz]
@[simp] theorem wfMems_logic (o : IntOps) (f : ℕ → ℕ → ℕ) {c : Ctx} (hz : WfMems c.s.mems) : (logic o f c).WfMems := by simp [logic, hz]
@[simp] theorem wfMems_count (o : IntOps) (f : ℕ → ℕ → ℕ) {c : Ctx} (hz : WfMems c.s.mems) : (count o f c).WfMems := by simp [count, hz]
theorem outWfMems_execMovs {o : IntOps} {s : State} (hz : WfMems s.mems) : OutWfMems (execMovs o s) := by
  unfold execMovs
  refine outWfMems_issue hz _ fun c hc => ?_
  split <;> simp [hc]

theorem outWfMems_execMovkToUniform {o : IntOps} {s : State} (hz : WfMems s.mems) : OutWfMems (execMovkToUniform o s) := by
  unfold execMovkToUniform
  refine outWfMems_issue hz _ fun c hc => ?_
  split <;> simp [hc]

@[simp] theorem wfMems_shift (o : IntOps) (f : ℕ → ℕ → ℕ → ℕ) {c : Ctx} (hz : WfMems c.s.mems) : (shift o f c).WfMems := by simp [shift, hz]
end Sys2Proof.Machine
end

section
/-! SUPPORT. What the functions of Machine/Fp.lean leave of the byte memories. -/

namespace Sys2Proof.Machine

@[simp] theorem wfMems_fpOut {s : State} (h : WfMems s.mems) (c : Ctx) (la : ℕ) (d : BitVec 8) (f : ℕ → ℕ × Fl) :
    WfMems (c.fpOut s la d f).mems := by
  simp [Ctx.fpOut, h]

@[simp] theorem wfMems_fpLanes (o : FpOps) (g : ℕ → ℕ → ℕ → ℕ → ℕ × Fl) {c : Ctx} (hz : WfMems c.s.mems) : (fpLanes o g c).WfMems := by
  simp [fpLanes, hz]

end Sys2Proof.Machine
end

section
/-! SUPPORT. What the functions of Machine/Algebra.lean leave of the byte memories. -/

namespace Sys2Proof.Machine

@[simp] theorem wfMems_algOut {s : State} (h : WfMems s.mems) (c : Ctx) (o : AlgOps) (n : ℕ) (f : ℕ → ℕ → ℕ × Fl) :
    WfMems (c.algOut s o n f).mems := by
  simp [Ctx.algOut, h]

theorem wfMems_algRun {o : AlgOps} {g : ℕ → Word → State → Ctx → State} (hg : ∀ t w s c, WfMems s.mems → WfMems (g t w s c).mems) {c : Ctx}
    (hz : WfMems c.s.mems) : (algRun o g c).WfMems := by
  unfold algRun
  extract_lets sr
  have hsr : WfMems sr.2.mems := by simpa [sr] using hz
  split
  · exact hsr
  · split
    · simp
    · exact hg _ _ _ _ hsr

theorem outWfMems_execAmul {o : AlgOps} {s : State} (hz : WfMems s.mems) : OutWfMems (execAmul o s) :=
  outWfMems_issue hz _ fun c hc => wfMems_algRun (fun _ _ _ _ hs => by simp [hs]) hc
theorem outWfMems_execAmac {o : AlgOps} {s : State} (hz : WfMems s.mems) : OutWfMems (execAmac o s) :=
  outWfMems_issue hz _ fun c hc => wfMems_algRun (fun _ _ _ _ hs => by simp [hs]) hc
theorem outWfMems_execAconj {o : AlgOps} {s : State} (hz : WfMems s.mems) : OutWfMems (execAconj o s) :=
  outWfMems_issue hz _ fun c hc => wfMems_algRun (fun _ _ _ _ hs => by simp [hs]) hc
theorem outWfMems_execAnorm {o : AlgOps} {s : State} (hz : WfMems s.mems) : OutWfMems (execAnorm o s) :=
  outWfMems_issue hz _ fun c hc => wfMems_algRun (fun _ _ _ _ hs => by simp [hs]) hc
theorem outWfMems_execAadd {o : AlgOps} {s : State} (hz : WfMems s.mems) : OutWfMems (execAadd o s) :=
  outWfMems_issue hz _ fun c hc => wfMems_algRun (fun _ _ _ _ hs => by simp [hs]) hc
theorem outWfMems_execAscl {o : AlgOps} {s : State} (hz : WfMems s.mems) : OutWfMems (execAscl o s) :=
  outWfMems_issue hz _ fun c hc => wfMems_algRun (fun _ _ _ _ hs => by simp [hs]) hc

theorem outWfMems_execAtab {o : DescOps} {s : State} (hz : WfMems s.mems) : OutWfMems (execAtab o s) := by
  refine outWfMems_issue hz _ fun c hc => ?_
  extract_lets va
  have hd := memPasses_readDesc hc o.space va 64 64 va
  split
  · exact hc
  · split
    case h_1 hx => simp
    case h_2 hx => exact hd.error hx
    case h_3 hx =>
      have := hd.ok hx
      repeat' split
      all_goals simp [this]

end Sys2Proof.Machine
end

section
/-! SUPPORT. What the functions of Machine/Order.lean leave of the byte memories. -/

namespace Sys2Proof.Machine

@[simp] theorem wfMems_commitThen {c : Ctx} {s : State} (hs : WfMems s.mems) {go : State → Res}
    (hg : ∀ s, WfMems s.mems → (go s).WfMems) : (c.commitThen s go).WfMems := by
  unfold Ctx.commitThen
  extract_lets r
  have hr : WfMems r.1.mems := by simpa [r] using hs
  split
  · simpa using hr
  · simp
  · exact hr
  · exact hg _ hr

@[simp] theorem wfMems_releaseThen {c : Ctx} (hz : WfMems c.s.mems) {go : State → Res} (hg : ∀ s, WfMems s.mems → (go s).WfMems) :
    (c.releaseThen go).WfMems := by
  unfold Ctx.releaseThen
  split
  · exact hz
  · refine wfMems_commitThen hz fun s hs => ?_
    split
    · exact hs
    · exact hg s hs

@[simp] theorem wfMems_goIntact {c : Ctx} {s : State} (hs : WfMems s.mems) (w : Word) : (c.goIntact s w).WfMems := by
  unfold Ctx.goIntact
  split
  · exact wfMems_commitThen hs fun s hs => wfMems_contIntact hs ..
  · exact wfMems_contIntact hs ..

@[simp] theorem Ctx.acquire_mems (c : Ctx) (s : State) (sc : Scope) (ms : List SyncMark) : (c.acquire s sc ms).mems = s.mems := by simp [Ctx.acquire]
@[simp] theorem Ctx.acquireSeen_mems (c : Ctx) (s : State) (scope : Scope) : (c.acquireSeen s scope).mems = s.mems := by simp [Ctx.acquireSeen]

end Sys2Proof.Machine
end

section
/-! SUPPORT. What the functions of Machine/Control.lean leave of the byte memories. -/

namespace Sys2Proof.Machine

@[simp] theorem wfMems_regroup {c : Ctx} (leave : List (ℕ × Word)) (stay : Option Word) (hz : WfMems c.s.mems) :
    (c.regroup leave stay).WfMems := by
  unfold Ctx.regroup
  split
  · exact hz
  · refine wfMems_commitThen hz fun s hs => ?_
    split
    · exact hs
    · have he := wfMems_endWindows hs c.k
      cases stay <;> simp [he]

@[simp] theorem wfMems_goWords {c : Ctx} (word : ℕ → Word) (hz : WfMems c.s.mems) : (c.goWords word).WfMems := by
  unfold Ctx.goWords
  dsimp only
  repeat' split
  all_goals simp [hz]

theorem outWfMems_execBrv {p : BitVec 8} {t n : BitVec 28} {s : State} (hz : WfMems s.mems) : OutWfMems (execBrv p t n s) := by
  unfold execBrv
  refine outWfMems_issue hz _ fun c hc => ?_
  dsimp only
  repeat' split
  all_goals simp [hc]

@[simp] theorem State.exitThread_mems (s : State) (core : ℕ) (coord : Word) (tk : ℕ) : (s.exitThread core coord tk).mems = s.mems := by
  simp [State.exitThread]

@[simp] theorem wfMems_exitThreads {s : State} (h : WfMems s.mems) (core bk : ℕ) (coord : Word) (srec : ℕ) (staged : List (ℕ × ℕ)) (tks : List ℕ) :
    WfMems (s.exitThreads core bk coord srec staged tks).mems := by
  unfold State.exitThreads
  refine wfMems_foldl (fun s n hs => wfMems_phase hs ..) _ ?_
  rw [foldl_mems (fun _ _ => State.exitThread_mems ..)]
  exact wfMems_foldl (fun s t hs => by simpa [State.exitBars] using hs) _ h

theorem outWfMems_execExit {s : State} (hz : WfMems s.mems) : OutWfMems (execExit s) := by
  refine outWfMems_issue hz _ fun c hc => ?_
  split
  · exact hc
  · split
    · simp
    · split
      · exact hc
      · split
        · simp
        · refine wfMems_commitThen hc fun s hs => ?_
          dsimp only
          split
          · exact hs
          · have he := wfMems_endWindows hs c.k
            rw [Res.wfMems_jump, State.endIfEmpty_mems]
            refine wfMems_exitThreads ?_ ..
            split <;> simpa using he

@[simp] theorem State.makeThread_mems (s : State) (bk q lane w base : ℕ) (args : List Word) :
    (s.makeThread bk q lane w base args).mems = s.mems := by simp [State.makeThread]

@[simp] theorem wfMems_spawnLanes {c : Ctx} (o : SpawnOps) (cont : ℕ → Word) (srec : ℕ) (ls : List ℕ) {s : State} (hs : WfMems s.mems) :
    (c.spawnLanes o cont srec ls s).WfMems := by
  induction ls generalizing s with
  | nil => exact hs
  | cons l ls ih =>
    unfold Ctx.spawnLanes
    extract_lets place served args
    have hserved : ∀ s : State, (served s).mems = s.mems := fun s => State.modFloe_mems ..
    cases hp : place with
    | some p => exact ih (by simpa [hserved] using hs)
    | none =>
      dsimp only
      split
      · exact ih (by simpa [hserved] using hs)
      · exact hs

theorem outWfMems_execSpawn {o : SpawnOps} {s : State} (hz : WfMems s.mems) : OutWfMems (execSpawn o s) := by
  refine outWfMems_issue hz _ fun c hc => ?_
  extract_lets cont todo bad
  split
  · exact hc
  · split
    · simp
    · split
      · simp
      · refine wfMems_releaseThen hc fun s hs => ?_
        split
        · exact hs
        · cases c.f.spawnRec <;> simp [hs]

@[simp] theorem Ctx.arrive_mems (c : Ctx) (s : State) (slot : ℕ) (rec : SyncMark) : (c.arrive s slot rec).mems = s.mems := by
  unfold Ctx.arrive
  refine foldl_mems (fun s a => ?_) _ _
  split <;> simp

theorem outWfMems_execBarArw {o : BarOps} {s : State} (hz : WfMems s.mems) : OutWfMems (execBarArw o s) := by
  unfold execBarArw
  refine outWfMems_issue hz _ fun c hc => ?_
  dsimp only
  split
  · split <;> simp [hc]
  · split
    · simpa using hc
    · exact wfMems_releaseThen hc fun s hs => wfMems_phase (by simpa using hs) ..

theorem outWfMems_execBarArv {o : BarOps} {s : State} (hz : WfMems s.mems) : OutWfMems (execBarArv o s) := by
  unfold execBarArv
  refine outWfMems_issue hz _ fun c hc => ?_
  split
  · exact hc
  · split
    · simp
    · refine wfMems_releaseThen hc fun s hs => wfMems_phase ?_ ..
      rw [Ctx.arrive_mems]
      exact wfMems_foldl_wr1 (by simpa using hs) ..

theorem outWfMems_execBarWt {o : BarOps} {s : State} (hz : WfMems s.mems) : OutWfMems (execBarWt o s) := by
  unfold execBarWt
  refine outWfMems_issue hz _ fun c hc => ?_
  dsimp only
  repeat' split
  all_goals simp [hc]

theorem outWfMems_execBarExp {o : BarOps} {s : State} (hz : WfMems s.mems) : OutWfMems (execBarExp o s) := by
  unfold execBarExp
  refine outWfMems_issue hz _ fun c hc => ?_
  dsimp only
  repeat' split
  all_goals simp [hc]

theorem outWfMems_execBarinit {h : Head} {a b : BitVec 8} {slot : BitVec 4} {s : State} (hz : WfMems s.mems) :
    OutWfMems (execBarinit h a b slot s) := by
  unfold execBarinit
  refine outWfMems_issue hz _ fun c hc => ?_
  dsimp only
  repeat' split
  all_goals simp [hc]

theorem outWfMems_execTrap {h : Head} {code : BitVec 16} {s : State} (hz : WfMems s.mems) : OutWfMems (execTrap h code s) := by
  unfold execTrap
  refine outWfMems_issue hz _ fun c hc => ?_
  split <;> simp [hc]

end Sys2Proof.Machine
end

section
/-! SUPPORT. What the functions of Machine/Mem.lean leave of the byte memories. -/

namespace Sys2Proof.Machine

@[simp] theorem wfMems_ordered {c : Ctx} (rel commits : Bool) (hz : WfMems c.s.mems) {go : State → Option ℕ → Res}
    (hg : ∀ s r, WfMems s.mems → (go s r).WfMems) : (c.ordered rel commits go).WfMems := by
  unfold Ctx.ordered
  split
  · exact wfMems_releaseThen hz fun s hs => hg _ _ (by simpa using hs)
  · split
    · exact wfMems_commitThen hz fun s hs => hg _ _ hs
    · exact hg _ _ hz

@[simp] theorem wfMems_replValue {s : State} (h : WfMems s.mems) (k blkr kind lane : ℕ) (coord : Word) (v : ℕ) :
    WfMems (s.replValue k blkr kind lane coord v).mems := by
  unfold State.replValue
  dsimp only
  repeat' split
  all_goals simp [h]

theorem wfMems_lateLoad {c : Ctx} (o : MemOps) (qs : List GReq) (n : ℕ) {r : Res} (hr : r.WfMems) :
    (c.lateLoad o qs n r).WfMems := by
  unfold Ctx.lateLoad
  split
  · split
    · exact hr
    · refine wfMems_ordered _ _ ?_ fun s _ hs => ?_
      · exact hr
      · simpa using hs
  · exact hr

@[simp] theorem wfMems_load {c : Ctx} (o : MemOps) (lr : Bool) (hz : WfMems c.s.mems) : (c.load o lr).WfMems := by
  unfold Ctx.load
  extract_lets n qs m
  have hh := memPasses_checkHome hz qs n false true m
  split
  · exact hz
  · split
    case h_1 hx => exact wfMems_checkBounds hx
    case h_2 =>
      split
      case h_1 hx =>
        split
        · exact hh.error hx
        · exact wfMems_lateLoad _ _ _ (hh.error hx)
      case h_2 hx =>
        exact wfMems_ordered _ _ (hh.ok hx) fun s _ hs => by cases lr <;> simpa using hs

@[simp] theorem wfMems_logEntry {c : Ctx} {s : State} (e : LogEnt) (hs : WfMems s.mems) : (c.logEntry s e).WfMems := by
  unfold Ctx.logEntry
  split <;> simp [hs]

theorem outWfMems_execSt {o : MemOps} {s : State} (hz : WfMems s.mems) : OutWfMems (execSt o s) := by
  refine outWfMems_issue hz _ fun c hc => ?_
  extract_lets n qs
  have hh := memPasses_checkHome hc qs n true true (memMark o)
  split
  · exact hc
  · split
    case h_1 hx => exact wfMems_checkBounds hx
    case h_2 =>
      split
      case h_1 hx => exact hh.error hx
      case h_2 hx =>
        have hs := hh.ok hx
        split
        · exact wfMems_ordered _ _ hs fun s _ hs => by simpa using hs
        · exact wfMems_logEntry _ hs

@[simp] theorem wfMems_atomGlob {c : Ctx} (o : MemOps) (ret : Bool) (hz : WfMems c.s.mems) : (c.atomGlob o ret).WfMems := by
  unfold Ctx.atomGlob
  extract_lets n qs
  have hh := memPasses_checkHome hz qs n true true (memAmark o)
  split
  case h_1 hx => exact wfMems_checkBounds hx
  case h_2 =>
    split
    case h_1 hx => exact hh.error hx
    case h_2 hx =>
      have hs := hh.ok hx
      split
      · exact wfMems_logEntry _ hs
      · exact wfMems_ordered _ _ hs fun s _ hs => by cases ret <;> simpa using hs

@[simp] theorem wfMems_atomPad {c : Ctx} (o : MemOps) (ret : Bool) (hz : WfMems c.s.mems) : (c.atomPad o ret).WfMems := by
  unfold Ctx.atomPad
  extract_lets n
  have hh := memPasses_checkPad hz c o.space (c.padReqs o) n n true true true (memAmark o)
  split
  · exact hz
  · split
    case h_1 hx => exact hh.error hx
    case h_2 hx =>
      refine wfMems_ordered _ _ (hh.ok hx) fun s r hs => ?_
      extract_lets out p
      have ho : WfMems out.2.mems := by
        refine wfMems_foldl_snd (fun a e ha => ?_) _ hs
        have hw := wfMems_writePad (by simpa using ha : WfMems (c.readPad a.2 e.1 o.space e.2 n (memAcq o)).2.mems)
        dsimp only
        split
        · exact wfMems_replValue (hw ..) ..
        · exact hw ..
      cases ret <;> simpa [p] using ho

theorem outWfMems_execAtom {o : MemOps} {s : State} (hz : WfMems s.mems) : OutWfMems (execAtom o s) := by
  refine outWfMems_issue hz _ fun c hc => ?_
  repeat' split
  all_goals simp [hc]

theorem outWfMems_execRed {o : MemOps} {s : State} (hz : WfMems s.mems) : OutWfMems (execRed o s) := by
  refine outWfMems_issue hz _ fun c hc => ?_
  repeat' split
  all_goals simp [hc]

theorem outWfMems_execSc {o : MemOps} {s : State} (hz : WfMems s.mems) : OutWfMems (execSc o s) := by
  refine outWfMems_issue hz _ fun c hc => ?_
  extract_lets n qs
  have hh := memPasses_checkHome hc qs n true true (memAmark o)
  split
  · exact hc
  · split
    case h_1 hx => exact wfMems_checkBounds hx
    case h_2 =>
      split
      case h_1 hx => exact hh.error hx
      case h_2 hx => exact wfMems_ordered _ _ (hh.ok hx) fun s _ hs => by simpa using hs

theorem outWfMems_execLds {o : MemOps} {s : State} (hz : WfMems s.mems) : OutWfMems (execLds o s) := by
  refine outWfMems_issue hz _ fun c hc => ?_
  extract_lets n
  have hh := memPasses_checkPad hc c o.space (c.padReqs o) n n true false true (memMark o)
  split
  · exact hc
  · split
    · exact hc
    · split
      case h_1 hx => exact hh.error hx
      case h_2 hx =>
        refine wfMems_ordered _ _ (hh.ok hx) fun s r hs => ?_
        extract_lets out p
        have ho : WfMems out.2.mems := by
          refine wfMems_foldl_snd (fun a e ha => ?_) _ hs
          dsimp only
          split
          · exact wfMems_replValue (by simpa using ha) ..
          · simpa using ha
        simpa [p] using ho

theorem outWfMems_execSts {o : MemOps} {s : State} (hz : WfMems s.mems) : OutWfMems (execSts o s) := by
  refine outWfMems_issue hz _ fun c hc => ?_
  extract_lets n
  have hh := memPasses_checkPad hc c o.space (c.padReqs o) n n false true true (memMark o)
  split
  · exact hc
  · split
    · exact hc
    · split
      case h_1 hx => exact hh.error hx
      case h_2 hx => 
        refine wfMems_ordered _ _ (hh.ok hx) fun s r hs => ?_
        simpa using wfMems_foldl (fun s e hs => wfMems_writePad hs ..) _ hs

theorem outWfMems_execFence {h : Head} {scope : Scope} {order : Order} {s : State} (hz : WfMems s.mems) :
    OutWfMems (execFence h scope order s) := by
  refine outWfMems_issue hz _ fun c hc => ?_
  split
  · exact hc
  · split
    · exact hc
    · split
      · exact wfMems_releaseThen hc fun s hs => by simpa using hs
      · simpa using hc

theorem outWfMems_execCommit {s : State} (hz : WfMems s.mems) : OutWfMems (execCommit s) := by
  unfold execCommit
  refine outWfMems_issue hz _ fun c hc => ?_
  split <;> simp [hc]

theorem outWfMems_execStag {o : MemOps} {s : State} (hz : WfMems s.mems) : OutWfMems (execStag o s) := by
  refine outWfMems_issue hz _ fun c hc => ?_
  extract_lets qs
  have hh := memPasses_checkHome hc qs 32 true false {}
  split
  · exact hc
  · split
    case h_1 hx => exact wfMems_checkBounds hx
    case h_2 =>
      split
      case h_1 hx => exact hh.error hx
      case h_2 hx =>
        dsimp only
        split
        · simp
        · refine wfMems_commitThen (hh.ok hx) fun s hs => ?_
          split <;> simpa using hs

theorem outWfMems_execLdtag {o : MemOps} {s : State} (hz : WfMems s.mems) : OutWfMems (execLdtag o s) := by
  refine outWfMems_issue hz _ fun c hc => ?_
  extract_lets qs
  have hh := memPasses_checkHome hc qs 32 false false {}
  split
  · exact hc
  · split
    case h_1 hx => exact wfMems_checkBounds hx
    case h_2 =>
      split
      case h_1 hx => exact hh.error hx
      case h_2 hx => simpa using hh.ok hx

end Sys2Proof.Machine
end

section
/-! SUPPORT. What the functions of Machine/Matrix.lean leave of the byte memories. -/

namespace Sys2Proof.Machine

theorem wfMems_postMma {s : State} (hs : WfMems s.mems) (c : Ctx) (pb fw tab entry : ℕ) (late : List Pend) :
    WfMems (c.postMma s pb fw tab entry late).mems := by
  unfold Ctx.postMma
  extract_lets parts holders sr n op s₁ s₂ s₃
  have hsr : WfMems sr.2.mems := by
    simp only [sr]
    split
    · simpa using hs
    · exact hs
  simp [s₃, s₂, s₁, n, hsr]

theorem outWfMems_execMma {o : DescOps} {s : State} (hz : WfMems s.mems) : OutWfMems (execMma o s) := by
  refine outWfMems_issue hz _ fun c hc => ?_
  extract_lets all fw
  have hd := memPasses_readDesc hc o.space (c.s.vreg (c.t 0) o.a.toNat).toNat 64 64 0
  split
  · exact hc
  · split
    · simp
    · split
      · simp
      · split
        · simp
        · split
          · simp
          · split
            case h_1 hx => exact hd.error hx
            case h_2 hx =>
              have hs := hd.ok hx
              split
              · simp
              · split
                · simp
                · dsimp only
                  split
                  · exact hs
                  · exact wfMems_postMma hs _ _ _ _ _ _

@[simp] theorem State.mmaGiveUp_mems (s : State) (id code addr : ℕ) : (s.mmaGiveUp id code addr).mems = s.mems := by
  unfold State.mmaGiveUp
  split <;> simp

@[simp] theorem wfMems_mmaLost {s : State} (h : WfMems s.mems) (id code addr : ℕ) : WfMems (s.mmaLost id code addr).mems := by
  unfold State.mmaLost
  split
  · exact h
  · refine wfMems_foldl (fun s p hs => ?_) _ (by simpa using h)
    have ha := wfMems_abortBlock hs p.block [] [] false
    dsimp only
    split
    · exact wfMems_pageBadTask ha ..
    · exact ha

@[simp] theorem wfMems_mmaFault {s : State} (h : WfMems s.mems) (id : ℕ) (o : Mma) (va : ℕ) (pages : List (ℕ × ℕ × Bool)) (full : Bool) :
    WfMems (s.mmaFault id o va pages full).mems := by
  have hd : ∀ {s : State} (ps : List Part) (vas : List (ℕ × ℕ)), WfMems s.mems →
      WfMems (ps.foldl (fun s p => s.abortBlock p.block pages vas full) s).mems :=
    fun ps vas hs => wfMems_foldl (fun s p hs => wfMems_abortBlock hs ..) ps hs
  unfold State.mmaFault
  dsimp only
  split
  · refine wfMems_cond (hd _ _ (by simpa using h)) ?_
    rw [State.cancelWaiting_mems]
    exact hd _ _ (by simpa using h)
  · exact hd _ _ (wfMems_abortBlock h ..)

theorem State.mmaFills_mems {s t : State} {id : ℕ} {o : Mma} (hz : WfMems s.mems) (ht : s.mmaFills id o = some t) : WfMems t.mems := by
  unfold State.mmaFills at ht
  extract_lets cs core ts at ht
  split at ht
  · cases ht
  · split at ht
    case h_4 hx => cases ht; exact wfMems_xfail hz hx
    case h_6 => split at ht <;> cases ht <;> simp [hz]
    all_goals cases ht; simp [hz]

@[simp] theorem State.mmaPorts_mems (s : State) (id : ℕ) (o : Mma) : (s.mmaPorts id o).mems = s.mems := by simp [State.mmaPorts]
@[simp] theorem arbVisit_mems (s : State) (e : ℕ × Mma) : (arbVisit s e).mems = s.mems := by simp [arbVisit]

theorem outWfMems_execArbiterGrant {die cluster : ℕ} {s : State} (hz : WfMems s.mems) : OutWfMems (execArbiterGrant die cluster s) := by
  simp [execArbiterGrant, hz]

theorem outWfMems_execMmaPassEnd {op : ℕ} {s : State} (hz : WfMems s.mems) : OutWfMems (execMmaPassEnd op s) := by
  unfold execMmaPassEnd
  split
  · simp [hz]
  · split
    · simp [hz]
    · split
      case h_1 hx => exact outWfMems_next.2 (wfMems_settleDue (State.mmaFills_mems hz hx) _)
      case h_2 =>
        dsimp only
        repeat' split
        all_goals simp [hz]

@[simp] theorem State.markBanks_mems (s : State) (core first cnt : ℕ) : (s.markBanks core first cnt).mems = s.mems := by simp [State.markBanks]
@[simp] theorem State.setAcc_mems (s : State) (core first w : ℕ) (v : Word) : (s.setAcc core first w v).mems = s.mems := by simp [State.setAcc]

theorem outWfMems_execMmaComplete {op : ℕ} {s : State} (hz : WfMems s.mems) : OutWfMems (execMmaComplete op s) := by
  unfold execMmaComplete
  split
  · exact outWfMems_next.2 hz
  · split
    · exact outWfMems_next.2 hz
    · refine outWfMems_next.2 (wfMems_settleDue ?_ _)
      simp only [State.mems]
      refine wfMems_completeOwn ?_ ..
      simp [hz]

theorem outWfMems_execMmaRetry {op : ℕ} {s : State} (hz : WfMems s.mems) : OutWfMems (execMmaRetry op s) := by
  unfold execMmaRetry
  dsimp only
  repeat' split
  all_goals simp [hz]

theorem outWfMems_execMwait {s : State} (hz : WfMems s.mems) : OutWfMems (execMwait s) := by
  unfold execMwait
  refine outWfMems_issue hz _ fun c hc => ?_
  dsimp only
  repeat' split
  all_goals simp [hc]

theorem outWfMems_execMfence {s : State} (hz : WfMems s.mems) : OutWfMems (execMfence s) := by
  refine outWfMems_issue hz _ fun c hc => ?_
  repeat' split
  all_goals simp [hc]

@[simp] theorem State.giveBanks_mems (s : State) (bk ctx first n : ℕ) : (s.giveBanks bk ctx first n).mems = s.mems := by simp [State.giveBanks]

theorem outWfMems_execAalloc {o : RegOps} {s : State} (hz : WfMems s.mems) : OutWfMems (execAalloc o s) := by
  refine outWfMems_issue hz _ fun c hc => ?_
  extract_lets n give held
  have hg : ∀ s v b, WfMems s.mems → WfMems (give s v b).mems := fun s v b hs =>
    wfMems_foldl (fun s l hs => by simpa using wfMems_wr1 hs ..) _ hs
  split
  · exact hc
  · split
    · simp
    · split
      · exact hg _ _ _ (by simpa using hc)
      · exact hg _ _ _ hc

theorem memPasses_oneHandle (c : Ctx) (h : ℕ) : MemPasses (fun _ => True) (c.oneHandle h) := by
  unfold Ctx.oneHandle
  repeat' split
  all_goals simp

theorem outWfMems_execAfree {o : RegOps} {s : State} (hz : WfMems s.mems) : OutWfMems (execAfree o s) := by
  refine outWfMems_issue hz _ fun c hc => ?_
  split
  · exact hc
  · split
    case h_1 hx => exact (memPasses_oneHandle c _).error hx
    case h_2 =>
      dsimp only
      repeat' split
      case isFalse.isTrue => exact wfMems_commitThen hc fun s hs => hs
      all_goals exact hc

theorem memPasses_accLanes (c : Ctx) (h off : ℕ → ℕ) : MemPasses (fun _ => True) (c.accLanes h off) := by
  unfold Ctx.accLanes
  extract_lets
  repeat' split
  all_goals simp

theorem outWfMems_execAccr {o : RegOps} {s : State} (hz : WfMems s.mems) : OutWfMems (execAccr o s) := by
  refine outWfMems_issue hz _ fun c hc => ?_
  split
  case h_1 hx => exact (memPasses_accLanes c ..).error hx
  case h_2 => simp [hc]

theorem outWfMems_execAccw {o : RegOps} {s : State} (hz : WfMems s.mems) : OutWfMems (execAccw o s) := by
  refine outWfMems_issue hz _ fun c hc => ?_
  split
  case h_1 hx => exact (memPasses_accLanes c ..).error hx
  case h_2 => simp [hc]

@[simp] theorem State.zeroBanks_mems (s : State) (core : ℕ) (r : ℕ × ℕ) : (s.zeroBanks core r).mems = s.mems := by simp [State.zeroBanks]

theorem outWfMems_execAccz {o : RegOps} {s : State} (hz : WfMems s.mems) : OutWfMems (execAccz o s) := by
  refine outWfMems_issue hz _ fun c hc => ?_
  split
  · exact hc
  · split
    case h_1 hx => exact (memPasses_oneHandle c _).error hx
    case h_2 => simp [hc]

theorem memPasses_accRun (c : Ctx) (o : MemOps) : MemPasses (fun _ => True) (c.accRun o) := by
  unfold Ctx.accRun
  dsimp only
  repeat' split
  all_goals simp

theorem wfMems_accBounds {c : Ctx} {q : GReq} {n : ℕ} {perm : ℕ → Bool} {r : Res} (hr : c.accBounds q n perm = some r) : r.WfMems := by
  unfold Ctx.accBounds at hr
  dsimp only at hr
  repeat' split at hr
  all_goals simp at hr
  all_goals subst hr; simp

theorem wfMems_accHome {c : Ctx} (hz : WfMems c.s.mems) {q : GReq} {n : ℕ} {r : Res} (hr : c.accHome q n = some r) : r.WfMems := by
  unfold Ctx.accHome at hr
  obtain ⟨r', hr', rfl⟩ := Option.map_eq_some_iff.mp hr
  have := wfMems_elemChecks hz hr'
  split
  · simp
  · exact this

theorem outWfMems_execAccst {o : MemOps} {s : State} (hz : WfMems s.mems) : OutWfMems (execAccst o s) := by
  refine outWfMems_issue hz _ fun c hc => ?_
  split
  · exact hc
  · split
    case h_1 hx => exact (memPasses_accRun c o).error hx
    case h_2 =>
      split
      · dsimp only
        split
        case h_1 hx =>
          rcases Option.or_eq_some_iff.mp hx with hb | ⟨_, hh⟩
          · exact wfMems_accBounds hb
          · exact wfMems_accHome hc hh
        case h_2 => exact wfMems_logEntry _ hc
      · split
        · exact hc
        · split
          case h_1 hx => exact (memPasses_checkPad hc ..).error hx
          case h_2 hx =>
            rw [Res.wfMems_done, State.enterBank_mems]
            exact wfMems_writePad ((memPasses_checkPad hc ..).ok hx) ..

@[simp] theorem State.loadBanks_mems (s : State) (core first n v : ℕ) : (s.loadBanks core first n v).mems = s.mems := by simp [State.loadBanks]

theorem outWfMems_execAccld {o : MemOps} {s : State} (hz : WfMems s.mems) : OutWfMems (execAccld o s) := by
  refine outWfMems_issue hz _ fun c hc => ?_
  split
  · exact hc
  · split
    case h_1 hx => exact (memPasses_accRun c o).error hx
    case h_2 =>
      dsimp only
      split
      · split
        case h_1 hx => exact wfMems_accBounds hx
        case h_2 =>
          split
          case h_1 => simp
          case h_2 hx => exact (memPasses_checkHome hc ..).error hx
          case h_3 hx => simpa using (memPasses_checkHome hc ..).ok hx
      · split
        · exact hc
        · split
          case h_1 hx => exact (memPasses_checkPad hc ..).error hx
          case h_2 hx => simpa using (memPasses_checkPad hc ..).ok hx

end Sys2Proof.Machine
end

section
/-! SUPPORT. What the functions of Machine/Copy.lean leave of the byte memories. -/

namespace Sys2Proof.Machine

theorem wfMems_runBad {c : Ctx} (hz : WfMems c.s.mems) {r n : ℕ} {x : Res} (hx : c.runBad r n = some x) : x.WfMems := by
  unfold Ctx.runBad at hx
  dsimp only at hx
  repeat' split at hx
  all_goals simp at hx
  all_goals subst hx; simp [hz]

@[simp] theorem wfMems_postCopy {c : Ctx} {s : State} (kind d entry : ℕ) (orig : List Word) (targets : List ℕ) (hs : WfMems s.mems) :
    (c.postCopy s kind d entry orig targets).WfMems := by
  unfold Ctx.postCopy
  dsimp only
  repeat' split
  all_goals simp [hs]

@[simp] theorem wfMems_copyIssue {c : Ctx} (o : DescOps) (kind : ℕ) (hz : WfMems c.s.mems) : (c.copyIssue o kind).WfMems := by
  unfold Ctx.copyIssue
  split
  · exact hz
  · split
    · exact hz
    · split
      case h_1 hx => exact (memPasses_readDesc hz ..).error hx
      case h_2 hx =>
        have hs := (memPasses_readDesc hz ..).ok hx
        dsimp only
        split
        case h_1 hx => exact wfMems_runBad hs hx
        case h_2 =>
          split
          · simp
          · split
            · split <;> simp
            · split
              · simp
              · exact wfMems_postCopy _ _ _ _ _ hs

theorem memKeeps_padTouch {s : State} (h : WfMems s.mems) (cp : Copy) (l : Space) (base pa n : ℕ) (write : Bool) :
    MemKeeps id (s.padTouch cp l base pa n write) := by
  unfold State.padTouch
  split
  · exact h
  · split
    · split
      · exact h
      · simpa using h
    · split
      · simpa using h
      · exact h

theorem memKeeps_globTouch {s : State} (h : WfMems s.mems) (cp : Copy) (va n : ℕ) (write : Bool) :
    MemKeeps (·.1) (s.globTouch cp va n write) := by
  unfold State.globTouch
  split
  · dsimp only
    repeat' split
    case h_2 => exact wfMems_migTouch (by simpa using h) ..
    all_goals exact h
  · exact h

@[simp] theorem wfMems_padPut {s : State} (h : WfMems s.mems) (cp : Copy) (l : Space) (pa e v : ℕ) :
    WfMems (s.padPut cp l pa e v).mems :=
  wfMems_writePad h ..

theorem memKeeps_farRead {s : State} (h : WfMems s.mems) (cp : Copy) (a : ℤ) : MemKeeps (·.1) (s.farRead cp a) := by
  unfold State.farRead
  dsimp only
  split
  · split
    case h_1 hx => exact (memKeeps_globTouch h ..).error hx
    case h_2 hx => split <;> exact (memKeeps_globTouch h ..).ok hx
  · split
    case h_1 hx => exact (memKeeps_padTouch h ..).error hx
    case h_2 hx =>
      have hs := (memKeeps_padTouch h ..).ok hx
      split
      · simpa using hs
      · exact hs

@[simp] theorem State.aliasWrite_mems (s : State) (cp : Copy) (actx pa v : ℕ) : (s.aliasWrite cp actx pa v).mems = s.mems := by
  simp [State.aliasWrite]

theorem memKeeps_farWrite {s : State} (h : WfMems s.mems) (cp : Copy) (a : ℤ) (v : ℕ) : MemKeeps id (s.farWrite cp a v) := by
  unfold State.farWrite
  extract_lets d e
  split
  · split
    case h_1 hx => exact (memKeeps_globTouch h ..).error hx
    case h_2 hx =>
      have hs := (memKeeps_globTouch h ..).ok hx
      split
      · simpa using hs
      · extract_lets comb w s₁ s₂
        have h₁ : WfMems s₁.mems := wfMems_cond (wfMems_replCombine hs _) hs
        have h₂ : WfMems s₂.mems := by simpa [s₂] using wfMems_writeN h₁ ..
        split
        · exact hs
        · split
          · exact hs
          · exact wfMems_cond (wfMems_raceWrite h₂ ..) h₂
  · split
    case h_1 hx => exact (memKeeps_padTouch h ..).error hx
    case h_2 hx => exact wfMems_padPut ((memKeeps_padTouch h ..).ok hx) ..

theorem memKeeps_nearWrite (cp : Copy) (n v : ℕ) (bs : List (ℕ × ℕ)) {s : State} (h : WfMems s.mems) :
    MemKeeps id (State.nearWrite cp n v bs s) := by
  induction bs generalizing s with
  | nil => exact h
  | cons b bs ih =>
    unfold State.nearWrite
    dsimp only
    split
    case h_1 hx => exact (memKeeps_padTouch h ..).error hx
    case h_2 hx => exact ih (wfMems_padPut ((memKeeps_padTouch h ..).ok hx) ..)

theorem memKeeps_copyElement {s : State} (h : WfMems s.mems) (cp : Copy) (n : ℕ) : MemKeeps id (s.copyElement cp n) := by
  unfold State.copyElement
  extract_lets d fo bases
  clear_value fo
  cases fo with
  | none =>
    dsimp only
    split
    · exact h
    · exact memKeeps_nearWrite _ _ _ _ h
  | some a =>
    dsimp only
    split
    · split
      case h_1 hx => exact (memKeeps_padTouch h ..).error hx
      case h_2 hx =>
        have hs := (memKeeps_padTouch h ..).ok hx
        split
        · simpa using hs
        · exact memKeeps_farWrite hs ..
    · split
      case h_1 hx => exact (memKeeps_farRead h ..).error hx
      case h_2 hx => exact memKeeps_nearWrite _ _ _ _ ((memKeeps_farRead h ..).ok hx)

@[simp] theorem wfMems_copyElements {s : State} (h : WfMems s.mems) (cp : Copy) (ns : List ℕ) :
    WfMems (State.copyElements cp ns s).1.mems := by
  induction ns generalizing s with
  | nil => exact h
  | cons n ns ih =>
    unfold State.copyElements
    split
    case h_1 hx => exact ih ((memKeeps_copyElement h ..).ok hx)
    case h_2 hx => exact (memKeeps_copyElement h ..).error hx

@[simp] theorem wfMems_copyDone {s : State} (h : WfMems s.mems) (id : ℕ) (cp : Copy) : WfMems (s.copyDone id cp).mems := by
  unfold State.copyDone
  dsimp only
  repeat' split
  all_goals simp [h]

@[simp] theorem State.copyLost_mems (s : State) (id : ℕ) (cp : Copy) (code addr : ℕ) : (s.copyLost id cp code addr).mems = s.mems := by
  simp [State.copyLost]

@[simp] theorem wfMems_copyFault {s : State} (h : WfMems s.mems) (id : ℕ) (cp : Copy) (va : ℕ) (x : XRes) (write : Bool) :
    WfMems (s.copyFault id cp va x write).mems := by simp [State.copyFault, h]

theorem outWfMems_execCopyComplete {op : ℕ} {s : State} (hz : WfMems s.mems) : OutWfMems (execCopyComplete op s) := by
  unfold execCopyComplete
  split
  · exact outWfMems_next.2 hz
  · split
    · exact outWfMems_next.2 hz
    · refine outWfMems_next.2 (wfMems_settleDue ?_ _)
      rw [State.noteDone_mems]
      have he := fun cp ns => wfMems_copyElements hz cp ns
      dsimp only
      split
      · refine wfMems_cond ?_ (wfMems_copyDone ?_ ..) <;> simp [he]
      all_goals simp [he]

theorem outWfMems_execCopySlotClaim {c : CoreId} {buf : ℕ} {s : State} (hz : WfMems s.mems) : OutWfMems (execCopySlotClaim c buf s) := by
  unfold execCopySlotClaim
  dsimp only
  repeat' split
  all_goals simp [hz]

end Sys2Proof.Machine
end

section
/-! SUPPORT. What the functions of Machine/Directory.lean leave of the byte memories. -/

namespace Sys2Proof.Machine

@[simp] theorem wfMems_flushRecl {s : State} (h : WfMems s.mems) (ctx : ℕ) (rs : List (ℕ × BitVec 256)) :
    WfMems (State.flushRecl ctx rs s).mems := by
  induction rs generalizing s with
  | nil => exact h
  | cons r rs ih =>
    unfold State.flushRecl
    split
    · exact h
    · exact ih (by simpa using wfMems_writeN h ..)

@[simp] theorem wfMems_drainRecl {s : State} (h : WfMems s.mems) (ctx : ℕ) : WfMems (s.drainRecl ctx).mems := by
  unfold State.drainRecl
  split <;> simp [h]

@[simp] theorem State.putDir_mems (s : State) (e : ℕ) (v : BitVec 256) : (s.putDir e v).mems = s.mems := by simp [State.putDir]
@[simp] theorem wfMems_reclaim {s : State} (h : WfMems s.mems) (e : ℕ) : WfMems (s.reclaim e).mems := by simp [State.reclaim, h]
@[simp] theorem State.setRefs_mems (s : State) (e refs : ℕ) : (s.setRefs e refs).mems = s.mems := by simp [State.setRefs]

@[simp] theorem wfMems_unbindName {s : State} (h : WfMems s.mems) (ctx name : ℕ) : WfMems (s.unbindName ctx name).1.mems := by
  unfold State.unbindName
  split <;> simp [h]

@[simp] theorem State.openEnt_mems (s : State) (g e : ℕ) : (s.openEnt g e).2.2.mems = s.mems := by
  unfold State.openEnt
  dsimp only
  repeat' split
  all_goals simp

@[simp] theorem wfMems_closeHandle {s : State} (h : WfMems s.mems) (g i : ℕ) (x : Handle) : WfMems (s.closeHandle g i x).mems := by
  simp [State.closeHandle, h]

@[simp] theorem wfMems_closeHandles {s : State} (h : WfMems s.mems) (g : ℕ) : WfMems (s.closeHandles g).mems :=
  wfMems_foldl (fun _ _ hs => wfMems_closeHandle hs ..) _ h

@[simp] theorem Ctx.openLane_mems (c : Ctx) (s : State) (wait : Bool) (l name until' : ℕ) :
    (c.openLane s wait l name until').1.mems = s.mems := by
  unfold Ctx.openLane
  dsimp only
  repeat' split
  all_goals simp

@[simp] theorem wfMems_openOut {s : State} (h : WfMems s.mems) (c : Ctx) (o : RegOps) (rs : List Opened) :
    WfMems (c.openOut s o rs).mems := by
  unfold Ctx.openOut
  dsimp only
  split
  · exact wfMems_foldl (fun s r hs => by simpa using wfMems_wr1 hs ..) _ (by simpa using h)
  · simp [h]

@[simp] theorem Ctx.openAll_mems (c : Ctx) (o : RegOps) (wait : Bool) : (c.openAll o wait).1.mems = c.s.mems := by
  refine foldl_fst_mems (fun s l => ?_) _ _
  dsimp only
  split <;> simp

theorem outWfMems_execDopen {o : RegOps} {s : State} (hz : WfMems s.mems) : OutWfMems (execDopen o s) := by
  unfold execDopen
  refine outWfMems_issue hz _ fun c hc => ?_
  split <;> simp [hc]

theorem outWfMems_execDopenW {o : RegOps} {s : State} (hz : WfMems s.mems) : OutWfMems (execDopenW o s) := by
  unfold execDopenW
  refine outWfMems_issue hz _ fun c hc => ?_
  dsimp only
  repeat' split
  all_goals simp [hc]

theorem outWfMems_execDopenTimeout {f : FloeId} {lane : ℕ} {s : State} (hz : WfMems s.mems) : OutWfMems (execDopenTimeout f lane s) := by
  unfold execDopenTimeout
  dsimp only
  repeat' split
  all_goals simp [hz]

@[simp] theorem State.wakeOne_mems (s : State) (ctx name e die gid : ℕ) (w : Wait) : (s.wakeOne ctx name e die gid w).1.mems = s.mems := by
  unfold State.wakeOne
  split
  · split
    · rfl
    · exact foldl_fst_mems (fun s q => by split <;> simp) _ _
  · rfl

@[simp] theorem State.wakeTab_mems (s : State) (ctx name e : ℕ) (key grid : ℕ → ℕ) (t : Tab Floe) :
    (s.wakeTab ctx name e key grid t).1.mems = s.mems :=
  foldl_fst_mems (fun s x => by simp) _ _

@[simp] theorem State.wakeOpens_mems (s : State) (ctx name e : ℕ) : (s.wakeOpens ctx name e).mems = s.mems := by
  unfold State.wakeOpens
  simp [foldl_fst_mems]

theorem outWfMems_execDclose {o : RegOps} {s : State} (hz : WfMems s.mems) : OutWfMems (execDclose o s) := by
  refine outWfMems_issue hz _ fun c hc => ?_
  refine wfMems_foldl (fun s l hs => ?_) _ hc
  split
  · simpa using wfMems_closeHandle hs ..
  · simpa using hs

@[simp] theorem wfMems_bindRec {s : State} (h : WfMems s.mems) (ctx : ℕ) (srec : Option ℕ) (r : BRec) :
    WfMems (s.bindRec ctx srec r).mems := by
  unfold State.bindRec
  dsimp only
  repeat' split
  all_goals simp [h]

@[simp] theorem wfMems_bindRecs {s : State} (h : WfMems s.mems) (ctx : ℕ) (srec : Option ℕ) (rs : List BRec) :
    WfMems (s.bindRecs ctx srec rs).mems :=
  wfMems_foldl (fun _ _ hs => wfMems_bindRec hs ..) _ h

theorem memPasses_bindRead {c : Ctx} {s : State} (hs : WfMems s.mems) (ptr va n al : ℕ) : MemPasses (fun _ => True) (c.bindRead s ptr va n al) := by
  unfold Ctx.bindRead
  dsimp only
  repeat' split
  case h_2 hx => exact wfMems_xfail hs hx
  all_goals simp [hs]

theorem outWfMems_execDbind {o : MemOps} {s : State} (hz : WfMems s.mems) : OutWfMems (execDbind o s) := by
  refine outWfMems_issue hz _ fun c hc => ?_
  split
  · exact hc
  · refine wfMems_releaseThen hc fun s hs => ?_
    dsimp only
    split
    case h_1 hx => exact (memPasses_bindRead hs ..).error hx
    case h_2 =>
      split
      · simp
      · simp [hs]

theorem outWfMems_execDunbind {o : RegOps} {s : State} (hz : WfMems s.mems) : OutWfMems (execDunbind o s) := by
  refine outWfMems_issue hz _ fun c hc => ?_
  split
  · exact hc
  · refine wfMems_releaseThen hc fun s hs => ?_
    dsimp only
    split
    case h_1 hx => exact (memPasses_bindRead hs ..).error hx
    case h_2 => simp [hs]

end Sys2Proof.Machine
end

section
/-! SUPPORT. What the functions of Machine/Place.lean leave of the byte memories. -/

namespace Sys2Proof.Machine

@[simp] theorem State.wake_mems (s : State) : s.wake.mems = s.mems := by simp [State.wake]
@[simp] theorem State.wakeDie_mems (s : State) (die : ℕ) : (s.wakeDie die).mems = s.mems := by simp [State.wakeDie]
@[simp] theorem wfMems_scrub {s : State} (h : WfMems s.mems) (l : Space) (pa n bk : ℕ) : WfMems (s.scrub l pa n bk).mems := by
  unfold State.scrub
  split
  · exact h
  · exact wfMems_setLvl h (Memory.wf_clrBs (wf_lvl h l) ..) l

theorem assignThreads_mems {core s0 win blkr : ℕ} {ts : List ℕ} {s : State} {ks : List ℕ} {r : State × List ℕ}
    (hr : assignThreads core s0 win blkr ts s ks = some r) : r.1.mems = s.mems := by
  induction ts generalizing s ks with
  | nil => cases hr; rfl
  | cons t ts ih =>
    unfold assignThreads at hr
    dsimp only at hr
    split at hr
    · cases hr
    · rw [ih hr]
      simp

theorem wfMems_startBlock {s : State} (hz : WfMems s.mems) {gid core index drift drf clusBase : ℕ} {recs : List ℕ} {r : State × ℕ}
    (hr : s.startBlock gid core index drift drf clusBase recs = some r) : WfMems r.1.mems := by
  unfold State.startBlock at hr
  extract_lets g now at hr
  split at hr
  · extract_lets bk at hr
    split at hr
    · cases hr
    case h_2 u ks hx =>
      have hu : WfMems u.mems := by rw [assignThreads_mems hx]; exact hz
      extract_lets id s₁ s₂ s₃ s₄ s₅ floes s₆ s₇ x at hr
      have h₂ : WfMems s₂.mems := by
        simp only [s₂]
        split
        · rw [foldl_mems (fun _ _ => by simp)]
          simpa [s₁, id] using hu
        · simpa [s₁, id] using hu
      have h₆ : WfMems s₆.mems := by simpa [s₆, s₅, s₄, s₃] using h₂
      cases hr
      exact wfMems_replCombine (by simpa [s₇] using wfMems_scrub h₆ ..) _
  · cases hr

@[simp] theorem wfMems_gridStarted {s : State} (h : WfMems s.mems) (gid die : ℕ) : WfMems (s.gridStarted gid die).mems := by simp [State.gridStarted, h]

theorem State.grantDie_mems {s : State} {gid die : ℕ} {r : State × Bool} (hr : s.grantDie gid die = some r) : r.1.mems = s.mems := by
  unfold State.grantDie at hr
  dsimp only at hr
  split at hr
  · cases hr; rfl
  · obtain ⟨b, _, rfl⟩ := Option.map_eq_some_iff.mp hr
    simp

theorem wfMems_startDrift {gid drift clusBase : ℕ} {cs : List (ℕ × ℕ)} {s : State} {bks : List ℕ} (hz : WfMems s.mems)
    {r : State × List ℕ} (hr : startDrift gid drift clusBase cs s bks = some r) : WfMems r.1.mems := by
  induction cs generalizing s bks with
  | nil => cases hr; exact hz
  | cons p cs ih =>
    unfold startDrift at hr
    split at hr
    · cases hr
    case h_2 hx => exact ih (wfMems_startBlock hz hx) hr

theorem wfMems_placeDrift {s : State} (hz : WfMems s.mems) {gid die drift : ℕ} {t : State} (ht : s.placeDrift gid die drift = some t) :
    WfMems t.mems := by
  unfold State.placeDrift at ht
  split at ht
  · cases ht
  case h_2 u fresh hx =>
    have hu : WfMems u.mems := by rw [State.grantDie_mems hx]; exact hz
    dsimp only at ht
    split at ht
    · cases ht
    · split at ht
      · cases ht
      · split at ht
        · cases ht
        case h_2 hy =>
          have hv := wfMems_startDrift hu hy
          have hc := wfMems_scrub hv .clus
          cases ht
          exact wfMems_gridStarted (wfMems_cond (wfMems_scrub (hc ..) ..) (hc ..)) ..

theorem State.round_mems {s t : State} {gid : ℕ} {busy : Bool} (ht : s.round gid busy = some t) : t.mems = s.mems := by
  unfold State.round at ht
  dsimp only at ht
  repeat' split at ht
  all_goals cases ht
  all_goals simp

theorem wfMems_placeNext {s : State} (hz : WfMems s.mems) {gid die : ℕ} {t : State} (ht : s.placeNext gid die = some t) :
    WfMems t.mems := by
  unfold State.placeNext at ht
  split at ht
  · cases ht
  · obtain ⟨u, hu, rfl⟩ := Option.map_eq_some_iff.mp ht
    simpa using wfMems_placeDrift hz hu

theorem wfMems_placeAll (gid n : ℕ) {s : State} (hz : WfMems s.mems) : WfMems (State.placeAll gid n s).mems := by
  induction n generalizing s with
  | zero => exact hz
  | succ n ih =>
    unfold State.placeAll
    split
    case h_1 hx =>
      obtain ⟨d, _, hd⟩ := List.exists_of_findSome?_eq_some hx
      exact ih (wfMems_placeNext hz hd)
    case h_2 => exact hz

theorem wfMems_placeLeft {gid : ℕ} {ds : List ℕ} {s : State} (hz : WfMems s.mems) {t : State} (ht : State.placeLeft gid ds s = some t) :
    WfMems t.mems := by
  induction ds generalizing s with
  | nil => cases ht; exact hz
  | cons d ds ih =>
    unfold State.placeLeft at ht
    split at ht
    case h_1 hx =>
      obtain ⟨die, _, hd⟩ := List.exists_of_findSome?_eq_some hx
      split at hd
      · exact ih (wfMems_placeDrift hz hd) ht
      · cases hd
    case h_2 => cases ht

theorem wfMems_placeTogether {gid n : ℕ} {s : State} (hz : WfMems s.mems) {t : State} (ht : State.placeTogether gid n s = some t) :
    WfMems t.mems := by
  induction n generalizing s with
  | zero => cases ht
  | succ n ih =>
    unfold State.placeTogether at ht
    split at ht
    case h_1 hx => exact ih (wfMems_placeAll _ _ (by rw [State.round_mems hx]; exact hz)) ht
    case h_2 => exact wfMems_placeLeft (by simpa using hz) ht

theorem wfMems_together {s : State} (hz : WfMems s.mems) {gid : ℕ} {t : State} (ht : s.together gid = some t) : WfMems t.mems :=
  wfMems_placeTogether hz ht

end Sys2Proof.Machine
end

section
/-! SUPPORT. What the functions of Machine/Launch.lean leave of the byte memories. -/

namespace Sys2Proof.Machine

@[simp] theorem State.dropLaunch_mems (s : State) (ctx : ℕ) : (s.dropLaunch ctx).mems = s.mems := by simp [State.dropLaunch]
@[simp] theorem wfMems_acceptLaunch {s : State} (h : WfMems s.mems) (ctx : ℕ) (r : BitVec 512) : WfMems (s.acceptLaunch ctx r).mems := by
  have hw (g : Grid) : WfMems ((((s.newId.2.setGrid s.newId.1 g).statWrite s.newId.1 4 4 0).statWrite s.newId.1 12 52 0).setGState s.newId.1 0).mems :=
    wfMems_setGState (wfMems_statWrite (wfMems_statWrite (by simpa using h) ..) ..) ..
  unfold State.acceptLaunch
  dsimp only
  split
  · simpa using h
  · split
    · simpa using h
    · split
      · simpa using hw _
      · exact wfMems_setGState (wfMems_statWrite (by simpa using hw _) ..) ..

theorem outWfMems_execLaunchRecord {page : ℕ} {pasid : BitVec 20} {size : ℕ} {data : BitVec 512} {s : State} (hz : WfMems s.mems) :
    OutWfMems (execLaunchRecord page pasid size data s) := by
  unfold execLaunchRecord
  repeat' split
  all_goals simp [hz]

theorem outWfMems_execDeviceSideLaunch {n : ℕ} {s : State} (hz : WfMems s.mems) : OutWfMems (execDeviceSideLaunch n s) := by
  unfold execDeviceSideLaunch
  dsimp only
  repeat' split
  all_goals simp [hz]

theorem outWfMems_execDriftDistribution {gid : ℕ} {s : State} (hz : WfMems s.mems) : OutWfMems (execDriftDistribution gid s) := by
  unfold execDriftDistribution
  dsimp only
  repeat' split
  · exact outWfMems_next.mpr hz
  · exact outWfMems_next.mpr (wfMems_getD (fun t ht => wfMems_together hz ht) hz)
  · exact outWfMems_next.mpr (wfMems_getD (fun t ht => by rw [State.round_mems ht]; exact hz) hz)

theorem outWfMems_execBlockPlace {gid die : ℕ} {s : State} (hz : WfMems s.mems) : OutWfMems (execBlockPlace gid die s) := by
  unfold execBlockPlace
  split
  · exact outWfMems_next.mpr (wfMems_getD (fun t ht => wfMems_placeNext hz ht) hz)
  · exact outWfMems_next.mpr hz

theorem outWfMems_execShareScrubComplete {n : ℕ} {s : State} (hz : WfMems s.mems) : OutWfMems (execShareScrubComplete n s) := by
  unfold execShareScrubComplete
  dsimp only
  repeat' split
  all_goals simp [hz]

theorem outWfMems_execGridEnd {gid : ℕ} {s : State} (hz : WfMems s.mems) : OutWfMems (execGridEnd gid s) := by
  have hw := wfMems_statWrite (wfMems_closeHandles hz gid)
  unfold execGridEnd
  dsimp only
  split
  · exact outWfMems_next.2 hz
  · exact outWfMems_next.2 (wfMems_setGState (by simpa using hw ..) ..)

theorem outWfMems_execGridEndByHost {gid : ℕ} {s : State} (hz : WfMems s.mems) : OutWfMems (execGridEndByHost gid s) := by
  unfold execGridEndByHost
  dsimp only
  repeat' split
  all_goals simp [hz]

@[simp] theorem State.beginPreempt_mems (s : State) (ctx : ℕ) : (s.beginPreempt ctx).mems = s.mems := by simp [State.beginPreempt]
@[simp] theorem wfMems_savePiece {s : State} (h : WfMems s.mems) (ctx : ℕ) (p : SavePiece) : WfMems (s.savePiece ctx p).mems := by simp [State.savePiece, h]

@[simp] theorem wfMems_loadPiece {s : State} (h : WfMems s.mems) (ctx : ℕ) (p : SavePiece) : WfMems (s.loadPiece ctx p).mems := by
  unfold State.loadPiece
  split
  case h_2 => exact wfMems_setLvl h (Memory.wf_setBs (wf_lvl h _) _ _) _
  all_goals simp [h]

@[simp] theorem wfMems_finishPreempt {s : State} (h : WfMems s.mems) (ctx : ℕ) : WfMems (s.finishPreempt ctx).mems := by
  unfold State.finishPreempt
  extract_lets
  rw [foldl_mems (fun _ _ => foldl_mems (fun _ _ => State.fillBins_mems ..) ..)]
  refine wfMems_foldl (fun _ _ hs => wfMems_setGState hs ..) _ ?_
  exact wfMems_foldl (fun _ _ hs => wfMems_savePiece hs ..) _ (wfMems_foldl (fun _ _ hs => wfMems_abortBlock hs ..) _ h)

theorem outWfMems_execContextPreempt {ctx : ℕ} {s : State} (hz : WfMems s.mems) : OutWfMems (execContextPreempt ctx s) := by
  unfold execContextPreempt
  repeat' split
  all_goals simp [hz]

theorem outWfMems_execPreempt {ctx : ℕ} {value : BitVec 64} {s : State} (hz : WfMems s.mems) : OutWfMems (execPreempt ctx value s) := by
  unfold execPreempt
  split <;> simp [hz]

@[simp] theorem State.dropStale_mems (s : State) (bk : ℕ) : (s.dropStale bk).mems = s.mems := by simp [State.dropStale]
@[simp] theorem State.shiftTimers_mems (s : State) (bk d : ℕ) : (s.shiftTimers bk d).mems = s.mems := by simp [State.shiftTimers]

@[simp] theorem wfMems_goAgain {s : State} (h : WfMems s.mems) (bk : ℕ) : WfMems (s.goAgain bk).mems := by
  unfold State.goAgain
  dsimp only
  repeat' split
  all_goals simp [h]

@[simp] theorem wfMems_unstop {s : State} (h : WfMems s.mems) (bk : ℕ) (ends : List ℕ) : WfMems (s.unstop bk ends).mems := by
  unfold State.unstop
  split
  · exact h
  · extract_lets left u v
    have hv : WfMems v.mems := by
      simp only [v, u]
      split
      · exact wfMems_cond (by simpa using h) (by simpa using h)
      · simpa using h
    exact wfMems_cond h (wfMems_cond hv (wfMems_goAgain hv bk))

end Sys2Proof.Machine
end

section
/-! SUPPORT. What the functions of Machine/Pci.lean leave of the byte memories. -/

namespace Sys2Proof.Machine

@[simp] theorem State.writeCfg_mems (s : State) (off : ℕ) (v : Word) : (s.writeCfg off v).mems = s.mems := by simp [State.writeCfg]

end Sys2Proof.Machine
end

section
/-! SUPPORT. What the functions of Machine/Fault.lean leave of the byte memories. -/

namespace Sys2Proof.Machine

@[simp] theorem wfMems_lateTrap {s : State} (h : WfMems s.mems) (k : ℕ) (l : Late) (code : ℕ) (lanes : List ℕ) (addr : ℕ) :
    WfMems (s.lateTrap k l code lanes addr).mems := by
  unfold State.lateTrap
  dsimp only
  repeat' split
  all_goals simp [h]

theorem wfMems_walkLate {s : State} (hz : WfMems s.mems) (k : ℕ) (l : Late) : WfMems (s.walkLate k l).mems := by
  unfold State.walkLate
  split
  · exact hz
  · extract_lets bk c
    have hh := memPasses_checkHome (c := c) hz (l.reqs.map fun q => ⟨q.1, q.2.1, q.2.2⟩) l.n false true l.mark
    split
    · exact hz
    · split
      case h_1 hx => simpa using hh.ok hx
      case h_2 hx =>
        have hs := hh.error hx
        dsimp only
        split
        · exact hs
        · exact wfMems_pageFault (by simpa using hs) ..
      case h_3 hx => exact hh.error hx
      all_goals simp [hz]

theorem outWfMems_execTlbWalkComplete {c : CoreId} {ctx va : ℕ} {write : Bool} {s : State} (hz : WfMems s.mems) :
    OutWfMems (execTlbWalkComplete c ctx va write s) := by
  unfold execTlbWalkComplete
  extract_lets core t
  have ht : WfMems t.mems := by
    simp only [t]
    split
    · simp [hz]
    · exact hz
  split
  · simp [ht]
  · exact outWfMems_next.2 (wfMems_settleDue (wfMems_walkLate ht _ _) _)

theorem outWfMems_execPageRequestGroupSend {die ctx : ℕ} {s : State} (hz : WfMems s.mems) :
    OutWfMems (execPageRequestGroupSend die ctx s) := by
  unfold execPageRequestGroupSend
  extract_lets g pasid used
  split
  · simp [hz]
  · split
    · simp [hz]
    · rw [outWfMems_next]
      dsimp only
      rw [foldl_mems (fun s e => by simp)]
      exact hz

@[simp] theorem wfMems_pageBadFloe {s : State} (h : WfMems s.mems) (k code ecode : ℕ) (vas : List (ℕ × ℕ × ℕ)) (ans : List PKey) (entry : Bool) :
    WfMems (s.pageBadFloe k code ecode vas ans entry).mems := by
  unfold State.pageBadFloe
  dsimp only
  repeat' split
  all_goals simp [h]

@[simp] theorem State.workGood_mems (s : State) (die : ℕ) (ans : List PKey) : (s.workGood die ans).mems = s.mems := by simp [State.workGood]
@[simp] theorem State.pagesGood_mems (s : State) (die : ℕ) (ans : List PKey) : (s.pagesGood die ans).mems = s.mems := by simp [State.pagesGood]

@[simp] theorem wfMems_workBad {s : State} (h : WfMems s.mems) (die : ℕ) (ans : List PKey) (code ecode : ℕ) :
    WfMems (s.workBad die ans code ecode).mems := by
  refine wfMems_foldl (fun _ _ hs => wfMems_pageBadFloe hs ..) _ ?_
  rw [foldl_mems (fun _ _ => State.mmaGiveUp_mems ..), foldl_mems (fun _ _ => by simp), foldl_mems (fun _ _ => State.copyLost_mems ..)]
  exact h

@[simp] theorem wfMems_pagesBad {s : State} (h : WfMems s.mems) (die : ℕ) (ans : List PKey) (code ecode : ℕ) :
    WfMems (s.pagesBad die ans code ecode).mems :=
  wfMems_foldl (fun _ _ hs => wfMems_pageBadTask hs ..) _ (wfMems_workBad h ..)

@[simp] theorem State.keepAnswer_mems (s : State) (ctx die : ℕ) (ans : List PKey) (code ecode : ℕ) :
    (s.keepAnswer ctx die ans code ecode).mems = s.mems := by simp [State.keepAnswer]

theorem outWfMems_execPrgResponse {pasid : BitVec 20} {prg : ℕ} {resp : PrgResp} {s : State} (hz : WfMems s.mems) :
    OutWfMems (execPrgResponse pasid prg resp s) := by
  unfold execPrgResponse
  dsimp only
  split
  · exact outWfMems_next.2 hz
  · refine outWfMems_next.2 (wfMems_settleDue ?_ _)
    cases resp <;> simp [hz]

@[simp] theorem wfMems_retryTask {s : State} (h : WfMems s.mems) (t : Task) : WfMems (s.retryTask t).mems := by
  unfold State.retryTask
  extract_lets ctx ws need r
  have hr : r.2.mems = s.mems := by
    refine foldl_snd_mems (fun a q => ?_) _ _
    split
    · rfl
    · have ho := State.openPage_mems a.2 (dieOf t.core) ctx q.1 q.2.1 q.2.2
      split
      case h_1 hx => rw [← ho, hx]
      case h_2 hx => rw [← ho, hx]
  split
  · exact wfMems_pageBadTask h ..
  · simpa using h
  · simpa using h
  · have hw : WfMems r.2.mems := by rw [hr]; exact h
    split <;> exact hw

theorem outWfMems_execTaskReplace {n : ℕ} {s : State} (hz : WfMems s.mems) : OutWfMems (execTaskReplace n s) := by
  unfold execTaskReplace
  split
  · simp [hz]
  · split
    · split <;> simp [hz]
    · split
      · split <;> simp [hz]
      · split
        · simp [hz]
        · split
          case h_1 hx => simpa using wfMems_startBlock (s := { s with tasks := s.tasks.eraseIdx n }) hz hx
          case h_2 => simp [hz]

theorem outWfMems_execAtsTranslationCompletion {c : CoreId} {ctx va frame size : ℕ} {read write : Bool} {s : State} (hz : WfMems s.mems) :
    OutWfMems (execAtsTranslationCompletion c ctx va frame size read write s) := by
  unfold execAtsTranslationCompletion
  dsimp only
  repeat' split
  all_goals simp [hz]

theorem outWfMems_execAtsInvalidateRequest {pasid : BitVec 20} {va size : ℕ} {s : State} (hz : WfMems s.mems) :
    OutWfMems (execAtsInvalidateRequest pasid va size s) := by
  unfold execAtsInvalidateRequest
  split <;> simp [hz]

@[simp] theorem wfMems_commitByDevice {s : State} (h : WfMems s.mems) (k : ℕ) : WfMems (s.commitByDevice k).mems := by
  unfold State.commitByDevice
  have hc : WfMems (s.commit k).1.mems := by simpa using h
  dsimp only
  split
  · exact wfMems_commitFailed hc ..
  · exact hc

theorem wfMems_within {s : State} (h : WfMems s.mems) (x : Saved) {op : State → State} (hop : ∀ u, WfMems u.mems → WfMems (op u).mems) :
    WfMems (s.within x op).mems :=
  hop _ (wfMems_foldl (fun _ _ hs => wfMems_loadPiece hs ..) _ h)

@[simp] theorem wfMems_commitCovered {s : State} (h : WfMems s.mems) (ctx : ℕ) (r : Option (ℕ × ℕ)) :
    WfMems (s.commitCovered ctx r).mems := by
  unfold State.commitCovered
  extract_lets go
  have hgo : ∀ u, WfMems u.mems → WfMems (go u).mems := fun u hu => wfMems_foldl (fun _ _ hs => wfMems_commitByDevice hs _) _ hu
  exact wfMems_foldl (fun _ x hs => wfMems_within hs x hgo) _ (hgo s h)

@[simp] theorem State.releaseCmd_mems (s : State) (k : Option ℕ) : (s.releaseCmd k).mems = s.mems := by
  unfold State.releaseCmd
  split <;> simp

@[simp] theorem State.endHostCmd_mems (s : State) (err : ℕ) : (s.endHostCmd err).mems = s.mems := by simp [State.endHostCmd]

theorem outWfMems_execInvalidationComplete {n : ℕ} {s : State} (hz : WfMems s.mems) : OutWfMems (execInvalidationComplete n s) := by
  unfold execInvalidationComplete
  split
  · exact outWfMems_next.2 hz
  · extract_lets r t u v
    have ht : WfMems t.mems := by
      simp only [t]
      exact wfMems_commitCovered (by exact hz) ..
    have hv : WfMems v.mems := wfMems_cond (by simpa [u] using ht) (by simpa [u] using ht)
    split
    · exact outWfMems_next.2 (wfMems_settleDue ht _)
    · exact outWfMems_next.2 (wfMems_settleDue (wfMems_cond (by simpa using hv) hv) _)

theorem State.takeCmd_mems {s : State} {core csr : ℕ} {val : Word} {x : Cmd} {t : State}
    (hr : s.takeCmd core csr val = some (x, t)) : t.mems = s.mems := by
  unfold State.takeCmd at hr
  split at hr
  · split at hr
    · cases hr; rfl
    · cases hr
  · cases hr

@[simp] theorem wfMems_setBent {s : State} (h : WfMems s.mems) (ctx i v : ℕ) : WfMems (s.setBent ctx i v).mems := by simp [State.setBent, h]

theorem outWfMems_execBoundsWrite {c : CoreId} {s : State} (hz : WfMems s.mems) : OutWfMems (execBoundsWrite c s) := by
  unfold execBoundsWrite
  split
  · simp [hz]
  case h_2 hx => simp [State.takeCmd_mems hx, hz]

theorem outWfMems_execBoundsRead {c : CoreId} {s : State} (hz : WfMems s.mems) : OutWfMems (execBoundsRead c s) := by
  unfold execBoundsRead
  dsimp only
  split
  · simp [hz]
  case h_2 t hx =>
    rw [outWfMems_next, State.releaseCmd_mems, foldl_mems (fun s i => by simp), State.takeCmd_mems hx]
    exact hz

theorem outWfMems_execBoundsClear {c : CoreId} {s : State} (hz : WfMems s.mems) : OutWfMems (execBoundsClear c s) := by
  unfold execBoundsClear
  split
  · simp [hz]
  case h_2 hx => simp [State.takeCmd_mems hx, hz]

theorem outWfMems_execTlbInvalidatePage {c : CoreId} {s : State} (hz : WfMems s.mems) : OutWfMems (execTlbInvalidatePage c s) := by
  unfold execTlbInvalidatePage
  split
  · simp [hz]
  case h_2 hx => simp [State.takeCmd_mems hx, hz]

theorem outWfMems_execTlbInvalidateContext {c : CoreId} {s : State} (hz : WfMems s.mems) :
    OutWfMems (execTlbInvalidateContext c s) := by
  unfold execTlbInvalidateContext
  split
  · simp [hz]
  case h_2 hx => simp [State.takeCmd_mems hx, hz]

theorem outWfMems_execInvalidatePage {s : State} (hz : WfMems s.mems) : OutWfMems (execInvalidatePage s) := by
  unfold execInvalidatePage
  repeat' split
  all_goals simp [hz]

theorem outWfMems_execInvalidateContext {s : State} (hz : WfMems s.mems) : OutWfMems (execInvalidateContext s) := by
  unfold execInvalidateContext
  repeat' split
  all_goals simp [hz]

theorem outWfMems_execWriteBoundsEntry {s : State} (hz : WfMems s.mems) : OutWfMems (execWriteBoundsEntry s) := by
  unfold execWriteBoundsEntry
  repeat' split
  all_goals simp [hz]

@[simp] theorem State.resumeFloe_mems (s : State) (k : ℕ) (f : Floe) : (s.resumeFloe k f).mems = s.mems := by simp [State.resumeFloe]

@[simp] theorem wfMems_restoreCtx {s : State} (sv : Saved) (hz : WfMems s.mems) : WfMems (s.restoreCtx sv).mems := by
  unfold State.restoreCtx
  extract_lets s₁ s₂ s₃ s₄ s₅ s₆ s₇ s₈ s₉ s₁₀
  have h₃ : WfMems s₃.mems := wfMems_foldl (fun _ _ hs => wfMems_loadPiece hs ..) _ (by simpa [s₂, s₁] using hz)
  have h₇ : WfMems s₇.mems := by
    simp only [s₇, s₆, s₅]
    rw [foldl_mems (fun _ _ => State.resumeFloe_mems ..), foldl_mems (fun _ _ => by simp), foldl_mems (fun _ _ => by rfl)]
    exact h₃
  have h₈ : WfMems s₈.mems := wfMems_foldl (fun _ _ hs => wfMems_setGState hs ..) _ h₇
  have h₉ : WfMems s₉.mems := by
    refine wfMems_foldl (fun s a hs => ?_) _ h₈
    exact wfMems_cond (by simpa using hs) (wfMems_workBad hs ..)
  rw [foldl_mems (fun _ _ => by simp)]
  exact wfMems_foldl (fun _ _ hs => wfMems_unstop hs ..) _ h₉

theorem outWfMems_execContextResume {ctx : ℕ} {s : State} (hz : WfMems s.mems) : OutWfMems (execContextResume ctx s) := by
  unfold execContextResume
  repeat' split
  all_goals simp [hz]

end Sys2Proof.Machine
end

section
/-! SUPPORT. What the functions of Machine/Segment.lean leave of the byte memories. -/

namespace Sys2Proof.Machine

theorem outWfMems_execSegmentRequest {f : FloeId} {s : State} (hz : WfMems s.mems) : OutWfMems (execSegmentRequest f s) := by
  unfold execSegmentRequest
  dsimp only
  repeat' split
  all_goals simp [hz]

theorem State.resolveLink_mems {s : State} {die ctx code x : ℕ} {r : ℕ × Option ℕ × State} (hr : s.resolveLink die ctx code x = .ok r) :
    r.2.2.mems = s.mems := by
  unfold State.resolveLink at hr
  repeat' split at hr
  all_goals cases hr
  all_goals simp

theorem patchSites_mems {die ctx code seg : ℕ} {xs : List ℕ} {ls : List (BitVec 512)} {rs : List ℕ} {s : State} :
    (∀ e, patchSites die ctx code seg xs ls rs s = .error e → e.2.2.mems = s.mems) ∧
    ∀ r, patchSites die ctx code seg xs ls rs s = .ok r → r.2.2.mems = s.mems := by
  induction xs generalizing ls rs s with
  | nil => simp [patchSites]
  | cons x xs ih =>
    unfold patchSites
    split
    · simp
    · simp
    case h_3 u hx =>
      have hu : u.mems = s.mems := State.resolveLink_mems hx
      rw [← hu]
      exact ih

@[simp] theorem State.serve_mems (s : State) (die ctx code seg : ℕ) : (s.serve die ctx code seg).2.2.2.mems = s.mems := by
  unfold State.serve
  extract_lets keep fail
  have hk : ∀ u ls f, (keep u ls f).mems = u.mems := fun _ _ _ => rfl
  have hf : ∀ u f h rs, (fail u f h rs).2.2.2.mems = u.mems := fun u f h rs => by simp only [fail]; split <;> simp [hk]
  split
  · split <;> rfl
  · split
    · exact hf ..
    · split
      · exact hf ..
      · split
        · exact hf ..
        · split
          case h_1 hx => rw [hf]; exact patchSites_mems.1 _ hx
          case h_2 hx => rw [hk]; exact patchSites_mems.2 _ hx

theorem evictFor_mems {core n fuel : ℕ} {s : State} {r : ℕ × State} (hr : evictFor core n fuel s = some r) : r.2.mems = s.mems := by
  induction fuel generalizing s with
  | zero => cases hr
  | succ fuel ih =>
    unfold evictFor at hr
    split at hr
    · cases hr; rfl
    · split at hr
      · cases hr
      · have := ih hr
        exact this

@[simp] theorem wfMems_ship {s : State} (h : WfMems s.mems) (core ctx code seg : ℕ) (ls : List (BitVec 512)) :
    WfMems (s.ship core ctx code seg ls).mems := by
  unfold State.ship
  split
  · exact h
  case h_2 hx =>
    dsimp only
    refine wfMems_foldl (fun s e hs => ?_) _ (by simpa [evictFor_mems hx] using h)
    split
    · exact wfMems_tryEnter hs _
    · simpa using hs

@[simp] theorem wfMems_svcFault {s : State} (h : WfMems s.mems) (core ctx code seg : ℕ) (f : SvcFault) (ls : List (BitVec 512)) :
    WfMems (s.svcFault core ctx code seg f ls).mems := by
  refine wfMems_foldl (fun s e hs => ?_) _ h
  split
  · exact wfMems_cond (wfMems_takeTrapAt hs ..) hs
  · exact hs

theorem outWfMems_execSegmentDelivery {die ctx code seg : ℕ} {s : State} (hz : WfMems s.mems) :
    OutWfMems (execSegmentDelivery die ctx code seg s) := by
  unfold execSegmentDelivery
  extract_lets cores ws fetch r u
  have hu : WfMems u.mems := by simp [u, r, hz]
  split
  · simp [hz]
  · split
    · simp [hz]
    · split
      · simp [hz]
      · refine outWfMems_next.2 (wfMems_settleDue ?_ _)
        split
        · exact wfMems_foldl (fun _ _ hs => wfMems_svcFault hs ..) _ hu
        · exact wfMems_foldl (fun _ _ hs => wfMems_ship hs ..) _ hu

@[simp] theorem State.beginRecall_mems (s : State) (ctx code seg : ℕ) : (s.beginRecall ctx code seg).mems = s.mems := by simp [State.beginRecall]

@[simp] theorem State.endRecall_mems (s : State) (ctx code seg : ℕ) (who : Option ℕ) : (s.endRecall ctx code seg who).mems = s.mems := by
  simp [State.endRecall]

@[simp] theorem State.recallMove_mems (s : State) (ctx code seg : ℕ) (who : Option ℕ) :
    (s.recallMove ctx code seg who).1.mems = s.mems := by
  unfold State.recallMove
  dsimp only
  repeat' split
  all_goals simp

theorem outWfMems_execRecall {s : State} (hz : WfMems s.mems) : OutWfMems (execRecall s) := by
  unfold execRecall
  dsimp only
  repeat' split
  all_goals simp [hz]

theorem outWfMems_execCodeObjectUnload {ctx code : ℕ} {s : State} (hz : WfMems s.mems) : OutWfMems (execCodeObjectUnload ctx code s) := by
  unfold execCodeObjectUnload
  split
  · exact outWfMems_next.2 hz
  · exact outWfMems_next.2 (wfMems_foldl (fun _ _ hs => wfMems_reclaim (by simpa using hs) _) _ hz)

theorem outWfMems_execDriverDirectoryCommand {ctx : ℕ} {recs : List BindRec} {s : State} (hz : WfMems s.mems) :
    OutWfMems (execDriverDirectoryCommand ctx recs s) := by
  unfold execDriverDirectoryCommand
  dsimp only
  repeat' split
  all_goals simp [hz]

theorem outWfMems_execReclgetWrite {ctx : ℕ} {value : BitVec 64} {s : State} (hz : WfMems s.mems) :
    OutWfMems (execReclgetWrite ctx value s) := by
  unfold execReclgetWrite
  split
  · exact outWfMems_next.2 hz
  · exact outWfMems_next.2 (wfMems_drainRecl (by simpa using hz) _)

theorem outWfMems_execReclbaseWrite {ctx : ℕ} {value : BitVec 64} {s : State} (hz : WfMems s.mems) :
    OutWfMems (execReclbaseWrite ctx value s) := by
  unfold execReclbaseWrite
  split
  · exact outWfMems_next.2 hz
  · exact outWfMems_next.2 (wfMems_drainRecl (by simpa using hz) _)

end Sys2Proof.Machine
end

section
/-! SUPPORT. What the functions of Machine/System.lean leave of the byte memories. -/

namespace Sys2Proof.Machine

@[simp] theorem State.queueCmd_mems (s : State) (core ctx n : ℕ) (v : Word) (floe : Option ℕ) :
    (s.queueCmd core ctx n v floe).mems = s.mems := by simp [State.queueCmd]

@[simp] theorem State.holdCmd_mems (s : State) (k : Option ℕ) : (s.holdCmd k).mems = s.mems := by
  unfold State.holdCmd
  split <;> simp

@[simp] theorem State.writeDcmd_mems (s : State) (core ctx : ℕ) (v : Word) (floe : Option ℕ) :
    (s.writeDcmd core ctx v floe).mems = s.mems := by simp [State.writeDcmd]

@[simp] theorem State.writeCsr_mems (s : State) (core ctx n : ℕ) (v : Word) (floe : Option ℕ) :
    (s.writeCsr core ctx n v floe).mems = s.mems := by simp [State.writeCsr]

theorem wfMems_csrPut {c : Ctx} {s : State} (hz : WfMems s.mems) (l n : ℕ) (o : WOp) (v : Word) : WfMems (c.csrPut s l n o v).mems := by
  unfold Ctx.csrPut
  split
  · simp [hz]
  · dsimp only
    split
    · simpa using hz
    · simp [hz]

@[simp] theorem wfMems_csrGate {c : Ctx} (n : ℕ) (write : Bool) {go : Res} (hz : WfMems c.s.mems) (hg : go.WfMems) :
    (c.csrGate n write go).WfMems := by
  unfold Ctx.csrGate
  repeat' split
  all_goals simp [hz, hg]

@[simp] theorem wfMems_csrWrite {c : Ctx} (a : BitVec 8) (n : ℕ) (o : WOp) (hz : WfMems c.s.mems) : (c.csrWrite a n o).WfMems :=
  wfMems_csrGate _ _ hz (wfMems_foldl (fun _ l h => wfMems_csrPut h l n o _) _ hz)

@[simp] theorem wfMems_settleLanes {s : State} (h : WfMems s.mems) (k : ℕ) (lanes : List ℕ) : WfMems (s.settleLanes k lanes).mems := by
  unfold State.settleLanes
  split
  · exact h
  · dsimp only
    rw [State.modFloe_mems]
    exact wfMems_foldl (fun _ _ hs => wfMems_writePend hs ..) _ h

theorem outWfMems_execEret {h : Head} {s : State} (hz : WfMems s.mems) : OutWfMems (execEret h s) := by
  unfold execEret
  refine outWfMems_issue hz _ fun c hc => ?_
  split
  · exact hc
  · split
    · trivial
    · split
      · exact hc
      · refine wfMems_commitThen hc fun s hs => ?_
        rw [Res.wfMems_done, State.eretThreads_mems, foldl_modThread_mems, State.publish_mems]
        exact wfMems_settleLanes hs _ _

theorem outWfMems_execHaltGrid {h : Head} {s : State} (hz : WfMems s.mems) : OutWfMems (execHaltGrid h s) := by
  unfold execHaltGrid
  refine outWfMems_issue hz _ fun c hc => ?_
  split <;> simp [hc]

theorem outWfMems_execHaltCtx {h : Head} {s : State} (hz : WfMems s.mems) : OutWfMems (execHaltCtx h s) := by
  refine outWfMems_issue hz _ fun c hc => ?_
  repeat' split
  all_goals simp [hc]

theorem outWfMems_execBrk {h : Head} {code : BitVec 16} {act : BitVec 2} {s : State} (hz : WfMems s.mems) :
    OutWfMems (execBrk h code act s) := by
  unfold execBrk
  refine outWfMems_issue hz _ fun c hc => ?_
  split <;> simp [hc]

theorem outWfMems_execMark {h : Head} {code : BitVec 16} {s : State} (hz : WfMems s.mems) : OutWfMems (execMark h code s) := by
  unfold execMark
  refine outWfMems_issue hz _ fun c hc => ?_
  split <;> simp [hc]

theorem outWfMems_execMarkValue {h : Head} {a : BitVec 8} {code : BitVec 16} {s : State} (hz : WfMems s.mems) :
    OutWfMems (execMarkValue h a code s) := by
  unfold execMarkValue
  refine outWfMems_issue hz _ fun c hc => ?_
  split <;> simp [hc]

end Sys2Proof.Machine
end

section
/-! SUPPORT. What the functions of Machine/Debug.lean leave of the byte memories. -/

namespace Sys2Proof.Machine

@[simp] theorem State.endDcmd_mems (s : State) (x : Cmd) (err : ℕ) (set : Word) : (s.endDcmd x err set).mems = s.mems := by simp [State.endDcmd]
@[simp] theorem State.beginDcmd_mems (s : State) (x : Cmd) (n : ℕ) : (s.beginDcmd x n).mems = s.mems := by simp [State.beginDcmd]

theorem outWfMems_execStopBlock {issuer : CoreId} {s : State} (hz : WfMems s.mems) : OutWfMems (execStopBlock issuer s) := by
  unfold execStopBlock
  dsimp only
  repeat' split
  all_goals simp [hz]

theorem outWfMems_execHaltGridCommand {issuer : CoreId} {s : State} (hz : WfMems s.mems) : OutWfMems (execHaltGridCommand issuer s) := by
  unfold execHaltGridCommand
  repeat' split
  all_goals simp [hz]

theorem outWfMems_execHaltContext {issuer : CoreId} {s : State} (hz : WfMems s.mems) : OutWfMems (execHaltContext issuer s) := by
  unfold execHaltContext
  repeat' split
  all_goals simp [hz]

@[simp] theorem State.cancelStep_mems (s : State) (bk : ℕ) : (s.cancelStep bk).mems = s.mems := by
  unfold State.cancelStep
  split <;> simp

@[simp] theorem wfMems_resumeGrid {s : State} (h : WfMems s.mems) (g cause : ℕ) : WfMems (s.resumeGrid g cause).mems := by
  unfold State.resumeGrid
  extract_lets x t u
  split
  · exact h
  · have ht : WfMems t.mems := by simpa [t] using h
    have hu : WfMems u.mems := wfMems_cond (wfMems_setGState ht ..) ht
    exact wfMems_foldl (fun _ _ hs => wfMems_retryTask hs _) _
      (wfMems_foldl (fun s _ hs => wfMems_unstop (by simpa using hs) ..) _ hu)

theorem outWfMems_execResume {issuer : CoreId} {s : State} (hz : WfMems s.mems) : OutWfMems (execResume issuer s) := by
  unfold execResume
  split
  · simp [hz]
  · split
    · simp [hz]
    · rename_i b _
      extract_lets u stops v w y
      have hu : WfMems u.mems := by simpa [u] using hz
      have hv : WfMems v.mems := wfMems_cond (wfMems_resumeGrid hu ..) hu
      have hw : WfMems w.mems := wfMems_cond (wfMems_resumeGrid hv ..) hv
      have hy : WfMems y.mems := wfMems_cond (wfMems_foldl (fun _ _ hs => wfMems_resumeGrid hs ..) _ hw) hw
      refine outWfMems_next.2 (wfMems_settleDue ?_ _)
      rw [State.endDcmd_mems]
      exact wfMems_unstop hy _ _

theorem outWfMems_execStep {issuer : CoreId} {s : State} (hz : WfMems s.mems) : OutWfMems (execStep issuer s) := by
  unfold execStep
  dsimp only
  repeat' split
  all_goals simp [hz]

theorem outWfMems_execStepTimeout {issuer : CoreId} {s : State} (hz : WfMems s.mems) : OutWfMems (execStepTimeout issuer s) := by
  unfold execStepTimeout
  split <;> simp [hz]

theorem outWfMems_execDump {issuer : CoreId} {s : State} (hz : WfMems s.mems) : OutWfMems (execDump issuer s) := by
  unfold execDump
  dsimp only
  repeat' split
  all_goals simp [hz]

theorem outWfMems_execDumpEnd {issuer : CoreId} {s : State} (hz : WfMems s.mems) : OutWfMems (execDumpEnd issuer s) := by
  unfold execDumpEnd
  split <;> simp [hz]

theorem outWfMems_execDebugRecall {issuer : CoreId} {s : State} (hz : WfMems s.mems) : OutWfMems (execDebugRecall issuer s) := by
  unfold execDebugRecall
  dsimp only
  repeat' split
  all_goals simp [hz]

theorem outWfMems_execRemoteWrite {issuer : CoreId} {s : State} (hz : WfMems s.mems) : OutWfMems (execRemoteWrite issuer s) := by
  unfold execRemoteWrite
  repeat' split
  all_goals simp [hz]

theorem outWfMems_execRemoteRead {issuer : CoreId} {s : State} (hz : WfMems s.mems) : OutWfMems (execRemoteRead issuer s) := by
  unfold execRemoteRead
  repeat' split
  all_goals simp [hz]

theorem outWfMems_execSample {q : SlotId} {s : State} (hz : WfMems s.mems) : OutWfMems (execSample q s) := by
  unfold execSample
  dsimp only
  repeat' split
  all_goals simp [hz]

end Sys2Proof.Machine
end

section
/-! SUPPORT. What the functions of Machine/Kernel.lean leave of the byte memories. -/

namespace Sys2Proof.Machine

theorem outWfMems_execResultWrite {f : FloeId} {n : ℕ} {s : State} (hz : WfMems s.mems) : OutWfMems (execResultWrite f n s) := by
  unfold execResultWrite
  dsimp only
  repeat' split
  all_goals simp [hz]

theorem outWfMems_execBankService {level : Space} {inst bank : ℕ} {engine : Bool} {s : State} (hz : WfMems s.mems) :
    OutWfMems (execBankService level inst bank engine s) := by
  unfold execBankService
  dsimp only
  repeat' split
  all_goals simp [hz]

theorem outWfMems_execStreamElementArrival {f : FloeId} {port lane : ℕ} {s : State} (hz : WfMems s.mems) :
    OutWfMems (execStreamElementArrival f port lane s) := by
  unfold execStreamElementArrival
  extract_lets k
  split
  · simp [hz]
  · split
    · simp [hz]
    case h_2 st hst =>
      dsimp only
      split
      · simp [hz]
      case isFalse x _ _ _ =>
        have he := memPasses_elements (c := ⟨s, k, x, [lane], coreOfFloe k, x.bkey k, s.grid (s.block (x.bkey k)).grid, false, []⟩) hz st
          [(lane, lookD 0 st.pos lane + (lookD [] st.fetched lane).length)]
        split
        case h_1 hx => simpa using he.ok hx
        case h_2 hx => simpa using he.error hx
        case h_3 hx => exact outWfMems_next.2 (wfMems_settleDue (by rw [State.fatalStop_mems]; exact he.error hx) _)
        case h_4 => simp [hz]
        case h_5 => simp [hz]

theorem outWfMems_execBarrierCompletionMulticast {n : ℕ} {s : State} (hz : WfMems s.mems) :
    OutWfMems (execBarrierCompletionMulticast n s) := by
  unfold execBarrierCompletionMulticast
  split <;> simp [hz]

theorem outWfMems_execBinTimerExpire {q : SlotId} {b : ℕ} {s : State} (hz : WfMems s.mems) : OutWfMems (execBinTimerExpire q b s) := by
  unfold execBinTimerExpire
  dsimp only
  repeat' split
  all_goals simp [hz]

@[simp] theorem State.mergeThreads_mems (s : State) (k : ℕ) (tks : List ℕ) : (s.mergeThreads k tks).mems = s.mems := by simp [State.mergeThreads]

@[simp] theorem wfMems_newFloe {s : State} (h : WfMems s.mems) (k blkr : ℕ) (cont : Word) (lanes : List (ℕ × ℕ)) (recs : List ℕ) :
    WfMems (s.newFloe k blkr cont lanes recs).mems := by simp [State.newFloe, h]

@[simp] theorem wfMems_restoreFloe {s : State} (h : WfMems s.mems) (k q i : ℕ) (f : Floe) : WfMems (s.restoreFloe k q i f).mems := by simp [State.restoreFloe, h]

@[simp] theorem wfMems_launchFloe {s : State} (h : WfMems s.mems) (q w : ℕ) (x3 : Cand) : WfMems (s.launchFloe q w x3).mems := by
  unfold State.launchFloe
  dsimp only
  repeat' split
  all_goals simp [h]

theorem outWfMems_execFloeLaunch {q : SlotId} {s : State} (hz : WfMems s.mems) : OutWfMems (execFloeLaunch q s) := by
  unfold execFloeLaunch
  dsimp only
  repeat' split
  all_goals simp [hz]

@[simp] theorem State.demote_mems (s : State) (k sv : ℕ) : (s.demote k sv).mems = s.mems := by
  unfold State.demote
  split <;> simp

theorem outWfMems_execFloeDemote {q : SlotId} {s : State} (hz : WfMems s.mems) : OutWfMems (execFloeDemote q s) := by
  unfold execFloeDemote
  dsimp only
  repeat' split
  all_goals simp [hz]

theorem outWfMems_execFloeExhaustion {q : SlotId} {s : State} (hz : WfMems s.mems) : OutWfMems (execFloeExhaustion q s) := by
  unfold execFloeExhaustion
  dsimp only
  repeat' split
  all_goals simp [hz]

theorem outWfMems_execSpawnResume {f : FloeId} {s : State} (hz : WfMems s.mems) : OutWfMems (execSpawnResume f s) := by
  unfold execSpawnResume
  split
  · split
    · exact outWfMems_execSpawn (s := { s with cur := f }) hz
    · simp [hz]
  · simp [hz]

theorem outWfMems_execReservationHoldExpire {q : SlotId} {s : State} (hz : WfMems s.mems) : OutWfMems (execReservationHoldExpire q s) := by
  simp [execReservationHoldExpire, hz]

theorem outWfMems_execGridStop {gid : ℕ} {c : CoreId} {s : State} (hz : WfMems s.mems) : OutWfMems (execGridStop gid c s) := by
  unfold execGridStop
  repeat' split
  all_goals simp [hz]

end Sys2Proof.Machine
end

section
/-! SUPPORT. What the functions of Machine/Errors.lean leave of the byte memories. -/

namespace Sys2Proof.Machine

theorem State.errCmd_mems {s : State} {c : CoreId} {csr : ℕ} {p : Word → Bool} {x : Cmd} {t : State}
    (hr : s.errCmd c csr p = some (x, t)) : t.mems = s.mems := by
  unfold State.errCmd at hr
  split at hr
  · split at hr
    · cases hr; rfl
    · cases hr
  · cases hr

theorem outWfMems_execErrorLogRead {c : CoreId} {s : State} (hz : WfMems s.mems) : OutWfMems (execErrorLogRead c s) := by
  unfold execErrorLogRead
  split
  · simp [hz]
  case h_2 hx =>
    rw [outWfMems_next, State.releaseCmd_mems, foldl_mems (fun s i => by simp), State.errCmd_mems hx]
    exact hz

theorem outWfMems_execErrorLogClear {c : CoreId} {s : State} (hz : WfMems s.mems) : OutWfMems (execErrorLogClear c s) := by
  unfold execErrorLogClear
  split
  · simp [hz]
  case h_2 hx => simp [State.errCmd_mems hx, hz]

theorem outWfMems_execErrorLogOverflowRead {c : CoreId} {s : State} (hz : WfMems s.mems) :
    OutWfMems (execErrorLogOverflowRead c s) := by
  unfold execErrorLogOverflowRead
  split
  · simp [hz]
  case h_2 hx => simp [State.errCmd_mems hx, hz]

theorem outWfMems_execInjectionArm {c : CoreId} {s : State} (hz : WfMems s.mems) : OutWfMems (execInjectionArm c s) := by
  unfold execInjectionArm
  split
  · simp [hz]
  case h_2 hx => simp [State.errCmd_mems hx, hz]

@[simp] theorem State.clearWord_mems (s : State) (array place a : ℕ) : (s.clearWord array place a).mems = s.mems := by simp [State.clearWord]

@[simp] theorem wfMems_scrubWord {s : State} (h : WfMems s.mems) (array place a : ℕ) : WfMems (s.scrubWord array place a).mems := by
  have hw : WfMems (s.clearWord array place a).mems := by simpa using h
  have ⟨_, hunit, hclus, hdie⟩ := hw
  unfold State.scrubWord
  extract_lets t n w
  split
  case h_2 => exact wfMems_setLvl hw (Memory.wf_clrBs hunit ..) _
  case h_3 => exact wfMems_setLvl hw (Memory.wf_clrBs hclus ..) _
  case h_4 => exact wfMems_setLvl hw (Memory.wf_clrBs hdie ..) _
  all_goals exact hw

@[simp] theorem wfMems_uncorrected {s : State} (h : WfMems s.mems) (e : ErrRec) : WfMems (s.uncorrected e).mems := by
  unfold State.uncorrected
  dsimp only
  repeat' split
  all_goals simp [h]

theorem outWfMems_execEccError {die core : ℕ} {array : BitVec 4} {addr : BitVec 64} {synd : BitVec 32} {ue : Bool} {s : State} (hz : WfMems s.mems) :
    OutWfMems (execEccError die core array addr synd ue s) := by
  unfold execEccError
  dsimp only
  repeat' split
  all_goals simp [hz]

theorem outWfMems_execPatrolScrub {channel : ℕ} {s : State} (hz : WfMems s.mems) : OutWfMems (execPatrolScrub channel s) := by
  unfold execPatrolScrub
  split <;> simp [hz]

end Sys2Proof.Machine
end

section
/-! SUPPORT. What the functions of Machine/Lanes.lean leave of the byte memories. -/

namespace Sys2Proof.Machine

@[simp] theorem wfMems_laneOut {s : State} (h : WfMems s.mems) (c : Ctx) (d : BitVec 8) (f : ℕ → ℕ × Fl) :
    WfMems (c.laneOut s d f).mems := by simp [Ctx.laneOut, h]
@[simp] theorem wfMems_quadDiff (o : LaneOps) (pair : ℕ → ℕ × ℕ) {c : Ctx} (hz : WfMems c.s.mems) : (quadDiff o pair c).WfMems := by
  simp [quadDiff, hz]

theorem outWfMems_execVote {o : LaneOps} {s : State} (hz : WfMems s.mems) : OutWfMems (execVote o s) := by
  unfold execVote
  refine outWfMems_issue hz _ fun c hc => ?_
  split <;> simp [hc]

theorem outWfMems_execMatchAny {o : LaneOps} {s : State} (hz : WfMems s.mems) : OutWfMems (execMatchAny o s) := by
  unfold execMatchAny
  refine outWfMems_issue hz _ fun c hc => ?_
  split <;> simp [hc]

end Sys2Proof.Machine
end

section
/-! SUPPORT. What the functions of Machine/Net.lean leave of the byte memories. -/

namespace Sys2Proof.Machine

@[simp] theorem wfMems_homeWrite {s : State} (h : WfMems s.mems) (r : Req) (v : ℕ) : WfMems (s.homeWrite r v).mems := by simp [State.homeWrite, h]

@[simp] theorem State.readAt_mems (s : State) (r : Req) : (s.readAt r).mems = s.mems := by
  unfold State.readAt
  dsimp only
  repeat' split
  all_goals simp

@[simp] theorem State.answer_mems (s : State) (r : Req) (ws : List Word) (b : Option Bool) : (s.answer r ws b).mems = s.mems := by
  unfold State.answer
  split <;> simp

@[simp] theorem State.lrLive_mems (s : State) (r : Req) : (s.lrLive r).mems = s.mems := by
  unfold State.lrLive
  dsimp only
  repeat' split
  all_goals simp

@[simp] theorem State.performed_mems (s : State) (id : ℕ) (drop : Bool) : (s.performed id drop).mems = s.mems := by simp [State.performed]

@[simp] theorem wfMems_acqValue {s : State} (h : WfMems s.mems) (r : Req) (v : ℕ) : WfMems (s.acqValue r v).mems := by
  unfold State.acqValue
  repeat' split
  all_goals simp [h]

@[simp] theorem wfMems_perform {s : State} (h : WfMems s.mems) (id : ℕ) (r : Req) : WfMems (s.perform id r).mems := by
  unfold State.perform
  dsimp only
  repeat' split
  all_goals simp [h]

@[simp] theorem wfMems_serveReq {s : State} (h : WfMems s.mems) (id : ℕ) : WfMems (s.serveReq id).mems := by
  unfold State.serveReq
  dsimp only
  repeat' split
  all_goals simp [h]

@[simp] theorem wfMems_atHome {s : State} (h : WfMems s.mems) (id : ℕ) : WfMems (s.atHome id).mems := by
  unfold State.atHome
  split
  · exact h
  · exact wfMems_cond h (wfMems_foldl (fun _ _ hs => wfMems_serveReq hs _) _ h)

theorem outWfMems_execHomeAccess {r : ℕ} {s : State} (hz : WfMems s.mems) : OutWfMems (execHomeAccess r s) := by simp [execHomeAccess, hz]
@[simp] theorem wfMems_homeAnswers {s : State} (h : WfMems s.mems) : WfMems s.homeAnswers.mems := by
  unfold State.homeAnswers
  extract_lets asks
  split
  · exact h
  · exact wfMems_settleDue (wfMems_foldl (fun _ _ hs => wfMems_atHome hs _) _ h) _

theorem outWfMems_execWriteAcknowledgement {r : ℕ} {s : State} (hz : WfMems s.mems) : OutWfMems (execWriteAcknowledgement r s) := by
  unfold execWriteAcknowledgement
  repeat' split
  all_goals simp [hz]

end Sys2Proof.Machine
end

section
/-! SUPPORT. What the functions of Machine/Scratch.lean leave of the byte memories. -/

namespace Sys2Proof.Machine

theorem outWfMems_execMapr {o : DescOps} {s : State} (hz : WfMems s.mems) : OutWfMems (execMapr o s) := by
  refine outWfMems_issue hz _ fun c hc => ?_
  split
  · exact hc
  · split
    case h_1 hx => exact (memPasses_readDesc hc ..).error hx
    case h_2 hx =>
      have hs := (memPasses_readDesc hc ..).ok hx
      split
      · simp
      · dsimp only
        repeat' split
        all_goals simp [hs]

@[simp] theorem wfMems_wbIssue {c : Ctx} (map : BitVec 3) (slot : BitVec 4) (unmap : Bool) (hz : WfMems c.s.mems) :
    (c.wbIssue map slot unmap).WfMems := by
  unfold Ctx.wbIssue
  dsimp only
  repeat' split
  all_goals simp [hz]

theorem wfMems_wbChunk {s t : State} {id : ℕ} {w : WBack} {m : SMap} {ch : ℕ} (ht : s.wbChunk id w m ch = .ok t) (h : WfMems s.mems) :
    WfMems t.mems := by
  unfold State.wbChunk at ht
  dsimp only at ht
  repeat' split at ht
  all_goals cases ht
  · simpa using h
  · refine wfMems_raceWrite (wfMems_migTouch ?_ ..) ..
    rw [State.enterEngine_mems, State.syncWrite_mems]
    exact wfMems_writePlace (by simpa using h) ..
  · refine wfMems_migTouch ?_ ..
    rw [State.enterEngine_mems, State.syncWrite_mems]
    exact wfMems_writePlace (by simpa using h) ..

@[simp] theorem wfMems_wbChunks {s : State} (h : WfMems s.mems) (id : ℕ) (w : WBack) (m : SMap) (cs : List ℕ) (n : ℕ) :
    WfMems (State.wbChunks id w m cs n s).1.mems := by
  induction cs generalizing n s with
  | nil => exact h
  | cons ch cs ih =>
    unfold State.wbChunks
    split
    · exact ih h ..
    · split
      case h_1 hx => exact ih (wfMems_wbChunk hx h) ..
      case h_2 => exact h

@[simp] theorem State.closeMap_mems (s : State) (key : ℕ) : (s.closeMap key).mems = s.mems := by
  unfold State.closeMap
  split <;> simp

@[simp] theorem wfMems_wbDone {s : State} (h : WfMems s.mems) (id : ℕ) (w : WBack) : WfMems (s.wbDone id w).mems := by simp [State.wbDone, h]

theorem outWfMems_execWritebackComplete {op : ℕ} {s : State} (hz : WfMems s.mems) : OutWfMems (execWritebackComplete op s) := by
  unfold execWritebackComplete
  split
  · simp [hz]
  · split
    · simp [hz]
    · split
      · refine outWfMems_next.2 (wfMems_settleDue ?_ _)
        simp [hz]
      · rename_i w _ _ _ m _
        extract_lets cs r x _ t
        have ht : WfMems t.mems := wfMems_wbChunks hz ..
        clear_value t
        refine outWfMems_next.2 (wfMems_settleDue ?_ _)
        rw [State.noteDone_mems]
        split
        · exact wfMems_cond ht (wfMems_wbDone ht ..)
        · simpa using ht
        · simpa using ht
        · exact ht
        · simpa using ht
        · simpa using ht

theorem outWfMems_execMapFillComplete {fill : ℕ} {s : State} (hz : WfMems s.mems) : OutWfMems (execMapFillComplete fill s) := by
  unfold execMapFillComplete
  dsimp only
  repeat' split
  all_goals simp [hz]

@[simp] theorem State.setCbuf_mems (s : State) (core n : ℕ) (b : CBuf) : (s.setCbuf core n b).mems = s.mems := by simp [State.setCbuf]

theorem outWfMems_execCbinit {o : DescOps} {s : State} (hz : WfMems s.mems) : OutWfMems (execCbinit o s) := by
  refine outWfMems_issue hz _ fun c hc => ?_
  split
  · exact hc
  · split
    case h_1 hx => exact (memPasses_readDesc hc ..).error hx
    case h_2 hx =>
      have hs := (memPasses_readDesc hc ..).ok hx
      dsimp only
      repeat' split
      all_goals simp [hs]

theorem outWfMems_execCbacq {h : Head} {d : BitVec 8} {buf : BitVec 4} {s : State} (hz : WfMems s.mems) :
    OutWfMems (execCbacq h d buf s) := by
  unfold execCbacq
  refine outWfMems_issue hz _ fun c hc => ?_
  dsimp only
  repeat' split
  all_goals simp [hc]

theorem outWfMems_execCbrel {h : Head} {buf : BitVec 4} {s : State} (hz : WfMems s.mems) : OutWfMems (execCbrel h buf s) := by
  unfold execCbrel
  refine outWfMems_issue hz _ fun c hc => ?_
  dsimp only
  repeat' split
  all_goals simp [hc]

end Sys2Proof.Machine
end

section
/-! SUPPORT. What the functions of Machine/Window.lean leave of the byte memories. -/

namespace Sys2Proof.Machine

@[simp] theorem wfMems_setHmap {s : State} (h : WfMems s.mems) (v : BitVec 8) : WfMems (s.setHmap v).mems := by
  have ⟨_, hunit, hclus, hdie⟩ := h
  exact wfMems_cond h ⟨rfl, hunit, hclus, hdie⟩
@[simp] theorem State.setFwsvn_mems (s : State) (v : DWord) : (s.setFwsvn v).mems = s.mems := by simp [State.setFwsvn]
@[simp] theorem State.setReplctl_mems (s : State) (ctx : ℕ) (v : DWord) : (s.setReplctl ctx v).mems = s.mems := by simp [State.setReplctl]

theorem outWfMems_execHmapWrite {value : BitVec 64} {s : State} (hz : WfMems s.mems) : OutWfMems (execHmapWrite value s) := by
  unfold execHmapWrite
  split <;> simp [hz]

theorem outWfMems_execFwsvnWrite {value : BitVec 64} {s : State} (hz : WfMems s.mems) : OutWfMems (execFwsvnWrite value s) := by
  unfold execFwsvnWrite
  split <;> simp [hz]

@[simp] theorem State.corruptLink_mems (s : State) (die dst : ℕ) (v : DWord) : (s.corruptLink die dst v).mems = s.mems := by simp [State.corruptLink]

theorem outWfMems_execLinkTestCorrupt {die dst : ℕ} {value : BitVec 64} {s : State} (hz : WfMems s.mems) :
    OutWfMems (execLinkTestCorrupt die dst value s) := by
  unfold execLinkTestCorrupt
  split <;> simp [hz]

theorem outWfMems_execRcRegisterRead {off size : ℕ} {s : State} (hz : WfMems s.mems) : OutWfMems (execRcRegisterRead off size s) := by
  unfold execRcRegisterRead
  dsimp only
  repeat' split
  all_goals simp [hz]

@[simp] theorem wfMems_writeGlob {s : State} (h : WfMems s.mems) (o : ℕ) (v m : DWord) : WfMems (s.writeGlob o v m).mems := by simp [State.writeGlob, h]
@[simp] theorem wfMems_writeCtx {s : State} (h : WfMems s.mems) (c o : ℕ) (v m : DWord) : WfMems (s.writeCtx c o v m).mems := by
  have hu (x : DWord) : WfMems (s.setCtxReg c o x).mems := by simpa using h
  unfold State.writeCtx
  extract_lets upd
  refine wfMems_cond (hu _) (wfMems_cond (wfMems_drainRecl (hu _) c) (wfMems_cond (wfMems_drainRecl (hu _) c) ?_))
  simp [upd, h]
@[simp] theorem State.writeDie_mems (s : State) (d o : ℕ) (v m : DWord) : (s.writeDie d o v m).mems = s.mems := by simp [State.writeDie]
@[simp] theorem State.writeCmd_mems (s : State) (o : ℕ) (v m : DWord) : (s.writeCmd o v m).mems = s.mems := by simp [State.writeCmd]
@[simp] theorem State.hostWriteCsr_mems (s : State) (core n : ℕ) (v : Word) : (s.hostWriteCsr core n v).mems = s.mems := by simp [State.hostWriteCsr]

@[simp] theorem wfMems_writeReg {s : State} (h : WfMems s.mems) (r : WReg) (v m : DWord) : WfMems (s.writeReg r v m).mems := by
  unfold State.writeReg
  dsimp only
  repeat' split
  all_goals simp [h]

theorem outWfMems_execRegisterWrite {off size : ℕ} {value : BitVec 64} {s : State} (hz : WfMems s.mems) :
    OutWfMems (execRegisterWrite off size value s) := by
  unfold execRegisterWrite
  dsimp only
  repeat' split
  all_goals simp [hz]

theorem outWfMems_execLoadLinkSchedule {s : State} (hz : WfMems s.mems) : OutWfMems (execLoadLinkSchedule s) := by
  unfold execLoadLinkSchedule
  dsimp only
  repeat' split
  all_goals simp [hz]

theorem outWfMems_execCheckpoint {s : State} (hz : WfMems s.mems) : OutWfMems (execCheckpoint s) := by
  unfold execCheckpoint
  dsimp only
  repeat' split
  all_goals simp [hz]

@[simp] theorem wfMems_restoreFrom {s : State} (h : WfMems s.mems) (a n : ℕ) (r : ℕ × List ℕ × List Byte) :
    WfMems (s.restoreFrom a n r).mems := by
  simp [State.restoreFrom, h]

theorem outWfMems_execRestore {s : State} (hz : WfMems s.mems) : OutWfMems (execRestore s) := by
  unfold execRestore
  split
  · simp [hz]
  · extract_lets rs
    split
    · simp [hz]
    · split
      split
      · split
        · simp [hz]
        · exact outWfMems_next.2 (wfMems_foldl (fun _ _ hs => wfMems_restoreFrom hs ..) _ hz)
      · split
        · exact outWfMems_next.2 hz
        · simp [hz]

theorem outWfMems_execLoadFirmwareImage {image : List (BitVec 8)} {s : State} (hz : WfMems s.mems) :
    OutWfMems (execLoadFirmwareImage image s) := by
  unfold execLoadFirmwareImage
  dsimp only
  repeat' split
  all_goals simp [hz]

theorem outWfMems_execCollectiveCommand {page size : ℕ} {data : BitVec 512} {s : State} (hz : WfMems s.mems) :
    OutWfMems (execCollectiveCommand page size data s) := by
  unfold execCollectiveCommand
  dsimp only
  repeat' split
  all_goals simp [hz]

theorem outWfMems_execCollectiveOperationEnd {op : ℕ} {contributions : List (List (BitVec 32))} {s : State} (hz : WfMems s.mems) :
    OutWfMems (execCollectiveOperationEnd op contributions s) := by
  unfold execCollectiveOperationEnd
  dsimp only
  repeat' split
  all_goals simp [hz]

@[simp] theorem wfMems_outside {s : State} (h : WfMems s.mems) (pa : ℕ) (op : ExtOp) (atomics : Bool) (ack : Option Msg) :
    WfMems (s.outside pa op atomics ack).mems := by
  unfold State.outside
  extract_lets answer get
  have ha {t : State} (ht : WfMems t.mems) : WfMems (answer t).mems := by
    simp only [answer]
    split
    · simpa using ht
    · exact ht
  have hg (n : ℕ) {f : State → State} (hf : ∀ t, WfMems t.mems → WfMems (f t).mems) : WfMems (get n f).mems := by
    simp only [get]
    repeat' split
    case isFalse.isFalse.isFalse => exact hf _ (by simpa using h)
    all_goals simp [h]
  clear_value answer get
  split
  case h_1 => exact hg _ fun _ ht => ht
  case h_2 =>
    refine wfMems_cond (ha h) (wfMems_cond h (ha ?_))
    rw [State.syncWrite_mems]
    exact wfMems_writePlace h ..
  case h_3 =>
    extract_lets n
    split
    · exact h
    · refine hg _ fun t ht => ?_
      rw [State.syncWrite_mems]
      exact wfMems_writeN ht ..
  case h_4 => exact ha h

theorem outWfMems_execBar2Access {off : ℕ} {op : ExtOp} {s : State} (hz : WfMems s.mems) : OutWfMems (execBar2Access off op s) := by
  unfold execBar2Access
  dsimp only
  repeat' split
  all_goals simp [hz]

theorem outWfMems_execUalinkRequest {addr : ℕ} {op : ExtOp} {s : State} (hz : WfMems s.mems) : OutWfMems (execUalinkRequest addr op s) := by
  unfold execUalinkRequest
  split <;> simp [hz]

theorem outWfMems_execRoceRequest {port : RocePort} {addr : ℕ} {op : ExtOp} {s : State} (hz : WfMems s.mems) :
    OutWfMems (execRoceRequest port addr op s) := by
  unfold execRoceRequest
  dsimp only
  repeat' split
  all_goals simp [hz]

theorem outWfMems_execConfigurationRequest {write : Bool} {off : ℕ} {value : BitVec 32} {s : State} (hz : WfMems s.mems) :
    OutWfMems (execConfigurationRequest write off value s) := by
  unfold execConfigurationRequest
  repeat' split
  all_goals simp [hz]

end Sys2Proof.Machine
end

section
/-! SUPPORT. What the functions of Machine/Links.lean leave of the byte memories. -/

namespace Sys2Proof.Machine

theorem outWfMems_execFlitReceive {src dst : ℕ} {cls : BitVec 4} {crcGood : Bool} {s : State} (hz : WfMems s.mems) :
    OutWfMems (execFlitReceive src dst cls crcGood s) := by
  unfold execFlitReceive
  dsimp only
  repeat' split
  all_goals simp [hz]

theorem outWfMems_execScheduleSwitch {die : ℕ} {s : State} (hz : WfMems s.mems) : OutWfMems (execScheduleSwitch die s) := by
  unfold execScheduleSwitch
  split <;> simp [hz]

theorem outWfMems_execHeartbeatSend {die : ℕ} {s : State} (hz : WfMems s.mems) : OutWfMems (execHeartbeatSend die s) := by
  unfold execHeartbeatSend
  dsimp only
  repeat' split
  all_goals simp [hz]

theorem outWfMems_execHeartbeatReceive {n : ℕ} {s : State} (hz : WfMems s.mems) : OutWfMems (execHeartbeatReceive n s) := by
  unfold execHeartbeatReceive
  split <;> simp [hz]

theorem outWfMems_execDieSilent {die : ℕ} {s : State} (hz : WfMems s.mems) : OutWfMems (execDieSilent die s) := by
  unfold execDieSilent
  dsimp only
  repeat' split
  all_goals simp [hz]

@[simp] theorem wfMems_loseDie {s : State} (d : ℕ) (hz : WfMems s.mems) : WfMems (s.loseDie d).mems := by
  unfold State.loseDie
  extract_lets t _ _ _
  have ht : WfMems t.mems := by simpa [t] using hz
  obtain ⟨hmem, hunit, hclus, hdie⟩ := ht
  refine wfMems_foldl (fun _ _ hs => wfMems_reclaim (by simpa using hs) _) _ ?_
  exact ⟨hmem, Memory.wf_cut hunit .., Memory.wf_cut hclus .., Memory.wf_cut hdie ..⟩

@[simp] theorem wfMems_recoverGrid {s : State} (h : WfMems s.mems) (d g : ℕ) : WfMems (s.recoverGrid d g).mems := by simp [State.recoverGrid, h]
@[simp] theorem wfMems_loseShell {s : State} (h : WfMems s.mems) (d : ℕ) : WfMems (s.loseShell d).mems := by
  unfold State.loseShell
  refine wfMems_foldl (fun _ _ hs => wfMems_setGState (by simpa using hs) ..) _ ?_
  simpa using h

@[simp] theorem wfMems_completeFence {s : State} (d : ℕ) (shell : Bool) (hz : WfMems s.mems) : WfMems (s.completeFence d shell).mems := by
  unfold State.completeFence
  extract_lets live _ t u v
  have hv : WfMems v.mems := wfMems_loseDie d (wfMems_foldl (fun _ _ hs => wfMems_recoverGrid hs ..) _ hz)
  exact wfMems_cond (wfMems_loseShell hv d) hv

theorem outWfMems_execFenceAcknowledge {die : ℕ} {s : State} (hz : WfMems s.mems) : OutWfMems (execFenceAcknowledge die s) := by
  unfold execFenceAcknowledge
  split <;> simp [hz]

theorem outWfMems_execFenceTimeout {die : ℕ} {s : State} (hz : WfMems s.mems) : OutWfMems (execFenceTimeout die s) := by
  unfold execFenceTimeout
  repeat' split
  all_goals simp [hz]

theorem outWfMems_execShellPowerFault {die : ℕ} {s : State} (hz : WfMems s.mems) : OutWfMems (execShellPowerFault die s) := by
  unfold execShellPowerFault
  split <;> simp [hz]

theorem outWfMems_execResetDie {s : State} (hz : WfMems s.mems) : OutWfMems (execResetDie s) := by
  unfold execResetDie
  dsimp only
  repeat' split
  all_goals simp [hz]

end Sys2Proof.Machine
end

section
/-! SUPPORT. What the functions of Machine/Power.lean leave of the byte memories. -/

namespace Sys2Proof.Machine

theorem outWfMems_execPowerOn {s : State} : OutWfMems (execPowerOn s) := outWfMems_next.mpr wfMems_nil

@[simp] theorem State.runImage_mems (s : State) (kind : ℕ) (images : List (List Byte)) : (s.runImage kind images).1.mems = s.mems := by
  unfold State.runImage
  dsimp only
  split <;> simp

@[simp] theorem State.failDies_mems (s : State) (bad : BitVec 8) (shell : Bool) : (s.failDies bad shell).mems = s.mems := by simp [State.failDies]
@[simp] theorem State.booted_mems (s : State) (n : ℕ) : (s.booted n).mems = s.mems := by simp [State.booted]
@[simp] theorem State.coresReset_mems (s : State) : s.coresReset.mems = s.mems := by simp [State.coresReset]

theorem outWfMems_execPowerUpStep {pass : BitVec 8} {images : List (List (BitVec 8))} {s : State} (hz : WfMems s.mems) :
    OutWfMems (execPowerUpStep pass images s) := by
  unfold execPowerUpStep
  dsimp only
  repeat' split
  all_goals simp [hz]

theorem outWfMems_execS1Entry {die : ℕ} {s : State} (hz : WfMems s.mems) : OutWfMems (execS1Entry die s) := by
  unfold execS1Entry
  dsimp only
  repeat' split
  all_goals simp [hz]

@[simp] theorem State.enterDeep_mems (s : State) (pst us : ℕ) : (s.enterDeep pst us).mems = s.mems := by simp [State.enterDeep]
@[simp] theorem wfMems_dropLinks {s : State} (h : WfMems s.mems) : WfMems s.dropLinks.mems :=
  wfMems_foldl (fun _ _ hs => wfMems_reclaim (by simpa using hs) _) _ h

theorem outWfMems_execS2Entry {s : State} (hz : WfMems s.mems) : OutWfMems (execS2Entry s) := by
  unfold execS2Entry
  dsimp only
  repeat' split
  all_goals simp [hz]

theorem outWfMems_execS3Entry {s : State} (hz : WfMems s.mems) : OutWfMems (execS3Entry s) := by
  unfold execS3Entry
  dsimp only
  repeat' split
  all_goals simp [hz]

theorem outWfMems_execWakeEvent {s : State} (hz : WfMems s.mems) : OutWfMems (execWakeEvent s) := by
  unfold execWakeEvent
  split <;> simp [hz]

@[simp] theorem wfMems_raiseAlarm (s : State) (sources : BitVec 4) : WfMems (s.raiseAlarm sources).mems := wfMems_nil

theorem outWfMems_execSecurityAlarm {sources : BitVec 4} {s : State} (hz : WfMems s.mems) : OutWfMems (execSecurityAlarm sources s) := by
  unfold execSecurityAlarm
  split <;> simp [hz]

@[simp] theorem State.coreRead_mems (s : State) (core temp : ℕ) : (s.coreRead core temp).mems = s.mems := by simp [State.coreRead]
@[simp] theorem State.coresRead_mems (s : State) (die : ℕ) (temps : List ℕ) : (s.coresRead die temps).mems = s.mems := by simp [State.coresRead]

theorem outWfMems_execThrottleStep {die : ℕ} {temps : List ℕ} {power : ℕ} {s : State} (hz : WfMems s.mems) :
    OutWfMems (execThrottleStep die temps power s) := by
  unfold execThrottleStep
  dsimp only
  repeat' split
  all_goals simp [hz]

theorem outWfMems_execDramHot {die layer temp : ℕ} {s : State} (hz : WfMems s.mems) : OutWfMems (execDramHot die layer temp s) := by
  unfold execDramHot
  dsimp only
  repeat' split
  all_goals simp [hz]

theorem outWfMems_execCoreAvoidance {c : CoreId} {temp : ℕ} {s : State} (hz : WfMems s.mems) : OutWfMems (execCoreAvoidance c temp s) := by
  unfold execCoreAvoidance
  split <;> simp [hz]

theorem outWfMems_execDroopEvent {c : CoreId} {s : State} (hz : WfMems s.mems) : OutWfMems (execDroopEvent c s) := by
  unfold execDroopEvent
  dsimp only
  repeat' split
  all_goals simp [hz]

theorem outWfMems_execAvoidanceExpire {c : CoreId} {s : State} (hz : WfMems s.mems) : OutWfMems (execAvoidanceExpire c s) := by
  unfold execAvoidanceExpire
  dsimp only
  repeat' split
  all_goals simp [hz]

@[simp] theorem State.spdmAnswer_mems (s : State) (r stage : ℕ) (m : SpdmResp) (busy : Bool) :
    (s.spdmAnswer r stage m busy).mems = s.mems := by simp [State.spdmAnswer]

@[simp] theorem State.spdmAt_mems (s : State) (r need next : ℕ) (m : SpdmResp) (busy : Bool) :
    (s.spdmAt r need next m busy).mems = s.mems := by simp [State.spdmAt]

theorem outWfMems_execGetVersion {requester : ℕ} {s : State} (hz : WfMems s.mems) : OutWfMems (execGetVersion requester s) := by
  simp [execGetVersion, hz]

theorem outWfMems_execGetCapabilities {requester : ℕ} {s : State} (hz : WfMems s.mems) : OutWfMems (execGetCapabilities requester s) := by
  simp [execGetCapabilities, hz]

theorem outWfMems_execNegotiateAlgorithms {requester : ℕ} {offered : List (BitVec 16)} {s : State} (hz : WfMems s.mems) :
    OutWfMems (execNegotiateAlgorithms requester offered s) := by
  unfold execNegotiateAlgorithms
  split <;> simp [hz]

theorem outWfMems_execGetDigests {requester : ℕ} {s : State} (hz : WfMems s.mems) : OutWfMems (execGetDigests requester s) := by
  simp [execGetDigests, hz]

theorem outWfMems_execGetCertificate {requester slot : ℕ} {s : State} (hz : WfMems s.mems) :
    OutWfMems (execGetCertificate requester slot s) := by
  unfold execGetCertificate
  split <;> simp [hz]

theorem outWfMems_execChallenge {requester : ℕ} {nonce : List (BitVec 8)} {s : State} (hz : WfMems s.mems) :
    OutWfMems (execChallenge requester nonce s) := by
  unfold execChallenge
  split <;> simp [hz]

theorem outWfMems_execGetMeasurements {requester index : ℕ} {s : State} (hz : WfMems s.mems) :
    OutWfMems (execGetMeasurements requester index s) := by
  unfold execGetMeasurements
  split <;> simp [hz]

end Sys2Proof.Machine
end

section
/-! SUPPORT. What the functions of Machine/Stream.lean leave of the byte memories. -/

namespace Sys2Proof.Machine

theorem wfMems_streamBad {c : Ctx} {st : Stream} {r : Res} (hr : c.streamBad st = some r) : r.WfMems := by
  unfold Ctx.streamBad at hr
  dsimp only at hr
  split at hr
  · exact wfMems_checkBounds hr
  · exact wfMems_padRange hr

theorem outWfMems_execSatt {o : SattOps} {s : State} (hz : WfMems s.mems) : OutWfMems (execSatt o s) := by
  refine outWfMems_issue hz _ fun c hc => ?_
  extract_lets va
  split
  · exact hc
  · split
    · simp
    · split
      · simp
      · split
        case h_1 hx => exact (memPasses_readDesc hc ..).error hx
        case h_2 hx =>
          have hs := (memPasses_readDesc hc ..).ok hx
          split
          · simp
          · extract_lets base st u
            split
            case h_1 hx => exact wfMems_streamBad hx
            case h_2 =>
              have hu : WfMems u.mems := by simp [u, hs]
              split <;> simp [hu]

theorem outWfMems_execSdet {port : BitVec 8} {s : State} (hz : WfMems s.mems) : OutWfMems (execSdet port s) := by
  unfold execSdet
  refine outWfMems_issue hz _ fun c hc => ?_
  dsimp only
  repeat' split
  all_goals simp [hc]

end Sys2Proof.Machine
end

section
/-! PROOF. Every step keeps the byte memories canonical, and obligation O7. -/

namespace Sys2Proof.Machine

/-- Every instruction and every event keeps the byte memories canonical. -/
theorem outWfMems_exec {s : State} (hz : WfMems s.mems) (i : Instr) : OutWfMems (exec i s) := by
  cases i
  -- Machine/Int.lean
  case movs => exact outWfMems_execMovs hz
  case movkToUniform => exact outWfMems_execMovkToUniform hz
  case nop | mov | movi | movkToLane | iadd | iaddc | isub | imul | imulh | imad | imadw | idiv | irem | imin | imax | iabs | ineg | and
    | or | xor | not | shl | shr | sar | rol | bfe | bfi | popc | clz | ctz | brev | prm | icmp | sel | plop | padd | psub | pcmp | pbnd =>
    exact outWfMems_issue hz _ fun c hc => by simp [hc]
  -- Machine/Fp.lean
  case fadd | fsub | fmul | ffma | fmin | fmax | fabs | fneg | fcmp | fdiv | fsqrt | frcp | frsq | fex2 | flg2 | fsin | fcos | frnd | fclass
    | cvt | idp4 | idp8 | fdp2 =>
    exact outWfMems_issue hz _ fun c hc => by simp [hc]
  -- Machine/Algebra.lean
  case atab => exact outWfMems_execAtab hz
  case amul => exact outWfMems_execAmul hz
  case amac => exact outWfMems_execAmac hz
  case aconj => exact outWfMems_execAconj hz
  case anorm => exact outWfMems_execAnorm hz
  case aadd => exact outWfMems_execAadd hz
  case ascl => exact outWfMems_execAscl hz
  -- Machine/Lanes.lean
  case vote => exact outWfMems_execVote hz
  case matchAny => exact outWfMems_execMatchAny hz
  case qswp | qdx | qdy | shfl | redi | redf | scan | elect =>
    exact outWfMems_issue hz _ fun c hc => by simp [hc]
  -- Machine/Control.lean
  case brv => exact outWfMems_execBrv hz
  case spawn => exact outWfMems_execSpawn hz
  case exit => exact outWfMems_execExit hz
  case barArw => exact outWfMems_execBarArw hz
  case barArv => exact outWfMems_execBarArv hz
  case barWt => exact outWfMems_execBarWt hz
  case barExp => exact outWfMems_execBarExp hz
  case barinit => exact outWfMems_execBarinit hz
  case trap => exact outWfMems_execTrap hz
  case next | nexti | call | ret | yield | featq | featqBit =>
    exact outWfMems_issue hz _ fun c hc => by simp [hc]
  -- Machine/Mem.lean
  case st => exact outWfMems_execSt hz
  case lds => exact outWfMems_execLds hz
  case sts => exact outWfMems_execSts hz
  case atom => exact outWfMems_execAtom hz
  case red => exact outWfMems_execRed hz
  case sc => exact outWfMems_execSc hz
  case fence => exact outWfMems_execFence hz
  case commit => exact outWfMems_execCommit hz
  case stag => exact outWfMems_execStag hz
  case ldtag => exact outWfMems_execLdtag hz
  case ld | lr =>
    exact outWfMems_issue hz _ fun c hc => by simp [hc]
  -- Machine/Stream.lean
  case satt => exact outWfMems_execSatt hz
  case sdet => exact outWfMems_execSdet hz
  -- Machine/Matrix.lean
  case mma => exact outWfMems_execMma hz
  case mwait => exact outWfMems_execMwait hz
  case mfence => exact outWfMems_execMfence hz
  case aalloc => exact outWfMems_execAalloc hz
  case afree => exact outWfMems_execAfree hz
  case accr => exact outWfMems_execAccr hz
  case accw => exact outWfMems_execAccw hz
  case accz => exact outWfMems_execAccz hz
  case accst => exact outWfMems_execAccst hz
  case accld => exact outWfMems_execAccld hz
  case arbiterGrant => exact outWfMems_execArbiterGrant hz
  case mmaPassEnd => exact outWfMems_execMmaPassEnd hz
  case mmaComplete => exact outWfMems_execMmaComplete hz
  case mmaRetry => exact outWfMems_execMmaRetry hz
  -- Machine/Copy.lean
  case copySlotClaim => exact outWfMems_execCopySlotClaim hz
  case copyComplete => exact outWfMems_execCopyComplete hz
  case cpbox | cpred | tmov =>
    exact outWfMems_issue hz _ fun c hc => by simp [hc]
  -- Machine/Scratch.lean
  case mapr => exact outWfMems_execMapr hz
  case cbinit => exact outWfMems_execCbinit hz
  case cbacq => exact outWfMems_execCbacq hz
  case cbrel => exact outWfMems_execCbrel hz
  case mapFillComplete => exact outWfMems_execMapFillComplete hz
  case writebackComplete => exact outWfMems_execWritebackComplete hz
  case wback | unmapr =>
    exact outWfMems_issue hz _ fun c hc => by simp [hc]
  -- Machine/Directory.lean
  case dopen => exact outWfMems_execDopen hz
  case dopenW => exact outWfMems_execDopenW hz
  case dclose => exact outWfMems_execDclose hz
  case dbind => exact outWfMems_execDbind hz
  case dunbind => exact outWfMems_execDunbind hz
  case dopenTimeout => exact outWfMems_execDopenTimeout hz
  case dptr | dquery =>
    exact outWfMems_issue hz _ fun c hc => by simp [hc]
  -- Machine/System.lean
  case eret => exact outWfMems_execEret hz
  case haltGrid => exact outWfMems_execHaltGrid hz
  case haltCtx => exact outWfMems_execHaltCtx hz
  case brk => exact outWfMems_execBrk hz
  case mark => exact outWfMems_execMark hz
  case markValue => exact outWfMems_execMarkValue hz
  case csrr | csrw | csrwSet | csrwClr | prog =>
    exact outWfMems_issue hz _ fun c hc => by simp [hc]
  -- Machine/Kernel.lean
  case resultWrite => exact outWfMems_execResultWrite hz
  case bankService => exact outWfMems_execBankService hz
  case streamElementArrival => exact outWfMems_execStreamElementArrival hz
  case barrierCompletionMulticast => exact outWfMems_execBarrierCompletionMulticast hz
  case binTimerExpire => exact outWfMems_execBinTimerExpire hz
  case floeLaunch => exact outWfMems_execFloeLaunch hz
  case floeDemote => exact outWfMems_execFloeDemote hz
  case floeExhaustion => exact outWfMems_execFloeExhaustion hz
  case spawnResume => exact outWfMems_execSpawnResume hz
  case reservationHoldExpire => exact outWfMems_execReservationHoldExpire hz
  case gridStop => exact outWfMems_execGridStop hz
  -- Machine/Net.lean
  case homeAccess => exact outWfMems_execHomeAccess hz
  case writeAcknowledgement => exact outWfMems_execWriteAcknowledgement hz
  -- Machine/Fault.lean
  case tlbWalkComplete => exact outWfMems_execTlbWalkComplete hz
  case pageRequestGroupSend => unfold exec; exact outWfMems_execPageRequestGroupSend hz
  case prgResponse => exact outWfMems_execPrgResponse hz
  case taskReplace => exact outWfMems_execTaskReplace hz
  case atsTranslationCompletion => exact outWfMems_execAtsTranslationCompletion hz
  case atsInvalidateRequest => exact outWfMems_execAtsInvalidateRequest hz
  case invalidationComplete => exact outWfMems_execInvalidationComplete hz
  case contextResume => exact outWfMems_execContextResume hz
  case boundsWrite => exact outWfMems_execBoundsWrite hz
  case boundsRead => exact outWfMems_execBoundsRead hz
  case boundsClear => exact outWfMems_execBoundsClear hz
  case tlbInvalidatePage => exact outWfMems_execTlbInvalidatePage hz
  case tlbInvalidateContext => exact outWfMems_execTlbInvalidateContext hz
  case invalidatePage => exact outWfMems_execInvalidatePage hz
  case invalidateContext => exact outWfMems_execInvalidateContext hz
  case writeBoundsEntry => exact outWfMems_execWriteBoundsEntry hz
  -- Machine/Segment.lean
  case segmentRequest => exact outWfMems_execSegmentRequest hz
  case segmentDelivery => exact outWfMems_execSegmentDelivery hz
  case recallSegment => exact outWfMems_execRecall hz
  case reclgetWrite => exact outWfMems_execReclgetWrite hz
  case reclbaseWrite => exact outWfMems_execReclbaseWrite hz
  case codeObjectUnload => exact outWfMems_execCodeObjectUnload hz
  case driverDirectoryCommand => exact outWfMems_execDriverDirectoryCommand hz
  -- Machine/Launch.lean
  case launchRecord => exact outWfMems_execLaunchRecord hz
  case deviceSideLaunch => exact outWfMems_execDeviceSideLaunch hz
  case driftDistribution => exact outWfMems_execDriftDistribution hz
  case blockPlace => exact outWfMems_execBlockPlace hz
  case shareScrubComplete => exact outWfMems_execShareScrubComplete hz
  case gridEnd => exact outWfMems_execGridEnd hz
  case contextPreempt => exact outWfMems_execContextPreempt hz
  case preempt => exact outWfMems_execPreempt hz
  case gridEndByHost => exact outWfMems_execGridEndByHost hz
  -- Machine/Debug.lean
  case stopBlock => exact outWfMems_execStopBlock hz
  case haltGridCommand => exact outWfMems_execHaltGridCommand hz
  case haltContext => exact outWfMems_execHaltContext hz
  case resume => exact outWfMems_execResume hz
  case step => exact outWfMems_execStep hz
  case stepTimeout => exact outWfMems_execStepTimeout hz
  case dump => exact outWfMems_execDump hz
  case dumpEnd => exact outWfMems_execDumpEnd hz
  case debugRecall => exact outWfMems_execDebugRecall hz
  case remoteWrite => exact outWfMems_execRemoteWrite hz
  case remoteRead => exact outWfMems_execRemoteRead hz
  case sample => exact outWfMems_execSample hz
  -- Machine/Window.lean
  case loadLinkSchedule => exact outWfMems_execLoadLinkSchedule hz
  case checkpoint => exact outWfMems_execCheckpoint hz
  case restore => exact outWfMems_execRestore hz
  case loadFirmwareImage => exact outWfMems_execLoadFirmwareImage hz
  case hmapWrite => exact outWfMems_execHmapWrite hz
  case fwsvnWrite => exact outWfMems_execFwsvnWrite hz
  case linkTestCorrupt => exact outWfMems_execLinkTestCorrupt hz
  case rcRegisterRead => exact outWfMems_execRcRegisterRead hz
  case registerWrite => exact outWfMems_execRegisterWrite hz
  case collectiveCommand => exact outWfMems_execCollectiveCommand hz
  case collectiveOperationEnd => exact outWfMems_execCollectiveOperationEnd hz
  case bar2Access => exact outWfMems_execBar2Access hz
  case configurationRequest => exact outWfMems_execConfigurationRequest hz
  case ualinkRequest => exact outWfMems_execUalinkRequest hz
  case roceRequest => exact outWfMems_execRoceRequest hz
  -- Machine/Links.lean
  case resetDie => exact outWfMems_execResetDie hz
  case flitReceive => exact outWfMems_execFlitReceive hz
  case scheduleSwitch => exact outWfMems_execScheduleSwitch hz
  case heartbeatSend => exact outWfMems_execHeartbeatSend hz
  case heartbeatReceive => exact outWfMems_execHeartbeatReceive hz
  case dieSilent => exact outWfMems_execDieSilent hz
  case fenceAcknowledge => exact outWfMems_execFenceAcknowledge hz
  case fenceTimeout => exact outWfMems_execFenceTimeout hz
  case shellPowerFault => exact outWfMems_execShellPowerFault hz
  -- Machine/Errors.lean
  case errorLogRead => exact outWfMems_execErrorLogRead hz
  case errorLogClear => exact outWfMems_execErrorLogClear hz
  case errorLogOverflowRead => exact outWfMems_execErrorLogOverflowRead hz
  case injectionArm => exact outWfMems_execInjectionArm hz
  case eccError => exact outWfMems_execEccError hz
  case patrolScrub => exact outWfMems_execPatrolScrub hz
  -- Machine/Power.lean
  case powerOn => exact outWfMems_execPowerOn
  case powerUpStep => exact outWfMems_execPowerUpStep hz
  case s1Entry => exact outWfMems_execS1Entry hz
  case s2Entry => exact outWfMems_execS2Entry hz
  case s3Entry => exact outWfMems_execS3Entry hz
  case wakeEvent => exact outWfMems_execWakeEvent hz
  case throttleStep => exact outWfMems_execThrottleStep hz
  case dramHot => exact outWfMems_execDramHot hz
  case coreAvoidance => exact outWfMems_execCoreAvoidance hz
  case droopEvent => exact outWfMems_execDroopEvent hz
  case avoidanceExpire => exact outWfMems_execAvoidanceExpire hz
  case securityAlarm => exact outWfMems_execSecurityAlarm hz
  case getVersion => exact outWfMems_execGetVersion hz
  case getCapabilities => exact outWfMems_execGetCapabilities hz
  case negotiateAlgorithms => exact outWfMems_execNegotiateAlgorithms hz
  case getDigests => exact outWfMems_execGetDigests hz
  case getCertificate => exact outWfMems_execGetCertificate hz
  case challenge => exact outWfMems_execChallenge hz
  case getMeasurements => exact outWfMems_execGetMeasurements hz

theorem outWfMems_issueNext {s : State} (hz : WfMems s.mems) (k : ℕ) : OutWfMems (s.issueNext k) := by
  unfold State.issueNext
  dsimp only
  split
  · exact outWfMems_next.mpr hz
  · exact outWfMems_next.mpr (wfMems_settleDue (wfMems_illegal (s := { s with cur := floeIdOf k }) hz k) _)
  · exact outWfMems_exec (s := { s with cur := floeIdOf k }) hz _

theorem outWfMems_turnFloe {s : State} (hz : WfMems s.mems) (k : ℕ) : OutWfMems (s.turnFloe k) := by
  have h₁ := outWfMems_issueNext hz k
  unfold State.turnFloe
  split
  case h_1 t ht =>
    have hn := h₁ t ht
    split
    · have h₂ := outWfMems_issueNext hn k
      split
      case h_1 u hu => exact outWfMems_next.mpr (wfMems_homeAnswers (h₂ u hu))
      case h_2 => exact h₂
    · exact outWfMems_next.mpr (wfMems_homeAnswers hn)
  case h_2 => exact h₁

theorem outWfMems_stepTurn {s : State} (hz : WfMems s.mems) (t : Turn) : OutWfMems (stepTurn t s) := by
  have hp : WfMems (s.pace t).mems := hz
  unfold stepTurn
  dsimp only
  split
  · split
    · exact outWfMems_turnFloe hp _
    · exact outWfMems_next.mpr hp
  · split
    · exact outWfMems_exec hp _
    · exact outWfMems_next.mpr hp

/-- Every step of the machine keeps the byte memories canonical. -/
theorem outWfMems_step {s : State} (hz : WfMems s.mems) : OutWfMems (step s) := by
  have ht : WfMems s.tick.mems := hz
  unfold step
  dsimp only
  split
  · exact outWfMems_stepTurn (by exact hz) _
  · split
    · exact outWfMems_stepTurn ht _
    · exact outWfMems_next.mpr ht

/-- Settles O7: the frame of the byte memories over every function of the machine; what writes them keeps the canonical form. -/
theorem stepKeepsMemoryCanonical : Obligations.StepKeepsMemoryCanonical := by
  unfold Obligations.StepKeepsMemoryCanonical
  intro s t hs ht
  exact memoriesCanonical_iff.2 (outWfMems_step (memoriesCanonical_iff.1 hs) t ht)

end Sys2Proof.Machine
end

section
/-! PROOF. Attestation requests and their answers (R425, R427), and obligation O60. -/

namespace Sys2Proof.Machine

section

variable {s : State} {r : ℕ}

/-! ## The three outcomes of a request -/

theorem spdmAt_of_off (h : s.spdmOn = false) (need next : ℕ) (m : SpdmResp) (busy : Bool) : s.spdmAt r need next m busy = s := by
  simp [State.spdmAt, h]

theorem spdmAt_of_early (h : s.spdmOn = true) {need : ℕ} (hn : lookD 0 s.pkg.spdm r < need) (next : ℕ) (m : SpdmResp) (busy : Bool) :
    s.spdmAt r need next m busy = s.send (.spdm r .error) := by
  simp [State.spdmAt, h, hn]

theorem spdmAt_of_turn (h : s.spdmOn = true) {need : ℕ} (hn : need ≤ lookD 0 s.pkg.spdm r) (next : ℕ) (m : SpdmResp) (busy : Bool) :
    s.spdmAt r need next m busy = s.spdmAnswer r next m busy := by
  simp [State.spdmAt, h, Nat.not_lt.2 hn]

/-! ## The requests -/

theorem exec_getVersion : exec (.getVersion r) s = .next (s.spdmAt r 0 1 (.version 14) true) := rfl

theorem exec_getCapabilities : exec (.getCapabilities r) s = .next (s.spdmAt r 1 2 .capabilities true) := rfl

theorem exec_negotiateAlgorithms (os : List (BitVec 16)) : exec (.negotiateAlgorithms r os) s =
    .next (if Config.mldsaCode ∈ os then s.spdmAt r 2 3 .algorithms true else s.spdmAt r 2 2 .error true) := by
  show execNegotiateAlgorithms r os s = _
  simp [execNegotiateAlgorithms]

theorem exec_getDigests : exec (.getDigests r) s = .next (s.spdmAt r 3 3 (.digests (shake256 Config.certChain)) false) := rfl

theorem exec_getCertificate (slot : ℕ) : exec (.getCertificate r slot) s =
    .next (s.spdmAt r 3 3 (if slot = 0 ∧ s.pkg.erased = false then .certificate Config.certChain else .error) false) := by
  show execGetCertificate r slot s = _
  simp [execGetCertificate]

theorem exec_challenge (nonce : List (BitVec 8)) : exec (.challenge r nonce) s =
    .next (s.spdmAt r 3 3 (if s.pkg.erased then .error else
      .challengeAuth (Config.mldsaSign ((s.pkg.meas.flatMap fun e => leBytes e.2.toNat 64) ++ nonce))) false) := rfl

theorem exec_getMeasurements (index : ℕ) : exec (.getMeasurements r index) s =
    .next (s.spdmAt r 3 3 (if index = 0xFF then .measurements s.pkg.meas
      else match look s.pkg.meas index with
      | some d => .measurements [(index, d)]
      | none => .error) false) := rfl

end

/-- Settles O60: each request is one `State.spdmAt`, which is silent, answers an error before its turn, or answers. -/
theorem attestationAnswers : Obligations.AttestationAnswers := by
  unfold Obligations.AttestationAnswers
  refine ⟨?silent, ?version, ?capabilities, ?algorithms, ?early, ?earlyAlgorithms, ?answers, ?answer⟩
  case silent =>
    intro r slot index nonce os s h i hi
    simp only [List.mem_cons, List.not_mem_nil, or_false] at hi
    obtain rfl | rfl | rfl | rfl | rfl | rfl | rfl := hi
    · rw [exec_getVersion, spdmAt_of_off h]
    · rw [exec_getCapabilities, spdmAt_of_off h]
    · rw [exec_negotiateAlgorithms, spdmAt_of_off h, spdmAt_of_off h, ite_self]
    · rw [exec_getDigests, spdmAt_of_off h]
    · rw [exec_getCertificate, spdmAt_of_off h]
    · rw [exec_challenge, spdmAt_of_off h]
    · rw [exec_getMeasurements, spdmAt_of_off h]
  case version =>
    intro r s h
    rw [exec_getVersion, spdmAt_of_turn h (Nat.zero_le _)]
  case capabilities =>
    intro r s h
    rw [exec_getCapabilities]
    split
    · rw [spdmAt_of_early h ‹_›]
    · rw [spdmAt_of_turn h (Nat.not_lt.1 ‹_›)]
  case algorithms =>
    intro r os s h hn
    rw [exec_negotiateAlgorithms, spdmAt_of_turn h hn, spdmAt_of_turn h hn]
  case early =>
    intro r s h hn slot index nonce i hi
    simp only [List.mem_cons, List.not_mem_nil, or_false] at hi
    obtain rfl | rfl | rfl | rfl := hi
    · rw [exec_getDigests, spdmAt_of_early h hn]
    · rw [exec_getCertificate, spdmAt_of_early h hn]
    · rw [exec_getMeasurements, spdmAt_of_early h hn]
    · rw [exec_challenge, spdmAt_of_early h hn]
  case earlyAlgorithms =>
    intro r os s h hn
    rw [exec_negotiateAlgorithms, spdmAt_of_early h hn, spdmAt_of_early h hn, ite_self]
  case answers =>
    intro r slot index nonce s h hn
    refine ⟨?digests, ?certificate, ?challenge, ?all, ?one, ?none⟩
    case digests => rw [exec_getDigests, spdmAt_of_turn h hn]
    case certificate => rw [exec_getCertificate, spdmAt_of_turn h hn]
    case challenge => rw [exec_challenge, spdmAt_of_turn h hn]
    case all => rw [exec_getMeasurements, spdmAt_of_turn h hn, if_pos rfl]
    case one =>
      intro d hi hd
      rw [exec_getMeasurements, spdmAt_of_turn h hn, if_neg hi, hd]
    case none =>
      intro hi hd
      rw [exec_getMeasurements, spdmAt_of_turn h hn, if_neg hi, hd]
  case answer =>
    intro s r n m b
    exact ⟨rfl, look_put_same .., rfl⟩

end Sys2Proof.Machine
end

section
/-! SUPPORT. Debug commands (R365, R371, R373 to R376): the target of a command, what ends one, and the outcome of each event where its command stands. -/

namespace Sys2Proof.Machine

section

variable {s : State} {c : CoreId} {x : Cmd} {b : Block}

theorem block_of_target (h : s.target x = some b) : s.block? x.tblk = some b ∧ s.block x.tblk = b := by
  unfold State.target at h
  split at h
  case h_1 b' hb =>
    split at h
    · cases h
      exact ⟨hb, by simp [State.block, lookD, (show look s.blocks x.tblk = _ from hb)]⟩
    · cases h
  case h_2 => cases h

/-! ## The end of a command -/

@[simp] theorem releaseCmd_cmds (s : State) (k : Option ℕ) : (s.releaseCmd k).cmds = s.cmds := by
  cases k with
  | none => rfl
  | some k => simp only [State.releaseCmd, State.modFloe]; split <;> rfl

@[simp] theorem releaseCmd_csr (s : State) (k : Option ℕ) (core n : ℕ) : (s.releaseCmd k).csr core n = s.csr core n := by
  cases k with
  | none => rfl
  | some k => simp only [State.releaseCmd, State.modFloe]; split <;> rfl

theorem endDcmd_cmds (s : State) (x : Cmd) (err : ℕ) (set : Word) : (s.endDcmd x err set).cmds = s.cmds.erase x := by
  rw [State.endDcmd, releaseCmd_cmds]
  rfl

theorem endDcmd_dstat (s : State) (x : Cmd) (err : ℕ) (set : Word) :
    (s.endDcmd x err set).csr x.core 0x302 = (s.csr x.core 0x302 &&& ~~~0xFF01) ||| (BitVec.ofNat 32 (256 * err) ||| set) := by
  rw [State.endDcmd, releaseCmd_csr, State.dstat, State.csr_setCsr, if_pos rfl]
  rfl

/-! ## Commands whose target is no resident block (R365) -/

theorem exec_stopBlock_astray (h : s.dcmd c 1 = some x) (hb : x.begun = false) (ht : s.target x = none) :
    exec (.stopBlock c) s = .next (s.endDcmd x 1 0) := by
  show execStopBlock c s = _
  rw [execStopBlock, h]
  simp [hb, ht]

theorem exec_haltGridCommand_astray (h : s.dcmd c 2 = some x) (hb : x.begun = false) (ht : s.target x = none) :
    exec (.haltGridCommand c) s = .next (s.endDcmd x 1 0) := by
  show execHaltGridCommand c s = _
  rw [execHaltGridCommand, h]
  simp [hb, ht]

theorem exec_resume_astray (h : s.dcmd c 4 = some x) (ht : s.target x = none) : exec (.resume c) s = .next (s.endDcmd x 1 0) := by
  show execResume c s = _
  rw [execResume, h]
  simp [ht]

theorem exec_step_astray (h : s.dcmd c 5 = some x) (ht : s.target x = none) : exec (.step c) s = .next (s.endDcmd x 1 0) := by
  show execStep c s = _
  rw [execStep, h]
  simp [ht]

theorem exec_dump_astray (h : s.dcmd c 6 = some x) (ht : s.target x = none) : exec (.dump c) s = .next (s.endDcmd x 1 0) := by
  show execDump c s = _
  rw [execDump, h]
  simp [ht]

/-! ## Stops and halts (R371) -/

theorem exec_stopBlock_begins (h : s.dcmd c 1 = some x) (hb : x.begun = false) (ht : s.target x = some b) :
    exec (.stopBlock c) s = .next (if 1 ∈ b.stops then s.endDcmd x 0 0 else
      (((s.endStep x.tblk false).stopBlk x.tblk 1).beginDcmd x b.uid).settleDue 64) := by
  show execStopBlock c s = _
  rw [execStopBlock, h]
  simp only [hb, ht, List.contains_iff_mem, Bool.false_eq_true, if_false]
  split <;> rfl

theorem exec_stopBlock_waits (h : s.dcmd c 1 = some x) (hb : x.begun = true) (hu : (s.block x.tblk).uid % 2 ^ 32 = x.arg 4)
    (hs : 1 ∈ (s.block x.tblk).stops) :
    exec (.stopBlock c) s =
      .next (if s.quiet x.tblk then (s.modBlock x.tblk fun b => { b with stopper := some x.core }).endDcmd x 0 0x2 else s) := by
  show execStopBlock c s = _
  rw [execStopBlock, h]
  dsimp only
  rw [if_pos hb, if_neg (by rw [hu]; simp [hs])]
  split <;> rfl

theorem exec_haltGridCommand_begins (h : s.dcmd c 2 = some x) (hb : x.begun = false) (ht : s.target x = some b) :
    exec (.haltGridCommand c) s = .next (((s.haltGrid b.grid none).beginDcmd x b.grid).settleDue 64) := by
  show execHaltGridCommand c s = _
  rw [execHaltGridCommand, h]
  simp [hb, ht]

theorem exec_haltGridCommand_waits (h : s.dcmd c 2 = some x) (hb : x.begun = true) :
    exec (.haltGridCommand c) s = .next (if (s.grid (x.arg 4)).stopping.isNone then s.endDcmd x 0 0 else s) := by
  show execHaltGridCommand c s = _
  rw [execHaltGridCommand, h]
  simp [hb]

theorem exec_haltContext_begins (h : s.dcmd c 3 = some x) (hb : x.begun = false) :
    exec (.haltContext c) s = .next (((s.haltContext x.tctx none).beginDcmd x 0).settleDue 64) := by
  show execHaltContext c s = _
  rw [execHaltContext, h]
  simp [hb]

theorem exec_haltContext_waits (h : s.dcmd c 3 = some x) (hb : x.begun = true) :
    exec (.haltContext c) s = .next (if s.grids.any fun e => e.2.ctx == x.tctx && e.2.stopping.isSome then s else s.endDcmd x 0 0) := by
  show execHaltContext c s = _
  rw [execHaltContext, h]
  simp only [hb, if_true]

/-! ## Resumption (R365): with no step to cancel, each cause that holds the block ends as a whole -/

theorem cancelStep_of_no_step {bk : ℕ} (h : (s.block bk).stepping = none) : s.cancelStep bk = s := by
  simp [State.cancelStep, h]

theorem exec_resume_ends (h : s.dcmd c 4 = some x) (ht : s.target x = some b) (hb : b.stepping = none) :
    let s₂ := if 2 ∈ b.stops then s.resumeGrid b.grid 2 else s
    let s₄ := if 4 ∈ b.stops then s₂.resumeGrid b.grid 4 else s₂
    let s₃ := if 3 ∈ b.stops then
        ((s₄.grids.filter fun e => e.2.ctx == x.tctx && e.2.cause == 3).map (·.1)).foldl (fun (s : State) g => s.resumeGrid g 3) s₄
      else s₄
    exec (.resume c) s = .next (((s₃.unstop x.tblk [1]).endDcmd x 0 0).settleDue 64) := by
  obtain ⟨-, hx⟩ := block_of_target ht
  have hc : s.cancelStep x.tblk = s := cancelStep_of_no_step (by rw [hx, hb])
  show execResume c s = _
  rw [execResume, h]
  simp only [ht, hc, hx, List.contains_iff_mem]

/-! ## Steps (R373) -/

/-- A block that a step lets go: its stops stand aside, but for a preemption's. -/
def steppedBlock (s : State) (x : Cmd) (b : Block) : Block :=
  { b with stepping := some (x.core, s.clock (dieOf x.tcore) + x.lim), heldStops := b.stops.filter (· ≠ 5), stops := b.stops.filter (· = 5) }

theorem steppedBlock_stops_eq_nil : (steppedBlock s x b).stops = [] ↔ 5 ∉ b.stops := by
  simp only [steppedBlock, List.filter_eq_nil_iff, decide_eq_true_eq]
  exact ⟨fun h hm => h 5 hm rfl, fun h a ha e => h (e ▸ ha)⟩

theorem exec_step_moving (h : s.dcmd c 5 = some x) (ht : s.target x = some b) (hs : s.isStopped x.tblk = false) :
    exec (.step c) s = .next (s.endDcmd x 2 0) := by
  show execStep c s = _
  rw [execStep, h]
  simp [ht, hs]

theorem exec_step_stopped (h : s.dcmd c 5 = some x) (ht : s.target x = some b) (hs : s.isStopped x.tblk = true) :
    let v : State := { s with cmds := s.cmds.erase x, blocks := put s.blocks x.tblk (steppedBlock s x b) }
    exec (.step c) s = .next ((if 5 ∈ b.stops then v else v.goAgain x.tblk).settleDue 64) := by
  intro v
  obtain ⟨hb, -⟩ := block_of_target ht
  let u : State := { s with cmds := s.cmds.erase x }
  have hm : (u.modBlock x.tblk fun b => { b with
      stepping := some (x.core, u.clock (dieOf x.tcore) + x.lim), heldStops := b.stops.filter (· ≠ 5), stops := b.stops.filter (· = 5) }) = v := by
    rw [State.modBlock, show look u.blocks x.tblk = some b from hb]
    rfl
  have hv : (v.block x.tblk).stops = [] ↔ 5 ∉ b.stops := by
    rw [← steppedBlock_stops_eq_nil (s := s) (x := x), show v.block x.tblk = steppedBlock s x b by simp [v, State.block, lookD_put]]
  show execStep c s = _
  rw [execStep, h]
  simp only [ht, hs, Bool.not_true, Bool.false_eq_true, if_false]
  rw [hm]
  simp only [hv, ite_not]

/-! ## Dumps (R374, R376) -/

theorem exec_dump_moving (h : s.dcmd c 6 = some x) (ht : s.target x = some b) (hs : s.isStopped x.tblk = false) :
    exec (.dump c) s = .next (s.endDcmd x 2 0) := by
  show execDump c s = _
  rw [execDump, h]
  simp [ht, hs]

theorem exec_dump_unaligned (h : s.dcmd c 6 = some x) (ht : s.target x = some b) (hs : s.isStopped x.tblk = true)
    (ha : (x.arg 2 * 2 ^ 32 + x.arg 1) % 256 ≠ 0) : exec (.dump c) s = .next (s.endDcmd x 3 0) := by
  show execDump c s = _
  rw [execDump, h]
  simp only [ht, hs, Bool.not_true, Bool.false_eq_true, if_false]
  rw [if_pos ha]

theorem exec_dump_begins (h : s.dcmd c 6 = some x) (ht : s.target x = some b) (hs : s.isStopped x.tblk = true)
    (ha : (x.arg 2 * 2 ^ 32 + x.arg 1) % 256 = 0) (hd : ∀ d ∈ s.dumps, d.block ≠ x.tblk)
    (hm : x.arg 2 * 2 ^ 32 + x.arg 1 + (s.dumpOf x.tblk x.lim).1.length ≤ s.memTop) :
    exec (.dump c) s = .next { s with
      cmds := s.cmds.erase x
      dumps := s.dumps ++ [⟨x.core, x.tblk, x.arg 2 * 2 ^ 32 + x.arg 1, (s.dumpOf x.tblk x.lim).1, (s.dumpOf x.tblk x.lim).2⟩] } := by
  have hno : (s.dumps.any fun d => d.block == x.tblk) = false := by simpa using hd
  show execDump c s = _
  rw [execDump, h]
  simp only [ht, hs, hno, Bool.not_true, Bool.false_eq_true, if_false]
  rw [if_neg (not_not.2 ha), if_neg (Nat.not_lt.2 hm)]

/-! ## Remote access -/

theorem exec_remoteWrite (h : s.dcmd c 8 = some x) : exec (.remoteWrite c) s = .next (if x.remoteOk then
    (s.writeCsr x.tcore x.ctx (x.arg 1 % 4096) (x.args.getD 2 0) none).endDcmd x 0 0 else s.endDcmd x 3 0) := by
  show execRemoteWrite c s = _
  rw [execRemoteWrite, h]
  dsimp only
  cases x.remoteOk <;> rfl

theorem exec_remoteRead (h : s.dcmd c 9 = some x) : exec (.remoteRead c) s = .next (if x.remoteOk then
    (s.setCsr x.core 0x304 (s.coreCsr x.tcore x.ctx (x.arg 1 % 4096))).endDcmd x 0 0 else s.endDcmd x 3 0) := by
  show execRemoteRead c s = _
  rw [execRemoteRead, h]
  dsimp only
  cases x.remoteOk <;> rfl

end

end Sys2Proof.Machine
end

section
/-! PROOF. Debug commands, dumps and samples (R363, R365, R371, R373 to R376), and obligation O54. -/

namespace Sys2Proof.Machine

/-- ERR is the byte that the end of a command writes, and BUSY, which it clears, is none of the bits it sets. -/
theorem dstat_of_end {w set : Word} {err : ℕ} (hs : set &&& 0xFF01 = 0) :
    let v := (w &&& ~~~0xFF01) ||| (BitVec.ofNat 32 (256 * err) ||| set)
    v.getLsbD 0 = false ∧ v.extractLsb' 8 8 = BitVec.ofNat 8 err := by
  have hbit {i : ℕ} (hi : (0xFF01 : Word).getLsbD i = true) : set.getLsbD i = false := by
    have h := congrArg (·.getLsbD i) hs
    rw [BitVec.getLsbD_and, hi, Bool.and_true] at h
    simpa using h
  dsimp only
  constructor
  · have h0 : (256 * err).testBit 0 = false := by rw [show 256 * err = 2 ^ 8 * err from rfl, Nat.testBit_two_pow_mul]; rfl
    rw [BitVec.getLsbD_or, BitVec.getLsbD_and, BitVec.getLsbD_or, hbit rfl, BitVec.getLsbD_ofNat, h0]
    simp
  · refine BitVec.eq_of_getLsbD_eq fun i hi => ?_
    have hmask : (0xFF01 : Word).getLsbD (8 + i) = true := by interval_cases i <;> rfl
    have hnot : (~~~0xFF01 : Word).getLsbD (8 + i) = false := by interval_cases i <;> rfl
    have herr : (256 * err).testBit (8 + i) = err.testBit i := by
      rw [show 256 * err = 2 ^ 8 * err from rfl, Nat.testBit_two_pow_mul, Nat.add_sub_cancel_left]
      simp
    rw [BitVec.getLsbD_extractLsb', BitVec.getLsbD_or, BitVec.getLsbD_and, BitVec.getLsbD_or, hbit hmask, hnot, BitVec.getLsbD_ofNat,
      BitVec.getLsbD_ofNat, herr]
    simp [hi, show 8 + i < 32 by omega]

/-- Settles O54: each command by the outcome of its event where the command stands; samples by the branches of `execSample`. -/
theorem debugCommands : Obligations.DebugCommands := by
  unfold Obligations.DebugCommands
  refine ⟨?astray, ?stopBegins, ?stopWaits, ?haltGrid, ?haltContext, ?resume, ?step, ?timeout, ?dump, ?dumpEnd, ?recallMove, ?remote, ?ends, ?sample⟩
  case astray =>
    intro c s v x h ht hb
    refine ⟨?_, ?_, ?_, ?_, ?_⟩ <;> rintro rfl
    · exact exec_stopBlock_astray h hb ht
    · exact exec_haltGridCommand_astray h hb ht
    · exact exec_resume_astray h ht
    · exact exec_step_astray h ht
    · exact exec_dump_astray h ht
  case stopBegins =>
    intro c s x b h hb ht
    rw [exec_stopBlock_begins h hb ht]
    exact ⟨fun h1 => by rw [if_pos h1], fun h1 => by rw [if_neg h1]⟩
  case stopWaits =>
    intro c s x h hb hu hs
    rw [exec_stopBlock_waits h hb hu hs]
    exact ⟨fun hq => by rw [hq]; rfl, fun hq => by rw [if_pos hq]⟩
  case haltGrid =>
    intro c s x h
    exact ⟨fun b hb ht => exec_haltGridCommand_begins h hb ht, fun hb => exec_haltGridCommand_waits h hb⟩
  case haltContext =>
    intro c s x h
    refine ⟨fun hb => exec_haltContext_begins h hb, fun hb hn => ?_, fun hb hw => ?_⟩
    · rw [exec_haltContext_waits h hb, if_neg]
      simpa using hn
    · rw [exec_haltContext_waits h hb, if_pos]
      simpa [Option.isSome_iff_ne_none] using hw
  case resume =>
    intro c s x b h ht hb
    have hr := exec_resume_ends h ht hb
    refine ⟨fun hn => ?_, fun hn h2 => ?_, fun hn h4 => ?_, fun hn h3 => ?_⟩
    · have h2 : 2 ∉ b.stops := fun h2 => by simpa using hn 2 h2
      have h3 : 3 ∉ b.stops := fun h3 => by simpa using hn 3 h3
      have h4 : 4 ∉ b.stops := fun h4 => by simpa using hn 4 h4
      simpa only [h2, h3, h4, if_false] using hr
    · have h3 : 3 ∉ b.stops := fun h3 => by simpa using hn 3 h3
      have h4 : 4 ∉ b.stops := fun h4 => by simpa using hn 4 h4
      simpa only [h2, h3, h4, if_true, if_false] using hr
    · have h2 : 2 ∉ b.stops := fun h2 => by simpa using hn 2 h2
      have h3 : 3 ∉ b.stops := fun h3 => by simpa using hn 3 h3
      simpa only [h2, h3, h4, if_true, if_false] using hr
    · have h2 : 2 ∉ b.stops := fun h2 => by simpa using hn 2 h2
      have h4 : 4 ∉ b.stops := fun h4 => by simpa using hn 4 h4
      simpa only [h2, h3, h4, if_true, if_false] using hr
  case step =>
    intro c s x b h ht y v
    refine ⟨exec_step_moving h ht, fun hs h5 => ?_, fun hs h5 => ?_⟩
    · rw [exec_step_stopped h ht hs, if_pos h5]
      rfl
    · rw [exec_step_stopped h ht hs, if_neg h5]
      rfl
  case timeout =>
    intro c s bk b h
    show execStepTimeout c s = _
    rw [execStepTimeout, h]
  case dump =>
    intro c s x b h ht
    exact ⟨exec_dump_moving h ht, exec_dump_unaligned h ht, exec_dump_begins h ht⟩
  case dumpEnd =>
    intro c s d h
    show execDumpEnd c s = _
    rw [execDumpEnd, h]
  case recallMove =>
    intro c s x h
    show execDebugRecall c s = _
    rw [execDebugRecall, h]
  case remote =>
    intro c s x
    refine ⟨fun h => ?_, fun h => ?_⟩
    · rw [exec_remoteWrite h]
      exact ⟨fun hr => by rw [hr]; rfl, fun hr => by rw [if_pos hr]⟩
    · rw [exec_remoteRead h]
      exact ⟨fun hr => by rw [hr]; rfl, fun hr => by rw [if_pos hr]⟩
  case ends =>
    intro s x err set _ hs t
    refine ⟨endDcmd_cmds s x err set, ?_⟩
    rw [endDcmd_dstat]
    exact dstat_of_end hs
  case sample =>
    intro q s k sc lane slot sc'
    refine ⟨fun h => ?off, fun hp hc => ?due⟩
    case off =>
      show execSample q s = _
      rw [execSample]
      exact if_pos h
    have hgo : ¬ (s.samplePeriod k = 0 ∨ s.clock (k / 512) < s.sampleAt k) := by
      rintro (h | h)
      · exact hp h
      · exact Nat.not_lt.2 hc h
    refine ⟨fun hw => ?none, fun w hw => ?some⟩
    case none =>
      show execSample q s = _
      rw [execSample]
      refine (if_neg hgo).trans ?_
      dsimp only
      split
      case h_1 => rfl
      case h_2 hw' => exact absurd (hw.symm.trans hw') nofun
    case some =>
      intro t th ctx u
      have he : exec (.sample q) s = if !u.ringSet ctx ∨ (th.st = 0 ∧ th.exitAt = 0) then .next u
          else .next (u.traceRec ctx (sampleBits t (u.view t th (s.sampleAt k)) th ctx (s.sampleAt k))) := by
        show execSample q s = _
        rw [execSample]
        refine (if_neg hgo).trans ?_
        dsimp only
        split
        case h_1 hw' => exact absurd (hw.symm.trans hw') nofun
        case h_2 w' hw' =>
          obtain rfl : w = w' := Option.some.inj (hw.symm.trans hw')
          rfl
      rw [he]
      refine ⟨fun hr => if_pos ?_, fun hr hx => if_neg ?_⟩
      · simpa using hr
      · rw [hr, not_or, not_and_or]
        exact ⟨by simp, hx⟩

end Sys2Proof.Machine
end

section
/-! PROOF. The name directory's instructions (R354 to R359), and obligation O43. -/

namespace Sys2Proof.Machine

section

variable {i : Instr} {s u : State} {f : Floe} {c : Ctx}

/-! ## Lanes of `dopen` (R354, R355) -/

theorem openLane_noName (u : State) (w : Bool) (l til : ℕ) : c.openLane u w l 0 til = (u, some (l, 4, false, none)) := rfl

theorem openLane_unbound {n : ℕ} (hn : n ≠ 0) (hb : u.bound c.g.ctx n = none) (w : Bool) (l til : ℕ) : c.openLane u w l n til =
    if w ∧ u.clock c.die < til then (u, none) else (u, some (l, if w then 3 else 1, false, none)) := by
  rw [Ctx.openLane, if_neg hn, hb]

theorem openLane_bound {n e : ℕ} (hn : n ≠ 0) (hb : u.bound c.g.ctx n = some e) (w : Bool) (l til : ℕ) :
    let r := u.openEnt (u.block c.bk).grid e
    c.openLane u w l n til = (r.2.2, some (l, r.1, r.2.1, if r.2.1 then look u.dirRecs e else none)) := by
  rw [Ctx.openLane, if_neg hn, hb]

/-! ## Fields of an entry as words (R349, R356) -/

theorem entPtr_words (x : BitVec 256) : BitVec.ofNat 32 (entPtr x.toNat) = (x.extractLsb' 192 64).extractLsb' 0 32 ∧
    BitVec.ofNat 32 (entPtr x.toNat / 2 ^ 32) = (x.extractLsb' 192 64).extractLsb' 32 32 := by
  have h : entPtr x.toNat = (x.extractLsb' 192 64).toNat := by simp [entPtr, bits, Nat.shiftRight_eq_div_pow]
  rw [h]
  constructor <;> refine BitVec.eq_of_toNat_eq ?_ <;> simp [Nat.shiftRight_eq_div_pow]

theorem entField_word (x : BitVec 256) {sel : BitVec 3} (hs : sel ≠ 7) : BitVec.ofNat 32 (entField x.toNat sel.toNat) =
    if sel = 0 then x.extractLsb' 96 32 else if sel = 1 then BitVec.zeroExtend 32 (x.extractLsb' 88 8) else if sel = 2 then x.extractLsb' 40 32
    else if sel = 3 then BitVec.zeroExtend 32 (x.extractLsb' 72 16) else if sel = 4 then BitVec.zeroExtend 32 (x.extractLsb' 38 1)
    else if sel = 5 then x.extractLsb' 128 32 else x.extractLsb' 160 32 := by
  have hsel : sel = 0 ∨ sel = 1 ∨ sel = 2 ∨ sel = 3 ∨ sel = 4 ∨ sel = 5 ∨ sel = 6 := by revert sel; decide
  rcases hsel with rfl | rfl | rfl | rfl | rfl | rfl | rfl
  all_goals
    refine BitVec.eq_of_toNat_eq ?_
    simp [entField, entVersion, entFmt, entSize, entBound, entName, bits, Nat.shiftRight_eq_div_pow]
  case inr.inr.inr.inr.inl => split <;> omega
  all_goals omega

/-! ## The address of a bind list (R172, R358) -/

theorem bindList_va (p : ℕ) (disp : BitVec 24) : wrap ((ptrVa p : ℤ) + sext disp.toNat 24) 48 =
    (BitVec.ofNat 48 p + BitVec.signExtend 48 disp).toNat := by
  have hp : BitVec.ofInt 48 ((ptrVa p : ℕ) : ℤ) = BitVec.ofNat 48 p := by
    rw [BitVec.ofInt_natCast, ptrVa]
    exact BitVec.eq_of_toNat_eq (by simp)
  rw [wrap_eq_toNat, BitVec.ofInt_add, hp, sext_eq_toInt, BitVec.ofNat_toNat, BitVec.setWidth_eq]
  rfl

end

/-- Settles O43: each instruction's own part once it issues; fields of entries by `entPtr_words` and `entField_word`. -/
theorem directoryInstructions : Obligations.DirectoryInstructions := by
  unfold Obligations.DirectoryInstructions
  refine ⟨?lane, ?dopen, ?dopenW, ?dclose, ?dptr, ?dquery, ?dbind, ?dunbind, ?idle⟩
  case lane =>
    intro c u w l n til
    refine ⟨?_, fun hn hb => ⟨?_, ?_⟩, fun e hn hb => ?_⟩
    · rintro rfl
      exact openLane_noName ..
    · rw [openLane_unbound hn hb, if_neg (by simp)]
      rfl
    · rw [openLane_unbound hn hb]
      simp
    · rw [openLane_bound hn hb]
      exact ⟨rfl, _, rfl⟩
  case dopen =>
    intro o s f c h
    exact exec_done_or_idle rfl rfl h rfl
  case dopenW =>
    intro o s f c h
    refine ⟨fun ha => exec_idle rfl rfl h (if_pos ha), fun found ha hw => exec_completes rfl rfl h ha ?_, fun ha hw hr => exec_holds rfl rfl h ha ?_,
      fun ha hw hr => exec_completes rfl rfl h ha ?_⟩
    all_goals simp only [if_neg ha, hw]
    · exact if_neg hr
    · exact if_pos hr
  case dclose =>
    intro o s f c h
    exact issue_done h (preTrap_none rfl c) rfl fun ha => by rw [ha]; rfl
  case dptr =>
    intro o s f c h p words t
    refine ⟨issue_completes h rfl rfl (congrArg Res.done (congrArg (c.deliver c.s o.h.la.toNat o.d) (List.map_congr_left fun l _ => ?_))),
      fun hc hla hd hb => ?_⟩
    · simp only [words, p]
      cases (c.s.grid (c.s.block c.bk).grid).handle (c.rd1 0 o.a l).toNat with
      | none => simp
      | some e => exact congrArg₂ (fun a b => (l, [a, b], (0 : Fl))) (entPtr_words _).1 (entPtr_words _).2
    · simp only [t, hla]
      exact deliver_inRegs (quiet_of h hc) (fun _ => rfl) hd words (fun _ => 0) (fun _ => le_rfl) hb
  case dquery =>
    intro o sel s f c h hs v t
    refine ⟨issue_completes h rfl rfl (congrArg Res.done (congrArg (c.deliver c.s o.h.la.toNat o.d) (List.map_congr_left fun l _ => ?_))),
      fun hc hla hd hb => ?_⟩
    · simp only [v]
      cases (c.s.grid (c.s.block c.bk).grid).handle (c.rd1 0 o.a l).toNat with
      | none => rfl
      | some e => exact congrArg (fun a => (l, [a], (0 : Fl))) (entField_word _ hs)
    · simp only [t, hla]
      exact deliver_inRegs (quiet_of h hc) (fun _ => rfl) hd (fun l => [v l]) (fun _ => 0) (fun _ => le_rfl) hb
  case dbind =>
    intro o s f c ps h ha hr u n hread rs st p hno
    obtain ⟨hl, hc, hw⟩ := hr.1 rfl
    refine exec_completes rfl rfl h ha ?_
    rw [if_neg ha, releaseThen_ready hl hc hw]
    dsimp only
    rw [bindList_va, hread]
    have hclean : ¬ (n ≤ 16 ∧ rs.any (fun r => r.ptr != 0 && u.bentPoison c.g.ctx (bits r.ptr 59 48)) = true) := by
      rintro ⟨hn, hany⟩
      obtain ⟨r, hr, hbad⟩ := List.any_eq_true.1 hany
      simp only [Bool.and_eq_true, bne_iff_ne] at hbad
      exact absurd hbad.2 (by simp [hno hn r hr hbad.1])
    exact if_neg hclean
  case dunbind =>
    intro o s f c p h ha hr u hread r
    obtain ⟨hl, hc, hw⟩ := hr.1 rfl
    refine exec_completes rfl rfl h ha ?_
    have hread' : c.bindRead u (c.rdPair o.a c.low) (ptrVa (c.rdPair o.a c.low)) 1 8 = .ok [p] := hread
    rw [if_neg ha, releaseThen_ready hl hc hw]
    dsimp only
    rw [hread']
  case idle =>
    intro o r i hi s f c h ha
    simp only [List.mem_cons, List.not_mem_nil, or_false] at hi
    obtain rfl | rfl := hi
    · exact exec_idle rfl rfl h (if_pos ha)
    · exact exec_idle rfl rfl h (if_pos ha)

end Sys2Proof.Machine
end

section
/-! PROOF. Bounds and invalidation commands of supervisor code and of the host (R325, R326, R418), and obligation O50. -/

namespace Sys2Proof.Machine

section

variable {s u : State} {c : CoreId} {x : Cmd}

/-! ## Commands of a core (R326) -/

/-- A command that is taken is one that the core started, and leaves the list. -/
theorem takeCmd_some {core csr : ℕ} {v : Word} (h : s.takeCmd core csr v = some (x, u)) :
    x ∈ s.cmds ∧ x.core = core ∧ x.csr = csr ∧ x.val = v ∧ u = { s with cmds := s.cmds.erase x } := by
  unfold State.takeCmd at h
  split at h
  case h_1 y hy =>
    split at h
    case isTrue hv =>
      obtain ⟨rfl, rfl⟩ := Prod.mk.inj (Option.some.inj h)
      have hp := List.find?_some hy
      simp only [Bool.and_eq_true, beq_iff_eq] at hp
      exact ⟨List.mem_of_find?_eq_some hy, hp.1, hp.2, hv, rfl⟩
    case isFalse => cases h
  case h_2 => cases h

theorem exec_boundsWrite (h : s.takeCmd (CoreId.key c) 0x209 1 = some (x, u)) :
    exec (.boundsWrite c) s = .next ((u.setBent x.ctx (x.arg 0) x.staged).releaseCmd x.floe) := by
  show execBoundsWrite c s = _
  rw [execBoundsWrite, h]

/-- BENT0 to BENT7 of a core with an entry's words. -/
def State.bentRead (u : State) (core e : ℕ) : State :=
  (List.range 8).foldl (fun s i => s.setCsr core (0x201 + i) (BitVec.ofNat 32 (e / 2 ^ (32 * i)))) u

theorem exec_boundsRead (h : s.takeCmd (CoreId.key c) 0x209 2 = some (x, u)) :
    exec (.boundsRead c) s = .next ((u.bentRead (CoreId.key c) (u.bent x.ctx (x.arg 0))).releaseCmd x.floe) := by
  show execBoundsRead c s = _
  rw [execBoundsRead, h]
  rfl

theorem bentRead_mem (u : State) (core e : ℕ) : (u.bentRead core e).mem = u.mem :=
  foldl_keeps State.mem (fun s i => State.setCsr_mem s core (0x201 + i) _) _ _

theorem bentRead_floes (u : State) (core e : ℕ) : (u.bentRead core e).floes = u.floes :=
  foldl_keeps State.floes (fun s i => State.setCsr_floes s core (0x201 + i) _) _ _

theorem bentRead_csr (u : State) (core e : ℕ) {i : ℕ} (hi : i < 8) : (u.bentRead core e).csr core (0x201 + i) = BitVec.ofNat 32 (e / 2 ^ (32 * i)) := by
  have hr : List.range 8 = [0, 1, 2, 3, 4, 5, 6, 7] := rfl
  simp only [State.bentRead, hr, List.foldl_cons, List.foldl_nil, State.csr_setCsr]
  interval_cases i <;> simp

theorem exec_boundsClear (h : s.takeCmd (CoreId.key c) 0x209 3 = some (x, u)) : exec (.boundsClear c) s =
    .next ((u.setBent x.ctx (x.arg 0) (u.bent x.ctx (x.arg 0) - bits (u.bent x.ctx (x.arg 0)) 63 63 * 2 ^ 63)).releaseCmd x.floe) := by
  show execBoundsClear c s = _
  rw [execBoundsClear, h]

theorem exec_tlbInvalidatePage (h : s.takeCmd (CoreId.key c) 0x212 1 = some (x, u)) : exec (.tlbInvalidatePage c) s =
    .next { u with invals := u.invals ++ [{
      ctx := x.ctx, range := some (u.pageRange x.ctx (x.arg 0 + x.arg 1 % 65536 * 2 ^ 32)), floe := x.floe }] } := by
  show execTlbInvalidatePage c s = _
  rw [execTlbInvalidatePage, h]

theorem exec_tlbInvalidateContext (h : s.takeCmd (CoreId.key c) 0x212 2 = some (x, u)) : exec (.tlbInvalidateContext c) s =
    .next { u with invals := u.invals ++ [{ ctx := x.ctx, range := none, floe := x.floe }] } := by
  show execTlbInvalidateContext c s = _
  rw [execTlbInvalidateContext, h]

/-! ## Commands of the host (R418) -/

theorem exec_invalidatePage (h : s.hostCmd 2 = true) : exec .invalidatePage s = .next (if 64 ≤ s.cmdArg 0 ∨ 2 ^ 48 ≤ s.cmdArg 1 then s.endHostCmd 1
    else { s with invals := s.invals ++ [{ ctx := s.cmdArg 0, range := some (s.pageRange (s.cmdArg 0) (s.cmdArg 1)), host := true }] }) := by
  show execInvalidatePage s = _
  rw [execInvalidatePage, h]
  exact (apply_ite Host.Outcome.next _ _ _).symm

theorem exec_invalidateContext (h : s.hostCmd 3 = true) : exec .invalidateContext s = .next (if 64 ≤ s.cmdArg 0 then s.endHostCmd 1
    else { s with invals := s.invals ++ [{ ctx := s.cmdArg 0, range := none, host := true }] }) := by
  show execInvalidateContext s = _
  rw [execInvalidateContext, h]
  exact (apply_ite Host.Outcome.next _ _ _).symm

theorem exec_writeBoundsEntry (h : s.hostCmd 4 = true) : exec .writeBoundsEntry s =
    .next (if 64 ≤ s.cmdArg 0 ∨ 4096 ≤ s.cmdArg 1 ∨ s.memTop < s.cmdArg 2 + 32 then s.endHostCmd 1
      else (s.setBent (s.cmdArg 0) (s.cmdArg 1) (getN s.mem (s.cmdArg 2) 32)).endHostCmd 0) := by
  show execWriteBoundsEntry s = _
  rw [execWriteBoundsEntry, h]
  exact (apply_ite Host.Outcome.next _ _ _).symm

/-! ## Writing an entry (R325) -/

theorem setBent_mem (s : State) (ctx i v : ℕ) : (s.setBent ctx i v).mem = setBs s.mem (s.bentAddr ctx i) (leBytes v 32) :=
  (wrote_writeN s rfl 32 v).mem

end

/-- Settles O50: each command by the outcome of its event; the bytes of an entry by what a written memory reads. -/
theorem boundsAndInvalidationCommands : Obligations.BoundsAndInvalidationCommands := by
  unfold Obligations.BoundsAndInvalidationCommands
  refine ⟨fun c s x u h => exec_boundsWrite h, fun c s x u h => ?read, fun c s x u h => exec_boundsClear h, fun c s x u h => exec_tlbInvalidatePage h,
    fun c s x u h => exec_tlbInvalidateContext h, fun s c csr v x u h => takeCmd_some h, fun s h => ?hostPage, fun s h => ?hostContext,
    fun s h => ?hostEntry, fun s ctx i v a => ?bytes⟩
  case read =>
    exact ⟨_, exec_boundsRead h, bentRead_mem .., bentRead_floes .., fun i hi => bentRead_csr _ _ _ hi⟩
  case hostPage =>
    rw [exec_invalidatePage h]
    exact ⟨fun hb => by rw [if_pos hb], fun h0 h1 => by rw [if_neg (by omega)]⟩
  case hostContext =>
    rw [exec_invalidateContext h]
    exact ⟨fun hb => by rw [if_pos hb], fun h0 => by rw [if_neg (Nat.not_le.2 h0)]⟩
  case hostEntry =>
    rw [exec_writeBoundsEntry h]
    exact ⟨fun hb => by rw [if_pos hb], fun h0 h1 h2 => by rw [if_neg (by omega)]⟩
  case bytes =>
    dsimp only
    rw [setBent_mem, getB_setBs_leBytes]
    rfl

end Sys2Proof.Machine
end

section
/-! PROOF. A restored record that ends before the piece begins (R413), and obligation O57. -/

namespace Sys2Proof.Machine

/-- A record no byte of which lies in the piece leaves the machine as it was, whatever granules it names. -/
theorem restoreFrom_apart {s : State} {a n pa : ℕ} {data : List Byte} (h : min (a + n) (pa + data.length) ≤ max a pa) (bad : List ℕ) :
    s.restoreFrom a n (pa, bad, data) = s := by
  unfold State.restoreFrom
  exact if_pos h

/-- Refutes O57: its clause on poisoned granules asks that a granule of the record lie below the piece's end and above the record's start, which
holds of a granule that the record and the piece both touch though they share no byte. A record of three bytes at 32, restored into a piece
of one byte at 40, writes nothing, and its poisoned granule, which ends at 64, is not poisoned. -/
theorem not_hostCommandsAndCollectives : ¬ Obligations.HostCommandsAndCollectives := by
  unfold Obligations.HostCommandsAndCollectives
  rintro ⟨-, -, -, -, hrestore, -⟩
  obtain ⟨-, hpoison⟩ := hrestore State.reset 40 1 32 [0] [0, 0, 0]
  have hset := hpoison 0 (List.mem_singleton.2 rfl) (by decide) (by decide)
  rw [restoreFrom_apart (by decide)] at hset
  exact absurd hset (by decide)

end Sys2Proof.Machine
end

section
/-! SUPPORT. What stops, ends and releases leave of the package's registers: they stand as they did. -/

namespace Sys2Proof.Machine

@[simp] theorem ite_pkg (p : Prop) [Decidable p] (s t : State) : (if p then s else t).pkg = if p then s.pkg else t.pkg :=
  apply_ite State.pkg p s t

@[simp] theorem foldl_pkg {α : Type} {g : State → α → State} (hg : ∀ s a, (g s a).pkg = s.pkg) (l : List α) (s : State) :
    (l.foldl g s).pkg = s.pkg :=
  foldl_keeps State.pkg hg l s

@[simp] theorem State.writePlace_pkg (s : State) (p : Place) (bs : List Byte) : (s.writePlace p bs).pkg = s.pkg := by simp [State.writePlace]

@[simp] theorem State.writeN_pkg (s : State) (p : Place) (n v : ℕ) : (s.writeN p n v).pkg = s.pkg := by simp [State.writeN]

@[simp] theorem State.askAts_pkg (s : State) (core ctx va : ℕ) : (s.askAts core ctx va).pkg = s.pkg := by simp [State.askAts]

@[simp] theorem State.devWrite_pkg (s : State) (ctx va : ℕ) (bs : List Byte) :
    (s.devWrite ctx va bs).pkg = s.pkg := by
  unfold State.devWrite
  split
  · rfl
  · split <;> simp

@[simp] theorem State.statWrite_pkg (s : State) (g off n v : ℕ) : (s.statWrite g off n v).pkg = s.pkg := by simp [State.statWrite]

@[simp] theorem State.setGState_pkg (s : State) (g st : ℕ) : (s.setGState g st).pkg = s.pkg := by simp [State.setGState]

@[simp] theorem State.openOverflow_pkg (s : State) (q b : ℕ) : (s.openOverflow q b).pkg = s.pkg := by
  unfold State.openOverflow
  dsimp only
  split
  · rfl
  · rw [foldl_pkg (fun _ _ => State.modThread_pkg ..)]

@[simp] theorem State.fillBins_pkg (s : State) (q : ℕ) : (s.fillBins q).pkg = s.pkg := by simp [State.fillBins]

@[simp] theorem State.addDue_pkg (s : State) (bk code addr coord : ℕ) : (s.addDue bk code addr coord).pkg = s.pkg := by
  unfold State.addDue
  split <;> simp

@[simp] theorem State.dropResv_pkg (s : State) (k : ℕ) : (s.dropResv k).pkg = s.pkg := by
  unfold State.dropResv
  dsimp only
  repeat' split
  all_goals simp

@[simp] theorem State.gangCancel_pkg (s : State) (m : Mma) : (s.gangCancel m).pkg = s.pkg := by simp [State.gangCancel]

@[simp] theorem State.freeMma_pkg (s : State) (id : ℕ) (m : Mma) : (s.freeMma id m).pkg = s.pkg := by simp [State.freeMma]

@[simp] theorem State.cancelMma_pkg (s : State) (id : ℕ) (gang : Bool) : (s.cancelMma id gang).pkg = s.pkg := by
  unfold State.cancelMma
  dsimp only
  repeat' split
  all_goals simp

@[simp] theorem State.cancelWaiting_pkg (s : State) (bk : ℕ) : (s.cancelWaiting bk).pkg = s.pkg := by simp [State.cancelWaiting]

@[simp] theorem State.stopBlk_pkg (s : State) (bk cause : ℕ) : (s.stopBlk bk cause).pkg = s.pkg := by simp [State.stopBlk]

@[simp] theorem State.dstat_pkg (s : State) (core : ℕ) (set clr : Word) : (s.dstat core set clr).pkg = s.pkg := by simp [State.dstat]

@[simp] theorem State.endStepByHalt_pkg (s : State) (bk : ℕ) : (s.endStepByHalt bk).pkg = s.pkg := by
  unfold State.endStepByHalt
  split <;> simp

@[simp] theorem State.stopOnCore_pkg (s : State) (g cause core : ℕ) : (s.stopOnCore g cause core).pkg = s.pkg := by simp [State.stopOnCore]

@[simp] theorem State.stopGridAs_pkg (s : State) (g cause st : ℕ) (core : Option ℕ) : (s.stopGridAs g cause st core).pkg = s.pkg := by
  unfold State.stopGridAs
  dsimp only
  repeat' split
  all_goals simp

@[simp] theorem State.endSteps_pkg (s : State) (g : ℕ) : (s.endSteps g).pkg = s.pkg := by simp [State.endSteps]

@[simp] theorem State.stopGrid_pkg (s : State) (g : ℕ) (core : Option ℕ) : (s.stopGrid g core).pkg = s.pkg := by simp [State.stopGrid]

@[simp] theorem State.fatalStop_pkg (s : State) (g : ℕ) (core : Option ℕ) : (s.fatalStop g core).pkg = s.pkg := by simp [State.fatalStop]

@[simp] theorem State.noteDone_pkg (s : State) : s.noteDone.pkg = s.pkg := by simp [State.noteDone]

@[simp] theorem State.dropPartners_pkg (s : State) (c : Copy) (abort : Option (List (ℕ × ℕ × Bool))) :
    (s.dropPartners c abort).pkg = s.pkg := by
  refine foldl_pkg (fun s t => ?_) _ _
  split
  · rfl
  · split
    · rfl
    · cases abort <;> simp

@[simp] theorem State.takeLines_pkg (s : State) (id : ℕ) (c : Copy) : (s.takeLines id c).1.pkg = s.pkg := by simp [State.takeLines]

@[simp] theorem State.cancelCopy_pkg (s : State) (id : ℕ) (abort : Option (List (ℕ × ℕ × Bool))) :
    (s.cancelCopy id abort).pkg = s.pkg := by
  unfold State.cancelCopy
  split <;> simp

@[simp] theorem State.freeAllocs_pkg (s : State) (bk : ℕ) : (s.freeAllocs bk).pkg = s.pkg := by simp [State.freeAllocs]

@[simp] theorem State.releaseBlock_pkg (s : State) (bk : ℕ) (why : Ending) : (s.releaseBlock bk why).pkg = s.pkg := by
  unfold State.releaseBlock
  extract_lets core n b gang s₁ mine s₂ s₃
  have h₁ : s₁.pkg = s.pkg := foldl_pkg (fun s id => by split <;> simp) _ _
  have h₂ : s₂.pkg = s₁.pkg := by
    cases why with
    | exit => rfl
    | kill => exact foldl_pkg (fun s id => State.cancelCopy_pkg ..) _ _
    | abort ps => exact foldl_pkg (fun s id => State.cancelCopy_pkg ..) _ _
  have h₃ : s₃.pkg = s₂.pkg := State.freeAllocs_pkg s₂ bk
  rw [foldl_pkg (fun s i => State.fillBins_pkg ..), h₃, h₂, h₁]

@[simp] theorem State.blockGone_pkg (s : State) (bk : ℕ) : (s.blockGone bk).pkg = s.pkg := by
  unfold State.blockGone
  dsimp only
  repeat' split
  all_goals simp

@[simp] theorem State.flushRecl_pkg (ctx : ℕ) (rs : List (ℕ × BitVec 256)) (s : State) : (State.flushRecl ctx rs s).pkg = s.pkg := by
  induction rs generalizing s with
  | nil => rfl
  | cons r rs ih =>
    unfold State.flushRecl
    split
    · rfl
    · rw [ih]; simp

@[simp] theorem State.drainRecl_pkg (s : State) (ctx : ℕ) : (s.drainRecl ctx).pkg = s.pkg := by
  unfold State.drainRecl
  split <;> simp

@[simp] theorem State.putDir_pkg (s : State) (e : ℕ) (v : BitVec 256) : (s.putDir e v).pkg = s.pkg := by simp [State.putDir]

@[simp] theorem State.reclaim_pkg (s : State) (e : ℕ) : (s.reclaim e).pkg = s.pkg := by simp [State.reclaim]

@[simp] theorem State.setRefs_pkg (s : State) (e refs : ℕ) : (s.setRefs e refs).pkg = s.pkg := by simp [State.setRefs]

@[simp] theorem State.recoverGrid_pkg (s : State) (d g : ℕ) : (s.recoverGrid d g).pkg = s.pkg := by simp [State.recoverGrid]

@[simp] theorem State.loseDie_pkg (s : State) (d : ℕ) : (s.loseDie d).pkg = s.pkg := by
  unfold State.loseDie
  extract_lets u _ _ _
  have hu : u.pkg = s.pkg := foldl_pkg (fun s bk => by simp) _ _
  rw [foldl_pkg (fun s e => by simp)]
  exact hu

theorem State.loseShell_pkg (s : State) (d : ℕ) :
    (s.loseShell d).pkg = { s.pkg with shlost := setBit s.pkg.shlost d true, rebuild := true } := by
  unfold State.loseShell
  rw [foldl_pkg (fun s g => by simp), foldl_pkg (fun s bk => by simp)]

end Sys2Proof.Machine
end

section
/-! SUPPORT. Links, heartbeats, fences and shells (R392, R395, R399 to R405): each event's outcome where it acts and where it does not. -/

namespace Sys2Proof.Machine

section

variable {s : State} {die : ℕ}

/-! ## Links (R392) -/

@[simp] theorem logErr_outbox (s : State) (e : ErrRec) : (s.logErr e).outbox = s.outbox := by
  unfold State.logErr
  dsimp only
  repeat' split
  all_goals rfl

theorem exec_flitReceive_good {src dst : ℕ} {cls : BitVec 4} (hl : (s.link src dst).corrupt = false) :
    exec (.flitReceive src dst cls true) s = .next s := by
  show execFlitReceive src dst cls true s = _
  simp [execFlitReceive, hl]

/-- The replays of a direction in the last millisecond, with one more. -/
def State.replays (s : State) (src dst : ℕ) : List ℕ :=
  s.clock 8 :: (s.link src dst).times.filter fun t => decide (s.clock 8 < t + 1000 * Config.cyclesPerUs)

theorem exec_flitReceive_bad {src dst : ℕ} {cls : BitVec 4} {good : Bool} (hs : src ≤ 8) (hd : dst ≤ 8) (hne : src ≠ dst)
    (hr : (s.link src dst).retired = false) (hb : good = false ∨ (s.link src dst).corrupt = true) :
    ∃ t, exec (.flitReceive src dst cls good) s = .next t ∧ t.outbox = .replay src dst cls.toNat :: s.outbox ∧
      t.link src dst = ⟨s.replays src dst, decide (64 < (s.replays src dst).length), false⟩ := by
  have h1 : ¬ (8 < src ∨ 8 < dst ∨ src = dst ∨ (s.link src dst).retired = true) := by simp [hr, hne]; omega
  have h2 : ¬ (good && !(s.link src dst).corrupt) = true := by rcases hb with hb | hb <;> simp [hb]
  refine ⟨_, (if_neg h1).trans (if_neg h2), ?_, (lookD_put ..).trans (if_pos rfl)⟩
  split <;> simp

/-! ## Heartbeats (R399) -/

theorem exec_heartbeatSend_early (h : s.clock 8 < (s.beat die die).2 + 10 * Config.cyclesPerUs) : exec (.heartbeatSend die) s = .next s :=
  if_pos (.inr (.inr h))

theorem exec_heartbeatSend_due (hd : die < 8) (hl : s.pkg.live.getLsbD die = true) (h : (s.beat die die).2 + 10 * Config.cyclesPerUs ≤ s.clock 8) :
    let u : State := { s with beats := put s.beats (16 * die + die) ((s.beat die die).1 + 1, s.clock 8) }
    exec (.heartbeatSend die) s = .next { u with
      beatNet := u.beatNet ++ ((List.range 8).filter (· ≠ die)).map fun d => { src := die, dst := d, seqs := (List.range 8).map (u.beat die) } } :=
  if_neg (by rw [hl]; simp; omega)

/-- A die keeps the newer of a number it receives and the one it holds. -/
def keepNewer (dst : ℕ) (t : Tab (ℕ × ℕ)) (e : (ℕ × ℕ) × ℕ) : Tab (ℕ × ℕ) :=
  if (lookD (0, 0) t (16 * dst + e.2)).1 < e.1.1 then put t (16 * dst + e.2) e.1 else t

theorem keepNewer_same (dst : ℕ) (t : Tab (ℕ × ℕ)) (x : ℕ × ℕ) (n : ℕ) : lookD (0, 0) (keepNewer dst t (x, n)) (16 * dst + n) =
    if (lookD (0, 0) t (16 * dst + n)).1 < x.1 then x else lookD (0, 0) t (16 * dst + n) := by
  unfold keepNewer
  split
  · rw [lookD_put, if_pos rfl]
  · rfl

theorem keepNewer_other (dst : ℕ) (t : Tab (ℕ × ℕ)) (x : ℕ × ℕ) {n d : ℕ} (h : d ≠ n) :
    lookD (0, 0) (keepNewer dst t (x, n)) (16 * dst + d) = lookD (0, 0) t (16 * dst + d) := by
  unfold keepNewer
  split
  · rw [lookD_put, if_neg (by omega)]
  · rfl

/-- Numbers that come later in the list leave those of the dies before them. -/
theorem foldl_keepNewer_before (dst : ℕ) (l : List (ℕ × ℕ)) {n d : ℕ} (h : d < n) (t : Tab (ℕ × ℕ)) :
    lookD (0, 0) ((l.zipIdx n).foldl (keepNewer dst) t) (16 * dst + d) = lookD (0, 0) t (16 * dst + d) := by
  induction l generalizing n t with
  | nil => rfl
  | cons y l ih => rw [List.zipIdx_cons, List.foldl_cons, ih (by omega), keepNewer_other _ _ _ (by omega)]

theorem foldl_keepNewer (dst : ℕ) {l : List (ℕ × ℕ)} {k : ℕ} {x : ℕ × ℕ} (hx : l[k]? = some x) (n : ℕ) (t : Tab (ℕ × ℕ)) :
    lookD (0, 0) ((l.zipIdx n).foldl (keepNewer dst) t) (16 * dst + (n + k)) =
      if (lookD (0, 0) t (16 * dst + (n + k))).1 < x.1 then x else lookD (0, 0) t (16 * dst + (n + k)) := by
  induction l generalizing k n t with
  | nil => simp at hx
  | cons y l ih =>
    rw [List.zipIdx_cons, List.foldl_cons]
    cases k with
    | zero =>
      obtain rfl : y = x := by simpa using hx
      simp only [Nat.add_zero]
      rw [foldl_keepNewer_before dst l (Nat.lt_add_one n), keepNewer_same]
    | succ k =>
      rw [show n + (k + 1) = n + 1 + k by omega, ih (by simpa using hx), keepNewer_other _ _ _ (by omega)]

theorem exec_heartbeatReceive {n : ℕ} {b : Beat} (h : s.beatNet[n]? = some b) : exec (.heartbeatReceive n) s =
    .next { s with beatNet := s.beatNet.eraseIdx n, beats := b.seqs.zipIdx.foldl (keepNewer b.dst) s.beats } := by
  show execHeartbeatReceive n s = _
  rw [execHeartbeatReceive, h]
  rfl

/-! ## Fences (R400, R401, R404) -/

theorem exec_dieSilent_idle (h : 8 ≤ die ∨ s.pkg.live.getLsbD die = false ∨ (look s.pkg.fencing die).isSome = true ∨ s.silent die = false) :
    exec (.dieSilent die) s = .next s :=
  if_pos (by simpa using h)

theorem exec_dieSilent_fences {d : ℕ} (hd : die < 8) (hl : s.pkg.live.getLsbD die = true) (hf : look s.pkg.fencing die = none) (hs : s.silent die = true)
    (hm : (List.range 8).find? (fun d => d ≠ die && s.pkg.live.getLsbD d && !s.silent d) = some d) :
    exec (.dieSilent die) s = .next { s with pkg := { s.pkg with
      master := if s.pkg.live.getLsbD s.pkg.master && !s.silent s.pkg.master then s.pkg.master else d
      fencing := put s.pkg.fencing die (s.clock 8 + 100 * Config.cyclesPerUs) } } := by
  show execDieSilent die s = _
  rw [execDieSilent, if_neg (by simp [hl, hf, hs]; omega), hm]

theorem exec_fenceAcknowledge {til : ℕ} (h : look s.pkg.fencing die = some til) :
    exec (.fenceAcknowledge die) s = .next ((s.completeFence die (decide (til < s.clock 8))).settleDue 64) := by
  show execFenceAcknowledge die s = _
  rw [execFenceAcknowledge, h]

theorem exec_fenceTimeout {til : ℕ} (h : look s.pkg.fencing die = some til) :
    exec (.fenceTimeout die) s = .next (if s.clock 8 < til then s else (s.completeFence die true).settleDue 64) := by
  show execFenceTimeout die s = _
  rw [execFenceTimeout, h]
  exact (apply_ite Host.Outcome.next _ _ _).symm

theorem exec_fence_none (h : look s.pkg.fencing die = none) :
    exec (.fenceAcknowledge die) s = .next s ∧ exec (.fenceTimeout die) s = .next s := by
  constructor
  · show execFenceAcknowledge die s = _
    rw [execFenceAcknowledge, h]
  · show execFenceTimeout die s = _
    rw [execFenceTimeout, h]

theorem completeFence_pkg (s : State) (d : ℕ) : (s.completeFence d false).pkg = { s.pkg with
    live := setBit s.pkg.live d false, fenced := setBit s.pkg.fenced d true, fencing := del s.pkg.fencing d
    master := lowestLive (setBit s.pkg.live d false) } := by
  unfold State.completeFence
  simp

/-! ## RESET_DIE (R405) -/

theorem exec_resetDie_bad (h : s.hostCmd 8 = true) (hb : 8 ≤ s.cmdArg 0 ∨ s.pkg.fenced.getLsbD (s.cmdArg 0) = false) :
    exec .resetDie s = .next (s.endHostCmd 1) :=
  have hh : ¬ (!s.hostCmd 8) = true := by simp [h]
  have hb' : 8 ≤ s.cmdArg 0 ∨ (!s.pkg.fenced.getLsbD (s.cmdArg 0)) = true := by simpa using hb
  (if_neg hh).trans (if_pos hb')

section

variable (h : s.hostCmd 8 = true) (hd : s.cmdArg 0 < 8) (hf : s.pkg.fenced.getLsbD (s.cmdArg 0) = true)
include h hd hf

theorem exec_resetDie_fails (hp : Config.diePasses s.fresh = false) :
    exec .resetDie s = .next (State.endHostCmd { s with fresh := s.fresh + 1 } 0) :=
  have hh : ¬ (!s.hostCmd 8) = true := by simp [h]
  have hb : ¬ (8 ≤ s.cmdArg 0 ∨ (!s.pkg.fenced.getLsbD (s.cmdArg 0)) = true) := by simp [hf, hd]
  have hp' : (!Config.diePasses s.fresh) = true := by simp [hp]
  (if_neg hh).trans ((if_neg hb).trans (if_pos hp'))

/-- A die whose compute domain passes power-up is live again. -/
theorem exec_resetDie_passes (hp : Config.diePasses s.fresh = true) :
    ∃ t, exec .resetDie s = .next t ∧ t.pkg.cmdOp = none ∧ t.mem = s.mem ∧ t.grids = s.grids ∧
      t.pkg.live = setBit s.pkg.live (s.cmdArg 0) true ∧ t.pkg.fenced = setBit s.pkg.fenced (s.cmdArg 0) false ∧
      t.pkg.shlost = setBit s.pkg.shlost (s.cmdArg 0) (s.pkg.shlost.getLsbD (s.cmdArg 0) && !Config.shellWorks s.fresh) ∧
      t.csrs = cut s.csrs (4096 * 128 * s.cmdArg 0) (4096 * 128 * (s.cmdArg 0 + 1)) :=
  have hh : ¬ (!s.hostCmd 8) = true := by simp [h]
  have hb : ¬ (8 ≤ s.cmdArg 0 ∨ (!s.pkg.fenced.getLsbD (s.cmdArg 0)) = true) := by simp [hf, hd]
  have hp' : ¬ (!Config.diePasses s.fresh) = true := by simp [hp]
  ⟨_, (if_neg hh).trans ((if_neg hb).trans (if_neg hp')), rfl, rfl, rfl, rfl, rfl, rfl, rfl⟩

end

end

/-- Settles O58: each event by its outcome; what a fence and a lost shell leave of the package's registers by the frames of stops and releases. -/
theorem linksAndFences : Obligations.LinksAndFences := by
  unfold Obligations.LinksAndFences
  refine ⟨?flit, ?schedule, ?beatSend, ?beatReceive, ?silent, ?fence, ?noFence, ?fenced, ?shell, ?reset⟩
  case flit =>
    intro src dst cls good s hs hd hne hr times
    refine ⟨?_, exec_flitReceive_bad hs hd hne hr⟩
    rintro rfl hl
    exact exec_flitReceive_good hl
  case schedule =>
    intro die s hd
    exact if_neg (Nat.not_le.2 hd)
  case beatSend =>
    intro die s hd hl u
    exact ⟨exec_heartbeatSend_early, exec_heartbeatSend_due hd hl⟩
  case beatReceive =>
    intro n b s h _
    refine ⟨_, exec_heartbeatReceive h, rfl, fun d x _ hx => ?_⟩
    have := foldl_keepNewer b.dst hx 0 s.beats
    rwa [Nat.zero_add] at this
  case silent =>
    intro die s
    exact ⟨exec_dieSilent_idle, fun d hd hl hf hs hm => exec_dieSilent_fences hd hl hf hs hm⟩
  case fence =>
    intro die til s h
    rw [exec_fenceTimeout h]
    exact ⟨exec_fenceAcknowledge h, fun hlt => by rw [if_pos hlt], fun hge => by rw [if_neg (Nat.not_lt.2 hge)]⟩
  case noFence =>
    intro die s h
    exact exec_fence_none h
  case fenced =>
    intro die s hd
    rw [completeFence_pkg]
    exact ⟨getLsbD_setBit_self _ hd _, getLsbD_setBit_self _ hd _, rfl⟩
  case shell =>
    intro die s hd
    refine ⟨fun h => if_pos (.inr h), fun h => ⟨if_neg ?_, ?_, ?_⟩⟩
    · simp [h]
      omega
    · rw [State.loseShell_pkg]
      exact getLsbD_setBit_self _ hd _
    · rw [State.loseShell_pkg]
  case reset =>
    intro s h
    refine ⟨exec_resetDie_bad h, fun hd hf => ?_⟩
    cases hp : Config.diePasses s.fresh with
    | false => exact ⟨_, exec_resetDie_fails h hd hf hp, rfl, rfl, rfl, by simp [State.endHostCmd], by simp [State.endHostCmd, hf], by simp [State.endHostCmd], nofun⟩
    | true =>
      obtain ⟨t, ht, hop, hmem, hgrids, hlive, hfenced, hshlost, hcsrs⟩ := exec_resetDie_passes h hd hf hp
      refine ⟨t, ht, hop, hmem, hgrids, ?_, ?_, ?_, fun _ k n hk hn => ?_⟩
      · rw [hlive, getLsbD_setBit_self _ hd]
        rfl
      · rw [hfenced, getLsbD_setBit_self _ hd]
        rfl
      · rw [hshlost, getLsbD_setBit_self _ hd]
        rfl
      · rw [State.csr, hcsrs, lookD_cut, if_pos (by omega)]

end Sys2Proof.Machine
end

section
/-! SUPPORT. Power (R304, R419, R420, R422 to R424, R426): images that run, what losing the compute domains leaves, sensors read core by core. -/

namespace Sys2Proof.Machine

section

variable {s : State}

/-! ## Power-up (R419, R423, R424) -/

theorem runImage_good {kind : ℕ} {im : List (List Byte)} (h : s.imageOk (s.storeImage kind im) = true) : s.runImage kind im =
    ({ s with pkg := { s.pkg with
      meas := put s.pkg.meas kind (imageDigest (s.storeImage kind im)), ranSvn := Config.svnOver s.pkg.ranSvn (s.storeImage kind im) } }, true) := by
  rw [State.runImage]
  exact if_pos h

theorem runImage_bad {kind : ℕ} {im : List (List Byte)} (h : s.imageOk (s.storeImage kind im) = false) :
    s.runImage kind im = ({ s with pkg := { s.pkg with recovery := true } }, false) := by
  rw [State.runImage]
  exact if_neg (by rw [h]; exact Bool.false_ne_true)

theorem exec_powerUpStep_held {pass : BitVec 8} {im : List (List (BitVec 8))} (h : s.pkg.recovery = true ∨ s.pkg.alarm = true) :
    exec (.powerUpStep pass im) s = .next s := if_pos h

theorem coresReset_clock (s : State) {d : ℕ} (hd : d < 8) : s.coresReset.clock d = 0 := by
  have h := foldl_established (P := fun t : Tab ℕ => lookD 0 t d = 0) (g := fun t d => put t d 0) (fun t => by simp [lookD_put])
    (fun t e ht => by rw [lookD_put]; split <;> [rfl; exact ht]) (List.mem_range.2 hd) s.clocks
  exact h

/-! ## Power states (R420) -/

/-- The package's registers and what the compute domains hold of forms, translations, segments and links. -/
def State.domains (s : State) : Pkg × List Form × List (ℕ × TlbEnt) × Tab SegCopy × List (ℕ × ℕ × ℕ × ℕ × ℕ) := (s.pkg, s.forms, s.tlb, s.segs, s.links)

@[simp] theorem takeInjection_domains (s : State) (a p n m : ℕ) : (s.takeInjection a p n m).domains = s.domains := by
  have hl : ∀ t : State, t.pkg = s.pkg → t.tlb = s.tlb → t.segs = s.segs → t.forms = s.forms → t.links = s.links → t.domains = s.domains := by
    intro t h1 h2 h3 h4 h5
    rw [State.domains, h1, h2, h3, h4, h5, State.domains]
  refine hl _ (by simp) (by simp) (by simp) ?_ ?_
  all_goals
    unfold State.takeInjection
    dsimp only
    repeat' split
    all_goals rfl

@[simp] theorem setRefs_domains (s : State) (e refs : ℕ) : (s.setRefs e refs).domains = s.domains :=
  takeInjection_domains ..

theorem writeN_domains (s : State) (p : Place) (n v : ℕ) : (s.writeN p n v).domains = s.domains := by
  unfold State.writeN State.writePlace
  extract_lets m ts t
  split
  · rfl
  · split
    · rfl
    · rw [takeInjection_domains]
      rfl

theorem flushRecl_domains (ctx : ℕ) (rs : List (ℕ × BitVec 256)) (s : State) : (State.flushRecl ctx rs s).domains = s.domains := by
  induction rs generalizing s with
  | nil => rfl
  | cons r rs ih =>
    unfold State.flushRecl
    split
    · rfl
    · rw [ih]
      simpa [State.domains] using writeN_domains s _ 32 r.2.toNat

@[simp] theorem reclaim_domains (s : State) (e : ℕ) : (s.reclaim e).domains = s.domains := by
  unfold State.reclaim
  dsimp only
  split
  · rfl
  · unfold State.drainRecl
    split
    · rw [flushRecl_domains]
      rfl
    · rfl

/-- Giving up the link resolutions leaves the rest of what the domains hold. -/
theorem dropLinks_domains (s : State) : s.dropLinks.domains = (s.pkg, s.forms, s.tlb, s.segs, []) := by
  unfold State.dropLinks
  exact foldl_keeps State.domains (fun s e => by rw [reclaim_domains, setRefs_domains]) _ _

/-- A deep state whose condition has held long enough: the domains lose what they hold. -/
theorem enterDeep_due {pst us : ℕ} (hi : s.pkg.idle ≠ 0) (h : s.pkg.idle + us * Config.cyclesPerUs ≤ s.clock 8 + 1) :
    s.enterDeep pst us = { s with pkg := { s.pkg with pst := pst }, forms := [], tlb := [], segs := [] } := by
  rw [State.enterDeep, if_neg hi]
  exact if_pos h

theorem enterDeep_lost {pst us : ℕ} (hi : s.pkg.idle ≠ 0) (h : s.pkg.idle + us * Config.cyclesPerUs ≤ s.clock 8 + 1) :
    (s.enterDeep pst us).dropLinks.domains = ({ s.pkg with pst := pst }, [], [], [], []) := by
  rw [dropLinks_domains, enterDeep_due hi h]

/-! ## Sensors (R304, R422) -/

@[simp] theorem coreRead_pkg (s : State) (core temp : ℕ) : (s.coreRead core temp).pkg = s.pkg := rfl

@[simp] theorem coreRead_clocks (s : State) (core temp : ℕ) : (s.coreRead core temp).clocks = s.clocks := rfl

theorem coreRead_temp (s : State) (core temp j : ℕ) : lookD 0 (s.coreRead core temp).temps j = if j = core then temp else lookD 0 s.temps j :=
  lookD_put ..

/-- Whether a reading of heat avoids a core that was avoided for heat or not. -/
def heatOf (temp was : ℕ) : ℕ := if 98 ≤ temp then 1 else if temp ≤ 92 then 0 else was

theorem coreRead_avoid (s : State) (core temp j : ℕ) : lookD 0 (s.coreRead core temp).avoid j =
    if j = core then lookD 0 s.avoid core / 2 * 2 + heatOf temp (lookD 0 s.avoid core % 2) else lookD 0 s.avoid j :=
  lookD_putD ..

theorem coreRead_avoided_hot (s : State) (core : ℕ) {temp : ℕ} (h : 98 ≤ temp) : (s.coreRead core temp).avoided core = true := by
  simp [State.avoided, coreRead_avoid, heatOf, h]

theorem coreRead_avoided_cool (s : State) {core temp : ℕ} (h : temp ≤ 92) (ha : lookD 0 s.avoid core < 2) :
    (s.coreRead core temp).avoided core = false := by
  have hn : ¬ 98 ≤ temp := by omega
  simp [State.avoided, coreRead_avoid, heatOf, h, hn, Nat.div_eq_of_lt ha]

theorem coreRead_avoided_between (s : State) (core : ℕ) {temp : ℕ} (h1 : 92 < temp) (h2 : temp < 98) :
    (s.coreRead core temp).avoided core = s.avoided core := by
  have hn : ¬ 98 ≤ temp := by omega
  have hm : ¬ temp ≤ 92 := by omega
  simp only [State.avoided, coreRead_avoid, heatOf, hn, hm, if_true, if_false, Nat.div_add_mod']

@[simp] theorem coresRead_pkg (s : State) (die : ℕ) (temps : List ℕ) : (s.coresRead die temps).pkg = s.pkg :=
  foldl_keeps State.pkg (fun s (e : ℕ × ℕ) => coreRead_pkg s (128 * die + e.2) e.1) _ _

@[simp] theorem coresRead_clock (s : State) (die : ℕ) (temps : List ℕ) (d : ℕ) : (s.coresRead die temps).clock d = s.clock d :=
  congrArg (lookD 0 · d) (foldl_keeps State.clocks (fun s (e : ℕ × ℕ) => coreRead_clocks s (128 * die + e.2) e.1) _ _)

/-- Readings of later cores leave what a core's reading set. -/
theorem foldl_coreRead_before {l : List ℕ} {n base core : ℕ} (h : core < base + n) (s : State) :
    let t := (l.zipIdx n).foldl (fun (s : State) e => s.coreRead (base + e.2) e.1) s
    lookD 0 t.temps core = lookD 0 s.temps core ∧ lookD 0 t.avoid core = lookD 0 s.avoid core := by
  induction l generalizing n s with
  | nil => exact ⟨rfl, rfl⟩
  | cons y l ih =>
    obtain ⟨ht, ha⟩ := ih (n := n + 1) (by omega) (s.coreRead (base + n) y)
    rw [coreRead_temp, if_neg (by omega)] at ht
    rw [coreRead_avoid, if_neg (by omega)] at ha
    exact ⟨ht, ha⟩

theorem foldl_coreRead {l : List ℕ} {k x : ℕ} (hx : l[k]? = some x) (n base : ℕ) (s : State) :
    let t := (l.zipIdx n).foldl (fun (s : State) e => s.coreRead (base + e.2) e.1) s
    lookD 0 t.temps (base + (n + k)) = x ∧ (98 ≤ x → t.avoided (base + (n + k)) = true) := by
  induction l generalizing k n s with
  | nil => simp at hx
  | cons y l ih =>
    cases k with
    | zero =>
      obtain rfl : y = x := by simpa using hx
      obtain ⟨ht, ha⟩ := foldl_coreRead_before (l := l) (n := n + 1) (base := base) (core := base + n) (by omega) (s.coreRead (base + n) y)
      refine ⟨ht.trans (by rw [coreRead_temp, if_pos rfl]), fun h => ?_⟩
      have := coreRead_avoided_hot s (base + n) h
      unfold State.avoided at this ⊢
      exact (congrArg (fun a => decide (a ≠ 0)) ha).trans this
    | succ k =>
      have := ih (by simpa using hx) (n + 1) (s.coreRead (base + n) y)
      rwa [show n + 1 + k = n + (k + 1) by omega] at this

theorem coresRead_core {die i x : ℕ} {temps : List ℕ} (hi : i < Config.coresOf die) (hx : temps[i]? = some x) :
    lookD 0 (s.coresRead die temps).temps (128 * die + i) = x ∧ (98 ≤ x → (s.coresRead die temps).avoided (128 * die + i) = true) := by
  have h := foldl_coreRead (l := temps.take (Config.coresOf die)) (k := i) (x := x) (by rw [List.getElem?_take_of_lt hi, hx]) 0 (128 * die) s
  rwa [Nat.zero_add] at h

/-- The hottest core is as hot as its bound exactly when every core is. -/
theorem dieTemp_le {die n : ℕ} : s.dieTemp die ≤ n ↔ ∀ e ∈ slice s.temps (128 * die) (128 * die + 128), e.2 ≤ n := by
  have h (l : Tab ℕ) (m : ℕ) : l.foldl (fun m e => max m e.2) m ≤ n ↔ m ≤ n ∧ ∀ e ∈ l, e.2 ≤ n := by
    induction l generalizing m with
    | nil => simp
    | cons e l ih => rw [List.foldl_cons, ih, Nat.max_le, List.forall_mem_cons, and_assoc]
  rw [State.dieTemp, h]
  simp

end

end Sys2Proof.Machine
end

section
/-! PROOF. Power-on, power-up, idle states, throttling, avoidance and alarms (R304, R419, R420, R422 to R424, R426, R427), and obligation O59. -/

namespace Sys2Proof.Machine

section

variable {s : State}

/-- R419, R423, R424: one step of power-up from each state of it. -/
theorem powerUpStep_steps (pass : BitVec 8) (im : List (List (BitVec 8))) (hr : s.pkg.recovery = false) (ha : s.pkg.alarm = false) :
    ∃ t, exec (.powerUpStep pass im) s = .next t ∧
    (s.pkg.boot = 0 → t.pkg.boot = 1 ∧ t.pkg.ranSvn = s.pkg.svn) ∧
    (s.pkg.boot = 1 → (s.imageOk (s.storeImage 2 im) = true → t.pkg.boot = 2 ∧ look t.pkg.meas 2 = some (imageDigest (s.storeImage 2 im))) ∧
      (s.imageOk (s.storeImage 2 im) = false → t.pkg.boot = 1 ∧ t.pkg.recovery = true)) ∧
    (s.pkg.boot = 2 → t.pkg.boot = 3 ∧ t.pkg.bootPass = s.pkg.bootPass &&& pass ∧ t.pkg.shlost = s.pkg.shlost ||| ~~~pass ∧ t.pkg.fenced = s.pkg.fenced ||| ~~~pass) ∧
    (s.pkg.boot = 3 → s.imageOk (s.storeImage 3 im) = true → t.pkg.boot = 4 ∧ t.pkg.shlost = s.pkg.shlost ||| ~~~pass ∧ t.pkg.hmap = ~~~t.pkg.shlost) ∧
    (s.pkg.boot = 4 → s.imageOk (s.storeImage 4 im) = true → s.imageOk (s.storeImage 5 im) = true → t.pkg.boot = 5 ∧ t.pkg.bootPass = s.pkg.bootPass &&& pass ∧
      ∀ d, d < 8 → t.clock d = 0) ∧
    (s.pkg.boot = 5 → t.pkg.boot = 6 ∧ t.pkg.ready = true ∧ t.pkg.live = s.pkg.bootPass) ∧
    (6 ≤ s.pkg.boot → t = s) := by
  have hgo : ¬ (s.pkg.recovery = true ∨ s.pkg.alarm = true) := by simp [hr, ha]
  simp only [show exec (.powerUpStep pass im) s = execPowerUpStep pass im s from rfl, execPowerUpStep, if_neg hgo]
  match hb : s.pkg.boot with
  | 0 => exact ⟨_, rfl, fun _ => ⟨rfl, rfl⟩, nofun, nofun, nofun, nofun, nofun, nofun⟩
  | 1 =>
    cases hok : s.imageOk (s.storeImage 2 im) with
    | false =>
      rw [runImage_bad hok]
      exact ⟨_, rfl, nofun, fun _ => ⟨nofun, fun _ => ⟨hb, rfl⟩⟩, nofun, nofun, nofun, nofun, nofun⟩
    | true =>
      rw [runImage_good hok]
      exact ⟨_, rfl, nofun, fun _ => ⟨fun _ => ⟨rfl, look_put_same ..⟩, nofun⟩, nofun, nofun, nofun, nofun, nofun⟩
  | 2 => exact ⟨_, rfl, nofun, nofun, fun _ => ⟨rfl, by simp [State.booted, State.failDies], rfl, rfl⟩, nofun, nofun, nofun, nofun⟩
  | 3 =>
    cases hok : s.imageOk (s.storeImage 3 im) with
    | false =>
      rw [runImage_bad hok]
      exact ⟨_, rfl, nofun, nofun, nofun, nofun, nofun, nofun, nofun⟩
    | true =>
      rw [runImage_good hok]
      exact ⟨_, rfl, nofun, nofun, nofun, fun _ _ => ⟨rfl, rfl, rfl⟩, nofun, nofun, nofun⟩
  | 4 =>
    cases hok : s.imageOk (s.storeImage 4 im) with
    | false =>
      rw [runImage_bad hok]
      exact ⟨_, rfl, nofun, nofun, nofun, nofun, nofun, nofun, nofun⟩
    | true =>
      rw [runImage_good hok]
      let u : State := { s with pkg := { s.pkg with
        meas := put s.pkg.meas 4 (imageDigest (s.storeImage 4 im)), ranSvn := Config.svnOver s.pkg.ranSvn (s.storeImage 4 im) } }
      cases hok5 : s.imageOk (s.storeImage 5 im) with
      | false =>
        rw [show State.runImage _ 5 im = _ from runImage_bad (s := u) hok5]
        exact ⟨_, rfl, nofun, nofun, nofun, nofun, nofun, nofun, nofun⟩
      | true =>
        rw [show State.runImage _ 5 im = _ from runImage_good (s := u) hok5]
        refine ⟨_, rfl, nofun, nofun, nofun, nofun, fun _ _ _ => ⟨rfl, ?_, fun d hd => coresReset_clock _ hd⟩, nofun, nofun⟩
        simp [State.booted, State.failDies, State.coresReset, u]
  | 5 => exact ⟨_, rfl, nofun, nofun, nofun, nofun, nofun, fun _ => ⟨rfl, rfl, rfl⟩, nofun⟩
  | n + 6 => exact ⟨_, rfl, nofun, nofun, nofun, nofun, nofun, nofun, fun _ => rfl⟩

/-! ## Throttling (R422) -/

theorem stepSoon_true {die a : ℕ} (h : look s.pkg.stepAt die = some a) (hc : s.clock 8 < a + 1000 * Config.cyclesPerUs) : s.stepSoon die = true := by
  rw [State.stepSoon, h]
  exact decide_eq_true hc

theorem stepSoon_false {die : ℕ} (h : ∀ a, look s.pkg.stepAt die = some a → a + 1000 * Config.cyclesPerUs ≤ s.clock 8) : s.stepSoon die = false := by
  unfold State.stepSoon
  split
  case h_1 a ha => exact decide_eq_false (Nat.not_lt.2 (h a ha))
  case h_2 => rfl

section

variable {die power : ℕ} {temps : List ℕ} (hd : die < 8) (hs : s.stepSoon die = false)
include hd hs

theorem exec_throttleStep_alarm {i x : ℕ} (hi : i < Config.coresOf die) (hx : temps[i]? = some x) (h : 115 ≤ x) :
    exec (.throttleStep die temps power) s = .next ((s.coresRead die temps).raiseAlarm 8) := by
  have hmem : x ∈ temps.take (Config.coresOf die) := List.mem_of_getElem? (i := i) (by rw [List.getElem?_take_of_lt hi, hx])
  have h1 : ¬ (8 ≤ die ∨ s.stepSoon die = true) := by simp [hs, hd]
  exact (if_neg h1).trans (if_pos (List.any_eq_true.2 ⟨x, hmem, decide_eq_true h⟩))

theorem exec_throttleStep_steps (h : ∀ x ∈ temps, x < 115) :
    let u := s.coresRead die temps
    let f := u.nextFreq die power
    exec (.throttleStep die temps power) s = .next { u with pkg := { u.pkg with
      freq := putD 16 u.pkg.freq die f, thr := setBit u.pkg.thr die (decide (f < 16)), power := power, stepAt := put u.pkg.stepAt die (u.clock 8)
      hotDies := setBit u.pkg.hotDies die (u.tooHot die), heatDies := setBit u.pkg.heatDies die (u.heated die && decide (f < 16))
      capDies := setBit u.pkg.capDies die (u.capped die power) } } := by
  have h1 : ¬ (8 ≤ die ∨ s.stepSoon die = true) := by simp [hs, hd]
  have h2 : ¬ ((temps.take (Config.coresOf die)).any fun t => decide (115 ≤ t)) = true := by
    rw [List.any_eq_true]
    rintro ⟨x, hx, hh⟩
    exact absurd (h x (List.mem_of_mem_take hx)) (Nat.not_lt.2 (of_decide_eq_true hh))
  exact (if_neg h1).trans (if_neg h2)

end

end

/-- Settles O59: each event by its branches; readings core by core, and what losing the compute domains leaves, by the lemmas above. -/
theorem powerEvents : Obligations.PowerEvents := by
  unfold Obligations.PowerEvents
  refine ⟨?powerOn, ?held, ?steps, ?s1, ?s2, ?s3, ?wakes, ?throttle, ?hottest, ?dram, ?avoidance, ?droop, ?expire, ?alarm⟩
  case powerOn => exact fun s => ⟨_, rfl, rfl, rfl, rfl, rfl, rfl, rfl, rfl, rfl, rfl⟩
  case held => exact fun pass im s h => exec_powerUpStep_held h
  case steps => exact fun pass im s hr ha => powerUpStep_steps pass im hr ha
  case s1 =>
    intro die s hd hl
    refine ⟨fun ⟨b, hb, he⟩ => if_pos (.inr (.inr (List.any_eq_true.2 ⟨b, hb, by simpa using he⟩))), fun hno => ?_⟩
    have hgo : ¬ (8 ≤ die ∨ (!s.pkg.live.getLsbD die) = true ∨ (s.blocks.any fun b => b.1 / 4096 == die) = true) := by simpa [hl, hd] using hno
    have he : exec (.s1Entry die) s = execS1Entry die s := rfl
    rw [he, execS1Entry, if_neg hgo]
    refine ⟨fun ha => by rw [ha], fun a ha h10 hw => ?_⟩
    rw [ha]
    exact if_pos ⟨h10, hw⟩
  case s2 =>
    intro s
    refine ⟨fun h => if_pos ?_, fun hr hw hp hidle hi hc => ⟨(s.enterDeep 2 1000).dropLinks, ?_, ?_⟩⟩
    · rcases h with h | h
      · exact .inl (by rw [h]; rfl)
      · exact .inr (.inl h)
    · have h1 : ¬ ((!s.pkg.ready) = true ∨ s.pkg.waketol < 350 ∨ 2 ≤ s.pkg.pst) := by simp [hr]; omega
      have h2 : ¬ (!s.idleAll) = true := by simp [hidle]
      have h3 : (s.enterDeep 2 1000).pkg.pst = 2 := by rw [enterDeep_due hi hc]
      exact (if_neg h1).trans ((if_neg h2).trans (congrArg Host.Outcome.next (if_pos h3)))
    · have hl := enterDeep_lost (pst := 2) hi hc
      simp only [State.domains, Prod.mk.injEq] at hl
      obtain ⟨hpkg, hforms, htlb, hsegs, hlinks⟩ := hl
      exact ⟨by rw [hpkg], hforms, htlb, hsegs, hlinks⟩
  case s3 =>
    intro s
    refine ⟨fun h => if_pos ?_, fun hr hw hp hk hcolls hb hidle hi hc => ⟨(s.enterDeep 3 100000).dropLinks, ?_, ?_⟩⟩
    · rcases h with h | h | h | h | h
      · exact .inl (by rw [h]; rfl)
      · exact .inr (.inl h)
      · exact .inr (.inr (.inr (.inl h)))
      · exact .inr (.inr (.inr (.inr (.inl h))))
      · exact .inr (.inr (.inr (.inr (.inr h))))
    · have h1 : ¬ ((!s.pkg.ready) = true ∨ s.pkg.waketol < 2000 ∨ s.pkg.pst = 3 ∨ s.ckpt.isSome = true ∨ s.colls ≠ [] ∨ s.pkg.spdmBusy ≠ []) := by
        simp [hr, hp, hk, hcolls, hb]
        omega
      have h2 : ¬ (!s.idleAll) = true := by simp [hidle]
      have h3 : (s.enterDeep 3 100000).pkg.pst = 3 := by rw [enterDeep_due hi hc]
      exact (if_neg h1).trans ((if_neg h2).trans (congrArg Host.Outcome.next (if_pos h3)))
    · have hl := congrArg Prod.fst (enterDeep_lost (pst := 3) hi hc)
      exact congrArg Pkg.pst hl
  case wakes =>
    intro s
    show execWakeEvent s = _
    rw [execWakeEvent]
    by_cases hp : 2 ≤ s.pkg.pst
    · cases s.idleAll <;> simp [State.wake, hp, Nat.not_lt.2 hp]
    · rw [if_neg fun h => hp h.1, if_neg fun h => hp h.1]
  case throttle =>
    intro die power temps s hd f u temp hot slow
    refine ⟨fun a ha hc => if_pos (.inr (stepSoon_true ha hc)), fun i x hi hx => coresRead_core hi hx,
      fun hs i x hi hx h => exec_throttleStep_alarm hd (stepSoon_false hs) hi hx h, fun hs h => ⟨_, exec_throttleStep_steps hd (stepSoon_false hs) h, ?_⟩⟩
    have hu : u.pkg = s.pkg := coresRead_pkg ..
    have hhot : u.tooHot die = hot := by simp only [State.tooHot, hu, hot, temp]
    have hslow : u.capped die power = slow := by simp only [State.capped, hu, slow]
    have hheat : u.heated die = (hot || s.pkg.heatDies.getLsbD die) := by rw [State.heated, hhot, hu]
    have hf : u.nextFreq die power = if hot = true ∨ s.pkg.pcap < power then max 8 (f - 1)
        else if ((hot || s.pkg.heatDies.getLsbD die) = true → temp ≤ 103) ∧ slow = false then min 16 (f + 1) else f := by
      simp only [State.nextFreq, hhot, hheat, hslow, hu, f, temp]
    have hfreq : lookD 16 (putD 16 u.pkg.freq die (u.nextFreq die power)) die = u.nextFreq die power := by rw [lookD_putD, if_pos rfl]
    refine ⟨?_, hfreq.trans hf, (getLsbD_setBit_self _ hd _).trans hhot, (getLsbD_setBit_self _ hd _).trans hslow, ?_, ?_⟩
    · exact (look_put_same ..).trans (congrArg some (coresRead_clock ..))
    · exact (getLsbD_setBit_self _ hd _).trans (by rw [hheat]; dsimp only; rw [hfreq])
    · exact (getLsbD_setBit_self _ hd _).trans (by dsimp only; rw [hfreq])
  case hottest => exact fun die n s => dieTemp_le
  case dram =>
    intro die layer temp s hd hl t
    exact if_neg (by omega)
  case avoidance =>
    intro c temp s
    refine ⟨_, rfl, fun h => ?_, fun h => ?_⟩
    · rw [if_pos h]
      exact ⟨rfl, by simp [State.raiseAlarm, State.afterPower], rfl⟩
    · rw [if_neg (Nat.not_le.2 h)]
      exact ⟨by rw [coreRead_temp, if_pos rfl], coreRead_avoided_hot s _, coreRead_avoided_cool s, coreRead_avoided_between s _⟩
  case droop =>
    intro c s ds
    by_cases h : 4 ≤ ds.length ∨ 2 ≤ lookD 0 s.avoid (CoreId.key c)
    · refine ⟨_, if_pos h, look_put_same .., fun _ => ?_, fun h1 h2 => ?_⟩
      · rw [lookD_put, if_pos rfl]
        omega
      · omega
    · exact ⟨_, if_neg h, look_put_same .., fun h' => absurd h' h, fun _ _ => rfl⟩
  case expire =>
    intro c s h
    refine ⟨fun hc => if_pos (.inr hc), fun hc => ⟨_, if_neg ?_, ?_⟩⟩
    · omega
    · exact (lookD_putD ..).trans (if_pos rfl)
  case alarm =>
    intro src s
    refine ⟨fun h => if_pos h, fun h => ⟨_, if_neg h, rfl, rfl, rfl, rfl, rfl, rfl, rfl⟩⟩

end Sys2Proof.Machine
end

section
/-! PROOF. Error log commands and memory errors (R406 to R412), and obligation O55. -/

namespace Sys2Proof.Machine

section

variable {s u : State} {c : CoreId} {x : Cmd}

/-! ## Commands of the log (R409, R411, R412) -/

/-- A command of the log that is taken was started by the core or by the host for its die, and leaves the list. -/
theorem errCmd_some {csr : ℕ} {p : Word → Bool} (h : s.errCmd c csr p = some (x, u)) :
    x ∈ s.cmds ∧ x.csr = csr ∧ p x.val = true ∧ (x.core = CoreId.key c ∨ x.core = 1024 + c.die) ∧ u = { s with cmds := s.cmds.erase x } := by
  unfold State.errCmd at h
  split at h
  case h_1 y hy =>
    split at h
    case isTrue hv =>
      obtain ⟨rfl, rfl⟩ := Prod.mk.inj (Option.some.inj h)
      have hp := List.find?_some hy
      simp only [Bool.and_eq_true, Bool.or_eq_true, beq_iff_eq] at hp
      exact ⟨List.mem_of_find?_eq_some hy, hp.1, hv, hp.2, rfl⟩
    case isFalse => cases h
  case h_2 => cases h

theorem errCmd_state {csr : ℕ} {p : Word → Bool} (h : s.errCmd c csr p = some (x, u)) : u = { s with cmds := s.cmds.erase x } :=
  (errCmd_some h).2.2.2.2

/-- ELD0 to ELD7 of a core with an entry's words. -/
def State.entryRead (u : State) (core : ℕ) (e : BitVec 256) : State :=
  (List.range 8).foldl (fun s i => s.setCsr core (0x382 + i) (e.extractLsb' (32 * i) 32)) u

theorem exec_errorLogRead (h : s.errCmd c 0x381 (· == 1) = some (x, u)) :
    exec (.errorLogRead c) s = .next ((u.entryRead x.core (lookD 0 u.errlog x.elSel)).releaseCmd x.floe) := by
  show execErrorLogRead c s = _
  rw [execErrorLogRead, h]
  rfl

theorem entryRead_cmds (u : State) (core : ℕ) (e : BitVec 256) : (u.entryRead core e).cmds = u.cmds :=
  foldl_keeps State.cmds (fun s i => State.setCsr_cmds s core (0x382 + i) _) _ _

theorem entryRead_errlog (u : State) (core : ℕ) (e : BitVec 256) : (u.entryRead core e).errlog = u.errlog :=
  foldl_keeps State.errlog (fun s i => State.setCsr_errlog s core (0x382 + i) _) _ _

theorem entryRead_csr (u : State) (core : ℕ) (e : BitVec 256) {i : ℕ} (hi : i < 8) :
    (u.entryRead core e).csr core (0x382 + i) = e.extractLsb' (32 * i) 32 := by
  have hr : List.range 8 = [0, 1, 2, 3, 4, 5, 6, 7] := rfl
  simp only [State.entryRead, hr, List.foldl_cons, List.foldl_nil, State.csr_setCsr]
  interval_cases i <;> simp

theorem exec_errorLogClear (h : s.errCmd c 0x381 (· == 2) = some (x, u)) :
    exec (.errorLogClear c) s = .next (State.releaseCmd { u with errlog := del u.errlog x.elSel } x.floe) := by
  show execErrorLogClear c s = _
  rw [execErrorLogClear, h]

theorem exec_errorLogOverflowRead (h : s.errCmd c 0x381 (· == 3) = some (x, u)) : exec (.errorLogOverflowRead c) s =
    .next ((u.setCsr x.core 0x382 (BitVec.ofNat 32 (lookD 0 u.errOver (16 * x.die + bits (x.arg 0) 3 0)))).releaseCmd x.floe) := by
  show execErrorLogOverflowRead c s = _
  rw [execErrorLogOverflowRead, h]

theorem exec_injectionArm (h : s.errCmd c 0x38D (fun v => v.getLsbD 0) = some (x, u)) :
    exec (.injectionArm c) s = .next ((u.setCsr x.core 0x38D (x.val &&& csrMask 0x38D)).releaseCmd x.floe) := by
  show execInjectionArm c s = _
  rw [execInjectionArm, h]

/-! ## Errors found (R406, R408, R412) -/

/-- The error that an event finds: as the injection at its word says, where one stands there. -/
def State.foundErr (s : State) (die core : ℕ) (a : BitVec 4) (addr : BitVec 64) (sy : ℕ) (inj ue : Bool) : ErrRec :=
  { die := die, core := if a.toNat ≤ 7 ∧ a.toNat ≠ 2 ∧ a.toNat ≠ 3 then core % 128 else 0, array := a.toNat
    addr := if a.toNat = 8 ∨ a.toNat = 9 then addr.toNat / 32 * 32 else addr.toNat, synd := sy
    ctx := s.ctxOwner a.toNat (errPlace a.toNat die core) addr.toNat, inj := inj, ue := ue }

/-- An injection that stands at the word of an error. -/
def armHere (die core : ℕ) (a : BitVec 4) (addr : BitVec 64) (r : Arm) : Bool :=
  r.array == a.toNat && r.core == errPlace a.toNat die core && wordMeets a.toNat r.addr addr.toNat 1

theorem exec_eccError {die core : ℕ} {a : BitVec 4} {addr : BitVec 64} {synd : BitVec 32} {ue : Bool} (ha : a.toNat < 12) (hd : die < 8)
    (hc : core < Config.coresOf die) : exec (.eccError die core a addr synd ue) s =
      let e := match s.latent.find? (armHere die core a addr) with
        | some r => s.foundErr die core a addr (Config.syndrome r.bit).toNat true (r.mode != 0)
        | none => s.foundErr die core a addr synd.toNat false (ue && a != 11)
      .next ((if e.ue then (s.logErr e).uncorrected e else s.logErr e).settleDue 64) := by
  have h1 : ¬ (12 ≤ a.toNat ∨ 8 ≤ die ∨ Config.coresOf die ≤ core) := by omega
  have h11 : (a.toNat != 11) = (a != 11) := by
    rw [Bool.eq_iff_iff, bne_iff_ne, bne_iff_ne, not_iff_not]
    exact ⟨fun h => BitVec.eq_of_toNat_eq h, fun h => by rw [h]; rfl⟩
  refine (if_neg h1).trans ?_
  rw [← h11]
  dsimp only
  cases hf : s.latent.find? (armHere die core a addr) with
  | none =>
    have hf' : (s.latent.find? fun r => r.array == a.toNat && r.core == errPlace a.toNat die core && wordMeets a.toNat r.addr addr.toNat 1) = none := hf
    simp only [hf']
    rfl
  | some r =>
    have hf' : (s.latent.find? fun r => r.array == a.toNat && r.core == errPlace a.toNat die core && wordMeets a.toNat r.addr addr.toNat 1) = some r := hf
    simp only [hf']
    rfl

/-- R410: an error that no entry of its array counts takes the lowest free entry (log 60). -/
theorem logErr_free {e : ErrRec} {k : ℕ} (hn : ∀ x ∈ s.elEntries e.die e.array, ¬ (bits x.2 191 128 = e.addr % 2 ^ 64 ∧ bits x.2 95 64 = e.synd % 2 ^ 32))
    (hk : ((List.range 64).map (elKey e.die e.array)).find? (fun k => (look s.errlog k).isNone) = some k) :
    s.logErr e = { s with errlog := put s.errlog k (e.entry (s.clock e.die) 1) } := by
  have hf : ((s.elEntries e.die e.array).find? fun x => bits x.2 191 128 == e.addr % 2 ^ 64 && bits x.2 95 64 == e.synd % 2 ^ 32) = none := by
    rw [List.find?_eq_none]
    intro x hx
    simpa using hn x hx
  rw [State.logErr]
  simp only [hf, hk]
  rfl

/-! ## Uncorrectable errors (R406, R408) -/

theorem uncorrected_owned {e : ErrRec} (ha : e.array ≤ 4 ∨ e.array = 6) : s.uncorrected e =
    match s.ownerOf e.array (errPlace e.array e.die e.core) e.addr with
    | some g => s.fatalStop g none
    | none => s.scrubWord e.array (errPlace e.array e.die e.core) e.addr := by
  rw [State.uncorrected]
  exact if_pos ha

theorem uncorrected_memory {e : ErrRec} (ha : e.array = 8 ∨ e.array = 9) : s.uncorrected e = { s with poison := put s.poison (e.addr / 32) true } := by
  have h1 : ¬ (e.array ≤ 4 ∨ e.array = 6) := by omega
  have h2 : ¬ e.array = 5 := by omega
  have h3 : ¬ e.array = 7 := by omega
  rw [State.uncorrected]
  exact (if_neg h1).trans ((if_neg h2).trans ((if_neg h3).trans (if_pos ha)))

theorem uncorrected_segment {e : ErrRec} (ha : e.array = 5) : s.uncorrected e =
    let t := s.clearWord 5 (errPlace e.array e.die e.core) e.addr
    match t.copyAt (errPlace e.array e.die e.core) e.addr with
    | some (i, y) => if y.stale then t else { t with segs := del t.segs i }
    | none => t := by
  have h1 : ¬ (e.array ≤ 4 ∨ e.array = 6) := by omega
  rw [State.uncorrected]
  exact (if_neg h1).trans (if_pos ha)

theorem uncorrected_tlb {e : ErrRec} (ha : e.array = 7) : s.uncorrected e =
    let t := s.clearWord 7 (errPlace e.array e.die e.core) e.addr
    match t.tlbAt (errPlace e.array e.die e.core) e.addr with
    | some y => { t with tlb := t.tlb.erase y }
    | none => t := by
  have h1 : ¬ (e.array ≤ 4 ∨ e.array = 6) := by omega
  have h2 : ¬ e.array = 5 := by omega
  rw [State.uncorrected]
  exact (if_neg h1).trans ((if_neg h2).trans (if_pos ha))

/-! ## Patrol reads (R407) -/

theorem logErr_keeps {β : Type} (p : State → β) (he : ∀ (s : State) t o, p { s with errlog := t, errOver := o } = p s) (s : State) (e : ErrRec) :
    p (s.logErr e) = p s := by
  unfold State.logErr
  dsimp only
  split
  · exact he s _ s.errOver
  · split
    · exact he s _ s.errOver
    · exact he s s.errlog _

theorem exec_patrolScrub {ch : ℕ} (h : ch < 512) : ∃ t, exec (.patrolScrub ch) s = .next t ∧ look t.patrol ch = some (s.clock (ch / 64)) ∧ t.mem = s.mem ∧
    t.latent = s.latent.filter fun r => !((r.array == 8 || r.array == 9) && s.homeChan r.addr == ch && r.mode == 0) := by
  have hk {β : Type} (p : State → β) (he : ∀ (s : State) t o, p { s with errlog := t, errOver := o } = p s) (l : List Arm) :
      p (l.foldl (fun (s : State) r => s.logErr (r.record none)) s) = p s := foldl_keeps p (fun s r => logErr_keeps p he s _) l s
  refine ⟨_, if_neg (Nat.not_le.2 h), ?_, hk State.mem (fun _ _ _ => rfl) _, ?_⟩
  · exact (look_put_same ..).trans (congrArg some (hk (State.clock · (ch / 64)) (fun _ _ _ => rfl) _))
  · exact congrArg (List.filter _) (hk State.latent (fun _ _ _ => rfl) _)

end

/-- Settles O55: each command by the one that is taken; an error found by the injection at its word; each array's uncorrectable error by its branch. -/
theorem errorEvents : Obligations.ErrorEvents := by
  unfold Obligations.ErrorEvents
  refine ⟨?read, ?clear, ?overflow, ?arm, fun s c csr p x u h => errCmd_some h, ?found, fun s e k hn hk => logErr_free hn hk, ?uncorrected, ?owner,
    fun ch s h => exec_patrolScrub h⟩
  case read =>
    intro c s u x h
    obtain rfl := errCmd_state h
    exact ⟨_, exec_errorLogRead h, fun n hn => entryRead_csr _ _ _ hn, entryRead_cmds .., entryRead_errlog ..⟩
  case clear =>
    intro c s u x h
    obtain rfl := errCmd_state h
    exact ⟨exec_errorLogClear h, look_del_same .., fun k hk => look_del_ne _ hk⟩
  case overflow =>
    intro c s u x h
    obtain rfl := errCmd_state h
    exact exec_errorLogOverflowRead h
  case arm =>
    intro c s u x h
    obtain rfl := errCmd_state h
    exact exec_injectionArm h
  case found =>
    intro die core a addr synd ue s ha hd hc e acts here
    refine ⟨fun hf => ?_, fun r hf => ?_⟩
    all_goals
      refine (exec_eccError ha hd hc).trans ?_
      rw [show s.latent.find? (armHere die core a addr) = _ from hf]
      rfl
  case uncorrected =>
    intro s e place
    refine ⟨fun g ha ho => ?_, fun ha ho => ?_, uncorrected_memory, fun ha => ⟨fun hc => ?_, fun i y hc => ?_⟩, fun ha => ⟨fun hc => ?_, fun y hc => ?_⟩⟩
    · rw [uncorrected_owned ha, show s.ownerOf e.array _ e.addr = _ from ho]
    · rw [uncorrected_owned ha, show s.ownerOf e.array _ e.addr = _ from ho]
    · rw [uncorrected_segment ha]
      dsimp only
      rw [show State.copyAt _ _ e.addr = _ from hc]
    · rw [uncorrected_segment ha]
      dsimp only
      rw [show State.copyAt _ _ e.addr = _ from hc]
    · rw [uncorrected_tlb ha]
      dsimp only
      rw [show State.tlbAt _ _ e.addr = _ from hc]
    · rw [uncorrected_tlb ha]
      dsimp only
      rw [show State.tlbAt _ _ e.addr = _ from hc]
  case owner =>
    intro s array place a g ha ho
    unfold State.ctxOwner
    split
    · omega
    · omega
    · omega
    · rw [ho]
      rfl

end Sys2Proof.Machine
end

section
/-! SUPPORT. The host's registers and the outside ports (R362, R397, R398, R404, R414 to R418): what an access writes and what it answers. -/

namespace Sys2Proof.Machine

section

variable {s : State}

/-! ## Memory and the messages sent, after a write at a place of device memory -/

theorem writePlace_mem (s : State) {p : Place} (hp : p.sys = false) (bs : List Byte) : (s.writePlace p bs).mem = setBs s.mem p.pa bs := by
  unfold State.writePlace
  extract_lets n ts u
  split
  case isTrue h =>
    obtain rfl : bs = [] := List.eq_nil_of_length_eq_zero h
    rfl
  case isFalse => simp [hp, u]

theorem writePlace_outbox (s : State) (p : Place) (bs : List Byte) : (s.writePlace p bs).outbox = s.outbox := by
  unfold State.writePlace
  extract_lets n ts u
  split
  · rfl
  · split
    · rfl
    · simp [u]

theorem syncWrite_mem (s : State) (l : Space) (sys : Bool) (a n : ℕ) (m : Mark) (w : Who) : (s.syncWrite l sys a n m w).mem = s.mem := by
  obtain ⟨x, h⟩ := syncWrite_eq s l sys a n m w
  rw [h]

theorem syncWrite_outbox (s : State) (l : Space) (sys : Bool) (a n : ℕ) (m : Mark) (w : Who) : (s.syncWrite l sys a n m w).outbox = s.outbox := by
  obtain ⟨x, h⟩ := syncWrite_eq s l sys a n m w
  rw [h]

/-- The bytes written at `a` and those around them. -/
theorem getB_setBs (m : List Host.Cell) (a : ℕ) (bs : List Byte) (i : ℕ) :
    getB (setBs m a bs) i = if a ≤ i ∧ i < a + bs.length then bs.getD (i - a) 0 else getB m i :=
  (memoryReadsWhatWasWritten m a).1 bs i

/-! ## Accesses from outside (R397, R398, R404, R416) -/

section

variable {pa n : ℕ} (d : List Byte) (b : Bool) (k : Option Msg)

theorem outside_read_unmapped (h : s.memTop < pa + n) : s.outside pa (.read n) b k = s.send (.readData (2 ^ (8 * n) - 1)) := if_pos h

theorem outside_read_lost (h : pa + n ≤ s.memTop) (hu : s.shellsUp pa n = false) : s.outside pa (.read n) b k = s :=
  (if_neg (Nat.not_lt.mpr h)).trans (if_pos (by rw [hu]; rfl))

theorem outside_read_poisoned (h : pa + n ≤ s.memTop) (hu : s.shellsUp pa n = true) (hp : s.poisoned ⟨pa, false⟩ n = true) :
    s.outside pa (.read n) b k = s.send .poisoned :=
  (if_neg (Nat.not_lt.mpr h)).trans ((if_neg (by rw [hu]; decide)).trans (if_pos hp))

theorem outside_read (h : pa + n ≤ s.memTop) (hu : s.shellsUp pa n = true) (hp : s.poisoned ⟨pa, false⟩ n = false) :
    s.outside pa (.read n) b k = s.send (.readData (getN s.mem pa n)) :=
  (if_neg (Nat.not_lt.mpr h)).trans ((if_neg (by rw [hu]; decide)).trans (if_neg (by rw [hp]; decide)))

theorem outside_write_unmapped {d : List Byte} {m : Msg} (h : s.memTop < pa + d.length) : s.outside pa (.write d) b (some m) = s.send m := if_pos h

theorem outside_write_lost {d : List Byte} (h : pa + d.length ≤ s.memTop) (hu : s.shellsUp pa d.length = false) : s.outside pa (.write d) b k = s :=
  (if_neg (Nat.not_lt.mpr h)).trans (if_pos (by rw [hu]; rfl))

theorem outside_write_acked {d : List Byte} {m : Msg} (h : pa + d.length ≤ s.memTop) (hu : s.shellsUp pa d.length = true) :
    s.outside pa (.write d) b (some m) = ((s.writePlace ⟨pa, false⟩ d).syncWrite .glob false pa d.length {} {}).send m :=
  (if_neg (Nat.not_lt.mpr h)).trans (if_neg (by rw [hu]; decide))

theorem outside_write_posted {d : List Byte} (h : pa + d.length ≤ s.memTop) (hu : s.shellsUp pa d.length = true) :
    s.outside pa (.write d) b none = (s.writePlace ⟨pa, false⟩ d).syncWrite .glob false pa d.length {} {} :=
  (if_neg (Nat.not_lt.mpr h)).trans (if_neg (by rw [hu]; decide))

theorem outside_write_mem {d : List Byte} (h : pa + d.length ≤ s.memTop) (hu : s.shellsUp pa d.length = true) :
    (s.outside pa (.write d) b k).mem = setBs s.mem pa d := by
  cases k with
  | none => rw [outside_write_posted b h hu, syncWrite_mem, writePlace_mem s rfl]
  | some m =>
    rw [outside_write_acked b h hu]
    exact (syncWrite_mem _ _ _ _ _ _ _).trans (writePlace_mem s rfl d)

theorem outside_write_sent {d : List Byte} (h : pa + d.length ≤ s.memTop) (hu : s.shellsUp pa d.length = true) (m : Msg) :
    (s.outside pa (.write d) b (some m)).outbox = m :: s.outbox ∧ (s.outside pa (.write d) b none).outbox = s.outbox := by
  have ho : ((s.writePlace ⟨pa, false⟩ d).syncWrite .glob false pa d.length {} {}).outbox = s.outbox := by
    rw [syncWrite_outbox, writePlace_outbox]
  refine ⟨?_, by rw [outside_write_posted b h hu, ho]⟩
  rw [outside_write_acked b h hu]
  exact congrArg (m :: ·) ho

/-- An atomic of the pod answers the old value and writes the new one. -/
theorem outside_atomic (aop : BitVec 4) (aty : BitVec 3) (v cmp : BitVec 64) (h : pa + (if aty.getLsbD 1 then 8 else 4) ≤ s.memTop)
    (hu : s.shellsUp pa (if aty.getLsbD 1 then 8 else 4) = true) (hp : s.poisoned ⟨pa, false⟩ (if aty.getLsbD 1 then 8 else 4) = false) :
    s.outside pa (.atomic aop aty v cmp) true k =
      ((s.send (.readData (getN s.mem pa (if aty.getLsbD 1 then 8 else 4)))).writeN ⟨pa, false⟩ (if aty.getLsbD 1 then 8 else 4)
        (atomNew aop.toNat aty.toNat (getN s.mem pa (if aty.getLsbD 1 then 8 else 4)) v.toNat cmp.toNat)).syncWrite
          .glob false pa (if aty.getLsbD 1 then 8 else 4) { keep := true } {} :=
  (if_neg (Nat.not_lt.mpr h)).trans ((if_neg (by rw [hu]; decide)).trans (if_neg (by rw [hp]; decide)))

end

/-! ## Registers and configuration space (R362, R415, R417) -/

/-- Reading one part of a register: the whole by 8 bytes, a half by 4, and zero otherwise (R362). -/
theorem sized_getD (off size : ℕ) (v : DWord) : (sized off size v).getD 0 =
    if size = 8 ∧ off % 8 = 0 then v.toNat else if size = 4 ∧ off % 8 = 0 then v.toNat % 2 ^ 32
    else if size = 4 ∧ off % 8 = 4 then v.toNat / 2 ^ 32 else 0 := by
  unfold sized
  by_cases h8 : size = 8 ∧ off % 8 = 0
  · rw [if_pos h8, if_pos h8]
    rfl
  rw [if_neg h8, if_neg h8]
  by_cases h0 : size = 4 ∧ off % 8 = 0
  · rw [if_pos (by omega), if_pos h0, if_pos h0.2]
    rfl
  rw [if_neg h0]
  by_cases h4 : size = 4 ∧ off % 8 = 4
  · rw [if_pos (by omega), if_pos h4, if_neg (by omega)]
    rfl
  · rw [if_neg (by omega), if_neg h4]
    rfl

theorem ctxReg_setCtxReg_same (s : State) (c o : ℕ) (v : DWord) : (s.setCtxReg c o v).ctxReg c o = v := by
  unfold State.ctxReg State.setCtxReg
  rw [lookD_putD, if_pos rfl]

/-- A read of a register that answers: the value is sent, and TRDROP and LDROP clear (R362, R417). -/
theorem exec_rcRegisterRead (off size : ℕ) (h : s.answers (wreg (off / 8 * 8)) = true) :
    ∃ t, exec (.rcRegisterRead off size) s = .next t ∧ t.mem = s.mem ∧ t.floes = s.floes ∧
      t.outbox = .readData ((sized off size (s.readReg (wreg (off / 8 * 8)))).getD 0) :: s.outbox ∧
      ∀ c o, size = 8 → off % 8 = 0 → wreg (off / 8 * 8) = .ctx c o → o = 0x38 ∨ o = 0x48 → t.ctxReg c o = 0 := by
  show ∃ t, execRcRegisterRead off size s = .next t ∧ _
  unfold execRcRegisterRead
  extract_lets r
  rw [if_neg (by rw [h]; decide)]
  cases hv : sized off size (s.readReg r) with
  | none =>
    refine ⟨_, rfl, rfl, rfl, rfl, fun c o hs ho => ?_⟩
    rw [sized, if_pos ⟨hs, ho⟩] at hv
    cases hv
  | some v =>
    have hr : wreg (off / 8 * 8) = r := rfl
    rw [hr]
    cases r with
    | ctx c o =>
      by_cases hc : o = 0x38 ∨ o = 0x48
      · refine ⟨(s.send (.readData v)).setCtxReg c o 0, by simp only [if_pos hc], rfl, rfl, rfl, fun c' o' _ _ e _ => ?_⟩
        cases e
        exact ctxReg_setCtxReg_same _ c o 0
      · refine ⟨s.send (.readData v), by simp only [if_neg hc], rfl, rfl, rfl, fun c' o' _ _ e ho => ?_⟩
        cases e
        exact absurd ho hc
    | glob o =>
      dsimp only
      split <;> exact ⟨_, rfl, rfl, rfl, rfl, fun _ _ _ _ e => nomatch e⟩
    | ctxEnt | die | cmd | csrs | none => exact ⟨_, rfl, rfl, rfl, rfl, fun _ _ _ _ e => nomatch e⟩

theorem rcRegisterRead_holds (off size : ℕ) (s : State) : ∃ t, exec (.rcRegisterRead off size) s = .next t ∧ t.mem = s.mem ∧ t.floes = s.floes ∧
    (s.answers (wreg (off / 8 * 8)) = false → t = s) ∧
    (s.answers (wreg (off / 8 * 8)) = true →
      t.outbox = .readData (if size = 8 ∧ off % 8 = 0 then (s.readReg (wreg (off / 8 * 8))).toNat
        else if size = 4 ∧ off % 8 = 0 then (s.readReg (wreg (off / 8 * 8))).toNat % 2 ^ 32
        else if size = 4 ∧ off % 8 = 4 then (s.readReg (wreg (off / 8 * 8))).toNat / 2 ^ 32 else 0) :: s.outbox ∧
      (∀ c o, size = 8 → off % 8 = 0 → wreg (off / 8 * 8) = .ctx c o → o = 0x38 ∨ o = 0x48 → t.ctxReg c o = 0)) := by
  cases h : s.answers (wreg (off / 8 * 8)) with
  | false =>
    refine ⟨s, if_pos (by rw [h]; rfl), rfl, rfl, fun _ => rfl, fun e => ?_⟩
    cases e
  | true =>
    obtain ⟨t, hx, hm, hf, ho, hc⟩ := exec_rcRegisterRead off size h
    refine ⟨t, hx, hm, hf, ?_, fun _ => ⟨?_, hc⟩⟩
    · rintro ⟨⟩
    · rw [ho, sized_getD]

theorem exec_registerWrite (off size : ℕ) (v : BitVec 64) (s : State) : exec (.registerWrite off size v) s = .next (
    if s.answers (wreg (off / 8 * 8)) = false then s
    else if size = 8 ∧ off % 8 = 0 then s.writeReg (wreg (off / 8 * 8)) v (BitVec.allOnes 64)
    else if size = 4 ∧ off % 8 = 0 then s.writeReg (wreg (off / 8 * 8)) (v &&& 0xFFFFFFFF) 0xFFFFFFFF
    else if size = 4 ∧ off % 8 = 4 then s.writeReg (wreg (off / 8 * 8)) (v <<< 32) 0xFFFFFFFF00000000 else s) := by
  show execRegisterWrite off size v s = _
  unfold execRegisterWrite
  extract_lets r
  have hr : wreg (off / 8 * 8) = r := rfl
  rw [hr, apply_ite Host.Outcome.next, apply_ite Host.Outcome.next, apply_ite Host.Outcome.next, apply_ite Host.Outcome.next]
  simp only [Bool.not_eq_true']

theorem hmap_holds (s : State) (v : BitVec 8) : s.setHmap 0 = s ∧ (v ≠ 0 → (s.setHmap v).pkg.hmap = v ∧ ∀ a, getB (s.setHmap v).mem a = 0) := by
  refine ⟨rfl, fun hv => ?_⟩
  rw [State.setHmap, if_neg hv]
  exact ⟨rfl, fun a => rfl⟩

theorem exec_fwsvnWrite (v : BitVec 64) (s : State) : exec (.fwsvnWrite v) s =
    .next (if (s.windowOn = true ∨ s.pkg.recovery = true ∨ s.pkg.alarm = true) ∧ 1 ≤ s.pkg.boot ∧ v = s.pkg.ranSvn
      then { s with pkg := { s.pkg with svn := v } } else s) := by
  show execFwsvnWrite v s = _
  unfold execFwsvnWrite State.setFwsvn
  rw [← ite_and]
  simp only [Bool.and_eq_true, Bool.or_eq_true, decide_eq_true_eq, or_assoc, and_assoc]

theorem linkTestCorrupt_holds (die dst : ℕ) (v : BitVec 64) (s : State) :
    exec (.linkTestCorrupt die dst v) s = .next (if s.windowOn then s.wake.corruptLink die dst v else s) ∧
    (v.getLsbD 0 = true → die < 8 → dst ≤ 8 → die ≠ dst → ((s.wake.corruptLink die dst v).link die dst).corrupt = true) ∧
    (v.getLsbD 0 = false → (s.wake.corruptLink die dst v).linkDirs = s.linkDirs) := by
  refine ⟨rfl, fun hv hs hd hne => ?_, fun hv => ?_⟩
  · rw [State.corruptLink, if_pos ⟨hv, hs, hd, hne⟩, State.link, lookD_put, if_pos rfl]
  · rw [State.corruptLink, if_neg (by rw [hv]; simp), State.wake]
    split <;> rfl

theorem wake_memwBase (s : State) : s.wake.memwBase = s.memwBase := by
  unfold State.wake
  split <;> rfl

theorem exec_bar2Access (off : ℕ) (op : ExtOp) (s : State) : exec (.bar2Access off op) s = .next (
    if s.windowOn = true ∧ off < s.bar2Size then (if s.pkg.pst = 3 then s.wake else s).outside (s.memwBase + off) op false none else s) := by
  show execBar2Access off op s = _
  unfold execBar2Access
  by_cases h : s.windowOn = true ∧ off < s.bar2Size
  · rw [if_neg (by rw [h.1]; simpa using h.2), if_pos h]
    show Host.Outcome.next (State.outside (if s.pkg.pst = 3 then s.wake else s) (State.memwBase (if s.pkg.pst = 3 then s.wake else s) + off) op false none) = _
    rw [show State.memwBase (if s.pkg.pst = 3 then s.wake else s) = s.memwBase by split; exacts [wake_memwBase s, rfl]]
  · rw [if_pos (by simpa [imp_iff_not_or] using h), if_neg h]

theorem exec_roceRequest (port qp addr : ℕ) (op : ExtOp) (s : State) : let u : State := { s with pkg := { s.pkg with qps := match op with
      | .send d => put s.pkg.qps qp (lookD [] s.pkg.qps qp ++ [d])
      | _ => s.pkg.qps } }
    exec (.roceRequest ⟨port, qp⟩ addr op) s = .next (if s.windowOn = true ∧ port < 8 then u.outside addr op false (some (.qpAck qp)) else s) := by
  intro u
  show execRoceRequest ⟨port, qp⟩ addr op s = _
  unfold execRoceRequest
  by_cases h : s.windowOn = true ∧ port < 8
  · rw [if_neg (by simpa using h), if_pos h]
    cases op <;> rfl
  · rw [if_pos (by simpa [imp_iff_not_or] using h), if_neg h]

/-! ## Configuration space (R415) -/

/-- Bits merged under a mask differ from the old ones only in the mask, and agree with the new ones in it. -/
theorem merge_under_mask (c v m : Word) : (((c &&& ~~~m) ||| (v &&& m)) ^^^ c) &&& ~~~m = 0 ∧ (((c &&& ~~~m) ||| (v &&& m)) ^^^ v) &&& m = 0 := by
  constructor <;> ext i hi
  all_goals
    simp only [BitVec.getElem_and, BitVec.getElem_xor, BitVec.getElem_or, BitVec.getElem_not]
    cases m[i]'hi <;> simp

theorem writeCfg_cfgReg (s : State) (off : ℕ) (v : Word) (h : ¬ (off = rbarBase + 8 ∧ (bits v.toNat 13 8 < 10 ∨ 20 < bits v.toNat 13 8))) :
    (s.writeCfg off v).cfgReg off = (s.cfgReg off &&& ~~~(s.cfgMask off)) ||| (v &&& s.cfgMask off) := by
  unfold State.writeCfg
  extract_lets m new
  rw [if_neg h]
  show lookD (lookD (0, 0) cfgTable off).1 (if m = 0 then s.pkg.cfg else put s.pkg.cfg (off / 4) new) (off / 4) = new
  by_cases hm : m = 0
  · rw [if_pos hm]
    show s.cfgReg off = (s.cfgReg off &&& ~~~m) ||| (v &&& m)
    rw [hm]
    show s.cfgReg off = (s.cfgReg off &&& ~~~0#32) ||| (v &&& 0#32)
    rw [BitVec.and_zero, BitVec.or_zero, BitVec.not_zero, BitVec.and_allOnes]
  · rw [if_neg hm, lookD_put, if_pos rfl]

/-- A write of a register of configuration space changes the bits that its mask lets it change, of that register only. -/
theorem writeCfg_holds (s : State) (off : ℕ) (v : Word) : (s.writeCfg off v).mem = s.mem ∧
    (∀ k, k ≠ off / 4 → look (s.writeCfg off v).pkg.cfg k = look s.pkg.cfg k) ∧
    (((s.writeCfg off v).cfgReg off ^^^ s.cfgReg off) &&& ~~~(s.cfgMask off) = 0) ∧
    (off ≠ rbarBase + 8 → ((s.writeCfg off v).cfgReg off ^^^ v) &&& s.cfgMask off = 0) := by
  by_cases hb : off = rbarBase + 8 ∧ (bits v.toNat 13 8 < 10 ∨ 20 < bits v.toNat 13 8)
  · have hs : s.writeCfg off v = s := if_pos hb
    rw [hs]
    exact ⟨rfl, fun _ _ => rfl, by simp, fun h => absurd hb.1 h⟩
  · rw [writeCfg_cfgReg s off v hb]
    refine ⟨?_, fun k hk => ?_, (merge_under_mask _ _ _).1, fun _ => (merge_under_mask _ _ _).2⟩
    · rw [State.writeCfg, if_neg hb]
    · rw [State.writeCfg, if_neg hb]
      dsimp only
      split
      · rfl
      · exact look_put_ne _ _ hk

theorem configurationRequest_holds (w : Bool) (off : ℕ) (v : BitVec 32) (s : State) :
    (s.pkg.boot < 2 → s.pkg.recovery = false → s.pkg.alarm = false → exec (.configurationRequest w off v) s = .next (s.send .retry)) ∧
    (2 ≤ s.pkg.boot ∨ s.pkg.recovery = true ∨ s.pkg.alarm = true →
      exec (.configurationRequest false off v) s = .next (s.send (.readData (s.readCfg (off / 4 * 4)).toNat)) ∧
      ∃ t, exec (.configurationRequest true off v) s = .next t ∧ t.mem = s.mem ∧
        (∀ k, k ≠ off / 4 → look t.pkg.cfg k = look s.pkg.cfg k) ∧
        ((t.cfgReg (off / 4 * 4) ^^^ s.cfgReg (off / 4 * 4)) &&& ~~~(s.cfgMask (off / 4 * 4)) = 0) ∧
        (off / 4 * 4 ≠ rbarBase + 8 → (t.cfgReg (off / 4 * 4) ^^^ v) &&& s.cfgMask (off / 4 * 4) = 0)) := by
  refine ⟨fun hb hr ha => if_pos (by rw [hr, ha]; exact ⟨hb, rfl, rfl⟩), fun h => ?_⟩
  have hn : ¬ (s.pkg.boot < 2 ∧ !s.pkg.recovery ∧ !s.pkg.alarm) := by
    rintro ⟨hb, hr, ha⟩
    rcases h with h | h | h
    · omega
    · rw [h] at hr
      exact absurd hr (by decide)
    · rw [h] at ha
      exact absurd ha (by decide)
  obtain ⟨hm, hk, h1, h2⟩ := writeCfg_holds s (off / 4 * 4) v
  rw [Nat.mul_div_cancel _ (by decide)] at hk
  exact ⟨(if_neg hn).trans (if_neg (by decide)), _, (if_neg hn).trans (if_pos rfl), hm, hk, h1, h2⟩

end

end Sys2Proof.Machine

/-! PROOF. WindowRegistersAndPorts: clause by clause, from the lemmas on the host's registers and on accesses from outside. -/

namespace Sys2Proof.Machine

/-- What an access from outside answers and writes. -/
theorem outside_holds (s : State) (pa n : ℕ) (d : List Byte) (b : Bool) (k : Option Msg) (m : Msg) (aop : BitVec 4) (aty : BitVec 3) (v cmp : BitVec 64) :
    (s.memTop < pa + n → s.outside pa (.read n) b k = s.send (.readData (2 ^ (8 * n) - 1))) ∧
    (pa + n ≤ s.memTop → s.shellsUp pa n = false → s.outside pa (.read n) b k = s) ∧
    (pa + n ≤ s.memTop → s.shellsUp pa n = true → s.poisoned ⟨pa, false⟩ n = true → s.outside pa (.read n) b k = s.send .poisoned) ∧
    (pa + n ≤ s.memTop → s.shellsUp pa n = true → s.poisoned ⟨pa, false⟩ n = false → s.outside pa (.read n) b k = s.send (.readData (getN s.mem pa n))) ∧
    (s.memTop < pa + d.length → s.outside pa (.write d) b (some m) = s.send m) ∧
    (pa + d.length ≤ s.memTop → s.shellsUp pa d.length = false → s.outside pa (.write d) b k = s) ∧
    (pa + d.length ≤ s.memTop → s.shellsUp pa d.length = true → (s.outside pa (.write d) b (some m)).outbox = m :: s.outbox ∧
      (s.outside pa (.write d) b none).outbox = s.outbox ∧
      ∀ a, getB (s.outside pa (.write d) b k).mem a = if pa ≤ a ∧ a < pa + d.length then d.getD (a - pa) 0 else getB s.mem a) ∧
    s.outside pa (.send d) b (some m) = s.send m ∧ s.outside pa (.atomic aop aty v cmp) false k = s ∧
    (let w := if aty.getLsbD 1 then 8 else 4
     pa + w ≤ s.memTop → s.shellsUp pa w = true → s.poisoned ⟨pa, false⟩ w = false →
      (s.outside pa (.atomic aop aty v cmp) true k).outbox = .readData (getN s.mem pa w) :: s.outbox ∧
      getN (s.outside pa (.atomic aop aty v cmp) true k).mem pa w =
        atomNew aop.toNat aty.toNat (getN s.mem pa w) v.toNat cmp.toNat % 2 ^ (8 * w)) := by
  refine ⟨outside_read_unmapped b k, outside_read_lost b k, outside_read_poisoned b k, outside_read b k, outside_write_unmapped b,
    outside_write_lost b k, fun h hu => ?_, rfl, rfl, ?_⟩
  · obtain ⟨hs, hn⟩ := outside_write_sent b h hu m
    refine ⟨hs, hn, fun a => ?_⟩
    rw [outside_write_mem b k h hu, getB_setBs]
  · intro w h hu hp
    rw [outside_atomic k aop aty v cmp h hu hp]
    constructor
    · rw [syncWrite_outbox, State.writeN, writePlace_outbox]
      rfl
    · rw [syncWrite_mem, State.writeN, writePlace_mem _ rfl, getN_setBs_same]

/-- Settles O56: each access by its outcome; a write of configuration space merges under the register's mask (`merge_under_mask`). -/
theorem windowRegistersAndPorts : Obligations.WindowRegistersAndPorts :=
  ⟨fun _ _ => rfl, hmap_holds, exec_fwsvnWrite, linkTestCorrupt_holds, rcRegisterRead_holds, exec_registerWrite, exec_bar2Access, fun _ _ _ => rfl,
    exec_roceRequest, outside_holds, configurationRequest_holds⟩

end Sys2Proof.Machine
end

section
/-! SUPPORT. The segment service and the directory's reclamation (R342 to R358): requests, deliveries, forms shipped, recalls and unloading. -/

namespace Sys2Proof.Machine

section

variable {s : State}

/-! ## Requests and deliveries (R344, R352) -/

section

variable {q : FloeId} {f : Floe} {ctx code seg : ℕ} (hf : s.floe? (FloeId.key q) = some f) (hn : s.needsSeg (FloeId.key q) f = some (ctx, code, seg))
  (hs : (s.block (f.bkey (FloeId.key q))).stops = [])

include hf hn hs

/-- A floe that needs a segment and that nothing stops enters a copy, or asks. -/
theorem exec_segmentRequest : exec (.segmentRequest q) s =
    if (s.copyOf (coreOfFloe (FloeId.key q)) ctx code seg).isSome then .next ((s.tryEnter (FloeId.key q)).settleDue 64)
    else
      let r : SegReq := ⟨dieOf (coreOfFloe (FloeId.key q)), coreOfFloe (FloeId.key q), ctx, code, seg⟩
      .next { s with segReqs := if s.segReqs.contains r then s.segReqs else s.segReqs ++ [r] } := by
  show execSegmentRequest q s = _
  rw [execSegmentRequest]
  dsimp only
  rw [hf]
  dsimp only
  rw [hn]
  exact if_neg (not_not.mpr hs)

end

theorem exec_segmentDelivery_idle {die ctx code seg : ℕ}
    (h : (s.segReqs.filter fun r => r.die == die && r.ctx == ctx && r.code == code && r.seg == seg).map (·.core) = []) :
    exec (.segmentDelivery die ctx code seg) s = .next s := if_pos h

/-- What a delivery does with the service's result, when nothing in what it reads keeps it back. -/
theorem exec_segmentDelivery_served {die ctx code seg : ℕ} {res : Except SvcFault (List (BitVec 512))} {h : List (BitVec 512)} {rs : List ℕ} {u : State}
    (hc : (s.segReqs.filter fun r => r.die == die && r.ctx == ctx && r.code == code && r.seg == seg).map (·.core) ≠ [])
    (hv : s.serve die ctx code seg = (res, h, rs, u))
    (hk : s.formKept die ctx code seg = true ∨ (s.codeWait ctx code seg = none ∧ s.codePoison ctx code seg = false)) :
    exec (.segmentDelivery die ctx code seg) s =
      let cores := (s.segReqs.filter fun r => r.die == die && r.ctx == ctx && r.code == code && r.seg == seg).map (·.core)
      let v := (cores.flatMap fun c => s.waiters c ctx code seg).foldl (fun (s : State) e => s.mergeRecs e.1 rs) u
      .next ((match res with
        | .error f => cores.foldl (fun (s : State) c => s.svcFault c ctx code seg f h) v
        | .ok ls => cores.foldl (fun (s : State) c => s.ship c ctx code seg ls) v).settleDue 64) := by
  show execSegmentDelivery die ctx code seg s = _
  have hw : (if !s.formKept die ctx code seg then s.codeWait ctx code seg else none) = none := by
    rcases hk with hk | ⟨hw, -⟩
    · rw [hk]
      rfl
    · rw [hw, ite_self]
  have hp : ¬ (!s.formKept die ctx code seg && s.codePoison ctx code seg) = true := by
    rcases hk with hk | ⟨-, hp⟩
    · rw [hk]
      exact Bool.false_ne_true
    · rw [hp, Bool.and_false]
      exact Bool.false_ne_true
  rw [execSegmentDelivery]
  dsimp only
  rw [if_neg hc, hw]
  dsimp only
  rw [if_neg hp, hv] <;> rfl

/-! ## A form shipped (R347) -/

theorem look_isSome_of_mem {α : Type} {t : Tab α} {e : ℕ × α} (h : e ∈ t) : (look t e.1).isSome = true := by
  induction t with
  | nil => cases h
  | cons x t ih =>
    obtain ⟨k, v⟩ := x
    unfold look
    split
    · rfl
    · next hne =>
      rcases List.mem_cons.1 h with rfl | h
      · exact absurd rfl hne
      · exact ih h

theorem floe?_of_waiter {core ctx code seg : ℕ} {e : ℕ × Floe} (h : e ∈ s.waiters core ctx code seg) : ∃ f, s.floe? e.1 = some f :=
  Option.isSome_iff_exists.1 (look_isSome_of_mem (mem_slice (List.mem_filter.1 h).1).1)

/-- Floes at the given keys put in the copy `n`. -/
def State.placeIn (s : State) (n : ℕ) (ws : List (ℕ × Floe)) : State := ws.foldl (fun s e => s.modFloe e.1 fun f => { f with copy := n }) s

theorem placeIn_segs (s : State) (n : ℕ) (ws : List (ℕ × Floe)) : (s.placeIn n ws).segs = s.segs :=
  List.foldlRecOn (motive := fun t : State => t.segs = s.segs) ws _ rfl fun t ht e _ => by rw [State.modFloe_segs, ht]

theorem floe?_placeIn (s : State) (n j : ℕ) (ws : List (ℕ × Floe)) :
    (s.placeIn n ws).floe? j = (s.floe? j).map fun f => if j ∈ ws.map (·.1) then { f with copy := n } else f := by
  induction ws generalizing s with
  | nil => simp [State.placeIn]
  | cons e ws ih =>
    rw [State.placeIn, List.foldl_cons]
    refine (ih _).trans ?_
    rw [State.floe?_modFloe]
    by_cases hj : j = e.1
    · subst hj
      cases s.floe? e.1 <;> simp
    · rw [if_neg hj]
      simp only [List.map_cons, List.mem_cons, hj, false_or]

/-- A form shipped where it fits, to a core at which no floe waits to go on in the segment. -/
theorem ship_eq {u : State} {core ctx code seg b : ℕ} {ls : List (BitVec 512)} (he : evictFor core ls.length 1025 s = some (b, u))
    (hw : ∀ e ∈ u.waiters core ctx code seg, ∀ cont, e.2.wait ≠ .seg cont) :
    s.ship core ctx code seg ls = (State.takeInjection { u with
        nextId := u.nextId + 1
        segs := put u.segs u.nextId { core := core, ctx := ctx, code := code, seg := seg, lines := ls, base := b, entered := u.clock (dieOf core) }
        segReqs := u.segReqs.filter fun r => !(r.core == core && r.ctx == ctx && r.code == code && r.seg == seg) }
      5 core (64 * b) (64 * ls.length)).placeIn u.nextId (u.waiters core ctx code seg) := by
  unfold State.ship
  rw [he]
  refine List.foldl_ext _ _ _ fun t e hm => ?_
  split
  · next cont hc => exact absurd hc (hw e hm cont)
  · rfl

theorem ship_holds {u : State} {core ctx code seg b : ℕ} {ls : List (BitVec 512)} (he : evictFor core ls.length 1025 s = some (b, u))
    (hw : ∀ e ∈ u.waiters core ctx code seg, ∀ cont, e.2.wait ≠ .seg cont) :
    (∃ c, look (s.ship core ctx code seg ls).segs u.nextId = some c ∧ c.lines = ls ∧ c.base = b ∧ c.core = core ∧ c.ctx = ctx ∧ c.code = code ∧
      c.seg = seg ∧ c.stale = false) ∧
    ∀ e ∈ u.waiters core ctx code seg, ∃ g, (s.ship core ctx code seg ls).floe? e.1 = some g ∧ g.copy = u.nextId := by
  rw [ship_eq he hw]
  refine ⟨⟨_, (congrArg (look · u.nextId) ((placeIn_segs _ _ _).trans (State.takeInjection_segs _ _ _ _ _))).trans (look_put_same _ _ _),
    rfl, rfl, rfl, rfl, rfl, rfl, rfl⟩, fun e hm => ?_⟩
  · obtain ⟨f, hf⟩ := floe?_of_waiter hm
    rw [floe?_placeIn]
    refine ⟨_, Option.map_eq_some_iff.2 ⟨f, ?_, if_pos (List.mem_map_of_mem hm)⟩, rfl⟩
    exact (congrArg (look · e.1) (State.takeInjection_floes _ _ _ _ _)).trans hf

/-! ## Recalls (R348) -/

section

variable (hc : s.hostCmd 1 = true)

include hc

theorem exec_recallSegment_bad (hb : 64 ≤ s.cmdArg 0 ∨ 65536 ≤ s.cmdArg 1 ∨ 2 ^ 20 ≤ s.cmdArg 2) : exec .recallSegment s = .next (s.endHostCmd 1) :=
  (if_neg (by rw [hc]; exact Bool.false_ne_true)).trans (if_pos hb)

variable (h0 : s.cmdArg 0 < 64) (h1 : s.cmdArg 1 < 65536) (h2 : s.cmdArg 2 < 2 ^ 20)

include h0 h1 h2

/-- The recall command makes its move, and ends with no error when that move ends the recall. -/
theorem exec_recallSegment : exec .recallSegment s =
    .next (if (s.recallMove (s.cmdArg 0) (s.cmdArg 1) (s.cmdArg 2) none).2 then
      (s.recallMove (s.cmdArg 0) (s.cmdArg 1) (s.cmdArg 2) none).1.endHostCmd 0 else (s.recallMove (s.cmdArg 0) (s.cmdArg 1) (s.cmdArg 2) none).1) :=
  (if_neg (by rw [hc]; exact Bool.false_ne_true)).trans (if_neg (by omega))

end

section

variable (x y z : ℕ) (who : Option ℕ)

theorem recallMove_begins (h : (x, y, z, who) ∉ s.recalls) :
    s.recallMove x y z who = ({ s.beginRecall x y z with recalls := s.recalls ++ [(x, y, z, who)] }, false) := if_pos (by simpa using h)

theorem recallMove_waits (h : (x, y, z, who) ∈ s.recalls) (hi : s.inStale x y z = true) : s.recallMove x y z who = (s, false) :=
  (if_neg (by simpa using h)).trans (if_pos hi)

theorem recallMove_ends (h : (x, y, z, who) ∈ s.recalls) (hi : s.inStale x y z = false) : s.recallMove x y z who = (s.endRecall x y z who, true) :=
  (if_neg (by simpa using h)).trans (if_neg (by rw [hi]; exact Bool.false_ne_true))

theorem forms_beginRecall : ∀ f ∈ (s.beginRecall x y z).forms, ¬ (f.ctx = x ∧ f.code = y ∧ f.seg = z) := fun f hf => by
  have h := (List.mem_filter.1 hf).2
  simpa [imp_iff_not_or, or_assoc] using h

theorem segs_beginRecall : ∀ e ∈ (s.beginRecall x y z).segs, e.2.ctx = x ∧ e.2.code = y ∧ e.2.seg = z → e.2.stale = true := fun e he => by
  obtain ⟨e', -, rfl⟩ := List.mem_map.1 he
  by_cases h : e'.2.ctx = x ∧ e'.2.code = y ∧ e'.2.seg = z
  · rw [if_pos h]
    exact fun _ => rfl
  · rw [if_neg h]
    exact fun h' => absurd h' h

theorem segs_endRecall : ∀ e ∈ (s.endRecall x y z who).segs, e.2.ctx = x ∧ e.2.code = y ∧ e.2.seg = z → e.2.stale = false := by
  rintro e he ⟨h1, h2, h3⟩
  have h := (List.mem_filter.1 he).2
  simpa [h1, h2, h3] using h

end

/-! ## Unloading, the driver's records and RECL writes (R342, R346, R351, R358) -/

theorem exec_codeObjectUnload_held {ctx code : ℕ} (h : ∃ e ∈ s.grids, e.2.ctx = ctx ∧ e.2.code = code ∧ e.2.placed = true) :
    exec (.codeObjectUnload ctx code) s = .next s := if_pos (by simpa [and_assoc] using h)

theorem exec_codeObjectUnload {ctx code : ℕ} (h : ∀ e ∈ s.grids, ¬ (e.2.ctx = ctx ∧ e.2.code = code ∧ e.2.placed = true)) :
    exec (.codeObjectUnload ctx code) s = .next (((s.links.filter fun l => l.2.1 == ctx && l.2.2.1 == code).map (·.2.2.2.2)).foldl
      (fun (s : State) e => (s.setRefs e (entRefs (s.dirEnt e) - 1)).reclaim e)
      { s with
        forms := s.forms.filter fun f => !(f.ctx == ctx && f.code == code)
        segs := s.segs.filter fun e => !(e.2.ctx == ctx && e.2.code == code)
        links := s.links.filter fun l => !(l.2.1 == ctx && l.2.2.1 == code) }) :=
  if_neg (by simpa using h)

theorem exec_driverDirectoryCommand_bound {ctx : ℕ} {recs : List BindRec} (h : s.bindStatus ctx (recs.map BindRec.raw) = 0) :
    exec (.driverDirectoryCommand ctx recs) s = .next ((s.bindRecs ctx none (recs.map BindRec.raw)).send (.readData 0)) := by
  show execDriverDirectoryCommand ctx recs s = _
  rw [execDriverDirectoryCommand]
  rw [h, if_pos rfl]

theorem exec_driverDirectoryCommand_bad {ctx : ℕ} {recs : List BindRec} {st : ℕ} (h : s.bindStatus ctx (recs.map BindRec.raw) = st) (hs : st ≠ 0) :
    exec (.driverDirectoryCommand ctx recs) s = .next (s.send (.readData st)) := by
  show execDriverDirectoryCommand ctx recs s = _
  rw [execDriverDirectoryCommand]
  rw [h, if_neg hs]

end

end Sys2Proof.Machine

/-! PROOF. CodeAndDirectoryEvents: clause by clause, from the lemmas on the segment service, recalls and the driver's records. -/

namespace Sys2Proof.Machine

/-- Settles O51: each event by its outcome; a form shipped by the copy it enters and the floes put in it (`ship_eq`). -/
theorem codeAndDirectoryEvents : Obligations.CodeAndDirectoryEvents := by
  refine ⟨?request, ?delivery, fun s u core ctx code seg b ls he hw => ship_holds he hw, fun s hc hb => exec_recallSegment_bad hc hb, ?recalls,
    fun ctx code s => ⟨exec_codeObjectUnload_held, exec_codeObjectUnload⟩,
    fun ctx recs s => ⟨exec_driverDirectoryCommand_bound, fun st => exec_driverDirectoryCommand_bad⟩,
    fun ctx v s hc => ⟨if_neg (Nat.not_le.mpr hc), if_neg (Nat.not_le.mpr hc)⟩⟩
  case request =>
    intro q s f ctx code seg hf hn hs core r
    have hx := exec_segmentRequest hf hn hs
    refine ⟨fun hc hr => ?_, fun hc hr => ?_, fun hc => hx.trans (if_pos hc)⟩
    · rw [hx, if_neg (by rw [hc]; decide)]
      dsimp only
      rw [if_pos (by simpa using hr)]
    · rw [hx, if_neg (by rw [hc]; decide)]
      dsimp only
      rw [if_neg (by simpa using hr)]
  case delivery =>
    intro die ctx code seg s cores
    refine ⟨exec_segmentDelivery_idle, ?_⟩
    intro res h rs u hc hv hk v
    constructor
    · rintro f rfl
      exact exec_segmentDelivery_served hc hv hk
    · rintro ls rfl
      exact exec_segmentDelivery_served hc hv hk
  case recalls =>
    intro s hc h0 h1 h2 x y z
    have hx := exec_recallSegment hc h0 h1 h2
    refine ⟨fun h => ?_, fun h hi => ?_, fun h hi => ?_, forms_beginRecall x y z, segs_beginRecall x y z, segs_endRecall x y z none⟩
    · rw [hx, recallMove_begins x y z none h]
      rfl
    · rw [hx, recallMove_waits x y z none h hi]
      rfl
    · rw [hx, recallMove_ends x y z none h hi]
      rfl

end Sys2Proof.Machine
end

section
/-! SUPPORT. Ends and stops of grids, preemption and resumption (R298, R301, R309 to R313, R371): what stops and ends leave of blocks and grids. -/

namespace Sys2Proof.Machine

section

variable {s t u : State} {bk cause gid ctx : ℕ}

/-! ## Stops of blocks: what they leave of the blocks -/

@[simp] theorem foldl_blocks {α : Type} {g : State → α → State} (hg : ∀ s a, (g s a).blocks = s.blocks) (l : List α) (s : State) :
    (l.foldl g s).blocks = s.blocks :=
  foldl_keeps State.blocks hg l s

@[simp] theorem dropResv_blocks (s : State) (k : ℕ) : (s.dropResv k).blocks = s.blocks := by
  have hthreads (f : Floe) : ((f.tkeys k).foldl (fun s t => if (s.thread t).resv.isSome then s.modThread t fun th => { th with resv := none } else s) s).blocks =
      s.blocks := foldl_blocks (fun s t => by split <;> simp) _ _
  unfold State.dropResv
  split
  · rfl
  · dsimp only
    split <;> simp [hthreads]

@[simp] theorem addDue_blocks (s : State) (bk code addr coord : ℕ) : (s.addDue bk code addr coord).blocks = s.blocks := by
  unfold State.addDue
  split <;> simp

@[simp] theorem cancelWaiting_blocks (s : State) (bk : ℕ) : (s.cancelWaiting bk).blocks = s.blocks := by
  refine foldl_blocks (fun s e => ?_) _ _
  refine (foldl_blocks (fun s p => ?_) _ _).trans rfl
  split <;> simp

/-- Every block is still there, with at least its stops. -/
def State.StopsGrow (s t : State) : Prop := ∀ j x, s.block? j = some x → ∃ y, t.block? j = some y ∧ x.stops ⊆ y.stops

theorem stopsGrow_of_blocks (h : t.blocks = s.blocks) : s.StopsGrow t := fun j x hx =>
  ⟨x, (congrArg (look · j) h).trans hx, List.Subset.refl _⟩

theorem State.StopsGrow.trans (h : s.StopsGrow t) (h' : t.StopsGrow u) : s.StopsGrow u := fun j x hx => by
  obtain ⟨y, hy, hs⟩ := h j x hx
  obtain ⟨z, hz, hs'⟩ := h' j y hy
  exact ⟨z, hz, List.Subset.trans hs hs'⟩

theorem stopsGrow_foldl {α : Type} {g : State → α → State} (hg : ∀ (s : State) a, s.StopsGrow (g s a)) (l : List α) (s : State) : s.StopsGrow (l.foldl g s) :=
  List.foldlRecOn (motive := fun t => s.StopsGrow t) l g (stopsGrow_of_blocks rfl) fun t ht a _ => ht.trans (hg t a)

theorem block?_modBlock (s : State) (bk j : ℕ) (g : Block → Block) : (s.modBlock bk g).block? j = if j = bk then (s.block? bk).map g else s.block? j := by
  unfold State.modBlock
  split
  · next x hx =>
    show look (put s.blocks bk (g x)) j = _
    rw [look_put, State.block?, hx]
    rfl
  · next hx =>
    split
    · next hj =>
      rw [hj, State.block?, hx]
      rfl
    · rfl

theorem stopsGrow_modBlock (bk : ℕ) {g : Block → Block} (hg : ∀ x, x.stops ⊆ (g x).stops) : s.StopsGrow (s.modBlock bk g) := fun j x hx => by
  rw [block?_modBlock]
  by_cases hj : j = bk
  · rw [if_pos hj, ← hj, hx]
    exact ⟨_, rfl, hg x⟩
  · rw [if_neg hj]
    exact ⟨x, hx, List.Subset.refl _⟩

/-- A block under one more cause. -/
def Block.withStop (now cause : ℕ) (b : Block) : Block := { b with
  stoppedAt := if b.stops = [] then now else b.stoppedAt
  stopClk := if b.stops.contains cause then b.stopClk else put b.stopClk cause now
  stops := if b.stops.contains cause then b.stops else b.stops ++ [cause] }

theorem withStop_stops (now cause : ℕ) (b : Block) : b.stops ⊆ (b.withStop now cause).stops ∧ cause ∈ (b.withStop now cause).stops := by
  unfold Block.withStop
  dsimp only
  by_cases h : b.stops.contains cause
  · rw [if_pos h]
    exact ⟨List.Subset.refl _, by simpa using h⟩
  · rw [if_neg h]
    exact ⟨List.subset_append_left _ _, by simp⟩

theorem stopBlk_blocks (s : State) (bk cause : ℕ) :
    (s.stopBlk bk cause).blocks = (s.modBlock bk (Block.withStop (s.clock (dieOf (bk / 32))) cause)).blocks := by
  unfold State.stopBlk
  dsimp only
  split
  · exact foldl_blocks (fun s k => dropResv_blocks s k) _ _
  · rw [cancelWaiting_blocks]
    exact foldl_blocks (fun s k => dropResv_blocks s k) _ _

theorem stopsGrow_stopBlk (s : State) (bk cause : ℕ) : s.StopsGrow (s.stopBlk bk cause) :=
  (stopsGrow_modBlock bk fun x => (withStop_stops _ cause x).1).trans (stopsGrow_of_blocks (stopBlk_blocks s bk cause))

/-- A block that is stopped holds the cause. -/
theorem stopBlk_stops {x : Block} (hx : s.block? bk = some x) (cause : ℕ) : ∃ y, (s.stopBlk bk cause).block? bk = some y ∧ cause ∈ y.stops := by
  refine ⟨x.withStop (s.clock (dieOf (bk / 32))) cause, ?_, (withStop_stops _ cause x).2⟩
  refine (congrArg (look · bk) (stopBlk_blocks s bk cause)).trans ((block?_modBlock s bk bk _).trans ?_)
  rw [if_pos rfl, hx]
  rfl

theorem stopsGrow_endStepByHalt (s : State) (bk : ℕ) : s.StopsGrow (s.endStepByHalt bk) := by
  unfold State.endStepByHalt
  split
  · exact stopsGrow_of_blocks rfl
  · refine (stopsGrow_foldl (fun s c => stopsGrow_stopBlk s bk c) (s.block bk).heldStops s).trans ?_
    exact (stopsGrow_modBlock (g := fun b => { b with stepping := none, heldStops := [] }) bk fun x => List.Subset.refl x.stops).trans (stopsGrow_of_blocks rfl)

/-- Blocks stopped one after the other: each that is there holds the cause at the end. -/
theorem foldl_stops {g : State → ℕ → State} (hg : ∀ (s : State) b, s.StopsGrow (g s b))
    (hset : ∀ (s : State) x, s.block? bk = some x → ∃ y, (g s bk).block? bk = some y ∧ cause ∈ y.stops) {l : List ℕ} (hm : bk ∈ l) {x : Block}
    (hx : s.block? bk = some x) : ∃ y, (l.foldl g s).block? bk = some y ∧ cause ∈ y.stops := by
  obtain ⟨l₁, l₂, rfl⟩ := List.append_of_mem hm
  rw [List.foldl_append, List.foldl_cons]
  obtain ⟨y, hy, -⟩ := stopsGrow_foldl hg l₁ s bk x hx
  obtain ⟨z, hz, hc⟩ := hset _ y hy
  obtain ⟨w, hw, hs⟩ := stopsGrow_foldl hg l₂ _ bk z hz
  exact ⟨w, hw, hs hc⟩

/-- A stop that reaches a core gives its cause to each block of the grid there (R309, R371). -/
theorem stopOnCore_stops {core : ℕ} {b : Block} (hb : look s.blocks bk = some b) (hg : b.grid = gid) (hc : bk / 32 = core) (cause : ℕ) :
    ∃ x, look (s.stopOnCore gid cause core).blocks bk = some x ∧ cause ∈ x.stops := by
  refine foldl_stops (fun s b => (stopsGrow_endStepByHalt s b).trans (stopsGrow_stopBlk _ b cause)) (fun s x hx => ?_) ?_ hb
  · obtain ⟨y, hy, -⟩ := stopsGrow_endStepByHalt s bk bk x hx
    exact stopBlk_stops hy cause
  · refine List.mem_filter.2 ⟨List.mem_map.2 ⟨(bk, b), List.mem_filter.2 ⟨look_mem hb, ?_⟩, rfl⟩, ?_⟩
    · exact beq_iff_eq.2 hg
    · exact beq_iff_eq.2 hc

/-- A preemption that begins gives cause 5 to each block of the context (R311). -/
theorem beginPreempt_stops {b : Block} (hb : look s.blocks bk = some b) (hc : (s.grid b.grid).ctx = ctx) :
    ∃ x, look (s.beginPreempt ctx).blocks bk = some x ∧ 5 ∈ x.stops :=
  foldl_stops (s := { s with preempting := insNat s.preempting ctx }) (fun s b => stopsGrow_stopBlk s b 5) (fun _ _ hx => stopBlk_stops hx 5)
    (List.mem_map.2 ⟨(bk, b), List.mem_filter.2 ⟨look_mem hb, beq_iff_eq.2 hc⟩, rfl⟩) hb

/-! ## The end of a grid (R301) -/

theorem writeN_grids (s : State) (p : Place) (n v : ℕ) : (s.writeN p n v).grids = s.grids := (readied_writePlace s p _).grids

theorem flushRecl_grids (ctx : ℕ) (rs : List (ℕ × BitVec 256)) (s : State) : (State.flushRecl ctx rs s).grids = s.grids := by
  induction rs generalizing s with
  | nil => rfl
  | cons r rs ih =>
    unfold State.flushRecl
    split
    · rfl
    · rw [ih]
      exact writeN_grids s _ 32 _

theorem reclaim_grids (s : State) (e : ℕ) : (s.reclaim e).grids = s.grids := by
  unfold State.reclaim
  dsimp only
  split
  · rfl
  · unfold State.drainRecl
    split
    · exact flushRecl_grids _ _ _
    · rfl

theorem setRefs_grids (s : State) (e refs : ℕ) : (s.setRefs e refs).grids = s.grids := by
  simp [State.setRefs, State.putDir]

/-- Closing a handle leaves every grid there. -/
theorem closeHandle_grid (s : State) (g i : ℕ) (h : Handle) {x : Grid} (hx : look s.grids g = some x) : ∃ y, look (s.closeHandle g i h).grids g = some y := by
  unfold State.closeHandle
  split
  · exact ⟨_, modGrid_some hx _⟩
  · rw [reclaim_grids, setRefs_grids]
    exact ⟨_, modGrid_some hx _⟩

theorem closeHandles_grid {x : Grid} (hx : look s.grids gid = some x) : ∃ y, look (s.closeHandles gid).grids gid = some y :=
  List.foldlRecOn (motive := fun t : State => ∃ y, look t.grids gid = some y) _ _ ⟨x, hx⟩ fun t ⟨_, hy⟩ h _ => closeHandle_grid t gid h.1 _ hy

/-- What the end of a grid makes of the state. -/
def State.endedGrid (s : State) (gid tend : ℕ) : State :=
  (((s.closeHandles gid).statWrite gid 32 8 tend).modGrid gid fun x => { x with ranges := [], again := [], dieBase := [] }).setGState gid 2

theorem endedGrid_grid {x : Grid} (hx : look s.grids gid = some x) (tend : ℕ) :
    ∃ y, look (s.endedGrid gid tend).grids gid = some y ∧ y.state = 2 ∧ y.dieBase = [] ∧ y.ranges = [] := by
  obtain ⟨y, hy⟩ := closeHandles_grid hx
  have hw : look ((s.closeHandles gid).statWrite gid 32 8 tend).grids gid = some y := by rw [State.statWrite_grids, hy]
  exact ⟨_, setGState_some (modGrid_some hw _) 2, rfl, rfl, rfl⟩

theorem grid_of_look {g : Grid} (h : look s.grids gid = some g) : s.grid gid = g := by rw [State.grid, lookD, h]; rfl

theorem exec_gridEnd {g : Grid} (h : look s.grids gid = some g) (hd : s.gridDone gid = true)
    (hs : (g.state = 1 ∧ g.stopping = none) ∨ (g.retired = true ∧ (g.state = 3 ∨ g.state = 4))) :
    exec (.gridEnd gid) s = .next (s.endedGrid gid (g.doneAt.getD (s.clock s.pkg.master) % 2 ^ 64)) := by
  have hg := grid_of_look h
  refine (if_neg ?_).trans ?_
  · rw [hg, h, hd]
    rcases hs with ⟨h1, h2⟩ | ⟨hr, hs⟩
    · simp [h1, h2]
    · simp [hr, hs]
  · rw [hg]
    rfl

theorem exec_gridEnd_idle (h : s.gridDone gid = false) : exec (.gridEnd gid) s = .next s :=
  if_pos (.inr (.inl (by rw [h]; rfl)))

theorem exec_gridEndByHost_idle {g : Grid} (h : look s.grids gid = some g) (hs : g.state ≠ 3 ∧ g.state ≠ 4 ∨ g.retired = true) :
    exec (.gridEndByHost gid) s = .next s :=
  if_pos (.inr (by rw [grid_of_look h]; exact hs))

theorem exec_gridEndByHost {g : Grid} (h : look s.grids gid = some g) (hs : g.state = 3 ∨ g.state = 4) (hr : g.retired = false) :
    let v := (s.blocksOf gid).foldl (fun (s : State) bk => (s.blockGone bk).releaseBlock bk .kill) s
    let u := ({ v with tasks := v.tasks.filter fun t => t.grid ≠ gid } : State).modGrid gid fun x => {
      x with retired := true, ranges := [], again := [], handed := x.drifts, done := x.blocks }
    exec (.gridEndByHost gid) s = .next (u.noteDone.settleDue 64) :=
  if_neg (by
    rw [grid_of_look h, h, hr]
    simpa [imp_iff_not_or, or_comm] using hs)

/-! ## Stops on a core (R309, R312) -/

theorem exec_gridStop_idle {c : CoreId} (h : (s.grid gid).stopping = none) : exec (.gridStop gid c) s = .next s := by
  show execGridStop gid c s = _
  rw [execGridStop, h]

theorem exec_gridStop {c : CoreId} {st : ℕ} (h : (s.grid gid).stopping = some (cause, st)) :
    exec (.gridStop gid c) s = if s.haltWaits gid cause then .next s else .next ((s.stopOnCore gid cause (CoreId.key c)).settleDue 64) := by
  show execGridStop gid c s = _
  rw [execGridStop, h]

/-! ## Preemption and resumption (R311 to R313, R417) -/

/-- The contexts being preempted and those saved. -/
def State.preemptions (s : State) : List ℕ × List Saved := (s.preempting, s.saved)

theorem preemptions_writePlace (s : State) (p : Place) (bs : List Byte) : (s.writePlace p bs).preemptions = s.preemptions := by
  unfold State.writePlace
  extract_lets n ts u
  split
  · rfl
  · split
    · rfl
    · obtain ⟨l, c, q, h⟩ := State.takeInjection_cases (s := { u with mem := setBs u.mem p.pa bs, threads := ts, poison := delAll u.poison (fullGrans p.pa n) })
        8 (u.homeDie p.pa) p.pa n
      rw [h]
      rfl

theorem preemptions_devWrite (s : State) (ctx va : ℕ) (bs : List Byte) : (s.devWrite ctx va bs).preemptions = s.preemptions := by
  unfold State.devWrite
  split
  · rfl
  · split
    · exact preemptions_writePlace s _ bs
    · unfold State.askAts
      split <;> rfl
    · rfl

theorem preemptions_setGState (s : State) (g st : ℕ) : (s.setGState g st).preemptions = s.preemptions :=
  (preemptions_devWrite _ _ _ _).trans (by simp [State.preemptions])

theorem preemptions_openOverflow (s : State) (q b : ℕ) : (s.openOverflow q b).preemptions = s.preemptions := by
  unfold State.openOverflow
  dsimp only
  split
  · rfl
  · exact foldl_keeps State.preemptions (fun s e => by simp [State.preemptions]) _ _

theorem preemptions_fillBins (s : State) (q : ℕ) : (s.fillBins q).preemptions = s.preemptions := by
  unfold State.fillBins
  split
  · refine foldl_keeps State.preemptions (fun s b => ?_) _ _
    split
    · exact preemptions_openOverflow s q b
    · rfl
  · rfl

/-- Once a context is saved it is no longer being preempted, and its save stands last. -/
theorem preemptions_finishPreempt (s : State) (ctx : ℕ) :
    ∃ (ps : List ℕ) (sv : Saved) (vs : List Saved), (s.finishPreempt ctx).preemptions = (ps.filter (· ≠ ctx), vs ++ [sv]) ∧ sv.ctx = ctx := by
  unfold State.finishPreempt
  extract_lets bks s₁ blocks bks' cores gids threads allocs ps s₂ owns sv gone s₃ s₄
  have h₄ : s₄.preemptions = s₃.preemptions := foldl_keeps State.preemptions (fun s g => preemptions_setGState s g 6) gids s₃
  have h₅ : (cores.foldl (fun s c => (List.range 4).foldl (fun s i => s.fillBins (4 * c + i)) s) s₄).preemptions = s₄.preemptions :=
    foldl_keeps State.preemptions (fun s c => foldl_keeps State.preemptions (fun s i => preemptions_fillBins s (4 * c + i)) (List.range 4) s) cores s₄
  exact ⟨s₂.preempting, sv, s₂.saved, h₅.trans h₄, rfl⟩

theorem finishPreempt_saves (s : State) (ctx : ℕ) : ctx ∉ (s.finishPreempt ctx).preempting ∧ ∃ x ∈ (s.finishPreempt ctx).saved, x.ctx = ctx := by
  obtain ⟨ps, sv, vs, h, hc⟩ := preemptions_finishPreempt s ctx
  obtain ⟨hp, hs⟩ := Prod.mk.inj h
  rw [hp, hs]
  exact ⟨fun hm => absurd rfl (of_decide_eq_true (List.mem_filter.1 hm).2), sv, List.mem_append_right _ (List.mem_singleton.2 rfl), hc⟩

theorem exec_contextPreempt_idle (hp : ctx ∉ s.preempting) (h : (∃ x ∈ s.saved, x.ctx = ctx) ∨ s.victim ctx = false) :
    exec (.contextPreempt ctx) s = .next s :=
  (if_neg (by simpa using hp)).trans (if_pos (by simpa using h))

theorem exec_contextPreempt_begins (hp : ctx ∉ s.preempting) (hs : ∀ x ∈ s.saved, x.ctx ≠ ctx) (hv : s.victim ctx = true) :
    exec (.contextPreempt ctx) s = .next (s.beginPreempt ctx) :=
  (if_neg (by simpa using hp)).trans (if_neg (by simpa [hv] using hs))

theorem exec_contextPreempt_waits (hp : ctx ∈ s.preempting) (hd : ∃ e ∈ s.blocksOfCtx ctx, s.drained e.1 = false) :
    exec (.contextPreempt ctx) s = .next s :=
  (if_pos (by simpa using hp)).trans (if_neg (by simpa using hd))

theorem exec_contextPreempt_finishes (hp : ctx ∈ s.preempting) (hd : ∀ e ∈ s.blocksOfCtx ctx, s.drained e.1 = true) :
    exec (.contextPreempt ctx) s = .next ((s.finishPreempt ctx).settleDue 64) :=
  (if_pos (by simpa using hp)).trans (if_pos (by simpa using hd))

theorem exec_preempt_idle {v : BitVec 64} (h : v.toNat % 2 ^ 32 ≠ 1 ∨ s.windowOn = false ∨ 64 ≤ ctx ∨ ctx ∈ s.preempting ∨ (∃ x ∈ s.saved, x.ctx = ctx)) :
    exec (.preempt ctx v) s = .next s := by
  refine if_pos ?_
  rcases h with h | h | h | h | h
  · exact .inr (.inl h)
  · exact .inl (by rw [h]; rfl)
  · exact .inr (.inr (.inl h))
  · exact .inr (.inr (.inr (.inl (by simpa using h))))
  · exact .inr (.inr (.inr (.inr (by simpa using h))))

theorem exec_preempt {v : BitVec 64} (hv : v.toNat % 2 ^ 32 = 1) (hw : s.windowOn = true) (hc : ctx < 64) (hp : ctx ∉ s.preempting)
    (hs : ∀ x ∈ s.saved, x.ctx ≠ ctx) : exec (.preempt ctx v) s = .next (s.beginPreempt ctx) := by
  refine if_neg ?_
  rintro (h | h | h | h | h)
  · rw [hw] at h
    cases h
  · exact h hv
  · omega
  · exact hp (by simpa using h)
  · obtain ⟨x, hx, he⟩ := List.any_eq_true.1 h
    exact hs x hx (by simpa using he)

section

variable {sv : Saved} (hf : s.saved.find? (·.ctx == ctx) = some sv)

include hf

theorem exec_contextResume : exec (.contextResume ctx) s =
    if !s.roomToResume sv || s.grids.any (fun e => decide (s.ctxPri ctx < s.ctxPri e.2.ctx) && s.waitsForRoom e) then .next s
    else .next ((s.restoreCtx sv).settleDue 64) := by
  show execContextResume ctx s = _
  rw [execContextResume, hf]

theorem exec_contextResume_crowded (h : s.roomToResume sv = false) : exec (.contextResume ctx) s = .next s := by
  rw [exec_contextResume hf, h]
  rfl

theorem exec_contextResume_yields (h : ∃ e ∈ s.grids, s.ctxPri ctx < s.ctxPri e.2.ctx ∧ s.waitsForRoom e = true) :
    exec (.contextResume ctx) s = .next s := by
  have ha : s.grids.any (fun e => decide (s.ctxPri ctx < s.ctxPri e.2.ctx) && s.waitsForRoom e) = true := by
    obtain ⟨e, he, hp, hw⟩ := h
    exact List.any_eq_true.2 ⟨e, he, by rw [hw, decide_eq_true hp]; rfl⟩
  rw [exec_contextResume hf, ha, Bool.or_true]
  rfl

theorem exec_contextResume_restores (hr : s.roomToResume sv = true) (h : ∀ e ∈ s.grids, s.ctxPri ctx < s.ctxPri e.2.ctx → s.waitsForRoom e = false) :
    exec (.contextResume ctx) s = .next ((s.restoreCtx sv).settleDue 64) := by
  have ha : s.grids.any (fun e => decide (s.ctxPri ctx < s.ctxPri e.2.ctx) && s.waitsForRoom e) = false :=
    List.any_eq_false.2 fun e he hx => by
      obtain ⟨hp, hw⟩ := Bool.and_eq_true_iff.1 hx
      rw [h e he (of_decide_eq_true hp)] at hw
      cases hw
  rw [exec_contextResume hf, hr, ha]
  rfl

end

theorem exec_contextResume_none (h : ∀ x ∈ s.saved, x.ctx ≠ ctx) : exec (.contextResume ctx) s = .next s := by
  show execContextResume ctx s = _
  rw [execContextResume, List.find?_eq_none.2 fun x hx => by simpa using h x hx]

end

end Sys2Proof.Machine

/-! PROOF. GridEndsAndPreemption: clause by clause, from the lemmas on ends, stops, preemption and resumption. -/

namespace Sys2Proof.Machine

/-- Settles O53: each event by its outcome; stops only grow (`State.StopsGrow`), so a block stopped in a row of blocks holds its cause at the end. -/
theorem gridEndsAndPreemption : Obligations.GridEndsAndPreemption := by
  refine ⟨fun gid g s h hd hs => ⟨exec_gridEnd h hd hs, endedGrid_grid h _⟩, fun gid s => exec_gridEnd_idle,
    fun gid g s h => ⟨exec_gridEndByHost_idle h, exec_gridEndByHost h⟩, fun gid c s => ⟨exec_gridStop_idle, fun cause st h => ?_⟩,
    fun ctx s => ⟨exec_contextPreempt_begins, exec_contextPreempt_idle, fun hp hd => ⟨exec_contextPreempt_finishes hp hd, finishPreempt_saves s ctx⟩,
      exec_contextPreempt_waits⟩,
    fun ctx s bk b => beginPreempt_stops, fun ctx v s => ⟨exec_preempt_idle, exec_preempt⟩,
    fun ctx s sv hf => ⟨exec_contextResume_crowded hf, exec_contextResume_yields hf, exec_contextResume_restores hf⟩,
    fun ctx s => exec_contextResume_none⟩
  refine ⟨fun hw => ?_, fun hw => ⟨?_, fun bk b hb hg hc => stopOnCore_stops hb hg hc cause⟩⟩
  · rw [exec_gridStop h, hw]
    rfl
  · rw [exec_gridStop h, hw]
    rfl

end Sys2Proof.Machine
end

section
/-! SUPPORT. Precise trap entry (R306, R309, R310, R314): the policy, the record, and what the entry makes of the floe, its threads, its block and its grid. -/

namespace Sys2Proof.Machine

section

variable {s t u : State} {k bk gid : ℕ} {f : Floe} {x : Grid}

/-! ## The policy (R309) -/

section

variable (lanes : List ℕ)

/-- The cases of R309 in which the handler policy acts as kill. -/
def State.turnedAway (s : State) (k : ℕ) (f : Floe) (lanes : List ℕ) : Prop :=
  (∃ l ∈ lanes, ∃ u, f.tkey k l = some u ∧ (s.thread u).inHandler = true) ∨
    s.contOk (s.grid (s.block (f.bkey k)).grid).ctx (s.grid (s.block (f.bkey k)).grid).code (s.handlerOf (s.block (f.bkey k)).grid) = false ∨
    s.freeSave (islotOfFloe k) = none

theorem turnedAway_iff : s.turnedAway k f lanes ↔ (((lanes.filterMap fun l => f.tkey k l).any fun t => (s.thread t).inHandler) = true ∨
    (!s.contOk (s.grid (s.block (f.bkey k)).grid).ctx (s.grid (s.block (f.bkey k)).grid).code (s.handlerOf (s.block (f.bkey k)).grid)) = true ∨
    (s.freeSave (islotOfFloe k)).isNone = true) := by
  refine or_congr ?_ (or_congr ?_ ?_)
  · simp only [List.any_eq_true, List.mem_filterMap]
    constructor
    · rintro ⟨l, hl, t, ht, hh⟩
      exact ⟨t, ⟨l, hl, ht⟩, hh⟩
    · rintro ⟨t, ⟨l, hl, ht⟩, hh⟩
      exact ⟨l, hl, t, ht, hh⟩
  · exact (Bool.not_eq_true' _).symm ▸ Iff.rfl
  · exact Option.isNone_iff_eq_none.symm

theorem policyOf_tpol (h : (s.grid (s.block (f.bkey k)).grid).tpol ≠ 2) : s.policyOf k f lanes = (s.grid (s.block (f.bkey k)).grid).tpol := if_neg h

theorem policyOf_kill (h : (s.grid (s.block (f.bkey k)).grid).tpol = 2) (ht : s.turnedAway k f lanes) : s.policyOf k f lanes = 1 :=
  (if_pos h).trans (if_pos ((turnedAway_iff lanes).1 ht))

theorem policyOf_handler (h : (s.grid (s.block (f.bkey k)).grid).tpol = 2) (ht : ¬ s.turnedAway k f lanes) : s.policyOf k f lanes = 2 :=
  (if_pos h).trans (if_neg (mt (turnedAway_iff lanes).2 ht))

end

/-! ## The record (R306) -/

theorem extract_ofNat {n pos len : ℕ} (h : pos + len ≤ 512) : ((BitVec.ofNat 512 n).extractLsb' pos len).toNat = n / 2 ^ pos % 2 ^ len := by
  rw [BitVec.extractLsb'_toNat, BitVec.toNat_ofNat, Nat.shiftRight_eq_div_pow]
  rw [← Nat.mod_mul_right_div_self, ← Nat.mod_mul_right_div_self, ← Nat.pow_add, Nat.mod_mod_of_dvd _ (Nat.pow_dvd_pow 2 h)]

/-- A record's first 144 bits: coordinate, lanes, address and code. -/
theorem record_fields {coord mask addr code rest : ℕ} (hc : coord < 2 ^ 32) (hm : mask < 2 ^ 32) (ha : addr < 2 ^ 64) (hcode : code < 2 ^ 16)
    {n : ℕ} (hn : n = coord + mask * 2 ^ 32 + addr * 2 ^ 64 + code * 2 ^ 128 + rest * 2 ^ 144) :
    n / 2 ^ 0 % 2 ^ 32 = coord ∧ n / 2 ^ 32 % 2 ^ 32 = mask ∧ n / 2 ^ 64 % 2 ^ 64 = addr ∧ n / 2 ^ 128 % 2 ^ 16 = code := by
  subst hn
  refine ⟨?_, ?_, ?_, ?_⟩ <;> omega

theorem trapBits_fields (b : Option (ℕ × Floe)) {mask addr code pol : ℕ} (coord : Word) (hm : mask < 2 ^ 32) (ha : addr < 2 ^ 64) (hcode : code < 2 ^ 16) :
    let r := BitVec.ofNat 512 (s.trapBits bk b code mask addr coord.toNat pol)
    r.extractLsb' 0 32 = coord ∧ r.extractLsb' 32 32 = BitVec.ofNat 32 mask ∧ (r.extractLsb' 64 64).toNat = addr ∧ (r.extractLsb' 128 16).toNat = code := by
  intro r
  have hn : ∃ rest, s.trapBits bk b code mask addr coord.toNat pol = coord.toNat + mask * 2 ^ 32 + addr * 2 ^ 64 + code * 2 ^ 128 + rest * 2 ^ 144 := by
    unfold State.trapBits
    extract_lets b' g core ts pos
    refine ⟨(pos + pol * 2 ^ 6 + dieOf core * 2 ^ 8) + core % 128 * 2 ^ 16 + (b'.z g * 2 ^ 24 + b'.y g * 2 ^ 16 + b'.x g) * 2 ^ 48 + ts * 2 ^ 112 +
      s.clock (dieOf core) % 2 ^ 64 * 2 ^ 304, ?_⟩
    rw [Nat.mod_eq_of_lt ha]
    omega
  obtain ⟨rest, hn⟩ := hn
  obtain ⟨h0, h1, h2, h3⟩ := record_fields coord.isLt hm ha hcode hn
  refine ⟨BitVec.eq_of_toNat_eq ?_, BitVec.eq_of_toNat_eq ?_, ?_, ?_⟩
  · rw [extract_ofNat (by decide), h0]
  · rw [extract_ofNat (by decide), h1, BitVec.toNat_ofNat, Nat.mod_eq_of_lt hm]
  · rw [extract_ofNat (by decide), h2]
  · rw [extract_ofNat (by decide), h3]

/-! ## Where a record goes (R306, R307) -/

theorem devWrite_floes (s : State) (ctx va : ℕ) (bs : List Byte) : (s.devWrite ctx va bs).floes = s.floes := by
  have hplace (p : Place) : (s.writePlace p bs).floes = s.floes := by
    unfold State.writePlace
    extract_lets n ts u
    split
    · rfl
    · split
      · rfl
      · simp [u]
  unfold State.devWrite
  split
  · rfl
  · split
    · exact hplace _
    · unfold State.askAts
      split <;> rfl
    · rfl

/-- A record leaves floes and blocks. -/
theorem trapRecord_floes (s : State) (g r : ℕ) : (s.trapRecord g r).2.floes = s.floes := by
  unfold State.trapRecord
  dsimp only
  split <;> simp [State.statWrite, devWrite_floes]

theorem statWrite_blocks (s : State) (g off n v : ℕ) : (s.statWrite g off n v).blocks = s.blocks := (readied_devWrite s _ _ _).blocks

theorem trapRecord_blocks (s : State) (g r : ℕ) : (s.trapRecord g r).2.blocks = s.blocks := by
  unfold State.trapRecord
  dsimp only
  split <;> simp [statWrite_blocks]

/-- A record counts in its grid, and the grid stands besides. -/
theorem trapRecord_grid (hx : look s.grids gid = some x) (r : ℕ) : ∃ n d, look (s.trapRecord gid r).2.grids gid = some { x with ntrap := n, dropped := d } := by
  unfold State.trapRecord
  dsimp only
  split
  · refine ⟨x.ntrap + 1, x.dropped, ?_⟩
    have hw : look (s.statWrite gid (64 + 64 * (s.grid gid).ntrap) 64 r).grids gid = some x := by rw [State.statWrite_grids, hx]
    rw [State.statWrite_grids]
    exact (modGrid_some hw _).trans rfl
  · refine ⟨x.ntrap, x.dropped + 1, ?_⟩
    rw [State.statWrite_grids]
    exact modGrid_some hx _

theorem trapRecord_index (s : State) (g r : ℕ) : (s.trapRecord g r).1 = if (s.grid g).ntrap < 255 then (s.grid g).ntrap else 0xFFFFFFFF := by
  unfold State.trapRecord
  dsimp only
  split <;> rfl

/-! ## Writes that leave a floe at its lanes -/

theorem foldl_floes {α : Type} {g : State → α → State} (hg : ∀ s a, (g s a).floes = s.floes) (l : List α) (s : State) : (l.foldl g s).floes = s.floes :=
  foldl_keeps State.floes hg l s

theorem writeLvl_floes (s : State) (l : Space) (a : ℕ) (bs : List Byte) : (s.writeLvl l a bs).floes = s.floes := by
  have h (m : List Host.Cell) : (s.setLvl l m).floes = s.floes := by cases l <;> rfl
  unfold State.writeLvl
  extract_lets v sz
  split <;> exact (State.takeInjection_floes v _ _ _ _).trans (h _)

theorem setDirty_floes (s : State) (l : Space) (pa n : ℕ) : (s.setDirty l pa n).floes = s.floes := by
  unfold State.setDirty
  split
  · rfl
  · exact foldl_floes (fun s ch => by split <;> rfl) _ _

theorem setRaceWord_floes (s : State) (r : RLoc) (v : ℕ) : (s.setRaceWord r v).floes = s.floes := by
  cases r with
  | pad => rfl
  | glob ctx va => exact devWrite_floes _ _ _ _

theorem raceWrite_floes (s : State) (ag : Agent) (r : RLoc) (n : ℕ) : (s.raceWrite ag r n).floes = s.floes :=
  foldl_floes (fun s g => by
    rw [setRaceWord_floes]
    split <;> rfl) _ _

theorem syncWrite_floes (s : State) (l : Space) (sys : Bool) (a n : ℕ) (m : Mark) (w : Who) : (s.syncWrite l sys a n m w).floes = s.floes := by
  obtain ⟨x, h⟩ := syncWrite_eq s l sys a n m w
  rw [h]

theorem writePad_floes (s : State) (ag : Agent) (l : Space) (pa : ℕ) (bs : List Byte) : (s.writePad ag l pa bs).floes = s.floes := by
  unfold State.writePad
  rw [syncWrite_floes, raceWrite_floes, setDirty_floes, writeLvl_floes]

/-- A floe stands at `k` with these lanes. -/
def State.Lanes (s : State) (k : ℕ) (ls : List (ℕ × ℕ)) : Prop := ∃ g, s.floe? k = some g ∧ g.lanes = ls

variable {ls : List (ℕ × ℕ)}

theorem lanes_of_floes (h : s.Lanes k ls) (hf : t.floes = s.floes) : t.Lanes k ls := by
  obtain ⟨g, hg, hl⟩ := h
  exact ⟨g, (congrArg (look · k) hf).trans hg, hl⟩

theorem lanes_setFloe (h : s.Lanes k ls) {j : ℕ} (hl : j = k → f.lanes = ls) : (s.setFloe j f).Lanes k ls := by
  obtain ⟨g, hg, hg'⟩ := h
  by_cases hj : k = j
  · exact ⟨f, by rw [State.floe?_setFloe, if_pos hj], hl hj.symm⟩
  · exact ⟨g, by rw [State.floe?_setFloe, if_neg hj, hg], hg'⟩

theorem lanes_modFloe (h : s.Lanes k ls) (j : ℕ) {g : Floe → Floe} (hg : ∀ x, (g x).lanes = x.lanes) : (s.modFloe j g).Lanes k ls := by
  obtain ⟨x, hx, hl⟩ := h
  refine ⟨if k = j then g x else x, ?_, ?_⟩
  · rw [State.floe?_modFloe]
    split
    · next hj => rw [← hj, hx]; rfl
    · exact hx
  · split
    · exact (hg x).trans hl
    · exact hl

theorem lanes_pushPort (h : s.Lanes k ls) (w : Word) (p lane : ℕ) (v : Word) : (s.pushPort k w p lane v).Lanes k ls := by
  obtain ⟨g, hg, hl⟩ := h
  unfold State.pushPort
  rw [hg]
  dsimp only
  split
  · exact ⟨g, hg, hl⟩
  · split
    · exact lanes_setFloe ⟨g, hg, hl⟩ fun _ => hl
    · split
      · refine lanes_of_floes (lanes_setFloe ⟨g, hg, hl⟩ fun _ => ?_) (writePad_floes _ _ _ _ _)
        exact hl
      · exact lanes_setFloe ⟨g, hg, hl⟩ fun _ => hl

theorem lanes_foldl {α : Type} {g : State → α → State} (hg : ∀ s : State, s.Lanes k ls → ∀ a, (g s a).Lanes k ls) (l : List α) (h : s.Lanes k ls) :
    (l.foldl g s).Lanes k ls :=
  List.foldlRecOn (motive := fun t : State => t.Lanes k ls) l g h fun t ht a _ => hg t ht a

theorem lanes_writePend (h : s.Lanes k ls) (f : Floe) (p : Pend) : (s.writePend k f p).Lanes k ls := by
  unfold State.writePend
  extract_lets s₁ s₂ s₃
  have h₁ : s₁.Lanes k ls := by
    refine lanes_foldl (fun s hs e => ?_) _ h
    split
    · split
      · exact lanes_pushPort hs _ _ _ _
      · exact lanes_of_floes hs (foldl_floes (fun s w => by simp [State.setVreg]) _ _)
    · exact hs
  have h₂ : s₂.Lanes k ls := by
    simp only [s₂]
    split
    · exact lanes_modFloe h₁ k fun _ => rfl
    · exact h₁
  have h₃ : s₃.Lanes k ls := by
    simp only [s₃]
    split
    · refine lanes_of_floes h₂ (foldl_floes (fun s e => ?_) _ _)
      split
      · unfold State.setPred
        split <;> rfl
      · rfl
    · exact h₂
  refine lanes_of_floes h₃ (foldl_floes (fun s e => ?_) _ _)
  split
  · unfold State.orFlags
    split <;> rfl
  · rfl

/-- Results that land leave the floe at its lanes. -/
theorem lanes_endWindows (h : s.Lanes k ls) : (s.endWindows k).Lanes k ls := by
  unfold State.endWindows State.settle
  have hu := lanes_modFloe h k (g := fun f => { f with pend := f.pend.map fun p => { p with left := 0 } }) fun _ => rfl
  split
  · exact hu
  · dsimp only
    split
    · exact hu
    · exact lanes_modFloe (lanes_foldl (fun s hs p => lanes_writePend hs _ p) _ hu) k fun _ => rfl

theorem lanes_commit (h : s.Lanes k ls) : (s.commit k).1.Lanes k ls := by
  obtain ⟨g, hg, hl⟩ := h
  obtain ⟨log, hc, -⟩ := commit_floe hg
  exact ⟨_, hc, hl⟩

theorem lanes_detached (h : s.Lanes k ls) : ((s.detachAll k).dropResv k).Lanes k ls := by
  obtain ⟨g, hg, hl⟩ := h
  obtain ⟨-, y, hy, hyl, -⟩ := detachAll_floe hg
  obtain ⟨-, z, hz, hzl, -⟩ := dropResv_floe hy
  exact ⟨z, hz, hzl.trans (hyl.trans hl)⟩

/-! ## Into the handler (R309, R314) -/

/-- What a thread's exception registers hold, and that it is in its handler. -/
def Thread.trapRegs (th : Thread) : Bool × Word × Word × DWord × Word := (th.inHandler, th.epc, th.ecause, th.eaddr, th.eseq)

theorem trapRegs_of_threads {tk : ℕ} (h : ∃ y : Thread, t.threads = put s.threads tk y ∧ y.trapRegs = (s.thread tk).trapRegs) (j : ℕ) :
    (t.thread j).trapRegs = (s.thread j).trapRegs := by
  obtain ⟨y, ht, hy⟩ := h
  rw [State.thread, ht, lookD_put]
  split
  · next hj => rw [hj, hy]
  · rfl

theorem trapRegs_enterBin (s : State) (tk j : ℕ) : ((s.enterBin tk).thread j).trapRegs = (s.thread j).trapRegs := by
  have hopen (u : State) : ((u.openBin tk).thread j).trapRegs = (u.thread j).trapRegs := by
    unfold State.openBin
    dsimp only
    split <;> exact trapRegs_of_threads (s := u) ⟨_, rfl, by rfl⟩ j
  unfold State.enterBin
  dsimp only
  split
  · exact hopen s
  · split
    · rfl
    · split
      · exact hopen _
      · exact trapRegs_of_threads (s := s) ⟨_, rfl, by rfl⟩ j

theorem thread_recordsWritten (s : State) (ts : List ℕ) (j : ℕ) : (s.recordsWritten ts).thread j = s.thread j := by
  have h : (s.recordsWritten ts).threads = s.threads := foldl_keeps State.threads (fun s _ => State.takeInjection_threads s _ _ _ _) ts s
  rw [State.thread, h, State.thread]

theorem floes_recordsWritten (s : State) (ts : List ℕ) : (s.recordsWritten ts).floes = s.floes := foldl_floes (fun s _ => State.takeInjection_floes s _ _ _ _) ts s

theorem trapRegs_park (s : State) (tk : ℕ) (cont : Word) (srec : Option ℕ) (j : ℕ) : ((s.park tk cont srec).thread j).trapRegs = (s.thread j).trapRegs := by
  unfold State.park
  rw [trapRegs_enterBin, thread_recordsWritten]
  exact trapRegs_of_threads (s := s) ⟨_, rfl, by rfl⟩ j

/-- The exception registers after an entry into the handler. -/
theorem trapRegs_callHandler (s : State) (t save : ℕ) (h : Word) (code addr coord idx rec j : ℕ) :
    ((s.callHandler t save h code addr coord idx rec).thread j).trapRegs =
      if j = t then (true, BitVec.ofNat 32 coord, BitVec.ofNat 32 code, BitVec.ofNat 64 addr, BitVec.ofNat 32 idx) else (s.thread j).trapRegs := by
  unfold State.callHandler
  rw [trapRegs_park, State.thread_modThread]
  split <;> rfl

theorem enterBin_floes (s : State) (tk : ℕ) : (s.enterBin tk).floes = s.floes := by
  unfold State.enterBin State.openBin
  dsimp only
  repeat' split
  all_goals rfl

theorem callHandler_floes (s : State) (t save : ℕ) (h : Word) (code addr coord idx rec : ℕ) : (s.callHandler t save h code addr coord idx rec).floes = s.floes := by
  unfold State.callHandler State.park
  rw [enterBin_floes, floes_recordsWritten]
  rfl

/-- One thread of a floe that goes to its handler: called where it trapped, waiting where not (R309). -/
def State.handOver (s : State) (islot : ℕ) (d : TrapDue) (rec : ℕ) (e : ℕ × ℕ) : State :=
  if d.lanes.contains e.1 then s.callHandler (threadKey islot e.1 e.2) (64 * islot + d.save) d.handler d.code d.addr d.coord d.idx rec
  else (s.modThread (threadKey islot e.1 e.2) fun th => { th with st := 3, save := d.save }).recordsWritten [threadKey islot e.1 e.2]

theorem handOver_floes (s : State) (islot : ℕ) (d : TrapDue) (rec : ℕ) (e : ℕ × ℕ) : (s.handOver islot d rec e).floes = s.floes := by
  unfold State.handOver
  split
  · exact callHandler_floes ..
  · exact floes_recordsWritten _ _

/-- What the exception registers of a trapping thread then hold (R314). -/
def TrapDue.regs (d : TrapDue) : Bool × Word × Word × DWord × Word :=
  (true, BitVec.ofNat 32 d.coord, BitVec.ofNat 32 d.code, BitVec.ofNat 64 d.addr, BitVec.ofNat 32 d.idx)

theorem trapRegs_handOver (s : State) (islot : ℕ) (d : TrapDue) (rec : ℕ) (e : ℕ × ℕ) (j : ℕ) :
    ((s.handOver islot d rec e).thread j).trapRegs =
      if j = threadKey islot e.1 e.2 ∧ e.1 ∈ d.lanes then d.regs else (s.thread j).trapRegs := by
  unfold State.handOver
  by_cases h : e.1 ∈ d.lanes
  · rw [if_pos (by simpa using h), trapRegs_callHandler]
    simp only [h, and_true]
    rfl
  · rw [if_neg (by simpa using h), if_neg fun hh => h hh.2, thread_recordsWritten]
    exact trapRegs_of_threads (s := s) ⟨_, rfl, by rfl⟩ j

/-- A floe that goes to its handler leaves its slot, and each trapping thread's registers hold the trap. -/
theorem toHandler_holds (h : s.Lanes k ls) (d : TrapDue) : (s.toHandler k d).floe? k = none ∧
    ∀ e ∈ ls, e.1 ∈ d.lanes → ((s.toHandler k d).thread (threadKey (islotOfFloe k) e.1 e.2)).trapRegs = d.regs := by
  obtain ⟨g, hg, rfl⟩ := h
  have he : ∃ (v : State) (rec : ℕ), s.toHandler k d = g.lanes.foldl (fun s e => s.handOver (islotOfFloe k) d rec e) v ∧ v.floe? k = none := by
    unfold State.toHandler
    rw [hg]
    exact ⟨_, _, rfl, look_del_same _ _⟩
  obtain ⟨v, rec, he, hv⟩ := he
  rw [he]
  constructor
  · exact (congrArg (look · k) (foldl_floes (fun s e => handOver_floes s _ _ _ e) _ _)).trans hv
  · intro e hm hl
    refine foldl_established (P := fun t : State => (t.thread (threadKey (islotOfFloe k) e.1 e.2)).trapRegs = d.regs) (fun t => ?_) (fun t e' ht => ?_) hm _
    · rw [trapRegs_handOver, if_pos ⟨rfl, hl⟩]
    · rw [trapRegs_handOver]
      split
      · rfl
      · exact ht

/-- A floe whose results are not all there waits with the trap in hand (R310). -/
theorem enterHandler_waits {d : TrapDue} (hf : s.floe? k = some f) (hd : f.trap = some d) (hp : f.pend.any (fun p => !p.ready) = true) :
    (s.enterHandler k).floe? k = some { f with wait := f.wait.trapped .trap } := by
  unfold State.enterHandler
  rw [hf]
  dsimp only
  rw [hd]
  dsimp only
  rw [if_pos hp]
  rw [modFloe_some hf, hd]

/-- With its results there, its log begun and nothing out that its commits began, it goes to its handler. -/
theorem enterHandler_goes {d : TrapDue} (hf : s.floe? k = some f) (hd : f.trap = some d) (hp : f.pend.any (fun p => !p.ready) = false)
    (hc : ((s.endWindows k).commit k).2 = none) (ho : ((s.endWindows k).commit k).1.deferredOut (f.bkey k) f.fid false = false) :
    s.enterHandler k = ((((s.endWindows k).commit k).1.detachAll k).dropResv k).toHandler k d := by
  unfold State.enterHandler
  rw [hf]
  dsimp only
  rw [hd]
  dsimp only
  rw [if_neg (by rw [hp]; exact Bool.false_ne_true), hc]
  dsimp only
  rw [if_neg (by rw [ho]; exact Bool.false_ne_true)]

/-! ## The end of a block (R309) -/

theorem foldl_grids {α : Type} {g : State → α → State} (hg : ∀ s a, (g s a).grids = s.grids) (l : List α) (s : State) : (l.foldl g s).grids = s.grids :=
  foldl_keeps State.grids hg l s

theorem addDue_grids (s : State) (bk code addr coord : ℕ) : (s.addDue bk code addr coord).grids = s.grids := (standing_addDue s bk code addr coord).grids

theorem gangCancel_grids (s : State) (m : Mma) : (s.gangCancel m).grids = s.grids := by
  refine foldl_grids (fun s p => ?_) _ _
  split
  · exact addDue_grids ..
  · rfl

theorem cancelMma_grids (s : State) (id : ℕ) (gang : Bool) : (s.cancelMma id gang).grids = s.grids := by
  unfold State.cancelMma
  split
  · rfl
  · extract_lets s₁ s₂ s₃
    have h₂ : s₂.grids = s₁.grids := by
      simp only [s₂]
      split
      · exact gangCancel_grids _ _
      · rfl
    rw [State.modFloe_grids]
    exact h₂

theorem dropPartners_grids (s : State) (c : Copy) (abort : Option (List (ℕ × ℕ × Bool))) : (s.dropPartners c abort).grids = s.grids := by
  refine foldl_grids (fun s t => ?_) _ _
  split
  · rfl
  · split
    · rfl
    · split
      · rfl
      · split
        · exact addDue_grids ..
        · cases abort <;> rfl

theorem cancelCopy_grids (s : State) (id : ℕ) (abort : Option (List (ℕ × ℕ × Bool))) : (s.cancelCopy id abort).grids = s.grids := by
  unfold State.cancelCopy
  split
  · rfl
  · exact dropPartners_grids ..

theorem openOverflow_standing (s : State) (q b : ℕ) : (s.openOverflow q b).grids = s.grids ∧ (s.openOverflow q b).blocks = s.blocks :=
  ⟨(readied_openOverflow s q b).grids, (readied_openOverflow s q b).blocks⟩

theorem fillBins_standing (s : State) (q : ℕ) : (s.fillBins q).grids = s.grids ∧ (s.fillBins q).blocks = s.blocks := by
  unfold State.fillBins
  split
  · refine List.foldlRecOn (motive := fun t : State => t.grids = s.grids ∧ t.blocks = s.blocks) _ _ ⟨rfl, rfl⟩ fun t ⟨hg, hb⟩ b _ => ?_
    split
    · exact ⟨(openOverflow_standing t q b).1.trans hg, (openOverflow_standing t q b).2.trans hb⟩
    · exact ⟨hg, hb⟩
  · exact ⟨rfl, rfl⟩

/-- A kill takes the block out, and leaves the grids. -/
theorem releaseBlock_kill (s : State) (bk : ℕ) : (s.releaseBlock bk .kill).grids = s.grids ∧ (s.releaseBlock bk .kill).block? bk = none := by
  unfold State.releaseBlock
  extract_lets core n b gang s₁ mine s₂ s₃ _ s₄
  have h₁ : s₁.grids = s.grids := foldl_grids (fun s id => by
    split
    · split
      · rfl
      · exact cancelMma_grids ..
    · rfl) _ _
  have h₂ : s₂.grids = s₁.grids := foldl_grids (fun s id => cancelCopy_grids ..) _ _
  have hfill : ((List.range 4).foldl (fun s i => s.fillBins (4 * core + i)) s₄).grids = s₄.grids ∧
      ((List.range 4).foldl (fun s i => s.fillBins (4 * core + i)) s₄).blocks = s₄.blocks :=
    ⟨foldl_grids (fun s i => (fillBins_standing s _).1) _ _, foldl_blocks (fun s i => (fillBins_standing s _).2) _ _⟩
  refine ⟨hfill.1.trans (h₂.trans h₁), ?_⟩
  exact (congrArg (look · bk) hfill.2).trans (look_del_same _ _)

theorem blockGone_grids (s : State) (bk : ℕ) : (s.blockGone bk).grids = s.grids := by
  unfold State.blockGone
  dsimp only
  repeat' split
  all_goals rfl

/-- What a grid counts of its blocks. -/
def Grid.counts (x : Grid) : ℕ × ℕ := (x.killed, x.done)

theorem counts_noteDone (s : State) (g : ℕ) : (s.noteDone.grid g).counts = (s.grid g).counts :=
  lookD_map_keeps (g := Grid.counts) (fun e => by split <;> exact ⟨rfl, rfl⟩) {} s.grids g

theorem noteDone_blocks (s : State) : s.noteDone.blocks = s.blocks := rfl

/-- A killed block is gone, and its grid counts it. -/
theorem killBlock_holds {b : Block} (hb : s.block? bk = some b) (hg : b.grid = gid) (hx : look s.grids gid = some x) :
    (s.killBlock bk).block? bk = none ∧ ((s.killBlock bk).grid gid).counts = (x.killed + 1, x.done + 1) := by
  unfold State.killBlock
  rw [hb]
  dsimp only
  rw [hg]
  obtain ⟨hgrids, hgone⟩ := releaseBlock_kill (s.blockGone bk) bk
  have hlook : look ((s.blockGone bk).releaseBlock bk .kill).grids gid = some x := by rw [hgrids, blockGone_grids, hx]
  have hmod := modGrid_some hlook fun x => { x with done := x.done + 1, killed := x.killed + 1, fallen := b.drift :: x.fallen }
  constructor
  · rw [State.block?, statWrite_blocks, noteDone_blocks, State.modGrid_blocks]
    exact hgone
  · rw [State.grid, State.statWrite_grids]
    refine (counts_noteDone _ gid).trans ?_
    rw [grid_of_look hmod]
    rfl

/-! ## The stop of a grid (R309) -/

theorem dropResv_grids (s : State) (k : ℕ) : (s.dropResv k).grids = s.grids := by
  unfold State.dropResv
  split
  · rfl
  · next f _ =>
    have hthreads : ((f.tkeys k).foldl (fun s t => if (s.thread t).resv.isSome then s.modThread t fun th => { th with resv := none } else s) s).grids =
        s.grids := foldl_grids (fun _ t => by split <;> rfl) _ _
    dsimp only
    split
    · rw [State.modFloe_grids, hthreads]
    · exact hthreads

theorem stopBlk_grids (s : State) (bk cause : ℕ) : (s.stopBlk bk cause).grids = s.grids := by
  have hcancel (u : State) : (u.cancelWaiting bk).grids = u.grids := by
    refine foldl_grids (fun s e => ?_) _ _
    exact (gangCancel_grids _ _).trans rfl
  unfold State.stopBlk
  dsimp only
  split
  · rw [foldl_grids (fun s k => dropResv_grids s k), State.modBlock_grids]
  · rw [hcancel, foldl_grids (fun s k => dropResv_grids s k), State.modBlock_grids]

theorem endStepByHalt_grids (s : State) (bk : ℕ) : (s.endStepByHalt bk).grids = s.grids := by
  unfold State.endStepByHalt
  split
  · rfl
  · exact (State.modBlock_grids ..).trans (foldl_grids (fun s c => stopBlk_grids s bk c) _ _)

/-- A grid that runs is on its way to STATE 3 once a trap stops it. -/
theorem stopByTrap_stopping (hg : (s.block bk).grid = gid) (hr : s.runs gid = true) : ((s.stopByTrap bk).grid gid).stopping = some (4, 3) := by
  obtain ⟨x, hx⟩ : ∃ x, look s.grids gid = some x := by
    simp only [State.runs, Bool.and_eq_true] at hr
    exact Option.isSome_iff_exists.1 hr.1.1
  have hmod := modGrid_some hx fun x => { x with stopping := some (4, 3), cause := 4 }
  unfold State.stopByTrap State.stopGrid State.stopGridAs
  extract_lets g u
  have hg' : g = gid := hg
  rw [hg', if_pos (.inl hr), if_pos hr, if_neg (by simp [State.haltWaits])]
  refine (congrArg Grid.stopping (grid_of_look (g := { x with stopping := some (4, 3), cause := 4 }) ?_)).trans rfl
  refine (congrArg (look · gid) (foldl_grids (fun s bk => ?_) _ _)).trans ?_
  · rw [stopBlk_grids, endStepByHalt_grids]
  · simp only [u, hg']
    exact hmod

/-! ## The entry (R309, R310) -/

/-- The record that a trap of a floe leaves, and the state with it. -/
def State.recorded (s : State) (k : ℕ) (f : Floe) (code : ℕ) (lanes : List ℕ) (addr : ℕ) : ℕ × State :=
  s.trapRecord (s.block (f.bkey k)).grid (s.trapBits (f.bkey k) (some (k, f)) code (maskOf lanes).toNat addr f.coord.toNat (s.policyOf k f lanes))

section

variable {code addr : ℕ} {lanes : List ℕ} (hf : s.floe? k = some f) (hw : s.handlerWaits (s.block (f.bkey k)).grid = false)
  (hm : s.stopMet (f.bkey k) = false)

include hf hw hm

theorem takeTrap_handler {sv : ℕ} (hp : s.policyOf k f lanes = 2) (hs : s.freeSave (islotOfFloe k) = some sv) :
    s.takeTrap k code lanes addr = State.enterHandler ((s.recorded k f code lanes addr).2.modFloe k fun f' => { f' with
      trap := some ⟨code, lanes, addr, f.coord.toNat, (s.recorded k f code lanes addr).1, sv, s.handlerOf (s.block (f.bkey k)).grid⟩ }) k := by
  unfold State.takeTrap State.takeTrapAt State.recorded
  rw [hf]
  simp only [hw, hp, hs, hm, Option.map_some, Option.getD_some, Bool.false_eq_true, if_false]

theorem takeTrap_kill (hp : s.policyOf k f lanes = 1) :
    s.takeTrap k code lanes addr = ((s.recorded k f code lanes addr).2.modFloe k fun f => { f with past := false }).killBlock (f.bkey k) := by
  unfold State.takeTrap State.takeTrapAt State.recorded
  rw [hf]
  simp only [hw, hp, hm, Option.map_some, Option.getD_some, Bool.false_eq_true, if_false]

theorem takeTrap_stop (hp : s.policyOf k f lanes = 0) : s.takeTrap k code lanes addr =
    ((s.recorded k f code lanes addr).2.modFloe k fun f' => { f' with past := false, trapAt := some f.coord.toNat }).stopByTrap (f.bkey k) := by
  unfold State.takeTrap State.takeTrapAt State.recorded
  rw [hf]
  simp only [hw, hp, hm, Option.map_some, Option.getD_some, Bool.false_eq_true, if_false]

end

theorem runs_of_grid (hx : look s.grids gid = some x) : s.runs gid = (decide (x.state ≤ 1 ∨ x.state = 6) && x.stopping.isNone) := by
  unfold State.runs
  rw [hx, grid_of_look hx]
  rfl

end

end Sys2Proof.Machine

/-! PROOF. PreciseTrapEntry: the policy and the record, then the entry by each policy. -/

namespace Sys2Proof.Machine

/-- Settles O37: the policy by its branches, the record field by field; the entry by each policy, a floe keeping its lanes (`State.Lanes`) until it goes
to its handler. -/
theorem preciseTrapEntry : Obligations.PreciseTrapEntry := by
  intro s k f code lanes addr hf bk g x pol t turned r
  have hb : (s.recorded k f code lanes addr).2.blocks = s.blocks := trapRecord_blocks ..
  have hfl : (s.recorded k f code lanes addr).2.floe? k = some f := (congrArg (look · k) (trapRecord_floes ..)).trans hf
  refine ⟨policyOf_tpol lanes, policyOf_kill lanes, policyOf_handler lanes, fun hc ha => ?_, fun hw hm => ⟨fun sv hp hs => ?_, fun hp hblk hgrid => ?_, fun hp hr => ?_⟩⟩
  · have h := trapBits_fields (s := s) (bk := bk) (pol := pol) (some (k, f)) f.coord (maskOf lanes).isLt ha hc
    rw [BitVec.ofNat_toNat, BitVec.setWidth_eq] at h
    exact h
  · intro d u
    have ht : t = u.enterHandler k := takeTrap_handler hf hw hm hp hs
    have hu : u.floe? k = some { f with trap := some d } := modFloe_some hfl _
    rw [ht]
    refine ⟨enterHandler_waits hu rfl, fun hpend hc ho => ?_⟩
    rw [enterHandler_goes hu rfl hpend hc ho]
    have hl : ((((u.endWindows k).commit k).1.detachAll k).dropResv k).Lanes k f.lanes :=
      lanes_detached (lanes_commit (lanes_endWindows ⟨_, hu, rfl⟩))
    obtain ⟨hgone, hregs⟩ := toHandler_holds hl d
    refine ⟨hgone, ?_⟩
    intro e he hel th
    obtain ⟨h1, h2⟩ := Prod.mk.inj (hregs e he hel)
    obtain ⟨h2, h3⟩ := Prod.mk.inj h2
    obtain ⟨h3, h4⟩ := Prod.mk.inj h3
    obtain ⟨h4, h5⟩ := Prod.mk.inj h4
    refine ⟨h1, h2.trans (by simp [d]), h3, h4, h5.trans ?_⟩
    have hi : r.1 = if x.ntrap < 255 then x.ntrap else 0xFFFFFFFF := trapRecord_index ..
    show BitVec.ofNat 32 r.1 = _
    rw [hi]
    split <;> rfl
  · obtain ⟨b, hb'⟩ := Option.isSome_iff_exists.1 hblk
    obtain ⟨y, hy⟩ := Option.isSome_iff_exists.1 hgrid
    obtain ⟨n, m, hrec⟩ := trapRecord_grid hy (s.trapBits bk (some (k, f)) code (maskOf lanes).toNat addr f.coord.toNat pol)
    have hbg : b.grid = g := by
      show b.grid = (s.block bk).grid
      rw [State.block, lookD, show look s.blocks bk = some b from hb']
      rfl
    have ht : t = _ := takeTrap_kill hf hw hm hp
    have hblock : ((s.recorded k f code lanes addr).2.modFloe k fun f => { f with past := false }).block? bk = some b := by
      rw [State.block?, State.modFloe_blocks, hb]
      exact hb'
    have hlook : look ((s.recorded k f code lanes addr).2.modFloe k fun f => { f with past := false }).grids g = some { y with ntrap := n, dropped := m } := by
      rw [State.modFloe_grids]
      exact hrec
    obtain ⟨hgone, hcounts⟩ := killBlock_holds hblock hbg hlook
    obtain ⟨hkilled, hdone⟩ := Prod.mk.inj hcounts
    have hxy : x = y := grid_of_look hy
    rw [ht, hxy]
    exact ⟨hgone, hkilled, hdone⟩
  · have ht : t = _ := takeTrap_stop hf hw hm hp
    obtain ⟨y, hy⟩ : ∃ y, look s.grids g = some y := by
      simp only [State.runs, Bool.and_eq_true] at hr
      exact Option.isSome_iff_exists.1 hr.1.1
    obtain ⟨n, m, hrec⟩ := trapRecord_grid hy (s.trapBits bk (some (k, f)) code (maskOf lanes).toNat addr f.coord.toNat pol)
    rw [ht]
    refine stopByTrap_stopping ?_ ?_
    · rw [State.block, State.modFloe_blocks, hb]
      rfl
    · rw [runs_of_grid hy] at hr
      refine (runs_of_grid (x := { y with ntrap := n, dropped := m }) ?_).trans hr
      rw [State.modFloe_grids]
      exact hrec

end Sys2Proof.Machine
end

section
/-! SUPPORT. Translation events (R322 to R324, R332 to R334): walks and the TLBs, groups of page requests and their answers, ATS, invalidations. -/

namespace Sys2Proof.Machine

section

variable {s : State}

/-! ## Walks and the TLBs (R64, R322) -/

section

variable {c : CoreId} {ctx va leaf size : ℕ} {w : Bool}

/-- A walk that reaches a leaf fills the TLB with it. -/
theorem exec_tlbWalkComplete (hw : s.walk ctx va w = .ok leaf size) (hl : (if w then none else s.lateAt (CoreId.key c) ctx va) = none) :
    exec (.tlbWalkComplete c ctx va w) s = .next (s.tlbFill (CoreId.key c) ctx va leaf size) := by
  show execTlbWalkComplete c ctx va w s = _
  rw [execTlbWalkComplete, hw]
  dsimp only
  rw [hl]

/-- A load that waits for the walk then goes on. -/
theorem exec_tlbWalkComplete_late {k : ℕ} {l : Late} (hw : s.walk ctx va w = .ok leaf size)
    (hl : (if w then none else s.lateAt (CoreId.key c) ctx va) = some (k, l)) :
    exec (.tlbWalkComplete c ctx va w) s = .next (((s.tlbFill (CoreId.key c) ctx va leaf size).walkLate k l).settleDue 64) := by
  show execTlbWalkComplete c ctx va w s = _
  rw [execTlbWalkComplete, hw]
  dsimp only
  rw [hl]

theorem tlbPut_tlb (s : State) (core : ℕ) (e : TlbEnt) :
    (s.tlbPut core e).tlb = tlbRoom (1024 + dieOf core) 16385 (tlbRoom core 512 s.tlb) ++ [(core, e)] := by
  rw [State.tlbPut, State.takeInjection_tlb]

theorem bits_ofNat_leaf (leaf : ℕ) {h l : ℕ} (hh : h < 64) (hl : l ≤ h) : bits (BitVec.ofNat 64 leaf).toNat h l = bits leaf h l := by
  rw [bits, bits, BitVec.toNat_ofNat]
  have e : 64 = l + (64 - l) := by omega
  rw [e, Nat.pow_add, Nat.mod_mul_right_div_self, Nat.mod_mod_of_dvd _ (Nat.pow_dvd_pow 2 (by omega))]

/-- A present leaf that fills the TLB then hits. -/
theorem tlbFill_hit (s : State) (core ctx va leaf size : ℕ) (hp : bits leaf 0 0 = 1) (hs : size ≠ 0) :
    ((s.tlbFill core ctx va leaf size).tlbHit core ctx va (bits leaf 3 3 == 1)).isSome = true := by
  unfold State.tlbFill
  split
  · next h => exact h
  · unfold State.tlbHit
    rw [Option.isSome_map, List.find?_isSome, tlbPut_tlb]
    refine ⟨_, List.mem_append_right _ (List.mem_singleton.2 rfl), ?_⟩
    have hlo : va / size * size ≤ va := Nat.div_mul_le_self va size
    have hhi : va < va / size * size + size := Nat.lt_div_mul_add (Nat.pos_of_ne_zero hs)
    rw [bits_ofNat_leaf leaf (by decide) (by decide), bits_ofNat_leaf leaf (by decide) (by decide), hp]
    cases hw : (bits leaf 3 3 == 1) <;> simp [hlo, hhi]

end

/-! ## Groups of page requests and their answers (R332, R333) -/

/-- Messages sent one after the other lie newest first. -/
theorem foldl_send {α : Type} (m : α → Msg) (l : List α) (s : State) :
    l.foldl (fun s e => s.send (m e)) s = { s with outbox := (l.map m).reverse ++ s.outbox } := by
  induction l generalizing s with
  | nil => rfl
  | cons e l ih =>
    rw [List.foldl_cons, ih]
    simp [State.send]

theorem exec_pageRequestGroupSend {die ctx prg : ℕ} (hp : s.pkg.priStop = false) (hd : die < 8) (hc : ctx < 64) (hf : s.groupFits (s.dueGroup die ctx) = true)
    (hb : s.dieBehind die = false)
    (hg : (List.range 512).find? (fun i => !(s.fpages.filterMap fun p => if s.ctxPasid p.ctx = s.ctxPasid ctx then p.prg else none).contains i) = some prg) :
    ∃ t, exec (.pageRequestGroupSend die ctx) s = .next t ∧ t.pkg.priLast = die ∧
      t.fpages = s.fpages.map (fun p => if (s.dueGroup die ctx).contains p then { p with prg := some prg } else p) ∧
      t.outbox = ((s.dueGroup die ctx).zipIdx.map fun e => Msg.pageRequest (s.ctxPasid ctx) (e.1.base / 4096) e.1.write prg
        (decide (e.2 + 1 = (s.dueGroup die ctx).length))).reverse ++ s.outbox := by
  have hn : ¬ (s.pkg.priStop = true ∨ 8 ≤ die ∨ 64 ≤ ctx ∨ (!s.groupFits (s.dueGroup die ctx)) = true ∨ s.dieBehind die = true) := by
    rw [hp, hf, hb]
    simp
    omega
  show ∃ t, execPageRequestGroupSend die ctx s = .next t ∧ _
  rw [execPageRequestGroupSend]
  dsimp only
  rw [if_neg hn, hg]
  dsimp only
  rw [foldl_send]
  exact ⟨_, rfl, rfl, rfl, rfl⟩

theorem exec_prgResponse {pasid : BitVec 20} {prg : ℕ} {resp : PrgResp} {p : FPage} {ps : List FPage}
    (h : s.fpages.filter (fun p => p.prg == some prg && s.ctxPasid p.ctx == pasid) = p :: ps) :
    let ans : List PKey := (p :: ps).map fun p => (p.ctx, p.base, p.write)
    let u : State := { s with fpages := s.fpages.filter fun p => !(p.prg == some prg && s.ctxPasid p.ctx == pasid) }
    exec (.prgResponse pasid prg resp) s = .next ((match resp with
      | .success => (u.pagesGood p.die ans).keepAnswer p.ctx p.die ans 0 0
      | .invalid => (u.pagesBad p.die ans 0x001B 0x8008).keepAnswer p.ctx p.die ans 0x001B 0x8008
      | .failure => ({ u with pkg := { u.pkg with priStop := true } }.pagesBad p.die ans 0x001A 0x8009).keepAnswer p.ctx p.die ans 0x001A 0x8009).noteDone.settleDue 64) := by
  intro ans u
  show execPrgResponse pasid prg resp s = _
  rw [execPrgResponse]
  dsimp only
  rw [h] <;> cases resp <;> rfl

theorem exec_prgResponse_none {pasid : BitVec 20} {prg : ℕ} {resp : PrgResp} (h : ∀ p ∈ s.fpages, p.prg ≠ some prg ∨ s.ctxPasid p.ctx ≠ pasid) :
    exec (.prgResponse pasid prg resp) s = .next s := by
  have hn : s.fpages.filter (fun p => p.prg == some prg && s.ctxPasid p.ctx == pasid) = [] :=
    List.filter_eq_nil_iff.2 fun p hp => by simpa [imp_iff_not_or] using h p hp
  show execPrgResponse pasid prg resp s = _
  rw [execPrgResponse]
  dsimp only
  rw [hn]

/-! ## Requeued tasks (R334) -/

section

variable {n : ℕ} {t : Task} (ht : s.tasks[n]? = some t) (hd : t.doomed = false) (hf : t.failed = false)

include ht hd hf

theorem exec_taskReplace_held (h : t.pages ≠ [] ∨ t.ops ≠ []) : exec (.taskReplace n) s = .next s := by
  show execTaskReplace n s = _
  rw [execTaskReplace, ht]
  simp only [hd, hf, Bool.false_eq_true, if_false]
  exact if_pos (h.imp_right Or.inl)

theorem exec_taskReplace_starts {u : State} {bk : ℕ} (hp : t.pages = []) (ho : t.ops = []) (hm : s.mayPlace t.grid = true)
    (hl : s.pkg.live.getLsbD (dieOf t.core) = true) (hr : s.roomOn (s.grid t.grid) t.core = true)
    (hs : ({ s with tasks := s.tasks.eraseIdx n } : State).startBlock t.grid t.core t.index t.drift t.drf t.clusBase t.recs = some (u, bk)) :
    exec (.taskReplace n) s = .next u ∧ bk / 32 = t.core := by
  refine ⟨?_, (startBlock_block hs).1⟩
  show execTaskReplace n s = _
  rw [execTaskReplace, ht]
  simp only [hd, hf, Bool.false_eq_true, if_false]
  refine (if_neg (by rw [hp, ho, hm, hl, hr]; simp)).trans ?_
  rw [hs]

end

/-! ## ATS (R324) -/

section

variable {c : CoreId} {ctx va frame size : ℕ} {r w : Bool}

/-- Pages asked for that a completion at `va` answers. -/
def askedIn (c : CoreId) (ctx va size : ℕ) (q : ℕ × ℕ × ℕ) : Bool :=
  q.1 == CoreId.key c && q.2.1 == ctx && decide (va / size * size < 4096 * q.2.2 + 4096 ∧ 4096 * q.2.2 < va / size * size + size)

theorem exec_atsTranslationCompletion (hs : size ≠ 0) (ha : s.atsOut.any (askedIn c ctx va size) = true) (hw : s.walk ctx va false = .ats) :
    exec (.atsTranslationCompletion c ctx va frame size r w) s =
      .next ((({ s with atsOut := s.atsOut.filter fun q => !askedIn c ctx va size q } : State).tlbPut (CoreId.key c) (TlbEnt.mk ctx (va / size * size) size
        (BitVec.ofNat 64 (2 ^ 63 + bits frame 62 8 * 256 + (if w then 8 else 0) + 2 + (if r then 1 else 0))))).flushDev) := by
  have hw' : ({ s with atsOut := s.atsOut.filter fun q => !askedIn c ctx va size q } : State).walk ctx va false = .ats := hw
  have hn : ¬ (!s.atsOut.any (askedIn c ctx va size)) = true := by rw [ha]; exact Bool.false_ne_true
  unfold askedIn at hw' hn ⊢
  show execAtsTranslationCompletion c ctx va frame size r w s = _
  rw [execAtsTranslationCompletion]
  dsimp only
  rw [if_neg hs, if_neg hn, hw']

theorem exec_atsTranslationCompletion_unasked (hs : size ≠ 0) (ha : s.atsOut.any (askedIn c ctx va size) = false) :
    exec (.atsTranslationCompletion c ctx va frame size r w) s = .next s :=
  (if_neg hs).trans (if_pos (by rw [Bool.not_eq_true']; exact ha))

end

theorem exec_atsInvalidateRequest {pasid : BitVec 20} {va size c : ℕ} (h : (List.range 64).find? (fun c => s.ctxVal c && s.ctxPasid c == pasid) = some c) :
    exec (.atsInvalidateRequest pasid va size) s = .next { s with invals := s.invals ++ [{ ctx := c, range := some (va, va + size), ats := true }] } := by
  show execAtsInvalidateRequest pasid va size s = _
  rw [execAtsInvalidateRequest, h]

theorem exec_atsInvalidateRequest_none {pasid : BitVec 20} {va size : ℕ} (h : ∀ c, c < 64 → s.ctxVal c = true → s.ctxPasid c ≠ pasid) :
    exec (.atsInvalidateRequest pasid va size) s = .next (s.send (.invalidateCompletion pasid)) := by
  have hn : (List.range 64).find? (fun c => s.ctxVal c && s.ctxPasid c == pasid) = none :=
    List.find?_eq_none.2 fun c hc => by simpa using h c (List.mem_range.1 hc)
  show execAtsInvalidateRequest pasid va size s = _
  rw [execAtsInvalidateRequest, hn]

/-! ## Invalidations (R323) -/

section

variable {i : Inval}

/-- What an invalidation leaves in the TLBs. -/
def State.dropLeaves (s : State) (i : Inval) : State :=
  { s with tlb := s.tlb.filter fun e => !(e.2.ctx == i.ctx && Machine.inRange i.range e.2.base e.2.size) }

variable (hf : ∀ e ∈ s.floes, s.coveredFloe i.ctx i.range e = false) (hs : ∀ x ∈ s.saved, x.ctx ≠ i.ctx)

include hf hs

theorem commitCovered_dropLeaves : (s.dropLeaves i).commitCovered i.ctx i.range = s.dropLeaves i := by
  have h1 : (s.dropLeaves i).floes.filter ((s.dropLeaves i).coveredFloe i.ctx i.range) = [] :=
    List.filter_eq_nil_iff.2 fun e he => by
      show ¬ s.coveredFloe i.ctx i.range e = true
      rw [hf e he]
      exact Bool.false_ne_true
  have h2 : (s.dropLeaves i).saved.filter (·.ctx == i.ctx) = [] :=
    List.filter_eq_nil_iff.2 fun x hx => by simpa using hs x hx
  unfold State.commitCovered
  dsimp only
  rw [h2, h1]
  rfl

theorem logsCovered_dropLeaves : (s.dropLeaves i).logsCovered i.ctx i.range = false := by
  unfold State.logsCovered
  rw [Bool.or_eq_false_iff]
  constructor
  · exact List.any_eq_false.2 fun e he => by
      show ¬ s.coveredFloe i.ctx i.range e = true
      rw [hf e he]
      exact Bool.false_ne_true
  · exact List.any_eq_false.2 fun x hx => by simp [hs x hx]

/-- What the completion of an invalidation makes of the state, when no log and no preempted save is in question. -/
theorem exec_invalidationComplete {n : ℕ} (hi : s.invals[n]? = some i) : exec (.invalidationComplete n) s =
    let v : State := State.releaseCmd { s.dropLeaves i with invals := s.invals.eraseIdx n } i.floe
    let w : State := if i.host then v.endHostCmd 0 else v
    if s.net.any (fun e => e.2.ctx == i.ctx && !e.2.performed && inRange i.range e.2.va e.2.n) then .next ((s.dropLeaves i).settleDue 64)
    else .next ((if i.ats then w.send (.invalidateCompletion (w.ctxPasid i.ctx)) else w).settleDue 64) := by
  show execInvalidationComplete n s = _
  rw [execInvalidationComplete, hi]
  dsimp only
  have hc := commitCovered_dropLeaves hf hs
  unfold State.dropLeaves at hc
  rw [hc]
  have hl := logsCovered_dropLeaves hf hs
  unfold State.dropLeaves at hl
  rw [hl, Bool.false_or]
  rfl

end

end

end Sys2Proof.Machine

/-! PROOF. TranslationEvents: clause by clause, from the lemmas on walks, groups of page requests, ATS and invalidations. -/

namespace Sys2Proof.Machine

/-- Settles O49: each event by its outcome; an invalidation that covers no log commits nothing (`commitCovered_dropLeaves`). -/
theorem translationEvents : Obligations.TranslationEvents := by
  refine ⟨fun c ctx va leaf size w s hw => ?walk, fun die ctx prg s => exec_pageRequestGroupSend, ?answer,
    fun pasid prg resp s => exec_prgResponse_none, fun n bk s u t ht hd hf hp ho hm hl hr hs => exec_taskReplace_starts ht hd hf hp ho hm hl hr hs, fun n s t => exec_taskReplace_held,
    fun c ctx va frame size r w s hs => ⟨exec_atsTranslationCompletion hs, exec_atsTranslationCompletion_unasked hs⟩,
    fun pasid va size s => ⟨fun c => exec_atsInvalidateRequest, exec_atsInvalidateRequest_none⟩, fun n s i hi hf hs => ?inval⟩
  case answer =>
    intro pasid prg resp s p ps mine h
    exact exec_prgResponse h
  case walk =>
    intro t h
    exact ⟨exec_tlbWalkComplete hw, fun k l => exec_tlbWalkComplete_late hw, tlbPut_tlb s _, tlbFill_hit s _ ctx va leaf size⟩
  case inval =>
    intro u v w
    have hx := exec_invalidationComplete hf hs hi
    constructor
    · rintro ⟨e, he, hc, hp, hr⟩
      rw [hx]
      exact if_pos (List.any_eq_true.2 ⟨e, he, by rw [hc, hp, hr]; simp⟩)
    · intro h
      rw [hx]
      refine if_neg (by
        rw [Bool.not_eq_true, List.any_eq_false]
        intro e he hx
        simp only [Bool.and_eq_true, beq_iff_eq, Bool.not_eq_true'] at hx
        obtain ⟨⟨hc, hp⟩, hr⟩ := hx
        rcases h e he hc with h | h
        · rw [hp] at h
          cases h
        · rw [hr] at h
          cases h)

end Sys2Proof.Machine
end
